-- ==== Sys2Proof/Word.lean ====
section
/-!
DEFINITION. Word.lean: the word types of the manual (R8, R9), fixed tables, and sparse keyed data in one
canonical form. Nothing here knows of the RLK1600; it is the plainest data the model is built from.
-/
namespace Sys2Proof

/-- A register or Granary word: 32 bits (R9). -/
abbrev Word := BitVec 32
/-- One byte of an addressed memory. -/
abbrev Byte := BitVec 8

/-- A fixed number of like things: `n` cells, indexed by `Fin n`. -/
structure Tab (n : Nat) (α : Type) where
  /-- the cells in index order -/
  cells : List α
  /-- there are exactly `n` -/
  size : cells.length = n
  deriving DecidableEq, Repr

namespace Tab
variable {n : Nat} {α β : Type}

/-- `n` equal cells. -/
def fill (n : Nat) (a : α) : Tab n α := ⟨List.replicate n a, List.length_replicate⟩

/-- The cell at an index. -/
def get (t : Tab n α) (i : Fin n) : α := t.cells[i.val]'(by rw [t.size]; exact i.isLt)

/-- Replace one cell. -/
def set (t : Tab n α) (i : Fin n) (a : α) : Tab n α := ⟨t.cells.set i.val a, by simp [t.size]⟩

/-- Apply a function to one cell. -/
def upd (t : Tab n α) (i : Fin n) (f : α → α) : Tab n α := t.set i (f (t.get i))

/-- Apply a function to every cell. -/
def map (f : α → β) (t : Tab n α) : Tab n β := ⟨t.cells.map f, by simp [t.size]⟩

/-- Apply a function of index and cell to every cell. -/
def mapIdx (f : Nat → α → β) (t : Tab n α) : Tab n β := ⟨t.cells.mapIdx f, by simp [t.size]⟩

/-- The cell at a number, or a default beyond the end. -/
def getD (t : Tab n α) (i : Nat) (d : α) : α := t.cells.getD i d

@[simp] theorem get_set_same (t : Tab n α) (i : Fin n) (a : α) : (t.set i a).get i = a := by
  simp [get, set]

theorem get_set_ne (t : Tab n α) (i j : Fin n) (a : α) (h : i ≠ j) : (t.set i a).get j = t.get j := by
  simp [get, set, List.getElem_set_ne (fun e => h (Fin.ext e))]

@[simp] theorem get_upd_same (t : Tab n α) (i : Fin n) (f : α → α) : (t.upd i f).get i = f (t.get i) := by
  simp [upd]

theorem get_upd_ne (t : Tab n α) (i j : Fin n) (f : α → α) (h : i ≠ j) : (t.upd i f).get j = t.get j := by
  simp [upd, get_set_ne t i j _ h]

@[simp] theorem get_map (f : α → β) (t : Tab n α) (i : Fin n) : (t.map f).get i = f (t.get i) := by
  simp [get, map]

@[simp] theorem get_mapIdx (f : Nat → α → β) (t : Tab n α) (i : Fin n) :
    (t.mapIdx f).get i = f i.val (t.get i) := by
  simp [get, mapIdx]

@[simp] theorem get_fill (a : α) (i : Fin n) : (fill n a).get i = a := by
  simp [get, fill]

end Tab

/-! Sparse data by key: a list of key and value pairs with strictly rising keys, in which no pair holds the
value that an unlisted key reads as (`d`). -/

/-- Pairs of a key and a value. -/
abbrev Sparse (α : Type) := List (Nat × α)

namespace Sparse
variable {α : Type}

/-- The value at a key: the listed one, or what an unlisted key reads as. -/
def get (d : Nat → α) : Sparse α → Nat → α
  | [], k => d k
  | (k', v) :: t, k => if k = k' then v else get d t k

/-- List a value at a key, in its place. -/
def insert (k : Nat) (v : α) : Sparse α → Sparse α
  | [] => [(k, v)]
  | (k', v') :: t =>
    if k < k' then (k, v) :: (k', v') :: t
    else if k = k' then (k, v) :: t
    else (k', v') :: insert k v t

/-- Take a key out of the list, wherever it stands. -/
def erase (k : Nat) : Sparse α → Sparse α
  | [] => []
  | (k', v') :: t => if k = k' then erase k t else (k', v') :: erase k t

/-- Write a value at a key; the value an unlisted key reads as removes the pair. -/
def put [DecidableEq α] (d : Nat → α) (m : Sparse α) (k : Nat) (v : α) : Sparse α :=
  if v = d k then erase k m else insert k v m

/-- Every key of the list is above a bound. -/
def above (b : Nat) : Sparse α → Bool
  | [] => true
  | (k, _) :: _ => decide (b < k)

/-- The canonical form: keys strictly rising, no pair equal to what an unlisted key reads as. -/
def wf [DecidableEq α] (d : Nat → α) : Sparse α → Bool
  | [] => true
  | (k, v) :: t => decide (v ≠ d k) && above k t && wf d t

end Sparse

end Sys2Proof
end

