-- ==== Sys2Proof/Syntax.lean ====
section
/-!
DEFINITION. Syntax.lean: the commands of the RLK1600, one constructor per row of spec/opcode_table.json in the
table's order, and the types of their operands.
-/
namespace Sys2Proof

/-- A Field Half: 0 is A, 1 is B. -/
abbrev HalfIx := Fin 2
/-- A local channel, 0-15 (R79). -/
abbrev ChIx := Fin 16
/-- A Binder pair, 0-3 (R256). -/
abbrev PairIx := Fin 4
/-- A Crib, 0-31 (R312). -/
abbrev CribIx := Fin 32
/-- A check-value unit, 0-3. -/
abbrev UnitIx := Fin 4
/-- A Binder register W0-W15 (R256). -/
abbrev RegIx := BitVec 4

/-- What a piece of Binder work took: its cycles as engine A counts them (R533), that is issue and entry cycles, load latency and
issue limit, slots held by the commit drain, and the cycles of an EMIT beyond its first; the single-bit errors of program and
data memory corrected meanwhile (R287); and how many of the cycles lie before the last boundary, for a tine that began before it. -/
structure Slots where
  issue : Nat := 0
  grn : Nat := 0
  shd : Nat := 0
  crib : Nat := 0
  corr : Nat := 0
  issue0 : Nat := 0
  grn0 : Nat := 0
  shd0 : Nat := 0
  crib0 : Nat := 0
  deriving DecidableEq, Repr

/-- All cycles of a piece of work. -/
def Slots.total (x : Slots) : Nat := x.issue + x.grn + x.shd + x.crib

/-- The cycles before the last boundary. -/
def Slots.early (x : Slots) : Slots :=
  { issue := min x.issue x.issue0, grn := min x.grn x.grn0, shd := min x.shd x.shd0, crib := min x.crib x.crib0 }

/-- The cycles of two parts together. -/
def Slots.plus (x y : Slots) : Slots :=
  { issue := x.issue + y.issue, grn := x.grn + y.grn, shd := x.shd + y.shd, crib := x.crib + y.crib }

/-- The cycles of the rest. -/
def Slots.minus (x y : Slots) : Slots :=
  { issue := x.issue - y.issue, grn := x.grn - y.grn, shd := x.shd - y.shd, crib := x.crib - y.crib }

/-- Raw results of one modulator for one stook: precision path, fast path, fast secondary sub-stream; an overload in
either direction at any MCLK cycle (R145, R163). -/
structure ModRaw where
  prec : Int := 0
  fast : Int := 0
  sec : Int := 0
  high : Bool := false
  low : Bool := false
  deriving DecidableEq, Repr

/-- What a fast window of one channel yields (R140): raw primary and secondary results of its modulator and their
overload, the IO voltage on the threshold path in mV, the sink current in µA, whether the current limit is engaged, and
whether an input clamp carries more than 5 mA. -/
structure ChSample where
  raw : ModRaw := {}
  io : Int := 0
  sink : Nat := 0
  limit : Bool := false
  clamp : Bool := false
  deriving DecidableEq, Repr

/-- What a fast window yields: the channels 0-15, the spare slices of A and B, VFIELD in mV and total output current in
mA of A and B. -/
structure WinSample where
  chans : List ChSample := []
  spares : List ModRaw := []
  vfield : List Nat := []
  total : List Nat := []
  deriving DecidableEq, Repr

/-- What a stook yields: the modulators of channels 0-15, the spare slices of A and B, and the internal quantity each
spare measures, in the units of R192. -/
structure StookRaw where
  chans : List ModRaw := []
  spares : List ModRaw := []
  ints : List Int := []
  deriving DecidableEq, Repr

/-- An alarm strap over the two phases of its reading (R545, R554): the pad in mV at the end of the source phase and of the sink phase,
and whether it changed between them. -/
structure AlmPhases where
  source : Nat := 0
  sink : Nat := 0
  changed : Bool := false
  deriving DecidableEq, Repr

/-- The straps at their latch: MODE[1:0], and YROLE high (R323, R544). -/
structure Straps where
  mode : Fin 4 := 0
  follower : Bool := false
  deriving DecidableEq, Repr

/-- The flash as power-on finds it (R324, R325, R507): a device answers SFDP, it meets the requirements, its size in MiB,
it declares program and erase suspend, its maximum page program time in µs; the records of the two boot record sectors in order, and the words of slots A and B. -/
structure FlashIn where
  found : Bool := true
  supported : Bool := true
  mib : Nat := 16
  suspend : Bool := true
  pageUs : Nat := 100
  records : List (List Word) := []
  slotA : List Word := []
  slotB : List Word := []
  deriving DecidableEq, Repr

/-- A transaction header as it arrives, but for the opcode, which the command names (R356): reserved bits [55:51], SNAP,
INC, SEAL, COUNT, ADDR, CRC8; with SEAL the seal word and the seal CRC word that follow it (R352, R396). `stray`: a reserved code of
R359 that stands in the place of the command's own opcode; no command presents one otherwise. `cut`: HSEL_N rises in the device part of
a transaction that is no read of registers, and whether the device's seal word had been sent by then (R372, R374, R397). -/
structure HostHdr where
  rsv : BitVec 5 := 0
  snap : Bool := false
  inc : Bool := true
  isSealed : Bool := false
  count : BitVec 16 := 1
  addr : BitVec 24 := 0
  crc : BitVec 8 := 0
  sealWord : BitVec 32 := 0
  sealCrc : BitVec 32 := 0
  stray : Option (BitVec 8) := none
  cut : Option Bool := none
  deriving DecidableEq, Repr

/-- COUNT of a header. -/
def HostHdr.n (h : HostHdr) : Nat := h.count.toNat

/-- What the fetch of a READ, POP or SNAP meets: errors of the Granary by host address, true for an uncorrectable one (R300, R302),
the ticks from its end to the last bit of the device part, or to the rise of HSEL_N that cuts it off (R373, R374), those to the last
bit of the device's seal word, and for a cut whether that word had been sent by then (R397). -/
structure Fetch where
  ecc : List (BitVec 24 × Bool) := []
  ticks : Nat := 0
  sealTicks : Nat := 0
  cut : Option Bool := none
  deriving DecidableEq, Repr

/-- What the scrub finds in its word: 0 nothing, 1 a corrected error, 2 an uncorrectable one (R301); and the errors that reads of
other blocks have met since, by host address, true for an uncorrectable one (R300, R302). -/
structure Scrub where
  found : Fin 3
  met : List (BitVec 24 × Bool) := []
  deriving DecidableEq, Repr

/-- What the sensors that no signal shows have read in an hour (R495), in 0.01 °C: the logic die, as lengths of time in ticks and the
temperature in each, and the junctions of each channel in the order of their readings. -/
structure Ageing where
  logic : List (Nat × Int) := []
  junctions : List (List Int) := []
  deriving DecidableEq, Repr

/-- The commands of the RLK1600: one constructor per row of the table, in its order. A command is what the world outside the
model does to the device, or an event of the device's own at the instant at which it falls (log entry 8). -/
inductive Instr where
  /-- POWER_ON (R55): VIN rises past the power-on threshold; counters start at zero, the PLL locks and boot begins. -/
  | powerOn (st : Straps) (flash : Option FlashIn)
  /-- VIN_LOSS (R3): Loss of VIN puts the device in OFF, with the field dies holding their safe states. -/
  | vinLoss
  /-- RST_N (R52): RST_N asserts and releases; the logic die resets outside the Cellar while the PLL and boundaries
  run on, then boot follows. -/
  | rstN (st : Straps) (cellarOk : Bool)
  /-- TEST_N_LOW (R546): TEST_N low holds the logic die in reset; after release the device enters HALTED with reason
  0x0E. -/
  | testNLow (st : Straps) (cellarOk : Bool)
  /-- BOOT_COMPLETE (R340): Boot finishes reading and verifying the image, loads the tables and field dies, and enters
  SAFE or HALTED. -/
  | bootComplete
  /-- MEMBER_IMAGE_VERIFY (R341): A flashless member verifies a delivered image and reaches SAFE, or discards the
  image and waits. -/
  | memberImageVerify
  /-- CLK_FAIL (R53): The monitor oscillator finds the root off by more than 1 % or the PLL unlocked; CLK_FAIL is
  raised and downlink frames stop. -/
  | clkFail (pllLost : Bool)
  /-- CORE_BOR (R528): The core brows out under the LP-limit regulator; the retention store is lost and the device
  reboots. -/
  | coreBor (cellarOk : Bool)
  /-- PFAIL_ASSERT (R507): PFAIL_N asserts; PFAIL is raised, erases and signatures stop, and the backlog is
  programmed. -/
  | pfailAssert
  /-- PFAIL_DEASSERT (R507): PFAIL_N deasserts without a loss of VIN, and journaling resumes. -/
  | pfailDeassert
  /-- SWATH_BOUNDARY (R57): The tick count of the swath expires; boundary B(n) starts swath n and fixes its length. -/
  | swathBoundary (r : StookRaw)
  /-- DORMANT_COUNT (R59): In Dormant each root/512 count adds 1,024 to the tick counter and counts any boundary that
  is due. -/
  | dormantCount
  /-- SYNC_EDGE (R66): An active SYNC_IN edge is timestamped and classified, then used or ignored by the phase loop.
  -/
  | syncEdge (stamp width960 : Nat) (falling : Bool)
  /-- SYNC_MISSING_EDGE (R69): A capture window or halfway point passes with no edge; the edge counts as missing and
  may move the loop to FREERUN. -/
  | syncMissingEdge
  /-- SYNC_CTRL_WRITE (R65): A host write of SYNC_CTRL takes effect at the next boundary; a change of SRC or POL
  restarts the loop in ACQUIRE. -/
  | syncCtrlWrite (v : Word)
  /-- RECFG_COMMIT (R28): Key 0xC5 in SYS_RECFG_CTRL commits the staged set with its target stook and starts the
  check. -/
  | recfgCommit (length : BitVec 16)
  /-- RECFG_CANCEL (R27): Key 0xCA cancels a set in CHECKING or PENDING, with reason 0x20. -/
  | recfgCancel
  /-- RECFG_CHECK_DONE (R28): The check of a committed set ends with PENDING, or REJECTED with a reason. -/
  | recfgCheckDone
  /-- FAST_WINDOW_CLOSE (R140): A fast window closes and yields one normalised fast sample per channel. -/
  | fastWindowClose (k : Nat) (w : WinSample)
  /-- THRESH_END (R143): Thresh completes; channel and internal entries, banks and change stamps are written. -/
  | threshEnd
  /-- THR_AT_CLEAR (R160): Key 0xC1 clears the all-time extremes at the next boundary. -/
  | thrAtClear (c : ChIx)
  /-- REFBUF_EN_WRITE (R153): A host write of THR_REF.REFBUF_EN switches the precision buffer in Full mode at the next
  boundary. -/
  | refbufEnWrite (h : HalfIx) (v : Word)
  /-- SEQ_ENTRY_START (R185): The next sequencer entry starts at the first stook boundary after its predecessor's end
  plus DELAY. -/
  | seqEntryStart (h : HalfIx)
  /-- SHADOW_VERDICT (R177): 5 µs after a boundary, the shadow comparison of spare and channel is judged, or repeated
  if unjudged. -/
  | shadowVerdict (h : HalfIx)
  /-- STEP4_VERDICT (R179): The step-4 verdict decides a hand back, a repeat of the calibration, or CAL_FAIL. -/
  | step4Verdict (h : HalfIx)
  /-- SEQ_GO (R187): A SEQ_GO write requests a run of the test section, latches it as pending, or counts it as lost.
  -/
  | seqGo (h : HalfIx)
  /-- SPR_PARK_END (R179): Key 0x3E in SPR_CTRL ends a park and resumes the sequencer. -/
  | sprParkEnd (h : HalfIx)
  /-- TDAC_CHECK (R189): A DAC stook result is compared with ARG × 65,536, and TDAC_FAIL is raised on a deviation. -/
  | tdacCheck (h : HalfIx)
  /-- FP_CAPTURE_DONE (R196): A capture completes its 256 samples; features and flags are formed and passed to the
  Service Record. -/
  | fpCaptureDone (c : ChIx)
  /-- FP_HOLD_FEATURES (R197): After HOLD_DELAY, V_hold and I_hold give R_hot and R20. -/
  | fpHoldFeatures (c : ChIx)
  /-- DO_CURRENT_LIMIT (R91): Switch current reaches ILIM and the limit engages. -/
  | doCurrentLimit (c : ChIx)
  /-- CH_OVERLOAD (R92): The overload timer (or the 200 ms at 1.5 A) expires; the switch opens and latches or enters
  backoff. -/
  | chOverload (c : ChIx) (above1A5 : Bool)
  /-- RETRY_ATTEMPT (R92): A backoff ends and the switch closes again for retry attempt k. -/
  | retryAttempt (c : ChIx)
  /-- ATTEMPT_COUNT_RESET (R92): The switch stays closed 10 s without the limit engaging and the attempt count returns
  to 0. -/
  | attemptCountReset (c : ChIx)
  /-- LATCH_RELEASE (R93): A write of 1 to CHn_FLAGS.LATCHED releases the overload latch from the next boundary. -/
  | latchRelease (c : ChIx)
  /-- CH_OVERTEMP (R94): The junction reaches 175 °C; the switch opens and HOT is set. -/
  | chOvertemp (c : ChIx)
  /-- THERMAL_RECOVERY (R94): The junction cools below 150 °C and the switch follows its command again. -/
  | thermalRecovery (c : ChIx)
  /-- CH_CLAMP_ENERGY (R95): A clamp ends with an estimated energy above 0.5 J. -/
  | chClampEnergy (c : ChIx)
  /-- SHUNT_OPEN (R97): AI-I or AI-LOOP current reaches 30 mA and the shunt opens. -/
  | shuntOpen (c : ChIx)
  /-- SHUNT_RECONNECT (R97): 10 ms after opening, the shunt reconnects through the limiter and tests the source. -/
  | shuntReconnect (c : ChIx) (uA : Nat)
  /-- LOOP_SUPPLY_LIMIT (R98): The loop supply limit stays active longer than T_OVL; CH_OVERLOAD is raised. -/
  | loopSupplyLimit (c : ChIx)
  /-- CH_HEADROOM (R99): AO-I headroom stays below 1.2 V for 10 ms, or VFIELD falls below 16 V. -/
  | chHeadroom (c : ChIx)
  /-- CH_SENSE (R100): The AO-V sense line counts as broken and the output regulates locally. -/
  | chSense (c : ChIx)
  /-- REMOTE_SENSE_RESTORE (R100): The IO–RTN difference stays below 0.2 V for 100 ms and remote sense resumes. -/
  | remoteSenseRestore (c : ChIx)
  /-- AO_V_DISCONNECT (R100): IO is held above 12 V from outside and the AO-V stage disconnects. -/
  | aoVDisconnect (c : ChIx)
  /-- AO_V_RECONNECT (R100): IO stays below 11 V for 10 ms and the AO-V stage reconnects. -/
  | aoVReconnect (c : ChIx)
  /-- CH_AO_DEV (R101): AO readback differs from the command by more than 1 % of FS for 10 ms. -/
  | chAoDev (c : ChIx)
  /-- ALM_READ (R545): Every 1 ms the field die sources and sinks on ALM and decodes the strap. -/
  | almRead (h : HalfIx) (r : AlmPhases)
  /-- PULSE_EDGE (R105): A PULSE edge is counted and timestamped, or raises CH_EDGE_LOST beyond two per frame. -/
  | pulseEdge (c : ChIx) (rising : Bool)
  /-- RETURN_SWITCH_OPEN (R82): The 60 mA return limit is active for 1 ms; the return switch opens and CH_SHORT_VF is
  raised. -/
  | returnSwitchOpen (c : ChIx)
  /-- RETURN_SWITCH_CLOSE (R82): RTN stays below 2 V for 10 ms and the return switch closes. -/
  | returnSwitchClose (c : ChIx)
  /-- CH_OPEN (R108): An open-wire condition holds for OW_TIME; CH_OPEN is raised and OPEN set. -/
  | chOpen (c : ChIx)
  /-- CH_SHORT_VF (R108): A short-to-supply condition holds for OW_TIME; CH_SHORT_VF is raised and SHORT set. -/
  | chShortVf (c : ChIx)
  /-- CH_STUCK_ON (R108): A switch commanded open carries more than 20 mA for 1 ms. -/
  | chStuckOn (c : ChIx)
  /-- CH_STUCK_OFF (R108): A closed, unprotected switch reads back 0 for 1 ms with the gate closed. -/
  | chStuckOff (c : ChIx)
  /-- OFF_STATE_OPEN_TEST (R109): Every 10 ms, 100 µA is applied for 1 ms to an open switch and the test is judged. -/
  | offStateOpenTest (c : ChIx) (failed : Bool)
  /-- DARK_PULSE (R111): At tick 2,496 of a due swath, the field die opens a closed switch for DP_WIDTH, or skips the
  pulse. -/
  | darkPulse (c : ChIx)
  /-- DARK_PULSE_VERDICT (R113): The pulse ends; it passes or fails, and the cross-short partner is identified. -/
  | darkPulseVerdict (c : ChIx) (yoke : Option (Fin 16))
  /-- DARK_PULSE_ABORT (R116): A command change, safe state, low VFIELD or the limit aborts a running pulse. -/
  | darkPulseAbort (c : ChIx)
  /-- SUPPLY_HIGH (R118): VFIELD stays above 33.0 V for 1 ms. -/
  | supplyHigh (h : HalfIx)
  /-- SUPPLY_LOW (R118): VFIELD stays below 19.2 V for 1 ms; SUPPLY quality is set. -/
  | supplyLow (h : HalfIx)
  /-- TESTS_SUSPENDED (R118): VFIELD stays below 16.0 V for 1 ms; open tests and dark pulses are suspended. -/
  | testsSuspended (h : HalfIx)
  /-- SUPPLY_CONDITION_END (R118): VFIELD passes back over a threshold for 10 ms and that supply condition ends. -/
  | supplyConditionEnd (h : HalfIx) (which : Fin 3)
  /-- SUPPLY_UV (R118): VFIELD stays below 11.0 V for 50 µs; every output goes safe and the latch is set. -/
  | supplyUv (h : HalfIx)
  /-- UV_RECOVERY (R119): After 20 ms above 13.0 V with UV_AUTO, the latch ends at the next boundary. -/
  | uvRecovery (h : HalfIx)
  /-- UV_REARM (R119): Key 0xA5 in FH_CTRL ends a SUPPLY_UV latch after recovery, or is dropped. -/
  | uvRearm (h : HalfIx)
  /-- FIELD_DIE_RESET (R118): VFIELD falls below 8.0 V and the field die resets. -/
  | fieldDieReset (h : HalfIx)
  /-- FIELD_RESET (R132): Key 0x5F in FH_CTRL re-initialises the field die of a safe half. -/
  | fieldReset (h : HalfIx)
  /-- FIELD_RESTART (R120): The field die returns after a re-initialisation, holds channels unloaded and raises
  FIELD_RESTART. -/
  | fieldRestart (h : HalfIx)
  /-- FIELD_RELOAD (R127): The logic side completes reloading the configuration and safe-state table of a restarted
  half. -/
  | fieldReload (h : HalfIx)
  /-- GATE_FAIL (R123): The output rail breaches its limit for 2 ms with the gate closed or open. -/
  | gateFail (h : HalfIx)
  /-- HALF_OVERCURRENT (R124): Total output current exceeds 8 A for 100 ms or 12 A for 1 ms. -/
  | halfOvercurrent (h : HalfIx)
  /-- GDRV_OPEN (R125): GDRV in COIL mode draws below 5 mA when on for 50 ms. -/
  | gdrvOpen (h : HalfIx)
  /-- GDRV_SHORT (R125): The GDRV limit or drive-level error persists for 1 ms. -/
  | gdrvShort (h : HalfIx)
  /-- GDRV_FB (R126): The mirror contact fails to be the inverse of GDRV within FB_TIME. -/
  | gdrvFb (h : HalfIx)
  /-- HOLD_EXPIRY (R128): HOLD_MS runs out and a HOLD safe state goes to OFF. -/
  | holdExpiry (c : ChIx)
  /-- DOWNLINK_FRAME (R206): The field die receives a downlink frame, validates it and applies its commands at the
  next slot start. -/
  | downlinkFrame (h : HalfIx) (slot : Nat) (rx : Option (List Word))
  /-- MB_WRITE (R208): Mailbox op 1 writes field-die parameter words. -/
  | mbWrite (h : HalfIx) (seq : BitVec 8) (addr : BitVec 16) (ws : List Word)
  /-- MB_READ (R208): Mailbox op 2 reads field-die parameter words into a mailbox return. -/
  | mbRead (h : HalfIx) (seq : BitVec 8) (addr : BitVec 16)
  /-- MB_COMMIT_TABLE (R213): Mailbox op 3 commits the safe-state table and checks it against word 18. -/
  | mbCommitTable (h : HalfIx) (seq : BitVec 8)
  /-- MB_SPARE_INPUT (R173): Mailbox op 4 sets the spare input for the next stook boundary. -/
  | mbSpareInput (h : HalfIx) (seq : BitVec 8) (input : Word)
  /-- UPLINK_FRAME (R209): The logic die receives an uplink frame with samples and status and validates it. -/
  | uplinkFrame (h : HalfIx) (slot : Option Nat) (rx : Option (List Word))
  /-- DOWNLINK_TIMEOUT (R214): The field die's count of slots without a valid frame reaches TIMEOUT; the half goes
  safe. -/
  | downlinkTimeout (h : HalfIx)
  /-- UPLINK_TIMEOUT (R217): The logic die's count reaches TIMEOUT; LINK_LOSS is raised and SAFE is sent. -/
  | uplinkTimeout (h : HalfIx)
  /-- VALIDATION_END (R237): Validation of a pair ends; the lowest matching tine is committed or the pair evaluates on
  real inputs. -/
  | validationEnd (p : PairIx) (front : Nat) (cut : Slots)
  /-- VALIDATION_ABANDON (R236): Validation not done by tick 960 is abandoned; all tines become chaff. -/
  | validationAbandon (p : PairIx) (front : Nat) (cut : Slots)
  /-- TINE_END (R231): A run-ahead tine for the next swath ends and the next tine starts. -/
  | tineEnd (p : PairIx) (x : Slots)
  /-- REAL_EVALUATION_END (R238): A real evaluation or post part ends and the pair's result is ready. -/
  | realEvaluationEnd (p : PairIx) (x : Slots)
  /-- BUDGET_OVERRUN (R241): The evaluation budget runs out; nothing is committed and the swath is suspended. -/
  | budgetOverrun (p : PairIx) (x : Slots)
  /-- END (R280): END ends the sheaf. -/
  | bEnd (p : PairIx)
  /-- NOP (R265): NOP does nothing. -/
  | bNop (p : PairIx)
  /-- MOVI (R265): MOVI loads a sign-extended immediate. -/
  | bMovi (p : PairIx) (d : RegIx) (imm : BitVec 18)
  /-- MOVH (R265): MOVH sets the high half of a register. -/
  | bMovh (p : PairIx) (d : RegIx) (imm : BitVec 16)
  /-- ALU (R266): ALU applies function F to two registers and sets the flags. -/
  | bAlu (p : PairIx) (d a b : RegIx) (f : BitVec 4)
  /-- ALUI (R266): ALUI applies function F to a register and an immediate. -/
  | bAlui (p : PairIx) (d a : RegIx) (f : BitVec 4) (imm : BitVec 14)
  /-- CMP (R267): CMP sets the flags from comparing two registers. -/
  | bCmp (p : PairIx) (a b : RegIx)
  /-- CMPI (R267): CMPI sets the flags from comparing a register with an immediate. -/
  | bCmpi (p : PairIx) (a : RegIx) (imm : BitVec 18)
  /-- SEL (R265): SEL selects one of two registers by condition. -/
  | bSel (p : PairIx) (d a b : RegIx) (k : BitVec 4)
  /-- SETC (R265): SETC writes 1 or 0 by condition. -/
  | bSetc (p : PairIx) (d : RegIx) (k : BitVec 4)
  /-- RDS (R272): RDS returns a swath-grid value. -/
  | bRds (p : PairIx) (d : RegIx) (sel : BitVec 4)
  /-- LDS (R268): LDS loads the state bit of an entry. -/
  | bLds (p : PairIx) (d a : RegIx) (x : BitVec 1) (idx : BitVec 17)
  /-- LDQ (R268): LDQ loads word 1 of an entry. -/
  | bLdq (p : PairIx) (d a : RegIx) (x : BitVec 1) (idx : BitVec 17)
  /-- LDV (R268): LDV loads the value word of an entry. -/
  | bLdv (p : PairIx) (d : RegIx) (idx : BitVec 17)
  /-- LDW (R268): LDW loads word 2–7 of an entry. -/
  | bLdw (p : PairIx) (d : RegIx) (w : BitVec 3) (idx : BitVec 17)
  /-- LDB (R263): LDB loads the band index of an entry against a band table. -/
  | bLdb (p : PairIx) (d : RegIx) (t : BitVec 5) (idx : BitVec 17)
  /-- LDK (R268): LDK loads a bank register. -/
  | bLdk (p : PairIx) (d : RegIx) (ch : BitVec 5) (f : BitVec 6)
  /-- STS (R270): STS stores a derived signal into the commit set. -/
  | bSts (p : PairIx) (r q : RegIx) (qe : BitVec 1) (idx : BitVec 17)
  /-- STSX (R270): STSX stores an indexed signal; out-of-run stores are dropped with SIG_OWNER. -/
  | bStsx (p : PairIx) (r a q : RegIx) (qe : BitVec 1) (off : BitVec 13)
  /-- LDD (R271): LDD loads a data-memory word. -/
  | bLdd (p : PairIx) (d a : RegIx) (x : BitVec 1) (off : BitVec 12)
  /-- STD (R271): STD stores a data-memory word. -/
  | bStd (p : PairIx) (r a : RegIx) (x : BitVec 1) (off : BitVec 12)
  /-- BR (R265): BR branches forward if the condition holds. -/
  | bBr (p : PairIx) (k : BitVec 4) (off : BitVec 14)
  /-- CALL (R265): CALL pushes the return address and jumps. -/
  | bCall (p : PairIx) (t : BitVec 14)
  /-- RET (R265): RET pops the return address. -/
  | bRet (p : PairIx)
  /-- LOOP (R265): LOOP runs the next LEN instructions N times. -/
  | bLoop (p : PairIx) (n : BitVec 12) (len : BitVec 14)
  /-- LOOPR (R265): LOOPR runs the body a clamped register count of times. -/
  | bLoopr (p : PairIx) (a : RegIx) (max : BitVec 10) (len : BitVec 12)
  /-- TON (R274): TON runs an on-delay timer. -/
  | bTon (p : PairIx) (d a b : RegIx) (t : BitVec 10)
  /-- TOF (R274): TOF runs an off-delay timer. -/
  | bTof (p : PairIx) (d a b : RegIx) (t : BitVec 10)
  /-- TP (R274): TP runs a pulse timer. -/
  | bTp (p : PairIx) (d a b : RegIx) (t : BitVec 10)
  /-- EDG (R276): EDG detects rising and falling edges against a data-memory cell. -/
  | bEdg (p : PairIx) (d a : RegIx) (addr : BitVec 12)
  /-- DSC (R277): DSC runs a dual-channel discrepancy monitor and may hold DISCREPANCY. -/
  | bDsc (p : PairIx) (d a b q : RegIx) (t : BitVec 8) (m fe : BitVec 1)
  /-- EMIT (R278): EMIT writes one entry to a Crib at commit. -/
  | bEmit (p : PairIx) (k : BitVec 5) (r : RegIx)
  /-- CHK (R279): CHK records a roll-call check-in. -/
  | bChk (p : PairIx) (t : BitVec 5)
  /-- LOCKSTEP (R286): An engine mismatch stops and blocks the pair and sends SAFE to its channels. -/
  | lockstep (p : PairIx) (cause pc sheaf : Nat) (x : Slots)
  /-- BINDER_FAULT (R287): An uncorrectable memory error or a reserved opcode blocks the pair. -/
  | binderFault (p : PairIx) (cause pc sheaf : Nat) (x : Slots)
  /-- BND_HALT (R289): Debug key 0x48 halts the pair at the next boundary. -/
  | bndHalt (p : PairIx)
  /-- BND_RESUME (R289): Key 0x52 resumes a halted pair at the next boundary. -/
  | bndResume (p : PairIx)
  /-- BND_STEP (R290): Key 0x53 executes one instruction in both engines of a halted pair. -/
  | bndStep (p : PairIx)
  /-- BREAKPOINT_HIT (R290): An evaluation reaches an enabled breakpoint and the pair halts. -/
  | breakpointHit (p : PairIx)
  /-- SCRUB_SLOT (R301): The scrub reads and corrects one Granary word in an Others slot. -/
  | scrubSlot (x : Scrub)
  /-- COMMISSION (R335): Key 0x6B in SYS_COMMISSION starts fusing the key hashes. -/
  | commission
  /-- COMMISSION_DONE (R335): Fusing ends with readback and STATE DONE or FAILED. -/
  | commissionDone (ok : Bool)
  /-- STAGE_OPEN (R342): Key 0x11 appends REVERT if needed and starts erasing the other slot. -/
  | stageOpen
  /-- STAGE_ERASE_DONE (R342): The slot erase completes and STAGE_STATUS reads OPEN. -/
  | stageEraseDone
  /-- STAGE_CHECK (R342): Key 0x22 starts verifying the staged boot and class images. -/
  | stageCheck
  /-- STAGE_CHECK_DONE (R342): The staged check ends VERIFIED or FAILED. -/
  | stageCheckDone
  /-- STAGE_ACTIVATE (R342): Key 0x33 appends ACTIVATE for a verified slot. -/
  | stageActivate
  /-- STAGE_CONFIRM (R342): Key 0x44 appends CONFIRM for the running trial. -/
  | stageConfirm
  /-- ROLLBACK_RAISE (R336): Key 0x9C blows fuses to raise the rollback counter to the running SVN. -/
  | rollbackRaise
  /-- ARM_REQUEST (R343): Key 0xA7 in SYS_ARM requests arming of the named halves. -/
  | armRequest (mask : BitVec 2)
  /-- ARMING (R343): At the next boundary the arming request is judged and the halves armed or the request refused. -/
  | arming
  /-- STATUS (R360): The STATUS opcode returns identity, state, swath and last error. -/
  | status (h : HostHdr)
  /-- READ (R311): The READ opcode fetches a coherent snapshot and returns it. -/
  | read (h : HostHdr) (f : Fetch)
  /-- WRITE (R372): The WRITE opcode applies all its effects at completion. -/
  | write (h : HostHdr) (ws : List Word)
  /-- STAMP_WRITE (R375): The STAMP_WRITE opcode is judged and queued for its target boundary. -/
  | stampWrite (h : HostHdr) (stamp : BitVec 64) (ws : List Word)
  /-- STAMP_DEPOSIT (R376): A queued stamped write is deposited as a pending copy when Thresh ends before its target.
  -/
  | stampDeposit
  /-- POP (R362): The POP opcode pops whole entries from a host-consumed Crib. -/
  | pop (h : HostHdr) (f : Fetch)
  /-- SNAP (R361): The SNAP opcode returns data from the next input image with a stamp pair. -/
  | snap (h : HostHdr) (f : Fetch)
  /-- NVM_STAGE (R363): The NVM_STAGE opcode writes staging data to the slot. -/
  | nvmStage (h : HostHdr) (ws : List Word)
  /-- ATTEST (R364): The ATTEST opcode queues an attestation request with a nonce. -/
  | attest (h : HostHdr) (ws : List Word)
  /-- FORCE (R366): In bench mode, FORCE holds entries at forced values from the next boundary. -/
  | force (h : HostHdr) (ws : List Word)
  /-- RELEASE (R366): RELEASE ends forces on entries. -/
  | release (h : HostHdr)
  /-- TRANSACTION_ABANDON (R374): HSEL_N rises before completion; the transaction is abandoned. -/
  | transactionAbandon
  /-- HP_CFG_WRITE (R348): A write of HP_CFG changes lane mode and flow from the next HSEL_N fall. -/
  | hpCfgWrite (v : Word)
  /-- MEMBER_COMMAND_BALE (R383): At the HSEL_N rise a member takes its command bale and judges it as a stamped write.
  -/
  | memberCommandBale (bits : List Bool)
  /-- DELIVERY_NOP (R420): Class 0x00 command NOP does nothing. -/
  | deliveryNop
  /-- DELIVERY_DATA (R420): DATA delivers 28 image words at the expected offset. -/
  | deliveryData (offset : BitVec 19) (ws : List Word)
  /-- DELIVERY_DONE (R420): DONE starts verification of the delivered image. -/
  | deliveryDone (length : BitVec 19)
  /-- DELIVERY_ABORT (R420): ABORT returns the member to WAITING at offset 0. -/
  | deliveryAbort
  /-- CVU_SCAN_START (R393): A scan of a Granary region starts on a boundary. -/
  | cvuScanStart (u : UnitIx)
  /-- CVU_SCAN_PUBLISH (R394): The scan result is published at B(s + d) and checked. -/
  | cvuScanPublish (u : UnitIx)
  /-- CVU_SCAN_KEY (R395): Key 0x5C in CVU_CTRL starts a scan at the next boundary. -/
  | cvuScanKey (u : UnitIx)
  /-- CVU_SESSION_WRITE (R398): A sealed write of CVU_SESSION sets a new session identifier. -/
  | cvuSessionWrite (u : UnitIx) (id : Word) (isSealed : Bool)
  /-- GLEANER_SCAN_START (R409): A scheduled scan of a segment starts at its fixed start tick. -/
  | gleanerScanStart (k : Fin 32) (grdy : Bool)
  /-- SCAN_LANDING (R421): The scan completes and each bale is judged. -/
  | scanLanding (k : Fin 32) (bs : List Bool) (strobe : Fin 3) (ecc : Option Nat)
  /-- FOLD_BLOCK (R422): A fold block writes member values as pending copies. -/
  | foldBlock (k : Fin 32) (blk ticks : Nat)
  /-- CLASS_IMAGE_READ (R426): The head reads a class image from flash and checks its digest. -/
  | classImageRead (k : Fin 32) (pos : Nat)
  /-- YOKE_FRAME (R432): A Yoke link frame is received and validated. -/
  | yokeFrame (slot : Nat) (rx : Option (List Word)) (arrive : Nat)
  /-- YBEAT_EDGE (R433): A heartbeat edge is received and judged as a sign of life. -/
  | ybeatEdge
  /-- JOIN_START (R436): A join starts with HELLO. -/
  | joinStart
  /-- JOIN_TIMEOUT (R437): A join not ended within 40 swaths is refused. -/
  | joinTimeout
  /-- JOIN_RETRY (R436): Key 0x4A in YK_CTRL retries a refused join. -/
  | joinRetry
  /-- SHARE_TEST (R448): The STANDBY device drives a share test in its pulse slot. -/
  | shareTest (c : ChIx)
  /-- YFLT_LOW (R446): YFLT_N is low for 8 µs. -/
  | yfltLow
  /-- SIGN_OF_LIFE_LOSS (R446): No sign of life for 250 µs raises YOKE_LOST. -/
  | signOfLifeLoss
  /-- ACTIVE_YFLT_ASSERT (R449): The ACTIVE device asserts YFLT_N after safe halves or 248 µs. -/
  | activeYfltAssert
  /-- YOKE_TAKEOVER (R450): A READY STANDBY device releases and becomes ACTIVE. -/
  | yokeTakeover
  /-- FAULT_MESSAGE (R457): A fault message reaches the Fault Collector and its reaction is applied. -/
  | faultMessage (follower : Option (Fin 8)) (src : BitVec 8) (kind : BitVec 6) (addr : BitVec 12)
  /-- RESET_REACTION (R468): After 8 slots of ARMED = 0 the device resets and boots. -/
  | resetReaction (cellarOk : Bool)
  /-- FC_CLEAR_CHANNELS (R466): Key 0xC7 clears the selected channel reaction latches. -/
  | fcClearChannels (mask : BitVec 16)
  /-- FC_CLEAR_HALVES (R466): Key 0xC7 clears the selected half pending marks. -/
  | fcClearHalves (mask : BitVec 2)
  /-- FC_CLEAR_FIRST (R460): Key 0xC7 with FIRST clears the first-fault registers. -/
  | fcClearFirst
  /-- FAULT_INJECT (R470): Key 0xF5 queues a message for injection. -/
  | faultInject
  /-- WDG_SERVICE (R475): 0x5EED to WDG_KICK is judged as a service. -/
  | wdgService (isSealed : Bool)
  /-- WDG_DISABLE_START (R477): 0xD15A starts a disable sequence. -/
  | wdgDisableStart (isSealed : Bool)
  /-- WDG_DISABLE (R477): 0xB1ED completes the disable sequence. -/
  | wdgDisable (isSealed : Bool)
  /-- WDG_DISABLE_TIMEOUT (R477): 64 ticks pass after 0xD15A and the sequence fails. -/
  | wdgDisableTimeout
  /-- WDG_ENABLE (R477): 0xE4AB enables the watchdog. -/
  | wdgEnable (isSealed : Bool)
  /-- WDG_LOCK (R478): 0x10CC sets WDG_LOCK. -/
  | wdgLock (isSealed : Bool)
  /-- WDG_KEY (R477): Any other word raises WDG_KEY. -/
  | wdgKey (w : BitVec 16) (isSealed : Bool)
  /-- WDG_CLOSE_EDGE (R475): A watchdog window closes; WDG_LATE if unserved. -/
  | wdgCloseEdge
  /-- OPEN (R487): OPEN starts a service session and returns a challenge. -/
  | srOpen (h : HostHdr) (low : BitVec 24) (ws : List Word)
  /-- AUTH (R487): AUTH authenticates the session. -/
  | srAuth (h : HostHdr) (low : BitVec 24) (ws : List Word)
  /-- REGISTER (R489): REGISTER binds a part to a slot. -/
  | srRegister (h : HostHdr) (low : BitVec 24) (ws : List Word)
  /-- RETIRE (R489): RETIRE frees a slot. -/
  | srRetire (h : HostHdr) (low : BitVec 24) (ws : List Word)
  /-- READ_SLOT (R487): READ_SLOT returns a slot's registers. -/
  | srReadSlot (h : HostHdr) (low : BitVec 24) (ws : List Word)
  /-- ACCEPT (R489): ACCEPT clears the doubt of a slot. -/
  | srAccept (h : HostHdr) (low : BitVec 24) (ws : List Word)
  /-- CLOSE (R488): CLOSE ends the session. -/
  | srClose (h : HostHdr) (low : BitVec 24) (ws : List Word)
  /-- SESSION_TIMEOUT (R488): 60 s without a message ends the session. -/
  | sessionTimeout
  /-- SERVICE_UNLOCK (R488): After 3,600 s the OPEN lock ends. -/
  | serviceUnlock
  /-- HOURLY_PASS (R495): The hourly pass updates wear and ageing models. -/
  | hourlyPass (a : Ageing)
  /-- PAGE_PROGRAM (R499): A page of staged records is programmed into flash. -/
  | pageProgram (ok : Bool)
  /-- BLOCK_SEAL (R498): A journal block closes and is sealed. -/
  | blockSeal
  /-- TREE_GENERATION (R503): Generation of the next bottom tree completes. -/
  | treeGeneration
  /-- SLOT_ERASE (R500): A journal block slot is erased. -/
  | slotErase (ok : Bool)
  /-- TOKEN_GAIN (R505): The attestation bucket gains a token. -/
  | tokenGain
  /-- ATTEST_REPORT_READY (R505): The attestation report is signed and READY. -/
  | attestReportReady
  /-- SR_WIN_JOURNAL (R500): SR_WIN_SEL source 1 starts a journal window fetch. -/
  | srWinJournal (off : BitVec 28)
  /-- SR_WIN_REPORT (R505): SR_WIN_SEL source 2 starts a report window fetch. -/
  | srWinReport (off : BitVec 28)
  /-- WINDOW_READY (R500): A window fetch completes. -/
  | windowReady
  /-- POWER_REQUEST (R523): A PWR_TARGET write makes a request. -/
  | powerRequest (v : Word)
  /-- REQUEST_JUDGE (R524): A request is judged and entered or refused. -/
  | requestJudge
  /-- WAKE_HOST (R526): A PWR_TARGET write with STATE 0 wakes the device. -/
  | wakeHost (level : Fin 4)
  /-- WAKE_PIN (R526): A WAKE rising edge held 10 µs wakes the device. -/
  | wakePin
  /-- WAKE_DI (R526): A selected DI change wakes the device. -/
  | wakeDi (c : ChIx)
  /-- WAKE_HSEL (R526): HSEL_N falling wakes the device from Dormant. -/
  | wakeHsel
  /-- WAKE_ALARM (R526): A boundary equal to PWR_WAKE_AT wakes the device. -/
  | wakeAlarm
  /-- WAKE_READY (R527): The domains become ready after a wake. -/
  | wakeReady (cellarOk : Bool)
  /-- LOGIC_HOT (R532): The logic die exceeds 120 °C for 1 ms. -/
  | logicHot
  /-- PC_FREEZE (R538): Key 0xF0 freezes the counters. -/
  | pcFreeze
  /-- PC_RUN (R538): Key 0xF1 resumes counting. -/
  | pcRun
  /-- PC_SNAPSHOT (R538): Key 0x5A copies the counters to the snapshot bank. -/
  | pcSnapshot
  /-- PC_CLEAR (R538): Key 0xC0 clears the counters. -/
  | pcClear
  /-- REGISTER_WRITE (R13): A write to a register without behaviour of its own follows its access code. -/
  | registerWrite (a : BitVec 24) (v : Word)
  /-- FULL_SLOT_END (R214): A full Barn Door slot ends; on each side the count of consecutive slots without a valid
  frame advances unless a valid frame arrived. -/
  | fullSlotEnd (h : HalfIx) (slot : Nat)
  /-- LINK_TRAINED (R202): Barn Door link training ends and the link leaves idle symbols for frames (BD_STATUS.LINK
  from TRAINING to UP). -/
  | linkTrained (h : HalfIx)
  /-- SHARE_TEST_VERDICT (R448): DP_WIDTH after a Stand-in share test starts, the STANDBY switch opens and the test is
  judged on its current, raising STANDIN_TEST on a failure. -/
  | shareTestVerdict (c : ChIx)
  /-- SHUNT_OPEN_OVERLOAD (R97): The AI-I or AI-LOOP shunt has stayed open longer than T_OVL and CH_OVERLOAD is raised
  with LIMIT. -/
  | shuntOpenOverload (c : ChIx)
  /-- MEMBER_BALE_LOAD (R380): In member mode a falling HSEL_N loads the prepared response bale into the shift
  register, or a BUSY bale if it is not ready, and clears the retimer. -/
  | memberBaleLoad
  /-- STAGE_PROGRAM_DONE (R363): The flash finishes programming the data of a staged transaction, or finds a program
  failure that sets STAGE_STATUS to FAILED with reason 0x0D. -/
  | stageProgramDone (ok : Bool)
  /-- LOGIC_COOLED (R532): The logic die falls below 110 °C and LOGIC_HOT may be raised again. -/
  | logicCooled
  /-- VIO_LEVEL_CHANGE (R548): VIO is removed, restored or crosses 2.5 V, changing HP_CFG.VIO_HIGH and the behaviour
  of the VIO-referenced pads. -/
  | vioLevelChange (mv : Nat)
  deriving DecidableEq, Repr

end Sys2Proof
end

