-- ==== Sys2Proof/Decode.lean ====
section
/-!
DEFINITION. Decode.lean: the commands that a table word spells. No row of spec/opcode_table.json gives a command any bits
(every row's field list is empty): the device decodes no command word of its own. What its own blocks decode stands with
them: Binder words in Machine/BinderCode.lean, transaction headers in Machine/Host.lean, bales in Machine/Gleaner.lean.
-/
namespace Sys2Proof

/-- The command that a word of `nbits` bits spells: none, since no row has bits. -/
def decodeTableWord (_nbits _w : Nat) : Option Instr := none

end Sys2Proof
end

