-- ==== Sys2Proof/Machine/Bits.lean ====
section
/-!
DEFINITION. Machine/Bits.lean: bit fields of a word, saturating and rounding arithmetic, byte order, and the two
checksums of the manual. Each follows one rule, named beside it.
-/
namespace Sys2Proof.Machine

/-- The bits [hi:lo] of a word as a number (R8: both ends included). -/
def wbits (w : Word) (hi lo : Nat) : Nat := (w.toNat >>> lo) % 2 ^ (hi - lo + 1)

/-- A number placed at bits [hi:lo] of an otherwise unchanged word. -/
def wput (w : Word) (hi lo v : Nat) : Word :=
  (w &&& ~~~((BitVec.ofNat 32 (2 ^ (hi - lo + 1) - 1)) <<< lo))
    ||| (BitVec.ofNat 32 (v % 2 ^ (hi - lo + 1)) <<< lo)

/-- One bit of a word. -/
def wbit (w : Word) (i : Nat) : Bool := w.getLsbD i

/-- A Boolean as the number 0 or 1. -/
def b2n (b : Bool) : Nat := if b then 1 else 0

/-- A number kept at or below a ceiling: the saturating counters of the manual. -/
def sat (ceil n : Nat) : Nat := min n ceil

/-- An integer as the low 32 bits of its two's complement. -/
def wInt (i : Int) : Word := BitVec.ofInt 32 i

/-- An integer clipped to the closed range [lo, hi]. -/
def clampInt (lo hi i : Int) : Int := max lo (min hi i)

/-- Floor of (n / d + 1/2): round half up, the rounding the manual writes as floor(x + 1/2). -/
def roundDiv (n : Int) (d : Int) : Int := (2 * n + d) / (2 * d)

/-- The word as a signed number. -/
def sgn (w : Word) : Int := w.toInt

/-- The low `n` bits of a number as a signed number of `n` bits. -/
def sx (n v : Nat) : Int := (BitVec.ofNat n v).toInt

/-- An integer as an unsigned field of `n` bits (two's complement). -/
def uOf (n : Nat) (i : Int) : Nat := (BitVec.ofInt n i).toNat

/-- The four bytes of a word, most significant first (R9). -/
def bytesOf (w : Word) : List Byte :=
  [w.extractLsb' 24 8, w.extractLsb' 16 8, w.extractLsb' 8 8, w.extractLsb' 0 8]

/-- Four bytes, most significant first, as a word (R9). -/
def wordOf (a b c d : Byte) : Word := a ++ b ++ c ++ d

/-- The bytes of a list of words, most significant byte of each word first (R9). -/
def bytesOfWords (ws : List Word) : List Byte := ws.flatMap bytesOf

/-- One shift of the reflected CRC-32C register (R389: polynomial 0x1EDC6F41, reflected 0x82F63B78). -/
def crc32cShift (c : Word) : Word := if c.getLsbD 0 then (c >>> 1) ^^^ 0x82F63B78#32 else c >>> 1

/-- One byte into the CRC-32C register. -/
def crc32cByte (c : Word) (b : Byte) : Word :=
  let c := c ^^^ b.setWidth 32
  crc32cShift (crc32cShift (crc32cShift (crc32cShift (crc32cShift (crc32cShift (crc32cShift (crc32cShift c)))))))

/-- CRC-32C of bytes (R389). -/
def crc32c (bs : List Byte) : Word := bs.foldl crc32cByte 0xFFFFFFFF#32 ^^^ 0xFFFFFFFF#32

/-- CRC-32C of words, most significant byte first (R9, R389). -/
def crc32cWords (ws : List Word) : Word := crc32c (bytesOfWords ws)

/-- One bit of a CRC register of width `n` that shifts left: polynomial `p`, the next message bit `b`. -/
def crcBit (n : Nat) (p : BitVec n) (c : BitVec n) (b : Bool) : BitVec n :=
  if xor c.msb b then (c <<< 1) ^^^ p else c <<< 1

/-- The bits of a byte, most significant first. -/
def byteBits (b : Byte) : List Bool :=
  [b.getLsbD 7, b.getLsbD 6, b.getLsbD 5, b.getLsbD 4, b.getLsbD 3, b.getLsbD 2, b.getLsbD 1, b.getLsbD 0]

end Sys2Proof.Machine
end

