-- ==== Sys2Proof/Machine/BinderCode.lean ====
section
/-!
DEFINITION. Machine/BinderCode.lean: the instruction words of the Binder pairs (R264, R265): what each word says, and
the word of each instruction. The opcode is in bits [31:26] of one 32-bit word; reserved fields are 0.
-/
namespace Sys2Proof.Machine

/-- A Binder instruction as its word spells it (R265). -/
inductive BinderOp where
  | opEnd
  | opNop
  | opMovi (d : BitVec 4) (imm : BitVec 18)
  | opMovh (d : BitVec 4) (imm : BitVec 16)
  | opAlu (d a b f : BitVec 4)
  | opAlui (d a f : BitVec 4) (imm : BitVec 14)
  | opCmp (a b : BitVec 4)
  | opCmpi (a : BitVec 4) (imm : BitVec 18)
  | opSel (d a b c : BitVec 4)
  | opSetc (d c : BitVec 4)
  | opRds (d f : BitVec 4)
  | opLds (d a : BitVec 4) (x : BitVec 1) (idx : BitVec 17)
  | opLdq (d a : BitVec 4) (x : BitVec 1) (idx : BitVec 17)
  | opLdv (d : BitVec 4) (idx : BitVec 17)
  | opLdw (d : BitVec 4) (w : BitVec 3) (idx : BitVec 17)
  | opLdb (d : BitVec 4) (t : BitVec 5) (idx : BitVec 17)
  | opLdk (d : BitVec 4) (c : BitVec 5) (f : BitVec 6)
  | opSts (r q : BitVec 4) (qe : BitVec 1) (idx : BitVec 17)
  | opStsx (r a q : BitVec 4) (qe : BitVec 1) (off : BitVec 13)
  | opLdd (d a : BitVec 4) (x : BitVec 1) (off : BitVec 12)
  | opStd (r a : BitVec 4) (x : BitVec 1) (off : BitVec 12)
  | opBr (c : BitVec 4) (off : BitVec 14)
  | opCall (t : BitVec 14)
  | opRet
  | opLoop (n : BitVec 12) (len : BitVec 14)
  | opLoopr (a : BitVec 4) (max : BitVec 10) (len : BitVec 12)
  | opTon (d a b : BitVec 4) (t : BitVec 10)
  | opTof (d a b : BitVec 4) (t : BitVec 10)
  | opTp (d a b : BitVec 4) (t : BitVec 10)
  | opEdg (d a : BitVec 4) (addr : BitVec 12)
  | opDsc (d a b p : BitVec 4) (t : BitVec 8) (m fe : BitVec 1)
  | opEmit (k : BitVec 5) (r : BitVec 4)
  | opChk (t : BitVec 5)
  deriving DecidableEq, Repr

/-- A condition code that is not reserved: all but 12, 13 and 15 (R267). -/
def condOk (c : BitVec 4) : Bool := c != 12#4 && c != 13#4 && c != 15#4

/-- An operand set that verification accepts (R265, R267, R268, R272). -/
def BinderOp.wf : BinderOp → Bool
  | .opSel _ _ _ c => condOk c
  | .opSetc _ c => condOk c
  | .opBr c _ => condOk c
  | .opRds _ f => decide (f.toNat ≤ 6)
  | .opLdw _ w _ => decide (2 ≤ w.toNat)
  | _ => true

/-- The word of a Binder instruction (R264, R265). -/
def BinderOp.encode : BinderOp → Word
  | .opEnd => 0#32
  | .opNop => 0x01#6 ++ 0#26
  | .opMovi d imm => 0x02#6 ++ d ++ 0#4 ++ imm
  | .opMovh d imm => 0x03#6 ++ d ++ 0#6 ++ imm
  | .opAlu d a b f => 0x04#6 ++ d ++ a ++ b ++ 0#10 ++ f
  | .opAlui d a f imm => 0x05#6 ++ d ++ a ++ f ++ imm
  | .opCmp a b => 0x06#6 ++ 0#4 ++ a ++ b ++ 0#14
  | .opCmpi a imm => 0x07#6 ++ 0#4 ++ a ++ imm
  | .opSel d a b c => 0x08#6 ++ d ++ a ++ b ++ c ++ 0#10
  | .opSetc d c => 0x09#6 ++ d ++ 0#8 ++ c ++ 0#10
  | .opRds d f => 0x0A#6 ++ d ++ 0#18 ++ f
  | .opLds d a x idx => 0x0C#6 ++ d ++ a ++ x ++ idx
  | .opLdq d a x idx => 0x0D#6 ++ d ++ a ++ x ++ idx
  | .opLdv d idx => 0x0E#6 ++ d ++ 0#5 ++ idx
  | .opLdw d w idx => 0x0F#6 ++ d ++ w ++ 0#2 ++ idx
  | .opLdb d t idx => 0x10#6 ++ d ++ t ++ idx
  | .opLdk d c f => 0x11#6 ++ d ++ c ++ f ++ 0#11
  | .opSts r q qe idx => 0x12#6 ++ r ++ q ++ qe ++ idx
  | .opStsx r a q qe off => 0x13#6 ++ r ++ a ++ q ++ qe ++ off
  | .opLdd d a x off => 0x14#6 ++ d ++ a ++ x ++ 0#5 ++ off
  | .opStd r a x off => 0x15#6 ++ r ++ a ++ x ++ 0#5 ++ off
  | .opBr c off => 0x18#6 ++ c ++ 0#8 ++ off
  | .opCall t => 0x19#6 ++ 0#12 ++ t
  | .opRet => 0x1A#6 ++ 0#26
  | .opLoop n len => 0x1B#6 ++ n ++ len
  | .opLoopr a max len => 0x1C#6 ++ a ++ max ++ len
  | .opTon d a b t => 0x20#6 ++ d ++ a ++ b ++ t ++ 0#4
  | .opTof d a b t => 0x21#6 ++ d ++ a ++ b ++ t ++ 0#4
  | .opTp d a b t => 0x22#6 ++ d ++ a ++ b ++ t ++ 0#4
  | .opEdg d a addr => 0x23#6 ++ d ++ a ++ 0#6 ++ addr
  | .opDsc d a b p t m fe => 0x24#6 ++ d ++ a ++ b ++ p ++ t ++ m ++ fe
  | .opEmit k r => 0x28#6 ++ k ++ r ++ 0#17
  | .opChk t => 0x29#6 ++ 0#21 ++ t

/-- Answer an instruction where the bits of a word that are reserved for it are 0. -/
def reserved0 (z : Bool) (i : BinderOp) : Option BinderOp := if z then some i else none

/-- The fields of a word by position: D or S [25:22], A [21:18], B [17:14], C [13:10], F [3:0]. -/
def fD (w : Word) : BitVec 4 := w.extractLsb' 22 4
def fA (w : Word) : BitVec 4 := w.extractLsb' 18 4
def fB (w : Word) : BitVec 4 := w.extractLsb' 14 4
def fC (w : Word) : BitVec 4 := w.extractLsb' 10 4
def fF (w : Word) : BitVec 4 := w.extractLsb' 0 4
/-- The 17-bit index field IDX. -/
def fIdx (w : Word) : BitVec 17 := w.extractLsb' 0 17
/-- The X bit. -/
def fX (w : Word) : BitVec 1 := w.extractLsb' 17 1

/-- Read a Binder word (R265): none for a reserved or privileged opcode and for a word with a reserved field that is
not 0. -/
def decodeBinder (w : Word) : Option BinderOp :=
  match (w.extractLsb' 26 6).toNat with
  | 0x00 => reserved0 (w.extractLsb' 0 26 == 0#26) .opEnd
  | 0x01 => reserved0 (w.extractLsb' 0 26 == 0#26) .opNop
  | 0x02 => reserved0 (fA w == 0#4) (.opMovi (fD w) (w.extractLsb' 0 18))
  | 0x03 => reserved0 (w.extractLsb' 16 6 == 0#6) (.opMovh (fD w) (w.extractLsb' 0 16))
  | 0x04 => reserved0 (w.extractLsb' 4 10 == 0#10) (.opAlu (fD w) (fA w) (fB w) (fF w))
  | 0x05 => some (.opAlui (fD w) (fA w) (fB w) (w.extractLsb' 0 14))
  | 0x06 => reserved0 (fD w == 0#4 && w.extractLsb' 0 14 == 0#14) (.opCmp (fA w) (fB w))
  | 0x07 => reserved0 (fD w == 0#4) (.opCmpi (fA w) (w.extractLsb' 0 18))
  | 0x08 => reserved0 (w.extractLsb' 0 10 == 0#10) (.opSel (fD w) (fA w) (fB w) (fC w))
  | 0x09 => reserved0 (w.extractLsb' 14 8 == 0#8 && w.extractLsb' 0 10 == 0#10) (.opSetc (fD w) (fC w))
  | 0x0A => reserved0 (w.extractLsb' 4 18 == 0#18) (.opRds (fD w) (fF w))
  | 0x0C => some (.opLds (fD w) (fA w) (fX w) (fIdx w))
  | 0x0D => some (.opLdq (fD w) (fA w) (fX w) (fIdx w))
  | 0x0E => reserved0 (w.extractLsb' 17 5 == 0#5) (.opLdv (fD w) (fIdx w))
  | 0x0F => reserved0 (w.extractLsb' 17 2 == 0#2) (.opLdw (fD w) (w.extractLsb' 19 3) (fIdx w))
  | 0x10 => some (.opLdb (fD w) (w.extractLsb' 17 5) (fIdx w))
  | 0x11 => reserved0 (w.extractLsb' 0 11 == 0#11) (.opLdk (fD w) (w.extractLsb' 17 5) (w.extractLsb' 11 6))
  | 0x12 => some (.opSts (fD w) (fA w) (fX w) (fIdx w))
  | 0x13 => some (.opStsx (fD w) (fA w) (fB w) (w.extractLsb' 13 1) (w.extractLsb' 0 13))
  | 0x14 => reserved0 (w.extractLsb' 12 5 == 0#5) (.opLdd (fD w) (fA w) (fX w) (w.extractLsb' 0 12))
  | 0x15 => reserved0 (w.extractLsb' 12 5 == 0#5) (.opStd (fD w) (fA w) (fX w) (w.extractLsb' 0 12))
  | 0x18 => reserved0 (w.extractLsb' 14 8 == 0#8) (.opBr (fD w) (w.extractLsb' 0 14))
  | 0x19 => reserved0 (w.extractLsb' 14 12 == 0#12) (.opCall (w.extractLsb' 0 14))
  | 0x1A => reserved0 (w.extractLsb' 0 26 == 0#26) .opRet
  | 0x1B => some (.opLoop (w.extractLsb' 14 12) (w.extractLsb' 0 14))
  | 0x1C => some (.opLoopr (fD w) (w.extractLsb' 12 10) (w.extractLsb' 0 12))
  | 0x20 => reserved0 (fF w == 0#4) (.opTon (fD w) (fA w) (fB w) (w.extractLsb' 4 10))
  | 0x21 => reserved0 (fF w == 0#4) (.opTof (fD w) (fA w) (fB w) (w.extractLsb' 4 10))
  | 0x22 => reserved0 (fF w == 0#4) (.opTp (fD w) (fA w) (fB w) (w.extractLsb' 4 10))
  | 0x23 => reserved0 (w.extractLsb' 12 6 == 0#6) (.opEdg (fD w) (fA w) (w.extractLsb' 0 12))
  | 0x24 => some (.opDsc (fD w) (fA w) (fB w) (fC w) (w.extractLsb' 2 8) (w.extractLsb' 1 1) (w.extractLsb' 0 1))
  | 0x28 => reserved0 (w.extractLsb' 0 17 == 0#17) (.opEmit (w.extractLsb' 21 5) (w.extractLsb' 17 4))
  | 0x29 => reserved0 (w.extractLsb' 5 21 == 0#21) (.opChk (w.extractLsb' 0 5))
  | _ => none

/-! ## Levels -/

/-- Binder clock of a level in MHz (R50, R512). -/
def binderMhz (level : Nat) : Nat := match level with | 0 => 480 | 1 => 320 | 2 => 240 | _ => 120

/-- Evaluation budget (R240). -/
def budgetOf (lNom level : Nat) : Nat := 6 * lNom * binderMhz level / 480

/-- Cycles as ticks, rounded up (W_p of R245). -/
def cycTicks (cyc level : Nat) : Nat := (cyc * 48 + binderMhz level - 1) / binderMhz level

end Sys2Proof.Machine
end

