-- ==== Sys2Proof/Config.lean ====
section
/-!
DEFINITION. Config.lean: what one implementation fixes and the manual leaves open: the free values. Each is a
constant with no body, so no proof can see what it is; each is named in the assumption log.
-/
namespace Sys2Proof

/-- A fresh 32-bit value the manual leaves undefined, by the model's own counter `State.free` (log entry 4). -/
opaque Config.freeWord : Nat → Word

/-- A fresh Boolean the manual leaves undefined, by the model's own counter (log entry 4). -/
opaque Config.freeBit : Nat → Bool

/-- Word j of the private value k of leaf q in one of the device's trees, from its seed (R484, R501): the manual does not say how the
private values follow from the seed (log entry 6). Tree 0 is the top tree, tree t + 1 the bottom tree t; k is a chain, 0 to 66, or 67
for the randomiser of a signature and 68 for the identifier of the tree. -/
opaque Config.hssPrivate : List Word → Nat → Nat → Nat → Nat → Word

/-- The CRC-32C register after a last part of fewer than 8 bits: the manual states no bit order for it (R382). -/
opaque Config.crcPartial : Word → List Bool → Word

/-- Response values V of a member image of a class and layout version: the integrator gives the layout, and nothing in the
member's image states it (R418). -/
opaque Config.memberValues : Nat → Nat → Nat

end Sys2Proof
end

