-- ==== Sys2Proof/Machine/Sha.lean ====
section
/-!
DEFINITION. Machine/Sha.lean: the three algorithms the manual takes by reference: SHA-256 (FIPS 180-4), HMAC-SHA-256
(FIPS 198-1), and the verification of an HSS signature with LMS_SHA256_M32_H10 over LMOTS_SHA256_N32_W4 at two levels
(RFC 8554), named by R329 and R487 (log entry 6).
-/
namespace Sys2Proof.Machine

/-! ## SHA-256 -/

/-- Round constants, rows 1-4. -/
def shaK1 : List Word := [
  0x428a2f98#32, 0x71374491#32, 0xb5c0fbcf#32, 0xe9b5dba5#32, 0x3956c25b#32, 0x59f111f1#32, 0x923f82a4#32, 0xab1c5ed5#32,
  0xd807aa98#32, 0x12835b01#32, 0x243185be#32, 0x550c7dc3#32, 0x72be5d74#32, 0x80deb1fe#32, 0x9bdc06a7#32, 0xc19bf174#32,
  0xe49b69c1#32, 0xefbe4786#32, 0x0fc19dc6#32, 0x240ca1cc#32, 0x2de92c6f#32, 0x4a7484aa#32, 0x5cb0a9dc#32, 0x76f988da#32,
  0x983e5152#32, 0xa831c66d#32, 0xb00327c8#32, 0xbf597fc7#32, 0xc6e00bf3#32, 0xd5a79147#32, 0x06ca6351#32, 0x14292967#32 ]

/-- Round constants, rows 5-8. -/
def shaK2 : List Word := [
  0x27b70a85#32, 0x2e1b2138#32, 0x4d2c6dfc#32, 0x53380d13#32, 0x650a7354#32, 0x766a0abb#32, 0x81c2c92e#32, 0x92722c85#32,
  0xa2bfe8a1#32, 0xa81a664b#32, 0xc24b8b70#32, 0xc76c51a3#32, 0xd192e819#32, 0xd6990624#32, 0xf40e3585#32, 0x106aa070#32,
  0x19a4c116#32, 0x1e376c08#32, 0x2748774c#32, 0x34b0bcb5#32, 0x391c0cb3#32, 0x4ed8aa4a#32, 0x5b9cca4f#32, 0x682e6ff3#32,
  0x748f82ee#32, 0x78a5636f#32, 0x84c87814#32, 0x8cc70208#32, 0x90befffa#32, 0xa4506ceb#32, 0xbef9a3f7#32, 0xc67178f2#32 ]

/-- The eight working words. -/
structure ShaReg where
  a : Word
  b : Word
  c : Word
  d : Word
  e : Word
  f : Word
  g : Word
  h : Word
  deriving DecidableEq, Repr

/-- Initial hash value. -/
def shaInit : ShaReg :=
  ⟨0x6a09e667#32, 0xbb67ae85#32, 0x3c6ef372#32, 0xa54ff53a#32, 0x510e527f#32, 0x9b05688c#32, 0x1f83d9ab#32, 0x5be0cd19#32⟩

/-- One round. -/
def shaRound (r : ShaReg) (k w : Word) : ShaReg :=
  let s1 := r.e.rotateRight 6 ^^^ r.e.rotateRight 11 ^^^ r.e.rotateRight 25
  let ch := (r.e &&& r.f) ^^^ (~~~r.e &&& r.g)
  let t1 := r.h + s1 + ch + k + w
  let s0 := r.a.rotateRight 2 ^^^ r.a.rotateRight 13 ^^^ r.a.rotateRight 22
  let mj := (r.a &&& r.b) ^^^ (r.a &&& r.c) ^^^ (r.b &&& r.c)
  ⟨t1 + (s0 + mj), r.a, r.b, r.c, r.d + t1, r.e, r.f, r.g⟩

/-- The message schedule, newest word first. -/
def shaExtend : Nat → List Word → List Word
  | 0, ws => ws
  | n + 1, ws =>
    let w2 := ws.getD 1 0#32
    let w15 := ws.getD 14 0#32
    let s0 := w15.rotateRight 7 ^^^ w15.rotateRight 18 ^^^ (w15 >>> 3)
    let s1 := w2.rotateRight 17 ^^^ w2.rotateRight 19 ^^^ (w2 >>> 10)
    shaExtend n ((ws.getD 15 0#32 + s0 + ws.getD 6 0#32 + s1) :: ws)

/-- One block of 16 words. -/
def shaBlock (r : ShaReg) (ws : List Word) : ShaReg :=
  let sched := (shaExtend 48 ws.reverse).reverse
  let x := (sched.zip (shaK1 ++ shaK2)).foldl (fun r p => shaRound r p.2 p.1) r
  ⟨r.a + x.a, r.b + x.b, r.c + x.c, r.d + x.d, r.e + x.e, r.f + x.f, r.g + x.g, r.h + x.h⟩

/-- Bytes as words, most significant first. -/
def wordsOfBytes : List Byte → List Word
  | a :: b :: c :: d :: rest => wordOf a b c d :: wordsOfBytes rest
  | _ => []

/-- The padded message. -/
def shaPad (bs : List Byte) : List Byte :=
  let z := (119 - bs.length % 64) % 64
  let len := bs.length * 8
  bs ++ [0x80#8] ++ List.replicate z 0#8 ++ bytesOf (BitVec.ofNat 32 (len / 2 ^ 32)) ++ bytesOf (BitVec.ofNat 32 len)

/-- All blocks. -/
def shaBlocks : Nat → ShaReg → List Word → ShaReg
  | 0, r, _ => r
  | n + 1, r, ws => shaBlocks n (shaBlock r (ws.take 16)) (ws.drop 16)

/-- SHA-256 of bytes, as eight words. -/
def sha256 (bs : List Byte) : List Word :=
  let ws := wordsOfBytes (shaPad bs)
  let r := shaBlocks (ws.length / 16) shaInit ws
  [r.a, r.b, r.c, r.d, r.e, r.f, r.g, r.h]

/-- SHA-256 of words. -/
def shaWords (ws : List Word) : List Word := sha256 (bytesOfWords ws)

/-! ## HMAC-SHA-256 -/

/-- HMAC-SHA-256 of a message under a key of at most 64 bytes. -/
def hmac (key msg : List Byte) : List Word :=
  let k := key ++ List.replicate (64 - key.length) 0#8
  let inner := sha256 (k.map (fun b => b ^^^ 0x36#8) ++ msg)
  sha256 (k.map (fun b => b ^^^ 0x5C#8) ++ bytesOfWords inner)

/-! ## HSS verification -/

/-- A number as two bytes. -/
def bytes2 (n : Nat) : List Byte := [BitVec.ofNat 8 (n / 256), BitVec.ofNat 8 n]
/-- A number as four bytes. -/
def bytes4 (n : Nat) : List Byte := bytesOf (BitVec.ofNat 32 n)
/-- Four bytes as a number. -/
def nat4 (bs : List Byte) : Nat := bs.foldl (fun a b => 256 * a + b.toNat) 0
/-- SHA-256 as bytes. -/
def shaBytes (bs : List Byte) : List Byte := bytesOfWords (sha256 bs)

/-- The chain function of LM-OTS from value a to 15 (w = 4). -/
def otsChain (i : List Byte) (q k : Nat) : Nat → Nat → List Byte → List Byte
  | 0, _, y => y
  | n + 1, j, y => otsChain i q k n (j + 1) (shaBytes (i ++ bytes4 q ++ bytes2 k ++ [BitVec.ofNat 8 j] ++ y))

/-- The 67 coefficients of a message hash with its checksum (w = 4, ls = 4). -/
def otsCoefs (hash : List Byte) : List Nat :=
  let nib (bs : List Byte) : List Nat := bs.flatMap fun b => [b.toNat / 16, b.toNat % 16]
  let cs := nib hash
  let sum := cs.foldl (fun a c => a + (15 - c)) 0
  cs ++ (nib (bytes2 (sum * 16))).take 3

/-- The public key candidate of an LM-OTS signature of a message: C, then 67 values of 32 bytes. -/
def otsCandidate (i : List Byte) (q : Nat) (c : List Byte) (ys msg : List Byte) : List Byte :=
  let hash := shaBytes (i ++ bytes4 q ++ bytes2 0x8181 ++ c ++ msg)
  let coefs := otsCoefs hash
  let zs := (List.range 67).flatMap fun k =>
    let a := coefs.getD k 0
    otsChain i q k (15 - a) a ((ys.drop (32 * k)).take 32)
  shaBytes (i ++ bytes4 q ++ bytes2 0x8080 ++ zs)

/-- Climb the tree from a node with the authentication path. -/
def lmsClimb (i : List Byte) : Nat → Nat → List Byte → List Byte → List Byte
  | 0, _, _, t => t
  | n + 1, node, path, t =>
    let p := path.take 32
    let m := if node % 2 == 1 then p ++ t else t ++ p
    lmsClimb i n (node / 2) (path.drop 32) (shaBytes (i ++ bytes4 (node / 2) ++ bytes2 0x8383 ++ m))

/-- Does an LMS signature of 2,508 bytes verify a message under a public key of 56 bytes (types 6 and 3, height 10)? -/
def lmsVerify (pk sig msg : List Byte) : Bool :=
  let i := (pk.drop 8).take 16
  let q := nat4 (sig.take 4)
  let c := (sig.drop 8).take 32
  let ys := (sig.drop 40).take 2144
  let path := (sig.drop 2188).take 320
  let kc := otsCandidate i q c ys msg
  let leaf := shaBytes (i ++ bytes4 (1024 + q) ++ bytes2 0x8282 ++ kc)
  pk.length == 56 && sig.length == 2508 && nat4 (pk.take 4) == 6 && nat4 ((pk.drop 4).take 4) == 3
    && nat4 ((sig.drop 4).take 4) == 3 && nat4 ((sig.drop 2184).take 4) == 6 && decide (q < 1024)
    && lmsClimb i 10 (1024 + q) path leaf == (pk.drop 24).take 32

/-- Does an HSS signature of 5,076 bytes verify a message under a public key of 60 bytes with L = 2 (R327, R329)? -/
def hssVerify (pk sig msg : List Byte) : Bool :=
  let sig0 := (sig.drop 4).take 2508
  let pub1 := (sig.drop 2512).take 56
  let sig1 := sig.drop 2568
  pk.length == 60 && sig.length == 5076 && nat4 (pk.take 4) == 2 && nat4 (sig.take 4) == 1
    && lmsVerify (pk.drop 4) sig0 pub1 && lmsVerify pub1 sig1 msg

end Sys2Proof.Machine
end

