-- ==== Sys2Proof/Machine/Regs.lean ====
section
/-!
DEFINITION. Machine/Regs.lean: the register map. `Reg.<NAME>` is the host byte address of the register the manual
calls <NAME> (an array takes its index), `F.<NAME>_<FIELD>` one field of it with its bits, both from the register
line and the field table of the chapter named beside it (R12), and `regTable` is the list of all register lines
with access code (R13), reset value and reset domain (R18).
-/
namespace Sys2Proof.Machine

/-- A field of a register: the register's host address and the field's bits, both ends included (R8). -/
structure Fld where
  reg : Nat
  hi : Nat
  lo : Nat
  deriving DecidableEq, Repr

/-- The access codes of R13. -/
inductive Acc where
  | ro | rw | wo | w1c | rc
  deriving DecidableEq, Repr

/-- The reset domains of R18. -/
inductive Domain where
  | por | pin | cellar
  deriving DecidableEq, Repr

/-- One register line of the manual (R12): first address, the two strides and counts of an array of registers,
access, reset value, domain, the bits a write sets (RW and WO fields) and the bits a 1 clears (W1C fields). -/
structure RegRow where
  base : Nat
  stride : Nat
  count : Nat
  stride2 : Nat
  count2 : Nat
  acc : Acc
  reset : Nat
  dom : Domain
  wmask : Nat
  w1c : Nat
  deriving DecidableEq, Repr

namespace Reg


/-! Registers of spec/10_configuration_and_boot.md. -/

def DEV_ID : Nat := 0x000000
def DEV_REV : Nat := 0x000004
def SYS_STATE : Nat := 0x000008

/-! Registers of spec/01_swath_architecture.md. -/

def SYS_RECFG_CTRL : Nat := 0x000100
def SYS_RECFG_TARGET : Nat := 0x000104
def SYS_RECFG_STATUS : Nat := 0x000108

/-! Registers of spec/07_swath_pipeline_and_tines.md. -/

def PIPE_SUSP : Nat := 0x000200
def PIPE_SUSP_SWATH : Nat := 0x000204
def PIPE_SUSP_COUNT : Nat := 0x000208
def PIPE_PAIR_CFG (i : Nat) : Nat := 0x000210 + 16 * i
def PIPE_PAIR_LAST (i : Nat) : Nat := 0x000214 + 16 * i
def PIPE_PAIR_CNT (i : Nat) : Nat := 0x000218 + 16 * i
def PIPE_PAIR_SWATH (i : Nat) : Nat := 0x00021C + 16 * i

/-! Registers of spec/09_granary_and_cribs.md. -/

def GRN_ECC : Nat := 0x000300
def GRN_ECC_ADDR : Nat := 0x000304
def GRN_SCRUB : Nat := 0x000308

/-! Registers of spec/10_configuration_and_boot.md. -/

def BOOT_STATUS : Nat := 0x000400
def BOOT_DETAIL : Nat := 0x000404
def BOOT_IMAGE : Nat := 0x000408
def BOOT_BUILD : Nat := 0x00040C
def BOOT_DIGEST (i : Nat) : Nat := 0x000410 + 4 * i
def BOOT_FUSES : Nat := 0x000430
def BOOT_CTRL : Nat := 0x000440
def STAGE_STATUS : Nat := 0x000450
def STAGE_NEXT : Nat := 0x000454
def SYS_ARM : Nat := 0x000460
def SYS_ARM_STATUS : Nat := 0x000464
def SYS_COMMISSION : Nat := 0x000470

/-! Registers of spec/11_host_port.md. -/

def HP_CFG : Nat := 0x001000
def HP_BUSY_LIMIT : Nat := 0x001004
def HP_HLEN : Nat := 0x001008
def HP_STATUS : Nat := 0x001010
def HP_LAST_ERR : Nat := 0x001014
def HP_LAST_ERR_SWATH : Nat := 0x001018
def HP_COUNTS : Nat := 0x001020
def HP_COUNTS2 : Nat := 0x001024
def HP_FORCED : Nat := 0x001030

/-! Registers of spec/15_faults_and_watchdogs.md. -/

def FC_CFG : Nat := 0x002000
def FC_STATUS : Nat := 0x002004
def FC_LAST : Nat := 0x002008
def FC_REACT_MSG : Nat := 0x00200C
def FC_SUMMARY : Nat := 0x002010
def FC_FIRST_MSG : Nat := 0x002020
def FC_FIRST_SWATH : Nat := 0x002024
def FC_FIRST_TICK_HI : Nat := 0x002028
def FC_FIRST_TICK_LO : Nat := 0x00202C
def FC_CLEAR : Nat := 0x002040
def FC_FORCE_MSG : Nat := 0x002050
def FC_FORCE_CTRL : Nat := 0x002054
def FC_SRC_CNT (i : Nat) : Nat := 0x002100 + 4 * i
def WDG_CFG : Nat := 0x003000
def WDG_WINDOW : Nat := 0x003004
def WDG_KICK : Nat := 0x003008
def WDG_STATUS : Nat := 0x00300C
def WDG_COUNTS : Nat := 0x003010
def WDG_LAST : Nat := 0x003014
def RC_LAST (i : Nat) : Nat := 0x003100 + 16 * i
def RC_MISS (i : Nat) : Nat := 0x003104 + 16 * i
def RC_DUP (i : Nat) : Nat := 0x003108 + 16 * i
def RC_STATE (i : Nat) : Nat := 0x00310C + 16 * i

/-! Registers of spec/17_power_states.md. -/

def PWR_TARGET : Nat := 0x004000
def PWR_STATUS : Nat := 0x004004
def PWR_CFG : Nat := 0x004008
def PWR_WAKE_CFG : Nat := 0x00400C
def PWR_WAKE_AT : Nat := 0x004010
def PWR_STATE (i : Nat) : Nat := 0x004014 + 4 * i
def PWR_REFUSED : Nat := 0x004020
def PWR_REFUSER : Nat := 0x004024
def PWR_REPLAYED : Nat := 0x004028
def PWR_WAKE_CAUSE : Nat := 0x00402C

/-! Registers of spec/12_check_value_units.md. -/

def CVU_CFG (i : Nat) : Nat := 0x005000 + 64 * i
def CVU_START (i : Nat) : Nat := 0x005004 + 64 * i
def CVU_LENGTH (i : Nat) : Nat := 0x005008 + 64 * i
def CVU_ALIVE_OFF (i : Nat) : Nat := 0x00500C + 64 * i
def CVU_TIMING (i : Nat) : Nat := 0x005010 + 64 * i
def CVU_RESULT (i : Nat) : Nat := 0x005014 + 64 * i
def CVU_CTRL (i : Nat) : Nat := 0x005018 + 64 * i
def CVU_SESSION (i : Nat) : Nat := 0x00501C + 64 * i
def CVU_ALIVE (i : Nat) : Nat := 0x005020 + 64 * i
def CVU_DEV_ALIVE (i : Nat) : Nat := 0x005024 + 64 * i
def CVU_COUNTS (i : Nat) : Nat := 0x005028 + 64 * i

/-! Registers of spec/18_performance_counters.md. -/

def PC_CTRL : Nat := 0x006000
def PC_STATUS : Nat := 0x006004
def PC_TICKS (i : Nat) : Nat := 0x006008 + 4 * i
def PC_PAIR (i k : Nat) : Nat := 0x006100 + 128 * i + 4 * k
def PC_GLN (i : Nat) : Nat := 0x006500 + 4 * i
def PC_HP (i : Nat) : Nat := 0x006600 + 4 * i
def PC_SNAP_TICKS (i : Nat) : Nat := 0x006808 + 4 * i
def PC_SNAP_PAIR (i k : Nat) : Nat := 0x006900 + 128 * i + 4 * k
def PC_SNAP_GLN (i : Nat) : Nat := 0x006D00 + 4 * i
def PC_SNAP_HP (i : Nat) : Nat := 0x006E00 + 4 * i

/-! Registers of spec/14_yoke_twin_operation.md. -/

def YK_CFG : Nat := 0x007000
def YK_DISC : Nat := 0x007004
def YK_STATUS : Nat := 0x007008
def YK_OFFSET_LO : Nat := 0x00700C
def YK_OFFSET_HI : Nat := 0x007010
def YK_DELAY : Nat := 0x007014
def YK_TAKEOVER : Nat := 0x007018
def YK_CTRL : Nat := 0x007020
def YK_COUNTS : Nat := 0x007024

/-! Registers of spec/13_gleaner_chains.md. -/

def GLN_CFG : Nat := 0x008000
def GLN_STATUS : Nat := 0x008004
def GLN_SEG_CFG (i : Nat) : Nat := 0x008100 + 32 * i
def GLN_SEG_SCHED (i : Nat) : Nat := 0x008104 + 32 * i
def GLN_SEG_START (i : Nat) : Nat := 0x008108 + 32 * i
def GLN_SEG_TICKS (i : Nat) : Nat := 0x00810C + 32 * i
def GLN_SEG_STATE (i : Nat) : Nat := 0x008110 + 32 * i
def GLN_SEG_COUNTS (i : Nat) : Nat := 0x008114 + 32 * i
def GLN_SEG_SCANS (i : Nat) : Nat := 0x008118 + 32 * i
def GLN_MBR_SEL : Nat := 0x008800
def GLN_MBR_INFO : Nat := 0x008804
def GLN_MBR_STATUS : Nat := 0x008808
def GLN_MBR_REASON : Nat := 0x00880C

/-! Registers of spec/16_service_record_and_attestation.md. -/

def SR_STATUS : Nat := 0x009000
def SR_LEAF : Nat := 0x009004
def SR_LEAF_RES : Nat := 0x009008
def SR_JRN_SEQ : Nat := 0x00900C
def SR_JRN_SEALED : Nat := 0x009010
def SR_JRN_ACK : Nat := 0x009014
def SR_JRN_SLOTS : Nat := 0x009018
def SR_COUNTS : Nat := 0x00901C
def SR_WIN_SEL : Nat := 0x009040
def SR_WIN_STATUS : Nat := 0x009044
def SR_ATT_STATUS : Nat := 0x009050
def SR_ATT_TOKENS : Nat := 0x009054
def SR_PUBKEY (i : Nat) : Nat := 0x009080 + 4 * i
def SR_SERIAL_HI : Nat := 0x0090C0
def SR_SERIAL_LO : Nat := 0x0090C4
def SR_DEV_EOL (i : Nat) : Nat := 0x009100 + 4 * i
def SR_DEV_EOL_MIN : Nat := 0x00911C
def SR_SLOT_SEL : Nat := 0x009200
def SR_SLOT_INFO : Nat := 0x009204
def SR_SLOT_ID_HI : Nat := 0x009208
def SR_SLOT_ID_LO : Nat := 0x00920C
def SR_SLOT_OPS : Nat := 0x009210
def SR_SLOT_WEAR : Nat := 0x009214
def SR_SLOT_PRED : Nat := 0x009218
def SR_SLOT_EOL : Nat := 0x00921C
def SR_WIN (i : Nat) : Nat := 0x009800 + 4 * i

/-! Registers of spec/02_timebase_and_sync.md. -/

def TB_SWATH_LO : Nat := 0x00A000
def TB_SWATH_HI : Nat := 0x00A004
def TB_TICK_LO : Nat := 0x00A008
def TB_TICK_HI : Nat := 0x00A00C
def TB_STOOK_LO : Nat := 0x00A010
def TB_STOOK_HI : Nat := 0x00A014
def TB_BTICK_LO : Nat := 0x00A018
def TB_BTICK_HI : Nat := 0x00A01C
def TB_PHASE : Nat := 0x00A020
def TB_CONFIG : Nat := 0x00A024
def SYNC_CTRL : Nat := 0x00A040
def SYNC_OFFSET : Nat := 0x00A044
def SYNC_STATUS : Nat := 0x00A048
def SYNC_PERIOD : Nat := 0x00A04C
def SYNC_COUNTS : Nat := 0x00A050
def TB_CLK_STATUS : Nat := 0x00A060

/-! Registers of spec/06_barn_door.md. -/

def BD_CFG (i : Nat) : Nat := 0x00B000 + 4096 * i
def BD_STATUS (i : Nat) : Nat := 0x00B004 + 4096 * i
def BD_COUNTS (i : Nat) : Nat := 0x00B008 + 4096 * i
def BD_LOSS (i : Nat) : Nat := 0x00B00C + 4096 * i
def BD_SAFE_CRC (i : Nat) : Nat := 0x00B010 + 4096 * i
def BD_LAST_FAIL (i : Nat) : Nat := 0x00B014 + 4096 * i

/-! Registers of spec/03_field_channels.md. -/

def CH_CFG (i : Nat) : Nat := 0x010000 + 1024 * i
def CH_CMD_SRC (i : Nat) : Nat := 0x010004 + 1024 * i
def CH_DI (i : Nat) : Nat := 0x010008 + 1024 * i
def CH_DO (i : Nat) : Nat := 0x01000C + 1024 * i
def CH_DIAG (i : Nat) : Nat := 0x010010 + 1024 * i
def CH_SAFE (i : Nat) : Nat := 0x010014 + 1024 * i
def CH_CMD (i : Nat) : Nat := 0x010040 + 1024 * i
def CH_STATUS (i : Nat) : Nat := 0x010044 + 1024 * i
def CH_READBACK (i : Nat) : Nat := 0x010048 + 1024 * i
def CH_FLAGS (i : Nat) : Nat := 0x01004C + 1024 * i
def CH_COUNTS (i : Nat) : Nat := 0x010050 + 1024 * i
def FH_STATUS (i : Nat) : Nat := 0x010200 + 8192 * i
def FH_CTRL (i : Nat) : Nat := 0x010204 + 8192 * i
def FH_CFG (i : Nat) : Nat := 0x010208 + 8192 * i
def FH_DP (i : Nat) : Nat := 0x01020C + 8192 * i
def FH_COUNTS (i : Nat) : Nat := 0x010210 + 8192 * i

/-! Registers of spec/04_thresher_conversion.md. -/

def THR_WIN (i : Nat) : Nat := 0x020000 + 512 * i
def THR_PREC (i : Nat) : Nat := 0x020008 + 512 * i
def THR_PREC_Q (i : Nat) : Nat := 0x02000C + 512 * i
def THR_PB_SUM_LO (i : Nat) : Nat := 0x020010 + 512 * i
def THR_PB_SUM_HI (i : Nat) : Nat := 0x020014 + 512 * i
def THR_PB_CNT (i : Nat) : Nat := 0x020018 + 512 * i
def THR_PB_MIN (i : Nat) : Nat := 0x02001C + 512 * i
def THR_PB_MAX (i : Nat) : Nat := 0x020020 + 512 * i
def THR_PB_END (i : Nat) : Nat := 0x020024 + 512 * i
def THR_PB_INFO (i : Nat) : Nat := 0x020028 + 512 * i
def THR_FB_SUM_LO (i : Nat) : Nat := 0x020040 + 512 * i
def THR_FB_SUM_HI (i : Nat) : Nat := 0x020044 + 512 * i
def THR_FB_SUMSQ_LO (i : Nat) : Nat := 0x020048 + 512 * i
def THR_FB_SUMSQ_HI (i : Nat) : Nat := 0x02004C + 512 * i
def THR_FB_CNT (i : Nat) : Nat := 0x020050 + 512 * i
def THR_FB_MINMAX (i : Nat) : Nat := 0x020054 + 512 * i
def THR_FB_SWATH (i : Nat) : Nat := 0x020058 + 512 * i
def THR_FB_SEC (i : Nat) : Nat := 0x02005C + 512 * i
def THR_FB_EDGE_FIRST (i : Nat) : Nat := 0x020060 + 512 * i
def THR_FB_EDGE_LAST (i : Nat) : Nat := 0x020064 + 512 * i
def THR_AT_PMIN (i : Nat) : Nat := 0x020080 + 512 * i
def THR_AT_PMAX (i : Nat) : Nat := 0x020084 + 512 * i
def THR_AT_FMINMAX (i : Nat) : Nat := 0x020088 + 512 * i
def THR_AT_SINCE (i : Nat) : Nat := 0x02008C + 512 * i
def THR_AT_CLEAR (i : Nat) : Nat := 0x020090 + 512 * i
def THR_FLAGS (i : Nat) : Nat := 0x0200A0 + 512 * i
def THR_NOW (i : Nat) : Nat := 0x0200A4 + 512 * i
def THR_REF (i : Nat) : Nat := 0x020100 + 4096 * i
def THR_HSTAT (i : Nat) : Nat := 0x020104 + 4096 * i

/-! Registers of spec/05_thresher_calibration_and_diagnostics.md. -/

def SEQ_CTRL (i : Nat) : Nat := 0x028000 + 4096 * i
def SEQ_STATUS (i : Nat) : Nat := 0x028004 + 4096 * i
def SEQ_CFG (i : Nat) : Nat := 0x028008 + 4096 * i
def SEQ_COUNTS (i : Nat) : Nat := 0x02800C + 4096 * i
def SEQ_PASS (i : Nat) : Nat := 0x028010 + 4096 * i
def SEQ_TABLE_W0 (i k : Nat) : Nat := 0x028100 + 4096 * i + 8 * k
def SEQ_TABLE_W1 (i k : Nat) : Nat := 0x028104 + 4096 * i + 8 * k
def SPR_CTRL : Nat := 0x02A000
def SPR_STATUS (i : Nat) : Nat := 0x02A010 + 4 * i
def SPR_CHSTAT (i : Nat) : Nat := 0x02A040 + 4 * i
def FP_CFG (i : Nat) : Nat := 0x02A100 + 64 * i
def FP_TSIG (i : Nat) : Nat := 0x02A104 + 64 * i
def FP_L0 (i : Nat) : Nat := 0x02A108 + 64 * i
def FP_SLOPE (i : Nat) : Nat := 0x02A10C + 64 * i
def FP_R20 (i : Nat) : Nat := 0x02A110 + 64 * i
def FP_SWATH (i : Nat) : Nat := 0x02A114 + 64 * i
def FP_PULL (i : Nat) : Nat := 0x02A118 + 64 * i
def FP_HOLD (i : Nat) : Nat := 0x02A11C + 64 * i
def FP_DROP (i : Nat) : Nat := 0x02A120 + 64 * i
def FP_KINK (i : Nat) : Nat := 0x02A124 + 64 * i
def FP_STAT (i : Nat) : Nat := 0x02A128 + 64 * i
def FP_DEV (i : Nat) : Nat := 0x02A12C + 64 * i

/-! Registers of spec/09_granary_and_cribs.md. -/

def CRIB_CFG (i : Nat) : Nat := 0x030000 + 64 * i
def CRIB_BASE (i : Nat) : Nat := 0x030004 + 64 * i
def CRIB_PROD (i : Nat) : Nat := 0x030008 + 64 * i
def CRIB_CONS (i : Nat) : Nat := 0x03000C + 64 * i
def CRIB_WMARK (i : Nat) : Nat := 0x030010 + 64 * i
def CRIB_OVF (i : Nat) : Nat := 0x030014 + 64 * i
def CRIB_STATUS (i : Nat) : Nat := 0x030018 + 64 * i

/-! Registers of spec/08_binder_engines.md. -/

def BND_CFG (i : Nat) : Nat := 0x040000 + 16384 * i
def BND_WREAL (i : Nat) : Nat := 0x040004 + 16384 * i
def BND_WSPEC (i : Nat) : Nat := 0x040008 + 16384 * i
def BND_WPOST (i : Nat) : Nat := 0x04000C + 16384 * i
def BND_TASKS (i : Nat) : Nat := 0x040010 + 16384 * i
def BND_STATUS (i : Nat) : Nat := 0x040014 + 16384 * i
def BND_LAST_CYC (i : Nat) : Nat := 0x040018 + 16384 * i
def BND_MAX_CYC (i : Nat) : Nat := 0x04001C + 16384 * i
def BND_FAULT (i : Nat) : Nat := 0x040020 + 16384 * i
def BND_COUNTS (i : Nat) : Nat := 0x040024 + 16384 * i
def BND_PMEM_ADDR (i : Nat) : Nat := 0x040040 + 16384 * i
def BND_PMEM_DATA (i : Nat) : Nat := 0x040044 + 16384 * i
def BND_DMEM_ADDR (i : Nat) : Nat := 0x040048 + 16384 * i
def BND_DMEM_DATA (i : Nat) : Nat := 0x04004C + 16384 * i
def BND_TMR_ADDR (i : Nat) : Nat := 0x040050 + 16384 * i
def BND_TMR_STATE (i : Nat) : Nat := 0x040054 + 16384 * i
def BND_TMR_START (i : Nat) : Nat := 0x040058 + 16384 * i
def BND_DBG_CTRL (i : Nat) : Nat := 0x040100 + 16384 * i
def BND_BKPT (i k : Nat) : Nat := 0x040110 + 16384 * i + 4 * k
def BND_DBG_FLAGS (i : Nat) : Nat := 0x040120 + 16384 * i
def BND_DBG_W (i k : Nat) : Nat := 0x040140 + 16384 * i + 4 * k

end Reg

namespace F


/-! Fields of the registers of spec/10_configuration_and_boot.md. -/

def SYS_STATE_ARMED_HALVES : Fld := ⟨Reg.SYS_STATE, 5, 4⟩
def SYS_STATE_STATE : Fld := ⟨Reg.SYS_STATE, 2, 0⟩

/-! Fields of the registers of spec/01_swath_architecture.md. -/

def SYS_RECFG_CTRL_KEY : Fld := ⟨Reg.SYS_RECFG_CTRL, 31, 24⟩
def SYS_RECFG_CTRL_LENGTH : Fld := ⟨Reg.SYS_RECFG_CTRL, 15, 0⟩
def SYS_RECFG_TARGET_TARGET_STOOK : Fld := ⟨Reg.SYS_RECFG_TARGET, 31, 0⟩
def SYS_RECFG_STATUS_STATE : Fld := ⟨Reg.SYS_RECFG_STATUS, 31, 28⟩
def SYS_RECFG_STATUS_REASON : Fld := ⟨Reg.SYS_RECFG_STATUS, 23, 16⟩
def SYS_RECFG_STATUS_APPLIED : Fld := ⟨Reg.SYS_RECFG_STATUS, 15, 0⟩

/-! Fields of the registers of spec/07_swath_pipeline_and_tines.md. -/

def PIPE_SUSP_SEEN : Fld := ⟨Reg.PIPE_SUSP, 31, 31⟩
def PIPE_SUSP_REASONS : Fld := ⟨Reg.PIPE_SUSP, 20, 16⟩
def PIPE_SUSP_SWATH_SWATH : Fld := ⟨Reg.PIPE_SUSP_SWATH, 31, 0⟩
def PIPE_SUSP_COUNT_COUNT : Fld := ⟨Reg.PIPE_SUSP_COUNT, 31, 0⟩
def PIPE_PAIR_CFG_FIXED (i : Nat) : Fld := ⟨Reg.PIPE_PAIR_CFG i, 31, 31⟩
def PIPE_PAIR_CFG_H (i : Nat) : Fld := ⟨Reg.PIPE_PAIR_CFG i, 30, 28⟩
def PIPE_PAIR_CFG_POST (i : Nat) : Fld := ⟨Reg.PIPE_PAIR_CFG i, 27, 27⟩
def PIPE_PAIR_CFG_SPEC (i : Nat) : Fld := ⟨Reg.PIPE_PAIR_CFG i, 26, 26⟩
def PIPE_PAIR_CFG_DFIX_SLOT (i : Nat) : Fld := ⟨Reg.PIPE_PAIR_CFG i, 12, 0⟩
def PIPE_PAIR_LAST_OUTCOME (i : Nat) : Fld := ⟨Reg.PIPE_PAIR_LAST i, 31, 28⟩
def PIPE_PAIR_LAST_TINE (i : Nat) : Fld := ⟨Reg.PIPE_PAIR_LAST i, 27, 24⟩
def PIPE_PAIR_LAST_TINES_DONE (i : Nat) : Fld := ⟨Reg.PIPE_PAIR_LAST i, 23, 20⟩
def PIPE_PAIR_LAST_READY (i : Nat) : Fld := ⟨Reg.PIPE_PAIR_LAST i, 19, 0⟩
def PIPE_PAIR_CNT_HITS (i : Nat) : Fld := ⟨Reg.PIPE_PAIR_CNT i, 31, 16⟩
def PIPE_PAIR_CNT_MISSES (i : Nat) : Fld := ⟨Reg.PIPE_PAIR_CNT i, 15, 0⟩
def PIPE_PAIR_SWATH_SWATH (i : Nat) : Fld := ⟨Reg.PIPE_PAIR_SWATH i, 31, 0⟩

/-! Fields of the registers of spec/09_granary_and_cribs.md. -/

def GRN_ECC_CORR : Fld := ⟨Reg.GRN_ECC, 31, 16⟩
def GRN_ECC_UNCORR : Fld := ⟨Reg.GRN_ECC, 15, 8⟩
def GRN_ECC_ADDR_AREA : Fld := ⟨Reg.GRN_ECC_ADDR, 31, 28⟩
def GRN_ECC_ADDR_ADDR : Fld := ⟨Reg.GRN_ECC_ADDR, 23, 0⟩
def GRN_SCRUB_PASSES : Fld := ⟨Reg.GRN_SCRUB, 31, 0⟩

/-! Fields of the registers of spec/10_configuration_and_boot.md. -/

def BOOT_STATUS_MODE : Fld := ⟨Reg.BOOT_STATUS, 31, 30⟩
def BOOT_STATUS_SLOT : Fld := ⟨Reg.BOOT_STATUS, 29, 29⟩
def BOOT_STATUS_TRIAL : Fld := ⟨Reg.BOOT_STATUS, 28, 28⟩
def BOOT_STATUS_REASON_1 : Fld := ⟨Reg.BOOT_STATUS, 15, 8⟩
def BOOT_STATUS_REASON_2 : Fld := ⟨Reg.BOOT_STATUS, 7, 0⟩
def BOOT_DETAIL_TYPE : Fld := ⟨Reg.BOOT_DETAIL, 31, 16⟩
def BOOT_DETAIL_WORD : Fld := ⟨Reg.BOOT_DETAIL, 15, 0⟩
def BOOT_FUSES_SVC_KEY : Fld := ⟨Reg.BOOT_FUSES, 9, 9⟩
def BOOT_FUSES_KEY : Fld := ⟨Reg.BOOT_FUSES, 8, 8⟩
def BOOT_FUSES_ROLLBACK : Fld := ⟨Reg.BOOT_FUSES, 7, 0⟩
def BOOT_CTRL_KEY : Fld := ⟨Reg.BOOT_CTRL, 31, 24⟩
def STAGE_STATUS_STATE : Fld := ⟨Reg.STAGE_STATUS, 31, 28⟩
def STAGE_STATUS_REASON : Fld := ⟨Reg.STAGE_STATUS, 23, 16⟩
def STAGE_NEXT_NEXT : Fld := ⟨Reg.STAGE_NEXT, 22, 0⟩
def SYS_ARM_KEY : Fld := ⟨Reg.SYS_ARM, 31, 24⟩
def SYS_ARM_HALVES : Fld := ⟨Reg.SYS_ARM, 1, 0⟩
def SYS_ARM_STATUS_STATE : Fld := ⟨Reg.SYS_ARM_STATUS, 31, 28⟩
def SYS_ARM_STATUS_CODE : Fld := ⟨Reg.SYS_ARM_STATUS, 7, 0⟩
def SYS_COMMISSION_KEY : Fld := ⟨Reg.SYS_COMMISSION, 31, 24⟩
def SYS_COMMISSION_STATE : Fld := ⟨Reg.SYS_COMMISSION, 1, 0⟩

/-! Fields of the registers of spec/11_host_port.md. -/

def HP_CFG_MEMBER : Fld := ⟨Reg.HP_CFG, 31, 31⟩
def HP_CFG_VIO_HIGH : Fld := ⟨Reg.HP_CFG, 30, 30⟩
def HP_CFG_FLOW : Fld := ⟨Reg.HP_CFG, 2, 2⟩
def HP_CFG_LANE : Fld := ⟨Reg.HP_CFG, 1, 0⟩
def HP_BUSY_LIMIT_LIMIT : Fld := ⟨Reg.HP_BUSY_LIMIT, 15, 0⟩
def HP_HLEN_HLEN : Fld := ⟨Reg.HP_HLEN, 13, 0⟩
def HP_STATUS_LAST_CODE : Fld := ⟨Reg.HP_STATUS, 31, 24⟩
def HP_STATUS_LAST_OP : Fld := ⟨Reg.HP_STATUS, 23, 16⟩
def HP_STATUS_QUEUE_USED : Fld := ⟨Reg.HP_STATUS, 6, 0⟩
def HP_LAST_ERR_CODE : Fld := ⟨Reg.HP_LAST_ERR, 31, 24⟩
def HP_LAST_ERR_ADDR : Fld := ⟨Reg.HP_LAST_ERR, 23, 0⟩
def HP_LAST_ERR_SWATH_SWATH : Fld := ⟨Reg.HP_LAST_ERR_SWATH, 31, 0⟩
def HP_COUNTS_BAD_HEADER : Fld := ⟨Reg.HP_COUNTS, 31, 24⟩
def HP_COUNTS_SEAL_FAIL : Fld := ⟨Reg.HP_COUNTS, 23, 16⟩
def HP_COUNTS_LATE : Fld := ⟨Reg.HP_COUNTS, 15, 8⟩
def HP_COUNTS_ABORTED : Fld := ⟨Reg.HP_COUNTS, 7, 0⟩
def HP_COUNTS2_BUSY_TIMEOUT : Fld := ⟨Reg.HP_COUNTS2, 31, 24⟩
def HP_COUNTS2_QUEUE_FULL : Fld := ⟨Reg.HP_COUNTS2, 23, 16⟩
def HP_COUNTS2_BLOCK_OFF : Fld := ⟨Reg.HP_COUNTS2, 15, 8⟩
def HP_COUNTS2_STAMP_DROP : Fld := ⟨Reg.HP_COUNTS2, 7, 0⟩
def HP_FORCED_COUNT : Fld := ⟨Reg.HP_FORCED, 8, 0⟩

/-! Fields of the registers of spec/15_faults_and_watchdogs.md. -/

def FC_CFG_IRQ_CLASS : Fld := ⟨Reg.FC_CFG, 2, 0⟩
def FC_STATUS_FAULT_N : Fld := ⟨Reg.FC_STATUS, 19, 19⟩
def FC_STATUS_PENDING : Fld := ⟨Reg.FC_STATUS, 17, 16⟩
def FC_STATUS_LATCHED : Fld := ⟨Reg.FC_STATUS, 15, 0⟩
def FC_SUMMARY_LOST : Fld := ⟨Reg.FC_SUMMARY, 31, 16⟩
def FC_SUMMARY_HIGHEST : Fld := ⟨Reg.FC_SUMMARY, 10, 8⟩
def FC_SUMMARY_SEEN : Fld := ⟨Reg.FC_SUMMARY, 5, 0⟩
def FC_CLEAR_KEY : Fld := ⟨Reg.FC_CLEAR, 31, 24⟩
def FC_CLEAR_FIRST : Fld := ⟨Reg.FC_CLEAR, 20, 20⟩
def FC_CLEAR_HALVES : Fld := ⟨Reg.FC_CLEAR, 17, 16⟩
def FC_CLEAR_CHANNELS : Fld := ⟨Reg.FC_CLEAR, 15, 0⟩
def FC_FORCE_MSG_MSG : Fld := ⟨Reg.FC_FORCE_MSG, 31, 6⟩
def FC_FORCE_MSG_REHEARSAL : Fld := ⟨Reg.FC_FORCE_MSG, 5, 5⟩
def FC_FORCE_CTRL_KEY : Fld := ⟨Reg.FC_FORCE_CTRL, 31, 24⟩
def FC_FORCE_CTRL_STATE : Fld := ⟨Reg.FC_FORCE_CTRL, 1, 0⟩
def FC_SRC_CNT_COUNT (i : Nat) : Fld := ⟨Reg.FC_SRC_CNT i, 31, 8⟩
def FC_SRC_CNT_LAST_KIND (i : Nat) : Fld := ⟨Reg.FC_SRC_CNT i, 5, 0⟩
def WDG_CFG_EN : Fld := ⟨Reg.WDG_CFG, 31, 31⟩
def WDG_CFG_SEALED : Fld := ⟨Reg.WDG_CFG, 30, 30⟩
def WDG_CFG_LOCK : Fld := ⟨Reg.WDG_CFG, 29, 29⟩
def WDG_WINDOW_PERIOD : Fld := ⟨Reg.WDG_WINDOW, 31, 16⟩
def WDG_WINDOW_OPEN : Fld := ⟨Reg.WDG_WINDOW, 15, 0⟩
def WDG_KICK_WORD : Fld := ⟨Reg.WDG_KICK, 15, 0⟩
def WDG_STATUS_STATE : Fld := ⟨Reg.WDG_STATUS, 31, 28⟩
def WDG_STATUS_SERVED : Fld := ⟨Reg.WDG_STATUS, 27, 27⟩
def WDG_STATUS_DISABLE_WAIT : Fld := ⟨Reg.WDG_STATUS, 26, 26⟩
def WDG_STATUS_OPENED : Fld := ⟨Reg.WDG_STATUS, 25, 25⟩
def WDG_STATUS_REMAIN : Fld := ⟨Reg.WDG_STATUS, 15, 0⟩
def WDG_COUNTS_LATE : Fld := ⟨Reg.WDG_COUNTS, 31, 24⟩
def WDG_COUNTS_EARLY : Fld := ⟨Reg.WDG_COUNTS, 23, 16⟩
def WDG_COUNTS_KEY : Fld := ⟨Reg.WDG_COUNTS, 15, 8⟩
def RC_MISS_ALL (i : Nat) : Fld := ⟨Reg.RC_MISS i, 31, 0⟩
def RC_DUP_ALL (i : Nat) : Fld := ⟨Reg.RC_DUP i, 31, 0⟩
def RC_STATE_STATE (i : Nat) : Fld := ⟨Reg.RC_STATE i, 31, 28⟩
def RC_STATE_MISSED (i : Nat) : Fld := ⟨Reg.RC_STATE i, 15, 0⟩

/-! Fields of the registers of spec/17_power_states.md. -/

def PWR_TARGET_REQ : Fld := ⟨Reg.PWR_TARGET, 7, 7⟩
def PWR_TARGET_STATE : Fld := ⟨Reg.PWR_TARGET, 6, 4⟩
def PWR_TARGET_LEVEL : Fld := ⟨Reg.PWR_TARGET, 1, 0⟩
def PWR_STATUS_STATE : Fld := ⟨Reg.PWR_STATUS, 31, 28⟩
def PWR_STATUS_WAITING : Fld := ⟨Reg.PWR_STATUS, 27, 27⟩
def PWR_STATUS_GRACE_LEFT : Fld := ⟨Reg.PWR_STATUS, 11, 8⟩
def PWR_STATUS_LEVEL : Fld := ⟨Reg.PWR_STATUS, 1, 0⟩
def PWR_CFG_REG : Fld := ⟨Reg.PWR_CFG, 31, 31⟩
def PWR_CFG_NAP_EN : Fld := ⟨Reg.PWR_CFG, 30, 30⟩
def PWR_CFG_REQ_PAIR : Fld := ⟨Reg.PWR_CFG, 26, 24⟩
def PWR_CFG_LEVEL : Fld := ⟨Reg.PWR_CFG, 17, 16⟩
def PWR_CFG_ENTRY_GRACE : Fld := ⟨Reg.PWR_CFG, 15, 8⟩
def PWR_WAKE_CFG_PIN : Fld := ⟨Reg.PWR_WAKE_CFG, 31, 31⟩
def PWR_WAKE_CFG_HSEL : Fld := ⟨Reg.PWR_WAKE_CFG, 30, 30⟩
def PWR_WAKE_CFG_ALARM : Fld := ⟨Reg.PWR_WAKE_CFG, 29, 29⟩
def PWR_WAKE_CFG_DI : Fld := ⟨Reg.PWR_WAKE_CFG, 15, 0⟩
def PWR_WAKE_AT_SWATH : Fld := ⟨Reg.PWR_WAKE_AT, 31, 0⟩
def PWR_STATE_BIAS (i : Nat) : Fld := ⟨Reg.PWR_STATE i, 31, 29⟩
def PWR_STATE_ASSIST (i : Nat) : Fld := ⟨Reg.PWR_STATE i, 28, 27⟩
def PWR_STATE_RETAIN (i : Nat) : Fld := ⟨Reg.PWR_STATE i, 6, 0⟩
def PWR_REFUSED_COUNT : Fld := ⟨Reg.PWR_REFUSED, 31, 0⟩
def PWR_REFUSER_STATE : Fld := ⟨Reg.PWR_REFUSER, 7, 4⟩
def PWR_REFUSER_CODE : Fld := ⟨Reg.PWR_REFUSER, 3, 0⟩
def PWR_REPLAYED_COUNT : Fld := ⟨Reg.PWR_REPLAYED, 31, 0⟩
def PWR_WAKE_CAUSE_SOURCE : Fld := ⟨Reg.PWR_WAKE_CAUSE, 31, 28⟩
def PWR_WAKE_CAUSE_FROM : Fld := ⟨Reg.PWR_WAKE_CAUSE, 27, 24⟩
def PWR_WAKE_CAUSE_CHANNEL : Fld := ⟨Reg.PWR_WAKE_CAUSE, 19, 16⟩
def PWR_WAKE_CAUSE_SWATH : Fld := ⟨Reg.PWR_WAKE_CAUSE, 15, 0⟩

/-! Fields of the registers of spec/12_check_value_units.md. -/

def CVU_CFG_MODE (i : Nat) : Fld := ⟨Reg.CVU_CFG i, 31, 30⟩
def CVU_CFG_CHECK (i : Nat) : Fld := ⟨Reg.CVU_CFG i, 29, 29⟩
def CVU_CFG_ALIVE_EN (i : Nat) : Fld := ⟨Reg.CVU_CFG i, 28, 28⟩
def CVU_CFG_SEG (i : Nat) : Fld := ⟨Reg.CVU_CFG i, 27, 23⟩
def CVU_CFG_POS (i : Nat) : Fld := ⟨Reg.CVU_CFG i, 22, 15⟩
def CVU_TIMING_PERIOD (i : Nat) : Fld := ⟨Reg.CVU_TIMING i, 31, 16⟩
def CVU_TIMING_D (i : Nat) : Fld := ⟨Reg.CVU_TIMING i, 15, 0⟩
def CVU_CTRL_KEY (i : Nat) : Fld := ⟨Reg.CVU_CTRL i, 31, 24⟩
def CVU_SESSION_ID (i : Nat) : Fld := ⟨Reg.CVU_SESSION i, 31, 0⟩
def CVU_ALIVE_SYNC (i : Nat) : Fld := ⟨Reg.CVU_ALIVE i, 31, 31⟩
def CVU_ALIVE_SCANNING (i : Nat) : Fld := ⟨Reg.CVU_ALIVE i, 30, 30⟩
def CVU_ALIVE_EXPECT (i : Nat) : Fld := ⟨Reg.CVU_ALIVE i, 15, 0⟩
def CVU_DEV_ALIVE_VALUE (i : Nat) : Fld := ⟨Reg.CVU_DEV_ALIVE i, 15, 0⟩
def CVU_COUNTS_REPEAT (i : Nat) : Fld := ⟨Reg.CVU_COUNTS i, 31, 24⟩
def CVU_COUNTS_SKIP (i : Nat) : Fld := ⟨Reg.CVU_COUNTS i, 23, 16⟩
def CVU_COUNTS_CRC (i : Nat) : Fld := ⟨Reg.CVU_COUNTS i, 15, 8⟩
def CVU_COUNTS_TRIG_LOST (i : Nat) : Fld := ⟨Reg.CVU_COUNTS i, 7, 0⟩

/-! Fields of the registers of spec/18_performance_counters.md. -/

def PC_CTRL_KEY : Fld := ⟨Reg.PC_CTRL, 31, 24⟩
def PC_STATUS_FROZEN : Fld := ⟨Reg.PC_STATUS, 31, 31⟩
def PC_STATUS_WAITING : Fld := ⟨Reg.PC_STATUS, 30, 30⟩
def PC_STATUS_SNAP_SWATH : Fld := ⟨Reg.PC_STATUS, 29, 0⟩

/-! Fields of the registers of spec/14_yoke_twin_operation.md. -/

def YK_CFG_MODE : Fld := ⟨Reg.YK_CFG, 31, 30⟩
def YK_CFG_ROLE : Fld := ⟨Reg.YK_CFG, 29, 29⟩
def YK_CFG_LISTS : Fld := ⟨Reg.YK_CFG, 6, 0⟩
def YK_DISC_IN_DISC : Fld := ⟨Reg.YK_DISC, 15, 8⟩
def YK_DISC_OUT_DISC : Fld := ⟨Reg.YK_DISC, 7, 0⟩
def YK_STATUS_STATE : Fld := ⟨Reg.YK_STATUS, 31, 28⟩
def YK_STATUS_ACTIVE : Fld := ⟨Reg.YK_STATUS, 27, 27⟩
def YK_STATUS_READY : Fld := ⟨Reg.YK_STATUS, 26, 26⟩
def YK_STATUS_PARTNER_READY : Fld := ⟨Reg.YK_STATUS, 25, 25⟩
def YK_STATUS_CLAIM : Fld := ⟨Reg.YK_STATUS, 24, 24⟩
def YK_STATUS_BEAT_OK : Fld := ⟨Reg.YK_STATUS, 23, 23⟩
def YK_STATUS_LINK_OK : Fld := ⟨Reg.YK_STATUS, 22, 22⟩
def YK_STATUS_YFLT : Fld := ⟨Reg.YK_STATUS, 21, 21⟩
def YK_STATUS_REASON : Fld := ⟨Reg.YK_STATUS, 7, 0⟩
def YK_CTRL_KEY : Fld := ⟨Reg.YK_CTRL, 31, 24⟩
def YK_COUNTS_INVALID : Fld := ⟨Reg.YK_COUNTS, 31, 16⟩
def YK_COUNTS_BLOCKS_LOST : Fld := ⟨Reg.YK_COUNTS, 15, 8⟩
def YK_COUNTS_DISC : Fld := ⟨Reg.YK_COUNTS, 7, 0⟩

/-! Fields of the registers of spec/13_gleaner_chains.md. -/

def GLN_CFG_HEAD : Fld := ⟨Reg.GLN_CFG, 31, 31⟩
def GLN_CFG_LOST_N : Fld := ⟨Reg.GLN_CFG, 23, 20⟩
def GLN_CFG_ENUM_N : Fld := ⟨Reg.GLN_CFG, 15, 0⟩
def GLN_STATUS_STATE : Fld := ⟨Reg.GLN_STATUS, 31, 28⟩
def GLN_STATUS_SEG : Fld := ⟨Reg.GLN_STATUS, 4, 0⟩
def GLN_SEG_CFG_EN (i : Nat) : Fld := ⟨Reg.GLN_SEG_CFG i, 31, 31⟩
def GLN_SEG_CFG_LANE (i : Nat) : Fld := ⟨Reg.GLN_SEG_CFG i, 30, 29⟩
def GLN_SEG_CFG_DIV (i : Nat) : Fld := ⟨Reg.GLN_SEG_CFG i, 28, 27⟩
def GLN_SEG_CFG_HLEN (i : Nat) : Fld := ⟨Reg.GLN_SEG_CFG i, 13, 0⟩
def GLN_SEG_SCHED_PERIOD (i : Nat) : Fld := ⟨Reg.GLN_SEG_SCHED i, 31, 24⟩
def GLN_SEG_SCHED_PHASE (i : Nat) : Fld := ⟨Reg.GLN_SEG_SCHED i, 23, 16⟩
def GLN_SEG_SCHED_N (i : Nat) : Fld := ⟨Reg.GLN_SEG_SCHED i, 15, 8⟩
def GLN_SEG_SCHED_LAT_MAX (i : Nat) : Fld := ⟨Reg.GLN_SEG_SCHED i, 7, 0⟩
def GLN_SEG_STATE_STATE (i : Nat) : Fld := ⟨Reg.GLN_SEG_STATE i, 31, 28⟩
def GLN_SEG_STATE_LAT (i : Nat) : Fld := ⟨Reg.GLN_SEG_STATE i, 26, 16⟩
def GLN_SEG_STATE_FOUND (i : Nat) : Fld := ⟨Reg.GLN_SEG_STATE i, 15, 8⟩
def GLN_SEG_STATE_LOST (i : Nat) : Fld := ⟨Reg.GLN_SEG_STATE i, 7, 0⟩
def GLN_SEG_COUNTS_SCAN_LATE (i : Nat) : Fld := ⟨Reg.GLN_SEG_COUNTS i, 31, 24⟩
def GLN_SEG_COUNTS_BROKEN (i : Nat) : Fld := ⟨Reg.GLN_SEG_COUNTS i, 23, 16⟩
def GLN_SEG_COUNTS_FAILED (i : Nat) : Fld := ⟨Reg.GLN_SEG_COUNTS i, 15, 0⟩
def GLN_MBR_SEL_SEG : Fld := ⟨Reg.GLN_MBR_SEL, 12, 8⟩
def GLN_MBR_SEL_POS : Fld := ⟨Reg.GLN_MBR_SEL, 7, 0⟩
def GLN_MBR_INFO_STATE : Fld := ⟨Reg.GLN_MBR_INFO, 31, 28⟩
def GLN_MBR_INFO_FAILS : Fld := ⟨Reg.GLN_MBR_INFO, 27, 24⟩
def GLN_MBR_INFO_CLASS : Fld := ⟨Reg.GLN_MBR_INFO, 23, 16⟩
def GLN_MBR_INFO_LAYOUT : Fld := ⟨Reg.GLN_MBR_INFO, 15, 8⟩
def GLN_MBR_INFO_DELTA : Fld := ⟨Reg.GLN_MBR_INFO, 7, 0⟩
def GLN_MBR_REASON_REASON : Fld := ⟨Reg.GLN_MBR_REASON, 31, 24⟩
def GLN_MBR_REASON_NEXT : Fld := ⟨Reg.GLN_MBR_REASON, 18, 0⟩

/-! Fields of the registers of spec/16_service_record_and_attestation.md. -/

def SR_STATUS_JOURNAL : Fld := ⟨Reg.SR_STATUS, 31, 28⟩
def SR_STATUS_TREE : Fld := ⟨Reg.SR_STATUS, 27, 26⟩
def SR_STATUS_SESSION : Fld := ⟨Reg.SR_STATUS, 25, 25⟩
def SR_STATUS_LOCKED : Fld := ⟨Reg.SR_STATUS, 24, 24⟩
def SR_STATUS_PFAIL_OK : Fld := ⟨Reg.SR_STATUS, 23, 23⟩
def SR_STATUS_EXHAUSTED : Fld := ⟨Reg.SR_STATUS, 22, 22⟩
def SR_STATUS_SLOTS : Fld := ⟨Reg.SR_STATUS, 5, 0⟩
def SR_JRN_ACK_SEQ : Fld := ⟨Reg.SR_JRN_ACK, 31, 0⟩
def SR_COUNTS_DEFERRED : Fld := ⟨Reg.SR_COUNTS, 31, 24⟩
def SR_COUNTS_OVERRUN : Fld := ⟨Reg.SR_COUNTS, 23, 16⟩
def SR_COUNTS_AUTH_FAIL : Fld := ⟨Reg.SR_COUNTS, 15, 8⟩
def SR_COUNTS_RECOVERED : Fld := ⟨Reg.SR_COUNTS, 7, 0⟩
def SR_WIN_SEL_SRC : Fld := ⟨Reg.SR_WIN_SEL, 31, 30⟩
def SR_WIN_SEL_OFFSET : Fld := ⟨Reg.SR_WIN_SEL, 27, 0⟩
def SR_WIN_STATUS_READY : Fld := ⟨Reg.SR_WIN_STATUS, 31, 31⟩
def SR_WIN_STATUS_BYTES : Fld := ⟨Reg.SR_WIN_STATUS, 11, 0⟩
def SR_ATT_STATUS_STATE : Fld := ⟨Reg.SR_ATT_STATUS, 31, 28⟩
def SR_ATT_TOKENS_TOKENS : Fld := ⟨Reg.SR_ATT_TOKENS, 5, 0⟩
def SR_SLOT_SEL_SLOT : Fld := ⟨Reg.SR_SLOT_SEL, 4, 0⟩
def SR_SLOT_INFO_STATE : Fld := ⟨Reg.SR_SLOT_INFO, 31, 28⟩
def SR_SLOT_INFO_TARGET : Fld := ⟨Reg.SR_SLOT_INFO, 27, 22⟩
def SR_SLOT_INFO_BASE : Fld := ⟨Reg.SR_SLOT_INFO, 21, 21⟩
def SR_SLOT_INFO_CLASS : Fld := ⟨Reg.SR_SLOT_INFO, 15, 8⟩

/-! Fields of the registers of spec/02_timebase_and_sync.md. -/

def TB_SWATH_LO_SWATH_LO : Fld := ⟨Reg.TB_SWATH_LO, 31, 0⟩
def TB_SWATH_HI_SWATH_HI : Fld := ⟨Reg.TB_SWATH_HI, 15, 0⟩
def TB_PHASE_LENGTH : Fld := ⟨Reg.TB_PHASE, 28, 8⟩
def TB_PHASE_STOOK_PHASE : Fld := ⟨Reg.TB_PHASE, 7, 0⟩
def TB_CONFIG_K : Fld := ⟨Reg.TB_CONFIG, 31, 24⟩
def TB_CONFIG_L_NOM : Fld := ⟨Reg.TB_CONFIG, 19, 0⟩
def SYNC_CTRL_KP_SHIFT : Fld := ⟨Reg.SYNC_CTRL, 11, 8⟩
def SYNC_CTRL_KI_SHIFT : Fld := ⟨Reg.SYNC_CTRL, 7, 4⟩
def SYNC_CTRL_OUT_EN : Fld := ⟨Reg.SYNC_CTRL, 3, 3⟩
def SYNC_CTRL_POL : Fld := ⟨Reg.SYNC_CTRL, 2, 2⟩
def SYNC_CTRL_SRC : Fld := ⟨Reg.SYNC_CTRL, 1, 0⟩
def SYNC_OFFSET_OFFSET : Fld := ⟨Reg.SYNC_OFFSET, 15, 0⟩
def SYNC_STATUS_ERROR : Fld := ⟨Reg.SYNC_STATUS, 31, 16⟩
def SYNC_STATUS_MISSING : Fld := ⟨Reg.SYNC_STATUS, 15, 8⟩
def SYNC_STATUS_STATE : Fld := ⟨Reg.SYNC_STATUS, 2, 0⟩
def SYNC_PERIOD_P : Fld := ⟨Reg.SYNC_PERIOD, 31, 0⟩
def SYNC_COUNTS_SYNC_WILD_CNT : Fld := ⟨Reg.SYNC_COUNTS, 31, 16⟩
def SYNC_COUNTS_SYNC_MISS_CNT : Fld := ⟨Reg.SYNC_COUNTS, 15, 0⟩
def TB_CLK_STATUS_ROOT_OK : Fld := ⟨Reg.TB_CLK_STATUS, 1, 1⟩
def TB_CLK_STATUS_PLL_LOCK : Fld := ⟨Reg.TB_CLK_STATUS, 0, 0⟩

/-! Fields of the registers of spec/06_barn_door.md. -/

def BD_CFG_TIMEOUT (i : Nat) : Fld := ⟨Reg.BD_CFG i, 10, 0⟩
def BD_STATUS_LINK (i : Nat) : Fld := ⟨Reg.BD_STATUS i, 31, 28⟩
def BD_STATUS_KEEPER (i : Nat) : Fld := ⟨Reg.BD_STATUS i, 27, 24⟩
def BD_STATUS_TABLE_OK (i : Nat) : Fld := ⟨Reg.BD_STATUS i, 23, 23⟩
def BD_STATUS_FIXED_TO (i : Nat) : Fld := ⟨Reg.BD_STATUS i, 22, 22⟩
def BD_STATUS_UP_MISS (i : Nat) : Fld := ⟨Reg.BD_STATUS i, 10, 0⟩
def BD_COUNTS_DN_INVALID (i : Nat) : Fld := ⟨Reg.BD_COUNTS i, 31, 16⟩
def BD_COUNTS_UP_INVALID (i : Nat) : Fld := ⟨Reg.BD_COUNTS i, 15, 0⟩
def BD_LOSS_TIMEOUTS (i : Nat) : Fld := ⟨Reg.BD_LOSS i, 31, 24⟩
def BD_LOSS_SAMPLE_LOST (i : Nat) : Fld := ⟨Reg.BD_LOSS i, 23, 16⟩
def BD_LOSS_PREC_LOST (i : Nat) : Fld := ⟨Reg.BD_LOSS i, 15, 8⟩
def BD_LOSS_LATE_GATHER (i : Nat) : Fld := ⟨Reg.BD_LOSS i, 7, 0⟩
def BD_SAFE_CRC_CRC (i : Nat) : Fld := ⟨Reg.BD_SAFE_CRC i, 31, 0⟩
def BD_LAST_FAIL_SWATH (i : Nat) : Fld := ⟨Reg.BD_LAST_FAIL i, 31, 0⟩

/-! Fields of the registers of spec/03_field_channels.md. -/

def CH_CFG_SAFETY (i : Nat) : Fld := ⟨Reg.CH_CFG i, 31, 31⟩
def CH_CFG_TEST_OK (i : Nat) : Fld := ⟨Reg.CH_CFG i, 30, 30⟩
def CH_CFG_OPT (i : Nat) : Fld := ⟨Reg.CH_CFG i, 19, 16⟩
def CH_CFG_FUNC (i : Nat) : Fld := ⟨Reg.CH_CFG i, 3, 0⟩
def CH_CMD_SRC_EN (i : Nat) : Fld := ⟨Reg.CH_CMD_SRC i, 31, 31⟩
def CH_CMD_SRC_INDEX (i : Nat) : Fld := ⟨Reg.CH_CMD_SRC i, 16, 0⟩
def CH_DI_FILT_L (i : Nat) : Fld := ⟨Reg.CH_DI i, 31, 16⟩
def CH_DI_ON_TH (i : Nat) : Fld := ⟨Reg.CH_DI i, 15, 8⟩
def CH_DI_OFF_TH (i : Nat) : Fld := ⟨Reg.CH_DI i, 7, 0⟩
def CH_DO_ILIM (i : Nat) : Fld := ⟨Reg.CH_DO i, 31, 24⟩
def CH_DO_T_OVL (i : Nat) : Fld := ⟨Reg.CH_DO i, 23, 14⟩
def CH_DO_OVL_MODE (i : Nat) : Fld := ⟨Reg.CH_DO i, 13, 12⟩
def CH_DO_RETRY_MAX (i : Nat) : Fld := ⟨Reg.CH_DO i, 11, 8⟩
def CH_DO_RETRY_BASE (i : Nat) : Fld := ⟨Reg.CH_DO i, 7, 0⟩
def CH_DIAG_DP_EN (i : Nat) : Fld := ⟨Reg.CH_DIAG i, 31, 31⟩
def CH_DIAG_DP_SLOT (i : Nat) : Fld := ⟨Reg.CH_DIAG i, 30, 26⟩
def CH_DIAG_DP_WIDTH (i : Nat) : Fld := ⟨Reg.CH_DIAG i, 25, 16⟩
def CH_DIAG_OW_ON_EN (i : Nat) : Fld := ⟨Reg.CH_DIAG i, 15, 15⟩
def CH_DIAG_OW_OFF_EN (i : Nat) : Fld := ⟨Reg.CH_DIAG i, 14, 14⟩
def CH_DIAG_SVF_EN (i : Nat) : Fld := ⟨Reg.CH_DIAG i, 13, 13⟩
def CH_DIAG_NE43 (i : Nat) : Fld := ⟨Reg.CH_DIAG i, 12, 12⟩
def CH_DIAG_OW_TIME (i : Nat) : Fld := ⟨Reg.CH_DIAG i, 7, 0⟩
def CH_SAFE_SAFE (i : Nat) : Fld := ⟨Reg.CH_SAFE i, 31, 29⟩
def CH_SAFE_NIGHT (i : Nat) : Fld := ⟨Reg.CH_SAFE i, 28, 26⟩
def CH_SAFE_HOLD_MS (i : Nat) : Fld := ⟨Reg.CH_SAFE i, 15, 0⟩
def CH_CMD_CMD (i : Nat) : Fld := ⟨Reg.CH_CMD i, 31, 0⟩
def CH_STATUS_STATE (i : Nat) : Fld := ⟨Reg.CH_STATUS i, 31, 28⟩
def CH_STATUS_ALM_HIGH (i : Nat) : Fld := ⟨Reg.CH_STATUS i, 27, 27⟩
def CH_STATUS_ATTEMPT (i : Nat) : Fld := ⟨Reg.CH_STATUS i, 26, 23⟩
def CH_STATUS_QUALITY (i : Nat) : Fld := ⟨Reg.CH_STATUS i, 15, 0⟩
def CH_READBACK_VTERM (i : Nat) : Fld := ⟨Reg.CH_READBACK i, 31, 16⟩
def CH_READBACK_ISW (i : Nat) : Fld := ⟨Reg.CH_READBACK i, 15, 0⟩
def CH_FLAGS_PARTNER (i : Nat) : Fld := ⟨Reg.CH_FLAGS i, 20, 16⟩
def CH_FLAGS_LATCHED (i : Nat) : Fld := ⟨Reg.CH_FLAGS i, 12, 12⟩
def CH_FLAGS_EVENTS (i : Nat) : Fld := ⟨Reg.CH_FLAGS i, 11, 0⟩
def CH_COUNTS_OVL_TRIPS (i : Nat) : Fld := ⟨Reg.CH_COUNTS i, 31, 24⟩
def CH_COUNTS_HOT_TRIPS (i : Nat) : Fld := ⟨Reg.CH_COUNTS i, 23, 16⟩
def CH_COUNTS_DP_FAIL (i : Nat) : Fld := ⟨Reg.CH_COUNTS i, 15, 8⟩
def CH_COUNTS_DP_SKIP (i : Nat) : Fld := ⟨Reg.CH_COUNTS i, 7, 0⟩
def FH_STATUS_VFIELD (i : Nat) : Fld := ⟨Reg.FH_STATUS i, 31, 16⟩
def FH_STATUS_SUPPLY (i : Nat) : Fld := ⟨Reg.FH_STATUS i, 15, 13⟩
def FH_STATUS_ALM_STRAP (i : Nat) : Fld := ⟨Reg.FH_STATUS i, 12, 11⟩
def FH_STATUS_GATE_CLOSED (i : Nat) : Fld := ⟨Reg.FH_STATUS i, 10, 10⟩
def FH_STATUS_GATE_HELD (i : Nat) : Fld := ⟨Reg.FH_STATUS i, 9, 9⟩
def FH_STATUS_GDRV_ON (i : Nat) : Fld := ⟨Reg.FH_STATUS i, 8, 8⟩
def FH_STATUS_AGG_CURRENT (i : Nat) : Fld := ⟨Reg.FH_STATUS i, 7, 0⟩
def FH_CTRL_KEY (i : Nat) : Fld := ⟨Reg.FH_CTRL i, 31, 24⟩
def FH_CFG_UV_AUTO (i : Nat) : Fld := ⟨Reg.FH_CFG i, 31, 31⟩
def FH_CFG_GDRV_MODE (i : Nat) : Fld := ⟨Reg.FH_CFG i, 30, 29⟩
def FH_CFG_FB_CH (i : Nat) : Fld := ⟨Reg.FH_CFG i, 28, 24⟩
def FH_CFG_FB_TIME (i : Nat) : Fld := ⟨Reg.FH_CFG i, 23, 16⟩
def FH_DP_DP_PERIOD (i : Nat) : Fld := ⟨Reg.FH_DP i, 31, 8⟩
def FH_DP_DP_GAP (i : Nat) : Fld := ⟨Reg.FH_DP i, 7, 0⟩
def FH_COUNTS_UV_CNT (i : Nat) : Fld := ⟨Reg.FH_COUNTS i, 31, 24⟩
def FH_COUNTS_RESTARTS (i : Nat) : Fld := ⟨Reg.FH_COUNTS i, 23, 16⟩
def FH_COUNTS_GATE_SKIP (i : Nat) : Fld := ⟨Reg.FH_COUNTS i, 15, 8⟩

/-! Fields of the registers of spec/04_thresher_conversion.md. -/

def THR_WIN_PERIOD_N (i : Nat) : Fld := ⟨Reg.THR_WIN i, 31, 16⟩
def THR_WIN_FS_EN (i : Nat) : Fld := ⟨Reg.THR_WIN i, 15, 15⟩
def THR_WIN_FS_CRIB (i : Nat) : Fld := ⟨Reg.THR_WIN i, 14, 13⟩
def THR_WIN_PS_EN (i : Nat) : Fld := ⟨Reg.THR_WIN i, 12, 12⟩
def THR_WIN_PS_CRIB (i : Nat) : Fld := ⟨Reg.THR_WIN i, 11, 10⟩
def THR_WIN_FS_DECIM (i : Nat) : Fld := ⟨Reg.THR_WIN i, 7, 0⟩
def THR_PREC_CODE (i : Nat) : Fld := ⟨Reg.THR_PREC i, 31, 0⟩
def THR_PREC_Q_STOOK (i : Nat) : Fld := ⟨Reg.THR_PREC_Q i, 31, 16⟩
def THR_PREC_Q_QUAL (i : Nat) : Fld := ⟨Reg.THR_PREC_Q i, 15, 0⟩
def THR_PB_CNT_COUNT (i : Nat) : Fld := ⟨Reg.THR_PB_CNT i, 31, 16⟩
def THR_PB_CNT_QUAL (i : Nat) : Fld := ⟨Reg.THR_PB_CNT i, 15, 0⟩
def THR_PB_INFO_PARTIAL (i : Nat) : Fld := ⟨Reg.THR_PB_INFO i, 31, 31⟩
def THR_PB_INFO_LIVE_COUNT (i : Nat) : Fld := ⟨Reg.THR_PB_INFO i, 15, 0⟩
def THR_FB_CNT_COUNT (i : Nat) : Fld := ⟨Reg.THR_FB_CNT i, 31, 16⟩
def THR_FB_CNT_QUAL (i : Nat) : Fld := ⟨Reg.THR_FB_CNT i, 15, 0⟩
def THR_FB_MINMAX_MAX (i : Nat) : Fld := ⟨Reg.THR_FB_MINMAX i, 31, 16⟩
def THR_FB_MINMAX_MIN (i : Nat) : Fld := ⟨Reg.THR_FB_MINMAX i, 15, 0⟩
def THR_FB_SEC_EDGES (i : Nat) : Fld := ⟨Reg.THR_FB_SEC i, 31, 16⟩
def THR_FB_SEC_SEC (i : Nat) : Fld := ⟨Reg.THR_FB_SEC i, 15, 0⟩
def THR_AT_CLEAR_KEY (i : Nat) : Fld := ⟨Reg.THR_AT_CLEAR i, 31, 24⟩
def THR_FLAGS_UNLOCKED_SEEN (i : Nat) : Fld := ⟨Reg.THR_FLAGS i, 6, 6⟩
def THR_FLAGS_REF_SEEN (i : Nat) : Fld := ⟨Reg.THR_FLAGS i, 5, 5⟩
def THR_FLAGS_SHORT_STOOK (i : Nat) : Fld := ⟨Reg.THR_FLAGS i, 4, 4⟩
def THR_FLAGS_NEIGHBOUR_SEEN (i : Nat) : Fld := ⟨Reg.THR_FLAGS i, 3, 3⟩
def THR_FLAGS_CLAMP_SEEN (i : Nat) : Fld := ⟨Reg.THR_FLAGS i, 2, 2⟩
def THR_FLAGS_UNDR_SEEN (i : Nat) : Fld := ⟨Reg.THR_FLAGS i, 1, 1⟩
def THR_FLAGS_OVR_SEEN (i : Nat) : Fld := ⟨Reg.THR_FLAGS i, 0, 0⟩
def THR_NOW_SHUNT_OPEN (i : Nat) : Fld := ⟨Reg.THR_NOW i, 4, 4⟩
def THR_NOW_NEIGHBOUR (i : Nat) : Fld := ⟨Reg.THR_NOW i, 3, 3⟩
def THR_NOW_CLAMP (i : Nat) : Fld := ⟨Reg.THR_NOW i, 2, 2⟩
def THR_NOW_UNDR (i : Nat) : Fld := ⟨Reg.THR_NOW i, 1, 1⟩
def THR_NOW_OVR (i : Nat) : Fld := ⟨Reg.THR_NOW i, 0, 0⟩
def THR_REF_LEAN (i : Nat) : Fld := ⟨Reg.THR_REF i, 31, 31⟩
def THR_REF_M (i : Nat) : Fld := ⟨Reg.THR_REF i, 23, 16⟩
def THR_REF_REFBUF_EN (i : Nat) : Fld := ⟨Reg.THR_REF i, 0, 0⟩
def THR_HSTAT_CLAMPS (i : Nat) : Fld := ⟨Reg.THR_HSTAT i, 15, 8⟩
def THR_HSTAT_REF_READY (i : Nat) : Fld := ⟨Reg.THR_HSTAT i, 1, 1⟩
def THR_HSTAT_REF_ON (i : Nat) : Fld := ⟨Reg.THR_HSTAT i, 0, 0⟩

/-! Fields of the registers of spec/05_thresher_calibration_and_diagnostics.md. -/

def SEQ_CTRL_SEQ_GO (i : Nat) : Fld := ⟨Reg.SEQ_CTRL i, 0, 0⟩
def SEQ_STATUS_STATE (i : Nat) : Fld := ⟨Reg.SEQ_STATUS i, 31, 28⟩
def SEQ_STATUS_PENDING (i : Nat) : Fld := ⟨Reg.SEQ_STATUS i, 27, 27⟩
def SEQ_STATUS_STEP (i : Nat) : Fld := ⟨Reg.SEQ_STATUS i, 26, 24⟩
def SEQ_STATUS_ENTRY (i : Nat) : Fld := ⟨Reg.SEQ_STATUS i, 23, 16⟩
def SEQ_STATUS_REPEAT_LEFT (i : Nat) : Fld := ⟨Reg.SEQ_STATUS i, 15, 8⟩
def SEQ_CFG_LEN (i : Nat) : Fld := ⟨Reg.SEQ_CFG i, 31, 24⟩
def SEQ_CFG_BG_LEN (i : Nat) : Fld := ⟨Reg.SEQ_CFG i, 23, 16⟩
def SEQ_COUNTS_TRIG_LOST (i : Nat) : Fld := ⟨Reg.SEQ_COUNTS i, 31, 16⟩
def SEQ_COUNTS_REFUSED (i : Nat) : Fld := ⟨Reg.SEQ_COUNTS i, 15, 8⟩
def SEQ_COUNTS_SKIPPED (i : Nat) : Fld := ⟨Reg.SEQ_COUNTS i, 7, 0⟩
def SPR_CTRL_KEY : Fld := ⟨Reg.SPR_CTRL, 31, 24⟩
def SPR_CTRL_HALF : Fld := ⟨Reg.SPR_CTRL, 0, 0⟩
def SPR_STATUS_MODE (i : Nat) : Fld := ⟨Reg.SPR_STATUS i, 31, 28⟩
def SPR_STATUS_TARGET (i : Nat) : Fld := ⟨Reg.SPR_STATUS i, 27, 24⟩
def SPR_STATUS_CODE (i : Nat) : Fld := ⟨Reg.SPR_STATUS i, 23, 16⟩
def SPR_STATUS_LAST_D (i : Nat) : Fld := ⟨Reg.SPR_STATUS i, 15, 0⟩
def SPR_CHSTAT_UNCAL (i : Nat) : Fld := ⟨Reg.SPR_CHSTAT i, 31, 31⟩
def SPR_CHSTAT_PARKED (i : Nat) : Fld := ⟨Reg.SPR_CHSTAT i, 30, 30⟩
def SPR_CHSTAT_AGE (i : Nat) : Fld := ⟨Reg.SPR_CHSTAT i, 23, 0⟩
def FP_CFG_HOLD_DELAY (i : Nat) : Fld := ⟨Reg.FP_CFG i, 31, 24⟩
def FP_CFG_DIP_H (i : Nat) : Fld := ⟨Reg.FP_CFG i, 23, 16⟩
def FP_CFG_TSRC (i : Nat) : Fld := ⟨Reg.FP_CFG i, 15, 14⟩
def FP_CFG_EN (i : Nat) : Fld := ⟨Reg.FP_CFG i, 13, 13⟩
def FP_PULL_T_PULL (i : Nat) : Fld := ⟨Reg.FP_PULL i, 31, 16⟩
def FP_PULL_DEPTH (i : Nat) : Fld := ⟨Reg.FP_PULL i, 15, 0⟩
def FP_HOLD_I_HOLD (i : Nat) : Fld := ⟨Reg.FP_HOLD i, 31, 16⟩
def FP_HOLD_V_HOLD (i : Nat) : Fld := ⟨Reg.FP_HOLD i, 15, 0⟩
def FP_DROP_T_DROP (i : Nat) : Fld := ⟨Reg.FP_DROP i, 31, 16⟩
def FP_DROP_T_KINK (i : Nat) : Fld := ⟨Reg.FP_DROP i, 15, 0⟩
def FP_KINK_KINK_DEPTH (i : Nat) : Fld := ⟨Reg.FP_KINK i, 31, 16⟩
def FP_STAT_CAPTURES (i : Nat) : Fld := ⟨Reg.FP_STAT i, 31, 16⟩
def FP_STAT_NO_BASE (i : Nat) : Fld := ⟨Reg.FP_STAT i, 15, 15⟩
def FP_STAT_OUT (i : Nat) : Fld := ⟨Reg.FP_STAT i, 14, 14⟩
def FP_STAT_TRUNC (i : Nat) : Fld := ⟨Reg.FP_STAT i, 13, 13⟩
def FP_STAT_LIMITED (i : Nat) : Fld := ⟨Reg.FP_STAT i, 12, 12⟩
def FP_STAT_NO_DIP (i : Nat) : Fld := ⟨Reg.FP_STAT i, 11, 11⟩
def FP_STAT_NO_KINK (i : Nat) : Fld := ⟨Reg.FP_STAT i, 10, 10⟩
def FP_STAT_LOWV (i : Nat) : Fld := ⟨Reg.FP_STAT i, 9, 9⟩
def FP_STAT_NO_DROP (i : Nat) : Fld := ⟨Reg.FP_STAT i, 8, 8⟩
def FP_DEV_R_DEV (i : Nat) : Fld := ⟨Reg.FP_DEV i, 31, 16⟩
def FP_DEV_L_DEV (i : Nat) : Fld := ⟨Reg.FP_DEV i, 15, 0⟩

/-! Fields of the registers of spec/09_granary_and_cribs.md. -/

def CRIB_CFG_EN (i : Nat) : Fld := ⟨Reg.CRIB_CFG i, 31, 31⟩
def CRIB_CFG_PRODUCER (i : Nat) : Fld := ⟨Reg.CRIB_CFG i, 30, 27⟩
def CRIB_CFG_CONSUMER (i : Nat) : Fld := ⟨Reg.CRIB_CFG i, 26, 25⟩
def CRIB_CFG_POLICY (i : Nat) : Fld := ⟨Reg.CRIB_CFG i, 24, 23⟩
def CRIB_CFG_ESZ (i : Nat) : Fld := ⟨Reg.CRIB_CFG i, 22, 22⟩
def CRIB_CFG_LOG2N (i : Nat) : Fld := ⟨Reg.CRIB_CFG i, 21, 17⟩
def CRIB_CFG_PAIRS (i : Nat) : Fld := ⟨Reg.CRIB_CFG i, 3, 0⟩
def CRIB_BASE_BASE (i : Nat) : Fld := ⟨Reg.CRIB_BASE i, 20, 0⟩
def CRIB_WMARK_EN (i : Nat) : Fld := ⟨Reg.CRIB_WMARK i, 31, 31⟩
def CRIB_WMARK_WMARK (i : Nat) : Fld := ⟨Reg.CRIB_WMARK i, 16, 0⟩
def CRIB_OVF_DROPPED (i : Nat) : Fld := ⟨Reg.CRIB_OVF i, 31, 0⟩
def CRIB_STATUS_ABOVE (i : Nat) : Fld := ⟨Reg.CRIB_STATUS i, 31, 31⟩
def CRIB_STATUS_FULL (i : Nat) : Fld := ⟨Reg.CRIB_STATUS i, 30, 30⟩
def CRIB_STATUS_STALLED (i : Nat) : Fld := ⟨Reg.CRIB_STATUS i, 29, 29⟩
def CRIB_STATUS_OCCUPANCY (i : Nat) : Fld := ⟨Reg.CRIB_STATUS i, 16, 0⟩

/-! Fields of the registers of spec/08_binder_engines.md. -/

def BND_CFG_SHEAVES (i : Nat) : Fld := ⟨Reg.BND_CFG i, 31, 23⟩
def BND_CFG_MIN_LEVEL (i : Nat) : Fld := ⟨Reg.BND_CFG i, 19, 18⟩
def BND_CFG_LEVEL (i : Nat) : Fld := ⟨Reg.BND_CFG i, 17, 16⟩
def BND_CFG_PROG_LEN (i : Nat) : Fld := ⟨Reg.BND_CFG i, 14, 0⟩
def BND_STATUS_STATE (i : Nat) : Fld := ⟨Reg.BND_STATUS i, 31, 28⟩
def BND_STATUS_AT_BKPT (i : Nat) : Fld := ⟨Reg.BND_STATUS i, 27, 27⟩
def BND_STATUS_PC (i : Nat) : Fld := ⟨Reg.BND_STATUS i, 13, 0⟩
def BND_LAST_CYC_CYCLES (i : Nat) : Fld := ⟨Reg.BND_LAST_CYC i, 31, 0⟩
def BND_MAX_CYC_CYCLES (i : Nat) : Fld := ⟨Reg.BND_MAX_CYC i, 31, 0⟩
def BND_FAULT_CAUSE (i : Nat) : Fld := ⟨Reg.BND_FAULT i, 31, 28⟩
def BND_FAULT_PC (i : Nat) : Fld := ⟨Reg.BND_FAULT i, 13, 0⟩
def BND_COUNTS_ECC_CORR (i : Nat) : Fld := ⟨Reg.BND_COUNTS i, 31, 24⟩
def BND_COUNTS_SIG_OWNER (i : Nat) : Fld := ⟨Reg.BND_COUNTS i, 23, 16⟩
def BND_COUNTS_DSC_LATCH (i : Nat) : Fld := ⟨Reg.BND_COUNTS i, 15, 0⟩
def BND_PMEM_ADDR_ADDR (i : Nat) : Fld := ⟨Reg.BND_PMEM_ADDR i, 13, 0⟩
def BND_DMEM_ADDR_ADDR (i : Nat) : Fld := ⟨Reg.BND_DMEM_ADDR i, 11, 0⟩
def BND_TMR_ADDR_ADDR (i : Nat) : Fld := ⟨Reg.BND_TMR_ADDR i, 9, 0⟩
def BND_TMR_STATE_ACTIVE (i : Nat) : Fld := ⟨Reg.BND_TMR_STATE i, 31, 31⟩
def BND_TMR_STATE_Q (i : Nat) : Fld := ⟨Reg.BND_TMR_STATE i, 30, 30⟩
def BND_TMR_STATE_PREV (i : Nat) : Fld := ⟨Reg.BND_TMR_STATE i, 29, 29⟩
def BND_TMR_STATE_LATCHED (i : Nat) : Fld := ⟨Reg.BND_TMR_STATE i, 28, 28⟩
def BND_TMR_STATE_KIND (i : Nat) : Fld := ⟨Reg.BND_TMR_STATE i, 27, 25⟩
def BND_DBG_CTRL_KEY (i : Nat) : Fld := ⟨Reg.BND_DBG_CTRL i, 31, 24⟩
def BND_BKPT_EN (i k : Nat) : Fld := ⟨Reg.BND_BKPT i k, 31, 31⟩
def BND_BKPT_ADDR (i k : Nat) : Fld := ⟨Reg.BND_BKPT i k, 13, 0⟩
def BND_DBG_FLAGS_FLAGS (i : Nat) : Fld := ⟨Reg.BND_DBG_FLAGS i, 3, 0⟩

end F

/-- Register lines of spec/10_configuration_and_boot.md, in the order of Reg above. -/
def regTable10 : List RegRow :=
  [ ⟨0x000000, 0, 1, 0, 1, .ro, 0x4C4B1600, .por, 0x00000000, 0x00000000⟩,
    ⟨0x000004, 0, 1, 0, 1, .ro, 0x00000010, .por, 0x00000000, 0x00000000⟩,
    ⟨0x000008, 0, 1, 0, 1, .ro, 0x00000001, .pin, 0x00000000, 0x00000000⟩,
    ⟨0x000400, 0, 1, 0, 1, .ro, 0x00000000, .pin, 0x00000000, 0x00000000⟩,
    ⟨0x000404, 0, 1, 0, 1, .ro, 0x00000000, .pin, 0x00000000, 0x00000000⟩,
    ⟨0x000408, 0, 1, 0, 1, .ro, 0x00000000, .pin, 0x00000000, 0x00000000⟩,
    ⟨0x00040C, 0, 1, 0, 1, .ro, 0x00000000, .pin, 0x00000000, 0x00000000⟩,
    ⟨0x000410, 4, 8, 0, 1, .ro, 0x00000000, .pin, 0x00000000, 0x00000000⟩,
    ⟨0x000430, 0, 1, 0, 1, .ro, 0x00000000, .por, 0x00000000, 0x00000000⟩,
    ⟨0x000440, 0, 1, 0, 1, .wo, 0x00000000, .pin, 0xFF000000, 0x00000000⟩,
    ⟨0x000450, 0, 1, 0, 1, .ro, 0x00000000, .pin, 0x00000000, 0x00000000⟩,
    ⟨0x000454, 0, 1, 0, 1, .ro, 0x00000000, .pin, 0x00000000, 0x00000000⟩,
    ⟨0x000460, 0, 1, 0, 1, .wo, 0x00000000, .pin, 0xFF000003, 0x00000000⟩,
    ⟨0x000464, 0, 1, 0, 1, .ro, 0x00000000, .pin, 0x00000000, 0x00000000⟩,
    ⟨0x000470, 0, 1, 0, 1, .rw, 0x00000000, .pin, 0xFF000000, 0x00000000⟩ ]

/-- Register lines of spec/01_swath_architecture.md, in the order of Reg above. -/
def regTable01 : List RegRow :=
  [ ⟨0x000100, 0, 1, 0, 1, .wo, 0x00000000, .pin, 0xFF00FFFF, 0x00000000⟩,
    ⟨0x000104, 0, 1, 0, 1, .rw, 0x00000000, .pin, 0xFFFFFFFF, 0x00000000⟩,
    ⟨0x000108, 0, 1, 0, 1, .ro, 0x00000000, .pin, 0x00000000, 0x00000000⟩ ]

/-- Register lines of spec/07_swath_pipeline_and_tines.md, in the order of Reg above. -/
def regTable07 : List RegRow :=
  [ ⟨0x000200, 0, 1, 0, 1, .ro, 0x00000000, .pin, 0x00000000, 0x00000000⟩,
    ⟨0x000204, 0, 1, 0, 1, .ro, 0x00000000, .pin, 0x00000000, 0x00000000⟩,
    ⟨0x000208, 0, 1, 0, 1, .rc, 0x00000000, .pin, 0x00000000, 0x00000000⟩,
    ⟨0x000210, 16, 4, 0, 1, .ro, 0x00000000, .pin, 0x00000000, 0x00000000⟩,
    ⟨0x000214, 16, 4, 0, 1, .ro, 0x00000000, .pin, 0x00000000, 0x00000000⟩,
    ⟨0x000218, 16, 4, 0, 1, .rc, 0x00000000, .pin, 0x00000000, 0x00000000⟩,
    ⟨0x00021C, 16, 4, 0, 1, .ro, 0x00000000, .pin, 0x00000000, 0x00000000⟩ ]

/-- Register lines of spec/09_granary_and_cribs.md, in the order of Reg above. -/
def regTable09 : List RegRow :=
  [ ⟨0x000300, 0, 1, 0, 1, .rc, 0x00000000, .pin, 0x00000000, 0x00000000⟩,
    ⟨0x000304, 0, 1, 0, 1, .ro, 0x00000000, .pin, 0x00000000, 0x00000000⟩,
    ⟨0x000308, 0, 1, 0, 1, .ro, 0x00000000, .pin, 0x00000000, 0x00000000⟩,
    ⟨0x030000, 64, 32, 0, 1, .ro, 0x00000000, .pin, 0x00000000, 0x00000000⟩,
    ⟨0x030004, 64, 32, 0, 1, .ro, 0x00000000, .pin, 0x00000000, 0x00000000⟩,
    ⟨0x030008, 64, 32, 0, 1, .ro, 0x00000000, .pin, 0x00000000, 0x00000000⟩,
    ⟨0x03000C, 64, 32, 0, 1, .ro, 0x00000000, .pin, 0x00000000, 0x00000000⟩,
    ⟨0x030010, 64, 32, 0, 1, .rw, 0x00000000, .pin, 0x8001FFFF, 0x00000000⟩,
    ⟨0x030014, 64, 32, 0, 1, .rc, 0x00000000, .pin, 0x00000000, 0x00000000⟩,
    ⟨0x030018, 64, 32, 0, 1, .ro, 0x00000000, .pin, 0x00000000, 0x00000000⟩ ]

/-- Register lines of spec/11_host_port.md, in the order of Reg above. -/
def regTable11 : List RegRow :=
  [ ⟨0x001000, 0, 1, 0, 1, .rw, 0x00000000, .pin, 0x00000007, 0x00000000⟩,
    ⟨0x001004, 0, 1, 0, 1, .rw, 0x000003E8, .pin, 0x0000FFFF, 0x00000000⟩,
    ⟨0x001008, 0, 1, 0, 1, .ro, 0x00000400, .pin, 0x00000000, 0x00000000⟩,
    ⟨0x001010, 0, 1, 0, 1, .ro, 0x00000000, .pin, 0x00000000, 0x00000000⟩,
    ⟨0x001014, 0, 1, 0, 1, .ro, 0x00000000, .pin, 0x00000000, 0x00000000⟩,
    ⟨0x001018, 0, 1, 0, 1, .ro, 0x00000000, .pin, 0x00000000, 0x00000000⟩,
    ⟨0x001020, 0, 1, 0, 1, .rc, 0x00000000, .pin, 0x00000000, 0x00000000⟩,
    ⟨0x001024, 0, 1, 0, 1, .rc, 0x00000000, .pin, 0x00000000, 0x00000000⟩,
    ⟨0x001030, 0, 1, 0, 1, .ro, 0x00000000, .pin, 0x00000000, 0x00000000⟩ ]

/-- Register lines of spec/15_faults_and_watchdogs.md, in the order of Reg above. -/
def regTable15 : List RegRow :=
  [ ⟨0x002000, 0, 1, 0, 1, .ro, 0x00000007, .pin, 0x00000000, 0x00000000⟩,
    ⟨0x002004, 0, 1, 0, 1, .ro, 0x00000000, .pin, 0x00000000, 0x00000000⟩,
    ⟨0x002008, 0, 1, 0, 1, .ro, 0x00000000, .pin, 0x00000000, 0x00000000⟩,
    ⟨0x00200C, 0, 1, 0, 1, .ro, 0x00000000, .cellar, 0x00000000, 0x00000000⟩,
    ⟨0x002010, 0, 1, 0, 1, .rc, 0x00000000, .cellar, 0x00000000, 0x00000000⟩,
    ⟨0x002020, 0, 1, 0, 1, .ro, 0x00000000, .cellar, 0x00000000, 0x00000000⟩,
    ⟨0x002024, 0, 1, 0, 1, .ro, 0x00000000, .cellar, 0x00000000, 0x00000000⟩,
    ⟨0x002028, 0, 1, 0, 1, .ro, 0x00000000, .cellar, 0x00000000, 0x00000000⟩,
    ⟨0x00202C, 0, 1, 0, 1, .ro, 0x00000000, .cellar, 0x00000000, 0x00000000⟩,
    ⟨0x002040, 0, 1, 0, 1, .wo, 0x00000000, .pin, 0xFF13FFFF, 0x00000000⟩,
    ⟨0x002050, 0, 1, 0, 1, .rw, 0x00000000, .pin, 0xFFFFFFE0, 0x00000000⟩,
    ⟨0x002054, 0, 1, 0, 1, .rw, 0x00000000, .pin, 0xFF000000, 0x00000000⟩,
    ⟨0x002100, 4, 96, 0, 1, .ro, 0x00000000, .cellar, 0x00000000, 0x00000000⟩,
    ⟨0x003000, 0, 1, 0, 1, .ro, 0x00000000, .cellar, 0x00000000, 0x00000000⟩,
    ⟨0x003004, 0, 1, 0, 1, .ro, 0x00000000, .cellar, 0x00000000, 0x00000000⟩,
    ⟨0x003008, 0, 1, 0, 1, .wo, 0x00000000, .pin, 0x0000FFFF, 0x00000000⟩,
    ⟨0x00300C, 0, 1, 0, 1, .ro, 0x00000000, .pin, 0x00000000, 0x00000000⟩,
    ⟨0x003010, 0, 1, 0, 1, .rc, 0x00000000, .pin, 0x00000000, 0x00000000⟩,
    ⟨0x003014, 0, 1, 0, 1, .ro, 0x00000000, .pin, 0x00000000, 0x00000000⟩,
    ⟨0x003100, 16, 4, 0, 1, .ro, 0x00000000, .pin, 0x00000000, 0x00000000⟩ ] ++
  [ ⟨0x003104, 16, 4, 0, 1, .rc, 0x00000000, .pin, 0x00000000, 0x00000000⟩,
    ⟨0x003108, 16, 4, 0, 1, .rc, 0x00000000, .pin, 0x00000000, 0x00000000⟩,
    ⟨0x00310C, 16, 4, 0, 1, .ro, 0x00000000, .pin, 0x00000000, 0x00000000⟩ ]

/-- Register lines of spec/17_power_states.md, in the order of Reg above. -/
def regTable17 : List RegRow :=
  [ ⟨0x004000, 0, 1, 0, 1, .rw, 0x00000000, .pin, 0x000000F3, 0x00000000⟩,
    ⟨0x004004, 0, 1, 0, 1, .ro, 0x00000000, .pin, 0x00000000, 0x00000000⟩,
    ⟨0x004008, 0, 1, 0, 1, .ro, 0x00000200, .pin, 0x00000000, 0x00000000⟩,
    ⟨0x00400C, 0, 1, 0, 1, .ro, 0x00000000, .pin, 0x00000000, 0x00000000⟩,
    ⟨0x004010, 0, 1, 0, 1, .rw, 0x00000000, .cellar, 0xFFFFFFFF, 0x00000000⟩,
    ⟨0x004014, 4, 2, 0, 1, .ro, 0x00000000, .pin, 0x00000000, 0x00000000⟩,
    ⟨0x004020, 0, 1, 0, 1, .rc, 0x00000000, .pin, 0x00000000, 0x00000000⟩,
    ⟨0x004024, 0, 1, 0, 1, .ro, 0x00000000, .pin, 0x00000000, 0x00000000⟩,
    ⟨0x004028, 0, 1, 0, 1, .rc, 0x00000000, .pin, 0x00000000, 0x00000000⟩,
    ⟨0x00402C, 0, 1, 0, 1, .ro, 0x00000000, .cellar, 0x00000000, 0x00000000⟩ ]

/-- Register lines of spec/12_check_value_units.md, in the order of Reg above. -/
def regTable12 : List RegRow :=
  [ ⟨0x005000, 64, 4, 0, 1, .ro, 0x00000000, .pin, 0x00000000, 0x00000000⟩,
    ⟨0x005004, 64, 4, 0, 1, .ro, 0x00000000, .pin, 0x00000000, 0x00000000⟩,
    ⟨0x005008, 64, 4, 0, 1, .ro, 0x00000000, .pin, 0x00000000, 0x00000000⟩,
    ⟨0x00500C, 64, 4, 0, 1, .ro, 0x00000000, .pin, 0x00000000, 0x00000000⟩,
    ⟨0x005010, 64, 4, 0, 1, .ro, 0x00000000, .pin, 0x00000000, 0x00000000⟩,
    ⟨0x005014, 64, 4, 0, 1, .ro, 0x00000000, .pin, 0x00000000, 0x00000000⟩,
    ⟨0x005018, 64, 4, 0, 1, .wo, 0x00000000, .pin, 0xFF000000, 0x00000000⟩,
    ⟨0x00501C, 64, 4, 0, 1, .rw, 0x00000000, .pin, 0xFFFFFFFF, 0x00000000⟩,
    ⟨0x005020, 64, 4, 0, 1, .ro, 0x00000000, .pin, 0x00000000, 0x00000000⟩,
    ⟨0x005024, 64, 4, 0, 1, .ro, 0x00000000, .pin, 0x00000000, 0x00000000⟩,
    ⟨0x005028, 64, 4, 0, 1, .rc, 0x00000000, .pin, 0x00000000, 0x00000000⟩ ]

/-- Register lines of spec/18_performance_counters.md, in the order of Reg above. -/
def regTable18 : List RegRow :=
  [ ⟨0x006000, 0, 1, 0, 1, .wo, 0x00000000, .pin, 0xFF000000, 0x00000000⟩,
    ⟨0x006004, 0, 1, 0, 1, .ro, 0x00000000, .pin, 0x00000000, 0x00000000⟩,
    ⟨0x006008, 4, 2, 0, 1, .ro, 0x00000000, .pin, 0x00000000, 0x00000000⟩,
    ⟨0x006100, 128, 4, 4, 24, .ro, 0x00000000, .pin, 0x00000000, 0x00000000⟩,
    ⟨0x006500, 4, 8, 0, 1, .ro, 0x00000000, .pin, 0x00000000, 0x00000000⟩,
    ⟨0x006600, 4, 10, 0, 1, .ro, 0x00000000, .pin, 0x00000000, 0x00000000⟩,
    ⟨0x006808, 4, 2, 0, 1, .ro, 0x00000000, .pin, 0x00000000, 0x00000000⟩,
    ⟨0x006900, 128, 4, 4, 24, .ro, 0x00000000, .pin, 0x00000000, 0x00000000⟩,
    ⟨0x006D00, 4, 8, 0, 1, .ro, 0x00000000, .pin, 0x00000000, 0x00000000⟩,
    ⟨0x006E00, 4, 10, 0, 1, .ro, 0x00000000, .pin, 0x00000000, 0x00000000⟩ ]

/-- Register lines of spec/14_yoke_twin_operation.md, in the order of Reg above. -/
def regTable14 : List RegRow :=
  [ ⟨0x007000, 0, 1, 0, 1, .ro, 0x00000000, .pin, 0x00000000, 0x00000000⟩,
    ⟨0x007004, 0, 1, 0, 1, .ro, 0x00000000, .pin, 0x00000000, 0x00000000⟩,
    ⟨0x007008, 0, 1, 0, 1, .ro, 0x00000000, .pin, 0x00000000, 0x00000000⟩,
    ⟨0x00700C, 0, 1, 0, 1, .ro, 0x00000000, .pin, 0x00000000, 0x00000000⟩,
    ⟨0x007010, 0, 1, 0, 1, .ro, 0x00000000, .pin, 0x00000000, 0x00000000⟩,
    ⟨0x007014, 0, 1, 0, 1, .ro, 0x00000000, .pin, 0x00000000, 0x00000000⟩,
    ⟨0x007018, 0, 1, 0, 1, .ro, 0x00000000, .pin, 0x00000000, 0x00000000⟩,
    ⟨0x007020, 0, 1, 0, 1, .wo, 0x00000000, .pin, 0xFF000000, 0x00000000⟩,
    ⟨0x007024, 0, 1, 0, 1, .rc, 0x00000000, .pin, 0x00000000, 0x00000000⟩ ]

/-- Register lines of spec/13_gleaner_chains.md, in the order of Reg above. -/
def regTable13 : List RegRow :=
  [ ⟨0x008000, 0, 1, 0, 1, .ro, 0x00300000, .pin, 0x00000000, 0x00000000⟩,
    ⟨0x008004, 0, 1, 0, 1, .ro, 0x00000000, .pin, 0x00000000, 0x00000000⟩,
    ⟨0x008100, 32, 32, 0, 1, .ro, 0x00000000, .pin, 0x00000000, 0x00000000⟩,
    ⟨0x008104, 32, 32, 0, 1, .ro, 0x00000000, .pin, 0x00000000, 0x00000000⟩,
    ⟨0x008108, 32, 32, 0, 1, .ro, 0x00000000, .pin, 0x00000000, 0x00000000⟩,
    ⟨0x00810C, 32, 32, 0, 1, .ro, 0x00000000, .pin, 0x00000000, 0x00000000⟩,
    ⟨0x008110, 32, 32, 0, 1, .ro, 0x00000000, .pin, 0x00000000, 0x00000000⟩,
    ⟨0x008114, 32, 32, 0, 1, .rc, 0x00000000, .pin, 0x00000000, 0x00000000⟩,
    ⟨0x008118, 32, 32, 0, 1, .ro, 0x00000000, .pin, 0x00000000, 0x00000000⟩,
    ⟨0x008800, 0, 1, 0, 1, .rw, 0x00000000, .pin, 0x00001FFF, 0x00000000⟩,
    ⟨0x008804, 0, 1, 0, 1, .ro, 0x00000000, .pin, 0x00000000, 0x00000000⟩,
    ⟨0x008808, 0, 1, 0, 1, .ro, 0x00000000, .pin, 0x00000000, 0x00000000⟩,
    ⟨0x00880C, 0, 1, 0, 1, .ro, 0x00000000, .pin, 0x00000000, 0x00000000⟩ ]

/-- Register lines of spec/16_service_record_and_attestation.md, in the order of Reg above. -/
def regTable16 : List RegRow :=
  [ ⟨0x009000, 0, 1, 0, 1, .ro, 0x00000000, .pin, 0x00000000, 0x00000000⟩,
    ⟨0x009004, 0, 1, 0, 1, .ro, 0x00000000, .cellar, 0x00000000, 0x00000000⟩,
    ⟨0x009008, 0, 1, 0, 1, .ro, 0x00000000, .por, 0x00000000, 0x00000000⟩,
    ⟨0x00900C, 0, 1, 0, 1, .ro, 0x00000000, .cellar, 0x00000000, 0x00000000⟩,
    ⟨0x009010, 0, 1, 0, 1, .ro, 0x00000000, .cellar, 0x00000000, 0x00000000⟩,
    ⟨0x009014, 0, 1, 0, 1, .rw, 0x00000000, .cellar, 0xFFFFFFFF, 0x00000000⟩,
    ⟨0x009018, 0, 1, 0, 1, .ro, 0x00000000, .pin, 0x00000000, 0x00000000⟩,
    ⟨0x00901C, 0, 1, 0, 1, .rc, 0x00000000, .pin, 0x00000000, 0x00000000⟩,
    ⟨0x009040, 0, 1, 0, 1, .rw, 0x00000000, .pin, 0xCFFFFFFF, 0x00000000⟩,
    ⟨0x009044, 0, 1, 0, 1, .ro, 0x00000000, .pin, 0x00000000, 0x00000000⟩,
    ⟨0x009050, 0, 1, 0, 1, .ro, 0x00000000, .pin, 0x00000000, 0x00000000⟩,
    ⟨0x009054, 0, 1, 0, 1, .ro, 0x00000004, .cellar, 0x00000000, 0x00000000⟩,
    ⟨0x009080, 4, 15, 0, 1, .ro, 0x00000000, .por, 0x00000000, 0x00000000⟩,
    ⟨0x0090C0, 0, 1, 0, 1, .ro, 0x00000000, .por, 0x00000000, 0x00000000⟩,
    ⟨0x0090C4, 0, 1, 0, 1, .ro, 0x00000000, .por, 0x00000000, 0x00000000⟩,
    ⟨0x009100, 4, 7, 0, 1, .ro, 0xFFFFFFFF, .pin, 0x00000000, 0x00000000⟩,
    ⟨0x00911C, 0, 1, 0, 1, .ro, 0xFFFFFFFF, .pin, 0x00000000, 0x00000000⟩,
    ⟨0x009200, 0, 1, 0, 1, .rw, 0x00000000, .pin, 0x0000001F, 0x00000000⟩,
    ⟨0x009204, 0, 1, 0, 1, .ro, 0x00000000, .pin, 0x00000000, 0x00000000⟩,
    ⟨0x009208, 0, 1, 0, 1, .ro, 0x00000000, .pin, 0x00000000, 0x00000000⟩ ] ++
  [ ⟨0x00920C, 0, 1, 0, 1, .ro, 0x00000000, .pin, 0x00000000, 0x00000000⟩,
    ⟨0x009210, 0, 1, 0, 1, .ro, 0x00000000, .pin, 0x00000000, 0x00000000⟩,
    ⟨0x009214, 0, 1, 0, 1, .ro, 0x00000000, .pin, 0x00000000, 0x00000000⟩,
    ⟨0x009218, 0, 1, 0, 1, .ro, 0x00000000, .pin, 0x00000000, 0x00000000⟩,
    ⟨0x00921C, 0, 1, 0, 1, .ro, 0x00000000, .pin, 0x00000000, 0x00000000⟩,
    ⟨0x009800, 4, 512, 0, 1, .ro, 0x00000000, .pin, 0x00000000, 0x00000000⟩ ]

/-- Register lines of spec/02_timebase_and_sync.md, in the order of Reg above. -/
def regTable02 : List RegRow :=
  [ ⟨0x00A000, 0, 1, 0, 1, .ro, 0x00000000, .cellar, 0x00000000, 0x00000000⟩,
    ⟨0x00A004, 0, 1, 0, 1, .ro, 0x00000000, .cellar, 0x00000000, 0x00000000⟩,
    ⟨0x00A008, 0, 1, 0, 1, .ro, 0x00000000, .cellar, 0x00000000, 0x00000000⟩,
    ⟨0x00A00C, 0, 1, 0, 1, .ro, 0x00000000, .cellar, 0x00000000, 0x00000000⟩,
    ⟨0x00A010, 0, 1, 0, 1, .ro, 0x00000000, .cellar, 0x00000000, 0x00000000⟩,
    ⟨0x00A014, 0, 1, 0, 1, .ro, 0x00000000, .cellar, 0x00000000, 0x00000000⟩,
    ⟨0x00A018, 0, 1, 0, 1, .ro, 0x00000000, .cellar, 0x00000000, 0x00000000⟩,
    ⟨0x00A01C, 0, 1, 0, 1, .ro, 0x00000000, .cellar, 0x00000000, 0x00000000⟩,
    ⟨0x00A020, 0, 1, 0, 1, .ro, 0x00000000, .cellar, 0x00000000, 0x00000000⟩,
    ⟨0x00A024, 0, 1, 0, 1, .ro, 0x28005DC0, .cellar, 0x00000000, 0x00000000⟩,
    ⟨0x00A040, 0, 1, 0, 1, .rw, 0x00000030, .cellar, 0x00000FFF, 0x00000000⟩,
    ⟨0x00A044, 0, 1, 0, 1, .rw, 0x00000000, .cellar, 0x0000FFFF, 0x00000000⟩,
    ⟨0x00A048, 0, 1, 0, 1, .ro, 0x00000000, .cellar, 0x00000000, 0x00000000⟩,
    ⟨0x00A04C, 0, 1, 0, 1, .ro, 0x000EA600, .cellar, 0x00000000, 0x00000000⟩,
    ⟨0x00A050, 0, 1, 0, 1, .rc, 0x00000000, .cellar, 0x00000000, 0x00000000⟩,
    ⟨0x00A060, 0, 1, 0, 1, .ro, 0x00000000, .pin, 0x00000000, 0x00000000⟩ ]

/-- Register lines of spec/06_barn_door.md, in the order of Reg above. -/
def regTable06 : List RegRow :=
  [ ⟨0x00B000, 4096, 2, 0, 1, .ro, 0x00000040, .pin, 0x00000000, 0x00000000⟩,
    ⟨0x00B004, 4096, 2, 0, 1, .ro, 0x00000000, .pin, 0x00000000, 0x00000000⟩,
    ⟨0x00B008, 4096, 2, 0, 1, .rc, 0x00000000, .pin, 0x00000000, 0x00000000⟩,
    ⟨0x00B00C, 4096, 2, 0, 1, .rc, 0x00000000, .pin, 0x00000000, 0x00000000⟩,
    ⟨0x00B010, 4096, 2, 0, 1, .ro, 0x00000000, .pin, 0x00000000, 0x00000000⟩,
    ⟨0x00B014, 4096, 2, 0, 1, .ro, 0x00000000, .pin, 0x00000000, 0x00000000⟩ ]

/-- Register lines of spec/03_field_channels.md, in the order of Reg above. -/
def regTable03 : List RegRow :=
  [ ⟨0x010000, 1024, 16, 0, 1, .ro, 0x00000000, .pin, 0x00000000, 0x00000000⟩,
    ⟨0x010004, 1024, 16, 0, 1, .ro, 0x00000000, .pin, 0x00000000, 0x00000000⟩,
    ⟨0x010008, 1024, 16, 0, 1, .ro, 0x00000000, .pin, 0x00000000, 0x00000000⟩,
    ⟨0x01000C, 1024, 16, 0, 1, .ro, 0x00000000, .pin, 0x00000000, 0x00000000⟩,
    ⟨0x010010, 1024, 16, 0, 1, .ro, 0x00000000, .pin, 0x00000000, 0x00000000⟩,
    ⟨0x010014, 1024, 16, 0, 1, .ro, 0x00000000, .pin, 0x00000000, 0x00000000⟩,
    ⟨0x010040, 1024, 16, 0, 1, .ro, 0x00000000, .pin, 0x00000000, 0x00000000⟩,
    ⟨0x010044, 1024, 16, 0, 1, .ro, 0x00000000, .pin, 0x00000000, 0x00000000⟩,
    ⟨0x010048, 1024, 16, 0, 1, .ro, 0x00000000, .pin, 0x00000000, 0x00000000⟩,
    ⟨0x01004C, 1024, 16, 0, 1, .w1c, 0x00000000, .pin, 0x00000000, 0x00001FFF⟩,
    ⟨0x010050, 1024, 16, 0, 1, .rc, 0x00000000, .pin, 0x00000000, 0x00000000⟩,
    ⟨0x010200, 8192, 2, 0, 1, .ro, 0x00000000, .pin, 0x00000000, 0x00000000⟩,
    ⟨0x010204, 8192, 2, 0, 1, .wo, 0x00000000, .pin, 0xFF000000, 0x00000000⟩,
    ⟨0x010208, 8192, 2, 0, 1, .ro, 0x00000000, .pin, 0x00000000, 0x00000000⟩,
    ⟨0x01020C, 8192, 2, 0, 1, .ro, 0x00000000, .pin, 0x00000000, 0x00000000⟩,
    ⟨0x010210, 8192, 2, 0, 1, .rc, 0x00000000, .pin, 0x00000000, 0x00000000⟩ ]

/-- Register lines of spec/04_thresher_conversion.md, in the order of Reg above. -/
def regTable04 : List RegRow :=
  [ ⟨0x020000, 512, 16, 0, 1, .ro, 0x00000000, .pin, 0x00000000, 0x00000000⟩,
    ⟨0x020008, 512, 16, 0, 1, .ro, 0x00000000, .pin, 0x00000000, 0x00000000⟩,
    ⟨0x02000C, 512, 16, 0, 1, .ro, 0x00000000, .pin, 0x00000000, 0x00000000⟩,
    ⟨0x020010, 512, 16, 0, 1, .ro, 0x00000000, .pin, 0x00000000, 0x00000000⟩,
    ⟨0x020014, 512, 16, 0, 1, .ro, 0x00000000, .pin, 0x00000000, 0x00000000⟩,
    ⟨0x020018, 512, 16, 0, 1, .ro, 0x00000000, .pin, 0x00000000, 0x00000000⟩,
    ⟨0x02001C, 512, 16, 0, 1, .ro, 0x007FFFFF, .pin, 0x00000000, 0x00000000⟩,
    ⟨0x020020, 512, 16, 0, 1, .ro, 0xFF800000, .pin, 0x00000000, 0x00000000⟩,
    ⟨0x020024, 512, 16, 0, 1, .ro, 0x00000000, .pin, 0x00000000, 0x00000000⟩,
    ⟨0x020028, 512, 16, 0, 1, .ro, 0x00000000, .pin, 0x00000000, 0x00000000⟩,
    ⟨0x020040, 512, 16, 0, 1, .ro, 0x00000000, .pin, 0x00000000, 0x00000000⟩,
    ⟨0x020044, 512, 16, 0, 1, .ro, 0x00000000, .pin, 0x00000000, 0x00000000⟩,
    ⟨0x020048, 512, 16, 0, 1, .ro, 0x00000000, .pin, 0x00000000, 0x00000000⟩,
    ⟨0x02004C, 512, 16, 0, 1, .ro, 0x00000000, .pin, 0x00000000, 0x00000000⟩,
    ⟨0x020050, 512, 16, 0, 1, .ro, 0x00000000, .pin, 0x00000000, 0x00000000⟩,
    ⟨0x020054, 512, 16, 0, 1, .ro, 0x80007FFF, .pin, 0x00000000, 0x00000000⟩,
    ⟨0x020058, 512, 16, 0, 1, .ro, 0x00000000, .pin, 0x00000000, 0x00000000⟩,
    ⟨0x02005C, 512, 16, 0, 1, .ro, 0x00000000, .pin, 0x00000000, 0x00000000⟩,
    ⟨0x020060, 512, 16, 0, 1, .ro, 0x00000000, .pin, 0x00000000, 0x00000000⟩,
    ⟨0x020064, 512, 16, 0, 1, .ro, 0x00000000, .pin, 0x00000000, 0x00000000⟩ ] ++
  [ ⟨0x020080, 512, 16, 0, 1, .ro, 0x007FFFFF, .pin, 0x00000000, 0x00000000⟩,
    ⟨0x020084, 512, 16, 0, 1, .ro, 0xFF800000, .pin, 0x00000000, 0x00000000⟩,
    ⟨0x020088, 512, 16, 0, 1, .ro, 0x80007FFF, .pin, 0x00000000, 0x00000000⟩,
    ⟨0x02008C, 512, 16, 0, 1, .ro, 0x00000000, .pin, 0x00000000, 0x00000000⟩,
    ⟨0x020090, 512, 16, 0, 1, .wo, 0x00000000, .pin, 0xFF000000, 0x00000000⟩,
    ⟨0x0200A0, 512, 16, 0, 1, .w1c, 0x00000000, .pin, 0x00000000, 0x0000007F⟩,
    ⟨0x0200A4, 512, 16, 0, 1, .ro, 0x00000000, .pin, 0x00000000, 0x00000000⟩,
    ⟨0x020100, 4096, 2, 0, 1, .rw, 0x00000000, .pin, 0x00000001, 0x00000000⟩,
    ⟨0x020104, 4096, 2, 0, 1, .ro, 0x00000000, .pin, 0x00000000, 0x00000000⟩ ]

/-- Register lines of spec/05_thresher_calibration_and_diagnostics.md, in the order of Reg above. -/
def regTable05 : List RegRow :=
  [ ⟨0x028000, 4096, 2, 0, 1, .wo, 0x00000000, .pin, 0x00000001, 0x00000000⟩,
    ⟨0x028004, 4096, 2, 0, 1, .ro, 0x00000000, .pin, 0x00000000, 0x00000000⟩,
    ⟨0x028008, 4096, 2, 0, 1, .ro, 0x00000000, .pin, 0x00000000, 0x00000000⟩,
    ⟨0x02800C, 4096, 2, 0, 1, .rc, 0x00000000, .pin, 0x00000000, 0x00000000⟩,
    ⟨0x028010, 4096, 2, 0, 1, .ro, 0x00000000, .pin, 0x00000000, 0x00000000⟩,
    ⟨0x028100, 4096, 2, 8, 64, .ro, 0x00000000, .pin, 0x00000000, 0x00000000⟩,
    ⟨0x028104, 4096, 2, 8, 64, .ro, 0x00000000, .pin, 0x00000000, 0x00000000⟩,
    ⟨0x02A000, 0, 1, 0, 1, .wo, 0x00000000, .pin, 0xFF000001, 0x00000000⟩,
    ⟨0x02A010, 4, 2, 0, 1, .ro, 0x00000000, .pin, 0x00000000, 0x00000000⟩,
    ⟨0x02A040, 4, 16, 0, 1, .ro, 0x80000000, .pin, 0x00000000, 0x00000000⟩,
    ⟨0x02A100, 64, 16, 0, 1, .ro, 0x00000000, .pin, 0x00000000, 0x00000000⟩,
    ⟨0x02A104, 64, 16, 0, 1, .ro, 0x00000000, .pin, 0x00000000, 0x00000000⟩,
    ⟨0x02A108, 64, 16, 0, 1, .ro, 0x00000000, .pin, 0x00000000, 0x00000000⟩,
    ⟨0x02A10C, 64, 16, 0, 1, .ro, 0x00000000, .pin, 0x00000000, 0x00000000⟩,
    ⟨0x02A110, 64, 16, 0, 1, .ro, 0x00000000, .pin, 0x00000000, 0x00000000⟩,
    ⟨0x02A114, 64, 16, 0, 1, .ro, 0x00000000, .pin, 0x00000000, 0x00000000⟩,
    ⟨0x02A118, 64, 16, 0, 1, .ro, 0x00000000, .pin, 0x00000000, 0x00000000⟩,
    ⟨0x02A11C, 64, 16, 0, 1, .ro, 0x00000000, .pin, 0x00000000, 0x00000000⟩,
    ⟨0x02A120, 64, 16, 0, 1, .ro, 0x00000000, .pin, 0x00000000, 0x00000000⟩,
    ⟨0x02A124, 64, 16, 0, 1, .ro, 0x00000000, .pin, 0x00000000, 0x00000000⟩ ] ++
  [ ⟨0x02A128, 64, 16, 0, 1, .ro, 0x00008000, .pin, 0x00000000, 0x00000000⟩,
    ⟨0x02A12C, 64, 16, 0, 1, .ro, 0x00000000, .pin, 0x00000000, 0x00000000⟩ ]

/-- Register lines of spec/08_binder_engines.md, in the order of Reg above. -/
def regTable08 : List RegRow :=
  [ ⟨0x040000, 16384, 4, 0, 1, .ro, 0x00000000, .pin, 0x00000000, 0x00000000⟩,
    ⟨0x040004, 16384, 4, 0, 1, .ro, 0x00000000, .pin, 0x00000000, 0x00000000⟩,
    ⟨0x040008, 16384, 4, 0, 1, .ro, 0x00000000, .pin, 0x00000000, 0x00000000⟩,
    ⟨0x04000C, 16384, 4, 0, 1, .ro, 0x00000000, .pin, 0x00000000, 0x00000000⟩,
    ⟨0x040010, 16384, 4, 0, 1, .ro, 0x00000000, .pin, 0x00000000, 0x00000000⟩,
    ⟨0x040014, 16384, 4, 0, 1, .ro, 0x00000000, .pin, 0x00000000, 0x00000000⟩,
    ⟨0x040018, 16384, 4, 0, 1, .ro, 0x00000000, .pin, 0x00000000, 0x00000000⟩,
    ⟨0x04001C, 16384, 4, 0, 1, .rc, 0x00000000, .pin, 0x00000000, 0x00000000⟩,
    ⟨0x040020, 16384, 4, 0, 1, .ro, 0x00000000, .pin, 0x00000000, 0x00000000⟩,
    ⟨0x040024, 16384, 4, 0, 1, .rc, 0x00000000, .pin, 0x00000000, 0x00000000⟩,
    ⟨0x040040, 16384, 4, 0, 1, .rw, 0x00000000, .pin, 0x00003FFF, 0x00000000⟩,
    ⟨0x040044, 16384, 4, 0, 1, .ro, 0x00000000, .pin, 0x00000000, 0x00000000⟩,
    ⟨0x040048, 16384, 4, 0, 1, .rw, 0x00000000, .pin, 0x00000FFF, 0x00000000⟩,
    ⟨0x04004C, 16384, 4, 0, 1, .ro, 0x00000000, .pin, 0x00000000, 0x00000000⟩,
    ⟨0x040050, 16384, 4, 0, 1, .rw, 0x00000000, .pin, 0x000003FF, 0x00000000⟩,
    ⟨0x040054, 16384, 4, 0, 1, .ro, 0x00000000, .pin, 0x00000000, 0x00000000⟩,
    ⟨0x040058, 16384, 4, 0, 1, .ro, 0x00000000, .pin, 0x00000000, 0x00000000⟩,
    ⟨0x040100, 16384, 4, 0, 1, .wo, 0x00000000, .pin, 0xFF000000, 0x00000000⟩,
    ⟨0x040110, 16384, 4, 4, 4, .rw, 0x00000000, .pin, 0x80003FFF, 0x00000000⟩,
    ⟨0x040120, 16384, 4, 0, 1, .ro, 0x00000000, .pin, 0x00000000, 0x00000000⟩ ] ++
  [ ⟨0x040140, 16384, 4, 4, 16, .ro, 0x00000000, .pin, 0x00000000, 0x00000000⟩ ]

/-- Every register line of the manual. -/
def regTable : List RegRow :=
  regTable10 ++ regTable01 ++ regTable07 ++ regTable09 ++ regTable11 ++ regTable15 ++ regTable17 ++ regTable12 ++ regTable18 ++ regTable14 ++ regTable13 ++ regTable16 ++ regTable02 ++ regTable06 ++ regTable03 ++ regTable04 ++ regTable05 ++ regTable08

/-- The register lines whose reset value is not 0. -/
def resetRows : List RegRow :=
  [ ⟨0x000000, 0, 1, 0, 1, .ro, 0x4C4B1600, .por, 0, 0⟩,
    ⟨0x000004, 0, 1, 0, 1, .ro, 0x00000010, .por, 0, 0⟩,
    ⟨0x000008, 0, 1, 0, 1, .ro, 0x00000001, .pin, 0, 0⟩,
    ⟨0x001004, 0, 1, 0, 1, .rw, 0x000003E8, .pin, 0, 0⟩,
    ⟨0x001008, 0, 1, 0, 1, .ro, 0x00000400, .pin, 0, 0⟩,
    ⟨0x002000, 0, 1, 0, 1, .ro, 0x00000007, .pin, 0, 0⟩,
    ⟨0x004008, 0, 1, 0, 1, .ro, 0x00000200, .pin, 0, 0⟩,
    ⟨0x008000, 0, 1, 0, 1, .ro, 0x00300000, .pin, 0, 0⟩,
    ⟨0x009054, 0, 1, 0, 1, .ro, 0x00000004, .cellar, 0, 0⟩,
    ⟨0x009100, 4, 7, 0, 1, .ro, 0xFFFFFFFF, .pin, 0, 0⟩,
    ⟨0x00911C, 0, 1, 0, 1, .ro, 0xFFFFFFFF, .pin, 0, 0⟩,
    ⟨0x00A024, 0, 1, 0, 1, .ro, 0x28005DC0, .cellar, 0, 0⟩,
    ⟨0x00A040, 0, 1, 0, 1, .rw, 0x00000030, .cellar, 0, 0⟩,
    ⟨0x00A04C, 0, 1, 0, 1, .ro, 0x000EA600, .cellar, 0, 0⟩,
    ⟨0x00B000, 4096, 2, 0, 1, .ro, 0x00000040, .pin, 0, 0⟩,
    ⟨0x02001C, 512, 16, 0, 1, .ro, 0x007FFFFF, .pin, 0, 0⟩,
    ⟨0x020020, 512, 16, 0, 1, .ro, 0xFF800000, .pin, 0, 0⟩,
    ⟨0x020054, 512, 16, 0, 1, .ro, 0x80007FFF, .pin, 0, 0⟩,
    ⟨0x020080, 512, 16, 0, 1, .ro, 0x007FFFFF, .pin, 0, 0⟩,
    ⟨0x020084, 512, 16, 0, 1, .ro, 0xFF800000, .pin, 0, 0⟩,
    ⟨0x020088, 512, 16, 0, 1, .ro, 0x80007FFF, .pin, 0, 0⟩,
    ⟨0x02A040, 4, 16, 0, 1, .ro, 0x80000000, .pin, 0, 0⟩,
    ⟨0x02A128, 64, 16, 0, 1, .ro, 0x00008000, .pin, 0, 0⟩ ]

/-- Does a register line cover a host address? -/
def RegRow.covers (r : RegRow) (a : Nat) : Bool :=
  decide (r.base ≤ a) &&
    let d := a - r.base
    if r.stride2 = 0 then
      if r.stride = 0 then d == 0 else d % r.stride == 0 && decide (d / r.stride < r.count)
    else
      if r.stride = 0 then d % r.stride2 == 0 && decide (d / r.stride2 < r.count2)
      else decide (d / r.stride < r.count) && (d % r.stride) % r.stride2 == 0
        && decide (d % r.stride / r.stride2 < r.count2)

/-- The register line that covers a host address. -/
def regRow? (a : Nat) : Option RegRow := regTable.find? (fun r => r.covers a)

/-- The reset value of the register at an address (R12): 0 where the line gives 0 or no register stands. -/
def regReset (a : Nat) : Word :=
  match resetRows.find? (fun r => r.covers a) with
  | some r => BitVec.ofNat 32 r.reset
  | none => 0#32

/-- The register blocks of channels and pairs that a Wide lead presents a second time (R40; spec/07, spec/15, spec/18): first
address, size in bytes, and the distance to the address of the follower's block at the lead. -/
def twinBlocks : List (Nat × Nat × Nat) :=
  [(0x00210, 0x40, 0x40), (0x03100, 0x40, 0x40), (0x06100, 0x200, 0x200), (0x06900, 0x200, 0x200), (0x10000, 0x4000, 0x4000),
    (0x20000, 0x2000, 0x2000), (0x2A040, 0x40, 0x40), (0x2A100, 0x400, 0x400), (0x40000, 0x10000, 0x10000)]

/-- Is a register in the channel, bank, spare or pair blocks, which a Wide follower sends (R443)? -/
def isShownReg (a : Nat) : Bool :=
  (decide (0x28000 ≤ a) && decide (a < 0x2B000))
    || twinBlocks.any fun b => decide (b.1 ≤ a) && decide (a < b.1 + b.2.1)

/-- The host addresses of a register line. -/
def RegRow.addrs (r : RegRow) : List Nat :=
  (List.range r.count).flatMap fun i => (List.range r.count2).map fun j => r.base + r.stride * i + r.stride2 * j

/-- Registers that a Wide follower sends (R443). -/
def shownCount : Nat := (regTable.filter fun r => isShownReg r.base).foldl (fun n r => n + r.addrs.length) 0

/-- The lead's host address of a follower register (R40). -/
def leadAddr (a : Nat) : Nat :=
  match twinBlocks.find? fun b => decide (b.1 ≤ a) && decide (a < b.1 + b.2.1) with | some b => a + b.2.2 | none => a

/-- The follower's address of a lead host address in the ranges of channels 16-31 and pairs 4-7 (R40). -/
def followerAddr (a : Nat) : Option Nat :=
  (twinBlocks.find? fun b => decide (b.1 + b.2.2 ≤ a) && decide (a < b.1 + b.2.2 + b.2.1)).map fun b => a - b.2.2

/-- The reset value of the follower register at a lead host address. -/
def leadReset (a : Nat) : Word := regReset ((followerAddr a).getD a)

end Sys2Proof.Machine
end

