-- ==== Sys2Proof/Machine/State.lean ====
section
/-!
DEFINITION. Machine/State.lean: the state of the RLK1600 as plain data. Everything a register shows is held once,
in the register file `State.regs` keyed by host byte address; everything the manual gives the machine beside its
registers is a field of one of the structures below, one structure per block.
-/
namespace Sys2Proof.Machine

/-! ## Granary: the signal table (R303-R309) -/

/-- The pending copy of an entry of source class 4, 5 or 6 (R307): value, quality, target swath (low 32 bits), the
UNSTAMPED flag and the confirmation of R309. -/
structure Pend where
  value : Word
  qual : Nat
  target : Nat
  unstamped : Bool
  confirmed : Bool
  deriving DecidableEq, Repr

/-- One signal entry (R303): value, quality bits [15:0] and source bits [31:16] of word 1, stamp, count, words 4-7,
and the pending copy. -/
structure Entry where
  value : Word := 0#32
  qual : Nat := 0
  src : Nat := 0
  stamp : Word := 0#32
  count : Word := 0#32
  aux : List Word := []
  pend : Option Pend := none
  deriving DecidableEq, Repr

/-! ## Pins and supplies -/

/-- The pins, the supplies and the links as the device drives or sees them. -/
structure Env where
  /-- VIN is above its power-on threshold (R3, R559) -/
  vin : Bool := true
  /-- the root PLL runs: from power-on to the loss of VIN, but in Dormant (R52) -/
  pll : Bool := false
  /-- TEST_N has been low since power-on: the device stays in BOOT until power-on (R546) -/
  testSeen : Bool := false
  /-- PFAIL_N is asserted (R507) -/
  pfail : Bool := false
  /-- VIO in mV (R548; no value stated at reset: log entry 3) -/
  vioMv : Nat := 1800
  /-- HSEL_N is low (R385) -/
  hselLow : Bool := false
  /-- width in ticks of the pulse that began at the last boundary, 0 for none (R75) -/
  syncOut : Nat := 0
  /-- YFLT_N driven low by this device (R446) -/
  yfltOut : Bool := false
  /-- CLK_FAIL has stopped the downlink frames (R53) -/
  clkFailed : Bool := false
  /-- the command frames are stopped: no image verified since reset (R216) -/
  linkIdle : Bool := true
  deriving DecidableEq, Repr

/-! ## Timebase and SYNC (R54-R73) -/

/-- The phase loop and what of the timebase no register shows. -/
structure Tb where
  /-- signed phase correction c of R70 -/
  c : Int := 0
  /-- corrections that wait for the close of their capture window, oldest first: the period before each, its share of c, and
  the tick after which it applies (R71) -/
  held : List (Nat × Int × Nat) := []
  /-- raw timestamps of consecutive edges, newest first, at most four (R68) -/
  edges : List Nat := []
  /-- consecutive edges with an error of 48 ticks or less (R68) -/
  good : Nat := 0
  /-- missing edges in a row in this stay in PULL or LOCKED (R69) -/
  missRow : Nat := 0
  /-- number and tick of the last marked boundaries, newest first, at most eight -/
  marks : List (Nat × Nat) := []
  /-- the marked boundary whose edge was used last (R69) -/
  usedMark : Option Nat := none
  /-- the marked period P_nom the loop was last started with (R68) -/
  pNom : Nat := 960000
  /-- SYNC_CTRL in force; a write waits in the register for the boundary (R65) -/
  ctrl : Word := 0x30#32
  /-- the swath under way began at the boundary of R63, and Thresh has not yet ended in it -/
  r63 : Bool := false
  deriving DecidableEq, Repr

/-! ## Fault Collector (R457-R473) -/

/-- A message collected in the swath under way: bits [31:6], REAL, FORCED, class, swath and tick of the raise (R459). -/
structure Msg where
  key : Nat
  real : Bool
  forced : Bool
  cls : Nat
  swath : Nat
  tick : Nat
  deriving DecidableEq, Repr

/-- A cause that holds a channel reaction latch (R466): channel, source and kind, AUTO, tick of the last raise, whether the condition
was absent at the last boundary, and the tick of the first raise, from which the latch acts on frames (R463). -/
structure Latch where
  chan : Nat
  src : Nat
  kind : Nat
  auto : Bool
  tick : Nat
  clear : Bool
  since : Nat
  deriving DecidableEq, Repr

/-- A Half-safe reaction pending on a half (R466). -/
structure PendMark where
  half : Nat
  auto : Bool
  tick : Nat
  deriving DecidableEq, Repr

/-- One entry of the reaction table (R469). -/
structure Reaction where
  src : Nat
  kind : Nat
  auto : Bool
  cls : Nat
  deriving DecidableEq, Repr

/-- A clear request waiting for its boundary (R466). -/
structure ClearReq where
  channels : Nat
  halves : Nat
  first : Bool
  deriving DecidableEq, Repr

/-- The Fault Collector beside its registers. -/
structure Fc where
  batch : List Msg := []
  /-- records of four words held in BOOT (R459) -/
  buffer : List (List Word) := []
  latches : List Latch := []
  pends : List PendMark := []
  /-- reactions of class Half-safe and Device-safe held in BOOT: class, halves, AUTO, message (R468) -/
  heldReact : List (Nat × Nat × Bool × Word) := []
  table : List Reaction := []
  clearReq : Option ClearReq := none
  /-- an injection waiting for its boundary: the word of FC_FORCE_MSG (R470) -/
  inject : Option Word := none
  /-- FC_FIRST holds a message (R460) -/
  firstHeld : Bool := false
  /-- a Reset reaction is counting its slots of ARMED = 0 (R468) -/
  resetting : Bool := false
  /-- tick at which it was taken -/
  resetAt : Nat := 0
  /-- HALTED after a Device-safe reaction (R473) -/
  haltReact : Bool := false
  /-- between a Reset reaction and the next SAFE (R473) -/
  resetWait : Bool := false
  /-- kinds that are raised at most once a swath and already were: twice the key of the kind, and one more where a real fault raised it
  (R472) -/
  onceSeen : List Nat := []
  deriving DecidableEq, Repr

/-! ## Watchdog and roll-call (R474-R482) -/

/-- The host watchdog beside its registers. -/
structure Wdg where
  /-- first swath of the grid, none while no grid runs -/
  a0 : Option Nat := none
  /-- tick of the last close edge judged, and whether its window had been served (R475) -/
  closed : Option (Nat × Bool) := none
  /-- completion tick of a pending 0xD15A -/
  disableTick : Option Nat := none
  /-- at the next boundary: enable (some true) or disable (some false) -/
  change : Option Bool := none
  deriving DecidableEq, Repr

/-! ## Pipeline (R220-R254) -/

/-- Suspension causes, bits [4:0] in the coding of PIPE_SUSP.REASONS (R253). -/
structure Pipe where
  /-- causes of the swath under way -/
  now : Nat := 0
  /-- causes already known for the swath that begins at the next boundary -/
  next : Nat := 0
  /-- a reaction of class Half-safe or higher since the last arming -/
  reacted : Bool := false
  /-- the write window is open: from a boundary to the end of Thresh (R306) -/
  window : Bool := false
  /-- tick after the boundary at which Thresh ended -/
  threshEnd : Nat := 0
  /-- LATE of the writes of steps 1 to 6, fixed at the boundary (R48) -/
  lateB : Bool := false
  /-- the gather of this swath is late (R212) -/
  late : Bool := false
  /-- tick of the boundary before the last one -/
  prevBtick : Nat := 0
  /-- the Thresher has run since the last boundary, and ran throughout the swath before (R144) -/
  ran : Bool := false
  ranPrev : Bool := false
  /-- the last boundary was a stook boundary -/
  stookB : Bool := false
  /-- the level in force at the boundary of this swath, and the evaluation budget it gives (R240, R249) -/
  level : Nat := 0
  budget : Nat := 0
  /-- a reconfiguration was applied at the boundary of this swath (R249) -/
  recfg : Bool := false
  /-- THR_WIN of the channels as it was before a reconfiguration applied at this boundary, until Thresh ends (R31) -/
  oldWin : List Word := []
  /-- the counters were frozen in the swath before (R538) -/
  frozenPrev : Bool := false
  /-- forced entries with value, stamp and count as the force last left them: they change with the forced value alone (R304, R366) -/
  forced : List (Nat × Word × Word × Word) := []
  deriving DecidableEq, Repr

/-- The command of one output channel in the output image: what frames carry now, and a newer command with the
first slot start tick that carries it (R223). -/
structure OutCmd where
  value : Word := 0#32
  next : Option (Word × Nat) := none
  deriving DecidableEq, Repr

/-! ## Binder pairs (R256-R292) -/

/-- A timer or discrepancy monitor (R273-R277); kind as BND_TMR_STATE.KIND. -/
structure Timer where
  active : Bool := false
  q : Bool := false
  prev : Bool := false
  latched : Bool := false
  kind : Nat := 0
  start : Word := 0#32
  deriving DecidableEq, Repr

/-- A signal store held with an evaluation: index, value, quality without LATE (R270), and its place in program order. -/
structure SigWrite where
  index : Nat
  value : Word
  qual : Nat
  ord : Nat := 0
  deriving DecidableEq, Repr

/-- A Crib entry held with an evaluation (R278), and its place in program order. -/
structure EmitRec where
  crib : Nat
  words : List Word
  ord : Nat := 0
  deriving DecidableEq, Repr

/-- What a read-set record holds (R234): the state bit, the quality word, the value word, or the band index with
its table. -/
inductive Aspect where
  | state (b : Bool)
  | qual (w : Word)
  | value (w : Word)
  | band (table n : Nat)
  deriving DecidableEq, Repr

/-- A read-set record. -/
structure ReadRec where
  index : Nat
  aspect : Aspect
  deriving DecidableEq, Repr

/-- A frame of the loop hardware: first and last address of the body and the runs left after this one. -/
structure LoopFrame where
  first : Nat
  last : Nat
  left : Nat
  deriving DecidableEq, Repr

/-- The kinds of evaluation (R225, R231, R238). -/
inductive EvalKind where
  | tine (t : Nat)
  | real
  | post
  deriving DecidableEq, Repr

/-- The registers and flags of an engine (R256). -/
structure Engine where
  regs : Tab 16 Word := Tab.fill 16 0#32
  ze : Bool := false
  lt : Bool := false
  lu : Bool := false
  sat : Bool := false
  deriving DecidableEq, Repr

/-- An evaluation under way or ended: registers and flags of engine A, control, private copies and held effects (R232, R256), and
engine B (R285). -/
structure Ctx where
  kind : EvalKind
  swath : Nat
  regs : Tab 16 Word := Tab.fill 16 0#32
  ze : Bool := false
  lt : Bool := false
  lu : Bool := false
  sat : Bool := false
  pc : Nat := 0
  sheaf : Nat := 0
  calls : List Nat := []
  loops : List LoopFrame := []
  dmem : Sparse Word := []
  timers : Sparse Timer := []
  writes : List SigWrite := []
  updates : Nat := 0
  emits : List EmitRec := []
  checkins : Word := 0#32
  dups : Word := 0#32
  /-- held faults: kind and address (R239) -/
  faults : List (Nat × Nat) := []
  /-- DSC latches set, counted at commit in BND_COUNTS -/
  dscLatches : Nat := 0
  reads : List ReadRec := []
  /-- records of the sheaf under way (R233) -/
  sheafReads : Nat := 0
  /-- host command values accepted when the tine started (R229) -/
  hostPred : List (Nat × Word) := []
  /-- pairs whose commit for the swath before was ready when the tine started (R229) -/
  pairsReady : List Nat := []
  /-- what a tine above 0 assumed of its hot input: the flipped value, or the moved band (R237) -/
  hotAssumed : Word := 0#32
  aborted : Bool := false
  ended : Bool := false
  /-- cycles held aside until the fate of the work is known (R534) -/
  slots : Slots := {}
  /-- stores and emits executed: the program order of the drain (R310) -/
  ops : Nat := 0
  /-- registers and flags of engine B (R256, R285) -/
  eb : Engine := {}
  deriving DecidableEq, Repr

/-- A hot input (R228): signal index and, for a banded one, its table. -/
structure HotInput where
  index : Nat
  band : Option Nat
  deriving DecidableEq, Repr

/-- The program of a pair as its PAIR section gives it (R260, R334). -/
structure Prog where
  starts : List Nat := []
  specLen : Nat := 0
  hots : List HotInput := []
  bands : List (List Int) := []
  code : List Word := []
  data : List Word := []
  fixed : Bool := false
  dfix : Nat := 0
  /-- 2 × S + 2 × E16 + 4 × E32 of the worst case (R310) -/
  drain : Nat := 0
  deriving DecidableEq, Repr

/-- A Binder pair beside its registers. -/
structure Pair where
  prog : Option Prog := none
  /-- data memory and timers as committed at the last boundary -/
  dmem : Sparse Word := []
  timers : Sparse Timer := []
  /-- the evaluation under way -/
  ctx : Option Ctx := none
  /-- ended tines kept for validation (R231) -/
  tines : List Ctx := []
  /-- the commit waiting for the next boundary -/
  commit : Option Ctx := none
  /-- validation of the swath has ended or been abandoned -/
  judged : Bool := false
  /-- the pair's result for the swath under way is settled: ready, or overrun -/
  done : Bool := false
  /-- outcome and tine for PIPE_PAIR_LAST, known when validation ends -/
  outcome : Nat := 0
  tine : Nat := 15
  /-- blocked under R286, since this tick -/
  blocked : Option Nat := none
  /-- halted in bench mode (R289) -/
  halted : Bool := false
  /-- a debug key waits for the boundary: halt (true) or resume (false) -/
  debugReq : Option Bool := none
  /-- the commit of the swath under way was discarded by a block: its roll-call is judged once more (R482) -/
  discarded : Bool := false
  /-- entry, last band and last direction (upward) of each banded hot input (R230) -/
  bands : List (Nat × Nat × Bool) := []
  /-- first swath whose roll-call is judged (R480) -/
  judgeFrom : Option Nat := none
  /-- cycles accounted in this swath, for IDLE (R533) -/
  spent : Nat := 0
  /-- tick at which the evaluation under way began (R231, R238) -/
  began : Nat := 0
  /-- the swath the tines after the last result are for (R231) -/
  tineFor : Nat := 0
  /-- entries watched for the tines, with their value and quality words before the boundary (R236) -/
  watch : List (Nat × Word × Word) := []
  /-- Crib entries of the commit that the drain has not yet written: tick, Crib, words (R310) -/
  due : List (Nat × Nat × List Word) := []
  /-- Crib faults of the commit, raised with it: kind and Crib (R239, R314) -/
  owed : List (Nat × Nat) := []
  /-- tick at which the drain of the commit ends (R310, R517) -/
  drainEnd : Nat := 0
  deriving DecidableEq, Repr

/-! ## Cribs (R312-R319) -/

/-- A Crib beside its registers: entries written beyond PROD and not yet published, from PROD on, with the producer's tag
(the pair, or 4 for a producer that publishes as it writes), entries latched by a pop from CONS, and the tick of the last publication with the entries published at it (R313-R319). -/
structure Crib where
  written : List (Nat × List Word) := []
  latched : Nat := 0
  pubTick : Nat := 0
  pubCount : Nat := 0
  deriving DecidableEq, Repr
/-- A stamped write in the queue (R376): entry, value and target swath. -/
structure QueuedWrite where
  index : Nat
  value : Word
  target : Nat
  deriving DecidableEq, Repr

/-! ## Boot, image and staging (R323-R343) -/

/-- A verified image: the header fields the device keeps, its public key, its digest and its sections by type
(R327-R330). -/
structure Image where
  word3 : Word := 0#32
  yoke : Nat := 0
  member : Bool := false
  benchOnly : Bool := false
  autoArm : Bool := false
  build : Word := 0#32
  pub : List Word := []
  digest : List Word := []
  sections : List (Nat × List Word) := []
  deriving DecidableEq, Repr

/-- The types of a boot record (R337). -/
inductive RecType where
  | activate | tried | confirm | revert
  deriving DecidableEq, Repr

/-- A boot record (R337): sequence, type, slot (0 A, 1 B) and the first four words of the image digest. -/
structure BootRec where
  seq : Nat
  type : RecType
  slot : Nat
  digest : List Word
  deriving DecidableEq, Repr

/-- What boot, staging, fuses and arming keep beside their registers. -/
structure Boot where
  /-- the image that runs, none before one is verified -/
  image : Option Image := none
  /-- the two record sectors of the flash: the places written, in order; none where a place holds no valid record (R337) -/
  sectors : Tab 2 (List (Option BootRec)) := Tab.fill 2 []
  /-- slot choice made at this reset: first slot and, if any, the second (R338) -/
  choice : List Nat := []
  /-- YROLE strap: the device is the lead (R323) -/
  lead : Bool := true
  /-- hash of the integrator key in the fuses, none while blank (R335) -/
  keyHash : Option (List Word) := none
  /-- service authority key in the fuses, none while blank (R335) -/
  svcKey : Option (List Word) := none
  /-- blown rollback fuses, 0-256 (R336) -/
  rollback : Nat := 0
  /-- the keys read at 0xFC_0000 when commissioning began (R335) -/
  keyInput : List Byte := []
  /-- a flashless member's delivered image (R341) -/
  stage : List Word := []
  /-- the flash programs the data of an NVM_STAGE transaction (R363) -/
  programming : Bool := false
  /-- key 0x22 came while the last data were being programmed: the check starts when they are (R342, R363) -/
  checkWaits : Bool := false
  /-- flash: the words of slots A and B from slot offset 0; what is not listed is erased (R325, R326) -/
  slots : Tab 2 (List Word) := Tab.fill 2 []
  /-- an AUTO_ARM request has not yet succeeded or been replaced (R343) -/
  autoArm : Bool := false
  /-- halves named by the arming request that waits for its boundary, and the swath it was made in (R343) -/
  armReq : Option (Nat × Nat) := none
  /-- TB_CONFIG and SYNC_OFFSET of the image, in force from the boundary of R63 -/
  tbNext : Option (Word × Word) := none
  /-- slot of the trial that this reset boots (R338) -/
  trial : Option Nat := none
  /-- the flash as its SFDP read finds it: 0 usable, 1 not found, 2 unsupported (R324); its size in MiB; it declares program and erase
  suspend (R507) -/
  flash : Nat := 0
  flashMib : Nat := 16
  suspend : Bool := false
  /-- maximum page program time of the flash in µs, as its SFDP declares it (R507) -/
  pageUs : Nat := 0
  deriving DecidableEq, Repr

/-- Staged reconfiguration beside its registers (R25-R34). -/
structure Recfg where
  /-- the set's words, read when the check ended -/
  words : List Word := []
  /-- the target stook of the set in CHECKING or PENDING -/
  target : Nat := 0
  length : Nat := 0
  /-- swath at whose boundary a set in CHECKING or PENDING had its target (R343) -/
  met : Option Nat := none
  /-- STATE and REASON of the earlier set, shown again after one read of a rejection with 0x0A (R30) -/
  shadow : Option (Nat × Nat) := none
  deriving DecidableEq, Repr

/-! ## Field channels and halves (R79-R135, R136-R219) -/

/-- Gain and zero of one path of a modulator (R145): corrected = num × (raw - zero) / den. -/
structure Coef where
  num : Int := 1
  den : Int := 1
  zero : Int := 0
  deriving DecidableEq, Repr

/-- The coefficients of one modulator: precision path, fast path, fast secondary sub-stream (R145, R176). -/
structure Coefs where
  prec : Coef := {}
  fast : Coef := {}
  sec : Coef := {}
  deriving DecidableEq, Repr

/-- A fast sample as an uplink frame carries it: primary and secondary fast codes, window quality, and the two state
bits of the value word (R83): filtered and unfiltered state of an input, readback state and switch closed of an output. -/
structure Smp where
  code : Int := 0
  sec : Int := 0
  qual : Nat := 0
  /-- primary code of the value word: that of before a dark pulse while one holds the readback (R115) -/
  shown : Int := 0
  bit0 : Bool := false
  bit1 : Bool := false
  deriving DecidableEq, Repr

/-- What a field die latches of one modulator at the close of a fast window (R140, R209): the raw primary and secondary codes
as the 16 bits of a frame, an overload in either direction (R163), an open shunt (R164), an input clamp above 5 mA (R165), the
two state bits of the value word, and the sample a dark pulse holds (R115); with the correction the logic die noted for the
window: the coefficients and the window quality of the modulator that publishes (R146, R148), whether the spare publishes (R180), and a
neighbour's clamp (R167). -/
structure ChWin where
  prim : Int := 0
  sec : Int := 0
  high : Bool := false
  low : Bool := false
  shunt : Bool := false
  clamp : Bool := false
  bit0 : Bool := false
  bit1 : Bool := false
  held : Option Smp := none
  coefs : Coefs := {}
  qual : Nat := 0
  sub : Bool := false
  nbr : Bool := false
  deriving DecidableEq, Repr

/-- A fast window of a half (R140): its swath and number, the ticks at which it opened and closed, its eight channels and the
spare, VFIELD in mV, and whether the logic die has taken it or counted it lost (R210). -/
structure Win where
  swath : Nat
  k : Nat
  opened : Nat
  closed : Nat
  chans : List ChWin
  spare : ChWin := {}
  vfield : Nat := 0
  taken : Bool := false
  deriving DecidableEq, Repr

/-- A precision window that has closed and waits for its P-frame (R211): the coefficients of the modulator that publishes it
(R146), whether that is the spare (R180), its window quality (R148), an open shunt (R164), and what THR_FLAGS says of it. -/
structure PrecWin where
  coef : Coef
  sub : Bool
  qual : Nat
  shunt : Bool
  ref : Bool
  sync : Bool
  deriving DecidableEq, Repr

/-- A dark pulse under way (R111-R115): the channel's sample before it, samples seen, passed so far, channels that were
open with readback state 1, those of them that fell, and per channel the largest excess current and current in mA. -/
structure Pulse where
  start : Nat
  held : Smp
  seen : Nat := 0
  /-- mean switch current of each other switch over its three samples before the pulse, in mA (R113) -/
  before : List (Nat × Int) := []
  passed : Bool := false
  watch : List Nat := []
  fell : List Nat := []
  excess : List (Nat × Int) := []
  deriving DecidableEq, Repr

/-- A fingerprint capture (R194-R199): samples are current in 0.1 mA, voltage in mV and twice the window midpoint in
ticks after the switching. -/
structure Capture where
  start : Nat
  energise : Bool
  samples : List (Int × Int × Nat) := []
  limitedAt : Option Nat := none
  lowv : Bool := false
  trunc : Bool := false
  deriving DecidableEq, Repr

/-- What a field die drives at a terminal that has no switch (R81, R102, R127, R128): nothing (high impedance, or a
disconnected stage), a level in µA or mV, or the loop supply on or off. -/
inductive Drive where
  | idle
  | level (v : Nat)
  | supply (on : Bool)
  deriving DecidableEq, Repr

/-- A channel beside its registers: what its field die applies and senses, and what the Thresher accumulates. -/
structure Chan where
  /-- last applied ACTION (1 DRIVE, 2 SAFE, 3 NIGHT); none: unloaded (R127, R207) -/
  action : Option Nat := none
  /-- last applied DRIVE value after clamping (R85) -/
  value : Nat := 0
  /-- DARK bit of the last applied frame: a pulse is due in this swath (R206) -/
  dark : Bool := false
  /-- swath of the last pulse issued or skipped -/
  dpSwath : Option Nat := none
  /-- a HOLD safe state is running, with the command it holds (R128) -/
  holding : Bool := false
  holdVal : Nat := 0
  /-- the switch is closed -/
  closed : Bool := false
  /-- the current limit is engaged (R91) -/
  limit : Bool := false
  /-- backoff: 0 none, 1 its time runs, 2 elapsed, the attempt waits for a command of 1 (R92, R93) -/
  backoff : Nat := 0
  hot : Bool := false
  /-- the overload latch and the retry attempt count, as CHn_FLAGS and CHn_STATUS show them (R92); a trip in the swath under
  way, against which a release does nothing (R135) -/
  ovl : Bool := false
  tries : Nat := 0
  tripped : Bool := false
  /-- a write of LATCHED waits for the boundary (R93) -/
  releaseReq : Bool := false
  /-- a command was clamped in this swath (R85) -/
  clamped : Bool := false
  /-- the channel-state bits as they stood at the last boundary (R149) -/
  bits : Nat := 0
  shuntOpen : Bool := false
  shuntOvl : Bool := false
  loopLimit : Bool := false
  retOpen : Bool := false
  /-- the AO-V stage is disconnected, or regulates locally (R100) -/
  disconnected : Bool := false
  localReg : Bool := false
  /-- the logic side holds the channel in a safe-state cause: left only at a boundary (R130) -/
  safeL : Bool := true
  /-- diagnostic kinds whose condition holds (R108) -/
  conds : List Nat := []
  /-- results of the off-state open tests since the last passing one: failed tests in a row (R108, R109) -/
  offFails : Nat := 0
  /-- DI counter filter (R89): count, filtered state, tick of the last filtered change, rising changes -/
  filt : Nat := 0
  state : Bool := false
  lastTick : Word := 0#32
  rises : Word := 0#32
  /-- comparator or readback threshold state (R88, R106) -/
  comp : Bool := false
  /-- rising edges since arming, edges in the frame under way, stamped rising edges of the swath with first and last as the frames
  have brought them (R209) -/
  pulses : Word := 0#32
  /-- start tick of the frame the last edge fell in, and the edges in it (R105) -/
  frameAt : Nat := 0
  frameEdges : Nat := 0
  edges : Nat := 0
  edgeFirst : Word := 0#32
  edgeLast : Word := 0#32
  /-- switch closures since arming and peak switch current of the swath in mA (R305) -/
  closures : Word := 0#32
  /-- pulses and closures as they stood at the last boundary, and the stamped edges of the swath before with the first and the
  last stamp (R83, R157, R305) -/
  pulsesB : Word := 0#32
  closuresB : Word := 0#32
  edgesB : Nat × Word × Word := (0, 0#32, 0#32)
  /-- ticks of the last stamped edges, newest first, at most four, for the frames that carry them (R105, R209) -/
  edgeAt : List Nat := []
  /-- limit, hot and failed open test as the last valid uplink frame told them: bits 0 to 2 (R209) -/
  told : Nat := 0
  peak : Int := 0
  /-- last sample taken, the last three switch currents in mA -/
  smp : Smp := {}
  last3 : List Int := []
  /-- readback held from before a dark pulse, until this tick (R115) -/
  heldTill : Option (Smp × Nat) := none
  pulse : Option Pulse := none
  /-- start tick of a Stand-in share test (R448) -/
  share : Option Nat := none
  capture : Option Capture := none
  /-- features formed at the end of the last energisation capture, waiting for the holding features (R197) -/
  holdFrom : Option Nat := none
  /-- tick at which the last energisation captured began (R489) -/
  capFrom : Nat := 0
  /-- last valid R_hot in mΩ, and whether the last energisation gave a valid L0 (R196, R200) -/
  rHot : Option Nat := none
  l0ok : Bool := false
  /-- fast accumulation of the swath under way (R157) -/
  fSum : Int := 0
  fShown : Int := 0
  fSumsq : Nat := 0
  fSec : Int := 0
  fCount : Nat := 0
  fMin : Int := 0x7FFF
  fMax : Int := -0x8000
  fQual : Nat := 0
  /-- fast extremes of the samples since the last clear that Thresh has not yet folded in, and the tick of that clear (R160) -/
  aMin : Int := 0x7FFF
  aMax : Int := -0x8000
  atTick : Nat := 0
  /-- tick of the last sample with the input clamp above 5 mA, and whether the last sample was one (R165-R167) -/
  clampLast : Option Nat := none
  clampEp : Bool := false
  /-- an episode of OVR or UNDR runs; a sample of this swath was clamped (R166) -/
  ovrEp : Bool := false
  ovrSeen : Bool := false
  /-- the precision bank that fills (R158, R159) -/
  pSum : Int := 0
  pCount : Nat := 0
  pMin : Int := 0x7FFFFF
  pMax : Int := -0x800000
  pQual : Nat := 0
  pPartial : Bool := true
  /-- the precision window under way: whether it counts; reference not ready, loop not locked, neighbour disturbed;
  an open shunt; NE 43 alarm level throughout (R104, R148) -/
  wOpen : Bool := false
  wRef : Bool := false
  wSync : Bool := false
  wNbr : Bool := false
  wShunt : Bool := false
  wNe43 : Bool := true
  /-- the window that closed at the last stook boundary, waiting for its P-frame and for Thresh -/
  res : Option PrecWin := none
  /-- the stook of the latest precision result (R305) -/
  pStook : Nat := 0
  /-- the last precision result was lost on the link (R212) -/
  precLost : Bool := false
  /-- key 0xC1 in THR_AT_CLEAR waits for the boundary (R160) -/
  atClear : Bool := false
  /-- quality that a publisher cut off inside the precision window, and inside the fast window under way, gave its part (R148) -/
  partPrec : Nat := 0
  partFast : Nat := 0
  /-- THR_NOW and THR_FLAGS as they stood when Thresh last ended, for LDK (R161, R268) -/
  nowB : Word := 0#32
  flagsB : Word := 0#32
  /-- bits of CHn_FLAGS and THR_FLAGS set at a tick, which a write of that tick leaves standing (R14) -/
  evBits : Word := 0#32
  thrBits : Word := 0#32
  bitsTick : Nat := 0
  /-- coefficients: factory, in force, last good (R145, R175, R179) -/
  factory : Coefs := {}
  coefs : Coefs := {}
  good : Coefs := {}
  deriving DecidableEq, Repr

/-- A coefficient set of the spare for one function and option, refreshed at a tick, none once lost (R174, R175). -/
structure SpareSet where
  func : Nat
  opt : Nat
  coefs : Coefs := {}
  tick : Option Nat := none
  deriving DecidableEq, Repr

/-- What the spare does in the stook under way (R172, R176, R184, R189). -/
inductive SeqStage where
  | idle | selfZero | selfRef | shadow | zero | ref | dac | check | held | int | nop
  deriving DecidableEq, Repr

/-- The sequencer of a half beside its registers (R182-R188). -/
structure Seq where
  /-- an entry is under way -/
  running : Bool := false
  stage : SeqStage := .idle
  /-- stage that follows an inserted self-calibration -/
  after : SeqStage := .idle
  attempt : Nat := 1
  unjudged : Nat := 0
  dacLeft : Nat := 0
  /-- the entry hands back, and ends, at the next stook boundary that may end it -/
  ending : Bool := false
  /-- steps 3a, 3b and 4 are repeated from the next stook boundary (R179); the entry ends unjudged (R177) -/
  redo : Bool := false
  skip : Bool := false
  /-- end tick of the last entry plus its DELAY -/
  due : Nat := 0
  /-- entry that starts next -/
  next : Nat := 0
  test : Bool := false
  /-- a test run waits to start; the background entry to resume with after it -/
  wait : Bool := false
  resume : Nat := 0
  /-- the first pass ignores DELAY (R175) -/
  firstPass : Bool := true
  /-- ranges still to refresh in a SELF entry -/
  selfLeft : List (Nat × Nat) := []
  /-- range whose zero the last IDLE stook measured, and that zero -/
  idleRange : Option (Nat × Nat) := none
  /-- raw zero of the run under way -/
  zeroRaw : ModRaw := {}
  /-- the comparison that waits for its verdict: channel, step, difference or unjudged (R177) -/
  cmp : Option (Nat × Nat × Option Int) := none
  /-- the result of a DAC stook that waits for its check: channel, code, expected (R189) -/
  dacRes : Option (Nat × Int × Int) := none
  /-- internal codes written in the pass under way, and of each code the full passes that ended since its last write (R193) -/
  wrote : List Nat := []
  clean : List Nat := List.replicate 8 0
  /-- the table has restarted and entry 0 has not yet begun (R188) -/
  fresh : Bool := false
  deriving DecidableEq, Repr

/-- A Field Half beside its registers: its field die, its link and its spare. -/
structure Half where
  /-- keeper state in the coding of uplink word 0 (R209) -/
  keeper : Nat := 0
  /-- slots without a valid downlink frame, valid frames in a row, a valid frame in the slot under way (R214, R215) -/
  dnMiss : Nat := 0
  dnRun : Nat := 0
  dnGot : Bool := false
  upGot : Bool := false
  /-- the night handover was received: no timeout until the next valid frame (R215) -/
  dormant : Bool := false
  timedOut : Bool := false
  /-- tick of the last valid uplink frame (R433) -/
  upLast : Option Nat := none
  /-- tick at which the uplink count reached TIMEOUT (R217) -/
  upTimeout : Option Nat := none
  /-- the downlinks carry DORMANT and NIGHT (R215, R520) -/
  nightTx : Bool := false
  /-- a downlink timeout that is reported when the link returns (R219) -/
  reportLoss : Bool := false
  /-- invalid frames: downlink since the last uplink frame, downlink and uplink of the swath, and the same counts of
  the swath before while its last frame is not judged (R219) -/
  dnBad : Nat := 0
  dnBadSw : Nat := 0
  upBadSw : Nat := 0
  prevBad : Option (Nat × Nat) := none
  /-- the last two fast windows its frames carry (R210), the newest first -/
  win : Option Win := none
  winOld : Option Win := none
  /-- words 13-21 of the P-frames of the last stook boundary (R211), and the same as first received in a valid frame -/
  pSent : List Word := []
  pGot : Option (List Word) := none
  /-- frames have run since the last reset of the logic die: slots without a valid one count (R217) -/
  counting : Bool := false
  /-- words 1 and 19 of the last valid downlink frame: swath, swath length, and that the next boundary is a stook boundary -/
  dnSwath : Word := 0#32
  dnLen : Nat := 0
  dnStook : Bool := false
  /-- tick at which the swath under way began by the die's own count of the ticks (R203) -/
  dieAt : Nat := 0
  /-- a valid downlink frame has reached the die since the last stook boundary, and in the stook before it (R173) -/
  mailAny : Bool := false
  mailOk : Bool := false
  /-- supply comparators (R118) -/
  high : Bool := false
  low : Bool := false
  susp : Bool := false
  uv : Bool := false
  uvReady : Bool := false
  uvKey : Bool := false
  inReset : Bool := false
  /-- the field die has its configuration and table (R127) -/
  loaded : Bool := false
  /-- a field reset waits to return (R132) -/
  returning : Bool := false
  /-- an arming opens the gate for its check with the next armed frame, and the tick at which the check ends (R123) -/
  gateDue : Bool := false
  gateTest : Option Nat := none
  gateHold : Bool := false
  gdrvHold : Bool := false
  gdrvCut : Bool := false
  /-- the table check failed: every channel OFF until a field reset (R213) -/
  forced : Bool := false
  /-- ARMED of the last applied frame -/
  armedF : Bool := false
  /-- ALM strap as last read, and as the frames use it now (R103) -/
  almIn : Nat := 0
  alm : Nat := 0
  /-- GDRV is on (R125, R126) -/
  gdrv : Bool := false
  /-- functions of the channels as an unloaded die still stands at its terminals, by the configuration it has lost (R127); none where the
  die is loaded, or has had no configuration yet -/
  was : List Nat := []
  /-- field-die parameter words by address, the committed table with its CRC, last MB_SEQ, mailbox return (R208-R213) -/
  params : Sparse Word := []
  /-- the configuration registers of the half as its die holds them, from a reset that took the logic die's copy until the
  next reload (R80, R216); empty while they are the same -/
  kept : Sparse Word := []
  table : List Word := []
  tableCrc : Option Word := none
  mbSeq : Option Nat := none
  mbReturn : List Word := []
  /-- mailbox return as the System Controller last received it -/
  mbRx : List Word := []
  /-- the failed table check has been reported -/
  tableTold : Bool := false
  /-- words 10-17 as the downlink frames carry them: the last mailbox command (R208) -/
  mbOut : List Word := []
  /-- the spare input that waits for the next stook boundary, and the one in use (R173) -/
  spareIn : Option Word := none
  spareNow : Word := 0#32
  /-- the input in use came through the mailbox, and stands for its stook (log entry 34) -/
  spareMb : Bool := false
  /-- tick of the last disarming of the half by a reaction, for the frames of R463 -/
  disarmTick : Option Nat := none
  /-- tick at which the precision buffer last turned on (R153, R156) -/
  refOnAt : Option Nat := none
  /-- a write of REFBUF_EN that waits for its boundary (R153) -/
  refWrite : Option Bool := none
  seq : Seq := {}
  sets : List SpareSet := []
  /-- the value of an internal quantity that waits for Thresh -/
  intRes : Option (Nat × Int × Nat) := none
  deriving DecidableEq, Repr

/-- A part slot of the Service Record (R486-R494). -/
structure PartSlot where
  /-- state in the coding of SR_SLOT_INFO -/
  state : Nat := 0
  target : Nat := 0
  cls : Nat := 0
  sigIx : Nat := 0
  idHi : Word := 0#32
  idLo : Word := 0#32
  adopt : Bool := false
  /-- baseline: R20 in mΩ, L0 in µH, t_pull and t_drop in µs -/
  base : Option (Nat × Nat × Nat × Nat) := none
  n : Nat := 0
  w : Nat := 0
  /-- captures without flag, newest first, at most 256: n and t_pull -/
  points : List (Nat × Nat) := []
  /-- w of the last 1,024 operations, newest first -/
  recent : List Nat := []
  /-- operations of the hour under way and of the last 168 hourly passes, newest first -/
  hourOps : Nat := 0
  hours : List Nat := []
  pred : Word := 0xFFFFFFFF#32
  eol : Word := 0xFFFFFFFF#32
  warned : Bool := false
  doubt : Bool := false
  /-- the last compared capture was outside its limits (R200) -/
  out : Bool := false
  /-- a FINGERPRINT record was written in this hour, and one of the capture last ended (R497) -/
  fpHour : Bool := false
  fpTold : Bool := false
  /-- tick of the boundary at which it was registered (R489) -/
  since : Nat := 0
  /-- the deviation at its last comparison, in the layout of FP_DEV (R200, R497) -/
  dev : Word := 0#32
  /-- operations since the last PART_HOURLY record were lost (R508) -/
  gap : Bool := false
  /-- n and W at the last PART_HOURLY record, which a loss of VIN goes back to (R508) -/
  keptN : Nat := 0
  keptW : Nat := 0
  deriving DecidableEq, Repr

/-- Junction swings of a channel (R495): those counted in the bins from 20 K, 40 K and 60 K on, whether the temperature falls from a
peak, and the peak and the valley so far in 0.01 °C. -/
structure Cycling where
  n1 : Nat := 0
  n2 : Nat := 0
  n3 : Nat := 0
  falling : Bool := false
  hi : Option Int := none
  lo : Int := 0
  deriving DecidableEq, Repr

/-- The reference drift of a half (R495): sum and number of the REF_DRIFT values of the hour, and the hourly means, newest first. -/
structure Drift where
  sum : Int := 0
  n : Nat := 0
  means : List Int := []
  deriving DecidableEq, Repr

/-- Captures of a follower's COIL as a Wide lead sees them in the partner block (R443, R486): one runs, the tick from which it counts, and
the tick by which its holding features have come. -/
structure PartnerFp where
  runs : Bool := false
  start : Nat := 0
  due : Option Nat := none
  deriving DecidableEq, Repr

/-! ## Check-value units (R390-R401) -/

/-- A check-value unit beside its registers: the running scan (its first swath, bytes read, CRC register, last word read
and the word of the alive field), a key that waits, and Gleaner-feed faults that wait for their fold. -/
structure CvuUnit where
  scan : Option Nat := none
  done : Nat := 0
  crc : Word := 0xFFFFFFFF#32
  last : Word := 0#32
  alive : Word := 0#32
  key : Option Nat := none
  faults : List (Nat × Nat) := []
  deriving DecidableEq, Repr

/-- A class entry of the SERVICE section (R490). -/
structure PartClass where
  nMech : Nat
  nElec : Nat
  iRated : Nat
  e : Nat
  tLim : Nat
  warnOps : Nat
  deriving DecidableEq, Repr

/-- A journal block (R496-R498): block sequence, first record sequence, block slot in the flash, its records, how many of
them are programmed, closed, sealed after recovery, and its seal area once sealed; the message of its seal. -/
structure JBlock where
  seq : Nat
  first : Nat
  slot : Nat
  recs : List (List Word) := []
  programmed : Nat := 0
  closed : Bool := false
  recovered : Bool := false
  /-- tick at which it closed, at which its seal falls due (R498, R504) -/
  closedAt : Nat := 0
  done : Bool := false
  msg : Option (List Word) := none
  sign : List Word := []
  /-- the seal stands in the flash (R498, R509) -/
  sealIn : Bool := false
  deriving DecidableEq, Repr

/-- A service session (R487, R488): challenge, authenticated, last SEQ, and when its last message came. -/
structure Session where
  challenge : List Word
  authed : Bool := false
  seq : Nat := 0
  /-- tick of the last message -/
  last : Nat := 0
  deriving DecidableEq, Repr

/-- A slot operation that waits for its boundary (R489). -/
inductive SlotOp where
  | register (slot : Fin 32) (target : Nat) (idHi idLo : Word) (cls sigIx : Nat) (base : Option (Nat × Nat × Nat × Nat))
  | retire (slot : Fin 32)
  | accept (slot : Fin 32)
  deriving DecidableEq, Repr

/-- The Service Record beside its registers. -/
structure Sr where
  slots : Tab 32 PartSlot := Tab.fill 32 {}
  classes : List PartClass := []
  /-- journal records that wait for their boundary: SUBJECT, TYPE, FLAGS, payload (R497) -/
  due : List (Nat × Nat × Nat × List Word) := []
  ops : List SlotOp := []
  /-- device seed of 256 bits (R484; OTP, log entry 3) -/
  seed : List Word := List.replicate 8 0#32
  /-- openings and switchings to off that wait for the input image of their swath (R491) -/
  opsDue : List Nat := []
  /-- parts replaced or retired while a capture of their channel ran: slot and part (R510) -/
  left : List (Nat × PartSlot) := []
  /-- captures of a follower's channels (R486) -/
  partner : Tab 16 PartnerFp := Tab.fill 16 {}
  /-- block slots in which a program or an erase has failed (R509), and the slot last taken into use (R496) -/
  badSlots : List Nat := []
  lastSlot : Nat := 0
  /-- swath of the last hourly pass (R495), tick at which PFAIL_N asserted (R508), tick of the ATTEST in progress (R504) -/
  hourAt : Option Nat := none
  pfailAt : Nat := 0
  /-- the last loss of VIN was held up (R508) -/
  heldUp : Bool := false
  nonceAt : Nat := 0
  /-- journal blocks in the flash and in staging, in ascending sequence -/
  blocks : List JBlock := []
  /-- seal of a block waits because its tree is exhausted, and that has been reported (R504) -/
  deferred : Bool := false
  lowTold : Nat := 0
  /-- the last leaf of a tree was used before the next tree was ready (R504) -/
  treeOut : Bool := false
  /-- bottom tree ready for signing, next one ready (R503) -/
  tree : Bool := false
  nextTree : Bool := false
  session : Option Session := none
  opens : Nat := 0
  /-- failures counted in the Cellar, and the tick at which they locked OPEN (R488) -/
  fails : Nat := 0
  lockAt : Option Nat := none
  /-- swath from which the time to the next token counts (R505) -/
  tokenSwath : Nat := 0
  /-- nonce of the attestation in progress, and the report (R505) -/
  nonce : Option (List Word) := none
  report : List Word := []
  /-- junction swings per channel, equivalent time of the logic die and the field dies in 2^-64 ticks, drift of the halves, leaves
  used in the hour and in the last 720 passes (R495) -/
  cycles : Tab 16 Cycling := Tab.fill 16 {}
  /-- thermal cycles the channels have reported (R94) -/
  thermal : List Nat := List.replicate 16 0
  dies : List Nat := [0, 0, 0]
  drifts : Tab 2 Drift := Tab.fill 2 {}
  hourLeaves : Nat := 0
  leaves : List Nat := []
  deriving DecidableEq, Repr

/-! ## Gleaner (R402-R430) -/

/-- A bale descriptor (R416): class, layout range, head entries of the command words, response values. -/
structure Desc where
  cls : Nat
  layout : Nat
  compat : Nat
  cmds : List Nat
  vals : Nat
  deriving DecidableEq, Repr

/-- An entry of the CLASSES section (R333): class, layout, slot offset and length in bytes, digest. -/
structure ClassEntry where
  cls : Nat
  layout : Nat
  compat : Nat
  offset : Nat
  length : Nat
  digest : List Word
  deriving DecidableEq, Repr

/-- A member position of a segment (R421-R426). -/
structure Member where
  /-- in the coding of GLN_MBR_INFO.STATE -/
  state : Nat := 0
  /-- consecutive failed bales, kept at 15 -/
  fails : Nat := 0
  lost : Bool := false
  /-- a bale with a good CRC and a class has been received: class, layout and sequence are known -/
  heard : Bool := false
  cls : Nat := 0
  layout : Nat := 0
  delta : Nat := 0
  status : Word := 0#32
  reason : Nat := 0
  /-- sequence of the last rejected command -/
  rejected : Nat := 0
  /-- delivery: DSTATE and next offset as last reported (R420) -/
  dstate : Nat := 0
  next : Nat := 0
  /-- class and layout UNKNOWN_CLASS was last raised for -/
  told : Option (Nat × Nat) := none
  /-- values and quality words that landed and wait for their fold -/
  data : Option (List Word × List Nat) := none
  deriving DecidableEq, Repr

/-- A segment beside its registers. -/
structure Seg where
  members : Sparse Member := []
  /-- swath of the scan under way, whether it enumerates, whether it is the first since the Gleaner started -/
  scan : Option Nat := none
  scanEnum : Bool := false
  scanFirst : Bool := false
  /-- a first scan has run; scans since the first; the next scan enumerates -/
  started : Bool := false
  count : Nat := 0
  enumNext : Bool := true
  /-- an enumeration has found L and N_f before (R414) -/
  known : Bool := false
  /-- swath of the last scan run: the swath in which the members prepared their responses -/
  lastRun : Option Nat := none
  /-- the landing that waits for its fold: swath of the scan, SCAN_LATE, and whether anything is folded -/
  land : Option (Nat × Bool × Bool) := none
  /-- a new schedule is in force: what is known of the members ends with the next scan that comes due (R31) -/
  afresh : Bool := false
  deriving DecidableEq, Repr

/-- The Gleaner beside its registers: tables of the image, class entries read (index, digest good), the last command
stream sent on GDO. -/
structure Gln where
  segs : Tab 32 Seg := Tab.fill 32 {}
  descs : List Desc := []
  /-- position words by segment × 256 + position (R425) -/
  posWords : Sparse Word := []
  classes : List ClassEntry := []
  read : List (Nat × Bool) := []
  sent : List Bool := []
  /-- folds of the swath whose boundary applied a new schedule: that swath, and the segments due under the old schedule with their N
  (R31, R422) -/
  oldFolds : Option (Nat × List (Nat × Nat)) := none
  deriving DecidableEq, Repr

/-! ## Power states (R515-R529) -/

/-- A power request that waits (R523): requested state and level, from a sheaf, first judgement boundary once judged. -/
structure PwrReq where
  state : Nat
  level : Nat
  sheaf : Bool
  since : Option Nat := none
  deriving DecidableEq, Repr

/-- Power beside its registers. -/
structure Pwr where
  /-- state in force, in the coding of PWR_TARGET.STATE: 0 Run, 1 Doze, 2 Hibernate, 4 Dormant -/
  mode : Nat := 0
  /-- the night handover of a Dormant entry is under way (R520 steps 2-4): halves whose slot-8 uplink has reported NIGHT -/
  handover : Option (List Nat) := none
  req : Option PwrReq := none
  /-- the level that takes effect at the next boundary (R513) -/
  levelNext : Option Nat := none
  /-- latched wake: source and DI channel as PWR_WAKE_CAUSE; and the domains are ready (R527) -/
  wake : Option (Nat × Nat) := none
  ready : Bool := false
  /-- a wake arrived while an entry was under way (R529) -/
  replay : Bool := false
  /-- LOGIC_HOT has been raised and the die has not fallen below 110 °C since (R532) -/
  hot : Bool := false
  /-- between a wake from Dormant and the next arming: the pairs evaluate nothing (R522) -/
  woken : Bool := false
  deriving DecidableEq, Repr

/-! ## Yoke (R431-R456) -/

/-- What a HELLO of the partner says (R436). -/
structure Hello where
  digest : List Word
  layout : Nat
  state : Nat
  mode : Nat
  active : Bool
  follower : Bool
  rev : Word
  recfg : List Word
  slots : Word
  deriving DecidableEq, Repr

/-- The Yoke beside its registers. -/
structure Yk where
  /-- the follower's registers as its register traffic last brought them to a Wide lead, by the lead's host address; a
  register without one by the follower's own address (R40, R443) -/
  image : Sparse Word := []
  /-- exchange list of the image (R435), and in a Wide image the runs it sends and receives without a list: first
  index and count (R443) -/
  lists : List Word := []
  autoSend : List (Nat × Nat) := []
  autoRecv : List (Nat × Nat) := []
  /-- follower stook number minus lead stook number while joined (R440) -/
  stookOff : Int := 0
  /-- ticks of the last sign of life, of the last heartbeat edge and of the last valid frame (R433) -/
  life : Option Nat := none
  lastEdge : Option Nat := none
  lastFrame : Option Nat := none
  /-- tick since which a heartbeat edge is awaited: that of the last sign of life by one, else of the first frame whose sender drives a
  heartbeat; its absence has been raised (R453) -/
  beatSince : Option Nat := none
  beatTold : Bool := false
  /-- swath of the HELLO of the join under way (R436), what the partner's HELLO said, the result of its CONFIRM -/
  helloAt : Option Nat := none
  hello : Option Hello := none
  confirmed : Bool := false
  /-- a follower's echo: the tick at which its K28.5 was sent; at a lead the tick at which one arrived that is not answered
  (R436) -/
  echoAt : Option Nat := none
  echoIn : Option Nat := none
  /-- CONFIRM with result 0 has been sent; the reason of a refusal and its swath, which the CONFIRM frames tell the partner; a
  device refused or lost since its last join (R436, R437) -/
  sentConfirm : Bool := false
  refused : Option (Nat × Nat) := none
  held : Bool := false
  /-- the lead's swath number, stook number and stook phase as its last ALIGN or slot-0 frame tells them (R438, R440) -/
  base : Option (Nat × Nat × Nat) := none
  /-- the lead as the last slot-0 frame shows it, on this device's ticks: low 32 bits of its swath, next boundary, length (R438) -/
  lead : Option (Nat × Nat × Nat) := none
  /-- the follower aligns: the swath that begins next ends at a lead boundary (R438) -/
  aligning : Bool := false
  /-- the tick at which the aligning swath under way ends -/
  alignEnd : Option Nat := none
  /-- consecutive invalid slot-0 frames, boundaries off by more than 2 ticks (R439) -/
  slot0Bad : Nat := 0
  alignBad : Nat := 0
  /-- payloads of the exchange frames of the swath by slot, invalid frames of the swath (R441, R442) -/
  rx : List (Nat × List Word) := []
  rxBad : Nat := 0
  /-- the block of the swath, once its first frame needs it; the partner entries the last boundary wrote (R441, R442) -/
  block : Option (List Word) := none
  wrote : List Nat := []
  /-- the output CRCs of the swath before, which the block carries, and of the one before that (R441) -/
  outCrc : Word := 0#32
  outPrev : Word := 0#32
  /-- consecutive discrepant swaths: per channel for IN, for OUT, per channel for the readback (R445, R448) -/
  inDisc : List (Nat × Nat) := []
  outDisc : Nat := 0
  rbDisc : List (Nat × Nat) := []
  /-- none of the checks of R448 has failed since the last arming -/
  checksOk : Bool := true
  /-- halves whose keepers have reported ARMED to the ACTIVE device; tick at which it ended its drive (R449) -/
  drove : List Nat := []
  driveEnd : Option Nat := none
  /-- a release is under way: own commands from the last full slot on (R450) -/
  releasing : Bool := false
  /-- tick at which YFLT_N had been low for 8 µs without a sign of life since it fell (R450) -/
  yfltAt : Option Nat := none
  /-- digest of the partner's pending set (R34), state and lead swath the partner has accepted (R454) -/
  recfg : Option (List Word) := none
  power : Option (Nat × Nat) := none
  /-- Wide: writes the lead has still to forward and writes the follower has still to apply (address, value, RC clear) -/
  forward : List (Nat × Word × Bool) := []
  apply : List (Nat × Word × Bool) := []
  /-- registers as the follower last sent them; what its counting registers took in since the block before, by the lead swath of the
  block each part was sent with (R14, R443) -/
  shown : Sparse Word := []
  rcLog : List (Nat × Sparse Word) := []
  /-- the low 32 bits of the swath of the block that last brought the lead its image (R443) -/
  imageOf : Nat := 0
  /-- the link frame last sent (R432) -/
  sent : List Word := []
  deriving DecidableEq, Repr

/-! ## Host port (R346-R389) -/

/-- A READ, POP or SNAP whose fetch waits for a write window to close (R311, R361): opcode, header, tick at which the
header completed, first swath whose window end may start the fetch, ECC errors its reads meet (address, uncorrectable),
the Crib whose entries it latched, with CONS0 and their number (R315), and how its device part goes: its ticks, and the cut if
HSEL_N rises before its end (R373, R374, R397). -/
structure HeldRead where
  op : Nat
  hdr : HostHdr
  came : Nat
  waited : Nat := 0
  since : Nat
  ecc : List (Nat × Bool)
  latch : Option (CribIx × Word × Nat)
  ticks : Nat
  sealTicks : Nat
  cut : Option Bool
  deriving DecidableEq, Repr

/-- A read whose fetch is over and whose device part is being sent, until its last bit or its cut at tick `endAt` (R373, R374): what
it will answer, the entries a pop has latched, the registers it returned, the swath of the image a Wide lead answered from, the tick at which the
device's seal word is sent and that word once it is (R397), the cut as in Fetch. -/
structure Sending where
  op : Nat
  hdr : HostHdr
  id : Word
  code : Nat
  words : Nat
  off : Bool
  wait : Nat
  body : List Word
  latch : Option (CribIx × Word × Nat)
  returned : List Nat
  shown : Nat
  sealAt : Nat
  sealW : Option Word
  endAt : Nat
  cut : Option Bool
  deriving DecidableEq, Repr

/-- A writing transaction that waits: a push to a STALL Crib (R314), or the data of an NVM_STAGE while the flash programs
those before it (R363); the tick after which it ends with BUSY_TIMEOUT (R355). -/
structure HeldWrite where
  op : Nat
  hdr : HostHdr
  crib : Option CribIx
  words : List Word
  came : Nat
  waited : Nat := 0
  limit : Nat
  deriving DecidableEq, Repr

/-- The host port beside its registers, and its member mode (R346-R388, R418-R420). -/
structure Hp where
  /-- the last response: short marker, and every word after the marker (R352, R353) -/
  short : Bool := false
  resp : List Word := []
  reads : List HeldRead := []
  sending : List Sending := []
  writes : List HeldWrite := []
  /-- member mode: the prepared response bale, the tick at which it is ready, and one still to be prepared when the write
  window closes (R384) -/
  bale : List Bool := []
  readyAt : Option Nat := none
  prepare : Option Nat := none
  /-- member mode: the bale in the shift register, and the bits the last transfer carried on HDO (R380) -/
  shift : List Bool := []
  hdo : List Bool := []
  /-- member mode: reason and sequence of a rejected command, for the next response (R383, R384) -/
  reject : Option (Nat × Nat) := none
  /-- flashless member: DSTATE of its delivery (R420); what it received stands in Boot.stage -/
  dstate : Nat := 0
  /-- LANE and FLOW in force since the last falling edge of HSEL_N (R348) -/
  lane : Nat := 0
  flow : Bool := false
  deriving DecidableEq, Repr

/-! ## The whole state -/

/-- The RLK1600. -/
structure State where
  /-- the register file, keyed by host byte address; an unlisted register holds its reset value (R12, R18); from 0x100_0000 on, what the
  counting registers took in since the last fetch of a read (R14) -/
  regs : Sparse Word
  /-- the Loft and the General area of the Granary, by host byte address (R293) -/
  mem : List Host.Cell
  /-- the signal table, by index; an unlisted entry is unallocated (R45) -/
  sig : Sparse Entry
  env : Env
  tb : Tb
  fc : Fc
  wdg : Wdg
  pipe : Pipe
  out : Tab 16 OutCmd
  chans : Tab 16 Chan
  halves : Tab 2 Half
  pairs : Tab 4 Pair
  cribs : Tab 32 Crib
  boot : Boot
  recfg : Recfg
  cvu : Tab 4 CvuUnit
  sr : Sr
  gln : Gln
  pwr : Pwr
  yk : Yk
  hp : Hp
  /-- forced entries and their values (R366), oldest first -/
  forces : List (Nat × Word)
  /-- the same from the next boundary on, where a FORCE or RELEASE has changed it (R366) -/
  forceNext : Option (List (Nat × Word))
  /-- the stamped-write queue, oldest first, at most 64 (R376) -/
  queue : List QueuedWrite
  /-- keys of PC_CTRL that wait for the boundary: bits 0 snapshot, 1 clear, 2 freeze, 3 run (R538) -/
  perf : Nat
  /-- the Granary word (64 bits) the scrub reads next, in address order (R301) -/
  scrub : Nat
  /-- the model's own counter of free values drawn (log entry 4) -/
  free : Nat
  /-- the commands that wait, first in, first out -/
  pending : List Instr
  deriving DecidableEq, Repr

/-- The machine at the release of power-on: every register at its reset value (R18), no memory byte listed, the
queue empty. -/
def State.reset : State where
  regs := []
  mem := []
  sig := []
  env := {}
  tb := {}
  fc := {}
  wdg := {}
  pipe := {}
  out := Tab.fill 16 {}
  chans := Tab.fill 16 {}
  halves := Tab.fill 2 {}
  pairs := Tab.fill 4 {}
  cribs := Tab.fill 32 {}
  boot := {}
  recfg := {}
  cvu := Tab.fill 4 {}
  sr := {}
  gln := {}
  pwr := {}
  yk := {}
  hp := {}
  forces := []
  forceNext := none
  queue := []
  perf := 0
  scrub := 0
  free := 0
  pending := []

/-- Why a step stops. -/
inductive Fault where
  /-- Raised by VIO_LEVEL_CHANGE at a level beyond the absolute maximum ratings, where the manual says that no
  behaviour of it holds (R556). Safe: the model stops where the hardware does something nobody states. -/
  | beyondRatings
  deriving DecidableEq, Repr

/-- Why a command has no meaning. -/
inductive Refusal where
  /-- Answered by an arm of exec whose command has no meaning in this model yet. Safe: the model stops. -/
  | notModelled (mnemonic : String)
  deriving DecidableEq, Repr

end Sys2Proof.Machine
end

