-- ==== Sys2Proof/Machine/Ops.lean ====
section
/-!
DEFINITION. Machine/Ops.lean: the named operations over the register file, the counters and the addressed memory.
Every meaning reads and writes registers and memory through these alone.
-/
namespace Sys2Proof.Machine

/-! ## The register file (R12-R18) -/

/-- The word a register holds. -/
def State.reg (s : State) (a : Nat) : Word := Sparse.get regReset s.regs a

/-- Set the word a register holds. -/
def State.setReg (s : State) (a : Nat) (v : Word) : State := { s with regs := Sparse.put regReset s.regs a v }

/-- A field of a register as a number. -/
def State.fld (s : State) (f : Fld) : Nat := wbits (s.reg f.reg) f.hi f.lo

/-- Set a field of a register. -/
def State.setF (s : State) (f : Fld) (v : Nat) : State := s.setReg f.reg (wput (s.reg f.reg) f.hi f.lo v)

/-- A one-bit field as a Boolean. -/
def State.flag (s : State) (f : Fld) : Bool := s.fld f != 0

/-- Set a one-bit field. -/
def State.setB (s : State) (f : Fld) (b : Bool) : State := s.setF f (b2n b)

/-- The largest value a field holds. -/
def Fld.top (f : Fld) : Nat := 2 ^ (f.hi - f.lo + 1) - 1

/-- First key of the register file that is no host address: from here on stands, for each register that counts or accumulates, what it
has taken in since the last fetch of a read, which a clear leaves (R14). -/
def newsBase : Nat := 0x1000000

/-- The field that holds what a field has taken in since the last fetch of a read (R14). -/
def Fld.news (f : Fld) : Fld := { f with reg := f.reg + newsBase }

/-- A field accumulates: its new value by `g` of the value it holds, and the same of what it has taken in since the last fetch (R14). -/
def State.gather (s : State) (f : Fld) (g : Nat → Nat) : State :=
  (s.setF f (g (s.fld f))).setF f.news (g (s.fld f.news))

/-- Add to a counting field, saturating at its largest value. -/
def State.addF (s : State) (f : Fld) (n : Nat) : State := s.gather f fun x => sat f.top (x + n)

/-- Set bits of a field that accumulates flags. -/
def State.orF (s : State) (f : Fld) (bits : Nat) : State := s.gather f fun x => x ||| bits

/-- Raise a field that holds a maximum. -/
def State.maxF (s : State) (f : Fld) (n : Nat) : State := s.gather f fun x => max x n

/-- A counter held in a low and a high register, as one number. -/
def State.pairReg (s : State) (lo hi : Nat) : Nat := (s.reg lo).toNat + 2 ^ 32 * (s.reg hi).toNat

/-- Set a counter of `w` bits held in a low and a high register (it wraps at its width, R54). -/
def State.setPairReg (s : State) (lo hi w : Nat) (v : Nat) : State :=
  let v := v % 2 ^ w
  (s.setReg lo (BitVec.ofNat 32 v)).setReg hi (BitVec.ofNat 32 (v / 2 ^ 32))

/-- Run a function over a list of numbers, left to right. -/
def State.forEach {α : Type} (s : State) (xs : List α) (f : α → State → State) : State :=
  xs.foldl (fun s x => f x s) s

/-- Apply a function when a condition holds. -/
def State.whenB (s : State) (b : Bool) (f : State → State) : State := if b then f s else s

/-! ## Counters (R54-R58) -/

/-- The tick counter (R54). -/
def State.tick (s : State) : Nat := s.pairReg Reg.TB_TICK_LO Reg.TB_TICK_HI
/-- The swath counter (R54). -/
def State.swath (s : State) : Nat := s.pairReg Reg.TB_SWATH_LO Reg.TB_SWATH_HI
/-- The stook counter (R54). -/
def State.stook (s : State) : Nat := s.pairReg Reg.TB_STOOK_LO Reg.TB_STOOK_HI
/-- The tick of the last boundary. -/
def State.btick (s : State) : Nat := s.pairReg Reg.TB_BTICK_LO Reg.TB_BTICK_HI
/-- Length of the swath under way, fixed at its boundary (R61). -/
def State.swLen (s : State) : Nat := s.fld F.TB_PHASE_LENGTH
/-- Index of the swath in its stook. -/
def State.phase (s : State) : Nat := s.fld F.TB_PHASE_STOOK_PHASE
/-- Programmed swath length in force (R60). -/
def State.lNom (s : State) : Nat := s.fld F.TB_CONFIG_L_NOM
/-- Stook length in force (R60). -/
def State.kLen (s : State) : Nat := s.fld F.TB_CONFIG_K

/-- Set the tick counter. -/
def State.setTick (s : State) (t : Nat) : State := s.setPairReg Reg.TB_TICK_LO Reg.TB_TICK_HI 64 t
/-- Set the swath counter. -/
def State.setSwath (s : State) (n : Nat) : State := s.setPairReg Reg.TB_SWATH_LO Reg.TB_SWATH_HI 48 n
/-- Set the stook counter. -/
def State.setStook (s : State) (n : Nat) : State := s.setPairReg Reg.TB_STOOK_LO Reg.TB_STOOK_HI 48 n
/-- Set the tick of the last boundary. -/
def State.setBtick (s : State) (t : Nat) : State := s.setPairReg Reg.TB_BTICK_LO Reg.TB_BTICK_HI 64 t

/-- The low 32 bits of the swath counter, as stamps and records carry them. -/
def State.swath32 (s : State) : Word := BitVec.ofNat 32 s.swath

/-- Ticks since the last boundary. -/
def State.inSwath (s : State) : Nat := s.tick - s.btick

/-! ## Device states (R3) -/

/-- BOOT. -/
def State.isBoot (s : State) : Bool := s.fld F.SYS_STATE_STATE == 1
/-- SAFE. -/
def State.isSafe (s : State) : Bool := s.fld F.SYS_STATE_STATE == 2
/-- ARMED. -/
def State.isArmed (s : State) : Bool := s.fld F.SYS_STATE_STATE == 3
/-- HALTED. -/
def State.isHalted (s : State) : Bool := s.fld F.SYS_STATE_STATE == 4
/-- Enter a device state by its code in SYS_STATE. -/
def State.enter (s : State) (code : Nat) : State := s.setF F.SYS_STATE_STATE code
/-- Is half `h` armed? -/
def State.armed (s : State) (h : Nat) : Bool := (s.fld F.SYS_STATE_ARMED_HALVES).testBit h

/-! ## Free values (log entry 4) -/

/-- Draw a word the manual leaves undefined. -/
def State.drawWord (s : State) : Word × State := (Config.freeWord s.free, { s with free := s.free + 1 })
/-- Draw a Boolean the manual leaves undefined. -/
def State.drawBit (s : State) : Bool × State := (Config.freeBit s.free, { s with free := s.free + 1 })

/-! ## Addressed memory: the Loft and the General area (R293) -/

/-- What a byte reads as that nothing has written: the manual gives the RAM no contents at power-on (log entry 2). -/
def memDefault (_ : Nat) : Byte := 0#8

/-- A byte of memory. -/
def State.readByte (s : State) (a : Nat) : Byte := Sparse.get memDefault s.mem a
/-- Write a byte of memory, in canonical form. -/
def State.writeByte (s : State) (a : Nat) (b : Byte) : State := { s with mem := Sparse.put memDefault s.mem a b }

/-- A word of memory, most significant byte first (R9). -/
def State.readMem (s : State) (a : Nat) : Word :=
  wordOf (s.readByte a) (s.readByte (a + 1)) (s.readByte (a + 2)) (s.readByte (a + 3))

/-- Write a word of memory, most significant byte first (R9). -/
def State.writeMem (s : State) (a : Nat) (w : Word) : State :=
  (((s.writeByte a (w.extractLsb' 24 8)).writeByte (a + 1) (w.extractLsb' 16 8)).writeByte
    (a + 2) (w.extractLsb' 8 8)).writeByte (a + 3) (w.extractLsb' 0 8)

/-- Write consecutive words of memory. -/
def State.writeWords (s : State) (a : Nat) : List Word → State
  | [] => s
  | w :: ws => (s.writeMem a w).writeWords (a + 4) ws

/-- Read consecutive words of memory. -/
def State.readWords (s : State) (a : Nat) : Nat → List Word
  | 0 => []
  | n + 1 => s.readMem a :: s.readWords (a + 4) n

/-- The canonical form of the memory. -/
def Memory.wf (m : List Host.Cell) : Bool := Sparse.wf memDefault m

/-- First host address of the Loft (R293). -/
def loftBase : Nat := 0xC00000
/-- First host address of the General area (R293). -/
def generalBase : Nat := 0xFC0000
/-- First host address of the reconfiguration staging area (R25). -/
def stagingBase : Nat := 0xFE0000
/-- Is a host address in the Loft? -/
def inLoft (a : Nat) : Bool := decide (loftBase ≤ a) && decide (a < 0xE00000)
/-- Is a host address in the General area? -/
def inGeneral (a : Nat) : Bool := decide (generalBase ≤ a) && decide (a < 0x1000000)

/-! ## Parts of the state -/

/-- Change one pair. -/
def State.updPair (s : State) (p : PairIx) (f : Pair → Pair) : State := { s with pairs := s.pairs.upd p f }
/-- Change one Crib. -/
def State.updCrib (s : State) (c : CribIx) (f : Crib → Crib) : State := { s with cribs := s.cribs.upd c f }

/-- All halves. -/
def allHalves : List HalfIx := [0, 1]
/-- All channels, ascending. -/
def allCh : List ChIx := [0, 1, 2, 3, 4, 5, 6, 7, 8, 9, 10, 11, 12, 13, 14, 15]
/-- All pairs, ascending. -/
def allPairs : List PairIx := [0, 1, 2, 3]
/-- All Cribs, ascending. -/
def allCribs : List CribIx :=
  [0, 1, 2, 3, 4, 5, 6, 7, 8, 9, 10, 11, 12, 13, 14, 15, 16, 17, 18, 19, 20, 21, 22, 23, 24, 25, 26, 27, 28, 29, 30, 31]
/-- The half of a channel (R79). -/
def halfOf (c : ChIx) : HalfIx := if c.val < 8 then 0 else 1
/-- The channels of a half (R79). -/
def chOf (h : HalfIx) : List ChIx := allCh.filter (fun c => halfOf c == h)

/-- The Yoke mode of the running image: 0 Solo, 1 Wide, 2 Mirror, 3 Stand-in (R327). -/
def State.imageYoke (s : State) : Nat := match s.boot.image with | some i => i.yoke | none => 0

/-- The Yoke role the device takes: Solo once the join is refused, else the mode of its image (R35, R437). -/
def State.yokeMode (s : State) : Nat := if s.fld F.YK_STATUS_STATE == 5 then 0 else s.imageYoke

/-- The pairs evaluate: in Run, neither on the way into Dormant nor between a wake from it and the next arming (R518,
R520, R522). -/
def State.pairsRun (s : State) : Bool := s.pwr.mode == 0 && s.pwr.handover.isNone && !s.pwr.woken

/-- The fabric runs at the P3 point: at level P3, and in Hibernate (R512, R519). -/
def State.slowFabric (s : State) : Bool := s.fld F.PWR_STATUS_LEVEL == 3 || s.pwr.mode == 2

/-- The core domain is on: in Dormant it is off, and neither the host's port nor the Fault Collector nor a register acts (R515). -/
def State.coreOn (s : State) : Bool := s.pwr.mode != 4

/-- The common form of a command to the core domain: it acts while the domain is on (R515). -/
def State.hostKey (s : State) (f : State → State) : Host.Outcome State Fault Refusal := .next (s.whenB s.coreOn f)

/-- The devices are joined (YK_STATUS.STATE, R436). -/
def State.joined (s : State) : Bool := s.fld F.YK_STATUS_STATE == 4

/-- A joined follower tests swath and stook numbers as the lead counts them (R440). -/
def State.asFollower (s : State) : Bool := s.yokeMode != 0 && !s.boot.lead && s.joined

/-- The number periods are tested against for a swath of this device (R440). -/
def State.ruleSwathOf (s : State) (n : Nat) : Nat :=
  if s.asFollower then (n + 2 ^ 48 - s.pairReg Reg.YK_OFFSET_LO Reg.YK_OFFSET_HI % 2 ^ 48) % 2 ^ 48 else n

/-- The number periods are tested against for a stook of this device (R440). -/
def State.ruleStookOf (s : State) (n : Nat) : Nat :=
  if s.asFollower then ((n : Int) - s.yk.stookOff).toNat else n

/-- The same for the swath under way: on a joined follower the lead's swath number. -/
def State.ruleSwath (s : State) : Nat := s.ruleSwathOf s.swath

/-- The same for the stook under way. -/
def State.ruleStook (s : State) : Nat := s.ruleStookOf s.stook

end Sys2Proof.Machine
end

