-- ==== Sys2Proof/Machine/Flags.lean ====
section
/-!
DEFINITION. Machine/Flags.lean: the quality bits of a signal entry (R46-R48) and the suspension causes of the
guarantee (R253): the flags of this machine.
-/
namespace Sys2Proof.Machine

/-- Quality bit numbers (R46). -/
def qVALID : Nat := 0
def qSTALE : Nat := 1
def qFORCED : Nat := 2
def qSUBST : Nat := 3
def qSUSPECT : Nat := 4
def qOVR : Nat := 5
def qUNDR : Nat := 6
def qOPEN : Nat := 7
def qSHORT : Nat := 8
def qLIMIT : Nat := 9
def qHOT : Nat := 10
def qSUPPLY : Nat := 11
def qSAFE : Nat := 12
def qPARTNER : Nat := 13
def qMEMBER : Nat := 14
def qLATE : Nat := 15

/-- One quality bit as a number, set or not. -/
def qb (bit : Nat) (b : Bool) : Nat := if b then 2 ^ bit else 0

/-- Recompute VALID of an allocated entry: 0 whenever STALE, OPEN or SHORT is 1, else 1 (R47). -/
def withValid (q : Nat) : Nat :=
  let q' := q &&& 0xFFFE
  if q'.testBit qSTALE || q'.testBit qOPEN || q'.testBit qSHORT then q' else q' + 1

/-- Set or clear LATE (R48). -/
def withLate (late : Bool) (q : Nat) : Nat := (q &&& 0x7FFF) ||| qb qLATE late

/-- Set bits of a quality word and recompute VALID. -/
def withBits (q bits : Nat) : Nat := withValid (q ||| bits)

/-- Suspension causes in the coding of PIPE_SUSP.REASONS (R253). -/
def cOVERRUN : Nat := 1
def cSCANLATE : Nat := 2
def cUNSTAMPED : Nat := 4
def cREACTION : Nat := 8
def cCRIB : Nat := 16

/-- Does a set of causes suspend its swath (every cause but the Crib cause, R253)? -/
def suspends (causes : Nat) : Bool := causes &&& 15 != 0

/-- Record a cause for the swath under way. -/
def State.causeNow (s : State) (c : Nat) : State := { s with pipe := { s.pipe with now := s.pipe.now ||| c } }
/-- Record a cause for the swath that begins at the next boundary. -/
def State.causeNext (s : State) (c : Nat) : State := { s with pipe := { s.pipe with next := s.pipe.next ||| c } }
/-- A host action counts as an unstamped write: the swath it takes effect in is suspended (R248, R253). -/
def State.unstamped (s : State) : State := s.causeNext cUNSTAMPED

end Sys2Proof.Machine
end

