-- ==== Sys2Proof/Machine/Signal.lean ====
section
/-!
DEFINITION. Machine/Signal.lean: the signal table: entries, their versions, and how each class of producer writes
them (R41-R48, R303-R309).
-/
namespace Sys2Proof.Machine

/-- The number of entries (R41). -/
def sigCount : Nat := 131072

/-- An unallocated entry (R45). -/
def sigDefault (_ : Nat) : Entry := {}

/-- The entry at an index. -/
def State.entry (s : State) (i : Nat) : Entry := Sparse.get sigDefault s.sig i
/-- Replace the entry at an index. -/
def State.setEntry (s : State) (i : Nat) (e : Entry) : State := { s with sig := Sparse.put sigDefault s.sig i e }
/-- Change the entry at an index. -/
def State.updEntry (s : State) (i : Nat) (f : Entry → Entry) : State := s.setEntry i (f (s.entry i))

/-- The source class of an entry: word 1 bits [31:29] (R43). -/
def Entry.cls (e : Entry) : Nat := e.src / 2 ^ 13
/-- Word 1: source above quality. -/
def Entry.word1 (e : Entry) : Word := BitVec.ofNat 32 (e.src * 2 ^ 16 + e.qual)

/-- Source words of R43. -/
def srcLocal (c : Nat) : Nat := 1 * 2 ^ 13 + c
def srcPartner (n : Nat) : Nat := 2 * 2 ^ 13 + n
def srcInternal (n : Nat) : Nat := 3 * 2 ^ 13 + n
def srcMember (seg pos : Nat) : Nat := 4 * 2 ^ 13 + seg * 2 ^ 8 + pos
def srcHost : Nat := 5 * 2 ^ 13
def srcDerived (p : Nat) : Nat := 6 * 2 ^ 13 + p

/-- A number of swaths later than another, modulo 2^32 (the swath compare of R307): `t` at or before `n`. -/
def notAfter (t n : Word) : Bool := (n - t).toNat < 2 ^ 31

/-- The entry as a read for swath `n` sees it (R307): the pending copy once valid, due and confirmed. -/
def Entry.readFor (e : Entry) (n : Word) : Entry :=
  match e.pend with
  | none => e
  | some p =>
    if p.confirmed && notAfter (BitVec.ofNat 32 p.target) n then
      { e with
        value := p.value
        qual := p.qual
        stamp := if p.value ≠ e.value then BitVec.ofNat 32 p.target else e.stamp
        count := if p.value ≠ e.value then e.count + 1 else e.count
        pend := none }
    else e

/-- The entry in the input image of the swath under way, which no later contribution alters (R21). -/
def State.readEntry (s : State) (i : Nat) : Entry := (s.entry i).readFor s.swath32

/-- The eight words of an entry as the host and LDW see it (R303, R305): words 4-7 are the auxiliaries of local and
partner entries, 0 elsewhere. -/
def Entry.words (e : Entry) : List Word :=
  let aux := if e.cls == 1 || e.cls == 2 then e.aux else []
  [e.value, e.word1, e.stamp, e.count, aux.getD 0 0#32, aux.getD 1 0#32, aux.getD 2 0#32, aux.getD 3 0#32]

/-- A producer of class 1-3 or a device entry writes value and quality at a boundary (R304): stamp and count change
only when the value does; LATE as decided (R48). -/
def Entry.write (e : Entry) (v : Word) (q : Nat) (late : Bool) (swath : Word) : Entry :=
  { e with
    value := v
    qual := withLate late (withValid q)
    stamp := if v ≠ e.value then swath else e.stamp
    count := if v ≠ e.value then e.count + 1 else e.count }

/-- Resolve a valid pending copy with a target below `t`: promoted if confirmed, else discarded (R308). -/
def Entry.resolve (e : Entry) (t : Nat) : Entry :=
  match e.pend with
  | none => e
  | some p =>
    if p.target < t then
      if p.confirmed then e.readFor (BitVec.ofNat 32 p.target) else { e with pend := none }
    else e

/-- Place a pending copy (R308). -/
def Entry.place (e : Entry) (p : Pend) : Entry := { (e.resolve p.target) with pend := some p }

/-- An unstamped host write to word 0 of a host command entry (R294, R308): target the next boundary, UNSTAMPED,
confirmed at once, quality VALID. -/
def State.hostValue (s : State) (i : Nat) (v : Word) : State :=
  (s.updEntry i fun e => e.place ⟨v, 1, s.swath + 1, true, true⟩).unstamped

/-- A stamped deposit: a copy with UNSTAMPED and the same target is left untouched (R308). -/
def Entry.deposit (e : Entry) (v : Word) (t : Nat) : Entry :=
  match (e.resolve t).pend with
  | some p => if p.unstamped && p.target == t then e.resolve t else e.place ⟨v, 1, t, false, true⟩
  | none => e.place ⟨v, 1, t, false, true⟩

/-- Is an index writable by the host: a host command signal (R44)? -/
def State.isHostEntry (s : State) (i : Nat) : Bool := (s.entry i).cls == 5

/-- Is an index a derived entry of pair `p`, its own power request entry included (R41, R44)? -/
def State.isOwnDerived (s : State) (p : Nat) (i : Nat) : Bool := (s.entry i).src == srcDerived p

/-- Allocate an entry at a boundary: value 0, quality 0, its source, the swath as stamp, count 0 (R45). -/
def allocEntry (src : Nat) (swath : Word) : Entry := { src := src, stamp := swath }

/-- At B(m): fix LATE of every pending copy of classes 4 and 5 whose target is m (R48). -/
def State.lateAtTarget (s : State) (late : Bool) : State :=
  let n := s.swath
  { s with sig := s.sig.map fun x =>
      match x.2.pend with
      | some p =>
        if p.confirmed && p.target == n && x.2.cls != 6 then
          (x.1, { x.2 with pend := some { p with qual := withLate late p.qual } })
        else x
      | none => x }

/-- At B(m+1): confirm the copies of a pair's commit with target m+1, LATE as swath m is suspended (R309, R48). -/
def State.confirmPair (s : State) (p : Nat) (late : Bool) : State :=
  let n := s.swath
  { s with sig := s.sig.map fun x =>
      match x.2.pend with
      | some c =>
        if !c.confirmed && c.target == n && x.2.src == srcDerived p then
          (x.1, { x.2 with pend := some { c with confirmed := true, qual := withLate late c.qual } })
        else x
      | none => x }

/-- Withdraw the copies of a pair that are not confirmed: a discarded commit (R309). -/
def State.dropPair (s : State) (p : Nat) : State :=
  { s with sig := s.sig.map fun x =>
      match x.2.pend with
      | some c => if !c.confirmed && x.2.src == srcDerived p then (x.1, { x.2 with pend := none }) else x
      | none => x }

end Sys2Proof.Machine
end

