-- ==== Sys2Proof/Machine/Counts.lean ====
section
/-!
DEFINITION. Machine/Counts.lean: the categories of Binder cycles and the counters that take them (R533-R538), and work that is cut
off before its end.
-/
namespace Sys2Proof.Machine

/-- Counters of a pair, in the order of their offsets (spec/18). -/
def pcTOTAL : Nat := 0
def pcRETIRED : Nat := 1
def pcCHAFF : Nat := 2
def pcDISCARD : Nat := 3
def pcFRONT : Nat := 4
def pcBACKGRN : Nat := 5
def pcBACKSHD : Nat := 6
def pcBACKCRIB : Nat := 7
def pcIDLE : Nat := 8
def pcREEVAL : Nat := 9
def pcTINESRUN : Nat := 10
def pcTINESCHAFF : Nat := 11

/-- Counting is stopped (R538). -/
def State.pcFrozen (s : State) : Bool := s.flag F.PC_STATUS_FROZEN

/-- Add to a 64-bit counter whose LO word stands at an address (R539). -/
def State.pcAdd (s : State) (lo n : Nat) : State := s.setPairReg lo (lo + 4) 64 (s.pairReg lo (lo + 4) + n)

/-- Add to a counter of a pair, frozen or not: cycles held aside are still added (R538). -/
def State.pcPairHeld (s : State) (p k n : Nat) : State := s.pcAdd (Reg.PC_PAIR p (2 * k)) n
/-- Advance a counter of a pair unless frozen. -/
def State.pcPair (s : State) (p k n : Nat) : State := if s.pcFrozen then s else s.pcPairHeld p k n
/-- Advance a host-port counter (R537): 0 TRANS, 1 RD_WORDS, 2 WR_WORDS, 3 WAIT, 4 STAMPED. -/
def State.pcHost (s : State) (k n : Nat) : State := if s.pcFrozen then s else s.pcAdd (Reg.PC_HP (2 * k)) n
/-- Advance a Gleaner counter (R536): 0 SCANS, 1 BITS, 2 BUSY, 3 FOLD. -/
def State.pcGln (s : State) (k n : Nat) : State := if s.pcFrozen then s else s.pcAdd (Reg.PC_GLN (2 * k)) n

/-- A category takes held cycles, and TOTAL takes them at the same moment (R534). -/
def State.pcTake (s : State) (p k n : Nat) : State := (s.pcPairHeld p k n).pcPairHeld p pcTOTAL n

/-- The categories of committed work (R533), with REEVAL for a re-evaluation (R535). -/
def State.pcCommitted (s : State) (p : Nat) (x : Slots) (reeval : Bool) : State :=
  let s := (((s.pcTake p pcRETIRED x.issue).pcTake p pcBACKGRN x.grn).pcTake p pcBACKSHD x.shd).pcTake p pcBACKCRIB x.crib
  if reeval then s.pcPairHeld p pcREEVAL x.total else s

/-- Is the evaluation a tine? -/
def Ctx.isTine (c : Ctx) : Bool := match c.kind with | .tine _ => true | _ => false
/-- The tine number, 0 for other evaluations. -/
def Ctx.tineNo (c : Ctx) : Nat := match c.kind with | .tine t => t | _ => 0

/-- Binder cycles in a number of ticks at a level: f_B / 48 MHz (R50). -/
def binderCycles (level ticks : Nat) : Nat :=
  ticks * (match level with | 0 => 480 | 1 => 320 | 2 => 240 | _ => 120) / 48

/-! ## Cycles held aside (R534, R538) -/

/-- The cycles of a piece of work that lie before the boundary of the swath under way: none of work that began in it. -/
def State.slotsEarly (s : State) (x : Slots) (began : Nat) : Slots := if began < s.btick then x.early else {}

/-- The cycles of a piece of work that count: those spent in swaths in which the counters were not frozen (R538). -/
def State.slotsNow (s : State) (x : Slots) (began : Nat) : Slots :=
  let e := s.slotsEarly x began
  (if s.pipe.frozenPrev then {} else e).plus (if s.pcFrozen then {} else x.minus e)

/-- The cycles of a piece of work in the swath under way, which are no idle ones of it (R533). -/
def State.slotsHere (s : State) (x : Slots) (began : Nat) : Nat := x.total - (s.slotsEarly x began).total

/-- The cycles of the work under way in a pair by now, as its clock counts them; a halted pair has none (R533). -/
def State.slotsSoFar (s : State) (p : PairIx) : Slots :=
  let x := s.pairs.get p
  if x.halted || x.ctx.isNone then {}
  else
    let early := binderCycles s.pipe.level (s.btick - x.began)
    { issue := early + binderCycles s.pipe.level (s.tick - max x.began s.btick), issue0 := early }

/-- Tines become chaff: their cycles held aside and their number are counted (R533-R535). -/
def State.chaffTines (s : State) (p : PairIx) (cs : List Ctx) : State :=
  let n := cs.foldl (fun a c => a + c.slots.total) 0
  (s.pcTake p.val pcCHAFF n).pcPair p.val pcTINESCHAFF cs.length

/-- The tines of a pair become chaff, and the work under way, which took `x`, is cut off: a tine is chaff, a real evaluation or a
post part never has a commit, and its cycles with those of the tine it continued are DISCARD (R533-R535; work that a halt or the end
of ARMED cuts off: DESIGN CHOICE, log entry 83). -/
def State.cutWork (s : State) (p : PairIx) (x : Slots) : State :=
  let y := s.pairs.get p
  let now := s.slotsNow x y.began
  let here := s.slotsHere x y.began
  let s := s.chaffTines p y.tines
  match y.ctx with
  | none => s
  | some c =>
    let s := if c.isTine then s.chaffTines p [{ c with slots := now }] else s.pcTake p.val pcDISCARD (c.slots.total + now.total)
    s.updPair p fun z => { z with spent := z.spent + here }

end Sys2Proof.Machine
end

