-- ==== Sys2Proof/Machine/Faults.lean ====
section
/-!
DEFINITION. Machine/Faults.lean: the Fault Collector: a message raised, collected and reacted to (R457-R473). The one
operation `State.raise` is what every block uses, FAULT_MESSAGE and injections included.
-/
namespace Sys2Proof.Machine

/-- A row of the kind table: first and last source, code, default class, minimum class, minimum class in Mirror (R461). -/
structure KindRow where
  lo : Nat
  hi : Nat
  code : Nat
  dflt : Nat
  minc : Nat
  minMirror : Nat
  deriving DecidableEq, Repr

/-- Kinds, part 1 of the table of R461. -/
def kindTable1 : List KindRow := [
  ⟨0x00, 0x00, 0x01, 0, 0, 0⟩,  -- RECFG_REJECT
  ⟨0x00, 0x00, 0x02, 4, 4, 4⟩,  -- SYS_ENGINE
  ⟨0x01, 0x01, 0x01, 4, 4, 4⟩,  -- CLK_FAIL
  ⟨0x02, 0x02, 0x01, 0, 0, 0⟩,  -- PWR_REFUSED
  ⟨0x02, 0x02, 0x02, 5, 5, 5⟩,  -- CORE_BOR
  ⟨0x02, 0x02, 0x03, 0, 0, 0⟩,  -- PFAIL
  ⟨0x02, 0x02, 0x04, 1, 0, 0⟩,  -- LOGIC_HOT
  ⟨0x03, 0x03, 0x01, 1, 1, 1⟩,  -- IMAGE_FALLBACK
  ⟨0x03, 0x03, 0x02, 0, 0, 0⟩,  -- STAGE_FAIL
  ⟨0x03, 0x03, 0x03, 0, 0, 0⟩,  -- ARM_REFUSED
  ⟨0x04, 0x04, 0x01, 1, 0, 0⟩,  -- WEAR_LIMIT
  ⟨0x04, 0x04, 0x02, 1, 0, 0⟩,  -- SEAL_DEFERRED
  ⟨0x04, 0x04, 0x03, 1, 0, 0⟩,  -- LEAF_LOW
  ⟨0x04, 0x04, 0x04, 1, 1, 1⟩,  -- JOURNAL_FAIL
  ⟨0x04, 0x04, 0x05, 0, 0, 0⟩,  -- SERVICE_AUTH
  ⟨0x08, 0x09, 0x01, 0, 0, 0⟩,  -- LINK_CRC
  ⟨0x08, 0x09, 0x02, 3, 3, 3⟩,  -- LINK_LOSS
  ⟨0x08, 0x09, 0x03, 3, 3, 3⟩,  -- SAFE_TABLE
  ⟨0x10, 0x11, 0x01, 1, 0, 0⟩,  -- CH_OVERLOAD
  ⟨0x10, 0x11, 0x02, 1, 0, 0⟩,  -- CH_OVERTEMP
  ⟨0x10, 0x11, 0x03, 1, 0, 0⟩,  -- CH_OPEN
  ⟨0x10, 0x11, 0x04, 2, 2, 2⟩,  -- CH_SHORT_VF
  ⟨0x10, 0x11, 0x05, 2, 2, 2⟩,  -- CH_CROSS
  ⟨0x10, 0x11, 0x06, 3, 3, 3⟩,  -- CH_STUCK_ON
  ⟨0x10, 0x11, 0x07, 2, 2, 2⟩,  -- CH_STUCK_OFF
  ⟨0x10, 0x11, 0x08, 1, 0, 0⟩,  -- CH_HEADROOM
  ⟨0x10, 0x11, 0x09, 1, 0, 0⟩,  -- CH_SENSE
  ⟨0x10, 0x11, 0x0A, 2, 2, 2⟩,  -- CH_AO_DEV
  ⟨0x10, 0x11, 0x0B, 1, 0, 0⟩,  -- CH_EDGE_LOST
  ⟨0x10, 0x11, 0x0C, 1, 0, 0⟩ ]  -- CH_CLAMP_ENERGY

/-- Kinds, part 2 of the table of R461. -/
def kindTable2 : List KindRow := [
  ⟨0x10, 0x11, 0x10, 0, 0, 0⟩,  -- SUPPLY_LOW
  ⟨0x10, 0x11, 0x11, 1, 0, 0⟩,  -- SUPPLY_HIGH
  ⟨0x10, 0x11, 0x12, 3, 3, 3⟩,  -- SUPPLY_UV
  ⟨0x10, 0x11, 0x13, 0, 0, 0⟩,  -- ALM_CHANGED
  ⟨0x10, 0x11, 0x14, 0, 0, 0⟩,  -- FIELD_RESTART
  ⟨0x10, 0x11, 0x15, 3, 3, 3⟩,  -- GATE_FAIL
  ⟨0x10, 0x11, 0x16, 3, 3, 3⟩,  -- HALF_OVERCURRENT
  ⟨0x10, 0x11, 0x17, 1, 0, 0⟩,  -- GDRV_OPEN
  ⟨0x10, 0x11, 0x18, 3, 3, 3⟩,  -- GDRV_SHORT
  ⟨0x10, 0x11, 0x19, 3, 3, 3⟩,  -- GDRV_FB
  ⟨0x18, 0x19, 0x01, 0, 0, 0⟩,  -- THR_OVERRANGE
  ⟨0x18, 0x19, 0x02, 1, 0, 0⟩,  -- THR_CLAMP
  ⟨0x18, 0x19, 0x08, 1, 0, 0⟩,  -- SHADOW_MISMATCH
  ⟨0x18, 0x19, 0x09, 1, 1, 1⟩,  -- CAL_FAIL
  ⟨0x18, 0x19, 0x0A, 2, 1, 1⟩,  -- TDAC_FAIL
  ⟨0x18, 0x19, 0x0B, 0, 0, 0⟩,  -- TEST_REFUSED
  ⟨0x18, 0x19, 0x0C, 1, 0, 0⟩,  -- REF_DRIFT
  ⟨0x18, 0x19, 0x0D, 1, 0, 0⟩,  -- FIELD_REG
  ⟨0x18, 0x19, 0x0E, 1, 0, 0⟩,  -- PART_CHANGED
  ⟨0x20, 0x27, 0x01, 3, 2, 2⟩,  -- LOCKSTEP
  ⟨0x20, 0x27, 0x02, 3, 2, 2⟩,  -- BINDER_FAULT
  ⟨0x20, 0x27, 0x03, 3, 2, 2⟩,  -- BUDGET_OVERRUN
  ⟨0x20, 0x27, 0x04, 1, 0, 0⟩,  -- SIG_OWNER
  ⟨0x20, 0x27, 0x05, 1, 0, 0⟩,  -- DISCREPANCY
  ⟨0x20, 0x27, 0x06, 0, 0, 0⟩,  -- HALT_REFUSED
  ⟨0x20, 0x27, 0x08, 3, 2, 2⟩,  -- ROLL_MISS
  ⟨0x20, 0x27, 0x09, 1, 1, 1⟩,  -- ROLL_DUP
  ⟨0x28, 0x28, 0x01, 0, 0, 0⟩,  -- GRN_ECC_CORR
  ⟨0x28, 0x28, 0x02, 4, 4, 4⟩,  -- GRN_UNCORR
  ⟨0x28, 0x28, 0x03, 1, 1, 1⟩ ]  -- GRN_DATA_LOST

/-- Kinds, part 3 of the table of R461. -/
def kindTable3 : List KindRow := [
  ⟨0x28, 0x28, 0x04, 5, 5, 5⟩,  -- CELLAR_LOST
  ⟨0x29, 0x29, 0x01, 0, 0, 0⟩,  -- CRIB_DROP
  ⟨0x29, 0x29, 0x02, 3, 3, 3⟩,  -- CRIB_OVERFLOW
  ⟨0x30, 0x30, 0x01, 0, 0, 0⟩,  -- HP_FRAME
  ⟨0x30, 0x30, 0x02, 0, 0, 0⟩,  -- ACCESS_OFF
  ⟨0x30, 0x30, 0x03, 1, 0, 0⟩,  -- HP_SEAL
  ⟨0x30, 0x30, 0x04, 0, 0, 0⟩,  -- HP_LATE
  ⟨0x31, 0x31, 0x01, 3, 1, 1⟩,  -- WDG_LATE
  ⟨0x31, 0x31, 0x02, 3, 1, 1⟩,  -- WDG_EARLY
  ⟨0x31, 0x31, 0x03, 1, 0, 0⟩,  -- WDG_KEY
  ⟨0x38, 0x39, 0x01, 1, 0, 0⟩,  -- SCAN_LATE
  ⟨0x38, 0x39, 0x02, 1, 0, 0⟩,  -- CHAIN_BROKEN
  ⟨0x38, 0x39, 0x03, 1, 0, 0⟩,  -- CHAIN_CHANGED
  ⟨0x38, 0x39, 0x04, 1, 0, 0⟩,  -- MEMBER_LOST
  ⟨0x38, 0x39, 0x05, 0, 0, 0⟩,  -- MEMBER_FOUND
  ⟨0x38, 0x39, 0x06, 0, 0, 0⟩,  -- MEMBER_REJECT
  ⟨0x38, 0x39, 0x07, 1, 0, 0⟩,  -- UNKNOWN_CLASS
  ⟨0x38, 0x39, 0x08, 1, 0, 0⟩,  -- CLASS_DIGEST
  ⟨0x38, 0x39, 0x09, 0, 0, 0⟩,  -- DELIVER_FAIL
  ⟨0x40, 0x40, 0x01, 1, 1, 1⟩,  -- YOKE_MISMATCH
  ⟨0x40, 0x40, 0x02, 3, 1, 3⟩,  -- YOKE_LOST
  ⟨0x40, 0x40, 0x03, 3, 1, 3⟩,  -- YOKE_ALIGN
  ⟨0x40, 0x40, 0x04, 4, 1, 4⟩,  -- YOKE_DISC
  ⟨0x40, 0x40, 0x05, 4, 4, 4⟩,  -- YOKE_PARTNER_SAFE
  ⟨0x40, 0x40, 0x06, 0, 0, 0⟩,  -- YOKE_CRC
  ⟨0x40, 0x40, 0x07, 1, 1, 1⟩,  -- YOKE_PATH
  ⟨0x40, 0x40, 0x08, 1, 0, 0⟩,  -- YOKE_TAKEOVER
  ⟨0x40, 0x40, 0x09, 1, 0, 0⟩,  -- STANDIN_RB
  ⟨0x40, 0x40, 0x0A, 1, 0, 0⟩,  -- STANDIN_TEST
  ⟨0x40, 0x40, 0x0B, 0, 0, 0⟩ ]  -- FOLLOWER_FAULT

/-- Kinds, part 4 of the table of R461. -/
def kindTable4 : List KindRow := [
  ⟨0x48, 0x4B, 0x01, 1, 0, 0⟩,  -- CVU_CRC
  ⟨0x48, 0x4B, 0x02, 1, 0, 0⟩,  -- ALIVE_REPEAT
  ⟨0x48, 0x4B, 0x03, 1, 0, 0⟩,  -- ALIVE_SKIP
  ⟨0x50, 0x50, 0x01, 0, 0, 0⟩,  -- SYNC_WILD
  ⟨0x50, 0x50, 0x02, 1, 1, 1⟩ ]  -- SYNC_LOST

/-- The kinds, their codes and their classes (R461). -/
def kindTable : List KindRow := kindTable1 ++ kindTable2 ++ kindTable3 ++ kindTable4

/-! Kind codes by name (R461). -/

def kRecfgReject : Nat := 0x01
def kSysEngine : Nat := 0x02
def kClkFail : Nat := 0x01
def kPwrRefused : Nat := 0x01
def kCoreBor : Nat := 0x02
def kPfail : Nat := 0x03
def kLogicHot : Nat := 0x04
def kImageFallback : Nat := 0x01
def kStageFail : Nat := 0x02
def kArmRefused : Nat := 0x03
def kWearLimit : Nat := 0x01
def kSealDeferred : Nat := 0x02
def kLeafLow : Nat := 0x03
def kJournalFail : Nat := 0x04
def kServiceAuth : Nat := 0x05
def kLinkCrc : Nat := 0x01
def kLinkLoss : Nat := 0x02
def kSafeTable : Nat := 0x03
def kChOverload : Nat := 0x01
def kChOvertemp : Nat := 0x02
def kChOpen : Nat := 0x03
def kChShortVf : Nat := 0x04
def kChCross : Nat := 0x05
def kChStuckOn : Nat := 0x06
def kChStuckOff : Nat := 0x07
def kChHeadroom : Nat := 0x08
def kChSense : Nat := 0x09
def kChAoDev : Nat := 0x0A
def kChEdgeLost : Nat := 0x0B
def kChClampEnergy : Nat := 0x0C
def kSupplyLow : Nat := 0x10
def kSupplyHigh : Nat := 0x11
def kSupplyUv : Nat := 0x12
def kAlmChanged : Nat := 0x13
def kFieldRestart : Nat := 0x14
def kGateFail : Nat := 0x15
def kHalfOvercurrent : Nat := 0x16
def kGdrvOpen : Nat := 0x17
def kGdrvShort : Nat := 0x18
def kGdrvFb : Nat := 0x19
def kThrOverrange : Nat := 0x01
def kThrClamp : Nat := 0x02
def kShadowMismatch : Nat := 0x08
def kCalFail : Nat := 0x09
def kTdacFail : Nat := 0x0A
def kTestRefused : Nat := 0x0B
def kRefDrift : Nat := 0x0C
def kFieldReg : Nat := 0x0D
def kPartChanged : Nat := 0x0E
def kLockstep : Nat := 0x01
def kBinderFault : Nat := 0x02
def kBudgetOverrun : Nat := 0x03
def kSigOwner : Nat := 0x04
def kDiscrepancy : Nat := 0x05
def kHaltRefused : Nat := 0x06
def kRollMiss : Nat := 0x08
def kRollDup : Nat := 0x09
def kGrnEccCorr : Nat := 0x01
def kGrnUncorr : Nat := 0x02
def kGrnDataLost : Nat := 0x03
def kCellarLost : Nat := 0x04
def kCribDrop : Nat := 0x01
def kCribOverflow : Nat := 0x02
def kHpFrame : Nat := 0x01
def kAccessOff : Nat := 0x02
def kHpSeal : Nat := 0x03
def kHpLate : Nat := 0x04
def kWdgLate : Nat := 0x01
def kWdgEarly : Nat := 0x02
def kWdgKey : Nat := 0x03
def kScanLate : Nat := 0x01
def kChainBroken : Nat := 0x02
def kChainChanged : Nat := 0x03
def kMemberLost : Nat := 0x04
def kMemberFound : Nat := 0x05
def kMemberReject : Nat := 0x06
def kUnknownClass : Nat := 0x07
def kClassDigest : Nat := 0x08
def kDeliverFail : Nat := 0x09
def kYokeMismatch : Nat := 0x01
def kYokeLost : Nat := 0x02
def kYokeAlign : Nat := 0x03
def kYokeDisc : Nat := 0x04
def kYokePartnerSafe : Nat := 0x05
def kYokeCrc : Nat := 0x06
def kYokePath : Nat := 0x07
def kYokeTakeover : Nat := 0x08
def kStandinRb : Nat := 0x09
def kStandinTest : Nat := 0x0A
def kFollowerFault : Nat := 0x0B
def kCvuCrc : Nat := 0x01
def kAliveRepeat : Nat := 0x02
def kAliveSkip : Nat := 0x03
def kSyncWild : Nat := 0x01
def kSyncLost : Nat := 0x02

/-! Sources (R458). -/

def srcSYS : Nat := 0x00
def srcCLK : Nat := 0x01
def srcPWR : Nat := 0x02
def srcBOOT : Nat := 0x03
def srcSR : Nat := 0x04
def srcBD (h : Nat) : Nat := 0x08 + h
def srcFH (h : Nat) : Nat := 0x10 + h
def srcTHR (h : Nat) : Nat := 0x18 + h
def srcBND (p : Nat) : Nat := 0x20 + p
def srcGRN : Nat := 0x28
def srcCRIB : Nat := 0x29
def srcHP : Nat := 0x30
def srcWDG : Nat := 0x31
def srcGLN (seg : Nat) : Nat := 0x38 + seg / 16
def srcYK : Nat := 0x40
def srcCVU (u : Nat) : Nat := 0x48 + u
def srcSYNC : Nat := 0x50

/-- Classes (R462). -/
def clsNOTE : Nat := 0
def clsWARN : Nat := 1
def clsCHANNEL : Nat := 2
def clsHALF : Nat := 3
def clsDEVICE : Nat := 4
def clsRESET : Nat := 5

/-- The row of a kind, none for a code that is not used (R461). -/
def kindRow? (src kind : Nat) : Option KindRow :=
  kindTable.find? fun r => decide (r.lo ≤ src) && decide (src ≤ r.hi) && r.code == kind

/-- An address: bits [17:12] and [11:6] of the message. -/
def faultAddr (hi lo : Nat) : Nat := hi % 64 * 64 + lo % 64

/-- The reaction a kind has: class and AUTO, by the table in force, else its default class without AUTO (R469). -/
def State.reactionOf (s : State) (src kind : Nat) : Nat × Bool :=
  match s.fc.table.find? (fun e => e.src == src && e.kind == kind) with
  | some e => (e.cls, e.auto)
  | none => match kindRow? src kind with
    | some r => (r.dflt, false)
    | none => (0, false)

/-- Channels whose command source is a derived signal of pair `p` (R255), as a mask. -/
def State.pairChannels (s : State) (p : Nat) : Nat :=
  allCh.foldl (fun m c =>
    if s.flag (F.CH_CMD_SRC_EN c.val) && (s.entry (s.fld (F.CH_CMD_SRC_INDEX c.val))).src == srcDerived p
    then m ||| 2 ^ c.val else m) 0

/-- Target channels of a Channel-safe reaction, as a mask (R464). -/
def State.targetChannels (s : State) (src kind addr : Nat) : Nat :=
  let lo := addr % 64
  let hi := addr / 64
  if src == 0x10 || src == 0x11 then
    (if lo < 16 then 2 ^ lo else 0) ||| (if hi < 16 then 2 ^ hi else 0)
  else if src == 0x18 || src == 0x19 then (if lo < 16 then 2 ^ lo else 0)
  else if 0x20 ≤ src && src ≤ 0x23 then s.pairChannels (src - 0x20)
  else if src == srcYK && (kind == kYokeDisc || kind == kStandinRb || kind == kStandinTest) && lo < 16 then 2 ^ lo
  else 0

/-- Target halves of a Half-safe reaction, as a mask (R465). -/
def State.targetHalves (s : State) (src : Nat) : Nat :=
  if src == 0x08 || src == 0x10 || src == 0x18 then 1
  else if src == 0x09 || src == 0x11 || src == 0x19 then 2
  else if 0x20 ≤ src && src ≤ 0x23 then
    let m := s.pairChannels (src - 0x20)
    (if m &&& 0xFF != 0 then 1 else 0) ||| (if m &&& 0xFF00 != 0 then 2 else 0)
  else 3

/-- FC_STATUS follows the latches, the pending marks and FAULT_N (R473). -/
def State.syncFc (s : State) : State :=
  let lat := s.fc.latches.foldl (fun m l => m ||| 2 ^ l.chan) 0
  let pnd := s.fc.pends.foldl (fun m l => m ||| 2 ^ l.half) 0
  ((s.setF F.FC_STATUS_LATCHED lat).setF F.FC_STATUS_PENDING pnd).setB F.FC_STATUS_FAULT_N
    (pnd != 0 || s.fc.haltReact || s.fc.resetWait)

/-- Set the reaction latch of the channels of a mask (R466). -/
def State.latchChannels (s : State) (mask src kind : Nat) (auto : Bool) : State :=
  let t := s.tick
  let same (l : Latch) : Bool := l.src == src && l.kind == kind
  let keep := s.fc.latches.filter fun l => !(mask.testBit l.chan && same l)
  let since (c : Nat) : Nat := match s.fc.latches.find? fun l => l.chan == c && same l with | some l => l.since | none => t
  let new := (allCh.filter fun c => mask.testBit c.val).map fun c => (⟨c.val, src, kind, auto, t, false, since c.val⟩ : Latch)
  { s with fc := { s.fc with latches := keep ++ new } }

/-- Disarm the halves of a mask (R462); with none left the device is in SAFE (R3). -/
def State.disarm (s : State) (mask : Nat) : State :=
  let left := s.fld F.SYS_STATE_ARMED_HALVES &&& (3 - mask % 4)
  let t := s.tick
  let s := allHalves.foldl (fun (s : State) h =>
    if mask.testBit h.val && s.armed h.val then
      { s with halves := s.halves.upd h fun x => { x with disarmTick := some t } }
    else s) s
  let s := s.setF F.SYS_STATE_ARMED_HALVES left
  if left == 0 && s.isArmed then
    allPairs.foldl (fun s p =>
      if s.fld (F.BND_STATUS_STATE p.val) == 1 then s.setF (F.BND_STATUS_STATE p.val) 0 else s) (s.enter 2)
  else s

/-- Mark a Half-safe reaction pending on the halves of a mask (R466). -/
def State.markPending (s : State) (mask : Nat) (auto : Bool) : State :=
  let t := s.tick
  let new := (allHalves.filter fun h => mask.testBit h.val).map fun h => (⟨h.val, auto, t⟩ : PendMark)
  { s with fc := { s.fc with pends := s.fc.pends ++ new } }

/-- A Device-safe reaction stops every pair at once (R467): what is under way is cut off. A commit already made still takes its
effects at the next boundary (R249); a pair halted in bench mode keeps its halted evaluation (R290). -/
def State.stopPairs (s : State) : State :=
  allPairs.foldl (fun (s : State) p =>
    if (s.pairs.get p).halted then s
    else (s.cutWork p (s.slotsSoFar p)).updPair p fun x => { x with ctx := none, tines := [] }) s

/-- ACTIVE_DRIVE_END: the ACTIVE Stand-in device ends its drive (R449); until a new join it never drives again. -/
def State.endDrive (s : State) : State :=
  if s.yokeMode == 3 && s.flag F.YK_STATUS_ACTIVE && s.yk.driveEnd.isNone then
    let t := s.tick
    { (s.setB F.YK_STATUS_ACTIVE false) with yk := { s.yk with drove := [], driveEnd := some t } }
  else s

/-- Enter HALTED at the raise tick (R467): pairs stopped, both halves disarmed, YFLT_N asserted in Wide and Mirror
(R446), the message recorded. Only a reset ends HALTED (R4), and an arming command of the same swath loses to it (R5). -/
def State.deviceSafe (s : State) (msg : Word) : State :=
  let s := (s.disarm 3).stopPairs
  let s := (s.enter 4).setReg Reg.FC_REACT_MSG msg
  let s := s.whenB (s.yokeMode == 1 || s.yokeMode == 2) fun s => { s with env := { s.env with yfltOut := true } }
  { s with fc := { s.fc with haltReact := true } }

/-- A Reset reaction: ARMED = 0 to both halves; RESET_REACTION completes it (R468). -/
def State.resetReact (s : State) (msg : Word) : State :=
  let s := (s.disarm 3).setReg Reg.FC_REACT_MSG msg
  let t := if s.fc.resetting then s.fc.resetAt else s.tick
  { s with fc := { s.fc with resetting := true, resetAt := t, resetWait := true } }

/-- The guarantee is suspended from this swath up to the next arming (R253). -/
def State.suspendReact (s : State) : State :=
  { (s.causeNow cREACTION) with pipe := { (s.causeNow cREACTION).pipe with reacted := true } }

/-- The reaction of a class to a message (R462-R468), at the tick of the raise; a higher class includes the effects of the lower
ones on their targets (R462). -/
def State.react (s : State) (src kind addr cls : Nat) (auto : Bool) (msg : Word) : State :=
  if cls < clsCHANNEL || (0x24 ≤ src && src ≤ 0x27) then s
  else if s.isHalted && cls < clsRESET then s
  else
    let s := s.latchChannels (s.targetChannels src kind addr) src kind auto
    let halves := s.targetHalves src
    if s.isBoot && (cls == clsHALF || cls == clsDEVICE) then
      ({ s with fc := { s.fc with heldReact := s.fc.heldReact ++ [(cls, halves, auto, msg)] } } : State).syncFc
    else
      let s := if cls ≥ clsHALF then (s.suspendReact.endDrive.disarm halves).markPending halves auto else s
      let s :=
        if cls == clsDEVICE then s.deviceSafe msg
        else if cls ≥ clsRESET then s.resetReact msg
        else s
      s.syncFc

/-- The message word (R457), FIRST not set. -/
def msgWord (key : Nat) (real forced : Bool) (cls : Nat) : Word :=
  BitVec.ofNat 32 (key * 64 + b2n real * 32 + b2n forced * 16 + cls)

/-- Collect a message of the swath: one record for each value of bits [31:6], REAL and FORCED merged (R459, R472). -/
def collect (batch : List Msg) (m : Msg) : List Msg :=
  if batch.any (fun x => x.key == m.key && x.swath == m.swath) then
    batch.map fun x =>
      if x.key == m.key && x.swath == m.swath then { x with real := x.real || m.real, forced := x.forced || m.forced } else x
  else batch ++ [m]

/-- Count an occurrence in FC_SRC_CNT of its source (R459). -/
def State.countSource (s : State) (src kind : Nat) : State :=
  (s.addF (F.FC_SRC_CNT_COUNT src) 1).setF (F.FC_SRC_CNT_LAST_KIND src) kind

/-- Log and react to a message, without the cancellation of R32. -/
def State.raiseCore (s : State) (src kind addr : Nat) (forced rehearsal : Bool) : State :=
  match kindRow? src kind with
  | none => s
  | some _ =>
    let (cls, auto) := s.reactionOf src kind
    let key := src * 2 ^ 18 + kind * 2 ^ 12 + addr % 4096
    let s := s.countSource src kind
    let s := { s with fc := { s.fc with
      batch := collect s.fc.batch ⟨key, !forced, forced, cls, s.swath, s.tick⟩ } }
    if rehearsal then s else s.react src kind addr cls auto (msgWord key (!forced) forced cls)

/-- State of the set in hand: the earlier set's while a rejection with 0x0A waits for its one read (R30). -/
def State.recfgState (s : State) : Nat :=
  match s.recfg.shadow with
  | some (st, _) => st
  | none => s.fld F.SYS_RECFG_STATUS_STATE

/-- STATE and REASON of the set in hand. -/
def State.setRecfg (s : State) (st reason : Nat) : State :=
  match s.recfg.shadow with
  | some _ => { s with recfg := { s.recfg with shadow := some (st, reason) } }
  | none => (s.setF F.SYS_RECFG_STATUS_STATE st).setF F.SYS_RECFG_STATUS_REASON reason

/-- A rejection (4) or cancellation (5) of the set in hand, logged as RECFG_REJECT (R33). -/
def State.endRecfg (s : State) (st reason : Nat) : State :=
  (s.setRecfg st reason).raiseCore srcSYS kRecfgReject reason false false

/-- A set pending is cancelled by a reaction of class Half-safe or higher (R32), logged as RECFG_REJECT (R33). -/
def State.recfgCancelFor (s : State) (reason : Nat) : State :=
  if s.recfgState == 2 then s.endRecfg 5 reason else s

/-- A fault of a source (R457-R472): logged in the batch of the swath, its reaction taken at this tick unless it is
a rehearsal (R471). In Dormant the Fault Collector is off (R515). -/
def State.raiseWith (s : State) (src kind addr : Nat) (forced rehearsal : Bool) : State :=
  let cls := (s.reactionOf src kind).1
  let live := !rehearsal && decide (cls ≥ clsHALF) && (kindRow? src kind).isSome
    && !(decide (0x24 ≤ src) && decide (src ≤ 0x27)) && !(s.isHalted && decide (cls < clsRESET))
  s.whenB s.coreOn fun s =>
    let s := s.raiseCore src kind addr forced rehearsal
    if live then s.recfgCancelFor 0x21 else s

/-- A real fault. -/
def State.raise (s : State) (src kind addr : Nat) : State := s.raiseWith src kind addr false false

/-- The key under which a kind is raised at most once in a swath, where it is: per port (R388), per device (R300), per pair (R481),
per Crib (R322), per half and direction (R219). -/
def onceKey (src kind addr : Nat) : Option Nat :=
  let key (a : Nat) : Option Nat := some ((src * 64 + kind) * 4096 + a)
  if src == srcHP || (src == srcGRN && kind == kGrnEccCorr) then key 0
  else if decide (0x20 ≤ src) && decide (src ≤ 0x27) && (kind == kRollMiss || kind == kRollDup) then key 0
  else if src == srcCRIB && kind == kCribDrop then key (addr % 64)
  else if (src == 0x08 || src == 0x09) && kind == kLinkCrc then key (addr / 64)
  else none

/-- A kind has been raised in the swath as often as its rule allows: a real fault once, an injected one unless a message of the kind
stands already (R470, R472). -/
def State.onceTaken (s : State) (k : Nat) (forced : Bool) : Bool :=
  s.fc.onceSeen.contains (2 * k + 1) || (forced && s.fc.onceSeen.contains (2 * k))

/-- A fault by the once-per-swath rule of its kind, real or injected (R470, R472). -/
def State.raiseByRule (s : State) (src kind addr : Nat) (forced rehearsal : Bool) : State :=
  match onceKey src kind addr with
  | none => s.raiseWith src kind addr forced rehearsal
  | some k =>
    if s.onceTaken k forced then s
    else ({ s with fc := { s.fc with onceSeen := (2 * k + b2n (!forced)) :: s.fc.onceSeen } } : State).raiseWith src kind addr
      forced rehearsal

/-- A real fault of a kind that is raised at most once in a swath. -/
def State.raiseOnce (s : State) (src kind addr : Nat) : State := s.raiseByRule src kind addr false false

/-- Is a channel's reaction latch set (FC_STATUS.LATCHED)? -/
def State.latched (s : State) (c : Nat) : Bool := (s.fld F.FC_STATUS_LATCHED).testBit c
/-- Is a Half-safe reaction pending on a half? -/
def State.isPending (s : State) (h : Nat) : Bool := (s.fld F.FC_STATUS_PENDING).testBit h

end Sys2Proof.Machine
end

