-- ==== Sys2Proof/Machine/Cribs.lean ====
section
/-!
DEFINITION. Machine/Cribs.lean: rings of the Loft: writing, publishing, policies, popping and pushing, the watermark
and HIRQ_N (R312-R319), and the batch the Fault Collector writes to Crib 0 (R459, R460).
-/
namespace Sys2Proof.Machine

/-- PROD of a Crib. -/
def State.prod (s : State) (c : Nat) : Nat := (s.reg (Reg.CRIB_PROD c)).toNat
/-- CONS of a Crib. -/
def State.cons (s : State) (c : Nat) : Nat := (s.reg (Reg.CRIB_CONS c)).toNat
/-- Published entries held: (PROD - CONS) mod 2^32 (R313). -/
def State.occupancy (s : State) (c : Nat) : Nat :=
  ((s.reg (Reg.CRIB_PROD c)) - (s.reg (Reg.CRIB_CONS c))).toNat
/-- Words of an entry: 4 or 8. -/
def State.entryWords (s : State) (c : Nat) : Nat := if s.flag (F.CRIB_CFG_ESZ c) then 8 else 4
/-- Entries a ring holds: 2^k. -/
def State.ringSize (s : State) (c : Nat) : Nat := 2 ^ s.fld (F.CRIB_CFG_LOG2N c)
/-- Host address of the entry with index x (R313). -/
def State.ringAddr (s : State) (c x : Nat) : Nat :=
  loftBase + s.fld (F.CRIB_BASE_BASE c) + x % s.ringSize c * (4 * s.entryWords c)
/-- Is a Crib above its watermark (R317)? -/
def State.aboveMark (s : State) (c : Nat) : Bool :=
  s.flag (F.CRIB_CFG_EN c) && s.flag (F.CRIB_WMARK_EN c) && decide (s.fld (F.CRIB_WMARK_WMARK c) ≤ s.occupancy c)

/-- The Fault Collector asks for HIRQ_N while SEEN holds a class at or above IRQ_CLASS (R473). -/
def State.fcIrq (s : State) : Bool :=
  let k := s.fld F.FC_CFG_IRQ_CLASS
  decide (k < 6) && s.fld F.FC_SUMMARY_SEEN / 2 ^ k != 0

/-- HIRQ_N: any Crib above its watermark, or the Fault Collector (R317, R473). -/
def State.hirq (s : State) : Bool := s.fcIrq || allCribs.any (fun c => s.aboveMark c.val)

/-- CRIB_STATUS follows the ring (R317). -/
def State.syncCrib (s : State) (c : CribIx) : State :=
  let occ := s.occupancy c.val
  let s := s.setF (F.CRIB_STATUS_OCCUPANCY c.val) occ
  let s := s.setB (F.CRIB_STATUS_FULL c.val)
    (s.flag (F.CRIB_CFG_EN c.val) && occ + (s.cribs.get c).written.length == s.ringSize c.val)
  s.setB (F.CRIB_STATUS_ABOVE c.val) (s.aboveMark c.val)

/-- Write one entry into the ring beyond PROD without publishing it (R313); `tag` names its producer. -/
def State.storeEntry (s : State) (c : CribIx) (tag : Nat) (ws : List Word) : State :=
  let ws := ws.take (s.entryWords c.val)
  let x := s.prod c.val + (s.cribs.get c).written.length
  (s.writeWords (s.ringAddr c.val x) ws).updCrib c fun x => { x with written := x.written ++ [(tag, ws)] }

/-- A dropped or overwritten entry counts in CRIB_OVF (R314); under DROP_NEW and DROP_OLD it raises CRIB_DROP once
per swath and Crib (R322) and is the Crib cause of R253. -/
def State.countDrop (s : State) (c : CribIx) : State :=
  let s := s.addF (F.CRIB_OVF_DROPPED c.val) 1
  let s := s.causeNow cCRIB
  s.raiseOnce srcCRIB kCribDrop (faultAddr 63 c.val)

/-- An entry dropped under ESCALATE counts in CRIB_OVF and raises CRIB_OVERFLOW (R314). -/
def State.countOver (s : State) (c : CribIx) : State :=
  (s.addF (F.CRIB_OVF_DROPPED c.val) 1).raise srcCRIB kCribOverflow (faultAddr 63 c.val)

/-- Put an entry into a Crib by its policy (R314). `drop` and `refuse` say what a dropped or overwritten entry, and one dropped
under ESCALATE, gives rise to. -/
def State.placeEntry (s : State) (c : CribIx) (tag : Nat) (ws : List Word) (drop refuse : State → State) : State :=
  let x := s.cribs.get c
  if !s.flag (F.CRIB_CFG_EN c.val) then s
  else if s.occupancy c.val + x.written.length < s.ringSize c.val then (s.storeEntry c tag ws).syncCrib c
  else match s.fld (F.CRIB_CFG_POLICY c.val) with
    | 1 =>
      if s.occupancy c.val == 0 || x.latched > 0 then drop s
      else
        let s := s.setReg (Reg.CRIB_CONS c.val) (s.reg (Reg.CRIB_CONS c.val) + 1)
        (drop (s.storeEntry c tag ws)).syncCrib c
    | 2 => refuse s
    | _ => drop s

/-- Put an entry of a producer whose faults are raised as it writes (R314). -/
def State.putEntry (s : State) (c : CribIx) (tag : Nat) (ws : List Word) : State :=
  s.placeEntry c tag ws (fun s => s.countDrop c) (fun s => s.countOver c)

/-- Write entries into the ring from an index on. -/
def State.layEntries (s : State) (c : CribIx) : Nat → List (Nat × List Word) → State
  | _, [] => s
  | x, e :: es => (s.writeWords (s.ringAddr c.val x) e.2).layEntries c (x + 1) es

/-- Publish the written entries of one producer, in order (R313): they stand in the ring from PROD on, before those of other
producers that stay unpublished, and PROD counts them. -/
def State.publish (s : State) (c : CribIx) (tag : Nat) : State :=
  let t := s.tick
  let all := (s.cribs.get c).written
  let mine := all.filter fun e => e.1 == tag
  let rest := all.filter fun e => e.1 != tag
  let s := if all == mine ++ rest then s else s.layEntries c (s.prod c.val) (mine ++ rest)
  let s := s.updCrib c fun x => { x with
    written := rest, pubTick := t, pubCount := (if x.pubTick == t then x.pubCount else 0) + mine.length }
  (s.setReg (Reg.CRIB_PROD c.val) (s.reg (Reg.CRIB_PROD c.val) + BitVec.ofNat 32 mine.length)).syncCrib c

/-- The tag of producers that publish each entry as written. -/
def tagDirect : Nat := 4

/-- A producer that publishes each entry as written (R313): Fault Collector, System Controller, Yoke, Thresher. -/
def State.produce (s : State) (c : CribIx) (ws : List Word) : State :=
  (s.putEntry c tagDirect ws).publish c tagDirect

/-- Entries a pop of n words latches (R315): of those published before this tick (R319). -/
def State.popCount (s : State) (c : CribIx) (n : Nat) : Nat :=
  let x := s.cribs.get c
  min (n / s.entryWords c.val) (s.occupancy c.val - (if x.pubTick == s.tick then x.pubCount else 0))

/-- A pop completes with status OK: CONS becomes CONS0 + j (R315), unless a reconfiguration has emptied the Crib since (R318). -/
def State.popDone (s : State) (c : CribIx) (cons0 : Word) (j : Nat) : State :=
  if (s.cribs.get c).latched == 0 then s
  else
  ((s.setReg (Reg.CRIB_CONS c.val) (cons0 + BitVec.ofNat 32 j)).updCrib c fun x => { x with latched := 0 }).syncCrib c

/-- Entries latched by a pop that does not complete are free again (R374). -/
def State.unlatch (s : State) (c : CribIx) : State := s.updCrib c fun x => { x with latched := 0 }

/-- Free places of a Crib, entries written but not yet published counted (R314). -/
def State.freePlaces (s : State) (c : CribIx) : Nat :=
  s.ringSize c.val - (s.occupancy c.val + (s.cribs.get c).written.length)

/-- Split words into entries of `e` words; a trailing partial entry is dropped (R316). -/
def entriesOf (e : Nat) (ws : List Word) : List (List Word) :=
  (List.range (if e = 0 then 0 else ws.length / e)).map fun i => (ws.drop (i * e)).take e

/-- A push of words to a host-produced Crib, published on completion (R313, R316). -/
def State.pushWords (s : State) (c : CribIx) (ws : List Word) : State :=
  ((entriesOf (s.entryWords c.val) ws).foldl (fun s e => s.putEntry c tagDirect e) s).publish c tagDirect

/-! ## The batch of the Fault Collector (R459, R460) -/

/-- Insert a message in ascending order of swath, then bits [31:6]. -/
def insertMsg (m : Msg) : List Msg → List Msg
  | [] => [m]
  | x :: xs => if m.swath < x.swath || (m.swath == x.swath && m.key < x.key) then m :: x :: xs else x :: insertMsg m xs

/-- The messages in the order of R459. -/
def sortMsgs (ms : List Msg) : List Msg := ms.foldl (fun acc m => insertMsg m acc) []

/-- The four words of a record (R459). -/
def recordWords (m : Msg) (first : Bool) : List Word :=
  [msgWord m.key m.real m.forced m.cls ||| (if first then 8#32 else 0#32), BitVec.ofNat 32 m.swath,
    BitVec.ofNat 32 (m.tick / 2 ^ 32), BitVec.ofNat 32 m.tick]

/-- Does Crib 0 exist: enabled by a verified image (R312)? -/
def State.crib0 (s : State) : Bool := s.flag (F.CRIB_CFG_EN 0)

/-- A record goes to Crib 0, or in BOOT before Crib 0 exists to the buffer of 32; what is not delivered counts in
FC_SUMMARY.LOST (R459). -/
def State.deliverRecord (s : State) (ws : List Word) : State :=
  if s.crib0 then
    let before := (s.reg (Reg.CRIB_OVF 0)).toNat
    let s := s.produce 0 ws
    s.addF F.FC_SUMMARY_LOST ((s.reg (Reg.CRIB_OVF 0)).toNat - before)
  else if s.fc.buffer.length < 32 then { s with fc := { s.fc with buffer := s.fc.buffer ++ [ws] } }
  else s.addF F.FC_SUMMARY_LOST 1

/-- Log one message: FIRST and its capture (R460), the summary, FC_LAST, the record. -/
def State.logMsg (s : State) (m : Msg) : State :=
  let first := !s.fc.firstHeld && m.real && decide (m.cls ≥ clsWARN)
  let ws := recordWords m first
  let s := if first then
      let s := { s with fc := { s.fc with firstHeld := true } }
      (((s.setReg Reg.FC_FIRST_MSG (ws.getD 0 0#32)).setReg Reg.FC_FIRST_SWATH (ws.getD 1 0#32)).setReg
        Reg.FC_FIRST_TICK_HI (ws.getD 2 0#32)).setReg Reg.FC_FIRST_TICK_LO (ws.getD 3 0#32)
    else s
  let s := (s.orF F.FC_SUMMARY_SEEN (2 ^ m.cls)).maxF F.FC_SUMMARY_HIGHEST m.cls
  let s := s.setReg Reg.FC_LAST (ws.getD 0 0#32)
  s.deliverRecord ws

/-- At B(m+1): the messages raised before are written as one batch (R459). -/
def State.writeBatch (s : State) : State :=
  let n := s.swath
  let due := s.fc.batch.filter fun m => decide (m.swath < n)
  let s := { s with fc := { s.fc with batch := s.fc.batch.filter fun m => !decide (m.swath < n) } }
  (sortMsgs due).foldl (fun s m => s.logMsg m) s

/-- At the boundary of R63 the records held in BOOT go to Crib 0 (R459). -/
def State.flushBuffer (s : State) : State :=
  let ws := s.fc.buffer
  let s := { s with fc := { s.fc with buffer := [] } }
  ws.foldl (fun s w => s.deliverRecord w) s

end Sys2Proof.Machine
end

