-- ==== Sys2Proof/Machine/Timebase.lean ====
section
/-!
DEFINITION. Machine/Timebase.lean: the root clock monitor, the counters, the length of a swath and the SYNC phase loop
(R49-R78).
-/
namespace Sys2Proof.Machine

/-! ## SYNC settings in force -/

/-- SRC in force (R65). -/
def State.syncSrc (s : State) : Nat := wbits s.tb.ctrl 1 0
/-- POL in force: true is the falling edge. -/
def State.syncPol (s : State) : Bool := wbit s.tb.ctrl 2
/-- KI_SHIFT in force. -/
def State.kiShift (s : State) : Nat := wbits s.tb.ctrl 7 4
/-- KP_SHIFT in force. -/
def State.kpShift (s : State) : Nat := wbits s.tb.ctrl 11 8
/-- SYNC_OFFSET, signed (R72). -/
def State.syncOffset (s : State) : Int := sx 16 (s.fld F.SYNC_OFFSET_OFFSET)
/-- m of R70: swaths in a marked period. -/
def State.marksM (s : State) : Nat := if s.syncSrc == 1 then 1 else s.kLen
/-- P_nom of R67. -/
def State.pNomNow (s : State) : Nat := s.marksM * s.lNom
/-- The tracked period P. -/
def State.trackP (s : State) : Nat := s.fld F.SYNC_PERIOD_P

/-- Loop states in the coding of SYNC_STATUS.STATE (R68). -/
def lpDISABLED : Nat := 0
def lpACQUIRE : Nat := 1
def lpPULL : Nat := 2
def lpLOCKED : Nat := 3
def lpFREERUN : Nat := 4

/-- The loop state. -/
def State.loop (s : State) : Nat := s.fld F.SYNC_STATUS_STATE

/-- A Yoke follower ignores SYNC_IN (R76, R434), before and during its join too; once refused it is Solo (R35). -/
def State.followsYoke (s : State) : Bool := s.yokeMode != 0 && !s.boot.lead

/-! ## Lengths (R60-R64, R70) -/

/-- Base length of the swath with index `i` in its marked period at period `p` (R70). -/
def baseLen (p m i : Nat) : Nat := (i + 1) * p / m - i * p / m

/-- A phase step: c within 1/16 of L_nom, rounded down (R70, R71). -/
def phaseStep (c : Int) (lNom : Nat) : Int := clampInt (-(lNom / 16 : Nat)) (lNom / 16 : Nat) c

/-- The length of the swath that begins at a boundary with stook phase `i` (R62, R70), and the loop with its step
taken and the corrections whose window has closed applied (R71). -/
def State.swathLength (s : State) (i : Nat) : Nat × State :=
  if s.loop == lpDISABLED then (s.lNom, s)
  else
    let rest := s.tb.held.filter fun x => decide (s.tick ≤ x.2.2)
    let p := match rest with | x :: _ => x.1 | [] => s.trackP
    let hold : Int := (rest.map fun x => x.2.1).sum
    let s := { s with tb := { s.tb with held := rest } }
    let m := s.marksM
    let base := baseLen p m (if m == 1 then 0 else i)
    if s.loop == lpPULL || s.loop == lpLOCKED then
      let step := phaseStep (s.tb.c - hold) s.lNom
      (((base : Int) + step).toNat, { s with tb := { s.tb with c := s.tb.c - step } })
    else (base, s)

/-- Record a marked boundary: its number and tick (R65, R68). -/
def State.markBoundary (s : State) (isStook : Bool) : State :=
  if s.syncSrc == 1 then { s with tb := { s.tb with marks := ((s.swath, s.btick) :: s.tb.marks).take 8 } }
  else if isStook then { s with tb := { s.tb with marks := ((s.stook, s.btick) :: s.tb.marks).take 8 } }
  else s

/-- Ticks to the next marked boundary as tracked: the swath under way, then base lengths to the end of the period, without the phase
steps not yet taken (DESIGN CHOICE, log entry 59). -/
def State.nextMark (s : State) : Nat × Nat :=
  if s.syncSrc == 1 then (s.swath + 1, s.btick + s.swLen)
  else
    let rest := (List.range s.kLen).foldl (fun acc i =>
      if s.phase < i then acc + baseLen s.trackP s.kLen i else acc) 0
    (s.stook + 1, s.btick + s.swLen + rest)

/-- The marked boundaries an edge can be matched to: the recorded ones and the next eight as tracked. -/
def State.markCandidates (s : State) : List (Nat × Nat) :=
  let (i, t) := s.nextMark
  s.tb.marks.reverse ++ (List.range 8).map fun k => (i + k, t + k * s.trackP)

/-- The marked boundary nearest to a time; halfway goes to the earlier one (R68). -/
def nearestMark (t : Int) : List (Nat × Nat) → Option (Nat × Nat)
  | [] => none
  | m :: ms =>
    match nearestMark t ms with
    | none => some m
    | some r => if (t - r.2).natAbs < (t - m.2).natAbs then some r else some m

/-! ## The loop (R66-R73) -/

/-- Is a spacing within the lock range of ±10 % of P_nom (R67)? -/
def State.inLockRange (s : State) (d : Nat) : Bool :=
  decide (9 * s.pNomNow ≤ 10 * d) && decide (10 * d ≤ 11 * s.pNomNow)

/-- Start or restart the loop (R68, R73): ACQUIRE, or DISABLED with SRC 0; P starts again at a changed P_nom. What c and
the corrections still held are then the spec does not say: 0 and none (DESIGN CHOICE, log entry 25). -/
def State.restartLoop (s : State) : State :=
  let s := s.setF F.SYNC_STATUS_STATE (if s.syncSrc == 0 then lpDISABLED else lpACQUIRE)
  let pn := s.pNomNow
  let s := if s.syncSrc != 0 && pn != s.tb.pNom then
      { (s.setF F.SYNC_PERIOD_P pn) with tb := { s.tb with pNom := pn } } else s
  { s with tb := { s.tb with c := 0, held := [], edges := [], good := 0, missRow := 0, usedMark := none, marks := [] } }

/-- Qualify an edge in ACQUIRE or FREERUN (R68): four edges whose three spacings lie in the lock range set P and
move the loop to PULL. There c and the corrections still held are 0 again, and the row of missing edges starts afresh while MISSING
counts on, which the spec does not say (DESIGN CHOICE, log entries 25 and 58). -/
def State.qualifyEdge (s : State) (t : Nat) : State :=
  let run := match s.tb.edges with
    | [] => [t]
    | e :: es => if s.inLockRange (t - e) then t :: e :: es else [t]
  if run.length ≥ 4 then
    let p := (t - run.getD 3 0) / 3
    let s := (s.setF F.SYNC_PERIOD_P p).setF F.SYNC_STATUS_STATE lpPULL
    { s with tb := { s.tb with edges := [t], good := 0, missRow := 0, c := 0, held := [], usedMark := none } }
  else { s with tb := { s.tb with edges := run } }

/-- The update of an edge that is used, with error `e`, applying after tick `due` (R70, R71). P stays in the lock range: its lower bound is
rounded up and its upper bound down where P_nom × 9/10 or P_nom × 11/10 is not whole (R67). -/
def State.loopUpdate (s : State) (e : Int) (due : Nat) : State :=
  let pn := s.pNomNow
  let p0 := s.trackP
  let dc := e / (2 ^ s.kpShift : Nat)
  let p := clampInt ((9 * pn + 9) / 10 : Nat) (pn * 11 / 10 : Nat) ((s.trackP : Int) + e / (2 ^ s.kiShift : Nat))
  let s := s.setF F.SYNC_PERIOD_P p.toNat
  let s := s.setF F.SYNC_STATUS_ERROR (uOf 16 (clampInt (-32767) 32767 e))
  let s := s.setF F.SYNC_STATUS_MISSING 0
  { s with tb := { s.tb with c := s.tb.c + dc, held := s.tb.held ++ [(p0, dc, due)], missRow := 0 } }

/-- A wild edge (R69). -/
def State.wildEdge (s : State) : State :=
  (s.addF F.SYNC_COUNTS_SYNC_WILD_CNT 1).raise srcSYNC kSyncWild 0xFFF

/-- An edge in PULL (R68): a spacing outside the lock range returns to ACQUIRE; else it is matched and used; four
errors of 48 ticks or less in a row lock the loop. -/
def State.pullEdge (s : State) (t : Nat) : State :=
  let ok := match s.tb.edges with | [] => true | e :: _ => s.inLockRange (t - e)
  if !ok then
    let s := s.setF F.SYNC_STATUS_STATE lpACQUIRE
    { s with tb := { s.tb with edges := [t], good := 0 } }
  else
    match nearestMark ((t : Int) + s.syncOffset) s.markCandidates with
    | none => s
    | some (i, x) =>
      let e := (t : Int) + s.syncOffset - x
      let s := s.loopUpdate e s.tick
      let good := if e.natAbs ≤ 48 then s.tb.good + 1 else 0
      let s := { s with tb := { s.tb with edges := [t], good := good, usedMark := some i } }
      if good ≥ 4 then s.setF F.SYNC_STATUS_STATE lpLOCKED else s

/-- An edge in LOCKED (R69): the first one within ±L_nom/4 of a marked boundary is used, any other is wild. -/
def State.lockedEdge (s : State) (t : Nat) : State :=
  match nearestMark ((t : Int) + s.syncOffset) s.markCandidates with
  | none => s.wildEdge
  | some (i, x) =>
    let e := (t : Int) + s.syncOffset - x
    let w := s.lNom / 4
    if e.natAbs > w || s.tb.usedMark == some i then s.wildEdge
    else
      let close := ((x : Int) + w - s.syncOffset).toNat
      let s := s.loopUpdate e (max s.tick close)
      { s with tb := { s.tb with edges := [t], usedMark := some i } }

/-- SYNC_EDGE: an edge of SYNC_IN with its timestamp (the tick of the active edge, latency compensated), its width in
periods of 960 MHz and its polarity (R65-R70). In Dormant the loop is idle (R73). -/
def execSyncEdge (stamp width960 : Nat) (falling : Bool) (s : State) : Host.Outcome State Fault Refusal :=
  .next <|
    if s.syncSrc == 0 || s.followsYoke || s.pwr.mode == 4 || falling != s.syncPol || decide (width960 < 5)
        || (s.syncSrc == 3 && decide (width960 < 30)) then s
    else match s.loop with
      | 1 | 4 => s.qualifyEdge stamp
      | 2 => s.pullEdge stamp
      | 3 => s.lockedEdge stamp
      | _ => s

/-- SYNC_MISSING_EDGE: a window of LOCKED, or the halfway instant of PULL, passes without an edge (R68, R69). -/
def execSyncMissingEdge (s : State) : Host.Outcome State Fault Refusal :=
  .next <|
    if (s.loop == lpPULL || s.loop == lpLOCKED) && s.pwr.mode != 4 && !s.followsYoke then
      let locked := s.loop == lpLOCKED
      let s := s.addF F.SYNC_COUNTS_SYNC_MISS_CNT 1
      let s := s.addF F.SYNC_STATUS_MISSING 1
      let row := s.tb.missRow + 1
      let s := { s with tb := { s.tb with missRow := row } }
      if row ≥ 8 then
        let s := s.setF F.SYNC_STATUS_STATE lpFREERUN
        let s := { s with tb := { s.tb with edges := [], good := 0 } }
        if locked then s.raise srcSYNC kSyncLost 0xFFF else s
      else s
    else s

/-- The fields of SYNC_CTRL a write sets: KP_SHIFT 5-15 and KI_SHIFT 0 or 9-15 are dropped, each alone (R17). -/
def syncCtrlMerge (old v : Word) : Word :=
  let kp := if wbits v 11 8 ≤ 4 then wbits v 11 8 else wbits old 11 8
  let ki := if 1 ≤ wbits v 7 4 && wbits v 7 4 ≤ 8 then wbits v 7 4 else wbits old 7 4
  BitVec.ofNat 32 (kp * 256 + ki * 16 + wbits v 3 0)

/-- A write of SYNC_CTRL waits in the register for the next boundary (R65). -/
def State.writeSyncCtrl (s : State) (v : Word) : State :=
  s.setReg Reg.SYNC_CTRL (syncCtrlMerge (s.reg Reg.SYNC_CTRL) v)

/-- SYNC_CTRL_WRITE. -/
def execSyncCtrlWrite (v : Word) (s : State) : Host.Outcome State Fault Refusal := s.hostKey fun s => s.writeSyncCtrl v

/-- At a boundary a written SYNC_CTRL takes effect; a change of SRC or POL restarts the loop (R68). -/
def State.applySyncCtrl (s : State) : State :=
  let v := s.reg Reg.SYNC_CTRL
  let old := s.tb.ctrl
  let s := { s with tb := { s.tb with ctrl := v } }
  if wbits old 2 0 != wbits v 2 0 then s.restartLoop else s

/-! ## Root clock monitor and Dormant counting -/

/-- CLK_FAIL: the root departs by more than 1 % for 10 µs or the PLL loses lock: the device stops sending downlink
frames (R53). The PLL, the tick and the boundaries run on (R52). No command of the table tells of the root or the lock
coming back: TB_CLK_STATUS shows the loss until a wake or power-on (DESIGN CHOICE, log entry 27). -/
def execClkFail (pllLost : Bool) (s : State) : Host.Outcome State Fault Refusal :=
  let s := if pllLost then s.setB F.TB_CLK_STATUS_PLL_LOCK false else s.setB F.TB_CLK_STATUS_ROOT_OK false
  let s := s.raise srcCLK kClkFail 0xFFF
  .next { s with env := { s.env with clkFailed := true } }

end Sys2Proof.Machine
end

