-- ==== Sys2Proof/Machine/Operands.lean ====
section
/-!
DEFINITION. Machine/Operands.lean: operand forms: the address a register is held at, the functions, flags and
conditions of the Binder engines (R266, R267), the band index (R263), and what a Granary load of an evaluation or a tine
sees of an entry (R229, R230, R268).
-/
namespace Sys2Proof.Machine

/-- The address a register is held at: the half registers stand in the block of every channel of the half
(R38; spec/03, spec/04). -/
def canonAddr (a : Nat) : Nat :=
  if 0x10000 ≤ a && a < 0x14000 then
    let off := (a - 0x10000) % 0x400
    if 0x200 ≤ off && off ≤ 0x210 then 0x10000 + (a - 0x10000) / 0x400 / 8 * 8 * 0x400 + off else a
  else if 0x20000 ≤ a && a < 0x22000 then
    let off := (a - 0x20000) % 0x200
    if off == 0x100 || off == 0x104 then 0x20000 + (a - 0x20000) / 0x200 / 8 * 8 * 0x200 + off else a
  else a

/-! ## ALU functions and flags -/

/-- A result with the four flags of R267. -/
structure AluOut where
  val : Word
  ze : Bool
  lt : Bool
  lu : Bool
  sat : Bool
  deriving DecidableEq, Repr

/-- Does an exact integer fit 32 signed bits? -/
def fits32 (i : Int) : Bool := decide (-(2 ^ 31 : Int) ≤ i) && decide (i < 2 ^ 31)

/-- An exact integer saturated at 0x7FFF_FFFF and 0x8000_0000. -/
def sat32 (i : Int) : Word := wInt (clampInt (-(2 ^ 31 : Int)) (2 ^ 31 - 1) i)

/-- Function F of a and b: the result, LU and SAT (R266, R267). -/
def aluCore (f : BitVec 4) (a b : Word) : Word × Bool × Bool :=
  let sum := a.toInt + b.toInt
  let dif := a.toInt - b.toInt
  let prod := a.toInt * b.toInt
  let sh := b.toNat % 32
  match f.toNat with
  | 0 => (a + b, decide (a.toNat + b.toNat > 0xFFFFFFFF), !fits32 sum)
  | 1 => (a - b, decide (b.toNat > a.toNat), !fits32 dif)
  | 2 => (sat32 sum, false, !fits32 sum)
  | 3 => (sat32 dif, false, !fits32 dif)
  | 4 => (a * b, false, false)
  | 5 => (sat32 prod, false, !fits32 prod)
  | 6 => (wInt (prod / 2 ^ 32), false, false)
  | 7 => (a &&& b, false, false)
  | 8 => (a ||| b, false, false)
  | 9 => (a ^^^ b, false, false)
  | 10 => (a &&& ~~~b, false, false)
  | 11 => (a <<< sh, false, false)
  | 12 => (a >>> sh, false, false)
  | 13 => (a.sshiftRight sh, false, false)
  | 14 => (if a.toInt ≤ b.toInt then a else b, false, false)
  | _ => (if a.toInt ≤ b.toInt then b else a, false, false)

/-- ALU and ALUI: the result and the flags set from it (R267). -/
def alu (f : BitVec 4) (a b : Word) : AluOut :=
  let (v, lu, sat) := aluCore f a b
  ⟨v, v == 0#32, v.msb, lu, sat⟩

/-- A condition code against the flags (R267); the reserved codes never hold. -/
def condHolds (c : BitVec 4) (ze lt lu sat : Bool) : Bool :=
  match c.toNat with
  | 0 => ze
  | 1 => !ze
  | 2 => lt
  | 3 => !lt
  | 4 => lt || ze
  | 5 => !lt && !ze
  | 6 => lu
  | 7 => !lu
  | 8 => lu || ze
  | 9 => !lu && !ze
  | 10 => sat
  | 11 => !sat
  | 14 => true
  | _ => false

/-- The band index of a value: the number of thresholds at or below it (R263). -/
def bandIndex (ts : List Int) (v : Int) : Nat := (ts.filter fun t => decide (t ≤ v)).length

/-! ## Evaluation contexts -/

/-- A register of the engine. -/
def Ctx.w (c : Ctx) (r : RegIx) : Word := c.regs.get r.toFin
/-- Write a register of the engine. -/
def Ctx.setW (c : Ctx) (r : RegIx) (v : Word) : Ctx := { c with regs := c.regs.set r.toFin v }
/-- Does a condition hold? -/
def Ctx.cond (c : Ctx) (k : BitVec 4) : Bool := condHolds k c.ze c.lt c.lu c.sat
/-- Write a result and its flags. -/
def Ctx.setAlu (c : Ctx) (r : RegIx) (o : AluOut) : Ctx :=
  { (c.setW r o.val) with ze := o.ze, lt := o.lt, lu := o.lu, sat := o.sat }

/-- Continue at an address in sequence: at the end of a loop body go round or leave the loop (R281). -/
def loopBack (next : Nat) : List LoopFrame → Nat × List LoopFrame
  | [] => (next, [])
  | f :: fs =>
    if next == f.last + 1 then
      if f.left > 0 then (f.first, { f with left := f.left - 1 } :: fs) else loopBack next fs
    else (next, f :: fs)

/-- Go on in sequence at an address. -/
def Ctx.seqTo (c : Ctx) (next : Nat) : Ctx :=
  let (pc, ls) := loopBack next c.loops
  { c with pc := pc, loops := ls }

/-- Go on with the next instruction. -/
def Ctx.seq (c : Ctx) : Ctx := c.seqTo (c.pc + 1)

/-! ## What a load sees -/

/-- The prediction of an entry for tine 0 of a swath (R229). `p` is the pair. A tine that reads an entry of class 1-3 inside the
write window sees the new value (R309). -/
def State.predict (s : State) (p : Nat) (c : Ctx) (i : Nat) : Entry :=
  let e := s.entry i
  let now := e.readFor (BitVec.ofNat 32 (c.swath - 1))
  match e.cls with
  | 5 => match c.hostPred.find? (fun x => x.1 == i) with
    | some x => { now with value := x.2, qual := 1 }
    | none => now
  | 6 =>
    match e.pend with
    | some d =>
      if d.target == c.swath && (e.src == srcDerived p || c.pairsReady.any (fun q => e.src == srcDerived q)) then
        { now with value := d.value, qual := d.qual }
      else now
    | none => now
  | _ => now

/-- The hot input a tine flips, none for tine 0 and for evaluations (R230). -/
def Ctx.hot (c : Ctx) (pr : Prog) : Option HotInput :=
  match c.kind with
  | .tine (t + 1) => pr.hots[t]?
  | _ => none

/-- An entry as the evaluation sees it (R227, R229): the prediction in a tine, with bit 0 of a digital hot input
inverted in its own tine (R230); the input image of the swath elsewhere. -/
def State.seen (s : State) (p : PairIx) (pr : Prog) (c : Ctx) (i : Nat) : Entry :=
  if c.isTine then
    let e := s.predict p.val c i
    match c.hot pr with
    | some h => if h.index == i && h.band.isNone then { e with value := e.value ^^^ 1#32 } else e
    | none => e
  else (s.entry i).readFor (BitVec.ofNat 32 c.swath)

/-- The direction of the last band move of an entry, upward if it has not moved since arming (R230). -/
def Pair.bandUp (x : Pair) (i : Nat) : Bool :=
  match x.bands.find? (fun b => b.1 == i) with | some b => b.2.2 | none => true

/-- A band moved one step: from the top band downward, from the bottom band upward (R230). -/
def moveBand (up : Bool) (top b : Nat) : Nat :=
  if b == 0 then (if top == 0 then 0 else 1) else if b ≥ top then top - 1 else if up then b + 1 else b - 1

/-- The band index an LDB through table `t` returns (R230, R268). -/
def State.seenBand (s : State) (p : PairIx) (pr : Prog) (c : Ctx) (t i : Nat) : Nat :=
  let ts := pr.bands.getD t []
  let b := bandIndex ts (s.seen p pr c i).value.toInt
  match c.hot pr with
  | some h => if h.index == i && h.band == some t then moveBand ((s.pairs.get p).bandUp i) ts.length b else b
  | none => b

/-- Make a read-set record (R234): one record for each aspect; 4,096 in a sheaf abort the tine (R233). An aspect that an earlier sheaf
has recorded makes no new record (DESIGN CHOICE, log entry 66). -/
def Ctx.record (c : Ctx) (i : Nat) (a : Aspect) : Ctx :=
  if !c.isTine || c.reads.contains ⟨i, a⟩ then c
  else { c with
    reads := ⟨i, a⟩ :: c.reads
    sheafReads := c.sheafReads + 1
    aborted := c.aborted || decide (c.sheafReads + 1 > 4096) }

/-- The index a load or store with X names: (W_a + IDX) mod 131,072 (R269). -/
def Ctx.indexed (c : Ctx) (a : RegIx) (x : BitVec 1) (idx : BitVec 17) : Nat :=
  if x == 1#1 then ((c.w a).toNat + idx.toNat) % sigCount else idx.toNat

/-- The data-memory address of LDD and STD (R271). -/
def Ctx.dataAddr (c : Ctx) (a : RegIx) (x : BitVec 1) (off : BitVec 12) : Nat :=
  (off.toNat + if x == 1#1 then (c.w a).toNat else 0) % 4096

/-- What an unwritten data-memory word and an unused timer read as: set up at arming (R259). -/
def dmemDefault (_ : Nat) : Word := 0#32
def timerDefault (_ : Nat) : Timer := {}

end Sys2Proof.Machine
end

