-- ==== Sys2Proof/Machine/BinderIsa.lean ====
section
/-!
DEFINITION. Machine/BinderIsa.lean: what each Binder instruction does to the evaluation under way in its pair
(R264-R280), and the comparison of the two engines (R285).
-/
namespace Sys2Proof.Machine

/-! ## Control (R280, R281) -/

/-- Sheaves the evaluation runs: the speculable part in a tine, all otherwise (R225). -/
def Ctx.sheafEnd (c : Ctx) (pr : Prog) : Nat := if c.isTine then pr.specLen else pr.starts.length

/-- END: the next sheaf begins at its START with an empty call stack; after the last the evaluation is complete
(R280). -/
def doEnd (pr : Prog) (c : Ctx) : Ctx :=
  if c.sheaf + 1 < c.sheafEnd pr then
    { c with sheaf := c.sheaf + 1, pc := pr.starts.getD (c.sheaf + 1) 0, calls := [], loops := [], sheafReads := 0 }
  else { c with ended := true }

/-- NOP. -/
def doNop (c : Ctx) : Ctx := c.seq
/-- BR: forward branch on a condition (R265). -/
def doBr (k : BitVec 4) (off : BitVec 14) (c : Ctx) : Ctx :=
  if c.cond k then { c with pc := c.pc + off.toNat } else c.seq
/-- CALL: push PC + 1 and go (R265). -/
def doCall (t : BitVec 14) (c : Ctx) : Ctx := { c with calls := (c.pc + 1) :: c.calls, pc := t.toNat }
/-- RET: pop and go there (R265). -/
def doRet (c : Ctx) : Ctx :=
  match c.calls with
  | r :: rs => ({ c with calls := rs } : Ctx).seqTo r
  | [] => c.seq
/-- Run the next `len` instructions `n` times (n at least 1). -/
def Ctx.enterLoop (c : Ctx) (n len : Nat) : Ctx :=
  if len == 0 then c.seq
  else if n == 0 then c.seqTo (c.pc + 1 + len)
  else { c with pc := c.pc + 1, loops := ⟨c.pc + 1, c.pc + len, n - 1⟩ :: c.loops }
/-- LOOP: N - 1 in the word (R265). -/
def doLoop (n : BitVec 12) (len : BitVec 14) (c : Ctx) : Ctx := c.enterLoop (n.toNat + 1) len.toNat
/-- LOOPR: clamp(a, 0, MAX) times; a register negative or zero skips the body (R265, R291). -/
def doLoopr (a : RegIx) (max : BitVec 10) (len : BitVec 12) (c : Ctx) : Ctx :=
  c.enterLoop (clampInt 0 (max.toNat + 1 : Nat) (c.w a).toInt).toNat len.toNat

/-! ## Arithmetic (R265-R267) -/

/-- MOVI: the sign-extended 18-bit immediate. -/
def doMovi (d : RegIx) (imm : BitVec 18) (c : Ctx) : Ctx := (c.setW d (imm.signExtend 32)).seq
/-- MOVH: d[31:16] = imm, d[15:0] kept. -/
def doMovh (d : RegIx) (imm : BitVec 16) (c : Ctx) : Ctx := (c.setW d (imm ++ (c.w d).extractLsb' 0 16)).seq
/-- ALU: d = a f b, flags from the result. -/
def doAlu (d a b : RegIx) (f : BitVec 4) (c : Ctx) : Ctx := (c.setAlu d (alu f (c.w a) (c.w b))).seq
/-- ALUI: d = a f imm, the immediate sign-extended. -/
def doAlui (d a : RegIx) (f : BitVec 4) (imm : BitVec 14) (c : Ctx) : Ctx :=
  (c.setAlu d (alu f (c.w a) (imm.signExtend 32))).seq
/-- Flags of a comparison (R267). -/
def Ctx.compare (c : Ctx) (a b : Word) : Ctx :=
  { c with ze := a == b, lt := a.slt b, lu := a.ult b, sat := false }
/-- CMP. -/
def doCmp (a b : RegIx) (c : Ctx) : Ctx := (c.compare (c.w a) (c.w b)).seq
/-- CMPI. -/
def doCmpi (a : RegIx) (imm : BitVec 18) (c : Ctx) : Ctx := (c.compare (c.w a) (imm.signExtend 32)).seq
/-- SEL: d = c ? a : b. -/
def doSel (d a b : RegIx) (k : BitVec 4) (c : Ctx) : Ctx := (c.setW d (if c.cond k then c.w a else c.w b)).seq
/-- SETC: d = c ? 1 : 0. -/
def doSetc (d : RegIx) (k : BitVec 4) (c : Ctx) : Ctx := (c.setW d (if c.cond k then 1#32 else 0#32)).seq

/-! ## Grid, loads and stores (R268-R272) -/

/-- Stook phase and stook number of the swath under evaluation (R272): of the swath under way, or of the next one in
a tine. -/
def State.gridOf (s : State) (n : Nat) : Nat × Nat :=
  if n == s.swath then (s.phase, s.stook)
  else if s.phase + 1 ≥ s.kLen then (0, s.stook + 1) else (s.phase + 1, s.stook)

/-- A grid value by its selector (R272). -/
def State.gridValue (s : State) (p : PairIx) (c : Ctx) (sel : BitVec 4) : Word :=
  let (ph, st) := s.gridOf c.swath
  match sel.toNat with
  | 0 => BitVec.ofNat 32 c.swath
  | 1 => BitVec.ofNat 32 (c.swath / 2 ^ 32 % 2 ^ 16)
  | 2 => BitVec.ofNat 32 ph
  | 3 => BitVec.ofNat 32 st
  | 4 => BitVec.ofNat 32 p.val
  | 5 => BitVec.ofNat 32 s.lNom
  | 6 => BitVec.ofNat 32 s.kLen
  | _ => 0#32

/-- RDS (R272). -/
def doRds (s : State) (p : PairIx) (d : RegIx) (sel : BitVec 4) (c : Ctx) : Ctx :=
  (c.setW d (s.gridValue p c sel)).seq
/-- LDS: bit 0 of the value word (R268). -/
def doLds (s : State) (p : PairIx) (pr : Prog) (d a : RegIx) (x : BitVec 1) (idx : BitVec 17) (c : Ctx) : Ctx :=
  let i := c.indexed a x idx
  let b := wbit (s.seen p pr c i).value 0
  ((c.record i (.state b)).setW d (if b then 1#32 else 0#32)).seq
/-- LDQ: word 1, the predicted quality unchanged by a flip (R230, R268). -/
def doLdq (s : State) (p : PairIx) (pr : Prog) (d a : RegIx) (x : BitVec 1) (idx : BitVec 17) (c : Ctx) : Ctx :=
  let i := c.indexed a x idx
  let w := (s.seen p pr c i).word1
  ((c.record i (.qual w)).setW d w).seq
/-- LDV: the value word (R268). -/
def doLdv (s : State) (p : PairIx) (pr : Prog) (d : RegIx) (idx : BitVec 17) (c : Ctx) : Ctx :=
  let w := (s.seen p pr c idx.toNat).value
  ((c.record idx.toNat (.value w)).setW d w).seq
/-- LDW: word 2-7 of the entry (R268, R305). -/
def doLdw (s : State) (p : PairIx) (pr : Prog) (d : RegIx) (w : BitVec 3) (idx : BitVec 17) (c : Ctx) : Ctx :=
  (c.setW d ((s.seen p pr c idx.toNat).words.getD w.toNat 0#32)).seq
/-- LDB: the band index against table t (R263, R268). -/
def doLdb (s : State) (p : PairIx) (pr : Prog) (d : RegIx) (t : BitVec 5) (idx : BitVec 17) (c : Ctx) : Ctx :=
  let b := s.seenBand p pr c t.toNat idx.toNat
  ((c.record idx.toNat (.band t.toNat b)).setW d (BitVec.ofNat 32 b)).seq

/-- A bank register as the host reads it (R161, R268), THR_NOW and THR_FLAGS as they stood when Thresh ended; channels 16-31 of a
Wide lead are the follower's (R40). -/
def State.bankWord (s : State) (ch off : Nat) : Word :=
  let a := 0x20000 + 0x200 * ch + off
  if h : ch < 16 ∧ off = 0xA4 then (s.chans.get ⟨ch, h.1⟩).nowB
  else if h : ch < 16 ∧ off = 0xA0 then (s.chans.get ⟨ch, h.1⟩).flagsB
  else if ch < 16 then s.reg (canonAddr a)
  else Sparse.get leadReset s.yk.image (leadAddr (canonAddr (a - 0x2000)))

/-- LDK: bank register at offset 4 × F of a channel's bank block (R268). -/
def doLdk (s : State) (d : RegIx) (ch : BitVec 5) (f : BitVec 6) (c : Ctx) : Ctx :=
  (c.setW d (s.bankWord ch.toNat (4 * f.toNat))).seq

/-- The quality a store gives (R270): VALID alone, or bits [14:1] of a register with VALID recomputed; LATE follows
R48 at the boundary. -/
def storeQual (qe : BitVec 1) (q : Word) : Nat := if qe == 1#1 then withValid (q.toNat % 2 ^ 15) else 1

/-- Put a store into the commit set: the last write in program order stands, and takes its place in the order
(R270, R310); more than 1,024 entries abort a tine (R232). -/
def Ctx.storeSig (c : Ctx) (i : Nat) (v : Word) (q : Nat) : Ctx :=
  let ws := (c.writes.filter fun w => w.index != i) ++ [⟨i, v, q, c.ops⟩]
  { c with writes := ws, ops := c.ops + 1, aborted := c.aborted || (c.isTine && decide (ws.length > 1024)) }

/-- Store to an entry: outside the pair's own entries it is dropped, SIG_OWNER held; in a tine it aborts (R233, R270). -/
def State.doStore (s : State) (p : PairIx) (i : Nat) (v : Word) (q : Nat) (c : Ctx) : Ctx :=
  if s.isOwnDerived p.val i then c.storeSig i v q
  else if c.isTine then { c with aborted := true }
  else { c with faults := c.faults ++ [(kSigOwner, faultAddr 63 (min c.sheaf 63))] }

/-- STS (R270). -/
def doSts (s : State) (p : PairIx) (r q : RegIx) (qe : BitVec 1) (idx : BitVec 17) (c : Ctx) : Ctx :=
  (s.doStore p idx.toNat (c.w r) (storeQual qe (c.w q)) c).seq
/-- STSX: entry (W_a + OFF) mod 131,072 (R270). -/
def doStsx (s : State) (p : PairIx) (r a q : RegIx) (qe : BitVec 1) (off : BitVec 13) (c : Ctx) : Ctx :=
  (s.doStore p (((c.w a).toNat + off.toNat) % sigCount) (c.w r) (storeQual qe (c.w q)) c).seq
/-- LDD (R271). -/
def doLdd (d a : RegIx) (x : BitVec 1) (off : BitVec 12) (c : Ctx) : Ctx :=
  (c.setW d (Sparse.get dmemDefault c.dmem (c.dataAddr a x off))).seq
/-- STD (R271). -/
def doStd (r a : RegIx) (x : BitVec 1) (off : BitVec 12) (c : Ctx) : Ctx :=
  ({ c with dmem := Sparse.put dmemDefault c.dmem (c.dataAddr a x off) (c.w r) } : Ctx).seq

/-! ## Timers, edges, monitors (R273-R277) -/

/-- PT: an interval of 2^31 or more counts as 2^31 - 1 (R273). -/
def ptOf (w : Word) : Nat := min w.toNat (2 ^ 31 - 1)
/-- Elapsed swaths: (m - START) mod 2^32 (R273). -/
def elapsed (m start : Word) : Nat := (m - start).toNat

/-- TON of R274. -/
def tonNext (t : Timer) (inp : Bool) (m : Word) (pt : Nat) : Timer :=
  if !inp then { t with active := false, q := false }
  else
    let t := if t.active then t else { t with active := true, start := m }
    { t with q := decide (pt ≤ elapsed m t.start) }
/-- TOF of R274. -/
def tofNext (t : Timer) (inp : Bool) (m : Word) (pt : Nat) : Timer :=
  if inp then { t with active := false, q := true }
  else if t.q then
    let t := if t.active then t else { t with active := true, start := m }
    if pt ≤ elapsed m t.start then { t with active := false, q := false } else t
  else t
/-- TP of R274. -/
def tpNext (t : Timer) (inp : Bool) (m : Word) (pt : Nat) : Timer :=
  let t := if inp && !t.prev && !t.active then { t with active := true, start := m } else t
  let t := if t.active && decide (pt ≤ elapsed m t.start) then { t with active := false } else t
  { t with q := t.active, prev := inp }

/-- Count a timer update; more than 256 abort a tine (R232). -/
def Ctx.putTimer (c : Ctx) (n : Nat) (t : Timer) : Ctx :=
  { c with
    timers := Sparse.put timerDefault c.timers n t
    updates := c.updates + 1
    aborted := c.aborted || (c.isTine && decide (c.updates + 1 > 256)) }

/-- Run a timer on bit 0 of A with PT in B; Q goes to bit 0 of D (R274). -/
def doTimer (next : Timer → Bool → Word → Nat → Timer) (kind : Nat) (d a b : RegIx) (n : BitVec 10) (c : Ctx) : Ctx :=
  let t := next (Sparse.get timerDefault c.timers n.toNat) (wbit (c.w a) 0) (BitVec.ofNat 32 c.swath) (ptOf (c.w b))
  let t := { t with kind := kind }
  ((c.putTimer n.toNat t).setW d (if t.q then 1#32 else 0#32)).seq

/-- EDG (R276). -/
def doEdg (d a : RegIx) (addr : BitVec 12) (c : Ctx) : Ctx :=
  let now := wbit (c.w a) 0
  let old := wbit (Sparse.get dmemDefault c.dmem addr.toNat) 0
  let c := { c with dmem := Sparse.put dmemDefault c.dmem addr.toNat (if now then 1#32 else 0#32) }
  (c.setW d (BitVec.ofNat 32 (b2n (now && !old) + 2 * b2n (old && !now)))).seq

/-- One step of a discrepancy monitor (R277): the next timer state and whether it latched now. -/
def dscNext (t : Timer) (x y : Bool) (m : Word) (pt : Nat) : Timer × Bool :=
  if t.latched then (if !x && !y then { t with latched := false } else t, false)
  else if x == y then ({ t with active := false }, false)
  else
    let t := if t.active then t else { t with active := true, start := m }
    if pt ≤ elapsed m t.start then ({ t with latched := true, active := false }, true) else (t, false)

/-- DSC (R277): DISCREPANCY is held with the evaluation. -/
def doDsc (d a b p : RegIx) (n : BitVec 8) (anti fe : BitVec 1) (c : Ctx) : Ctx :=
  let x := wbit (c.w a) 0
  let y := xor (wbit (c.w b) 0) (anti == 1#1)
  let (t, hit) := dscNext (Sparse.get timerDefault c.timers n.toNat) x y (BitVec.ofNat 32 c.swath) (ptOf (c.w p))
  let t := { t with kind := 4 }
  let c := c.putTimer n.toNat t
  let c := if hit then { c with dscLatches := c.dscLatches + 1 } else c
  let c := if hit && fe == 1#1 then
      { c with faults := c.faults ++ [(kDiscrepancy, faultAddr (n.toNat / 64) (n.toNat % 64))] } else c
  (c.setW d (BitVec.ofNat 32 (b2n (!t.latched && x == y && x) + 2 * b2n t.latched + 4 * b2n (x != y)))).seq

/-! ## EMIT and CHK (R278, R279) -/

/-- Consecutive registers from S. -/
def Ctx.regsFrom (c : Ctx) (r : RegIx) (n : Nat) : List Word :=
  (List.range n).map fun k => c.w (r + BitVec.ofNat 4 k)

/-- EMIT: one entry held with the evaluation; more than 64 abort a tine (R232, R278). -/
def doEmit (s : State) (k : BitVec 5) (r : RegIx) (c : Ctx) : Ctx :=
  let es := c.emits ++ [⟨k.toNat, c.regsFrom r (s.entryWords k.toNat), c.ops⟩]
  ({ c with emits := es, ops := c.ops + 1, aborted := c.aborted || (c.isTine && decide (es.length > 64)) } : Ctx).seq

/-- CHK: a check-in of a task; a second one is a duplicate (R279, R480). -/
def doChk (t : BitVec 5) (c : Ctx) : Ctx :=
  let bit : Word := 1#32 <<< t.toNat
  (if c.checkins.getLsbD t.toNat then { c with dups := c.dups ||| bit } else { c with checkins := c.checkins ||| bit }).seq

/-! ## One instruction by its word -/

/-- What a Binder instruction does to an evaluation. -/
def runOp (s : State) (p : PairIx) (pr : Prog) : BinderOp → Ctx → Ctx
  | .opEnd => doEnd pr
  | .opNop => doNop
  | .opMovi d imm => doMovi d imm
  | .opMovh d imm => doMovh d imm
  | .opAlu d a b f => doAlu d a b f
  | .opAlui d a f imm => doAlui d a f imm
  | .opCmp a b => doCmp a b
  | .opCmpi a imm => doCmpi a imm
  | .opSel d a b k => doSel d a b k
  | .opSetc d k => doSetc d k
  | .opRds d f => doRds s p d f
  | .opLds d a x idx => doLds s p pr d a x idx
  | .opLdq d a x idx => doLdq s p pr d a x idx
  | .opLdv d idx => doLdv s p pr d idx
  | .opLdw d w idx => doLdw s p pr d w idx
  | .opLdb d t idx => doLdb s p pr d t idx
  | .opLdk d ch f => doLdk s d ch f
  | .opSts r q qe idx => doSts s p r q qe idx
  | .opStsx r a q qe off => doStsx s p r a q qe off
  | .opLdd d a x off => doLdd d a x off
  | .opStd r a x off => doStd r a x off
  | .opBr k off => doBr k off
  | .opCall t => doCall t
  | .opRet => doRet
  | .opLoop n len => doLoop n len
  | .opLoopr a max len => doLoopr a max len
  | .opTon d a b t => doTimer tonNext 1 d a b t
  | .opTof d a b t => doTimer tofNext 2 d a b t
  | .opTp d a b t => doTimer tpNext 3 d a b t
  | .opEdg d a addr => doEdg d a addr
  | .opDsc d a b q t m fe => doDsc d a b q t m fe
  | .opEmit k r => doEmit s k r
  | .opChk t => doChk t

/-! ## The two engines (R285) -/

/-- Engine A of an evaluation. -/
def Ctx.engA (c : Ctx) : Engine := { regs := c.regs, ze := c.ze, lt := c.lt, lu := c.lu, sat := c.sat }
/-- The evaluation as engine B holds it. -/
def Ctx.onB (c : Ctx) : Ctx := { c with regs := c.eb.regs, ze := c.eb.ze, lt := c.eb.lt, lu := c.eb.lu, sat := c.eb.sat }

/-- The register an instruction writes. -/
def BinderOp.dest : BinderOp → Option RegIx
  | .opMovi d _ | .opMovh d _ | .opAlu d _ _ _ | .opAlui d _ _ _ | .opSel d _ _ _ | .opSetc d _ | .opRds d _ => some d
  | .opLds d _ _ _ | .opLdq d _ _ _ | .opLdv d _ | .opLdw d _ _ | .opLdb d _ _ | .opLdk d _ _ | .opLdd d _ _ _ => some d
  | .opTon d _ _ _ | .opTof d _ _ _ | .opTp d _ _ _ | .opEdg d _ _ | .opDsc d _ _ _ _ _ _ => some d
  | _ => none

/-- Does an instruction write the flags? -/
def BinderOp.setsFlags : BinderOp → Bool
  | .opAlu .. | .opAlui .. | .opCmp .. | .opCmpi .. => true
  | _ => false

/-- Is an instruction a load, whose data both engines receive? -/
def BinderOp.isLoad : BinderOp → Bool
  | .opLds .. | .opLdq .. | .opLdv .. | .opLdw .. | .opLdb .. | .opLdk .. | .opLdd .. => true
  | _ => false

/-- The data-memory store of an instruction: address and data. -/
def BinderOp.store (c : Ctx) : BinderOp → Option (Nat × Word)
  | .opStd r a x off => some (c.dataAddr a x off, c.w r)
  | _ => none

/-- The signal store of an instruction: entry, value and quality. -/
def BinderOp.signal (c : Ctx) : BinderOp → Option (Nat × Word × Nat)
  | .opSts r q qe idx => some (idx.toNat, c.w r, storeQual qe (c.w q))
  | .opStsx r a q qe off => some (((c.w a).toNat + off.toNat) % sigCount, c.w r, storeQual qe (c.w q))
  | _ => none

/-- The edge memory after an edge instruction. -/
def BinderOp.edge (c : Ctx) : BinderOp → Option Word
  | .opEdg _ _ addr => some (Sparse.get dmemDefault c.dmem addr.toNat)
  | _ => none

/-- What the comparison finds between an instruction in engine A and in engine B (R285): the cause of BND_FAULT.CAUSE, none where the
actions are equal. `c` and `d` are the evaluation as either engine held it before, `a` and `b` after. -/
def lockCause (op : BinderOp) (c d a b : Ctx) : Option Nat :=
  if (match op.dest with | some r => a.w r != b.w r | none => false) then some 1
  else if op.setsFlags && (a.ze, a.lt, a.lu, a.sat) != (b.ze, b.lt, b.lu, b.sat) then some 2
  else if a.pc != b.pc || a.calls != b.calls || a.loops != b.loops then some 3
  else if op.store c != op.store d then some 4
  else if op.signal c != op.signal d || op.edge a != op.edge b || a.emits != b.emits || a.timers != b.timers
      || a.checkins != b.checkins || a.dups != b.dups || a.faults != b.faults then some 5
  else if a.ended != b.ended then some 6
  else none

/-- Engine B after an instruction that left engine A's evaluation at `a`: a load gives it the same data (R285). -/
def Ctx.engineB (c a : Ctx) (op : BinderOp) (f : Ctx → Ctx) : Ctx :=
  match op.isLoad, op.dest with
  | true, some r => ({ a with regs := c.eb.regs, ze := c.eb.ze, lt := c.eb.lt, lu := c.eb.lu, sat := c.eb.sat } : Ctx).setW r (a.w r)
  | _, _ => f c.onB

/-- One instruction in both engines, compared (R285): the evaluation after it, or the cause of the mismatch. -/
def Ctx.lockstep (c : Ctx) (op : BinderOp) (f : Ctx → Ctx) : Except Nat Ctx :=
  let a := f c
  let b := c.engineB a op f
  match lockCause op c c.onB a b with
  | some k => .error k
  | none => .ok { a with eb := b.engA }

end Sys2Proof.Machine
end

