-- ==== Sys2Proof/Machine/Perf.lean ====
section
/-!
DEFINITION. Machine/Perf.lean: the performance counters and their keys (R533-R539).
-/
namespace Sys2Proof.Machine

/-- Time passes up to a tick, if it lies ahead: the tick counter and PC_TICKS count it (R54, R539). -/
def State.advance (s : State) (t : Nat) : State :=
  if t ≤ s.tick then s
  else
    let d := t - s.tick
    let s := s.setTick t
    if s.pcFrozen then s else s.pcAdd (Reg.PC_TICKS 0) d

/-- Time passes inside the swath under way, at most up to the tick before its end. -/
def State.elapse (s : State) (t : Nat) : State := s.advance (min t (s.btick + s.swLen - 1))

/-- Time passes up to the boundary tick itself, which a frame of the last slot reaches (R206). -/
def State.reach (s : State) (t : Nat) : State := s.advance (min t (s.btick + s.swLen))

/-- Ticks after the boundary at which Thresh ends (R143, R224): 240, 288 at P3 and in Hibernate (R519), and 192 more after a late gather. -/
def State.threshTicks (s : State) : Nat :=
  (if s.slowFabric then 288 else 240) + (if s.pipe.late then 192 else 0)

/-- Every cycle of the swath up to a tick that no work has taken and none under way is taking is IDLE (R533), in a pair whose clock
runs. -/
def State.pcIdle (s : State) (p : PairIx) (len : Nat) : State :=
  let x := s.pairs.get p
  let all := binderCycles s.pipe.level len
  let running := if x.ctx.isSome then binderCycles s.pipe.level (s.btick + len - max x.began s.btick) else 0
  let s := s.updPair p fun x => { x with spent := 0 }
  if s.pcFrozen || x.halted || s.pwr.mode != 0 then s else s.pcTake p.val pcIDLE (all - x.spent - running)

/-- The ticks a transaction has waited that count: those before the last boundary it has taken part in, and those of the swath
under way unless the counters are frozen (R537, R538). -/
def State.waitNow (s : State) (came waited : Nat) : Nat := waited + if s.pcFrozen then 0 else s.tick - came

/-- Put a key in PC_CTRL to wait for the boundary (R538): keys of different kinds wait side by side, any other value
is dropped. The waiting keys are bits 0 snapshot, 1 clear, 2 freeze, 3 run. -/
def State.pcKey (s : State) (bit : Nat) : State :=
  ({ s with perf := s.perf ||| 2 ^ bit } : State).setB F.PC_STATUS_WAITING true

/-- PC_FREEZE: key 0xF0. -/
def execPcFreeze (s : State) : Host.Outcome State Fault Refusal := s.hostKey fun s => s.pcKey 2
/-- PC_RUN: key 0xF1. -/
def execPcRun (s : State) : Host.Outcome State Fault Refusal := s.hostKey fun s => s.pcKey 3
/-- PC_SNAPSHOT: key 0x5A. -/
def execPcSnapshot (s : State) : Host.Outcome State Fault Refusal := s.hostKey fun s => s.pcKey 0
/-- PC_CLEAR: key 0xC0. -/
def execPcClear (s : State) : Host.Outcome State Fault Refusal := s.hostKey fun s => s.pcKey 1

/-- The host addresses of the live counters. -/
def pcLive : List Nat :=
  [Reg.PC_TICKS 0, Reg.PC_TICKS 1] ++ (List.range 4).flatMap (fun p => (List.range 24).map fun k => Reg.PC_PAIR p k)
    ++ (List.range 8).map Reg.PC_GLN ++ (List.range 10).map Reg.PC_HP

/-- The transactions that wait at a boundary hold aside what they have waited up to it (R537, R538). -/
def State.holdWaits (s : State) : State :=
  let t := s.tick
  let frozen := s.pcFrozen
  let more (came : Nat) : Nat := if frozen then 0 else t - came
  { s with hp := { s.hp with
    reads := s.hp.reads.map fun (x : HeldRead) => { x with waited := x.waited + more x.came, came := t }
    writes := s.hp.writes.map fun (x : HeldWrite) => { x with waited := x.waited + more x.came, came := t } } }

/-- The waiting keys take effect at the boundary, in the order snapshot, clear, freeze, run (R538). -/
def State.pcApply (s : State) : State :=
  let s := s.holdWaits
  let old := s.pcFrozen
  let s : State := { s with pipe := { s.pipe with frozenPrev := old } }
  let k := s.perf
  let s := if k.testBit 0 then
      (pcLive.foldl (fun s a => s.setReg (a + 0x800) (s.reg a)) s).setF F.PC_STATUS_SNAP_SWATH s.swath else s
  let s := if k.testBit 1 then pcLive.foldl (fun s a => s.setReg a 0#32) s else s
  let s := if k.testBit 2 then s.setB F.PC_STATUS_FROZEN true else s
  let s := if k.testBit 3 then s.setB F.PC_STATUS_FROZEN false else s
  ({ s with perf := 0 } : State).setB F.PC_STATUS_WAITING false

end Sys2Proof.Machine
end

