-- ==== Sys2Proof/Machine/Pipeline.lean ====
section
/-!
DEFINITION. Machine/Pipeline.lean: the swath pipeline of the Binder pairs: tines, validation, commit, the output image,
budget overruns, blocks, roll-call and bench-mode debug (R220-R255, R285-R292, R480-R482).
-/
namespace Sys2Proof.Machine

/-! ## Starting and running evaluations -/

/-- The committed state of a pair as a fresh context: registers and flags 0 (R259). -/
def freshCtx (kind : EvalKind) (swath : Nat) (pr : Prog) (first : Nat) (dmem : Sparse Word) (tm : Sparse Timer) : Ctx :=
  { kind := kind, swath := swath, pc := pr.starts.getD first 0, sheaf := first, dmem := dmem, timers := tm }

/-- Data memory and timers the next swath starts from: the commit that waits, else the committed ones (R231, R241). -/
def Pair.base (x : Pair) : Sparse Word × Sparse Timer :=
  match x.commit with | some c => (c.dmem, c.timers) | none => (x.dmem, x.timers)

/-- The strap MODE reads 10: debug permitted (R288). -/
def State.bench (s : State) : Bool := s.fld F.BOOT_STATUS_MODE == 2

/-- Any breakpoint of the pair enabled: it then runs no tines (R290); breakpoints exist in bench mode alone (R288). -/
def State.anyBreak (s : State) (p : Nat) : Bool := s.bench && (List.range 4).any fun k => s.flag (F.BND_BKPT_EN p k)

/-- Stamped writes the queue has accepted for a target swath (R229). The Host Port's queue is listed oldest first. -/
def State.acceptedFor (s : State) (n : Nat) : List (Nat × Word) :=
  ((s.queue.filter fun q => q.target == n).map fun q => (q.index, q.value)).reverse

/-- What a tine assumes of its hot input: the value with bit 0 flipped, or the moved band (R230). -/
def State.assumed (s : State) (p : PairIx) (pr : Prog) (c : Ctx) : Word :=
  match c.hot pr with
  | some h => match h.band with
    | none => (s.seen p pr c h.index).value
    | some t => BitVec.ofNat 32 (s.seenBand p pr c t h.index)
  | none => 0#32

/-- Tines for a swath may still start or end: until its validation begins, when Thresh ends (R231, R236). -/
def State.tinesFor (s : State) (n : Nat) : Bool := n == s.swath + 1 || (n == s.swath && s.pipe.window)

/-- A tine whose validation has begun before it ended (R231). -/
def State.tineLate (s : State) (c : Ctx) : Bool := !s.tinesFor c.swath

/-- The pairs whose commit for the swath before `n` a tine for swath `n` that starts now sees (R229): those that have made it, and once it
has been applied at the boundary of swath `n` every pair, as its copies stand in its entries. -/
def State.pairsBefore (s : State) (n : Nat) : List PairIx :=
  if n == s.swath then allPairs else allPairs.filter fun q => (s.pairs.get q).commit.isSome

/-- Start tine `t` for the swath after the pair's result (R231), if the pair has it. -/
def State.startTine (s : State) (p : PairIx) (t : Nat) : State :=
  let x := s.pairs.get p
  match x.prog with
  | none => s
  | some pr =>
    let n := x.tineFor
    if pr.specLen == 0 || t > pr.hots.length || !s.isArmed || !s.pairsRun || x.blocked.isSome || x.halted || s.anyBreak p.val
        || !s.tinesFor n then s
    else
      let deposited := s.sig.filterMap fun e => match e.2.pend with
        | some d => if e.2.cls == 5 && d.target == n && !d.unstamped then some (e.1, d.value) else none
        | none => none
      let c := { freshCtx (.tine t) n pr 0 x.base.1 x.base.2 with
        hostPred := s.acceptedFor n ++ deposited
        pairsReady := (s.pairsBefore n).map (fun (q : PairIx) => q.val) }
      let c := { c with hotAssumed := s.assumed p pr c }
      (s.updPair p fun x => { x with ctx := some c }).pcPair p.val pcTINESRUN 1

/-! ## The output image (R84, R223, R243-R246) -/

/-- Start tick of the first slot that starts at least 120 ticks after tick `r` of the swath (R223). -/
def slotAfter (r : Nat) : Nat := (r + 120 + 191) / 192 * 192

/-- The command of a channel enters the frames of slots from tick `at` on. -/
def State.stackCmd (s : State) (c : ChIx) (v : Word) (start : Nat) : State :=
  { s with out := s.out.upd c fun o =>
      { value := (match o.next with | some (w, t) => if t ≤ s.tick then w else o.value | none => o.value)
        next := some (v, start) } }

/-- The command a frame that starts at a tick carries. -/
def OutCmd.at (o : OutCmd) (t : Nat) : Word :=
  match o.next with | some (w, st) => if st ≤ t then w else o.value | none => o.value

/-- Place a pair's commands in the output image (R223, R245): EARLY at the first slot after r + 120, FIXED in the
frame that is applied at D_fix. A forced derived signal commands its forced value (R366). `r`: the ready tick after the boundary. -/
def State.stackPair (s : State) (p : PairIx) (pr : Prog) (c : Ctx) (r : Nat) : State :=
  let slot := if pr.fixed then pr.dfix - 192 else slotAfter r
  allCh.foldl (fun s ch =>
    let i := s.fld (F.CH_CMD_SRC_INDEX ch.val)
    if s.flag (F.CH_CMD_SRC_EN ch.val) && (s.entry i).src == srcDerived p.val then
      match s.forces.find? (fun f => f.1 == i), c.writes.find? (fun w => w.index == i) with
      | some f, _ => s.stackCmd ch f.2 (s.btick + slot)
      | none, some w => s.stackCmd ch w.value (s.btick + slot)
      | none, none => s
    else s) s

/-! ## Settling a result (R238, R239, R310) -/

/-- Ticks from r at which the drain has written an emit (R310): 2 units for each store and 16-byte entry before it or its own, 4
for a 32-byte one, 2.5 units a tick, half as many at P3. -/
def State.drainAt (s : State) (c : Ctx) (e : EmitRec) : Nat :=
  let stores := (c.writes.filter fun w => decide (w.ord < e.ord)).length
  let emits := (c.emits.filter fun y => decide (y.ord ≤ e.ord)).foldl (fun n y => n + y.words.length / 2) 0
  let d := (2 * (2 * stores + emits) + 4) / 5
  if s.slowFabric then 2 * d else d

/-- Ticks the whole drain of a commit lasts (R310). -/
def State.drainLasts (s : State) (c : Ctx) : Nat :=
  let d := (2 * (2 * c.writes.length + c.emits.foldl (fun n y => n + y.words.length / 2) 0) + 4) / 5
  if s.slowFabric then 2 * d else d

/-- The commit drain from tick r of the swath on (R308, R310): the pending copies, seen by tines alone before the boundary, and
the Crib entries, each at its tick. -/
def State.drain (s : State) (p : PairIx) (c : Ctx) (r : Nat) : State :=
  let t := s.swath + 1
  let at0 := s.btick + r
  let due := c.emits.map fun e => (at0 + s.drainAt c e, e.crib, e.words)
  let last := at0 + s.drainLasts c
  let s := c.writes.foldl (fun s w => s.updEntry w.index fun e => e.place ⟨w.value, w.qual, t, false, false⟩) s
  s.updPair p fun x => { x with due := due, owed := [], drainEnd := last }

/-- Insert a due entry by its tick, after those of the same tick. -/
def insertEmit (x : Nat × PairIx × Nat × List Word) : List (Nat × PairIx × Nat × List Word) → List (Nat × PairIx × Nat × List Word)
  | [] => [x]
  | y :: ys => if x.1 < y.1 then x :: y :: ys else y :: insertEmit x ys

/-- A Crib entry of a commit finds no place: its fault is held for the boundary (R239, R314); under DROP_NEW and DROP_OLD the swath
has the Crib cause (R253). -/
def State.oweDrop (s : State) (p : PairIx) (c : CribIx) (kind : Nat) : State :=
  let s := (s.addF (F.CRIB_OVF_DROPPED c.val) 1).whenB (kind == kCribDrop) fun s => s.causeNow cCRIB
  s.updPair p fun x => { x with owed := x.owed ++ [(kind, c.val)] }

/-- The drains write the Crib entries due up to a tick, in order (R310, R314). -/
def State.placeDue (s : State) (t : Nat) : State :=
  let now := allPairs.flatMap fun p => ((s.pairs.get p).due.filter fun d => decide (d.1 ≤ t)).map fun d => (d.1, p, d.2)
  if now.isEmpty then s
  else
    let s := allPairs.foldl (fun (s : State) p => s.updPair p fun x => { x with due := x.due.filter fun d => !decide (d.1 ≤ t) }) s
    (now.foldl (fun acc x => insertEmit x acc) []).foldl (fun s x => if h : x.2.2.1 < 32 then
      let k : CribIx := ⟨x.2.2.1, h⟩
      s.placeEntry k x.2.1.val x.2.2.2 (fun s => s.oweDrop x.2.1 k kCribDrop) (fun s => s.oweDrop x.2.1 k kCribOverflow)
      else s) s

/-- Take a producer's unpublished entries of a Crib back (R313): those of other producers close up behind PROD. -/
def State.dropTag (s : State) (c : CribIx) (tag : Nat) : State :=
  let all := (s.cribs.get c).written
  let rest := all.filter fun e => e.1 != tag
  if rest == all then s
  else ((s.layEntries c (s.prod c.val) rest).updCrib c fun x => { x with written := rest }).syncCrib c

/-- Take a pair's unpublished Crib entries back, and those its drain still owes (R313). -/
def State.dropEmits (s : State) (p : PairIx) : State :=
  let t := s.tick
  let s := s.updPair p fun x => { x with due := [], owed := [], drainEnd := min x.drainEnd t }
  allCribs.foldl (fun (s : State) c => s.dropTag c p.val) s

/-- The drains up to a tick. The entries a blocked pair's drain had still to write when it was blocked take and free their places
first (R286, R314). -/
def State.drainTo (s : State) (t : Nat) : State :=
  (allPairs.foldl (fun (s : State) p => match (s.pairs.get p).blocked with
    | some b => if b ≤ t && !(s.pairs.get p).due.isEmpty then (s.placeDue b).dropEmits p else s
    | none => s) s).placeDue t

/-- The Crib faults of a commit are raised with it: CRIB_DROP once per Crib and swath (R239, R314, R322). -/
def State.payOwed (s : State) (p : PairIx) : State :=
  let owed := (s.pairs.get p).owed
  let s := s.updPair p fun x => { x with owed := [] }
  owed.foldl (fun (s : State) (o : Nat × Nat) => if h : o.2 < 32 then
    let k : CribIx := ⟨o.2, h⟩
    if o.1 == kCribOverflow then s.raise srcCRIB kCribOverflow (faultAddr 63 k.val)
    else s.raiseOnce srcCRIB kCribDrop (faultAddr 63 k.val)
    else s) s

/-- PIPE_PAIR_LAST and PIPE_PAIR_SWATH (spec/07). -/
def State.pairLast (s : State) (p : PairIx) (outcome tine ready : Nat) : State :=
  let s := s.setF (F.PIPE_PAIR_LAST_OUTCOME p.val) outcome
  let s := s.setF (F.PIPE_PAIR_LAST_TINE p.val) tine
  let s := s.setF (F.PIPE_PAIR_LAST_READY p.val) ready
  s.setReg (Reg.PIPE_PAIR_SWATH p.val) s.swath32

/-- The pair's result is ready at tick r of the swath (R223): commands to Stack, the drain, tine 0 of the next swath (R231). -/
def State.settle (s : State) (p : PairIx) (pr : Prog) (c : Ctx) (outcome tine r : Nat) : State :=
  let s := s.elapse (s.btick + r)
  let s := s.pairLast p outcome tine r
  let s := if outcome == 1 then s.addF (F.PIPE_PAIR_CNT_HITS p.val) 1 else s
  let s := (s.stackPair p pr c r).drain p c r
  let t := s.btick + r
  let n := s.swath + 1
  (s.updPair p fun x => { x with
    ctx := none, tines := [], commit := some c, done := true, outcome := outcome, tine := tine
    began := t, tineFor := n }).startTine p 0

/-! ## Validation (R236, R237) -/

/-- Does a read-set record hold in the real input image of the swath (R237)? -/
def State.recordHolds (s : State) (pr : Prog) (r : ReadRec) : Bool :=
  let e := s.readEntry r.index
  match r.aspect with
  | .state b => wbit e.value 0 == b
  | .qual w => e.word1 == w
  | .value w => e.value == w
  | .band t n => bandIndex (pr.bands.getD t []) e.value.toInt == n

/-- The aspect tine t assumed of its hot input holds in the real image, whether or not it read it (R237 point 3):
the state bit the opposite of the prediction, the band the moved one. -/
def State.hotHolds (s : State) (pr : Prog) (c : Ctx) : Bool :=
  match c.hot pr with
  | none => true
  | some h =>
    let real := s.readEntry h.index
    match h.band with
    | none => wbit real.value 0 == wbit c.hotAssumed 0
    | some t => bandIndex (pr.bands.getD t []) real.value.toInt == c.hotAssumed.toNat

/-- Tine c matches the swath under way (R237). -/
def State.tineMatches (s : State) (pr : Prog) (c : Ctx) : Bool :=
  c.ended && !c.aborted && c.swath == s.swath && s.hotHolds pr c && c.reads.all (fun r => s.recordHolds pr r)

/-- The lowest-numbered matching tine. -/
def State.bestTine (s : State) (pr : Prog) (cs : List Ctx) : Option Ctx :=
  ((List.range 8).filterMap fun t => cs.find? fun c => c.tineNo == t && s.tineMatches pr c).head?

/-- Note the bands of the hot inputs of a pair in the real image, for the direction of the next move (R230). -/
def State.noteBands (s : State) (p : PairIx) (pr : Prog) : State :=
  let upd (old : List (Nat × Nat × Bool)) (h : HotInput) : List (Nat × Nat × Bool) :=
    match h.band with
    | none => old
    | some t =>
      let b := bandIndex (pr.bands.getD t []) (s.readEntry h.index).value.toInt
      match old.find? (fun x => x.1 == h.index) with
      | none => (h.index, b, true) :: old
      | some (_, b0, up) =>
        (h.index, b, if b0 < b then true else if b < b0 then false else up) :: old.filter fun x => x.1 != h.index
  let bs := pr.hots.foldl upd (s.pairs.get p).bands
  s.updPair p fun x => { x with bands := bs }

/-- As Thresh ends in a swath since the arming every pair notes them, whether or not it validates (R230). -/
def State.noteAllBands (s : State) : State :=
  if !s.isArmed then s
  else allPairs.foldl (fun (s : State) p => match (s.pairs.get p).prog with | some pr => s.noteBands p pr | none => s) s

/-- The pair evaluates swath m on real inputs from tick r on: all sheaves, from its commit for swath m-1 (R238). -/
def State.startReal (s : State) (p : PairIx) (pr : Prog) (outcome r : Nat) : State :=
  let s := if outcome != 3 then s.addF (F.PIPE_PAIR_CNT_MISSES p.val) 1 else s
  let x := s.pairs.get p
  let c := freshCtx .real s.swath pr 0 x.dmem x.timers
  let t := s.btick + r
  s.updPair p fun x => { x with ctx := some c, tines := [], outcome := outcome, tine := 15, judged := true, began := t }

/-- May a pair validate: armed and running (R518), with a program, neither blocked nor halted, Thresh ended, not yet judged (R236)? -/
def State.mayValidate (s : State) (p : PairIx) : Bool :=
  let x := s.pairs.get p
  s.isArmed && s.pairsRun && x.prog.isSome && x.blocked.isNone && !x.halted && !s.pipe.window && !x.judged

/-- Count the waiting of a pair as FRONT (R533). -/
def State.frontSlots (s : State) (p : PairIx) (n : Nat) : State :=
  if s.pcFrozen then s
  else (s.pcTake p.val pcFRONT n).updPair p fun x => { x with spent := x.spent + n }

/-- Single-bit errors of the pair's memories, corrected and counted (R287). -/
def State.memCorr (s : State) (p : PairIx) (x : Slots) : State := s.addF (F.BND_COUNTS_ECC_CORR p.val) x.corr

/-- The tines at hand when validation begins: the ended ones, and the cut off one with its cycles so far. -/
def State.tinesAtHand (s : State) (p : PairIx) (cut : Slots) : List Ctx :=
  let x := s.pairs.get p
  match x.ctx with
  | some c => if c.isTine then x.tines ++ [{ c with aborted := true, slots := s.slotsNow cut x.began }] else x.tines
  | none => x.tines

/-- The entries the live tines of a pair have read, with their words in the input image of the swath that ends: they are watched
(R236; what they read later is not: DEDUCED, log entry 51). -/
def State.watched (s : State) (p : PairIx) : List (Nat × Word × Word) :=
  let x := s.pairs.get p
  let live := (x.tines ++ (match x.ctx with | some c => if c.isTine then [c] else [] | none => [])).filter fun c => !c.aborted
  let is := (live.flatMap fun c => c.reads.map fun r => r.index).eraseDups
  is.map fun i => let e := s.readEntry i; (i, e.value, e.word1)

/-- W: watched entries whose value or quality word has changed (R236). -/
def State.watchedChanges (s : State) (p : PairIx) : Nat :=
  ((s.pairs.get p).watch.filter fun w => let e := s.readEntry w.1; e.value != w.2.1 || e.word1 != w.2.2).length

/-- Ticks validation lasts: max(120, ⌈W/4⌉) fabric clocks of 240 MHz, 120 MHz at P3 and in Hibernate (R224, R236, R519). -/
def State.validationTicks (s : State) (p : PairIx) : Nat :=
  let clocks := max 120 ((s.watchedChanges p + 3) / 4)
  if s.slowFabric then (2 * clocks + 4) / 5 else (clocks + 4) / 5

/-- The tick of the swath at which validation ends (R236). -/
def State.validationAt (s : State) (p : PairIx) : Nat := s.pipe.threshEnd + s.validationTicks p

/-- Validation is over at tick r: cycles waited, those of a tine cut off, and the tines that ended (R233). -/
def State.judged (s : State) (p : PairIx) (pr : Prog) (front : Nat) (cut : Slots) (r : Nat) : State :=
  let n := ((s.pairs.get p).tines.filter fun c => c.ended || c.aborted).length
  let here := s.slotsHere cut (s.pairs.get p).began
  let s := s.elapse (s.btick + r)
  let s := ((s.frontSlots p front).memCorr p cut).updPair p fun x => { x with spent := x.spent + here, watch := [] }
  s.setF (F.PIPE_PAIR_LAST_TINES_DONE p.val) n

/-- VALIDATION_END: validation of a pair ends (R237): the lowest matching tine is committed, its cycles counted with it (R534), or
continued by the post part, or all sheaves are evaluated on real inputs. `front` counts the cycles waited, `cut` those of a tine cut off. A pair with
a breakpoint enabled has no tines (R290). -/
def execValidationEnd (p : PairIx) (front : Nat) (cut : Slots) (s : State) : Host.Outcome State Fault Refusal :=
  .next <|
    match (s.pairs.get p).prog with
    | none => s
    | some pr =>
      let r := s.validationAt p
      if !s.mayValidate p || decide (960 < r) then s
      else
        let cs := s.tinesAtHand p cut
        let s := s.judged p pr front cut r
        if pr.specLen == 0 then s.startReal p pr 3 r
        else if s.pipe.recfg then (s.chaffTines p cs).startReal p pr 6 r
        else if s.anyBreak p.val then (s.chaffTines p cs).startReal p pr 2 r
        else match s.bestTine pr cs with
          | none => (s.chaffTines p cs).startReal p pr 2 r
          | some c =>
            let s := s.chaffTines p (cs.filter fun d => d.tineNo != c.tineNo)
            let t := s.btick + r
            let s := s.updPair p fun x => { x with judged := true, outcome := 1, tine := c.tineNo, began := t }
            if pr.specLen < pr.starts.length then
              let post := { c with kind := .post, ended := false, sheaf := pr.specLen,
                                   pc := pr.starts.getD pr.specLen 0, calls := [], loops := [], sheafReads := 0 }
              s.updPair p fun x => { x with ctx := some post, tines := [] }
            else (s.pcCommitted p.val c.slots false).settle p pr { c with slots := {} } 1 c.tineNo r

/-- VALIDATION_ABANDON: validation that would end after tick 960 is abandoned there: all tines become chaff, real evaluation
(R236). -/
def execValidationAbandon (p : PairIx) (front : Nat) (cut : Slots) (s : State) : Host.Outcome State Fault Refusal :=
  .next <|
    match (s.pairs.get p).prog with
    | none => s
    | some pr =>
      if !s.mayValidate p || decide (s.validationAt p ≤ 960) then s
      else
        let cs := s.tinesAtHand p cut
        let s := s.judged p pr front cut 960
        (s.chaffTines p cs).startReal p pr (if pr.specLen == 0 then 3 else 5) 960

/-- TINE_END: the tine under way ends, or was aborted, after its cycles, and the next one starts (R231, R233); a tine that lasts
into the validation of its swath, or beyond the boundary that has not come, does not end here. -/
def execTineEnd (p : PairIx) (x : Slots) (s : State) : Host.Outcome State Fault Refusal :=
  .next <|
    match (s.pairs.get p).ctx with
    | none => s
    | some c =>
      let t := (s.pairs.get p).began + cycTicks x.total s.pipe.level
      let limit := if c.swath == s.swath then s.btick + s.threshTicks else s.btick + s.swLen - 1
      if c.isTine && (c.ended || c.aborted) && !s.tineLate c && decide (t ≤ limit) then
        let began := (s.pairs.get p).began
        let s := (s.elapse t).memCorr p x
        let c := { c with slots := s.slotsNow x began }
        let here := s.slotsHere x began
        (s.updPair p fun y => { y with
          ctx := none, tines := y.tines ++ [c], spent := y.spent + here, began := t }).startTine p (c.tineNo + 1)
      else s

/-- The budget of a pair runs out (R241, R255): at its tick nothing is committed, the channels keep their commands, the swath is
suspended, run-ahead starts from the commit of the swath before. -/
def State.overrun (s : State) (p : PairIx) (x : Slots) (sheaf : Nat) : State :=
  let t := (s.pairs.get p).began + cycTicks s.pipe.budget s.pipe.level
  let n := s.swath + 1
  let s := (s.elapse t).memCorr p x
  let s := (s.pairLast p 4 15 0xFFFFF).causeNow cOVERRUN
  let s := s.cutWork p (if s.pipe.budget < x.total then { issue := s.pipe.budget } else x)
  let s := s.updPair p fun y => { y with
    ctx := none, tines := [], commit := none, done := true, outcome := 4, tine := 15
    began := t, tineFor := n, discarded := true }
  let s := s.raise (srcBND p.val) kBudgetOverrun (faultAddr 63 (min sheaf 63))
  s.startTine p 0

/-- A real evaluation or a post part is under way in a pair whose pairs run, not halted (R259, R289). -/
def State.evaluating (s : State) (p : PairIx) (c : Ctx) : Bool :=
  !c.isTine && !(s.pairs.get p).halted && s.isArmed && s.pairsRun && c.swath == s.swath

/-- REAL_EVALUATION_END: a real evaluation or a post part ends and the pair's result is ready after its cycles (R223, R238); above
the budget it has run out instead (R240, R241). -/
def execRealEvaluationEnd (p : PairIx) (x : Slots) (s : State) : Host.Outcome State Fault Refusal :=
  .next <|
    let y := s.pairs.get p
    match y.prog, y.ctx with
    | some pr, some c =>
      if !s.evaluating p c || !c.ended then s
      else if s.pipe.budget < x.total then s.overrun p x c.sheaf
      else
        let s := (s.setF (F.BND_LAST_CYC_CYCLES p.val) x.total).memCorr p x
        let s := s.maxF (F.BND_MAX_CYC_CYCLES p.val) x.total
        let sum := c.slots.plus (s.slotsNow x y.began)
        let s := s.updPair p fun z => { z with spent := z.spent + x.total }
        s.settle p pr { c with slots := sum } y.outcome y.tine (y.began - s.btick + cycTicks x.total s.pipe.level)
    | _, _ => s

/-- BUDGET_OVERRUN: the evaluation budget runs out (R240, R241): the cycles of the evaluation under way have reached it. -/
def execBudgetOverrun (p : PairIx) (x : Slots) (s : State) : Host.Outcome State Fault Refusal :=
  .next <|
    match (s.pairs.get p).ctx with
    | none => s
    | some c => s.whenB (s.evaluating p c && (decide (s.pipe.budget < x.total) || (!c.ended && s.pipe.budget == x.total)))
        fun s => s.overrun p x c.sheaf

/-- At the end of the swath every evaluation is over (R242): one whose program has ended is ready, one that goes on has run out
of its budget (DESIGN CHOICE, log entry 50). -/
def State.endEvaluation (s : State) (p : PairIx) : State :=
  let y := s.pairs.get p
  match y.prog, y.ctx with
  | some pr, some c =>
    if !s.evaluating p c then s
    else if c.ended then s.settle p pr c y.outcome y.tine (y.began - s.btick)
    else s.overrun p { issue := s.pipe.budget } c.sheaf
  | _, _ => s

/-! ## Blocks (R285-R287) -/

/-- Block a pair (R286): commits not yet applied are discarded with its tines, what their drain has written by now included (a write
that is due and not yet made is taken back as soon as it is made), it evaluates nothing more, and its channels get SAFE from the first
slot at least 120 ticks after this tick. -/
def State.blockPair (s : State) (p : PairIx) (cause pc : Nat) (x : Slots) : State :=
  let now := s.tick
  let y := s.pairs.get p
  let s := s.memCorr p x
  let s := s.setF (F.BND_FAULT_CAUSE p.val) cause
  let s := s.setF (F.BND_FAULT_PC p.val) pc
  let s := ((s.setF (F.BND_STATUS_STATE p.val) 2).setB (F.BND_STATUS_AT_BKPT p.val) false).setF (F.BND_STATUS_PC p.val) 0
  let held := match y.commit with | some c => c.slots.total | none => 0
  let s := (s.cutWork p (if y.halted then {} else x)).pcTake p.val pcDISCARD held
  let due := y.due.filter fun d => decide (d.1 ≤ now)
  let s := s.dropPair p.val
  let s := if due.isEmpty then s.dropEmits p else s
  s.updPair p fun z =>
    { z with due := due, ctx := none, tines := [], commit := none, halted := false, blocked := some s.tick, discarded := s.isArmed && !y.halted }

/-- A mismatch of the engines (R286): the pair is blocked and LOCKSTEP raised. -/
def State.lockstepFault (s : State) (p : PairIx) (cause pc sheaf : Nat) (x : Slots) : State :=
  (s.blockPair p cause pc x).raise (srcBND p.val) kLockstep (faultAddr cause (min sheaf 63))

/-- LOCKSTEP: an upset of an engine has made a comparison of R285 fail in the work under way (R286). `cause` as BND_FAULT.CAUSE, 1
to 6; `pc` the mismatched instruction, `sheaf` its sheaf. Where the budget has run out in the same cycle, BUDGET_OVERRUN is raised
as well (R291). -/
def execLockstep (p : PairIx) (cause pc sheaf : Nat) (x : Slots) (s : State) : Host.Outcome State Fault Refusal :=
  .next <|
    match (s.pairs.get p).ctx with
    | none => s
    | some c =>
      if (s.pairs.get p).blocked.isSome || cause == 0 || decide (6 < cause) then s
      else
        let spent := s.evaluating p c && !c.ended && s.pipe.budget == x.total
        let s := s.lockstepFault p cause pc sheaf x
        s.whenB spent fun s =>
          ((s.pairLast p 4 15 0xFFFFF).causeNow cOVERRUN).raise (srcBND p.val) kBudgetOverrun (faultAddr 63 (min sheaf 63))

/-- BINDER_FAULT: an uncorrectable error in a word of program (8) or data memory (9) that is read, or a reserved or privileged
opcode that the evaluation under way executes (10) (R287). -/
def execBinderFault (p : PairIx) (cause pc sheaf : Nat) (x : Slots) (s : State) : Host.Outcome State Fault Refusal :=
  .next <|
    let run := (s.pairs.get p).ctx.isSome
    if (s.pairs.get p).blocked.isSome || !(cause == 8 || cause == 9 || (cause == 10 && run)) then s
    else (s.blockPair p cause pc x).raise (srcBND p.val) kBinderFault (faultAddr cause (min sheaf 63))

/-! ## Roll-call (R480-R482) -/

/-- The bits set in a bitmap, ascending. -/
def bitsSet (w : Word) : List Nat := (List.range 32).filter fun t => w.getLsbD t

/-- A roll-call message: lowest task in [11:6], number of tasks in [17:12] (R481). -/
def State.rollFault (s : State) (p kind : Nat) (w : Word) : State :=
  match bitsSet w with
  | [] => s
  | t :: ts => s.raiseOnce (srcBND p) kind (faultAddr (ts.length + 1) t)

/-- Judge the roll-call of a pair at B(m+1) from the check-ins delivered (R480, R481). -/
def State.rollCall (s : State) (p : PairIx) (checkins dups : Word) : State :=
  let miss := (s.reg (Reg.BND_TASKS p.val)) &&& ~~~checkins
  let s := (s.setReg (Reg.RC_LAST p.val) checkins).setF (F.RC_STATE_STATE p.val) 1
  let s := (s.orF (F.RC_MISS_ALL p.val) miss.toNat).orF (F.RC_DUP_ALL p.val) dups.toNat
  let s := if miss != 0#32 then s.addF (F.RC_STATE_MISSED p.val) 1 else s
  (s.rollFault p.val kRollMiss miss).rollFault p.val kRollDup dups

/-- Freeze the roll-call of a pair (R482). -/
def State.freezeRoll (s : State) (p : PairIx) : State := s.setF (F.RC_STATE_STATE p.val) 2

/-- The roll-call of a pair for the swath that ended (R480, R482): judged while the device was armed as the swath ended (`armed`) and
from the arming swath on; a discarded commit delivers no check-ins, whatever its fault led to (R483); a blocked pair is then frozen,
a halted pair and a device whose pairs do not run as well (R518). -/
def State.judgeRoll (s : State) (p : PairIx) (armed : Bool) (checkins dups : Word) : State :=
  let x := s.pairs.get p
  if x.prog.isNone then s.setF (F.RC_STATE_STATE p.val) 0
  else if x.discarded then
    let s := (s.rollCall p 0#32 0#32).updPair p fun y => { y with discarded := false }
    if x.blocked.isSome then s.freezeRoll p else s
  else if x.blocked.isSome then s.freezeRoll p
  else if !armed then s.setF (F.RC_STATE_STATE p.val) 0
  else if x.halted || !s.pairsRun then s.freezeRoll p
  else match x.judgeFrom with
    | some a => if a < s.swath then s.rollCall p checkins dups else s
    | none => s

/-! ## Applying a commit at B(m+1) (R239, R309, R313) -/

/-- Does the commit of a swath follow a miss, an abandoned validation or a reconfiguration (R535)? -/
def isReeval (outcome : Nat) : Bool := outcome == 2 || outcome == 5 || outcome == 6

/-- Step 7 of R22 for one pair: copies confirmed, Crib entries published, timers and data memory taken over, check-ins
delivered, held faults raised; then the roll-call; in SAFE and HALTED nothing goes on (R259). `late`: the swath that ended is
suspended (R48); `armed`: the device was armed as it ended. -/
def State.applyCommit (s : State) (p : PairIx) (late armed : Bool) : State :=
  let x := s.pairs.get p
  let s := match x.commit with
    | none => s.judgeRoll p armed 0#32 0#32
    | some c =>
      let s := (s.confirmPair p.val late).payOwed p
      let s := allCribs.foldl (fun (s : State) k => s.publish k p.val) s
      let s := s.updPair p fun y => { y with dmem := c.dmem, timers := c.timers, commit := none }
      let s := s.pcCommitted p.val c.slots (isReeval x.outcome)
      let s := s.addF (F.BND_COUNTS_DSC_LATCH p.val) c.dscLatches
      let s := s.addF (F.BND_COUNTS_SIG_OWNER p.val) (c.faults.filter fun (f : Nat × Nat) => f.1 == kSigOwner).length
      let s := c.faults.foldl (fun (s : State) (f : Nat × Nat) => s.raise (srcBND p.val) f.1 f.2) s
      s.judgeRoll p armed c.checkins c.dups
  let stop := !s.isArmed
  let s := s.whenB (stop && !x.halted) fun s => s.cutWork p (s.slotsSoFar p)
  s.updPair p fun y => { y with
    judged := false, done := false, outcome := 0, tine := 15
    ctx := if stop && !y.halted then none else y.ctx, tines := if stop then [] else y.tines }

/-- An entry, and the pending copy that is to stand in its place, with STALE. -/
def Entry.stale (e : Entry) : Entry :=
  { e with
    qual := withBits e.qual (qb qSTALE true)
    pend := e.pend.map fun d => { d with qual := withBits d.qual (qb qSTALE true) } }

/-- From the boundary after a block the derived entries of the pair keep their values and carry STALE (R286). -/
def State.staleDerived (s : State) (p : PairIx) : State :=
  if (s.pairs.get p).blocked.isNone then s
  else { s with sig := s.sig.map fun x => if x.2.src == srcDerived p.val then (x.1, x.2.stale) else x }

/-! ## Bench-mode debug (R288-R290) -/

/-- A debug write outside bench mode: dropped, HALT_REFUSED raised (R288). -/
def State.haltRefused (s : State) (p : PairIx) : State := s.raise (srcBND p.val) kHaltRefused (faultAddr 63 63)

/-- BND_HALT: debug key 0x48 halts the pair at the next boundary (R289). -/
def execBndHalt (p : PairIx) (s : State) : Host.Outcome State Fault Refusal :=
  s.hostKey fun s =>
    if !s.bench then s.haltRefused p
    else (s.updPair p fun x => { x with debugReq := some true }).unstamped

/-- BND_RESUME: key 0x52 resumes a halted pair at the next boundary; dropped while the pair is not halted (R289, R291). -/
def execBndResume (p : PairIx) (s : State) : Host.Outcome State Fault Refusal :=
  s.hostKey fun s =>
    if !s.bench then s.haltRefused p
    else if !(s.pairs.get p).halted then s
    else (s.updPair p fun x => { x with debugReq := some false }).unstamped

/-- Show the PC of a halted pair (BND_STATUS). -/
def State.showPc (s : State) (p : PairIx) : State :=
  match (s.pairs.get p).ctx with
  | some c => s.setF (F.BND_STATUS_PC p.val) c.pc
  | none => s

/-- Halt a pair now, keeping or starting the halted evaluation (R289, R290). Its cycles so far are counted: its tines are chaff, the
evaluation is cut off, and the others of the swath are idle (R533; log entry 83). -/
def State.haltNow (s : State) (p : PairIx) (bkpt : Bool) : State :=
  let x := s.pairs.get p
  match x.prog with
  | none => s
  | some pr =>
    let c := match x.ctx with
      | some c => if c.isTine then freshCtx .real s.swath pr 0 x.dmem x.timers else c
      | none => freshCtx .real s.swath pr 0 x.dmem x.timers
    let s := s.cutWork p (s.slotsSoFar p)
    let s := s.updPair p fun x => { x with ctx := none }
    let s := s.pcIdle p s.inSwath
    let s := s.updPair p fun x => { x with halted := true, ctx := some { c with slots := {} }, tines := [], debugReq := none }
    let s := s.setF (F.BND_STATUS_STATE p.val) 3
    let s := s.setB (F.BND_STATUS_AT_BKPT p.val) bkpt
    (s.showPc p).freezeRoll p

/-- At a boundary the waiting debug key takes effect (R289): a halt keeps the commands of the last commit; a resume
discards the stepped effects and the pair evaluates the swath on real inputs without tines. -/
def State.applyDebug (s : State) (p : PairIx) : State :=
  let x := s.pairs.get p
  if x.blocked.isSome then s.updPair p fun x => { x with debugReq := none }
  else match x.debugReq with
  | some true => if x.halted then s.updPair p fun x => { x with debugReq := none } else s.haltNow p false
  | some false =>
    let s := s.updPair p fun x =>
      { x with halted := false, ctx := none, tines := [], debugReq := none, judgeFrom := some s.swath }
    ((s.setF (F.BND_STATUS_STATE p.val) (if s.isArmed then 1 else 0)).setB (F.BND_STATUS_AT_BKPT p.val) false).setF
      (F.BND_STATUS_PC p.val) 0
  | none => s

/-- BND_STEP: key 0x53 executes one instruction of a halted pair in both engines; loads read the table as it stands
(R290). A word that spells no instruction is a BINDER_FAULT (R287). -/
def execBndStep (p : PairIx) (s : State) : Host.Outcome State Fault Refusal :=
  s.hostKey fun s =>
    if !s.bench then s.haltRefused p
    else
      let x := s.pairs.get p
      match x.prog, x.ctx with
      | some pr, some c =>
        if !x.halted || c.ended then s
        else match decodeBinder (pr.code.getD c.pc 0#32) with
          | none => (s.blockPair p 10 c.pc {}).raise (srcBND p.val) kBinderFault (faultAddr 10 (min c.sheaf 63))
          | some op =>
            let c := { c with swath := s.swath }
            match c.lockstep op (runOp s p pr op) with
            | .ok c' => (s.updPair p fun x => { x with ctx := some c' }).showPc p
            | .error k => s.lockstepFault p k c.pc c.sheaf {}
      | _, _ => s

/-- A real evaluation or post part stands at an enabled breakpoint (R290). -/
def State.atBreak (s : State) (p : PairIx) (c : Ctx) : Bool :=
  s.bench && !c.isTine && (List.range 4).any fun k => s.flag (F.BND_BKPT_EN p.val k) && s.fld (F.BND_BKPT_ADDR p.val k) == c.pc

/-- BREAKPOINT_HIT: a real evaluation or post part reaches an enabled breakpoint address and the pair halts before
executing it; nothing of the swath is committed (R290). -/
def execBreakpointHit (p : PairIx) (s : State) : Host.Outcome State Fault Refusal :=
  .next <|
    match (s.pairs.get p).ctx with
    | some c => s.whenB (s.evaluating p c && !c.ended && s.atBreak p c) fun s => s.haltNow p true
    | none => s

/-! ## The read windows of a pair (spec/08, Registers) -/

/-- Word 0 of a timer as BND_TMR_STATE shows it. -/
def Timer.word (t : Timer) : Word :=
  BitVec.ofNat 32 (b2n t.active * 2 ^ 31 + b2n t.q * 2 ^ 30 + b2n t.prev * 2 ^ 29 + b2n t.latched * 2 ^ 28 + t.kind % 8 * 2 ^ 25)

/-- The registers of a pair that show its memories, and its engine while it is halted: host address and value. -/
def State.pairWindows (s : State) (p : PairIx) : List (Nat × Word) :=
  let x := s.pairs.get p
  let i := p.val
  let t := Sparse.get (fun _ => ({} : Timer)) x.timers (wbits (s.reg (Reg.BND_TMR_ADDR i)) 9 0)
  let code := match x.prog with | some pr => pr.code.getD (wbits (s.reg (Reg.BND_PMEM_ADDR i)) 13 0) 0#32 | none => 0#32
  let dbg := match x.halted, x.ctx with
    | true, some c => (Reg.BND_DBG_FLAGS i, BitVec.ofNat 32 (8 * b2n c.sat + 4 * b2n c.lu + 2 * b2n c.lt + b2n c.ze))
        :: (List.finRange 16).map fun k => (Reg.BND_DBG_W i k.val, c.regs.get k)
    | _, _ => []
  [(Reg.BND_PMEM_DATA i, code),
    (Reg.BND_DMEM_DATA i, Sparse.get (fun _ => 0#32) x.dmem (wbits (s.reg (Reg.BND_DMEM_ADDR i)) 11 0)),
    (Reg.BND_TMR_STATE i, t.word), (Reg.BND_TMR_START i, t.start)] ++ dbg

end Sys2Proof.Machine
end

