-- ==== Sys2Proof/Machine/BinderCommands.lean ====
section
/-!
DEFINITION. Machine/BinderCommands.lean: the Binder instructions as commands. A command names the pair; the instruction acts on
the evaluation under way in that pair, in both engines, and does nothing where none is under way (R256, R259, R285, R290).
-/
namespace Sys2Proof.Machine

/-- May the evaluation under way in a pair go on: the pairs run (R259, R518), the pair is neither blocked nor halted, the
evaluation has neither ended nor been aborted, and a tine is not yet discarded (R231, R290)? -/
def State.evaluates (s : State) (p : PairIx) (c : Ctx) : Bool :=
  let x := s.pairs.get p
  s.isArmed && s.pairsRun && x.blocked.isNone && !x.halted && !c.ended && !c.aborted
    && !(c.isTine && (s.anyBreak p.val || s.tineLate c))

/-- Let an instruction act on the evaluation under way in a pair, in both engines, which are compared (R256, R285); a real
evaluation or post part at an enabled breakpoint halts instead (R290). -/
def State.onEngine (s : State) (p : PairIx) (op : BinderOp) : State :=
  let x := s.pairs.get p
  match x.prog, x.ctx with
  | some pr, some c =>
    if !s.evaluates p c then s
    else if s.atBreak p c then s.haltNow p true
    else match c.lockstep op (runOp s p pr op) with
      | .ok c' => s.updPair p fun x => { x with ctx := some c' }
      | .error k => s.lockstepFault p k c.pc c.sheaf (s.slotsSoFar p)
  | _, _ => s

/-! ## The commands -/

/-- END in pair p. -/
def execBEnd (p : PairIx) (s : State) : Host.Outcome State Fault Refusal :=
  .next (s.onEngine p .opEnd)

/-- NOP in pair p. -/
def execBNop (p : PairIx) (s : State) : Host.Outcome State Fault Refusal :=
  .next (s.onEngine p .opNop)

/-- MOVI in pair p. -/
def execBMovi (p : PairIx) (d : RegIx) (imm : BitVec 18) (s : State) : Host.Outcome State Fault Refusal :=
  .next (s.onEngine p (.opMovi d imm))

/-- MOVH in pair p. -/
def execBMovh (p : PairIx) (d : RegIx) (imm : BitVec 16) (s : State) : Host.Outcome State Fault Refusal :=
  .next (s.onEngine p (.opMovh d imm))

/-- ALU in pair p. -/
def execBAlu (p : PairIx) (d a b : RegIx) (f : BitVec 4) (s : State) : Host.Outcome State Fault Refusal :=
  .next (s.onEngine p (.opAlu d a b f))

/-- ALUI in pair p. -/
def execBAlui (p : PairIx) (d a : RegIx) (f : BitVec 4) (imm : BitVec 14) (s : State) : Host.Outcome State Fault Refusal :=
  .next (s.onEngine p (.opAlui d a f imm))

/-- CMP in pair p. -/
def execBCmp (p : PairIx) (a b : RegIx) (s : State) : Host.Outcome State Fault Refusal :=
  .next (s.onEngine p (.opCmp a b))

/-- CMPI in pair p. -/
def execBCmpi (p : PairIx) (a : RegIx) (imm : BitVec 18) (s : State) : Host.Outcome State Fault Refusal :=
  .next (s.onEngine p (.opCmpi a imm))

/-- SEL in pair p. -/
def execBSel (p : PairIx) (d a b : RegIx) (k : BitVec 4) (s : State) : Host.Outcome State Fault Refusal :=
  .next (s.onEngine p (.opSel d a b k))

/-- SETC in pair p. -/
def execBSetc (p : PairIx) (d : RegIx) (k : BitVec 4) (s : State) : Host.Outcome State Fault Refusal :=
  .next (s.onEngine p (.opSetc d k))

/-- RDS in pair p. -/
def execBRds (p : PairIx) (d : RegIx) (sel : BitVec 4) (s : State) : Host.Outcome State Fault Refusal :=
  .next (s.onEngine p (.opRds d sel))

/-- LDS in pair p. -/
def execBLds (p : PairIx) (d a : RegIx) (x : BitVec 1) (idx : BitVec 17) (s : State) : Host.Outcome State Fault Refusal :=
  .next (s.onEngine p (.opLds d a x idx))

/-- LDQ in pair p. -/
def execBLdq (p : PairIx) (d a : RegIx) (x : BitVec 1) (idx : BitVec 17) (s : State) : Host.Outcome State Fault Refusal :=
  .next (s.onEngine p (.opLdq d a x idx))

/-- LDV in pair p. -/
def execBLdv (p : PairIx) (d : RegIx) (idx : BitVec 17) (s : State) : Host.Outcome State Fault Refusal :=
  .next (s.onEngine p (.opLdv d idx))

/-- LDW in pair p. -/
def execBLdw (p : PairIx) (d : RegIx) (w : BitVec 3) (idx : BitVec 17) (s : State) : Host.Outcome State Fault Refusal :=
  .next (s.onEngine p (.opLdw d w idx))

/-- LDB in pair p. -/
def execBLdb (p : PairIx) (d : RegIx) (t : BitVec 5) (idx : BitVec 17) (s : State) : Host.Outcome State Fault Refusal :=
  .next (s.onEngine p (.opLdb d t idx))

/-- LDK in pair p. -/
def execBLdk (p : PairIx) (d : RegIx) (ch : BitVec 5) (f : BitVec 6) (s : State) : Host.Outcome State Fault Refusal :=
  .next (s.onEngine p (.opLdk d ch f))

/-- STS in pair p. -/
def execBSts (p : PairIx) (r q : RegIx) (qe : BitVec 1) (idx : BitVec 17) (s : State) : Host.Outcome State Fault Refusal :=
  .next (s.onEngine p (.opSts r q qe idx))

/-- STSX in pair p. -/
def execBStsx (p : PairIx) (r a q : RegIx) (qe : BitVec 1) (off : BitVec 13) (s : State) : Host.Outcome State Fault Refusal :=
  .next (s.onEngine p (.opStsx r a q qe off))

/-- LDD in pair p. -/
def execBLdd (p : PairIx) (d a : RegIx) (x : BitVec 1) (off : BitVec 12) (s : State) : Host.Outcome State Fault Refusal :=
  .next (s.onEngine p (.opLdd d a x off))

/-- STD in pair p. -/
def execBStd (p : PairIx) (r a : RegIx) (x : BitVec 1) (off : BitVec 12) (s : State) : Host.Outcome State Fault Refusal :=
  .next (s.onEngine p (.opStd r a x off))

/-- BR in pair p. -/
def execBBr (p : PairIx) (k : BitVec 4) (off : BitVec 14) (s : State) : Host.Outcome State Fault Refusal :=
  .next (s.onEngine p (.opBr k off))

/-- CALL in pair p. -/
def execBCall (p : PairIx) (t : BitVec 14) (s : State) : Host.Outcome State Fault Refusal :=
  .next (s.onEngine p (.opCall t))

/-- RET in pair p. -/
def execBRet (p : PairIx) (s : State) : Host.Outcome State Fault Refusal :=
  .next (s.onEngine p .opRet)

/-- LOOP in pair p. -/
def execBLoop (p : PairIx) (n : BitVec 12) (len : BitVec 14) (s : State) : Host.Outcome State Fault Refusal :=
  .next (s.onEngine p (.opLoop n len))

/-- LOOPR in pair p. -/
def execBLoopr (p : PairIx) (a : RegIx) (max : BitVec 10) (len : BitVec 12) (s : State) : Host.Outcome State Fault Refusal :=
  .next (s.onEngine p (.opLoopr a max len))

/-- TON in pair p. -/
def execBTon (p : PairIx) (d a b : RegIx) (t : BitVec 10) (s : State) : Host.Outcome State Fault Refusal :=
  .next (s.onEngine p (.opTon d a b t))

/-- TOF in pair p. -/
def execBTof (p : PairIx) (d a b : RegIx) (t : BitVec 10) (s : State) : Host.Outcome State Fault Refusal :=
  .next (s.onEngine p (.opTof d a b t))

/-- TP in pair p. -/
def execBTp (p : PairIx) (d a b : RegIx) (t : BitVec 10) (s : State) : Host.Outcome State Fault Refusal :=
  .next (s.onEngine p (.opTp d a b t))

/-- EDG in pair p. -/
def execBEdg (p : PairIx) (d a : RegIx) (addr : BitVec 12) (s : State) : Host.Outcome State Fault Refusal :=
  .next (s.onEngine p (.opEdg d a addr))

/-- DSC in pair p. -/
def execBDsc (p : PairIx) (d a b q : RegIx) (t : BitVec 8) (m fe : BitVec 1) (s : State) : Host.Outcome State Fault Refusal :=
  .next (s.onEngine p (.opDsc d a b q t m fe))

/-- EMIT in pair p. -/
def execBEmit (p : PairIx) (k : BitVec 5) (r : RegIx) (s : State) : Host.Outcome State Fault Refusal :=
  .next (s.onEngine p (.opEmit k r))

/-- CHK in pair p. -/
def execBChk (p : PairIx) (t : BitVec 5) (s : State) : Host.Outcome State Fault Refusal :=
  .next (s.onEngine p (.opChk t))

end Sys2Proof.Machine
end

