-- ==== Sys2Proof/Machine/Wear.lean ====
section
/-!
DEFINITION. Machine/Wear.lean: the wear of a registered part at an operation (R486, R490, R491).
-/
namespace Sys2Proof.Machine

/-- Integer square root by bits: the largest r with r * r ≤ n, for n below 4^k. -/
def isqrt (n : Nat) : Nat → Nat → Nat
  | 0, r => r
  | k + 1, r => let t := r + 2 ^ k; isqrt n k (if t * t ≤ n then t else r)

/-- The sixteenth root, rounded down, of a number below 4^k. -/
def root16 (n k : Nat) : Nat :=
  isqrt (isqrt (isqrt (isqrt n k 0) k 0) k 0) k 0

/-- w in units of 1/65,536 (R491): (num / den)^(e / 16), rounded to the nearest unit (log entry 7). -/
def wearOf (num den e : Nat) : Nat :=
  let x := (131072 ^ 16 * num ^ e) / den ^ e
  (root16 x (x.log2 / 2 + 1) + 1) / 2

/-- The class entry of a slot. -/
def State.classOf (s : State) (x : PartSlot) : Option PartClass := s.sr.classes[x.cls]?

/-- The breaking current of an operation in mA: the named signal, else the rated current; never negative (R491). -/
def State.breaking (s : State) (x : PartSlot) (c : PartClass) : Nat :=
  if x.sigIx == 0 then c.iRated else (s.readEntry x.sigIx).value.toInt.toNat

/-- One operation of a slot that is occupied: n, W and the running figures (R491). -/
def State.operateSlot (s : State) (x : PartSlot) : PartSlot :=
  if x.state == 0 then x
  else match s.classOf x with
    | none => { x with n := sat (2 ^ 32 - 1) (x.n + 1), hourOps := x.hourOps + 1 }
    | some c =>
      let i := s.breaking x c
      let d := max c.iRated 1
      let w := if i * 10 < d then wearOf 1 10 c.e else wearOf i d c.e
      { x with n := sat (2 ^ 32 - 1) (x.n + 1), w := sat (2 ^ 32 - 1) (x.w + w),
               recent := (w :: x.recent).take 1024, hourOps := x.hourOps + 1 }

/-- The slots of a target take one operation (R486, R491). -/
def State.countOperation (s : State) (target : Nat) : State :=
  { s with sr := { s.sr with slots := s.sr.slots.map fun x => if x.target == target then s.operateSlot x else x } }

/-- PART_OPERATION: an opening of the switch of a target (a channel 0-31, or the GDRV 32 or 33) (R486, R491). Before Thresh ends it
waits for the input image of its swath. -/
def State.partOperation (s : State) (target : Nat) : State :=
  if s.pipe.window then { s with sr := { s.sr with opsDue := s.sr.opsDue ++ [target] } } else s.countOperation target

/-- The operations that waited for the input image of their swath are counted (R491). -/
def State.operationsDue (s : State) : State :=
  let ts := s.sr.opsDue
  ts.foldl (fun (s : State) t => s.countOperation t) { s with sr := { s.sr with opsDue := [] } }

end Sys2Proof.Machine
end

