-- ==== Sys2Proof/Machine/Fingerprint.lean ====
section
/-!
DEFINITION. Machine/Fingerprint.lean: coil fingerprints: captures, their features and flags, the holding features, and
the comparison with the baseline (R194-R200).
-/
namespace Sys2Proof.Machine

/-- Change one channel. -/
def State.updChan (s : State) (c : ChIx) (f : Chan → Chan) : State := { s with chans := s.chans.upd c f }
/-- Change one half. -/
def State.updHalf (s : State) (h : HalfIx) (f : Half → Half) : State := { s with halves := s.halves.upd h f }
/-- One channel. -/
def State.chan (s : State) (c : ChIx) : Chan := s.chans.get c
/-- One half. -/
def State.half (s : State) (h : HalfIx) : Half := s.halves.get h

/-! ## Part slots of a channel (R486, R497) -/

/-- A journal record that waits for its boundary (R497). -/
def State.journal (s : State) (subject type flags : Nat) (payload : List Word) : State :=
  { s with sr := { s.sr with due := s.sr.due ++ [(subject, type, flags, payload)] } }

/-- The occupied slots of a target, by number. -/
def State.slotsOf (s : State) (target : Nat) : List (Fin 32) :=
  (List.finRange 32).filter fun k => (s.sr.slots.get k).state != 0 && (s.sr.slots.get k).target == target

/-- Change one slot. -/
def State.updSlot (s : State) (k : Fin 32) (f : PartSlot → PartSlot) : State :=
  { s with sr := { s.sr with slots := s.sr.slots.upd k f } }

/-- The baseline of a channel: that of its first slot that holds one (R200). -/
def State.baseline (s : State) (c : ChIx) : Option (Nat × Nat × Nat × Nat) :=
  ((s.slotsOf c.val).filterMap fun k => (s.sr.slots.get k).base).head?

/-- FP_STAT.NO_BASE of a channel says whether a slot holds a baseline (R200). -/
def State.noteBase (s : State) (c : ChIx) : State := s.setB (F.FP_STAT_NO_BASE c.val) (s.baseline c).isNone

/-- The registers of a channel's fingerprint as a FINGERPRINT record carries them (R497), read by `rd`: those of this device, or of the
follower as a Wide lead holds them (R443). -/
def fpWords (rd : Nat → Word) (c : Nat) : List Word :=
  [Reg.FP_L0 c, Reg.FP_R20 c, Reg.FP_PULL c, Reg.FP_DROP c, Reg.FP_KINK c, Reg.FP_HOLD c, Reg.FP_STAT c, Reg.FP_DEV c].map rd

/-- A FINGERPRINT record of a slot falls due: the fingerprint and n (R497). -/
def State.journalPrint (s : State) (i : Fin 32) (ws : List Word) (n : Nat) : State :=
  s.journal i.val 0x05 0 (ws ++ [BitVec.ofNat 32 n])

/-- The slots of a target that a capture concerns: a part registered while it ran is not (R510). -/
def State.slotsFrom (s : State) (target start : Nat) : List (Fin 32) :=
  (s.slotsOf target).filter fun i => decide ((s.sr.slots.get i).since ≤ start)

/-! ## Features -/

/-- Sample j of a capture: current in µA, voltage in mV, twice its midpoint in ticks. -/
def Capture.at (k : Capture) (j : Nat) : Int × Int × Nat := k.samples.getD j (0, 0, 0)
/-- Current of sample j in µA. -/
def Capture.i (k : Capture) (j : Nat) : Int := (k.at j).1
/-- Voltage of sample j in mV. -/
def Capture.v (k : Capture) (j : Nat) : Int := (k.at j).2.1
/-- Midpoint of sample j in µs after the switching, rounded. -/
def Capture.us (k : Capture) (j : Nat) : Nat := (roundDiv (k.at j).2.2 96).toNat

/-- The sum of f over samples 1 to 8. -/
def sum8 (f : Nat → Int) : Int := (List.range 8).foldl (fun a j => a + f (j + 1)) 0

/-- Numerator and denominator of the least-squares slope over samples 1 to 8 (R196): µA per half tick. -/
def Capture.slope (k : Capture) : Int × Int :=
  let m (j : Nat) : Int := (k.at j).2.2
  (8 * sum8 (fun j => m j * k.i j) - sum8 m * sum8 k.i, 8 * sum8 (fun j => m j * m j) - sum8 m * sum8 m)

/-- The peak of the pull-in dip (R196): the first sample from 2 to 252 that qualifies. -/
def Capture.dip (k : Capture) (h : Int) : Option Nat :=
  (List.range 253).find? fun j =>
    decide (2 ≤ j) && decide (j + 3 < k.samples.length) && decide (k.i j ≥ k.i (j - 1)) &&
      decide (k.i j - max (k.i (j + 1)) (max (k.i (j + 2)) (k.i (j + 3))) ≥ h)

/-- The valley after a peak: the lowest sample so far until one rises by h above it (R196). -/
def valley (h : Int) (k : Capture) : List Nat → Nat → Nat
  | [], v => v
  | j :: js, v => if k.i j ≥ k.i v + h then v else valley h k js (if k.i j < k.i v then j else v)

/-- Minimum dip height in µA. -/
def State.dipH (s : State) (c : ChIx) : Int := (s.fld (F.FP_CFG_DIP_H c.val) : Int) * 100

/-- The energisation features into their registers (R196, R199): L0 and slope, t_pull and depth, NO_DIP. A TRUNC capture of fewer
than nine samples has no samples 1 to 8, and forms neither L0 nor slope (DESIGN CHOICE, log entry 64). -/
def State.energiseFeatures (s : State) (c : ChIx) (k : Capture) : State :=
  let (sn, sd) := k.slope
  let limEarly := match k.limitedAt with | some j => decide (j ≤ 8) | none => false
  let enough := decide (k.samples.length ≥ 9)
  let s :=
    if limEarly || !enough then s.updChan c fun x => { x with l0ok := false }
    else
      let r : Int := match (s.chan c).rHot with
        | some r => r
        | none => match s.baseline c with | some b => b.1 | none => 0
      let (fr, s) := if sn == 0 then s.drawWord else (0#32, s)
      let num := (sum8 k.v * 1000000 - r * sum8 k.i) * sd
      let den := 768000 * sn
      let l0 := if sn == 0 then fr else wInt (if den < 0 then roundDiv (-num) (-den) else roundDiv num den)
      let slope := if sd == 0 then 0#32 else wInt (roundDiv (sn * 96000) sd)
      ((s.setReg (Reg.FP_L0 c.val) l0).setReg (Reg.FP_SLOPE c.val) slope).updChan c fun x => { x with l0ok := true }
  if k.limitedAt.isSome then s
  else
    let h := s.dipH c
    match k.dip h with
    | none => ((s.setReg (Reg.FP_PULL c.val) 0#32).setB (F.FP_STAT_NO_DIP c.val) true)
    | some pk =>
      let v := valley h k ((List.range k.samples.length).filter fun j => decide (pk + 1 < j)) (pk + 1)
      (s.setF (F.FP_PULL_T_PULL c.val) (sat 65535 (k.us pk))).setF (F.FP_PULL_DEPTH c.val)
        (sat 65535 (roundDiv (k.i pk - k.i v) 100).toNat)

/-- The de-energisation features into their registers (R198). -/
def State.dropFeatures (s : State) (c : ChIx) (k : Capture) : State :=
  let n := k.samples.length
  let drop := (List.range n).find? fun j => decide (1 ≤ j) && decide (k.v j > -2000)
  let stop := match drop with | some j => j | none => n - 1
  let kink := (List.range (stop + 1)).find? fun j => decide (2 ≤ j) && decide (k.i j - k.i (j - 1) ≥ s.dipH c)
  let s := s.setF (F.FP_DROP_T_DROP c.val) (match drop with | some j => sat 65535 (k.us j) | none => 0)
  let s := s.setB (F.FP_STAT_NO_DROP c.val) drop.isNone
  match kink with
  | some j => (s.setF (F.FP_DROP_T_KINK c.val) (sat 65535 (k.us j))).setF (F.FP_KINK_KINK_DEPTH c.val)
      (sat 65535 (roundDiv (k.i j - k.i (j - 1)) 100).toNat)
  | none => ((s.setF (F.FP_DROP_T_KINK c.val) 0).setF (F.FP_KINK_KINK_DEPTH c.val) 0).setB (F.FP_STAT_NO_KINK c.val) true

/-- The flags of a capture (R199). -/
def fpFlags (stat : Word) : Nat := wbits stat 13 8

/-- A capture ends for a slot: its record for the first of the hour and for one with a flag (R497), a trend point with t_pull for an
energisation without (R492). -/
def State.captureFor (s : State) (ws : List Word) (point : Option Nat) (i : Fin 32) : State :=
  let x := s.sr.slots.get i
  let told := fpFlags (ws.getD 6 0#32) != 0 || !x.fpHour
  let s := s.whenB told fun s => s.journalPrint i ws x.n
  s.updSlot i fun x => { x with
    fpHour := true
    fpTold := told
    points := match point with | some t => ((x.n, t) :: x.points).take 256 | none => x.points }

/-- A capture counts for the part that left its slot while it ran (R510). -/
def State.captureLeft (s : State) (target : Nat) (ws : List Word) : State :=
  let gone := s.sr.left.filter fun x => x.2.target == target
  let s : State := { s with sr := { s.sr with left := s.sr.left.filter fun x => x.2.target != target } }
  gone.foldl (fun (s : State) x =>
    s.whenB (fpFlags (ws.getD 6 0#32) != 0 || !x.2.fpHour) fun s =>
      s.journal x.1 0x05 0 (ws ++ [BitVec.ofNat 32 x.2.n])) s

/-- A capture of a target that began at a tick is passed to the Service Record with its fingerprint (R199): to the slots it concerns
and to the parts that have left theirs. -/
def State.passCapture (s : State) (target start : Nat) (ws : List Word) (energise : Bool) : State :=
  let point := if energise && fpFlags (ws.getD 6 0#32) == 0 then some (wbits (ws.getD 2 0#32) 31 16) else none
  ((s.slotsFrom target start).foldl (fun s i => s.captureFor ws point i) s).captureLeft target ws

/-- A capture ends: its flags and features are formed, it is counted and passed to the Service Record (R196-R199). -/
def State.captureEnd (s : State) (c : ChIx) (trunc : Bool) : State :=
  match (s.chan c).capture with
  | none => s
  | some k =>
    let low := k.lowv || (k.energise && decide (k.samples.length ≥ 9) && decide (sum8 k.v < 64000))
    let s := s.updChan c fun x => { x with 
      capture := none, l0ok := if k.energise then false else x.l0ok, capFrom := if k.energise then k.start else x.capFrom, holdFrom := if k.energise && low then none else x.holdFrom }
    let s := s.noteBase c
    let s := s.setReg (Reg.FP_STAT c.val) (wput (s.reg (Reg.FP_STAT c.val)) 13 8 0)
    let s := s.setF (F.FP_STAT_CAPTURES c.val) ((s.fld (F.FP_STAT_CAPTURES c.val) + 1) % 65536)
    let s := s.setB (F.FP_STAT_TRUNC c.val) trunc
    let s := s.setB (F.FP_STAT_LIMITED c.val) k.limitedAt.isSome
    let s := s.setB (F.FP_STAT_LOWV c.val) low
    let s := if low then s else if k.energise then s.energiseFeatures c k else s.dropFeatures c k
    s.passCapture c.val k.start (fpWords s.reg c.val) k.energise

/-- FP_CAPTURE_START: a switching of a COIL channel with captures enabled ends a running capture as TRUNC and begins a
new one (R194), and FP_SWATH takes its swath (log entry 87); the holding features fall HOLD_DELAY after a closing (R197). -/
def State.captureStart (s : State) (c : ChIx) (energise : Bool) : State :=
  if s.fld (F.CH_CFG_FUNC c.val) == 3 && s.flag (F.FP_CFG_EN c.val) then
    let s := s.captureEnd c true
    let t := s.tick
    (s.updChan c fun x => { x with
      capture := some ⟨t, energise, [], none, false, false⟩
      holdFrom := if energise then some (t + s.fld (F.FP_CFG_HOLD_DELAY c.val) * 480000) else x.holdFrom }).setReg
        (Reg.FP_SWATH c.val) s.swath32
  else s

/-- FP_CAPTURE_DONE: a capture completes its 256 samples (R195-R199). -/
def execFpCaptureDone (c : ChIx) (s : State) : Host.Outcome State Fault Refusal :=
  .next <| match (s.chan c).capture with
    | some k => if k.samples.length ≥ 256 then s.captureEnd c false else s
    | none => s

/-! ## Holding features and the comparison -/

/-- T of R197 in 0.01 °C. -/
def State.fpTemp (s : State) (c : ChIx) : Int :=
  match s.fld (F.FP_CFG_TSRC c.val) with
  | 1 => (s.readEntry (32 + 8 * (halfOf c).val + 2)).value.toInt
  | 2 => (s.readEntry (wbits (s.reg (Reg.FP_TSIG c.val)) 16 0)).value.toInt
  | _ => 2000

/-- What a comparison takes from a fingerprint (R200, R489): R20, L0, t_pull and t_drop. -/
structure Print where
  r : Nat
  l : Nat
  tPull : Nat
  tDrop : Nat
  deriving DecidableEq, Repr

/-- The features in the words of a fingerprint. -/
def printOf (ws : List Word) : Print :=
  ⟨(ws.getD 1 0#32).toNat, (ws.getD 0 0#32).toNat, wbits (ws.getD 2 0#32) 31 16, wbits (ws.getD 3 0#32) 31 16⟩

/-- A feature deviates from its baseline by more than a percentage (R200). -/
def farFrom (x y pc : Nat) : Bool := decide (((x : Int) - y).natAbs * 100 > pc * y)

/-- OUT of a fingerprint against a baseline (R200). -/
def Print.out (f : Print) (b : Nat × Nat × Nat × Nat) : Bool := farFrom f.r b.1 8 || farFrom f.l b.2.1 15

/-- FP_DEV of a fingerprint against a baseline: the deviations of R20 and L0 in 0.01 %. -/
def Print.dev (f : Print) (b : Nat × Nat × Nat × Nat) : Word :=
  let dev (x y : Nat) : Int := if y == 0 then 0 else roundDiv (((x : Int) - y) * 10000) y
  BitVec.ofNat 32 (uOf 16 (clampInt (-32768) 32767 (dev f.r b.1)) * 65536 + uOf 16 (clampInt (-32768) 32767 (dev f.l b.2.1)))

/-- A slot that adopts takes the first capture that began after its registration as its baseline (R489). -/
def State.adoptPrint (s : State) (is : List (Fin 32)) (f : Print) : State :=
  is.foldl (fun (s : State) i => s.updSlot i fun x =>
    if x.adopt then { x with adopt := false, base := some (f.r, f.l, f.tPull, f.tDrop) } else x) s

/-- PART_CHANGED on the channel of a target (R200, R494): raised, a record for each slot, and the slots in doubt. A Wide lead raises
that of a follower's channel as it logs the follower's own (R444). -/
def State.partChanged (s : State) (is : List (Fin 32)) (target : Nat) (dev : Word) : State :=
  let s := s.raise (srcTHR (if target % 16 < 8 then 0 else 1)) kPartChanged (faultAddr 63 target)
  is.foldl (fun (s : State) i =>
    (s.journal i.val 0x08 0 [1#32, dev]).updSlot i fun x => { x with doubt := true, state := 2 }) s

/-- The verdict of a comparison for the slots it concerns (R200): a capture that sets OUT is recorded, unless it has been (R497), and
raises PART_CHANGED after one that did not, or after none. -/
def State.judgePrint (s : State) (is : List (Fin 32)) (target : Nat) (ws : List Word) (dev : Word) (out : Bool) : State :=
  let was := is.all fun i => (s.sr.slots.get i).out
  let s := is.foldl (fun (s : State) i =>
    let x := s.sr.slots.get i
    let s := s.whenB (out && !x.fpTold) fun s => s.journalPrint i ws x.n
    s.updSlot i fun x => { x with out := out, dev := dev, fpTold := x.fpTold || out }) s
  if out && !was then s.partChanged is target dev else s

/-- The baseline of the slots a capture concerns: that of the first which holds one (R200, R510). -/
def State.baseOf (s : State) (is : List (Fin 32)) : Option (Nat × Nat × Nat × Nat) :=
  (is.filterMap fun i => (s.sr.slots.get i).base).head?

/-- Compare the last capture with the baseline (R200), after the slots that adopt have taken theirs (R489). A part registered while it
ran takes no part in it (R510). -/
def State.fpCompare (s : State) (c : ChIx) : State :=
  let is := s.slotsFrom c.val (s.chan c).capFrom
  let f := printOf (fpWords s.reg c.val)
  let s := (s.adoptPrint is f).noteBase c
  match s.baseOf is with
  | none => s
  | some b =>
    let s := (s.setReg (Reg.FP_DEV c.val) (f.dev b)).setB (F.FP_STAT_OUT c.val) (f.out b)
    s.judgePrint is c.val (fpWords s.reg c.val) (f.dev b) (f.out b)

/-- R_hot in mΩ from the holding current in µA and the holding voltage in mV (R197); without a current it has no value
and is free (log entry 4). -/
def State.fpHot (s : State) (iuA vmV : Int) : Int × State :=
  if iuA == 0 then
    let (w, s) := s.drawWord
    ((w.toNat : Int), s)
  else (if iuA < 0 then roundDiv (-vmV * 1000000) (-iuA) else roundDiv (vmV * 1000000) iuA, s)

/-- R20 from R_hot and the temperature signal (R197); where the divisor is 0 it is free (log entry 4). -/
def State.fpR20 (s : State) (c : ChIx) (hot : Int) : Word × State :=
  let den : Int := 10000000 + 393 * (s.fpTemp c - 2000)
  if den == 0 then s.drawWord
  else (wInt (if den < 0 then roundDiv (-hot * 10000000) (-den) else roundDiv (hot * 10000000) den), s)

/-- The four features of the holding phase from `n` fast codes (R197). -/
def State.fpHold (s : State) (c : ChIx) (n : Int) : State :=
  let sum : Int := sx 40 (wbits (s.reg (Reg.THR_FB_SUM_HI c.val)) 7 0 * 2 ^ 32 + (s.reg (Reg.THR_FB_SUM_LO c.val)).toNat)
  let iuA := roundDiv (sum * 4000000) (32768 * n)
  let vmV := roundDiv (sx 16 (s.fld (F.THR_FB_SEC_SEC c.val)) * 48000) 32768
  let s := s.setF (F.FP_HOLD_I_HOLD c.val) (uOf 16 (roundDiv iuA 100))
  let s := s.setF (F.FP_HOLD_V_HOLD c.val) (uOf 16 vmV)
  let hot := s.fpHot iuA vmV
  let r20 := hot.2.fpR20 c hot.1
  (r20.2.setReg (Reg.FP_R20 c.val) r20.1).updChan c fun x => { x with rHot := some hot.1.toNat }

/-- FP_HOLD_FEATURES: the fast bank holds the first full swath that begins HOLD_DELAY after the switch closed: V_hold,
I_hold, R_hot and R20 (R197), and the capture is compared (R200). -/
def execFpHoldFeatures (c : ChIx) (s : State) : Host.Outcome State Fault Refusal :=
  .next <| match (s.chan c).holdFrom with
    | none => s
    | some t =>
      let n : Int := s.fld (F.THR_FB_CNT_COUNT c.val)
      if s.pipe.prevBtick < t || s.pipe.window || n == 0 then s
      else
        let s := (s.updChan c fun x => { x with holdFrom := none }).fpHold c n
        if (s.chan c).l0ok then s.fpCompare c else s

end Sys2Proof.Machine
end

