-- ==== Sys2Proof/Machine/Field.lean ====
section
/-!
DEFINITION. Machine/Field.lean: the field die of a half: functions, safe states, switches, the group gate and GDRV, and
what every change of them does (R79-R133). Shared by the commands of Machine/Channels.lean and Machine/Link.lean.
-/
namespace Sys2Proof.Machine

/-! ## Functions (R81) -/

def fOFF : Nat := 0
def fDI : Nat := 1
def fDO : Nat := 2
def fCOIL : Nat := 3
def fAIV : Nat := 4
def fAII : Nat := 5
def fLOOP : Nat := 6
def fAOI : Nat := 7
def fAOV : Nat := 8
def fPULSE : Nat := 9

/-- A configuration register of a half as its field die holds it (R80, R216): the logic die's own, or the copy the die kept
when a reset took the logic die's. -/
def State.cfgReg (s : State) (h : HalfIx) (a : Nat) : Word :=
  if (s.half h).kept.isEmpty then s.reg a else Sparse.get (fun _ => 0#32) (s.half h).kept a
/-- A field of such a register of a channel. -/
def State.chFld (s : State) (c : ChIx) (f : Fld) : Nat := wbits (s.cfgReg (halfOf c) f.reg) f.hi f.lo
/-- A field of such a register of a half. -/
def State.halfFld (s : State) (h : HalfIx) (f : Fld) : Nat := wbits (s.cfgReg h f.reg) f.hi f.lo
/-- The configuration registers a field die holds (R80, R127). -/
def dieRegs (h : HalfIx) : List Nat :=
  (chOf h).flatMap (fun c => [Reg.CH_CFG c.val, Reg.CH_DI c.val, Reg.CH_DO c.val, Reg.CH_DIAG c.val, Reg.CH_SAFE c.val])
    ++ [Reg.FH_CFG h.val, Reg.FH_DP h.val]

/-- The function of a channel. -/
def State.func (s : State) (c : ChIx) : Nat := s.chFld c (F.CH_CFG_FUNC c.val)
/-- DO or COIL. -/
def State.isSwitch (s : State) (c : ChIx) : Bool := s.func c == fDO || s.func c == fCOIL
/-- A function that takes a command (R84). -/
def State.isOutput (s : State) (c : ChIx) : Bool := s.isSwitch c || s.func c == fAOI || s.func c == fAOV
/-- A channel whose command word acts: the outputs and AI-LOOP (R207). -/
def State.isActed (s : State) (c : ChIx) : Bool := s.isOutput c || s.func c == fLOOP
/-- A function whose value is the precision result (R83). -/
def State.isAi (s : State) (c : ChIx) : Bool := s.func c == fAIV || s.func c == fAII || s.func c == fLOOP
/-- A function with a current path to FGND through the return switch (R82). -/
def State.isReturn (s : State) (c : ChIx) : Bool :=
  s.func c == fDI || s.func c == fPULSE || s.func c == fAII || s.func c == fLOOP || s.func c == fAOI

/-- This device is the disarmed stand-in (R133, R448): joined or not, a Stand-in device that is not ACTIVE drives nothing until it
releases (R450, R451). -/
def State.standby (s : State) : Bool :=
  s.yokeMode == 3 && !s.flag F.YK_STATUS_ACTIVE && !s.yk.releasing

/-! ## What a channel does (R87, R127-R131, R206) -/

/-- Overload latch of a channel (CHn_FLAGS.LATCHED). -/
def State.ovlLatched (s : State) (c : ChIx) : Bool := (s.chan c).ovl

/-- The field die holds the channel in its safe state: SAFE applied, SUPPLY_UV latched, timed out, or forced OFF. -/
def State.inSafe (s : State) (c : ChIx) : Bool :=
  let x := s.chan c
  let h := s.half (halfOf c)
  x.action.isSome && (x.action == some 2 || h.uv || h.timedOut || h.forced)

/-- The field die holds the channel in its night state. -/
def State.inNight (s : State) (c : ChIx) : Bool := !s.inSafe c && (s.chan c).action == some 3

/-- The switch state a channel is commanded to: 0 while unloaded or forced OFF; its safe-state code (R128), which an
open-held gate withholds (R122); its night code (R130); else bit 0 of its command (R85). -/
def State.wants (s : State) (c : ChIx) : Bool :=
  let x := s.chan c
  let h := s.half (halfOf c)
  if !s.isSwitch c || x.action.isNone || h.forced then false
  else if s.inSafe c then
    !h.gateHold && (s.chFld c (F.CH_SAFE_SAFE c.val) == 1 ||
      (s.chFld c (F.CH_SAFE_SAFE c.val) == 2 && x.holding && x.holdVal % 2 == 1))
  else if s.inNight c then s.chFld c (F.CH_SAFE_NIGHT c.val) == 1
  else x.value % 2 == 1

/-- No protection and no dark pulse holds the switch open (R87). -/
def State.unprotected (s : State) (c : ChIx) : Bool :=
  let x := s.chan c
  !s.ovlLatched c && x.backoff != 1 && !x.hot && x.pulse.isNone

/-- Effective alarm direction (R102): the ALM strap, else the code of the safe or night state. -/
def State.almHigh (s : State) (c : ChIx) : Bool :=
  let code := if s.inNight c then s.chFld c (F.CH_SAFE_NIGHT c.val) else s.chFld c (F.CH_SAFE_SAFE c.val)
  match (s.half (halfOf c)).alm with | 1 => false | 2 => true | _ => code == 4

/-- The code of the safe or night state the die holds a channel in (R128, R130); a forced channel is OFF (R213). -/
def State.heldCode (s : State) (c : ChIx) : Option Nat :=
  if s.inSafe c then some (if (s.half (halfOf c)).forced then 0 else s.chFld c (F.CH_SAFE_SAFE c.val))
  else if s.inNight c then some (s.chFld c (F.CH_SAFE_NIGHT c.val))
  else none

/-- The level an analogue output drives: its command in µA or mV, or what its safe or night state gives (R85, R102, R128):
3.6 mA or 21.0 mA for an alarm, the last command while a HOLD runs, else 0. A gate that is held open withholds a safe state ON or HOLD
from switches alone; a HOLD of an analogue output and a loop supply ON, whose paths bypass the gate (R121), are honoured on (DESIGN
CHOICE, log entry 76). -/
def State.aoLevel (s : State) (c : ChIx) : Nat :=
  let x := s.chan c
  match s.heldCode c with
  | none => x.value
  | some 2 => if x.holding then x.holdVal else 0
  | some k => if s.func c == fAOI && (k == 3 || k == 4) then (if s.almHigh c then 21000 else 3600) else 0

/-- The loop supply of an AI-LOOP channel is on (R86, R127, R128): loaded, and not in a safe or night state of code OFF. -/
def State.loopSupply (s : State) (c : ChIx) : Bool :=
  s.func c == fLOOP && (s.chan c).action.isSome && s.heldCode c != some 0

/-- The function a channel's terminal stands in: an unloaded die keeps that of the configuration it lost (R127). -/
def State.stageFunc (s : State) (c : ChIx) : Nat :=
  let x := s.half (halfOf c)
  if x.loaded || x.was.isEmpty then s.func c else x.was.getD (c.val % 8) 0

/-- What the field die drives at a channel without a switch. An unloaded AO-I stands at 0 mA, an unloaded AO-V is disconnected
and an unloaded loop supply is off (R127). The terminals of an unpowered half float (R134). -/
def State.drive (s : State) (c : ChIx) : Drive :=
  let x := s.chan c
  if (s.half (halfOf c)).inReset then .idle
  else if s.stageFunc c == fAOI then .level (if x.action.isSome then s.aoLevel c else 0)
  else if s.stageFunc c == fAOV then (if x.action.isSome && !x.disconnected then .level (s.aoLevel c) else .idle)
  else if s.stageFunc c == fLOOP then .supply (s.loopSupply c)
  else .idle

/-- The sink of a terminal is active: on a DI or PULSE channel of a supplied half, loaded or not (R81, R127, R134). -/
def State.sinkOn (s : State) (c : ChIx) : Bool :=
  !(s.half (halfOf c)).inReset && (s.stageFunc c == fDI || s.stageFunc c == fPULSE)

/-- CHn_STATUS.STATE of a channel. -/
def State.chState (s : State) (c : ChIx) : Nat :=
  let x := s.chan c
  let h := s.half (halfOf c)
  let sq := h.seq
  if !h.loaded then 0
  else if x.pulse.isSome then 7
  else if x.hot then 6
  else if s.ovlLatched c then 5
  else if x.backoff != 0 then 4
  else if sq.running && sq.stage == .dac && s.fld (F.SPR_STATUS_TARGET (halfOf c).val) == c.val then 8
  else if x.limit || x.shuntOpen || x.loopLimit then 3
  else if (if s.isActed c then s.inSafe c || s.inNight c else x.safeL) then 1
  else if s.isActed c && x.action.isNone then 0
  else 2

/-- CHn_STATUS follows the channel, and THR_NOW its shunt, once the Thresher runs (R144, R164). -/
def State.syncChan (s : State) (c : ChIx) : State :=
  let s := (s.setF (F.CH_STATUS_STATE c.val) (s.chState c)).setB (F.CH_STATUS_ALM_HIGH c.val) (s.func c == fAOI && s.almHigh c)
  let s := (s.setF (F.CH_STATUS_ATTEMPT c.val) (s.chan c).tries).setB (F.CH_FLAGS_LATCHED c.val) (s.chan c).ovl
  s.whenB (!s.isBoot) fun s => s.setB (F.THR_NOW_SHUNT_OPEN c.val) (s.chan c).shuntOpen

/-! ## Switching -/

/-- The start of the holding features a channel waits for, after its switch has opened: they are still formed where the swath they
are taken from has ended (R197). -/
def State.holdKept (s : State) (c : ChIx) : Option Nat := (s.chan c).holdFrom.filter fun t => decide (t ≤ s.pipe.prevBtick)

/-- The switch opens: an operation of the part behind it (R491); a capture begins if the change was a command, a safe
or a night state (R194). -/
def State.openSwitch (s : State) (c : ChIx) (cap : Bool) : State :=
  if !(s.chan c).closed then s
  else
    let k := s.holdKept c
    let s := s.updChan c fun x => { x with closed := false, limit := false, holdFrom := k }
    let s := s.partOperation c.val
    s.whenB cap fun s => s.captureStart c false

/-- The switch closes; closures count since arming (R305). An attempt that waited for a command of 1 is made (R93). -/
def State.closeSwitch (s : State) (c : ChIx) (cap : Bool) : State :=
  if (s.chan c).closed then s
  else
    let retry := (s.chan c).backoff == 2
    let s := s.updChan c fun x => { x with
      closed := true, backoff := 0, closures := x.closures + 1, tries := if retry then sat 15 (x.tries + 1) else x.tries }
    s.whenB (cap && !retry) fun s => s.captureStart c true

/-- The switch follows its command as far as protection lets it (R87). -/
def State.reSwitch (s : State) (c : ChIx) (cap : Bool) : State :=
  if s.wants c && s.unprotected c then s.closeSwitch c cap else s.openSwitch c cap

/-! ## Group gate and GDRV (R121, R122, R125, R126) -/

/-- The field die takes the half as armed: armed by its frames, and no cause of its own against it. -/
def State.dieArmed (s : State) (h : HalfIx) : Bool :=
  let x := s.half h
  x.loaded && x.armedF && !x.timedOut && !x.uv && !x.forced

/-- Some DO or COIL channel of the half drives ON as its safe state, or a HOLD whose time still runs, whatever it holds (R121).
A night state ON closes the gate as well: R121 speaks of the safe state alone, and R520 has the outputs keep their night
states (DEDUCED, log entry 29). -/
def State.safeOn (s : State) (h : HalfIx) : Bool :=
  (chOf h).any fun c => s.isSwitch c && (match s.heldCode c with
    | some 1 => true
    | some 2 => (s.chan c).holding
    | _ => false)

/-- A channel of the half is on in its safe state: the arming skips its gate check (R123). -/
def State.onInSafe (s : State) (h : HalfIx) : Bool := (chOf h).any fun c => s.inSafe c && s.wants c

/-- The gate is open for the check of an arming, while the half is armed (R123). -/
def State.gateTesting (s : State) (h : HalfIx) : Bool :=
  s.dieArmed h && match (s.half h).gateTest with | some till => decide (s.tick < till) | none => false

/-- The gate is closed (R121), unless it is held open (R122) or open for the check of an arming (R123). -/
def State.gateWanted (s : State) (h : HalfIx) : Bool :=
  !(s.half h).gateHold && (s.half h).loaded && !s.gateTesting h && (s.dieArmed h || s.safeOn h)

/-- GDRV is on exactly while the gate is closed, unless held off or cut (R125, R126). -/
def State.gdrvWanted (s : State) (h : HalfIx) : Bool :=
  s.gateWanted h && s.halfFld h (F.FH_CFG_GDRV_MODE h.val) != 0 && !(s.half h).gdrvHold && !(s.half h).gdrvCut

/-- FH_STATUS.SUPPLY from the comparators (R118). -/
def Half.supply (x : Half) : Nat :=
  if x.inReset then 6
  else if x.uv then (if x.uvReady then 4 else 3)
  else if x.susp then 2
  else if x.low then 1
  else if x.high then 5
  else 0

/-- GDRV follows the half; its going off is an operation of the part behind it (R486). FH_STATUS shows at once what no frame tells: a
hold, and that the half is without supply; the rest comes with the uplink frames (R209). -/
def State.syncHalf (s : State) (h : HalfIx) : State :=
  let was := (s.half h).gdrv
  let on := s.gdrvWanted h
  let s := s.updHalf h fun x => { x with gdrv := on }
  let s := s.setB (F.FH_STATUS_GATE_HELD h.val) ((s.half h).gateHold || (s.half h).gdrvHold)
  let s := s.whenB (s.half h).inReset fun s => s.setF (F.FH_STATUS_SUPPLY h.val) (s.half h).supply
  s.whenB (was && !on) fun s => s.partOperation (32 + h.val)

/-! ## Faults of a channel and of a half (R107) -/

/-- The EVENTS bit of a channel kind (spec/03, CHn_FLAGS). -/
def eventBit (kind : Nat) : Nat :=
  match kind with
  | 1 => 0 | 2 => 2 | 3 => 1 | 4 => 3 | 5 => 4 | 6 => 6 | 7 => 7 | 8 => 5 | 9 => 9 | 10 => 8 | 11 => 10 | _ => 11

/-- The sticky event of a channel kind (R107), with the bits set at this tick, which a write of 1 at the same tick does not clear
(R14). -/
def State.noteEvent (s : State) (c : ChIx) (kind : Nat) : State :=
  let t := s.tick
  (s.orF (F.CH_FLAGS_EVENTS c.val) (2 ^ eventBit kind)).updChan c fun x =>
    let same := x.bitsTick == t
    { x with
      evBits := (if same then x.evBits else 0#32) ||| BitVec.ofNat 32 (2 ^ eventBit kind)
      thrBits := if same then x.thrBits else 0#32
      bitsTick := t }

/-- A channel fault with its partner, 63 for none: sticky event, then the message (R107, R108). A CH_SHORT_VF or
CH_CROSS whose class is Half-safe or higher holds GDRV off (R126). -/
def State.chFault (s : State) (c : ChIx) (kind partner : Nat) : State :=
  let h := halfOf c
  let s := s.noteEvent c kind
  let s := s.whenB ((kind == kChShortVf || kind == kChCross) && decide ((s.reactionOf (srcFH h.val) kind).1 ≥ clsHALF))
    fun s => (s.updHalf h fun x => { x with gdrvHold := true }).syncHalf h
  s.raise (srcFH h.val) kind (faultAddr partner c.val)

/-- A half-level fault: 63 in both fields (R107). -/
def State.halfFault (s : State) (h : HalfIx) (kind : Nat) : State := s.raise (srcFH h.val) kind (faultAddr 63 63)

/-- Is a diagnostic condition of a channel in force? -/
def Chan.has (x : Chan) (kind : Nat) : Bool := x.conds.contains kind
/-- A diagnostic condition begins. -/
def Chan.begin (x : Chan) (kind : Nat) : Chan := if x.has kind then x else { x with conds := kind :: x.conds }
/-- A diagnostic condition ends. -/
def Chan.ended (x : Chan) (kind : Nat) : Chan := { x with conds := x.conds.filter fun k => k != kind }

/-- A diagnostic whose condition has held for its time: the fault once, and the condition for the quality bit (R108). -/
def State.diagnose (s : State) (c : ChIx) (kind partner : Nat) : State :=
  if (s.chan c).has kind then s
  else (s.chFault c kind partner).updChan c fun x => x.begin kind

/-! ## The downlink -/

/-- Frames run between the dies of a half: its link is trained, its field die is supplied and has returned from its last field
reset (R127, R202). -/
def State.linkUp (s : State) (h : HalfIx) : Bool :=
  decide (s.fld (F.BD_STATUS_LINK h.val) ≥ 2) && !(s.half h).inReset && !(s.half h).returning

/-- Downlink frames run: the link is up, an image has been verified since the last reset, and CLK_FAIL has not stopped
them (R53, R202, R216). -/
def State.framesRun (s : State) (h : HalfIx) : Bool := s.linkUp h && !s.env.linkIdle && !s.env.clkFailed

/-! ## A change of a field die -/

/-- The channels a change has brought into their safe state begin their HOLD; those that left it end it (R128, R131). One that was not
driven just before has no command to hold and goes to OFF (DESIGN CHOICE, log entry 61).
`before` is the state before the change. -/
def State.holdChange (s before : State) (c : ChIx) : State :=
  if s.inSafe c && !before.inSafe c then
    s.updChan c fun x => { x with
      holding := s.chFld c (F.CH_SAFE_SAFE c.val) == 2 && (before.chan c).action == some 1
      holdVal := (before.chan c).value }
  else if !s.inSafe c then s.updChan c fun x => { x with holding := false }
  else s

/-- Make a change of a field die and let its channels, gate and status follow. `cap`: the switchings it causes are
those that begin captures (R194). -/
def State.fieldChange (s : State) (h : HalfIx) (cap : Bool) (f : State → State) : State :=
  let s' := f s
  let s' := (chOf h).foldl (fun (t : State) c => t.holdChange s c) s'
  let s' := (chOf h).foldl (fun (t : State) c => t.reSwitch c cap) s'
  (chOf h).foldl (fun (t : State) c => t.syncChan c) (s'.syncHalf h)

/-- The same for a change of one channel. -/
def State.chanChange (s : State) (c : ChIx) (cap : Bool) (f : Chan → Chan) : State :=
  s.fieldChange (halfOf c) cap fun s => s.updChan c f

/-- A field die loses its configuration: every channel unloaded, its AO-V outputs disconnected (R127), its table and parameters
gone. -/
def State.unload (s : State) (h : HalfIx) : State :=
  let stood := (chOf h).map fun c => s.stageFunc c
  s.fieldChange h false fun s =>
    let s := (chOf h).foldl (fun (s : State) c => let v := s.func c == fAOV; s.updChan c fun x => { x with
      action := none, value := 0, holding := false, pulse := none, disconnected := v, localReg := false,
      limit := false, shuntOpen := false, shuntOvl := false, loopLimit := false, retOpen := false, dark := false }) s
    s.updHalf h fun x => { x with
      loaded := false, armedF := false, keeper := 0, timedOut := false, dnMiss := 0, dnRun := 0, dormant := false,
      gateTest := none, kept := [], was := stood, params := [], table := [], tableCrc := none, mbSeq := none, mbReturn := [] }

/-- A field reset clears overload latches, attempt counts, filter counts, the gate hold and the GDRV hold (R132), and
with them the forced OFF of R213 and the GDRV drive opened by GDRV_SHORT (R125). -/
def State.clearField (s : State) (h : HalfIx) : State :=
  let s := (chOf h).foldl (fun (s : State) c =>
    s.updChan c fun x => { x with
      ovl := false, tries := 0, backoff := 0, releaseReq := false, filt := 0, state := false, offFails := 0, conds := [] }) s
  s.updHalf h fun x => { x with gateHold := false, gdrvHold := false, gdrvCut := false, forced := false }

/-! ## Causes of the safe state (R130) -/

/-- A safety channel of a refused or lost device of a Mirror or Stand-in image stays safe until a join completes (R437). -/
def State.yokeHeld (s : State) (c : ChIx) : Bool :=
  (s.imageYoke == 2 || s.imageYoke == 3) && s.yk.held && s.flag (F.CH_CFG_SAFETY c.val)

/-- A reaction taken at tick `t0` acts on the frames of slots that start at least 120 ticks later (R463). -/
def actsAt (t0 start : Nat) : Bool := decide (t0 + 120 ≤ start)

/-- ARMED as the frame of a slot that starts at `t` carries it. -/
def State.frameArmed (s : State) (h : HalfIx) (t : Nat) : Bool :=
  (match (s.half h).disarmTick with
    | some d => s.armed h.val || !actsAt d t
    | none => s.armed h.val)
  && (match s.yk.driveEnd with | some d => !actsAt d t | none => true)

/-- A reaction latch of the channel, or an uplink timeout of its half, as the frame of a slot that starts at `t` knows it (R217,
R463). -/
def State.reactedAt (s : State) (c : ChIx) (t : Nat) : Bool :=
  s.fc.latches.any (fun l => l.chan == c.val && actsAt l.since t)
    || (match (s.half (halfOf c)).upTimeout with | some u => actsAt u t | none => false)

/-- A cause of R130 for a channel as the logic die knows it at a boundary: a reaction from 120 ticks before it on (R463). -/
def State.safeCause (s : State) (c : ChIx) : Bool :=
  let h := halfOf c
  !s.frameArmed h s.btick || s.reactedAt c s.btick || (s.half h).uv || (s.half h).timedOut
    || (s.half h).forced || !(s.half h).loaded || s.yokeHeld c

/-- The channel's pair is blocked, as the frame of a slot that starts at `t` knows it (R286). -/
def State.pairBlockedAt (s : State) (c : ChIx) (t : Nat) : Bool :=
  s.flag (F.CH_CMD_SRC_EN c.val) && allPairs.any fun p =>
    (s.entry (s.fld (F.CH_CMD_SRC_INDEX c.val))).src == srcDerived p.val &&
      (match (s.pairs.get p).blocked with | some b => actsAt b t | none => false)

/-- A cause of the safe state holds for the channel in the frame of a slot that starts at `t` (R130, R217, R286, R463). -/
def State.frameCause (s : State) (c : ChIx) (t : Nat) : Bool :=
  !s.frameArmed (halfOf c) t || (s.chan c).safeL || s.reactedAt c t || s.pairBlockedAt c t

/-- The frame of a slot that starts at `t` carries SAFE for the channel: a cause holds, or the disarmed stand-in withholds an output
command (R448); an AI-LOOP takes none (R207). -/
def State.frameSafe (s : State) (c : ChIx) (t : Nat) : Bool :=
  s.frameCause c t || (s.standby && s.func c != fLOOP)

/-- The command of a channel, clamped to its range (R85): the value, and whether it was clamped. -/
def State.clampCmd (s : State) (c : ChIx) (v : Word) : Nat × Bool :=
  if s.isSwitch c then (v.toNat % 2, false)
  else
    let top : Int := if s.func c == fAOI then 24000 else 10500
    let r := clampInt 0 top v.toInt
    (r.toNat, r != v.toInt)

end Sys2Proof.Machine
end

