-- ==== Sys2Proof/Machine/Sequencer.lean ====
section
/-!
DEFINITION. Machine/Sequencer.lean: the registers of the sequencer and the spare of a half, the end of a running entry and
the restart of the table (R172, R176, R188).
-/
namespace Sys2Proof.Machine

/-! ## Registers of the sequencer and the spare -/

/-- Change the sequencer of a half. -/
def State.updSeq (s : State) (h : HalfIx) (f : Seq → Seq) : State := s.updHalf h fun x => { x with seq := f x.seq }
/-- The sequencer of a half. -/
def State.seqOf (s : State) (h : HalfIx) : Seq := (s.half h).seq

/-- Word 0 of an entry of the table (R183). -/
def State.seqW0 (s : State) (h : HalfIx) (e : Nat) : Word := s.reg (Reg.SEQ_TABLE_W0 h.val e)
/-- OP of an entry (R184). -/
def State.seqOp (s : State) (h : HalfIx) (e : Nat) : Nat := wbits (s.seqW0 h e) 31 28
/-- The channel an entry names, as a device channel. -/
def State.seqCh (s : State) (h : HalfIx) (e : Nat) : ChIx :=
  ⟨8 * h.val + wbits (s.seqW0 h e) 26 24 % 8, by omega⟩
/-- ARG of an entry. -/
def State.seqArg (s : State) (h : HalfIx) (e : Nat) : Nat := wbits (s.seqW0 h e) 23 16
/-- REPEAT of an entry. -/
def State.seqRepeat (s : State) (h : HalfIx) (e : Nat) : Nat := wbits (s.seqW0 h e) 15 8
/-- The entry under way. -/
def State.seqEntry (s : State) (h : HalfIx) : Nat := s.fld (F.SEQ_STATUS_ENTRY h.val)
/-- The channel of the entry under way. -/
def State.target (s : State) (h : HalfIx) : ChIx := s.seqCh h (s.seqEntry h)
/-- A TDAC entry without cover (R191), which an image allows in bench mode only (R186). -/
def State.noCover (s : State) (h : HalfIx) : Bool :=
  wbit (s.seqW0 h (s.seqEntry h)) 27 && s.seqOp h (s.seqEntry h) == 3 && s.bench

/-- Set the spare's mode, target and code (SPR_STATUS, R172). -/
def State.setSpare (s : State) (h : HalfIx) (mode target code : Nat) : State :=
  let s := s.setF (F.SPR_STATUS_MODE h.val) mode
  let s := s.setF (F.SPR_STATUS_TARGET h.val) target
  s.setF (F.SPR_STATUS_CODE h.val) code

/-- SEQ_STATUS.STEP of a stage (R176). -/
def stepOf : SeqStage → Nat
  | .shadow => 1
  | .zero => 3
  | .ref => 3
  | .dac => 3
  | .check => 4
  | .held => 4
  | _ => 0

/-- Enter a stage; STEP follows it. -/
def State.stage (s : State) (h : HalfIx) (g : SeqStage) : State :=
  (s.updSeq h fun q => { q with stage := g }).setF (F.SEQ_STATUS_STEP h.val) (stepOf g)

/-! ## The end of a running entry, and the restart (R188) -/

/-- What a publisher that is cut off inside its windows gave them stays on their results (R148): SUBST of a spare that covers the
channel, FORCED of the test DAC. At a boundary no window is cut. -/
def State.notePart (s : State) (c : ChIx) : State :=
  if s.tick == s.btick then s
  else
  let h := (halfOf c).val
  let mode := s.fld (F.SPR_STATUS_MODE h)
  let q := s.half (halfOf c)
  let hit := s.fld (F.SPR_STATUS_TARGET h) == c.val
  let cover := (mode == 2 || mode == 4) && hit
  let part := qb qSUBST cover ||| qb qFORCED (q.seq.running && q.seq.stage == .dac && hit && !cover)
  s.updChan c fun x => { x with partPrec := x.partPrec ||| part, partFast := x.partFast ||| part }

/-- The running entry, for channel `c`, is cut off (R188): the spare hands back at once; a channel caught in step 3 or 4, or parked,
returns to its last good coefficients; a test run under way ends. The sequencer stands STOPPED until the table restarts (DEDUCED,
log entry 31). -/
def State.cutEntry (s : State) (h : HalfIx) (c : ChIx) : State :=
  let s := s.notePart c
  let g := (s.seqOf h).stage
  let parked := s.fld (F.SEQ_STATUS_STATE h.val) == 3
  let caught := (s.seqOf h).running && (parked || g == .zero || g == .ref || g == .dac || g == .check || g == .held
    || !((s.seqOf h).after == .idle || (s.seqOf h).after == .shadow))
  let s := if caught then s.updChan c fun x => { x with coefs := x.good } else s
  let s := (chOf h).foldl (fun (s : State) c => s.setB (F.SPR_CHSTAT_PARKED c.val) false) s
  let s := (s.setSpare h 0 0 0).stage h .idle
  let s := (s.setF (F.SEQ_STATUS_REPEAT_LEFT h.val) 0).setF (F.SEQ_STATUS_STATE h.val) 0
  s.updSeq h fun q => { q with
    running := false, ending := false, redo := false, skip := false, attempt := 1, unjudged := 0, cmp := none,
    dacRes := none, idleRange := none, test := false, after := .idle }

/-- The table restarts at entry 0 at the next stook boundary that may start it (R188), and an entry under way for channel `c` is cut
off. A pending start is taken as a new request, so that the test section runs after entry 0. -/
def State.restartSeq (s : State) (h : HalfIx) (c : ChIx) : State :=
  let t := s.tick
  let has := decide (0 < s.fld (F.SEQ_CFG_LEN h.val))
  let take := s.flag (F.SEQ_STATUS_PENDING h.val) && !(s.seqOf h).wait
  let s := (s.cutEntry h c).updSeq h fun q => { q with
    next := 0, due := t, fresh := true, wait := q.wait || take, wrote := [] }
  let s := if take then s.setB (F.SEQ_STATUS_PENDING h.val) false else s
  s.setF (F.SEQ_STATUS_STATE h.val) (if has then 1 else 0)

end Sys2Proof.Machine
end

