-- ==== Sys2Proof/Machine/Channels.lean ====
section
/-!
DEFINITION. Machine/Channels.lean: the commands of the channels and halves: protection, diagnostics, dark pulses, the
field supply, the gate, and the returns of a field die (R82, R91-R135). A command that names a condition the state
rules out changes nothing (log entry 8).
-/
namespace Sys2Proof.Machine

/-- The common form of a command of one channel: it acts only when its condition can hold. -/
def State.whenCh (s : State) (b : Bool) (f : State → State) : Host.Outcome State Fault Refusal := .next (s.whenB b f)

/-! ## High-side switches (R91-R96) -/

/-- DO_CURRENT_LIMIT: the current reaches ILIM and the limit engages (R91); a running capture is LIMITED (R199). -/
def execDoCurrentLimit (c : ChIx) (s : State) : Host.Outcome State Fault Refusal :=
  s.whenCh (s.isSwitch c && (s.chan c).closed) fun s => s.chanChange c false fun x => { x with
    limit := true
    capture := x.capture.map fun k => { k with limitedAt := k.limitedAt.or (some k.samples.length) } }

/-- A trip of the overload protection (R92): the switch opens and the channel latches or enters backoff. -/
def State.overloadTrip (s : State) (c : ChIx) : State :=
  let retry := s.chFld c (F.CH_DO_OVL_MODE c.val) == 1 && decide ((s.chan c).tries < s.chFld c (F.CH_DO_RETRY_MAX c.val))
  let s := s.addF (F.CH_COUNTS_OVL_TRIPS c.val) 1
  let s := s.chanChange c false fun x => { x with
    ovl := x.ovl || !retry, backoff := if retry then 1 else 0, limit := false, releaseReq := false, tripped := true }
  s.chFault c kChOverload 63

/-- CH_OVERLOAD: the overload timer expires with the limit active, or 1.5 A has been exceeded for 200 ms (R91, R92).
Neither runs while a dark pulse holds the readback (R115). -/
def execChOverload (c : ChIx) (above1A5 : Bool) (s : State) : Host.Outcome State Fault Refusal :=
  s.whenCh (s.isSwitch c && (s.chan c).closed && ((s.chan c).limit || above1A5) && (s.chan c).heldTill.isNone)
    fun s => s.overloadTrip c

/-- RETRY_ATTEMPT: a backoff ends: the switch closes again for the next attempt, or the attempt waits for a command of
1 (R92, R93). -/
def execRetryAttempt (c : ChIx) (s : State) : Host.Outcome State Fault Refusal :=
  s.whenCh ((s.chan c).backoff == 1) fun s => s.chanChange c false fun x => { x with backoff := 2 }

/-- ATTEMPT_COUNT_RESET: closed for 10 s without the limit: the attempt count returns to 0 (R92). -/
def execAttemptCountReset (c : ChIx) (s : State) : Host.Outcome State Fault Refusal :=
  s.whenCh ((s.chan c).closed && !(s.chan c).limit) fun s => s.chanChange c false fun x => { x with tries := 0 }

/-- A write of 1 to CHn_FLAGS.LATCHED: the release waits for the boundary and counts as an unstamped write (R93). -/
def State.releaseLatch (s : State) (c : ChIx) : State :=
  if s.ovlLatched c then (s.updChan c fun x => { x with releaseReq := true }).unstamped else s

/-- LATCH_RELEASE. -/
def execLatchRelease (c : ChIx) (s : State) : Host.Outcome State Fault Refusal := s.hostKey fun s => s.releaseLatch c

/-- At a boundary the released latches end and the attempt counts return to 0 (R93); a trip in the same swath is kept (R135). -/
def State.applyRelease (s : State) (c : ChIx) : State :=
  let trip := (s.chan c).tripped
  let s := s.updChan c fun x => { x with tripped := false }
  if (s.chan c).releaseReq then
    if trip then s.updChan c fun x => { x with releaseReq := false }
    else s.chanChange c false fun x => { x with releaseReq := false, ovl := false, tries := 0 }
  else s

/-- CH_OVERTEMP: the junction reaches 175 °C: the switch opens, HOT is set, and the Service Record is told of a thermal cycle
(R94). -/
def execChOvertemp (c : ChIx) (s : State) : Host.Outcome State Fault Refusal :=
  s.whenCh (s.isSwitch c && !(s.chan c).hot) fun s =>
    let s := s.chanChange c false fun x => { x with hot := true, limit := false }
    let s : State := { s with sr := { s.sr with thermal := s.sr.thermal.set c.val (s.sr.thermal.getD c.val 0 + 1) } }
    (s.addF (F.CH_COUNTS_HOT_TRIPS c.val) 1).chFault c kChOvertemp 63

/-- THERMAL_RECOVERY: below 150 °C the switch follows its command again (R94, R131). -/
def execThermalRecovery (c : ChIx) (s : State) : Host.Outcome State Fault Refusal :=
  s.whenCh ((s.chan c).hot) fun s => s.chanChange c false fun x => { x with hot := false }

/-- CH_CLAMP_ENERGY: a clamp of the open switch took more than 0.5 J (R95). -/
def execChClampEnergy (c : ChIx) (s : State) : Host.Outcome State Fault Refusal :=
  s.whenCh (s.isSwitch c && !(s.chan c).closed) fun s => s.chFault c kChClampEnergy 63

/-! ## Analogue inputs and outputs, the loop supply (R97-R101) -/

/-- AI-I or AI-LOOP. -/
def State.hasShunt (s : State) (c : ChIx) : Bool := s.func c == fAII || s.func c == fLOOP

/-- SHUNT_OPEN: the input current reaches 30 mA (R97, R164). -/
def execShuntOpen (c : ChIx) (s : State) : Host.Outcome State Fault Refusal :=
  s.whenCh (s.hasShunt c && !(s.chan c).shuntOpen) fun s =>
    s.chanChange c false fun x => { x with shuntOpen := true, wShunt := true }

/-- SHUNT_RECONNECT: 10 ms after an opening the shunt reconnects and meets a current in µA: 26 mA or more opens it
again at once (R97). -/
def execShuntReconnect (c : ChIx) (uA : Nat) (s : State) : Host.Outcome State Fault Refusal :=
  s.whenCh ((s.chan c).shuntOpen && decide (uA < 26000)) fun s =>
    s.chanChange c false fun x => { x with shuntOpen := false, shuntOvl := false }

/-- SHUNT_OPEN_OVERLOAD: the shunt has stayed open longer than T_OVL (R97). -/
def execShuntOpenOverload (c : ChIx) (s : State) : Host.Outcome State Fault Refusal :=
  s.whenCh ((s.chan c).shuntOpen && !(s.chan c).shuntOvl) fun s =>
    (s.updChan c fun x => { x with shuntOvl := true }).chFault c kChOverload 63

/-- LOOP_SUPPLY_LIMIT: the 30 mA limit of the loop supply has stayed active longer than T_OVL (R98). -/
def execLoopSupplyLimit (c : ChIx) (s : State) : Host.Outcome State Fault Refusal :=
  s.whenCh (s.loopSupply c && !(s.chan c).loopLimit) fun s =>
    (s.chanChange c false fun x => { x with loopLimit := true }).chFault c kChOverload 63

/-- CH_HEADROOM: AO-I headroom below 1.2 V for 10 ms while it drives 1 mA or more (R99). -/
def execChHeadroom (c : ChIx) (s : State) : Host.Outcome State Fault Refusal :=
  s.whenCh (s.func c == fAOI && (s.chan c).action.isSome && decide (s.aoLevel c ≥ 1000)) fun s =>
    (s.chFault c kChHeadroom 63).updChan c fun x => x.begin kChHeadroom

/-- CH_SENSE: IO and RTN of an AO-V channel differ by more than 0.5 V for 10 ms: it regulates locally (R100). -/
def execChSense (c : ChIx) (s : State) : Host.Outcome State Fault Refusal :=
  s.whenCh (s.func c == fAOV) fun s => (s.diagnose c kChSense 63).updChan c fun x => { x with localReg := true }

/-- REMOTE_SENSE_RESTORE: the difference has stayed below 0.2 V for 100 ms (R100). -/
def execRemoteSenseRestore (c : ChIx) (s : State) : Host.Outcome State Fault Refusal :=
  s.whenCh ((s.chan c).localReg) fun s => s.updChan c fun x => { x.ended kChSense with localReg := false }

/-- AO_V_DISCONNECT: IO held above 12 V from outside: the output stage disconnects (R100). -/
def execAoVDisconnect (c : ChIx) (s : State) : Host.Outcome State Fault Refusal :=
  s.whenCh (s.func c == fAOV) fun s => s.updChan c fun x => { x with disconnected := true }

/-- AO_V_RECONNECT: IO below 11 V for 10 ms (R100). -/
def execAoVReconnect (c : ChIx) (s : State) : Host.Outcome State Fault Refusal :=
  s.whenCh (s.func c == fAOV) fun s => s.updChan c fun x => { x with disconnected := false }

/-- CH_AO_DEV: the readback differs from the command by more than 1 % of full scale for 10 ms; not in LIMIT nor in a
safe state (R101). -/
def execChAoDev (c : ChIx) (s : State) : Host.Outcome State Fault Refusal :=
  s.whenCh ((s.func c == fAOI || s.func c == fAOV) && !(s.chan c).clamped && !s.inSafe c)
    fun s => (s.chFault c kChAoDev 63).updChan c fun x => x.begin kChAoDev

/-! ## ALM and PULSE (R102-R105) -/

/-- The strap that the pad tells over the two phases (R545); 3 where it changed between them (R554). -/
def almCode (r : AlmPhases) : Nat :=
  if r.changed then 3
  else if 4000 < r.source && r.sink < 1000 then 0
  else if r.source < 1000 && r.sink < 1000 then 1
  else if 4000 < r.source && 4000 < r.sink then 2
  else 3

/-- ALM_READ: the 1 ms reading of the strap by a supplied die; a change takes effect on the next frame and raises ALM_CHANGED (R103,
R545). -/
def execAlmRead (h : HalfIx) (r : AlmPhases) (s : State) : Host.Outcome State Fault Refusal :=
  let code := almCode r
  s.whenCh (!(s.half h).inReset && (s.half h).almIn != code) fun s =>
    (s.updHalf h fun x => { x with almIn := code }).halfFault h kAlmChanged

/-- PULSE_EDGE: an edge of a PULSE channel: stamped for the frame, at most two in one, else CH_EDGE_LOST; each counts in the value word
(R105). Edges alternate (R209), so an edge to the state the comparator holds is none. -/
def execPulseEdge (c : ChIx) (rising : Bool) (s : State) : Host.Outcome State Fault Refusal :=
  s.whenCh (s.func c == fPULSE && (s.chan c).comp != rising) fun s =>
    let frame := s.btick + s.inSwath / 192 * 192
    let n := if (s.chan c).frameAt == frame then (s.chan c).frameEdges + 1 else 1
    let t := s.tick
    let s := s.updChan c fun x => { x with
      comp := rising, frameAt := frame, frameEdges := n, pulses := if rising then x.pulses + 1 else x.pulses }
    if n > 2 then s.chFault c kChEdgeLost 63
    else s.updChan c fun x => { x with edgeAt := (t :: x.edgeAt).take 4 }

/-! ## Return switch (R82) -/

/-- The output diagnostics a disarmed stand-in does not evaluate (R133). -/
def State.standbyOut (s : State) (c : ChIx) : Bool := s.standby && s.isOutput c

/-- RETURN_SWITCH_OPEN: the 60 mA limit has been active for 1 ms: the switch opens with CH_SHORT_VF, which a disarmed stand-in
does not evaluate on an output (R133). -/
def execReturnSwitchOpen (c : ChIx) (s : State) : Host.Outcome State Fault Refusal :=
  s.whenCh (s.isReturn c && !(s.chan c).retOpen) fun s =>
    (if s.standbyOut c then s else s.diagnose c kChShortVf 63).updChan c fun x => { x with retOpen := true }

/-- RETURN_SWITCH_CLOSE: RTN has stayed below 2 V for 10 ms. -/
def execReturnSwitchClose (c : ChIx) (s : State) : Host.Outcome State Fault Refusal :=
  s.whenCh ((s.chan c).retOpen) fun s => s.updChan c fun x => { x.ended kChShortVf with retOpen := false }

/-! ## Diagnostics (R108, R109, R133) -/

/-- A diagnostic test of a channel is enabled in CHn_DIAG (R108). -/
def State.diagOn (s : State) (c : ChIx) (f : Fld) : Bool := s.chFld c f != 0

/-- The open-wire test of the channel's function is enabled and can hold now (R108): not while tests are suspended (R118), not the
off-state one on a disarmed stand-in's output (R133), and none through an open shunt (R97). -/
def State.openTest (s : State) (c : ChIx) : Bool :=
  let x := s.chan c
  let onEn := s.diagOn c (F.CH_DIAG_OW_ON_EN c.val)
  if (s.half (halfOf c)).susp then false
  else if s.isSwitch c then
    if x.closed then onEn && !x.limit && s.gateWanted (halfOf c) && x.heldTill.isNone
    else s.diagOn c (F.CH_DIAG_OW_OFF_EN c.val) && decide (x.offFails ≥ 2) && x.heldTill.isNone && !s.standbyOut c
  else if s.func c == fDI then onEn && s.sinkOn c
  else if s.hasShunt c then onEn && !x.shuntOpen
  else if s.func c == fAOI then onEn && decide (s.aoLevel c ≥ 1000)
  else false

/-- CH_OPEN: an open-wire condition has held for OW_TIME (R108). -/
def execChOpen (c : ChIx) (s : State) : Host.Outcome State Fault Refusal :=
  s.whenCh (s.openTest c) fun s => s.diagnose c kChOpen 63

/-- CH_SHORT_VF: switch open, current below 5 mA, readback state 1 for OW_TIME (R108). -/
def execChShortVf (c : ChIx) (s : State) : Host.Outcome State Fault Refusal :=
  s.whenCh (s.isSwitch c && s.diagOn c (F.CH_DIAG_SVF_EN c.val) && !(s.chan c).closed && (s.chan c).heldTill.isNone
    && !s.standbyOut c) fun s => s.diagnose c kChShortVf 63

/-- CH_STUCK_ON: commanded open and more than 20 mA for 1 ms; the gate is held open (R108, R122). -/
def execChStuckOn (c : ChIx) (s : State) : Host.Outcome State Fault Refusal :=
  s.whenCh (s.isSwitch c && !s.wants c && !(s.chan c).has kChStuckOn) fun s =>
    let s := s.diagnose c kChStuckOn 63
    s.fieldChange (halfOf c) false fun s => s.updHalf (halfOf c) fun x => { x with gateHold := true }

/-- CH_STUCK_OFF: commanded closed, unprotected, gate closed, readback state 0 for 1 ms (R108). -/
def execChStuckOff (c : ChIx) (s : State) : Host.Outcome State Fault Refusal :=
  s.whenCh (s.isSwitch c && s.wants c && s.unprotected c && !(s.chan c).limit && (s.chan c).heldTill.isNone
    && s.gateWanted (halfOf c) && !s.standbyOut c) fun s => s.diagnose c kChStuckOff 63

/-- OFF_STATE_OPEN_TEST: one test of 1 ms in every 10 ms on an open switch whose readback state is 0 (R109); suspended
below 16 V (R118); a passing test ends the condition. -/
def execOffStateOpenTest (c : ChIx) (failed : Bool) (s : State) : Host.Outcome State Fault Refusal :=
  s.whenCh (s.isSwitch c && s.diagOn c (F.CH_DIAG_OW_OFF_EN c.val) && !(s.chan c).closed && !(s.chan c).comp
    && !(s.half (halfOf c)).susp && !s.standbyOut c) fun s =>
    s.updChan c fun x => if failed then { x with offFails := x.offFails + 1 } else { x.ended kChOpen with offFails := 0 }

/-! ## Dark pulses (R111-R117) -/

/-- Is a channel's pulse slot due in a swath (R111)? The follower of a Yoke pair uses the slot 16 further on (R112). -/
def State.dpSlotDue (s : State) (c : ChIx) (swath : Nat) : Bool :=
  let per := s.fld (F.FH_DP_DP_PERIOD (halfOf c).val)
  let slot := s.fld (F.CH_DIAG_DP_SLOT c.val)
  let slot := if s.imageYoke != 0 && !s.boot.lead then (slot + 16) % 32 else slot
  s.isSwitch c && s.flag (F.CH_DIAG_DP_EN c.val) && decide (0 < per)
    && swath % per == slot * s.fld (F.FH_DP_DP_GAP (halfOf c).val)

/-- Is a channel's dark pulse due in a swath? A stand-in tests its outputs otherwise (R133, R448). -/
def State.dpDue (s : State) (c : ChIx) (swath : Nat) : Bool := s.dpSlotDue c swath && !s.standbyOut c

/-- A reason to skip a due pulse (R116). -/
def State.dpSkip (s : State) (c : ChIx) : Bool :=
  let x := s.chan c
  !x.closed || s.inSafe c || s.inNight c || x.limit || x.backoff != 0 || x.hot
    || (s.half (halfOf c)).susp || x.capture.isSome

/-- DARK_PULSE: at tick 2,496 of a due swath the field die opens the switch, or the pulse is skipped (R111, R116). -/
def execDarkPulse (c : ChIx) (s : State) : Host.Outcome State Fault Refusal :=
  s.whenCh ((s.chan c).dark && (s.chan c).pulse.isNone) fun s =>
    let s := s.elapse ((s.half (halfOf c)).dieAt + 2496)
    let n := s.swath
    let s := s.updChan c fun x => { x with dark := false, dpSwath := some n }
    if s.dpSkip c then s.addF (F.CH_COUNTS_DP_SKIP c.val) 1
    else
      let k := s.holdKept c
      let watch := (allCh.filter fun d => d != c && s.isSwitch d && !(s.chan d).closed && (s.chan d).comp).map (·.val)
      let mean (l : List Int) : Int := if l.isEmpty then 0 else roundDiv (l.foldl (· + ·) 0) l.length
      let before := (allCh.filter fun d => d != c && s.isSwitch d).map fun d => (d.val, mean (s.chan d).last3)
      let t := s.tick
      let stop := t + s.chFld c (F.CH_DIAG_DP_WIDTH c.val) * 480 + 4800
      let s := s.updChan c fun x => { x with
        pulse := some { start := t, held := x.smp, watch := watch, before := before }
        heldTill := some (x.smp, stop), closed := false, holdFrom := k }
      (s.partOperation c.val).syncChan c

/-- The switch closes again after a pulse; this starts no capture and is no closing of R305. Values are held until 100 µs after
this end (R115), which pass unseen while the logic die has no supply and no tick. -/
def State.endPulse (s : State) (c : ChIx) : State :=
  let t := s.tick
  let on := s.env.vin
  let s := s.updChan c fun x => { x with pulse := none, heldTill := if on then x.heldTill.map fun y => (y.1, t + 4800) else none }
  let s := if s.wants c && s.unprotected c then s.updChan c fun x => { x with closed := true } else s
  s.syncChan c

/-- The code under which a short found by a dark pulse without a partner is kept (R113), apart from the SVF test. -/
def condPulseShort : Nat := 36

/-- The switch current of a channel of the Yoke partner in mA, from the readback the partner exchanges (R83, R113). -/
def State.partnerCurrent (s : State) (i : Nat) : Int := sx 16 (wbits (s.readEntry (16 + i)).value 31 16)

/-- The channel of a joined partner with the highest switch current, none where no current flows (R113): both devices run one image,
so that its switches are this device's (R112). Among equal ones it is the one that is named. The currents are those of the partner's entries at
the verdict, its means of an earlier swath (R441, R442), and with none above 0 the step has failed: the spec names no sample
(DESIGN CHOICE, log entry 77). -/
def State.partnerPeak (s : State) (named : Option (Fin 16)) : Option Nat :=
  if !s.joined then none
  else
    let top := allCh.foldl (fun (m : Int) c => if s.isSwitch c then max m (s.partnerCurrent c.val) else m) 0
    let peaks := allCh.filter fun c => s.isSwitch c && decide (s.partnerCurrent c.val = top)
    if top ≤ 0 then none
    else match named with
      | some y => if peaks.contains y then some y.val else peaks.head?.map (·.val)
      | none => peaks.head?.map (·.val)

/-- DARK_PULSE_VERDICT: DP_WIDTH after its start the pulse ends and is judged (R113, R114), each failed pulse with its fault. `yoke` names
the channel with the highest switch current during the pulse on the Yoke partner, if any. The CH_CROSS condition of the second
channel, like that of the first, ends with a passing pulse of its own (DESIGN CHOICE, log entry 60). -/
def execDarkPulseVerdict (c : ChIx) (yoke : Option (Fin 16)) (s : State) : Host.Outcome State Fault Refusal :=
  .next <| match (s.chan c).pulse with
    | none => s
    | some p =>
      let s := (s.elapse (p.start + s.chFld c (F.CH_DIAG_DP_WIDTH c.val) * 480)).endPulse c
      let s :=
        if p.passed then s.updChan c fun x => (x.ended kChCross).ended condPulseShort
        else
          let s := s.addF (F.CH_COUNTS_DP_FAIL c.val) 1
          let best := p.excess.foldl (fun (b : Option (Nat × Int)) e =>
            if e.2 > 20 then (match b with | some y => if e.2 > y.2 then some e else b | none => some e) else b) none
          match best with
          | some e => ((s.setF (F.CH_FLAGS_PARTNER c.val) e.1).chFault c kChCross e.1).updChan c fun x => x.begin kChCross
          | none => match s.partnerPeak yoke with
            | some y => ((s.setF (F.CH_FLAGS_PARTNER c.val) (16 + y)).chFault c kChCross (16 + y)).updChan c
                fun x => x.begin kChCross
            | none => (s.chFault c kChShortVf 63).updChan c fun x => x.begin condPulseShort
      p.fell.foldl (fun s d => if h : d < 16 then
        let d' : ChIx := ⟨d, h⟩
        let s := (s.setF (F.CH_FLAGS_PARTNER c.val) d).chFault c kChCross d
        let s := (s.setF (F.CH_FLAGS_PARTNER d) c.val).chFault d' kChCross c.val
        (s.updChan c fun x => x.begin kChCross).updChan d' fun x => x.begin kChCross else s) s

/-- A running pulse is aborted: its verdict is discarded, it counts as skipped, the switch follows its command (R116). One that a command,
a safe or a night state leaves open has made its operation when the pulse began (R486), and its capture begins now (R194; DESIGN CHOICE,
log entry 78); one that a protection or the forced OFF of R213 holds open begins none. -/
def State.abortPulse (s : State) (c : ChIx) : State :=
  if (s.chan c).pulse.isNone then s
  else
    let s := s.addF (F.CH_COUNTS_DP_SKIP c.val) 1
    let s := s.endPulse c
    if s.wants c || (s.chan c).action.isNone || (s.half (halfOf c)).forced then s else s.captureStart c false

/-- A pulse ends with its die: it counts as skipped (R116), and its switch stays open (R127). -/
def State.dropPulse (s : State) (c : ChIx) : State :=
  if (s.chan c).pulse.isNone then s
  else (s.addF (F.CH_COUNTS_DP_SKIP c.val) 1).updChan c fun x => { x with pulse := none, heldTill := none }

/-- DARK_PULSE_ABORT. -/
def execDarkPulseAbort (c : ChIx) (s : State) : Host.Outcome State Fault Refusal := .next (s.abortPulse c)

/-- The stand-in's switch opens at the end of a share test: an operation of the part (R486), and no capture. -/
def State.endShare (s : State) (c : ChIx) : State :=
  let open_ := (s.chan c).closed
  let s := s.updChan c fun x => { x with share := none, action := some 2, closed := false }
  (s.whenB open_ fun s => s.partOperation c.val).syncChan c

/-- A change of the stand-in's own command during a share test opens the switch at once; the verdict is discarded (R448). -/
def State.shareGuard (s : State) (c : ChIx) (t : Nat) : State :=
  if (s.chan c).share.isSome && !((s.out.get c).at t).getLsbD 0 then s.endShare c else s

/-! ## Field supply (R118-R120) -/

/-- A change of the comparators of a half. -/
def State.supplyChange (s : State) (h : HalfIx) (f : Half → Half) : State :=
  s.fieldChange h true fun s => s.updHalf h f

/-- SUPPLY_HIGH: above 33.0 V for 1 ms. -/
def execSupplyHigh (h : HalfIx) (s : State) : Host.Outcome State Fault Refusal :=
  s.whenCh (!(s.half h).high) fun s => (s.supplyChange h fun x => { x with high := true }).halfFault h kSupplyHigh

/-- SUPPLY_LOW: below 19.2 V for 1 ms. -/
def execSupplyLow (h : HalfIx) (s : State) : Host.Outcome State Fault Refusal :=
  s.whenCh (!(s.half h).low) fun s => (s.supplyChange h fun x => { x with low := true }).halfFault h kSupplyLow

/-- TESTS_SUSPENDED: below 16.0 V for 1 ms: open tests and dark pulses stop, and every AO-I channel of the half raises
CH_HEADROOM once (R99, R116, R118). -/
def execTestsSuspended (h : HalfIx) (s : State) : Host.Outcome State Fault Refusal :=
  s.whenCh (!(s.half h).susp) fun s =>
    let s := s.supplyChange h fun x => { x with susp := true }
    let s := (chOf h).foldl (fun (s : State) c => s.abortPulse c) s
    (chOf h).foldl (fun (s : State) c => if s.func c == fAOI then s.chFault c kChHeadroom 63 else s) s

/-- SUPPLY_CONDITION_END: VFIELD has passed back over a threshold for 10 ms: HIGH (0), LOW (1) or TESTS_SUSPENDED (2)
ends. -/
def execSupplyConditionEnd (h : HalfIx) (which : Fin 3) (s : State) : Host.Outcome State Fault Refusal :=
  .next (s.supplyChange h fun x => match which.val with
    | 0 => { x with high := false }
    | 1 => { x with low := false }
    | _ => { x with susp := false })

/-- SUPPLY_UV: below 11.0 V for 50 µs: every output of the half to its safe state, latched (R118). -/
def execSupplyUv (h : HalfIx) (s : State) : Host.Outcome State Fault Refusal :=
  s.whenCh (!((s.half h).uv && !(s.half h).uvReady) && !(s.half h).inReset) fun s =>
    let s := s.supplyChange h fun x => { x with uv := true, uvReady := false, uvKey := false }
    let s := (chOf h).foldl (fun (s : State) c => (s.updChan c fun x => { x with safeL := true }).abortPulse c) s
    (s.addF (F.FH_COUNTS_UV_CNT h.val) 1).halfFault h kSupplyUv

/-- UV_RECOVERY: VFIELD has stayed above 13.0 V for 20 ms (R119). -/
def execUvRecovery (h : HalfIx) (s : State) : Host.Outcome State Fault Refusal :=
  s.whenCh ((s.half h).uv && !(s.half h).inReset) fun s => s.supplyChange h fun x => { x with uvReady := true }

/-- Key 0xA5 in FH_CTRL: after the recovery it ends the latch at the next boundary, before it is dropped (R119). -/
def State.uvRearm (s : State) (h : HalfIx) : State :=
  if (s.half h).uv && (s.half h).uvReady then s.updHalf h fun x => { x with uvKey := true } else s

/-- UV_REARM. -/
def execUvRearm (h : HalfIx) (s : State) : Host.Outcome State Fault Refusal := s.hostKey fun s => s.uvRearm h

/-- At a boundary a recovered latch ends, with UV_AUTO or by the key (R119). -/
def State.applyUv (s : State) (h : HalfIx) : State :=
  if (s.half h).uv && (s.half h).uvReady && (s.half h).loaded
      && (s.flag (F.FH_CFG_UV_AUTO h.val) || (s.half h).uvKey) then
    s.supplyChange h fun x => { x with uv := false, uvReady := false, uvKey := false }
  else s

/-- The half's link is lost with its die (R118): LINK reads DOWN, and its sequencer's entry ends (R188). -/
def State.dieLost (s : State) (h : HalfIx) : State :=
  let s := (chOf h).foldl (fun (s : State) c => (s.dropPulse c).captureEnd c true) s
  let s := ((s.cutEntry h (s.target h)).unload h).clearField h
  let s := s.setF (F.BD_STATUS_LINK h.val) 0
  s.fieldChange h false fun s => s.updHalf h fun x => { x with uvReady := false, uvKey := false }

/-- FIELD_DIE_RESET: VFIELD below 8.0 V resets the field die (R118, R132). -/
def execFieldDieReset (h : HalfIx) (s : State) : Host.Outcome State Fault Refusal :=
  s.whenCh (!(s.half h).inReset) fun s =>
    (s.updHalf h fun x => { x with inReset := true, returning := true }).dieLost h

/-- Key 0x5F in FH_CTRL re-initialises the field die of a half in its safe state; dropped while the half is armed
(R132). A half that holds its night state is disarmed, and takes the key (DESIGN CHOICE, log entry 62). No register of the logic die
is reset (R19). -/
def State.fieldReset (s : State) (h : HalfIx) : State :=
  if s.armed h.val || (s.half h).inReset then s
  else (s.updHalf h fun x => { x with returning := true }).dieLost h

/-- FIELD_RESET. -/
def execFieldReset (h : HalfIx) (s : State) : Host.Outcome State Fault Refusal := s.hostKey fun s => s.fieldReset h

/-- FIELD_RESTART: the field die returns unloaded; its half arms again under R119 with the 20 ms counted afresh
(R118, R120, R127). The model holds the undervoltage latch for this, so that FH_STATUS.SUPPLY reads 3 and then 4 until the half
may arm; the spec gives SUPPLY no value there (DESIGN CHOICE, log entry 30). -/
def execFieldRestart (h : HalfIx) (s : State) : Host.Outcome State Fault Refusal :=
  s.whenCh ((s.half h).returning) fun s =>
    let s := s.fieldChange h false fun s => s.updHalf h fun x => { x with
      inReset := false, returning := false, uv := true, uvReady := false, uvKey := false }
    let s := (s.setF (F.BD_STATUS_LINK h.val) 1).addF (F.FH_COUNTS_RESTARTS h.val) 1
    s.halfFault h kFieldRestart

/-! ## Group gate and GDRV (R122-R126, R128) -/

/-- A failure that holds the gate open (R122); a switch it opens begins no capture (R194). -/
def State.holdGate (s : State) (h : HalfIx) (kind : Nat) : State :=
  (s.fieldChange h false fun s => s.updHalf h fun x => { x with gateHold := true }).halfFault h kind

/-- GATE_FAIL: the rail breaches its limit for 2 ms (R123). -/
def execGateFail (h : HalfIx) (s : State) : Host.Outcome State Fault Refusal := .next (s.holdGate h kGateFail)

/-- HALF_OVERCURRENT: more than 8 A for 100 ms, or 12 A for 1 ms (R124). -/
def execHalfOvercurrent (h : HalfIx) (s : State) : Host.Outcome State Fault Refusal :=
  .next (s.holdGate h kHalfOvercurrent)

/-- GDRV_OPEN: GDRV in COIL mode, on, draws below 5 mA for 50 ms (R125). -/
def execGdrvOpen (h : HalfIx) (s : State) : Host.Outcome State Fault Refusal :=
  s.whenCh (s.halfFld h (F.FH_CFG_GDRV_MODE h.val) == 1 && s.gdrvWanted h)
    fun s => s.halfFault h kGdrvOpen

/-- GDRV_SHORT: the limit in COIL mode, on which the drive opens until field reset, or the drive-level error in GATE
mode, for 1 ms (R125). -/
def execGdrvShort (h : HalfIx) (s : State) : Host.Outcome State Fault Refusal :=
  s.whenCh (s.halfFld h (F.FH_CFG_GDRV_MODE h.val) == 1 || s.halfFld h (F.FH_CFG_GDRV_MODE h.val) == 2) fun s =>
    let s := s.whenB (s.halfFld h (F.FH_CFG_GDRV_MODE h.val) == 1) fun s =>
      (s.updHalf h fun x => { x with gdrvCut := true }).syncHalf h
    s.halfFault h kGdrvShort

/-- The filtered state of the mirror contact of a half is that of GDRV, not its inverse; none where FB_CH names no DI channel
(R126). It is watched in GDRV_MODE 0 as well, whose row of R125 has no monitoring (DESIGN CHOICE, log entry 79). -/
def State.mirrorWrong (s : State) (h : HalfIx) : Bool :=
  allCh.any fun c => c.val == s.halfFld h (F.FH_CFG_FB_CH h.val) && s.func c == fDI && (s.chan c).state == s.gdrvWanted h

/-- GDRV_FB: the mirror contact has not been the inverse of GDRV within FB_TIME (R126). -/
def execGdrvFb (h : HalfIx) (s : State) : Host.Outcome State Fault Refusal :=
  s.whenCh (s.mirrorWrong h) fun s => s.halfFault h kGdrvFb

/-- HOLD_EXPIRY: HOLD_MS runs out and the HOLD goes to OFF (R128). -/
def execHoldExpiry (c : ChIx) (s : State) : Host.Outcome State Fault Refusal :=
  s.whenCh ((s.chan c).holding) fun s => s.chanChange c false fun x => { x with holding := false }

end Sys2Proof.Machine
end

