-- ==== Sys2Proof/Machine/Thresher.lean ====
section
/-!
DEFINITION. Machine/Thresher.lean: conversion: coefficients, fast windows and what they feed, precision windows, banks,
extremes, summaries, and the write of the channel entries when Thresh ends (R83, R89, R104, R106, R113-R115, R136-R171,
R210, R212, R305).
-/
namespace Sys2Proof.Machine

/-! ## Coefficients (R145, R176) -/

/-- g × (raw - z), rounded with halves up (R139, R145). -/
def Coef.apply (k : Coef) (raw : Int) : Int :=
  let n := k.num * (raw - k.zero)
  if k.den < 0 then roundDiv (-n) (-k.den) else roundDiv n k.den

/-- A code clamped to `n` bits with its overrange bits (R163): both directions give the positive code. -/
def clampCode (n : Nat) (v : Int) (hi0 lo0 : Bool) : Int × Nat :=
  let top : Int := 2 ^ (n - 1) - 1
  let bot : Int := -(2 ^ (n - 1) : Nat)
  let hi := hi0 || decide (v > top)
  let lo := lo0 || decide (v < bot)
  (if hi then top else if lo then bot else v, qb qOVR hi ||| qb qUNDR lo)

/-- A raw code as a frame carries it, in `n` bits. -/
def wireCode (n : Nat) (v : Int) : Int := clampInt (-(2 ^ (n - 1) : Nat)) (2 ^ (n - 1) - 1) v

/-- What a fast window latches of one modulator (R209); a code beyond its bits is an overload (R163). -/
def fastWin (m : ModRaw) : ChWin :=
  { prim := wireCode 16 m.fast, sec := wireCode 16 m.sec, high := m.high || decide (m.fast > 32767)
    low := m.low || decide (m.fast < -32768) }

/-- The P-frame word of a precision result (R211): OVR, UNDR and the raw code. -/
def precWord (m : ModRaw) : Word :=
  BitVec.ofNat 32 (b2n (m.high || decide (m.prec > 0x7FFFFF)) * 2 ^ 31 + b2n (m.low || decide (m.prec < -0x800000)) * 2 ^ 30
    + uOf 24 (wireCode 24 m.prec))

/-- The precision result of a P-frame word: the corrected code and its overrange bits; with an open shunt it is OVR (R145, R163,
R164). -/
def precOf (k : Coef) (w : Word) (shunt : Bool) : Int × Nat :=
  clampCode 24 (k.apply (sx 24 (wbits w 23 0))) (wbit w 31 || shunt) (wbit w 30)

/-- The corrected fast sample of a channel (R145, R148): from the spare's codes where the spare publishes it. -/
def ChWin.smp (y spare : ChWin) : Smp :=
  let m := if y.sub then spare else y
  let (code, q) := clampCode 16 (y.coefs.fast.apply m.prim) (m.high || y.shunt) m.low
  let (sec, _) := clampCode 16 (y.coefs.sec.apply m.sec) false false
  let q := q ||| y.qual ||| qb qSUSPECT y.nbr
  match y.held with
  | some h => { code := code, sec := sec, qual := q, shown := h.shown, bit0 := h.bit0, bit1 := h.bit1 }
  | none => { code := code, sec := sec, qual := q, shown := code, bit0 := y.bit0, bit1 := y.bit1 }

/-- Gain and zero of one path from the zero and the reference result (R176). Equal results leave the gain without a
value: it is free (log entry 4). -/
def calPath (full zero ref : Int) (s : State) : Coef × State :=
  if ref == zero then
    let (w, s) := s.drawWord
    (⟨w.toInt, 1, zero⟩, s)
  else (⟨4 * full, 5 * (ref - zero), zero⟩, s)

/-- The coefficients of a modulator from its zero and reference results (R176). -/
def calibrate (zero ref : ModRaw) (s : State) : Coefs × State :=
  let (p, s) := calPath (2 ^ 23) zero.prec ref.prec s
  let (f, s) := calPath (2 ^ 15) zero.fast ref.fast s
  let (g, s) := calPath (2 ^ 15) zero.sec ref.sec s
  (⟨p, f, g⟩, s)

/-! ## Which modulator publishes (R172, R180, R191) -/

/-- The spare of a half covers channel c: SUBST or PARKED. -/
def State.covered (s : State) (c : ChIx) : Bool :=
  let h := (halfOf c).val
  (s.fld (F.SPR_STATUS_MODE h) == 2 || s.fld (F.SPR_STATUS_MODE h) == 4) && s.fld (F.SPR_STATUS_TARGET h) == c.val

/-- The spare is parked on channel c. -/
def State.parkedOn (s : State) (c : ChIx) : Bool := s.covered c && s.fld (F.SPR_STATUS_MODE (halfOf c).val) == 4

/-- The test DAC drives the published modulator of channel c: a DAC stook without cover (R191). -/
def State.dacForced (s : State) (c : ChIx) : Bool :=
  let q := (s.half (halfOf c)).seq
  q.running && q.stage == .dac && s.fld (F.SPR_STATUS_TARGET (halfOf c).val) == c.val && !s.covered c

/-- The spare's coefficients for a function and option (R174): its factory ones until the set is refreshed. -/
def Half.spareCoefs (x : Half) (func opt : Nat) : Coefs :=
  match x.sets.find? (fun y => y.func == func && y.opt == opt) with
  | some y => y.coefs
  | none => {}

/-- The coefficients of the modulator that publishes channel c. -/
def State.pubCoefs (s : State) (c : ChIx) : Coefs :=
  if s.covered c then (s.half (halfOf c)).spareCoefs (s.func c) (s.chFld c (F.CH_CFG_OPT c.val)) else (s.chan c).coefs

/-- Window quality that the publishing modulator gives (R148, R179). -/
def State.pubQual (s : State) (c : ChIx) : Nat :=
  qb qSUBST (s.covered c) ||| qb qSUSPECT (s.parkedOn c) ||| qb qFORCED (s.dacForced c)

/-! ## Quantities of a sample (R137, R138) -/

/-- Full scale of the primary quantity in the unit of the channel: mV, or µA for currents. -/
def fullScale (func : Nat) : Int :=
  if func == fDO || func == fCOIL then 4000000
  else if func == fAII || func == fLOOP || func == fAOI then 30000
  else if func == fAIV || func == fAOV then 12000
  else 48000

/-- A primary fast code of a channel in µA or mV. -/
def State.prim (s : State) (c : ChIx) (code : Int) : Int := roundDiv (code * fullScale (s.func c)) 32768
/-- The switch current of a DO or COIL sample in mA. -/
def milliamps (code : Int) : Int := roundDiv (code * 4000) 32768
/-- A secondary IO voltage code in mV. -/
def secVolts (code : Int) : Int := roundDiv (code * 48000) 32768

/-! ## What the field die does at a fast window (R89, R106, R113, R140, R167) -/

/-- The logic-side Thresher runs: neither in BOOT nor in Dormant (R144). -/
def State.thrRuns (s : State) : Bool := !s.isBoot && s.pwr.mode != 4

/-- A bit of THR_FLAGS is set: a write of the same tick leaves it standing (R14). -/
def State.thrFlag (s : State) (c : ChIx) (f : Fld) : State :=
  let t := s.tick
  (s.setB f true).updChan c fun x =>
    let same := x.bitsTick == t
    { x with
      thrBits := (if same then x.thrBits else 0#32) ||| BitVec.ofNat 32 (2 ^ f.lo)
      evBits := if same then x.evBits else 0#32
      bitsTick := t }

/-- Another channel of the half has a clamp above 5 mA now, or had one within the last 4,800 ticks (R167). -/
def State.disturbed (s : State) (c : ChIx) (t : Nat) : Bool :=
  (chOf (halfOf c)).any fun d => d != c &&
    (match (s.chan d).clampLast with | some l => decide (t ≤ l + 4800) | none => false)

/-- DI_FILTER_SAMPLE: one step of the counter filter (R89); a change is noted with its tick. -/
def State.filterStep (s : State) (c : ChIx) (v : Int) (t : Nat) : State :=
  let x := s.chan c
  let on : Int := 100 * s.chFld c (F.CH_DI_ON_TH c.val)
  let off : Int := 100 * s.chFld c (F.CH_DI_OFF_TH c.val)
  let l := s.chFld c (F.CH_DI_FILT_L c.val)
  let n := if v > on then min (x.filt + 1) l else if v < off then x.filt - 1 else x.filt
  let st := if n == 0 then false else if n == l then true else x.state
  let comp := if v > on then true else if v < off then false else x.comp
  s.updChan c fun x => { x with
    filt := n, state := st, comp := comp
    lastTick := if st != x.state then BitVec.ofNat 32 t else x.lastTick
    rises := if st && !x.state then x.rises + 1 else x.rises }

/-- Readback terminal state of a switch (R106): hysteresis between 0.3 and 0.6 of VFIELD. -/
def readback (old : Bool) (io : Int) (vfield : Nat) : Bool :=
  if io * 10 > 6 * vfield then true else if io * 10 < 3 * vfield then false else old

/-- Does the condition of a diagnostic in force still hold at this sample (R108)? A disabled test sets no quality bit. While a
dark pulse holds the readback (R115), while open tests are suspended (R118) and through an open shunt (R97) it stands as it is. CH_CROSS and a short found by
a dark pulse end with a passing pulse, CH_SENSE and the return switch by their own commands. CH_HEADROOM and CH_AO_DEV end with their
conditions (R99, R101); `vfield` in mV. -/
def State.condKeeps (s : State) (c : ChIx) (x : ChSample) (vfield : Nat) (code : Int) (kind : Nat) : Bool :=
  let y := s.chan c
  let p := s.prim c code
  if kind == kChOpen then
    if y.heldTill.isSome || (s.half (halfOf c)).susp then true
    else if s.isSwitch c then
      if y.closed then s.diagOn c (F.CH_DIAG_OW_ON_EN c.val) && !y.limit && decide (p < 5000)
      else s.diagOn c (F.CH_DIAG_OW_OFF_EN c.val) && decide (y.offFails ≥ 2) && !s.standbyOut c
    else s.diagOn c (F.CH_DIAG_OW_ON_EN c.val) &&
      (if s.func c == fDI then decide (x.sink < 350)
      else if s.hasShunt c then y.shuntOpen || decide (p < 500)
      else decide (s.aoLevel c ≥ 1000) && decide (p < 500))
  else if kind == kChShortVf then
    y.retOpen || y.heldTill.isSome ||
      (s.diagOn c (F.CH_DIAG_SVF_EN c.val) && !y.closed && decide (p < 5000) && y.comp && !s.standbyOut c)
  else if kind == kChStuckOn then !s.wants c && decide (p > 20000)
  else if kind == kChStuckOff then
    y.heldTill.isSome || (s.wants c && s.unprotected c && !y.limit && !y.comp && !s.standbyOut c)
  else if kind == kChHeadroom then decide (s.aoLevel c ≥ 1000) && decide ((vfield : Int) - 2000 - x.io < 1200)
  else if kind == kChAoDev then
    !y.clamped && !s.inSafe c && decide (100 * (p - s.aoLevel c).natAbs > fullScale (s.func c))
  else true

/-- What a running dark pulse sees of a sample (R113, R114): its own terminal, the watched terminals, and the excess
currents of the other closed switches. -/
def State.pulseSample (s : State) (c : ChIx) (w : WinSample) : State :=
  match (s.chan c).pulse with
  | none => s
  | some p =>
    let vf (d : Nat) : Nat := w.vfield.getD (if d < 8 then 0 else 1) 0
    let io (d : Nat) : Int := (w.chans.getD d {}).io
    let low (d : Nat) : Bool := decide (io d * 10 < 3 * vf d)
    let cur (d : ChIx) : Int :=
      milliamps (clampCode 16 ((s.pubCoefs d).fast.apply (w.chans.getD d.val {}).raw.fast) false false).1
    let ex := (allCh.filter fun d => d != c && s.isSwitch d && (s.chan d).closed).map fun d =>
      let e := cur d - (match p.before.find? (fun y => y.1 == d.val) with | some y => y.2 | none => 0)
      (d.val, match p.excess.find? (fun y => y.1 == d.val) with | some y => max y.2 e | none => e)
    s.updChan c fun x => { x with pulse := some { p with
      seen := p.seen + 1
      passed := p.passed || (decide (p.seen ≥ 1) && low c.val)
      fell := p.fell ++ (p.watch.filter fun d => low d && !p.fell.contains d)
      excess := ex } }

/-- A sample into a running capture (R195): current in µA, voltage in mV, twice the midpoint in ticks. -/
def State.captureSample (s : State) (c : ChIx) (code sec : Int) (vfield : Nat) (opened closed : Nat) : State :=
  s.updChan c fun x => { x with capture := x.capture.map fun k =>
    if closed ≤ k.start || k.samples.length ≥ 256 then k
    else { k with
      samples := k.samples ++ [(s.prim c code, secVolts sec, opened + closed - 2 * k.start)]
      lowv := k.lowv || decide (vfield < 16000) } }

/-- The threshold path of a channel at a sample: the counter filter of an input, the readback state of a switch (R89, R106); a
limit that no longer acts ends. -/
def State.sampleDie (s : State) (c : ChIx) (w : WinSample) (t : Nat) : State :=
  let x := w.chans.getD c.val {}
  let s := if s.func c == fDI then s.filterStep c x.io t
    else if s.isSwitch c then s.updChan c fun y => { y with comp := readback y.comp x.io (w.vfield.getD (halfOf c).val 0) }
    else s
  s.updChan c fun y => { y with limit := y.limit && x.limit, loopLimit := y.loopLimit && x.limit }

/-- What the field die latches of a channel, with the logic die's notes for the window. -/
def State.latchWin (s : State) (c : ChIx) (x : ChSample) (t : Nat) : ChWin :=
  let y := s.chan c
  { fastWin x.raw with
    shunt := y.shuntOpen
    clamp := x.clamp
    bit0 := if s.func c == fDI then y.state else y.comp
    bit1 := if s.func c == fDI then y.comp else y.closed
    held := match y.heldTill with | some (m, till) => if t ≤ till then some m else none | none => none
    coefs := s.pubCoefs c
    qual := s.pubQual c ||| y.partFast
    sub := s.covered c
    nbr := s.disturbed c t }

/-- What else follows from a sample: conditions that end, the precision window under way, the switch currents before a pulse, a
running capture. -/
def State.sampleRest (s : State) (c : ChIx) (w : WinSample) (y : ChWin) (m : Smp) (opened t : Nat) : State :=
  let x := w.chans.getD c.val {}
  let p := s.prim c m.code
  let ma := if s.isSwitch c then milliamps m.code else 0
  let s := s.updChan c fun z => { z with
    conds := z.conds.filter (s.condKeeps c x (w.vfield.getD (halfOf c).val 0) m.code)
    wNbr := z.wNbr || y.nbr
    wNe43 := z.wNe43 && (decide (p ≤ 3600) || decide (p ≥ 21000))
    last3 := (ma :: z.last3).take 3
    partFast := 0
    heldTill := match z.heldTill with | some (a, till) => if t < till then some (a, till) else none | none => none }
  s.captureSample c m.code m.sec (w.vfield.getD (halfOf c).val 0) opened t

/-! ## What the logic die does with a sample (R157, R160, R163-R167, R210) -/

/-- THR_CLAMP and the clamp state of a channel at a sample (R165, R166). -/
def State.clampSample (s : State) (c : ChIx) (clamp : Bool) : State :=
  let h := halfOf c
  let s := s.setB (F.THR_NOW_CLAMP c.val) clamp
  let bits := s.fld (F.THR_HSTAT_CLAMPS h.val)
  let b := 2 ^ (c.val % 8)
  let s := s.setF (F.THR_HSTAT_CLAMPS h.val) (if clamp then bits ||| b else bits &&& (255 - b))
  let first := clamp && !(s.chan c).clampEp
  let s := s.updChan c fun x => { x with clampEp := clamp }
  let s := s.whenB clamp fun s => s.thrFlag c (F.THR_FLAGS_CLAMP_SEEN c.val)
  s.whenB first fun s => s.raise (srcTHR h.val) kThrClamp (faultAddr 63 c.val)

/-- The start of an episode of OVR or UNDR results raises THR_OVERRANGE (R166). -/
def State.rangeSample (s : State) (c : ChIx) (q : Nat) : State :=
  let s := (s.setB (F.THR_NOW_OVR c.val) (q.testBit qOVR)).setB (F.THR_NOW_UNDR c.val) (q.testBit qUNDR)
  let s := s.whenB (q.testBit qOVR) fun s => s.thrFlag c (F.THR_FLAGS_OVR_SEEN c.val)
  let s := s.whenB (q.testBit qUNDR) fun s => s.thrFlag c (F.THR_FLAGS_UNDR_SEEN c.val)
  if q.testBit qOVR || q.testBit qUNDR then
    let first := !(s.chan c).ovrEp
    let s := s.updChan c fun x => { x with ovrEp := true, ovrSeen := true }
    if first then s.raise (srcTHR (halfOf c).val) kThrOverrange (faultAddr 63 c.val) else s
  else s

/-- The logic die takes a sample of a channel into its accumulators (R157); one of a window that closed before the last clear
of the all-time extremes does not count for them (R160). -/
def State.takeSmp (s : State) (c : ChIx) (m : Smp) (closed : Nat) : State :=
  let ma := if s.isSwitch c then milliamps m.code else 0
  s.updChan c fun x =>
    let counts := decide (x.atTick ≤ closed)
    { x with
      smp := m
      fSum := x.fSum + m.code, fShown := x.fShown + m.shown, fSumsq := x.fSumsq + (m.code * m.code).toNat,
      fSec := x.fSec + m.sec, fCount := x.fCount + 1,
      fMin := min x.fMin m.code, fMax := max x.fMax m.code, fQual := x.fQual ||| m.qual
      aMin := if counts then min x.aMin m.code else x.aMin
      aMax := if counts then max x.aMax m.code else x.aMax
      peak := max x.peak ma }

/-- The logic die takes one channel's sample of a window. -/
def State.takeCh (s : State) (c : ChIx) (w : Win) : State :=
  let y := w.chans.getD (c.val % 8) {}
  let m := y.smp w.spare
  let s := s.clampSample c y.clamp
  let s := s.setB (F.THR_NOW_NEIGHBOUR c.val) y.nbr
  let s := s.whenB y.nbr fun s => s.thrFlag c (F.THR_FLAGS_NEIGHBOUR_SEEN c.val)
  ((s.rangeSample c m.qual).takeSmp c m w.closed).syncChan c

/-- A lost sample of a channel: the previous one is used again with SUSPECT (R210), in a running capture as well; a clamped one keeps its
episode (R166). -/
def State.loseCh (s : State) (c : ChIx) (w : Win) : State :=
  let m := (s.chan c).smp
  let s := s.takeSmp c { m with qual := m.qual ||| qb qSUSPECT true } w.closed
  let clamped := m.qual.testBit qOVR || m.qual.testBit qUNDR
  let s := s.updChan c fun x => { x with ovrSeen := x.ovrSeen || clamped }
  let i := s.prim c m.code
  s.updChan c fun x => { x with capture := x.capture.map fun k => { k with
    samples := k.samples.map fun y => if y.2.2 + 2 * k.start == w.opened + w.closed then (i, secVolts m.sec, y.2.2) else y } }

/-- The window of a half at a place of its frames. -/
def Half.winAt (x : Half) (old : Bool) : Option Win := if old then x.winOld else x.win

/-- The window has been dealt with. -/
def Half.winDone (x : Half) (old : Bool) : Half :=
  if old then { x with winOld := x.winOld.map fun w => { w with taken := true } }
  else { x with win := x.win.map fun w => { w with taken := true } }

/-- SAMPLE_LOST: every copy of a window's samples was invalid: the previous samples are used again with SUSPECT (R210). -/
def State.loseWin (s : State) (h : HalfIx) (old : Bool) : State :=
  match (s.half h).winAt old with
  | none => s
  | some w =>
    if w.taken then s
    else
      let s := s.updHalf h fun x => x.winDone old
      if !s.thrRuns then s
      else (chOf h).foldl (fun (s : State) c => s.loseCh c w) (s.addF (F.BD_LOSS_SAMPLE_LOST h.val) 1)

/-- The same for a window that closed by the last boundary (R212). -/
def State.loseDue (s : State) (h : HalfIx) (old : Bool) : State :=
  match (s.half h).winAt old with
  | some w => if w.closed ≤ s.btick then s.loseWin h old else s
  | none => s

/-- The logic die takes the samples of a window from the first valid frame that carries it (R210); `rx` puts in what that frame
says of channel 0-7 and of the spare, 8. An older window that no frame brought is lost first. Nothing is taken in BOOT (R144). -/
def State.takeWin (s : State) (h : HalfIx) (old : Bool) (rx : Nat → ChWin → ChWin) : State :=
  let s := if old then s else s.loseWin h true
  match (s.half h).winAt old with
  | none => s
  | some w =>
    if w.taken then s
    else
      let s := s.updHalf h fun x => x.winDone old
      let w := { w with chans := w.chans.mapIdx rx, spare := rx 8 w.spare }
      s.whenB s.thrRuns fun s => (chOf h).foldl (fun (s : State) c => s.takeCh c w) s

/-- Fast windows of a swath of N ticks (R140). -/
def windowsOf (n : Nat) : Nat := (n + 480) / 960

/-- A fast window closes at a half whose field die is not supplied: no frame brings it, so that its samples are lost (R210). -/
def State.missWin (s : State) (h : HalfIx) (k opened t : Nat) : State :=
  let n := s.swath
  (s.loseWin h true).updHalf h fun x => { x with
    winOld := x.win
    win := some { swath := n, k := k, opened := opened, closed := t, chans := [], vfield := 0 } }

/-- Length of the swath under way as the field die of a half counts it: as its last valid frame had it (R203). -/
def State.dieLen (s : State) (h : HalfIx) : Nat := if (s.half h).dnLen == 0 then s.swLen else (s.half h).dnLen

/-- A fast window of a half closes (R140, R142): its die samples, latches and drives the samples into its frames (R210); the
window before the last, if no frame has brought it, is lost. -/
def State.closeWin (s : State) (h : HalfIx) (k : Nat) (w : WinSample) (opened t : Nat) : State :=
  let n := s.swath
  let s := (chOf h).foldl (fun (s : State) c =>
    if (w.chans.getD c.val {}).clamp then s.updChan c fun x => { x with clampLast := some t } else s) s
  let s := (chOf h).foldl (fun (s : State) c => (s.pulseSample c w).sampleDie c w t) s
  let spare := fastWin (w.spares.getD h.val {})
  let ys := (chOf h).map fun c => s.latchWin c (w.chans.getD c.val {}) t
  let s := ((chOf h).zip ys).foldl (fun (s : State) p => s.sampleRest p.1 w p.2 (p.2.smp spare) opened t) s
  let s := s.loseWin h true
  s.updHalf h fun x => { x with
    winOld := x.win
    win := some { swath := n, k := k, opened := opened, closed := t, chans := ys, spare := spare, vfield := w.vfield.getD h.val 0 } }

/-- Tick at which window k of a half opens, by the die's own count (R140, R203). -/
def State.winOpens (s : State) (h : HalfIx) (k : Nat) : Nat := (s.half h).dieAt + 960 * (k - 1)

/-- Tick at which it closes: the last window of the swath at the boundary that the die places by its own count (R140, R203). -/
def State.winCloses (s : State) (h : HalfIx) (k : Nat) : Nat :=
  (s.half h).dieAt + (if k < windowsOf (s.dieLen h) then 960 * k else s.dieLen h)

/-- FAST_WINDOW_CLOSE: window k of the swath closes, 960 k ticks after the boundary or, for the last one, at the next
boundary (R140), as the field die of each half counts the ticks (R203), and yields one sample per channel of every half whose
field die is supplied; of the others the sample is lost (R210). While the logic die has no clock the dies go on alone (R144,
R216). -/
def execFastWindowClose (k : Nat) (w : WinSample) (s : State) : Host.Outcome State Fault Refusal :=
  .next <|
    let hs := allHalves.filter fun h => !(s.half h).inReset
    if !s.env.pll then hs.foldl (fun (s : State) h => s.closeWin h k w s.tick s.tick) s
    else
      let due := allHalves.filter fun h => decide (1 ≤ k) && decide (k ≤ windowsOf (s.dieLen h))
      if due.isEmpty then s
      else
        let s := s.elapse (s.btick + if k < windowsOf s.swLen then 960 * k else s.swLen)
        let hs := hs.filter fun h => due.contains h
        let s := (due.filter fun h => (s.half h).inReset).foldl (fun (s : State) h =>
          s.missWin h k (s.winOpens h k) (s.winCloses h k)) s
        let s := hs.foldl (fun (s : State) h => s.setF (F.FH_STATUS_AGG_CURRENT h.val) (sat 255 (w.total.getD h.val 0 / 50))) s
        let s := hs.foldl (fun (s : State) h => s.closeWin h k w (s.winOpens h k) (s.winCloses h k)) s
        hs.foldl (fun (s : State) h => (chOf h).foldl (fun (s : State) c => s.syncChan c) s) s

/-! ## Precision windows (R141, R144, R148-R155) -/

/-- Is a stook measured in a half: every stook in Full mode, each M-th in Lean mode (R154)? -/
def State.measured (s : State) (h : HalfIx) (stook : Nat) : Bool :=
  !s.flag (F.THR_REF_LEAN h.val) || decide (s.ruleStookOf stook % max 1 (s.fld (F.THR_REF_M h.val)) = 0)

/-- Settling time of the buffer in the mode in force (R153, R155). -/
def State.settleTicks (s : State) (h : HalfIx) : Nat := if s.flag (F.THR_REF_LEAN h.val) then 57600 else 2400000

/-- The buffer has been on for its settling time at a tick. -/
def State.refReady (s : State) (h : HalfIx) (t : Nat) : Bool :=
  match (s.half h).refOnAt with | some o => decide (o + s.settleTicks h ≤ t) | none => false

/-- The SYNC loop makes a result suspect now (R150). -/
def State.unlocked (s : State) : Bool := decide (s.syncSrc ≥ 2) && s.loop != lpLOCKED

/-- A precision window of every channel opens at a stook boundary. -/
def State.openPrec (s : State) (counts : Bool) : State :=
  let t := s.tick
  allCh.foldl (fun (s : State) c => s.updChan c fun x => { x with
    wOpen := counts, partPrec := 0, wRef := !s.refReady (halfOf c) t, wSync := s.unlocked
    wNbr := s.disturbed c t, wShunt := x.shuntOpen, wNe43 := true }) s

/-- The result of a channel's own modulator for the stook that closes, for comparisons (R177). -/
def State.ownPrec (s : State) (c : ChIx) (raw : ModRaw) : Int × Nat := precOf (s.chan c).coefs.prec (precWord raw) false

/-- The spare's result for the stook that closes, corrected for the function of channel c (R174). -/
def State.sparePrec (s : State) (c : ChIx) (raw : ModRaw) : Int × Nat :=
  precOf ((s.half (halfOf c)).spareCoefs (s.func c) (s.chFld c (F.CH_CFG_OPT c.val))).prec (precWord raw) false

/-- The SUSPECT causes of a window that closes at this boundary (R104, R148, R153, R167). -/
def State.precSuspect (s : State) (c : ChIx) : Bool :=
  let x := s.chan c
  let off := (s.half (halfOf c)).refOnAt.isNone
  x.wRef || off || x.wSync || s.unlocked || x.wNbr
    || (s.hasShunt c && s.flag (F.CH_DIAG_NE43 c.val) && x.wNe43)

/-- PRECISION_WINDOW_CLOSE: the window of every channel closes at a stook boundary and, in a measured stook, waits for the
P-frames with its raw result (R141, R154, R211); a window that does not count is discarded (R144). `stook` is the stook that
ends. -/
def State.closePrec (s : State) (r : StookRaw) (stook : Nat) : State :=
  let s := allHalves.foldl (fun (s : State) h => s.updHalf h fun x => { x with
    pGot := none
    pSent := (chOf h).map (fun c => precWord (r.chans.getD c.val {})) ++ [precWord (r.spares.getD h.val {})] }) s
  allCh.foldl (fun (s : State) c =>
    let x := s.chan c
    let h := halfOf c
    if !x.wOpen then s.thrFlag c (F.THR_FLAGS_SHORT_STOOK c.val)
    else if !s.measured h stook then s
    else
      let w : PrecWin := {
        coef := (s.pubCoefs c).prec
        sub := s.covered c
        qual := s.pubQual c ||| x.partPrec ||| qb qSUSPECT (s.precSuspect c)
        shunt := x.wShunt
        ref := x.wRef || (s.half h).refOnAt.isNone
        sync := x.wSync || s.unlocked }
      s.updChan c fun x => { x with res := some w }) s

/-! ## Reference buffers (R153-R156) -/

/-- Turn the precision buffer of a half on or off at a boundary. A window during which it is off yields a suspect result
(R153). -/
def State.setBuffer (s : State) (h : HalfIx) (on : Bool) : State :=
  let t := s.tick
  let s := if on then s else (chOf h).foldl (fun (s : State) c => s.updChan c fun x => { x with wRef := true }) s
  let s := s.updHalf h fun x => { x with refOnAt := if on then x.refOnAt.or (some t) else none }
  (s.setB (F.THR_REF_REFBUF_EN h.val) on).setB (F.THR_HSTAT_REF_ON h.val) on

/-- A host write of THR_REF: REFBUF_EN in Full mode reads back at once (R13), takes effect at the next boundary and counts as an
unstamped write; dropped in Lean mode (R153, R154). -/
def State.writeRefBuf (s : State) (h : HalfIx) (v : Word) : State :=
  if s.flag (F.THR_REF_LEAN h.val) then s
  else ((s.setB (F.THR_REF_REFBUF_EN h.val) (wbit v 0)).updHalf h fun x => { x with refWrite := some (wbit v 0) }).unstamped

/-- REFBUF_EN_WRITE. -/
def execRefbufEnWrite (h : HalfIx) (v : Word) (s : State) : Host.Outcome State Fault Refusal := s.hostKey fun s => s.writeRefBuf h v

/-- j of R155: swaths before a measured stook at which the buffer turns on. -/
def leanLead (lNom : Nat) : Nat := (57600 * 10000 + 8375 * lNom - 1) / (8375 * lNom)

/-- Swaths from the boundary just taken to the next measured stook that has not begun. -/
def State.toMeasured (s : State) (h : HalfIx) : Nat :=
  let m := max 1 (s.fld (F.THR_REF_M h.val))
  let k := max 1 s.kLen
  (m - s.ruleStook % m) * k - s.phase

/-- LEAN_BUFFER_SWITCH, and the writes and the image's value of REFBUF_EN, at a boundary (R153, R155). -/
def State.bufferStep (s : State) (h : HalfIx) : State :=
  if s.flag (F.THR_REF_LEAN h.val) then
    let j := leanLead (max 1 s.lNom)
    let m := max 1 (s.fld (F.THR_REF_M h.val))
    if s.toMeasured h ≤ j || s.ruleStook % m == 0 then s.setBuffer h true else s.setBuffer h false
  else match (s.half h).refWrite with
    | some b => (s.updHalf h fun x => { x with refWrite := none }).setBuffer h b
    | none => s.setBuffer h (s.flag (F.THR_REF_REFBUF_EN h.val))

/-! ## Banks when Thresh ends (R157-R162) -/

/-- FAST_BANK_SNAPSHOT: the fast bank of a channel takes the samples of the swath that ended (R157). -/
def State.fastSnapshot (s : State) (c : ChIx) : State :=
  let x := s.chan c
  let n := c.val
  let s := s.setReg (Reg.THR_FB_SUM_LO n) (wInt x.fSum)
  let s := s.setReg (Reg.THR_FB_SUM_HI n) (wInt (x.fSum / 2 ^ 32))
  let s := s.setReg (Reg.THR_FB_SUMSQ_LO n) (BitVec.ofNat 32 x.fSumsq)
  let s := s.setReg (Reg.THR_FB_SUMSQ_HI n) (BitVec.ofNat 32 (x.fSumsq / 2 ^ 32 % 2 ^ 24))
  let s := (s.setF (F.THR_FB_CNT_COUNT n) x.fCount).setF (F.THR_FB_CNT_QUAL n) x.fQual
  let s := (s.setF (F.THR_FB_MINMAX_MAX n) (uOf 16 x.fMax)).setF (F.THR_FB_MINMAX_MIN n) (uOf 16 x.fMin)
  let pulse := s.func c == fPULSE
  let sec := if s.isOutput c && x.fCount != 0 then roundDiv x.fSec x.fCount else 0
  let s := (s.setF (F.THR_FB_SEC_EDGES n) (if pulse then x.edgesB.1 else 0)).setF (F.THR_FB_SEC_SEC n) (uOf 16 sec)
  let s := s.setReg (Reg.THR_FB_SWATH n) (BitVec.ofNat 32 (s.swath + 2 ^ 32 - 1))
  let s := s.setReg (Reg.THR_FB_EDGE_FIRST n) (if pulse then x.edgesB.2.1 else 0#32)
  let s := s.setReg (Reg.THR_FB_EDGE_LAST n) (if pulse then x.edgesB.2.2 else 0#32)
  let at0 := Reg.THR_AT_FMINMAX n
  let w := s.reg at0
  let mx := max (sx 16 (wbits w 31 16)) x.aMax
  let mn := min (sx 16 (wbits w 15 0)) x.aMin
  s.setReg at0 (BitVec.ofNat 32 (uOf 16 mx * 65536 + uOf 16 mn))

/-- The accumulation of the swath that ended is cleared. -/
def Chan.clearFast (x : Chan) : Chan :=
  { x with fSum := 0, fShown := 0, fSumsq := 0, fSec := 0, fCount := 0, fMin := 0x7FFF, fMax := -0x8000, fQual := 0,
           aMin := 0x7FFF, aMax := -0x8000, peak := 0 }

/-- At a boundary the edges and the counts of the swath that ends are put aside for its entry and its bank (R83, R157). -/
def Chan.turnPulses (x : Chan) : Chan :=
  { x with
    pulsesB := x.pulses
    closuresB := x.closures
    edgesB := if x.edges == 0 then (0, 0#32, 0#32) else (x.edges, x.edgeFirst, x.edgeLast)
    edges := 0, edgeFirst := 0#32, edgeLast := 0#32 }

/-- A precision result of a channel, code and window quality, is published: THR_PREC, the filling bank, the all-time extremes
(R158, R160). -/
def State.publishPrec (s : State) (c : ChIx) (code : Int) (qual : Nat) : State :=
  let n := c.val
  let k := s.stook
  let s := s.setReg (Reg.THR_PREC n) (wInt code)
  let s := (s.setF (F.THR_PREC_Q_STOOK n) k).setF (F.THR_PREC_Q_QUAL n) qual
  let s := s.setReg (Reg.THR_AT_PMIN n) (wInt (min (sgn (s.reg (Reg.THR_AT_PMIN n))) code))
  let s := s.setReg (Reg.THR_AT_PMAX n) (wInt (max (sgn (s.reg (Reg.THR_AT_PMAX n))) code))
  s.updChan c fun x => { x with
    pSum := x.pSum + code, pCount := sat 65535 (x.pCount + 1), pMin := min x.pMin code, pMax := max x.pMax code
    pQual := x.pQual ||| qual, precLost := false, pStook := k }

/-- The result that a received P-frame word gives a waiting window is published, and THR_FLAGS notes it (R145, R148, R163). The
word is that of the modulator that publishes. -/
def State.resultPrec (s : State) (c : ChIx) (w : PrecWin) (word : Word) : State :=
  let n := c.val
  let (code, q) := precOf w.coef word w.shunt
  let s := s.whenB w.ref fun s => s.thrFlag c (F.THR_FLAGS_REF_SEEN n)
  let s := s.whenB w.sync fun s => s.thrFlag c (F.THR_FLAGS_UNLOCKED_SEEN n)
  let s := s.whenB (q.testBit qOVR) fun s => s.thrFlag c (F.THR_FLAGS_OVR_SEEN n)
  let s := s.whenB (q.testBit qUNDR) fun s => s.thrFlag c (F.THR_FLAGS_UNDR_SEEN n)
  s.publishPrec c code (q ||| w.qual)

/-- PRECISION_PERIOD_END: the filling copy becomes the readable one, and a new one begins (R158, R159). `whole`: the
boundary is a stook boundary whose number is a multiple of the old N; `next`: of the new one. -/
def State.endPeriod (s : State) (c : ChIx) (whole next : Bool) : State :=
  let x := s.chan c
  let n := c.val
  let s := (s.setReg (Reg.THR_PB_SUM_LO n) (wInt x.pSum)).setReg (Reg.THR_PB_SUM_HI n) (wInt (x.pSum / 2 ^ 32))
  let s := (s.setF (F.THR_PB_CNT_COUNT n) x.pCount).setF (F.THR_PB_CNT_QUAL n) x.pQual
  let s := (s.setReg (Reg.THR_PB_MIN n) (wInt x.pMin)).setReg (Reg.THR_PB_MAX n) (wInt x.pMax)
  let s := s.setReg (Reg.THR_PB_END n) (BitVec.ofNat 32 s.stook)
  let s := s.setB (F.THR_PB_INFO_PARTIAL n) (x.pPartial || !whole)
  s.updChan c fun x => { x with
    pSum := 0, pCount := 0, pMin := 0x7FFFFF, pMax := -0x800000, pQual := 0, pPartial := !next }

/-- THR_WIN of a channel for the windows that closed at the last boundary: the old table at a reconfiguration (R31). -/
def State.closedWin (s : State) (c : ChIx) : Word := s.pipe.oldWin.getD c.val (s.reg (Reg.THR_WIN c.val))

/-- A field of THR_WIN of that table. -/
def State.winFld (s : State) (c : ChIx) (f : Fld) : Nat := wbits (s.closedWin c) f.hi f.lo

/-- Is this boundary a stook boundary at a multiple of N (R159)? -/
def State.periodAt (s : State) (n : Nat) : Bool := s.phase == 0 && decide (0 < n) && s.ruleStook % n == 0

/-! ## Summaries (R169-R171) -/

/-- The words of a fast summary (R171), from the bank just taken. -/
def State.fastSummary (s : State) (c : ChIx) : List Word :=
  let n := c.val
  [s.reg (Reg.THR_FB_SWATH n), BitVec.ofNat 32 (2 ^ 28 + n * 2 ^ 16 + s.fld (F.THR_FB_CNT_QUAL n)),
    s.reg (Reg.THR_FB_MINMAX n),
    BitVec.ofNat 32 (s.fld (F.THR_FB_CNT_COUNT n) * 2 ^ 16 + wbits (s.reg (Reg.THR_FB_SUM_HI n)) 7 0),
    s.reg (Reg.THR_FB_SUM_LO n), s.reg (Reg.THR_FB_SUMSQ_HI n), s.reg (Reg.THR_FB_SUMSQ_LO n),
    s.reg (Reg.THR_FB_SEC n)]

/-- The words of a precision summary (R171), from the readable copy. -/
def State.precSummary (s : State) (c : ChIx) : List Word :=
  let n := c.val
  [s.reg (Reg.THR_PB_END n),
    BitVec.ofNat 32 (2 * 2 ^ 28 + s.fld (F.THR_PB_INFO_PARTIAL n) * 2 ^ 24 + n * 2 ^ 16 + s.fld (F.THR_PB_CNT_QUAL n)),
    s.reg (Reg.THR_PB_MIN n), s.reg (Reg.THR_PB_MAX n),
    BitVec.ofNat 32 (s.fld (F.THR_PB_CNT_COUNT n) * 2 ^ 16 + wbits (s.reg (Reg.THR_PB_SUM_HI n)) 15 0),
    s.reg (Reg.THR_PB_SUM_LO n), BitVec.ofNat 32 (s.winFld c (F.THR_WIN_PERIOD_N n)), 0#32]

/-- The Crib of a summary stream (R169). -/
def sumCrib (v : Nat) : CribIx := ⟨4 + v % 4, by omega⟩

/-- SUMMARY_STREAM for one channel, first the precision summary of a period that ended (R169, R170). -/
def State.sumPeriod (s : State) (c : ChIx) (period : Bool) : State :=
  if period && s.winFld c (F.THR_WIN_PS_EN c.val) != 0 then
    s.produce (sumCrib (s.winFld c (F.THR_WIN_PS_CRIB c.val))) (s.precSummary c) else s

/-- Then the fast summary at a multiple of the decimation (R169, R170). -/
def State.summarise (s : State) (c : ChIx) (period : Bool) : State :=
  let n := c.val
  let s := s.sumPeriod c period
  if s.winFld c (F.THR_WIN_FS_EN n) != 0 && s.swath % (s.winFld c (F.THR_WIN_FS_DECIM n) + 1) == 0 then
    s.produce (sumCrib (s.winFld c (F.THR_WIN_FS_CRIB n))) (s.fastSummary c) else s

/-! ## The channel entries (R83, R149, R305) -/

/-- The value word of a channel (R83), from its fast samples or its latest precision result. -/
def State.valueWord (s : State) (c : ChIx) : Word :=
  let x := s.chan c
  let f := s.func c
  let mean : Int := if x.fCount == 0 then 0 else roundDiv (x.fShown * fullScale f) (32768 * x.fCount)
  if f == fDI then BitVec.ofNat 32 (b2n x.smp.bit0 + 2 * b2n x.smp.bit1)
  else if s.isSwitch c then
    let ma : Int := if x.fCount == 0 then 0 else roundDiv (x.fShown * 4000) (32768 * x.fCount)
    BitVec.ofNat 32 (uOf 16 ma * 65536 + b2n x.smp.bit0 + 2 * b2n x.smp.bit1)
  else if s.isAi c then s.reg (Reg.THR_PREC c.val)
  else if f == fAOI || f == fAOV then wInt mean
  else if f == fPULSE then x.pulsesB
  else 0#32

/-- The channel-state bits, recomputed at every boundary (R46, R108, R149): limit, heat and the open test as the uplink frames told
them (R209). -/
def State.stateBits (s : State) (c : ChIx) : Nat :=
  let x := s.chan c
  qb qOPEN (x.told.testBit 2 || x.has kChSense || x.has kChStuckOff)
    ||| qb qSHORT (x.has kChShortVf || x.has kChCross || x.has kChStuckOn || x.has condPulseShort)
    ||| qb qLIMIT (x.told.testBit 0 || s.ovlLatched c || x.backoff != 0 || x.shuntOvl || x.loopLimit || x.clamped)
    ||| qb qHOT (x.told.testBit 1) ||| qb qSUPPLY (s.half (halfOf c)).low
    ||| qb qSAFE (if s.isActed c then s.inSafe c || x.safeL else x.safeL)

/-- CHn_READBACK from the samples of the swath (R138): IO voltage in 2 mV, output current in 0.1 mA. Where no modulator measures IO to
FGND the spec gives VTERM no value: AO-V shows what its second modulator senses at RTN, the other inputs 0 (DESIGN CHOICE, log entry
40). -/
def State.readbackWord (s : State) (c : ChIx) : Word :=
  let x := s.chan c
  let f := s.func c
  if x.fCount == 0 then s.reg (Reg.CH_READBACK c.val)
  else
    let n : Int := x.fCount
    let v : Int :=
      if s.isSwitch c || f == fAOI then roundDiv (x.fSec * 24000) (32768 * n)
      else if f == fAOV then roundDiv (x.fSum * 6000) (32768 * n)
      else if f == fOFF || f == fDI || f == fPULSE then roundDiv (x.fSum * 24000) (32768 * n)
      else 0
    let i : Int :=
      if s.isSwitch c then roundDiv (x.fShown * 40000) (32768 * n)
      else if f == fAOI then roundDiv (x.fSum * 300) (32768 * n)
      else if f == fAOV then roundDiv (x.fSec * 300) (32768 * n)
      else 0
    BitVec.ofNat 32 (uOf 16 (clampInt (-32768) 32767 v) * 65536 + uOf 16 (clampInt (-32768) 32767 i))

/-- The auxiliaries of a channel entry (R305). -/
def State.auxWords (s : State) (c : ChIx) : List Word :=
  let x := s.chan c
  let f := s.func c
  let st := s.reg (Reg.CH_STATUS c.val)
  let mean := if x.fCount == 0 then 0 else roundDiv x.fSum x.fCount
  let sec := if x.fCount == 0 then 0 else roundDiv x.fSec x.fCount
  if f == fDI then [BitVec.ofNat 32 x.filt, x.lastTick, x.rises, st]
  else if s.isSwitch c then
    [s.reg (Reg.CH_READBACK c.val), x.closuresB, BitVec.ofNat 32 (uOf 16 (clampInt 0 65535 x.peak)), st]
  else if s.isAi c then
    [BitVec.ofNat 32 (uOf 16 x.fMax * 65536 + uOf 16 x.fMin), BitVec.ofNat 32 x.pStook, wInt mean, st]
  else if f == fAOI || f == fAOV then [s.reg (Reg.CH_READBACK c.val), s.reg (Reg.CH_CMD c.val), wInt sec, st]
  else if f == fPULSE then [x.edgesB.2.1, x.edgesB.2.2, BitVec.ofNat 32 x.edgesB.1, st]
  else [0#32, 0#32, 0#32, st]

/-- An entry under a force: what its producer wrote is undone, so that words 2 and 3 change with the forced value alone (R304); an
unallocated entry reads as that (R45). `old`: value, stamp and count as the force last left them. -/
def Entry.force (e : Entry) (v : Word) (old : Option (Word × Word × Word)) (late : Bool) (n : Word) : Entry :=
  if e.cls == 0 then e
  else
    let e := match old with
      | some (w, st, k) => { e with value := w, stamp := st, count := k }
      | none => e
    e.write v (2 ^ qFORCED) late n

/-- Forced entries hold their value with FORCED over whatever their producer wrote (R366), LATE where the swath is suspended at
its boundary (R48). -/
def State.applyForces (s : State) : State :=
  let late := s.pipe.lateB
  let t := s.swath
  let n := s.swath32
  let old := s.pipe.forced
  let s := s.forces.foldl (fun (s : State) (f : Nat × Word) => s.updEntry f.1 fun e =>
    (e.resolve (t + 1)).force f.2 ((old.find? fun o => o.1 == f.1).map (·.2)) late n) s
  let now := s.forces.map fun f => let e := s.entry f.1; (f.1, e.value, e.stamp, e.count)
  { s with pipe := { s.pipe with forced := now } }

/-- The Thresher writes entry c (R149): value, quality with the channel-state bits of the boundary (a safe state that the
frame of slot 0 left shows no more, R130), auxiliaries; STALE while its precision result was lost (R212) or its half is
timed out (R217). -/
def State.writeChannel (s : State) (c : ChIx) : State :=
  let x := s.chan c
  let wq := if s.isAi c then s.fld (F.THR_PREC_Q_QUAL c.val) else x.fQual
  let bits := if (s.stateBits c).testBit qSAFE then x.bits else x.bits &&& (0xFFFF - 2 ^ qSAFE)
  let q := wq ||| bits
    ||| qb qSTALE ((s.isAi c && x.precLost) || (s.half (halfOf c)).upTimeout.isSome)
  let s := s.setReg (Reg.CH_READBACK c.val) (s.readbackWord c)
  let q := withLate s.pipe.lateB (withValid q)
  let s := s.setF (F.CH_STATUS_QUALITY c.val) q
  let v := s.valueWord c
  let aux := s.auxWords c
  s.updEntry c.val fun e => { (e.write v q s.pipe.lateB s.swath32) with aux := aux }

/-! ## Thresh ends (R143, R192, R212, R224) -/

/-- INTERNAL_RESULT: the result of an INT stook is written to its entry with its fault check (R192), and a REF_DRIFT value counts for its
hourly mean (R495). Without a P-frame it is lost as
every precision result is (R211, R212; DEDUCED, log entry 54). -/
def State.internalResult (s : State) (h : HalfIx) : State :=
  match (s.half h).intRes with
  | none => s
  | some (code, v, q) =>
    let i := 32 + 8 * h.val + code
    let s := s.updHalf h fun x => { x with intRes := none }
    if (s.half h).pGot.isNone then
      (s.addF (F.BD_LOSS_PREC_LOST h.val) 1).updEntry i fun e => { e with qual := withBits e.qual (qb qSTALE true) }
    else
    let s := s.updEntry i fun e => e.write (wInt v) q s.pipe.lateB s.swath32
    let addr := faultAddr 63 i
    let off (nom : Int) : Bool := decide ((v - nom).natAbs * 20 > nom.toNat)
    if code == 0 then
      let s : State := { s with sr := { s.sr with drifts := s.sr.drifts.upd h fun x => { x with sum := x.sum + v, n := x.n + 1 } } }
      if v.natAbs > 1000 then s.raise (srcTHR h.val) kRefDrift addr else s
    else if (code == 4 && off 5000) || (code == 5 && off 1200) || (code == 6 && off 12000)
        || (code == 7 && decide (v.natAbs > 40000)) then s.raise (srcTHR h.val) kFieldReg addr
    else s

/-- The precision side of Thresh for one channel: the result published or lost (R212), the period ended; whether a
period ended. -/
def State.precThresh (s : State) (c : ChIx) : State × Bool :=
  let h := halfOf c
  let s := match (s.chan c).res with
    | none => s
    | some w => match (s.half h).pGot with
      | some ws => s.resultPrec c w (ws.getD (if w.sub then 8 else c.val % 8) 0#32)
      | none => (s.addF (F.BD_LOSS_PREC_LOST h.val) 1).updChan c fun x => { x with precLost := true }
  let old := s.winFld c (F.THR_WIN_PERIOD_N c.val)
  let new := s.fld (F.THR_WIN_PERIOD_N c.val)
  let due := s.periodAt old || s.tb.r63 || old != new
  let s := if due then s.endPeriod c (s.periodAt old) (s.periodAt new) else s
  (s.setF (F.THR_PB_INFO_LIVE_COUNT c.val) (s.chan c).pCount, due)

/-- Thresh for one channel. Until the Thresher has run throughout a swath its samples yield nothing (R144); a period that ends meanwhile
streams its summary (R169), but at the end of BOOT, before which no bank filled. -/
def State.threshCh (s : State) (c : ChIx) : State :=
  let (s, due) := s.precThresh c
  let s := if s.pipe.ranPrev then ((s.fastSnapshot c).writeChannel c).summarise c due else s.sumPeriod c (due && !s.tb.r63)
  let now := s.reg (Reg.THR_NOW c.val)
  let flags := s.reg (Reg.THR_FLAGS c.val)
  s.updChan c fun x => { x.clearFast with
    res := none, clamped := false, nowB := now, flagsB := flags
    ovrEp := x.ovrEp && x.ovrSeen, ovrSeen := false }

/-- The work of Thresh once its window data have arrived (R143): a window no frame brought is lost; banks, channel and internal
entries, summaries, the write window closed, and the commands of host-sourced channels on their way (R246). -/
def State.threshWork (s : State) : State :=
  let s := allHalves.foldl (fun (s : State) h => (s.loseDue h true).loseDue h false) s
  let s := if s.isBoot then s
    else
      let s := allCh.foldl (fun (s : State) c => s.threshCh c) s
      let s := allHalves.foldl (fun (s : State) h => s.internalResult h) s
      s.applyForces
  let s := { s with pipe := { s.pipe with window := false, threshEnd := s.threshTicks, oldWin := [] } }
  let s := { s with tb := { s.tb with r63 := false } }
  allHalves.foldl (fun (s : State) h => s.updHalf h fun x => { x with pGot := none }) s

/-- The commands of channels with a host command source are fixed at the boundary; ready when Thresh ends plus 24 ticks
(R84, R246). -/
def State.stackHost (s : State) : State :=
  let start := s.btick + slotAfter (s.threshTicks + 24)
  allCh.foldl (fun (s : State) c =>
    let i := s.fld (F.CH_CMD_SRC_INDEX c.val)
    if s.flag (F.CH_CMD_SRC_EN c.val) && (s.entry i).cls == 5 then s.stackCmd c (s.readEntry i).value start else s) s

end Sys2Proof.Machine
end

