-- ==== Sys2Proof/Machine/Spare.lean ====
section
/-!
DEFINITION. Machine/Spare.lean: the spare slice, its sets, the sequencer, calibration, shadow comparisons and test-DAC
checks (R172-R193).
-/
namespace Sys2Proof.Machine

/-! ## The spare's own sets (R174, R175) -/

/-- Functions and options in use in a half. -/
def State.rangesInUse (s : State) (h : HalfIx) : List (Nat × Nat) :=
  ((chOf h).map fun c => (s.func c, s.fld (F.CH_CFG_OPT c.val))).eraseDups

/-- A set is older than 600 s, or lost (R174, R175). -/
def State.setOld (s : State) (h : HalfIx) (r : Nat × Nat) : Bool :=
  match (s.half h).sets.find? (fun y => y.func == r.1 && y.opt == r.2) with
  | some y => match y.tick with | some t => decide (t + 28800000000 < s.tick) | none => true
  | none => true

/-- When a set was refreshed, for the order of R174: 0 for a lost one. -/
def State.setAge (s : State) (h : HalfIx) (r : Nat × Nat) : Nat :=
  match (s.half h).sets.find? (fun y => y.func == r.1 && y.opt == r.2) with
  | some y => match y.tick with | some t => t + 1 | none => 0
  | none => 0

/-- A self-calibration of two stooks is inserted before a step that needs a range's set (R174): the spare is IDLE, and the channel
is published by its own modulator meanwhile (DEDUCED, log entry 31). -/
def State.insertSelf (s : State) (h : HalfIx) (r : Nat × Nat) (after : SeqStage) : State :=
  ((s.setSpare h 0 0 0).updSeq h fun q => { q with after := after, selfLeft := [r] }).stage h .selfZero

/-- The range whose set is oldest: a lost one first. -/
def State.oldestRange (s : State) (h : HalfIx) : Option (Nat × Nat) :=
  let older (b : Option (Nat × Nat)) (r : Nat × Nat) : Option (Nat × Nat) :=
    match b with
    | none => some r
    | some x => if s.setAge h r < s.setAge h x then some r else some x
  (s.rangesInUse h).foldl older none

/-- Refresh the set of a range from the zero of the stook before and the reference of this one. -/
def State.refreshSet (s : State) (h : HalfIx) (r : Nat × Nat) (ref : ModRaw) : State :=
  let (k, s) := calibrate (s.seqOf h).zeroRaw ref s
  let t := s.tick
  s.updHalf h fun x => { x with
    sets := ⟨r.1, r.2, k, some t⟩ :: x.sets.filter fun y => !(y.func == r.1 && y.opt == r.2) }

/-- INTERNAL_STALE: an internal entry not written during two full background passes carries STALE, from the boundary that ends
the second (R193). -/
def State.internalStale (s : State) (h : HalfIx) : State :=
  (List.range 8).foldl (fun (s : State) code =>
    let i := 32 + 8 * h.val + code
    if (s.seqOf h).clean.getD code 0 ≥ 2 then s.updEntry i fun e => { e with qual := withBits e.qual (qb qSTALE true) }
    else s) s

/-! ## Ends and starts of entries (R185, R187, R188) -/

/-- The entry ends at this boundary: the spare hands back and is IDLE; the entry that follows becomes due after the
DELAY, which the first pass of the background ignores (R175, R185), and at once where a pending request runs the test section again
(R187). -/
def State.endEntry (s : State) (h : HalfIx) : State :=
  let q := s.seqOf h
  let e := s.seqEntry h
  let len := s.fld (F.SEQ_CFG_LEN h.val)
  let bg := s.fld (F.SEQ_CFG_BG_LEN h.val)
  let now := s.tick
  let s := (s.setSpare h 0 0 0).stage h .idle
  let s := s.setF (F.SEQ_STATUS_REPEAT_LEFT h.val) 0
  let delay := if !q.test && q.firstPass then 0 else (s.reg (Reg.SEQ_TABLE_W1 h.val e)).toNat
  let wrap := !q.test && decide (bg ≤ e + 1)
  let again := q.test && decide (len ≤ e + 1) && s.flag (F.SEQ_STATUS_PENDING h.val)
  let delay := if again || q.wait then 0 else delay
  let s := if wrap then
      let s := s.setReg (Reg.SEQ_PASS h.val) (s.reg (Reg.SEQ_PASS h.val) + 1)
      (s.updSeq h fun q => { q with
        firstPass := false, wrote := []
        clean := q.clean.mapIdx fun i n => if q.wrote.contains i then 0 else n + 1 }).internalStale h
    else s
  let s := s.updSeq h fun q => { q with
    running := false, ending := false, redo := false, skip := false, attempt := 1, unjudged := 0, dacRes := none
    after := .idle, due := now + delay }
  let s :=
    if q.test then
      if e + 1 < len then s.updSeq h fun q => { q with next := e + 1 }
      else if again then
        (s.setB (F.SEQ_STATUS_PENDING h.val) false).updSeq h fun q => { q with next := bg }
      else s.updSeq h fun q => { q with test := false, next := q.resume }
    else s.updSeq h fun q => { q with next := if wrap then 0 else e + 1 }
  s.setF (F.SEQ_STATUS_STATE h.val) (if delay == 0 then (if (s.seqOf h).test then 2 else 1) else 4)

/-! ## Starting an entry (R184, R185, R190) -/

/-- The first step of a run of the entry: a self-calibration is inserted when the range's set is too old (R174). -/
def State.beginRun (s : State) (h : HalfIx) (c : ChIx) : State :=
  let r := (s.func c, s.fld (F.CH_CFG_OPT c.val))
  if s.setOld h r then s.insertSelf h r .shadow
  else (s.setSpare h 1 c.val 0).stage h .shadow

/-- A TDAC entry that the device refuses (R190): an AO channel without TEST_OK. -/
def State.tdacRefused (s : State) (c : ChIx) : Bool :=
  (s.func c == fAOI || s.func c == fAOV) && !s.flag (F.CH_CFG_TEST_OK c.val)

/-- Start entry e of the table at this stook boundary. A SELF entry takes the ranges in use in turn, one for each of its two-stook
runs, and begins again after the last (DESIGN CHOICE, log entry 32). An entry that is refused takes no stook, so that the IDLE stooks
around it are two in a row (R174, R190). -/
def State.startEntry (s : State) (h : HalfIx) (e : Nat) : State :=
  let c := s.seqCh h e
  let rep := s.seqRepeat h e
  let s := (s.setF (F.SEQ_STATUS_ENTRY h.val) e).setF (F.SEQ_STATUS_REPEAT_LEFT h.val) rep
  let s := s.setF (F.SEQ_STATUS_STATE h.val) (if (s.seqOf h).test then 2 else 1)
  let s := s.updSeq h fun q => { q with
    running := true, attempt := if s.seqOp h e == 3 then 0 else 1, unjudged := 0, ending := false, redo := false,
    skip := false, dacRes := none
    idleRange := if s.seqOp h e == 0 || (s.seqOp h e == 3 && s.tdacRefused c) then q.idleRange else none
    dacLeft := rep, fresh := false }
  match s.seqOp h e with
  | 0 => (s.setSpare h 0 0 0).stage h .nop
  | 1 => s.beginRun h c
  | 2 => s.beginRun h c
  | 3 =>
    if s.tdacRefused c then
      ((s.addF (F.SEQ_COUNTS_REFUSED h.val) 1).raise (srcTHR h.val) kTestRefused (faultAddr 63 c.val)).endEntry h
    else s.beginRun h c
  | 4 => (s.setSpare h 3 0 (s.seqArg h e)).stage h .int
  | _ =>
    let rs := s.rangesInUse h
    if rs.isEmpty then s.endEntry h
    else ((s.setSpare h 0 0 0).updSeq h fun q => { q with after := .idle, selfLeft := rs }).stage h .selfZero

/-- SPR_STATUS of a half without LAST_D: the input the logic die gives the spare (log entry 34). -/
def State.spareWord (s : State) (h : HalfIx) : Word :=
  BitVec.ofNat 32 (s.fld (F.SPR_STATUS_MODE h.val) * 2 ^ 28 + s.fld (F.SPR_STATUS_TARGET h.val) * 2 ^ 24
    + s.fld (F.SPR_STATUS_CODE h.val) * 2 ^ 16)

/-- The spare's input follows the sequencer at a stook boundary, unless a command of the mailbox has set it for this stook, or no frame
of the stook before could carry one (R173; log entry 34). -/
def State.syncSpareIn (s : State) (h : HalfIx) : State :=
  let w := s.spareWord h
  s.updHalf h fun x => if x.spareMb || !x.mailOk then x else { x with spareNow := w }

/-- SEQ_ENTRY_START: at a stook boundary the next entry starts, if its DELAY has run out (R185, R187); the field die of the half is
loaded and has received a frame that could carry the command in the stook before (R173), and a restarted table begins with entry 0 (R188). -/
def execSeqEntryStart (h : HalfIx) (s : State) : Host.Outcome State Fault Refusal :=
  .next <|
    let q := s.seqOf h
    let st := s.fld (F.SEQ_STATUS_STATE h.val)
    if s.phase != 0 || s.tick != s.btick || q.running || st == 0 || st == 3 || !(s.half h).loaded
        || !(s.half h).kept.isEmpty || !s.framesRun h || !(s.half h).mailOk || s.fld (F.SEQ_CFG_LEN h.val) == 0 then s
    else if q.wait && !q.fresh then
      let s := s.updSeq h fun q => { q with wait := false, test := true, resume := q.next }
      (s.startEntry h (s.fld (F.SEQ_CFG_BG_LEN h.val))).syncSpareIn h
    else if s.tick < q.due then s
    else (s.startEntry h q.next).syncSpareIn h

/-! ## The stook boundary (R173-R185) -/

/-- One more run of the entry, or its end, at this boundary. -/
def State.runDone (s : State) (h : HalfIx) (again : State → State) : State :=
  let left := s.fld (F.SEQ_STATUS_REPEAT_LEFT h.val) - 1
  let s := s.setF (F.SEQ_STATUS_REPEAT_LEFT h.val) left
  if left == 0 then s.endEntry h
  else again (s.updSeq h fun q => { q with attempt := 1, unjudged := 0, ending := false })

/-- A shadow comparison of the stook that closed (R177): none if either result carries OVR, UNDR or SUSPECT. It is formed from the
operands of the boundary, whether or not a P-frame of the stook arrives, and so are calibrations and the checks of the test DAC
(DESIGN CHOICE, log entry 65). -/
def State.compare (s : State) (h : HalfIx) (r : StookRaw) : Option Int :=
  let c := s.target h
  let (own, oq) := s.ownPrec c (r.chans.getD c.val {})
  let (spr, sq) := s.sparePrec c (r.spares.getD h.val {})
  if oq != 0 || sq != 0 || s.precSuspect c || (s.chan c).wShunt then none else some (own - spr)

/-- The range of a channel: its function and option (R174). -/
def State.rangeOf (s : State) (c : ChIx) : Nat × Nat := (s.func c, s.fld (F.CH_CFG_OPT c.val))

/-- The mode of the spare while the entry's channel is calibrated or driven (R176, R189, R191): without cover only through the
DAC stooks of the first attempt and the check that follows them. -/
def State.coverMode (s : State) (h : HalfIx) : Nat := if s.noCover h && (s.seqOf h).attempt == 0 then 1 else 2

/-- A stage in which the spare covers the entry's channel begins; a set of the spare older than 600 s is first refreshed (R174). -/
def State.beginCover (s : State) (h : HalfIx) (c : ChIx) (g : SeqStage) : State :=
  if s.setOld h (s.rangeOf c) then s.insertSelf h (s.rangeOf c) g
  else (s.setSpare h (s.coverMode h) c.val 0).stage h g

/-- The stage that follows a judged or judgeable shadow of step 1 (R176, R184, R189). -/
def State.afterShadow (s : State) (h : HalfIx) : State :=
  let c := s.target h
  match s.seqOp h (s.seqEntry h) with
  | 1 => s.beginCover h c .zero
  | 3 => s.beginCover h c .dac
  | _ => s.runDone h fun s => s.beginRun h c

/-- The spare in an IDLE stook of no entry: it refreshes the oldest set, zero in one stook and reference in the next
(R174). -/
def State.idleStook (s : State) (h : HalfIx) (raw : ModRaw) : State :=
  match (s.seqOf h).idleRange with
  | none => match s.oldestRange h with
    | none => s
    | some r => s.updSeq h fun q => { q with idleRange := some r, zeroRaw := raw }
  | some r => (s.refreshSet h r raw).updSeq h fun q => { q with idleRange := none }

/-- The first channel of a half: its windows open and close with those of the spare. -/
def firstOf (h : HalfIx) : ChIx := ⟨8 * h.val, by omega⟩

/-- SUSPECT of a window of the spare that closes at this boundary (R153, R192). -/
def State.spareSuspect (s : State) (h : HalfIx) : Bool :=
  let x := s.chan (firstOf h)
  x.wRef || (s.half h).refOnAt.isNone || x.wSync || s.unlocked

/-- The result of an INT stook waits for Thresh, and its entry counts as written (R192, R193). -/
def State.noteInt (s : State) (h : HalfIx) (v : Int) (spr : ModRaw) : State :=
  let code := s.fld (F.SPR_STATUS_CODE h.val)
  let q := qb qOVR spr.high ||| qb qUNDR spr.low ||| qb qSUSPECT (s.spareSuspect h)
  s.updHalf h fun x => { x with
    intRes := some (code, v, q)
    seq := { x.seq with wrote := code :: x.seq.wrote, clean := x.seq.clean.set code 0 } }

/-- Step 4 begins, or is repeated: the calibrated channel is shadowed; a set of the spare older than 600 s is first refreshed, with
the channel on its own modulator meanwhile (R174; DEDUCED, log entry 31). -/
def State.beginCheck (s : State) (h : HalfIx) (c : ChIx) (g : SeqStage) : State :=
  if s.setOld h (s.rangeOf c) then s.insertSelf h (s.rangeOf c) .check else s.stage h g

/-- What the sequencer of a half does at a stook boundary with the results of the stook that ended. A step that measures takes
whole stooks, and in Lean mode measured ones alone (R144, R181): there the hand back after 16 unjudged comparisons, too, comes
with the next measured stook (DESIGN CHOICE, log entry 33). That hand back leaves the channel its last good coefficients (DESIGN
CHOICE, log entry 63). -/
def State.seqStook (s : State) (h : HalfIx) (r : StookRaw) (stook : Nat) : State :=
  let q := s.seqOf h
  let c := s.target h
  let own := r.chans.getD c.val {}
  let spr := r.spares.getD h.val {}
  let usable := s.measured h stook && (s.chan (firstOf h)).wOpen
  if q.running && q.stage == .nop then (s.whenB usable fun s => s.idleStook h spr).runDone h fun s => s
  else if !usable then s
  else if !q.running then s.idleStook h spr
  else if q.skip then (s.updChan c fun x => { x with coefs := x.good }).endEntry h
  else match q.stage with
    | .idle => s
    | .nop => s
    | .int => (s.noteInt h (r.ints.getD h.val 0) spr).runDone h fun s => s
    | .selfZero => (s.updSeq h fun q => { q with zeroRaw := spr }).stage h .selfRef
    | .selfRef =>
      let s := match q.selfLeft.head? with | some x => s.refreshSet h x spr | none => s
      let rest := q.selfLeft.tail
      let s := s.updSeq h fun q => { q with selfLeft := rest }
      if q.after == .shadow then
        ((s.setSpare h 1 c.val 0).updSeq h fun q => { q with after := .idle }).stage h .shadow
      else if q.after != .idle then
        ((s.setSpare h (s.coverMode h) c.val 0).updSeq h fun q => { q with after := .idle }).stage h q.after
      else s.runDone h fun s =>
        (s.updSeq h fun q => { q with selfLeft := if rest.isEmpty then s.rangesInUse h else rest }).stage h .selfZero
    | .shadow =>
      let d := s.compare h r
      let s := s.updSeq h fun q => { q with cmp := some (c.val, 1, d) }
      if d.isSome then s.afterShadow h
      else if s.setOld h (s.rangeOf c) then s.insertSelf h (s.rangeOf c) .shadow
      else s
    | .zero => (s.updSeq h fun q => { q with zeroRaw := own }).stage h .ref
    | .ref =>
      let (k, s) := calibrate q.zeroRaw own s
      (s.updChan c fun x => { x with coefs := k }).beginCheck h c .check
    | .dac =>
      let code := (s.ownPrec c own).1
      let s := s.updSeq h fun q => { q with
        dacRes := some (c.val, code, sx 8 (s.seqArg h (s.seqEntry h)) * 65536), dacLeft := q.dacLeft - 1 }
      let s := s.setF (F.SEQ_STATUS_REPEAT_LEFT h.val) (q.dacLeft - 1)
      if q.dacLeft ≤ 1 then s.beginCheck h c .check else s
    | .check =>
      let d := s.compare h r
      let s := s.updSeq h fun q => { q with cmp := some (c.val, 4, d) }
      if d.isSome then s.stage h .held else s.beginCheck h c .held
    | .held =>
      if q.redo then (s.updSeq h fun q => { q with redo := false }).beginCover h c .zero
      else if q.ending then
        let s := s.setSpare h 0 0 0
        if s.seqOp h (s.seqEntry h) == 1 then s.runDone h fun s => s.beginRun h c else s.endEntry h
      else s

/-- Stooks since the last successful calibration of each channel of a half, saturating (SPR_CHSTAT.AGE). -/
def State.ageChannels (s : State) (h : HalfIx) : State :=
  (chOf h).foldl (fun (s : State) c => s.addF (F.SPR_CHSTAT_AGE c.val) 1) s

/-! ## Verdicts (R177-R179, R189) -/

/-- A comparison that could not be judged: the step is repeated in the next stook, or after a self-calibration that was inserted
(R174); after 16 in a row the entry ends, handing back at the next stook boundary, and counts as skipped (R177). -/
def State.unjudged (s : State) (h : HalfIx) (again : SeqStage) : State :=
  let n := (s.seqOf h).unjudged + 1
  if n ≥ 16 then
    (s.updSeq h fun q => { q with unjudged := n, ending := true, skip := true, cmp := none }).addF
      (F.SEQ_COUNTS_SKIPPED h.val) 1
  else
    let s := s.updSeq h fun q => { q with unjudged := n, cmp := none }
    if (s.seqOf h).stage == .selfZero then s else s.stage h again

/-- SPR_STATUS.LAST_D: the last judged difference, saturated (spec/05). -/
def State.noteD (s : State) (h : HalfIx) (d : Int) : State :=
  s.setF (F.SPR_STATUS_LAST_D h.val) (uOf 16 (clampInt (-32767) 32767 d))

/-- SHADOW_MISMATCH at a step (R178, R179, R201). -/
def State.mismatch (s : State) (h : HalfIx) (c step : Nat) (d : Int) : State :=
  if d.natAbs ≥ 8389 then s.raise (srcTHR h.val) kShadowMismatch (faultAddr step c) else s

/-- SHADOW_VERDICT: 5 µs after a boundary the step-1 comparison is judged, or counted as unjudged (R177, R178). -/
def execShadowVerdict (h : HalfIx) (s : State) : Host.Outcome State Fault Refusal :=
  .next <|
    match (s.seqOf h).cmp with
    | some (c, 1, some d) =>
      let s := (s.noteD h d).mismatch h c 1 d
      s.updSeq h fun q => { q with cmp := none, unjudged := 0 }
    | some (_, 1, none) => s.unjudged h .shadow
    | _ => s

/-- The step-4 verdict passes: the new set replaces the previous good one, the spare hands back at the next boundary. -/
def State.calGood (s : State) (h : HalfIx) (c : ChIx) : State :=
  let dac := (s.seqOf h).attempt == 0
  let s := s.updChan c fun x => { x with good := x.coefs }
  let s := if dac then s
    else (s.setB (F.SPR_CHSTAT_UNCAL c.val) false).setF (F.SPR_CHSTAT_AGE c.val) 0
  s.updSeq h fun q => { q with ending := true }

/-- CAL_FAIL: the spare stays parked on the channel and the sequencer of the half stops (R179). -/
def State.calFail (s : State) (h : HalfIx) (c : ChIx) : State :=
  let s := s.setSpare h 4 c.val 0
  let s := ((s.setF (F.SEQ_STATUS_STATE h.val) 3).setB (F.SPR_CHSTAT_PARKED c.val) true).stage h .idle
  (s.updSeq h fun q => { q with running := true, ending := false }).raise (srcTHR h.val) kCalFail (faultAddr 63 c.val)

/-- STEP4_VERDICT: a hand back, a repeat of steps 3a, 3b and 4, or CAL_FAIL (R177, R179). -/
def execStep4Verdict (h : HalfIx) (s : State) : Host.Outcome State Fault Refusal :=
  .next <|
    match (s.seqOf h).cmp with
    | some (_, 4, some d) =>
      let c := s.target h
      let n := (s.seqOf h).attempt
      let s := (s.noteD h d).updSeq h fun q => { q with cmp := none, unjudged := 0 }
      if d.natAbs ≤ 1677 then s.calGood h c
      else
        let s := s.mismatch h c.val 4 d
        if n < 2 then s.updSeq h fun q => { q with attempt := n + 1, redo := true }
        else s.calFail h c
    | some (_, 4, none) => s.unjudged h .check
    | _ => s

/-- TDAC_CHECK: the result of a DAC stook against ARG × 65,536 (R189). -/
def execTdacCheck (h : HalfIx) (s : State) : Host.Outcome State Fault Refusal :=
  .next <|
    match (s.seqOf h).dacRes with
    | none => s
    | some (c, code, want) =>
      let s := s.updSeq h fun q => { q with dacRes := none }
      if (code - want).natAbs ≥ 8389 then s.raise (srcTHR h.val) kTdacFail (faultAddr 63 c) else s

/-! ## Host commands (R179, R187) -/

/-- A write of 1 to SEQ_GO (R187): taken, latched as pending, or counted as lost; it counts as an unstamped write. -/
def State.seqGo (s : State) (h : HalfIx) : State :=
  let s := s.unstamped
  let empty := decide (s.fld (F.SEQ_CFG_LEN h.val) ≤ s.fld (F.SEQ_CFG_BG_LEN h.val))
  if empty || s.fld (F.SEQ_STATUS_STATE h.val) == 3 then s.addF (F.SEQ_COUNTS_TRIG_LOST h.val) 1
  else if !(s.seqOf h).test && !(s.seqOf h).wait then s.updSeq h fun q => { q with wait := true }
  else if !s.flag (F.SEQ_STATUS_PENDING h.val) then s.setB (F.SEQ_STATUS_PENDING h.val) true
  else s.addF (F.SEQ_COUNTS_TRIG_LOST h.val) 1

/-- SEQ_GO. -/
def execSeqGo (h : HalfIx) (s : State) : Host.Outcome State Fault Refusal := s.hostKey fun s => s.seqGo h

/-- Key 0x3E in SPR_CTRL ends a park: the hand back waits for the next stook boundary; dropped for a half that is not
parked (R179). It counts as an unstamped write. -/
def State.parkEnd (s : State) (h : HalfIx) : State :=
  if s.fld (F.SEQ_STATUS_STATE h.val) == 3 then (s.updSeq h fun q => { q with ending := true }).unstamped else s

/-- SPR_PARK_END. -/
def execSprParkEnd (h : HalfIx) (s : State) : Host.Outcome State Fault Refusal := s.hostKey fun s => s.parkEnd h

/-- At a stook boundary a park that was ended hands back: last good coefficients, and the sequencer resumes with the
entry after the CAL (R179). -/
def State.unpark (s : State) (h : HalfIx) : State :=
  if s.fld (F.SEQ_STATUS_STATE h.val) == 3 && (s.seqOf h).ending then
    let c := s.target h
    let s := s.updChan c fun x => { x with coefs := x.good }
    (s.setB (F.SPR_CHSTAT_PARKED c.val) false).endEntry h
  else s

/-- The sequencer's part of a stook boundary. The field die changes the inputs on a command of the mailbox in the stook before, so nothing
changes where no valid downlink frame has reached it in that stook (R173); a command that came through the mailbox in the stook before
wins over the sequencer's own for the spare's input. -/
def State.spareStook (s : State) (h : HalfIx) (r : StookRaw) (stook : Nat) : State :=
  let parked := s.fld (F.SEQ_STATUS_STATE h.val) == 3
  let s := s.updHalf h fun x => { x with mailOk := x.mailAny, mailAny := false }
  let s := if !(s.half h).mailOk then s else if parked then s.unpark h else s.seqStook h r stook
  let s := s.updHalf h fun x => { x with spareNow := x.spareIn.getD x.spareNow, spareMb := x.spareIn.isSome, spareIn := none }
  ((s.syncSpareIn h).internalStale h).ageChannels h

/-- The coefficients of every modulator and of the spare are lost (R175). -/
def State.loseCoefs (s : State) : State :=
  let s := allCh.foldl (fun (s : State) c =>
    ((s.updChan c fun x => { x with coefs := x.factory, good := x.factory }).setB (F.SPR_CHSTAT_UNCAL c.val) true).setB
      (F.SPR_CHSTAT_PARKED c.val) false) s
  allHalves.foldl (fun (s : State) h => s.updHalf h fun x => { x with
    sets := [], seq := { x.seq with firstPass := true } }) s

end Sys2Proof.Machine
end

