-- ==== Sys2Proof/Machine/Link.lean ====
section
/-!
DEFINITION. Machine/Link.lean: the Barn Door: downlink and uplink frames, the mailbox, the safe-state table and its check,
the timeouts, training and reloading (R77, R78, R202-R219).
-/
namespace Sys2Proof.Machine

/-- Full slots of a swath (R77). -/
def State.fullSlots (s : State) : Nat := s.swLen / 192

/-! ## The safe-state table (R213; the order of its words is the model's, log entry 9) -/

/-- The words of the safe-state table of a half: CHn_SAFE of its channels, the ALM directions with UV_AUTO, TIMEOUT. -/
def State.tableWords (s : State) (h : HalfIx) : List Word :=
  let alm := (chOf h).foldl (fun n c =>
    n + (if s.fld (F.CH_SAFE_SAFE c.val) == 4 then 2 ^ (1 + c.val % 8) else 0)) 0
  (chOf h).map (fun c => s.reg (Reg.CH_SAFE c.val))
    ++ [BitVec.ofNat 32 (alm + b2n (s.flag (F.FH_CFG_UV_AUTO h.val))), BitVec.ofNat 32 (s.fld (F.BD_CFG_TIMEOUT h.val))]

/-- Words of the field-die parameter space (log entry 9). -/
def paramSize : Nat := 0x100
/-- Words of the safe-state table, at parameter address 0 (log entry 9). -/
def tableSize : Nat := 10

/-- BD_SAFE_CRC follows the table of the logic die. -/
def State.syncTableCrc (s : State) (h : HalfIx) : State :=
  s.setReg (Reg.BD_SAFE_CRC h.val) (crc32cWords (s.tableWords h))

/-- The System Controller loads configuration and table into a field die: loaded, in its safe state (R127, R213); a die that
was loaded and has timed out stays timed out (R215). A coil that is on in its safe state closes here, which begins a capture
(R194). -/
def State.loadDie (s : State) (h : HalfIx) : State :=
  let t := s.tableWords h
  let s := s.setF (F.BD_STATUS_LINK h.val) (if (s.half h).upTimeout.isSome then 3 else 2)
  s.fieldChange h true fun s =>
    let s := (chOf h).foldl (fun (s : State) c => s.updChan c fun x => { x with action := some 2, value := 0, disconnected := false }) s
    s.updHalf h fun x => { x with
      loaded := true
      kept := []
      was := []
      keeper := if x.loaded && x.keeper == 4 then 4 else 1
      table := t, tableCrc := some (crc32cWords t), tableTold := false
      dnMiss := if x.loaded && x.keeper == 4 then x.dnMiss else 0
      params := (List.range tableSize).foldl (fun m i => Sparse.put (fun _ => 0#32) m i (t.getD i 0#32)) [] }

/-- SAFE_TABLE_CHECK: the stored table against its stored CRC, and against word 18 of a valid frame; a mismatch forces
every channel of the half OFF until a field reset (R213). -/
def State.tableCheck (s : State) (h : HalfIx) (word18 : Option Word) : State :=
  let x := s.half h
  match x.tableCrc with
  | none => s
  | some c =>
    let bad := crc32cWords x.table != c || (match word18 with | some w => w != c | none => false)
    if bad && !x.forced then
      let s := s.fieldChange h false fun s => s.updHalf h fun x => { x with forced := true }
      (chOf h).foldl (fun (s : State) c => s.abortPulse c) s
    else s

/-! ## Downlink frames (R205-R207, R214, R215) -/

/-- The fields of a downlink frame (R205). -/
structure DownFrame where
  armed : Bool
  dormant : Bool
  swath : Word
  cmds : List Word
  mail : List Word
  word18 : Word
  stook : Bool
  len : Nat
  deriving DecidableEq, Repr

/-- The 24 words of a frame for a slot (R202, R205). -/
def DownFrame.words (f : DownFrame) (slot : Nat) : List Word :=
  let w0 : Word := BitVec.ofNat 32 (0xBC100000 + b2n f.armed * 2 ^ 19 + b2n f.dormant * 2 ^ 18 + slot % 8192)
  let w19 : Word := BitVec.ofNat 32 (b2n f.stook * 2 ^ 31 + f.len % 2 ^ 24)
  let ws := [w0, f.swath] ++ f.cmds ++ f.mail ++ [f.word18, w19, 0#32, 0#32, 0#32]
  ws ++ [crc32cWords ws]

/-- A command word (R206): action, DARK where the channel's dark pulse is due in this swath, whatever the action, and value. -/
def State.actionWord (s : State) (c : ChIx) (action value : Nat) : Word :=
  BitVec.ofNat 32 (action * 2 ^ 28 + b2n (s.dpDue c s.ruleSwath) * 2 ^ 27 + value)

/-- The command word of a channel in the frame of a slot that starts at `t` (R205-R207). -/
def State.cmdWord (s : State) (c : ChIx) (t : Nat) : Word :=
  let h := halfOf c
  if (s.half h).nightTx then s.actionWord c 3 0
  else if !s.isActed c then 0#32
  else if (s.chan c).share.isSome then 0x10000001#32
  else if s.frameSafe c t then s.actionWord c 2 0
  else if s.func c == fLOOP then 0x10000000#32
  else s.actionWord c 1 (s.clampCmd c ((s.out.get c).at t)).1

/-- The next boundary ends the aligning swath of a follower (R438). -/
def State.endsAligned (s : State) : Bool := s.yk.alignEnd == some (s.btick + s.swLen)

/-- The next boundary is a stook boundary: the last of a whole stook, that of R63, or the one that ends an aligning swath (R58, R63,
R438). -/
def State.nextIsStook (s : State) : Bool := s.boot.tbNext.isSome || s.endsAligned || decide (s.kLen ≤ s.phase + 1)

/-- The frame the logic die sends in a slot (R205). -/
def State.downFrame (s : State) (h : HalfIx) (slot : Nat) : DownFrame :=
  let t := s.btick + 192 * slot
  { armed := s.frameArmed h t && !(s.half h).nightTx
    dormant := (s.half h).nightTx
    swath := s.swath32
    cmds := (chOf h).map fun c => s.cmdWord c t
    mail := (List.range 8).map fun i => (s.half h).mbOut.getD i 0#32
    word18 := s.reg (Reg.BD_SAFE_CRC h.val)
    stook := s.nextIsStook
    len := s.swLen }

/-- A received frame of 24 words, if it is valid for a slot (R204); one with DORMANT and ARMED is not (R215). -/
def parseDown (slot : Nat) (ws : List Word) : Option DownFrame :=
  let w0 := ws.getD 0 0#32
  let w19 := ws.getD 19 0#32
  if ws.length == 24 && wbits w0 31 24 == 0xBC && wbits w0 23 20 == 1 && wbits w0 12 0 == slot
      && crc32cWords (ws.take 23) == ws.getD 23 0#32 && !(wbit w0 19 && wbit w0 18) then
    some { armed := wbit w0 19, dormant := wbit w0 18, swath := ws.getD 1 0#32, cmds := (ws.drop 2).take 8
           mail := (ws.drop 10).take 8, word18 := ws.getD 18 0#32, stook := wbit w19 31, len := wbits w19 23 0 }
  else none

/-! ## The mailbox (R208, R211, R213) -/

/-- Word 13 of the mailbox return, then its data (R211). -/
def State.mbAnswer (s : State) (h : HalfIx) (op result seq addr : Nat) (data : List Word) : State :=
  let w : Word := BitVec.ofNat 32 (op * 2 ^ 28 + result * 2 ^ 24 + seq % 256 * 2 ^ 16 + addr % 65536)
  s.updHalf h fun x => { x with mbReturn := w :: (data ++ List.replicate (8 - data.length) 0#32) }

/-- Op 1: seven parameter words are written; a table write while the half is armed is refused (R211, R213). -/
def State.mbWrite (s : State) (h : HalfIx) (seq a : Nat) (ws : List Word) : State :=
  if a + 7 > paramSize then s.mbAnswer h 1 1 seq a []
  else if a < tableSize && (s.half h).armedF then s.mbAnswer h 1 3 seq a []
  else
    (s.updHalf h fun x => { x with
      params := (List.range 7).foldl (fun m i => Sparse.put (fun _ => 0#32) m (a + i) (ws.getD i 0#32)) x.params }).mbAnswer
      h 1 0 seq a []

/-- Op 2: seven parameter words are read into the mailbox return (R211). -/
def State.mbRead (s : State) (h : HalfIx) (seq a : Nat) : State :=
  if a + 7 > paramSize then s.mbAnswer h 2 1 seq a []
  else s.mbAnswer h 2 0 seq a ((List.range 7).map fun i => Sparse.get (fun _ => 0#32) (s.half h).params (a + i))

/-- Op 3: the safe-state table is committed and checked against word 18 (R211, R213). -/
def State.mbCommit (s : State) (h : HalfIx) (seq a : Nat) (w18 : Word) : State :=
  if (s.half h).armedF then s.mbAnswer h 3 3 seq a []
  else
    let t := (List.range tableSize).map fun i => Sparse.get (fun _ => 0#32) (s.half h).params i
    let c := crc32cWords t
    let s := s.updHalf h fun x => { x with table := t, tableCrc := some c }
    (s.mbAnswer h 3 (if c == w18 then 0 else 4) seq a []).tableCheck h (some w18)

/-- The field die acts once on each MB_SEQ of a mailbox it receives (R208); a reserved MB_OP is answered BAD_OP. `w18`: word 18 of
the frame. -/
def State.mbAct (s : State) (h : HalfIx) (ws : List Word) (w18 : Word) : State :=
  let w := ws.getD 0 0#32
  let op := wbits w 31 28
  let seq := wbits w 23 16
  let a := wbits w 15 0
  if op == 0 || (s.half h).mbSeq == some seq then s
  else
    let s := match op with
      | 1 => s.mbWrite h seq a (ws.drop 1)
      | 2 => s.mbRead h seq a
      | 3 => s.mbCommit h seq a w18
      | 4 => (s.updHalf h fun x => { x with spareIn := some (ws.getD 1 0#32) }).mbAnswer h 4 0 seq a []
      | _ => s.mbAnswer h op 2 seq a []
    s.updHalf h fun x => { x with mbSeq := some seq }

/-- The System Controller puts a command into the mailbox: the frames carry it from now on, and where frames run the field die has
it at once (R53, R208). -/
def State.mailbox (s : State) (h : HalfIx) (op seq addr : Nat) (data : List Word) : Host.Outcome State Fault Refusal :=
  .next <|
    let w : Word := BitVec.ofNat 32 (op * 2 ^ 28 + seq % 256 * 2 ^ 16 + addr % 65536)
    let ws := w :: (List.range 7).map fun i => data.getD i 0#32
    let s := s.updHalf h fun x => { x with mbOut := ws }
    s.whenB (s.framesRun h) fun s => s.mbAct h ws (s.reg (Reg.BD_SAFE_CRC h.val))

/-- MB_WRITE: op 1 writes seven parameter words (R208, R211, R213). -/
def execMbWrite (h : HalfIx) (seq : BitVec 8) (addr : BitVec 16) (ws : List Word) (s : State) :
    Host.Outcome State Fault Refusal := s.mailbox h 1 seq.toNat addr.toNat ws

/-- MB_READ: op 2 reads seven parameter words into a mailbox return (R208, R211). -/
def execMbRead (h : HalfIx) (seq : BitVec 8) (addr : BitVec 16) (s : State) : Host.Outcome State Fault Refusal :=
  s.mailbox h 2 seq.toNat addr.toNat []

/-- MB_COMMIT_TABLE: op 3 commits the safe-state table and checks it against word 18 (R211, R213). -/
def execMbCommitTable (h : HalfIx) (seq : BitVec 8) (s : State) : Host.Outcome State Fault Refusal :=
  s.mailbox h 3 seq.toNat 0 []

/-- MB_SPARE_INPUT: op 4 sets the spare input for the next stook boundary (R173, R208). -/
def execMbSpareInput (h : HalfIx) (seq : BitVec 8) (input : Word) (s : State) : Host.Outcome State Fault Refusal :=
  s.mailbox h 4 seq.toNat 0 [input]

/-! ## What the field die does with a frame (R206, R207, R213-R215) -/

/-- ACTION of a command word as applied: reserved codes and every action without ARMED count as SAFE, unless the frame
hands over to the night state (R206, R207, R215). -/
def actionOf (f : DownFrame) (w : Word) : Nat :=
  let a := wbits w 31 28
  if f.dormant then (if a == 3 then 3 else 2) else if !f.armed || a ≥ 4 then 2 else a

/-- The output stage of a channel holds its last command open-loop through the DAC stooks of a TDAC entry (R190). -/
def State.dacHolds (s : State) (c : ChIx) : Bool :=
  let q := s.seqOf (halfOf c)
  (s.func c == fAOI || s.func c == fAOV) && q.running && q.stage == .dac && s.target (halfOf c) == c

/-- One channel takes its command word (R206, R207): KEEP leaves what was applied. -/
def State.takeCmd (s : State) (c : ChIx) (f : DownFrame) (w : Word) : State :=
  let a := actionOf f w
  let n := s.swath
  let held := s.dacHolds c
  if !s.isActed c || a == 0 then s
  else s.updChan c fun x => { x with
    action := some a
    value := if a == 1 && !held then wbits w 23 0 else x.value
    dark := if wbit w 27 && x.dpSwath != some n then true else x.dark }

/-- The change a command word makes ends a dark pulse that runs (R116). -/
def State.pulseCut (s : State) (c : ChIx) (f : DownFrame) (w : Word) : Bool :=
  let x := s.chan c
  let a := actionOf f w
  x.pulse.isSome && a != 0 && (x.action != some a || (a == 1 && x.value != wbits w 23 0))

/-- The slot index by the die's own count of the ticks at the start of a slot: the nearest one (R203, R204). -/
def State.dieSlot (s : State) (h : HalfIx) (slot : Nat) : Nat :=
  let t := s.btick + 192 * slot + 96
  if (s.half h).dieAt ≤ t then (t - (s.half h).dieAt) / 192 else 0x2000

/-- At a boundary of the logic die a field die to which frames run goes on by its own count: it places the boundary by the length that
its last valid frame carried (R203). Without frames it has none to count by, and follows at the training of its link (DESIGN CHOICE,
log entry 80). -/
def State.dieBoundary (s : State) : State :=
  allHalves.foldl (fun (s : State) h =>
    let x := s.half h
    let t := if s.framesRun h && x.dnLen != 0 then x.dieAt + x.dnLen else s.btick
    s.updHalf h fun x => { x with dieAt := t }) s

/-- A valid frame reaches the field die of a half (R206, R213-R215); that of slot 0 confirms the boundary (R203); the first armed frame of an arming opens the gate for the
5 ms of its check (R123). -/
def State.applyFrame (s : State) (h : HalfIx) (slot : Nat) (f : DownFrame) : State :=
  let run := (s.half h).dnRun
  let back := (s.half h).timedOut && decide (run ≥ 8) && slot == 0 && f.armed
  let pairs := (chOf h).zip f.cmds
  let cut := pairs.filter fun p => s.pulseCut p.1 f p.2
  let start := s.btick
  let s := s.fieldChange h true fun s =>
    let t := s.tick
    let s := s.updHalf h fun x => { x with
      dnSwath := f.swath, dnLen := f.len, dnStook := f.stook
      dieAt := if slot == 0 then start else x.dieAt
      mailAny := true
      dnMiss := 0, dnGot := true, dnRun := run + 1, dormant := f.dormant, armedF := f.armed
      gateDue := x.gateDue && !f.armed
      gateTest := if x.gateDue && f.armed then some (t + 240000) else x.gateTest
      timedOut := x.timedOut && !back
      alm := x.almIn
      keeper := if !x.loaded then 0 else if x.timedOut && !back then 4 else if f.dormant then 3
        else if f.armed then 2 else 1 }
    if (s.half h).loaded then pairs.foldl (fun (s : State) p => s.takeCmd p.1 f p.2) s else s
  let s := cut.foldl (fun (s : State) p => s.abortPulse p.1) s
  (s.mbAct h f.mail f.word18).tableCheck h (some f.word18)

/-- CHn_CMD: the command sent for the current swath, after clamping; LIMIT while it is clamped (R85). -/
def State.noteSent (s : State) (c : ChIx) (t : Nat) : State :=
  if s.isOutput c then
    let (v, cl) := s.clampCmd c ((s.out.get c).at t)
    (s.setReg (Reg.CH_CMD c.val) (BitVec.ofNat 32 v)).updChan c fun x => { x with clamped := x.clamped || cl }
  else s

/-- DOWNLINK_FRAME: the frame of a full slot reaches the field die, which validates it and applies its commands at the
next slot start (R204-R207); its slot index is to equal the die's own count. `rx` holds the 24 words as received where they differ from
those sent; a frame that is not valid changes nothing but the counts. -/
def execDownlinkFrame (h : HalfIx) (slot : Nat) (rx : Option (List Word)) (s : State) :
    Host.Outcome State Fault Refusal :=
  .next <|
    if !s.framesRun h || decide (s.fullSlots ≤ slot) then s
    else
      let s := (chOf h).foldl (fun (s : State) c => s.shareGuard c (s.btick + 192 * slot)) s
      let own := s.dieSlot h slot
      let f := match rx with
        | none => if own == slot then some (s.downFrame h slot) else none
        | some ws => parseDown own ws
      let s := (chOf h).foldl (fun (s : State) c => s.noteSent c (s.btick + 192 * slot)) s
      let s := s.reach (s.btick + 192 * (slot + 1))
      match f with
      | some f => s.applyFrame h own f
      | none => s.updHalf h fun x => { x with dnRun := 0, dnBad := sat 255 (x.dnBad + 1) }

/-! ## Uplink frames (R209-R212, R219) -/

/-- The fields of an uplink frame (R209): keeper state, primary and secondary codes of the eight channels and the spare, window
number, NEW, swath of the last valid downlink frame, words 11 and 12, words 13-21 of a normal or a P-frame, and of word 22 VFIELD, the
supply state, the ALM strap, gate closed, GDRV on, the table check, invalid downlink frames. -/
structure UpFrame where
  keeper : Nat
  codes : List (Nat × Nat)
  k : Nat
  fresh : Bool
  swath16 : Nat
  states : Word
  conds : Word
  pframe : Bool
  body : List Word
  vfield : Nat
  supply : Nat
  alm : Nat
  gate : Bool
  gdrv : Bool
  table : Bool
  dnBad : Nat
  deriving DecidableEq, Repr

/-- The 24 words of a frame for a slot (R202, R209). -/
def UpFrame.words (f : UpFrame) (slot : Nat) : List Word :=
  let w0 : Word := BitVec.ofNat 32 (0xBC500000 + b2n f.pframe * 2 ^ 20 + f.keeper % 16 * 2 ^ 16 + slot % 8192)
  let w10 : Word := BitVec.ofNat 32 (f.k % 2048 * 2 ^ 21 + b2n f.fresh * 2 ^ 20 + f.swath16 % 65536)
  let ws := [w0] ++ f.codes.map (fun p => BitVec.ofNat 32 (p.1 % 65536 * 65536 + p.2 % 65536)) ++ [w10, f.states, f.conds]
    ++ f.body ++ [BitVec.ofNat 32 (f.vfield % 65536 * 65536 + f.supply % 8 * 2 ^ 13 + f.alm % 4 * 2 ^ 11 + b2n f.gate * 2 ^ 10
      + b2n f.gdrv * 2 ^ 9 + b2n f.table * 2 ^ 8 + f.dnBad % 256)]
  ws ++ [crc32cWords ws]

/-- A received frame of 24 words, if it is valid for a slot (R204). -/
def parseUp (slot : Nat) (ws : List Word) : Option UpFrame :=
  let w0 := ws.getD 0 0#32
  let w10 := ws.getD 10 0#32
  let w22 := ws.getD 22 0#32
  let type := wbits w0 23 20
  if ws.length == 24 && wbits w0 31 24 == 0xBC && (type == 5 || type == 6) && wbits w0 12 0 == slot
      && crc32cWords (ws.take 23) == ws.getD 23 0#32 then
    some { keeper := wbits w0 19 16, codes := ((ws.drop 1).take 9).map (fun w => (wbits w 31 16, wbits w 15 0))
           k := wbits w10 31 21, fresh := wbit w10 20, swath16 := wbits w10 15 0, states := ws.getD 11 0#32
           conds := ws.getD 12 0#32, pframe := type == 6, body := (ws.drop 13).take 9, vfield := wbits w22 31 16, supply := wbits w22 15 13
           alm := wbits w22 12 11, gate := wbit w22 10, gdrv := wbit w22 9, table := wbit w22 8, dnBad := wbits w22 7 0 }
  else none

/-- Length of the swath before. -/
def State.prevLen (s : State) : Nat := s.btick - s.pipe.prevBtick

/-- The slot and the start tick of a frame: one of the swath under way, or (none) that of the last full slot before. -/
def State.slotOf (s : State) (slot : Option Nat) : Nat × Nat :=
  match slot with
  | some j => (j, s.btick + 192 * j)
  | none => let j := s.prevLen / 192 - 1; (j, s.pipe.prevBtick + 192 * j)

/-- The window whose samples a frame carries (R210): its swath and number. Window k closes at the start of slot 5 k, the last one
of a swath at the start of the next. -/
def State.upWindow (s : State) (slot : Option Nat) : Nat × Nat :=
  let j := (s.slotOf slot).1
  match slot with
  | some _ => if j < 5 then (s.swath - 1, windowsOf s.prevLen) else (s.swath, min (j / 5) (windowsOf s.swLen - 1))
  | none => (s.swath - 1, min (j / 5) (windowsOf s.prevLen - 1))

/-- Where the half keeps that window, if it has closed: the newest (false) or the one before. -/
def State.upPlace (s : State) (h : HalfIx) (slot : Option Nat) : Option Bool :=
  let n := s.upWindow slot
  let isIt (w : Option Win) : Bool := match w with | some w => (w.swath, w.k) == n | none => false
  if isIt (s.half h).win then some false else if isIt (s.half h).winOld then some true else none

/-- The two edge offsets of a PULSE channel in the slot that starts at `t`: the earlier one high, 0xFF for none (R209). -/
def Chan.edgeOffsets (x : Chan) (t : Nat) : Nat :=
  let es := ((x.edgeAt.filter fun e => decide (t ≤ e) && decide (e < t + 192)).map fun e => e - t).reverse
  es.getD 0 0xFF * 256 + es.getD 1 0xFF

/-- The edges of a PULSE channel that a frame carries, the earlier first: offset and direction; edges alternate, so that the comparator
state at the end of the slot tells their directions (R209). -/
def edgesIn (offsets : Nat) (comp : Bool) : List (Nat × Bool) :=
  match [offsets / 256 % 256, offsets % 256].filter fun o => o != 0xFF with
  | [a] => [(a, comp)]
  | [a, b] => [(a, !comp), (b, comp)]
  | _ => []

/-- The rising edges of a frame whose slot started at `t` enter the stamped edges of a swath: count, first and last stamp (R105, R157). -/
def stampEdges (t : Nat) (es : List (Nat × Bool)) (x : Nat × Word × Word) : Nat × Word × Word :=
  (es.filter fun e => e.2).foldl (fun (x : Nat × Word × Word) e =>
    let w : Word := BitVec.ofNat 32 (t + e.1)
    (sat 65535 (x.1 + 1), if x.1 == 0 then w else x.2.1, w)) x

/-- The edges a frame brings of a channel: into the swath under way, or into the one before, which the last frame of that swath belongs
to. -/
def Chan.takeEdges (x : Chan) (prev : Bool) (t : Nat) (es : List (Nat × Bool)) : Chan :=
  if prev then { x with edgesB := stampEdges t es x.edgesB }
  else
    let y := stampEdges t es (x.edges, x.edgeFirst, x.edgeLast)
    { x with edges := y.1, edgeFirst := y.2.1, edgeLast := y.2.2 }

/-- One bit of each channel of a half, the lowest channel in bit 0. -/
def halfBits (h : HalfIx) (f : ChIx → Bool) : Nat := (chOf h).foldl (fun n c => n + b2n (f c) * 2 ^ (c.val % 8)) 0

/-- The uplink frame that a field die sends in a slot (R209-R211). -/
def State.upFrame (s : State) (h : HalfIx) (slot : Option Nat) : UpFrame :=
  let x := s.half h
  let (j, t) := s.slotOf slot
  let w := match s.upPlace h slot with | some old => x.winAt old | none => x.win
  let ys := match w with | some w => w.chans | none => []
  let y (c : ChIx) : ChWin := ys.getD (c.val % 8) {}
  let spare := match w with | some w => w.spare | none => {}
  let pframe := slot.isSome && s.pipe.stookB && decide (j ≤ 1)
  { keeper := x.keeper
    codes := (chOf h).map (fun c => (uOf 16 (y c).prim,
      if s.func c == fPULSE then (s.chan c).edgeOffsets t else uOf 16 (y c).sec)) ++ [(uOf 16 spare.prim, uOf 16 spare.sec)]
    k := match w with | some w => w.k | none => 0
    fresh := j % 5 == 0 && (match w with | some w => j == 0 || w.k == j / 5 | none => false)
    swath16 := x.dnSwath.toNat % 65536
    states := BitVec.ofNat 32 (halfBits h (fun c => s.func c == fDI && (y c).bit0) * 2 ^ 24
      + halfBits h (fun c => (s.chan c).comp) * 2 ^ 16 + halfBits h (fun c => s.isSwitch c && (y c).bit0) * 2 ^ 8
      + halfBits h (fun c => s.isSwitch c && (y c).bit1))
    conds := BitVec.ofNat 32 ((chOf h).foldl (fun n c => n + 16 ^ (c.val % 8) * (b2n (s.chan c).limit + 2 * b2n (s.chan c).hot
      + 4 * b2n ((s.chan c).has kChOpen) + 8 * b2n (y c).clamp)) 0)
    pframe := pframe
    body := (List.range 9).map fun i => (if pframe then x.pSent else x.mbReturn).getD i 0#32
    vfield := match w with | some w => sat 65535 w.vfield | none => s.fld (F.FH_STATUS_VFIELD h.val)
    supply := x.supply
    alm := x.almIn
    gate := s.gateWanted h
    gdrv := x.gdrv
    table := x.loaded && !x.forced
    dnBad := x.dnBad }

/-- What the logic die receives in a slot: the frame as sent, or other words, if they are valid (R204). -/
def State.upRx (s : State) (h : HalfIx) (slot : Option Nat) (rx : Option (List Word)) : Option UpFrame :=
  match rx with
  | none => some (s.upFrame h slot)
  | some ws => parseUp (s.slotOf slot).1 ws

/-- What a frame says of channel i of a half, or of the spare, 8: codes, clamp, and the state bits of an input or a switch. -/
def UpFrame.put (f : UpFrame) (di sw : Bool) (i : Nat) (y : ChWin) : ChWin :=
  let k := f.codes.getD i (0, 0)
  { y with
    prim := sx 16 k.1
    sec := sx 16 k.2
    clamp := decide (i < 8) && f.conds.getLsbD (4 * i + 3)
    bit0 := if di then f.states.getLsbD (24 + i) else if sw then f.states.getLsbD (8 + i) else y.bit0
    bit1 := if sw then f.states.getLsbD i else y.bit1 }

/-- LINK_CRC of a swath once its last frame is judged: one message per direction with the complete count (R219). -/
def State.linkCrc (s : State) (h : HalfIx) (dn up : Nat) : State :=
  let s := if dn == 0 then s else s.raiseOnce (srcBD h.val) kLinkCrc (faultAddr 0 (sat 63 dn))
  if up == 0 then s else s.raiseOnce (srcBD h.val) kLinkCrc (faultAddr 1 (sat 63 up))

/-- The logic die takes what a valid frame carries: the window it is the first to bring (R210), and the results of a P-frame or
the mailbox return (R211). -/
def State.takeFrame (s : State) (h : HalfIx) (place : Option Bool) (f : UpFrame) : State :=
  let ch (i : Nat) : ChIx := ⟨8 * h.val + i % 8, by omega⟩
  let di := (List.range 8).map fun i => s.func (ch i) == fDI
  let sw := (List.range 8).map fun i => s.isSwitch (ch i)
  let s : State := match place with
    | some old => s.whenB (((s.half h).winAt old).any fun w => w.k == f.k) fun s =>
      s.takeWin h old fun i y => f.put (di.getD i false) (sw.getD i false) i y
    | none => s
  s.updHalf h fun (x : Half) => if f.pframe then { x with pGot := x.pGot.or (some f.body) } else { x with mbRx := f.body }

/-- What a frame of a slot that started at `t` tells of the channels of its half: the edges of a PULSE channel, and limit, heat and the
open test of word 12 (R105, R209). -/
def State.takeConds (s : State) (h : HalfIx) (prev : Bool) (t : Nat) (f : UpFrame) : State :=
  (chOf h).foldl (fun (s : State) c =>
    let i := c.val % 8
    let es := if s.func c == fPULSE then edgesIn (f.codes.getD i (0, 0)).2 (f.states.getLsbD (16 + i)) else []
    s.updChan c fun x => { x.takeEdges prev t es with told := wbits f.conds (4 * i + 2) (4 * i) }) s

/-- What a frame tells of its half: word 22 into FH_STATUS (R209). -/
def State.takeHalf (s : State) (h : HalfIx) (f : UpFrame) : State :=
  let s := (s.setF (F.FH_STATUS_VFIELD h.val) f.vfield).setF (F.FH_STATUS_SUPPLY h.val) f.supply
  ((s.setF (F.FH_STATUS_ALM_STRAP h.val) f.alm).setB (F.FH_STATUS_GATE_CLOSED h.val) f.gate).setB (F.FH_STATUS_GDRV_ON h.val) f.gdrv

/-- What else a valid uplink frame tells the logic die (R209, R213, R214, R219). `prev`: it counts against the swath before. -/
def State.uplinkValid (s : State) (h : HalfIx) (prev : Bool) (f : UpFrame) : State :=
  let x := s.half h
  let t := s.tick
  let s := (s.setF (F.BD_STATUS_UP_MISS h.val) 0).updHalf h fun x => { x with upGot := true, upLast := some t }
  let table := f.table
  let s := (s.setF (F.BD_STATUS_KEEPER h.val) f.keeper).setB (F.BD_STATUS_TABLE_OK h.val) table
  let bad := f.dnBad
  let s := if bad == 0 then s
    else
      let s := s.addF (F.BD_COUNTS_DN_INVALID h.val) bad
      let s := s.setReg (Reg.BD_LAST_FAIL h.val) (s.swath32 - BitVec.ofNat 32 (b2n prev))
      s.updHalf h fun y => if prev then { y with prevBad := y.prevBad.map fun p => (p.1 + bad, p.2) }
        else { y with dnBadSw := y.dnBadSw + bad }
  let s := if x.upTimeout.isSome then
      -- the safe state is left at a boundary alone (R130)
      let s := (chOf h).foldl (fun (s : State) c => s.updChan c fun y => { y with safeL := true }) s
      (s.updHalf h fun x => { x with upTimeout := none }).setF (F.BD_STATUS_LINK h.val)
        (if x.loaded && x.kept.isEmpty then 2 else 4)
    else s
  let s := if x.reportLoss then
      ((s.updHalf h fun x => { x with reportLoss := false }).addF (F.BD_LOSS_TIMEOUTS h.val) 1).raise (srcBD h.val)
        kLinkLoss (faultAddr 0 63)
    else s
  if f.keeper != 0 && !table && !x.tableTold then
    (s.updHalf h fun x => { x with tableTold := true }).raise (srcBD h.val) kSafeTable (faultAddr 63 63)
  else s

/-- An invalid uplink frame is discarded whole and counted (R204, R212, R219). -/
def State.uplinkBad (s : State) (h : HalfIx) (slot : Nat) (prev : Bool) : State :=
  let s := s.addF (F.BD_COUNTS_UP_INVALID h.val) 1
  let s := s.setReg (Reg.BD_LAST_FAIL h.val) (s.swath32 - BitVec.ofNat 32 (b2n prev))
  let s := s.updHalf h fun y => if prev then { y with prevBad := y.prevBad.map fun p => (p.1, p.2 + 1) }
    else { y with upBadSw := y.upBadSw + 1 }
  if !prev && slot == 0 && s.pipe.window then
    let s := s.addF (F.BD_LOSS_LATE_GATHER h.val) 1
    { s with pipe := { s.pipe with late := true } }
  else s

/-- A frame of a half is judged; the count of word 22 starts afresh with each frame sent (R209). -/
def State.judgeUp (s : State) (h : HalfIx) (slot : Option Nat) (f : Option UpFrame) (place : Option Bool) : State :=
  let t := (s.slotOf slot).2
  let s := s.updHalf h fun x => { x with dnBad := 0 }
  match f with
  | some f => (((s.takeFrame h place f).takeConds h slot.isNone t f).takeHalf h f).uplinkValid h slot.isNone f
  | none => s.uplinkBad h (slot.getD 0) slot.isNone

/-- An uplink frame of a half is judged 10 ticks after its slot has ended (R222): that of a slot of the swath under way, or
(none) that of the last full slot of the swath before, with which that swath's LINK_CRC is raised (R209, R219). -/
def State.uplinkFrame (s : State) (h : HalfIx) (slot : Option Nat) (rx : Option (List Word)) : State :=
  if !s.linkUp h then s
  else
    let f := s.upRx h slot rx
    let place := s.upPlace h slot
    match slot with
    | some k =>
      if k + 1 ≥ s.fullSlots then s
      else (s.elapse (s.btick + 192 * (k + 1) + 10)).judgeUp h (some k) f place
    | none =>
      let s := (s.elapse (s.btick + 10)).judgeUp h none f place
      match (s.half h).prevBad with
      | some (dn, up) => (s.updHalf h fun x => { x with prevBad := none }).linkCrc h dn up
      | none => s

/-! ## Slots and timeouts (R213, R214, R217) -/

/-- A full slot ends at the field die: the count of slots without a valid frame advances unless one arrived (R214), and the table
is checked (R213). The die does not count after a night handover (R215). -/
def State.dieSlotEnd (s : State) (h : HalfIx) : State :=
  let x := s.half h
  if x.inReset then s
  else
    let s := if x.dnGot then s.updHalf h fun x => { x with dnGot := false }
      else if x.dormant then s
      else s.updHalf h fun x => { x with dnMiss := x.dnMiss + 1, dnRun := 0 }
    s.tableCheck h none

/-- A full slot ends at the logic die: its count advances unless a valid frame arrived (R217). It counts from the end of the
first link training on: before it no frame is due (R202; DEDUCED, log entry 16). -/
def State.logicSlotEnd (s : State) (h : HalfIx) : State :=
  let x := s.half h
  if x.upGot then s.updHalf h fun x => { x with upGot := false }
  else s.whenB x.counting fun s => s.addF (F.BD_STATUS_UP_MISS h.val) 1

/-- A full slot ends on both sides. -/
def State.fullSlotEnd (s : State) (h : HalfIx) : State := (s.dieSlotEnd h).logicSlotEnd h

/-- The timeout in force, in frames (R214). -/
def State.timeout (s : State) (h : HalfIx) : Nat := s.fld (F.BD_CFG_TIMEOUT h.val)

/-- The timeout the field die holds in its table (R213, R214). -/
def State.dieTimeout (s : State) (h : HalfIx) : Nat := ((s.half h).table.getD 9 0x40#32).toNat

/-- A Barn Door timeout is in force in a half: its die has timed out and has not received 8 consecutive valid frames since,
or the count of the logic die reached TIMEOUT and no valid uplink frame has come since (R214, R217). A half with 8 frames
waits only for ARMED, which R215 asks for before it leaves its safe state (R343; DEDUCED, log entry 17). -/
def State.linkTimedOut (s : State) (h : HalfIx) : Bool :=
  ((s.half h).timedOut && decide ((s.half h).dnRun < 8)) || (s.half h).upTimeout.isSome

/-- DOWNLINK_TIMEOUT: the field die's count reaches TIMEOUT: every channel of the half to its safe state (R214). -/
def execDownlinkTimeout (h : HalfIx) (s : State) : Host.Outcome State Fault Refusal :=
  s.whenCh (decide (s.dieTimeout h ≤ (s.half h).dnMiss) && !(s.half h).timedOut && (s.half h).loaded
      && !(s.half h).dormant) fun s =>
    let s := s.fieldChange h true fun s => s.updHalf h fun x => { x with
      timedOut := true, keeper := 4, reportLoss := true }
    (chOf h).foldl (fun (s : State) c => (s.updChan c fun x => { x with safeL := true }).abortPulse c) s

/-- UPLINK_TIMEOUT: the logic die's count reaches TIMEOUT: LINK_LOSS for the uplink, SAFE to every channel of the half
(R217). -/
def State.uplinkTimeout (s : State) (h : HalfIx) : State :=
  if decide (s.timeout h ≤ s.fld (F.BD_STATUS_UP_MISS h.val)) && (s.half h).upTimeout.isNone then
    let t := s.tick
    let s := s.updHalf h fun x => { x with upTimeout := some t }
    let link := s.fld (F.BD_STATUS_LINK h.val)
    let s := (s.setF (F.BD_STATUS_LINK h.val) (if link == 1 then 1 else 3)).addF (F.BD_LOSS_TIMEOUTS h.val) 1
    s.raise (srcBD h.val) kLinkLoss (faultAddr 1 63)
  else s

/-! ## Training and reloading (R127, R188, R202, R218) -/

/-- LINK_TRAINED: training ends and the link carries frames; a die without its table, or with the configuration of before a reset,
is to be reloaded (R127, R202). A timeout in force lasts until the next valid frame (R217). -/
def execLinkTrained (h : HalfIx) (s : State) : Host.Outcome State Fault Refusal :=
  s.whenCh (s.fld (F.BD_STATUS_LINK h.val) == 1 && !(s.half h).inReset && !(s.half h).returning) fun s =>
    let x := s.half h
    let link := if x.upTimeout.isSome then 3 else if x.loaded && x.kept.isEmpty then 2 else 4
    let t := s.btick
    (s.setF (F.BD_STATUS_LINK h.val) link).updHalf h fun x => { x with counting := true, dieAt := t }

/-- FIELD_RELOAD: the logic side has reloaded configuration and table of a restarted half through the mailbox, and it is in its
safe state (R127); its sequencer restarts at entry 0 (R188). -/
def execFieldReload (h : HalfIx) (s : State) : Host.Outcome State Fault Refusal :=
  s.whenCh (s.framesRun h && (!(s.half h).loaded || !(s.half h).kept.isEmpty) && s.boot.image.isSome) fun s =>
    let s := (s.syncTableCrc h).loadDie h
    (s.restartSeq h (s.target h)).tableCheck h none

end Sys2Proof.Machine
end

