-- ==== Sys2Proof/Machine/Cvu.lean ====
section
/-!
DEFINITION. Machine/Cvu.lean: the check-value units: scans of the Granary, alive counters, session identifiers (R390-R401).
The seals of host transactions are judged in Machine/Seal.lean with these operations.
-/
namespace Sys2Proof.Machine

/-- First host address of the signal table (R293). -/
def signalBase : Nat := 0x800000

/-- A word of the Granary as a host read of this swath returns it (R293, R303, R307): the signal table, the Loft, the
General area; 0 elsewhere. -/
def State.granaryWord (s : State) (a : Nat) : Word :=
  if signalBase ≤ a && a < loftBase then
    ((s.readEntry ((a - signalBase) / 32)).words).getD ((a - signalBase) % 32 / 4) 0#32
  else if inLoft a || inGeneral a then s.readMem (a / 4 * 4)
  else 0#32

/-! ## Alive counters (R391) -/

/-- A unit becomes unsynchronised (R391, R397). -/
def State.unsync (s : State) (u : UnitIx) : State :=
  ((s.setB (F.CVU_ALIVE_SYNC u.val) false).setF (F.CVU_ALIVE_EXPECT u.val) 0).setReg (Reg.CVU_DEV_ALIVE u.val) 0#32

/-- All units. -/
def allUnits : List UnitIx := [0, 1, 2, 3]

/-- The address of a unit's faults (R401): feed in [17:14], member position or 0xFF in [13:6]. -/
def cvuAddr (feed pos : Nat) : Nat := feed * 256 + pos % 256

/-- The verdict on an alive value (R391): 0 accepted, 1 repeat, 2 skip. -/
def State.aliveVerdict (s : State) (u : UnitIx) (v : Nat) : Nat :=
  let e := s.fld (F.CVU_ALIVE_EXPECT u.val)
  if !s.flag (F.CVU_ALIVE_SYNC u.val) || v % 65536 == e then 0
  else if (v + 1) % 65536 == e then 1 else 2

/-- An accepted value synchronises the unit and fixes the next one expected. -/
def State.aliveAccept (s : State) (u : UnitIx) (v : Nat) : State :=
  (s.setB (F.CVU_ALIVE_SYNC u.val) true).setF (F.CVU_ALIVE_EXPECT u.val) ((v + 1) % 65536)

/-- A rejected value: the fault and its count; the expected value stays. -/
def State.aliveReject (s : State) (u : UnitIx) (verdict feed pos : Nat) : State :=
  if verdict == 1 then (s.addF (F.CVU_COUNTS_REPEAT u.val) 1).raise (srcCVU u.val) kAliveRepeat (cvuAddr feed pos)
  else (s.addF (F.CVU_COUNTS_SKIP u.val) 1).raise (srcCVU u.val) kAliveSkip (cvuAddr feed pos)

/-- ALIVE_CHECK: an alive value is judged (R391). -/
def State.judgeAlive (s : State) (u : UnitIx) (v feed pos : Nat) : State :=
  let k := s.aliveVerdict u v
  if k == 0 then s.aliveAccept u v else s.aliveReject u k feed pos

/-- A CRC difference of a feed (R394, R399). -/
def State.cvuCrcFault (s : State) (u : UnitIx) (feed pos : Nat) : State :=
  (s.addF (F.CVU_COUNTS_CRC u.val) 1).raise (srcCVU u.val) kCvuCrc (cvuAddr feed pos)

/-! ## Scans (R392-R395) -/

/-- Change one unit. -/
def State.updUnit (s : State) (u : UnitIx) (f : CvuUnit → CvuUnit) : State := { s with cvu := s.cvu.upd u f }

/-- Host address and length of a unit's region. -/
def State.cvuStart (s : State) (u : UnitIx) : Nat := wbits (s.reg (Reg.CVU_START u.val)) 23 0
def State.cvuLength (s : State) (u : UnitIx) : Nat := wbits (s.reg (Reg.CVU_LENGTH u.val)) 20 0
def State.cvuAliveOff (s : State) (u : UnitIx) : Nat := wbits (s.reg (Reg.CVU_ALIVE_OFF u.val)) 19 0

/-- d of R393. -/
def cvuDelay (length lNom : Nat) : Nat :=
  let per := 8375 * lNom / 10000 - 480
  max 1 ((length / 2 + per - 1) / max 1 per)

/-- Read `n` words of the region on from where the scan stands. An alive word that lies beyond the region is read with the region's last
word (DESIGN CHOICE, log entry 74). -/
def State.scanWords (s : State) (u : UnitIx) : Nat → State
  | 0 => s
  | n + 1 =>
    let x := s.cvu.get u
    if x.done ≥ s.cvuLength u then s
    else
      let w := s.granaryWord (s.cvuStart u + x.done)
      let skip := s.flag (F.CVU_CFG_CHECK u.val) && decide (x.done + 4 ≥ s.cvuLength u)
      (s.updUnit u fun x => { x with
        done := x.done + 4
        crc := if skip then x.crc else (bytesOf w).foldl crc32cByte x.crc
        last := w
        alive := if x.done == s.cvuAliveOff u / 4 * 4 then w
          else if s.cvuLength u ≤ s.cvuAliveOff u && x.done + 4 ≥ s.cvuLength u then s.granaryWord (s.cvuStart u + s.cvuAliveOff u)
          else x.alive }).scanWords u n

/-- Words a unit reads in a swath of `len` ticks (R393): one per tick at P0-P2, half at P3; a signal-table scan pauses
while the write window is open. -/
def State.scanShare (s : State) (u : UnitIx) (len : Nat) : Nat :=
  let pause := if s.cvuStart u < loftBase then s.pipe.threshEnd else 0
  let t := len - pause
  if s.slowFabric then t / 2 else t

/-- At the end of a swath every running scan has read its share (R393). -/
def State.scansAdvance (s : State) (len : Nat) : State :=
  allUnits.foldl (fun (s : State) u =>
    if (s.cvu.get u).scan.isSome then s.scanWords u (min (s.scanShare u len) (s.cvuLength u / 4)) else s) s

/-- A running scan is abandoned: nothing published, no alive value judged (R395). -/
def State.scanAbandon (s : State) (u : UnitIx) : State :=
  (s.updUnit u fun x => { x with scan := none }).setB (F.CVU_ALIVE_SCANNING u.val) false

/-- CVU_SCAN_START: on a boundary, by the period or by a waiting key (R393, R395). -/
def execCvuScanStart (u : UnitIx) (s : State) : Host.Outcome State Fault Refusal :=
  .next <|
    let x := s.cvu.get u
    let per := s.fld (F.CVU_TIMING_PERIOD u.val)
    let due := if per == 0 then (match x.key with | some n => decide (n < s.swath) | none => false) else s.ruleSwath % per == 0
    if s.fld (F.CVU_CFG_MODE u.val) != 1 || x.scan.isSome || !due || s.tick != s.btick then s
    else
      let n := s.swath
      (s.updUnit u fun x => { x with
        scan := some n, done := 0, crc := 0xFFFFFFFF#32, key := none, last := 0#32, alive := 0#32 }).setB
          (F.CVU_ALIVE_SCANNING u.val) true

/-- CVU_SCAN_PUBLISH: at B(s + d) the CRC is published and checked, and the alive value judged (R393, R394). -/
def execCvuScanPublish (u : UnitIx) (s : State) : Host.Outcome State Fault Refusal :=
  .next <| match (s.cvu.get u).scan with
    | none => s
    | some n =>
      if s.swath < n + s.fld (F.CVU_TIMING_D u.val) || s.tick != s.btick then s
      else
        let s := (s.scanWords u (s.cvuLength u / 4)).scanAbandon u
        let x := s.cvu.get u
        let crc := x.crc ^^^ 0xFFFFFFFF#32
        let s := s.setReg (Reg.CVU_RESULT u.val) crc
        let s := if s.flag (F.CVU_CFG_CHECK u.val) && crc != x.last then s.cvuCrcFault u 1 0xFF else s
        if s.flag (F.CVU_CFG_ALIVE_EN u.val) then
          s.judgeAlive u (x.alive.toNat % 65536) 1 0xFF
        else s

/-- Key 0x5C in CVU_CTRL: a scan starts at the first boundary; with PERIOD not 0 it is dropped; while a scan runs or
waits it counts as lost; it counts as an unstamped write (R395). -/
def State.scanKey (s : State) (u : UnitIx) : State :=
  if s.fld (F.CVU_CFG_MODE u.val) != 1 || s.fld (F.CVU_TIMING_PERIOD u.val) != 0 then s
  else
    let s := s.unstamped
    if (s.cvu.get u).scan.isSome || (s.cvu.get u).key.isSome then s.addF (F.CVU_COUNTS_TRIG_LOST u.val) 1
    else
      let n := s.swath
      s.updUnit u fun x => { x with key := some n }

/-- CVU_SCAN_KEY. -/
def execCvuScanKey (u : UnitIx) (s : State) : Host.Outcome State Fault Refusal := s.hostKey fun s => s.scanKey u

/-! ## Session identifier (R398) -/

/-- The MODE 2 unit. -/
def State.hostUnit (s : State) : Option UnitIx := allUnits.find? fun u => s.fld (F.CVU_CFG_MODE u.val) == 2

/-- A write of CVU_SESSION of the MODE 2 unit by a sealed WRITE; dropped otherwise (R398). -/
def State.sessionWrite (s : State) (u : UnitIx) (id : Word) (isSealed : Bool) : State :=
  if isSealed && s.fld (F.CVU_CFG_MODE u.val) == 2 then (s.setReg (Reg.CVU_SESSION u.val) id).unsync u else s

/-- CVU_SESSION_WRITE. -/
def execCvuSessionWrite (u : UnitIx) (id : Word) (isSealed : Bool) (s : State) : Host.Outcome State Fault Refusal :=
  s.hostKey fun s => s.sessionWrite u id isSealed

end Sys2Proof.Machine
end

