-- ==== Sys2Proof/Machine/Gleaner.lean ====
section
/-!
DEFINITION. Machine/Gleaner.lean: chain segments of a head: bales, scans, landings and folds (R402-R430), and the bale
layout a member shares with it (R382).
-/
namespace Sys2Proof.Machine

/-! ## Bits and bales (R382) -/

/-- The low `n` bits of a number, most significant first. -/
def bitsOf : Nat → Nat → List Bool
  | 0, _ => []
  | n + 1, v => v.testBit n :: bitsOf n v

/-- Bits, most significant first, as a number. -/
def natOfBits (bs : List Bool) : Nat := bs.foldl (fun a b => 2 * a + b2n b) 0

/-- Words as bits. -/
def bitsOfWords (ws : List Word) : List Bool := ws.flatMap fun w => bitsOf 32 w.toNat

/-- The first `n` whole words of a string of bits. -/
def wordsOfBits : Nat → List Bool → List Word
  | 0, _ => []
  | n + 1, bs => BitVec.ofNat 32 (natOfBits (bs.take 32)) :: wordsOfBits n (bs.drop 32)

/-- CRC-32C register over bits, taken as bytes from the first bit on; a last part of fewer than 8 bits, whose bit order
the manual does not state, gives a free value. -/
def crcOverBits (c : Word) : List Bool → Word
  | b7 :: b6 :: b5 :: b4 :: b3 :: b2 :: b1 :: b0 :: rest =>
    crcOverBits (crc32cByte c (BitVec.ofNat 8 (natOfBits [b7, b6, b5, b4, b3, b2, b1, b0]))) rest
  | [] => c
  | part => Config.crcPartial c part

/-- CRC-32C of bits. -/
def crcOfBits (bs : List Bool) : Word := crcOverBits 0xFFFFFFFF#32 bs ^^^ 0xFFFFFFFF#32

/-- A string of bits cut or zero-padded to a length. -/
def fitBits (n : Nat) (bs : List Bool) : List Bool := bs.take n ++ List.replicate (n - bs.length) false

/-- A bale of `hlen` bits (R382). -/
def mkBale (hlen state cls layout seq : Nat) (payload : List Word) : List Bool :=
  let body := bitsOf 8 state ++ bitsOf 8 cls ++ bitsOf 8 layout ++ bitsOf 8 seq
    ++ fitBits (hlen - 64) (bitsOfWords payload)
  body ++ bitsOf 32 (crcOfBits body).toNat

/-- A received bale: header fields, payload bits, and whether its CRC matches. -/
structure Bale where
  state : Nat
  cls : Nat
  layout : Nat
  seq : Nat
  payload : List Bool
  crcOk : Bool
  deriving DecidableEq, Repr

/-- Take a bale apart. -/
def parseBale (hlen : Nat) (bs : List Bool) : Bale where
  state := natOfBits (bs.take 8)
  cls := natOfBits ((bs.drop 8).take 8)
  layout := natOfBits ((bs.drop 16).take 8)
  seq := natOfBits ((bs.drop 24).take 8)
  payload := (bs.drop 32).take (hlen - 64)
  crcOk := natOfBits (bs.drop (hlen - 32)) == (crcOfBits (bs.take (hlen - 32))).toNat

/-! ## Errors of the Granary (R300, R302, R322) -/

/-- Area code of a host address of the Granary (R293, R322). -/
def areaOf (a : Nat) : Nat :=
  if a < 0xC00000 then 0 else if a < 0xE00000 then 1 else if a < 0xF00000 then 2 else if a < 0xF40000 then 3
  else if a < 0xF80000 then 4 else if a < 0xFC0000 then 5 else 6

/-- Bank of a host address (R295). -/
def bankOf (a : Nat) : Nat :=
  if a < 0xC00000 then (a % 32 / 8 + (a - 0x800000) / 32) % 4 else a / 8 % 4

/-- A single-bit error is corrected and counted (R300). -/
def State.eccCorrected (s : State) (a : Nat) : State :=
  (s.addF F.GRN_ECC_CORR 1).raiseOnce srcGRN kGrnEccCorr (faultAddr (areaOf a) (bankOf a))

/-- An uncorrectable error: GRN_ECC_ADDR, and GRN_UNCORR or GRN_DATA_LOST with its count by the area (R302). -/
def State.eccUncorr (s : State) (a : Nat) : State :=
  let k := areaOf a
  let s := (s.setF F.GRN_ECC_ADDR_AREA k).setF F.GRN_ECC_ADDR_ADDR a
  if k == 0 || k == 3 || k == 5 then s.raise srcGRN kGrnUncorr (faultAddr k (bankOf a))
  else (s.addF F.GRN_ECC_UNCORR 1).raise srcGRN kGrnDataLost (faultAddr k (bankOf a))

/-! ## Segments (R406-R409) -/

/-- Change one segment. -/
def State.updSeg (s : State) (k : Fin 32) (f : Seg → Seg) : State :=
  { s with gln := { s.gln with segs := s.gln.segs.upd k f } }

/-- HLEN, N, P, PHASE and LAT_MAX in bits of a segment (R406). -/
def State.segHlen (s : State) (k : Nat) : Nat := s.fld (F.GLN_SEG_CFG_HLEN k)
def State.segN (s : State) (k : Nat) : Nat := s.fld (F.GLN_SEG_SCHED_N k)
def State.segP (s : State) (k : Nat) : Nat := s.fld (F.GLN_SEG_SCHED_PERIOD k) + 1
def State.segPhase (s : State) (k : Nat) : Nat := s.fld (F.GLN_SEG_SCHED_PHASE k)
def State.segLatMax (s : State) (k : Nat) : Nat := 8 * s.fld (F.GLN_SEG_SCHED_LAT_MAX k)
/-- Bits per clock b (R406). -/
def State.segB (s : State) (k : Nat) : Nat :=
  match s.fld (F.GLN_SEG_CFG_LANE k) with | 0 => 1 | 1 => 2 | _ => 8
/-- Retimer length R in bits (R380). -/
def State.segR (s : State) (k : Nat) : Nat := 2 * s.segB k
/-- GCLK periods of the PLL ratio: ticks of one period are `segDiv / 20` (R50: 960 MHz over 8, 16, 32 or 64). -/
def State.segDiv (s : State) (k : Nat) : Nat := 2 ^ (s.fld (F.GLN_SEG_CFG_DIV k) + 3)
/-- Ticks of `n` GCLK periods, rounded up: one period lasts 48 / f_G ticks. -/
def State.segTicks (s : State) (k n : Nat) : Nat := (n * s.segDiv k + 19) / 20

/-- T bits clocked by a scan (R408). -/
def State.scanBits (s : State) (k : Nat) : Nat := s.segN k * (s.segHlen k + s.segR k) + s.segLatMax k + 64
/-- S ticks of its slot (R408). -/
def State.scanSlot (s : State) (k : Nat) : Nat := s.segTicks k (s.scanBits k / s.segB k + 8) + 96

/-- A scan of a segment is due in a swath (R407). -/
def State.scanDue (s : State) (k n : Nat) : Bool :=
  s.flag (F.GLN_SEG_CFG_EN k) && s.ruleSwathOf n % s.segP k == s.segPhase k

/-- The segments whose scan is due in a swath, with their N. -/
def State.dueSegs (s : State) (n : Nat) : List (Nat × Nat) :=
  ((List.range 32).filter fun k => s.scanDue k n).map fun k => (k, s.segN k)

/-- Positions that the fold of a segment in swath n covers, none where it has no fold: its scan was due in the swath before, under the
schedule then in force (R31, R422). -/
def State.foldN (s : State) (k n : Nat) : Option Nat :=
  let now := if 0 < n && s.scanDue k (n - 1) then some (s.segN k) else none
  match s.gln.oldFolds with
  | some (m, due) => if m == n then (due.find? fun x => x.1 == k).map (·.2) else now
  | none => now

/-- Blocks of the fold of a segment in swath n (R422). -/
def State.foldBlocks (s : State) (k n : Nat) : Nat := ((s.foldN k n).getD 0 + 31) / 32

/-- Folds of the boundary of swath n: segments whose scan was due in the swath before (R422). -/
def State.foldsAt (s : State) (k n : Nat) : Bool := (s.foldN k n).isSome

/-- Number of the first block of a segment's fold in swath n (R422). -/
def State.firstBlock (s : State) (k n : Nat) : Nat :=
  (List.range k).foldl (fun a j => if s.foldsAt j n then a + s.foldBlocks j n else a) 0

/-- fold_end of R409. -/
def State.foldEnd (s : State) (k n : Nat) : Nat := 960 * (s.firstBlock k n + s.foldBlocks k n)

/-- Start tick of the scan of a segment in swath n (R409). -/
def State.scanStart (s : State) (k n : Nat) : Nat :=
  ((List.range (k + 1)).foldl (fun (a : Nat × Nat) j =>
    if s.scanDue j n then
      let t := if s.foldsAt j n then max a.1 (s.foldEnd j n) else a.1
      (t + s.scanSlot j, t)
    else a) (960, 960)).2

/-- The Gleaner domain is on (R429). -/
def State.glnOn (s : State) : Bool := s.pwr.mode == 0 || s.pwr.mode == 1

/-- GLN_STATUS.STATE as read: OFF while the domain is off, STOPPED in HALTED (R415, R429). -/
def State.glnState (s : State) : Nat :=
  if !s.glnOn then 3 else if s.isHalted then 2 else s.fld F.GLN_STATUS_STATE

/-- A segment-level or position address (R430): segment modulo 16 in [17:14] and position in [13:6] of the message. -/
def glnAddr (seg pos : Nat) : Nat := seg % 16 * 256 + pos % 256

/-! ## Members, descriptors and class images (R416, R425, R426) -/

/-- The member at a position. -/
def State.member (s : State) (k : Fin 32) (j : Nat) : Member := Sparse.get (fun _ => {}) (s.gln.segs.get k).members j
/-- Replace it. -/
def State.setMember (s : State) (k : Fin 32) (j : Nat) (m : Member) : State :=
  s.updSeg k fun x => { x with members := Sparse.put (fun _ => {}) x.members j m }

/-- The accepting descriptor of a class and layout: the highest LAYOUT with COMPAT_FROM ≤ v ≤ LAYOUT (R416). -/
def acceptingDesc (ds : List Desc) (cls v : Nat) : Option Desc :=
  (ds.filter fun d => d.cls == cls && decide (d.compat ≤ v) && decide (v ≤ d.layout)).foldl (fun best d =>
    match best with | some b => if b.layout < d.layout then some d else some b | none => some d) none

/-- Position word (R425). -/
def State.posWord (s : State) (k j : Nat) : Word := Sparse.get (fun _ => 0#32) s.gln.posWords (k * 256 + j)

/-- The descriptor a position accepts for a reported class and layout (R421, R425). -/
def State.descFor (s : State) (k j cls v : Nat) : Option Desc :=
  let c := wbits (s.posWord k j) 31 24
  if c != 0 && c != cls then none else acceptingDesc s.gln.descs cls v

/-- Index of the CLASSES entry delivered to a class 0x00 member at a position (R425). -/
def State.deliverEntry (s : State) (k j : Nat) : Option Nat :=
  let w := s.posWord k j
  let c := wbits w 31 24
  let v := wbits w 23 16
  if c == 0 then none
  else if v != 0 then s.gln.classes.findIdx? fun e => e.cls == c && e.layout == v
  else ((List.range s.gln.classes.length).filter fun i => ((s.gln.classes.getD i ⟨0, 0, 0, 0, 0, []⟩).cls == c)).foldl
    (fun best i => match best with
      | some b => if (s.gln.classes.getD b ⟨0, 0, 0, 0, 0, []⟩).layout
          < (s.gln.classes.getD i ⟨0, 0, 0, 0, 0, []⟩).layout then some i else some b
      | none => some i) none

/-- A word of a flash slot; flash that nothing has written is erased and reads all ones. -/
def State.flashWord (s : State) (slot i : Nat) : Word := (s.boot.slots.getD slot []).getD i 0xFFFFFFFF#32

/-- Words of a flash slot. -/
def State.flashWords (s : State) (slot first n : Nat) : List Word :=
  (List.range n).map fun i => s.flashWord slot (first + i)

/-- The digest of an image: SHA-256 of its bytes 0 to SIGNED_LEN - 1 (R329). -/
def imageDigest (ws : List Word) : List Word :=
  sha256 (bytesOfWords (ws.take ((ws.getD 2 0#32).toNat / 4)))

/-- The slot that runs (BOOT_STATUS.SLOT). -/
def State.slotRun (s : State) : Nat := s.fld F.BOOT_STATUS_SLOT

/-- CLASS_IMAGE_READ: the head reads the class image to be delivered to a position and checks its digest (R333, R426). -/
def execClassImageRead (k : Fin 32) (pos : Nat) (s : State) : Host.Outcome State Fault Refusal :=
  .next <| match s.deliverEntry k.val pos with
    | none => s
    | some i =>
      if s.gln.read.any (fun r => r.1 == i) || !s.glnOn then s
      else
        let e := s.gln.classes.getD i ⟨0, 0, 0, 0, 0, []⟩
        let ok := imageDigest (s.flashWords s.slotRun (e.offset / 4) (e.length / 4)) == e.digest
        let s := { s with gln := { s.gln with read := (i, ok) :: s.gln.read } }
        if ok then s else s.raise (srcGLN k.val) kClassDigest (glnAddr k.val pos)

/-! ## Scans (R411, R415, R417, R420) -/

/-- The delivery command for a class 0x00 member (R420, R426): ABORT after FAILED, DATA at the offset it last reported,
DONE after the last word, NOP while it verifies or while nothing can be delivered. -/
def State.deliveryWords (s : State) (k : Fin 32) (j : Nat) (m : Member) : List Word :=
  match s.deliverEntry k.val j with
  | none => [0#32]
  | some i =>
    let e := s.gln.classes.getD i ⟨0, 0, 0, 0, 0, []⟩
    let n := e.length / 4
    let word (op x : Nat) : Word := BitVec.ofNat 32 (op * 2 ^ 28 + x % 2 ^ 19)
    if !s.gln.read.contains (i, true) || m.dstate == 2 then [0#32]
    else if m.dstate == 3 then [word 3 0]
    else if m.next ≥ n then [word 2 n]
    else word 1 m.next ::
      (List.range 28).map fun x => if m.next + x < n then s.flashWord s.slotRun (e.offset / 4 + m.next + x) else 0#32

/-- The command bale of a position for a scan of swath n (R415, R417): all zero before the member has been heard, and while no
descriptor accepts it (DESIGN CHOICE, log entry 38). -/
def State.commandBale (s : State) (k : Fin 32) (j n : Nat) : List Bool :=
  let h := s.segHlen k.val
  let m := s.member k j
  if !m.heard then List.replicate h false
  else if m.cls == 0 then mkBale h 0xA0 0 m.layout 0 (s.deliveryWords k j m)
  else match s.descFor k.val j m.cls m.layout with
    | none => List.replicate h false
    | some d =>
      let vals := d.cmds.map fun i => (s.readEntry i).value
      mkBale h 0xA0 m.cls m.layout ((n + 2 + m.delta) % 256) (vals.take ((h - 64) / 32))

/-- The echo word (R411). -/
def echoWord : Nat := 0x5A3CC3A50FF09669

/-- The whole command stream of a scan (R411). -/
def State.commandStream (s : State) (k : Fin 32) (n : Nat) (first : Bool) : List Bool :=
  let r := s.segR k.val
  let h := s.segHlen k.val
  let bale (j : Nat) := if first then List.replicate h false else s.commandBale k j n
  let js := (List.range (s.segN k.val)).map fun i => s.segN k.val - i
  bitsOf 64 echoWord ++ List.replicate (r + s.segLatMax k.val) false
    ++ js.flatMap fun j => bale j ++ (if j == 1 then [] else List.replicate r false)

/-- Positions of a segment. -/
def State.positions (s : State) (k : Nat) : List Nat := (List.range (s.segN k)).map (· + 1)

/-- LOST of GLN_SEG_STATE follows the members. -/
def State.syncLost (s : State) (k : Fin 32) : State :=
  s.setF (F.GLN_SEG_STATE_LOST k.val) ((s.positions k.val).filter fun j => (s.member k j).lost).length

/-- A failed bale (R421, R424): counted; at LOST_N in a row the member is lost. `absent`: above N_f. -/
def State.failBale (s : State) (k : Fin 32) (j : Nat) (absent : Bool) : State :=
  let m := s.member k j
  let n := min 15 (m.fails + 1)
  let now := !m.lost && decide (n ≥ s.fld F.GLN_CFG_LOST_N)
  let m := { m with fails := n, lost := m.lost || now, data := none
                    state := if m.lost || now then 3 else if absent then 0 else 2 }
  let s := (s.setMember k j m).addF (F.GLN_SEG_COUNTS_FAILED k.val) 1
  if now then s.raise (srcGLN k.val) kMemberLost (glnAddr k.val j) else s

/-- A scan that is late or broken: every position counts a failed bale and folds STALE (R413, R423). -/
def State.failScan (s : State) (k : Fin 32) : State :=
  ((s.positions k.val).foldl (fun (s : State) j => s.failBale k j false) s).syncLost k

/-- SCAN_LATE (R423): its fold writes STALE for every position and suspends the swath it takes effect in. -/
def State.scanLate (s : State) (k : Fin 32) (n : Nat) : State :=
  let s := (s.addF (F.GLN_SEG_COUNTS_SCAN_LATE k.val) 1).raise (srcGLN k.val) kScanLate (glnAddr k.val 0)
  s.updSeg k fun x => { x with scan := none, land := some (n, true, true) }

/-- CHAIN_BROKEN (R413, R414): the next scan enumerates. -/
def State.chainBroken (s : State) (k : Fin 32) : State :=
  let s := (s.addF (F.GLN_SEG_COUNTS_BROKEN k.val) 1).raise (srcGLN k.val) kChainBroken (glnAddr k.val 0)
  (s.setF (F.GLN_SEG_STATE_STATE k.val) 3).updSeg k fun x => { x with enumNext := true }

/-- The Gleaner scans: a head with its domain on, in SAFE or ARMED (R415). -/
def State.scanning (s : State) : Bool :=
  s.flag F.GLN_CFG_HEAD && s.glnOn && (s.isSafe || s.isArmed)

/-- GLEANER_SCAN_START: a scan due in this swath starts at its fixed tick (R407, R409); GRDY low makes it SCAN_LATE and it
is not run (R405, R423). -/
def execGleanerScanStart (k : Fin 32) (grdy : Bool) (s : State) : Host.Outcome State Fault Refusal :=
  .next <|
    let n := s.swath
    let x := s.gln.segs.get k
    if !s.scanning || !s.scanDue k.val n || x.scan.isSome then s
    else
      let t := s.scanStart k.val n
      let s := s.elapse (s.btick + t)
      let s := if x.afresh then s.updSeg k fun y => { y with members := [], afresh := false } else s
      let s := (s.setReg (Reg.GLN_SEG_START k.val) (BitVec.ofNat 32 t)).setReg (Reg.GLN_SEG_TICKS k.val)
        (BitVec.ofNat 32 (s.scanSlot k.val))
      let s := s.setF F.GLN_STATUS_SEG k.val
      if !grdy then (s.scanLate k n).failScan k
      else
        let first := !x.started
        let enum := first || x.enumNext ||
          (s.fld F.GLN_CFG_ENUM_N != 0 && (x.count + 1) % s.fld F.GLN_CFG_ENUM_N == 0)
        let s := s.setF F.GLN_STATUS_STATE 1
        let s := if enum then s.setF (F.GLN_SEG_STATE_STATE k.val) 1 else s
        let s := s.setReg (Reg.GLN_SEG_SCANS k.val) (s.reg (Reg.GLN_SEG_SCANS k.val) + 1)
        let s := (s.pcGln 0 1).pcGln 1 (s.scanBits k.val)
        let sent := s.commandStream k n first
        let s := { s with gln := { s.gln with sent := sent } }
        s.updSeg k fun x => { x with
          scan := some n, scanEnum := enum, scanFirst := first, enumNext := false, started := true
          count := if first then 0 else x.count + 1 }

/-! ## Pads (R402, R403, R429) -/

/-- What the Gleaner drives: select, clock, segment number, and data lines GDO0-GDO3 held low or carrying the bales of a scan. -/
structure GlnPads where
  gselHigh : Bool
  gclkRuns : Bool
  gseg : Nat
  gdoLow : Bool
  deriving DecidableEq, Repr

/-- The clamp values (R429, R541). -/
def glnRest : GlnPads := { gselHigh := true, gclkRuns := false, gseg := 0, gdoLow := true }

/-- The pads: a scan under way holds GSEL_N low and runs GCLK; with the domain off they are clamped. -/
def State.glnPads (s : State) : GlnPads :=
  let busy := allCribs.any fun k => (s.gln.segs.get k).scan.isSome
  if s.glnOn then { gselHigh := !busy, gclkRuns := busy, gseg := s.fld F.GLN_STATUS_SEG, gdoLow := !busy } else glnRest

/-! ## Landing (R412-R414, R421, R424) -/

/-- Offset of the first 1 bit. -/
def firstOne (bs : List Bool) : Option Nat := bs.findIdx? (fun b => b)

/-- The echo word begins at a bit (R412). -/
def echoAt (bs : List Bool) (i : Nat) : Bool := natOfBits ((bs.drop i).take 64) == echoWord && decide (i + 64 ≤ bs.length)

/-- What an enumeration finds (R414): L and N_f, none if the chain is broken. -/
def State.enumerate (s : State) (k : Nat) (bs : List Bool) : Option (Nat × Nat) :=
  match firstOne bs with
  | none => none
  | some o =>
    if o < s.segR k || o - s.segR k > s.segLatMax k then none
    else
      let l := o - s.segR k
      match (List.range (s.segN k + 1)).find? fun j => echoAt bs (l + j * (s.segHlen k + s.segR k)) with
      | some j => some (l, j)
      | none => none

/-- The response bale of a found position (R412). -/
def State.responseBits (s : State) (k : Nat) (bs : List Bool) (l nf j : Nat) : List Bool :=
  (bs.drop (l + (nf - j) * (s.segHlen k + s.segR k) + s.segR k)).take (s.segHlen k)

/-- A Gleaner-snoop unit of a position judges a landed bale (R399); its faults wait for the fold. Verdict 3: CRC. -/
def State.snoop (s : State) (k j : Nat) (b : Bale) : State :=
  allUnits.foldl (fun (s : State) u =>
    if s.fld (F.CVU_CFG_MODE u.val) == 3 && s.fld (F.CVU_CFG_SEG u.val) == k && s.fld (F.CVU_CFG_POS u.val) == j then
      if !b.crcOk then s.updUnit u fun x => { x with faults := x.faults ++ [(3, j)] }
      else if !s.flag (F.CVU_CFG_ALIVE_EN u.val) then s
      else
        let v := natOfBits ((b.payload.drop (s.cvuAliveOff u)).take 16)
        let r := s.aliveVerdict u v
        if r == 0 then s.aliveAccept u v else s.updUnit u fun x => { x with faults := x.faults ++ [(r, j)] }
    else s) s

/-- Snoop faults of landed scans are raised at the boundary at which the scans are folded (R399). -/
def State.snoopFaults (s : State) : State :=
  allUnits.foldl (fun (s : State) u =>
    let fs := (s.cvu.get u).faults
    let s := s.updUnit u fun x => { x with faults := [] }
    fs.foldl (fun (s : State) f => if f.1 == 3 then s.cvuCrcFault u 3 f.2 else s.aliveReject u f.1 3 f.2) s) s

/-- A Gleaner-snoop unit of a rediscovered member becomes unsynchronised (R391, R424). -/
def State.snoopUnsync (s : State) (k j : Nat) : State :=
  allUnits.foldl (fun (s : State) u =>
    if s.fld (F.CVU_CFG_MODE u.val) == 3 && s.fld (F.CVU_CFG_SEG u.val) == k && s.fld (F.CVU_CFG_POS u.val) == j
    then s.unsync u else s) s

/-- UNKNOWN_CLASS at the first such bale after a change (R421, R425). -/
def State.unknownClass (s : State) (k : Fin 32) (j : Nat) (m : Member) : State :=
  let s := s.setMember k j { m with told := some (m.cls, m.layout) }
  if m.told == some (m.cls, m.layout) then s else s.raise (srcGLN k.val) kUnknownClass (glnAddr k.val j)

/-- A class 0x00 bale: delivery state and next offset are taken; FAILED raises DELIVER_FAIL (R420, R425, R426). -/
def State.deliveryBale (s : State) (k : Fin 32) (j : Nat) (m : Member) (b : Bale) : State :=
  let w := (wordsOfBits 1 b.payload).getD 0 0#32
  let m := { m with heard := true, cls := 0, layout := b.layout, dstate := wbits w 31 28, next := wbits w 18 0, data := none }
  match s.deliverEntry k.val j with
  | none => s.unknownClass k j { m with state := 5 }
  | some i =>
    let m := { m with state := if s.gln.read.contains (i, false) then 5 else 6 }
    let s := s.setMember k j m
    if m.dstate == 3 then s.raise (srcGLN k.val) kDeliverFail (glnAddr k.val j) else s

/-- Judge the bale of a found position (R421) of a scan of swath n, which may re-admit a lost member (R424). `fold`: the
scan's data are folded. -/
def State.judgeBale (s : State) (k : Fin 32) (j : Nat) (b : Bale) (enum fold : Bool) : State :=
  let m := s.member k j
  let addr := glnAddr k.val j
  if !b.crcOk || b.state == 0xB5 then s.failBale k j false
  else if b.state == 0xE0 then
    let w := (wordsOfBits 1 b.payload).getD 0 0#32
    let m := { m with heard := true, cls := b.cls, layout := b.layout, reason := wbits w 31 24, rejected := wbits w 23 16 }
    ((s.setMember k j m).raise (srcGLN k.val) kMemberReject addr).failBale k j false
  else if b.state != 0xA0 then s.failBale k j false
  else if b.cls == 0 then s.deliveryBale k j m b
  else
    let m := { m with heard := true, cls := b.cls, layout := b.layout, data := none }
    match s.descFor k.val j b.cls b.layout with
    | none => s.unknownClass k j { m with state := 4 }
    | some d =>
      let nq := (d.vals + 1) / 2
      let ws := wordsOfBits (d.vals + nq + 1) b.payload
      let quals := (List.range d.vals).map fun i =>
        let q := ws.getD (d.vals + i / 2) 0#32
        if i % 2 == 0 then wbits q 31 16 else wbits q 15 0
      let m := { m with status := ws.getD (d.vals + nq) 0#32, told := none }
      if m.lost && !enum then s.setMember k j { m with state := 3 }
      else
        let back := m.lost
        let r := (s.gln.segs.get k).lastRun
        let m := { m with
          lost := false, fails := 0, state := 1
          delta := if fold then (match r with | some r => (b.seq + 256 - r % 256) % 256 | none => m.delta) else m.delta
          data := if fold then some (ws.take d.vals, quals) else none }
        let s := s.setMember k j m
        if back then (s.raise (srcGLN k.val) kMemberFound addr).snoopUnsync k.val j else s

/-- Judge every position of a scan: found ones by their bale, the others fail (R414, R421). A unit that snoops checks each landed
bale (R399), after a rediscovery has made it unsynchronised (R400, R424). -/
def State.judgeScan (s : State) (k : Fin 32) (bs : List Bool) (l nf : Nat) (enum fold : Bool) : State :=
  ((s.positions k.val).foldl (fun (s : State) j =>
    if j > nf then s.failBale k j true
    else
      let b := parseBale (s.segHlen k.val) (s.responseBits k.val bs l nf j)
      (s.judgeBale k j b enum fold).snoop k.val j b) s).syncLost k

/-- The end of a scan that was run: GSEL_N rises, and the members prepare their next responses (R384, R403). -/
def State.scanDone (s : State) (k : Fin 32) (n : Nat) (fold : Bool) : State :=
  let s := (s.setF F.GLN_STATUS_STATE 0).updSeg k fun x =>
    { x with scan := none, lastRun := some n, land := some (n, false, fold) }
  s.pcGln 2 (s.segTicks k.val (s.scanBits k.val / s.segB k.val + 2))

/-- No landed data: every position folds STALE, none counts a failed bale (R302, R428). -/
def State.dropData (s : State) (k : Fin 32) : State :=
  (s.positions k.val).foldl (fun (s : State) j => s.setMember k j { s.member k j with data := none }) s

/-- An uncorrectable error in the landing buffer (R302). -/
def State.landingEcc (s : State) (k : Fin 32) (ecc : Option Nat) : State :=
  match ecc with
  | some a => (s.eccUncorr (0xE00000 + a % 0x100000)).dropData k
  | none => s

/-- An enumeration found other values than those in force, `nf` members among them (R414): CHAIN_CHANGED, and nothing is folded. The new
values apply from the next scan: in this one the positions above the N_f in force fail, and no bale is judged (DEDUCED, log entry 38). -/
def State.chainChanged (s : State) (k : Fin 32) (nf : Nat) : State :=
  let s := (s.raise (srcGLN k.val) kChainChanged (glnAddr k.val 0)).dropData k
  (((s.positions k.val).filter fun j => decide (nf < j)).foldl (fun (s : State) j => s.failBale k j true) s).syncLost k

/-- What a scan of swath n that ran has brought (R412-R415, R421, R423). -/
def State.landScan (s : State) (k : Fin 32) (n : Nat) (bs : List Bool) (strobe : Fin 3) : State :=
  let x := s.gln.segs.get k
  let l := s.fld (F.GLN_SEG_STATE_LAT k.val)
  let nf := s.fld (F.GLN_SEG_STATE_FOUND k.val)
  if strobe == 2 then
    let s := (s.scanDone k n true).scanLate k n
    let s := if s.scanBits k.val / s.segB k.val ≥ 64 then s.chainBroken k else s
    s.failScan k
  else if strobe == 1 then ((s.scanDone k n (!x.scanFirst)).chainBroken k).failScan k
  else if x.scanEnum then
    match s.enumerate k.val bs with
    | none => (((s.scanDone k n (!x.scanFirst)).setF (F.GLN_SEG_STATE_FOUND k.val) 0).chainBroken k).failScan k
    | some (l', nf') =>
      let changed := x.known && (l', nf') != (l, nf)
      let s := s.updSeg k fun x => { x with known := true }
      let s0 := ((s.setF (F.GLN_SEG_STATE_LAT k.val) l').setF (F.GLN_SEG_STATE_FOUND k.val) nf').setF
        (F.GLN_SEG_STATE_STATE k.val) 2
      if changed then (s0.chainChanged k nf).scanDone k n false
      else (s0.judgeScan k bs l' nf' true (!x.scanFirst)).scanDone k n (!x.scanFirst)
  else if !echoAt bs (l + nf * (s.segHlen k.val + s.segR k.val)) then
    ((s.scanDone k n true).chainBroken k).failScan k
  else ((s.setF (F.GLN_SEG_STATE_STATE k.val) 2).judgeScan k bs l nf false true).scanDone k n true

/-- SCAN_LANDING: the scan completes. `bs`: the GDI stream as retimed; `strobe`: 0 GSTB ran, 1 it gave no edge for 64
periods, 2 none within the slot; `ecc`: the host address of an uncorrectable error met in the landing buffer, whatever the scan
brought (R302, R428). -/
def execScanLanding (k : Fin 32) (bs : List Bool) (strobe : Fin 3) (ecc : Option Nat) (s : State) :
    Host.Outcome State Fault Refusal :=
  .next <| match (s.gln.segs.get k).scan with
    | none => s
    | some n =>
      let s := s.elapse (s.btick + (s.reg (Reg.GLN_SEG_START k.val)).toNat + s.scanSlot k.val)
      (s.landScan k n bs strobe).landingEcc k ecc

/-! ## Fold (R422) -/

/-- The run of a member: its entries in ascending index (R42). -/
def State.runOf (s : State) (k j : Nat) : List Nat :=
  s.sig.filterMap fun e => if e.2.src == srcMember k j then some e.1 else none

/-- Entries of the run that are written: the first V of the accepting descriptor, for landed data the one they landed under; all 16
while none is known. -/
def State.foldCount (s : State) (k : Fin 32) (j : Nat) : Nat :=
  let m := s.member k j
  match m.data with
  | some (vs, _) => vs.length
  | none =>
    if !m.heard then 16
    else match s.descFor k.val j m.cls m.layout with | some d => d.vals | none => 16

/-- Fold one position: pending copies with target B(k+2) (R308, R422). -/
def State.foldPosition (s : State) (k : Fin 32) (j : Nat) : State :=
  let m := s.member k j
  let t := s.swath + 1
  let run := (s.runOf k.val j).take (s.foldCount k j)
  let s := (List.range run.length).foldl (fun (s : State) i =>
    let ix := run.getD i 0
    match m.data with
    | some (vs, qs) =>
      let q := withValid ((qs.getD i 0 &&& 0x3FFE) ||| qb qMEMBER true)
      s.updEntry ix fun e => e.place ⟨vs.getD i 0#32, q, t, false, true⟩
    | none =>
      let e0 := s.readEntry ix
      s.updEntry ix fun e => e.place ⟨e0.value, withBits e0.qual (qb qSTALE true), t, false, true⟩) s
  s.setMember k j { m with data := none }

/-- FOLD_BLOCK: block `blk` of the fold of a segment, up to 32 positions; `ticks` is how long it ran (R422). -/
def execFoldBlock (k : Fin 32) (blk ticks : Nat) (s : State) : Host.Outcome State Fault Refusal :=
  .next <| match (s.gln.segs.get k).land with
    | none => s
    | some (n, _, fold) =>
      let last := (s.foldN k.val s.swath).getD 0
      if n + 1 != s.swath || last ≤ 32 * blk || !s.glnOn then s
      else
        let s := (s.elapse (s.btick + 960 * (s.firstBlock k.val s.swath + blk))).pcGln 3 (min ticks 960)
        let js := ((List.range 32).map fun i => 32 * blk + 1 + i).filter fun j => j ≤ last
        if !fold then s else js.foldl (fun (s : State) j => s.foldPosition k j) s

/-! ## Boundaries -/

/-- Every segment. -/
def allSegs : List (Fin 32) := allCribs

/-- The member entries of the segments whose fold at this boundary does not run carry STALE (R415, R429). -/
def State.unfolded (s : State) : State :=
  if !s.flag F.GLN_CFG_HEAD then s
  else
    let off := (List.range 32).filter fun k => s.foldsAt k s.swath
    { s with sig := s.sig.map fun x =>
        if x.2.cls == 4 && off.contains (x.2.src / 2 ^ 8 % 32) then (x.1, x.2.stale) else x }

/-- At B(m): a SCAN_LATE whose fold runs in this swath suspends the next one (R423, R253); while the domain is off, the
entries of a segment whose fold did not run carry STALE (R429), at the exit boundary of a wake too, whose folds are of scans that did
not run (`off`); so they do in HALTED, where the Gleaner does not scan (R415; DESIGN CHOICE, log entry 38). -/
def State.gleanerBoundary (s : State) (off : Bool) : State :=
  let m := s.swath
  let late := allSegs.any fun k => match (s.gln.segs.get k).land with
    | some (n, l, _) => l && n + 1 == m
    | none => false
  let s := if late then s.causeNext cSCANLATE else s
  let s := s.snoopFaults
  if s.glnOn && !s.isHalted && !off then s else s.unfolded

/-- The Gleaner starts afresh: at the boundary of R63, and after a wake (R415, R429): every segment begins with an
enumeration scan. -/
def State.gleanerStart (s : State) : State :=
  { s with gln := { s.gln with segs := s.gln.segs.map fun x =>
      { x with scan := none, started := false, count := 0, enumNext := true, lastRun := none, land := none } } }

end Sys2Proof.Machine
end

