-- ==== Sys2Proof/Machine/Yoke.lean ====
section
/-!
DEFINITION. Machine/Yoke.lean: two devices joined: link frames, heartbeat, the join, the per-swath block, Wide, Mirror and
Stand-in (R431-R456). The words of a handshake message and of the block header stand in the model's own order (log
entry 10).
-/
namespace Sys2Proof.Machine

/-- The Yoke runs: a Yoke mode, its domain on (R454). -/
def State.yokeOn (s : State) : Bool := s.yokeMode != 0 && s.glnOn

/-- Change the Yoke. -/
def State.updYk (s : State) (f : Yk → Yk) : State := { s with yk := f s.yk }

/-! ## Status (R433, R448) -/

/-- DRIVING of a link frame: the sender drives outputs under Stand-in rules (R432, R449). -/
def State.ykDriving (s : State) : Bool := s.yokeMode == 3 && s.flag F.YK_STATUS_ACTIVE && s.yk.driveEnd.isNone && s.isArmed

/-- READY (R448, R453): armed, no check failed since the last arming, and the link alive. -/
def State.ykReady (s : State) : Bool :=
  s.yokeMode == 3 && s.joined && s.isArmed && s.yk.checksOk && s.flag F.YK_STATUS_LINK_OK

/-- READY of YK_STATUS follows. -/
def State.syncReady (s : State) : State := s.setB F.YK_STATUS_READY s.ykReady

/-- 8 µs in ticks (R433). -/
def keeperFresh : Nat := 384

/-- Every half's last valid uplink frame is at most 8 µs old and reports keeper state ARMED (R433). -/
def State.keepersArmed (s : State) : Bool :=
  allHalves.all fun h => s.fld (F.BD_STATUS_KEEPER h.val) == 2 &&
    match (s.half h).upLast with | some t => decide (s.tick ≤ t + keeperFresh) | none => false

/-- A heartbeat is driven on YBEAT_O (R433). -/
def State.ybeat (s : State) : Bool :=
  s.yokeOn && match s.yokeMode with
    | 3 =>
      if s.flag F.YK_STATUS_ACTIVE then s.yk.driveEnd.isNone && s.fld F.SYS_STATE_ARMED_HALVES == 3 && s.keepersArmed
      else s.isArmed && s.flag F.YK_STATUS_READY && s.yk.driveEnd.isNone
    | _ => (s.isSafe || s.isArmed) && !s.fc.haltReact

/-- YBEAT_O as it stands: high through the first 96 ticks of each full slot while a heartbeat is driven (R433). -/
def State.ybeatPad (s : State) : Bool :=
  let t := s.tick - s.btick
  s.ybeat && decide (t / 192 < s.fullSlots) && decide (t % 192 < 96)

/-- YOKE_PATH with its path: 0 heartbeat, 1 link, 2 YFLT_N (R453, R456). -/
def State.yokePath (s : State) (path : Nat) : State := s.raise srcYK kYokePath (faultAddr 63 path)

/-- A sign of life of the partner (R433). -/
def State.signOfLife (s : State) : State :=
  let t := s.tick
  s.updYk fun y => { y with life := some t, yfltAt := none }

/-- 250 µs in ticks. -/
def yokeDead : Nat := 12000

/-- More than 250 µs since an instant. -/
def State.deadSince (s : State) (t : Option Nat) : Bool :=
  match t with | some t => decide (t + yokeDead ≤ s.tick) | none => true

/-- YBEAT_EDGE: a heartbeat edge; a sign of life 96 ± 8 ticks after the edge before (R433). A link that has been dead
meanwhile is a path fault (R453). -/
def execYbeatEdge (s : State) : Host.Outcome State Fault Refusal :=
  .next <|
    if !s.yokeOn then s
    else
      let t := s.tick
      let sign := match s.yk.lastEdge with | some e => decide (e + 88 ≤ t) && decide (t ≤ e + 104) | none => false
      let s := s.updYk fun y => { y with lastEdge := some t }
      if !sign then s
      else
        let s := ((s.signOfLife).setB F.YK_STATUS_BEAT_OK true).updYk fun y => { y with beatSince := some t, beatTold := false }
        if s.joined && s.flag F.YK_STATUS_LINK_OK && s.deadSince s.yk.lastFrame then
          ((s.setB F.YK_STATUS_LINK_OK false).syncReady).yokePath 1
        else s

/-! ## Unjoining and refusals (R437, R446) -/

/-- The pair is unjoined, in a state of YK_STATUS. The loop of a follower stays DISABLED until SRC or POL changes, a new image or a
wake: the spec does not say what starts it (DESIGN CHOICE, log entry 28). -/
def State.unjoin (s : State) (state : Nat) : State :=
  (s.setF F.YK_STATUS_STATE state).updYk fun y => { y with
    helloAt := none, hello := none, confirmed := false, sentConfirm := false, refused := none, echoAt := none, echoIn := none
    base := none, aligning := false, alignEnd := none, block := none
    slot0Bad := 0, alignBad := 0, recfg := none, rx := [], rxBad := 0, inDisc := [], outDisc := 0, rbDisc := [], forward := [], apply := [] }

/-- Entries 16-31 are those of the partner, or unallocated while the device is Solo (R41, R45). -/
def State.setPartner (s : State) (on : Bool) : State :=
  let n := s.swath32
  (List.range 16).foldl (fun (s : State) i => s.setEntry (16 + i) (if on then allocEntry (srcPartner i) n else {})) s

/-- A join is refused (R437): the device is Solo, its Yoke pads idle (R35) once its CONFIRM frames have told the reason; a device that has
taken a Device-safe reaction holds YFLT_N until it is reset (R446). -/
def State.refuseJoin (s : State) (reason : Nat) : State :=
  let n := s.swath
  let s := (((s.unjoin 5).setPartner false).setF F.YK_STATUS_REASON reason).setB F.YK_STATUS_CLAIM true
  let s := s.updYk fun y => { y with refused := some (reason, n), held := true }
  let s : State := { s with env := { s.env with yfltOut := s.env.yfltOut && s.fc.haltReact } }
  s.raise srcYK kYokeMismatch (faultAddr 63 reason)

/-- The partner is lost (R446). -/
def State.yokeLost (s : State) (kind : Nat) : State :=
  ((s.unjoin 6).updYk fun y => { y with held := true }).raise srcYK kind (faultAddr 63 63)

/-! ## The join (R436-R438) -/

/-- Dark-pulse slots in use after the follower shift (R112). -/
def State.dpSlots (s : State) : Word :=
  allCh.foldl (fun (w : Word) c =>
    if s.isSwitch c && s.flag (F.CH_DIAG_DP_EN c.val) then
      let n := s.fld (F.CH_DIAG_DP_SLOT c.val)
      w ||| (1#32 <<< (if s.boot.lead then n else (n + 16) % 32))
    else w) 0#32

/-- Digest of the set pending, zeros without one (R34, R436). -/
def State.recfgDigest (s : State) : List Word :=
  if s.recfgState == 2 then sha256 (bytesOfWords s.recfg.words) else List.replicate 8 0#32

/-- Message codes of a handshake frame (log entry 10). -/
def ykHELLO : Nat := 1
def ykALIGN : Nat := 2
def ykCONFIRM : Nat := 3
def ykRECFG : Nat := 4
def ykPOWER : Nat := 5
def ykECHO : Nat := 6

/-- The words of the HELLO this device sends (R436; order by log entry 10). -/
def State.helloWords (s : State) : List Word :=
  let (dig, lay) := match s.boot.image with
    | some i => (i.digest, wbits i.word3 23 16)
    | none => (List.replicate 8 0#32, 0)
  BitVec.ofNat 32 (ykHELLO * 2 ^ 24) :: dig ++
    [BitVec.ofNat 32 (lay * 2 ^ 24 + s.fld F.SYS_STATE_STATE * 2 ^ 16 + s.yokeMode * 2 ^ 8
        + b2n (s.flag F.YK_STATUS_ACTIVE) * 2 + b2n (!s.boot.lead)), s.reg Reg.DEV_REV]
    ++ s.recfgDigest ++ [s.dpSlots]

/-- A HELLO received. -/
def parseHello (ws : List Word) : Hello where
  digest := (ws.drop 1).take 8
  layout := wbits (ws.getD 9 0#32) 31 24
  state := wbits (ws.getD 9 0#32) 23 16
  mode := wbits (ws.getD 9 0#32) 15 8
  active := wbit (ws.getD 9 0#32) 1
  follower := wbit (ws.getD 9 0#32) 0
  rev := ws.getD 10 0#32
  recfg := (ws.drop 11).take 8
  slots := ws.getD 19 0#32

/-- The checks of R437 that a HELLO settles, in their order: the reason of the first failure, 0 for none. Alignment (0x09) and the
digests (0x0A) come after them. -/
def State.judgeHello (s : State) (p : Hello) : Nat :=
  let me := parseHello s.helloWords
  if p.follower == me.follower then 2
  else if p.mode != me.mode then 3
  else if p.layout != me.layout then 4
  else if p.digest != me.digest then 5
  else if p.slots &&& me.slots != 0#32 then 6
  else if p.state == 1 || p.state == 4 then 8
  else 0

/-- The last check of R437: the digests of the pending sets are equal, as the partner's last HELLO told its own. -/
def State.digestsEqual (s : State) : Bool :=
  match s.yk.hello with | some p => p.recfg == s.recfgDigest | none => true

/-- A join starts with HELLO (R436); REASON goes on telling the last refusal (spec/14). -/
def State.joinStart (s : State) : State :=
  let n := s.swath
  (s.unjoin 1).updYk fun y => { y with helloAt := some n }

/-- JOIN_START: at the boundary of R63 and whenever the link has trained while the devices are not joined; not after a
refusal (R436). -/
def execJoinStart (s : State) : Host.Outcome State Fault Refusal :=
  .next <|
    let st := s.fld F.YK_STATUS_STATE
    if s.yokeOn && (s.isSafe || s.isArmed) && (st == 0 || st == 6) then s.joinStart else s

/-- Key 0x4A in YK_CTRL retries a refused join (R436): the device takes the role of its image again. -/
def State.joinRetry (s : State) : State :=
  if s.imageYoke != 0 && s.glnOn && s.fld F.YK_STATUS_STATE == 5 then
    ((s.setB F.YK_STATUS_CLAIM false).joinStart).setPartner true
  else s

/-- JOIN_RETRY. -/
def execJoinRetry (s : State) : Host.Outcome State Fault Refusal := s.hostKey fun s => s.joinRetry

/-- JOIN_TIMEOUT: a join not ended within 40 swaths is refused: 0x01 while no valid frame has come, else 0x07 (R436,
R437). -/
def execJoinTimeout (s : State) : Host.Outcome State Fault Refusal :=
  .next <| match s.yk.helloAt with
    | some n =>
      let st := s.fld F.YK_STATUS_STATE
      if n + 40 ≤ s.swath && 1 ≤ st && st ≤ 3 then
        s.refuseJoin (if s.flag F.YK_STATUS_LINK_OK then 7 else 1)
      else s
    | none => s

/-- The roles at a completed join (R447): the ones found, else the lead is ACTIVE. -/
def State.joinRoles (s : State) : State :=
  if s.yokeMode != 3 then s
  else
    let other := match s.yk.hello with | some p => p.active | none => false
    if s.flag F.YK_STATUS_ACTIVE || other then s else s.setB F.YK_STATUS_ACTIVE s.boot.lead

/-- The digest a partner announces of its pending set; zeros where it holds none (R34, R436). -/
def pendingDigest (ws : List Word) : Option (List Word) := if ws.all (· == 0#32) then none else some ws

/-- JOIN_COMPLETE: the first boundary after both devices have sent CONFIRM with result 0 (R436). The image and what the follower has
shown begin anew, so that the first block brings every register that is not at its reset value (R443); the signs of life are
awaited from here on at the latest (R446). -/
def State.joinComplete (s : State) : State :=
  if s.fld F.YK_STATUS_STATE == 3 && s.yk.confirmed && s.yk.sentConfirm then
    let t := s.tick
    let s : State := { s with sr := { s.sr with partner := Tab.fill 16 {} } }
    ((s.joinRoles.setF F.YK_STATUS_STATE 4).setB F.YK_STATUS_CLAIM false).updYk fun y => { y with
      helloAt := none, held := false, driveEnd := none, releasing := false, slot0Bad := 0, alignBad := 0, rx := [], rxBad := 0
      image := [], shown := [], rcLog := [], life := some (y.life.getD t), beatSince := none, beatTold := false
      recfg := match y.hello with | some p => pendingDigest p.recfg | none => none }
  else s

/-- JOIN_ALIGN: the lead's ALIGN has arrived at a tick. The link delay is half the round trip of the echo, less the time the lead
held it (R436); the frame gives the lead's numbers, and in SAFE alone the swath under way is then cut at a lead boundary by the next
length (R438). -/
def State.joinAlign (s : State) (ws : List Word) (arrive : Nat) : State :=
  let s := match s.yk.echoAt with
    | some e => s.setReg Reg.YK_DELAY (BitVec.ofNat 32 ((arrive - e - (ws.getD 1 0#32).toNat) / 2 % 65536))
    | none => s
  let n := (ws.getD 2 0#32).toNat + 2 ^ 32 * wbits (ws.getD 3 0#32) 15 0
  let k := (ws.getD 4 0#32).toNat + 2 ^ 32 * wbits (ws.getD 5 0#32) 15 0
  let ph := (ws.getD 6 0#32).toNat
  let s := s.updYk fun y => { y with echoAt := none, base := some (n, k, ph) }
  if s.isSafe then s.updYk fun y => { y with aligning := true } else s.refuseJoin 9

/-- Length of the follower's aligning swath (R438): to the first lead boundary at least 0.5 × L_nom after this one. -/
def State.alignLength (s : State) : Option Nat :=
  if !s.yk.aligning || !s.isSafe then none
  else match s.yk.lead with
    | some (_, b, l) =>
      let need := s.btick + s.lNom / 2
      let k := if b ≥ need then 0 else (need - b + max l 1 - 1) / max l 1
      some (b + k * l - s.btick)
    | none => none

/-- CONFIRM is received (R436, R437): a refusal refuses this device as well, a joined one too, so that both stay Solo; result 0 ends the lead's ALIGN, whose last check is
that of the digests, and confirms. -/
def State.takeConfirm (s : State) (result : Nat) : State :=
  let st := s.fld F.YK_STATUS_STATE
  if result != 0 then
    if 1 ≤ st && st ≤ 4 && result ≤ 10 then s.refuseJoin result else s
  else if st == 2 && s.boot.lead && !s.digestsEqual then s.refuseJoin 10
  else if (st == 2 && s.boot.lead) || st == 3 then
    (s.setF F.YK_STATUS_STATE 3).updYk fun y => { y with confirmed := true }
  else s

/-- A handshake message is received; its frame arrived at a tick (R34, R436, R437, R454). A HELLO at a joined device says that the
partner has unjoined (R439): the pair is lost here as well (DEDUCED, log entry 82). -/
def State.handshake (s : State) (ws : List Word) (arrive : Nat) : State :=
  let st := s.fld F.YK_STATUS_STATE
  let code := wbits (ws.getD 0 0#32) 31 24
  let low := wbits (ws.getD 0 0#32) 7 0
  if code == ykHELLO && st == 1 then
    let p := parseHello ws
    let r := s.judgeHello p
    if r != 0 then s.refuseJoin r
    else (s.setF F.YK_STATUS_STATE 2).updYk fun y => { y with hello := some p }
  else if code == ykHELLO && st == 2 then s.updYk fun y => { y with hello := some (parseHello ws) }
  else if code == ykHELLO && st == 4 && !s.yk.releasing then s.yokeLost kYokeLost
  else if code == ykECHO && st == 2 && s.boot.lead then s.updYk fun y => { y with echoIn := some arrive }
  else if code == ykALIGN && st == 2 && !s.boot.lead then s.joinAlign ws arrive
  else if code == ykCONFIRM then s.takeConfirm low
  else if code == ykRECFG then s.updYk fun y => { y with recfg := pendingDigest ((ws.drop 1).take 8) }
  else if code == ykPOWER then
    s.updYk fun y => { y with power := some (low, (ws.getD 1 0#32).toNat) }
  else s

/-! ## The per-swath block (R441) -/

/-- Output command word of R206 as the output CRC covers it: what this device would send in the last full slot were it not the
disarmed stand-in, whose own commands R448 compares (DEDUCED, log entry 69). -/
def State.crcWord (s : State) (c : ChIx) : Word :=
  let t := s.btick + 192 * (s.fullSlots - 1)
  let safe := s.frameCause c t
  if safe then s.actionWord c 2 0 else s.actionWord c 1 (s.clampCmd c ((s.out.get c).at t)).1

/-- CRC over the command words of every output channel with SAFETY = 1, 0 if there are none (R441). -/
def State.outputCrc (s : State) : Word :=
  match (allCh.filter fun c => s.isOutput c && s.flag (F.CH_CFG_SAFETY c.val)).map fun c => s.crcWord c with
  | [] => 0#32
  | ws => crc32cWords ws

/-- Value and word 1 of a run of entries. -/
def State.runWords (s : State) (first count : Nat) : List Word :=
  (List.range count).flatMap fun i => let e := s.readEntry (first + i); [e.value, e.word1]

/-- Source run of an exchange-list entry (R435). -/
def listSource (w : Word) : Nat × Nat := (8 * wbits w 31 17, wbits w 7 0 + 1)
/-- Destination run of an exchange-list entry. -/
def listDest (w : Word) : Nat × Nat := (256 * wbits w 16 8, wbits w 7 0 + 1)

/-- THR_HSTAT of the halves as a read shows it: REF_READY is computed at the read (R153, R156). -/
def State.hstatWord (s : State) (h : HalfIx) : Word :=
  wput (s.reg (Reg.THR_HSTAT h.val)) 1 1 (b2n (s.refReady h s.tick))

/-- The registers of R443 as a read shows them: those the register file lists, those computed at the read, and the windows of
the pairs. -/
def State.shownRegs (s : State) : List (Nat × Word) :=
  let hstat := (allHalves.map fun h => (Reg.THR_HSTAT h.val, s.hstatWord h)).filter fun r => r.2 != regReset r.1
  (s.regs.filter fun r => isShownReg r.1 && r.1 != Reg.THR_HSTAT 0 && r.1 != Reg.THR_HSTAT 1) ++ hstat ++ (allPairs.flatMap fun p => s.pairWindows p).filter fun r => r.2 != 0#32

/-- The registers of R443 that changed since the previous block. -/
def State.changedRegs (s : State) : List (Nat × Word) :=
  let now := s.shownRegs
  let gone := s.yk.shown.filter fun r => !now.any fun x => x.1 == r.1
  (now.filter fun r => !s.yk.shown.any fun x => x.1 == r.1 && x.2 == r.2) ++ gone.map fun r => (r.1, regReset r.1)

/-- The block this device sends (R441): header (swath, word count, mode), channel image, output CRC, lists, and in Wide
the changed registers of the follower. -/
def State.blockWords (s : State) : List Word :=
  let img := (List.range 16).flatMap fun i =>
    let e := s.readEntry i
    [e.value, e.word1, e.aux.getD 0 0#32, e.aux.getD 1 0#32, e.aux.getD 2 0#32, e.aux.getD 3 0#32]
  let lists := s.yk.lists.flatMap fun w => s.runWords (listSource w).1 (listSource w).2
  let auto := s.yk.autoSend.flatMap fun r => s.runWords r.1 r.2
  let regs := if s.yokeMode == 1 && !s.boot.lead then s.changedRegs.flatMap fun r => [BitVec.ofNat 32 r.1, r.2] else []
  let body := img ++ [s.yk.outCrc] ++ lists ++ auto ++ regs
  [BitVec.ofNat 32 s.ruleSwath, BitVec.ofNat 32 (3 + body.length), BitVec.ofNat 32 s.yokeMode] ++ body

/-- The block of the swath is formed once, when its first frame needs it, from one instant of the device; a follower's registers
count as shown with it, and what they took in before belongs to it (R14, R441, R443). -/
def State.formBlock (s : State) : State :=
  if s.yk.block.isSome || !s.joined then s
  else
    let b := s.blockWords
    let n := s.ruleSwath % 2 ^ 32
    let s := s.updYk fun y => { y with block := some b }
    if s.yokeMode == 1 && !s.boot.lead then
      let shown := s.shownRegs
      let news := s.regs.filter fun x => decide (newsBase ≤ x.1)
      let s := s.updYk fun y => { y with shown := shown, rcLog := if news.isEmpty then y.rcLog else y.rcLog ++ [(n, news)] }
      { s with regs := s.regs.filter fun x => decide (x.1 < newsBase) }
    else s

/-- The block's words in the frame of a slot (R441). -/
def State.blockPart (s : State) (slot : Nat) : List Word := ((s.yk.block.getD []).drop (44 * (slot - 2))).take 44

/-- How many forwarded writes the frame of a slot has room for after its part of the block (R443). -/
def State.trafficRoom (s : State) (slot : Nat) : Nat :=
  if s.joined && 2 ≤ slot then (44 - (s.blockPart slot).length) / 2 else 0

/-- Register traffic of a frame after its part of the block: writes and RC clears the lead forwards (R443): address with bit 31
set, and bit 30 for a clear, then the value. -/
def State.trafficWords (s : State) (slot : Nat) : List Word :=
  (s.yk.forward.take (s.trafficRoom slot)).flatMap fun f => [BitVec.ofNat 32 (2 ^ 31 + b2n f.2.2 * 2 ^ 30 + f.1), f.2.1]

/-- The follower's echo goes out in slot 1 of a swath until the lead's ALIGN has come (R436; log entry 10). -/
def State.echoDue (s : State) (slot : Nat) : Bool :=
  s.fld F.YK_STATUS_STATE == 2 && !s.boot.lead && slot == 1 && s.yk.base.isNone

/-- The tick at which the lead's echo arrived that the frame of a slot answers (R436). -/
def State.echoAnswered (s : State) (slot : Nat) : Option Nat :=
  if s.fld F.YK_STATUS_STATE == 2 && s.boot.lead then
    s.yk.echoIn.filter fun e => decide (e ≤ s.btick + 192 * slot)
  else none

/-- ALIGN of the lead: how long it held the echo, its swath number, stook number and stook phase (R436, R438, R440; log entry 10). -/
def State.alignWords (s : State) (held : Nat) : List Word :=
  [BitVec.ofNat 32 (ykALIGN * 2 ^ 24), BitVec.ofNat 32 held, BitVec.ofNat 32 s.swath, BitVec.ofNat 32 (s.swath / 2 ^ 32),
    BitVec.ofNat 32 s.stook, BitVec.ofNat 32 (s.stook / 2 ^ 32), BitVec.ofNat 32 s.phase]

/-- A refused device tells its partner the reason in the CONFIRM frames of the swath and of the next (R436, R437; log entry 10). -/
def State.refusalTold (s : State) : Option Nat :=
  match s.yk.refused with | some (r, n) => if s.swath ≤ n + 1 then some r else none | none => none

/-- The handshake message of the frame of a slot (R34, R436, R454). The digest of the pending set is announced in slot 1 of each
swath: the spec gives no cadence (DESIGN CHOICE, log entry 56). `accept`: the power state this device would enter at the next
boundary but for the partner. -/
def State.handWords (s : State) (slot : Nat) (accept : Option Nat) : List Word :=
  let st := s.fld F.YK_STATUS_STATE
  if st == 1 then s.helloWords
  else if st == 2 then
    if s.echoDue slot then [BitVec.ofNat 32 (ykECHO * 2 ^ 24)]
    else match s.echoAnswered slot with
      | some e => s.alignWords (s.btick + 192 * slot - e)
      | none => s.helloWords
  else if st == 3 then [BitVec.ofNat 32 (ykCONFIRM * 2 ^ 24)]
  else if st == 5 then match s.refusalTold with
    | some r => [BitVec.ofNat 32 (ykCONFIRM * 2 ^ 24 + r)]
    | none => []
  else if slot == 1 then match accept with
    | some st => [BitVec.ofNat 32 (ykPOWER * 2 ^ 24 + st), BitVec.ofNat 32 (s.ruleSwath + 1)]
    | none => if s.joined then BitVec.ofNat 32 (ykRECFG * 2 ^ 24) :: s.recfgDigest else []
  else []

/-- The link frame this device sends in a full slot (R432). -/
def State.yokeFrame (s : State) (slot : Nat) (accept : Option Nat) : List Word :=
  let hand := s.handWords slot accept
  let stream := if s.joined && 2 ≤ slot then s.blockPart slot ++ s.trafficWords slot else []
  let type := if !hand.isEmpty then 1 else if !stream.isEmpty then 2 else 3
  let payload := hand ++ stream
  let w0 : Word := BitVec.ofNat 32 (0xBC * 2 ^ 24 + type * 2 ^ 20 + b2n s.ykDriving * 2 ^ 19
    + b2n (s.flag F.YK_STATUS_READY) * 2 ^ 18 + slot)
  let w2 : Word := if slot == 0 then BitVec.ofNat 32 (b2n s.nextIsStook * 2 ^ 31 + s.swLen) else 0#32
  let ws := [w0, BitVec.ofNat 32 s.ruleSwath, w2] ++ payload ++ List.replicate (44 - payload.length) 0#32
  ws ++ [crc32cWords ws]

/-- Link frames go out while the Yoke runs, and from a refused device until it has told the reason (R35, R432, R437). -/
def State.yokeSends (s : State) : Bool := s.yokeOn || (s.imageYoke != 0 && s.glnOn && s.refusalTold.isSome)

/-- At the end of a full slot the frame of the slot has been sent (R432): the forwarded writes it took are gone, an echo and its
answer are under way, a CONFIRM counts as sent. -/
def State.sendYoke (s : State) (slot : Nat) (accept : Option Nat) : State :=
  if s.yokeSends then
    let s := if 2 ≤ slot then s.formBlock else s
    let f := s.yokeFrame slot accept
    let gone := s.trafficRoom slot
    let t := s.btick + 192 * slot
    let echo := s.echoDue slot
    let answered := (s.echoAnswered slot).isSome
    let confirm := s.fld F.YK_STATUS_STATE == 3
    s.updYk fun y => { y with
      sent := f
      forward := y.forward.drop gone
      echoAt := if echo then some t else y.echoAt
      echoIn := if answered then none else y.echoIn
      sentConfirm := y.sentConfirm || confirm }
  else s

/-! ## Receiving a frame (R432, R439) -/

/-- A frame of 48 words valid for a slot, by the test of R204. -/
def yokeValid (slot : Nat) (ws : List Word) : Bool :=
  let w0 := ws.getD 0 0#32
  ws.length == 48 && wbits w0 31 24 == 0xBC && (1 ≤ wbits w0 23 20 && wbits w0 23 20 ≤ 3) && wbits w0 12 0 == slot
    && crc32cWords (ws.take 47) == ws.getD 47 0#32

/-- The lead's numbers of the swath its slot-0 frame names by the low 32 bits: those known before, moved on by the swaths between
(R438, R440); a stook bit says that the swath is the last of its stook (R432). -/
def State.baseAt (s : State) (n32 : Nat) (last : Bool) : Option (Nat × Nat × Nat) :=
  s.yk.base.map fun (n, k, ph) =>
    let kLen := max 1 s.kLen
    let d := (n32 + 2 ^ 32 - n % 2 ^ 32) % 2 ^ 32
    ((n + d) % 2 ^ 48, (k + (ph + d) / kLen) % 2 ^ 48, if last then kLen - 1 else (ph + d) % kLen)

/-- The lead's swath number, stook number and stook phase at a boundary of the aligned follower: those its last frames announced,
moved on by the boundaries that have passed since (R438, R440). -/
def State.leadNow (s : State) (t : Nat) : Nat × Nat × Nat :=
  match s.yk.lead, s.yk.base with
  | some (n32, b, l), some (n, k, ph) =>
    let kLen : Int := max 1 s.kLen
    let diff : Int := (n32 : Int) - (n % 2 ^ 32 : Nat)
    let d : Int := (if diff < -2 ^ 31 then diff + 2 ^ 32 else if diff ≥ 2 ^ 31 then diff - 2 ^ 32 else diff)
      + 1 + ((t + l / 2 - b) / max 1 l : Nat)
    ((((n : Int) + d) % 2 ^ 48).toNat, (((k : Int) + ((ph : Int) + d) / kLen) % 2 ^ 48).toNat, (((ph : Int) + d) % kLen).toNat)
  | _, _ => (0, 0, 0)

/-- The follower takes the length of its swath from the lead's slot-0 frame, which arrived at a tick, and keeps the lead's stook
phase (R438, R439). -/
def State.slotZero (s : State) (ws : List Word) (arrive : Nat) : State :=
  if s.boot.lead then s
  else
    let delay := (s.reg Reg.YK_DELAY).toNat
    let b := arrive - delay
    let n := (ws.getD 1 0#32).toNat
    let len := wbits (ws.getD 2 0#32) 23 0
    let st := wbit (ws.getD 2 0#32) 31
    let base := s.baseAt n st
    let s := s.updYk fun y => { y with lead := some (n, b + len, len), base := base, slot0Bad := 0 }
    if !s.joined then s
    else
      let s := if st then s.setF F.TB_PHASE_STOOK_PHASE (max 1 s.kLen - 1) else s
      let err := (b : Int) - s.btick
      let bad := decide (err.natAbs > 2)
      let n := if bad then s.yk.alignBad + 1 else 0
      let s := s.updYk fun y => { y with alignBad := n }
      if n ≥ 3 then s.yokeLost kYokeAlign
      else s.setF F.TB_PHASE_LENGTH ((len : Int) + clampInt (-2) 2 err).toNat

/-- An invalid frame is discarded whole and counted; two invalid slot-0 frames in a row unjoin a follower (R432, R439). -/
def State.yokeBad (s : State) (slot : Nat) : State :=
  let s := (s.addF F.YK_COUNTS_INVALID 1).updYk fun y => { y with rxBad := y.rxBad + 1 }
  if slot == 0 && s.joined && !s.boot.lead then
    let n := s.yk.slot0Bad + 1
    let s := s.updYk fun y => { y with slot0Bad := n }
    if n ≥ 2 then s.yokeLost kYokeAlign else s
  else s

/-- A frame of a joined partner tells that its sender drives a heartbeat: in Wide and Mirror it is presumed to, under Stand-in rules it
says so, as it is DRIVING or READY (R433). An edge is then awaited from this frame on at the latest (R453). -/
def State.awaitBeat (s : State) (runs : Bool) : State :=
  let t := s.tick
  let awaited := s.joined && (s.yokeMode != 3 || runs)
  s.updYk fun y => { y with beatSince := if awaited then some (y.beatSince.getD t) else none }

/-- The heartbeat has been missing for 250 µs while the link brings frames, and nothing has told it yet (R453). -/
def State.beatMissing (s : State) : Bool :=
  s.joined && !s.yk.beatTold && s.yk.beatSince.isSome && s.deadSince s.yk.beatSince

/-- YOKE_PATH of the heartbeat (R453). -/
def State.beatLost (s : State) : State :=
  ((s.setB F.YK_STATUS_BEAT_OK false).updYk fun y => { y with beatTold := true }).yokePath 0

/-- YOKE_FRAME: a link frame is received in a slot: its 48 words, none where nothing that looks like a frame came, and the
tick at which its K28.5 arrived (R432-R439). -/
def execYokeFrame (slot : Nat) (rx : Option (List Word)) (arrive : Nat) (s : State) : Host.Outcome State Fault Refusal :=
  .next <|
    if !s.yokeOn then s
    else match rx with
      | none => s.yokeBad slot
      | some ws =>
        if !yokeValid slot ws then s.yokeBad slot
        else
          let w0 := ws.getD 0 0#32
          let t := s.tick
          let s := s.updYk fun y => { y with lastFrame := some t }
          let s := (s.setB F.YK_STATUS_LINK_OK true).setB F.YK_STATUS_PARTNER_READY (wbit w0 18)
          let s := if wbit w0 19 then s.signOfLife else s
          let s := (s.awaitBeat (wbit w0 19 || wbit w0 18))
          let s := if s.beatMissing then s.beatLost else s
          let s := if slot == 0 then s.slotZero ws arrive else s
          let payload := (ws.drop 3).take 44
          let s := match wbits w0 23 20 with
            | 1 => s.handshake payload arrive
            | 2 => if s.joined then s.updYk fun y => { y with rx := y.rx ++ [(slot, payload)] } else s
            | _ => s
          s.syncReady

/-! ## The partner block at the boundary (R442-R445, R448) -/

/-- The words received from slot 2 on, as far as no slot is missing. -/
def blockStream (rx : List (Nat × List Word)) : Nat → Nat → List Word
  | 0, _ => []
  | n + 1, slot => match rx.find? fun f => f.1 == slot with
    | some f => f.2 ++ blockStream rx n (slot + 1)
    | none => []

/-- A register of the follower as a Wide lead holds it (R443). -/
def State.partnerReg (s : State) (a : Nat) : Word := Sparse.get leadReset s.yk.image (leadAddr a)

/-- The function of the follower's channel behind an entry 16-31 of a Wide lead, as the lead's image of the follower's registers shows
it (R443). -/
def State.partnerFunc (s : State) (i : Nat) : Nat :=
  let f := F.CH_CFG_FUNC (i - 16)
  wbits (s.partnerReg f.reg) f.hi f.lo

/-- The follower's channel behind an entry 16-31 of a Wide lead is a DO or COIL (R443). -/
def State.partnerSwitch (s : State) (i : Nat) : Bool := s.partnerFunc i == fDO || s.partnerFunc i == fCOIL

/-- Openings of a follower's switch between two of its blocks: the closures that its auxiliary counts since arming, and the states at
the ends (R305, R486). A count that falls has started again at an arming. -/
def openings (old new : Nat) (was on : Bool) : Nat := ((if old ≤ new then new - old else new) + b2n was) - b2n on

/-- A partner entry takes a value and word 1 (R442): PARTNER set, source class 2; auxiliaries on a Wide lead alone
(R305). There each opening of a follower's switch is an operation of the part behind it (R486). -/
def State.writePartner (s : State) (i : Nat) (v w1 : Word) (aux : List Word) : State :=
  let q := wbits w1 15 0 ||| qb qPARTNER true
  let old := s.readEntry i
  let behind := s.yokeMode == 1 && s.boot.lead && decide (16 ≤ i) && decide (i < 32) && s.partnerSwitch i
  let opened := if behind then openings (old.aux.getD 1 0#32).toNat (aux.getD 1 0#32).toNat (wbit old.value 1) (wbit v 1) else 0
  let s := (List.range opened).foldl (fun (s : State) _ => s.partOperation i) s
  s.updEntry i fun e => { (e.write v q s.pipe.lateB s.swath32) with aux := aux }

/-- Write a run of value and word-1 pairs. -/
def State.writeRun (s : State) (first : Nat) (ws : List Word) (count : Nat) : State :=
  (List.range count).foldl (fun (s : State) i =>
    s.writePartner (first + i) (ws.getD (2 * i) 0#32) (ws.getD (2 * i + 1) 0#32) []) s

/-- Write consecutive runs of destinations. -/
def State.writeRuns (s : State) : List (Nat × Nat) → List Word → State
  | [], _ => s
  | (first, count) :: rs, ws => (s.writeRun first ws count).writeRuns rs (ws.drop (2 * count))

/-- The follower's changed registers enter the lead's image (R443). -/
def State.takeRegs (s : State) : List Word → State
  | a :: v :: ws =>
    (s.updYk fun y => { y with image := Sparse.put leadReset y.image (leadAddr (a.toNat % 2 ^ 24)) v }).takeRegs ws
  | _ => s

/-- A fingerprint of the follower that closed the switch without LOWV, TRUNC or LIMITED has a valid L0 (R199; log entry 86). -/
def fpClean (stat : Word) : Bool := !wbit stat 9 && !wbit stat 12 && !wbit stat 13

/-- The fingerprint of the follower's channel c is compared with the baseline that the lead's slots hold for it (R200, R486, R489); its
FP_DEV and OUT are those of the comparison. -/
def State.partnerCompare (s : State) (c : ChIx) : State :=
  let ws := fpWords s.partnerReg c.val
  let is := s.slotsFrom (16 + c.val) (s.sr.partner.get c).start
  let f := printOf ws
  let s := s.adoptPrint is f
  match s.baseOf is with
  | none => s
  | some b =>
    s.judgePrint is (16 + c.val) (ws.take 6 ++ [wput (ws.getD 6 0#32) 14 14 (b2n (f.out b)), f.dev b]) (f.dev b) (f.out b)

/-- Change what a Wide lead knows of the captures of the follower's channel c. -/
def State.updPartner (s : State) (c : ChIx) (f : PartnerFp → PartnerFp) : State :=
  { s with sr := { s.sr with partner := s.sr.partner.upd c f } }

/-- The captures of the follower's COIL c as the block of a swath shows them, `was` being its registers before (R195-R200, R443, R486):
one that has ended is passed to the slots of 16 + c, one that has begun counts from the swath before the block's, and the holding
features have come once they change, or once their time is over while the switch stays closed (log entry 86). -/
def State.partnerPrint (s : State) (was : Nat → Word) (c : ChIx) : State :=
  if s.partnerFunc (16 + c.val) != fCOIL then s
  else
    let rd := s.partnerReg
    let new (a : Nat) : Bool := rd a != was a
    let stat := rd (Reg.FP_STAT c.val)
    let on := wbit (s.readEntry (16 + c.val)).value 1
    let x := s.sr.partner.get c
    let ended := wbits stat 31 16 != wbits (was (Reg.FP_STAT c.val)) 31 16
    let now := s.btick
    let len := s.swLen
    let cfg := F.FP_CFG_HOLD_DELAY c.val
    let hold := wbits (rd cfg.reg) cfg.hi cfg.lo * 480000
    let s := s.whenB ended fun s => s.passCapture (16 + c.val) x.start (fpWords rd c.val) on
    let due := if ended && on && fpClean stat then some (x.start + hold + 5 * len) else x.due
    let formed := due.isSome && (new (Reg.FP_HOLD c.val) || new (Reg.FP_R20 c.val) || (on && due.any fun t => decide (t ≤ now)))
    let s := s.whenB formed fun s => s.partnerCompare c
    let began := new (Reg.FP_SWATH c.val)
    s.updPartner c fun y => { y with
      runs := began || (y.runs && !ended)
      start := if began then now - 2 * len else y.start
      due := if formed || !on then none else due }

/-- Forwarded writes and clears of the register traffic (R443). -/
def trafficOf : List Word → List (Nat × Word × Bool)
  | a :: v :: ws => if wbit a 31 then (a.toNat % 2 ^ 24, v, wbit a 30) :: trafficOf ws else []
  | _ => []

/-- The register traffic of the frames received, each after its part of a block of `n` words (R443). -/
def trafficIn (rx : List (Nat × List Word)) (n : Nat) : List (Nat × Word × Bool) :=
  (rx.filter fun f => decide (2 ≤ f.1)).flatMap fun f => trafficOf (f.2.drop (n - 44 * (f.1 - 2)))

/-- Count a difference in consecutive swaths. -/
def bump (xs : List (Nat × Nat)) (k : Nat) (diff : Bool) : List (Nat × Nat) :=
  let n := match xs.find? fun x => x.1 == k with | some x => x.2 | none => 0
  let rest := xs.filter fun x => x.1 != k
  if diff then (k, n + 1) :: rest else rest

/-- The count of a key. -/
def countOf (xs : List (Nat × Nat)) (k : Nat) : Nat := match xs.find? fun x => x.1 == k with | some x => x.2 | none => 0

/-- The DI safety channels whose states differ; `img` is the partner's channel image (R445). -/
def State.inDiffers (s : State) (img : List Word) (c : ChIx) : Bool :=
  wbit (s.readEntry c.val).value 0 != wbit (img.getD (6 * c.val) 0#32) 0

/-- The DI safety channels (R445). -/
def State.diSafety (s : State) : List ChIx := allCh.filter fun c => s.func c == fDI && s.flag (F.CH_CFG_SAFETY c.val)

/-- A readback against the switch state that the ACTIVE device's block reports (R448). -/
def State.backDiffers (s : State) (img : List Word) (c : ChIx) : Bool :=
  wbit (s.readEntry c.val).value 0 != wbit (img.getD (6 * c.val) 0#32) 1

/-- A compared swath that is discrepant in any check counts once (YK_COUNTS.DISC). -/
def State.countDisc (s : State) (img : List Word) (crc : Word) : State :=
  let diff := s.yk.outPrev != crc
    || (if s.yokeMode == 2 then s.diSafety.any fun c => s.inDiffers img c
      else s.standby && allCh.any fun c => s.isSwitch c && s.backDiffers img c)
  if diff then s.addF F.YK_COUNTS_DISC 1 else s

/-- MIRROR_COMPARE: the DI safety inputs (R445). `img` is the partner's channel image. -/
def State.compareIn (s : State) (img : List Word) : State :=
  s.diSafety.foldl (fun (s : State) c =>
    let diff := s.inDiffers img c
    let s := s.updYk fun y => { y with inDisc := bump y.inDisc c.val diff }
    if diff && countOf s.yk.inDisc c.val == s.fld F.YK_DISC_IN_DISC then
      s.raise srcYK kYokeDisc (faultAddr 63 c.val) else s) s

/-- The two output CRCs of one swath, that before the blocks' (R441, R445, R448). -/
def State.compareOut (s : State) (crc : Word) : State :=
  let diff := s.yk.outPrev != crc
  let n := if diff then s.yk.outDisc + 1 else 0
  let s := s.updYk fun y => { y with outDisc := n }
  if diff && n == s.fld F.YK_DISC_OUT_DISC then
    (s.updYk fun y => { y with checksOk := y.checksOk && s.yokeMode != 3 }).raise srcYK kYokeDisc (faultAddr 63 63)
  else s

/-- STANDIN_READBACK_CHECK (R448): readback against what the ACTIVE device's block reports of the same swath: its switch
state, which is the only report of a DO or COIL command the block holds (DEDUCED, log entry 69). -/
def State.readbackCheck (s : State) (img : List Word) : State :=
  if !s.standby then s
  else (allCh.filter fun c => s.isSwitch c).foldl (fun (s : State) c =>
    let diff := s.backDiffers img c
    let s := s.updYk fun y => { y with rbDisc := bump y.rbDisc c.val diff }
    if diff && countOf s.yk.rbDisc c.val == s.fld F.YK_DISC_IN_DISC then
      (s.updYk fun y => { y with checksOk := false }).raise srcYK kStandinRb (faultAddr 63 c.val) else s) s

/-- The partner entries keep their values with STALE (R46, R442); so they do while the partner is lost (DEDUCED: no block
comes, log entry 24). -/
def State.stalePartner (s : State) : State :=
  { s with sig := s.sig.map fun x =>
      if x.2.cls == 2 then (x.1, { x.2 with qual := withBits x.2.qual (qb qSTALE true) }) else x }

/-- A lost block: YOKE_CRC, and the partner entries keep their values with STALE (R442). -/
def State.blockLost (s : State) (bad : Nat) : State :=
  ((s.addF F.YK_COUNTS_BLOCKS_LOST 1).raise srcYK kYokeCrc (faultAddr 63 (sat 63 bad))).stalePartner

/-- The runs of partner entries a block fills beside the channel image (R435, R443). -/
def State.partnerRuns (s : State) : List (Nat × Nat) := s.yk.lists.map listDest ++ s.yk.autoRecv

/-- Words of a block that fill runs. -/
def runsLength (dests : List (Nat × Nat)) : Nat := dests.foldl (fun a d => a + 2 * d.2) 0

/-- The body of a partner block is compared and written (R442, R443, R445, R448). A block sent under the exchange lists in force
before a set changed them at this boundary is read by the new lists: the spec does not say which (DESIGN CHOICE, log entry 57). -/
def State.takeBlock (s : State) (body : List Word) : State :=
  let img := body.take 96
  let wideLead := s.yokeMode == 1 && s.boot.lead
  let crc := body.getD 96 0#32
  let s := if s.yokeMode == 2 then ((s.countDisc img crc).compareIn img).compareOut crc
    else if s.yokeMode == 3 then ((s.countDisc img crc).readbackCheck img).compareOut crc else s
  let s := (List.range 16).foldl (fun (s : State) i =>
    s.writePartner (16 + i) (img.getD (6 * i) 0#32) (img.getD (6 * i + 1) 0#32)
      (if wideLead then (img.drop (6 * i + 2)).take 4 else [])) s
  let dests := s.partnerRuns
  let len := runsLength dests
  let s := s.writeRuns dests ((body.drop 97).take len)
  let wrote := (16, 16) :: dests
  let s := s.updYk fun y => { y with wrote := wrote.flatMap fun d => (List.range d.2).map fun i => d.1 + i }
  let n := (s.ruleSwath + 2 ^ 32 - 1) % 2 ^ 32
  if wideLead then
    let first := s.yk.image.isEmpty
    let was := s.partnerReg
    let s := (s.updYk fun y => { y with imageOf := n }).takeRegs (body.drop (97 + len))
    if first then s else allCh.foldl (fun (s : State) c => s.partnerPrint was c) s
  else s

/-- Words of the block of a Wide lead: its header tells them, and where that is missing the runs it fills do (R441, R443). -/
def State.leadBlock (s : State) (ws : List Word) : Nat :=
  if 2 ≤ ws.length then (ws.getD 1 0#32).toNat else 3 + 97 + runsLength s.partnerRuns

/-- PARTNER_BLOCK_APPLY at B(m+1): the block of swath m is compared and written in step 3 of R22, and the register traffic that
arrived in frames of its swath is taken, whole block or not (R442-R445). -/
def State.partnerBlock (s : State) : State :=
  let rx := s.yk.rx
  let bad := s.yk.rxBad
  let s := s.updYk fun y => { y with rx := [], rxBad := 0, wrote := [] }
  if s.fld F.YK_STATUS_STATE == 6 then s.stalePartner
  else if !s.joined then s
  else
    let ws := blockStream rx s.fullSlots 2
    let n := (ws.getD 1 0#32).toNat
    let s := if s.yokeMode == 1 && !s.boot.lead then
        let k := s.leadBlock ws
        s.updYk fun y => { y with apply := trafficIn rx k } else s
    if n < 3 || ws.length < n || (ws.getD 0 0#32).toNat != (s.ruleSwath + 2 ^ 32 - 1) % 2 ^ 32 then s.blockLost bad
    else s.takeBlock ((ws.take n).drop 3)

/-- What the swath that ends leaves behind: its block has been sent, and its output CRC goes into the next one (R441). Called
before the boundary is counted. -/
def State.blockSent (s : State) : State :=
  let crc := s.outputCrc
  s.updYk fun y => { y with block := none, outPrev := y.outCrc, outCrc := crc }

/-! ## YFLT_N, loss and release (R446, R449, R450) -/

/-- YFLT_LOW: YFLT_N has been low for 8 µs (R446, R450, R453). -/
def execYfltLow (s : State) : Host.Outcome State Fault Refusal :=
  .next <|
    if !s.yokeOn || s.env.yfltOut then s
    else
      let s := s.setB F.YK_STATUS_YFLT true
      if !s.joined then s
      else if s.yokeMode != 3 then
        let s := match s.yk.life with
          | some t => if t + 384 > s.tick then s.yokePath 2 else s
          | none => s
        s.raise srcYK kYokePartnerSafe (faultAddr 63 63)
      else
        let alive := match s.yk.life with | some t => decide (t + 384 > s.tick) | none => false
        if alive then s.yokePath 2
        else
          let t := s.tick
          s.updYk fun y => { y with yfltAt := some t }

/-- SIGN_OF_LIFE_LOSS: no sign of life for 250 µs raises YOKE_LOST (R446), after YOKE_PATH where the link still brings frames
(R453); a READY stand-in releases instead (R450). -/
def execSignOfLifeLoss (s : State) : Host.Outcome State Fault Refusal :=
  .next <|
    if !s.yokeOn || !s.joined || !s.deadSince s.yk.life then s
    else
      let alive := !s.deadSince s.yk.lastFrame
      let path := alive && s.beatMissing
      let releases := (s.standby && s.flag F.YK_STATUS_READY) || s.yk.releasing
      let s := (s.setB F.YK_STATUS_BEAT_OK false).setB F.YK_STATUS_LINK_OK alive
      let s := if path then s.beatLost else s
      if releases then s else s.yokeLost kYokeLost

/-- ACTIVE_YFLT_ASSERT: the device that has ended its drive asserts YFLT_N when every half has reported a keeper state
other than ARMED, or 248 µs after its drive ended (R449). -/
def execActiveYfltAssert (s : State) : Host.Outcome State Fault Refusal :=
  .next <| match s.yk.driveEnd with
    | some t =>
      if allHalves.all (fun h => s.fld (F.BD_STATUS_KEEPER h.val) != 2) || decide (t + 11904 ≤ s.tick) then
        { s with env := { s.env with yfltOut := true } }
      else s
    | none => s

/-- The next boundary is at least 250 µs after the last sign of life, or YFLT_N has been low for 8 µs without one (R450). -/
def State.releaseDue (s : State) : Bool :=
  s.yk.yfltAt.isSome || (match s.yk.life with | some t => decide (t + yokeDead ≤ s.btick + s.swLen) | none => true)

/-- YOKE_TAKEOVER: before the last full slot of a swath a READY stand-in begins to release at the boundary that ends it:
its own commands go out from that slot on. One that is not READY does not release and raises YOKE_LOST (R450). -/
def execYokeTakeover (s : State) : Host.Outcome State Fault Refusal :=
  .next <|
    if !s.yokeOn || !s.joined || !s.standby || !s.releaseDue then s
    else if s.flag F.YK_STATUS_READY && s.fld F.FC_STATUS_PENDING == 0 then
      (s.elapse (s.btick + 192 * (s.fullSlots - 1))).updYk fun y => { y with releasing := true }
    else s.yokeLost kYokeLost

/-- At B(a) the release takes effect: YOKE_TAKEOVER, and the device is ACTIVE (R450); a Half-safe reaction of its own
meanwhile prevents it (R455). -/
def State.releaseNow (s : State) : State :=
  if !s.yk.releasing then s
  else
    let s := s.updYk fun y => { y with releasing := false, yfltAt := none }
    if s.isArmed && s.fld F.FC_STATUS_PENDING == 0 then
      let s := (s.unjoin 0).setB F.YK_STATUS_ACTIVE true
      (s.setReg Reg.YK_TAKEOVER s.swath32).raise srcYK kYokeTakeover (faultAddr 63 63)
    else s.yokeLost kYokeLost

/-- What an uplink frame tells an ACTIVE device: it ends its drive when the keeper of a half that had reported ARMED reports anything
else, but on its way into the night state (R449, R520). -/
def State.driveCheck (s : State) : State :=
  if s.yokeMode != 3 || !s.flag F.YK_STATUS_ACTIVE || s.yk.driveEnd.isSome then s
  else
    let armed (h : HalfIx) : Bool := s.fld (F.BD_STATUS_KEEPER h.val) == 2
    let before := s.yk.drove
    if allHalves.any fun h => before.contains h.val && !armed h && !(s.half h).nightTx then s.endDrive
    else
      let now := (allHalves.filter fun h => s.armed h.val && armed h).map fun h => h.val
      s.updYk fun y => { y with drove := now }

/-! ## The share test (R448) -/

/-- The swath of a release (R455): a release is due at the boundary that ends it or under way, or took effect at the boundary at which
it began (DEDUCED, log entry 70). -/
def State.releaseSwath (s : State) : Bool :=
  s.yk.releasing
    || (s.standby && s.joined && s.flag F.YK_STATUS_READY && (s.yk.yfltAt.isSome || s.deadSince s.yk.life))
    || (s.flag F.YK_STATUS_ACTIVE && !s.joined && s.reg Reg.YK_TAKEOVER == s.swath32)

/-- SHARE_TEST: in its pulse slot, while its own command and its readback are 1, the stand-in closes the switch with
ACTION DRIVE, unless a protection holds it open (R87); a test due in the swath of a release is skipped (R448, R455). -/
def execShareTest (c : ChIx) (s : State) : Host.Outcome State Fault Refusal :=
  .next <|
    if !s.isSwitch c || !s.isArmed || s.yokeMode != 3 || !s.dpSlotDue c s.ruleSwath then s
    else if s.releaseSwath then s.addF (F.CH_COUNTS_DP_SKIP c.val) 1
    else if !s.joined || s.flag F.YK_STATUS_ACTIVE then s
    else if (s.chan c).share.isSome || !wbit ((s.out.get c).at s.tick) 0 || !(s.chan c).comp then s
    else
      let t := s.tick
      let s := s.updChan c fun x => { x with share := some t, action := some 1, value := 1, peak := 0 }
      let on := s.unprotected c
      (s.updChan c fun x => { x with closed := on }).syncChan c

/-- SHARE_TEST_VERDICT: DP_WIDTH after its start the switch opens and the test is judged: passed if the switch current
exceeded 5 mA during the pulse (R448). -/
def execShareTestVerdict (c : ChIx) (s : State) : Host.Outcome State Fault Refusal :=
  .next <| match (s.chan c).share with
    | none => s
    | some t =>
      let s := s.elapse (t + s.fld (F.CH_DIAG_DP_WIDTH c.val) * 480)
      let ok := decide ((s.chan c).peak > 5)
      let s := s.endShare c
      if ok then s
      else ((s.updYk fun y => { y with checksOk := false }).syncReady).raise srcYK kStandinTest (faultAddr 63 c.val)

end Sys2Proof.Machine
end

