-- ==== Sys2Proof/Machine/Ageing.lean ====
section
/-!
DEFINITION. Machine/Ageing.lean: the models of the device's own ageing (R495): junction swings, equivalent hours of the dies,
reference drift and the signature budget, and the least-squares line they and the wear trend share.
-/
namespace Sys2Proof.Machine

/-! ## Least squares -/

/-- Least squares of y against x over points (x, y): numerator and denominator of the slope, and the sums. -/
structure Fit where
  n : Nat
  sx : Int
  sy : Int
  num : Int
  den : Int
  deriving DecidableEq, Repr

/-- The fit of points. -/
def fitOf (ps : List (Int × Int)) : Fit :=
  let n := ps.length
  let sum (f : Int × Int → Int) : Int := ps.foldl (fun a p => a + f p) 0
  let sx := sum fun p => p.1
  let sy := sum fun p => p.2
  ⟨n, sx, sy, n * sum (fun p => p.1 * p.2) - sx * sy, n * sum (fun p => p.1 * p.1) - sx * sx⟩

/-- Distance in x from a point to where the line of a fit reaches a level, rounded down; none for a flat line. The line
at x0 is (sy·den + num·(n·x0 - sx)) / (n·den). -/
def Fit.reach (f : Fit) (x0 level : Int) : Option Int :=
  if f.num == 0 || f.den == 0 || f.n == 0 then none
  else
    let here := f.sy * f.den + f.num * (f.n * x0 - f.sx)
    some ((level * f.n * f.den - here) / (f.num * f.n))

/-- Saturate a number at 32 bits. -/
def word32 (n : Nat) : Word := BitVec.ofNat 32 (sat 0xFFFFFFFF n)

/-! ## Junction swings (R495) -/

/-- Hysteresis of the swing count: 10 K in 0.01 °C. -/
def swingHyst : Int := 1000

/-- A swing of d, in 0.01 K, enters its bin. -/
def Cycling.count (x : Cycling) (d : Int) : Cycling :=
  if 6000 ≤ d then { x with n3 := x.n3 + 1 }
  else if 4000 ≤ d then { x with n2 := x.n2 + 1 }
  else if 2000 ≤ d then { x with n1 := x.n1 + 1 }
  else x

/-- A channel's junction reads t: a peak stands once the temperature has fallen 10 K below it, a valley once it has risen 10 K above
it, and the swing from the one to the other counts there (log entry 88). -/
def Cycling.read (x : Cycling) (t : Int) : Cycling :=
  match x.hi with
  | none => { x with hi := some t }
  | some p =>
    if x.falling then
      let v := min x.lo t
      if v + swingHyst ≤ t then { x.count (p - v) with falling := false, hi := some t } else { x with lo := v }
    else
      let p := max p t
      if t + swingHyst ≤ p then { x with falling := true, hi := some p, lo := t } else { x with hi := some p }

/-- Damage of a channel in 1/2^32 (R495). -/
def Cycling.damage (x : Cycling) : Nat := (x.n1 + 10 * x.n2 + 100 * x.n3) * 2 ^ 32 / 200000000

/-! ## Equivalent time of a die (R495) -/

/-- e^(n/d) in 1/2^64, for n < d: 24 terms of the series. -/
def expFrac (n d : Nat) : Nat :=
  ((List.range 24).foldl (fun (a : Nat × Nat) k => let t := a.2 * n / (d * (k + 1)); (a.1 + t, t)) (2 ^ 64, 2 ^ 64)).1

/-- e in 1/2^64. -/
def eFix : Nat := 0x2B7E151628AED2A6A

/-- e^(n/d) in 1/2^64 (log entry 88). -/
def expFix (n : Int) (d : Nat) : Nat :=
  let k := n / d
  let f := expFrac (n % d).toNat d
  if 0 ≤ k then f * eFix ^ k.toNat / 2 ^ (64 * k.toNat) else f * 2 ^ (64 * (-k).toNat) / eFix ^ (-k).toNat

/-- The acceleration of a die at t, in 0.01 °C, in 1/2^64: exp(8,123 × (1/358.15 − 1/T)) (R495); T is above 0 K. -/
def acceleration (t : Int) : Nat :=
  let k := t + 27315
  if k ≤ 0 then 0 else expFix (812300 * (k - 35815)) (35815 * k.toNat)

/-- An hour of equivalent time. -/
def dieHour : Nat := 172800000000 * 2 ^ 64

/-- Equivalent time of a die at its end of life (R495). -/
def dieLife : Nat := 225000 * dieHour

/-- Equivalent time that a length of time at t, in 0.01 °C, adds (R495). -/
def agedBy (len : Nat) (t : Int) : Nat := len * acceleration t

/-- Add to the equivalent time of die i: 0 the logic die, 1 and 2 the field dies. -/
def State.ageDie (s : State) (i n : Nat) : State :=
  { s with sr := { s.sr with dies := (List.range 3).map fun k => s.sr.dies.getD k 0 + if k == i then n else 0 } }

/-- The swath that ends adds to the equivalent time of each field die, at the temperature its internal channel shows (R192, R495). -/
def State.ageSwath (s : State) : State :=
  allHalves.foldl (fun (s : State) h =>
    s.ageDie (1 + h.val) (agedBy s.swLen (s.readEntry (32 + 8 * h.val + 2)).value.toInt)) s

/-! ## The hourly pass (R495) -/

/-- The next leaf q (R501). -/
def State.leaf (s : State) : Nat := wbits (s.reg Reg.SR_LEAF) 20 0
/-- Leaves of the device (R501). -/
def leafCount : Nat := 1048576

/-- Hours until the drift line of a half reaches ±1,000 ppm (R495): the hourly means, newest first. -/
def driftHours (ms : List Int) : Word :=
  let f := fitOf ((List.range ms.length).map fun i => (((ms.length - 1 - i : Nat) : Int), ms.getD i 0))
  let level : Int := if f.num > 0 then 1000 else -1000
  match f.reach (ms.length - 1 : Nat) level with
  | some r => if f.den ≤ 0 then 0xFFFFFFFF#32 else word32 r.toNat
  | none => 0xFFFFFFFF#32

/-- The hour of a half ends: the mean of its REF_DRIFT values joins the last 720; an hour without a value has no mean (log entry 88). -/
def Drift.hour (x : Drift) : Drift :=
  if x.n == 0 then x else { sum := 0, n := 0, means := (roundDiv x.sum x.n :: x.means).take 720 }

/-- The readings of the hour enter the models: the logic die's equivalent time, and the junction swings of the DO and COIL channels
(R495). -/
def State.takeReadings (s : State) (a : Ageing) : State :=
  let s := s.ageDie 0 (a.logic.foldl (fun n x => n + agedBy x.1 x.2) 0)
  let cycles : Tab 16 Cycling := allCh.foldl (fun (t : Tab 16 Cycling) c =>
    if s.isSwitch c then t.upd c fun x => (a.junctions.getD c.val []).foldl Cycling.read x else t) s.sr.cycles
  { s with sr := { s.sr with cycles := cycles } }

/-- The models of the device's own ageing (R495). How the time to the end of the cycling and temperature models is
extrapolated is not stated: free values, but 0 once the end is reached. -/
def State.hourlyDevice (s : State) (a : Ageing) : State :=
  let s := s.takeReadings a
  let drifts := s.sr.drifts.map Drift.hour
  let leaves := (s.sr.hourLeaves :: s.sr.leaves).take 720
  let s : State := { s with sr := { s.sr with drifts := drifts, leaves := leaves, hourLeaves := 0 } }
  let worst := allCh.foldl (fun m c => max m (s.sr.cycles.get c).damage) 0
  let die (i : Nat) : Nat := s.sr.dies.getD i 0
  let ended (i : Nat) : Bool := if i == 0 then decide (2 ^ 32 ≤ worst) else decide (dieLife ≤ die (i - 1))
  let means (h : HalfIx) : List Int := (drifts.get h).means
  let s := (List.range 4).foldl (fun (s : State) i =>
    let (w, s) := s.drawWord
    s.setReg (Reg.SR_DEV_EOL i) (if ended i then 0#32 else w)) s
  let s := (s.setReg (Reg.SR_DEV_EOL 4) (driftHours (means 0))).setReg (Reg.SR_DEV_EOL 5) (driftHours (means 1))
  let used := leaves.foldl (· + ·) 0
  let left := leafCount - s.leaf
  let budget := if used == 0 then 0xFFFFFFFF#32 else word32 (left * leaves.length / used)
  let s := s.setReg (Reg.SR_DEV_EOL 6) budget
  let low := (List.range 7).foldl (fun m i => min m (s.reg (Reg.SR_DEV_EOL i)).toNat) 0xFFFFFFFF
  let s := s.setReg Reg.SR_DEV_EOL_MIN (BitVec.ofNat 32 low)
  s.journal 0 3 0 ((List.range 3).map (fun i => word32 (die i / dieHour)) ++ [word32 worst, wInt ((means 0).getD 0 0),
    wInt ((means 1).getD 0 0), s.reg Reg.SR_DEV_EOL_MIN])

end Sys2Proof.Machine
end

