-- ==== Sys2Proof/Machine/Hss.lean ====
section
/-!
DEFINITION. Machine/Hss.lean: the device's own HSS key pair: its public key and its signatures, with LMS_SHA256_M32_H10 over
LMOTS_SHA256_N32_W4 at two levels (R329, R484, R498, R501; RFC 8554, which R327 names). Only how the private values follow from the
seed is open (log entry 6).
-/
namespace Sys2Proof.Machine

/-- A private value of 32 bytes. -/
def hssSecret (seed : List Word) (tree q k : Nat) : List Byte :=
  bytesOfWords ((List.range 8).map fun j => Config.hssPrivate seed tree q k j)

/-- The identifier I of a tree, 16 bytes. -/
def treeId (seed : List Word) (tree : Nat) : List Byte := (hssSecret seed tree 0 68).take 16

/-- The hash of an LM-OTS public key: its 67 chains run to their ends (w = 4). -/
def otsPublic (seed : List Word) (tree q : Nat) : List Byte :=
  let i := treeId seed tree
  shaBytes (i ++ bytes4 q ++ bytes2 0x8080 ++ (List.range 67).flatMap fun k => otsChain i q k 15 0 (hssSecret seed tree q k))

/-- A node of a tree by its height above the leaves and its number. -/
def lmsNode (seed : List Word) (tree : Nat) : Nat → Nat → List Byte
  | 0, r => shaBytes (treeId seed tree ++ bytes4 r ++ bytes2 0x8282 ++ otsPublic seed tree (r - 1024))
  | n + 1, r => shaBytes (treeId seed tree ++ bytes4 r ++ bytes2 0x8383 ++ lmsNode seed tree n (2 * r)
      ++ lmsNode seed tree n (2 * r + 1))

/-- The public key of a tree, 56 bytes: types 6 and 3, I and the root. -/
def lmsPublic (seed : List Word) (tree : Nat) : List Byte :=
  bytes4 6 ++ bytes4 3 ++ treeId seed tree ++ lmsNode seed tree 10 1

/-- The device's public key, 60 bytes: L = 2 and the key of the top tree (R327, R484). -/
def hssPublic (seed : List Word) : List Byte := bytes4 2 ++ lmsPublic seed 0

/-- The signature of a message with leaf q of a tree, 2,508 bytes. -/
def lmsSign (seed : List Word) (tree q : Nat) (msg : List Byte) : List Byte :=
  let i := treeId seed tree
  let c := hssSecret seed tree q 67
  let coefs := otsCoefs (shaBytes (i ++ bytes4 q ++ bytes2 0x8181 ++ c ++ msg))
  bytes4 q ++ bytes4 3 ++ c
    ++ ((List.range 67).flatMap fun k => otsChain i q k (coefs.getD k 0) 0 (hssSecret seed tree q k))
    ++ bytes4 6 ++ (List.range 10).flatMap fun h => lmsNode seed tree h (((1024 + q) / 2 ^ h) ^^^ 1)

/-- The device's signature of a message with a leaf, 5,076 bytes: leaf t of the top tree signs the key of bottom tree t, whose leaf j
signs the message (R329, R501). -/
def hssSign (seed : List Word) (leaf : Nat) (msg : List Byte) : List Byte :=
  let t := leaf / 1024
  let key := lmsPublic seed (t + 1)
  bytes4 1 ++ lmsSign seed 0 t key ++ key ++ lmsSign seed (t + 1) (leaf % 1024) msg

end Sys2Proof.Machine
end

