-- ==== Sys2Proof/Machine/Service.lean ====
section
/-!
DEFINITION. Machine/Service.lean: the Service Record: slots and the service session, wear prediction, the journal, seals,
leaves and trees, attestation, and what power loss leaves (R484-R511).
-/
namespace Sys2Proof.Machine

/-- Change the Service Record. -/
def State.updSr (s : State) (f : Sr → Sr) : State := { s with sr := f s.sr }

/-- A Service Record fault: reason or slot in [11:6] (R511). -/
def State.srFault (s : State) (kind lo : Nat) : State := s.raise srcSR kind (faultAddr 63 lo)

/-- JOURNAL_FAIL with its reason (R500, R509, R511). -/
def State.journalFail (s : State) (reason : Nat) : State :=
  let s := if reason == 1 then s.addF F.SR_COUNTS_OVERRUN 1 else s
  s.srFault kJournalFail reason

/-! ## The journal (R496-R499) -/

/-- The 16 words of a record (R497). -/
def recordOf (type subject flags seq tick swath : Nat) (payload : List Word) : List Word :=
  let ws := [BitVec.ofNat 32 (type * 2 ^ 24 + subject * 2 ^ 16 + flags), BitVec.ofNat 32 seq,
      BitVec.ofNat 32 (tick / 2 ^ 32), BitVec.ofNat 32 tick, BitVec.ofNat 32 swath]
    ++ payload.take 10 ++ List.replicate (10 - payload.length) 0#32
  ws ++ [crc32cWords ws]

/-- The newest block. -/
def State.newest (s : State) : Option JBlock := s.sr.blocks.getLast?

/-- Change the block of a sequence. -/
def State.updBlock (s : State) (seq : Nat) (f : JBlock → JBlock) : State :=
  s.updSr fun x => { x with blocks := x.blocks.map fun b => if b.seq == seq then f b else b }

/-- The block slots of the region (R496). -/
def State.jslots (s : State) : Nat := max 1 (wbits (s.reg Reg.SR_JRN_SLOTS) 15 0)

/-- The block slot used after another one: the slots are used in turn, but for those that have failed (R496, R509). -/
def State.nextSlot (s : State) (slot : Nat) : Nat :=
  match (List.range s.jslots).find? fun k => !s.sr.badSlots.contains ((slot + 1 + k) % s.jslots) with
  | some k => (slot + 1 + k) % s.jslots
  | none => (slot + 1) % s.jslots

/-- Open the next block, in the slot after the one last taken into use (R496, R498). -/
def State.openBlock (s : State) : State :=
  let first := (s.reg Reg.SR_JRN_SEQ).toNat
  match s.newest with
  | some b =>
    if !b.closed then s
    else
      let slot := s.nextSlot s.sr.lastSlot
      s.updSr fun x => { x with lastSlot := slot, blocks := x.blocks ++ [{ seq := b.seq + 1, first := first, slot := slot }] }
  | none => s.updSr fun x => { x with
      lastSlot := 0, blocks := [{ seq := (s.reg Reg.SR_JRN_SEALED).toNat + 1, first := first, slot := 0 }] }

/-- Records staged and not yet programmed. -/
def State.backlog (s : State) : Nat := s.sr.blocks.foldl (fun a b => a + (b.recs.length - b.programmed)) 0

/-- Another block still stands in the flash slot of a block. -/
def State.slotTaken (s : State) (b : JBlock) : Bool := s.sr.blocks.any fun x => x.slot == b.slot && x.seq < b.seq

/-- The block whose page is programmed next. -/
def State.pageBlock (s : State) : Option JBlock := s.sr.blocks.find? fun b => decide (b.programmed < b.recs.length)

/-- Erase the slot of a block for another one: JOURNAL_FAIL reason 1 where it has not been archived (R496, R500). -/
def State.eraseBlock (s : State) (b : JBlock) : State :=
  let s := if b.seq > (s.reg Reg.SR_JRN_ACK).toNat then s.journalFail 1 else s
  s.updSr fun x => { x with blocks := x.blocks.filter fun y => y.seq != b.seq }

/-- The blocks that stand in the slot of a later one are erased (R499: sector erases are done ahead of need). -/
def State.eraseAhead (s : State) (b : JBlock) : State :=
  (s.sr.blocks.filter fun x => x.slot == b.slot && decide (x.seq < b.seq)).foldl (fun (s : State) x => s.eraseBlock x) s

/-- Program the next page of 256 bytes, up to four records of one block (R499). Its slot has been erased by then, unless PFAIL_N lets no
erase start (R507). -/
def State.programPage (s : State) : State :=
  match s.pageBlock with
  | none => s
  | some b =>
    if s.slotTaken b && s.env.pfail then s
    else (s.eraseAhead b).updBlock b.seq fun x => { x with programmed := min x.recs.length (x.programmed / 4 * 4 + 4) }

/-- A seal that has been made is not yet in the flash (R498). -/
def JBlock.sealWaits (b : JBlock) : Bool := b.msg.isSome && !b.sealIn

/-- The oldest block whose seal is not yet in the flash. -/
def State.sealBlock (s : State) : Option JBlock := s.sr.blocks.find? JBlock.sealWaits

/-- Program the oldest seal that waits into its seal area (R498). -/
def State.programSeal (s : State) : State :=
  match s.sealBlock with
  | some b => s.updBlock b.seq fun x => { x with sealIn := true }
  | none => s

/-- Every page of the backlog is programmed, and the seals made (R508). -/
def State.programBacklog (s : State) : State :=
  let s := (List.range (s.backlog / 4 + s.sr.blocks.length + 1)).foldl (fun (s : State) _ => s.programPage) s
  (List.range s.sr.blocks.length).foldl (fun (s : State) _ => s.programSeal) s

/-- Ticks since the first record of the next page was added (R499). -/
def State.pageAge (s : State) : Nat :=
  match s.pageBlock with
  | none => 0
  | some b =>
    let r := b.recs.getD b.programmed []
    s.tick - ((r.getD 2 0#32).toNat * 2 ^ 32 + (r.getD 3 0#32).toNat)

/-- A page is due: it holds four records, or its first has been staged for 100 ms, or PFAIL_N is asserted (R499, R507). -/
def State.pageDue (s : State) : Bool :=
  match s.pageBlock with
  | none => false
  | some b => decide (b.programmed / 4 * 4 + 4 ≤ b.recs.length) || decide (4800000 ≤ s.pageAge) || s.env.pfail

/-- Pages the flash programs in 3 ms at its maximum page program time, which bound the backlog (R507). -/
def State.pageLimit (s : State) : Nat := 3000 / max 1 s.boot.pageUs

/-- Pages that the backlog of a block fills or shares. -/
def JBlock.pagesLeft (b : JBlock) : Nat :=
  if b.programmed < b.recs.length then (b.recs.length + 3) / 4 - b.programmed / 4 else 0

/-- Pages of the backlog. -/
def State.backlogPages (s : State) : Nat := s.sr.blocks.foldl (fun a b => a + b.pagesLeft) 0

/-- The backlog is kept within 256 records and what the flash programs in 3 ms (R499, R507). -/
def State.keepBacklog (s : State) : State :=
  if 256 < s.backlog || s.pageLimit < s.backlogPages then s.programPage else s

/-- Add one record to the open block; the 256th closes it (R497, R498). Without a journal region nothing is recorded (R511). -/
def State.addRecord (s : State) (subject type flags : Nat) (payload : List Word) : State :=
  if s.reg Reg.SR_JRN_SLOTS == 0#32 then s else
  let s := s.openBlock
  match s.newest with
  | none => s
  | some b =>
    let t := s.tick
    let r := recordOf type subject flags (s.reg Reg.SR_JRN_SEQ).toNat t s.swath payload
    let full := decide (b.recs.length + 1 ≥ 256)
    ((s.updBlock b.seq fun x => { x with recs := x.recs ++ [r], closed := full, closedAt := t }).setReg
      Reg.SR_JRN_SEQ (s.reg Reg.SR_JRN_SEQ + 1)).keepBacklog

/-- Insert a due record in ascending SUBJECT, then TYPE, after its equals (R497). -/
def insertDue (r : Nat × Nat × Nat × List Word) :
    List (Nat × Nat × Nat × List Word) → List (Nat × Nat × Nat × List Word)
  | [] => [r]
  | x :: xs =>
    if r.1 < x.1 || (r.1 == x.1 && r.2.1 < x.2.1) then r :: x :: xs else x :: insertDue r xs

/-- JOURNAL_RECORD: the records due at this boundary are added (R497). -/
def State.writeDue (s : State) : State :=
  let rs := s.sr.due.foldl (fun acc r => insertDue r acc) []
  let s := s.updSr fun x => { x with due := [] }
  rs.foldl (fun s r => s.addRecord r.1 r.2.1 r.2.2.1 r.2.2.2) s

/-- Swaths between hourly passes (R495). -/
def State.hourSwaths (s : State) : Nat := 172800000000 / max 1 s.lNom

/-- The hourly pass falls on this boundary and has not run (R495). -/
def State.hourDue (s : State) : Bool :=
  !s.isBoot && s.ruleSwath % max 1 s.hourSwaths == 0 && s.sr.hourAt != some s.swath

/-- The journal at a boundary: the records due, which wait for those of an hourly pass that falls on it (R497); the pages whose first
record is a second old are programmed (R499). -/
def State.journalBoundary (s : State) : State :=
  let s := if s.hourDue then s else s.writeDue
  (List.range (s.backlogPages + 1)).foldl (fun (s : State) _ => if 48000000 ≤ s.pageAge then s.programPage else s) s

/-- A flash program or erase failure in a block slot: JOURNAL_FAIL reason 2, and the writer moves to the next slot, which is then the one
last taken into use (R509). A block in work there moves with it (DESIGN CHOICE, log entry 72). -/
def State.flashFailed (s : State) (slot : Nat) : State :=
  let s := s.updSr fun x => { x with badSlots := slot :: x.badSlots }
  let moves (b : JBlock) : Bool := b.slot == slot && (decide (b.programmed < b.recs.length) || !b.done || b.sealWaits)
  let next := s.nextSlot s.sr.lastSlot
  let s := if s.sr.blocks.any moves then s.updSr fun x => { x with
      lastSlot := next, blocks := x.blocks.map fun b => if moves b then { b with slot := next } else b } else s
  s.journalFail 2

/-- PAGE_PROGRAM: a page of staged records that is due is programmed, else the oldest seal made; or the program fails (R498, R499,
R509). -/
def execPageProgram (ok : Bool) (s : State) : Host.Outcome State Fault Refusal :=
  .next (match if s.pageDue then s.pageBlock else s.sealBlock with
    | none => s
    | some b => if !ok then s.flashFailed b.slot else if s.pageDue then s.programPage else s.programSeal)

/-- The slot the journal reuses next (R496). -/
def State.eraseSlot (s : State) : Nat :=
  match s.newest with
  | some b => if s.slotTaken b then b.slot else s.nextSlot s.sr.lastSlot
  | none => 0

/-- SLOT_ERASE: the slot the journal reuses next is erased (R496, R500): one that holds a block newer than SR_JRN_ACK
is erased all the same, with JOURNAL_FAIL. No erase starts while PFAIL_N is asserted (R507). -/
def execSlotErase (ok : Bool) (s : State) : Host.Outcome State Fault Refusal :=
  .next <|
    if s.env.pfail then s
    else if !ok then s.flashFailed s.eraseSlot
    else
      let want := s.eraseSlot
      match s.sr.blocks.find? fun b => b.slot == want && (match s.newest with | some n => b.seq < n.seq | none => false) with
      | none => s
      | some b => s.eraseBlock b

/-! ## Leaves and trees (R501-R504) -/

/-- Fuses blown f. -/
def State.leafFuses (s : State) : Nat := wbits (s.reg Reg.SR_LEAF_RES) 12 0
/-- SR_STATUS.TREE follows (R503); with all leaves used the attestation bucket is empty (R504). -/
def State.syncTree (s : State) : State :=
  let ex := decide (leafCount ≤ s.leaf)
  let s := s.setB F.SR_STATUS_EXHAUSTED ex
  let s := if ex then s.setF F.SR_ATT_TOKENS_TOKENS 0 else s
  s.setF F.SR_STATUS_TREE (if s.sr.tree then (if s.sr.nextTree then 3 else 2) else if ex then 0 else 1)

/-- Nothing prevents a signature: a tree is ready, leaves remain, and PFAIL_N is not asserted (R504, R507). -/
def State.canSign (s : State) : Bool := s.sr.tree && decide (s.leaf < leafCount) && !s.env.pfail

/-- LEAF_LOW is raised when fewer than 65,536 leaves remain, and again below 4,096 (R504). -/
def State.tellLeaves (s : State) : State :=
  let left := leafCount - s.leaf
  let mark := if left < 4096 then 2 else if left < 65536 then 1 else 0
  if mark > s.sr.lowTold then (s.updSr fun x => { x with lowTold := mark }).srFault kLeafLow 63 else s

/-- Take the next leaf: a fuse is blown when it begins a block of 256 (R501); LEAF_LOW (R504); the next tree takes over
after the last leaf of this one (R503). -/
def State.takeLeaf (s : State) : State :=
  let q := s.leaf
  let s := if q == 256 * s.leafFuses then s.setReg Reg.SR_LEAF_RES (s.reg Reg.SR_LEAF_RES + 1) else s
  let s := s.setReg Reg.SR_LEAF (BitVec.ofNat 32 (q + 1))
  let s := s.updSr fun x => { x with hourLeaves := x.hourLeaves + 1 }
  let s := if (q + 1) % 1024 == 0 then
      s.updSr fun x => { x with tree := x.nextTree, nextTree := false, treeOut := !x.nextTree, deferred := false } else s
  s.tellLeaves.syncTree

/-- TREE_GENERATION: the generation of a tree completes: the one signing needs, else the next, which begins when leaf
768 of a tree is reached (R503). -/
def execTreeGeneration (s : State) : Host.Outcome State Fault Refusal :=
  .next <|
    if s.leaf ≥ leafCount || s.pwr.mode == 2 || s.pwr.mode == 4 then s
    else if !s.sr.tree then (s.updSr fun x => { x with tree := true, treeOut := false, deferred := false }).syncTree
    else if s.leaf % 1024 ≥ 768 && s.leaf / 1024 < 1023 then (s.updSr fun x => { x with nextTree := true }).syncTree
    else s

/-- Work on a tree not yet ready is discarded (R503). `all`: the trees at hand are lost as well. -/
def State.dropTrees (s : State) (all : Bool) : State :=
  if all then (s.updSr fun x => { x with tree := false, nextTree := false, treeOut := false }).syncTree else s

/-! ## Seals (R498, R504) -/

/-- c_0 of a block: SHA-256 of the previous block's seal message, or zeros (R498). -/
def State.chainStart (s : State) (b : JBlock) : List Word :=
  match s.sr.blocks.find? fun x => x.seq + 1 == b.seq with
  | some p => match p.msg with | some m => shaWords m | none => List.replicate 8 0#32
  | none => List.replicate 8 0#32

/-- The chain value of a block after its records (R498). -/
def State.chainOf (s : State) (b : JBlock) : List Word := b.recs.foldl (fun c r => shaWords (c ++ r)) (s.chainStart b)

/-- The seal message (R498). -/
def State.sealMessage (s : State) (b : JBlock) (leaf : Nat) : List Word :=
  [0x4F53524A#32, BitVec.ofNat 32 b.seq, BitVec.ofNat 32 b.first,
    BitVec.ofNat 32 (b.recs.length * 2 ^ 16 + b2n b.recovered), s.reg Reg.SR_SERIAL_HI, s.reg Reg.SR_SERIAL_LO]
    ++ s.chainOf b ++ [BitVec.ofNat 32 leaf, 0#32]

/-- The oldest closed block that waits for its seal. -/
def State.sealDue (s : State) : Option JBlock := s.sr.blocks.find? fun b => b.closed && !b.done

/-- The report in progress was due before the seal of a block: signatures are made in due order, a seal first at one tick (R504,
R510). -/
def State.reportFirst (s : State) (b : JBlock) : Bool := s.sr.nonce.isSome && decide (s.sr.nonceAt < b.closedAt)

/-- The signature of a message with a leaf, in words (R498, R501, R506). -/
def State.signature (s : State) (leaf : Nat) (msg : List Word) : List Word :=
  wordsOfBytes (hssSign s.sr.seed leaf (bytesOfWords msg))

/-- A signature that falls due while no tree is ready waits: SEAL_DEFERRED, once, where the tree is exhausted (R504). -/
def State.deferSign (s : State) : State :=
  if !s.sr.tree && s.sr.treeOut && !s.sr.deferred && !s.env.pfail && decide (s.leaf < leafCount) then
    ((s.updSr fun x => { x with deferred := true }).addF F.SR_COUNTS_DEFERRED 1).srFault kSealDeferred 63
  else s

/-- BLOCK_SEAL: the oldest closed block is sealed with the next leaf (R498), after a report that was due before it; without a tree it
waits, which is SEAL_DEFERRED when the tree is exhausted; with no leaf left it closes unsealed (R504). PAGE_PROGRAM
brings the seal into the flash. -/
def execBlockSeal (s : State) : Host.Outcome State Fault Refusal :=
  .next <| match s.sealDue with
    | none => s
    | some b =>
      if s.leaf ≥ leafCount then s.updBlock b.seq fun x => { x with done := true }
      else if !s.canSign then s.deferSign
      else if s.reportFirst b then s
      else
        let q := s.leaf
        let m := s.sealMessage b q
        let s := s.takeLeaf
        let sig := s.signature q m
        let s := s.updBlock b.seq fun x => { x with done := true, msg := some m, sign := sig }
        let s := if b.recovered then s.addF F.SR_COUNTS_RECOVERED 1 else s
        s.setReg Reg.SR_JRN_SEALED (BitVec.ofNat 32 b.seq)

/-! ## Attestation (R505, R506) -/

/-- Swaths between two tokens: 2,700 s (R505). -/
def State.tokenSwaths (s : State) : Nat := 129600000000 / max 1 s.lNom

/-- TOKEN_GAIN: ⌊129,600,000,000 / L_nom⌋ swaths after the last one the bucket gains a token, up to 32; it stays empty once the
leaves are used (R504, R505). The spec does not say from when the swaths count (DESIGN CHOICE, log entry 46). -/
def execTokenGain (s : State) : Host.Outcome State Fault Refusal :=
  .next <|
    let n := s.fld F.SR_ATT_TOKENS_TOKENS
    let m := s.swath
    if m < s.sr.tokenSwath + s.tokenSwaths then s
    else
      let s := s.updSr fun x => { x with tokenSwath := m }
      if s.leaf ≥ leafCount then s.setF F.SR_ATT_TOKENS_TOKENS 0
      else if n < 32 then s.setF F.SR_ATT_TOKENS_TOKENS (n + 1) else s

/-- May an attestation begin (R364): a token, and none in progress? -/
def State.attestFree (s : State) : Bool := s.fld F.SR_ATT_TOKENS_TOKENS != 0 && s.fld F.SR_ATT_STATUS_STATE != 1

/-- An ATTEST request is queued (R505). -/
def State.attest (s : State) (nonce : List Word) : State :=
  let s := s.setF F.SR_ATT_TOKENS_TOKENS (s.fld F.SR_ATT_TOKENS_TOKENS - 1)
  let t := s.tick
  (s.setF F.SR_ATT_STATUS_STATE 1).updSr fun x => { x with nonce := some nonce, nonceAt := t, report := [] }

/-- The 40 words of the report body (R506). -/
def State.reportBody (s : State) (nonce : List Word) (leaf : Nat) : List Word :=
  let chain := match s.newest with | some b => s.chainOf b | none => List.replicate 8 0#32
  [0x4F415452#32, 0x000100A0#32, s.reg Reg.SR_SERIAL_HI, s.reg Reg.SR_SERIAL_LO, s.reg Reg.DEV_ID, s.reg Reg.SYS_STATE,
    s.reg Reg.BOOT_IMAGE, s.reg Reg.BOOT_FUSES] ++ (List.range 8).map (fun i => s.reg (Reg.BOOT_DIGEST i)) ++ nonce.take 8
    ++ [s.reg Reg.TB_TICK_HI, s.reg Reg.TB_TICK_LO, s.swath32, s.reg Reg.SR_JRN_SEALED, s.reg Reg.SR_JRN_SEQ] ++ chain
    ++ [BitVec.ofNat 32 leaf, BitVec.ofNat 32 (leafCount - (leaf + 1)), s.reg Reg.SR_DEV_EOL_MIN]

/-- ATTEST_REPORT_READY: the report is formed, signed with the next leaf and READY, with an ATTEST record (R505); a seal
due no later goes first (R504, R510). -/
def execAttestReportReady (s : State) : Host.Outcome State Fault Refusal :=
  .next <| match s.sr.nonce with
    | none => s
    | some nonce =>
      let later := match s.sealDue with | some b => !s.reportFirst b | none => false
      if later || s.fld F.SR_ATT_STATUS_STATE != 1 then s
      else if !s.canSign then s.deferSign
      else
        let q := s.leaf
        let body := s.reportBody nonce q
        let s := s.takeLeaf
        let sig := s.signature q body
        let s := s.updSr fun x => { x with nonce := none, report := body ++ sig }
        (s.setF F.SR_ATT_STATUS_STATE 2).journal 0 9 0 (nonce.take 4 ++ [BitVec.ofNat 32 q])

/-! ## The read window (R500, R505) -/

/-- Bytes of a block slot (R496). -/
def jslotBytes : Nat := 24576

/-- The words of a block as its slot holds them: programmed records, and the seal area from 16 KiB on (R496, R498). -/
def JBlock.word (b : JBlock) (i : Nat) : Word :=
  if i < 4096 then
    (if i / 16 < b.programmed then (b.recs.getD (i / 16) []).getD (i % 16) 0#32 else 0xFFFFFFFF#32)
  else if !b.sealIn then 0xFFFFFFFF#32
  else match b.msg with
    | some m => (m ++ b.sign).getD (i - 4096) 0xFFFFFFFF#32
    | none => 0xFFFFFFFF#32

/-- A word of the journal region; what nothing holds is erased. -/
def State.journalWord (s : State) (off : Nat) : Word :=
  match s.sr.blocks.find? fun b => b.slot == off / jslotBytes && decide (0 < b.programmed) with
  | some b => b.word (off % jslotBytes / 4)
  | none => 0xFFFFFFFF#32

/-- A write of SR_WIN_SEL (spec/16): SRC 3 is dropped; any other value starts a fetch, 0 none. Bits [1:0] of an OFFSET that is no
multiple of 4 are taken as 0: the spec says only what OFFSET is (DESIGN CHOICE, log entry 55). -/
def State.writeWinSel (s : State) (v : Word) : State :=
  if wbits v 31 30 == 3 then s
  else (s.setReg Reg.SR_WIN_SEL (v &&& 0xCFFFFFFC#32)).setReg Reg.SR_WIN_STATUS 0#32

/-- SR_WIN_JOURNAL: source 1 with a byte offset. -/
def execSrWinJournal (off : BitVec 28) (s : State) : Host.Outcome State Fault Refusal :=
  s.hostKey fun s => s.writeWinSel (BitVec.ofNat 32 (2 ^ 30 + off.toNat))
/-- SR_WIN_REPORT: source 2 with a byte offset. -/
def execSrWinReport (off : BitVec 28) (s : State) : Host.Outcome State Fault Refusal :=
  s.hostKey fun s => s.writeWinSel (BitVec.ofNat 32 (2 ^ 31 + off.toNat))

/-- WINDOW_READY: the fetch completes: up to 2 KiB, beyond them the window reads 0 (R500, R505). -/
def execWindowReady (s : State) : Host.Outcome State Fault Refusal :=
  .next <|
    let src := s.fld F.SR_WIN_SEL_SRC
    let off := s.fld F.SR_WIN_SEL_OFFSET
    if src == 0 || s.flag F.SR_WIN_STATUS_READY then s
    else
      let size := if src == 1 then s.jslots * jslotBytes else 4 * s.sr.report.length
      let n := min 512 ((size - off) / 4)
      let word (i : Nat) : Word :=
        if n ≤ i then 0#32 else if src == 1 then s.journalWord (off + 4 * i) else s.sr.report.getD (off / 4 + i) 0#32
      let s' := (List.range 512).foldl (fun (t : State) i => t.setReg (Reg.SR_WIN i) (word i)) s
      (s'.setF F.SR_WIN_STATUS_BYTES (4 * n)).setB F.SR_WIN_STATUS_READY true

/-! ## The service session (R487, R488) -/

/-- SR_STATUS.SESSION, LOCKED and SLOTS follow. -/
def State.syncSr (s : State) : State :=
  ((s.setB F.SR_STATUS_SESSION s.sr.session.isSome).setB F.SR_STATUS_LOCKED s.sr.lockAt.isSome).setF F.SR_STATUS_SLOTS
    ((List.finRange 32).filter fun k => (s.sr.slots.get k).state != 0).length

/-- A session ends (R488). -/
def State.endSession (s : State) : State :=
  if s.sr.session.isNone then s
  else ((s.updSr fun x => { x with session := none }).journal 0 10 0 [2#32]).syncSr

/-- The session key K_s (R487). -/
def State.sessionKey (s : State) (x : Session) : List Byte :=
  bytesOfWords (hmac (bytesOfWords (s.boot.svcKey.getD [])) (bytesOfWords (x.challenge ++ [1#32])))

/-- The MAC of a message: the first four words of HMAC-SHA-256 under K_s (R487). -/
def State.mac (s : State) (x : Session) (ws : List Word) : List Word :=
  (hmac (s.sessionKey x) (bytesOfWords ws)).take 4

/-- Word 0 of a reply (R487). -/
def replyWord (w0 : Word) (result : Nat) : Word := (w0 &&& 0xFFFF0000#32) ||| BitVec.ofNat 32 (result * 256)

/-- A reply under a session, ending in its MAC; without a session word 0 alone. -/
def State.reply (s : State) (w0 : Word) (result : Nat) (body : List Word) : List Word :=
  let ws := replyWord w0 result :: body
  match s.sr.session with | some x => ws ++ s.mac x ws | none => ws

/-- A failed AUTH or a bad MAC (R488): SERVICE_AUTH; at the eighth the session is locked. -/
def State.authFailed (s : State) : State :=
  let n := s.sr.fails + 1
  let s := (s.updSr fun x => { x with fails := n }).addF F.SR_COUNTS_AUTH_FAIL 1
  let s := (s.srFault kServiceAuth 63).journal 0 10 0 [3#32]
  let t := s.tick
  if n ≥ 8 && s.sr.lockAt.isNone then ((s.updSr fun x => { x with lockAt := some t }).syncSr).journal 0 10 0 [4#32] else s

/-- Serial of the device. -/
def State.serial (s : State) : List Word := [s.reg Reg.SR_SERIAL_HI, s.reg Reg.SR_SERIAL_LO]

/-- OPEN (R487, R488): a challenge; a new OPEN ends the session that runs; LOCKED after eight failures. -/
def State.srOpen (s : State) (ws : List Word) : List Word × State :=
  let w0 := ws.getD 0 0#32
  if s.sr.lockAt.isSome then ([replyWord w0 4], s)
  else if ws.length != 1 then ([replyWord w0 3], s)
  else if wbits w0 23 16 != 0 then ([replyWord w0 5], s)
  else
    let s := s.endSession
    let ch := shaWords (s.sr.seed ++ [s.reg Reg.SR_JRN_SEQ, s.reg Reg.TB_TICK_HI, s.reg Reg.TB_TICK_LO,
      BitVec.ofNat 32 s.sr.opens])
    let s := s.updSr fun x => { x with session := some { challenge := ch }, opens := x.opens + 1 }
    (replyWord w0 0 :: ch ++ s.serial, (s.journal 0 10 0 [1#32]).syncSr)

/-- A message of a session (R487, R488): session and authentication, SEQ, length, then MAC; `f` is its effect and reply
body. A message other than OK has no effect but the failure count. -/
def State.srMessage (s : State) (ws : List Word) (len : Nat) (authed : Bool) (f : State → Option (List Word × State)) :
    List Word × State :=
  let w0 := ws.getD 0 0#32
  match s.sr.session with
  | none => ([replyWord w0 2], s)
  | some x =>
    if authed && !x.authed then (s.reply w0 2 [], s)
    else if wbits w0 23 16 != (x.seq + 1) % 256 then (s.reply w0 5 [], s)
    else if ws.length != len + 4 then (s.reply w0 3 [], s)
    else if s.mac x (ws.take len) != ws.drop len then (s.reply w0 1 [], s.authFailed)
    else match f s with
      | none => (s.reply w0 3 [], s)
      | some (body, s') =>
        let out := s.reply w0 0 body
        (out, s'.updSr fun y => { y with session := y.session.map fun z => { z with seq := wbits w0 23 16 } })

/-- AUTH (R487): HMAC of challenge and serial under the service authority key. -/
def State.srAuth (s : State) (ws : List Word) : List Word × State :=
  let w0 := ws.getD 0 0#32
  match s.sr.session, s.boot.svcKey with
  | some x, some k =>
    if (ws.drop 1).take 8 != hmac (bytesOfWords k) (bytesOfWords (x.challenge ++ s.serial)) then
      (s.reply w0 1 [], s.authFailed)
    else s.srMessage ws 9 false fun s =>
      some ([], s.updSr fun y => { y with session := y.session.map fun z => { z with authed := true } })
  | some _, none => (s.reply w0 1 [], s.authFailed)
  | none, _ => ([replyWord w0 2], s)

/-- A slot operation waits for the next boundary and counts as an unstamped write (R489). -/
def State.slotOp (s : State) (op : SlotOp) : State := (s.updSr fun x => { x with ops := x.ops ++ [op] }).unstamped

/-- A target that can be registered: a DO or COIL channel, the follower's on a Wide lead only, or a GDRV (R486). -/
def State.targetOk (s : State) (t : Nat) : Bool :=
  if h : t < 16 then s.isSwitch ⟨t, h⟩
  else if t < 32 then s.yokeMode == 1 && s.boot.lead && s.partnerSwitch t
  else t == 32 || t == 33

/-- REGISTER (R487, R489, R490). -/
def State.srRegister (s : State) (ws : List Word) : List Word × State :=
  s.srMessage ws 12 true fun s =>
    let g (i : Nat) : Nat := (ws.getD i 0#32).toNat
    if h : g 1 < 32 then
      if !s.targetOk (g 2) || s.sr.classes.length ≤ g 5 || sigCount ≤ g 6 then none
      else
        let base := if g 7 == 0 then some (g 8, g 9, g 10, g 11) else none
        some ([], s.slotOp (.register ⟨g 1, h⟩ (g 2) (ws.getD 3 0#32) (ws.getD 4 0#32) (g 5) (g 6) base))
    else none

/-- The slot a message names, if it is occupied. -/
def State.namedSlot (s : State) (ws : List Word) : Option (Fin 32) :=
  let n := (ws.getD 1 0#32).toNat
  if h : n < 32 then (if (s.sr.slots.get ⟨n, h⟩).state != 0 then some ⟨n, h⟩ else none) else none

/-- RETIRE: the reply holds the final n and W (R487, R489). -/
def State.srRetire (s : State) (ws : List Word) : List Word × State :=
  s.srMessage ws 2 true fun s => (s.namedSlot ws).map fun k =>
    let x := s.sr.slots.get k
    ([BitVec.ofNat 32 x.n, BitVec.ofNat 32 x.w], s.slotOp (.retire k))

/-- The registers of a slot in address order (spec/16): a free one reads 0. -/
def slotRegs (x : PartSlot) : List Word :=
  if x.state == 0 then List.replicate 7 0#32
  else [BitVec.ofNat 32 (x.state * 2 ^ 28 + x.target % 64 * 2 ^ 22 + b2n x.base.isSome * 2 ^ 21 + x.cls % 256 * 2 ^ 8),
    x.idHi, x.idLo, BitVec.ofNat 32 x.n, BitVec.ofNat 32 x.w, x.pred, x.eol]

/-- READ_SLOT (R487). -/
def State.srReadSlot (s : State) (ws : List Word) : List Word × State :=
  s.srMessage ws 2 true fun s =>
    let n := (ws.getD 1 0#32).toNat
    if h : n < 32 then some (slotRegs (s.sr.slots.get ⟨n, h⟩), s) else none

/-- ACCEPT (R487, R489). -/
def State.srAccept (s : State) (ws : List Word) : List Word × State :=
  s.srMessage ws 2 true fun s => (s.namedSlot ws).map fun k => ([], s.slotOp (.accept k))

/-- CLOSE (R488). -/
def State.srClose (s : State) (ws : List Word) : List Word × State :=
  s.srMessage ws 1 true fun s => some ([], s.endSession)

/-- Ticks of a number of seconds: 48 MHz. -/
def secTicks (n : Nat) : Nat := 48000000 * n

/-- SESSION_TIMEOUT: 60 s without a message ends the session (R488). -/
def execSessionTimeout (s : State) : Host.Outcome State Fault Refusal :=
  .next <| match s.sr.session with
    | some x => if x.last + secTicks 60 ≤ s.tick then s.endSession else s
    | none => s

/-- SERVICE_UNLOCK: after 3,600 s the lock ends and the failure count restarts at 0 (R488). -/
def execServiceUnlock (s : State) : Host.Outcome State Fault Refusal :=
  .next <| match s.sr.lockAt with
    | some t => if t + secTicks 3600 ≤ s.tick then (s.updSr fun x => { x with fails := 0, lockAt := none }).syncSr else s
    | none => s

/-! ## Slot operations at their boundary (R489) -/

/-- A capture of the channel behind a target runs. -/
def State.capturing (s : State) (t : Nat) : Bool :=
  allCh.any fun c => (c.val == t && (s.chan c).capture.isSome) || (16 + c.val == t && (s.sr.partner.get c).runs)

/-- The FP_DEV of the channel of a slot, as the records of the slot carry it (R497): where a follower's channel is meant, that of the
lead's own comparison. -/
def State.devWord (s : State) (x : PartSlot) : Word :=
  if x.target < 16 then s.reg (Reg.FP_DEV x.target) else x.dev

/-- Retire the part of a slot, with its record; a capture that runs still counts for it (R510). -/
def State.retireSlot (s : State) (k : Fin 32) : State :=
  let x := s.sr.slots.get k
  if x.state == 0 then s
  else
    let s := s.whenB (s.capturing x.target) fun s => s.updSr fun y => { y with left := y.left ++ [(k.val, x)] }
    (s.journal k.val 7 0 [x.idHi, x.idLo, BitVec.ofNat 32 x.n, BitVec.ofNat 32 x.w]).updSlot k fun _ => {}

/-- One slot operation takes effect. -/
def State.applySlotOp (s : State) : SlotOp → State
  | .register k t hi lo c sig base =>
    let now := s.tick
    let s := (s.retireSlot k).updSlot k fun _ =>
      { state := 1, since := now, target := t, cls := c, sigIx := sig, idHi := hi, idLo := lo, adopt := base.isNone, base := base }
    let b := base.getD (0, 0, 0, 0)
    s.journal k.val 6 0 [hi, lo, BitVec.ofNat 32 t, BitVec.ofNat 32 c, BitVec.ofNat 32 b.1, BitVec.ofNat 32 b.2.1,
      BitVec.ofNat 32 b.2.2.1, BitVec.ofNat 32 b.2.2.2]
  | .retire k => s.retireSlot k
  | .accept k =>
    let x := s.sr.slots.get k
    if x.state == 0 then s
    else
      let dev := s.devWord x
      (s.updSlot k fun x => { x with doubt := false, state := if x.warned then 3 else 1 }).journal k.val 8 0 [3#32, dev]

/-- The slot operations whose transaction has completed take effect (R489). -/
def State.applySlotOps (s : State) : State :=
  let ops := s.sr.ops
  let s := (ops.foldl (fun s o => s.applySlotOp o) (s.updSr fun x => { x with ops := [] })).syncSr
  if ops.isEmpty then s else allCh.foldl (fun (s : State) c => s.noteBase c) s

/-! ## The hourly pass (R492, R493, R495) -/

/-- The trend prediction R_t (R492), none where it is unbounded. -/
def trendOps (x : PartSlot) (tLim : Nat) : Option Nat :=
  let f := fitOf (x.points.map fun p => ((p.1 : Int), (p.2 : Int)))
  if f.n < 32 || f.num ≤ 0 || f.den ≤ 0 then none
  else (f.reach x.n tLim).map fun r => r.toNat

/-- The pass over one slot (R492, R493): predictions, WEAR_LIMIT, PART_HOURLY. The mean w over no operation, and how the
record codes the slope, are free values. -/
def State.hourlySlot (s : State) (k : Fin 32) : State :=
  let x := s.sr.slots.get k
  match s.classOf x with
  | none => s
  | some c =>
    if x.state == 0 then s
    else
      let (fw, s) := s.drawWord
      let (slope, s) := s.drawWord
      let sumW := x.recent.foldl (· + ·) 0
      let elec := if sumW == 0 then fw.toNat else (65536 * c.nElec - x.w) * x.recent.length / sumW
      let rm := min (c.nMech - x.n) elec
      let rt := trendOps x c.tLim
      let pred := match rt with | some r => min rm r | none => rm
      let hours := (x.hourOps :: x.hours).take 168
      let ops := hours.foldl (· + ·) 0
      let eol := if ops == 0 then 0xFFFFFFFF#32 else word32 (pred * hours.length / ops)
      let warn := !x.warned && decide (pred ≤ c.warnOps)
      let s := s.journal k.val 4 (b2n x.gap) [BitVec.ofNat 32 x.n, BitVec.ofNat 32 x.w, word32 rm,
        (match rt with | some r => word32 r | none => 0xFFFFFFFF#32), slope, BitVec.ofNat 32 x.hourOps]
      let s := s.updSlot k fun y => { y with
        pred := word32 pred, eol := eol, hours := hours, hourOps := 0, fpHour := false, gap := false, keptN := y.n, keptW := y.w
        warned := y.warned || warn, state := if warn then 3 else y.state }
      if warn then
        let dev := s.devWord x
        (s.srFault kWearLimit k.val).journal k.val 8 0 [2#32, dev]
      else s

/-- The slots and the device models of a pass, and the records that are due (R495). -/
def State.hourly (s : State) (a : Ageing) : State :=
  (((List.finRange 32).foldl (fun (s : State) k => s.hourlySlot k) s).hourlyDevice a).writeDue

/-- The open block closes, unless it is empty (R498). -/
def State.closeNewest (s : State) : State :=
  let t := s.tick
  match s.newest with
  | some b => if b.recs.isEmpty || b.closed then s else s.updBlock b.seq fun x => { x with closed := true, closedAt := t }
  | none => s

/-- HOURLY_PASS: at a boundary whose swath number is a multiple of H_SW, once (R495): slots, device models, the records due at the
boundary with its own (R497), and the open block closes (R498). -/
def execHourlyPass (a : Ageing) (s : State) : Host.Outcome State Fault Refusal :=
  .next <|
    if s.tick != s.btick || !s.hourDue then s
    else
      let n := s.swath
      ((s.updSr fun x => { x with hourAt := some n }).hourly a).closeNewest

/-! ## Power loss, recovery, the staging area (R502, R507-R509) -/

/-- PFAIL_ASSERT: PFAIL, and a PFAIL record that is due at the next boundary as every record is (R497), with the records staged when
PFAIL_N fell; the pages of the backlog are due, and no erase and no signature starts from now on (R507). -/
def execPfailAssert (s : State) : Host.Outcome State Fault Refusal :=
  .next <|
    if s.env.pfail then s
    else
      let s := ({ s with env := { s.env with pfail := true } } : State).raise srcPWR kPfail (faultAddr 63 63)
      let t := s.tick
      let n := s.backlog
      (s.updSr fun x => { x with pfailAt := t }).journal 0 2 0 [s.reg Reg.SR_LEAF, BitVec.ofNat 32 n]

/-- PFAIL_OK: the flash declares program and erase suspend, and a maximum page program time of 3 ms or less (R507). -/
def State.pfailOk (s : State) : Bool := s.boot.suspend && decide (s.boot.pageUs ≤ 3000)

/-- VIN is lost with PFAIL_N asserted at least 4 ms before and PFAIL_OK: the backlog has been programmed (R508). -/
def State.heldUp (s : State) : Bool := s.env.pfail && s.pfailOk && decide (s.sr.pfailAt + 192000 ≤ s.tick)

/-- PFAIL_DEASSERT: PFAIL_N rises without a loss of VIN: journaling resumes (R507). -/
def execPfailDeassert (s : State) : Host.Outcome State Fault Refusal :=
  .next { s with env := { s.env with pfail := false } }

/-- A record whose CRC matches (R497). -/
def recordOk (r : List Word) : Bool := r.length == 16 && crc32cWords (r.take 15) == r.getD 15 0#32

/-- The valid records of a block: up to the first whose CRC fails (R508). -/
def validRecords : List (List Word) → List (List Word)
  | [] => []
  | r :: rs => if recordOk r then r :: validRecords rs else []

/-- JOURNAL_RECOVERY at power-on (R502, R508): what the flash holds, the chain stopped at the first bad record, the
sequences resumed past the last record; the blocks without a seal in the flash are to be sealed, with REC unless the loss of VIN was held up;
q goes to 256 × f. Ticks start again at 0, from which every capture then concerns the parts registered before. -/
def State.recoverJournal (s : State) : State :=
  let kept := s.sr.blocks.filterMap fun b =>
    let rs := validRecords (b.recs.take b.programmed)
    let b := if b.sealWaits then { b with done := false, msg := none, sign := [] } else b
    if rs.isEmpty then none else some { b with recs := rs, programmed := rs.length, closed := true, closedAt := 0 }
  let last := (kept.getLast?.bind fun b => b.recs.getLast?).getD []
  let bs := kept.map fun b => { b with recovered := b.recovered || (!b.done && !s.sr.heldUp) }
  let next := if kept.isEmpty then 0 else (last.getD 1 0#32).toNat + 1
  let sealedMax := bs.foldl (fun m b => if b.msg.isSome then max m b.seq else m) 0
  let s := s.updSr fun x => { x with
    blocks := bs, due := [], ops := [], opsDue := [], left := [], partner := Tab.fill 16 {}, hourAt := none, pfailAt := 0, nonceAt := 0, session := none, nonce := none, report := [], tree := false, nextTree := false, treeOut := false
    slots := x.slots.map fun p => { p with
      since := 0, gap := decide (p.state ≠ 0), n := p.keptN, w := p.keptW, hourOps := 0, fpHour := false } }
  let s := (s.setReg Reg.SR_JRN_SEQ (BitVec.ofNat 32 next)).setReg Reg.SR_JRN_SEALED (BitVec.ofNat 32 sealedMax)
  let s := s.setReg Reg.SR_LEAF (BitVec.ofNat 32 (256 * s.leafFuses))
  (s.setF F.SR_STATUS_JOURNAL 1).syncTree

/-- At SAFE the journal runs, with a BOOT record; how the record codes the cause of the reset is a free value (R497). -/
def State.startJournal (s : State) : State :=
  let (cause, s) := s.drawWord
  let s := if s.reg Reg.SR_JRN_SLOTS == 0#32 then (s.setF F.SR_STATUS_JOURNAL 3).journalFail 4
    else s.setF F.SR_STATUS_JOURNAL 2
  let s := s.tellLeaves
  let s := s.updSr fun x => { x with heldUp := false }
  (s.journal 0 1 0 ([s.reg Reg.BOOT_IMAGE, s.reg Reg.BOOT_BUILD] ++ (List.range 4).map (fun i => s.reg (Reg.BOOT_DIGEST i))
    ++ [s.reg Reg.BOOT_FUSES, s.reg Reg.SR_LEAF, cause])).syncSr

/-- An uncorrectable error in the staging area destroys the records not yet programmed (R509). Whether the word is a field of a tree
as well, which is then generated again (R503), is a free value: the spec gives no layout of the area (log entry 73). -/
def State.stagingLost (s : State) : State :=
  let (tree, s) := s.drawBit
  let s := s.dropTrees tree
  (s.updSr fun x => { x with blocks := x.blocks.map fun b => { b with recs := b.recs.take b.programmed } }).journalFail 3

/-- A refuser of Hibernate and Dormant: a seal under way or not yet programmed, and in Dormant a staged backlog (R508, R524). -/
def State.srBusy (s : State) (dormant : Bool) : Bool :=
  (s.sealDue.isSome && s.canSign) || s.sealBlock.isSome || s.fld F.SR_ATT_STATUS_STATE == 1 || (dormant && (s.backlog != 0 || !s.sr.due.isEmpty))

end Sys2Proof.Machine
end

