-- ==== Sys2Proof/Machine/Granary.lean ====
section
/-!
DEFINITION. Machine/Granary.lean: errors of the Granary met by a read or by the scrub (R300-R302).
-/
namespace Sys2Proof.Machine

/-- The Crib whose ring holds a host address, with the first address of the entry that holds it. -/
def State.ringEntryAt (s : State) (a : Nat) : Option (CribIx × Nat) :=
  (allCribs.find? fun c =>
    let b := s.ringAddr c.val 0
    s.flag (F.CRIB_CFG_EN c.val) && decide (b ≤ a) && decide (a < b + s.ringSize c.val * (4 * s.entryWords c.val))).map
      fun c => (c, s.ringAddr c.val 0 + (a - s.ringAddr c.val 0) / (4 * s.entryWords c.val) * (4 * s.entryWords c.val))

/-- Bytes of the landing area of a segment (R410). -/
def State.landingBytes (s : State) (k : Nat) : Nat :=
  if s.flag (F.GLN_SEG_CFG_EN k) then (s.segN k * s.segHlen k + 7) / 8 else 0

/-- The segment whose landing area holds an offset: the areas stand in ascending segment order. -/
def State.landingSeg (s : State) (off : Nat) : Option (Fin 32) :=
  allSegs.find? fun k =>
    let b := (List.range k.val).foldl (fun a j => a + s.landingBytes j) 0
    decide (b ≤ off) && decide (off < b + s.landingBytes k.val)

/-- What an uncorrectable error does to the data of its area (R302). -/
def State.eccDamage (s : State) (a : Nat) : State :=
  match areaOf a with
  | 1 => match s.ringEntryAt a with
    | some (c, e) =>
      let lost := List.replicate (s.entryWords c.val) 0xFFFFFFFF#32
      let place := (e - s.ringAddr c.val 0) / (4 * s.entryWords c.val)
      let i := (place + s.ringSize c.val - s.prod c.val % s.ringSize c.val) % s.ringSize c.val
      (s.writeWords e lost).updCrib c fun x => { x with
        written := x.written.mapIdx fun k y => if k == i then (y.1, lost) else y }
    | none => s
  | 2 => match s.landingSeg (a - 0xE00000) with
    | some k => s.dropData k
    | none => s
  | 4 => s.stagingLost
  | 6 => s.writeWords (a / 8 * 8) [0#32, 0#32]
  | _ => s

/-- An error met at a host address of the Granary: corrected, or uncorrectable. -/
def State.eccAt (s : State) (a : Nat) (uncorr : Bool) : State :=
  if uncorr then (s.eccUncorr a).eccDamage a else s.eccCorrected a

/-- Words of 64 bits in the Granary (R293). -/
def granaryQuads : Nat := 0x100000

/-- SCRUB_SLOT: the scrub reads the next word of the Granary (R301), and what reads of the Binder, the check-value scans, the
Thresher, the Yoke and the staging have met since the slot before is reported (R300, R302). The scrub stands still while the
fabric clock is stopped. -/
def execScrubSlot (x : Scrub) (s : State) : Host.Outcome State Fault Refusal :=
  .next <|
    if s.pwr.mode == 4 || !s.env.vin then s
    else
      let s := (x.met.filter fun e => decide (0x800000 ≤ e.1.toNat)).foldl (fun (s : State) e => s.eccAt e.1.toNat e.2) s
      let a := 0x800000 + 8 * s.scrub
      let s := if x.found == 0 then s else s.eccAt a (x.found == 2)
      let next := s.scrub + 1
      if next ≥ granaryQuads then
        { (s.setReg Reg.GRN_SCRUB (s.reg Reg.GRN_SCRUB + 1)) with scrub := 0 }
      else { s with scrub := next }

end Sys2Proof.Machine
end

