-- ==== Sys2Proof/Machine/ProgramCheck.lean ====
section
/-!
DEFINITION. Machine/ProgramCheck.lean: verification of a Binder program (R260-R264, R281-R284): its parts, its paths, its
worst cases, its hot inputs and its operands. Every check answers the section word of its first failure.
-/
namespace Sys2Proof.Machine

/-- First failure of a verification: reason code, section type and word (R339, BOOT_DETAIL). -/
structure VFail where
  reason : Nat
  type : Nat
  word : Nat
  deriving DecidableEq, Repr

/-- Answer of a verification step. -/
abbrev Check (α : Type) := Except VFail α

/-- A rule: the failure where its condition does not hold. -/
def rule (ok : Bool) (reason type word : Nat) : Check Unit := if ok then .ok () else .error ⟨reason, type, word⟩

/-! ## Worst cases (R282) -/

/-- Worst case of a piece of code: cycles, signal writes, 16-byte emits, 32-byte emits, emits in all, timer updates. -/
structure Worst where
  cyc : Nat := 0
  s : Nat := 0
  e16 : Nat := 0
  e32 : Nat := 0
  e : Nat := 0
  tm : Nat := 0
  deriving DecidableEq, Repr

/-- One piece after another. -/
def Worst.add (a b : Worst) : Worst := ⟨a.cyc + b.cyc, a.s + b.s, a.e16 + b.e16, a.e32 + b.e32, a.e + b.e, a.tm + b.tm⟩
/-- The worse of two paths, figure by figure. -/
def Worst.worse (a b : Worst) : Worst :=
  ⟨max a.cyc b.cyc, max a.s b.s, max a.e16 b.e16, max a.e32 b.e32, max a.e b.e, max a.tm b.tm⟩
/-- A piece run `n` times. -/
def Worst.times (n : Nat) (a : Worst) : Worst := ⟨n * a.cyc, n * a.s, n * a.e16, n * a.e32, n * a.e, n * a.tm⟩

/-- The worst case from an address on; none: some path breaks a rule of R281. -/
abbrev Path := Option Worst

/-- One path after another. -/
def thenPath (a b : Path) : Path :=
  match a, b with
  | some x, some y => some (x.add y)
  | _, _ => none

/-- The worse of two paths, both of which must keep the rules. -/
def worsePath (a b : Path) : Path :=
  match a, b with
  | some x, some y => some (x.worse y)
  | _, _ => none

/-- A path that costs some cycles and nothing else. -/
def cycles (n : Nat) : Path := some { cyc := n }

/-- Function codes of the multiplications (R266). -/
def isMul (f : BitVec 4) : Bool := decide (4 ≤ f.toNat) && decide (f.toNat ≤ 6)

/-- Charge of an instruction that neither branches nor loops, calls, returns or ends (R265), with what it adds to the
commit set (R232); `esz` gives the entry size of a Crib in words. -/
def chargeOf (esz : Nat → Nat) : BinderOp → Worst
  | .opAlu _ _ _ f => { cyc := if isMul f then 2 else 1 }
  | .opAlui _ _ f _ => { cyc := if isMul f then 2 else 1 }
  | .opLds .. => { cyc := 4 }
  | .opLdq .. => { cyc := 4 }
  | .opLdv .. => { cyc := 4 }
  | .opLdw .. => { cyc := 4 }
  | .opLdb .. => { cyc := 4 }
  | .opLdk .. => { cyc := 4 }
  | .opLdd .. => { cyc := 2 }
  | .opSts .. => { cyc := 1, s := 1 }
  | .opStsx .. => { cyc := 1, s := 1 }
  | .opTon .. => { cyc := 2, tm := 1 }
  | .opTof .. => { cyc := 2, tm := 1 }
  | .opTp .. => { cyc := 2, tm := 1 }
  | .opEdg .. => { cyc := 2 }
  | .opDsc .. => { cyc := 3, tm := 1 }
  | .opEmit k _ => if esz k.toNat == 4 then { cyc := 3, e16 := 1, e := 1 } else { cyc := 5, e32 := 1, e := 1 }
  | _ => { cyc := 1 }

/-- An instruction that may not end a loop body (R281). -/
def endsOnFlow : BinderOp → Bool
  | .opBr .. => true
  | .opCall _ => true
  | .opRet => true
  | .opLoop .. => true
  | .opLoopr .. => true
  | _ => false

/-- An instruction that may not stand in a loop body (R281). -/
def leavesBody : BinderOp → Bool
  | .opEnd => true
  | .opRet => true
  | _ => false

/-- The rules a non-empty body keeps: inside its region, without END and RET, not ending on control flow. -/
def bodyOk (rest : List BinderOp) (len : Nat) : Bool :=
  decide (len ≤ rest.length) && !(rest.take len).any leavesBody &&
    !((rest.take len).getLast?.any endsOnFlow)

/-- What a path through an END and through a RET is worth in a region: a sheaf ends with END, a subroutine with RET. -/
structure Region where
  atEnd : Path
  atRet : Path
  deriving DecidableEq, Repr

/-- Paths from every address of a region on, and at its exit; `depth` more loops may nest (R281). A branch may only go
forward inside the region, and into no body. -/
def pathsFrom (esz : Nat → Nat) (sub : Nat → Path) (rg : Region) : Nat → List BinderOp → Path → List Path
  | 0, _, _ => []
  | depth + 1, ops, exit =>
    (ops.foldr (fun op (acc : List BinderOp × List Path) =>
      let (rest, vals) := acc
      let next := vals.headD none
      let dst (off : Nat) : Path := if off ≤ rest.length then vals.getD (off - 1) none else none
      let loop (head count len : Nat) : List Path :=
        if len == 0 then thenPath (cycles head) next :: vals
        else
          let body := if bodyOk rest len then
              (pathsFrom esz sub rg depth (rest.take len) (cycles 0)).headD none else none
          let run := match body with
            | some b => thenPath (cycles head) (some (b.times count))
            | none => none
          thenPath run (vals.getD len none) :: (List.replicate len none ++ vals.drop len)
      match op with
      | .opEnd => (op :: rest, rg.atEnd :: vals)
      | .opRet => (op :: rest, rg.atRet :: vals)
      | .opBr c off =>
        let taken := thenPath (cycles 2) (dst off.toNat)
        (op :: rest, (if c == 14#4 then taken else worsePath taken (thenPath (cycles 1) next)) :: vals)
      | .opCall t => (op :: rest, (thenPath (cycles 2) (thenPath (sub t.toNat) next)) :: vals)
      | .opLoop n len => (op :: rest, loop 1 (n.toNat + 1) len.toNat)
      | .opLoopr _ m len => (op :: rest, loop 2 (m.toNat + 1) len.toNat)
      | _ => (op :: rest, thenPath (some (chargeOf esz op)) next :: vals)) ([], [exit])).2

/-- The worst case of an extent from its entry point on: loops nest at most 4 deep, and no path falls out of it. -/
def extentPath (esz : Nat → Nat) (sub : Nat → Path) (rg : Region) (ops : List BinderOp) : Path :=
  (pathsFrom esz sub rg 5 ops none).headD none

/-! ## Extents and calls (R281) -/

/-- Put a number into an ascending list without repeats. -/
def insertNat (n : Nat) : List Nat → List Nat
  | [] => [n]
  | x :: xs => if n < x then n :: x :: xs else if n = x then x :: xs else x :: insertNat n xs

/-- Targets of the CALLs of a piece of code. -/
def callTargets (ops : List BinderOp) : List Nat :=
  ops.filterMap fun op => match op with | .opCall t => some t.toNat | _ => none

/-- The extent of an entry point: up to the instruction before the next entry point. -/
def extentOf (entries : List Nat) (code : List BinderOp) (e : Nat) : List BinderOp :=
  let stop := (entries.find? fun x => decide (e < x)).getD code.length
  (code.drop e).take (stop - e)

/-- The bodies of the loops of a piece of code: first and last position; an empty body is none. -/
def bodiesOf (ops : List BinderOp) : List (Nat × Nat) :=
  (ops.mapIdx fun i op => match op with
    | .opLoop _ len => (i + 1, i + len.toNat)
    | .opLoopr _ _ len => (i + 1, i + len.toNat)
    | _ => (i + 1, i)).filter fun b => decide (b.1 ≤ b.2)

/-- A position inside a body. -/
def insideBody (b : Nat × Nat) (i : Nat) : Bool := decide (b.1 ≤ i) && decide (i ≤ b.2)

/-- The rules of R281 that hold for every instruction of an extent, reached or not: forward branches inside it that neither leave
nor enter a body, bodies wholly inside what surrounds them, at most 4 deep. -/
def extentOk (ops : List BinderOp) : Bool :=
  let bs := bodiesOf ops
  (bs.all fun b => decide (b.2 < ops.length) && bodyOk (ops.drop b.1) (b.2 + 1 - b.1)
      && (bs.all fun c => !insideBody b (c.1 - 1) || decide (c.2 ≤ b.2))
      && decide ((bs.filter fun c => insideBody c b.1).length ≤ 4))
    && (ops.mapIdx fun i op => match op with
        | .opBr _ off => decide (i + off.toNat < ops.length) && bs.all fun b => insideBody b i == insideBody b (i + off.toNat)
        | _ => true).all id

/-- The subroutines all of whose calls go to subroutines already settled, after a number of rounds: the call graph has no cycle
where these are all (R281). -/
def settledSubs (entries subs : List Nat) (code : List BinderOp) : Nat → List Nat → List Nat
  | 0, done => done
  | n + 1, done =>
    settledSubs entries subs code n
      (subs.filter fun e => (callTargets (extentOf entries code e)).all fun t => done.contains t)

/-- The worst case a table gives an entry point. -/
def pathOf (table : List (Nat × Path)) (t : Nat) : Path := ((table.find? fun x => x.1 == t).map (·.2)).getD none

/-- Worst cases of the subroutines, by entry point, after a number of rounds: a chain of so many calls is worked out
(R281: depth at most 8; a cycle never is). -/
def subTable (esz : Nat → Nat) (entries subs : List Nat) (code : List BinderOp) : Nat → List (Nat × Path)
  | 0 => []
  | n + 1 =>
    let prev := subTable esz entries subs code n
    subs.map fun e => (e, extentPath esz (pathOf prev) ⟨none, cycles 2⟩ (extentOf entries code e))

/-- Instructions of an extent that some path reaches. -/
def reachedOps (ops : List BinderOp) : List BinderOp :=
  (ops.foldl (fun (acc : Nat × Bool × List Nat × List BinderOp) op =>
    let (i, fall, targets, got) := acc
    if fall || targets.contains i then
      let (fall, targets) := match op with
        | .opEnd => (false, targets)
        | .opRet => (false, targets)
        | .opBr c off => (c != 14#4, (i + off.toNat) :: targets)
        | _ => (true, targets)
      (i + 1, fall, targets, op :: got)
    else (i + 1, false, targets, got)) (0, true, [], [])).2.2.2.reverse

/-- Entry points reached from some by calls, after a number of rounds. -/
def reachedEntries (entries : List Nat) (code : List BinderOp) : Nat → List Nat → List Nat
  | 0, es => es
  | n + 1, es =>
    reachedEntries entries code n
      ((es.flatMap fun e => callTargets (reachedOps (extentOf entries code e))).foldl (fun a x => insertNat x a) es)

/-- Instructions a sheaf reaches, its subroutines included. -/
def sheafOps (entries : List Nat) (code : List BinderOp) (start : Nat) : List BinderOp :=
  (reachedEntries entries code 9 [start]).flatMap fun e => reachedOps (extentOf entries code e)

/-! ## The parts of a program (R260-R263, R334) -/

/-- A program as its words give it. -/
structure RawProg where
  level : Nat
  fixed : Bool
  dfix : Nat
  tasks : Word
  declared : Nat × Nat × Nat
  starts : List Nat
  hotWords : List (List Word)
  bands : List (List Int)
  code : List Word
  data : List Word
  /-- word offset of the first instruction in its section -/
  codeAt : Nat
  deriving DecidableEq, Repr

/-- Read sheaf descriptors (R261, R262): START and hot declarations of each. -/
def readSheaves (ty : Nat) : Nat → Nat → List Word → Check (List (Nat × List Word) × List Word)
  | 0, _, ws => .ok ([], ws)
  | n + 1, at_, ws => do
    let d := ws.take 8
    rule (d.length == 8) 0x0A ty at_
    let w0 := d.getD 0 0#32
    let hotN := wbits w0 31 24
    rule (decide (hotN ≤ 7) && wbits w0 23 14 == 0) 0x0A ty at_
    let hots := (d.drop 1).take hotN
    rule (((d.drop 1).drop hotN).all (· == 0#32)) 0x0A ty at_
    rule (hots.all fun w => (wbits w 31 30 == 1 || wbits w 31 30 == 2) && wbits w 29 22 == 0 &&
      (wbits w 31 30 == 2 || wbits w 21 17 == 0)) 0x0A ty at_
    let (more, rest) ← readSheaves ty n (at_ + 8) (ws.drop 8)
    pure ((wbits w0 13 0, hots) :: more, rest)

/-- Are numbers strictly ascending? -/
def ascending : List Int → Bool
  | a :: b :: t => decide (a < b) && ascending (b :: t)
  | _ => true

/-- Read band tables (R263). -/
def readBands (ty : Nat) : Nat → Nat → List Word → Check (List (List Int) × List Word)
  | 0, _, ws => .ok ([], ws)
  | n + 1, at_, ws => do
    let k := (ws.getD 0 0#32).toNat
    rule (decide (1 ≤ k) && decide (k ≤ 15) && decide (k < ws.length)) 0x0A ty at_
    let ts := ((ws.drop 1).take k).map sgn
    rule (ascending ts) 0x0A ty at_
    let (more, rest) ← readBands ty n (at_ + k + 1) (ws.drop (k + 1))
    pure (ts :: more, rest)

/-- Read a program that begins at word `at_` of a section (R334): its parts and the words that follow it. -/
def readProg (ty at_ : Nat) (ws : List Word) : Check (RawProg × List Word) := do
  rule (decide (8 ≤ ws.length)) 0x0A ty at_
  let w (i : Nat) : Word := ws.getD i 0#32
  let sheaves := wbits (w 0) 31 23
  let fixed := wbit (w 0) 22
  let dfix := wbits (w 0) 19 0
  rule (decide (1 ≤ sheaves) && decide (sheaves ≤ 256)) 0x0A ty at_
  rule (fixed || dfix == 0) 0x0A ty at_
  let progLen := wbits (w 5) 30 16
  let dataLen := wbits (w 5) 12 0
  rule (wbits (w 5) 31 31 == 0 && wbits (w 5) 15 13 == 0 && decide (1 ≤ progLen) && decide (progLen ≤ 16384) &&
    decide (dataLen ≤ 4096)) 0x0A ty (at_ + 5)
  rule (decide ((w 6).toNat ≤ 32)) 0x0A ty (at_ + 6)
  rule (w 7 == 0#32) 0x0A ty (at_ + 7)
  let (sh, r1) ← readSheaves ty sheaves (at_ + 8) (ws.drop 8)
  let bandsAt := at_ + 8 + 8 * sheaves
  let (bands, r2) ← readBands ty (w 6).toNat bandsAt r1
  let codeAt := bandsAt + bands.foldl (fun a t => a + t.length + 1) 0
  rule (decide (progLen + dataLen ≤ r2.length)) 0x0A ty codeAt
  rule ((sh.flatMap (·.2)).all fun h => wbits h 31 30 != 2 || decide (wbits h 21 17 < bands.length)) 0x0A ty (at_ + 8)
  rule (sh.all fun x => decide (x.1 < progLen)) 0x0A ty (at_ + 8)
  pure ({ level := wbits (w 0) 21 20, fixed := fixed, dfix := dfix, tasks := w 1,
          declared := ((w 2).toNat, (w 3).toNat, (w 4).toNat), starts := sh.map (·.1), hotWords := sh.map (·.2),
          bands := bands, code := r2.take progLen, data := (r2.drop progLen).take dataLen, codeAt := codeAt },
        r2.drop (progLen + dataLen))

/-! ## The checks of a program (R225-R245, R268-R284, R310) -/

/-- What a program's checks need of the image: source class of an entry, the entries the pair owns and how many they are, entries that depend
on a pair without program, entry size of a Crib that lists the pair as producer (0 for any other), channels present, and
L_nom and level. -/
structure ProgEnv where
  cls : Nat → Nat
  own : Nat → Bool
  owns : Nat
  orphan : Nat → Bool
  emit : Nat → Nat
  chans : Nat
  lNom : Nat
  level : Nat

/-- Bank offsets, in words, that an LDK may name: those mapped in a bank block (R268). -/
def bankOffsets : List Nat :=
  [0x00, 0x02, 0x03, 0x04, 0x05, 0x06, 0x07, 0x08, 0x09, 0x0A, 0x10, 0x11, 0x12, 0x13, 0x14, 0x15, 0x16, 0x17, 0x18,
   0x19, 0x20, 0x21, 0x22, 0x23, 0x24, 0x28, 0x29]

/-- The slowest level at which a worst case fits the budget; 0 where none does (R283). -/
def minLevel (lNom w : Nat) : Nat :=
  if w ≤ budgetOf lNom 3 then 3 else if w ≤ budgetOf lNom 2 then 2 else if w ≤ budgetOf lNom 1 then 1 else 0

/-- The timer an instruction uses, with its kind (R273). -/
def timerOf : BinderOp → Option (Nat × Nat)
  | .opTon _ _ _ t => some (t.toNat, 1)
  | .opTof _ _ _ t => some (t.toNat, 2)
  | .opTp _ _ _ t => some (t.toNat, 3)
  | .opDsc _ _ _ _ t _ _ => some (t.toNat, 4)
  | _ => none

/-- Each timer with one kind only (R273). -/
def timersOk (ops : List BinderOp) : Bool :=
  let ts := ops.filterMap timerOf
  ts.all fun a => ts.all fun b => a.1 != b.1 || a.2 == b.2

/-- The operand rules of an instruction at address `pc` (R265, R268, R270, R278, R279, R281). -/
def operandsOk (env : ProgEnv) (bands : Nat) (tasks : Word) (op : BinderOp) : Bool :=
  op.wf && match op with
  | .opBr _ off => decide (1 ≤ off.toNat)
  | .opSts _ _ _ idx => env.own idx.toNat
  | .opLdb _ t _ => decide (t.toNat < bands)
  | .opLdk _ c f => decide (c.toNat < env.chans) && bankOffsets.contains f.toNat
  | .opEmit k r => decide (1 ≤ env.emit k.toNat) && decide (r.toNat + env.emit k.toNat ≤ 16)
  | .opChk t => tasks.getLsbD t.toNat
  | _ => true

/-- An exact load (R225, R268). -/
def exactLoad (cls : Nat → Nat) : BinderOp → Bool
  | .opLdv _ idx => decide (1 ≤ cls idx.toNat) && decide (cls idx.toNat ≤ 4)
  | .opLdw .. => true
  | .opLdk .. => true
  | _ => false

/-- The hot inputs of the speculable sheaves in order of first declaration (R228). -/
def hotInputs (hs : List Word) : List HotInput :=
  hs.foldl (fun acc w =>
    let i := wbits w 16 0
    if acc.any (fun h => h.index == i) then acc
    else acc ++ [{ index := i, band := if wbits w 31 30 == 2 then some (wbits w 21 17) else none }]) []

/-- The rules of R228 for one hot input over the instructions of the speculable part. -/
def hotOk (env : ProgEnv) (ops : List BinderOp) (h : HotInput) : Bool :=
  !env.own h.index && match h.band with
  | none => ops.any fun op => match op with | .opLds _ _ x idx => x == 0#1 && idx.toNat == h.index | _ => false
  | some t =>
    (ops.any fun op => match op with | .opLdb _ k idx => idx.toNat == h.index && k.toNat == t | _ => false) &&
    !(ops.any fun op => match op with | .opLdb _ k idx => idx.toNat == h.index && k.toNat != t | _ => false)

/-- What verification makes of a program. -/
structure CheckedProg where
  prog : Prog
  wReal : Nat
  wSpec : Nat
  wPost : Nat
  minLevel : Nat
  tasks : Word
  deriving DecidableEq, Repr

/-- Decode every instruction, or answer the address of the first that is refused. -/
def decodeAll : Nat → List Word → Except Nat (List BinderOp)
  | _, [] => .ok []
  | pc, w :: ws => match decodeBinder w with
    | none => .error pc
    | some op => match decodeAll (pc + 1) ws with
      | .ok ops => .ok (op :: ops)
      | .error e => .error e

/-- Sum of worst cases, 8 cycles of entry cost for each sheaf and 24 for the evaluation; nothing where no sheaf is. -/
def evalWorst (ws : List Worst) : Worst :=
  if ws.isEmpty then {} else ws.foldl (fun a w => (a.add w).add { cyc := 8 }) { cyc := 24 }

/-- The entries an evaluation can write at all: one stored several times counts once (R232, R270), and only the pair's own are
written. -/
def storeBound (env : ProgEnv) (ops : List BinderOp) : Nat :=
  if ops.any fun op => match op with | .opStsx .. => true | _ => false then env.owns
  else (ops.filterMap fun op => match op with | .opSts _ _ _ idx => some idx.toNat | _ => none).eraseDups.length

/-- Verify a program (R225-R284): step 7 of R339 with reason 0x0A; the figures of step 8 are in the answer. -/
def checkProg (env : ProgEnv) (ty : Nat) (r : RawProg) : Check (CheckedProg × Worst) := do
  let ops ← match decodeAll 0 r.code with
    | .ok ops => pure ops
    | .error pc => throw ⟨0x0A, ty, r.codeAt + pc⟩
  let badOp := ops.findIdx? fun op => !operandsOk env r.bands.length r.tasks op
  rule badOp.isNone 0x0A ty (r.codeAt + badOp.getD 0)
  rule (timersOk ops) 0x0A ty r.codeAt
  rule (r.level == env.level) 0x0A ty 0
  let subs := (callTargets ops).foldl (fun a x => insertNat x a) []
  rule (subs.all fun t => decide (t < ops.length)) 0x0A ty r.codeAt
  let entries := (subs ++ r.starts).foldl (fun a x => insertNat x a) []
  let badSub := subs.find? fun t => (extentOf entries ops t).any fun op => op == .opEnd
  rule badSub.isNone 0x0A ty (r.codeAt + badSub.getD 0)
  let badExtent := ((insertNat 0 entries).find? fun e => !extentOk (extentOf entries ops e))
  rule badExtent.isNone 0x0A ty (r.codeAt + badExtent.getD 0)
  let settled := settledSubs entries subs ops subs.length []
  rule (subs.all fun t => settled.contains t) 0x0A ty r.codeAt
  let table := subTable env.emit entries subs ops 8
  let badCall := subs.find? fun t => (pathOf table t).isNone
  rule badCall.isNone 0x0A ty (r.codeAt + badCall.getD 0)
  let paths := r.starts.map fun e => (e, extentPath env.emit (pathOf table) ⟨cycles 1, none⟩ (extentOf entries ops e))
  let badPath := paths.find? fun x => x.2.isNone
  rule badPath.isNone 0x0A ty (r.codeAt + (badPath.map (·.1)).getD 0)
  let worsts := paths.map fun x => x.2.getD {}
  let reach := r.starts.map fun e => sheafOps entries ops e
  let specLen := (reach.takeWhile fun os => !os.any (exactLoad env.cls)).length
  let specOps := (reach.take specLen).flatten
  let hots := hotInputs ((r.hotWords.take specLen).flatten)
  rule (decide (hots.length ≤ 7)) 0x0A ty r.codeAt
  rule (hots.all fun h => !env.orphan h.index && hotOk env specOps h) 0x0A ty r.codeAt
  let all := evalWorst worsts
  let all : Worst := { all with s := min all.s (storeBound env reach.flatten) }
  rule (decide (all.s ≤ 8192) && decide (all.e ≤ 512) && decide (all.tm ≤ 1024)) 0x0A ty r.codeAt
  rule (!r.fixed || (r.dfix % 192 == 0 && decide (576 ≤ r.dfix) && decide (80 * r.dfix ≤ 67 * env.lNom))) 0x0A ty 0
  pure ({ prog := { starts := r.starts, specLen := specLen, hots := hots, bands := r.bands, code := r.code,
                    data := r.data, fixed := r.fixed, dfix := r.dfix, drain := 2 * all.s + 2 * all.e16 + 4 * all.e32 },
          wReal := all.cyc, wSpec := (evalWorst (worsts.take specLen)).cyc,
          wPost := (evalWorst (worsts.drop specLen)).cyc, minLevel := minLevel env.lNom all.cyc, tasks := r.tasks }, all)

/-- Step 8 of R339: declared worst cases, budget, D_fix and drain at the image's level (R245, R283, R310). -/
def checkBudget (lNom level : Nat) (ty : Nat) (r : RawProg) (c : CheckedProg) : Check Unit := do
  let wp := cycTicks c.wReal level
  rule (decide (c.wReal ≤ r.declared.1)) 0x0C ty 2
  rule (decide (c.wSpec ≤ r.declared.2.1)) 0x0C ty 3
  rule (decide (c.wPost ≤ r.declared.2.2)) 0x0C ty 4
  rule (decide (c.wReal ≤ budgetOf lNom level)) 0x0C ty 2
  rule (!r.fixed || decide ((960 + wp + 120 + 191) / 192 * 192 + 192 ≤ r.dfix)) 0x0C ty 0
  let d := (2 * c.prog.drain + 4) / 5
  let d := if level == 3 then 2 * d else d
  rule (decide ((960 + wp + d) * 80 ≤ 67 * lNom)) 0x0C ty 2

end Sys2Proof.Machine
end

