-- ==== Sys2Proof/Machine/Power.lean ====
section
/-!
DEFINITION. Machine/Power.lean: performance levels and power states: requests, refusers, entry to Doze, Hibernate and
Dormant, wakes, the night handover on the Barn Door, and the power faults (R512-R532).
-/
namespace Sys2Proof.Machine

/-- Change the power block. -/
def State.updPwr (s : State) (f : Pwr → Pwr) : State := { s with pwr := f s.pwr }

/-- PWR_STATUS follows the state in force: RUN, DOZE or HIBERNATE (NAP is formed when it is read, R517). -/
def State.syncPwr (s : State) : State :=
  let st := match s.pwr.mode with | 1 => 2 | 2 => 3 | _ => 0
  let left := match s.pwr.req with
    | some r => (match r.since with
      | some k => min 15 (k + s.fld F.PWR_CFG_ENTRY_GRACE - s.swath)
      | none => 0)
    | none => 0
  let waits := match s.pwr.req with | some r => r.since.isSome | none => false
  ((s.setF F.PWR_STATUS_STATE st).setB F.PWR_STATUS_WAITING waits).setF F.PWR_STATUS_GRACE_LEFT left

/-- A cause established on a boundary tick after the contributions were applied: the pending copies and the partner
entries of this boundary carry LATE as well (R48, R253). -/
def State.boundaryCause (s : State) (c : Nat) : State :=
  let s := (s.causeNow c).lateAtTarget true
  { s with
    pipe := { s.pipe with lateB := true }
    sig := s.sig.map fun x =>
      if s.yk.wrote.contains x.1 then (x.1, { x.2 with qual := withLate true x.2.qual }) else x }

/-- We stand on the tick of the last boundary. -/
def State.atBoundary (s : State) : Bool := s.tick == s.btick

/-! ## Levels (R512-R514) -/

/-- Binder clock of a level in MHz (R512). -/
def levelMhz (level : Nat) : Nat := match level with | 0 => 480 | 1 => 320 | 2 => 240 | _ => 120

/-- Evaluation budget at a level (R240). -/
def State.budgetAt (s : State) (level : Nat) : Nat := 6 * s.lNom * levelMhz level / 480

/-- W_p of a pair at a level in ticks (R245, R283). -/
def State.wTicks (s : State) (p level : Nat) : Nat :=
  ((s.reg (Reg.BND_WREAL p)).toNat * 48 + levelMhz level - 1) / levelMhz level

/-- D ticks of the worst-case drain of a program at a level (R310). -/
def drainTicks (pr : Prog) (level : Nat) : Nat :=
  let d := (2 * pr.drain + 4) / 5
  if level == 3 then 2 * d else d

/-- D_fix is long enough for W_p (the fourth condition of R245). -/
def dfixFits (dfix w : Nat) : Bool := decide ((960 + w + 120 + 191) / 192 * 192 + 192 ≤ dfix)

/-- 0.8375 × L_nom, rounded down, is not exceeded (R64). -/
def withinSwath (lNom t : Nat) : Bool := decide (t * 10000 ≤ 8375 * lNom)

/-- A pair fits a level (R514). -/
def State.pairFits (s : State) (p : PairIx) (level : Nat) : Bool :=
  match (s.pairs.get p).prog with
  | none => true
  | some pr =>
    let w := s.wTicks p.val level
    decide ((s.reg (Reg.BND_WREAL p.val)).toNat ≤ s.budgetAt level)
      && (!pr.fixed || dfixFits pr.dfix w)
      && withinSwath s.lNom (960 + w + drainTicks pr level)

/-! ## Refusers (R524) -/

/-- Consumer codes of CRIB_CFG: host 0, Gleaner 1, Yoke 2. -/
def State.cribHolds (s : State) (host : Bool) : Bool :=
  allCribs.any fun c => s.flag (F.CRIB_CFG_EN c.val) && s.occupancy c.val != 0
    && (if host then s.fld (F.CRIB_CFG_CONSUMER c.val) == 0 else s.fld (F.CRIB_CFG_CONSUMER c.val) != 0)

/-- A scan in flight or a fold due (refuser 3). -/
def State.gleanerBusy (s : State) : Bool :=
  allSegs.any fun k => (s.gln.segs.get k).scan.isSome || match (s.gln.segs.get k).land with
    | some (n, _) => n + 1 == s.swath
    | none => false

/-- Refuser 5: a program, erase, seal or fuse blow under way; in Dormant also a staged backlog. -/
def State.flashBusy (s : State) (dormant : Bool) : Bool :=
  s.srBusy dormant || s.boot.programming || s.fld F.STAGE_STATUS_STATE == 1 || s.fld F.SYS_COMMISSION_STATE == 1

/-- Refuser 7: outputs not in night state. -/
def State.nightBlocked (s : State) : Bool :=
  allHalves.any (fun h => let x := s.half h; x.timedOut || x.upTimeout.isSome || x.uv || x.gateHold)
    || allCh.any fun c => s.isActed c && [3, 4, 5, 6].contains (s.chState c)

/-- HSEL_N is low: a transaction or a transfer is in progress (R385). -/
def State.hselIsLow (s : State) : Bool :=
  s.env.hselLow || !(s.hp.reads.isEmpty && s.hp.sending.isEmpty && s.hp.writes.isEmpty)

/-- The lowest refuser code that applies to a request, the partner's aside. -/
def State.refuserOwn (s : State) (st level : Nat) : Option Nat :=
  let deep := st == 2 || st == 4
  if !(s.isSafe || s.isArmed) then some 8
  else if deep && (s.hselIsLow || (st == 4 && !s.queue.isEmpty)) then some 1
  else if (st == 4 && s.cribHolds true) || (st == 2 && s.cribHolds false) then some 2
  else if deep && s.gleanerBusy then some 3
  else if deep && s.flashBusy (st == 4) then some 5
  else if decide (level > s.fld F.PWR_STATUS_LEVEL) && !(allPairs.all fun p => s.pairFits p level) then some 6
  else if st == 4 && s.nightBlocked then some 7
  else none

/-- The partner has not accepted the same state for this boundary (refuser 4). -/
def State.partnerMissing (s : State) (st : Nat) : Bool :=
  s.joined && st != 0 && st != s.pwr.mode && s.yk.power != some (st, s.ruleSwath % 2 ^ 32)

/-- The refuser that applies now, in the order of the table (DESIGN CHOICE, log entry 48). -/
def State.refuser (s : State) (r : PwrReq) : Option Nat :=
  match s.refuserOwn r.state r.level with
  | some c => if c > 4 && c != 8 && s.partnerMissing r.state then some 4 else some c
  | none => if s.partnerMissing r.state then some 4 else none

/-- The state this device tells its partner it would enter at the next boundary (R454). -/
def State.wouldEnter (s : State) : Option Nat :=
  match s.pwr.req with
  | some r => if r.state != 0 && r.state != s.pwr.mode && (s.refuserOwn r.state r.level).isNone then some r.state else none
  | none => none

/-! ## Requests (R523, R524) -/

/-- A Dormant entry takes effect at this boundary once its request is judged (R523, R524). -/
def State.entersDormant (s : State) : Bool :=
  s.atBoundary && s.pwr.handover.isNone && s.pwr.mode != 4
    && match s.pwr.req with | some r => r.state == 4 && (s.refuser r).isNone | none => false

/-- A new request replaces one that waits. -/
def State.putRequest (s : State) (r : PwrReq) : State := (s.updPwr fun x => { x with req := some r }).syncPwr

/-- A refusal: counted, its code recorded, PWR_REFUSED raised (R524, R532). -/
def State.refusePower (s : State) (st code : Nat) : State :=
  let s := (s.updPwr fun x => { x with req := none }).syncPwr
  let s := s.addF F.PWR_REFUSED_COUNT 1
  let s := (s.setF F.PWR_REFUSER_STATE st).setF F.PWR_REFUSER_CODE code
  s.raise srcPWR kPwrRefused (faultAddr st code)

/-! ## Wake (R526-R529) -/

/-- The wake event is latched with its source (R527); one that arrives while an entry is under way is replayed (R529). -/
def State.latchWake (s : State) (src ch : Nat) : State :=
  if s.pwr.wake.isSome then s
  else
    let replay := s.pwr.handover.isSome
    let from_ := if replay then 4 else s.pwr.mode
    let s := s.updPwr fun x => { x with wake := some (src, ch), replay := replay, ready := false }
    ((s.setF F.PWR_WAKE_CAUSE_SOURCE src).setF F.PWR_WAKE_CAUSE_FROM from_).setF F.PWR_WAKE_CAUSE_CHANNEL ch

/-- A host write of PWR_TARGET with STATE 0 wakes from Doze and Hibernate (R526); its level is a request (R513), which replaces one
that waits, and a level already in force leaves none (R523). -/
def State.wakeHost (s : State) (level : Nat) : State :=
  if s.pwr.mode == 1 || s.pwr.mode == 2 then
    let s := s.latchWake 1 0
    if level != s.fld F.PWR_STATUS_LEVEL then s.putRequest ⟨0, level, false, none⟩
    else (s.updPwr fun x => { x with req := none }).syncPwr
  else s

/-- A host write of PWR_TARGET (R523): one that carries an unused STATE is dropped whole (R17). -/
def State.powerRequest (s : State) (v : Word) : State :=
  let st := wbits v 6 4
  let lv := wbits v 1 0
  if st == 3 || st ≥ 5 then s
  else
    let s := s.setReg Reg.PWR_TARGET (v &&& 0xF3#32)
    if st == 0 && (s.pwr.mode == 1 || s.pwr.mode == 2) then s.wakeHost lv
    else s.putRequest ⟨st, lv, false, none⟩

/-- POWER_REQUEST: a PWR_TARGET write makes a request (R523). -/
def execPowerRequest (v : Word) (s : State) : Host.Outcome State Fault Refusal := s.hostKey fun s => s.powerRequest v

/-- SHEAF_POWER_REQUEST at B(m+1): the request entry of the pair named by PWR_CFG.REQ_PAIR has changed with REQ set; a
host write that arrives at the same boundary goes first (R523). `before` is the value of the entry for the swath before. -/
def State.sheafRequest (s : State) (before : Word) : State :=
  let p := s.fld F.PWR_CFG_REQ_PAIR
  if p ≥ 4 then s
  else
    let v := (s.readEntry (64 + p)).value
    let st := wbits v 6 4
    let hostNow := match s.pwr.req with | some r => !r.sheaf && r.since.isNone | none => false
    if v == before || !wbit v 7 || st == 3 || st ≥ 5 || hostNow then s
    else s.putRequest ⟨st, wbits v 1 0, true, none⟩

/-! ## Entry (R518-R521) -/

/-- Every pair stops (R518): its tines are chaff and it evaluates nothing. -/
def State.restPairs (s : State) : State :=
  allPairs.foldl (fun (s : State) p =>
    let x := s.pairs.get p
    if x.prog.isNone || x.halted || x.blocked.isSome then s
    else
      let s := s.cutWork p (s.slotsSoFar p)
      let s := s.updPair p fun y => { y with ctx := none, tines := [], commit := none }
      if s.isArmed then s.freezeRoll p else s) s

/-- What Hibernate and Dormant entry end (R32, R395, R488, R503); the journal backlog is programmed before (R508). -/
def State.deepEntry (s : State) : State :=
  let s := s.recfgCancelFor 0x22
  let s := allUnits.foldl (fun (s : State) u => s.scanAbandon u) s
  ((s.endSession).dropTrees false).writeDue.programBacklog

/-- The pair unjoins at entry without a fault, and YFLT_N is released (R454). -/
def State.yokeRest (s : State) : State :=
  if s.yokeMode == 0 then s
  else
    let st := s.fld F.YK_STATUS_STATE
    let s := s.unjoin (if st == 5 then 5 else 0)
    let s := ((s.setB F.YK_STATUS_LINK_OK false).setB F.YK_STATUS_BEAT_OK false).updYk fun y => { y with
      power := none, life := none, lastEdge := none, lastFrame := none, lead := none }
    { s with env := { s.env with yfltOut := false } }

/-- A Granary area stays retained: Bias/assist, and its bit in the mask of Hibernate (0) or Dormant (1) (R528). -/
def State.retained (s : State) (dormant : Bool) (area : Nat) : Bool :=
  s.flag F.PWR_CFG_REG && (s.fld (F.PWR_STATE_RETAIN (b2n dormant))).testBit area

/-- Landing data that are not retained are gone (R519). -/
def State.loseLanding (s : State) : State :=
  allSegs.foldl (fun (s : State) k => s.updSeg k fun x => { x with
    land := none, members := x.members.map fun m => (m.1, { m.2 with data := none }) }) s

/-- The image of the follower that the Yoke exchange area holds is gone (R443, R519). -/
def State.loseExchange (s : State) : State := s.updYk fun y => { y with image := [], rx := [] }

/-- Bits of a half's die that the logic die stops using in Dormant: its windows yield nothing (R144). -/
def State.dropWindows (s : State) : State :=
  allCh.foldl (fun (s : State) c => s.updChan c fun x => { x.clearFast with wOpen := false, res := none }) s

/-- The watchdog stops; a new grid starts when it may run again (R474, R483). A disable sequence under way goes on (R477). -/
def State.wdgStop (s : State) : State :=
  let s := { s with wdg := { s.wdg with a0 := none } }
  if s.flag F.WDG_CFG_EN then
    (((s.setF F.WDG_STATUS_STATE 2).setB F.WDG_STATUS_SERVED false).setB F.WDG_STATUS_OPENED false).setF
      F.WDG_STATUS_REMAIN 0
  else s

/-- Dormant: the night handover begins at B(e) (R520), and the running entries of the sequencers end there (R188). -/
def State.dormantEntry (s : State) : State :=
  let s := allHalves.foldl (fun (s : State) h => s.cutEntry h (s.target h)) s
  let s := (s.restPairs).deepEntry.yokeRest.wdgStop
  let s := s.setF F.SYS_STATE_ARMED_HALVES 0
  let s := allHalves.foldl (fun (s : State) h => s.updHalf h fun x => { x with nightTx := true }) s
  s.updPwr fun x => { x with handover := some [], req := none }

/-- The state of a request takes effect at this boundary (R518-R520). -/
def State.enterPower (s : State) (st : Nat) : State :=
  match st with
  | 1 => (s.restPairs.updPwr fun x => { x with mode := 1, req := none }).syncPwr
  | 2 =>
    let s := s.restPairs.deepEntry.yokeRest
    let s := if s.retained false 2 then s else s.loseLanding
    let s := if s.retained false 5 then s else s.loseExchange
    (s.updPwr fun x => { x with mode := 2, req := none }).syncPwr
  | 4 => s.dormantEntry.syncPwr
  | _ => (s.updPwr fun x => { x with req := none }).syncPwr

/-- A request is judged at this boundary (R523-R525). -/
def State.judgeRequest (s : State) : State :=
  match s.pwr.req with
  | none => s
  | some r =>
    let k := r.since.getD s.swath
    let change := r.state != 0 && r.state != s.pwr.mode
    if !change && r.level == s.fld F.PWR_STATUS_LEVEL then (s.updPwr fun x => { x with req := none }).syncPwr
    else match s.refuser r with
      | none =>
        let s := if change && (!r.sheaf || k < s.swath) then s.boundaryCause cUNSTAMPED else s
        let s := if r.level != s.fld F.PWR_STATUS_LEVEL then
            s.updPwr fun x => { x with levelNext := some r.level } else s
        if change then s.enterPower r.state else (s.updPwr fun x => { x with req := none }).syncPwr
      | some code =>
        if k + s.fld F.PWR_CFG_ENTRY_GRACE ≤ s.swath then
          let s := if r.sheaf && change then s.boundaryCause cUNSTAMPED else s
          s.refusePower r.state code
        else (s.updPwr fun x => { x with req := some { r with since := some k } }).syncPwr

/-- REQUEST_JUDGE: at a boundary the waiting request is judged, and entered, kept waiting or refused (R524). -/
def execRequestJudge (s : State) : Host.Outcome State Fault Refusal :=
  .next (s.whenB (s.atBoundary && s.pwr.handover.isNone && s.pwr.mode != 4) fun s => s.judgeRequest)

/-! ## The night handover (R520) -/

/-- Entry is abandoned with refuser code 7: the device is in Run with no half armed, the Gleaner of a device that came from Hibernate
starts again; a wake has nothing to wake. The tables of the sequencers restart (DEDUCED, log entry 31). -/
def State.abandonDormant (s : State) : State :=
  let s := allHalves.foldl (fun (s : State) h => s.restartSeq h (s.target h)) s
  let s := s.whenB (s.pwr.mode == 2) State.gleanerStart
  let s := s.updPwr fun x => { x with mode := 0, handover := none, woken := true, wake := none, replay := false }
  s.refusePower 4 7

/-- A staging session is not saved (R521): it is gone with the core power. -/
def State.dropStaging (s : State) : State :=
  let s := (s.setReg Reg.STAGE_STATUS 0#32).setReg Reg.STAGE_NEXT 0#32
  { s with boot := { s.boot with programming := false, checkWaits := false } }

/-- The core power drops (R520 step 4, R175, R218, R522, R530). -/
def State.dormantDown (s : State) : State :=
  let s := allHalves.foldl (fun (s : State) h => (s.setF (F.BD_STATUS_LINK h.val) 0).updHalf h
    fun x => { x with counting := false, upTimeout := none }) s
  let s := (s.loseCoefs).dropWindows.dropStaging
  let s : State := { s with pipe := { s.pipe with ran := false, ranPrev := false } }
  let s := s.setB F.TB_CLK_STATUS_PLL_LOCK false
  let s := { s with env := { s.env with pll := false, syncOut := 0, yfltOut := false } }
  let s := if s.pwr.replay then s.addF F.PWR_REPLAYED_COUNT 1 else s
  (s.updPwr fun x => { x with mode := 4, handover := none, replay := false }).syncPwr

/-- DORMANT_HANDOVER_CHECK: the slot-8 uplink of a half completes or abandons the entry (R520). -/
def State.handoverCheck (s : State) (h : HalfIx) (ok : Bool) : State :=
  match s.pwr.handover with
  | none => s
  | some hs =>
    if !ok || s.fld (F.BD_STATUS_KEEPER h.val) != 3 then s.abandonDormant
    else
      let hs := if hs.contains h.val then hs else h.val :: hs
      let s := s.updPwr fun x => { x with handover := some hs }
      if hs.length == 2 then s.dormantDown else s

/-- UPLINK_FRAME: the logic die judges an uplink frame of a half: that of a full slot, or (none) that of the last full slot
of the swath before (R209-R212, R219, R449, R520). `rx` holds the 24 words as received where they differ from those sent. -/
def execUplinkFrame (h : HalfIx) (slot : Option Nat) (rx : Option (List Word)) (s : State) : Host.Outcome State Fault Refusal :=
  let ok := (s.upRx h slot rx).isSome
  let s := (s.uplinkFrame h slot rx).driveCheck
  .next (if slot == some 8 then s.handoverCheck h ok else s)

/-- UPLINK_TIMEOUT: the logic die's count of slots without a valid uplink frame reaches TIMEOUT (R217, R449). -/
def execUplinkTimeout (h : HalfIx) (s : State) : Host.Outcome State Fault Refusal :=
  .next (s.uplinkTimeout h).driveCheck

/-- FULL_SLOT_END: full slot `slot` of a half ends: the counts of both sides advance (R214, R217), the table is checked
(R213), and with half A's slot the link frame of the Yoke has been sent (R432). While the logic die has no clock the field die
counts alone (R216). -/
def execFullSlotEnd (h : HalfIx) (slot : Nat) (s : State) : Host.Outcome State Fault Refusal :=
  .next <|
    if !s.env.pll then s.dieSlotEnd h
    else if decide (s.fullSlots ≤ slot) then s
    else
      let s := s.reach (s.btick + 192 * (slot + 1))
      if s.pwr.mode == 4 then s.dieSlotEnd h
      else
        let s := s.fullSlotEnd h
        if h == 0 then s.sendYoke slot s.wouldEnter else s

/-! ## Wake events (R526, R529) -/

/-- A wake source can act: a power state other than Run, or an entry under way. -/
def State.asleep (s : State) : Bool := s.pwr.mode != 0 || s.pwr.handover.isSome

/-- WAKE_HOST: a PWR_TARGET write with STATE 0 (R526). -/
def execWakeHost (level : Fin 4) (s : State) : Host.Outcome State Fault Refusal :=
  .next <|
    if s.pwr.mode == 1 || s.pwr.mode == 2 then
      (s.setReg Reg.PWR_TARGET (BitVec.ofNat 32 level.val)).wakeHost level.val
    else s

/-- WAKE_PIN: a rising edge of WAKE held for 10 µs (R526). -/
def execWakePin (s : State) : Host.Outcome State Fault Refusal :=
  .next (s.whenB (s.asleep && s.flag F.PWR_WAKE_CFG_PIN) fun s => s.latchWake 2 0)

/-- WAKE_DI: the filtered state of a selected DI channel changes (R90, R526). -/
def execWakeDi (c : ChIx) (s : State) : Host.Outcome State Fault Refusal :=
  .next (s.whenB (s.asleep && (s.fld F.PWR_WAKE_CFG_DI).testBit c.val && s.func c == fDI) fun s => s.latchWake 3 c.val)

/-- WAKE_HSEL: HSEL_N falls in Dormant, VIO present; the transaction is lost (R385, R526, R548). -/
def execWakeHsel (s : State) : Host.Outcome State Fault Refusal :=
  .next (s.whenB ((s.pwr.mode == 4 || s.pwr.handover.isSome) && s.flag F.PWR_WAKE_CFG_HSEL && s.env.vioMv != 0)
    fun s => s.latchWake 4 0)

/-! ## Exit (R522, R527) -/

/-- The offsets of a channel's Thresher block that are banks. -/
def isBank (a : Nat) : Bool :=
  decide (0x20000 ≤ a) && decide (a < 0x22000) && decide (8 ≤ a % 512) && decide (a % 512 < 0xA0)

/-- The filling precision bank and the extremes not yet in the banks are gone with them (R159, R522). -/
def Chan.dropBanks (x : Chan) : Chan :=
  { x with
    pSum := 0, pCount := 0, pMin := 0x7FFFFF, pMax := -0x800000, pQual := 0, pPartial := true, aMin := 0x7FFF, aMax := -0x8000 }

/-- What a wake from Dormant finds where the Granary was not retained (R45, R522, R528). -/
def State.loseGranary (s : State) : State :=
  let n := s.swath32
  let s := if s.retained true 0 then s
    else { s with sig := s.sig.map fun x => (x.1, allocEntry x.2.src n) }
  let s := if s.retained true 1 then s
    else
      let s := { s with mem := s.mem.filter fun c => !inLoft c.1 }
      allCribs.foldl (fun (s : State) c =>
        ((s.updCrib c fun x => { x with written := [], latched := 0 }).setReg (Reg.CRIB_CONS c.val)
          (s.reg (Reg.CRIB_PROD c.val))).syncCrib c) s
  let s := if s.retained true 2 then s else s.loseLanding
  let s := if s.retained true 3 then s else
    { s with regs := s.regs.filter fun r => !isBank r.1, chans := s.chans.map Chan.dropBanks }
  let s := if s.retained true 4 then s else s.dropTrees true
  let s := if s.retained true 5 then s else s.loseExchange
  if s.retained true 6 then s else { s with mem := s.mem.filter fun c => !inGeneral c.1 }

/-- What a wake from Dormant leaves, from the resume boundary on (R73, R175, R188, R391, R415, R522). -/
def State.resumeDormant (s : State) : State :=
  let s := s.loseGranary
  let s := allUnits.foldl (fun (s : State) u => s.unsync u) s
  let s := allHalves.foldl (fun (s : State) h => s.restartSeq h (s.target h)) s
  let s := s.restartLoop
  let auto := match s.boot.image with | some i => i.autoArm | none => false
  let s := s.updPwr fun x => { x with woken := true }
  if auto then
    ({ s with boot := { s.boot with autoArm := true, armReq := some (3, s.swath) } } : State).setF F.SYS_ARM_STATUS_STATE 1
  else s

/-- The pairs take up again at B(x): swath x is the first whose roll-call is judged (R482, R518). -/
def State.resumePairs (s : State) : State :=
  let n := s.swath
  allPairs.foldl (fun (s : State) p => s.updPair p fun y => { y with judgeFrom := some n }) s

/-- WAKE_EXIT: the state becomes Run at the exit boundary, which counts as an unstamped write (R525, R527). -/
def State.wakeExit (s : State) : State :=
  let m := s.pwr.mode
  let s := s.updPwr fun x => { x with mode := 0, wake := none, ready := false }
  let s := s.setF F.PWR_WAKE_CAUSE_SWATH s.swath
  let s := if m == 4 then s.resumeDormant else s.resumePairs
  let s := if m == 1 then s else s.gleanerStart
  s.syncPwr

/-- The link of every half whose field die runs has trained (R218, R527; a die that does not run is not waited for: DESIGN CHOICE, log
entry 84). -/
def State.linksUp (s : State) : Bool :=
  allHalves.all fun h => s.fld (F.BD_STATUS_LINK h.val) ≥ 2 || (s.half h).inReset || (s.half h).returning

/-- The exit takes place at this boundary: the wake is latched and the domains are ready, the links to the field dies among them in
Dormant (R527). -/
def State.exitDue (s : State) : Bool :=
  s.pwr.mode != 0 && s.pwr.wake.isSome && s.pwr.ready && (s.pwr.mode != 4 || s.linksUp)

/-- WAKE_ALARM: the boundary just counted has the number in PWR_WAKE_AT (R526): from Doze and Hibernate it is the exit
boundary itself (R527); in Dormant it is latched. -/
def execWakeAlarm (s : State) : Host.Outcome State Fault Refusal :=
  .next <|
    if !s.flag F.PWR_WAKE_CFG_ALARM || s.swath32 != s.reg Reg.PWR_WAKE_AT || !s.asleep || s.pwr.wake.isSome then s
    else if (s.pwr.mode == 1 || s.pwr.mode == 2) && s.atBoundary then
      ((s.latchWake 5 0).wakeExit).boundaryCause cUNSTAMPED
    else if (s.pwr.mode == 4 && decide (s.tick < s.btick + 1024)) || (s.pwr.handover.isSome && s.atBoundary) then
      s.latchWake 5 0
    else s

/-! ## Power faults (R528, R532) -/

/-- LOGIC_HOT: the logic die is above 120 °C for 1 ms; raised again only after it has fallen below 110 °C (R532). -/
def execLogicHot (s : State) : Host.Outcome State Fault Refusal :=
  .next (if s.pwr.hot then s else (s.updPwr fun x => { x with hot := true }).raise srcPWR kLogicHot (faultAddr 63 63))

/-- LOGIC_COOLED: the logic die has fallen below 110 °C (R532). -/
def execLogicCooled (s : State) : Host.Outcome State Fault Refusal := .next (s.updPwr fun x => { x with hot := false })

end Sys2Proof.Machine
end

