-- ==== Sys2Proof/Machine/Watch.lean ====
section
/-!
DEFINITION. Machine/Watch.lean: the Fault Collector's commands, the ends of latches and pending marks, injection, and the
host watchdog (R444, R457-R483).
-/
namespace Sys2Proof.Machine

/-! ## Messages (R444, R457) -/

/-- A follower's fault as a Wide lead logs it (R444): source, kind and address. The partner of a CH_CROSS that the follower carries as
16 + y, a channel of the lead, stays 16 + y (R107; DESIGN CHOICE, log entry 85). -/
def followerMsg (src kind addr cls : Nat) : Nat × Nat × Nat :=
  let up (n : Nat) : Nat := if n < 16 then n + 16 else n
  if src == 0x10 || src == 0x11 then (src, kind, faultAddr (up (addr / 64)) (up (addr % 64)))
  else if src == 0x18 || src == 0x19 then (src, kind, faultAddr (addr / 64) (up (addr % 64)))
  else if 0x20 ≤ src && src ≤ 0x23 then (src + 4, kind, addr)
  else (srcYK, kFollowerFault, src * 16 + cls * 2)

/-- FAULT_MESSAGE: a fault message reaches the Fault Collector and its reaction is taken, by the once-per-swath rule of its kind
(R457-R465, R472). `follower`: it is one
of the follower's, with the class it has there, which a Wide lead logs without a reaction (R444). -/
def execFaultMessage (follower : Option (Fin 8)) (src : BitVec 8) (kind : BitVec 6) (addr : BitVec 12) (s : State) :
    Host.Outcome State Fault Refusal :=
  s.hostKey fun s => match follower with
    | none =>
      if (kindRow? src.toNat kind.toNat).isNone then s else s.raiseOnce src.toNat kind.toNat addr.toNat
    | some cls =>
      if s.yokeMode == 1 && s.boot.lead && s.joined then
        let m := followerMsg src.toNat kind.toNat addr.toNat cls.val
        s.raiseWith m.1 m.2.1 m.2.2 false true
      else s

/-! ## Clearing (R460, R466) -/

/-- Key 0xC7 in FC_CLEAR: the clears wait for the next boundary and count as an unstamped write (R466). -/
def State.clearReq (s : State) (channels halves : Nat) (first : Bool) : State :=
  let r := s.fc.clearReq.getD ⟨0, 0, false⟩
  let r : ClearReq := ⟨r.channels ||| channels, r.halves ||| halves, r.first || first⟩
  ({ s with fc := { s.fc with clearReq := some r } } : State).unstamped

/-- FC_CLEAR_CHANNELS. -/
def execFcClearChannels (mask : BitVec 16) (s : State) : Host.Outcome State Fault Refusal :=
  s.hostKey fun s => s.clearReq mask.toNat 0 false
/-- FC_CLEAR_HALVES. -/
def execFcClearHalves (mask : BitVec 2) (s : State) : Host.Outcome State Fault Refusal :=
  s.hostKey fun s => s.clearReq 0 mask.toNat false
/-- FC_CLEAR_FIRST. -/
def execFcClearFirst (s : State) : Host.Outcome State Fault Refusal := s.hostKey fun s => s.clearReq 0 0 true

/-- The clears of a key take effect at the boundary, FIRST before the batch is written (R460, R466); what a fault raised at the
boundary itself sets stands (R483). -/
def State.applyClear (s : State) : State :=
  match s.fc.clearReq with
  | none => s
  | some r =>
    let now (t : Nat) : Bool := decide (s.btick ≤ t)
    let s := { s with fc := { s.fc with
      clearReq := none
      latches := s.fc.latches.filter fun l => !r.channels.testBit l.chan || now l.tick
      pends := s.fc.pends.filter fun p => !r.halves.testBit p.half || now p.tick
      firstHeld := s.fc.firstHeld && !r.first } }
    let s := if r.first then
        (((s.setReg Reg.FC_FIRST_MSG 0#32).setReg Reg.FC_FIRST_SWATH 0#32).setReg Reg.FC_FIRST_TICK_HI 0#32).setReg
          Reg.FC_FIRST_TICK_LO 0#32
      else s
    s.syncFc

/-- The condition behind a latch is present now (R108, R466): the quality bit of a channel kind that has one, else the
condition its chapter states; for OVR and UNDR results a clamped sample anywhere in the swath that ends (R166). -/
def State.condPresent (s : State) (l : Latch) : Bool :=
  if h : l.chan < 16 then
    let c : ChIx := ⟨l.chan, h⟩
    let q := (s.chan c).bits
    if l.src == 0x10 || l.src == 0x11 then
      if l.kind == kChOverload then q.testBit qLIMIT
      else if l.kind == kChOvertemp then q.testBit qHOT
      else if l.kind == kChOpen || l.kind == kChStuckOff || l.kind == kChSense then q.testBit qOPEN
      else if l.kind == kChShortVf || l.kind == kChCross || l.kind == kChStuckOn then q.testBit qSHORT
      else (s.chan c).has l.kind
    else if l.src == 0x18 || l.src == 0x19 then
      if l.kind == kThrClamp then (s.chan c).clampEp
      else l.kind == kThrOverrange
        && ((s.chan c).ovrSeen || s.flag (F.THR_NOW_OVR c.val) || s.flag (F.THR_NOW_UNDR c.val))
    else if l.src == srcYK then
      if l.kind == kStandinRb then countOf s.yk.rbDisc l.chan != 0
      else if l.kind == kYokeDisc then countOf s.yk.inDisc l.chan != 0
      else false
    else false
  else false

/-- AUTO_CLEAR at a boundary (R466): a latch ends after a whole swath in which its kind was not raised and its condition
was absent at both ends; a pending mark at the first boundary after the reaction. `start` is the tick at which the swath
that ended began. -/
def State.autoClear (s : State) (start : Nat) : State :=
  let ls := s.fc.latches.filterMap fun l =>
    let absent := !s.condPresent l
    if l.auto && decide (l.tick < start) && l.clear && absent then none else some { l with clear := absent }
  ({ s with fc := { s.fc with latches := ls, pends := s.fc.pends.filter fun p => !p.auto || decide (s.btick ≤ p.tick) } } : State).syncFc

/-! ## Injection (R470) -/

/-- Key 0xF5: the message of FC_FORCE_MSG waits for the next boundary, or is dropped if it names an unused source or
kind. -/
def State.injectKey (s : State) : State :=
  let w := s.reg Reg.FC_FORCE_MSG
  match kindRow? (wbits w 31 24) (wbits w 23 18) with
  | none => s.setF F.FC_FORCE_CTRL_STATE 3
  | some _ =>
    (({ s with fc := { s.fc with inject := some w } } : State).setF F.FC_FORCE_CTRL_STATE 1).unstamped

/-- FAULT_INJECT. -/
def execFaultInject (s : State) : Host.Outcome State Fault Refusal := s.hostKey fun s => s.injectKey

/-- FORCE_INJECTION at the boundary (R470, R471), by the once-per-swath rule of its kind. -/
def State.applyInject (s : State) : State :=
  match s.fc.inject with
  | none => s
  | some w =>
    let s := { s with fc := { s.fc with inject := none } }
    (s.setF F.FC_FORCE_CTRL_STATE 2).raiseByRule (wbits w 31 24) (wbits w 23 18) (wbits w 17 6) true (wbit w 5)

/-! ## The host watchdog (R474-R479) -/

/-- Change the watchdog. -/
def State.updWdg (s : State) (f : Wdg → Wdg) : State := { s with wdg := f s.wdg }

/-- The watchdog may run: SAFE or ARMED, not in Dormant nor on the way into it (R474, R483). -/
def State.wdgMayRun (s : State) : Bool :=
  (s.isSafe || s.isArmed) && s.pwr.mode != 4 && s.pwr.handover.isNone

/-- The grid's first swath while it runs. -/
def State.wdgGrid (s : State) : Option Nat := if s.wdgMayRun && s.flag F.WDG_CFG_EN then s.wdg.a0 else none

/-- PERIOD. -/
def State.wdgPeriod (s : State) : Nat := max 1 (s.fld F.WDG_WINDOW_PERIOD)

/-- A watchdog fault with its count (R479). -/
def State.wdgFault (s : State) (f : Fld) (kind lo : Nat) : State := (s.addF f 1).raise 0x31 kind (faultAddr 63 lo)

/-- WDG_KEY with a reason (R477). -/
def State.wdgKeyFault (s : State) (reason : Nat) : State := s.wdgFault F.WDG_COUNTS_KEY kWdgKey reason

/-- WDG_EARLY. -/
def State.wdgEarly (s : State) : State := s.wdgFault F.WDG_COUNTS_EARLY kWdgEarly 63

/-- A service is judged (R475). On a close-edge tick it belongs to the window that closes: the close edge itself raises
the one WDG_LATE of an unserved window. -/
def State.wdgJudge (s : State) : State :=
  match s.wdgGrid with
  | none => s
  | some a =>
    let ph := (s.swath - a) % s.wdgPeriod
    if ph == 0 && decide (a < s.swath) && s.atBoundary then
      let served := match s.wdg.closed with
        | some (t, v) => if t == s.tick then v else s.flag F.WDG_STATUS_SERVED
        | none => s.flag F.WDG_STATUS_SERVED
      if served then s.wdgEarly else s
    else if ph < s.fld F.WDG_WINDOW_OPEN then s.wdgEarly
    else if s.flag F.WDG_STATUS_SERVED then s.wdgEarly
    else (s.setB F.WDG_STATUS_SERVED true).setReg Reg.WDG_LAST s.swath32

/-- The reason of a refused disable sequence (R477): the lock first. -/
def State.disableReason (s : State) : Nat := if s.flag F.WDG_CFG_LOCK then 4 else 3

/-- A word other than 0xB1ED breaks a pending sequence (R477). -/
def State.breakSequence (s : State) : State :=
  if s.wdg.disableTick.isNone then s
  else (((s.updWdg fun x => { x with disableTick := none }).setB F.WDG_STATUS_DISABLE_WAIT false).wdgKeyFault s.disableReason)

/-- An unsealed write to WDG_KICK is dropped where SEALED = 1, with WDG_KEY reason 2 (R476). -/
def State.wdgSealed (s : State) (isSealed : Bool) (f : State → State) : State :=
  if s.flag F.WDG_CFG_SEALED && !isSealed then s.wdgKeyFault 2 else f s

/-- 0x5EED. -/
def State.wdgService (s : State) : State := s.breakSequence.wdgJudge

/-- 0xD15A starts a sequence. -/
def State.wdgStart (s : State) : State :=
  let t := s.tick
  (s.breakSequence.updWdg fun x => { x with disableTick := some t }).setB F.WDG_STATUS_DISABLE_WAIT true

/-- 0xB1ED completes a sequence: disabled at the next boundary, or refused (R477). -/
def State.wdgDisable (s : State) : State :=
  let ok := !s.flag F.WDG_CFG_LOCK && (match s.wdg.disableTick with | some t => decide (s.tick ≤ t + 64) | none => false)
  let r := s.disableReason
  let s := (s.updWdg fun x => { x with disableTick := none }).setB F.WDG_STATUS_DISABLE_WAIT false
  if ok then (s.updWdg fun x => { x with change := some false }).unstamped else s.wdgKeyFault r

/-- 0xE4AB enables at the next boundary. -/
def State.wdgEnable (s : State) : State := (s.breakSequence.updWdg fun x => { x with change := some true }).unstamped

/-- 0x10CC sets WDG_LOCK, which also enables (R477, R478). -/
def State.wdgLock (s : State) : State :=
  ((s.breakSequence.setB F.WDG_CFG_LOCK true).updWdg fun x => { x with change := some true }).unstamped

/-- Any other word. -/
def State.wdgOther (s : State) : State := s.breakSequence.wdgKeyFault 1

/-- A word written to WDG_KICK (R475-R477). -/
def State.wdgKick (s : State) (w : Nat) (isSealed : Bool) : State :=
  s.wdgSealed isSealed fun s =>
    if w == 0x5EED then s.wdgService
    else if w == 0xD15A then s.wdgStart
    else if w == 0xB1ED then s.wdgDisable
    else if w == 0xE4AB then s.wdgEnable
    else if w == 0x10CC then s.wdgLock
    else s.wdgOther

/-- WDG_SERVICE. -/
def execWdgService (isSealed : Bool) (s : State) : Host.Outcome State Fault Refusal :=
  s.hostKey fun s => s.wdgSealed isSealed fun s => s.wdgService
/-- WDG_DISABLE_START. -/
def execWdgDisableStart (isSealed : Bool) (s : State) : Host.Outcome State Fault Refusal :=
  s.hostKey fun s => s.wdgSealed isSealed fun s => s.wdgStart
/-- WDG_DISABLE. -/
def execWdgDisable (isSealed : Bool) (s : State) : Host.Outcome State Fault Refusal :=
  s.hostKey fun s => s.wdgSealed isSealed fun s => s.wdgDisable
/-- WDG_ENABLE. -/
def execWdgEnable (isSealed : Bool) (s : State) : Host.Outcome State Fault Refusal :=
  s.hostKey fun s => s.wdgSealed isSealed fun s => s.wdgEnable
/-- WDG_LOCK. -/
def execWdgLock (isSealed : Bool) (s : State) : Host.Outcome State Fault Refusal :=
  s.hostKey fun s => s.wdgSealed isSealed fun s => s.wdgLock
/-- WDG_KEY: any word that is none of the five (R477). -/
def execWdgKey (w : BitVec 16) (isSealed : Bool) (s : State) : Host.Outcome State Fault Refusal :=
  s.hostKey fun s => s.wdgKick w.toNat isSealed

/-- WDG_DISABLE_TIMEOUT: more than 64 ticks have passed after 0xD15A (R477). -/
def execWdgDisableTimeout (s : State) : Host.Outcome State Fault Refusal :=
  .next <| match s.wdg.disableTick with
    | some t => (s.elapse (t + 65)).breakSequence
    | none => s

/-- At every boundary: a waiting enable or disable takes effect, a grid begins, the window's status follows (R474, R477). -/
def State.wdgBoundary (s : State) : State :=
  let s := match s.wdg.change with
    | some on => (s.updWdg fun x => { x with change := none }).setB F.WDG_CFG_EN (on || s.flag F.WDG_CFG_LOCK)
    | none => s
  if !s.flag F.WDG_CFG_EN then
    (s.updWdg fun x => { x with a0 := none }).setReg Reg.WDG_STATUS
      (BitVec.ofNat 32 (2 ^ 26 * s.fld F.WDG_STATUS_DISABLE_WAIT))
  else if !s.wdgMayRun then s.wdgStop
  else if s.fld F.WDG_WINDOW_PERIOD < 2 then s
  else
    let n := s.swath
    match s.wdg.a0 with
    | none =>
      let s := (s.updWdg fun x => { x with a0 := some n, closed := none }).setF F.WDG_STATUS_STATE 1
      ((s.setB F.WDG_STATUS_SERVED false).setB F.WDG_STATUS_OPENED false).setF F.WDG_STATUS_REMAIN s.wdgPeriod
    | some a =>
      let ph := (n - a) % s.wdgPeriod
      if ph == 0 then s.setF F.WDG_STATUS_REMAIN 0
      else (s.setF F.WDG_STATUS_REMAIN (s.wdgPeriod - ph)).setB F.WDG_STATUS_OPENED (decide (s.fld F.WDG_WINDOW_OPEN ≤ ph))

/-- WDG_CLOSE_EDGE: at B(a_k + PERIOD) the window closes; unserved it raises WDG_LATE at that tick (R475). At the entry boundary of
Dormant the watchdog stops first (R531). -/
def execWdgCloseEdge (s : State) : Host.Outcome State Fault Refusal :=
  .next <| match s.wdgGrid with
    | none => s
    | some a =>
      let again := match s.wdg.closed with | some (t, _) => t == s.tick | none => false
      if !s.atBoundary || s.entersDormant || s.swath ≤ a || (s.swath - a) % s.wdgPeriod != 0 || again then s
      else
        let served := s.flag F.WDG_STATUS_SERVED
        let t := s.tick
        let s := s.updWdg fun x => { x with closed := some (t, served) }
        let s := ((s.setB F.WDG_STATUS_SERVED false).setB F.WDG_STATUS_OPENED false).setF F.WDG_STATUS_REMAIN s.wdgPeriod
        if served then s else s.wdgFault F.WDG_COUNTS_LATE kWdgLate 63

/-! ## Transactions of the host port that end early (R374, R388) -/

/-- A fault of the port: status code in [17:12] (R388). -/
def State.hpFault (s : State) (kind code : Nat) : State := s.raiseOnce srcHP kind (faultAddr code 63)

/-- CRIB_STATUS.STALLED of the Cribs that some pushes wait or waited on (R314). -/
def State.syncStalled (s : State) (held : List HeldWrite) : State :=
  held.foldl (fun (s : State) w => match w.crib with
    | some c => s.setB (F.CRIB_STATUS_STALLED c.val) (s.hp.writes.any fun x => x.crib == some c)
    | none => s) s

/-- The device's seal word of a sealed response has been sent: its alive counter advances (R397). -/
def State.sealSent (s : State) (isSealed : Bool) : State :=
  match isSealed, s.hostUnit with
  | true, some u => s.setF (F.CVU_DEV_ALIVE_VALUE u.val) (s.fld (F.CVU_DEV_ALIVE_VALUE u.val) + 1)
  | _, _ => s

/-- The response of a transaction is ready after the ticks it has waited (R537): frozen or not, those held aside count (R538). -/
def State.countWait (s : State) (n : Nat) : State := s.pcAdd (Reg.PC_HP 6) n

/-- HSEL_N rose before the last bit (R374): counted, and HP_FRAME. It carries code 63: no status was given (DESIGN CHOICE, log
entry 42). -/
def State.cutTx (s : State) : State := ((s.addF F.HP_COUNTS_ABORTED 1).pcHost 0 1).hpFault kHpFrame 63

/-- The entries that a pop has latched are free again (R374). -/
def State.unlatchAll (s : State) (ls : List (Option (CribIx × Word × Nat))) : State :=
  ls.foldl (fun (s : State) l => match l with
    | some (c, _, _) => s.unlatch c
    | none => s) s

/-- HSEL_N rises before completion (R374): nothing of the transaction takes effect, entries latched by a pop are free again; what it
waited for a response that was ready counts (R537). -/
def State.abandonTx (s : State) : State :=
  let s := (s.unlatchAll (s.hp.reads.map (·.latch))).unlatchAll (s.hp.sending.map (·.latch))
  let s := s.hp.sending.foldl (fun (s : State) x => s.countWait x.wait) s
  let held := s.hp.writes
  let s := ({ s with hp := { s.hp with reads := [], sending := [], writes := [] } } : State).syncStalled held
  s.cutTx

end Sys2Proof.Machine
end

