-- ==== Sys2Proof/Machine/Image.lean ====
section
/-!
DEFINITION. Machine/Image.lean: the configuration image (R327-R334): its parts, and its verification in the order of
R339. A verification answers the tables the image holds, or the reason and the place of the first failure.
-/
namespace Sys2Proof.Machine

/-! ## What a verified image holds -/

/-- A register record: section type, word in it, canonical host address, value with its reserved bits at 0. -/
structure Rec where
  type : Nat
  word : Nat
  addr : Nat
  value : Word
  deriving DecidableEq, Repr

/-- A SIGNALS run (R332): class, first index, count; segment and member position, or pair and follower bit. -/
structure Run where
  cls : Nat
  first : Nat
  count : Nat
  seg : Nat := 0
  pos : Nat := 0
  pair : Nat := 0
  foll : Bool := false
  deriving DecidableEq, Repr

/-- The tables of a verified image. -/
structure Tables where
  recs : List Rec := []
  runs : List Run := []
  lists : List Word := []
  descs : List Desc := []
  posWords : List (Nat × Word) := []
  irqClass : Nat := 7
  faults : List Reaction := []
  classes : List ClassEntry := []
  parts : List PartClass := []
  /-- programs of the PAIR sections, by pair -/
  own : List (Nat × CheckedProg) := []
  /-- follower program blocks of a Wide image, by pair -/
  foll : List (Nat × CheckedProg) := []
  deriving DecidableEq, Repr

/-- What verification needs of the device: fused key hash, service key fused, rollback counter, latched mode, lead. -/
structure VEnv where
  keyHash : Option (List Word)
  svcKey : Bool
  rollback : Nat
  mode : Nat
  lead : Bool
  deriving DecidableEq, Repr

/-! ## Registers the image loads (R330, R331) -/

/-- A register the image loads: section, first address, stride, count, second stride and count, defined bits. -/
structure ImgReg where
  type : Nat
  base : Nat
  stride : Nat
  count : Nat
  stride2 : Nat
  count2 : Nat
  mask : Nat
  deriving DecidableEq, Repr

/-- The registers whose description says that the image loads them, under the section R330 assigns them to. The records
of the CVUs stand in HOST, the only section for a block between the port and its checks (log entry 11). -/
def imgRegs : List ImgReg :=
  [ ⟨0x1, 0x00A024, 0, 1, 0, 1, 0xFF0FFFFF⟩, ⟨0x1, 0x00A040, 0, 1, 0, 1, 0x00000FFF⟩, ⟨0x1, 0x00A044, 0, 1, 0, 1, 0x0000FFFF⟩,
    ⟨0x2, 0x010000, 0x400, 16, 0, 1, 0xC00F000F⟩, ⟨0x2, 0x010004, 0x400, 16, 0, 1, 0x8001FFFF⟩,
    ⟨0x2, 0x010008, 0x400, 16, 0, 1, 0xFFFFFFFF⟩, ⟨0x2, 0x01000C, 0x400, 16, 0, 1, 0xFFFFFFFF⟩,
    ⟨0x2, 0x010010, 0x400, 16, 0, 1, 0xFFFFF0FF⟩, ⟨0x2, 0x010014, 0x400, 16, 0, 1, 0xFC00FFFF⟩,
    ⟨0x2, 0x010208, 0x2000, 2, 0, 1, 0xFFFF0000⟩, ⟨0x2, 0x01020C, 0x2000, 2, 0, 1, 0xFFFFFFFF⟩,
    ⟨0x3, 0x00B000, 0x1000, 2, 0, 1, 0x000007FF⟩,
    ⟨0x4, 0x020000, 0x200, 16, 0, 1, 0xFFFFFCFF⟩, ⟨0x4, 0x020100, 0x1000, 2, 0, 1, 0x80FF0001⟩,
    ⟨0x4, 0x028008, 0x1000, 2, 0, 1, 0xFFFF0000⟩, ⟨0x4, 0x028100, 0x1000, 2, 8, 64, 0xFFFFFF00⟩,
    ⟨0x4, 0x028104, 0x1000, 2, 8, 64, 0xFFFFFFFF⟩, ⟨0x4, 0x02A100, 0x40, 16, 0, 1, 0xFFFFE000⟩,
    ⟨0x4, 0x02A104, 0x40, 16, 0, 1, 0x0001FFFF⟩,
    ⟨0x6, 0x030000, 0x40, 32, 0, 1, 0xFFFE000F⟩, ⟨0x6, 0x030004, 0x40, 32, 0, 1, 0x001FFFFF⟩,
    ⟨0x6, 0x030010, 0x40, 32, 0, 1, 0x8001FFFF⟩,
    ⟨0x7, 0x008000, 0, 1, 0, 1, 0x00F0FFFF⟩, ⟨0x7, 0x008100, 0x20, 32, 0, 1, 0xF8003FFF⟩,
    ⟨0x7, 0x008104, 0x20, 32, 0, 1, 0xFFFFFFFF⟩,
    ⟨0x8, 0x007000, 0, 1, 0, 1, 0x00000000⟩, ⟨0x8, 0x007004, 0, 1, 0, 1, 0x0000FFFF⟩,
    ⟨0xA, 0x003000, 0, 1, 0, 1, 0xE0000000⟩, ⟨0xA, 0x003004, 0, 1, 0, 1, 0xFFFFFFFF⟩,
    ⟨0xB, 0x004008, 0, 1, 0, 1, 0xC703FF00⟩, ⟨0xB, 0x00400C, 0, 1, 0, 1, 0xE000FFFF⟩,
    ⟨0xB, 0x004014, 0, 1, 0, 1, 0xF800007F⟩, ⟨0xB, 0x004018, 0, 1, 0, 1, 0xF800007F⟩,
    ⟨0xC, 0x001000, 0, 1, 0, 1, 0x00000007⟩, ⟨0xC, 0x001004, 0, 1, 0, 1, 0x0000FFFF⟩,
    ⟨0xC, 0x001008, 0, 1, 0, 1, 0x00003FFF⟩,
    ⟨0xC, 0x005000, 0x40, 4, 0, 1, 0xFFFF8000⟩, ⟨0xC, 0x005004, 0x40, 4, 0, 1, 0x00FFFFFF⟩,
    ⟨0xC, 0x005008, 0x40, 4, 0, 1, 0x001FFFFF⟩, ⟨0xC, 0x00500C, 0x40, 4, 0, 1, 0x000FFFFF⟩,
    ⟨0xC, 0x005010, 0x40, 4, 0, 1, 0xFFFF0000⟩, ⟨0xC, 0x00501C, 0x40, 4, 0, 1, 0xFFFFFFFF⟩ ]

/-- The addresses of a row. -/
def ImgReg.addrs (r : ImgReg) : List Nat :=
  (List.range r.count).flatMap fun i => (List.range r.count2).map fun k => r.base + r.stride * i + r.stride2 * k

/-- The row of an address under a section. -/
def imgReg? (type a : Nat) : Option ImgReg := imgRegs.find? fun r => r.type == type && r.addrs.contains a

/-- Read register records from word `at_` of a section (R331). -/
def readRecs (type : Nat) : Nat → List Word → List Rec → Check (List Rec)
  | at_, w0 :: w1 :: ws, acc =>
    let a := canonAddr (wbits w0 23 0)
    match imgReg? type a with
    | none => .error ⟨0x0A, type, at_⟩
    | some r =>
      if wbits w0 31 24 != 0 || acc.any (fun x => x.addr == a) then .error ⟨0x0A, type, at_⟩
      else readRecs type (at_ + 2) ws (acc ++ [⟨type, at_, a, w1 &&& BitVec.ofNat 32 r.mask⟩])
  | _, [], acc => .ok acc
  | at_, [_], _ => .error ⟨0x0A, type, at_⟩

/-- The registers as records leave them: what is named, and the reset value of what is not (R331). -/
def regsOf (recs : List Rec) : Sparse Word := recs.foldl (fun m r => Sparse.put regReset m r.addr r.value) []

/-- A state in which nothing but the registers of an image stands: verification reads it through the operations of the
blocks the registers belong to. -/
def scratch (recs : List Rec) : State := { State.reset with regs := regsOf recs }

/-- A rule over a register, placed at its record (R339 step 7). -/
def regRule (recs : List Rec) (type a : Nat) (ok : Bool) : Check Unit :=
  rule ok 0x0A type (((recs.find? fun r => r.addr == a).map (·.word)).getD 0)

/-- Run a check over a list. -/
def checkAll {α : Type} (xs : List α) (f : α → Check Unit) : Check Unit :=
  xs.foldl (fun acc x => match acc with | .ok _ => f x | e => e) (.ok ())

/-! ## TIMEBASE, CHANNELS, BARN_DOOR_MAP -/

/-- Rules of TIMEBASE (R60, R65). -/
def checkTimebase (recs : List Rec) : Check Unit := do
  let s := scratch recs
  regRule recs 0x1 Reg.TB_CONFIG (decide (4 ≤ s.kLen) && decide (s.kLen ≤ 160) && decide (6000 ≤ s.lNom) &&
    decide (s.lNom ≤ 960000))
  regRule recs 0x1 Reg.SYNC_CTRL (decide (s.fld F.SYNC_CTRL_KP_SHIFT ≤ 4) && decide (1 ≤ s.fld F.SYNC_CTRL_KI_SHIFT) &&
    decide (s.fld F.SYNC_CTRL_KI_SHIFT ≤ 8))

/-- Safe-state codes a function takes (R128). -/
def safeCodes (f : Nat) : List Nat :=
  if f == fDO || f == fCOIL then [0, 1, 2]
  else if f == fAOI then [0, 2, 3, 4]
  else if f == fAOV then [0, 2]
  else if f == fLOOP then [0, 1]
  else [0]

/-- Rules of one channel: function, option, thresholds, current limit, diagnostics, safe and night state (R81-R130); `src`
judges its command source, `yoke` is the image's mode. DP_EN on a function without a switch fails: R111 gives dark pulses to DO and
COIL and does not say so (DESIGN CHOICE, log entry 39). -/
def checkChannel (recs : List Rec) (yoke : Nat) (src : Nat → Bool) (c : ChIx) : Check Unit := do
  let s := scratch recs
  let f := s.func c
  let n := c.val
  let opt := s.fld (F.CH_CFG_OPT n)
  regRule recs 0x2 (Reg.CH_CFG n) (decide (f ≤ 9) &&
    (if f == fDI || f == fPULSE then decide (1 ≤ opt) && decide (opt ≤ 3)
     else if f == fAIV then decide (opt ≤ 1) else opt == 0))
  regRule recs 0x2 (Reg.CH_CMD_SRC n) (!s.flag (F.CH_CMD_SRC_EN n) ||
    (s.isOutput c && src (s.fld (F.CH_CMD_SRC_INDEX n))))
  let on := s.fld (F.CH_DI_ON_TH n)
  let off := s.fld (F.CH_DI_OFF_TH n)
  let top := if opt == 1 then 145 else 105
  regRule recs 0x2 (Reg.CH_DI n) (!(f == fDI || f == fPULSE) ||
    (decide (55 ≤ off) && decide (on ≤ top) && decide (off + 10 ≤ on) &&
      (f == fPULSE || decide (1 ≤ s.fld (F.CH_DI_FILT_L n)))))
  let tOvl := s.fld (F.CH_DO_T_OVL n)
  let mode := s.fld (F.CH_DO_OVL_MODE n)
  regRule recs 0x2 (Reg.CH_DO n) ((!(s.isSwitch c || f == fAII || f == fLOOP) ||
      (decide (1 ≤ tOvl) && decide (tOvl ≤ 500))) && decide (mode ≤ 1) &&
    (!s.isSwitch c || (decide (25 ≤ s.fld (F.CH_DO_ILIM n)) && decide (s.fld (F.CH_DO_ILIM n) ≤ 250) &&
      (mode == 0 || (decide (1 ≤ s.fld (F.CH_DO_RETRY_MAX n)) && decide (1 ≤ s.fld (F.CH_DO_RETRY_BASE n)) &&
        decide (s.fld (F.CH_DO_RETRY_BASE n) ≤ 100))))))
  let width := s.fld (F.CH_DIAG_DP_WIDTH n)
  let tests := s.flag (F.CH_DIAG_OW_ON_EN n) || s.flag (F.CH_DIAG_OW_OFF_EN n) || s.flag (F.CH_DIAG_SVF_EN n)
  regRule recs 0x2 (Reg.CH_DIAG n) ((!tests || decide (1 ≤ s.fld (F.CH_DIAG_OW_TIME n))) &&
    (!s.flag (F.CH_DIAG_DP_EN n) || (s.isSwitch c && decide (5 ≤ width) && decide (width ≤ 100))))
  let safe := s.fld (F.CH_SAFE_SAFE n)
  let night := s.fld (F.CH_SAFE_NIGHT n)
  regRule recs 0x2 (Reg.CH_SAFE n) ((safeCodes f).contains safe && (safeCodes f).contains night && night != 2 &&
    (safe != 2 || decide (1 ≤ s.fld (F.CH_SAFE_HOLD_MS n))) &&
    !(yoke == 2 && s.flag (F.CH_CFG_SAFETY n) && safe == 1) &&
    !(yoke == 3 && (f == fAOV || (s.isOutput c && (safe != 0 || night != 0)))))

/-- The channels that have dark pulses. -/
def dpChannels (s : State) : List ChIx := allCh.filter fun c => s.flag (F.CH_DIAG_DP_EN c.val)

/-- The dark-pulse schedule (R112, R447): of an image in which some channel has dark pulses. -/
def checkDarkPulses (recs : List Rec) (yoke : Nat) : Check Unit := do
  let s := scratch recs
  let cs := dpChannels s
  let per := s.fld (F.FH_DP_DP_PERIOD 0)
  let gap := s.fld (F.FH_DP_DP_GAP 0)
  let slots := cs.map fun c => s.fld (F.CH_DIAG_DP_SLOT c.val)
  regRule recs 0x2 (Reg.FH_DP 0) (cs.isEmpty || (s.reg (Reg.FH_DP 0) == s.reg (Reg.FH_DP 1) && decide (1 ≤ gap) &&
    decide (48000000 ≤ per * s.lNom) && decide (per * s.lNom ≤ 2880000000) && decide (32 * gap ≤ per)))
  checkAll cs fun c =>
    let slot := s.fld (F.CH_DIAG_DP_SLOT c.val)
    regRule recs 0x2 (Reg.CH_DIAG c.val)
      (decide ((2496 + 480 * s.fld (F.CH_DIAG_DP_WIDTH c.val) + 4800) * 80 ≤ 67 * gap * s.lNom) &&
        (slots.filter (· == slot)).length == 1 && !(yoke != 0 && slots.contains ((slot + 16) % 32)))

/-- Rules of a half: group driver, feedback channel and time, link timeout (R125, R126, R214). -/
def checkHalf (recs : List Rec) (h : HalfIx) : Check Unit := do
  let s := scratch recs
  let fb := s.fld (F.FH_CFG_FB_CH h.val)
  let time := s.fld (F.FH_CFG_FB_TIME h.val)
  let mode := s.fld (F.FH_CFG_GDRV_MODE h.val)
  regRule recs 0x2 (Reg.FH_CFG h.val) (mode != 3 && (decide (fb < 16) || fb == 31) &&
    (mode == 0 || fb == 31 || (decide (1 ≤ time) && decide (time ≤ 50))))
  let t := s.fld (F.BD_CFG_TIMEOUT h.val)
  regRule recs 0x3 (Reg.BD_CFG h.val) (decide (3 ≤ t) && decide (t ≤ 1024))

/-! ## THRESHER -/

/-- The half carries a sequencer table in the image (R182). -/
def hasSeqTable (recs : List Rec) (h : HalfIx) : Bool :=
  recs.any fun r => r.addr == Reg.SEQ_CFG h.val ||
    (List.range 64).any fun e => r.addr == Reg.SEQ_TABLE_W0 h.val e || r.addr == Reg.SEQ_TABLE_W1 h.val e

/-- The registers of the default background table of a half (R182). -/
def defaultSeq (h : HalfIx) : List Rec :=
  ⟨0x4, 0, Reg.SEQ_CFG h.val, 0x10100000#32⟩ :: (List.range 8).flatMap fun c =>
    [⟨0x4, 0, Reg.SEQ_TABLE_W0 h.val (2 * c), BitVec.ofNat 32 (1 * 2 ^ 28 + c * 2 ^ 24 + 1 * 2 ^ 8)⟩,
     ⟨0x4, 0, Reg.SEQ_TABLE_W0 h.val (2 * c + 1), BitVec.ofNat 32 (4 * 2 ^ 28 + c * 2 ^ 16 + 1 * 2 ^ 8)⟩,
     ⟨0x4, 0, Reg.SEQ_TABLE_W1 h.val (2 * c + 1), 42240000#32⟩]

/-- Rules of a sequencer table (R186). -/
def checkSeq (recs : List Rec) (bench : Bool) (h : HalfIx) : Check Unit := do
  let s := scratch recs
  let len := s.fld (F.SEQ_CFG_LEN h.val)
  let bg := s.fld (F.SEQ_CFG_BG_LEN h.val)
  regRule recs 0x4 (Reg.SEQ_CFG h.val) (decide (1 ≤ len) && decide (len ≤ 64) && decide (1 ≤ bg) && decide (bg ≤ len))
  checkAll (List.range len) fun e =>
    let w := s.seqW0 h e
    regRule recs 0x4 (Reg.SEQ_TABLE_W0 h.val e) (decide (wbits w 31 28 ≤ 5) && decide (1 ≤ wbits w 15 8) &&
      (wbits w 31 28 != 4 || decide (wbits w 23 16 ≤ 7)) && (!wbit w 27 || bench))
  regRule recs 0x4 (Reg.SEQ_CFG h.val) ((chOf h).all fun c => s.func c == fOFF ||
    (List.range bg).any fun e => s.seqOp h e == 1 && s.seqCh h e == c)

/-- Rules of THRESHER: periods, fingerprints, reference mode (R154, R158, R194, R197). FP_CFG.EN on a channel that is no COIL fails
(DESIGN CHOICE, log entry 89). -/
def checkThresher (recs : List Rec) : Check Unit := do
  let s := scratch recs
  checkAll allCh fun c => do
    regRule recs 0x4 (Reg.THR_WIN c.val) (decide (1 ≤ s.fld (F.THR_WIN_PERIOD_N c.val)))
    regRule recs 0x4 (Reg.FP_CFG c.val) (s.fld (F.FP_CFG_TSRC c.val) != 3 && (!s.flag (F.FP_CFG_EN c.val) ||
      (s.func c == fCOIL && decide (1 ≤ s.fld (F.FP_CFG_HOLD_DELAY c.val)) && decide (1 ≤ s.fld (F.FP_CFG_DIP_H c.val)))))
  checkAll allHalves fun h =>
    regRule recs 0x4 (Reg.THR_REF h.val) (!s.flag (F.THR_REF_LEAN h.val) ||
      (decide (1 ≤ s.fld (F.THR_REF_M h.val)) && decide (((chOf h).filter fun c => s.isAi c).length ≤ 2)))

/-! ## SIGNALS and the exchange list -/

/-- One SIGNALS run record (R332), none where it breaks its layout. -/
def readRun (wide : Bool) (w0 w1 : Word) : Option Run :=
  let cls := wbits w0 31 29
  let first := wbits w0 16 0
  let count := wbits w1 16 0
  let r : Run := { cls := cls, first := first, count := count }
  let ok := wbits w0 28 17 == 0 && decide (256 ≤ first) && !wbit w1 31 && !wbit w1 25 && decide (1 ≤ count) &&
    decide (count ≤ 130816) && decide (first + count ≤ 131072)
  if !ok then none
  else if cls == 4 then
    if count == 16 && first % 16 == 0 && decide (1 ≤ wbits w1 24 17) then
      some { r with seg := wbits w1 30 26, pos := wbits w1 24 17 } else none
  else if cls == 5 then if wbits w1 30 26 == 0 && wbits w1 24 17 == 0 then some r else none
  else if cls == 6 then
    if wbits w1 30 29 == 0 && wbits w1 24 17 == 0 && (wide || !wbit w1 28) then
      some { r with pair := wbits w1 27 26, foll := wbit w1 28 } else none
  else none

/-- Read the SIGNALS section. -/
def readRuns (wide : Bool) : Nat → List Word → Check (List Run)
  | at_, w0 :: w1 :: ws => match readRun wide w0 w1 with
    | none => .error ⟨0x0A, 0x5, at_⟩
    | some r => match readRuns wide (at_ + 2) ws with
      | .ok rs => .ok (r :: rs)
      | e => e
  | _, [] => .ok []
  | at_, [_] => .error ⟨0x0A, 0x5, at_⟩

/-- Two spans of indices share one. -/
def spansMeet (a b : Nat × Nat) : Bool := decide (a.1 < b.1 + b.2) && decide (b.1 < a.1 + a.2)

/-- No two spans of a list meet. -/
def apart : List (Nat × Nat) → Bool
  | [] => true
  | x :: xs => !xs.any (spansMeet x) && apart xs

/-- No two equal elements. -/
def distinct {α : Type} [BEq α] : List α → Bool
  | [] => true
  | x :: xs => !xs.contains x && distinct xs

/-- Rules of the signal index allocation (R42, R332, R435). -/
def checkRuns (runs : List Run) (lists : List Word) : Check Unit := do
  let dests := lists.map listDest
  rule (lists.all fun w => decide (256 ≤ (listDest w).1) && decide ((listDest w).1 + (listDest w).2 ≤ 131072) &&
    decide ((listSource w).1 + (listSource w).2 ≤ 131072)) 0x0A 0x8 4
  rule (apart (runs.map (fun r => (r.first, r.count)) ++ dests)) 0x0A 0x5 0
  rule (distinct ((runs.filter fun r => r.cls == 4).map fun r => (r.seg, r.pos))) 0x0A 0x5 0

/-- The run that holds an index. -/
def runAt (runs : List Run) (i : Nat) : Option Run :=
  runs.find? fun r => decide (r.first ≤ i) && decide (i < r.first + r.count)

/-- A run whose entries this device's partner produces: in Wide the other device's derived runs, and at the follower the
host command runs (R443). -/
def Run.foreign (r : Run) (yoke : Nat) (lead : Bool) : Bool :=
  yoke == 1 && (if lead then r.cls == 6 && r.foll else r.cls == 5 || (r.cls == 6 && !r.foll))

/-- Source class of an entry under the image, at the lead or the follower (R41, R43, R443). -/
def classOf (yoke : Nat) (lead : Bool) (runs : List Run) (lists : List Word) (i : Nat) : Nat :=
  if i < 16 then 1
  else if i < 32 then (if yoke == 0 then 0 else 2)
  else if i ≤ 48 then 3
  else if 64 ≤ i && i < 68 then 6
  else match runAt runs i with
    | some r => if r.foreign yoke lead then 2 else r.cls
    | none => if (lists.map listDest).any (fun d => decide (d.1 ≤ i) && decide (i < d.1 + d.2)) then 2 else 0

/-! ## CRIBS -/

/-- Rules of one Crib (R312, R334); `hasPair` says which pairs have a program. -/
def checkCrib (recs : List Rec) (hasPair : Nat → Bool) (c : CribIx) : Check Unit := do
  let s := scratch recs
  let n := c.val
  let prod := s.fld (F.CRIB_CFG_PRODUCER n)
  let cons := s.fld (F.CRIB_CFG_CONSUMER n)
  let pol := s.fld (F.CRIB_CFG_POLICY n)
  let esz := s.flag (F.CRIB_CFG_ESZ n)
  let k := s.fld (F.CRIB_CFG_LOG2N n)
  let base := s.fld (F.CRIB_BASE_BASE n)
  let pairs := s.fld (F.CRIB_CFG_PAIRS n)
  let bytes := s.ringSize n * (4 * s.entryWords n)
  let kind :=
    if n == 0 then prod == 0 && cons == 0 && !esz && decide (pol ≤ 1)
    else if n == 1 then prod == 1 && cons == 0 && decide (pol ≤ 2)
    else if n == 2 then prod == 2 && cons == 0 && esz && decide (pol ≤ 2)
    else if n == 3 then prod == 3 && cons == 0 && !esz && decide (pol ≤ 2)
    else if n < 8 then prod == 4 && cons == 0 && esz && decide (pol ≤ 2)
    else if prod == 1 then cons == 0 && decide (pol ≤ 2) && pairs != 0 &&
      (List.range 4).all fun p => !pairs.testBit p || hasPair p
    else prod == 5 && (cons == 1 || cons == 2)
  let en := s.flag (F.CRIB_CFG_EN n)
  regRule recs 0x6 (Reg.CRIB_CFG n) (decide (prod ≤ 5) && cons != 3 && (en || n != 0) &&
    (!en || (kind && decide (4 ≤ k) && decide (k ≤ 16))))
  regRule recs 0x6 (Reg.CRIB_BASE n) (!en || (base % bytes == 0 && decide (base + bytes ≤ 0x200000)))
  regRule recs 0x6 (Reg.CRIB_WMARK n) (!recs.any (fun r => r.addr == Reg.CRIB_WMARK n) ||
    (decide (1 ≤ s.fld (F.CRIB_WMARK_WMARK n)) && decide (s.fld (F.CRIB_WMARK_WMARK n) ≤ 2 ^ k)))

/-- Rings that stand in the Loft do not overlap (R312). -/
def checkRings (recs : List Rec) : Check Unit :=
  let s := scratch recs
  rule (apart ((allCribs.filter fun c => s.flag (F.CRIB_CFG_EN c.val)).map fun c =>
    (s.fld (F.CRIB_BASE_BASE c.val), s.ringSize c.val * (4 * s.entryWords c.val)))) 0x0A 0x6 0

/-- Entry size in words of a Crib that lists a pair as producer, 0 for any other (R278, R312). -/
def emitWords (recs : List Rec) (p k : Nat) : Nat :=
  let s := scratch recs
  if s.flag (F.CRIB_CFG_EN k) && (k == 1 || (decide (8 ≤ k) && s.fld (F.CRIB_CFG_PRODUCER k) == 1 &&
      (s.fld (F.CRIB_CFG_PAIRS k)).testBit p)) then s.entryWords k else 0

/-! ## GLEANER -/

/-- Read descriptors (R416). -/
def readDescs : Nat → Nat → List Word → Check (List Desc × List Word)
  | 0, _, ws => .ok ([], ws)
  | n + 1, at_, ws => do
    let w0 := ws.getD 0 0#32
    let w1 := ws.getD 1 0#32
    let c := wbits w0 7 0
    let cmds := (ws.drop 2).take c
    rule (decide (2 + c ≤ ws.length) && decide (1 ≤ wbits w0 31 24) && decide (1 ≤ wbits w0 15 8) &&
      decide (wbits w0 15 8 ≤ wbits w0 23 16) && decide (c ≤ 254) && wbits w1 31 5 == 0 && decide (wbits w1 4 0 ≤ 16) &&
      cmds.all fun w => wbits w 31 17 == 0) 0x0A 0x7 at_
    let (ds, rest) ← readDescs n (at_ + 2 + c) (ws.drop (2 + c))
    pure ({ cls := wbits w0 31 24, layout := wbits w0 23 16, compat := wbits w0 15 8,
            cmds := cmds.map fun w => wbits w 16 0, vals := wbits w1 4 0 } :: ds, rest)

/-- No two descriptors of one class accept one layout (R416). -/
def descsApart : List Desc → Bool
  | [] => true
  | d :: ds => !ds.any (fun e => e.cls == d.cls && decide (d.compat ≤ e.layout) && decide (e.compat ≤ d.layout)) &&
    descsApart ds

/-- Payload bits a descriptor needs (R416). -/
def Desc.bits (d : Desc) : Nat := max (32 * d.cmds.length) (32 * (d.vals + (d.vals + 1) / 2 + 1))

/-- Read the position words of the enabled segments (R416, R425). -/
def readPositions : List (Nat × Nat) → Nat → List Word → Check (List (Nat × Word) × List Word)
  | [], _, ws => .ok ([], ws)
  | (k, n) :: segs, at_, ws => do
    let ps := ws.take n
    rule (ps.length == n && ps.all fun w => wbits w 15 0 == 0 && (wbits w 31 24 != 0 || wbits w 23 16 == 0)) 0x0A 0x7 at_
    let (more, rest) ← readPositions segs (at_ + n) (ws.drop n)
    pure (ps.mapIdx (fun j w => (k * 256 + j + 1, w)) ++ more, rest)

/-- The parts of the GLEANER section. -/
def readGleaner (ws : List Word) : Check (List Rec × List Desc × List (Nat × Word)) := do
  let r := (ws.getD 0 0#32).toNat
  rule (decide (1 + 2 * r < ws.length)) 0x0A 0x7 0
  let recs ← readRecs 0x7 1 ((ws.drop 1).take (2 * r)) []
  let rest := ws.drop (1 + 2 * r)
  let d := (rest.getD 0 0#32).toNat
  rule (decide (1 ≤ d) && decide (d ≤ 128)) 0x0A 0x7 (1 + 2 * r)
  let (descs, rest) ← readDescs d (2 + 2 * r) (rest.drop 1)
  let s := scratch recs
  let segs := (List.range 32).filter fun k => s.flag (F.GLN_SEG_CFG_EN k)
  let (pos, rest) ← readPositions (segs.map fun k => (k, s.segN k)) (ws.length - rest.length) rest
  rule rest.isEmpty 0x0A 0x7 (ws.length - rest.length)
  pure (recs, descs, pos)

/-- The least code of DIV that keeps GCLK within the limit of a lane mode (R348, R406): 50, 60 and 120 MHz. The limit of x4 DDR at
VIO 3.3 V is no property of the image and is left to the host (DEDUCED, log entry 36). -/
def hclkLeast (lane : Nat) : Nat := match lane with | 0 => 2 | 1 => 1 | _ => 0

/-- Rules of the segments and of the schedule (R348, R380, R406, R410, R416). -/
def checkGleaner (recs : List Rec) (descs : List Desc) (pos : List (Nat × Word)) : Check Unit := do
  let s := scratch recs
  regRule recs 0x7 Reg.GLN_CFG (decide (1 ≤ s.fld F.GLN_CFG_LOST_N))
  rule (descsApart descs) 0x0A 0x7 0
  let segs := (List.range 32).filter fun k => s.flag (F.GLN_SEG_CFG_EN k)
  checkAll (List.range 32) fun k =>
    regRule recs 0x7 (Reg.GLN_SEG_CFG k) (s.fld (F.GLN_SEG_CFG_LANE k) != 3)
  checkAll segs fun k => do
    let hlen := s.segHlen k
    let lane := s.fld (F.GLN_SEG_CFG_LANE k)
    let words := (pos.filter fun x => x.1 / 256 == k).map (·.2)
    let flashless := words.any fun w => wbits w 31 24 != 0
    regRule recs 0x7 (Reg.GLN_SEG_CFG k) (decide (64 ≤ hlen) && decide (hlen ≤ 8192) && hlen % s.segB k == 0 &&
      (!flashless || (lane == 2 && hlen == 1024)) &&
      descs.all fun d => !words.any (fun w => wbits w 31 24 == d.cls) || decide (d.bits ≤ hlen - 64))
    regRule recs 0x7 (Reg.GLN_SEG_CFG k) (decide (hclkLeast lane ≤ s.fld (F.GLN_SEG_CFG_DIV k)))
    regRule recs 0x7 (Reg.GLN_SEG_SCHED k) (decide (1 ≤ s.segN k) && decide (s.segPhase k < s.segP k))
  rule (decide (segs.foldl (fun a k => a + s.segN k * s.segHlen k) 0 ≤ 8 * 0x100000)) 0x0A 0x7 0
  let cycle := segs.foldl (fun a k => Nat.lcm a (s.segP k)) 1
  rule (decide (cycle ≤ 65536)) 0x0A 0x7 0
  let limit := 67 * s.lNom / 80
  rule ((List.range cycle).all fun i =>
    let n := cycle + i
    segs.all fun k => (!s.scanDue k n || decide (s.scanStart k n + s.scanSlot k ≤ limit)) &&
      (!s.foldsAt k n || decide (s.foldEnd k n ≤ limit))) 0x0A 0x7 0

/-! ## YOKE -/

/-- The parts of the YOKE section (R435): its two records, the exchange list, and the words of the follower blocks. -/
def readYoke (ws : List Word) : Check (List Rec × List Word × List Word) := do
  rule (decide (5 ≤ ws.length)) 0x0A 0x8 0
  let recs ← readRecs 0x8 0 (ws.take 4) []
  let e := (ws.getD 4 0#32).toNat
  rule (decide (e ≤ 64) && decide (5 + e ≤ ws.length)) 0x0A 0x8 4
  pure (recs, (ws.drop 5).take e, ws.drop (5 + e))

/-- Read up to four follower program blocks (R435). -/
def readBlocks : Nat → Nat → Nat → List Word → Check (List (Nat × RawProg))
  | _, _, _, [] => .ok []
  | 0, _, at_, _ :: _ => .error ⟨0x0A, 0x8, at_⟩
  | n + 1, p, at_, ws => do
    let (r, rest) ← readProg 0x8 at_ ws
    let more ← readBlocks n (p + 1) (at_ + (ws.length - rest.length)) rest
    pure ((p, r) :: more)

/-- Rules of YK_DISC (Mirror and Stand-in). -/
def checkYoke (recs : List Rec) (yoke : Nat) : Check Unit :=
  let s := scratch recs
  regRule recs 0x8 Reg.YK_DISC (!(yoke == 2 || yoke == 3) || decide (1 ≤ s.fld F.YK_DISC_IN_DISC))

/-- The runs of a Wide image that travel without a list entry, in SIGNALS order: those this device sends, and those it
receives (R443). -/
def wideRuns (yoke : Nat) (lead : Bool) (runs : List Run) : List Run × List Run :=
  if yoke == 1 then
    ((runs.filter fun r => r.foreign 1 (!lead) && !r.foreign 1 lead), runs.filter fun r => r.foreign 1 lead)
  else ([], [])

/-- Words of the largest block of one device (R441): header, channel image, output CRC, lists, automatic runs, and for a Wide follower
the registers of R443, address and value of each (log entry 10), for all of them may have changed. -/
def blockSize (yoke : Nat) (lead : Bool) (runs : List Run) (lists : List Word) : Nat :=
  let regs := if yoke == 1 && !lead then 2 * shownCount else 0
  let listed := lists.foldl (fun n w => n + 2 * (listSource w).2) 0
  let auto := (wideRuns yoke lead runs).1.foldl (fun n r => n + 2 * r.count) 0
  3 + 16 * 6 + 1 + listed + auto + regs

/-- The largest block of either device fits the frames of a swath (R441; log entry 36). -/
def checkBlock (lNom yoke : Nat) (runs : List Run) (lists : List Word) : Check Unit :=
  rule (yoke == 0 || [true, false].all fun lead => decide (blockSize yoke lead runs lists ≤ 44 * (67 * lNom / (80 * 192) - 3)))
    0x0A 0x8 4

/-! ## FAULTS (R469) -/

/-- A kind whose reaction can target channels (R464). -/
def hasTargets (src kind : Nat) : Bool :=
  if src == 0x10 || src == 0x11 then decide (kind < 0x10)
  else if src == 0x18 || src == 0x19 then kind != kRefDrift && kind != kFieldReg
  else if 0x20 ≤ src && src ≤ 0x23 then true
  else src == srcYK && (kind == kYokeDisc || kind == kStandinRb || kind == kStandinTest)

/-- Read the entries of the reaction table; `yoke` chooses the minimum of a kind. -/
def readFaults (yoke : Nat) : Nat → List Word → List Reaction → Check (List Reaction)
  | _, [], acc => .ok acc
  | at_, w :: ws, acc => do
    let src := wbits w 31 24
    let kind := wbits w 23 18
    let cls := wbits w 2 0
    let auto := wbit w 4
    let ok := match kindRow? src kind with
      | none => false
      | some r => decide ((if yoke == 2 then r.minMirror else r.minc) ≤ cls)
    rule (ok && !(decide (0x24 ≤ src) && decide (src ≤ 0x27)) && wbits w 17 5 == 0 && !wbit w 3 && decide (cls ≤ 5) &&
      !acc.any (fun x => x.src == src && x.kind == kind) && !(auto && decide (4 ≤ cls)) &&
      (cls != clsCHANNEL || hasTargets src kind)) 0x0A 0x9 at_
    readFaults yoke (at_ + 1) ws (acc ++ [⟨src, kind, auto, cls⟩])

/-- The parts of the FAULTS section. -/
def readFaultSection (yoke : Nat) (ws : List Word) : Check (Nat × List Reaction) := do
  let h := ws.getD 0 0#32
  rule (decide (wbits h 31 16 ≤ 512) && ws.length == 1 + wbits h 31 16 && wbits h 15 3 == 0) 0x0A 0x9 0
  let es ← readFaults yoke 1 (ws.drop 1) []
  pure (wbits h 2 0, es)

/-! ## WATCHDOG, POWER, HOST, SERVICE, CLASSES -/

/-- Rules of WATCHDOG and POWER (R474, PWR_CFG, PWR_WAKE_CFG). -/
def checkWatchPower (recs : List Rec) : Check Unit := do
  let s := scratch recs
  regRule recs 0xA Reg.WDG_WINDOW (decide (2 ≤ s.fld F.WDG_WINDOW_PERIOD) && decide (1 ≤ s.fld F.WDG_WINDOW_OPEN) &&
    decide (s.fld F.WDG_WINDOW_OPEN < s.fld F.WDG_WINDOW_PERIOD))
  let rp := s.fld F.PWR_CFG_REQ_PAIR
  regRule recs 0xB Reg.PWR_CFG (decide (rp ≤ 3) || rp == 7)
  regRule recs 0xB Reg.PWR_WAKE_CFG (allCh.all fun c => !(s.fld F.PWR_WAKE_CFG_DI).testBit c.val || s.func c == fDI)

/-- Rules of one check-value unit (R392, R395, R399). -/
def checkUnit (recs : List Rec) (u : UnitIx) : Check Unit := do
  let s := scratch recs
  let n := u.val
  let a := s.cvuStart u
  let len := s.cvuLength u
  let inArea (lo hi : Nat) : Bool := decide (lo ≤ a) && decide (a + len ≤ hi)
  let scan := s.fld (F.CVU_CFG_MODE n) == 1
  regRule recs 0xC (Reg.CVU_LENGTH n) (!scan || (len % 4 == 0 && decide (8 ≤ len) && decide (len ≤ 1048576)))
  regRule recs 0xC (Reg.CVU_START n) (!scan || (a % 4 == 0 &&
    (inArea 0x800000 0xC00000 || inArea loftBase 0xE00000 || inArea generalBase 0x1000000)))
  let per := s.fld (F.CVU_TIMING_PERIOD n)
  regRule recs 0xC (Reg.CVU_TIMING n) (!scan || per == 0 || decide (cvuDelay len s.lNom ≤ per))
  let snoop := s.fld (F.CVU_CFG_MODE n) == 3
  regRule recs 0xC (Reg.CVU_CFG n) (!snoop || s.fld (F.CVU_CFG_POS n) != 0)
  regRule recs 0xC (Reg.CVU_ALIVE_OFF n) (!snoop ||
    (s.cvuAliveOff u % 8 == 0 && decide (s.cvuAliveOff u + 16 + 64 ≤ s.segHlen (s.fld (F.CVU_CFG_SEG n)))))

/-- Rules of HOST (R348, R355, R380, R390). -/
def checkHost (recs : List Rec) (member : Bool) : Check Unit := do
  let s := scratch recs
  let lane := s.fld F.HP_CFG_LANE
  regRule recs 0xC Reg.HP_CFG (lane != 3)
  regRule recs 0xC Reg.HP_BUSY_LIMIT (s.fld F.HP_BUSY_LIMIT_LIMIT != 0)
  let hlen := s.fld F.HP_HLEN_HLEN
  let step := match lane with | 0 => 1 | 1 => 2 | _ => 8
  regRule recs 0xC Reg.HP_HLEN (!member || (decide (64 ≤ hlen) && decide (hlen ≤ 8192) && hlen % step == 0))
  rule (decide ((allUnits.filter fun u => s.fld (F.CVU_CFG_MODE u.val) == 2).length ≤ 1)) 0x0A 0xC 0
  checkAll allUnits (checkUnit recs)

/-- Read the class entries of SERVICE (R490). -/
def readParts : Nat → List Word → Check (List PartClass)
  | at_, a :: b :: c :: d :: e :: f :: g :: h :: ws =>
    if c == 0#32 || d.toNat < 16 || 64 < d.toNat || g != 0#32 || h != 0#32 then .error ⟨0x0A, 0xD, at_⟩
    else match readParts (at_ + 8) ws with
      | .ok more => .ok ({ nMech := a.toNat, nElec := b.toNat, iRated := c.toNat, e := d.toNat, tLim := e.toNat,
                           warnOps := f.toNat } :: more)
      | x => x
  | _, [] => .ok []
  | at_, _ => .error ⟨0x0A, 0xD, at_⟩

/-- Read the entries of CLASSES (R333). -/
def readClasses : Nat → Nat → List Word → Check (List ClassEntry)
  | _, _, [] => .ok []
  | 0, at_, _ => .error ⟨0x0A, 0xE, at_⟩
  | n + 1, at_, ws => do
    let w (i : Nat) : Word := ws.getD i 0#32
    let off := (w 1).toNat
    let len := (w 2).toNat
    rule (decide (12 ≤ ws.length) && wbits (w 0) 7 0 == 0 && decide (1 ≤ wbits (w 0) 31 24) &&
      decide (1 ≤ wbits (w 0) 15 8) && decide (wbits (w 0) 15 8 ≤ wbits (w 0) 23 16) && off % 0x10000 == 0 &&
      decide (0x100000 ≤ off) && decide (len ≤ 0x100000) && decide (off + len ≤ 0x400000) && w 3 == 0#32) 0x0A 0xE at_
    let more ← readClasses n (at_ + 12) (ws.drop 12)
    pure ({ cls := wbits (w 0) 31 24, layout := wbits (w 0) 23 16, compat := wbits (w 0) 15 8, offset := off,
            length := len, digest := (ws.drop 4).take 8 } :: more)

/-! ## Step 7 and step 8: the sections against the rules of this manual -/

/-- Header fields the rules need: Yoke mode, member role, bench only; this device's role as lead, and strap MODE = 01. -/
structure Role where
  yoke : Nat
  member : Bool
  bench : Bool
  lead : Bool
  flashless : Bool := false
  deriving DecidableEq, Repr

/-- The words of a section, by type. -/
def secWords (secs : List (Nat × List Word)) (type : Nat) : List Word :=
  ((secs.find? fun x => x.1 == type).map (·.2)).getD []

/-- Is a section present? -/
def hasSec (secs : List (Nat × List Word)) (type : Nat) : Bool := secs.any fun x => x.1 == type

/-- Programs of the PAIR sections (R334): LENGTH is the exact sum of the parts. -/
def readPairs (secs : List (Nat × List Word)) : List Nat → Check (List (Nat × RawProg))
  | [] => .ok []
  | p :: ps => do
    let more ← readPairs secs ps
    if hasSec secs (0x10 + p) then
      let (r, rest) ← readProg (0x10 + p) 0 (secWords secs (0x10 + p))
      rule rest.isEmpty 0x0A (0x10 + p) ((secWords secs (0x10 + p)).length - rest.length)
      pure ((p, r) :: more)
    else pure more

/-- Check a list of programs of one device (lead or follower) and keep their figures. -/
def checkPrograms (env : Nat → ProgEnv) (type : Nat → Nat) :
    List (Nat × RawProg) → Check (List (Nat × RawProg × CheckedProg))
  | [] => .ok []
  | (p, r) :: rs => do
    let (c, _) ← checkProg (env p) (type p) r
    let more ← checkPrograms env type rs
    pure ((p, r, c) :: more)

/-- An HP_CFG that the image does not name keeps its reset value, which with MODE = 01 has LANE 2 (R331, R379). -/
def resetHpCfg (flashless : Bool) (recs : List Rec) : List Rec :=
  if flashless && !recs.any (fun r => r.addr == Reg.HP_CFG) then [⟨0xC, 0, Reg.HP_CFG, 2#32⟩] else []

/-- The sections against every rule (R339 steps 7 and 8), budgets at a given level (none: the image's).
DESIGN CHOICE (log entry 35): the spec does not say which chain role an image has that sets MEMBER and holds a Gleaner schedule
(R35) while MODE is not 01; it is accepted, and the device takes both. -/
def verifySections (ro : Role) (secs : List (Nat × List Word)) (level : Option Nat) : Check Tables := do
  let wide := ro.yoke == 1
  let r1 ← readRecs 0x1 0 (secWords secs 0x1) []
  let r2 ← readRecs 0x2 0 (secWords secs 0x2) []
  let r3 ← readRecs 0x3 0 (secWords secs 0x3) []
  let r4 ← readRecs 0x4 0 (secWords secs 0x4) []
  let r4 := r4 ++ (allHalves.filter fun h => !hasSeqTable r4 h).flatMap defaultSeq
  let runs ← readRuns wide 0 (secWords secs 0x5)
  let r6 ← readRecs 0x6 0 (secWords secs 0x6) []
  let (r7, descs, pos) ← if hasSec secs 0x7 then readGleaner (secWords secs 0x7) else pure ([], [], [])
  let (r8, lists, blocks) ← if hasSec secs 0x8 then readYoke (secWords secs 0x8) else pure ([], [], [])
  let (irq, faults) ← readFaultSection ro.yoke (secWords secs 0x9)
  let rA ← readRecs 0xA 0 (secWords secs 0xA) []
  let rB ← readRecs 0xB 0 (secWords secs 0xB) []
  let rC ← readRecs 0xC 0 (secWords secs 0xC) []
  let rC := rC ++ resetHpCfg ro.flashless rC
  let parts ← readParts 0 (secWords secs 0xD)
  rule (decide (parts.length ≤ 32)) 0x0A 0xD 256
  let classes ← readClasses 64 0 (secWords secs 0xE)
  rule (distinct (classes.map fun c => (c.cls, c.layout))) 0x0A 0xE 0
  let recs := r1 ++ r2 ++ r3 ++ r4 ++ r6 ++ r7 ++ r8 ++ rA ++ rB ++ rC
  rule (wide || blocks.isEmpty) 0x0A 0x8 (5 + lists.length)
  rule (!(ro.member && ro.yoke != 0)) 0x0A 0 4
  rule (!(wide && !ro.lead && hasSec secs 0x7)) 0x0A 0x7 0
  checkTimebase recs
  checkRuns runs lists
  let raw ← readPairs secs [0, 1, 2, 3]
  let rawF ← readBlocks 4 0 (5 + lists.length) blocks
  let has (foll : Bool) (p : Nat) : Bool := (if foll then rawF else raw).any fun x => x.1 == p
  let orphan (foll : Bool) (i : Nat) : Bool :=
    if 64 ≤ i && i < 68 then !has foll (i - 64)
    else match runAt runs i with
      | some r => r.cls == 6 && !has r.foll r.pair
      | none => false
  let source (i : Nat) : Bool := decide (256 ≤ i) && (match runAt runs i with
    | some r => r.cls == 5 || r.cls == 6
    | none => false) && !orphan false i
  checkAll allCh (checkChannel recs ro.yoke source)
  checkDarkPulses recs ro.yoke
  checkAll allHalves (checkHalf recs)
  checkThresher recs
  checkAll allHalves (checkSeq recs ro.bench)
  checkAll allCribs (checkCrib recs fun p => has false p || has true p)
  checkRings recs
  if hasSec secs 0x7 then checkGleaner recs descs pos
  checkYoke recs ro.yoke
  checkWatchPower recs
  checkHost recs ro.member
  let s := scratch recs
  checkBlock s.lNom ro.yoke runs lists
  let imgLevel := s.fld F.PWR_CFG_LEVEL
  let env (foll : Bool) (p : Nat) : ProgEnv :=
    { cls := classOf ro.yoke (!foll) runs lists
      own := fun i => i == 64 + p || match runAt runs i with
        | some r => r.cls == 6 && r.pair == p && r.foll == foll
        | none => false
      owns := 1 + (runs.filter fun r => r.cls == 6 && r.pair == p && r.foll == foll).foldl (fun n r => n + r.count) 0
      orphan := orphan foll
      emit := emitWords recs p
      chans := if wide && !foll then 32 else 16
      lNom := s.lNom
      level := imgLevel }
  let own ← checkPrograms (env false) (fun p => 0x10 + p) raw
  let foll ← checkPrograms (env true) (fun _ => 0x8) rawF
  let lv := level.getD imgLevel
  checkAll own fun x => checkBudget s.lNom lv (0x10 + x.1) x.2.1 x.2.2
  checkAll foll fun x => checkBudget s.lNom lv 0x8 x.2.1 x.2.2
  pure { recs := recs, runs := runs, lists := lists, descs := descs, posWords := pos, irqClass := irq, faults := faults,
         classes := classes, parts := parts, own := own.map fun x => (x.1, x.2.2),
         foll := foll.map fun x => (x.1, x.2.2) }

/-! ## Steps 1 to 6 (R339) -/

/-- The routing tables of R23, by section type. -/
def routingTypes : List Nat := [0x3, 0x4, 0x5, 0x6, 0x7, 0x8, 0x9]

/-- The section types of R330. -/
def sectionTypes : List Nat :=
  [0x1, 0x2, 0x3, 0x4, 0x5, 0x6, 0x7, 0x8, 0x9, 0xA, 0xB, 0xC, 0xD, 0xE, 0x10, 0x11, 0x12, 0x13]

/-- The sections every image holds (R330). -/
def requiredTypes : List Nat := [0x1, 0x2, 0x3, 0x4, 0x5, 0x6, 0x9, 0xA, 0xB, 0xC, 0xD]

/-- Read a section directory whose first entry is word `at_` of an image of `len` signed words (R328): type and words of
each section, or the entry that breaks a rule. -/
def readDirectory (image : List Word) (len : Nat) : Nat → Nat → Nat → Check (List (Nat × List Word))
  | 0, _, _ => .ok []
  | n + 1, at_, low => do
    let w (i : Nat) : Word := image.getD (at_ + i) 0#32
    let off := (w 1).toNat
    let size := (w 2).toNat
    rule (wbits (w 0) 15 0 == 0 && off % 4 == 0 && size % 4 == 0 && decide (4 ≤ size) && decide (low ≤ off) &&
      decide (off + size ≤ 4 * len)) 0x08 0 at_
    let ws := (image.drop (off / 4)).take (size / 4)
    rule (crc32cWords ws == w 3) 0x08 (wbits (w 0) 31 16) 0
    let more ← readDirectory image len n (at_ + 4) (off + size)
    pure ((wbits (w 0) 31 16, ws) :: more)

/-- Words of an HSS signature block (R329): its length word and the signature. -/
def sigWords : Nat := 1270

/-- Verify an image (R339). -/
def verifyImage (v : VEnv) (image : List Word) : Check (Image × Tables) := do
  let w (i : Nat) : Word := image.getD i 0#32
  let fail (word : Nat) (ok : Bool) : Check Unit := rule ok 0x03 0 word
  rule (v.keyHash.isSome || v.svcKey) 0x04 0 0
  fail 0 (w 0 == 0x4F524249#32)
  fail 1 (w 1 == 0x00010020#32)
  let len := (w 2).toNat
  let n := wbits (w 4) 15 8
  fail 2 (len % 4 == 0 && decide (len + 4 * sigWords ≤ 0x100000))
  let lay := wbits (w 3) 23 16
  let compat := wbits (w 3) 15 8
  fail 3 (wbits (w 3) 31 24 != 0 && decide (1 ≤ lay) && decide (1 ≤ compat) && decide (compat ≤ lay))
  fail 4 (wbits (w 4) 31 16 == 0 && wbits (w 4) 7 5 == 0 && decide (1 ≤ n) && decide (n ≤ 64))
  fail 6 (w 6 == 0#32 && w 7 == 0#32)
  fail 23 ((List.range 9).all fun i => w (23 + i) == 0#32)
  let pub := (image.drop 8).take 15
  rule (v.keyHash == some (shaWords pub)) 0x05 0 8
  let signed := image.take (len / 4)
  let block := (image.drop (len / 4)).take sigWords
  rule (block.length == sigWords && block.getD 0 0#32 == 5076#32 &&
    hssVerify (bytesOfWords pub) (bytesOfWords (block.drop 1)) (bytesOfWords signed)) 0x06 0 0
  rule (decide (v.rollback ≤ wbits (w 3) 7 0)) 0x07 0 3
  let secs ← readDirectory image (len / 4) n 32 (128 + 16 * n)
  let ro : Role := { yoke := wbits (w 4) 4 3, member := wbit (w 4) 2, bench := wbit (w 4) 1
                     lead := v.lead, flashless := v.mode == 1 }
  let types := secs.map (·.1)
  rule (types.all sectionTypes.contains && distinct types) 0x09 0 32
  checkAll (requiredTypes ++ (if ro.yoke == 0 then [] else [0x8])) fun t => rule (types.contains t) 0x09 t 0
  rule (!ro.bench || v.mode == 2) 0x0B 0 4
  rule (v.mode != 1 || (ro.member && ro.yoke == 0 && !types.contains 0x7)) 0x0B 0 4
  let t ← verifySections ro secs none
  pure ({ word3 := w 3, yoke := ro.yoke, member := ro.member, benchOnly := ro.bench, autoArm := wbit (w 4) 0,
          build := w 5, pub := pub, digest := shaWords signed, sections := secs }, t)

end Sys2Proof.Machine
end

