-- ==== Sys2Proof/Machine/Load.lean ====
section
/-!
DEFINITION. Machine/Load.lean: the tables of a verified image enter the device: at the end of boot (R63, R331, R340) and,
for the routing tables, at the boundary of a staged reconfiguration (R31, R45).
-/
namespace Sys2Proof.Machine

/-! ## Registers (R331) -/

/-- Load the registers of some sections but those of a list to skip: a register not named gets its reset value, and bits
that no record sets stay. -/
def State.loadRegs (s : State) (types skip : List Nat) (recs : List Rec) : State :=
  let img := regsOf recs
  (imgRegs.filter fun r => types.contains r.type).foldl (fun s r =>
    (r.addrs.filter fun a => !skip.contains a).foldl (fun (s : State) a =>
      let m := BitVec.ofNat 32 r.mask
      s.setReg a ((s.reg a &&& ~~~m) ||| (Sparse.get regReset img a &&& m))) s) s

/-! ## Signals (R41-R45) -/

/-- Runs of entries with their source: first index, count, source of the entry at a distance. -/
structure Alloc where
  first : Nat
  count : Nat
  src : Nat → Nat

/-- Insert runs in ascending index. -/
def insertAlloc (a : Alloc) : List Alloc → List Alloc
  | [] => [a]
  | x :: xs => if a.first < x.first then a :: x :: xs else x :: insertAlloc a xs

/-- The list positions of a list. -/
def withIndex {α : Type} (xs : List α) : List (Nat × α) := xs.mapIdx fun i x => (i, x)

/-- The allocation of an image, in ascending index (R41, R42, R43); entries 16-31 only where the
device is not Solo. A run received without a list entry continues the
numbering of the list positions (log entry 12). -/
def allocation (yoke : Nat) (lead solo : Bool) (runs : List Run) (lists : List Word) : List Alloc :=
  let auto := (wideRuns yoke lead runs).2
  let fixed : List Alloc :=
    [⟨0, 16, srcLocal⟩] ++ (if yoke == 0 || solo then [] else [⟨16, 16, srcPartner⟩]) ++
    [⟨32, 16, srcInternal⟩, ⟨48, 1, fun _ => srcInternal 48⟩, ⟨64, 4, srcDerived⟩]
  let own := (runs.filter fun r => !r.foreign yoke lead).map fun r => (⟨r.first, r.count, fun _ =>
    if r.cls == 4 then srcMember r.seg r.pos else if r.cls == 5 then srcHost else srcDerived r.pair⟩ : Alloc)
  let dests := (withIndex lists).map fun x => (⟨(listDest x.2).1, (listDest x.2).2, fun _ => srcPartner (32 + x.1)⟩ : Alloc)
  let received := (withIndex auto).map fun x =>
    (⟨x.2.first, x.2.count, fun _ => srcPartner (32 + lists.length + x.1)⟩ : Alloc)
  (fixed ++ own ++ dests ++ received).foldl (fun acc a => insertAlloc a acc) []

/-- The signal table takes an allocation: an entry whose source stays keeps its contents, a newly allocated one starts
afresh, a freed one reads as unallocated (R45). A force on a freed entry ends with it (log entry 13). -/
def State.allocate (s : State) (als : List Alloc) : State :=
  let sig := als.flatMap fun a => (List.range a.count).map fun j =>
    let e := s.entry (a.first + j)
    (a.first + j, if e.src == a.src j then e else allocEntry (a.src j) s.swath32)
  let same (i : Nat) : Bool := (s.entry i).src == (Sparse.get sigDefault sig i).src
  let s := { s with sig := sig, pipe := { s.pipe with forced := s.pipe.forced.filter fun (f : Nat × Word × Word × Word) => same f.1 } }
  let kept (fs : List (Nat × Word)) : List (Nat × Word) := fs.filter fun f => (s.entry f.1).cls != 0
  { s with forces := kept s.forces, forceNext := s.forceNext.map kept }

/-! ## The parts of the tables -/

/-- A program enters its pair (R260, R283). -/
def State.loadProgram (s : State) (p : PairIx) (c : Option CheckedProg) : State :=
  let s := s.updPair p fun x => { x with prog := c.map (·.prog) }
  match c with
  | none => s
  | some c =>
    let pr := c.prog
    let s := ((s.setF (F.BND_CFG_SHEAVES p.val) pr.starts.length).setF (F.BND_CFG_MIN_LEVEL p.val) c.minLevel).setF
      (F.BND_CFG_PROG_LEN p.val) pr.code.length
    let s := s.setF (F.BND_CFG_LEVEL p.val) (s.fld F.PWR_CFG_LEVEL)
    let s := ((s.setReg (Reg.BND_WREAL p.val) (BitVec.ofNat 32 c.wReal)).setReg (Reg.BND_WSPEC p.val)
      (BitVec.ofNat 32 c.wSpec)).setReg (Reg.BND_WPOST p.val) (BitVec.ofNat 32 c.wPost)
    let s := (s.setReg (Reg.BND_TASKS p.val) c.tasks).setB (F.PIPE_PAIR_CFG_FIXED p.val) pr.fixed
    let s := (s.setF (F.PIPE_PAIR_CFG_H p.val) pr.hots.length).setB (F.PIPE_PAIR_CFG_SPEC p.val) (decide (0 < pr.specLen))
    (s.setB (F.PIPE_PAIR_CFG_POST p.val) (decide (pr.specLen < pr.starts.length))).setF (F.PIPE_PAIR_CFG_DFIX_SLOT p.val)
      (if pr.fixed then pr.dfix / 192 else 0)

/-- The programs this device runs: the image's own at a lead or alone, the follower blocks at a Wide follower (R443). -/
def Tables.programs (t : Tables) (yoke : Nat) (lead : Bool) : List (Nat × CheckedProg) :=
  if yoke == 1 && !lead then t.foll else t.own

/-- Every pair gets its program, or none. -/
def State.loadPrograms (s : State) (ps : List (Nat × CheckedProg)) : State :=
  allPairs.foldl (fun s p => s.loadProgram p ((ps.find? fun x => x.1 == p.val).map (·.2))) s

/-- The figures the device computes for the Gleaner's segments (R408). -/
def State.loadSegments (s : State) : State :=
  allSegs.foldl (fun s k => s.setReg (Reg.GLN_SEG_TICKS k.val)
    (BitVec.ofNat 32 (if s.flag (F.GLN_SEG_CFG_EN k.val) then s.scanSlot k.val else 0))) s

/-- The tables of the Gleaner (R416, R425). -/
def State.loadGleaner (s : State) (descs : List Desc) (pos : List (Nat × Word)) (head : Bool) : State :=
  let pw := pos.foldl (fun m x => Sparse.put (fun _ => 0#32) m x.1 x.2) []
  let s := { s with gln := { s.gln with descs := descs, posWords := pw } }
  (s.setB F.GLN_CFG_HEAD head).loadSegments

/-- The exchange lists (R435, R443). -/
def State.loadLists (s : State) (yoke : Nat) (lead : Bool) (runs : List Run) (lists : List Word) : State :=
  let w := wideRuns yoke lead runs
  let span (r : Run) : Nat × Nat := (r.first, r.count)
  (s.updYk fun x => { x with lists := lists, autoSend := w.1.map span, autoRecv := w.2.map span }).setF F.YK_CFG_LISTS
    lists.length

/-- The reaction table (R469). -/
def State.loadFaults (s : State) (irq : Nat) (es : List Reaction) : State :=
  ({ s with fc := { s.fc with table := es } } : State).setF F.FC_CFG_IRQ_CLASS irq

/-- d of every unit that scans (R393). -/
def State.loadUnits (s : State) (lNom : Nat) : State :=
  allUnits.foldl (fun s u => s.setF (F.CVU_TIMING_D u.val)
    (if s.fld (F.CVU_CFG_MODE u.val) == 1 then cvuDelay (s.cvuLength u) lNom else 0)) s

/-- The header of the running image in its registers. -/
def State.showImage (s : State) (i : Image) : State :=
  let s := (s.setReg Reg.BOOT_IMAGE i.word3).setReg Reg.BOOT_BUILD i.build
  (List.range 8).foldl (fun s k => s.setReg (Reg.BOOT_DIGEST k) (i.digest.getD k 0#32)) s

/-- The registers whose values wait: those of R63, and the watchdog's while WDG_LOCK is set (R478). -/
def State.heldRegs (s : State) : List Nat :=
  [Reg.TB_CONFIG, Reg.SYNC_OFFSET] ++ (if s.flag F.WDG_CFG_LOCK then [Reg.WDG_CFG, Reg.WDG_WINDOW] else [])

/-- A Stand-in pair has a fixed timeout (R214). -/
def State.fixTimeout (s : State) (yoke : Nat) : State :=
  allHalves.foldl (fun s h =>
    let s := s.setB (F.BD_STATUS_FIXED_TO h.val) (yoke == 3)
    s.whenB (yoke == 3) fun s => s.setF (F.BD_CFG_TIMEOUT h.val) 60) s

/-- The tables of a verified image are loaded (R340 step 6); a lock it sets on a disabled watchdog enables it from the next boundary
(R477, R478); TB_CONFIG, SYNC_OFFSET and SYNC_CTRL take effect at the
boundary of R63. -/
def State.loadTables (s : State) (i : Image) (t : Tables) : State :=
  let lead := s.boot.lead
  let img := scratch t.recs
  let s := s.loadRegs sectionTypes s.heldRegs t.recs
  let lock := s.flag F.WDG_CFG_LOCK && !s.flag F.WDG_CFG_EN
  let s := (s.whenB lock fun s => { s with wdg := { s.wdg with change := some true } }).fixTimeout i.yoke
  let s := { s with boot := { s.boot with
    image := some i, tbNext := some (img.reg Reg.TB_CONFIG, img.reg Reg.SYNC_OFFSET) } }
  let s := s.setB F.HP_CFG_MEMBER (i.member || s.fld F.BOOT_STATUS_MODE == 1)
  let s := s.setF F.YK_CFG_MODE i.yoke
  let s := s.loadLists i.yoke lead t.runs t.lists
  let s := s.loadGleaner t.descs t.posWords (hasSec i.sections 0x7)
  let s := { s with gln := { s.gln with classes := t.classes } }
  let s := (s.loadFaults t.irqClass t.faults).loadUnits img.lNom
  let s := s.updSr fun x => { x with classes := t.parts }
  let s := s.updPwr fun x => { x with levelNext := some (img.fld F.PWR_CFG_LEVEL) }
  let s := s.loadPrograms (t.programs i.yoke lead)
  let s := allCribs.foldl (fun s c => s.syncCrib c) s
  (s.allocate (allocation i.yoke lead false t.runs t.lists)).showImage i

/-- The boundary of R63: L_nom, K and SYNC_OFFSET of the image take effect; the loop restarts if they or the SYNC settings
differ from those in force (R73). -/
def State.applyR63 (s : State) : State :=
  match s.boot.tbNext with
  | none => s
  | some (cfg, off) =>
    let ctrl := s.reg Reg.SYNC_CTRL
    let differs := cfg != s.reg Reg.TB_CONFIG || off != s.reg Reg.SYNC_OFFSET || ctrl != s.tb.ctrl
    let s := (s.setReg Reg.TB_CONFIG cfg).setReg Reg.SYNC_OFFSET off
    let s := { s with boot := { s.boot with tbNext := none }, tb := { s.tb with ctrl := ctrl, r63 := true } }
    s.whenB differs State.restartLoop

end Sys2Proof.Machine
end

