-- ==== Sys2Proof/Machine/Recfg.lean ====
section
/-!
DEFINITION. Machine/Recfg.lean: staged reconfiguration: commit, check, cancel, and the application of a set at the first
boundary of its target stook (R25-R34). The format of a set is log entry 14.
-/
namespace Sys2Proof.Machine

/-! ## A set in the staging area (R25, R26; log entry 14) -/

/-- Words of the staging area. -/
def stagingWords : Nat := 32768

/-- A set that the check accepts: the sections with the new ones in place, and the tables they make. -/
structure CheckedSet where
  types : List Nat
  sections : List (Nat × List Word)
  tables : Tables
  deriving DecidableEq, Repr

/-- Replace the sections of an image by those of a set, whole (R26). -/
def replaceSections (old new : List (Nat × List Word)) : List (Nat × List Word) :=
  old.filter (fun x => !hasSec new x.1) ++ new

/-- The role under which the sections of the running image stand. -/
def State.roleOf (s : State) (i : Image) : Role :=
  { yoke := i.yoke, member := i.member, bench := i.benchOnly, lead := s.boot.lead
    flashless := s.fld F.BOOT_STATUS_MODE == 1 }

/-- The check of a set of words against the running image (R25-R28): the set, or the reason of its rejection. Programs are
no routing table (R24): a YOKE section keeps the follower program blocks. -/
def State.checkSet (s : State) (ws : List Word) : Except Nat CheckedSet :=
  match s.boot.image with
  | none => .error 0x04
  | some i =>
    let n := (ws.getD 0 0#32).toNat
    let len := ws.length - sigWords
    if ws.length < sigWords + 10 || n < 1 || 64 < n || len < 10 + 4 * n then .error 0x02
    else
      let signed := ws.take len
      match readDirectory signed len n 10 (4 * (10 + 4 * n)) with
      | .error _ => .error 0x02
      | .ok secs =>
        let block := ws.drop len
        let types := secs.map (·.1)
        if !distinct types then .error 0x02
        else if !(block.getD 0 0#32 == 5076#32 &&
            hssVerify (bytesOfWords i.pub) (bytesOfWords (block.drop 1)) (bytesOfWords signed)) then .error 0x03
        else if (ws.drop 2).take 8 != i.digest || wbits (ws.getD 1 0#32) 23 16 != wbits i.word3 23 16 then .error 0x04
        else if !types.all routingTypes.contains then .error 0x05
        else
          let all := replaceSections i.sections secs
          let ro := s.roleOf i
          let same := match readYoke (secWords i.sections 0x8), readYoke (secWords all 0x8) with
            | .ok (_, _, old), .ok (_, _, new) => old == new
            | _, _ => !types.contains 0x8
          match verifySections ro all (some (s.fld F.PWR_STATUS_LEVEL)) with
          | .error e => .error (if e.reason == 0x0C then 0x07 else 0x06)
          | .ok t => if same || i.yoke != 1 then .ok { types := types, sections := all, tables := t } else .error 0x06

/-! ## Commit, cancel and check (R27-R33) -/

/-- The target stook of a commit: the number nearest to the stook under way whose low 32 bits are TARGET_STOOK; one that
lies in the past is not ahead of it. -/
def State.targetStook (s : State) : Nat :=
  let now := s.ruleStook
  let d := (s.reg Reg.SYS_RECFG_TARGET - BitVec.ofNat 32 now).toNat
  if d < 2 ^ 31 then now + d else now - (2 ^ 32 - d)

/-- The lead of a Wide pair passes a committed set to the follower: the words of the set, the target and the commit, as
register traffic (R34, R443; log entry 14). -/
def State.passSet (s : State) (length : Nat) : State :=
  if s.yokeMode == 1 && s.boot.lead && s.joined then
    let ws := s.readWords stagingBase length
    let area := ws.mapIdx fun i w => (stagingBase + 4 * i, w, false)
    let commit := [(Reg.SYS_RECFG_TARGET, s.reg Reg.SYS_RECFG_TARGET, false),
      (Reg.SYS_RECFG_CTRL, BitVec.ofNat 32 (0xC5 * 2 ^ 24 + length), false)]
    s.updYk fun y => { y with forward := y.forward ++ area ++ commit }
  else s

/-- A new commit is rejected; while a set is in hand the rejection stands for one read (R30, R33), with 0x0B as with 0x0A. The RECFG_REJECT it logs cancels no
pending set, whatever class the table gives it: R30 leaves that set unaffected, R32 would cancel it (DESIGN CHOICE, log entry 75). -/
def State.rejectCommit (s : State) (reason : Nat) : State :=
  let st := s.recfgState
  let busy := st == 1 || st == 2
  let kept := if !busy then none
    else if s.recfg.shadow.isNone then some (st, s.fld F.SYS_RECFG_STATUS_REASON) else s.recfg.shadow
  let s : State := { s with recfg := { s.recfg with shadow := kept } }
  let s := (s.setF F.SYS_RECFG_STATUS_STATE 4).setF F.SYS_RECFG_STATUS_REASON reason
  s.raiseCore srcSYS kRecfgReject reason false false

/-- Key 0xC5: the set is committed and its check starts (R27, R28). Where several reasons hold, 0x0B comes first, then 0x0A, then 0x01:
the spec gives no order (DESIGN CHOICE, log entry 75). -/
def State.recfgCommit (s : State) (length : Nat) : State :=
  let st := s.recfgState
  if s.isBoot || s.isHalted then s.rejectCommit 0x0B
  else if st == 1 || st == 2 then s.rejectCommit 0x0A
  else if length == 0 || stagingWords < length then s.rejectCommit 0x01
  else
    let target := s.targetStook
    let s := { s with recfg := { words := [], target := target, length := length, shadow := none } }
    ((s.setF F.SYS_RECFG_STATUS_STATE 1).setF F.SYS_RECFG_STATUS_REASON 0).passSet length

/-- RECFG_COMMIT. -/
def execRecfgCommit (length : BitVec 16) (s : State) : Host.Outcome State Fault Refusal := s.hostKey fun s => s.recfgCommit length.toNat

/-- Key 0xCA: a set in CHECKING or PENDING is cancelled (R27). A Wide lead does not pass the key to its follower: the spec is silent
(DESIGN CHOICE, log entry 75). -/
def State.recfgCancel (s : State) : State :=
  if s.recfgState == 1 || s.recfgState == 2 then s.endRecfg 5 0x20 else s

/-- RECFG_CANCEL. -/
def execRecfgCancel (s : State) : Host.Outcome State Fault Refusal := s.hostKey fun s => s.recfgCancel

/-- The partner's pending set is to be the same (R34). -/
def State.partnerAgrees (s : State) (words : List Word) : Bool :=
  !(s.yokeMode != 0 && s.joined) || s.yk.recfg == some (sha256 (bytesOfWords words))

/-- The boundaries to the first boundary of a stook ahead. -/
def State.boundariesTo (s : State) (target : Nat) : Nat := (target - s.ruleStook) * s.kLen - s.phase

/-- RECFG_CHECK_DONE: the check of a committed set ends with PENDING, or REJECTED with a reason (R27, R28). In a joined pair
a set that becomes pending when the target is nearer than 2 swaths was not held when the digests were compared (R34). The 65,536 stooks
of reason 0x09 are counted from the stook in which the check ends (DESIGN CHOICE, log entry 75). -/
def execRecfgCheckDone (s : State) : Host.Outcome State Fault Refusal :=
  .next <|
    if s.recfgState != 1 then s
    else
      let ws := s.readWords stagingBase s.recfg.length
      let target := s.recfg.target
      let s := { s with recfg := { s.recfg with words := ws } }
      match s.checkSet ws with
      | .error r => s.endRecfg 4 r
      | .ok _ =>
        if target ≤ s.ruleStook then s.endRecfg 4 0x08
        else if s.ruleStook + 65536 < target then s.endRecfg 4 0x09
        else if s.yokeMode != 0 && s.joined && decide (s.boundariesTo target < 2) then s.endRecfg 4 0x0C
        else s.setRecfg 2 0

/-- At a boundary 2 swaths before the target the digests of the pending sets are compared (R34). -/
def State.recfgCompare (s : State) : State :=
  let st := s.recfgState
  if (st == 1 || st == 2) && s.yokeMode != 0 && s.joined && decide (s.ruleStook < s.recfg.target) &&
      s.boundariesTo s.recfg.target == 2 then
    if st == 2 && s.partnerAgrees s.recfg.words then s else s.endRecfg 4 0x0C
  else s

/-! ## Application (R31) -/

/-- Addresses of the registers of some sections. -/
def regsOfTypes (types : List Nat) : List Nat := (imgRegs.filter fun r => types.contains r.type).flatMap ImgReg.addrs

/-- The safe-state table of a half follows a new TIMEOUT; an armed half refuses a table write and keeps its own until it is
loaded again (R213). -/
def State.retable (s : State) (h : HalfIx) : State :=
  if s.armed h.val || !(s.half h).loaded then s
  else
    let s := s.syncTableCrc h
    let t := s.tableWords h
    s.updHalf h fun x => { x with
      table := t, tableCrc := some (crc32cWords t)
      params := (List.range tableSize).foldl (fun m i => Sparse.put (fun _ => 0#32) m i (t.getD i 0#32)) x.params }

/-- A Crib whose base, size or entry size changes, or that is freed, is emptied, and the commits due at this boundary leave
its entries unpublished (R318). -/
def State.recrib (s before : State) (c : CribIx) : State :=
  let changed := before.flag (F.CRIB_CFG_EN c.val) && (!s.flag (F.CRIB_CFG_EN c.val) ||
    s.reg (Reg.CRIB_BASE c.val) != before.reg (Reg.CRIB_BASE c.val) ||
    s.fld (F.CRIB_CFG_LOG2N c.val) != before.fld (F.CRIB_CFG_LOG2N c.val) ||
    s.flag (F.CRIB_CFG_ESZ c.val) != before.flag (F.CRIB_CFG_ESZ c.val))
  let s := if changed then
      (s.setReg (Reg.CRIB_CONS c.val) (s.reg (Reg.CRIB_PROD c.val))).updCrib c fun x => { x with written := [], latched := 0 }
    else s
  s.syncCrib c

/-- THRESHER: a change of mode or M of the reference (R156), and a change of a half's sequencer table (R188). -/
def State.rethresh (s before : State) (h : HalfIx) : State :=
  let ref := s.reg (Reg.THR_REF h.val)
  let wasLean := before.flag (F.THR_REF_LEAN h.val)
  let s := if s.flag (F.THR_REF_LEAN h.val) then
      (s.setB (F.THR_REF_REFBUF_EN h.val) (before.flag (F.THR_REF_REFBUF_EN h.val))).updHalf h fun x => { x with refWrite := none }
    else if wasLean then s.setBuffer h (wbit ref 0)
    else s.setB (F.THR_REF_REFBUF_EN h.val) (before.flag (F.THR_REF_REFBUF_EN h.val))
  let table := Reg.SEQ_CFG h.val :: (List.range 64).flatMap fun e => [Reg.SEQ_TABLE_W0 h.val e, Reg.SEQ_TABLE_W1 h.val e]
  if table.all fun a => s.reg a == before.reg a then s
  else
    let lost := b2n (s.flag (F.SEQ_STATUS_PENDING h.val)) + b2n (s.seqOf h).wait
    let hasTest := decide (s.fld (F.SEQ_CFG_BG_LEN h.val) < s.fld (F.SEQ_CFG_LEN h.val))
    let s := s.restartSeq h (before.target h)
    if hasTest then s
    else
      ((s.setB (F.SEQ_STATUS_PENDING h.val) false).addF (F.SEQ_COUNTS_TRIG_LOST h.val) lost).updSeq h fun q => { q with wait := false }

/-- GLEANER: a segment whose schedule changes starts afresh, with an enumeration (log entry 14); the fold of a scan that
landed under the old schedule still takes place, so its members are kept until the next scan (R31, R422, R428). -/
def State.resegment (s before : State) (k : Fin 32) : State :=
  if s.reg (Reg.GLN_SEG_CFG k.val) == before.reg (Reg.GLN_SEG_CFG k.val) &&
      s.reg (Reg.GLN_SEG_SCHED k.val) == before.reg (Reg.GLN_SEG_SCHED k.val) then s
  else (s.updSeg k fun g => { ({} : Seg) with land := g.land, members := g.members, afresh := true }).setReg
    (Reg.GLN_SEG_STATE k.val) 0#32

/-- The folds of this boundary are those of the schedule that ends (R31, R422). -/
def State.keepFolds (s : State) : State :=
  let n := s.swath
  let due := if 0 < n then s.dueSegs (n - 1) else []
  { s with gln := { s.gln with oldFolds := some (n, due) } }

/-- The new tables enter (R31): registers of the sections that are replaced, and what follows from them, the figures of the pairs among
them. -/
def State.applySet (s : State) (c : CheckedSet) : State :=
  let before := s
  let t := c.tables
  let lead := s.boot.lead
  let has (ty : Nat) : Bool := c.types.contains ty
  let win := allCh.map fun ch => s.reg (Reg.THR_WIN ch.val)
  let s := s.whenB (has 0x7) State.keepFolds
  let s := s.loadRegs c.types [] t.recs
  let s := s.whenB (has 0x3) fun s => allHalves.foldl (fun s h => s.retable h) (s.fixTimeout s.imageYoke)
  let s := s.whenB (has 0x4) fun s =>
    allHalves.foldl (fun s h => s.rethresh before h) ({ s with pipe := { s.pipe with oldWin := win } } : State)
  let s := s.whenB (has 0x5 || has 0x8) fun s => s.allocate (allocation s.imageYoke lead (s.yokeMode == 0) t.runs t.lists)
  let s := s.whenB (has 0x6) fun s => allCribs.foldl (fun s k => s.recrib before k) s
  let s := s.whenB (has 0x7) fun s => allSegs.foldl (fun s k => s.resegment before k) (s.loadGleaner t.descs t.posWords true)
  let s := s.whenB (has 0x5 || has 0x8) fun s => s.loadLists s.imageYoke lead t.runs t.lists
  let s := s.whenB (has 0x9) fun s => s.loadFaults t.irqClass t.faults
  let s := s.loadPrograms (t.programs s.imageYoke lead)
  let s := { s with boot := { s.boot with image := s.boot.image.map fun (i : Image) => { i with sections := c.sections } } }
  let s := allUnits.foldl (fun s u => if (s.cvu.get u).scan.isSome then s.scanAbandon u else s) s
  { s with pipe := { s.pipe with recfg := true } }

/-- RECFG_APPLY, step 2 of R22: at the first boundary of its target stook a pending set is applied whole (R31). The area is
read once more, as R29 has it; a set that no longer passes is rejected with the reason its check gives. -/
def State.recfgApply (s : State) : State :=
  let st := s.recfgState
  let met := (st == 1 || st == 2) && s.phase == 0 && s.ruleStook == s.recfg.target
  let n := s.swath
  let s : State := if met then { s with recfg := { s.recfg with met := some n } } else s
  if st == 1 && s.phase == 0 && decide (s.recfg.target ≤ s.ruleStook) then s.endRecfg 4 0x08
  else if st == 2 && met then
    match s.checkSet (s.readWords stagingBase s.recfg.length) with
    | .error r => s.endRecfg 4 r
    | .ok c =>
      let s := s.applySet c
      (s.setRecfg 3 0).setF F.SYS_RECFG_STATUS_APPLIED (s.fld F.SYS_RECFG_STATUS_APPLIED + 1)
  else s

end Sys2Proof.Machine
end

