-- ==== Sys2Proof/Machine/Boot.lean ====
section
/-!
DEFINITION. Machine/Boot.lean: power-on, resets and boot: what each reset keeps (R18, R52, R56, R216, R320, R508), the straps
(R323), the choice of the slot (R338), the end of boot (R340, R341), and the ready end of a wake (R527).
-/
namespace Sys2Proof.Machine

/-! ## What a reset keeps -/

/-- The reset domain of an address (R18). -/
def domainOf (a : Nat) : Domain := match regRow? a with | some r => r.dom | none => .pin

/-- Registers that show fuses and OTP contents, which no reset changes (R335, R336, R484, R501). -/
def isFused (a : Nat) : Bool :=
  a == Reg.SR_LEAF_RES || a == Reg.SR_SERIAL_HI || a == Reg.SR_SERIAL_LO || (List.range 15).any fun i => a == Reg.SR_PUBKEY i

/-- What a channel keeps that its field die holds (R216): the rest starts afresh. -/
def Chan.keepDie (x : Chan) : Chan :=
  { action := x.action, value := x.value, holding := x.holding, holdVal := x.holdVal, closed := x.closed, limit := x.limit
    backoff := x.backoff, hot := x.hot, shuntOpen := x.shuntOpen, shuntOvl := x.shuntOvl, loopLimit := x.loopLimit
    retOpen := x.retOpen, disconnected := x.disconnected, localReg := x.localReg, offFails := x.offFails, filt := x.filt
    state := x.state, comp := x.comp, edgeAt := x.edgeAt, pulses := x.pulses, frameAt := x.frameAt, frameEdges := x.frameEdges
    conds := x.conds, dark := x.dark, dpSwath := x.dpSwath, pulse := x.pulse, heldTill := x.heldTill
    last3 := x.last3, clampLast := x.clampLast, ovl := x.ovl, tries := x.tries, factory := x.factory
    coefs := x.factory, good := x.factory }

/-- What a half keeps that its field die holds; `regs` are its configuration registers, which the die goes on with (R80, R216), `funcs` the
functions its terminals stand in, which an unloaded die keeps (R127). -/
def Half.keepDie (x : Half) (regs : Sparse Word) (funcs : List Nat) : Half :=
  { kept := if !x.loaded then [] else if x.kept.isEmpty then regs else x.kept
    was := if x.loaded || funcs.all (· == 0) then [] else funcs
    dieAt := x.dieAt, almIn := x.almIn, gdrv := x.gdrv
    win := x.win, winOld := x.winOld, pSent := x.pSent, dnSwath := x.dnSwath, dnLen := x.dnLen, dnStook := x.dnStook
    gateTest := x.gateTest, returning := x.returning, spareNow := x.spareNow
    keeper := x.keeper, dnMiss := x.dnMiss, dnRun := x.dnRun, dormant := x.dormant, timedOut := x.timedOut
    reportLoss := x.reportLoss, dnBad := x.dnBad, high := x.high, low := x.low, susp := x.susp, uv := x.uv
    uvReady := x.uvReady, inReset := x.inReset, loaded := x.loaded, gateHold := x.gateHold, gdrvHold := x.gdrvHold
    gdrvCut := x.gdrvCut, forced := x.forced, armedF := x.armedF, alm := x.alm, params := x.params, table := x.table
    tableCrc := x.tableCrc, mbSeq := x.mbSeq, mbReturn := x.mbReturn }

/-- Keep the field dies, their diagnostics and pulses included (R80), and let the logic side of halves and channels start afresh. -/
def State.keepDies (s : State) : State :=
  let regs (h : HalfIx) : Sparse Word := (dieRegs h).map fun a => (a, s.reg a)
  { s with
    chans := s.chans.map Chan.keepDie
    halves := allHalves.foldl (fun (t : Tab 2 Half) h => t.upd h fun x =>
      x.keepDie (regs h) ((chOf h).map fun c => s.stageFunc c)) s.halves }

/-- Ticks start again at power-on: what the dies keep loses its ticks. A pulse under way counts from tick 0; the hold after one that has
ended passes by the die's own timer (R80, R115), and so does the rest of a gate check (R123). -/
def State.dropTicks (s : State) : State :=
  let now := s.tick
  { s with
    chans := s.chans.map fun (x : Chan) => { x with
      clampLast := none, frameAt := 0, frameEdges := 0, edgeAt := [], dpSwath := none
      pulse := x.pulse.map fun p => { p with start := 0 }
      heldTill := if x.pulse.isSome then x.heldTill.map fun y => (y.1, 52800) else none }
    halves := s.halves.map fun (x : Half) => { x with
      gateTest := x.gateTest.map fun t => t - now, dieAt := 0, win := none, winOld := none } }

/-- A hash that no key has: partly blown fuses, or fuses whose readback differed (R335, R344). -/
def badHash : List Word := []

/-- What boot keeps through every reset: flash and fuses; a reset during commissioning leaves a partly blown hash (R344). -/
def State.persistBoot (s : State) : Boot :=
  let b := s.boot
  { sectors := b.sectors, slots := b.slots, svcKey := b.svcKey, rollback := b.rollback
    keyHash := if s.fld F.SYS_COMMISSION_STATE == 1 then some badHash else b.keyHash
    flash := b.flash, flashMib := b.flashMib, suspend := b.suspend, pageUs := b.pageUs }

/-- RST_N and reaction resets: every PIN register and every part of the logic die outside the Cellar starts afresh, the
PLL, the counters and the boundaries run on (R18, R52, R56, R73, R377, R386, R468, R508). The Granary's RAM keeps its bytes
and its tables are empty (log entry 15). THR_AT_SINCE reads 0 like the rest of its bank, and not the swath of the reset (DESIGN
CHOICE, log entry 41); the downlink frames that CLK_FAIL stopped run again (DESIGN CHOICE, log entry 27). -/
def State.startAfresh (s : State) : State :=
  let boot := s.persistBoot
  let clk := s.reg Reg.TB_CLK_STATUS
  let journal := s.fld F.SR_STATUS_JOURNAL
  let regs := s.regs.filter fun x => domainOf x.1 != .pin
  let s := s.keepDies
  let s : State := { State.reset with
    regs := regs, mem := s.mem, chans := s.chans, halves := s.halves
    env := { s.env with clkFailed := false, linkIdle := true, yfltOut := false, hselLow := false }
    tb := { s.tb with r63 := false }
    fc := { batch := s.fc.batch, buffer := s.fc.buffer, firstHeld := s.fc.firstHeld, onceSeen := s.fc.onceSeen }
    pipe := { prevBtick := s.pipe.prevBtick, reacted := s.pipe.reacted, now := s.pipe.now &&& cREACTION }
    boot := boot
    sr := { s.sr with ops := [], left := [], partner := Tab.fill 16 {}, session := none, nonce := none, report := [] }
    scrub := s.scrub, free := s.free, pending := s.pending }
  (((s.setReg Reg.TB_CLK_STATUS clk).syncTree).syncSr).setF F.SR_STATUS_JOURNAL journal

/-- RST_N and reaction resets: a transaction in progress is abandoned (R386), and the logic die starts afresh. -/
def State.pinReset (s : State) : State :=
  (if s.hp.reads.isEmpty && s.hp.sending.isEmpty && s.hp.writes.isEmpty then s else s.abandonTx).startAfresh

/-- Power-on, and a lost Cellar (R55, R321): everything starts afresh but fuses, flash and what the journal recovers; the
counters start at zero. -/
def State.coldReset (s : State) : State :=
  let boot := s.persistBoot
  let regs := s.regs.filter fun x => isFused x.1
  let s := s.keepDies.dropTicks
  let s : State := { State.reset with
    regs := regs, chans := s.chans, halves := s.halves
    env := { s.env with vin := true, pll := false, testSeen := false, clkFailed := false, linkIdle := true, yfltOut := false, syncOut := 0, hselLow := false }
    boot := boot
    sr := { s.sr with classes := [], opens := 0, fails := 0, lockAt := none, tokenSwath := 0, deferred := false, lowTold := 0 }
    free := s.free, pending := s.pending }
  s.recoverJournal

/-! ## Boot records and slot choice (R337, R338) -/

/-- MAGIC of a boot record. -/
def recordMagic : Word := 0x4F425243#32

/-- Read the eight words of a record; none where its MAGIC, its CRC or a field is wrong (R337). -/
def parseRecord (ws : List Word) : Option BootRec :=
  let w2 := ws.getD 2 0#32
  let type? : Option RecType := match wbits w2 31 24 with
    | 1 => some .activate | 2 => some .tried | 3 => some .confirm | 4 => some .revert | _ => none
  if ws.length == 8 && ws.getD 0 0#32 == recordMagic && crc32cWords (ws.take 7) == ws.getD 7 0#32 &&
      wbits w2 15 0 == 0 && decide (wbits w2 23 16 ≤ 1) then
    type?.map fun t => { seq := (ws.getD 1 0#32).toNat, type := t, slot := wbits w2 23 16, digest := (ws.drop 3).take 4 }
  else none

/-- The places of a sector that are written: those up to the last that is not erased. -/
def sectorOf (places : List (List Word)) : List (Option BootRec) :=
  ((places.reverse.dropWhile fun ws => ws.all (· == 0xFFFFFFFF#32)).reverse).map parseRecord

/-- Insert a record in ascending SEQ. -/
def insertRec (r : BootRec) : List BootRec → List BootRec
  | [] => [r]
  | x :: xs => if r.seq < x.seq then r :: x :: xs else x :: insertRec r xs

/-- Words of a boot image area: 1 MiB (R326). -/
def imageWords : Nat := 262144

/-- The first four words of the digest of the boot image in a slot. -/
def State.slotDigest (s : State) (slot : Nat) : List Word := (imageDigest (s.flashWords slot 0 imageWords)).take 4

/-- Records a sector holds (R337). -/
def sectorSize : Nat := 128

/-- The valid records of both sectors, in ascending SEQ. -/
def Boot.records (b : Boot) : List BootRec :=
  (b.sectors.cells.flatMap fun ps => ps.filterMap id).foldl (fun acc r => insertRec r acc) []

/-- The sector that takes the next record (R337): the one that holds the highest valid SEQ while it has a free place, else the
other. Without a valid record: sector 0 while it has a free place (DESIGN CHOICE, log entry 44). -/
def Boot.nextSector (b : Boot) : Fin 2 :=
  let free (k : Fin 2) : Bool := decide ((b.sectors.get k).length < sectorSize)
  let last : Fin 2 := match b.records.getLast? with
    | some r => if (b.sectors.get 1).any (fun p => p == some r) then 1 else 0
    | none => 0
  if free last then last else 1 - last

/-- Append a record for a slot (R337). A sector without a free place is erased just before the record is written into it: it is
never the one with the highest valid SEQ. -/
def State.appendRecord (s : State) (t : RecType) (slot : Nat) : State :=
  let seq := match s.boot.records.getLast? with | some r => r.seq + 1 | none => 1
  let r : BootRec := { seq := seq, type := t, slot := slot, digest := s.slotDigest slot }
  let k := s.boot.nextSector
  let ps := s.boot.sectors.get k
  let ps := if ps.length < sectorSize then ps else []
  { s with boot := { s.boot with sectors := s.boot.sectors.set k (ps ++ [some r]) } }

/-- The records whose digest matches the boot image in their slot (R338). -/
def State.liveRecords (s : State) : List BootRec := s.boot.records.filter fun r => r.digest == s.slotDigest r.slot

/-- The last ACTIVATE after the last CONFIRM, unless a later REVERT; and whether a TRIED follows it. -/
def trialOf (rs : List BootRec) : Option (Nat × Bool) :=
  let conf := (rs.filter fun r => r.type == .confirm).getLast?
  let after := rs.filter fun r => match conf with | some c => decide (c.seq < r.seq) | none => true
  match (after.filter fun r => r.type == .activate).getLast? with
  | none => none
  | some a =>
    let later := after.filter fun (r : BootRec) => decide (a.seq < r.seq)
    if later.any (fun r => r.type == .revert) then none else some (a.slot, later.any (fun r => r.type == .tried))

/-- Slot of the last CONFIRM: A where there is none. -/
def confOf (rs : List BootRec) : Nat :=
  match (rs.filter fun r => r.type == .confirm).getLast? with | some c => c.slot | none => 0

/-- A boot fault (R345). -/
def State.bootFault (s : State) (kind lo : Nat) : State := s.raise srcBOOT kind (faultAddr 63 lo)

/-- The choice of R338: the slot to try first, then the other. -/
def State.chooseSlot (s : State) : State :=
  let rs := s.liveRecords
  let put (s : State) (first : Nat) (t : Option Nat) : State :=
    { s with boot := { s.boot with choice := [first, 1 - first], trial := t } }
  match trialOf rs with
  | some (t, false) => put (s.appendRecord .tried t) t (some t)
  | some (t, true) => (put (s.appendRecord .revert t) (confOf rs) none).bootFault kImageFallback (confOf rs)
  | none => put s (confOf rs) none

/-! ## The start of boot (R323, R340 steps 1 and 2) -/

/-- The straps are latched and boot begins. -/
def State.startBoot (s : State) (st : Straps) : State :=
  let mode := st.mode.val
  let follower := st.follower && mode != 1
  let s := (s.enter 1).setF F.BOOT_STATUS_MODE mode
  let s := { s with boot := { s.boot with lead := !follower, choice := [], trial := none } }
  let s := s.setB F.YK_CFG_ROLE follower
  let s := ((s.setB F.BOOT_FUSES_KEY s.boot.keyHash.isSome).setB F.BOOT_FUSES_SVC_KEY s.boot.svcKey.isSome).setF
    F.BOOT_FUSES_ROLLBACK (min 255 s.boot.rollback)
  let region := if s.boot.flash == 0 && mode != 1 then s.boot.flashMib * 0x100000 - 0x810000 else 0
  let s := s.setReg Reg.SR_JRN_SLOTS (BitVec.ofNat 32 (region / jslotBytes))
  let s := s.setB F.SR_STATUS_PFAIL_OK s.pfailOk
  let s := s.setB F.HP_CFG_VIO_HIGH (decide (2500 < s.env.vioMv))
  let s := if mode == 1 then (s.setB F.HP_CFG_MEMBER true).setF F.HP_CFG_LANE 2 else s
  let s := (allHalves.foldl (fun (s : State) h => s.setF (F.BD_STATUS_LINK h.val) 1) s).loseCoefs
  if (mode == 0 || mode == 2) && s.boot.flash == 0 && !s.env.testSeen then s.chooseSlot else s

/-- Take what power-on finds in the flash. -/
def State.takeFlash (s : State) (f : FlashIn) : State :=
  { s with boot := { s.boot with
    flash := if !f.found then 1 else if !f.supported || f.mib < 16 || 256 < f.mib then 2 else 0
    flashMib := f.mib, suspend := f.suspend, pageUs := f.pageUs
    sectors := ⟨[sectorOf (f.records.take sectorSize), sectorOf (f.records.drop sectorSize)], rfl⟩
    slots := ⟨[f.slotA, f.slotB], rfl⟩ } }

/-- The PLL locks: boundary B(0) falls on tick 0, and swath 0 has the default length (R55, R60). -/
def State.placeZero (s : State) : State :=
  let s : State := { s with env := { s.env with pll := true } }
  ((s.setB F.TB_CLK_STATUS_PLL_LOCK true).setB F.TB_CLK_STATUS_ROOT_OK true).setF F.TB_PHASE_LENGTH s.lNom

/-- POWER_ON (R55, R340). `flash`: what the flash holds, none where it is as the device left it. -/
def execPowerOn (st : Straps) (flash : Option FlashIn) (s : State) : Host.Outcome State Fault Refusal :=
  let s := s.coldReset
  let s := match flash with | some f => s.takeFlash f | none => s
  .next (s.placeZero.startBoot st)

/-- VIN_LOSS: the device is OFF: nothing of the logic die runs, the Cellar is lost, and the field dies hold their safe
states from their own supply (R3, R216, R320). Held up, the journal loses no record, a PFAIL record that waits for a boundary of a long
swath included (R508; log entry 90). -/
def execVinLoss (s : State) : Host.Outcome State Fault Refusal :=
  let held := s.heldUp
  let s := ((s.whenB held fun s => s.writeDue.programBacklog).updSr fun x => { x with heldUp := held }).coldReset
  .next { s with env := { s.env with vin := false } }

/-- A reset that spares the Cellar, or a lost Cellar and a restart as at power-on (R321): its record goes first. -/
def State.restart (s : State) (st : Straps) (cellarOk : Bool) : State :=
  if cellarOk then (s.pinReset).startBoot st
  else
    let test := s.env.testSeen
    let s := s.coldReset
    let s := { s with env := { s.env with testSeen := test } }
    let s := s.placeZero
    let s := s.logMsg ⟨srcGRN * 2 ^ 18 + kCellarLost * 2 ^ 12 + faultAddr 7 0, true, false, clsRESET, 0, 0⟩
    (s.countSource srcGRN kCellarLost).startBoot st

/-- A wake, or a reset in Dormant: the PLL relocks, and the boundaries go on from the Cellar's counters (R59, R531). A PLL that
runs is left alone (R52). -/
def State.relock (s : State) : State :=
  if s.env.pll then s
  else (({ s with env := { s.env with pll := true } } : State).setB F.TB_CLK_STATUS_PLL_LOCK true).setB
    F.TB_CLK_STATUS_ROOT_OK true

/-- HALTED by a failed boot, with its reasons (R340, R338). -/
def State.haltBoot (s : State) (r1 r2 : Nat) : State :=
  ((s.setF F.BOOT_STATUS_REASON_1 r1).setF F.BOOT_STATUS_REASON_2 r2).enter 4

/-! ## The end of boot (R339, R340, R341, R468) -/

/-- What verification needs of the device. -/
def State.verifyEnv (s : State) : VEnv :=
  { keyHash := s.boot.keyHash, svcKey := s.boot.svcKey.isSome, rollback := s.boot.rollback
    mode := s.fld F.BOOT_STATUS_MODE, lead := s.boot.lead }

/-- The place of a first failure (BOOT_DETAIL): section type, word offset saturating. -/
def State.bootDetail (s : State) (f : VFail) : State :=
  (s.setF F.BOOT_DETAIL_TYPE f.type).setF F.BOOT_DETAIL_WORD (sat 65535 f.word)

/-- The field dies whose links carry frames get configuration and table (R127, R213). -/
def State.loadDies (s : State) : State :=
  allHalves.foldl (fun (s : State) h =>
    let s := s.syncTableCrc h
    if s.framesRun h then (s.loadDie h).tableCheck h none else s) s

/-- The reactions held in BOOT are taken, and the device enters SAFE or HALTED (R468, R473); they suspend the guarantee from here
on (R253). -/
def State.leaveBoot (s : State) : State :=
  let held := s.fc.heldReact
  let s := s.whenB (!held.isEmpty) State.suspendReact
  let s := ({ s with fc := { s.fc with heldReact := [] } } : State).enter 2
  let s := held.foldl (fun (s : State) x => s.markPending x.2.1 x.2.2.1) s
  match held.find? fun x => x.1 == clsDEVICE with
  | some (_, _, _, msg) => (s.deviceSafe msg).syncFc
  | none =>
    ({ s with fc := { s.fc with resetWait := false } } : State).syncFc

/-- The tables of a verified image are loaded, and the frames that run again carry the CRC of its safe-state tables (R205, R216); the
device stays in BOOT up to the boundary of R63 (R340 step 6). -/
def State.runImage (s : State) (i : Image) (t : Tables) : State :=
  let s := allHalves.foldl (fun (s : State) h => s.syncTableCrc h) (s.loadTables i t)
  { s with env := { s.env with linkIdle := false } }

/-- BOOT ends at the boundary of R63: field dies, SAFE, the journal, and the automatic request to arm (R340 steps 6 and 7, R343).
The time the mailbox takes between the boundary and SAFE is left out (log entry 37). -/
def State.finishBoot (s : State) : State :=
  if !s.isBoot then s
  else
    let s := allHalves.foldl (fun (s : State) h => s.restartSeq h (s.target h)) s.loadDies
    let s := s.leaveBoot
    let s := s.startJournal
    let auto := match s.boot.image with | some i => i.autoArm | none => false
    if auto && s.isSafe then
      ({ s with boot := { s.boot with autoArm := true, armReq := some (3, s.swath) } } : State).setF F.SYS_ARM_STATUS_STATE 1
    else s

/-- Try the slots of the choice: the one that verifies runs (R338); both reasons are kept. -/
def State.tryBoot (s : State) (first : Nat) : State :=
  let second := 1 - first
  let image (slot : Nat) := verifyImage s.verifyEnv (s.flashWords slot 0 imageWords)
  let trial := s.boot.trial
  let run (s : State) (slot : Nat) (x : Image × Tables) : State :=
    ((s.setF F.BOOT_STATUS_SLOT slot).setB F.BOOT_STATUS_TRIAL (trial == some slot)).runImage x.1 x.2
  match image first with
  | .ok x => run s first x
  | .error f1 =>
    let s := (s.setF F.BOOT_STATUS_REASON_1 f1.reason).bootDetail f1
    let s := s.bootFault kImageFallback second
    match image second with
    | .ok x => run s second x
    | .error f2 => s.haltBoot f1.reason f2.reason

/-- BOOT_COMPLETE: boot ends in HALTED, or a verified image is loaded and the boundary of R63 that follows ends it in SAFE (R324,
R338-R340). A flashless member stays in BOOT (R341). -/
def execBootComplete (s : State) : Host.Outcome State Fault Refusal :=
  .next <|
    if !s.isBoot || !s.env.pll || s.boot.image.isSome then s
    else if s.env.testSeen || s.fld F.BOOT_STATUS_MODE == 3 then s.haltBoot 0x0E 0
    else if s.fld F.BOOT_STATUS_MODE == 1 then s
    else if s.boot.flash != 0 then s.haltBoot s.boot.flash 0
    else s.tryBoot (s.boot.choice.getD 0 0)

/-- MEMBER_IMAGE_VERIFY: a flashless member has received its image and verifies it (R341, R420): it reaches SAFE at the boundary of
R63, or discards the image, keeps the reason and waits for a new delivery. -/
def execMemberImageVerify (s : State) : Host.Outcome State Fault Refusal :=
  .next <|
    if !s.isBoot || s.fld F.BOOT_STATUS_MODE != 1 || s.hp.dstate != 2 || s.env.testSeen then s
    else
      let ws := s.boot.stage
      let s := { s with boot := { s.boot with stage := [] } }
      match verifyImage s.verifyEnv ws with
      | .ok (i, t) =>
        let s := { s with hp := { s.hp with dstate := 0 } }
        (s.setF F.BOOT_STATUS_REASON_1 0).runImage i t
      | .error f =>
        let s := { s with hp := { s.hp with dstate := 3 } }
        (s.setF F.BOOT_STATUS_REASON_1 f.reason).bootDetail f

/-! ## Reaction resets, brown-out and the end of a wake (R468, R527, R528) -/

/-- The straps as they were latched: a reaction reset does not latch them again (R323). -/
def State.strapsNow (s : State) : Straps :=
  { mode := ⟨s.fld F.BOOT_STATUS_MODE % 4, by omega⟩, follower := !s.boot.lead }

/-- WAKE_READY: the domains of a latched wake are ready, so that it exits at the next boundary (R527); from Dormant the PLL
relocks and the links begin to train, which the exit waits for (R59, R218). The Cellar's CRCs are checked at each wake (R321). -/
def execWakeReady (cellarOk : Bool) (s : State) : Host.Outcome State Fault Refusal :=
  .next <|
    if s.pwr.wake.isNone || s.pwr.mode == 0 || s.pwr.ready then s
    else if !cellarOk then s.restart s.strapsNow false
    else
      let s := if s.pwr.mode == 1 then s.elapse (s.tick + 24) else s
      let s := if s.pwr.mode == 4 then
          allHalves.foldl (fun (s : State) h => s.setF (F.BD_STATUS_LINK h.val) 1) s.relock else s
      s.updPwr fun x => { x with ready := true }

end Sys2Proof.Machine
end

