-- ==== Sys2Proof/Machine/Stage.lean ====
section
/-!
DEFINITION. Machine/Stage.lean: commissioning (R335), anti-rollback (R336), staging (R342) and arming (R343).
-/
namespace Sys2Proof.Machine

/-! ## Commissioning (R335) -/

/-- Key 0x6B in SYS_COMMISSION: dropped unless both fuse sets are blank and the device is HALTED with reason 0x04. -/
def State.commission (s : State) : State :=
  if s.boot.keyHash.isSome || s.boot.svcKey.isSome || !s.isHalted || s.fld F.BOOT_STATUS_REASON_1 != 4 ||
      s.fld F.SYS_COMMISSION_STATE == 1 then s
  else
    let bytes := (List.range 92).map fun i => s.readByte (generalBase + i)
    ({ s with boot := { s.boot with keyInput := bytes } } : State).setF F.SYS_COMMISSION_STATE 1

/-- COMMISSION. -/
def execCommission (s : State) : Host.Outcome State Fault Refusal := s.hostKey fun s => s.commission

/-- COMMISSION_DONE: fusing ends with its readback (R335); after a mismatch the device never verifies an image. -/
def execCommissionDone (ok : Bool) (s : State) : Host.Outcome State Fault Refusal :=
  .next <|
    if s.fld F.SYS_COMMISSION_STATE != 1 then s
    else
      let b := s.boot.keyInput
      let hash := if ok then sha256 (b.take 60) else badHash
      let s := { s with boot := { s.boot with
        keyHash := some hash, svcKey := some (wordsOfBytes (b.drop 60)), keyInput := [] } }
      let s := (s.setB F.BOOT_FUSES_KEY true).setB F.BOOT_FUSES_SVC_KEY true
      s.setF F.SYS_COMMISSION_STATE (if ok then 2 else 3)

/-! ## Anti-rollback (R336) -/

/-- Key 0x9C: the counter rises to the SVN of the running image, not for an unconfirmed trial. -/
def State.rollbackRaise (s : State) : State :=
  match s.boot.image with
  | none => s
  | some i =>
    if s.flag F.BOOT_STATUS_TRIAL then s
    else
      let n := max s.boot.rollback (wbits i.word3 7 0)
      ({ s with boot := { s.boot with rollback := n } } : State).setF F.BOOT_FUSES_ROLLBACK (min 255 n)

/-- ROLLBACK_RAISE. -/
def execRollbackRaise (s : State) : Host.Outcome State Fault Refusal := s.hostKey fun s => s.rollbackRaise

/-! ## Staging (R342) -/

/-- The slot that does not run. -/
def State.otherSlot (s : State) : Nat := 1 - s.slotRun

/-- Replace the words of a slot. -/
def State.setSlot (s : State) (slot : Nat) (ws : List Word) : State :=
  { s with boot := { s.boot with slots := s.boot.slots.mapIdx fun k x => if k = slot then ws else x } }

/-- Staging is open in SAFE, ARMED and HALTED. -/
def State.mayStage (s : State) : Bool := s.isSafe || s.isArmed || s.isHalted

/-- STAGE_STATUS. -/
def State.setStage (s : State) (st reason : Nat) : State :=
  (s.setF F.STAGE_STATUS_STATE st).setF F.STAGE_STATUS_REASON reason

/-- Key 0x11: REVERT for a pending trial of the other slot, and its erase begins. -/
def State.stageOpen (s : State) : State :=
  if !s.mayStage then s
  else
    let k := s.otherSlot
    let s := match trialOf s.liveRecords with
      | some (t, _) => if t == k then s.appendRecord .revert k else s
      | none => s
    let s := (if s.env.pfail then s else s.setSlot k []).setStage 1 0
    ({ s with boot := { s.boot with programming := false, checkWaits := false } } : State).setF F.STAGE_NEXT_NEXT 0

/-- STAGE_OPEN. -/
def execStageOpen (s : State) : Host.Outcome State Fault Refusal := s.hostKey fun s => s.stageOpen

/-- STAGE_ERASE_DONE: STAGE_STATUS reads OPEN; an erase is suspended while PFAIL_N is asserted (R507). -/
def execStageEraseDone (s : State) : Host.Outcome State Fault Refusal :=
  .next (if s.fld F.STAGE_STATUS_STATE == 1 && !s.env.pfail then ((s.setSlot s.otherSlot []).setStage 2 0).setF F.STAGE_NEXT_NEXT 0 else s)

/-- The data of a transaction are programmed, or the program fails: FAILED with reason 0x0D (R363). Not while PFAIL_N is asserted
(R507). -/
def State.programDone (s : State) (ok : Bool) : State :=
  if !s.boot.programming || s.env.pfail then s
  else
    let check := s.boot.checkWaits
    let s := { s with boot := { s.boot with programming := false, checkWaits := false } }
    if s.fld F.STAGE_STATUS_STATE != 2 then s
    else if !ok then (s.setStage 5 0x0D).bootFault kStageFail 0x0D
    else if check then s.setStage 3 0 else s

/-- Key 0x22: the check begins; while the flash still programs the last data, it begins when they are programmed (R342; DEDUCED, log entry
45). -/
def State.stageCheck (s : State) : State :=
  if s.mayStage && s.fld F.STAGE_STATUS_STATE == 2 then
    if s.boot.programming then { s with boot := { s.boot with checkWaits := true } } else s.setStage 3 0
  else s

/-- STAGE_CHECK. -/
def execStageCheck (s : State) : Host.Outcome State Fault Refusal := s.hostKey fun s => s.stageCheck

/-- The reason of the first failure of a staged slot: the boot image by R339, then every class image by its digest. -/
def State.stageVerdict (s : State) : Option Nat :=
  let k := s.otherSlot
  match verifyImage s.verifyEnv (s.flashWords k 0 imageWords) with
  | .error f => some f.reason
  | .ok (_, t) =>
    if t.classes.all fun c => imageDigest (s.flashWords k (c.offset / 4) (c.length / 4)) == c.digest then none else some 0x20

/-- STAGE_CHECK_DONE: VERIFIED, or FAILED with a reason. -/
def execStageCheckDone (s : State) : Host.Outcome State Fault Refusal :=
  .next <|
    if s.fld F.STAGE_STATUS_STATE != 3 then s
    else match s.stageVerdict with
      | none => s.setStage 4 0
      | some r => (s.setStage 5 r).bootFault kStageFail r

/-- Key 0x33: ACTIVATE is appended for a verified slot. -/
def State.stageActivate (s : State) : State :=
  if s.fld F.STAGE_STATUS_STATE == 4 then (s.appendRecord .activate s.otherSlot).setStage 6 0 else s

/-- STAGE_ACTIVATE. -/
def execStageActivate (s : State) : Host.Outcome State Fault Refusal := s.hostKey fun s => s.stageActivate

/-- Key 0x44: CONFIRM is appended for the running trial. -/
def State.stageConfirm (s : State) : State :=
  if s.flag F.BOOT_STATUS_TRIAL && s.boot.image.isSome then
    (s.appendRecord .confirm s.slotRun).setB F.BOOT_STATUS_TRIAL false else s

/-- STAGE_CONFIRM. -/
def execStageConfirm (s : State) : Host.Outcome State Fault Refusal := s.hostKey fun s => s.stageConfirm

/-! ## Arming (R343, R259) -/

/-- Key 0xA7 with a mask of halves: dropped for an empty mask, and while a host request is pending (R344); it takes the place
of an automatic request, and counts as an unstamped write. -/
def State.armRequest (s : State) (mask : Nat) : State :=
  if mask % 4 == 0 || (s.boot.armReq.isSome && !s.boot.autoArm) then s
  else
    let s := { s with boot := { s.boot with autoArm := false, armReq := some (mask % 4, s.swath) } }
    (s.setF F.SYS_ARM_STATUS_STATE 1).unstamped

/-- ARM_REQUEST. -/
def execArmRequest (mask : BitVec 2) (s : State) : Host.Outcome State Fault Refusal := s.hostKey fun s => s.armRequest mask.toNat

/-- The tables in force are present, verified and consistent: the check of R24, repeated at every arming, on the sections that run
(those of the image, with the sets applied since), budgets at the level in force. -/
def State.tablesHold (s : State) : Bool :=
  match s.boot.image with
  | none => false
  | some i => match verifySections (s.roleOf i) i.sections (some (s.fld F.PWR_STATUS_LEVEL)) with
    | .ok _ => true
    | .error _ => false

/-- The code of the first condition of R343 that fails for the halves of a mask, 0 for none. A Mirror survivor may be armed again
only after a new join (R446), which is refused with the code of the join (DEDUCED, log entry 71). -/
def State.armCode (s : State) (mask : Nat) : Nat :=
  let hs := allHalves.filter fun h => mask.testBit h.val
  let ys := s.fld F.YK_STATUS_STATE
  if !(s.isSafe || (s.isArmed && hs.all fun h => !s.armed h.val)) then 1
  else if !s.tablesHold then 2
  else if !hs.all (fun h => (s.half h).loaded && !(s.half h).forced && s.flag (F.BD_STATUS_TABLE_OK h.val)) then 3
  else if !hs.all (fun h => !(s.half h).uv && !s.linkTimedOut h) then 4
  else if s.yokeMode != 0 && (ys < 4 || (s.yokeMode == 2 && ys == 6)) then 5
  else if s.fc.resetting || !hs.all (fun h => !s.isPending h.val) then 6
  else if s.recfg.met == some s.swath then 7
  else 0

/-- A pair is set up at an arming from none (R259, R304): data image, timers, derived entries 0 with VALID, command 0. A halted pair
stays halted at the start of its evaluation (R289, R290). -/
def State.setUpPair (s : State) (p : PairIx) : State :=
  let x := s.pairs.get p
  let n := s.swath
  let img := match x.prog with | some pr => pr.data | none => []
  let dm := (List.range img.length).foldl (fun m i => Sparse.put (fun _ => 0#32) m i (img.getD i 0#32)) []
  let s := s.updPair p fun y => { y with
    dmem := dm, timers := []
    ctx := match x.halted, x.prog with | true, some pr => some (freshCtx .real n pr 0 dm []) | _, _ => none
    tines := [], commit := none, judged := false, done := false, outcome := 0
    tine := 15, discarded := false, bands := [], judgeFrom := some n, watch := [], due := [], owed := [] }
  let run := x.prog.isSome && x.blocked.isNone && !x.halted
  let s := s.whenB x.halted fun s => (s.setB (F.BND_STATUS_AT_BKPT p.val) false).showPc p
  s.whenB run fun s => s.setF (F.BND_STATUS_STATE p.val) 1

/-- An entry at an arming that sets up the pairs, for swath `n` (R259, R304): a copy that is due stands, word 3 starts at 0, and
a derived entry holds 0 with VALID, unless its pair is blocked: that one keeps its value and STALE (R286). -/
def Entry.setUp (e : Entry) (blocked : Bool) (n : Word) : Entry :=
  let e := e.readFor n
  if e.cls == 6 && !blocked then { (e.write 0#32 1 false n) with count := 0#32, pend := none }
  else { e with count := 0#32 }

/-- The set-up of all pairs, and word 3 of every entry (R259, R304). -/
def State.setUpPairs (s : State) : State :=
  let s := allPairs.foldl (fun s p => s.setUpPair p) s
  let n := s.swath32
  let blocked (e : Entry) : Bool := allPairs.any fun p => (s.pairs.get p).blocked.isSome && e.src == srcDerived p.val
  let s := { s with
    sig := s.sig.map fun x => (x.1, x.2.setUp (blocked x.2) n)
    pipe := { s.pipe with forced := s.pipe.forced.map fun (f : Nat × Word × Word × Word) => (f.1, f.2.1, f.2.2.1, 0#32) } }
  let s := allCh.foldl (fun (s : State) c =>
    if s.flag (F.CH_CMD_SRC_EN c.val) && (s.entry (s.fld (F.CH_CMD_SRC_INDEX c.val))).cls == 6 then
      { s with out := s.out.upd c fun _ => {} } else s) s
  s.updPwr fun x => { x with woken := false }

/-- A half arms (R89, R103, R121, R123, R305): the filters and the counts since arming of its channels start at 0. -/
def State.armHalf (s : State) (h : HalfIx) : State :=
  let skip := s.onInSafe h
  let s := s.setF F.SYS_STATE_ARMED_HALVES (s.fld F.SYS_STATE_ARMED_HALVES ||| 2 ^ h.val)
  let s := s.whenB skip fun s => s.addF (F.FH_COUNTS_GATE_SKIP h.val) 1
  let dis := (chOf h).map fun c => s.func c == fDI
  let off (w : Win) : Win := { w with
    chans := w.chans.mapIdx fun i (y : ChWin) => if dis.getD i false then { y with bit0 := false } else y }
  let s := s.updHalf h fun x => { x with
    disarmTick := none, gateDue := !skip, gateTest := none, win := x.win.map off, winOld := x.winOld.map off }
  (chOf h).foldl (fun (s : State) c =>
    let di := s.func c == fDI
    let clear (m : Smp) : Smp := if di then { m with bit0 := false } else m
    s.updChan c fun x => { x with
      filt := 0, state := false, smp := clear x.smp
      pulses := 0#32, pulsesB := 0#32, closures := 0#32, closuresB := 0#32 }) s

/-- The halves of a mask are armed at this boundary. -/
def State.armHalves (s : State) (mask : Nat) : State :=
  let none := s.fld F.SYS_STATE_ARMED_HALVES == 0
  let s := ((allHalves.filter fun h => mask.testBit h.val).foldl (fun s h => s.armHalf h) s).enter 3
  let s := s.whenB none State.setUpPairs
  let s := allHalves.foldl (fun (s : State) h => s.updHalf h fun x => { x with nightTx := false }) s
  let s := allUnits.foldl (fun (s : State) u => s.unsync u) s
  let now := s.pipe.now &&& (31 - cREACTION)
  let s := { s with pipe := { s.pipe with reacted := false, now := now, lateB := suspends now } }
  let s := (s.updYk fun y => { y with checksOk := true }).syncReady
  allCh.foldl (fun (s : State) c => s.updChan c fun x => { x with safeL := s.safeCause c }) s

/-- ARMING: at a boundary the waiting request is judged: its halves are armed, or it is refused whole (R343). An automatic
request stays until it succeeds. -/
def execArming (s : State) : Host.Outcome State Fault Refusal :=
  .next <|
    match s.boot.armReq with
    | none => s
    | some (mask, since) =>
      if !s.atBoundary || s.swath ≤ since then s
      else
        let code := s.armCode mask
        if code == 0 then
          let s := { s with boot := { s.boot with armReq := none, autoArm := false } }
          (s.armHalves mask).setF F.SYS_ARM_STATUS_STATE 2
        else
          let again := if s.boot.autoArm then some (mask, s.swath) else none
          let s := { s with boot := { s.boot with armReq := again } }
          let s := (s.setF F.SYS_ARM_STATUS_STATE (if s.boot.autoArm then 1 else 3)).setF F.SYS_ARM_STATUS_CODE code
          s.bootFault kArmRefused code

end Sys2Proof.Machine
end

