-- ==== Sys2Proof/Machine/Regio.lean ====
section
/-!
DEFINITION. Machine/Regio.lean: what the host reads and writes at one word address: the address map (R38-R40), access codes
(R13-R17), registers whose read is computed, registers whose write acts, the Granary (R293, R294), and blocks that are off
(R370, R519).
-/
namespace Sys2Proof.Machine

/-! ## Reads -/

/-- The clock of a pair runs (R517): while its tines or its commit drain run, and from 24 ticks before Thresh ends until its result for
the swath is settled. -/
def State.pairClocked (s : State) (p : PairIx) : Bool :=
  let x := s.pairs.get p
  (match x.ctx with | some c => !(c.ended || x.halted) | none => false) || decide (s.tick < x.drainEnd)
    || (x.prog.isSome && !x.done && decide (s.threshTicks ≤ s.inSwath + 24))

/-- The pairs are idle in Run with NAP_EN: PWR_STATUS shows NAP (R517). -/
def State.napping (s : State) : Bool :=
  s.pwr.mode == 0 && s.flag F.PWR_CFG_NAP_EN && s.pwr.handover.isNone && allPairs.all fun p => !s.pairClocked p

/-- GLN_MBR_INFO, STATUS and REASON of the member selected; position 0 or above N reads 0 (spec/13). -/
def State.memberWindow (s : State) : List Word :=
  let k : Fin 32 := ⟨wbits (s.reg Reg.GLN_MBR_SEL) 12 8 % 32, by omega⟩
  let j := wbits (s.reg Reg.GLN_MBR_SEL) 7 0
  if j == 0 || s.segN k.val < j then [0#32, 0#32, 0#32]
  else
    let m := s.member k j
    [BitVec.ofNat 32 (m.state * 2 ^ 28 + min m.fails 15 * 2 ^ 24 + m.cls % 256 * 2 ^ 16 + m.layout % 256 * 2 ^ 8 + m.delta % 256),
      m.status, BitVec.ofNat 32 (m.reason % 256 * 2 ^ 24 + m.next % 2 ^ 19)]

/-- The part slot selected. -/
def State.slotWindow (s : State) : List Word :=
  slotRegs (s.sr.slots.get ⟨wbits (s.reg Reg.SR_SLOT_SEL) 4 0 % 32, by omega⟩)

/-- Registers whose value is computed at the read. -/
def State.viewReg (s : State) (a : Nat) : Option Word :=
  if a == Reg.HP_CFG then some (wput (s.reg a) 30 30 (b2n (decide (2500 < s.env.vioMv))))
  else if a == Reg.HP_STATUS then some (wput (s.reg a) 6 0 s.queue.length)
  else if a == Reg.HP_FORCED then some (BitVec.ofNat 32 s.forces.length)
  else if a == Reg.PWR_STATUS then (if s.napping then some (wput (s.reg a) 31 28 1) else none)
  else if a == Reg.GLN_STATUS then some (wput (s.reg a) F.GLN_STATUS_STATE.hi F.GLN_STATUS_STATE.lo s.glnState)
  else if Reg.GLN_MBR_INFO ≤ a && a ≤ Reg.GLN_MBR_REASON then s.memberWindow[(a - Reg.GLN_MBR_INFO) / 4]?
  else if (List.range 15).any fun i => Reg.SR_PUBKEY i == a then
    (wordsOfBytes (hssPublic s.sr.seed))[(a - Reg.SR_PUBKEY 0) / 4]?
  else if Reg.SR_SLOT_INFO ≤ a && a ≤ Reg.SR_SLOT_EOL then s.slotWindow[(a - Reg.SR_SLOT_INFO) / 4]?
  else if a == Reg.THR_HSTAT 0 || a == Reg.THR_HSTAT 1 then
    let h : HalfIx := if a == Reg.THR_HSTAT 0 then 0 else 1
    some (s.hstatWord h)
  else if 0x40000 ≤ a && a < 0x50000 then
    ((s.pairWindows ⟨(a - 0x40000) / 0x4000 % 4, by omega⟩).find? fun r => r.1 == a).map fun r => r.2
  else none

/-- Is an address inside a Crib window (R38)? -/
def cribWindow (a : Nat) : Option CribIx :=
  if 0x38000 ≤ a && a < 0x3A000 then some ⟨(a - 0x38000) / 0x100 % 32, by omega⟩ else none

/-- Is a block without clock or power: the Binder, whose clock stops in Doze and Hibernate, Gleaner and Yoke in Hibernate, every block
of the core in Dormant (R515, R519)? -/
def State.blockOff (s : State) (a : Nat) : Bool :=
  !s.coreOn || (s.pwr.mode == 1 || s.pwr.mode == 2) && decide (0x40000 ≤ a) && decide (a < 0x60000)
    || s.pwr.mode == 2 && decide (0x7000 ≤ a) && decide (a < 0x9000)

/-- The device presents a Wide pair as one unit (R40). -/
def State.wideLead (s : State) : Bool := s.yokeMode == 1 && s.boot.lead

/-- The address of the follower's register behind a host address of a Wide lead (R39, R40). -/
def State.twinOf (s : State) (a : Nat) : Option Nat := if s.wideLead then followerAddr a else none

/-- The snapshot bank reads 0 where the live bank has PC_CTRL and PC_STATUS (spec/18). -/
def bankHole (a : Nat) : Bool := a == 0x6800 || a == 0x6804

/-- A word the host reads: its status as R371 codes it (0 mapped and powered, 2 BLOCK_OFF, 8 UNMAPPED), and its value. -/
def State.hostRead (s : State) (a : Nat) : Nat × Word :=
  if s.blockOff a then (2, 0#32)
  else if signalBase ≤ a then
    if a < loftBase || inLoft a || inGeneral a then (0, s.granaryWord a) else (8, 0#32)
  else if bankHole a then (0, 0#32)
  else match s.twinOf a with
    | some f => match regRow? (canonAddr f) with
      | some r => (0, if r.acc == .wo then 0#32
          else Sparse.get leadReset s.yk.image (leadAddr (canonAddr f)))
      | none => (8, 0#32)
    | none => match regRow? (canonAddr a) with
      | some r => (0, if r.acc == .wo then 0#32 else (s.viewReg (canonAddr a)).getD (s.reg (canonAddr a)))
      | none => (8, 0#32)

/-- A fetch begins to count anew what the registers it returns take in from it on (R14). -/
def State.rcMark (s : State) (xs : List Nat) : State :=
  { s with regs := s.regs.filter fun x => !xs.any fun a => canonAddr a + newsBase == x.1 }

/-- An RC register is cleared: it keeps what it has taken in since the fetch of the read (R14). -/
def State.rcClear (s : State) (a : Nat) : State := s.setReg a (s.reg (a + newsBase))

/-- Fields of a counting register of the blocks that a Wide lead presents for its follower (R40). -/
def rcFields (a : Nat) : List (Nat × Nat) :=
  if decide (0x210 ≤ a) && decide (a < 0x250) then [(31, 16), (15, 0)]
  else if decide (0x10000 ≤ a) && decide (a < 0x14000) then [(31, 24), (23, 16), (15, 8), (7, 0)]
  else if decide (0x28000 ≤ a) && decide (a < 0x2A000) then [(31, 16), (15, 8), (7, 0)]
  else [(31, 24), (23, 16), (15, 0)]

/-- Two parts of what an RC register has taken in, as one: flags together, the larger maximum, sums that saturate (R14). -/
def rcJoin (a : Nat) (x y : Word) : Word :=
  if decide (0x3100 ≤ a) && decide (a < 0x3140) then x ||| y
  else if decide (0x40000 ≤ a) && a % 0x4000 == 0x1C then (if x.toNat < y.toNat then y else x)
  else (rcFields a).foldl (fun (w : Word) f =>
    wput w f.1 f.2 (sat (2 ^ (f.1 - f.2 + 1) - 1) (wbits x f.1 f.2 + wbits y f.1 f.2))) 0#32

/-- What an RC register of a Wide follower has taken in since the block of a lead swath, low 32 bits `n`, showed it (R14, R443). -/
def State.rcSince (s : State) (a n : Nat) : Word :=
  s.yk.rcLog.foldl (fun (w : Word) x =>
    let d := (x.1 + 2 ^ 32 - n % 2 ^ 32) % 2 ^ 32
    if 0 < d && d < 2 ^ 31 then rcJoin a w (Sparse.get regReset x.2 (a + newsBase)) else w) (s.reg (a + newsBase))

/-- A read transaction with status OK that returned a register clears it if it is RC (R15); a Wide lead sends the clear to the
follower, with the swath `n` of the block its image showed at the fetch (R443). SYS_RECFG_STATUS shows the set in hand again (R30). -/
def State.readDone (s : State) (a n : Nat) : State :=
  if signalBase ≤ a then s
  else match s.twinOf a with
    | some f => match regRow? (canonAddr f) with
      | some r => if r.acc == .rc then s.updYk fun y => { y with forward := y.forward ++ [(canonAddr f, BitVec.ofNat 32 n, true)] } else s
      | none => s
    | none => match regRow? (canonAddr a) with
      | some r =>
        if r.acc == .rc then s.rcClear (canonAddr a)
        else if a == Reg.SYS_RECFG_STATUS then match s.recfg.shadow with
          | some (st, reason) =>
            ({ s with recfg := { s.recfg with shadow := none } } : State).setRecfg st reason
          | none => s
        else s
      | none => s

/-! ## Writes -/

/-- W1C bits of a register that the device set in this tick: a clear of this tick leaves them (R14). -/
def State.freshBits (s : State) (a : Nat) : Word :=
  if 0x10000 ≤ a && a < 0x14000 then
    let x := s.chan ⟨(a - 0x10000) / 0x400 % 16, by omega⟩
    if x.bitsTick == s.tick then x.evBits else 0#32
  else if 0x20000 ≤ a && a < 0x22000 then
    let x := s.chan ⟨(a - 0x20000) / 0x200 % 16, by omega⟩
    if x.bitsTick == s.tick then x.thrBits else 0#32
  else 0#32

/-- The bits a write of a register line sets, and W1C bits a 1 clears (R13, R14, R16). -/
def State.plainWrite (s : State) (r : RegRow) (a : Nat) (v : Word) : State :=
  let m := BitVec.ofNat 32 r.wmask
  let c := BitVec.ofNat 32 r.w1c &&& ~~~s.freshBits a
  s.setReg a (((s.reg a &&& ~~~m) ||| (v &&& m)) &&& ~~~(v &&& c))

/-- A write of HP_CFG: FLOW, and LANE unless it is 3 (R348, R17); in force from the next falling edge of HSEL_N. -/
def State.writeHpCfg (s : State) (v : Word) : State :=
  let s := s.setF F.HP_CFG_FLOW (wbits v 2 2)
  if wbits v 1 0 == 3 then s else s.setF F.HP_CFG_LANE (wbits v 1 0)

/-- A write of CRIB_WMARK: a WMARK outside 1 to 2^k is dropped (spec/09, R17). -/
def State.writeWmark (s : State) (c : CribIx) (v : Word) : State :=
  let w := wbits v 16 0
  let s := s.setF (F.CRIB_WMARK_EN c.val) (wbits v 31 31)
  (if 1 ≤ w && w ≤ s.ringSize c.val then s.setF (F.CRIB_WMARK_WMARK c.val) w else s).syncCrib c

/-- THR_AT_CLEAR: key 0xC1 clears the all-time extremes at the next boundary; an unstamped write (R160). -/
def State.atClear (s : State) (c : ChIx) : State := (s.updChan c fun x => { x with atClear := true }).unstamped

/-- At the boundary the extremes that a key names are cleared; THR_AT_SINCE records the swath (R160). -/
def State.applyAtClear (s : State) (c : ChIx) : State :=
  if !(s.chan c).atClear then s
  else
    let t := s.tick
    let s := s.updChan c fun x => { x with atClear := false, aMin := 0x7FFF, aMax := -0x8000, atTick := t }
    let s := [Reg.THR_AT_PMIN c.val, Reg.THR_AT_PMAX c.val, Reg.THR_AT_FMINMAX c.val].foldl
      (fun (s : State) a => s.setReg a (regReset a)) s
    s.setReg (Reg.THR_AT_SINCE c.val) s.swath32

/-- A write of CHn_FLAGS: event bits clear, and a 1 in LATCHED releases the overload latch (R13, R14, R93). -/
def State.writeChFlags (s : State) (c : ChIx) (v : Word) : State :=
  let a := Reg.CH_FLAGS c.val
  let s := s.setReg a (s.reg a &&& ~~~(v &&& 0xFFF#32 &&& ~~~s.freshBits a))
  if wbit v 12 then s.releaseLatch c else s

/-- A key of BOOT_CTRL (R336, R342). -/
def State.bootKey (s : State) (key : Nat) : State :=
  if key == 0x11 then s.stageOpen
  else if key == 0x22 then s.stageCheck
  else if key == 0x33 then s.stageActivate
  else if key == 0x44 then s.stageConfirm
  else if key == 0x9C then s.rollbackRaise
  else s

/-- A key of PC_CTRL (R538). -/
def State.pcWrite (s : State) (key : Nat) : State :=
  if key == 0xF0 then s.pcKey 2
  else if key == 0xF1 then s.pcKey 3
  else if key == 0x5A then s.pcKey 0
  else if key == 0xC0 then s.pcKey 1
  else s

/-- What an execution on this state leaves; a command that stops leaves it as it was. -/
def State.after (s : State) (f : State → Host.Outcome State Fault Refusal) : State :=
  match f s with | .next t => t | _ => s

/-- A debug key (R288-R290). -/
def State.debugKey (s : State) (p : PairIx) (key : Nat) : State :=
  if key == 0x48 then s.after (execBndHalt p)
  else if key == 0x52 then s.after (execBndResume p)
  else if key == 0x53 then s.after (execBndStep p)
  else s

/-- Registers whose write acts, in the blocks of the System Controller, the Host Port, the collector, the watchdog, Power, the
check-value units, the counters, the Yoke, the Service Record and the timebase; none for a register that only follows its
access code. -/
def State.actLow (s : State) (isSealed : Bool) (a : Nat) (v : Word) : Option State :=
  let key := wbits v 31 24
  if a == Reg.SYS_RECFG_CTRL then
    some (if key == 0xC5 then s.recfgCommit (wbits v 15 0) else if key == 0xCA then s.recfgCancel else s)
  else if a == Reg.BOOT_CTRL then some (s.bootKey key)
  else if a == Reg.SYS_ARM then some (if key == 0xA7 then s.armRequest (wbits v 1 0) else s)
  else if a == Reg.SYS_COMMISSION then some (if key == 0x6B then s.commission else s)
  else if a == Reg.HP_CFG then some (s.writeHpCfg v)
  else if a == Reg.HP_BUSY_LIMIT then some (if wbits v 15 0 == 0 then s else s.setReg a (v &&& 0xFFFF#32))
  else if a == Reg.FC_CLEAR then
    some (if key == 0xC7 then s.clearReq (wbits v 15 0) (wbits v 17 16) (wbit v 20) else s)
  else if a == Reg.FC_FORCE_CTRL then some (if key == 0xF5 then s.injectKey else s)
  else if a == Reg.WDG_KICK then some (s.wdgKick (wbits v 15 0) isSealed)
  else if a == Reg.PWR_TARGET then some (s.powerRequest v)
  else if Reg.CVU_CFG 0 ≤ a && a < Reg.CVU_CFG 4 then
    let u : UnitIx := ⟨(a - Reg.CVU_CFG 0) / 64 % 4, by omega⟩
    if a == Reg.CVU_CTRL u.val then some (if key == 0x5C then s.scanKey u else s)
    else if a == Reg.CVU_SESSION u.val then some (s.sessionWrite u v isSealed)
    else none
  else if a == Reg.PC_CTRL then some (s.pcWrite key)
  else if a == Reg.YK_CTRL then some (if key == 0x4A then s.joinRetry else s)
  else if a == Reg.SR_WIN_SEL then some (s.writeWinSel v)
  else if a == Reg.SYNC_CTRL then some (s.writeSyncCtrl v)
  else none

/-- Registers whose write acts in the blocks of channels, halves, banks, spares, Cribs and pairs. -/
def State.actHigh (s : State) (a : Nat) (v : Word) : Option State :=
  let key := wbits v 31 24
  if 0x10000 ≤ a && a < 0x14000 then
    let c : ChIx := ⟨(a - 0x10000) / 0x400 % 16, by omega⟩
    let h := halfOf c
    if a == Reg.CH_FLAGS c.val then some (s.writeChFlags c v)
    else if a == Reg.FH_CTRL h.val then
      some (if key == 0xA5 then s.uvRearm h else if key == 0x5F then s.fieldReset h else s)
    else none
  else if 0x20000 ≤ a && a < 0x22000 then
    let c : ChIx := ⟨(a - 0x20000) / 0x200 % 16, by omega⟩
    let h := halfOf c
    if a == Reg.THR_AT_CLEAR c.val then some (if key == 0xC1 then s.atClear c else s)
    else if a == Reg.THR_REF h.val then some (s.writeRefBuf h v)
    else none
  else if a == Reg.SEQ_CTRL 0 then some (if wbit v 0 then s.seqGo 0 else s)
  else if a == Reg.SEQ_CTRL 1 then some (if wbit v 0 then s.seqGo 1 else s)
  else if a == Reg.SPR_CTRL then some (if key == 0x3E then s.parkEnd (if wbit v 0 then 1 else 0) else s)
  else if 0x30000 ≤ a && a < 0x30800 then
    let c : CribIx := ⟨(a - 0x30000) / 64 % 32, by omega⟩
    if a == Reg.CRIB_WMARK c.val then some (s.writeWmark c v) else none
  else if 0x40000 ≤ a && a < 0x50000 then
    let p : PairIx := ⟨(a - 0x40000) / 0x4000 % 4, by omega⟩
    if a == Reg.BND_DBG_CTRL p.val then some (s.debugKey p key) else none
  else none

/-- A register write that acts, if the register is one of those. -/
def State.actWrite (s : State) (isSealed : Bool) (a : Nat) (v : Word) : Option State :=
  if a < 0x10000 then s.actLow isSealed a v else s.actHigh a v

/-- A host write of a register: one that acts, or one that follows its access code (R13). -/
def State.regWrite (s : State) (isSealed : Bool) (r : RegRow) (a : Nat) (v : Word) : State :=
  match s.actWrite isSealed a v with
  | some t => t
  | none => s.plainWrite r a v

/-- A host write of one word: its status as R371 codes it (0 accepted, 2 BLOCK_OFF, 5 DENIED, 8 UNMAPPED), and the effect
(R293, R294, R369, R370, R398, R443, R476). -/
def State.hostWrite (s : State) (isSealed : Bool) (a : Nat) (v : Word) : Nat × State :=
  if s.blockOff a then (2, s)
  else if signalBase ≤ a then
    if a < loftBase then
      let i := (a - signalBase) / 32
      if (a - signalBase) % 32 == 0 && s.isHostEntry i then (0, s.hostValue i v) else (5, s)
    else if inLoft a then (5, s)
    else if inGeneral a then (0, s.writeMem a v)
    else (8, s)
  else if bankHole a then (0, s)
  else match s.twinOf a with
    | some f => match regRow? (canonAddr f) with
      | some r =>
        (0, if r.acc == .ro || r.acc == .rc then s
          else (s.updYk fun y => { y with forward := y.forward ++ [(canonAddr f, v, false)] }).unstamped)
      | none => (8, s)
    | none => match regRow? (canonAddr a) with
      | some r =>
        let refused := decide (Reg.CVU_CFG 0 ≤ a) && decide (a < Reg.CVU_CFG 4) && a % 64 == 0x1C
          && !(isSealed && s.fld (F.CVU_CFG_MODE ((a - Reg.CVU_CFG 0) / 64)) == 2)
        let kick := canonAddr a == Reg.WDG_KICK && s.flag F.WDG_CFG_SEALED && !isSealed
        if refused then (5, s) else (if kick then 5 else 0, s.regWrite isSealed r (canonAddr a) v)
      | none => (8, s)

/-- A write that R288 refuses whole: a debug key or a breakpoint outside bench mode; the pair it names. A Wide lead numbers the pairs of its follower 4-7 and refuses for them too. -/
def State.debugDenied (s : State) (a : Nat) (v : Word) : Option Nat :=
  if s.bench || !(0x40000 ≤ a && (a < 0x50000 || s.wideLead && a < 0x60000)) then none
  else
    let p := (a - 0x40000) / 0x4000
    let off := (a - 0x40000) % 0x4000
    let key := wbits v 31 24
    if (off == 0x100 && (key == 0x48 || key == 0x52 || key == 0x53)) || [0x110, 0x114, 0x118, 0x11C].contains off then some p
    else none

/-- HALT_REFUSED of a pair, 4-7 for those a Wide lead presents for its follower (R288, R444). -/
def State.refuseDebug (s : State) (n : Nat) : State :=
  s.raise (if n < 4 then srcBND n else 0x24 + n % 4) kHaltRefused (faultAddr 63 63)

/-! ## Commands that name one register -/

/-- REGISTER_WRITE: an unsealed write of one register has the effect of its access code, or the action of its key, field by
field (R13, R17); one that R288 refuses raises HALT_REFUSED. The Granary is no register. -/
def execRegisterWrite (a : BitVec 24) (v : Word) (s : State) : Host.Outcome State Fault Refusal :=
  s.hostKey fun s =>
    match s.debugDenied a.toNat v with
    | some p => s.refuseDebug p
    | none => if signalBase ≤ a.toNat then s else (s.hostWrite false a.toNat v).2

/-- HP_CFG_WRITE. -/
def execHpCfgWrite (v : Word) (s : State) : Host.Outcome State Fault Refusal := s.hostKey fun s => s.writeHpCfg v

/-- THR_AT_CLEAR: key 0xC1 (R160). -/
def execThrAtClear (c : ChIx) (s : State) : Host.Outcome State Fault Refusal := s.hostKey fun s => s.atClear c

/-- VIO_LEVEL_CHANGE: HP_CFG.VIO_HIGH reads 1 above 2.5 V (R548, R558); above 4.0 V no behaviour is stated (R556). -/
def execVioLevelChange (mv : Nat) (s : State) : Host.Outcome State Fault Refusal :=
  if 4000 < mv then .fault .beyondRatings
  else
    let s := s.setB F.HP_CFG_VIO_HIGH (decide (2500 < mv))
    .next { s with env := { s.env with vioMv := mv } }

end Sys2Proof.Machine
end

