-- ==== Sys2Proof/Machine/Host.lean ====
section
/-!
DEFINITION. Machine/Host.lean: transactions of the host port: header and seal, the status word and its counters, the opcodes
(R346-R378, R387, R388, R396, R397), and the end of Thresh, at which waiting reads fetch (R311).
-/
namespace Sys2Proof.Machine

/-! ## Header, CRC-8 and seal -/

/-- CRC-8 of R356 over bits sent most significant first. -/
def crc8 (bs : List Bool) : BitVec 8 := bs.foldl (crcBit 8 0x2F#8) 0xFF#8

/-- The header as it stands on the lanes (R356). -/
def hdrBits (h : HostHdr) (op : BitVec 8) : BitVec 64 :=
  op ++ h.rsv ++ BitVec.ofBool h.snap ++ BitVec.ofBool h.inc ++ BitVec.ofBool h.isSealed ++ h.count ++ h.addr ++ h.crc

/-- CRC-8 of the upper seven bytes of a 64-bit word. -/
def crc8Of (w : BitVec 64) : BitVec 8 := crc8 ((List.range 56).map fun i => w.getLsbD (63 - i))

/-- The two words of a 64-bit word, first sent first. -/
def twoWords (w : BitVec 64) : List Word := [w.extractLsb' 32 32, w.extractLsb' 0 32]

/-- Opcodes (R359). -/
def opSTATUS : BitVec 8 := 0x00#8
def opREAD : BitVec 8 := 0x01#8
def opWRITE : BitVec 8 := 0x02#8
def opSTAMP : BitVec 8 := 0x03#8
def opPOP : BitVec 8 := 0x04#8
def opSNAP : BitVec 8 := 0x05#8
def opNVM : BitVec 8 := 0x08#8
def opATTEST : BitVec 8 := 0x0A#8
def opSERVICE : BitVec 8 := 0x0E#8
def opFORCE : BitVec 8 := 0x70#8
def opRELEASE : BitVec 8 := 0x71#8

/-- The opcode's own COUNT, INC and address rules (R359). -/
def opRule (op : BitVec 8) (h : HostHdr) : Bool :=
  if op == opSTATUS then h.addr == 0#24 && decide (h.n ≤ 4)
  else if op == opSTAMP then h.inc && decide (h.n ≤ 64)
  else if op == opNVM then h.inc
  else if op == opATTEST then h.addr == 0#24 && h.n == 8
  else if op == opSERVICE then h.addr == 0#24
  else true

/-- A reserved code (R359). -/
def reservedOp (op : BitVec 8) : Bool :=
  !([opSTATUS, opREAD, opWRITE, opSTAMP, opPOP, opSNAP, opNVM, opATTEST, opSERVICE, opFORCE, opRELEASE].contains op)

/-- The opcode that a header carries: the command's own, or a reserved code in its place. -/
def hdrOpcode (h : HostHdr) (op : BitVec 8) : BitVec 8 :=
  match h.stray with | some c => if reservedOp c then c else op | none => op

/-- The conditions of BAD_HEADER that the header shows, but for the reserved opcode (R357). -/
def badHeader (op : BitVec 8) (h : HostHdr) : Bool :=
  crc8Of (hdrBits h (hdrOpcode h op)) != h.crc || h.rsv != 0#5 || h.n == 0 || decide (4096 < h.n)
    || h.addr.extractLsb' 0 2 != 0#2 || !opRule (hdrOpcode h op) h

/-- A code that only bench mode knows, outside bench mode: it gives DENIED (R359). -/
def State.benchCode (s : State) (op : BitVec 8) : Bool := decide (0x70#8 ≤ op) && decide (op ≤ 0x7F#8) && !s.bench

/-- The header gives BAD_HEADER (R357, R359). -/
def State.headerBad (s : State) (op : BitVec 8) (h : HostHdr) : Bool :=
  badHeader op h || (reservedOp (hdrOpcode h op) && !s.benchCode (hdrOpcode h op))

/-- The port answers addressed transactions: powered, not in member mode, not the follower of a joined Wide pair (R379, R385,
R443, R548). -/
def State.portAnswers (s : State) : Bool :=
  s.env.vin && decide (0 < s.env.vioMv) && s.pwr.mode != 4 && !s.flag F.HP_CFG_MEMBER
    && !(s.yokeMode == 1 && !s.boot.lead && s.joined)

/-- The session identifier of the unit attached to the port (R396). -/
def State.sessionId (s : State) : Word :=
  match s.hostUnit with | some u => s.reg (Reg.CVU_SESSION u.val) | none => 0#32

/-- The host's seal CRC (R396): over the session identifier and every word of the host part up to the last payload word. -/
def State.hostSeal (s : State) (op : BitVec 8) (h : HostHdr) (stamp : List Word) (ws : List Word) : Word :=
  crc32cWords (s.sessionId :: twoWords (hdrBits h op) ++ stamp ++ [h.sealWord] ++ ws)

/-- The host's seal is judged when the host part ends (R397): tag and CRC, then the alive counter. -/
def State.judgeSeal (s : State) (u : UnitIx) (op : BitVec 8) (h : HostHdr) (stamp ws : List Word) : Bool × State :=
  if wbits h.sealWord 31 24 != 0x48 || s.hostSeal op h stamp ws != h.sealCrc then (false, s)
  else
    let v := wbits h.sealWord 15 0
    (s.aliveVerdict u v == 0, s.judgeAlive u v 2 0xFF)

/-! ## The end of a transaction (R353, R358, R371, R388) -/

/-- The device's seal word as it is sent now, in a sealed transaction (R396). -/
def State.sealNow (s : State) (isSealed : Bool) : Option Word :=
  match isSealed, s.hostUnit with
  | true, some u => some (BitVec.ofNat 32 (0x44 * 2 ^ 24 + s.fld (F.CVU_DEV_ALIVE_VALUE u.val)))
  | _, _ => none

/-- The response (R352, R353, R396): short, or full with the device's seal where there is a seal word. `id` is the session
identifier when the transaction began. -/
def State.respond (s : State) (op : BitVec 8) (h : HostHdr) (id : Word) (short : Bool) (code words : Nat) (body : List Word)
    (sealW : Option Word) : State :=
  let status : Word := BitVec.ofNat 32 (code * 2 ^ 24 + words)
  let ws := if short then [status] else match sealW with
    | some w =>
      let inner := w :: body ++ [status]
      inner ++ [crc32cWords (id :: twoWords (hdrBits h op) ++ inner)]
    | none => body ++ [status]
  { s with hp := { s.hp with short := short, resp := ws } }

/-- Counters and faults of a status (R371, R388): a word met a block that is off counts and raises ACCESS_OFF whatever the
status carries (R370). -/
def State.countStatus (s : State) (code : Nat) (off : Bool) : State :=
  let s := match code with
    | 3 => (s.addF F.HP_COUNTS_LATE 1).hpFault kHpLate 3
    | 4 => (s.addF F.HP_COUNTS_BAD_HEADER 1).hpFault kHpFrame 4
    | 6 => (s.addF F.HP_COUNTS_SEAL_FAIL 1).hpFault kHpSeal 6
    | 7 => s.addF F.HP_COUNTS2_BUSY_TIMEOUT 1
    | 9 => (s.addF F.HP_COUNTS2_QUEUE_FULL 1).hpFault kHpLate 9
    | _ => s
  if off then (s.addF F.HP_COUNTS2_BLOCK_OFF 1).hpFault kAccessOff code else s

/-- A transaction has ended with a status: HP_STATUS, HP_LAST_ERR, the counters of R537 and the faults of R388. -/
def State.endTx (s : State) (op : BitVec 8) (h : HostHdr) (code words : Nat) (off : Bool) (wait : Nat) : State :=
  let s := (s.setF F.HP_STATUS_LAST_CODE code).setF F.HP_STATUS_LAST_OP op.toNat
  let s := if code == 0 then s
    else ((s.setF F.HP_LAST_ERR_CODE code).setF F.HP_LAST_ERR_ADDR h.addr.toNat).setReg Reg.HP_LAST_ERR_SWATH s.swath32
  let s := (s.pcHost 0 1).countWait wait
  let s := if op == opREAD || op == opPOP || op == opSNAP then s.pcHost 1 words
    else if op == opSTATUS || op == opRELEASE then s else s.pcHost 2 words
  s.countStatus code off

/-- A transaction refused with a short response (R353). -/
def State.refuseTx (s : State) (op : BitVec 8) (h : HostHdr) (code : Nat) : State :=
  (s.respond op h 0#32 true code 0 [] none).endTx op h code 0 false 0

/-- A transaction that ends with a full response; the alive counter advances unless HSEL_N rose before the seal word was sent
(R372, R397). -/
def State.fullTx (s : State) (op : BitVec 8) (h : HostHdr) (id : Word) (code words : Nat) (off : Bool) (wait : Nat)
    (body : List Word) : State :=
  ((s.respond op h id false code words body (s.sealNow h.isSealed)).sealSent (h.isSealed && h.cut != some false)).endTx
    op h code words off wait

/-- At a falling edge of HSEL_N the lane mode and flow written before come into force (R348). -/
def State.takeLane (s : State) : State :=
  { s with hp := { s.hp with lane := s.fld F.HP_CFG_LANE, flow := s.flag F.HP_CFG_FLOW } }

/-- Bytes of HDO between the host part and the marker (R352, R354): the turnaround block, and in BUSY flow 0xB5 until a byte boundary
at least one HCLK period after the response is ready, `clocks` periods of HCLK after the host part. -/
def State.busyBytes (s : State) (clocks : Nat) : Nat :=
  let b := match s.hp.lane with | 0 => 1 | 1 => 2 | _ => 8
  if s.hp.flow then 8 else max 8 (((clocks + 1) * b + 7) / 8)

/-- HDO in the device part of the last transaction (R349, R352-R354): 0xB5 on every byte, as before it in the host part, the marker, the
response. -/
def State.devicePart (s : State) (clocks : Nat) : List Bool :=
  ((List.range (s.busyBytes clocks)).flatMap fun _ => bitsOf 8 0xB5) ++ bitsOf 16 (if s.hp.short then 0x5AC3 else 0x5A3C)
    ++ bitsOfWords s.hp.resp

/-- The device's seal word of a read has been sent: it carries the alive counter of that tick, which then advances (R396, R397). -/
def State.sendSeal (s : State) (x : Sending) : Sending × State :=
  if x.sealW.isSome || x.cut == some false then (x, s)
  else
    let w := s.sealNow x.hdr.isSealed
    ({ x with sealW := w }, s.sealSent x.hdr.isSealed)

/-- The seal words that have been sent by a tick. -/
def State.sealTo (s : State) (t : Nat) : State :=
  let r := s.hp.sending.foldl (fun (r : List Sending × State) x =>
    if x.sealAt ≤ t then let (y, s) := r.2.sendSeal x; (r.1 ++ [y], s) else (r.1 ++ [x], r.2)) ([], s)
  { r.2 with hp := { r.2.hp with sending := r.1 } }

/-- A read's last bit has been sent, or HSEL_N has risen before it (R373, R374): only then do registers clear and a pop advances CONS. -/
def State.sendEnd (s : State) (x : Sending) : State :=
  let (x, s) := s.sendSeal x
  match x.cut with
  | some _ => ((s.unlatchAll [x.latch]).countWait x.wait).cutTx
  | none =>
    let s := match x.latch with
      | some (c, cons0, j) => s.popDone c cons0 j
      | none => x.returned.foldl (fun (s : State) a => s.readDone a x.shown) s
    let op := BitVec.ofNat 8 x.op
    (s.respond op x.hdr x.id false x.code x.words x.body x.sealW).endTx op x.hdr x.code x.words x.off x.wait

/-- The device parts that end up to a tick, in order; each meets the Crib entries that the drains have written by its end (R314). -/
def State.sendTo (s : State) (t : Nat) : State :=
  let s := s.sealTo t
  let now := s.hp.sending.filter fun x => decide (x.endAt ≤ t)
  if now.isEmpty then s
  else
    let s := { s with hp := { s.hp with sending := s.hp.sending.filter fun x => !decide (x.endAt ≤ t) } }
    now.foldl (fun (s : State) x => (s.drainTo x.endAt).sendEnd x) s

/-- What time has brought to the host's side by a tick, in its order: device parts end, drains write their Crib entries (R310, R314,
R373). -/
def State.catchUp (s : State) (t : Nat) : State := (s.sendTo t).drainTo t

/-- What every transaction passes first, in the order of R371: the header, refusal as a whole, the seal. `f` runs on an
accepted transaction with the session identifier it began under. -/
def State.transact (s : State) (op : BitVec 8) (h : HostHdr) (stamp ws : List Word) (bad denied : Bool)
    (f : Word → State → State) : State :=
  if !s.portAnswers then s
  else
  let s := (s.catchUp s.tick).takeLane
  let code := hdrOpcode h op
  let denied := denied || s.benchCode code
  if s.headerBad op h || bad then s.refuseTx code h 4
  else match h.isSealed, s.hostUnit with
    | true, none => s.refuseTx code h 5
    | true, some u =>
      let id := s.sessionId
      let (ok, s) := s.judgeSeal u code h stamp ws
      if denied then s.refuseTx code h 5 else if !ok then s.refuseTx code h 6 else f id s
    | false, _ => if denied then s.refuseTx code h 5 else f 0#32 s

/-- TRANSACTION_ABANDON. -/
def execTransactionAbandon (s : State) : Host.Outcome State Fault Refusal :=
  .next (if s.portAnswers then (s.catchUp s.tick).abandonTx else s)

/-- The payload of a writing transaction: the device takes COUNT words; with fewer the transaction is abandoned (R374). -/
def State.withPayload (s : State) (h : HostHdr) (ws : List Word) (f : List Word → State → State) : State :=
  if ws.length < h.n && h.n ≤ 4096 then (if s.portAnswers then (s.catchUp s.tick).abandonTx else s)
  else f (ws.take h.n) s

/-! ## Addresses (R367, R368) -/

/-- Do the words of an opcode step over whole entries in the signal table? -/
def byEntry (op : BitVec 8) : Bool := op == opWRITE || op == opSTAMP || op == opFORCE || op == opRELEASE

/-- The address after a word's. -/
def nextAddr (op : BitVec 8) (inc : Bool) (a : Nat) : Nat :=
  if !inc then a else if byEntry op && decide (signalBase ≤ a) && decide (a < loftBase) then a + 32 else a + 4

/-- The addresses of n words, as far as they stand in the 24-bit space. -/
def addrsFrom (op : BitVec 8) (inc : Bool) : Nat → Nat → List Nat
  | _, 0 => []
  | a, n + 1 => if a < 0x1000000 then a :: addrsFrom op inc (nextAddr op inc a) n else []

/-- The addresses of a transaction. -/
def hdrAddrs (h : HostHdr) (op : BitVec 8) : List Nat := addrsFrom op h.inc h.addr.toNat h.n

/-- The status of the words of a transaction by the order of R371: `short` where some words lie beyond the space. -/
def wordStatus (short : Bool) (codes : List Nat) : Nat :=
  if short then 1 else if codes.contains 2 then 2 else if codes.contains 5 then 5 else if codes.contains 8 then 8 else 0

/-! ## Reads (R311, R315, R360-R362) -/

/-- Ticks of a fetch of n words (R311). -/
def State.fetchTicks (s : State) (n : Nat) : Nat :=
  let m := (n + 1) / 2
  8 + (if s.slowFabric then (2 * m + 2) / 3 else (m + 2) / 3)

/-- Is a Crib consumed by the host: its window pops (R315)? -/
def State.popWindow (s : State) (c : CribIx) : Bool := s.flag (F.CRIB_CFG_EN c.val) && s.fld (F.CRIB_CFG_CONSUMER c.val) == 0
/-- Is a Crib produced by the host: its window pushes (R316)? -/
def State.pushWindow (s : State) (c : CribIx) : Bool := s.flag (F.CRIB_CFG_EN c.val) && s.fld (F.CRIB_CFG_PRODUCER c.val) == 5

/-- Words of the j entries of a Crib from an index on. -/
def State.ringWords (s : State) (c : CribIx) (cons0 j : Nat) : List Word :=
  (List.range j).flatMap fun i => s.readWords (s.ringAddr c.val (cons0 + i)) (s.entryWords c.val)

/-- The stamp pair of a fetch that starts now (R361). -/
def State.stampPair (s : State) : List Word :=
  [s.swath32, BitVec.ofNat 32 (s.phase * 2 ^ 24 + min s.inSwath (2 ^ 21 - 1))]

/-- The device part of a read begins: it ends at once, or when its ticks have passed. -/
def State.send (s : State) (x : Sending) : State :=
  if x.endAt ≤ s.tick then s.sendEnd x
  else if x.sealAt ≤ s.tick then
    let (x, s) := s.sendSeal x
    { s with hp := { s.hp with sending := s.hp.sending ++ [x] } }
  else { s with hp := { s.hp with sending := s.hp.sending ++ [x] } }

/-- The fetch of a read transaction, started now, and its end, at which its device part begins (R311, R315, R361, R362, R371,
R373). -/
def State.runRead (s : State) (id : Word) (r : HeldRead) : State :=
  let op : BitVec 8 := BitVec.ofNat 8 r.op
  let n := r.hdr.n
  let s := r.ecc.foldl (fun (s : State) (e : Nat × Bool) => if signalBase ≤ e.1 && e.1 < 0x1000000 then s.eccAt e.1 e.2 else s) s
  let pair := if op == opSNAP || (op == opREAD && r.hdr.snap) then s.stampPair else []
  let s := s.catchUp s.tick
  let x : Sending :=
    { op := r.op, hdr := r.hdr, id := id, code := 0, words := 0, off := false, wait := s.waitNow r.came r.waited + (if s.pcFrozen then 0 else s.fetchTicks n), body := []
      latch := r.latch, returned := [], shown := s.yk.imageOf
      sealAt := s.tick + s.fetchTicks n + min r.sealTicks r.ticks, sealW := none, endAt := s.tick + s.fetchTicks n + r.ticks
      cut := r.cut }
  let x := match r.latch with
    | some (c, cons0, j) =>
      let ws := s.ringWords c cons0.toNat j
      { x with
        words := ws.length
        body := if op == opPOP then BitVec.ofNat 32 (s.entryWords c.val * 2 ^ 24 + j) :: ws
          else pair ++ ws ++ List.replicate (n - ws.length) 0#32 }
    | none =>
      let addrs := hdrAddrs r.hdr op
      let got := addrs.map fun a => s.hostRead a
      let code := wordStatus (decide (addrs.length < n)) (got.map fun g => g.1)
      { x with
        code := code
        words := (got.filter fun g => g.1 == 0).length
        off := got.any fun g => g.1 == 2
        body := pair ++ (got.map fun g => g.2) ++ List.replicate (n - addrs.length) 0#32
        returned := if code == 0 then addrs else [] }
  let s := (s.rcMark x.returned).elapse (s.tick + s.fetchTicks n)
  (s.catchUp s.tick).send x

/-- The first swath whose window end may start a fetch that cannot start now (R311, R361). -/
def State.readSince (s : State) (op : BitVec 8) (n : Nat) : Option Nat :=
  if op == opSNAP then some (s.swath + 1)
  else if s.pipe.window then some s.swath
  else if s.btick + s.swLen ≤ s.tick + s.fetchTicks n then some (s.swath + 1)
  else none

/-- A read transaction accepted at header completion: it latches the entries of a pop (R315), and fetches now or waits. -/
def State.startRead (s : State) (op : BitVec 8) (h : HostHdr) (f : Fetch) (id : Word) : State :=
  let latch := match cribWindow h.addr.toNat with
    | some c => if s.popWindow c then some (c, s.reg (Reg.CRIB_CONS c.val), s.popCount c h.n) else none
    | none => none
  let s := match latch with
    | some (c, _, j) => s.updCrib c fun x => { x with latched := j }
    | none => s
  let since := s.readSince op h.n
  let r : HeldRead :=
    { op := op.toNat
      hdr := h
      came := s.tick
      since := since.getD 0
      ecc := f.ecc.map fun e => (e.1.toNat, e.2)
      latch := latch
      ticks := f.ticks
      sealTicks := f.sealTicks
      cut := f.cut }
  match since with
  | none => s.runRead id r
  | some _ => { s with hp := { s.hp with reads := s.hp.reads ++ [r] } }

/-- The window of a header is a push window: its read is refused (R316). -/
def State.readDenied (s : State) (h : HostHdr) : Bool :=
  match cribWindow h.addr.toNat with | some c => s.pushWindow c | none => false

/-- A READ, SNAP or POP. -/
def State.readTx (s : State) (op : BitVec 8) (h : HostHdr) (f : Fetch) (denied : Bool) : State :=
  s.transact op h [] [] false denied fun id s => s.startRead op h f id

/-- READ (R311, R367). -/
def execRead (h : HostHdr) (f : Fetch) (s : State) : Host.Outcome State Fault Refusal :=
  .next (s.readTx opREAD h f (s.readDenied h))

/-- SNAP (R361). -/
def execSnap (h : HostHdr) (f : Fetch) (s : State) : Host.Outcome State Fault Refusal :=
  .next (s.readTx opSNAP h f (s.readDenied h))

/-- POP (R362): only on the pop window of a host-consumed Crib. -/
def execPop (h : HostHdr) (f : Fetch) (s : State) : Host.Outcome State Fault Refusal :=
  .next (s.readTx opPOP h f (match cribWindow h.addr.toNat with | some c => !s.popWindow c | none => true))

/-- Word 1 of STATUS (R360). -/
def State.statusWord (s : State) : Word :=
  BitVec.ofNat 32 (s.fld F.SYS_STATE_STATE * 2 ^ 28 + s.fld F.SYS_STATE_ARMED_HALVES * 2 ^ 26
    + b2n (s.flag F.FC_STATUS_FAULT_N) * 2 ^ 25 + b2n s.hirq * 2 ^ 24 + s.queue.length % 128 * 2 ^ 16)

/-- STATUS (R360): never waits, clears nothing. Like every read it completes with its last bit (R373, R374). -/
def execStatus (h : HostHdr) (s : State) : Host.Outcome State Fault Refusal :=
  .next (s.transact opSTATUS h [] [] false false fun id s =>
    if h.cut.isSome then (s.sealSent (h.isSealed && h.cut == some true)).cutTx
    else s.fullTx opSTATUS h id 0 h.n false 0
      ([s.reg Reg.DEV_ID, s.statusWord, s.swath32, s.reg Reg.HP_LAST_ERR].take h.n))

/-! ## Writes (R316, R367, R372) -/

/-- The words of a WRITE take effect in order; their statuses. -/
def State.writeAll (s : State) (isSealed : Bool) : List (Nat × Word) → List Nat × State
  | [] => ([], s)
  | (a, v) :: xs =>
    let (c, s) := s.hostWrite isSealed a v
    let (cs, s) := s.writeAll isSealed xs
    (c :: cs, s)

/-- The pair a WRITE is refused for as a whole (R288). -/
def State.debugRefused (s : State) (h : HostHdr) (ws : List Word) : Option Nat :=
  ((hdrAddrs h opWRITE).zip ws).findSome? fun x => s.debugDenied x.1 x.2

/-- A push of whole entries is published on completion (R313, R316). -/
def State.endPush (s : State) (h : HostHdr) (id : Word) (c : CribIx) (ws : List Word) (wait : Nat) : State :=
  let e := s.entryWords c.val
  let s := s.pushWords c ws
  s.fullTx opWRITE h id 0 (ws.length / e * e) false wait []

/-- Places a push needs. -/
def State.pushNeeds (s : State) (c : CribIx) (ws : List Word) : Nat := ws.length / s.entryWords c.val

/-- A WRITE to a push window: under STALL it is held until space frees (R314). -/
def State.startPush (s : State) (h : HostHdr) (id : Word) (c : CribIx) (ws : List Word) : State :=
  if s.fld (F.CRIB_CFG_POLICY c.val) == 3 && decide (s.freePlaces c < s.pushNeeds c ws) then
    let w : HeldWrite :=
      { op := opWRITE.toNat
        hdr := h
        crib := some c
        words := ws
        came := s.tick
        limit := s.tick + 48 * s.fld F.HP_BUSY_LIMIT_LIMIT }
    ({ s with hp := { s.hp with writes := s.hp.writes ++ [w] } } : State).syncStalled [w]
  else s.endPush h id c ws 0

/-- A WRITE accepted. -/
def State.startWrite (s : State) (h : HostHdr) (id : Word) (ws : List Word) : State :=
  match cribWindow h.addr.toNat with
  | some c => if s.pushWindow c then s.startPush h id c ws else
      let (cs, s) := s.writeAll h.isSealed ((hdrAddrs h opWRITE).zip ws)
      s.fullTx opWRITE h id (wordStatus false cs) (cs.filter fun x => x == 0).length false 0 []
  | none =>
    let addrs := hdrAddrs h opWRITE
    let sync := match s.hostUnit with | some u => s.flag (F.CVU_ALIVE_SYNC u.val) | none => false
    let (cs, t) := s.writeAll h.isSealed (addrs.zip ws)
    let code := wordStatus (decide (addrs.length < h.n)) cs
    let words := (cs.filter fun x => x == 0).length
    let off := cs.contains 2
    match h.isSealed, s.hostUnit with
    | true, some u =>
      if sync && !t.flag (F.CVU_ALIVE_SYNC u.val) then
        -- a session write: the response carries the alive value of the old session, then the unit is unsynchronised (R398)
        let t := t.setF (F.CVU_DEV_ALIVE_VALUE u.val) (s.fld (F.CVU_DEV_ALIVE_VALUE u.val))
        (t.fullTx opWRITE h id code words off 0 []).unsync u
      else t.fullTx opWRITE h id code words off 0 []
    | _, _ => t.fullTx opWRITE h id code words off 0 []

/-- WRITE (R367, R372). -/
def execWrite (h : HostHdr) (ws : List Word) (s : State) : Host.Outcome State Fault Refusal :=
  .next (s.withPayload h ws fun ws s =>
    let pop := match cribWindow h.addr.toNat with | some c => s.popWindow c | none => false
    match s.debugRefused h ws with
    | some p =>
      let bad := s.headerBad opWRITE h || hdrOpcode h opWRITE != opWRITE || !s.portAnswers
      let s := s.transact opWRITE h [] ws false true fun _ s => s
      if bad then s else s.refuseDebug p
    | none => s.transact opWRITE h [] ws false pop fun id s => s.startWrite h id ws)

/-! ## Stamped writes (R375, R376) -/

/-- The queue deposits every write that is due: target at most the swath after this one (R376). A write whose entry has been
freed is discarded and counted. -/
def State.depositDue (s : State) : State :=
  let n := s.swath + 1
  let due := s.queue.filter fun q => decide (q.target ≤ n)
  let s := { s with queue := s.queue.filter fun q => !decide (q.target ≤ n) }
  due.foldl (fun (s : State) q =>
    if s.isHostEntry q.index then s.updEntry q.index fun e => e.deposit q.value q.target
    else (s.addF F.HP_COUNTS2_STAMP_DROP 1).hpFault kHpLate 63) s

/-- STAMP_DEPOSIT: once Thresh has ended, the writes for the next boundary become pending copies (R376). -/
def execStampDeposit (s : State) : Host.Outcome State Fault Refusal := .next (if s.pipe.window then s else s.depositDue)

/-- The verdict on stamped writes at completion (R375): 3 LATE, 9 QUEUE_FULL, 0 accepted. -/
def State.stampVerdict (s : State) (t n : Nat) : Nat :=
  if t ≤ s.swath then 3
  else if t == s.swath + 1 && decide (s.btick + s.swLen < s.tick + 1152) then 3
  else if 64 < s.queue.length + n then 9
  else 0

/-- Accepted writes take their places in order; those already due are deposited at once (R376). -/
def State.enqueue (s : State) (t : Nat) (xs : List (Nat × Word)) : State :=
  let s := { s with queue := s.queue ++ xs.map fun (x : Nat × Word) => QueuedWrite.mk x.1 x.2 t }
  let s := s.pcHost 4 xs.length
  if !s.pipe.window && t == s.swath + 1 then s.depositDue else s

/-- STAMP_WRITE (R375): header, stamp word, payload. -/
def execStampWrite (h : HostHdr) (stamp : BitVec 64) (ws : List Word) (s : State) : Host.Outcome State Fault Refusal :=
  .next (s.withPayload h ws fun ws s =>
    let t := (stamp.extractLsb' 8 48).toNat
    let bad := crc8Of stamp != stamp.extractLsb' 0 8 || decide (s.swath + 65536 < t)
    let addrs := hdrAddrs h opSTAMP
    let denied := decide (addrs.length < h.n) || addrs.any fun a =>
      !(decide (signalBase ≤ a) && decide (a < loftBase) && (a - signalBase) % 32 == 0 && s.isHostEntry ((a - signalBase) / 32))
    s.transact opSTAMP h (twoWords stamp) ws bad denied fun id s =>
      let code := s.stampVerdict t h.n
      if code == 0 then
        (s.enqueue t ((addrs.map fun a => (a - signalBase) / 32).zip ws)).fullTx opSTAMP h id 0 h.n false 0 []
      else s.fullTx opSTAMP h id code 0 false 0 [])

/-! ## Staging, attestation, service, force (R363-R366) -/

/-- Bytes of a staging slot that NVM_STAGE reaches (R342). -/
def slotBytes : Nat := 0x400000

/-- The data of an accepted NVM_STAGE are held and the flash begins to program them; STAGE_NEXT advances (R363). -/
def State.nvmTake (s : State) (h : HostHdr) (id : Word) (ws : List Word) (wait : Nat) : State :=
  let fit := ws.take ((slotBytes - h.addr.toNat) / 4)
  let k := s.otherSlot
  let s := s.setSlot k (s.boot.slots.getD k [] ++ fit)
  let s := { s with boot := { s.boot with programming := !fit.isEmpty } }
  let s := s.setF F.STAGE_NEXT_NEXT (h.addr.toNat + 4 * fit.length)
  s.fullTx opNVM h id (if fit.length < ws.length then 1 else 0) fit.length false wait []

/-- NVM_STAGE is refused unless staging is open, the address is STAGE_NEXT and COUNT is a multiple of 64 (R342, R363). -/
def State.nvmDenied (s : State) (h : HostHdr) : Bool :=
  s.fld F.STAGE_STATUS_STATE != 2 || h.addr.toNat != s.fld F.STAGE_NEXT_NEXT || h.n % 64 != 0

/-- A staging write waits while the flash programs the one before it (R363), while PFAIL_N is asserted (R507), and while a page of the
journal is due, which takes precedence (R499). -/
def State.stagingBusy (s : State) : Bool := s.boot.programming || s.env.pfail || s.pageDue

/-- NVM_STAGE (R363): it waits at most 200 ms (R355). -/
def execNvmStage (h : HostHdr) (ws : List Word) (s : State) : Host.Outcome State Fault Refusal :=
  .next (s.withPayload h ws fun ws s =>
    s.transact opNVM h [] ws false (s.nvmDenied h) fun id s =>
      if s.stagingBusy then
        let w : HeldWrite :=
          { op := opNVM.toNat
            hdr := h
            crib := none
            words := ws
            came := s.tick
            limit := s.tick + 9600000 }
        { s with hp := { s.hp with writes := s.hp.writes ++ [w] } }
      else s.nvmTake h id ws 0)

/-- A waiting write looks at its condition again: it ends, ends with BUSY_TIMEOUT, or waits on (R314, R355, R363). -/
def State.retryWrite (s : State) (w : HeldWrite) : State :=
  let id := if w.hdr.isSealed then s.sessionId else 0#32
  let wait := s.waitNow w.came w.waited
  let again : State := { s with hp := { s.hp with writes := s.hp.writes ++ [w] } }
  match w.crib with
  | some c =>
    if !s.pushWindow c then s.fullTx opWRITE w.hdr id 0 0 false wait []
    else if s.pushNeeds c w.words ≤ s.freePlaces c then s.endPush w.hdr id c w.words wait
    else if w.limit ≤ s.tick then s.fullTx opWRITE w.hdr id 7 0 false wait []
    else again
  | none =>
    if s.nvmDenied w.hdr then (s.respond opNVM w.hdr 0#32 true 5 0 [] none).endTx opNVM w.hdr 5 0 false wait
    else if !s.stagingBusy then s.nvmTake w.hdr id w.words wait
    else if w.limit ≤ s.tick then s.fullTx opNVM w.hdr id 7 0 false wait []
    else again

/-- Every waiting write. -/
def State.retryWrites (s : State) : State :=
  let ws := s.hp.writes
  let s := { s with hp := { s.hp with writes := [] } }
  (ws.foldl (fun (s : State) w => s.retryWrite w) s).syncStalled ws

/-- Pushes that wait on a Crib a reconfiguration has changed or freed end OK with nothing published (R318, R387). -/
def State.dropPushes (s before : State) : State :=
  let changed (c : CribIx) : Bool :=
    before.reg (Reg.CRIB_CFG c.val) != s.reg (Reg.CRIB_CFG c.val) || before.reg (Reg.CRIB_BASE c.val) != s.reg (Reg.CRIB_BASE c.val)
  let gone := s.hp.writes.filter fun w => match w.crib with | some c => changed c | none => false
  let s := { s with hp := { s.hp with writes := s.hp.writes.filter fun w => match w.crib with
    | some c => !changed c
    | none => true } }
  (gone.foldl (fun (s : State) w =>
    s.fullTx opWRITE w.hdr (if w.hdr.isSealed then s.sessionId else 0#32) 0 0 false (s.waitNow w.came w.waited) []) s).syncStalled gone

/-- STAGE_PROGRAM_DONE (R363). -/
def execStageProgramDone (ok : Bool) (s : State) : Host.Outcome State Fault Refusal := .next (s.programDone ok).retryWrites

/-- ATTEST (R364, R505): refused while the bucket is empty or a request is in progress. -/
def execAttest (h : HostHdr) (ws : List Word) (s : State) : Host.Outcome State Fault Refusal :=
  .next (s.withPayload h ws fun ws s =>
    s.transact opATTEST h [] ws false (!s.attestFree) fun id s =>
      (s.attest ws).fullTx opATTEST h id 0 h.n false 0 [])

/-- SERVICE (R365): one message of the session in each direction; the reply follows its length word. -/
def State.serviceTx (s : State) (h : HostHdr) (ws : List Word) (f : State → List Word → List Word × State) : State :=
  s.withPayload h ws fun ws s =>
    s.transact opSERVICE h [] ws false false fun id s =>
      let (reply, s) := f s ws
      let t := s.tick
      let s := s.updSr fun x => { x with session := x.session.map fun y => { y with last := t } }
      s.fullTx opSERVICE h id 0 h.n false 0 (BitVec.ofNat 32 reply.length :: reply)

/-- Word 0 of a request: OP, then SEQ and the reserved bits as the host sent them (R487). -/
def reqWord (op : BitVec 8) (low : BitVec 24) : Word := op ++ low

/-- OPEN (R487, R488). -/
def execSrOpen (h : HostHdr) (low : BitVec 24) (ws : List Word) (s : State) : Host.Outcome State Fault Refusal :=
  .next (s.serviceTx h (reqWord 0x01#8 low :: ws) fun s ws => s.srOpen ws)
/-- AUTH. -/
def execSrAuth (h : HostHdr) (low : BitVec 24) (ws : List Word) (s : State) : Host.Outcome State Fault Refusal :=
  .next (s.serviceTx h (reqWord 0x02#8 low :: ws) fun s ws => s.srAuth ws)
/-- REGISTER. -/
def execSrRegister (h : HostHdr) (low : BitVec 24) (ws : List Word) (s : State) : Host.Outcome State Fault Refusal :=
  .next (s.serviceTx h (reqWord 0x10#8 low :: ws) fun s ws => s.srRegister ws)
/-- RETIRE. -/
def execSrRetire (h : HostHdr) (low : BitVec 24) (ws : List Word) (s : State) : Host.Outcome State Fault Refusal :=
  .next (s.serviceTx h (reqWord 0x11#8 low :: ws) fun s ws => s.srRetire ws)
/-- READ_SLOT. -/
def execSrReadSlot (h : HostHdr) (low : BitVec 24) (ws : List Word) (s : State) : Host.Outcome State Fault Refusal :=
  .next (s.serviceTx h (reqWord 0x12#8 low :: ws) fun s ws => s.srReadSlot ws)
/-- ACCEPT. -/
def execSrAccept (h : HostHdr) (low : BitVec 24) (ws : List Word) (s : State) : Host.Outcome State Fault Refusal :=
  .next (s.serviceTx h (reqWord 0x13#8 low :: ws) fun s ws => s.srAccept ws)
/-- CLOSE. -/
def execSrClose (h : HostHdr) (low : BitVec 24) (ws : List Word) (s : State) : Host.Outcome State Fault Refusal :=
  .next (s.serviceTx h (reqWord 0x1F#8 low :: ws) fun s ws => s.srClose ws)

/-- The entries a FORCE or RELEASE names, none unless every word stands in the signal table. -/
def forceEntries (op : BitVec 8) (h : HostHdr) : Option (List Nat) :=
  let addrs := hdrAddrs h op
  if addrs.length == h.n && addrs.all (fun a => decide (signalBase ≤ a) && decide (a < loftBase)) then
    some (addrs.map fun a => (a - signalBase) / 32)
  else none

/-- Put a force on an entry, in place of one it had. -/
def putForce (fs : List (Nat × Word)) (x : Nat × Word) : List (Nat × Word) := (fs.filter fun f => f.1 != x.1) ++ [x]

/-- The forces as they will stand from the next boundary on. -/
def State.forcesDue (s : State) : List (Nat × Word) := s.forceNext.getD s.forces

/-- FORCE (R366): bench mode only, at most 256 entries; it counts as an unstamped write. -/
def execForce (h : HostHdr) (ws : List Word) (s : State) : Host.Outcome State Fault Refusal :=
  .next (s.withPayload h ws fun ws s =>
    let fs := match forceEntries opFORCE h with | some is => (is.zip ws).foldl putForce s.forcesDue | none => s.forcesDue
    let denied := !s.bench || (forceEntries opFORCE h).isNone || decide (256 < fs.length)
    s.transact opFORCE h [] ws false denied fun id s =>
      let s := ({ s with forceNext := some fs } : State).unstamped
      s.fullTx opFORCE h id 0 h.n false 0 [])

/-- RELEASE (R366): the forces on n entries end; each takes its producer's next write. -/
def execRelease (h : HostHdr) (s : State) : Host.Outcome State Fault Refusal :=
  .next (s.transact opRELEASE h [] [] false (!s.bench || (forceEntries opRELEASE h).isNone) fun id s =>
    let is := (forceEntries opRELEASE h).getD []
    let s := ({ s with forceNext := some (s.forcesDue.filter fun f => !is.contains f.1) } : State).unstamped
    s.fullTx opRELEASE h id 0 h.n false 0 [])

end Sys2Proof.Machine
end

