-- ==== Sys2Proof/Machine/Member.lean ====
section
/-!
DEFINITION. Machine/Member.lean: the host port as a chain member: its shift register, command and response bales (R379-R384,
R418, R419), the delivery of an image to a flashless member (R341, R420); and the end of Thresh (R143, R224), which
waiting fetches and bales follow.
-/
namespace Sys2Proof.Machine

/-- The port works as a member (R379): powered, in member mode. -/
def State.asMember (s : State) : Bool :=
  s.env.vin && decide (0 < s.env.vioMv) && s.pwr.mode != 4 && s.flag F.HP_CFG_MEMBER

/-- Bale length (R380). -/
def State.hlen (s : State) : Nat := s.fld F.HP_HLEN_HLEN

/-- Bits of the retimer: two HCLK periods (R380). -/
def State.retimer (s : State) : Nat := match s.hp.lane with | 0 => 2 | 1 => 4 | _ => 16

/-- Image class and layout version of the member; 0 without an image (R383). -/
def State.memberClass (s : State) : Nat × Nat :=
  match s.boot.image with | some i => (wbits i.word3 31 24, wbits i.word3 23 16) | none => (0, 0)

/-! ## Response bales (R384, R419, R420) -/

/-- Response values of the member (R418). -/
def State.memberV (s : State) : Nat := min 16 (Config.memberValues s.memberClass.1 s.memberClass.2)

/-- The status word of R419. -/
def State.memberStatus (s : State) : Word :=
  BitVec.ofNat 32 (s.fld F.SYS_STATE_STATE * 2 ^ 29 + s.fld F.SYS_STATE_ARMED_HALVES * 2 ^ 27
    + b2n (s.flag F.FC_STATUS_FAULT_N) * 2 ^ 26 + b2n ((s.readEntry 48).value != 0#32) * 2 ^ 25 + s.prod 0 % 2 ^ 16)

/-- The payload of an OK response: value words, quality words, status; of a member without an image, its delivery. -/
def State.memberPayload (s : State) : List Word :=
  if s.memberClass.1 == 0 then
    [BitVec.ofNat 32 (s.hp.dstate * 2 ^ 28 + s.boot.stage.length % 2 ^ 19), BitVec.ofNat 32 (s.fld F.BOOT_STATUS_REASON_1)]
  else
    let v := s.memberV
    let q (j : Nat) : Nat := if j < v then (s.readEntry j).qual else 0
    ((List.range v).map fun j => (s.readEntry j).value)
      ++ ((List.range ((v + 1) / 2)).map fun i => BitVec.ofNat 32 (q (2 * i) * 2 ^ 16 + q (2 * i + 1)))
      ++ [s.memberStatus]

/-- A bale of the member with a state and a payload. -/
def State.memberBale (s : State) (state : Nat) (payload : List Word) : List Bool :=
  mkBale s.hlen state s.memberClass.1 s.memberClass.2 (if s.memberClass.1 == 0 then 0 else s.swath % 256) payload

/-- Payload words of a bale. -/
def State.baleWords (s : State) : Nat := (s.hlen - 64 + 31) / 32

/-- The next response is prepared from the input image of the swath in force, ready when its fetch ends (R311, R384). -/
def State.prepareBale (s : State) : State :=
  let bale := match s.hp.reject with
    | some (reason, seq) => s.memberBale 0xE0 [BitVec.ofNat 32 (reason * 2 ^ 24 + seq * 2 ^ 16)]
    | none => s.memberBale 0xA0 s.memberPayload
  let ready := s.tick + s.fetchTicks s.baleWords
  { s with hp := { s.hp with bale := bale, readyAt := some ready, prepare := none, reject := none } }

/-- MEMBER_BALE_LOAD: at the falling edge of HSEL_N the register takes the prepared bale, or a BUSY bale (R380, R384). -/
def execMemberBaleLoad (s : State) : Host.Outcome State Fault Refusal :=
  .next <|
    if !s.asMember || s.env.hselLow then s
    else
      let ready := match s.hp.readyAt with | some t => decide (t ≤ s.tick) | none => false
      let bale := if ready then s.hp.bale else s.memberBale 0xB5 []
      let s := s.takeLane
      { s with env := { s.env with hselLow := true }, hp := { s.hp with shift := bale } }

/-! ## Image delivery (R341, R420) -/

/-- The device is a flashless member without an image; one whose TEST_N has been low goes to HALTED instead (R546). -/
def State.flashless (s : State) : Bool := !s.env.testSeen && s.isBoot && s.fld F.BOOT_STATUS_MODE == 1 && s.boot.image.isNone

/-- DATA: taken only at the offset the member expects, ignored at any other (R420). -/
def State.deliverData (s : State) (offset : Nat) (ws : List Word) : State :=
  if !s.flashless || 1 < s.hp.dstate || offset != s.boot.stage.length || 262144 ≤ offset then s
  else
    { s with boot := { s.boot with stage := (s.boot.stage ++ (ws.take 28 ++ List.replicate (28 - ws.length) 0#32)).take 262144 }
             hp := { s.hp with dstate := 1 } }

/-- DONE: verification of an image of the stated length begins (R420). -/
def State.deliverDone (s : State) (length : Nat) : State :=
  if !s.flashless || 1 < s.hp.dstate then s
  else { s with boot := { s.boot with stage := s.boot.stage.take length }, hp := { s.hp with dstate := 2 } }

/-- ABORT: back to WAITING at offset 0 (R420). -/
def State.deliverAbort (s : State) : State :=
  if !s.flashless then s else { s with boot := { s.boot with stage := [] }, hp := { s.hp with dstate := 0 } }

/-- A class 0x00 command payload (R420). -/
def State.deliver (s : State) (ws : List Word) : State :=
  let w := ws.getD 0 0#32
  match wbits w 31 28 with
  | 1 => s.deliverData (wbits w 18 0) ((ws.drop 1).take 28)
  | 2 => s.deliverDone (wbits w 18 0)
  | 3 => s.deliverAbort
  | _ => s

/-- DELIVERY_NOP: nothing (R420). -/
def execDeliveryNop (s : State) : Host.Outcome State Fault Refusal := .next (s.deliver [0#32])
/-- DELIVERY_DATA. -/
def execDeliveryData (offset : BitVec 19) (ws : List Word) (s : State) : Host.Outcome State Fault Refusal :=
  .next (s.deliverData offset.toNat ws)
/-- DELIVERY_DONE. -/
def execDeliveryDone (length : BitVec 19) (s : State) : Host.Outcome State Fault Refusal := .next (s.deliverDone length.toNat)
/-- DELIVERY_ABORT. -/
def execDeliveryAbort (s : State) : Host.Outcome State Fault Refusal := .next s.deliverAbort

/-! ## Command bales (R381-R383, R418) -/

/-- Host command entries in ascending index order (R418). -/
def State.hostEntries (s : State) : List Nat := (s.sig.filter fun x => x.2.cls == 5).map fun x => x.1

/-- First swath above the current one whose low 8 bits equal the sequence (R383). -/
def State.baleTarget (s : State) (seq : Nat) : Nat :=
  let c := s.swath + 1
  c + (seq % 256 + 256 - c % 256) % 256

/-- Whole words of a bale payload. -/
def payloadWords (bs : List Bool) : List Word := wordsOfBits (bs.length / 32) bs

/-- A rejected command (R383). -/
def State.rejectBale (s : State) (reason seq : Nat) : State :=
  { s with hp := { s.hp with reject := some (reason, seq) } }

/-- A valid command of a member with an image: a stamped write of its host command entries, judged as R375 states. -/
def State.baleWrite (s : State) (b : Bale) : State :=
  let xs := s.hostEntries.zip (payloadWords b.payload)
  let t := s.baleTarget b.seq
  match s.stampVerdict t xs.length with
  | 0 => s.enqueue t xs
  | 3 => ((s.addF F.HP_COUNTS_LATE 1).hpFault kHpLate 3).rejectBale 3 b.seq
  | _ => ((s.addF F.HP_COUNTS2_QUEUE_FULL 1).hpFault kHpLate 9).rejectBale 3 b.seq

/-- The command bale taken from the sampled bits is judged (R381, R383). -/
def State.takeBale (s : State) (bits : List Bool) : State :=
  if bits.length < s.hlen then s.rejectBale 5 0
  else
    let b := parseBale s.hlen (bits.drop (bits.length - s.hlen))
    if !b.crcOk then s.rejectBale 1 b.seq
    else if b.state != 0xA0 then s.rejectBale 4 b.seq
    else if (b.cls, b.layout) != s.memberClass then s.rejectBale 2 b.seq
    else if b.cls == 0 then s.deliver (payloadWords b.payload)
    else s.baleWrite b

/-- MEMBER_COMMAND_BALE: at the rising edge of HSEL_N (R381-R384). `bits`: what was sampled on HDI, in order. -/
def execMemberCommandBale (bits : List Bool) (s : State) : Host.Outcome State Fault Refusal :=
  .next <|
    if !s.asMember || !s.env.hselLow then s
    else
      let hdo := (List.replicate s.retimer false ++ s.hp.shift ++ bits).take bits.length
      let s : State := { s with env := { s.env with hselLow := false }, hp := { s.hp with hdo := hdo, readyAt := none } }
      let s := s.takeBale bits
      match s.readSince opREAD s.baleWords with
      | some n => { s with hp := { s.hp with prepare := some n } }
      | none => s.prepareBale

/-! ## The end of Thresh -/

/-- Reads that have waited for this write window fetch in the order they came (R311). -/
def State.runReads (s : State) : State :=
  let n := s.swath
  let due := s.hp.reads.filter fun r => decide (r.since ≤ n)
  let s := { s with hp := { s.hp with reads := s.hp.reads.filter fun r => !decide (r.since ≤ n) } }
  due.foldl (fun (s : State) r => s.runRead (if r.hdr.isSealed then s.sessionId else 0#32) r) s

/-- Thresh completes: banks, entries and summaries are written, the write window closes, commands of host-sourced
channels are on their way (R246), and what waited for the window follows. -/
def State.threshEnd (s : State) : State :=
  if !s.pipe.window then s
  else
    let s := s.elapse (s.btick + s.threshTicks)
    let s := s.threshWork.operationsDue.noteAllBands
    let s := if s.isBoot then s else s.stackHost
    let s := s.retryWrites
    let s := match s.hp.prepare with | some n => (if n ≤ s.swath then s.prepareBale else s) | none => s
    s.runReads

/-- THRESH_END (R143, R224). -/
def execThreshEnd (s : State) : Host.Outcome State Fault Refusal := .next s.threshEnd

end Sys2Proof.Machine
end

