-- ==== Sys2Proof/Machine/Boundary.lean ====
section
/-!
DEFINITION. Machine/Boundary.lean: the swath boundary, where everything of a swath takes effect (R22, R57-R63), and the
counting of boundaries in Dormant (R59).
-/
namespace Sys2Proof.Machine

/-! ## The end of the swath under way -/

/-- What is settled as a swath ends: work whose own event has not come is done now, evaluations are over and their drains done,
time reaches the boundary tick, the block of the swath has been sent, and running scans and idle cycles are counted. -/
def State.endSwath (s : State) : State :=
  let s := s.threshEnd
  let s := s.depositDue.retryWrites
  let len := s.swLen
  let s := s.blockSent
  let s := allPairs.foldl (fun (s : State) p => s.endEvaluation p) s
  let s := s.catchUp (s.btick + len)
  let s := allPairs.foldl (fun (s : State) p => let w := s.watched p; s.updPair p fun x => { x with watch := w }) s
  let s := s.scansAdvance len
  let s := allPairs.foldl (fun (s : State) p => s.pcIdle p len) s
  s.advance (s.btick + len)

/-! ## Counting the boundary (R57, R58, R63, R438) -/

/-- How the boundary that falls now counts: whether it is the boundary of R63, whether it ends an aligning swath, whether
it is a stook boundary, and the stook phase from it on. -/
structure Count where
  r63 : Bool
  aligned : Bool
  isStook : Bool
  phase : Nat
  deriving DecidableEq, Repr

/-- The count of the boundary that ends the swath under way. -/
def State.nextCount (s : State) : Count :=
  let r63 := s.boot.tbNext.isSome
  let aligned := s.endsAligned
  let full := decide (s.kLen ≤ s.phase + 1)
  let phase :=
    if aligned then (s.leadNow (s.btick + s.swLen)).2.2 else if r63 || full then 0 else s.phase + 1
  { r63 := r63, aligned := aligned, isStook := s.nextIsStook, phase := phase }

/-- The counters take the boundary. -/
def State.countBoundary (s : State) (k : Count) : State :=
  let s : State := { s with pipe := { s.pipe with stookB := k.isStook } }
  let t := s.btick + s.swLen
  let s := (s.setSwath ((s.swath + 1) % 2 ^ 48)).setBtick t
  let s := if k.isStook then s.setStook ((s.stook + 1) % 2 ^ 48) else s
  s.setF F.TB_PHASE_STOOK_PHASE k.phase

/-- A follower that has aligned in SAFE keeps the lead's numbers apart from its own (R438, R440), and confirms unless the digests of the
pending sets differ (R436, R437). -/
def State.endAlign (s : State) : State :=
  if !s.isSafe then s.refuseJoin 9
  else
  let (n, k, _) := s.leadNow s.btick
  let off := (s.swath + 2 ^ 48 - n % 2 ^ 48) % 2 ^ 48
  let d : Int := (s.stook : Int) - k
  let s := s.setPairReg Reg.YK_OFFSET_LO Reg.YK_OFFSET_HI 48 off
  let s := s.setF F.SYNC_STATUS_STATE lpDISABLED
  let s := ({ s with tb := { s.tb with r63 := true } } : State).updYk fun y => { y with
    aligning := false
    alignEnd := none
    stookOff := d }
  if s.digestsEqual then s.setF F.YK_STATUS_STATE 3 else s.refuseJoin 10

/-- What belongs to the swath that ended is put aside, and the causes of the new one that are known at its boundary are in
force (R48, R253). -/
def State.turnOver (s : State) (prev : Nat) : State :=
  let now := s.pipe.next ||| (if s.pipe.reacted then cREACTION else 0)
  let s : State := { s with
    pipe := { s.pipe with
      now := now
      next := 0
      lateB := suspends now
      late := false
      ranPrev := s.pipe.ran && s.thrRuns
      recfg := false
      prevBtick := prev
      window := true }
    fc := { s.fc with onceSeen := [] }
    halves := s.halves.map fun (x : Half) => { x with
      prevBad := some (x.dnBadSw, x.upBadSw)
      dnBadSw := 0
      upBadSw := 0 }
    chans := s.chans.map Chan.turnPulses }
  s

/-! ## Contributions in the order of R22 -/

/-- The precision windows that were open when BOOT ended yield nothing (R144). -/
def State.dropStook (s : State) : State :=
  allCh.foldl (fun (s : State) c => (s.updChan c fun x => { x with wOpen := false }).thrFlag c (F.THR_FLAGS_SHORT_STOOK c.val)) s

/-- Step 1: precision windows and spare results of the stook that ended, under the tables in force before the boundary.
`short`: the stook was cut short, and its windows are discarded (R63, R144). -/
def State.closeStook (s : State) (r : StookRaw) (stook : Nat) (short : Bool) : State :=
  let s : State := if short then { s with chans := s.chans.map fun (x : Chan) => { x with wOpen := false } } else s
  let s := s.closePrec r stook
  allHalves.foldl (fun (s : State) h => s.spareStook h r stook) s

/-- Step 2: the staged reconfiguration, and what of the host port it ends. -/
def State.tables (s : State) : State :=
  let before := s
  (s.recfgApply.dropPushes before).recfgCompare

/-- What the lead forwarded: the clear that follows an RC read, which leaves what the register took in since the block of the swath
that the read showed, or the word at a register of this device, unless R288 refuses it (R14, R288, R443). -/
def State.applyForwarded (s : State) (x : Nat × Word × Bool) : State :=
  if x.2.2 then s.setReg x.1 (s.rcSince x.1 x.2.1.toNat)
  else match s.debugDenied x.1 x.2.1 with
    | some p => s.refuseDebug p
    | none => (s.hostWrite false x.1 x.2.1).2

/-- A staged reconfiguration on its way to the follower: words of the staging area, its target and its commit (R34). -/
def setTraffic (x : Nat × Word × Bool) : Bool :=
  decide (stagingBase ≤ x.1) && decide (x.1 < stagingBase + 4 * stagingWords)
    || x.1 == Reg.SYS_RECFG_TARGET || x.1 == Reg.SYS_RECFG_CTRL

/-- The writes the lead forwarded take effect at the follower's boundary and count as unstamped writes (R443); neither the clear
of a register that was read nor a staged reconfiguration suspends a swath (R34). -/
def State.forwarded (s : State) : State :=
  let xs := s.yk.apply
  if xs.isEmpty then s
  else
    let next := s.pipe.next
    let s := s.updYk fun y => { y with apply := [] }
    let s := xs.foldl (fun (s : State) x => s.applyForwarded x) s
    let s : State := { s with pipe := { s.pipe with next := next } }
    if xs.any fun x => !x.2.2 && !setTraffic x then s.boundaryCause cUNSTAMPED else s

/-- Step 7: the commits of the pairs in ascending order, then forces over them (R239, R366). `armed`: the device was armed as the
swath ended (R480). -/
def State.commits (s : State) (late armed : Bool) : State :=
  let s := allPairs.foldl (fun (s : State) p => s.applyCommit p late armed) s
  let fs := s.forcesDue
  let s : State := { s with forces := fs, forceNext := none }
  let s := s.applyForces
  let s := allPairs.foldl (fun (s : State) p => s.applyDebug p) s
  allPairs.foldl (fun (s : State) p => s.staleDerived p) s

/-- What waited for the boundary beside the contributions: clears, injections, releases, keys and records. `before`: the request entry of PWR_CFG.REQ_PAIR in it. -/
def State.waiting (s : State) (before : Word) : State :=
  let s := s.applyClear
  let s := s.applyInject
  let s := s.writeBatch
  let s := s.applySlotOps
  let s := s.journalBoundary
  let s := s.wdgBoundary
  let s := s.sheafRequest before
  let s := if s.exitDue then s.wakeExit.boundaryCause cUNSTAMPED else s
  match s.pwr.levelNext with
  | some l => (s.updPwr fun x => { x with levelNext := none }).setF F.PWR_STATUS_LEVEL l
  | none => s

/-- The length of the swath that begins, fixed at its boundary (R61, R62, R70, R438); a joined follower starts from the
lead's last length and takes the lead's frame when it comes (R439). A follower that has left SAFE before its aligning swath is
refused (R438). -/
def State.fixLength (s : State) (phase : Nat) : State :=
  let s := s.whenB (s.yk.aligning && !s.isSafe) fun s => s.refuseJoin 9
  match s.alignLength with
  | some l =>
    let t := s.btick + l
    (s.setF F.TB_PHASE_LENGTH l).updYk fun y => { y with alignEnd := some t }
  | none =>
    let (l, s) := s.swathLength phase
    let l := if s.asFollower then match s.yk.lead with | some (_, _, n) => n | none => l else l
    s.setF F.TB_PHASE_LENGTH l

/-- The level and the evaluation budget of the swath that begins (R240, R249), and whether the Thresher runs from its boundary on
(R144). -/
def State.fixBudget (s : State) : State :=
  let l := s.fld F.PWR_STATUS_LEVEL
  let b := budgetOf s.lNom l
  let run := s.thrRuns
  { s with pipe := { s.pipe with level := l, budget := b, ran := run } }

/-- The guard signal and the PIPE registers say why the swath that ended was suspended (R253, R254). -/
def State.guardSignal (s : State) (causes swath : Nat) : State :=
  let n := s.swath32
  let s := s.updEntry 48 fun e => { (e.write (BitVec.ofNat 32 (causes % 32)) (qb qVALID true) false n) with src := srcInternal 48 }
  if causes == 0 then s
  else
    let s := (s.setB F.PIPE_SUSP_SEEN true).setF F.PIPE_SUSP_REASONS (causes % 32)
    let s := s.setF F.PIPE_SUSP_SWATH_SWATH (swath % 2 ^ 32)
    if suspends causes then s.addF F.PIPE_SUSP_COUNT_COUNT 1 else s

/-- What the Field side and the channels take at a boundary: REFBUF_EN and the Lean buffer, windows that open, the undervoltage
latch, released channels, latches that end by AUTO, safe states left, the channel-state bits, and cleared extremes (R93, R120,
R130, R141, R149, R153, R155, R160, R466). `start`: tick at which the swath that ended began. -/
def State.fieldBoundary (s : State) (k : Count) (start : Nat) : State :=
  let s := allHalves.foldl (fun (s : State) h => s.bufferStep h) s
  let s := if k.isStook && !s.isBoot then s.openPrec (k.phase == 0) else s
  let s := allHalves.foldl (fun (s : State) h => s.applyUv h) s
  let s := allCh.foldl (fun (s : State) c => s.applyRelease c) s
  let s := allCh.foldl (fun (s : State) c => let b := s.stateBits c; s.updChan c fun x => { x with bits := b }) s
  let s := s.autoClear start
  let s := allCh.foldl (fun (s : State) c => let b := s.safeCause c; s.updChan c fun x => { x with safeL := b }) s
  let s := allCh.foldl (fun (s : State) c => let b := s.stateBits c; s.updChan c fun x => { x with bits := b }) s
  allCh.foldl (fun (s : State) c => s.applyAtClear c) s

/-- SYNC_OUT from the boundary tick on (R75). -/
def State.drivePulse (s : State) (isStook : Bool) : State :=
  let w := if wbit s.tb.ctrl 3 then (if isStook then 2 else 1) else 0
  { s with env := { s.env with syncOut := w } }

/-- The boundary B(n): the swath under way ends and swath n begins (R22, R57-R64). `r`: what the modulators accumulated over
the stook, used at a stook boundary. A night handover that the uplinks have not completed is abandoned (R520 step 3). -/
def State.boundary (s : State) (r : StookRaw) : State :=
  let s := s.endSwath.ageSwath
  let s := s.whenB s.pwr.handover.isSome State.abandonDormant
  let k := s.nextCount
  let start := s.btick
  let old := s.swath
  let oldStook := s.stook
  let causes := s.pipe.now
  let armed := s.isArmed
  let off := !s.glnOn
  let short := (k.r63 || k.aligned) && decide (s.phase + 1 < s.kLen)
  let before := (s.readEntry (64 + s.fld F.PWR_CFG_REQ_PAIR)).value
  let s := ((s.countBoundary k).turnOver start).dieBoundary
  let s := if k.aligned then s.endAlign else s
  -- 1
  let s := if k.isStook && !s.isBoot then s.closeStook r oldStook short else s
  let s := if k.r63 then s.dropStook.applyR63.finishBoot.gleanerStart.flushBuffer else s
  -- 2 to 6
  let s := s.tables
  let s := s.partnerBlock.forwarded
  let s := s.lateAtTarget s.pipe.lateB
  -- 7
  let s := s.commits (suspends causes) armed
  let s := s.waiting before
  let s := (s.applySyncCtrl).markBoundary k.isStook
  let s := (s.fixLength k.phase).fixBudget
  let s := s.fieldBoundary k start
  let s := s.gleanerBoundary off
  let s := ((s.joinComplete).releaseNow).syncReady
  let s := s.pcApply
  let s := s.guardSignal causes old
  (s.drivePulse k.isStook).syncPwr

/-- SWATH_BOUNDARY: the tick count of the swath expires. -/
def execSwathBoundary (r : StookRaw) (s : State) : Host.Outcome State Fault Refusal :=
  .next (s.whenB s.env.pll fun s => s.boundary r)

/-! ## Dormant (R59) -/

/-- A boundary that falls due in Dormant is counted, with the tick at which it fell due as that of the boundary (DESIGN CHOICE, log entry
81); the loop is idle, lengths are base lengths (R59, R73), and member entries whose
fold does not run carry STALE (R429). -/
def State.dormantBoundary (s : State) : State :=
  let k := s.nextCount
  let s := s.countBoundary k
  let len := if s.loop == lpDISABLED then s.lNom
    else baseLen s.trackP s.marksM (if s.marksM == 1 then 0 else k.phase)
  (s.setF F.TB_PHASE_LENGTH len).dieBoundary.unfolded

/-- DORMANT_COUNT: one count of the root divided by 512 adds 1,024 ticks and counts the boundary that has fallen due. -/
def execDormantCount (s : State) : Host.Outcome State Fault Refusal :=
  .next <|
    if !s.env.vin || s.pwr.mode != 4 || s.env.pll then s
    else
      let s := s.setTick ((s.tick + 1024) % 2 ^ 64)
      if s.btick + s.swLen ≤ s.tick then s.dormantBoundary else s

/-! ## Time without a command -/

/-- One tick passes while the PLL runs, never past the tick before the next boundary, which is a command of its own; writes
that wait are tried again (log entry 1). -/
def State.idle (s : State) : State :=
  if !s.env.pll then s
  else
    let s := s.elapse (s.tick + 1)
    (s.catchUp s.tick).retryWrites

end Sys2Proof.Machine
end

