-- ==== Sys2Proof/Machine/Resets.lean ====
section
/-!
DEFINITION. Machine/Resets.lean: the resets that spare the Cellar: RST_N, TEST_N, a reaction of class Reset, and a brown-out of the
core (R52, R323, R386, R468, R528, R546). A transaction whose last bit has been sent by then has completed (R373, R386).
-/
namespace Sys2Proof.Machine

/-- A reset in Dormant finds the Granary as Dormant has left it (R522, R528). -/
def State.loseDormant (s : State) : State := s.whenB (s.pwr.mode == 4) State.loseGranary

/-- RST_N asserts and releases (R52, R323): the straps are latched at the release. -/
def execRstN (st : Straps) (cellarOk : Bool) (s : State) : Host.Outcome State Fault Refusal :=
  .next (if s.env.vin then (s.catchUp s.tick).loseDormant.relock.restart st cellarOk else s)

/-- TEST_N_LOW: the logic die is held as with RST_N low; after the release it enters HALTED with reason 0x0E, and does so
until the next power-on (R546). -/
def execTestNLow (st : Straps) (cellarOk : Bool) (s : State) : Host.Outcome State Fault Refusal :=
  .next (if s.env.vin then
      let s := (s.catchUp s.tick).loseDormant
      let s := { s with env := { s.env with testSeen := true } }
      (s.relock.restart st cellarOk).haltBoot 0x0E 0
    else s)

/-- The time from a Reset reaction to its reset: the first full slot that starts at least 120 ticks later, up to 191 ticks of a
truncated slot and as many of the slot under way, and 8 full slots of ARMED = 0 (R77, R463, R468). -/
def resetTicks : Nat := 120 + 2 * 191 + 8 * 192

/-- RESET_REACTION: after its slots of ARMED = 0 the reaction resets the device as RST_N does, and it boots (R468). FAULT_N
stays asserted until the next SAFE (R473). -/
def execResetReaction (cellarOk : Bool) (s : State) : Host.Outcome State Fault Refusal :=
  .next <|
    if !s.fc.resetting || s.tick < s.fc.resetAt + resetTicks then s
    else
      let st := s.strapsNow
      let s := (s.catchUp s.tick).loseDormant.restart st cellarOk
      ({ s with fc := { s.fc with resetWait := true } } : State).syncFc

/-- CORE_BOR: under LP-limit the core browns out in Hibernate or Dormant: CORE_BOR is raised, the retention store is lost
and the device boots (R528). -/
def execCoreBor (cellarOk : Bool) (s : State) : Host.Outcome State Fault Refusal :=
  .next <|
    if !(s.pwr.mode == 2 || s.pwr.mode == 4) || s.fld F.PWR_CFG_REG != 0 then s
    else
      let st := s.strapsNow
      let s := ((s.catchUp s.tick).loseDormant.updPwr fun x => { x with mode := 0 }).raise srcPWR kCoreBor (faultAddr 63 63)
      let s := s.relock.restart st cellarOk
      ({ s with fc := { s.fc with resetWait := true } } : State).syncFc

end Sys2Proof.Machine
end

