-- ==== Sys2Proof/Machine/Dispatch.lean ====
section
/-!
DEFINITION. Machine/Dispatch.lean: which meaning each command has, one arm per row of the table.
-/
namespace Sys2Proof.Machine

def exec (i : Instr) (s : State) : Host.Outcome State Fault Refusal :=
  match i with
  | .powerOn st flash => Sys2Proof.Machine.execPowerOn st flash s
  | .vinLoss => Sys2Proof.Machine.execVinLoss s
  | .rstN st cellarOk => Sys2Proof.Machine.execRstN st cellarOk s
  | .testNLow st cellarOk => Sys2Proof.Machine.execTestNLow st cellarOk s
  | .bootComplete => Sys2Proof.Machine.execBootComplete s
  | .memberImageVerify => Sys2Proof.Machine.execMemberImageVerify s
  | .clkFail pllLost => Sys2Proof.Machine.execClkFail pllLost s
  | .coreBor cellarOk => Sys2Proof.Machine.execCoreBor cellarOk s
  | .pfailAssert => Sys2Proof.Machine.execPfailAssert s
  | .pfailDeassert => Sys2Proof.Machine.execPfailDeassert s
  | .swathBoundary r => Sys2Proof.Machine.execSwathBoundary r s
  | .dormantCount => Sys2Proof.Machine.execDormantCount s
  | .syncEdge stamp width960 falling => Sys2Proof.Machine.execSyncEdge stamp width960 falling s
  | .syncMissingEdge => Sys2Proof.Machine.execSyncMissingEdge s
  | .syncCtrlWrite v => Sys2Proof.Machine.execSyncCtrlWrite v s
  | .recfgCommit length => Sys2Proof.Machine.execRecfgCommit length s
  | .recfgCancel => Sys2Proof.Machine.execRecfgCancel s
  | .recfgCheckDone => Sys2Proof.Machine.execRecfgCheckDone s
  | .fastWindowClose k w => Sys2Proof.Machine.execFastWindowClose k w s
  | .threshEnd => Sys2Proof.Machine.execThreshEnd s
  | .thrAtClear c => Sys2Proof.Machine.execThrAtClear c s
  | .refbufEnWrite h v => Sys2Proof.Machine.execRefbufEnWrite h v s
  | .seqEntryStart h => Sys2Proof.Machine.execSeqEntryStart h s
  | .shadowVerdict h => Sys2Proof.Machine.execShadowVerdict h s
  | .step4Verdict h => Sys2Proof.Machine.execStep4Verdict h s
  | .seqGo h => Sys2Proof.Machine.execSeqGo h s
  | .sprParkEnd h => Sys2Proof.Machine.execSprParkEnd h s
  | .tdacCheck h => Sys2Proof.Machine.execTdacCheck h s
  | .fpCaptureDone c => Sys2Proof.Machine.execFpCaptureDone c s
  | .fpHoldFeatures c => Sys2Proof.Machine.execFpHoldFeatures c s
  | .doCurrentLimit c => Sys2Proof.Machine.execDoCurrentLimit c s
  | .chOverload c above1A5 => Sys2Proof.Machine.execChOverload c above1A5 s
  | .retryAttempt c => Sys2Proof.Machine.execRetryAttempt c s
  | .attemptCountReset c => Sys2Proof.Machine.execAttemptCountReset c s
  | .latchRelease c => Sys2Proof.Machine.execLatchRelease c s
  | .chOvertemp c => Sys2Proof.Machine.execChOvertemp c s
  | .thermalRecovery c => Sys2Proof.Machine.execThermalRecovery c s
  | .chClampEnergy c => Sys2Proof.Machine.execChClampEnergy c s
  | .shuntOpen c => Sys2Proof.Machine.execShuntOpen c s
  | .shuntReconnect c uA => Sys2Proof.Machine.execShuntReconnect c uA s
  | .loopSupplyLimit c => Sys2Proof.Machine.execLoopSupplyLimit c s
  | .chHeadroom c => Sys2Proof.Machine.execChHeadroom c s
  | .chSense c => Sys2Proof.Machine.execChSense c s
  | .remoteSenseRestore c => Sys2Proof.Machine.execRemoteSenseRestore c s
  | .aoVDisconnect c => Sys2Proof.Machine.execAoVDisconnect c s
  | .aoVReconnect c => Sys2Proof.Machine.execAoVReconnect c s
  | .chAoDev c => Sys2Proof.Machine.execChAoDev c s
  | .almRead h r => Sys2Proof.Machine.execAlmRead h r s
  | .pulseEdge c rising => Sys2Proof.Machine.execPulseEdge c rising s
  | .returnSwitchOpen c => Sys2Proof.Machine.execReturnSwitchOpen c s
  | .returnSwitchClose c => Sys2Proof.Machine.execReturnSwitchClose c s
  | .chOpen c => Sys2Proof.Machine.execChOpen c s
  | .chShortVf c => Sys2Proof.Machine.execChShortVf c s
  | .chStuckOn c => Sys2Proof.Machine.execChStuckOn c s
  | .chStuckOff c => Sys2Proof.Machine.execChStuckOff c s
  | .offStateOpenTest c failed => Sys2Proof.Machine.execOffStateOpenTest c failed s
  | .darkPulse c => Sys2Proof.Machine.execDarkPulse c s
  | .darkPulseVerdict c yoke => Sys2Proof.Machine.execDarkPulseVerdict c yoke s
  | .darkPulseAbort c => Sys2Proof.Machine.execDarkPulseAbort c s
  | .supplyHigh h => Sys2Proof.Machine.execSupplyHigh h s
  | .supplyLow h => Sys2Proof.Machine.execSupplyLow h s
  | .testsSuspended h => Sys2Proof.Machine.execTestsSuspended h s
  | .supplyConditionEnd h which => Sys2Proof.Machine.execSupplyConditionEnd h which s
  | .supplyUv h => Sys2Proof.Machine.execSupplyUv h s
  | .uvRecovery h => Sys2Proof.Machine.execUvRecovery h s
  | .uvRearm h => Sys2Proof.Machine.execUvRearm h s
  | .fieldDieReset h => Sys2Proof.Machine.execFieldDieReset h s
  | .fieldReset h => Sys2Proof.Machine.execFieldReset h s
  | .fieldRestart h => Sys2Proof.Machine.execFieldRestart h s
  | .fieldReload h => Sys2Proof.Machine.execFieldReload h s
  | .gateFail h => Sys2Proof.Machine.execGateFail h s
  | .halfOvercurrent h => Sys2Proof.Machine.execHalfOvercurrent h s
  | .gdrvOpen h => Sys2Proof.Machine.execGdrvOpen h s
  | .gdrvShort h => Sys2Proof.Machine.execGdrvShort h s
  | .gdrvFb h => Sys2Proof.Machine.execGdrvFb h s
  | .holdExpiry c => Sys2Proof.Machine.execHoldExpiry c s
  | .downlinkFrame h slot rx => Sys2Proof.Machine.execDownlinkFrame h slot rx s
  | .mbWrite h seq addr ws => Sys2Proof.Machine.execMbWrite h seq addr ws s
  | .mbRead h seq addr => Sys2Proof.Machine.execMbRead h seq addr s
  | .mbCommitTable h seq => Sys2Proof.Machine.execMbCommitTable h seq s
  | .mbSpareInput h seq input => Sys2Proof.Machine.execMbSpareInput h seq input s
  | .uplinkFrame h slot rx => Sys2Proof.Machine.execUplinkFrame h slot rx s
  | .downlinkTimeout h => Sys2Proof.Machine.execDownlinkTimeout h s
  | .uplinkTimeout h => Sys2Proof.Machine.execUplinkTimeout h s
  | .validationEnd p front cut => Sys2Proof.Machine.execValidationEnd p front cut s
  | .validationAbandon p front cut => Sys2Proof.Machine.execValidationAbandon p front cut s
  | .tineEnd p x => Sys2Proof.Machine.execTineEnd p x s
  | .realEvaluationEnd p x => Sys2Proof.Machine.execRealEvaluationEnd p x s
  | .budgetOverrun p x => Sys2Proof.Machine.execBudgetOverrun p x s
  | .bEnd p => Sys2Proof.Machine.execBEnd p s
  | .bNop p => Sys2Proof.Machine.execBNop p s
  | .bMovi p d imm => Sys2Proof.Machine.execBMovi p d imm s
  | .bMovh p d imm => Sys2Proof.Machine.execBMovh p d imm s
  | .bAlu p d a b f => Sys2Proof.Machine.execBAlu p d a b f s
  | .bAlui p d a f imm => Sys2Proof.Machine.execBAlui p d a f imm s
  | .bCmp p a b => Sys2Proof.Machine.execBCmp p a b s
  | .bCmpi p a imm => Sys2Proof.Machine.execBCmpi p a imm s
  | .bSel p d a b k => Sys2Proof.Machine.execBSel p d a b k s
  | .bSetc p d k => Sys2Proof.Machine.execBSetc p d k s
  | .bRds p d sel => Sys2Proof.Machine.execBRds p d sel s
  | .bLds p d a x idx => Sys2Proof.Machine.execBLds p d a x idx s
  | .bLdq p d a x idx => Sys2Proof.Machine.execBLdq p d a x idx s
  | .bLdv p d idx => Sys2Proof.Machine.execBLdv p d idx s
  | .bLdw p d w idx => Sys2Proof.Machine.execBLdw p d w idx s
  | .bLdb p d t idx => Sys2Proof.Machine.execBLdb p d t idx s
  | .bLdk p d ch f => Sys2Proof.Machine.execBLdk p d ch f s
  | .bSts p r q qe idx => Sys2Proof.Machine.execBSts p r q qe idx s
  | .bStsx p r a q qe off => Sys2Proof.Machine.execBStsx p r a q qe off s
  | .bLdd p d a x off => Sys2Proof.Machine.execBLdd p d a x off s
  | .bStd p r a x off => Sys2Proof.Machine.execBStd p r a x off s
  | .bBr p k off => Sys2Proof.Machine.execBBr p k off s
  | .bCall p t => Sys2Proof.Machine.execBCall p t s
  | .bRet p => Sys2Proof.Machine.execBRet p s
  | .bLoop p n len => Sys2Proof.Machine.execBLoop p n len s
  | .bLoopr p a max len => Sys2Proof.Machine.execBLoopr p a max len s
  | .bTon p d a b t => Sys2Proof.Machine.execBTon p d a b t s
  | .bTof p d a b t => Sys2Proof.Machine.execBTof p d a b t s
  | .bTp p d a b t => Sys2Proof.Machine.execBTp p d a b t s
  | .bEdg p d a addr => Sys2Proof.Machine.execBEdg p d a addr s
  | .bDsc p d a b q t m fe => Sys2Proof.Machine.execBDsc p d a b q t m fe s
  | .bEmit p k r => Sys2Proof.Machine.execBEmit p k r s
  | .bChk p t => Sys2Proof.Machine.execBChk p t s
  | .lockstep p cause pc sheaf x => Sys2Proof.Machine.execLockstep p cause pc sheaf x s
  | .binderFault p cause pc sheaf x => Sys2Proof.Machine.execBinderFault p cause pc sheaf x s
  | .bndHalt p => Sys2Proof.Machine.execBndHalt p s
  | .bndResume p => Sys2Proof.Machine.execBndResume p s
  | .bndStep p => Sys2Proof.Machine.execBndStep p s
  | .breakpointHit p => Sys2Proof.Machine.execBreakpointHit p s
  | .scrubSlot x => Sys2Proof.Machine.execScrubSlot x s
  | .commission => Sys2Proof.Machine.execCommission s
  | .commissionDone ok => Sys2Proof.Machine.execCommissionDone ok s
  | .stageOpen => Sys2Proof.Machine.execStageOpen s
  | .stageEraseDone => Sys2Proof.Machine.execStageEraseDone s
  | .stageCheck => Sys2Proof.Machine.execStageCheck s
  | .stageCheckDone => Sys2Proof.Machine.execStageCheckDone s
  | .stageActivate => Sys2Proof.Machine.execStageActivate s
  | .stageConfirm => Sys2Proof.Machine.execStageConfirm s
  | .rollbackRaise => Sys2Proof.Machine.execRollbackRaise s
  | .armRequest mask => Sys2Proof.Machine.execArmRequest mask s
  | .arming => Sys2Proof.Machine.execArming s
  | .status h => Sys2Proof.Machine.execStatus h s
  | .read h f => Sys2Proof.Machine.execRead h f s
  | .write h ws => Sys2Proof.Machine.execWrite h ws s
  | .stampWrite h stamp ws => Sys2Proof.Machine.execStampWrite h stamp ws s
  | .stampDeposit => Sys2Proof.Machine.execStampDeposit s
  | .pop h f => Sys2Proof.Machine.execPop h f s
  | .snap h f => Sys2Proof.Machine.execSnap h f s
  | .nvmStage h ws => Sys2Proof.Machine.execNvmStage h ws s
  | .attest h ws => Sys2Proof.Machine.execAttest h ws s
  | .force h ws => Sys2Proof.Machine.execForce h ws s
  | .release h => Sys2Proof.Machine.execRelease h s
  | .transactionAbandon => Sys2Proof.Machine.execTransactionAbandon s
  | .hpCfgWrite v => Sys2Proof.Machine.execHpCfgWrite v s
  | .memberCommandBale bits => Sys2Proof.Machine.execMemberCommandBale bits s
  | .deliveryNop => Sys2Proof.Machine.execDeliveryNop s
  | .deliveryData offset ws => Sys2Proof.Machine.execDeliveryData offset ws s
  | .deliveryDone length => Sys2Proof.Machine.execDeliveryDone length s
  | .deliveryAbort => Sys2Proof.Machine.execDeliveryAbort s
  | .cvuScanStart u => Sys2Proof.Machine.execCvuScanStart u s
  | .cvuScanPublish u => Sys2Proof.Machine.execCvuScanPublish u s
  | .cvuScanKey u => Sys2Proof.Machine.execCvuScanKey u s
  | .cvuSessionWrite u id isSealed => Sys2Proof.Machine.execCvuSessionWrite u id isSealed s
  | .gleanerScanStart k grdy => Sys2Proof.Machine.execGleanerScanStart k grdy s
  | .scanLanding k bs strobe ecc => Sys2Proof.Machine.execScanLanding k bs strobe ecc s
  | .foldBlock k blk ticks => Sys2Proof.Machine.execFoldBlock k blk ticks s
  | .classImageRead k pos => Sys2Proof.Machine.execClassImageRead k pos s
  | .yokeFrame slot rx arrive => Sys2Proof.Machine.execYokeFrame slot rx arrive s
  | .ybeatEdge => Sys2Proof.Machine.execYbeatEdge s
  | .joinStart => Sys2Proof.Machine.execJoinStart s
  | .joinTimeout => Sys2Proof.Machine.execJoinTimeout s
  | .joinRetry => Sys2Proof.Machine.execJoinRetry s
  | .shareTest c => Sys2Proof.Machine.execShareTest c s
  | .yfltLow => Sys2Proof.Machine.execYfltLow s
  | .signOfLifeLoss => Sys2Proof.Machine.execSignOfLifeLoss s
  | .activeYfltAssert => Sys2Proof.Machine.execActiveYfltAssert s
  | .yokeTakeover => Sys2Proof.Machine.execYokeTakeover s
  | .faultMessage follower src kind addr => Sys2Proof.Machine.execFaultMessage follower src kind addr s
  | .resetReaction cellarOk => Sys2Proof.Machine.execResetReaction cellarOk s
  | .fcClearChannels mask => Sys2Proof.Machine.execFcClearChannels mask s
  | .fcClearHalves mask => Sys2Proof.Machine.execFcClearHalves mask s
  | .fcClearFirst => Sys2Proof.Machine.execFcClearFirst s
  | .faultInject => Sys2Proof.Machine.execFaultInject s
  | .wdgService isSealed => Sys2Proof.Machine.execWdgService isSealed s
  | .wdgDisableStart isSealed => Sys2Proof.Machine.execWdgDisableStart isSealed s
  | .wdgDisable isSealed => Sys2Proof.Machine.execWdgDisable isSealed s
  | .wdgDisableTimeout => Sys2Proof.Machine.execWdgDisableTimeout s
  | .wdgEnable isSealed => Sys2Proof.Machine.execWdgEnable isSealed s
  | .wdgLock isSealed => Sys2Proof.Machine.execWdgLock isSealed s
  | .wdgKey w isSealed => Sys2Proof.Machine.execWdgKey w isSealed s
  | .wdgCloseEdge => Sys2Proof.Machine.execWdgCloseEdge s
  | .srOpen h low ws => Sys2Proof.Machine.execSrOpen h low ws s
  | .srAuth h low ws => Sys2Proof.Machine.execSrAuth h low ws s
  | .srRegister h low ws => Sys2Proof.Machine.execSrRegister h low ws s
  | .srRetire h low ws => Sys2Proof.Machine.execSrRetire h low ws s
  | .srReadSlot h low ws => Sys2Proof.Machine.execSrReadSlot h low ws s
  | .srAccept h low ws => Sys2Proof.Machine.execSrAccept h low ws s
  | .srClose h low ws => Sys2Proof.Machine.execSrClose h low ws s
  | .sessionTimeout => Sys2Proof.Machine.execSessionTimeout s
  | .serviceUnlock => Sys2Proof.Machine.execServiceUnlock s
  | .hourlyPass a => Sys2Proof.Machine.execHourlyPass a s
  | .pageProgram ok => Sys2Proof.Machine.execPageProgram ok s
  | .blockSeal => Sys2Proof.Machine.execBlockSeal s
  | .treeGeneration => Sys2Proof.Machine.execTreeGeneration s
  | .slotErase ok => Sys2Proof.Machine.execSlotErase ok s
  | .tokenGain => Sys2Proof.Machine.execTokenGain s
  | .attestReportReady => Sys2Proof.Machine.execAttestReportReady s
  | .srWinJournal off => Sys2Proof.Machine.execSrWinJournal off s
  | .srWinReport off => Sys2Proof.Machine.execSrWinReport off s
  | .windowReady => Sys2Proof.Machine.execWindowReady s
  | .powerRequest v => Sys2Proof.Machine.execPowerRequest v s
  | .requestJudge => Sys2Proof.Machine.execRequestJudge s
  | .wakeHost level => Sys2Proof.Machine.execWakeHost level s
  | .wakePin => Sys2Proof.Machine.execWakePin s
  | .wakeDi c => Sys2Proof.Machine.execWakeDi c s
  | .wakeHsel => Sys2Proof.Machine.execWakeHsel s
  | .wakeAlarm => Sys2Proof.Machine.execWakeAlarm s
  | .wakeReady cellarOk => Sys2Proof.Machine.execWakeReady cellarOk s
  | .logicHot => Sys2Proof.Machine.execLogicHot s
  | .pcFreeze => Sys2Proof.Machine.execPcFreeze s
  | .pcRun => Sys2Proof.Machine.execPcRun s
  | .pcSnapshot => Sys2Proof.Machine.execPcSnapshot s
  | .pcClear => Sys2Proof.Machine.execPcClear s
  | .registerWrite a v => Sys2Proof.Machine.execRegisterWrite a v s
  | .fullSlotEnd h slot => Sys2Proof.Machine.execFullSlotEnd h slot s
  | .linkTrained h => Sys2Proof.Machine.execLinkTrained h s
  | .shareTestVerdict c => Sys2Proof.Machine.execShareTestVerdict c s
  | .shuntOpenOverload c => Sys2Proof.Machine.execShuntOpenOverload c s
  | .memberBaleLoad => Sys2Proof.Machine.execMemberBaleLoad s
  | .stageProgramDone ok => Sys2Proof.Machine.execStageProgramDone ok s
  | .logicCooled => Sys2Proof.Machine.execLogicCooled s
  | .vioLevelChange mv => Sys2Proof.Machine.execVioLevelChange mv s

end Sys2Proof.Machine
end

