-- ==== Sys2Proof/WellFormed.lean ====
section
/-!
DEFINITION. WellFormed.lean: which commands can come. Only what no rule gives the device an answer to is refused: operands
outside what the device can be sent or can measure. Frames, headers and bales with errors are well-formed: the device
judges those.
-/
namespace Sys2Proof

/-- A condition code that is not reserved: all but 12, 13 and 15 (R267). -/
def condWf (k : BitVec 4) : Bool := k != 12#4 && k != 13#4 && k != 15#4

/-- A received frame, where one came, has the words of its kind (R203, R432). -/
def wordsWf (n : Nat) (rx : Option (List Word)) : Bool :=
  match rx with | some ws => decide (ws.length = n) | none => true

/-- A window has a sample of every channel and every spare, and both halves' supplies (R140). -/
def WinSample.wf (w : WinSample) : Bool :=
  decide (w.chans.length = 16) && decide (w.spares.length = 2) && decide (w.vfield.length = 2) && decide (w.total.length = 2)

/-- A stook has a result of every channel and every spare (R141, R192). -/
def StookRaw.wf (r : StookRaw) : Bool :=
  decide (r.chans.length = 16) && decide (r.spares.length = 2) && decide (r.ints.length = 2)

/-- An hour has the readings of 16 channels, and no temperature at absolute zero or below (R495). -/
def Ageing.wf (a : Ageing) : Bool :=
  decide (a.junctions.length = 16) && a.logic.all (fun x => decide (-27315 < x.2))
    && a.junctions.all fun ts => ts.all fun t => decide (-27315 < t)

/-- A flash holds no more than a slot's words in each slot (R325). -/
def FlashIn.wf (f : FlashIn) : Bool :=
  decide (f.slotA.length ≤ 1048576) && decide (f.slotB.length ≤ 1048576) && decide (f.records.length ≤ 256)

/-- A well-formed command. -/
def Instr.wf (i : Instr) : Bool :=
  match i with
  | .powerOn _ flash => match flash with | some f => f.wf | none => true
  | .vinLoss => true
  | .rstN _ _ => true
  | .testNLow _ _ => true
  | .bootComplete => true
  | .memberImageVerify => true
  | .clkFail _ => true
  | .coreBor _ => true
  | .pfailAssert => true
  | .pfailDeassert => true
  | .swathBoundary r => r.wf
  | .dormantCount => true
  | .syncEdge _ w _ => decide (5 ≤ w)
  | .syncMissingEdge => true
  | .syncCtrlWrite _ => true
  | .recfgCommit _ => true
  | .recfgCancel => true
  | .recfgCheckDone => true
  | .fastWindowClose k w => decide (0 < k) && w.wf
  | .threshEnd => true
  | .thrAtClear _ => true
  | .refbufEnWrite _ _ => true
  | .seqEntryStart _ => true
  | .shadowVerdict _ => true
  | .step4Verdict _ => true
  | .seqGo _ => true
  | .sprParkEnd _ => true
  | .tdacCheck _ => true
  | .fpCaptureDone _ => true
  | .fpHoldFeatures _ => true
  | .doCurrentLimit _ => true
  | .chOverload _ _ => true
  | .retryAttempt _ => true
  | .attemptCountReset _ => true
  | .latchRelease _ => true
  | .chOvertemp _ => true
  | .thermalRecovery _ => true
  | .chClampEnergy _ => true
  | .shuntOpen _ => true
  | .shuntReconnect _ _ => true
  | .loopSupplyLimit _ => true
  | .chHeadroom _ => true
  | .chSense _ => true
  | .remoteSenseRestore _ => true
  | .aoVDisconnect _ => true
  | .aoVReconnect _ => true
  | .chAoDev _ => true
  | .almRead _ _ => true
  | .pulseEdge _ _ => true
  | .returnSwitchOpen _ => true
  | .returnSwitchClose _ => true
  | .chOpen _ => true
  | .chShortVf _ => true
  | .chStuckOn _ => true
  | .chStuckOff _ => true
  | .offStateOpenTest _ _ => true
  | .darkPulse _ => true
  | .darkPulseVerdict _ _ => true
  | .darkPulseAbort _ => true
  | .supplyHigh _ => true
  | .supplyLow _ => true
  | .testsSuspended _ => true
  | .supplyConditionEnd _ _ => true
  | .supplyUv _ => true
  | .uvRecovery _ => true
  | .uvRearm _ => true
  | .fieldDieReset _ => true
  | .fieldReset _ => true
  | .fieldRestart _ => true
  | .fieldReload _ => true
  | .gateFail _ => true
  | .halfOvercurrent _ => true
  | .gdrvOpen _ => true
  | .gdrvShort _ => true
  | .gdrvFb _ => true
  | .holdExpiry _ => true
  | .downlinkFrame _ slot rx => decide (slot < 8192) && wordsWf 24 rx
  | .mbWrite _ _ _ ws => decide (ws.length ≤ 7)
  | .mbRead _ _ _ => true
  | .mbCommitTable _ _ => true
  | .mbSpareInput _ _ _ => true
  | .uplinkFrame _ slot rx => (match slot with | some n => decide (n < 8192) | none => true) && wordsWf 24 rx
  | .downlinkTimeout _ => true
  | .uplinkTimeout _ => true
  | .validationEnd _ _ _ => true
  | .validationAbandon _ _ _ => true
  | .tineEnd _ _ => true
  | .realEvaluationEnd _ _ => true
  | .budgetOverrun _ _ => true
  | .bEnd _ => true
  | .bNop _ => true
  | .bMovi _ _ _ => true
  | .bMovh _ _ _ => true
  | .bAlu _ _ _ _ _ => true
  | .bAlui _ _ _ _ _ => true
  | .bCmp _ _ _ => true
  | .bCmpi _ _ _ => true
  | .bSel _ _ _ _ k => condWf k
  | .bSetc _ _ k => condWf k
  | .bRds _ _ sel => decide (sel.toNat ≤ 6)
  | .bLds _ _ _ _ _ => true
  | .bLdq _ _ _ _ _ => true
  | .bLdv _ _ _ => true
  | .bLdw _ _ w _ => decide (2 ≤ w.toNat)
  | .bLdb _ _ _ _ => true
  | .bLdk _ _ _ _ => true
  | .bSts _ _ _ _ _ => true
  | .bStsx _ _ _ _ _ _ => true
  | .bLdd _ _ _ _ _ => true
  | .bStd _ _ _ _ _ => true
  | .bBr _ k _ => condWf k
  | .bCall _ _ => true
  | .bRet _ => true
  | .bLoop _ _ _ => true
  | .bLoopr _ _ _ _ => true
  | .bTon _ _ _ _ _ => true
  | .bTof _ _ _ _ _ => true
  | .bTp _ _ _ _ _ => true
  | .bEdg _ _ _ _ => true
  | .bDsc _ _ _ _ _ _ _ _ => true
  | .bEmit _ _ _ => true
  | .bChk _ _ => true
  | .lockstep _ _ pc _ _ => decide (pc < 16384)
  | .binderFault _ _ pc _ _ => decide (pc < 16384)
  | .bndHalt _ => true
  | .bndResume _ => true
  | .bndStep _ => true
  | .breakpointHit _ => true
  | .scrubSlot _ => true
  | .commission => true
  | .commissionDone _ => true
  | .stageOpen => true
  | .stageEraseDone => true
  | .stageCheck => true
  | .stageCheckDone => true
  | .stageActivate => true
  | .stageConfirm => true
  | .rollbackRaise => true
  | .armRequest _ => true
  | .arming => true
  | .status _ => true
  | .read _ _ => true
  | .write _ _ => true
  | .stampWrite _ _ _ => true
  | .stampDeposit => true
  | .pop _ _ => true
  | .snap _ _ => true
  | .nvmStage _ _ => true
  | .attest _ _ => true
  | .force _ _ => true
  | .release _ => true
  | .transactionAbandon => true
  | .hpCfgWrite _ => true
  | .memberCommandBale _ => true
  | .deliveryNop => true
  | .deliveryData offset ws => decide (offset.toNat % 28 = 0) && decide (ws.length = 28)
  | .deliveryDone _ => true
  | .deliveryAbort => true
  | .cvuScanStart _ => true
  | .cvuScanPublish _ => true
  | .cvuScanKey _ => true
  | .cvuSessionWrite _ _ _ => true
  | .gleanerScanStart _ _ => true
  | .scanLanding _ _ _ _ => true
  | .foldBlock _ blk ticks => decide (blk < 8) && decide (ticks ≤ 960)
  | .classImageRead _ pos => decide (1 ≤ pos) && decide (pos ≤ 255)
  | .yokeFrame slot rx _ => decide (slot < 8192) && wordsWf 48 rx
  | .ybeatEdge => true
  | .joinStart => true
  | .joinTimeout => true
  | .joinRetry => true
  | .shareTest _ => true
  | .yfltLow => true
  | .signOfLifeLoss => true
  | .activeYfltAssert => true
  | .yokeTakeover => true
  | .faultMessage _ _ _ _ => true
  | .resetReaction _ => true
  | .fcClearChannels _ => true
  | .fcClearHalves _ => true
  | .fcClearFirst => true
  | .faultInject => true
  | .wdgService _ => true
  | .wdgDisableStart _ => true
  | .wdgDisable _ => true
  | .wdgDisableTimeout => true
  | .wdgEnable _ => true
  | .wdgLock _ => true
  | .wdgKey _ _ => true
  | .wdgCloseEdge => true
  | .srOpen _ _ _ => true
  | .srAuth _ _ _ => true
  | .srRegister _ _ _ => true
  | .srRetire _ _ _ => true
  | .srReadSlot _ _ _ => true
  | .srAccept _ _ _ => true
  | .srClose _ _ _ => true
  | .sessionTimeout => true
  | .serviceUnlock => true
  | .hourlyPass a => a.wf
  | .pageProgram _ => true
  | .blockSeal => true
  | .treeGeneration => true
  | .slotErase _ => true
  | .tokenGain => true
  | .attestReportReady => true
  | .srWinJournal off => decide (off.toNat % 4 = 0)
  | .srWinReport off => decide (off.toNat % 4 = 0)
  | .windowReady => true
  | .powerRequest _ => true
  | .requestJudge => true
  | .wakeHost _ => true
  | .wakePin => true
  | .wakeDi _ => true
  | .wakeHsel => true
  | .wakeAlarm => true
  | .wakeReady _ => true
  | .logicHot => true
  | .pcFreeze => true
  | .pcRun => true
  | .pcSnapshot => true
  | .pcClear => true
  | .registerWrite a _ => decide (a.toNat % 4 = 0)
  | .fullSlotEnd _ slot => decide (slot < 8192)
  | .linkTrained _ => true
  | .shareTestVerdict _ => true
  | .shuntOpenOverload _ => true
  | .memberBaleLoad => true
  | .stageProgramDone _ => true
  | .logicCooled => true
  | .vioLevelChange mv => decide (mv ≤ 4000)

end Sys2Proof
end

