-- ==== Sys2Proof/Safety.lean ====
section
/-!
DEFINITION. Safety.lean: what counts as a safe run: a step that answers a next state, and a state whose stores are sound.
-/
namespace Sys2Proof.Machine

/-- An outcome is a next state. -/
def answers (o : Host.Outcome State Fault Refusal) : Bool :=
  match o with | .next _ => true | .fault _ => false | .refused _ => false

/-- The commands that no rule gives an effect: a pin beyond its absolute maximum ratings (R556). -/
def beyond (i : Instr) : Bool :=
  match i with | .vioLevelChange mv => decide (4000 < mv) | _ => false

/-- Every command that waits is well-formed. -/
def State.queueWf (s : State) : Prop := ∀ i ∈ s.pending, i.wf = true

/-- The stamped-write queue holds at most its 64 writes (R375). -/
def State.stampedFit (s : State) : Prop := s.queue.length ≤ 64

/-- Every unpublished entry of a Crib is one of a Binder pair, of at most eight words (R313). -/
def State.cribsSound (s : State) : Prop := ∀ c, ∀ e ∈ (s.cribs.get c).written, e.1 < 4 ∧ e.2.length ≤ 8

/-- A blocked pair evaluates nothing and holds no commit (R286). -/
def State.blockedIdle (s : State) : Prop := ∀ p, (s.pairs.get p).blocked.isSome = true →
  (s.pairs.get p).ctx = none ∧ (s.pairs.get p).tines = [] ∧ (s.pairs.get p).commit = none ∧ (s.pairs.get p).halted = false

/-- The addressed memory stands in its canonical form. -/
def State.memWf (s : State) : Prop := Memory.wf s.mem = true

/-! ## What a command may change -/

/-- The parts of the state, one per field. -/
inductive Part where
  /-- the register file -/
  | regs
  /-- the Loft and the General area -/
  | mem
  /-- the signal table -/
  | sig
  /-- pins, supplies and links -/
  | env
  /-- the timebase and SYNC loop -/
  | tb
  /-- the Fault Collector -/
  | fc
  /-- the watchdog -/
  | wdg
  /-- the pipeline -/
  | pipe
  /-- the output image -/
  | out
  /-- the channels -/
  | chans
  /-- the halves and their field dies -/
  | halves
  /-- the Binder pairs -/
  | pairs
  /-- the Cribs -/
  | cribs
  /-- boot, image, fuses and staging -/
  | boot
  /-- the staged reconfiguration -/
  | recfg
  /-- the check-value units -/
  | cvu
  /-- the Service Record -/
  | sr
  /-- the Gleaner -/
  | gln
  /-- the power states -/
  | pwr
  /-- the Yoke -/
  | yk
  /-- the host port -/
  | hp
  /-- the forces in effect -/
  | forces
  /-- the forces of the next boundary -/
  | forceNext
  /-- the stamped-write queue -/
  | queue
  /-- the keys of the performance counters -/
  | perf
  /-- the scrub position -/
  | scrub
  /-- the model's counter of free values -/
  | free
  /-- the queue of commands -/
  | pending
  deriving DecidableEq, Repr

/-- Two states agree in a part. -/
def Part.same : Part → State → State → Prop
  | .regs, s, t => t.regs = s.regs
  | .mem, s, t => t.mem = s.mem
  | .sig, s, t => t.sig = s.sig
  | .env, s, t => t.env = s.env
  | .tb, s, t => t.tb = s.tb
  | .fc, s, t => t.fc = s.fc
  | .wdg, s, t => t.wdg = s.wdg
  | .pipe, s, t => t.pipe = s.pipe
  | .out, s, t => t.out = s.out
  | .chans, s, t => t.chans = s.chans
  | .halves, s, t => t.halves = s.halves
  | .pairs, s, t => t.pairs = s.pairs
  | .cribs, s, t => t.cribs = s.cribs
  | .boot, s, t => t.boot = s.boot
  | .recfg, s, t => t.recfg = s.recfg
  | .cvu, s, t => t.cvu = s.cvu
  | .sr, s, t => t.sr = s.sr
  | .gln, s, t => t.gln = s.gln
  | .pwr, s, t => t.pwr = s.pwr
  | .yk, s, t => t.yk = s.yk
  | .hp, s, t => t.hp = s.hp
  | .forces, s, t => t.forces = s.forces
  | .forceNext, s, t => t.forceNext = s.forceNext
  | .queue, s, t => t.queue = s.queue
  | .perf, s, t => t.perf = s.perf
  | .scrub, s, t => t.scrub = s.scrub
  | .free, s, t => t.free = s.free
  | .pending, s, t => t.pending = s.pending

/-- `t` differs from `s` in the named parts at most. -/
structure OnlyChanges (ps : List Part) (s t : State) : Prop where
  /-- every other part is as before -/
  same : ∀ p : Part, p ∉ ps → p.same s t

/-- The registers that raising a fault may change: SYS_STATE, SYS_RECFG_STATUS, the Fault Collector's, YK_STATUS, the BND_STATUS of the
pairs and the counters of their cycles (R3, R32, R449, R457-R473, R533). Above the addresses stands what the RC registers have taken in
since they were read (`newsBase`). -/
def faultReg (a : Nat) : Bool :=
  a == Reg.SYS_STATE || a == Reg.SYS_RECFG_STATUS || a == Reg.YK_STATUS || (decide (0x2000 ≤ a) && decide (a < 0x3000))
    || (allPairs.any fun p => a == Reg.BND_STATUS p.val) || (decide (0x6100 ≤ a) && decide (a < 0x6500)) || decide (newsBase ≤ a)

/-- Every register that raising a fault does not change reads as before. -/
structure FaultRegsOnly (s t : State) : Prop where
  /-- the other registers are as before -/
  same : ∀ a, faultReg a = false → t.reg a = s.reg a

/-- The outcome is a next state, and it differs from `s` in the named parts at most. -/
def Answers (ps : List Part) (s : State) (o : Host.Outcome State Fault Refusal) : Prop :=
  ∃ t, o = .next t ∧ OnlyChanges ps s t

/-- The command answers a next state of which `p` holds. -/
def Does (i : Instr) (s : State) (p : State → Prop) : Prop := ∃ t, exec i s = .next t ∧ p t

/-- The command answers a next state that differs from `s` in the named parts at most, and of which `p` holds. -/
def DoesOnly (ps : List Part) (i : Instr) (s : State) (p : State → Prop) : Prop :=
  ∃ t, exec i s = .next t ∧ OnlyChanges ps s t ∧ p t

/-- The commands that act on the core domain's registers, keys and Fault Collector, which is off in Dormant (R515). -/
def coreCommand (i : Instr) : Bool :=
  match i with
  | .armRequest _ | .bndHalt _ | .bndResume _ | .bndStep _ | .commission | .cvuScanKey _ | .cvuSessionWrite _ _ _
  | .faultInject | .faultMessage _ _ _ _ | .fcClearChannels _ | .fcClearFirst | .fcClearHalves _ | .fieldReset _
  | .hpCfgWrite _ | .joinRetry | .latchRelease _ | .pcClear | .pcFreeze | .pcRun | .pcSnapshot | .powerRequest _
  | .recfgCancel | .recfgCommit _ | .refbufEnWrite _ _ | .registerWrite _ _ | .rollbackRaise | .seqGo _ | .sprParkEnd _
  | .srWinJournal _ | .srWinReport _ | .stageActivate | .stageCheck | .stageConfirm | .stageOpen | .syncCtrlWrite _
  | .thrAtClear _ | .uvRearm _ | .wdgDisable _ | .wdgDisableStart _ | .wdgEnable _ | .wdgKey _ _ | .wdgLock _
  | .wdgService _ => true
  | _ => false

/-! ## Instructions of a Binder pair (R256-R281) -/

/-- The pair in which a command is a Binder instruction. -/
def binderPair (i : Instr) : Option PairIx :=
  match i with
  | .bEnd p | .bNop p | .bMovi p _ _ | .bMovh p _ _ | .bAlu p _ _ _ _ | .bAlui p _ _ _ _ | .bCmp p _ _ | .bCmpi p _ _
  | .bSel p _ _ _ _ | .bSetc p _ _ | .bRds p _ _ | .bLds p _ _ _ _ | .bLdq p _ _ _ _ | .bLdv p _ _ | .bLdw p _ _ _
  | .bLdb p _ _ _ | .bLdk p _ _ _ | .bSts p _ _ _ _ | .bStsx p _ _ _ _ _ | .bLdd p _ _ _ _ | .bStd p _ _ _ _ | .bBr p _ _
  | .bCall p _ | .bRet p | .bLoop p _ _ | .bLoopr p _ _ _ | .bTon p _ _ _ _ | .bTof p _ _ _ _ | .bTp p _ _ _ _
  | .bEdg p _ _ _ | .bDsc p _ _ _ _ _ _ _ | .bEmit p _ _ | .bChk p _ => some p
  | _ => none

/-- An evaluation is under way in pair `p` and may run: the pairs run and are armed, the pair has a program, is not blocked and
not halted, the evaluation has neither ended nor been aborted, stands at no breakpoint, is no discarded tine, and its engines
agree (R225, R231, R233, R256, R259, R286, R289, R290, R518). -/
structure Runs (s : State) (p : PairIx) (pr : Prog) (c : Ctx) : Prop where
  /-- the program of the pair -/
  prog : (s.pairs.get p).prog = some pr
  /-- the evaluation under way -/
  ctx : (s.pairs.get p).ctx = some c
  /-- the device is armed -/
  armed : s.isArmed = true
  /-- the pairs run -/
  pairs : s.pairsRun = true
  /-- it has not ended -/
  live : c.ended = false
  /-- it has not been aborted -/
  kept : c.aborted = false
  /-- the pair is not blocked -/
  free : (s.pairs.get p).blocked = none
  /-- the pair is not halted -/
  going : (s.pairs.get p).halted = false
  /-- a tine is still of use -/
  tine : c.isTine = true → s.anyBreak p.val = false ∧ s.tineLate c = false
  /-- no breakpoint stands in the way -/
  past : s.atBreak p c = false
  /-- the engines agree -/
  engines : c.eb = c.engA

/-- The command completes as an instruction of pair `p`: the evaluation under way becomes one whose engines agree and of which,
engine B aside, `q` holds, and nothing else of the machine changes. -/
def Executes (i : Instr) (s : State) (p : PairIx) (q : Ctx → Prop) : Prop :=
  ∃ t c c', exec i s = .next t ∧ OnlyChanges [.pairs] s t ∧ (∀ x, x ≠ p → t.pairs.get x = s.pairs.get x) ∧
    (s.pairs.get p).ctx = some c ∧ t.pairs.get p = { s.pairs.get p with ctx := some c' } ∧ c'.eb = c'.engA ∧
    q { c' with eb := c.eb }

/-- Register `d` holds `v`; every other register is as before. -/
structure Ctx.Sets (c c' : Ctx) (d : RegIx) (v : Word) : Prop where
  /-- the destination -/
  written : c'.w d = v
  /-- the other registers -/
  others : ∀ r, r ≠ d → c'.w r = c.w r

/-- The evaluation goes on in sequence: with the next instruction, or where a loop body ends (R265, R281). -/
def Ctx.GoesOn (c c' : Ctx) : Prop := (c'.pc, c'.loops) = loopBack (c.pc + 1) c.loops

/-- Nothing but the registers and the position has changed: the flags, the data memory, the timers and the held effects
are as before. -/
def Ctx.KeepsRest (c c' : Ctx) : Prop := c' = { c with regs := c'.regs, pc := c'.pc, loops := c'.loops }

/-- Nothing but the position has changed. -/
def Ctx.KeepsAll (c c' : Ctx) : Prop := c' = { c with pc := c'.pc, loops := c'.loops }

/-- What a condition code asks of the flags (R267); the reserved codes ask what never holds. -/
def condMeans (k : BitVec 4) (ze lt lu sat : Bool) : Prop :=
  (k = 0#4 ∧ ze) ∨ (k = 1#4 ∧ ¬ze) ∨ (k = 2#4 ∧ lt) ∨ (k = 3#4 ∧ ¬lt) ∨ (k = 4#4 ∧ (lt ∨ ze)) ∨ (k = 5#4 ∧ ¬(lt ∨ ze))
    ∨ (k = 6#4 ∧ lu) ∨ (k = 7#4 ∧ ¬lu) ∨ (k = 8#4 ∧ (lu ∨ ze)) ∨ (k = 9#4 ∧ ¬(lu ∨ ze)) ∨ (k = 10#4 ∧ sat)
    ∨ (k = 11#4 ∧ ¬sat) ∨ k = 14#4

/-- The exact integer clipped to 32 signed bits. -/
def IsClip (v : Word) (i : Int) : Prop :=
  (i < -0x80000000 → v = 0x80000000#32) ∧ (0x7FFFFFFF < i → v = 0x7FFFFFFF#32) ∧
    (-0x80000000 ≤ i → i ≤ 0x7FFFFFFF → v.toInt = i)

/-- The exact integer does not fit 32 signed bits. -/
def Overflows (i : Int) : Prop := i < -0x80000000 ∨ 0x7FFFFFFF < i

/-- Result `v` of ALU function `f` on `a` and `b` (R266). -/
def AluResult (f : BitVec 4) (a b v : Word) : Prop :=
  match f.toNat with
  | 0 => v.toNat = (a.toNat + b.toNat) % 2 ^ 32
  | 1 => (v.toNat + b.toNat) % 2 ^ 32 = a.toNat
  | 2 => IsClip v (a.toInt + b.toInt)
  | 3 => IsClip v (a.toInt - b.toInt)
  | 4 => v.toNat = a.toNat * b.toNat % 2 ^ 32
  | 5 => IsClip v (a.toInt * b.toInt)
  | 6 => v.toInt * 2 ^ 32 ≤ a.toInt * b.toInt ∧ a.toInt * b.toInt < (v.toInt + 1) * 2 ^ 32
  | 7 => ∀ n < 32, v.getLsbD n = (a.getLsbD n && b.getLsbD n)
  | 8 => ∀ n < 32, v.getLsbD n = (a.getLsbD n || b.getLsbD n)
  | 9 => ∀ n < 32, v.getLsbD n = (a.getLsbD n != b.getLsbD n)
  | 10 => ∀ n < 32, v.getLsbD n = (a.getLsbD n && !b.getLsbD n)
  | 11 => v.toNat = a.toNat * 2 ^ (b.toNat % 32) % 2 ^ 32
  | 12 => v.toNat = a.toNat / 2 ^ (b.toNat % 32)
  | 13 => v.toInt = a.toInt / 2 ^ (b.toNat % 32)
  | 14 => v.toInt = min a.toInt b.toInt
  | _ => v.toInt = max a.toInt b.toInt

/-- LU after ALU function `f` (R267). -/
def AluLu (f : BitVec 4) (a b : Word) : Prop :=
  (f = 0#4 ∧ 0xFFFFFFFF < a.toNat + b.toNat) ∨ (f = 1#4 ∧ a.toNat < b.toNat)

/-- SAT after ALU function `f` (R267). -/
def AluSat (f : BitVec 4) (a b : Word) : Prop :=
  ((f = 0#4 ∨ f = 2#4) ∧ Overflows (a.toInt + b.toInt)) ∨ ((f = 1#4 ∨ f = 3#4) ∧ Overflows (a.toInt - b.toInt)) ∨
    (f = 5#4 ∧ Overflows (a.toInt * b.toInt))

/-- The evaluation after ALU or ALUI: the result in `d`, the flags from it, on in sequence, nothing else (R266, R267). -/
structure Ctx.AluDone (c c' : Ctx) (d : RegIx) (f : BitVec 4) (a b : Word) : Prop where
  /-- the result -/
  result : AluResult f a b (c'.w d)
  /-- the other registers -/
  others : ∀ r, r ≠ d → c'.w r = c.w r
  /-- ZE: the result is 0 -/
  ze : c'.ze = true ↔ c'.w d = 0#32
  /-- LT: the result is negative -/
  lt : c'.lt = true ↔ (c'.w d).toInt < 0
  /-- LU -/
  lu : c'.lu = true ↔ AluLu f a b
  /-- SAT -/
  sat : c'.sat = true ↔ AluSat f a b
  /-- on in sequence -/
  on : c.GoesOn c'
  /-- all else as before -/
  rest : c' = { c with
    regs := c'.regs, ze := c'.ze, lt := c'.lt, lu := c'.lu, sat := c'.sat, pc := c'.pc, loops := c'.loops }

/-- The evaluation after CMP or CMPI: the flags of the comparison, on in sequence, nothing else (R267). -/
structure Ctx.Compared (c c' : Ctx) (a b : Word) : Prop where
  /-- ZE: equal -/
  ze : c'.ze = true ↔ a = b
  /-- LT: less as signed values -/
  lt : c'.lt = true ↔ a.toInt < b.toInt
  /-- LU: less as unsigned values -/
  lu : c'.lu = true ↔ a.toNat < b.toNat
  /-- SAT: 0 -/
  sat : c'.sat = false
  /-- on in sequence -/
  on : c.GoesOn c'
  /-- all else as before, the registers too -/
  rest : c' = { c with
    ze := c'.ze, lt := c'.lt, lu := c'.lu, sat := c'.sat, pc := c'.pc, loops := c'.loops }

/-- The index an instruction with X names: (W_a + IDX) mod 131,072 with X = 1, IDX with X = 0 (R269). -/
def IndexIs (c : Ctx) (a : RegIx) (x : BitVec 1) (idx : BitVec 17) (i : Nat) : Prop :=
  (x = 1#1 → i = ((c.w a).toNat + idx.toNat) % 131072) ∧ (x = 0#1 → i = idx.toNat)

/-- The read set after a load of aspect `a` of entry `i` (R234): in a tine it holds the record, once, and everything it
held; in a real evaluation it stays as it is. -/
def Ctx.Recorded (c c' : Ctx) (i : Nat) (a : Aspect) : Prop :=
  (c.isTine = false → c'.reads = c.reads) ∧
    (c.isTine = true → ∀ r, r ∈ c'.reads ↔ r = ⟨i, a⟩ ∨ r ∈ c.reads)

/-- Nothing but the registers, the position and the read set has changed, and the evaluation was aborted by this load
only if its sheaf has more than 4,096 records (R233). -/
def Ctx.LoadRest (c c' : Ctx) : Prop :=
  c' = { c with
    regs := c'.regs, pc := c'.pc, loops := c'.loops, reads := c'.reads, sheafReads := c'.sheafReads, aborted := c'.aborted
  } ∧ (c'.aborted = true → 4096 < c'.sheafReads)

/-- The evaluation after a load of `v` into `d` with a read-set record. -/
structure Ctx.Loaded (c c' : Ctx) (d : RegIx) (v : Word) (i : Nat) (a : Aspect) : Prop where
  /-- the destination -/
  sets : c.Sets c' d v
  /-- the read set -/
  reads : c.Recorded c' i a
  /-- on in sequence -/
  on : c.GoesOn c'
  /-- all else as before -/
  rest : c.LoadRest c'

/-- The evaluation after an instruction that writes `v` to `d` and nothing else. -/
structure Ctx.Moved (c c' : Ctx) (d : RegIx) (v : Word) : Prop where
  /-- the destination -/
  sets : c.Sets c' d v
  /-- on in sequence -/
  on : c.GoesOn c'
  /-- all else as before, the flags too -/
  rest : c.KeepsRest c'

/-- The evaluation after a timer update (R232, R274): the timer and only it, one update, Q in bit 0 of the destination, a tine
aborted past 256 updates. -/
structure Ctx.TimerDone (c c' : Ctx) (d : RegIx) (n : Nat) (t : Timer) : Prop where
  /-- the timer -/
  timer : Sparse.get timerDefault c'.timers n = t
  /-- the other timers -/
  others : ∀ m, m ≠ n → Sparse.get timerDefault c'.timers m = Sparse.get timerDefault c.timers m
  /-- Q to the destination -/
  sets : c.Sets c' d (if t.q then 1#32 else 0#32)
  /-- one update -/
  counted : c'.updates = c.updates + 1
  /-- a tine past its updates -/
  limit : c'.aborted = true ↔ c.isTine = true ∧ 256 < c'.updates
  /-- on in sequence -/
  on : c.GoesOn c'
  /-- all else as before -/
  rest : c' = { c with
    regs := c'.regs, pc := c'.pc, loops := c'.loops, timers := c'.timers, updates := c'.updates, aborted := c'.aborted }

/-- The evaluation after a monitor update (R232, R277). -/
structure Ctx.MonitorDone (c c' : Ctx) (d : RegIx) (n : Nat) (t : Timer) : Prop where
  /-- the monitor -/
  timer : Sparse.get timerDefault c'.timers n = t
  /-- the other timers -/
  others : ∀ m, m ≠ n → Sparse.get timerDefault c'.timers m = Sparse.get timerDefault c.timers m
  /-- no register but the destination -/
  regs : ∀ r, r ≠ d → c'.w r = c.w r
  /-- one update -/
  counted : c'.updates = c.updates + 1
  /-- a tine past its updates -/
  limit : c'.aborted = true ↔ c.isTine = true ∧ 256 < c'.updates
  /-- on in sequence -/
  on : c.GoesOn c'
  /-- all else as before, but for a fault and a count of latches held with the evaluation -/
  rest : c' = { c with
    regs := c'.regs, pc := c'.pc, loops := c'.loops, timers := c'.timers, updates := c'.updates, aborted := c'.aborted
    faults := c'.faults, dscLatches := c'.dscLatches }

/-! ## Faults and channels -/

/-- The Fault Collector has collected a real message of a source, kind and address in a swath (R457, R459); in Dormant its
domain is Off and it collects none (R515). -/
def Told (swath src kind addr : Nat) (t : State) : Prop :=
  t.coreOn = true → ∃ m ∈ t.fc.batch, m.key = src * 2 ^ 18 + kind * 2 ^ 12 + addr % 4096 ∧ m.real = true ∧ m.swath = swath

/-- The kind is one of the kinds of the source's row (R461). -/
def known (src kind : Nat) : Bool := (kindRow? src kind).isSome

/-- A channel fault has been told with its partner, 63 for none, and its sticky event is set (R107, R108). -/
structure ChTold (s : State) (c : ChIx) (kind partner : Nat) (t : State) : Prop where
  /-- the message -/
  told : Told s.swath (srcFH (halfOf c).val) kind (faultAddr partner c.val) t
  /-- the event of the channel -/
  event : (t.fld (F.CH_FLAGS_EVENTS c.val)).testBit (eventBit kind) = true

/-- A half-level fault has been told (R107). -/
def HalfTold (s : State) (h : HalfIx) (kind : Nat) (t : State) : Prop :=
  Told s.swath (srcFH h.val) kind (faultAddr 63 63) t

/-- The switch of a channel may close: it is commanded closed and no protection holds it open (R87). -/
def State.mayClose (s : State) (c : ChIx) : Bool := s.wants c && s.unprotected c

/-- The parts that raising a fault may change (R457-R473). -/
def faultParts : List Part := [.regs, .sig, .env, .fc, .pipe, .halves, .pairs, .cribs, .recfg, .yk]

/-- The parts that follow a change of a field die: status registers, the gate drives, switches with their captures, and the wear of
the parts behind them (R87, R123, R194, R491). -/
def fieldParts : List Part := [.regs, .chans, .halves, .sr, .free]

/-- A counting field has gone up by one, or stays at its top (R13). -/
def Counted (s : State) (f : Fld) (t : State) : Prop := t.fld f = min f.top (s.fld f + 1)

/-! ## Transactions of the host port -/

/-- Opcode and header of a command that is a transaction (R359). -/
def hostTx (i : Instr) : Option (BitVec 8 × HostHdr) :=
  match i with
  | .status h => some (opSTATUS, h)
  | .read h _ => some (opREAD, h)
  | .write h _ => some (opWRITE, h)
  | .stampWrite h _ _ => some (opSTAMP, h)
  | .pop h _ => some (opPOP, h)
  | .snap h _ => some (opSNAP, h)
  | .nvmStage h _ => some (opNVM, h)
  | .attest h _ => some (opATTEST, h)
  | .force h _ => some (opFORCE, h)
  | .release h => some (opRELEASE, h)
  | .srOpen h _ _ | .srAuth h _ _ | .srRegister h _ _ | .srRetire h _ _ | .srReadSlot h _ _ | .srAccept h _ _
  | .srClose h _ _ => some (opSERVICE, h)
  | _ => none

/-- Words the host sends in the payload of a transaction that writes; word 0 of a service request counts as one. -/
def hostPayload (i : Instr) : Option Nat :=
  match i with
  | .write _ ws | .stampWrite _ _ ws | .nvmStage _ ws | .attest _ ws | .force _ ws => some ws.length
  | .srOpen _ _ ws | .srAuth _ _ ws | .srRegister _ _ ws | .srRetire _ _ ws | .srReadSlot _ _ ws | .srAccept _ _ ws
  | .srClose _ _ ws => some (ws.length + 1)
  | _ => none

/-- A fault of a kind raised once in a swath has not been raised in this one (R219, R300, R322, R388, R481). -/
def FirstOf (s : State) (src kind addr : Nat) : Prop :=
  ∀ k, onceKey src kind addr = some k → s.onceTaken k false = false

/-- The port answers, no drain and no response is due by now, the header is good, carries the command's own opcode and asks for no
seal (R310, R356, R357, R373, R385). -/
structure Accepts (s : State) (op : BitVec 8) (h : HostHdr) : Prop where
  /-- the port answers -/
  port : s.portAnswers = true
  /-- what time brings has been done -/
  ready : s.catchUp s.tick = s
  /-- the opcode -/
  own : hdrOpcode h op = op
  /-- the header is good -/
  good : badHeader op h = false
  /-- without seal -/
  plain : h.isSealed = false

/-- The transaction has ended with a full response of a body and a status word (R352, R353, R371). -/
structure Responded (op : BitVec 8) (code words : Nat) (body : List Word) (t : State) : Prop where
  /-- a full response -/
  full : t.hp.short = false
  /-- body and status word -/
  resp : t.hp.resp = body ++ [BitVec.ofNat 32 (code * 2 ^ 24 + words)]
  /-- HP_STATUS.LAST_CODE -/
  lastCode : t.fld F.HP_STATUS_LAST_CODE = code
  /-- HP_STATUS.LAST_OP -/
  lastOp : t.fld F.HP_STATUS_LAST_OP = op.toNat

/-- The transaction was refused with a short response (R353, R371). -/
structure Refused (op : BitVec 8) (code : Nat) (t : State) : Prop where
  /-- a short response -/
  short : t.hp.short = true
  /-- the status word -/
  resp : t.hp.resp = [BitVec.ofNat 32 (code * 2 ^ 24)]
  /-- HP_STATUS.LAST_CODE -/
  lastCode : t.fld F.HP_STATUS_LAST_CODE = code
  /-- HP_STATUS.LAST_OP -/
  lastOp : t.fld F.HP_STATUS_LAST_OP = op.toNat
  /-- HP_LAST_ERR.CODE -/
  err : t.fld F.HP_LAST_ERR_CODE = code

/-- The parts that a result ready for its commit may change: stores, Crib entries and commands on their way (R223, R308, R310). -/
def settleParts : List Part := [.regs, .sig, .out, .pairs]

/-- The ring of a Crib holds the words of a list of entries from an index on (R313). -/
def RingHolds (s : State) (k : CribIx) (x : Nat) (es : List (Nat × List Word)) : Prop :=
  ∀ j (h : j < es.length), s.readWords (s.ringAddr k.val (x + j)) (s.entryWords k.val) = (es[j]).2

/-- The parts that a response with its faults may change. -/
def portParts : List Part := .hp :: faultParts

/-! ## Registers and neighbours -/

/-- The registers that follow a change of a field die: CHn_STATUS, FH_STATUS and the fingerprint registers. -/
def fieldReg (a : Nat) : Bool :=
  (decide (0x2A100 ≤ a) && decide (a < 0x2A500)) || (allCh.any fun c => a == Reg.CH_STATUS c.val)
    || a == Reg.FH_STATUS 0 || a == Reg.FH_STATUS 1

/-- The bits of a register that a change of a field die leaves alone: none of those that follow it, all but LATCHED of CHn_FLAGS, all
but SHUNT_OPEN of THR_NOW, and every bit of any other. -/
def fieldKeep (a : Nat) : Word :=
  if fieldReg a then 0#32
  else if allCh.any fun c => a == Reg.CH_FLAGS c.val then 0xFFFFEFFF#32
  else if allCh.any fun c => a == Reg.THR_NOW c.val then 0xFFFFFFEF#32
  else 0xFFFFFFFF#32

/-- The bits of every register that `keep` names read as before. -/
structure BitsKeep (keep : Nat → Word) (s t : State) : Prop where
  /-- the bits kept -/
  same : ∀ a < newsBase, t.reg a &&& keep a = s.reg a &&& keep a

/-- Every register of which `may` does not answer true reads as before. -/
structure RegsKeep (may : Nat → Bool) (s t : State) : Prop where
  /-- the other registers are as before -/
  same : ∀ a < newsBase, may a = false → t.reg a = s.reg a

/-- Every channel but those of the half of `c` is as before. -/
def OtherHalfKept (c : ChIx) (s t : State) : Prop := ∀ d, halfOf d ≠ halfOf c → t.chan d = s.chan d

/-- Every channel but `c` is as before. -/
def OtherChKept (c : ChIx) (s t : State) : Prop := ∀ d, d ≠ c → t.chan d = s.chan d

/-- The other half is as before, and of half `h` only the state of GDRV has followed (R125). -/
structure OnlyGdrv (h : HalfIx) (s t : State) : Prop where
  /-- the other half -/
  other : ∀ k, k ≠ h → t.half k = s.half k
  /-- the half -/
  own : t.half h = { s.half h with gdrv := (t.half h).gdrv }

/-- The other half is as before. -/
def OtherDieKept (h : HalfIx) (s t : State) : Prop := ∀ k, k ≠ h → t.half k = s.half k

/-- The parts that a fault of a channel together with a switching may change. -/
def switchFaultParts : List Part := faultParts ++ [.chans, .sr, .free]

/-- The parts that a boot which ends in SAFE may change (R340). -/
def bootParts : List Part :=
  faultParts ++ [.wdg, .chans, .boot, .sr, .gln, .pwr, .forces, .forceNext, .free]

/-- FH_STATUS.SUPPLY after a change of the comparators: 6 while the half is without supply, else what the last frame told (R118,
R209). -/
def SupplyShown (s : State) (h : HalfIx) (t : State) : Prop :=
  t.fld (F.FH_STATUS_SUPPLY h.val) = if (s.half h).inReset then 6 else s.fld (F.FH_STATUS_SUPPLY h.val)

/-- The slot that a field die's own count names in the middle of a slot of the logic die, 0x2000 before its boundary (R203, R204). -/
def DieSlot (s : State) (h : HalfIx) (slot own : Nat) : Prop :=
  ((s.half h).dieAt ≤ s.btick + 192 * slot + 96 → own = (s.btick + 192 * slot + 96 - (s.half h).dieAt) / 192) ∧
    (s.btick + 192 * slot + 96 < (s.half h).dieAt → own = 0x2000)

/-- Every switch of a half is closed exactly if it may close (R87). -/
def SwitchesFollow (h : HalfIx) (t : State) : Prop := ∀ c ∈ chOf h, (t.chan c).closed = t.mayClose c

/-! ## Gleaner -/

/-- The bale of a position has failed once more in a row, and nothing of it waits for the fold (R421, R424). -/
def BaleFailed (s : State) (k : Fin 32) (j : Nat) (t : State) : Prop :=
  (t.member k j).fails = min 15 ((s.member k j).fails + 1) ∧ (t.member k j).data = none

/-- The chain of a segment is broken: counted and told, the next scan enumerates, every position counts a failed bale (R413,
R414, R421). -/
structure BrokenChain (s : State) (k : Fin 32) (t : State) : Prop where
  /-- counted -/
  counted : Counted s (F.GLN_SEG_COUNTS_BROKEN k.val) t
  /-- told -/
  told : Told s.swath (srcGLN k.val) kChainBroken (glnAddr k.val 0) t
  /-- STATE -/
  state : t.fld (F.GLN_SEG_STATE_STATE k.val) = 3
  /-- the next scan enumerates -/
  enum : (t.gln.segs.get k).enumNext = true
  /-- every position -/
  failed : ∀ j, 1 ≤ j → j ≤ s.segN k.val → BaleFailed s k j t

/-! ## Service session -/

/-- The reply of a service transaction: its length, then its words (R365). -/
def Replied (h : HostHdr) (reply : List Word) (t : State) : Prop :=
  Responded opSERVICE 0 h.n (BitVec.ofNat 32 reply.length :: reply) t

/-- A request of OP `op` with the body `body` that its session accepts: authenticated, SEQ one higher, the right MAC (R487, R488). -/
structure GoodRequest (s : State) (h : HostHdr) (op : BitVec 8) (low : BitVec 24) (body ws : List Word) (x : Session) : Prop where
  /-- the transaction -/
  tx : Accepts s opSERVICE h
  /-- word 0 counts as one -/
  count : h.n = ws.length + 1
  /-- the session -/
  session : s.sr.session = some x
  /-- authenticated -/
  authed : x.authed = true
  /-- SEQ -/
  seq : low.toNat / 65536 = (x.seq + 1) % 256
  /-- body and MAC -/
  words : ws = body ++ s.mac x (reqWord op low :: body)
  /-- the MAC is four words -/
  mac : (s.mac x (reqWord op low :: body)).length = 4

end Sys2Proof.Machine
end

