-- ==== Sys2Proof/Certificates/Slice0/Obligations.lean ====
section
/-!
DEFINITION. Certificates/Slice0/Obligations.lean: what is to be proved of the model, from the numbered rules of the manual.
Each statement says of its commands that they answer a next state, which parts of the state they may change at most, and
what the state after them holds.
-/
open Sys2Proof Sys2Proof.Machine

/-! ## Channels -/

/-- R91, R92, R94: the limit engages on a closed switch; an expired overload opens it, and latches it or starts a backoff by
OVL_MODE and RETRY_MAX; 175 °C opens it. -/
def Obligations.SwitchProtectionOpensTheSwitch : Prop :=
  ∀ (c : ChIx) (s : State), s.isSwitch c = true →
    (((s.chan c).closed = true → s.mayClose c = true →
      DoesOnly fieldParts (.doCurrentLimit c) s fun t =>
        (t.chan c).limit = true ∧ (t.chan c).closed = true ∧ OtherHalfKept c s t ∧ BitsKeep fieldKeep s t ∧
        OnlyGdrv (halfOf c) s t) ∧
    (∀ above, (s.chan c).closed = true → ((s.chan c).limit = true ∨ above = true) → (s.chan c).heldTill = none →
      DoesOnly switchFaultParts (.chOverload c above) s fun t =>
        (t.chan c).closed = false ∧ (t.chan c).limit = false ∧ ChTold s c kChOverload 63 t ∧
        Counted s (F.CH_COUNTS_OVL_TRIPS c.val) t ∧
        (s.chFld c (F.CH_DO_OVL_MODE c.val) = 1 ∧ (s.chan c).tries < s.chFld c (F.CH_DO_RETRY_MAX c.val) →
          (t.chan c).backoff = 1 ∧ t.ovlLatched c = s.ovlLatched c) ∧
        (¬(s.chFld c (F.CH_DO_OVL_MODE c.val) = 1 ∧ (s.chan c).tries < s.chFld c (F.CH_DO_RETRY_MAX c.val)) →
          t.ovlLatched c = true) ∧
        OtherHalfKept c s t) ∧
    ((s.chan c).hot = false →
      DoesOnly switchFaultParts (.chOvertemp c) s fun t =>
        (t.chan c).hot = true ∧ (t.chan c).closed = false ∧ ChTold s c kChOvertemp 63 t ∧
        Counted s (F.CH_COUNTS_HOT_TRIPS c.val) t ∧ t.ovlLatched c = s.ovlLatched c ∧ OtherHalfKept c s t))

/-- R92, R93, R94, R128: the ends of backoff, latch, shutdown and HOLD; the switch follows its command again. -/
def Obligations.SwitchProtectionEndsAndTheSwitchFollows : Prop :=
  ∀ (c : ChIx) (s : State),
    ((s.chan c).backoff = 1 →
      DoesOnly fieldParts (.retryAttempt c) s fun t =>
        (t.chan c).backoff ≠ 1 ∧ (t.chan c).closed = t.mayClose c ∧
        (s.wants c = true → s.ovlLatched c = false → (s.chan c).hot = false → (s.chan c).pulse = none →
          (t.chan c).closed = true) ∧
        (s.wants c = false → (t.chan c).closed = false) ∧ OtherHalfKept c s t ∧ BitsKeep fieldKeep s t ∧
        OnlyGdrv (halfOf c) s t) ∧
    ((s.chan c).closed = true → (s.chan c).limit = false →
      DoesOnly fieldParts (.attemptCountReset c) s fun t =>
        (t.chan c).tries = 0 ∧ t.fld (F.CH_STATUS_ATTEMPT c.val) = 0 ∧ OtherHalfKept c s t ∧ BitsKeep fieldKeep s t ∧
        OnlyGdrv (halfOf c) s t) ∧
    (s.coreOn = true → s.ovlLatched c = true →
      DoesOnly [.chans, .pipe] (.latchRelease c) s fun t =>
        (t.chan c).releaseReq = true ∧ (t.chan c).closed = (s.chan c).closed ∧ t.ovlLatched c = true ∧
        t.pipe.next = s.pipe.next ||| cUNSTAMPED ∧ OtherChKept c s t) ∧
    ((s.chan c).hot = true →
      DoesOnly fieldParts (.thermalRecovery c) s fun t =>
        (t.chan c).hot = false ∧ (t.chan c).closed = t.mayClose c ∧
        (s.wants c = true → s.ovlLatched c = false → (s.chan c).backoff ≠ 1 → (s.chan c).pulse = none →
          (t.chan c).closed = true) ∧
        (s.wants c = false → (t.chan c).closed = false) ∧ OtherHalfKept c s t ∧ BitsKeep fieldKeep s t ∧
        OnlyGdrv (halfOf c) s t) ∧
    ((s.chan c).holding = true →
      DoesOnly fieldParts (.holdExpiry c) s fun t =>
        (t.chan c).holding = false ∧ (t.chan c).closed = t.mayClose c ∧
        (s.isSwitch c = true → s.inSafe c = true → s.chFld c (F.CH_SAFE_SAFE c.val) = 2 → (t.chan c).closed = false) ∧
        OtherHalfKept c s t ∧ BitsKeep fieldKeep s t ∧
        OnlyGdrv (halfOf c) s t)

/-- R82, R97, R98, R100: openings and reconnections of the shunt, the loop supply limit, the return switch and the AO-V
stage. -/
def Obligations.AnalogueStagesOpenAndReconnect : Prop :=
  ∀ (c : ChIx) (s : State),
    (s.hasShunt c = true → (s.chan c).shuntOpen = false →
      DoesOnly fieldParts (.shuntOpen c) s fun t =>
        (t.chan c).shuntOpen = true ∧ (s.isBoot = false → t.flag (F.THR_NOW_SHUNT_OPEN c.val) = true) ∧
        OtherHalfKept c s t ∧ BitsKeep fieldKeep s t ∧
        OnlyGdrv (halfOf c) s t) ∧
    (∀ uA, (s.chan c).shuntOpen = true →
      (uA < 26000 → DoesOnly fieldParts (.shuntReconnect c uA) s fun t =>
        (t.chan c).shuntOpen = false ∧ (s.isBoot = false → t.flag (F.THR_NOW_SHUNT_OPEN c.val) = false) ∧
        OtherHalfKept c s t ∧ BitsKeep fieldKeep s t ∧
        OnlyGdrv (halfOf c) s t) ∧
      (26000 ≤ uA → Does (.shuntReconnect c uA) s fun t => t = s)) ∧
    ((s.chan c).shuntOpen = true → (s.chan c).shuntOvl = false →
      DoesOnly (.chans :: faultParts) (.shuntOpenOverload c) s fun t =>
        ChTold s c kChOverload 63 t ∧ (t.chan c).shuntOpen = true ∧ OtherChKept c s t) ∧
    (s.loopSupply c = true → (s.chan c).loopLimit = false →
      DoesOnly switchFaultParts (.loopSupplyLimit c) s fun t =>
        ChTold s c kChOverload 63 t ∧ (t.chan c).loopLimit = true ∧ (t.chan c).closed = t.mayClose c) ∧
    (s.isReturn c = true → (s.chan c).retOpen = false →
      ((s.chan c).has kChShortVf = false → s.standbyOut c = false →
        DoesOnly switchFaultParts (.returnSwitchOpen c) s fun t =>
          (t.chan c).retOpen = true ∧ ChTold s c kChShortVf 63 t ∧ OtherChKept c s t) ∧
      (s.standbyOut c = true → DoesOnly [.chans] (.returnSwitchOpen c) s fun t =>
        (t.chan c).retOpen = true ∧ OtherChKept c s t)) ∧
    ((s.chan c).retOpen = true →
      DoesOnly [.chans] (.returnSwitchClose c) s fun t =>
        (t.chan c).retOpen = false ∧ (t.chan c).has kChShortVf = false ∧ OtherChKept c s t) ∧
    (s.func c = fAOV →
      ((s.chan c).has kChSense = false → DoesOnly (.chans :: faultParts) (.chSense c) s fun t =>
        (t.chan c).localReg = true ∧ ChTold s c kChSense 63 t ∧ OtherChKept c s t) ∧
      (DoesOnly [.chans] (.aoVDisconnect c) s fun t => (t.chan c).disconnected = true ∧ OtherChKept c s t) ∧
      (DoesOnly [.chans] (.aoVReconnect c) s fun t => (t.chan c).disconnected = false ∧ OtherChKept c s t)) ∧
    ((s.chan c).localReg = true →
      DoesOnly [.chans] (.remoteSenseRestore c) s fun t =>
        (t.chan c).localReg = false ∧ (t.chan c).has kChSense = false ∧ OtherChKept c s t)

/-- R95, R99, R101, R103, R105, R108, R109, R545, R554: a diagnostic whose condition has held for its time raises its fault once and
keeps its condition; an off-state test counts; the two phases of an ALM reading tell its strap, and a changed one is taken and told; of
the edges of a PULSE channel at most two in a frame are stamped. -/
def Obligations.ChannelDiagnosticsRaiseTheirFault : Prop :=
  ∀ (c : ChIx) (s : State),
    (s.isSwitch c = true → (s.chan c).closed = false →
      DoesOnly (.chans :: faultParts) (.chClampEnergy c) s fun t =>
        ChTold s c kChClampEnergy 63 t ∧ (t.chan c).closed = false ∧ OtherChKept c s t) ∧
    (s.func c = fAOI → (s.chan c).action.isSome = true → 1000 ≤ s.aoLevel c →
      DoesOnly (.chans :: faultParts) (.chHeadroom c) s fun t =>
        ChTold s c kChHeadroom 63 t ∧ (t.chan c).has kChHeadroom = true ∧ OtherChKept c s t) ∧
    (s.func c = fAOI ∨ s.func c = fAOV → (s.chan c).clamped = false → s.inSafe c = false →
      DoesOnly (.chans :: faultParts) (.chAoDev c) s fun t =>
        ChTold s c kChAoDev 63 t ∧ (t.chan c).has kChAoDev = true ∧ OtherChKept c s t) ∧
    (s.openTest c = true → (s.chan c).has kChOpen = false →
      DoesOnly (.chans :: faultParts) (.chOpen c) s fun t =>
        ChTold s c kChOpen 63 t ∧ (t.chan c).has kChOpen = true ∧ OtherChKept c s t) ∧
    (s.isSwitch c = true → s.diagOn c (F.CH_DIAG_SVF_EN c.val) = true → (s.chan c).closed = false →
      (s.chan c).heldTill = none → s.standbyOut c = false → (s.chan c).has kChShortVf = false →
      DoesOnly switchFaultParts (.chShortVf c) s fun t =>
        ChTold s c kChShortVf 63 t ∧ (t.chan c).has kChShortVf = true ∧ OtherChKept c s t) ∧
    (s.isSwitch c = true → s.wants c = false → (s.chan c).has kChStuckOn = false →
      DoesOnly switchFaultParts (.chStuckOn c) s fun t =>
        ChTold s c kChStuckOn 63 t ∧ (t.half (halfOf c)).gateHold = true ∧ SwitchesFollow (halfOf c) t) ∧
    (s.isSwitch c = true → s.mayClose c = true → (s.chan c).limit = false → (s.chan c).heldTill = none →
      s.gateWanted (halfOf c) = true → s.standbyOut c = false →
      (s.chan c).has kChStuckOff = false →
      DoesOnly (.chans :: faultParts) (.chStuckOff c) s fun t =>
        ChTold s c kChStuckOff 63 t ∧ (t.chan c).has kChStuckOff = true ∧ OtherChKept c s t) ∧
    (s.isSwitch c = true → s.diagOn c (F.CH_DIAG_OW_OFF_EN c.val) = true → (s.chan c).closed = false →
      (s.chan c).comp = false → (s.half (halfOf c)).susp = false → s.standbyOut c = false →
      (DoesOnly [.chans] (.offStateOpenTest c true) s fun t =>
        (t.chan c).offFails = (s.chan c).offFails + 1 ∧ OtherChKept c s t) ∧
      (DoesOnly [.chans] (.offStateOpenTest c false) s fun t =>
        (t.chan c).offFails = 0 ∧ (t.chan c).has kChOpen = false ∧ OtherChKept c s t)) ∧
    (∀ (h : HalfIx) (r : AlmPhases) (code : Nat),
      (r.changed = true → code = 3) →
      (r.changed = false → 4000 < r.source → r.sink < 1000 → code = 0) →
      (r.changed = false → r.source < 1000 → r.sink < 1000 → code = 1) →
      (r.changed = false → 4000 < r.source → 4000 < r.sink → code = 2) →
      (r.source ≤ 4000 ∧ 1000 ≤ r.source ∨ r.source < 1000 ∧ 1000 ≤ r.sink ∨ 1000 ≤ r.sink ∧ r.sink ≤ 4000 → code = 3) →
      ((s.half h).inReset = false → (s.half h).almIn ≠ code → DoesOnly faultParts (.almRead h r) s fun t =>
        (t.half h).almIn = code ∧ (t.half h).alm = (s.half h).alm ∧ HalfTold s h kAlmChanged t ∧ FaultRegsOnly s t) ∧
      (((s.half h).inReset = true ∨ (s.half h).almIn = code) → Does (.almRead h r) s fun t => t = s)) ∧
    (s.func c = fPULSE → (s.chan c).comp = false →
      DoesOnly (.chans :: faultParts) (.pulseEdge c true) s fun t =>
        (t.chan c).comp = true ∧ (t.chan c).pulses = (s.chan c).pulses + 1 ∧ OtherChKept c s t ∧
        (2 < (t.chan c).frameEdges → ChTold s c kChEdgeLost 63 t ∧ (t.chan c).edgeAt = (s.chan c).edgeAt) ∧
        ((t.chan c).frameEdges ≤ 2 → (t.chan c).edgeAt = (s.tick :: (s.chan c).edgeAt).take 4)) ∧
    (s.func c = fPULSE → (s.chan c).comp = true →
      DoesOnly (.chans :: faultParts) (.pulseEdge c false) s fun t =>
        (t.chan c).comp = false ∧ (t.chan c).pulses = (s.chan c).pulses ∧ OtherChKept c s t ∧
        (2 < (t.chan c).frameEdges → ChTold s c kChEdgeLost 63 t ∧ (t.chan c).edgeAt = (s.chan c).edgeAt) ∧
        ((t.chan c).frameEdges ≤ 2 → (t.chan c).edgeAt = (s.tick :: (s.chan c).edgeAt).take 4)) ∧
    (s.func c = fPULSE → ∀ e, (s.chan c).comp = e → Does (.pulseEdge c e) s fun t => t = s)

/-- R111, R113, R114, R116: a due pulse opens the switch or is skipped and counted; at its end it is judged, a failed one
names its partner, and crossed channels are told of each other; an abort counts as skipped and discards the verdict. Three points are
the model's choice: a passing pulse ends CH_CROSS for the second channel of a cross short too (log entry 60), which readback of the Yoke
partner the second step looks at (log entry 77), and the capture that an abort begins (log entry 78). -/
def Obligations.DarkPulsesAreIssuedJudgedAndAborted : Prop :=
  ∀ (c : ChIx) (s : State),
    ((s.chan c).dark = true → (s.chan c).pulse = none →
      (s.dpSkip c = true → DoesOnly [.regs, .chans] (.darkPulse c) s fun t =>
        Counted s (F.CH_COUNTS_DP_SKIP c.val) t ∧ (t.chan c).pulse = none ∧ (t.chan c).closed = (s.chan c).closed ∧
        OtherChKept c s t) ∧
      (s.dpSkip c = false → DoesOnly [.regs, .chans, .sr] (.darkPulse c) s fun t =>
        (t.chan c).closed = false ∧ (t.chan c).dark = false ∧ OtherChKept c s t ∧
        t.fld (F.CH_COUNTS_DP_SKIP c.val) = s.fld (F.CH_COUNTS_DP_SKIP c.val) ∧
        ∃ p, (t.chan c).pulse = some p ∧ p.start = t.tick ∧ p.held = (s.chan c).smp ∧ p.passed = false)) ∧
    (∀ (yoke : Option (Fin 16)) (p : Pulse), (s.chan c).pulse = some p →
      DoesOnly switchFaultParts (.darkPulseVerdict c yoke) s fun t =>
        (t.chan c).pulse = none ∧
        (p.passed = true → t.fld (F.CH_COUNTS_DP_FAIL c.val) = s.fld (F.CH_COUNTS_DP_FAIL c.val)) ∧
        (p.passed = true → p.fell = [] → (t.chan c).has kChCross = false) ∧
        (p.passed = false → Counted s (F.CH_COUNTS_DP_FAIL c.val) t) ∧
        (∀ e ∈ p.excess, p.passed = false → 20 < e.2 → (∀ x ∈ p.excess, x ≠ e → x.2 < e.2) →
          ChTold s c kChCross e.1 t) ∧
        (∀ y, p.passed = false → (∀ x ∈ p.excess, x.2 ≤ 20) → s.partnerPeak yoke = some y →
          ChTold s c kChCross (16 + y) t) ∧
        (p.passed = false → (∀ x ∈ p.excess, x.2 ≤ 20) → s.partnerPeak yoke = none → ChTold s c kChShortVf 63 t) ∧
        (s.joined = false → s.partnerPeak yoke = none) ∧
        (∀ d : ChIx, d.val ∈ p.fell → ChTold s c kChCross d.val t ∧ ChTold s d kChCross c.val t)) ∧
    (∀ p, (s.chan c).pulse = some p → (s.chan c).closed = false →
      DoesOnly fieldParts (.darkPulseAbort c) s fun t =>
        (t.chan c).pulse = none ∧ (t.chan c).closed = t.mayClose c ∧ Counted s (F.CH_COUNTS_DP_SKIP c.val) t ∧
        t.fld (F.CH_COUNTS_DP_FAIL c.val) = s.fld (F.CH_COUNTS_DP_FAIL c.val) ∧ OtherChKept c s t)

/-! ## Halves -/

/-- R99, R118, R119, R209: the supply comparators of a half, their faults, the SUPPLY_UV latch with its recovery and its key.
FH_STATUS.SUPPLY of a supplied half comes with its frames, and is 6 without them from the loss of the supply on. -/
def Obligations.FieldSupplyConditionsLatchAndEnd : Prop :=
  ∀ (h : HalfIx) (s : State),
    ((s.half h).high = false → DoesOnly (switchFaultParts) (.supplyHigh h) s fun t =>
      (t.half h).high = true ∧ HalfTold s h kSupplyHigh t ∧ SupplyShown s h t) ∧
    ((s.half h).low = false → DoesOnly (switchFaultParts) (.supplyLow h) s fun t =>
      (t.half h).low = true ∧ HalfTold s h kSupplyLow t ∧ SupplyShown s h t) ∧
    ((s.half h).susp = false → DoesOnly (switchFaultParts) (.testsSuspended h) s fun t =>
      (t.half h).susp = true ∧ (∀ c ∈ chOf h, (t.chan c).pulse = none) ∧
      ∀ c ∈ chOf h, s.func c = fAOI → ChTold s c kChHeadroom 63 t) ∧
    (∀ which : Fin 3, DoesOnly fieldParts (.supplyConditionEnd h which) s fun t =>
      (which = 0 → (t.half h).high = false) ∧ (which = 1 → (t.half h).low = false) ∧
      (which = 2 → (t.half h).susp = false) ∧ OtherDieKept h s t ∧ SupplyShown s h t) ∧
    ((s.half h).inReset = false → ((s.half h).uv = true → (s.half h).uvReady = true) →
      DoesOnly (switchFaultParts) (.supplyUv h) s fun t =>
        (t.half h).uv = true ∧ (t.half h).uvReady = false ∧ HalfTold s h kSupplyUv t ∧
        Counted s (F.FH_COUNTS_UV_CNT h.val) t ∧
        ∀ c ∈ chOf h, (t.chan c).safeL = true ∧ (t.chan c).pulse = none ∧
          ((s.chan c).action.isSome = true → t.inSafe c = true)) ∧
    ((s.half h).uv = true → (s.half h).inReset = false →
      DoesOnly fieldParts (.uvRecovery h) s fun t =>
        (t.half h).uv = true ∧ (t.half h).uvReady = true ∧ OtherDieKept h s t) ∧
    (s.coreOn = true → (s.half h).uv = true → (s.half h).uvReady = true →
      DoesOnly [.halves] (.uvRearm h) s fun t => t.half h = { s.half h with uvKey := true } ∧ OtherDieKept h s t) ∧
    (((s.half h).uv = false ∨ (s.half h).uvReady = false) → Does (.uvRearm h) s fun t => t = s)

/-- R118, R120, R127, R132, R202, R203: a field die resets, returns unloaded, trains and is reloaded into its safe state. That
the key of a field reset is taken in a night state too is the model's choice (log entry 62), as is the order of the table's words (log
entry 9). -/
def Obligations.FieldDieResetsReturnsAndReloads : Prop :=
  ∀ (h : HalfIx) (s : State),
    ((s.half h).inReset = false → DoesOnly fieldParts (.fieldDieReset h) s fun t =>
      (t.half h).inReset = true ∧ (t.half h).returning = true ∧ (t.half h).loaded = false ∧
      t.fld (F.BD_STATUS_LINK h.val) = 0 ∧
      ∀ c ∈ chOf h, (t.chan c).action = none ∧ (t.chan c).closed = false) ∧
    (s.coreOn = true → s.armed h.val = false → (s.half h).inReset = false →
      DoesOnly fieldParts (.fieldReset h) s fun t =>
        (t.half h).returning = true ∧ (t.half h).loaded = false ∧ (t.half h).gateHold = false ∧
        (t.half h).gdrvHold = false ∧ t.fld (F.BD_STATUS_LINK h.val) = 0 ∧
        ∀ c ∈ chOf h, (t.chan c).action = none ∧ (t.chan c).closed = false ∧ t.ovlLatched c = false ∧
          (t.chan c).filt = 0 ∧ (t.chan c).backoff = 0 ∧ ((t.chan c).disconnected = true ↔ s.func c = fAOV)) ∧
    (s.armed h.val = true → Does (.fieldReset h) s fun t => t = s) ∧
    ((s.half h).returning = true → DoesOnly (switchFaultParts) (.fieldRestart h) s fun t =>
      (t.half h).returning = false ∧ (t.half h).inReset = false ∧ HalfTold s h kFieldRestart t ∧
      Counted s (F.FH_COUNTS_RESTARTS h.val) t ∧ t.fld (F.BD_STATUS_LINK h.val) = 1) ∧
    (s.fld (F.BD_STATUS_LINK h.val) = 1 → (s.half h).inReset = false → (s.half h).returning = false →
      DoesOnly [.regs, .halves] (.linkTrained h) s fun t =>
        t.fld (F.BD_STATUS_LINK h.val) = (if (s.half h).upTimeout.isSome then 3
          else if (s.half h).loaded && (s.half h).kept.isEmpty then 2 else 4) ∧
        t.half h = { s.half h with counting := true, dieAt := s.btick } ∧ OtherDieKept h s t ∧
        RegsKeep (fun a => a == Reg.BD_STATUS h.val) s t) ∧
    (s.framesRun h = true → ((s.half h).loaded = false ∨ (s.half h).kept ≠ []) → s.boot.image.isSome = true →
      DoesOnly fieldParts (.fieldReload h) s fun t =>
        (t.half h).loaded = true ∧ (t.half h).kept = [] ∧ (t.half h).table = s.tableWords h ∧
        (t.half h).tableCrc = some (crc32cWords (s.tableWords h)) ∧
        ((s.half h).loaded = false → (t.half h).keeper = 1) ∧
        t.fld (F.BD_STATUS_LINK h.val) = (if (s.half h).upTimeout.isSome then 3 else 2) ∧
        (∀ c ∈ chOf h, (t.chan c).action = some 2 ∧ (t.chan c).disconnected = false) ∧ OtherDieKept h s t)

/-- R122, R123, R124, R125, R126: a gate failure or an overcurrent holds the gate open and is told; GDRV faults are told, and
a short in COIL mode opens the drive. That the mirror contact is watched in GDRV_MODE 0 too is the model's choice (log entry 79). -/
def Obligations.GateFaultsHoldTheGateOpen : Prop :=
  ∀ (h : HalfIx) (s : State),
    (DoesOnly (switchFaultParts) (.gateFail h) s fun t =>
      (t.half h).gateHold = true ∧ t.gateWanted h = false ∧ (t.half h).gdrv = false ∧
      t.flag (F.FH_STATUS_GATE_HELD h.val) = true ∧ HalfTold s h kGateFail t) ∧
    (DoesOnly (switchFaultParts) (.halfOvercurrent h) s fun t =>
      (t.half h).gateHold = true ∧ t.gateWanted h = false ∧ (t.half h).gdrv = false ∧
      t.flag (F.FH_STATUS_GATE_HELD h.val) = true ∧ HalfTold s h kHalfOvercurrent t) ∧
    (s.halfFld h (F.FH_CFG_GDRV_MODE h.val) = 1 → s.gdrvWanted h = true →
      DoesOnly faultParts (.gdrvOpen h) s fun t => HalfTold s h kGdrvOpen t ∧ FaultRegsOnly s t) ∧
    (s.halfFld h (F.FH_CFG_GDRV_MODE h.val) = 1 → DoesOnly (.sr :: faultParts) (.gdrvShort h) s fun t =>
      (t.half h).gdrvCut = true ∧ (t.half h).gdrv = false ∧ HalfTold s h kGdrvShort t) ∧
    (s.halfFld h (F.FH_CFG_GDRV_MODE h.val) = 2 → DoesOnly faultParts (.gdrvShort h) s fun t =>
      HalfTold s h kGdrvShort t ∧ FaultRegsOnly s t) ∧
    (∀ c : ChIx, s.halfFld h (F.FH_CFG_FB_CH h.val) = c.val → s.func c = fDI → (s.chan c).state = s.gdrvWanted h →
      DoesOnly faultParts (.gdrvFb h) s fun t =>
      HalfTold s h kGdrvFb t ∧ FaultRegsOnly s t)

/-! ## Barn Door -/

/-- R202, R203, R204, R205, R206, R207, R214: the 24 words of a frame are read as the fields they carry; a frame whose slot is not the
die's own, or that is not valid otherwise, changes no command; a valid one restarts the count of missing slots, brings swath and length,
gives each channel that takes a command its action and its due dark pulse, and that of slot 0 confirms the boundary. Whence the die
counts its slots after missing frames is the model's choice (log entry 80). -/
def Obligations.DownlinkFramesAreValidatedAndApplied : Prop :=
  (∀ (f : DownFrame) (slot : Nat), f.cmds.length = 8 → f.mail.length = 8 → f.len < 2 ^ 24 → slot < 8192 →
    (f.armed = false ∨ f.dormant = false) → parseDown slot (f.words slot) = some f) ∧
  ∀ (h : HalfIx) (slot : Nat) (s : State), s.framesRun h = true → slot < s.fullSlots →
    (∀ own, DieSlot s h slot own → ∀ rx, (∀ ws, rx = some ws → parseDown own ws = none) → (rx = none → own ≠ slot) →
      DoesOnly [.regs, .chans, .halves, .sr] (.downlinkFrame h slot rx) s fun t =>
        (t.half h).dnRun = 0 ∧ (t.half h).dnBad = min 255 ((s.half h).dnBad + 1) ∧
        (t.half h).dnMiss = (s.half h).dnMiss ∧ OtherDieKept h s t ∧
        ∀ c, (s.chan c).share = none → (t.chan c).action = (s.chan c).action ∧ (t.chan c).value = (s.chan c).value) ∧
    (∀ own, DieSlot s h slot own → ∀ rx f,
      (rx = none → own = slot ∧ ((chOf h).foldl (fun (s : State) c =>
          s.shareGuard c (s.btick + 192 * slot)) s).downFrame h slot = f) →
      (∀ ws, rx = some ws → parseDown own ws = some f) →
      DoesOnly fieldParts (.downlinkFrame h slot rx) s fun t =>
        (t.half h).dnMiss = 0 ∧ (t.half h).dnGot = true ∧ (t.half h).dnRun = (s.half h).dnRun + 1 ∧
        (t.half h).armedF = f.armed ∧ (t.half h).dnSwath = f.swath ∧ (t.half h).dnLen = f.len ∧ OtherDieKept h s t ∧
        (t.half h).dieAt = (if own = 0 then s.btick else (s.half h).dieAt) ∧
        ((s.half h).loaded = true → ∀ c w, (c, w) ∈ (chOf h).zip f.cmds → s.isActed c = true → actionOf f w ≠ 0 →
          (t.chan c).action = some (actionOf f w) ∧
          (actionOf f w = 1 → s.dacHolds c = false → (t.chan c).value = wbits w 23 0) ∧
          (wbit w 27 = true → (s.chan c).dpSwath ≠ some s.swath → (t.chan c).dark = true)))

/-- R202, R204, R209, R212, R214, R217, R219: the 24 words of an uplink frame are read as the fields they carry; one that is not
valid is counted and discarded; a valid one ends the count of missing frames and brings the keeper's state and the table's; a
full slot without a frame counts on each side, and the counts reach their timeouts. -/
def Obligations.UplinkFramesAndTimeoutsAreCounted : Prop :=
  (∀ (f : UpFrame) (slot : Nat), f.keeper < 16 → f.codes.length = 9 → (∀ p ∈ f.codes, p.1 < 65536 ∧ p.2 < 65536) →
    f.k < 2048 → f.swath16 < 65536 → f.body.length = 9 → f.vfield < 65536 → f.supply < 8 → f.alm < 4 → f.dnBad < 256 →
    slot < 8192 → parseUp slot (f.words slot) = some f) ∧
  ∀ (h : HalfIx) (s : State),
    (∀ slot, (s.upFrame h slot).keeper = (s.half h).keeper ∧ (s.upFrame h slot).supply = (s.half h).supply ∧
      (s.upFrame h slot).alm = (s.half h).almIn ∧ (s.upFrame h slot).gate = s.gateWanted h ∧
      (s.upFrame h slot).gdrv = (s.half h).gdrv ∧ (s.upFrame h slot).table = ((s.half h).loaded && !(s.half h).forced) ∧
      (s.upFrame h slot).dnBad = (s.half h).dnBad) ∧
    (∀ slot, s.linkUp h = true → slot + 1 < s.fullSlots → (slot = 8 → s.pwr.handover = none) →
      (∀ ws, parseUp slot ws = none → DoesOnly (.chans :: faultParts) (.uplinkFrame h (some slot) (some ws)) s fun t =>
        Counted s (F.BD_COUNTS_UP_INVALID h.val) t ∧ t.reg (Reg.BD_LAST_FAIL h.val) = s.swath32 ∧
        t.fld (F.BD_STATUS_UP_MISS h.val) = s.fld (F.BD_STATUS_UP_MISS h.val) ∧ t.chans = s.chans ∧
        (slot = 0 → s.pipe.window = true → t.pipe.late = true ∧ Counted s (F.BD_LOSS_LATE_GATHER h.val) t) ∧
        OtherDieKept h s t) ∧
      (∀ rx f, s.upRx h (some slot) rx = some f →
        DoesOnly (.chans :: faultParts) (.uplinkFrame h (some slot) rx) s fun t =>
          t.fld (F.BD_STATUS_UP_MISS h.val) = 0 ∧ (t.half h).upGot = true ∧ (t.half h).upTimeout = none ∧
          t.fld (F.BD_STATUS_KEEPER h.val) = f.keeper % 16 ∧ t.flag (F.BD_STATUS_TABLE_OK h.val) = f.table ∧
          t.fld (F.FH_STATUS_VFIELD h.val) = f.vfield % 65536 ∧ t.fld (F.FH_STATUS_SUPPLY h.val) = f.supply % 8 ∧
          t.fld (F.FH_STATUS_ALM_STRAP h.val) = f.alm % 4 ∧ t.flag (F.FH_STATUS_GATE_CLOSED h.val) = f.gate ∧
          t.flag (F.FH_STATUS_GDRV_ON h.val) = f.gdrv ∧
          ∀ c ∈ chOf h, (t.chan c).told = wbits f.conds (4 * (c.val % 8) + 2) (4 * (c.val % 8)))) ∧
    (∀ slot, s.env.pll = true → slot < s.fullSlots → s.pwr.mode ≠ 4 →
      DoesOnly (.yk :: fieldParts) (.fullSlotEnd h slot) s fun t =>
        (t.half h).upGot = false ∧ OtherDieKept h s t ∧
        ((s.half h).inReset = false → (t.half h).dnGot = false ∧
          ((s.half h).dnGot = false → (s.half h).dormant = false →
            (t.half h).dnMiss = (s.half h).dnMiss + 1 ∧ (t.half h).dnRun = 0)) ∧
        ((s.half h).upGot = false → (s.half h).counting = true → Counted s (F.BD_STATUS_UP_MISS h.val) t) ∧
        ((s.half h).upGot = true → t.fld (F.BD_STATUS_UP_MISS h.val) = s.fld (F.BD_STATUS_UP_MISS h.val))) ∧
    (∀ slot, s.env.pll = true → s.fullSlots ≤ slot → Does (.fullSlotEnd h slot) s fun t => t = s) ∧
    (s.dieTimeout h ≤ (s.half h).dnMiss → (s.half h).timedOut = false → (s.half h).loaded = true →
      (s.half h).dormant = false →
      DoesOnly fieldParts (.downlinkTimeout h) s fun t =>
        (t.half h).timedOut = true ∧ (t.half h).keeper = 4 ∧ OtherDieKept h s t ∧
        ∀ c ∈ chOf h, (t.chan c).safeL = true ∧ (t.chan c).pulse = none ∧
          ((s.chan c).action.isSome = true → t.inSafe c = true)) ∧
    (s.timeout h ≤ s.fld (F.BD_STATUS_UP_MISS h.val) → (s.half h).upTimeout = none →
      DoesOnly faultParts (.uplinkTimeout h) s fun t =>
        (t.half h).upTimeout = some s.tick ∧
        t.fld (F.BD_STATUS_LINK h.val) = (if s.fld (F.BD_STATUS_LINK h.val) = 1 then 1 else 3) ∧
        Told s.swath (srcBD h.val) kLinkLoss (faultAddr 1 63) t ∧ Counted s (F.BD_LOSS_TIMEOUTS h.val) t)

/-- R173, R208, R211, R213: a mailbox command goes into the frames' mailbox; while frames run the field die acts on it once for its
sequence number and answers in its return. The parameter space and the order of the table's words are the model's (log entry 9). -/
def Obligations.MailboxCommandsActOncePerSequence : Prop :=
  ∀ (h : HalfIx) (seq : BitVec 8) (s : State),
    (∀ i, ((∃ a ws, i = .mbWrite h seq a ws) ∨ (∃ a, i = .mbRead h seq a) ∨ i = .mbCommitTable h seq ∨
        ∃ v, i = .mbSpareInput h seq v) →
      ((s.half h).mbSeq = some seq.toNat ∨ s.framesRun h = false) →
      DoesOnly [.halves] i s fun t =>
        t.half h = { s.half h with mbOut := (t.half h).mbOut } ∧ (t.half h).mbOut.length = 8 ∧
        wbits ((t.half h).mbOut.getD 0 0#32) 23 16 = seq.toNat ∧ OtherDieKept h s t) ∧
    (s.framesRun h = true → (s.half h).mbSeq ≠ some seq.toNat →
      (∀ (a : BitVec 16) (ws : List Word), a.toNat + 7 ≤ paramSize → (tableSize ≤ a.toNat ∨ (s.half h).armedF = false) →
        DoesOnly [.halves] (.mbWrite h seq a ws) s fun t =>
          (∀ i < 7, Sparse.get (fun _ => 0#32) (t.half h).params (a.toNat + i) = ws.getD i 0#32) ∧
          (∀ b, (b < a.toNat ∨ a.toNat + 7 ≤ b) → Sparse.get (fun _ => 0#32) (t.half h).params b =
            Sparse.get (fun _ => 0#32) (s.half h).params b) ∧
          wbits ((t.half h).mbReturn.getD 0 0#32) 27 24 = 0 ∧ (t.half h).mbSeq = some seq.toNat ∧ OtherDieKept h s t) ∧
      (∀ (a : BitVec 16) (ws : List Word), a.toNat + 7 ≤ paramSize → a.toNat < tableSize → (s.half h).armedF = true →
        DoesOnly [.halves] (.mbWrite h seq a ws) s fun t =>
          (t.half h).params = (s.half h).params ∧ wbits ((t.half h).mbReturn.getD 0 0#32) 27 24 = 3 ∧
          (t.half h).mbSeq = some seq.toNat ∧ OtherDieKept h s t) ∧
      (∀ (a : BitVec 16) i, paramSize < a.toNat + 7 → (i = .mbRead h seq a ∨ ∃ ws, i = .mbWrite h seq a ws) →
        DoesOnly [.halves] i s fun t =>
          (t.half h).params = (s.half h).params ∧ wbits ((t.half h).mbReturn.getD 0 0#32) 27 24 = 1 ∧
          (t.half h).mbSeq = some seq.toNat ∧ OtherDieKept h s t) ∧
      (∀ a : BitVec 16, a.toNat + 7 ≤ paramSize →
        DoesOnly [.halves] (.mbRead h seq a) s fun t =>
          (∀ i < 7, (t.half h).mbReturn.getD (i + 1) 0#32 =
            Sparse.get (fun _ => 0#32) (s.half h).params (a.toNat + i)) ∧
          (t.half h).params = (s.half h).params ∧ (t.half h).mbSeq = some seq.toNat ∧ OtherDieKept h s t) ∧
      ((s.half h).armedF = false →
        DoesOnly fieldParts (.mbCommitTable h seq) s fun t =>
          (t.half h).table = (List.range tableSize).map
            (fun i => Sparse.get (fun _ => 0#32) (s.half h).params i) ∧
          (t.half h).tableCrc = some (crc32cWords (t.half h).table) ∧ (t.half h).mbSeq = some seq.toNat ∧
          (crc32cWords (t.half h).table ≠ s.reg (Reg.BD_SAFE_CRC h.val) →
            (t.half h).forced = true ∧ wbits ((t.half h).mbReturn.getD 0 0#32) 27 24 = 4)) ∧
      ((s.half h).armedF = true → DoesOnly [.halves] (.mbCommitTable h seq) s fun t =>
        (t.half h).table = (s.half h).table ∧ wbits ((t.half h).mbReturn.getD 0 0#32) 27 24 = 3 ∧
        (t.half h).mbSeq = some seq.toNat ∧ OtherDieKept h s t) ∧
      (∀ v, DoesOnly [.halves] (.mbSpareInput h seq v) s fun t =>
        (t.half h).spareIn = some v ∧ (t.half h).mbSeq = some seq.toNat ∧ OtherDieKept h s t))

/-! ## Binder instructions -/

/-- R266, R267: ALU and ALUI compute their function and set the flags from the result; CMP and CMPI set them from the
comparison itself; SEL and SETC obey the condition codes. -/
def Obligations.AluCompareAndConditionCodes : Prop :=
  ∀ (p : PairIx) (s : State) (pr : Prog) (c : Ctx), Runs s p pr c →
    (∀ d a b f, Executes (.bAlu p d a b f) s p fun c' => c.AluDone c' d f (c.w a) (c.w b)) ∧
    (∀ d a f (imm : BitVec 14),
      Executes (.bAlui p d a f imm) s p fun c' => c.AluDone c' d f (c.w a) (imm.signExtend 32)) ∧
    (∀ a b, Executes (.bCmp p a b) s p fun c' => c.Compared c' (c.w a) (c.w b)) ∧
    (∀ a (imm : BitVec 18), Executes (.bCmpi p a imm) s p fun c' => c.Compared c' (c.w a) (imm.signExtend 32)) ∧
    (∀ d a b k, condWf k = true →
      (condMeans k c.ze c.lt c.lu c.sat → Executes (.bSel p d a b k) s p fun c' => c.Moved c' d (c.w a)) ∧
      (¬condMeans k c.ze c.lt c.lu c.sat → Executes (.bSel p d a b k) s p fun c' => c.Moved c' d (c.w b)) ∧
      (condMeans k c.ze c.lt c.lu c.sat → Executes (.bSetc p d k) s p fun c' => c.Moved c' d 1#32) ∧
      (¬condMeans k c.ze c.lt c.lu c.sat → Executes (.bSetc p d k) s p fun c' => c.Moved c' d 0#32))

/-- R234, R263, R265, R268, R269, R272: MOVI and MOVH write their immediate and RDS the grid value of its selector; the Granary
loads return and record what they read: of the input image of the swath in a real evaluation, of the prediction in a tine. R271, R276:
data memory is read and written at OFF + (X ? W_a : 0) modulo 4,096; EDG compares with its cell and keeps bit 0 there. -/
def Obligations.MovesAndGranaryLoadsWriteTheirRegister : Prop :=
  (∀ (p : PairIx) (s : State) (pr : Prog) (c : Ctx) (d : RegIx), Runs s p pr c →
     (∀ imm : BitVec 18, Executes (.bMovi p d imm) s p fun c' => ∃ v : Word, v.toInt = imm.toInt ∧ c.Moved c' d v) ∧
     (∀ imm : BitVec 16, Executes (.bMovh p d imm) s p fun c' => ∃ v : Word,
       v.toNat = imm.toNat * 2 ^ 16 + (c.w d).toNat % 2 ^ 16 ∧ c.Moved c' d v) ∧
     (Executes (.bRds p d 0) s p fun c' => c.Moved c' d (BitVec.ofNat 32 c.swath)) ∧
     (Executes (.bRds p d 1) s p fun c' => c.Moved c' d (BitVec.ofNat 32 (c.swath / 2 ^ 32 % 2 ^ 16))) ∧
     (c.swath = s.swath →
       (Executes (.bRds p d 2) s p fun c' => c.Moved c' d (BitVec.ofNat 32 s.phase)) ∧
       (Executes (.bRds p d 3) s p fun c' => c.Moved c' d (BitVec.ofNat 32 s.stook))) ∧
     (c.swath ≠ s.swath → s.phase + 1 < s.kLen →
       (Executes (.bRds p d 2) s p fun c' => c.Moved c' d (BitVec.ofNat 32 (s.phase + 1))) ∧
       (Executes (.bRds p d 3) s p fun c' => c.Moved c' d (BitVec.ofNat 32 s.stook))) ∧
     (c.swath ≠ s.swath → s.kLen ≤ s.phase + 1 →
       (Executes (.bRds p d 2) s p fun c' => c.Moved c' d 0#32) ∧
       (Executes (.bRds p d 3) s p fun c' => c.Moved c' d (BitVec.ofNat 32 (s.stook + 1)))) ∧
     (Executes (.bRds p d 4) s p fun c' => c.Moved c' d (BitVec.ofNat 32 p.val)) ∧
     (Executes (.bRds p d 5) s p fun c' => c.Moved c' d (BitVec.ofNat 32 s.lNom)) ∧
     (Executes (.bRds p d 6) s p fun c' => c.Moved c' d (BitVec.ofNat 32 s.kLen))) ∧
  (∀ (p : PairIx) (s : State) (pr : Prog) (c : Ctx) (d : RegIx), Runs s p pr c →
     (∀ a x idx i, IndexIs c a x idx i →
       (Executes (.bLds p d a x idx) s p fun c' =>
         c.Loaded c' d (if (s.seen p pr c i).value.getLsbD 0 then 1#32 else 0#32) i
           (.state ((s.seen p pr c i).value.getLsbD 0))) ∧
       (Executes (.bLdq p d a x idx) s p fun c' =>
         c.Loaded c' d (s.seen p pr c i).word1 i (.qual (s.seen p pr c i).word1))) ∧
     (∀ idx : BitVec 17, Executes (.bLdv p d idx) s p fun c' =>
       c.Loaded c' d (s.seen p pr c idx.toNat).value idx.toNat (.value (s.seen p pr c idx.toNat).value)) ∧
     (∀ (w : BitVec 3) (idx : BitVec 17), 2 ≤ w.toNat → Executes (.bLdw p d w idx) s p fun c' =>
       c.Moved c' d ((s.seen p pr c idx.toNat).words.getD w.toNat 0#32)) ∧
     (∀ (t : BitVec 5) (idx : BitVec 17), ∃ n, Executes (.bLdb p d t idx) s p (fun c' =>
         c.Loaded c' d (BitVec.ofNat 32 n) idx.toNat (.band t.toNat n)) ∧
       (c.isTine = false → n = (((pr.bands.getD t.toNat []).filter fun x =>
         decide (x ≤ (s.seen p pr c idx.toNat).value.toInt)).length))) ∧
     (∀ (ch : BitVec 5) (f : BitVec 6) (n : ChIx), n.val = ch.toNat → Executes (.bLdk p d ch f) s p fun c' =>
       c.Moved c' d (if f = 41#6 then (s.chan n).nowB else if f = 40#6 then (s.chan n).flagsB
         else s.reg (canonAddr (0x20000 + 0x200 * n.val + 4 * f.toNat)))) ∧
     (c.isTine = false → ∀ i, s.seen p pr c i = (s.entry i).readFor (BitVec.ofNat 32 c.swath))) ∧
  (∀ (p : PairIx) (s : State) (pr : Prog) (c : Ctx), Runs s p pr c →
       (∀ (d a : RegIx) (x : BitVec 1) (off : BitVec 12) (n : Nat),
         n = (off.toNat + if x = 1#1 then (c.w a).toNat else 0) % 4096 →
         (Executes (.bLdd p d a x off) s p fun c' => c.Moved c' d (Sparse.get dmemDefault c.dmem n)) ∧
         (Executes (.bStd p d a x off) s p fun c' =>
           Sparse.get dmemDefault c'.dmem n = c.w d ∧
           (∀ m, m ≠ n → Sparse.get dmemDefault c'.dmem m = Sparse.get dmemDefault c.dmem m) ∧
           c.GoesOn c' ∧ c' = { c with dmem := c'.dmem, pc := c'.pc, loops := c'.loops })) ∧
       (∀ (d a : RegIx) (addr : BitVec 12), ∀ now old : Bool, now = (c.w a).getLsbD 0 →
         old = (Sparse.get dmemDefault c.dmem addr.toNat).getLsbD 0 →
         Executes (.bEdg p d a addr) s p fun c' =>
           c.Sets c' d (if now && !old then 1#32 else if old && !now then 2#32 else 0#32) ∧
           Sparse.get dmemDefault c'.dmem addr.toNat = (if now then 1#32 else 0#32) ∧
           (∀ m, m ≠ addr.toNat → Sparse.get dmemDefault c'.dmem m = Sparse.get dmemDefault c.dmem m) ∧
           c.GoesOn c' ∧ c' = { c with regs := c'.regs, dmem := c'.dmem, pc := c'.pc, loops := c'.loops }))

/-- R232, R270, R278, R279: a store enters the commit set of the evaluation, EMIT holds an entry of consecutive registers and CHK a
check-in. -/
def Obligations.SignalStoresEmitsAndCheckInsAreHeld : Prop :=
  (∀ (p : PairIx) (s : State) (pr : Prog) (c : Ctx) (r q : RegIx) (qe : BitVec 1) (i : Nat) (cmd : Instr),
     Runs s p pr c →
     ((∃ idx : BitVec 17, i = idx.toNat ∧ cmd = .bSts p r q qe idx) ∨
       (∃ (a : RegIx) (off : BitVec 13), i = ((c.w a).toNat + off.toNat) % 131072 ∧ cmd = .bStsx p r a q qe off)) →
     (s.isOwnDerived p.val i = true → Executes cmd s p fun c' =>
       (∃ w ∈ c'.writes, w.index = i ∧ w.value = c.w r ∧ w.ord = c.ops ∧ (∀ w' ∈ c'.writes, w'.index = i → w' = w) ∧
         (qe = 0#1 → w.qual = 1) ∧
         (qe = 1#1 → w.qual < 2 ^ 15 ∧ (∀ b, 1 ≤ b → b ≤ 14 → w.qual.testBit b = (c.w q).getLsbD b) ∧
           (w.qual.testBit 0 = true ↔
             (c.w q).getLsbD 1 = false ∧ (c.w q).getLsbD 7 = false ∧ (c.w q).getLsbD 8 = false))) ∧
       (∀ w, w.index ≠ i → (w ∈ c'.writes ↔ w ∈ c.writes)) ∧
       (c'.aborted = true ↔ c.isTine = true ∧ 1024 < c'.writes.length) ∧ c.GoesOn c' ∧
       c' = { c with
         writes := c'.writes, ops := c.ops + 1, aborted := c'.aborted, pc := c'.pc, loops := c'.loops }) ∧
     (s.isOwnDerived p.val i = false → c.isTine = false → Executes cmd s p fun c' =>
       c'.faults = c.faults ++ [(kSigOwner, faultAddr 63 (min c.sheaf 63))] ∧ c.GoesOn c' ∧
       c' = { c with faults := c'.faults, pc := c'.pc, loops := c'.loops }) ∧
     (s.isOwnDerived p.val i = false → c.isTine = true → Executes cmd s p fun c' =>
       c'.aborted = true ∧ c'.writes = c.writes ∧ c'.faults = c.faults)) ∧
  (∀ (p : PairIx) (s : State) (pr : Prog) (c : Ctx), Runs s p pr c →
     (∀ (k : BitVec 5) (r : RegIx), Executes (.bEmit p k r) s p fun c' =>
       (∃ e, c'.emits = c.emits ++ [e] ∧ e.crib = k.toNat ∧ e.ord = c.ops ∧ e.words.length = s.entryWords k.toNat ∧
         ∀ j < s.entryWords k.toNat, e.words.getD j 0#32 = c.w (r + BitVec.ofNat 4 j)) ∧
       (c'.aborted = true ↔ c.isTine = true ∧ 64 < c'.emits.length) ∧ c.GoesOn c' ∧
       c' = { c with
         emits := c'.emits, ops := c.ops + 1, aborted := c'.aborted, pc := c'.pc, loops := c'.loops }) ∧
     (∀ t : BitVec 5, Executes (.bChk p t) s p fun c' =>
       (∀ j, c'.checkins.getLsbD j = (c.checkins.getLsbD j || decide (j = t.toNat))) ∧
       (∀ j, c'.dups.getLsbD j = (c.dups.getLsbD j || (decide (j = t.toNat) && c.checkins.getLsbD t.toNat))) ∧
       c.GoesOn c' ∧ c' = { c with checkins := c'.checkins, dups := c'.dups, pc := c'.pc, loops := c'.loops }))

/-- R265, R280: NOP, BR, CALL, RET, LOOP, LOOPR and END; a loop body runs as often as its count says. -/
def Obligations.ControlFlowGoesWhereTheFormatSays : Prop :=
  ∀ (p : PairIx) (s : State) (pr : Prog) (c : Ctx), Runs s p pr c →
    (Executes (.bNop p) s p fun c' => c.GoesOn c' ∧ c.KeepsAll c') ∧
    (∀ k (off : BitVec 14), condWf k = true →
      (condMeans k c.ze c.lt c.lu c.sat → Executes (.bBr p k off) s p fun c' =>
        c' = { c with pc := c.pc + off.toNat }) ∧
      (¬condMeans k c.ze c.lt c.lu c.sat → Executes (.bBr p k off) s p fun c' => c.GoesOn c' ∧ c.KeepsAll c')) ∧
    (∀ t : BitVec 14, Executes (.bCall p t) s p fun c' =>
      c' = { c with pc := t.toNat, calls := (c.pc + 1) :: c.calls }) ∧
    (∀ r rs, c.calls = r :: rs → Executes (.bRet p) s p fun c' =>
      (c'.pc, c'.loops) = loopBack r c.loops ∧ c' = { c with calls := rs, pc := c'.pc, loops := c'.loops }) ∧
    (∀ (n : BitVec 12) (len : BitVec 14), 0 < len.toNat → Executes (.bLoop p n len) s p fun c' =>
      c' = { c with pc := c.pc + 1, loops := ⟨c.pc + 1, c.pc + len.toNat, n.toNat⟩ :: c.loops }) ∧
    (∀ (a : RegIx) (max : BitVec 10) (len : BitVec 12), 0 < len.toNat →
      (0 < (c.w a).toInt → Executes (.bLoopr p a max len) s p fun c' =>
        c' = { c with
          pc := c.pc + 1
          loops := ⟨c.pc + 1, c.pc + len.toNat, min (max.toNat + 1) (c.w a).toNat - 1⟩ :: c.loops }) ∧
      ((c.w a).toInt ≤ 0 → Executes (.bLoopr p a max len) s p fun c' =>
        (c'.pc, c'.loops) = loopBack (c.pc + 1 + len.toNat) c.loops ∧ c.KeepsAll c')) ∧
    (c.sheaf + 1 < c.sheafEnd pr → Executes (.bEnd p) s p fun c' =>
      c' = { c with sheaf := c.sheaf + 1, pc := pr.starts.getD (c.sheaf + 1) 0, calls := [], loops := [], sheafReads := 0 }) ∧
    (c.sheafEnd pr ≤ c.sheaf + 1 → Executes (.bEnd p) s p fun c' => c' = { c with ended := true })

/-- R273, R274: the timer after TON, TOF and TP, by the manual's own text of them: `i` is IN, `m` the swath under evaluation,
`e` the elapsed swaths from a start, `pt` the interval. R277: the discrepancy monitor: `x` and `y` are the two channels after the inversion
of M. -/
def Obligations.TimersFollowTheirText : Prop :=
  (∀ (p : PairIx) (s : State) (pr : Prog) (c : Ctx) (d a b : RegIx) (n : BitVec 10) (i : Bool) (m : Word) (pt : Nat)
       (t : Timer), Runs s p pr c →
       i = (c.w a).getLsbD 0 → m = BitVec.ofNat 32 c.swath → pt = min (c.w b).toNat 0x7FFFFFFF →
       t = Sparse.get timerDefault c.timers n.toNat →
       (i = false → Executes (.bTon p d a b n) s p fun c' =>
         c.TimerDone c' d n.toNat { t with active := false, q := false, kind := 1 }) ∧
       (i = true → ∀ st, st = (if t.active then t.start else m) → Executes (.bTon p d a b n) s p fun c' =>
         c.TimerDone c' d n.toNat { t with active := true, start := st, q := decide (pt ≤ (m - st).toNat), kind := 1 }) ∧
       (i = true → Executes (.bTof p d a b n) s p fun c' =>
         c.TimerDone c' d n.toNat { t with active := false, q := true, kind := 2 }) ∧
       (i = false → t.q = false → Executes (.bTof p d a b n) s p fun c' =>
         c.TimerDone c' d n.toNat { t with kind := 2 }) ∧
       (i = false → t.q = true → ∀ st, st = (if t.active then t.start else m) →
         Executes (.bTof p d a b n) s p fun c' =>
           c.TimerDone c' d n.toNat { t with
             active := decide ((m - st).toNat < pt), q := decide ((m - st).toNat < pt), start := st, kind := 2 }) ∧
       (∀ starts st on, starts = (i && !t.prev && !t.active) → st = (if starts then m else t.start) →
         on = ((starts || t.active) && decide ((m - st).toNat < pt)) → Executes (.bTp p d a b n) s p fun c' =>
           c.TimerDone c' d n.toNat { t with active := on, q := on, prev := i, start := st, kind := 3 })) ∧
  (∀ (p : PairIx) (s : State) (pr : Prog) (c : Ctx) (d a b q : RegIx) (n : BitVec 8) (anti fe : BitVec 1) (x y : Bool)
       (m : Word) (pt : Nat) (t : Timer), Runs s p pr c →
       x = (c.w a).getLsbD 0 → y = ((c.w b).getLsbD 0 != decide (anti = 1#1)) → m = BitVec.ofNat 32 c.swath →
       pt = min (c.w q).toNat 0x7FFFFFFF → t = Sparse.get timerDefault c.timers n.toNat →
       (t.latched = true → (x || y) = true → Executes (.bDsc p d a b q n anti fe) s p fun c' =>
         c.MonitorDone c' d n.toNat { t with kind := 4 } ∧ c'.faults = c.faults ∧
         c'.w d = (if x = y then 2#32 else 6#32)) ∧
       (t.latched = true → (x || y) = false → Executes (.bDsc p d a b q n anti fe) s p fun c' =>
         c.MonitorDone c' d n.toNat { t with latched := false, kind := 4 } ∧ c'.faults = c.faults ∧ c'.w d = 0#32) ∧
       (t.latched = false → x = y → Executes (.bDsc p d a b q n anti fe) s p fun c' =>
         c.MonitorDone c' d n.toNat { t with active := false, kind := 4 } ∧ c'.faults = c.faults ∧
         c'.w d = (if x then 1#32 else 0#32)) ∧
       (t.latched = false → x ≠ y → ∀ st, st = (if t.active then t.start else m) →
         ((m - st).toNat < pt → Executes (.bDsc p d a b q n anti fe) s p fun c' =>
           c.MonitorDone c' d n.toNat { t with active := true, start := st, kind := 4 } ∧ c'.faults = c.faults ∧
           c'.w d = 4#32) ∧
         (pt ≤ (m - st).toNat → Executes (.bDsc p d a b q n anti fe) s p fun c' =>
           c.MonitorDone c' d n.toNat { t with active := false, latched := true, start := st, kind := 4 } ∧
           c'.w d = 6#32 ∧
           c'.faults = c.faults ++ (if fe = 1#1 then [(kDiscrepancy, faultAddr (n.toNat / 64) (n.toNat % 64))] else []))))

/-- R256, R259, R267, R290: every Binder instruction changes its own pair alone, and all but ALU, ALUI, CMP and CMPI leave the
four flags of the evaluation unchanged; where no evaluation may run it changes nothing; at an enabled breakpoint the pair halts
before it. -/
def Obligations.BinderInstructionsKeepOtherPairsAndFlags : Prop :=
  ∀ (i : Instr) (p : PairIx) (s : State), binderPair i = some p →
    (∀ pr c, Runs s p pr c → Executes i s p fun _ => True) ∧
    ((s.pairs.get p).ctx = none ∨ s.isArmed = false ∨ s.pairsRun = false ∨ (s.pairs.get p).halted = true ∨
      (s.pairs.get p).blocked.isSome = true → Does i s fun t => t = s) ∧
    (∀ pr c, (s.pairs.get p).prog = some pr → (s.pairs.get p).ctx = some c → s.evaluates p c = true →
      s.atBreak p c = true → DoesOnly [.regs, .pairs] i s fun t =>
        (t.pairs.get p).halted = true ∧ (t.pairs.get p).ctx = some { c with slots := {} } ∧
        (∀ x, x ≠ p → t.pairs.get x = s.pairs.get x) ∧
        t.fld (F.BND_STATUS_STATE p.val) = 3 ∧ t.flag (F.BND_STATUS_AT_BKPT p.val) = true) ∧
    (∀ pr c, Runs s p pr c →
      (∀ d a b f, i ≠ .bAlu p d a b f) → (∀ d a f imm, i ≠ .bAlui p d a f imm) → (∀ a b, i ≠ .bCmp p a b) →
      (∀ a imm, i ≠ .bCmpi p a imm) →
      Executes i s p fun c' => c'.ze = c.ze ∧ c'.lt = c.lt ∧ c'.lu = c.lu ∧ c'.sat = c.sat)


/-! ## The swath pipeline -/

/-- R229, R231, R233, R259: a tine that has ended or was aborted in time is put by with its cycles, and the next tine starts on the
committed state with registers and flags 0 in both engines, and sees what the pairs have committed for the swath before; after the last
one, or where no tine may run, none starts. -/
def Obligations.TinesRunInOrderFromTheCommittedState : Prop :=
  ∀ (p : PairIx) (x : Slots) (s : State) (c : Ctx), (s.pairs.get p).ctx = some c → c.isTine = true →
    (c.ended = true ∨ c.aborted = true) →
    (s.tineLate c = true → Does (.tineEnd p x) s fun t => t = s) ∧
    (s.tineLate c = false → (s.pairs.get p).began + cycTicks x.total s.pipe.level ≤
        (if c.swath = s.swath then s.btick + s.threshTicks else s.btick + s.swLen - 1) →
      DoesOnly [.regs, .pairs] (.tineEnd p x) s fun t =>
        (∀ q, q ≠ p → t.pairs.get q = s.pairs.get q) ∧
        (∃ c1, c1 = { c with slots := c1.slots } ∧ (t.pairs.get p).tines = (s.pairs.get p).tines ++ [c1]) ∧
        (t.pairs.get p).commit = (s.pairs.get p).commit ∧ (t.pairs.get p).dmem = (s.pairs.get p).dmem ∧
        (t.pairs.get p).timers = (s.pairs.get p).timers ∧
        (∀ pr, (s.pairs.get p).prog = some pr → 0 < pr.specLen →
          (c.tineNo + 1 ≤ pr.hots.length → s.isArmed = true → s.pairsRun = true → (s.pairs.get p).blocked = none →
            (s.pairs.get p).halted = false → s.anyBreak p.val = false → s.tinesFor (s.pairs.get p).tineFor = true →
            ∃ n, (t.pairs.get p).ctx = some n ∧ n.kind = .tine (c.tineNo + 1) ∧ n.swath = (s.pairs.get p).tineFor ∧
              n.pc = pr.starts.getD 0 0 ∧ n.sheaf = 0 ∧ (∀ r, n.w r = 0#32) ∧ n.ze = false ∧ n.lt = false ∧
              n.lu = false ∧ n.sat = false ∧ n.eb = n.engA ∧ n.writes = [] ∧ n.emits = [] ∧ n.reads = [] ∧
              n.ended = false ∧ n.aborted = false ∧ (n.dmem, n.timers) = (s.pairs.get p).base ∧
              ((s.pairs.get p).tineFor = s.swath → ∀ q : PairIx, q.val ∈ n.pairsReady) ∧
              ((s.pairs.get p).tineFor ≠ s.swath → ∀ q : PairIx, q.val ∈ n.pairsReady ↔ (s.pairs.get q).commit.isSome = true)) ∧
          (pr.hots.length < c.tineNo + 1 → (t.pairs.get p).ctx = none) ∧
          (s.isArmed = false → (t.pairs.get p).ctx = none)))

/-- R236, R237, R238, R290: validation ends when its marks are formed: the lowest matching tine is committed or goes on in the post
part; without one, with a reconfiguration or an enabled breakpoint the pair evaluates the swath under way on real inputs, all
sheaves from its commit for the swath before, and keeps no tine; validation that would last past tick 960 is abandoned there. -/
def Obligations.ValidationContinuesOrReevaluates : Prop :=
  ∀ (p : PairIx) (front : Nat) (cut : Slots) (s : State) (pr : Prog), (s.pairs.get p).prog = some pr →
    s.mayValidate p = true →
    (s.validationAt p ≤ 960 →
      (0 < pr.specLen → (s.pipe.recfg = true ∨ s.anyBreak p.val = true ∨
          ∀ c ∈ s.tinesAtHand p cut, s.tineMatches pr c = false) →
        DoesOnly [.regs, .pairs] (.validationEnd p front cut) s fun t =>
          (t.pairs.get p).ctx = some (freshCtx .real s.swath pr 0 (s.pairs.get p).dmem (s.pairs.get p).timers) ∧
          (t.pairs.get p).tines = [] ∧ (t.pairs.get p).judged = true ∧ (t.pairs.get p).tine = 15 ∧
          (t.pairs.get p).outcome = (if s.pipe.recfg then 6 else 2) ∧
          Counted s (F.PIPE_PAIR_CNT_MISSES p.val) t) ∧
      (pr.specLen = 0 →
        DoesOnly [.regs, .pairs] (.validationEnd p front cut) s fun t =>
          (t.pairs.get p).ctx = some (freshCtx .real s.swath pr 0 (s.pairs.get p).dmem (s.pairs.get p).timers) ∧
          (t.pairs.get p).judged = true ∧ (t.pairs.get p).outcome = 3 ∧
          t.fld (F.PIPE_PAIR_CNT_MISSES p.val) = s.fld (F.PIPE_PAIR_CNT_MISSES p.val)) ∧
      (∀ c, 0 < pr.specLen → s.pipe.recfg = false → s.anyBreak p.val = false → c ∈ s.tinesAtHand p cut → c.tineNo < 8 →
        s.tineMatches pr c = true →
        (∀ d ∈ s.tinesAtHand p cut, s.tineMatches pr d = true → d = c ∨ c.tineNo < d.tineNo) →
        (pr.specLen < pr.starts.length →
          DoesOnly [.regs, .pairs] (.validationEnd p front cut) s fun t =>
            (t.pairs.get p).ctx = some { c with
              kind := .post, ended := false, sheaf := pr.specLen, pc := pr.starts.getD pr.specLen 0, calls := []
              loops := [], sheafReads := 0 } ∧
            (t.pairs.get p).tines = [] ∧ (t.pairs.get p).outcome = 1 ∧ (t.pairs.get p).tine = c.tineNo) ∧
        (pr.starts.length ≤ pr.specLen →
          DoesOnly settleParts (.validationEnd p front cut) s fun t =>
            (t.pairs.get p).commit = some { c with slots := {} } ∧ (t.pairs.get p).done = true ∧ (t.pairs.get p).outcome = 1 ∧
            t.fld (F.PIPE_PAIR_LAST_OUTCOME p.val) = 1 ∧ t.fld (F.PIPE_PAIR_LAST_TINE p.val) = c.tineNo)) ∧
      Does (.validationAbandon p front cut) s fun t => t = s) ∧
    (960 < s.validationAt p →
      (DoesOnly [.regs, .pairs] (.validationAbandon p front cut) s fun t =>
        (t.pairs.get p).ctx = some (freshCtx .real s.swath pr 0 (s.pairs.get p).dmem (s.pairs.get p).timers) ∧
        (t.pairs.get p).tines = [] ∧ (t.pairs.get p).judged = true ∧
        (0 < pr.specLen → (t.pairs.get p).outcome = 5 ∧ Counted s (F.PIPE_PAIR_CNT_MISSES p.val) t)) ∧
      Does (.validationEnd p front cut) s fun t => t = s)

/-- R223, R238, R240, R241, R308, R310, R366: an evaluation that is done within its budget leaves its result as the commit of the pair, its
stores as unconfirmed copies for the next swath, its Crib entries each due at the tick of its drain, and its commands, or what a force has
in their place, in the output image; one whose budget has run out commits nothing and is told. -/
def Obligations.EvaluationsSettleOrOverrun : Prop :=
  ∀ (p : PairIx) (x : Slots) (s : State) (pr : Prog) (c : Ctx), (s.pairs.get p).prog = some pr →
    (s.pairs.get p).ctx = some c → c.isTine = false → s.isArmed = true → s.pairsRun = true →
    (s.pairs.get p).halted = false → c.swath = s.swath →
    ((c.ended = true → x.total ≤ s.pipe.budget →
      DoesOnly settleParts (.realEvaluationEnd p x) s fun t =>
        (∃ c1, c1 = { c with slots := c1.slots } ∧ (t.pairs.get p).commit = some c1) ∧
        (t.pairs.get p).due = c.emits.map (fun e =>
          (s.btick + ((s.pairs.get p).began - s.btick + cycTicks x.total s.pipe.level) + s.drainAt c e, e.crib, e.words)) ∧
        (t.pairs.get p).done = true ∧ (t.pairs.get p).tines = [] ∧ (∀ q, q ≠ p → t.pairs.get q = s.pairs.get q) ∧
        t.fld (F.PIPE_PAIR_LAST_OUTCOME p.val) = (s.pairs.get p).outcome % 16 ∧
        t.reg (Reg.PIPE_PAIR_SWATH p.val) = s.swath32 ∧
        (∀ w ∈ c.writes, (∀ v ∈ c.writes, v.index = w.index → v = w) →
          (t.entry w.index).pend = some ⟨w.value, w.qual, s.swath + 1, false, false⟩) ∧
        (∀ i, (∀ w ∈ c.writes, w.index ≠ i) → t.entry i = s.entry i) ∧
        (∀ ch : ChIx, s.flag (F.CH_CMD_SRC_EN ch.val) = true →
          (s.entry (s.fld (F.CH_CMD_SRC_INDEX ch.val))).src = srcDerived p.val →
          ∀ v, ((∃ f ∈ s.forces, f = (s.fld (F.CH_CMD_SRC_INDEX ch.val), v) ∧ ∀ g ∈ s.forces, g.1 = f.1 → g = f) ∨
              ((∀ f ∈ s.forces, f.1 ≠ s.fld (F.CH_CMD_SRC_INDEX ch.val)) ∧
                ∃ w ∈ c.writes, w.index = s.fld (F.CH_CMD_SRC_INDEX ch.val) ∧ w.value = v ∧
                  ∀ u ∈ c.writes, u.index = w.index → u = w)) →
          (t.out.get ch).next = some (v, s.btick + if pr.fixed then pr.dfix - 192
            else ((s.pairs.get p).began - s.btick + cycTicks x.total s.pipe.level + 120 + 191) / 192 * 192))) ∧
    (∀ cmd, (cmd = .budgetOverrun p x ∧ (s.pipe.budget < x.total ∨ (c.ended = false ∧ x.total = s.pipe.budget))) ∨
        (cmd = .realEvaluationEnd p x ∧ c.ended = true ∧ s.pipe.budget < x.total) →
      DoesOnly faultParts cmd s fun t =>
        Told s.swath (srcBND p.val) kBudgetOverrun (faultAddr 63 (min c.sheaf 63)) t ∧
        (t.pairs.get p).commit = none ∧ (t.pairs.get p).tines = [] ∧ (t.pairs.get p).done = true ∧
        (t.pairs.get p).dmem = (s.pairs.get p).dmem ∧ (t.pairs.get p).timers = (s.pairs.get p).timers ∧
        t.fld (F.PIPE_PAIR_LAST_OUTCOME p.val) = 4 ∧ t.pipe.now.testBit 0 = true) ∧
    (c.ended = false → x.total < s.pipe.budget → Does (.budgetOverrun p x) s fun t => t = s))

/-- R239, R309, R310, R313, R314: the Crib entries of a commit are written into the ring beyond PROD as they fall due, in their order,
and are not published; at the boundary the commit publishes all of them behind PROD, before what others have not published, confirms its
copies, LATE where its swath is suspended, and gives the pair its data memory and timers. -/
def Obligations.CommitEntriesReachTheirCribAndArePublished : Prop :=
  (∀ (p : PairIx) (k : CribIx) (es : List (Nat × List Word)) (u : Nat) (s : State),
     (∀ q, (s.pairs.get q).blocked = none) → (∀ q, q ≠ p → (s.pairs.get q).due = []) →
     (s.pairs.get p).due = es.map (fun e => (e.1, k.val, e.2)) → (es.map (·.1)).Pairwise (· ≤ ·) → (∀ e ∈ es, e.1 ≤ u) →
     (∀ e ∈ es, e.2.length = s.entryWords k.val) → s.flag (F.CRIB_CFG_EN k.val) = true →
     s.occupancy k.val + (s.cribs.get k).written.length + es.length ≤ s.ringSize k.val →
     RingHolds s k (s.prod k.val) (s.cribs.get k).written →
     OnlyChanges [.regs, .mem, .pairs, .cribs] s (s.drainTo u) ∧
     ((s.drainTo u).cribs.get k).written = (s.cribs.get k).written ++ es.map (fun e => (p.val, e.2)) ∧
     RingHolds (s.drainTo u) k (s.prod k.val) ((s.drainTo u).cribs.get k).written ∧
     (s.drainTo u).prod k.val = s.prod k.val ∧ ((s.drainTo u).pairs.get p).due = []) ∧
  (∀ (p : PairIx) (k : CribIx) (s : State) (mine rest : List (Nat × List Word)),
     mine = (s.cribs.get k).written.filter (fun e => e.1 == p.val) →
     rest = (s.cribs.get k).written.filter (fun e => e.1 != p.val) →
     (∀ e ∈ (s.cribs.get k).written, e.2.length = s.entryWords k.val) →
     (s.cribs.get k).written.length ≤ s.ringSize k.val → RingHolds s k (s.prod k.val) (s.cribs.get k).written →
     OnlyChanges [.regs, .mem, .cribs] s (s.publish k p.val) ∧
     (s.publish k p.val).prod k.val = (s.prod k.val + mine.length) % 2 ^ 32 ∧ (s.publish k p.val).cons k.val = s.cons k.val ∧
     ((s.publish k p.val).cribs.get k).written = rest ∧ RingHolds (s.publish k p.val) k (s.prod k.val) (mine ++ rest)) ∧
  (∀ (p : PairIx) (s : State) (late armed : Bool) (c : Ctx), (s.pairs.get p).commit = some c →
     ((s.applyCommit p late armed).pairs.get p).commit = none ∧ ((s.applyCommit p late armed).pairs.get p).dmem = c.dmem ∧
     ((s.applyCommit p late armed).pairs.get p).timers = c.timers ∧
     (∀ i d, (s.entry i).src = srcDerived p.val → (s.entry i).pend = some d → d.confirmed = false → d.target = s.swath →
       ((s.applyCommit p late armed).entry i).pend = some { d with confirmed := true, qual := withLate late d.qual }) ∧
     ((s.pairs.get p).owed = [] → ∀ k : CribIx,
       (s.applyCommit p late armed).prod k.val =
         (s.prod k.val + ((s.cribs.get k).written.filter fun e => e.1 == p.val).length) % 2 ^ 32 ∧
       ((s.applyCommit p late armed).cribs.get k).written = (s.cribs.get k).written.filter fun e => e.1 != p.val))

/-- R285-R291: engines whose stores differ, a lockstep mismatch or a Binder fault block their pair: cause and PC shown, nothing of it
committed; in bench mode the debug keys halt, resume and step a pair and a breakpoint halts it before its instruction;
elsewhere they raise HALT_REFUSED. -/
def Obligations.EngineFaultsBlockAndDebugHaltsThePair : Prop :=
  (∀ (p : PairIx) (cause pc sheaf : Nat) (x : Slots) (s : State) (cmd : Instr) (kind : Nat),
     ((cmd = .lockstep p cause pc sheaf x ∧ kind = kLockstep ∧ 1 ≤ cause ∧ cause ≤ 6 ∧ (s.pairs.get p).ctx.isSome = true) ∨
       (cmd = .binderFault p cause pc sheaf x ∧ kind = kBinderFault ∧
         (cause = 8 ∨ cause = 9 ∨ (cause = 10 ∧ (s.pairs.get p).ctx.isSome = true)))) →
     ((s.pairs.get p).blocked = none → DoesOnly (.mem :: faultParts) cmd s fun t =>
       (t.pairs.get p).blocked.isSome = true ∧ (t.pairs.get p).ctx = none ∧ (t.pairs.get p).commit = none ∧
       (t.pairs.get p).tines = [] ∧ (t.pairs.get p).dmem = (s.pairs.get p).dmem ∧
       t.fld (F.BND_FAULT_CAUSE p.val) = cause % 16 ∧ t.fld (F.BND_FAULT_PC p.val) = pc % 2 ^ 14 ∧
       t.fld (F.BND_STATUS_STATE p.val) = 2 ∧ t.fld (F.BND_STATUS_PC p.val) = 0 ∧
       Told s.swath (srcBND p.val) kind (faultAddr cause (min sheaf 63)) t) ∧
     ((s.pairs.get p).blocked.isSome = true → Does cmd s fun t => t = s)) ∧
  (∀ (p : PairIx) (s : State) (pr : Prog) (c : Ctx) (r a : RegIx) (off : BitVec 12),
     (s.pairs.get p).prog = some pr → (s.pairs.get p).ctx = some c → s.evaluates p c = true → s.atBreak p c = false →
     c.eb.regs.get r.toFin ≠ c.w r → DoesOnly (.mem :: faultParts) (.bStd p r a 0 off) s fun t =>
       (t.pairs.get p).blocked.isSome = true ∧ (t.pairs.get p).ctx = none ∧ (t.pairs.get p).dmem = (s.pairs.get p).dmem ∧
       t.fld (F.BND_FAULT_CAUSE p.val) = 4 ∧ t.fld (F.BND_FAULT_PC p.val) = c.pc % 2 ^ 14 ∧
       Told s.swath (srcBND p.val) kLockstep (faultAddr 4 (min c.sheaf 63)) t) ∧
  (∀ (p : PairIx) (s : State),
     (s.coreOn = true → s.bench = true → DoesOnly [.pairs, .pipe] (.bndHalt p) s fun t =>
       t.pairs.get p = { s.pairs.get p with debugReq := some true } ∧
       (∀ q, q ≠ p → t.pairs.get q = s.pairs.get q) ∧ t.pipe.next = s.pipe.next ||| cUNSTAMPED) ∧
     (s.coreOn = true → s.bench = true → (s.pairs.get p).halted = true → DoesOnly [.pairs, .pipe] (.bndResume p) s fun t =>
       t.pairs.get p = { s.pairs.get p with debugReq := some false } ∧
       (∀ q, q ≠ p → t.pairs.get q = s.pairs.get q) ∧ t.pipe.next = s.pipe.next ||| cUNSTAMPED) ∧
     (s.bench = true → (s.pairs.get p).halted = false → Does (.bndResume p) s fun t => t = s) ∧
     (∀ pr c op, s.coreOn = true → s.bench = true → (s.pairs.get p).halted = true → (s.pairs.get p).prog = some pr →
       (s.pairs.get p).ctx = some c → c.ended = false → c.eb = c.engA → decodeBinder (pr.code.getD c.pc 0#32) = some op →
       DoesOnly [.regs, .pairs] (.bndStep p) s fun t => ∃ c1, c1 = runOp s p pr op { c with swath := s.swath } ∧
         t.pairs.get p = { s.pairs.get p with ctx := some { c1 with eb := c1.engA } } ∧
         (∀ q, q ≠ p → t.pairs.get q = s.pairs.get q) ∧
         t.fld (F.BND_STATUS_PC p.val) = c1.pc % 2 ^ 14 ∧ RegsKeep (fun a => a == Reg.BND_STATUS p.val) s t) ∧
     (∀ pr c, s.coreOn = true → s.bench = true → (s.pairs.get p).halted = true → (s.pairs.get p).prog = some pr →
       (s.pairs.get p).ctx = some c → c.ended = false → decodeBinder (pr.code.getD c.pc 0#32) = none →
       DoesOnly (.mem :: faultParts) (.bndStep p) s fun t => (t.pairs.get p).blocked.isSome = true ∧
         Told s.swath (srcBND p.val) kBinderFault (faultAddr 10 (min c.sheaf 63)) t) ∧
     (s.bench = false → ∀ cmd, cmd = .bndHalt p ∨ cmd = .bndResume p ∨ cmd = .bndStep p →
       DoesOnly faultParts cmd s fun t => Told s.swath (srcBND p.val) kHaltRefused (faultAddr 63 63) t ∧
         (t.pairs.get p).debugReq = (s.pairs.get p).debugReq ∧ (t.pairs.get p).halted = (s.pairs.get p).halted) ∧
     (∀ pr c k, (s.pairs.get p).prog = some pr → (s.pairs.get p).ctx = some c → c.isTine = false → c.ended = false →
       s.isArmed = true → s.pairsRun = true → c.swath = s.swath → s.bench = true →
       (s.pairs.get p).halted = false → k < 4 → s.flag (F.BND_BKPT_EN p.val k) = true →
       s.fld (F.BND_BKPT_ADDR p.val k) = c.pc →
       DoesOnly [.regs, .pairs] (.breakpointHit p) s fun t =>
         (t.pairs.get p).halted = true ∧ (t.pairs.get p).ctx = some { c with slots := {} } ∧ (t.pairs.get p).tines = [] ∧
         (t.pairs.get p).commit = (s.pairs.get p).commit ∧ (∀ q, q ≠ p → t.pairs.get q = s.pairs.get q) ∧
         t.fld (F.BND_STATUS_STATE p.val) = 3 ∧ t.flag (F.BND_STATUS_AT_BKPT p.val) = true ∧
         t.fld (F.BND_STATUS_PC p.val) = c.pc ∧ t.fld (F.RC_STATE_STATE p.val) = 2) ∧
     (s.bench = false → Does (.breakpointHit p) s fun t => t = s))

/-! ## Power-on, resets and boot -/

/-- R3, R18, R52, R55, R216, R321, R340, R468, R528: power-on starts every counter at 0 in BOOT with the straps taken; loss of VIN
leaves the device off; a reset that spares the Cellar keeps counters, Cellar, memory and field dies as what has ended by its tick and a
Dormant before it have left them, with the Cellar lost the counters start at 0. A loaded field die goes on with its configuration through
each of them (R80). That a reset which spares the Cellar keeps the memory and empties the signal table is the model's (log entry 15), and
so is what memory reads as that has lost its contents (log entry 2). -/
def Obligations.PowerOnAndResetsLeaveTheirState : Prop :=
  (∀ (st : Straps) (flash : Option FlashIn) (s : State),
     (Does (.powerOn st flash) s fun t =>
       t.tick = 0 ∧ t.swath = 0 ∧ t.stook = 0 ∧ t.btick = 0 ∧ t.isBoot = true ∧ t.env.vin = true ∧
       t.fld F.BOOT_STATUS_MODE = st.mode.val ∧ t.flag F.TB_CLK_STATUS_PLL_LOCK = true ∧
       t.fld F.TB_PHASE_LENGTH = t.lNom ∧ t.mem = [] ∧ t.sig = [] ∧ t.queue = [] ∧ t.forces = [] ∧
       t.boot.image = none ∧ t.boot.rollback = s.boot.rollback ∧ t.boot.svcKey = s.boot.svcKey ∧
       (s.fld F.SYS_COMMISSION_STATE ≠ 1 → t.boot.keyHash = s.boot.keyHash) ∧
       (∀ h : HalfIx, t.fld (F.BD_STATUS_LINK h.val) = 1) ∧ t.pending = s.pending) ∧
     (Does .vinLoss s fun t =>
       t.env.vin = false ∧ t.mem = [] ∧ t.sig = [] ∧ t.boot.image = none ∧ t.boot.rollback = s.boot.rollback ∧
       (∀ c, (t.chan c).action = (s.chan c).action ∧ (t.chan c).closed = (s.chan c).closed) ∧
       (∀ h, (t.half h).table = (s.half h).table ∧ (t.half h).gateHold = (s.half h).gateHold) ∧
       (∀ c, (s.half (halfOf c)).loaded = true → t.func c = s.func c) ∧ t.pending = s.pending)) ∧
  (∀ (s : State) (st : Straps) (cmd : Bool → Instr),
     ((∃ st', cmd = .rstN st' ∧ s.env.vin = true ∧ st'.mode = st.mode) ∨
       (cmd = .resetReaction ∧ s.fc.resetting = true ∧ s.fc.resetAt + resetTicks ≤ s.tick ∧
         st.mode.val = s.fld F.BOOT_STATUS_MODE) ∨
       (cmd = .coreBor ∧ (s.pwr.mode = 2 ∨ s.pwr.mode = 4) ∧ s.fld F.PWR_CFG_REG = 0 ∧
         st.mode.val = s.fld F.BOOT_STATUS_MODE)) →
     (Does (cmd true) s fun t =>
       t.tick = s.tick ∧ t.swath = s.swath ∧ t.stook = s.stook ∧ t.btick = s.btick ∧
       (∀ a, domainOf a = .cellar → faultReg a = false → (a = Reg.SR_ATT_TOKENS → s.leaf < leafCount) →
         t.reg a = (s.catchUp s.tick).loseDormant.reg a) ∧
       t.isBoot = true ∧ t.fld F.BOOT_STATUS_MODE = st.mode.val ∧ t.fld F.SYS_STATE_ARMED_HALVES = 0 ∧
       t.mem = (s.catchUp s.tick).loseDormant.mem ∧ (s.pwr.mode ≠ 4 → s.catchUp s.tick = s → t.mem = s.mem) ∧
       t.sig = [] ∧ t.queue = [] ∧ t.forces = [] ∧ t.boot.image = none ∧ t.boot.rollback = s.boot.rollback ∧
       (∀ c, (t.chan c).action = (s.chan c).action ∧ (t.chan c).closed = (s.chan c).closed) ∧
       (∀ h, (t.half h).loaded = (s.half h).loaded ∧ (t.half h).table = (s.half h).table) ∧
       (∀ c, (s.half (halfOf c)).loaded = true → t.func c = s.func c) ∧
       (∀ h : HalfIx, t.fld (F.BD_STATUS_LINK h.val) = 1) ∧ t.pending = s.pending ∧
       (cmd = .coreBor → Told s.swath srcPWR kCoreBor (faultAddr 63 63) t) ∧
       ((∃ st', cmd = .rstN st') ∨ t.flag F.FC_STATUS_FAULT_N = true)) ∧
     (Does (cmd false) s fun t =>
       t.tick = 0 ∧ t.swath = 0 ∧ t.stook = 0 ∧ t.isBoot = true ∧ t.mem = [] ∧ t.boot.image = none ∧
       t.boot.rollback = s.boot.rollback ∧ t.fld (F.FC_SRC_CNT_LAST_KIND srcGRN) = kCellarLost ∧
       (∀ c, (t.chan c).action = (s.chan c).action ∧ (t.chan c).closed = (s.chan c).closed)))

/-- R52, R53, R323, R468, R546: TEST_N leads to HALTED with reason 0x0E; without a supply neither reset pin does anything, and a
reaction or a brown-out resets only where its condition stands, a reaction not before its slots of ARMED = 0; a failed root clock
or PLL raises CLK_FAIL and shows in TB_CLK_STATUS, and the PLL that places the boundaries runs on. -/
def Obligations.ResetsNeedTheirConditionAndClocksFail : Prop :=
  (∀ (s : State) (st : Straps) (ok : Bool),
     (s.env.vin = true → Does (.testNLow st ok) s fun t =>
       t.isHalted = true ∧ t.fld F.BOOT_STATUS_REASON_1 = 0x0E ∧ t.env.testSeen = true ∧ t.pending = s.pending ∧
       (ok = true → t.tick = s.tick ∧ t.swath = s.swath ∧ t.mem = (s.catchUp s.tick).loseDormant.mem)) ∧
     (s.env.vin = false → (Does (.testNLow st ok) s fun t => t = s) ∧ Does (.rstN st ok) s fun t => t = s) ∧
     (s.fc.resetting = false ∨ s.tick < s.fc.resetAt + resetTicks → Does (.resetReaction ok) s fun t => t = s) ∧
     (s.fld F.PWR_CFG_REG ≠ 0 → Does (.coreBor ok) s fun t => t = s)) ∧
  (∀ (lost : Bool) (s : State), DoesOnly faultParts (.clkFail lost) s fun t =>
     t.env.clkFailed = true ∧ t.env.pll = s.env.pll ∧ Told s.swath srcCLK kClkFail 0xFFF t ∧
     (lost = true → t.flag F.TB_CLK_STATUS_PLL_LOCK = false ∧
       t.flag F.TB_CLK_STATUS_ROOT_OK = s.flag F.TB_CLK_STATUS_ROOT_OK) ∧
     (lost = false → t.flag F.TB_CLK_STATUS_ROOT_OK = false ∧
       t.flag F.TB_CLK_STATUS_PLL_LOCK = s.flag F.TB_CLK_STATUS_PLL_LOCK))

/-- R324, R338, R340, R341, R420, R546: boot ends in HALTED with its reasons, or loads the image of the first slot that verifies and ends
at the boundary of R63 in SAFE, or in HALTED by a reaction held; a flashless member verifies what was delivered, or discards it
and waits, and verifies nothing after TEST_N. That SAFE comes with the boundary itself is the model's choice (log entry 37). An image
verifies by the hash signature over its words, whose chains no run of the kernel evaluates in its time: the tests show no boot that
succeeds. -/
def Obligations.BootEndsInSafeOrHalted : Prop :=
  (∀ s : State, s.isBoot = true → s.env.pll = true → s.boot.image = none →
    (s.env.testSeen = true ∨ s.fld F.BOOT_STATUS_MODE = 3 → DoesOnly [.regs] .bootComplete s fun t =>
      t.isHalted = true ∧ t.fld F.BOOT_STATUS_REASON_1 = 0x0E ∧ t.fld F.BOOT_STATUS_REASON_2 = 0) ∧
    (s.env.testSeen = false → s.fld F.BOOT_STATUS_MODE = 1 → Does .bootComplete s fun t => t = s) ∧
    (s.env.testSeen = false → s.fld F.BOOT_STATUS_MODE = 0 ∨ s.fld F.BOOT_STATUS_MODE = 2 →
      (s.boot.flash = 1 ∨ s.boot.flash = 2 → DoesOnly [.regs] .bootComplete s fun t =>
        t.isHalted = true ∧ t.fld F.BOOT_STATUS_REASON_1 = s.boot.flash) ∧
      (s.boot.flash = 0 → ∀ first, first < 2 → s.boot.choice = [first, 1 - first] →
        (∀ i tb, verifyImage s.verifyEnv (s.flashWords first 0 imageWords) = .ok (i, tb) →
          DoesOnly bootParts .bootComplete s fun t =>
            t.isBoot = true ∧ t.boot.image = some i ∧ t.boot.tbNext.isSome = true ∧ t.fld F.BOOT_STATUS_SLOT = first) ∧
        (∀ f i tb, verifyImage s.verifyEnv (s.flashWords first 0 imageWords) = .error f →
          verifyImage s.verifyEnv (s.flashWords (1 - first) 0 imageWords) = .ok (i, tb) →
          DoesOnly bootParts .bootComplete s fun t =>
            t.isBoot = true ∧ t.boot.image = some i ∧ t.boot.tbNext.isSome = true ∧
            t.fld F.BOOT_STATUS_SLOT = 1 - first ∧ t.fld F.BOOT_STATUS_REASON_1 = f.reason % 256 ∧
            Told s.swath srcBOOT kImageFallback (faultAddr 63 (1 - first)) t) ∧
        (∀ f f', verifyImage s.verifyEnv (s.flashWords first 0 imageWords) = .error f →
          verifyImage s.verifyEnv (s.flashWords (1 - first) 0 imageWords) = .error f' →
          DoesOnly faultParts .bootComplete s fun t =>
            t.isHalted = true ∧ t.fld F.BOOT_STATUS_REASON_1 = f.reason % 256 ∧
            t.fld F.BOOT_STATUS_REASON_2 = f'.reason % 256 ∧
            Told s.swath srcBOOT kImageFallback (faultAddr 63 (1 - first)) t)))) ∧
  (∀ s : State,
    (s.isBoot = false ∨ s.env.pll = false ∨ s.boot.image.isSome = true → Does .bootComplete s fun t => t = s) ∧
    (s.isBoot = true → (s.finishBoot).isSafe = true ∨ (s.finishBoot).isHalted = true) ∧
    (s.isBoot = true → s.fld F.BOOT_STATUS_MODE = 1 → s.hp.dstate = 2 → s.env.testSeen = false →
      (∀ i tb, verifyImage s.verifyEnv s.boot.stage = .ok (i, tb) →
        DoesOnly (.hp :: bootParts) .memberImageVerify s fun t =>
          t.isBoot = true ∧ t.boot.image = some i ∧ t.boot.tbNext.isSome = true ∧ t.boot.stage = [] ∧ t.hp.dstate = 0) ∧
      (∀ f, verifyImage s.verifyEnv s.boot.stage = .error f →
        DoesOnly [.regs, .boot, .hp] .memberImageVerify s fun t =>
          t.isBoot = true ∧ t.boot.stage = [] ∧ t.hp.dstate = 3 ∧ t.fld F.BOOT_STATUS_REASON_1 = f.reason % 256)) ∧
    (s.isBoot = false ∨ s.fld F.BOOT_STATUS_MODE ≠ 1 ∨ s.hp.dstate ≠ 2 ∨ s.env.testSeen = true →
      Does .memberImageVerify s fun t => t = s))

/-! ## Commissioning, staging and arming -/

/-- R335, R336, R344: commissioning takes the keys only with both fuse sets blank in HALTED with reason 0x04, and blows them; the
rollback counter rises to the SVN of the running image. -/
def Obligations.CommissioningAndRollbackFuses : Prop :=
  ∀ s : State,
    (s.coreOn = true → s.boot.keyHash = none → s.boot.svcKey = none → s.isHalted = true → s.fld F.BOOT_STATUS_REASON_1 = 4 →
      s.fld F.SYS_COMMISSION_STATE ≠ 1 → DoesOnly [.regs, .boot] .commission s fun t =>
        t.fld F.SYS_COMMISSION_STATE = 1 ∧ t.boot.keyInput.length = 92 ∧
        (∀ i < 92, t.boot.keyInput.getD i 0#8 = s.readByte (0xFC0000 + i)) ∧ t.boot.keyHash = none ∧
        RegsKeep (fun a => a == Reg.SYS_COMMISSION) s t) ∧
    (s.boot.keyHash.isSome = true ∨ s.boot.svcKey.isSome = true ∨ s.isHalted = false ∨
      s.fld F.BOOT_STATUS_REASON_1 ≠ 4 ∨ s.fld F.SYS_COMMISSION_STATE = 1 → Does .commission s fun t => t = s) ∧
    (s.fld F.SYS_COMMISSION_STATE = 1 →
      (DoesOnly [.regs, .boot] (.commissionDone true) s fun t =>
        t.fld F.SYS_COMMISSION_STATE = 2 ∧ t.boot.keyHash = some (sha256 (s.boot.keyInput.take 60)) ∧
        t.boot.svcKey = some (wordsOfBytes (s.boot.keyInput.drop 60)) ∧ t.flag F.BOOT_FUSES_KEY = true ∧
        t.flag F.BOOT_FUSES_SVC_KEY = true) ∧
      (DoesOnly [.regs, .boot] (.commissionDone false) s fun t =>
        t.fld F.SYS_COMMISSION_STATE = 3 ∧ (∀ b, t.boot.keyHash ≠ some (sha256 b)) ∧
        t.flag F.BOOT_FUSES_KEY = true)) ∧
    (s.fld F.SYS_COMMISSION_STATE ≠ 1 → ∀ ok, Does (.commissionDone ok) s fun t => t = s) ∧
    (∀ i, s.coreOn = true → s.boot.image = some i → s.flag F.BOOT_STATUS_TRIAL = false → DoesOnly [.regs, .boot] .rollbackRaise s fun t =>
      t.boot = { s.boot with rollback := max s.boot.rollback (i.word3.toNat % 256) } ∧
      t.fld F.BOOT_FUSES_ROLLBACK = min 255 (max s.boot.rollback (i.word3.toNat % 256)) ∧
      RegsKeep (fun a => a == Reg.BOOT_FUSES) s t) ∧
    (s.boot.image = none ∨ s.flag F.BOOT_STATUS_TRIAL = true → Does .rollbackRaise s fun t => t = s)

/-- R337, R342, R363, R507: staging erases, takes and checks the slot that does not run, and its keys append their boot records with
a higher SEQ; a check waits for data under programming; with PFAIL_N asserted nothing is erased or programmed; a key outside its
state does nothing. That the key of a check given while data are being programmed is kept is the model's reading (log entry 45). -/
def Obligations.StagingFollowsItsStates : Prop :=
  ∀ s : State,
    (s.coreOn = true → s.isSafe = true ∨ s.isArmed = true ∨ s.isHalted = true → DoesOnly [.regs, .boot] .stageOpen s fun t =>
      t.fld F.STAGE_STATUS_STATE = 1 ∧ t.fld F.STAGE_STATUS_REASON = 0 ∧ t.fld F.STAGE_NEXT_NEXT = 0 ∧
      (s.env.pfail = false → t.boot.slots.getD (1 - s.slotRun) [] = []) ∧
      t.boot.slots.getD s.slotRun [] = s.boot.slots.getD s.slotRun [] ∧
      t.boot.programming = false ∧ t.boot.checkWaits = false) ∧
    (s.isBoot = true → Does .stageOpen s fun t => t = s) ∧
    (s.fld F.STAGE_STATUS_STATE = 1 → s.env.pfail = false → DoesOnly [.regs, .boot] .stageEraseDone s fun t =>
      t.fld F.STAGE_STATUS_STATE = 2 ∧ t.fld F.STAGE_NEXT_NEXT = 0 ∧ t.boot.slots.getD (1 - s.slotRun) [] = []) ∧
    (s.fld F.STAGE_STATUS_STATE ≠ 1 ∨ s.env.pfail = true → Does .stageEraseDone s fun t => t = s) ∧
    (s.boot.programming = true → s.env.pfail = false → s.hp.writes = [] →
      (s.boot.checkWaits = false ∨ s.fld F.STAGE_STATUS_STATE ≠ 2 →
        DoesOnly [.boot] (.stageProgramDone true) s fun t =>
          t.boot = { s.boot with programming := false, checkWaits := false }) ∧
      (s.boot.checkWaits = true → s.fld F.STAGE_STATUS_STATE = 2 →
        DoesOnly [.regs, .boot] (.stageProgramDone true) s fun t =>
          t.boot = { s.boot with programming := false, checkWaits := false } ∧ t.fld F.STAGE_STATUS_STATE = 3) ∧
      (s.fld F.STAGE_STATUS_STATE = 2 → DoesOnly (.boot :: faultParts) (.stageProgramDone false) s fun t =>
        t.boot = { s.boot with programming := false, checkWaits := false } ∧ t.fld F.STAGE_STATUS_STATE = 5 ∧
        t.fld F.STAGE_STATUS_REASON = 0x0D ∧ Told s.swath srcBOOT kStageFail (faultAddr 63 0x0D) t)) ∧
    (s.coreOn = true → s.isSafe = true ∨ s.isArmed = true ∨ s.isHalted = true → s.fld F.STAGE_STATUS_STATE = 2 →
      (s.boot.programming = false → DoesOnly [.regs] .stageCheck s fun t =>
        t.fld F.STAGE_STATUS_STATE = 3 ∧ t.fld F.STAGE_STATUS_REASON = 0) ∧
      (s.boot.programming = true → DoesOnly [.boot] .stageCheck s fun t =>
        t.boot = { s.boot with checkWaits := true })) ∧
    (s.fld F.STAGE_STATUS_STATE ≠ 2 → Does .stageCheck s fun t => t = s) ∧
    (s.fld F.STAGE_STATUS_STATE = 3 →
      (s.stageVerdict = none → DoesOnly [.regs] .stageCheckDone s fun t =>
        t.fld F.STAGE_STATUS_STATE = 4 ∧ t.fld F.STAGE_STATUS_REASON = 0) ∧
      (∀ r, s.stageVerdict = some r → DoesOnly faultParts .stageCheckDone s fun t =>
        t.fld F.STAGE_STATUS_STATE = 5 ∧ t.fld F.STAGE_STATUS_REASON = r % 256 ∧
        Told s.swath srcBOOT kStageFail (faultAddr 63 r) t)) ∧
    (s.coreOn = true → s.fld F.STAGE_STATUS_STATE = 4 → DoesOnly [.regs, .boot] .stageActivate s fun t =>
      t.fld F.STAGE_STATUS_STATE = 6 ∧
      ∃ r ∈ t.boot.records, r.type = .activate ∧ r.slot = 1 - s.slotRun ∧ r.digest = s.slotDigest (1 - s.slotRun) ∧
        ∀ x ∈ s.boot.records, x.seq < r.seq) ∧
    (s.fld F.STAGE_STATUS_STATE ≠ 4 → Does .stageActivate s fun t => t = s) ∧
    (s.coreOn = true → s.flag F.BOOT_STATUS_TRIAL = true → s.boot.image.isSome = true → DoesOnly [.regs, .boot] .stageConfirm s fun t =>
      t.flag F.BOOT_STATUS_TRIAL = false ∧
      ∃ r ∈ t.boot.records, r.type = .confirm ∧ r.slot = s.slotRun ∧ r.digest = s.slotDigest s.slotRun ∧
        ∀ x ∈ s.boot.records, x.seq < r.seq) ∧
    (s.flag F.BOOT_STATUS_TRIAL = false → Does .stageConfirm s fun t => t = s)

/-- R24, R89, R259, R286, R304, R343, R344: a request names halves and waits for its boundary; there its halves arm if every condition
holds, the tables in force among them, else it is refused whole with its code and ARM_REFUSED; a derived entry starts at 0 with
VALID, unless its pair is blocked. -/
def Obligations.ArmingIsRequestedAndJudgedAtABoundary : Prop :=
  ∀ s : State,
    (∀ mask : BitVec 2, s.coreOn = true → mask ≠ 0#2 → (s.boot.armReq = none ∨ s.boot.autoArm = true) →
      DoesOnly [.regs, .pipe, .boot] (.armRequest mask) s fun t =>
        t.boot = { s.boot with autoArm := false, armReq := some (mask.toNat, s.swath) } ∧
        t.fld F.SYS_ARM_STATUS_STATE = 1 ∧ t.pipe.next = s.pipe.next ||| cUNSTAMPED ∧
        RegsKeep (fun a => a == Reg.SYS_ARM_STATUS) s t) ∧
    (Does (.armRequest 0#2) s fun t => t = s) ∧
    (s.boot.armReq.isSome = true → s.boot.autoArm = false → ∀ mask, Does (.armRequest mask) s fun t => t = s) ∧
    (s.boot.armReq = none → Does .arming s fun t => t = s) ∧
    (s.boot.image = none → ∀ mask, s.armCode mask ≠ 0) ∧
    (∀ mask since, s.boot.armReq = some (mask, since) → s.tick = s.btick → since < s.swath →
      (s.armCode mask = 0 →
        DoesOnly [.regs, .sig, .pipe, .out, .chans, .halves, .pairs, .boot, .pwr, .yk] .arming s fun t =>
          t.isArmed = true ∧ t.fld F.SYS_ARM_STATUS_STATE = 2 ∧ t.boot.armReq = none ∧ t.pipe.reacted = false ∧
          (∀ h : HalfIx, t.armed h.val = (s.armed h.val || mask.testBit h.val)) ∧
          (∀ h, (t.half h).nightTx = false) ∧
          (∀ h : HalfIx, mask.testBit h.val = true → ∀ c ∈ chOf h,
            (t.chan c).filt = 0 ∧ (t.chan c).state = false ∧ (t.chan c).pulses = 0#32 ∧ (t.chan c).pulsesB = 0#32 ∧
            (t.chan c).closures = 0#32 ∧ (t.chan c).closuresB = 0#32) ∧
          (s.fld F.SYS_STATE_ARMED_HALVES = 0 →
            (∀ p, (t.pairs.get p).timers = [] ∧ (t.pairs.get p).commit = none ∧
              ((s.pairs.get p).halted = false → (t.pairs.get p).ctx = none) ∧
              (∀ pr, (s.pairs.get p).halted = true → (s.pairs.get p).prog = some pr →
                (t.pairs.get p).ctx = some (freshCtx .real s.swath pr 0 (t.pairs.get p).dmem []))) ∧
            ∀ i, (s.entry i).cls = 6 → (t.entry i).count = 0#32 ∧
              ((∀ p : PairIx, (s.entry i).src = srcDerived p.val → (s.pairs.get p).blocked = none) →
                (t.entry i).value = 0#32 ∧ (t.entry i).pend = none) ∧
              ((∃ p : PairIx, (s.entry i).src = srcDerived p.val ∧ (s.pairs.get p).blocked.isSome = true) →
                (s.entry i).pend = none → (t.entry i).value = (s.entry i).value ∧ (t.entry i).qual = (s.entry i).qual))) ∧
      (s.armCode mask ≠ 0 → DoesOnly (.boot :: faultParts) .arming s fun t =>
        t.fld F.SYS_ARM_STATUS_CODE = s.armCode mask ∧
        Told s.swath srcBOOT kArmRefused (faultAddr 63 (s.armCode mask)) t ∧
        (s.boot.autoArm = false → t.boot.armReq = none ∧ t.fld F.SYS_ARM_STATUS_STATE = 3) ∧
        (s.boot.autoArm = true → t.boot.armReq = some (mask, s.swath) ∧ t.fld F.SYS_ARM_STATUS_STATE = 1)))

/-! ## Timebase -/

/-- R57, R58, R59, R63, R224, R522: the boundary of a device alone, neither aligning nor with forwarded writes: swath number, boundary
tick, stook number and stook phase count on, and the write window opens. In Dormant every count of the root adds 1,024 ticks, the
boundary that has fallen due is counted with its swath, stook and phase, and nothing else happens but that the member entries carry STALE
there and a field die to which frames run counts on by its own length. That the boundary has the tick at which it fell due is the
model's choice (log entry 81). -/
def Obligations.BoundaryCountsSwathStookAndPhase : Prop :=
  (∀ (r : StookRaw) (s : State), s.env.pll = true → s.yokeMode = 0 →
    s.yk.apply = [] → s.yk.alignEnd = none → s.tick ≤ s.btick + s.swLen → s.btick + s.swLen < 2 ^ 64 →
    Does (.swathBoundary r) s fun t =>
      t.swath = (s.swath + 1) % 2 ^ 48 ∧ t.btick = s.btick + s.swLen ∧ t.pipe.window = true ∧
      (s.boot.tbNext = none → s.phase + 1 < s.kLen → t.phase = s.phase + 1 ∧ t.stook = s.stook) ∧
      (s.boot.tbNext.isSome = true ∨ s.kLen ≤ s.phase + 1 → t.phase = 0 ∧ t.stook = (s.stook + 1) % 2 ^ 48)) ∧
  (∀ s : State, s.env.vin = true → s.pwr.mode = 4 → s.env.pll = false →
    ((s.tick + 1024) % 2 ^ 64 < s.btick + s.swLen → DoesOnly [.regs] .dormantCount s fun t =>
      t.tick = (s.tick + 1024) % 2 ^ 64 ∧ t.swath = s.swath ∧ t.btick = s.btick ∧ t.stook = s.stook ∧ t.phase = s.phase) ∧
    (s.btick + s.swLen ≤ (s.tick + 1024) % 2 ^ 64 → DoesOnly [.regs, .sig, .pipe, .halves] .dormantCount s fun t =>
      t.tick = (s.tick + 1024) % 2 ^ 64 ∧ t.swath = (s.swath + 1) % 2 ^ 48 ∧ t.btick = (s.btick + s.swLen) % 2 ^ 64 ∧
      (s.boot.tbNext = none → s.yk.alignEnd = none → s.phase + 1 < s.kLen → t.phase = s.phase + 1 ∧ t.stook = s.stook) ∧
      (s.yk.alignEnd = none → s.kLen ≤ s.phase + 1 → t.phase = 0 ∧ t.stook = (s.stook + 1) % 2 ^ 48) ∧
      ∀ h, t.half h = { s.half h with dieAt := (t.half h).dieAt })) ∧
  (∀ s : State, s.env.vin = false ∨ s.pwr.mode ≠ 4 ∨ s.env.pll = true → Does .dormantCount s fun t => t = s)

/-- R3, R18, R22, R48, R63, R224, R239, R253: at a boundary the swath turns over: the causes kept for the next swath are in force,
those for the one after, the window and the once-a-swath marks begin anew; the commit of a pair gives it its data memory and timers; of
the two host writes an entry may have for one swath the unstamped one wins, whichever came first. The boundary of R63 brings the image's
L_nom, K and SYNC_OFFSET and ends BOOT in SAFE, or in HALTED by a reaction held; that SAFE comes with the boundary itself is the model's
choice (log entry 37). -/
def Obligations.BoundaryTurnsTheSwathOverAndBringsItsContributions : Prop :=
  (∀ (r : StookRaw) (s : State),
     (s.env.pll = true →
       DoesOnly [.regs, .mem, .sig, .env, .tb, .fc, .wdg, .pipe, .out, .chans, .halves, .pairs, .cribs, .boot, .recfg, .cvu,
           .sr, .gln, .pwr, .yk, .hp, .forces, .forceNext, .queue, .perf, .free] (.swathBoundary r) s fun t =>
         t.pipe.window = true ∧ t.pipe.prevBtick = s.btick ∧ t.perf = 0 ∧ t.forceNext = none ∧
         t.pipe.now ||| s.pipe.next = t.pipe.now ∧ (s.pipe.reacted = true → t.pipe.now ||| cREACTION = t.pipe.now) ∧
         ∀ p c, (s.pairs.get p).ctx = none → (s.pairs.get p).commit = some c →
           (t.pairs.get p).commit = none ∧ (t.pairs.get p).dmem = c.dmem ∧ (t.pairs.get p).timers = c.timers) ∧
     (s.env.pll = false → Does (.swathBoundary r) s fun t => t = s)) ∧
  (∀ (s : State) (prev : Nat),
     (s.turnOver prev).pipe.now = s.pipe.next ||| (if s.pipe.reacted then cREACTION else 0) ∧
     (s.turnOver prev).pipe.next = 0 ∧ (s.turnOver prev).pipe.late = false ∧ (s.turnOver prev).fc.onceSeen = [] ∧
     (s.turnOver prev).pipe.lateB = suspends (s.turnOver prev).pipe.now) ∧
  (∀ (s : State) (i : Nat) (v w : Word), i < sigCount →
     (((s.hostValue i w).updEntry i fun e => e.deposit v (s.swath + 1)).entry i).pend = some ⟨w, 1, s.swath + 1, true, true⟩ ∧
     (((s.updEntry i fun e => e.deposit v (s.swath + 1)).hostValue i w).entry i).pend = some ⟨w, 1, s.swath + 1, true, true⟩) ∧
  (∀ (r : StookRaw) (s : State) (cfg off : Word), s.env.pll = true → s.yokeMode = 0 → s.yk.apply = [] → s.yk.alignEnd = none →
     s.isBoot = true → s.recfgState ≠ 2 → s.boot.tbNext = some (cfg, off) →
     Does (.swathBoundary r) s fun t =>
       t.reg Reg.TB_CONFIG = cfg ∧ t.reg Reg.SYNC_OFFSET = off ∧ t.boot.tbNext = none ∧ t.phase = 0 ∧
       t.stook = (s.stook + 1) % 2 ^ 48 ∧ t.isBoot = false ∧ (t.isSafe = true ∨ t.isHalted = true))

/-- R65-R71, R73, R76: an edge out of its place is wild; in PULL the edges pull the swath, in LOCKED they steer the loop and their
corrections wait for the close of their window; an edge that does not come counts, and eight in a row lose the lock; in Dormant and
at a Yoke follower the loop takes no edge; SYNC_CTRL takes the fields whose codes are used. P stays within the lock range. -/
def Obligations.SyncEdgesQualifyPullLockAndGoMissing : Prop :=
  (∀ (stamp width : Nat) (s : State),
     (s.syncSrc = 0 ∨ s.followsYoke = true ∨ s.pwr.mode = 4 ∨ width < 5 ∨ (s.syncSrc = 3 ∧ width < 30) →
       ∀ falling, Does (.syncEdge stamp width falling) s fun t => t = s) ∧
     (Does (.syncEdge stamp width (!s.syncPol)) s fun t => t = s) ∧
     (s.syncSrc ≠ 0 → s.followsYoke = false → s.pwr.mode ≠ 4 → 5 ≤ width → (s.syncSrc = 3 → 30 ≤ width) →
       (s.loop = lpACQUIRE ∨ s.loop = lpFREERUN →
         (∀ a b c, s.tb.edges = [a, b, c] → s.inLockRange (stamp - a) = true →
           DoesOnly [.regs, .tb] (.syncEdge stamp width s.syncPol) s fun t =>
             t.loop = lpPULL ∧ t.trackP = (stamp - c) / 3 % 2 ^ 32 ∧ t.tb.edges = [stamp] ∧
             RegsKeep (fun r => r == Reg.SYNC_STATUS || r == Reg.SYNC_PERIOD) s t) ∧
         (s.tb.edges = [] → DoesOnly [.tb] (.syncEdge stamp width s.syncPol) s fun t => t.tb.edges = [stamp]) ∧
         (∀ a es, s.tb.edges = a :: es → es.length < 2 → s.inLockRange (stamp - a) = true →
           DoesOnly [.tb] (.syncEdge stamp width s.syncPol) s fun t => t.tb.edges = stamp :: a :: es) ∧
         (∀ a es, s.tb.edges = a :: es → s.inLockRange (stamp - a) = false →
           DoesOnly [.tb] (.syncEdge stamp width s.syncPol) s fun t => t.tb.edges = [stamp])) ∧
       (∀ a es, s.loop = lpPULL → s.tb.edges = a :: es → s.inLockRange (stamp - a) = false →
         DoesOnly [.regs, .tb] (.syncEdge stamp width s.syncPol) s fun t =>
           t.loop = lpACQUIRE ∧ t.tb.edges = [stamp] ∧ RegsKeep (fun r => r == Reg.SYNC_STATUS) s t) ∧
       (∀ i x e, nearestMark ((stamp : Int) + s.syncOffset) s.markCandidates = some (i, x) →
         e = (stamp : Int) + s.syncOffset - x →
         (s.loop = lpLOCKED → (e.natAbs > s.lNom / 4 ∨ s.tb.usedMark = some i) →
           DoesOnly faultParts (.syncEdge stamp width s.syncPol) s fun t =>
             Counted s F.SYNC_COUNTS_SYNC_WILD_CNT t ∧ Told s.swath srcSYNC kSyncWild 0xFFF t ∧ t.loop = lpLOCKED) ∧
         (s.loop = lpLOCKED → e.natAbs ≤ s.lNom / 4 → s.tb.usedMark ≠ some i →
           DoesOnly [.regs, .tb] (.syncEdge stamp width s.syncPol) s fun t =>
             t.loop = lpLOCKED ∧ t.tb.usedMark = some i ∧ t.tb.missRow = 0 ∧
             t.tb.c = s.tb.c + e / (2 ^ s.kpShift : Nat) ∧
             t.tb.held = s.tb.held ++ [(s.trackP, e / (2 ^ s.kpShift : Nat),
               max s.tick (((x : Int) + (s.lNom / 4 : Nat) - s.syncOffset).toNat))] ∧
             t.trackP = (max (((9 * s.pNomNow + 9) / 10 : Nat) : Int) (min ((s.pNomNow * 11 / 10 : Nat) : Int)
               ((s.trackP : Int) + e / (2 ^ s.kiShift : Nat)))).toNat % 2 ^ 32) ∧
         (s.loop = lpPULL → (∀ a es, s.tb.edges = a :: es → s.inLockRange (stamp - a) = true) →
           DoesOnly [.regs, .tb] (.syncEdge stamp width s.syncPol) s fun t =>
             t.tb.usedMark = some i ∧ t.tb.c = s.tb.c + e / (2 ^ s.kpShift : Nat) ∧ t.tb.edges = [stamp] ∧
             (e.natAbs ≤ 48 → 3 ≤ s.tb.good → t.loop = lpLOCKED) ∧ (48 < e.natAbs → t.loop = lpPULL ∧ t.tb.good = 0))))) ∧
  (∀ s : State,
     (s.loop = lpPULL ∨ s.loop = lpLOCKED → s.pwr.mode ≠ 4 → s.followsYoke = false →
       (s.tb.missRow < 7 → DoesOnly [.regs, .tb] .syncMissingEdge s fun t =>
         Counted s F.SYNC_COUNTS_SYNC_MISS_CNT t ∧ t.tb.missRow = s.tb.missRow + 1 ∧ t.loop = s.loop ∧
         Counted s F.SYNC_STATUS_MISSING t) ∧
       (7 ≤ s.tb.missRow → DoesOnly (.tb :: faultParts) .syncMissingEdge s fun t =>
         t.loop = lpFREERUN ∧ t.tb.edges = [] ∧ Counted s F.SYNC_COUNTS_SYNC_MISS_CNT t ∧
         (s.loop = lpLOCKED → Told s.swath srcSYNC kSyncLost 0xFFF t))) ∧
     (s.loop ≠ lpPULL → s.loop ≠ lpLOCKED → Does .syncMissingEdge s fun t => t = s) ∧
     (s.pwr.mode = 4 ∨ s.followsYoke = true → Does .syncMissingEdge s fun t => t = s) ∧
     (∀ v : Word, s.coreOn = true → DoesOnly [.regs] (.syncCtrlWrite v) s fun t =>
       RegsKeep (fun a => a == Reg.SYNC_CTRL) s t ∧
       (wbits v 11 8 ≤ 4 → t.fld F.SYNC_CTRL_KP_SHIFT = wbits v 11 8) ∧
       (4 < wbits v 11 8 → t.fld F.SYNC_CTRL_KP_SHIFT = s.fld F.SYNC_CTRL_KP_SHIFT) ∧
       (1 ≤ wbits v 7 4 → wbits v 7 4 ≤ 8 → t.fld F.SYNC_CTRL_KI_SHIFT = wbits v 7 4) ∧
       (wbits v 7 4 = 0 ∨ 8 < wbits v 7 4 → t.fld F.SYNC_CTRL_KI_SHIFT = s.fld F.SYNC_CTRL_KI_SHIFT) ∧
       t.fld F.SYNC_CTRL_SRC = wbits v 1 0 ∧ t.flag F.SYNC_CTRL_POL = wbit v 2 ∧
       t.flag F.SYNC_CTRL_OUT_EN = wbit v 3))

/-! ## Staged reconfiguration -/

/-- R26, R27, R28, R30, R32, R33, R34: a commit starts the check of a set or is rejected with its reason; the check ends in PENDING
or REJECTED; a set in hand is cancelled by key. The order of the reasons of a check is the model's (log entry 14), and so are the order of
the reasons of a commit and the stook from which the 65,536 of reason 0x09 are counted (log entry 75). -/
def Obligations.ReconfigurationSetsAreCommittedCheckedAndCancelled : Prop :=
  ∀ s : State,
    (∀ n : BitVec 16, s.coreOn = true → s.isBoot = false → s.isHalted = false → s.recfgState ≠ 1 → s.recfgState ≠ 2 →
      (0 < n.toNat → n.toNat ≤ 32768 → DoesOnly [.regs, .recfg, .yk] (.recfgCommit n) s fun t =>
        t.fld F.SYS_RECFG_STATUS_STATE = 1 ∧ t.fld F.SYS_RECFG_STATUS_REASON = 0 ∧ t.recfg.length = n.toNat ∧
        t.recfg.target = s.targetStook ∧ t.recfg.shadow = none) ∧
      (n.toNat = 0 ∨ 32768 < n.toNat → DoesOnly faultParts (.recfgCommit n) s fun t =>
        t.fld F.SYS_RECFG_STATUS_STATE = 4 ∧ t.fld F.SYS_RECFG_STATUS_REASON = 0x01 ∧ t.recfg.shadow = none ∧
        Told s.swath srcSYS kRecfgReject 0x01 t)) ∧
    (∀ n : BitVec 16, s.coreOn = true → s.isBoot = true ∨ s.isHalted = true → DoesOnly faultParts (.recfgCommit n) s fun t =>
      t.fld F.SYS_RECFG_STATUS_STATE = 4 ∧ t.fld F.SYS_RECFG_STATUS_REASON = 0x0B ∧
      (s.recfgState ≠ 1 → s.recfgState ≠ 2 → t.recfg.shadow = none) ∧ Told s.swath srcSYS kRecfgReject 0x0B t) ∧
    (∀ n : BitVec 16, s.coreOn = true → s.isBoot = false → s.isHalted = false → s.recfgState = 1 ∨ s.recfgState = 2 →
      DoesOnly faultParts (.recfgCommit n) s fun t =>
        t.fld F.SYS_RECFG_STATUS_STATE = 4 ∧ t.fld F.SYS_RECFG_STATUS_REASON = 0x0A ∧
        t.recfgState = s.recfgState ∧ t.recfg.words = s.recfg.words ∧ Told s.swath srcSYS kRecfgReject 0x0A t) ∧
    (s.coreOn = true → s.recfgState = 1 ∨ s.recfgState = 2 → DoesOnly faultParts .recfgCancel s fun t =>
      t.recfgState = 5 ∧ Told s.swath srcSYS kRecfgReject 0x20 t) ∧
    (s.recfgState ≠ 1 → s.recfgState ≠ 2 → Does .recfgCancel s fun t => t = s) ∧
    (s.recfgState ≠ 1 → Does .recfgCheckDone s fun t => t = s) ∧
    (s.recfgState = 1 →
      (∀ r, s.checkSet (s.readWords stagingBase s.recfg.length) = .error r →
        DoesOnly faultParts .recfgCheckDone s fun t =>
          t.recfgState = 4 ∧ Told s.swath srcSYS kRecfgReject r t) ∧
      (∀ c, s.checkSet (s.readWords stagingBase s.recfg.length) = .ok c →
        (s.recfg.target ≤ s.ruleStook → DoesOnly faultParts .recfgCheckDone s fun t =>
          t.recfgState = 4 ∧ Told s.swath srcSYS kRecfgReject 0x08 t) ∧
        (s.ruleStook + 65536 < s.recfg.target → DoesOnly faultParts .recfgCheckDone s fun t =>
          t.recfgState = 4 ∧ Told s.swath srcSYS kRecfgReject 0x09 t) ∧
        (s.ruleStook < s.recfg.target → s.recfg.target ≤ s.ruleStook + 65536 → s.yokeMode ≠ 0 → s.joined = true →
          s.boundariesTo s.recfg.target < 2 → DoesOnly faultParts .recfgCheckDone s fun t =>
            t.recfgState = 4 ∧ Told s.swath srcSYS kRecfgReject 0x0C t) ∧
        (s.ruleStook < s.recfg.target → s.recfg.target ≤ s.ruleStook + 65536 →
          s.yokeMode = 0 ∨ s.joined = false ∨ 2 ≤ s.boundariesTo s.recfg.target →
          DoesOnly [.regs, .recfg] .recfgCheckDone s fun t =>
            t.recfgState = 2 ∧ t.recfg.words = s.readWords stagingBase s.recfg.length ∧
            t.recfg.target = s.recfg.target)))

/-! ## The Thresher -/

/-- R83, R89, R106, R140, R143, R144, R157, R165, R166, R203, R210, R224, R306: when a fast window closes the die of a supplied half
samples its channels and latches them for its frames, the windows of a swath counted and placed by the die's own boundary and length; that
of a half without supply stands empty: the counter filter of a DI moves one step, a switch reads back with hysteresis; the
first valid frame that carries the window gives the logic die its samples, and a clamp shows and is told at its start; Thresh ends
with the value of a digital input in its entry, every fast accumulation begun again and the write window closed. Whence a die without
frames counts its boundary is the model's choice (log entry 80). -/
def Obligations.FastWindowsSampleAndThreshEndCloses : Prop :=
  (∀ (k : Nat) (w : WinSample) (s : State),
     (∀ (len opened closed : HalfIx → Nat), (∀ h, len h = if (s.half h).dnLen = 0 then s.swLen else (s.half h).dnLen) →
       (s.env.pll = false ∧ (∀ h, opened h = s.tick ∧ closed h = s.tick) ∨
         s.env.pll = true ∧ ∀ h, opened h = (s.half h).dieAt + 960 * (k - 1) ∧
           closed h = (s.half h).dieAt + (if k < windowsOf (len h) then 960 * k else len h)) →
       DoesOnly [.regs, .chans, .halves] (.fastWindowClose k w) s fun t =>
         (∀ h : HalfIx, s.env.pll = true → k = 0 ∨ windowsOf (len h) < k →
           t.half h = s.half h ∧ ∀ c ∈ chOf h, t.chan c = s.chan c) ∧
         (∀ h : HalfIx, (s.half h).inReset = true → s.env.pll = true → 1 ≤ k → k ≤ windowsOf (len h) →
           (t.half h).winOld = (s.half h).win ∧ (t.half h).win =
             some { swath := s.swath, k := k, opened := opened h, closed := closed h, chans := [], vfield := 0 }) ∧
         ∀ h : HalfIx, (s.half h).inReset = false → (s.env.pll = true → 1 ≤ k ∧ k ≤ windowsOf (len h)) →
           (s.env.pll = true → t.fld (F.FH_STATUS_AGG_CURRENT h.val) = min 255 (w.total.getD h.val 0 / 50)) ∧
           (∃ x, (t.half h).win = some x ∧ x.swath = s.swath ∧ x.k = k ∧ x.opened = opened h ∧ x.closed = closed h ∧
             x.taken = false ∧ x.chans.length = 8 ∧ x.vfield = w.vfield.getD h.val 0 ∧
             ∀ c ∈ chOf h, (x.chans.getD (c.val % 8) {}).clamp = (w.chans.getD c.val {}).clamp ∧
               (x.chans.getD (c.val % 8) {}).prim = wireCode 16 (w.chans.getD c.val {}).raw.fast ∧
               (x.chans.getD (c.val % 8) {}).bit0 =
                 (if s.func c = fDI then (t.chan c).state else (t.chan c).comp)) ∧
           (t.half h).winOld = (s.half h).win ∧
           ∀ c ∈ chOf h,
             ((w.chans.getD c.val {}).clamp = true → (t.chan c).clampLast = some (closed h)) ∧
             (∀ v : Int, v = (w.chans.getD c.val {}).io → s.func c = fDI →
               (t.chan c).filt =
                 (if v > 100 * s.chFld c (F.CH_DI_ON_TH c.val) then min ((s.chan c).filt + 1) (s.chFld c (F.CH_DI_FILT_L c.val))
                   else if v < 100 * s.chFld c (F.CH_DI_OFF_TH c.val) then (s.chan c).filt - 1 else (s.chan c).filt) ∧
               (t.chan c).state =
                 (if (t.chan c).filt = 0 then false
                   else if (t.chan c).filt = s.chFld c (F.CH_DI_FILT_L c.val) then true else (s.chan c).state)) ∧
             (∀ v : Int, v = (w.chans.getD c.val {}).io → s.isSwitch c = true →
               (t.chan c).comp = (if v * 10 > 6 * (w.vfield.getD h.val 0) then true
                 else if v * 10 < 3 * (w.vfield.getD h.val 0) then false else (s.chan c).comp))) ∧
     (s.env.pll = true → (∀ h, k = 0 ∨ windowsOf (s.dieLen h) < k) → Does (.fastWindowClose k w) s fun t => t = s)) ∧
  (∀ (h : HalfIx) (rx : Nat → ChWin → ChWin) (x : Win) (s t : State), t = s.takeWin h true rx →
     (s.half h).winOld = some x → x.taken = false → x.chans.length = 8 → s.thrRuns = true →
     ∀ c ∈ chOf h, (t.chan c).fCount = (s.chan c).fCount + 1 ∧
       (t.chan c).smp = (rx (c.val % 8) (x.chans.getD (c.val % 8) {})).smp (rx 8 x.spare) ∧
       t.flag (F.THR_NOW_CLAMP c.val) = (rx (c.val % 8) (x.chans.getD (c.val % 8) {})).clamp ∧
       ((rx (c.val % 8) (x.chans.getD (c.val % 8) {})).clamp = true → (s.chan c).clampEp = false →
         Told s.swath (srcTHR h.val) kThrClamp (faultAddr 63 c.val) t)) ∧
  (∀ s : State,
     (s.pipe.window = true →
       DoesOnly [.regs, .mem, .sig, .env, .tb, .fc, .pipe, .out, .chans, .halves, .pairs, .cribs, .boot, .recfg, .sr, .gln,
           .yk, .hp, .free] .threshEnd s fun t =>
         t.pipe.window = false ∧ t.tb.r63 = false ∧
         t.pipe.threshEnd = (if s.slowFabric then 288 else 240) + (if s.pipe.late then 192 else 0) ∧
         (s.isBoot = false → ∀ c : ChIx, (t.chan c).fCount = 0 ∧ (t.chan c).res = none ∧ (t.chan c).clamped = false) ∧
         (s.isBoot = false → s.pipe.ranPrev = true → s.forces = [] →
           ∀ c : ChIx, s.func c = fDI →
             (t.entry c.val).value =
               BitVec.ofNat 32 ((if (s.chan c).smp.bit0 then 1 else 0) + 2 * if (s.chan c).smp.bit1 then 1 else 0))) ∧
     (s.pipe.window = false → Does .threshEnd s fun t => t = s))

/-- R13, R153, R154, R160, R538: the keys of the Thresher wait for the boundary as unstamped writes, REFBUF_EN reads as written and is
dropped in Lean mode;
each key of PC_CTRL waits for the boundary beside the others, and PC_STATUS shows that one waits. -/
def Obligations.KeysWaitForTheBoundary : Prop :=
  (∀ s : State,
     (∀ c, s.coreOn = true → DoesOnly [.chans, .pipe] (.thrAtClear c) s fun t =>
       t.chan c = { s.chan c with atClear := true } ∧ OtherChKept c s t ∧ t.pipe.next = s.pipe.next ||| cUNSTAMPED) ∧
     (∀ h v, s.coreOn = true → s.flag (F.THR_REF_LEAN h.val) = false →
       DoesOnly [.regs, .halves, .pipe] (.refbufEnWrite h v) s fun t =>
       t.half h = { s.half h with refWrite := some (wbit v 0) } ∧ OtherDieKept h s t ∧
       t.flag (F.THR_REF_REFBUF_EN h.val) = wbit v 0 ∧ RegsKeep (fun a => a == Reg.THR_REF h.val) s t ∧
       t.pipe.next = s.pipe.next ||| cUNSTAMPED) ∧
     (∀ h v, s.flag (F.THR_REF_LEAN h.val) = true → Does (.refbufEnWrite h v) s fun t => t = s)) ∧
  (∀ (s : State) (i : Instr) (bit : Nat),
     ((i = .pcSnapshot ∧ bit = 0) ∨ (i = .pcClear ∧ bit = 1) ∨ (i = .pcFreeze ∧ bit = 2) ∨ (i = .pcRun ∧ bit = 3)) →
     s.coreOn = true → DoesOnly [.regs, .perf] i s fun t =>
       (∀ k, t.perf.testBit k = (s.perf.testBit k || decide (k = bit))) ∧ t.flag F.PC_STATUS_WAITING = true ∧
       RegsKeep (fun a => a == Reg.PC_STATUS) s t)

/-! ## Host port -/

/-- R353, R357, R359, R371, R374, R379, R385, R388: a port that does not answer takes nothing; a bad header or a reserved opcode is
refused with 4, a code of bench mode elsewhere and a seal without a unit with 5; a payload cut short or an abandoned transaction ends
what waits and counts. `v`: what time has brought by now is done first. Code 63 of the HP_FRAME of an abandoned transaction is the model's
choice (log entry 42). -/
def Obligations.HostTransactionsAreJudgedBeforeTheyAct : Prop :=
  ∀ s v : State, v = s.catchUp s.tick →
    (s.portAnswers = false → ∀ i op h, hostTx i = some (op, h) ∨ i = .transactionAbandon → Does i s fun t => t = s) ∧
    (s.portAnswers = true → ∀ i op h, hostTx i = some (op, h) →
      (∀ n, hostPayload i = some n → h.n ≤ n ∨ 4096 < h.n) →
      (v.headerBad op h = true → Does i s fun t => OnlyChanges portParts v t ∧
        Refused (hdrOpcode h op) 4 t ∧ Counted v F.HP_COUNTS_BAD_HEADER t ∧ t.hp.reads = v.hp.reads ∧
        t.hp.writes = v.hp.writes ∧ t.fld F.HP_LAST_ERR_ADDR = h.addr.toNat ∧ t.reg Reg.HP_LAST_ERR_SWATH = v.swath32 ∧
        (FirstOf v srcHP kHpFrame (faultAddr 4 63) → Told v.swath srcHP kHpFrame (faultAddr 4 63) t)) ∧
      (v.headerBad op h = false → op ≠ opSTAMP → (h.isSealed = true ∧ v.hostUnit = none) ∨
          (h.isSealed = false ∧ v.benchCode (hdrOpcode h op) = true) →
        Does i s fun t => OnlyChanges portParts v t ∧
          Refused (hdrOpcode h op) 5 t ∧ t.hp.reads = v.hp.reads ∧ t.hp.writes = v.hp.writes) ∧
      (hdrOpcode h op = op → v.headerBad op h = badHeader op h) ∧
      (∀ c, h.stray = some c → reservedOp c = true → v.bench = true ∨ c < 0x70#8 ∨ 0x7F#8 < c → v.headerBad op h = true)) ∧
    (s.portAnswers = true → ∀ i, (i = .transactionAbandon ∨
        ∃ op h n, hostTx i = some (op, h) ∧ hostPayload i = some n ∧ n < h.n ∧ h.n ≤ 4096) →
      Does i s fun t => OnlyChanges portParts v t ∧
        t.hp.reads = [] ∧ t.hp.sending = [] ∧ t.hp.writes = [] ∧ Counted v F.HP_COUNTS_ABORTED t ∧
        (∀ r ∈ v.hp.reads, ∀ c k j, r.latch = some (c, k, j) → (t.cribs.get c).latched = 0) ∧
        (∀ x ∈ v.hp.sending, ∀ c k j, x.latch = some (c, k, j) → (t.cribs.get c).latched = 0) ∧
        (∀ w ∈ v.hp.writes, ∀ c, w.crib = some c → t.flag (F.CRIB_STATUS_STALLED c.val) = false) ∧
        (FirstOf v srcHP kHpFrame (faultAddr 63 63) → Told v.swath srcHP kHpFrame (faultAddr 63 63) t))

/-- R311, R360, R361, R367, R373, R374: STATUS answers at once; a READ whose fetch fits answers its words, its stamp pair first if it
asks for one, when its device part has been sent; while the write window is open it waits, and a SNAP waits for the next swath; one
that HSEL_N cuts off is abandoned. -/
def Obligations.StatusReadAndSnapAnswerOrWait : Prop :=
  ∀ (s u : State) (h : HostHdr), u = s.takeLane →
    (Accepts s opSTATUS h →
      (h.cut = none → DoesOnly [.regs, .hp] (.status h) s fun t =>
        Responded opSTATUS 0 h.n ([s.reg Reg.DEV_ID, s.statusWord, s.swath32, s.reg Reg.HP_LAST_ERR].take h.n) t) ∧
      (h.cut.isSome = true → DoesOnly portParts (.status h) s fun t =>
        t.hp.resp = s.hp.resp ∧ Counted s F.HP_COUNTS_ABORTED t)) ∧
    (Accepts s opREAD h → s.readDenied h = false → (∀ c, cribWindow h.addr.toNat = some c → s.popWindow c = false) →
      (s.readSince opREAD h.n = none → (∀ p, (s.pairs.get p).due = []) → s.hp.sending = [] → s.btick + s.swLen < 2 ^ 64 →
        ((hdrAddrs h opREAD).length = h.n → (∀ a ∈ hdrAddrs h opREAD, (u.hostRead a).1 = 0) →
          (∀ k, DoesOnly [.regs, .recfg, .yk, .hp] (.read h ⟨[], 0, k, none⟩) s fun t =>
            Responded opREAD 0 h.n ((if h.snap then s.stampPair else []) ++
              (hdrAddrs h opREAD).map fun a => (u.hostRead a).2) t ∧ t.hp.sending = []) ∧
          (∀ ticks k, 0 < ticks → DoesOnly [.regs, .hp] (.read h ⟨[], ticks, k, none⟩) s fun t =>
            ∃ x, t.hp.sending = [x] ∧ x.op = opREAD.toNat ∧ x.hdr = h ∧ x.code = 0 ∧ x.words = h.n ∧ x.cut = none ∧
              x.latch = none ∧ x.endAt = s.tick + s.fetchTicks h.n + ticks ∧ t.hp.resp = s.hp.resp ∧
              x.body = (if h.snap then s.stampPair else []) ++ (hdrAddrs h opREAD).map fun a => (u.hostRead a).2)) ∧
        ((hdrAddrs h opREAD).length = h.n → (∃ a ∈ hdrAddrs h opREAD, (u.hostRead a).1 = 8) →
          (∀ a ∈ hdrAddrs h opREAD, (u.hostRead a).1 = 0 ∨ (u.hostRead a).1 = 8) →
          ∀ k, DoesOnly [.regs, .hp] (.read h ⟨[], 0, k, none⟩) s fun t =>
            t.fld F.HP_STATUS_LAST_CODE = 8 ∧ t.hp.short = false) ∧
        (∀ k sealed, DoesOnly portParts (.read h ⟨[], 0, k, some sealed⟩) s fun t =>
          t.hp.resp = s.hp.resp ∧ Counted s F.HP_COUNTS_ABORTED t)) ∧
      (s.pipe.window = true → ∀ f, DoesOnly [.hp] (.read h f) s fun t =>
        ∃ r, t.hp = { u.hp with reads := s.hp.reads ++ [r] } ∧ r.hdr = h ∧ r.since = s.swath ∧ r.latch = none)) ∧
    (Accepts s opREAD h → s.readDenied h = true → ∀ f, DoesOnly portParts (.read h f) s fun t => Refused opREAD 5 t) ∧
    (Accepts s opSNAP h → s.readDenied h = false → (∀ c, cribWindow h.addr.toNat = some c → s.popWindow c = false) →
      ∀ f, DoesOnly [.hp] (.snap h f) s fun t =>
        ∃ r, t.hp = { u.hp with reads := s.hp.reads ++ [r] } ∧ r.hdr = h ∧ r.since = s.swath + 1 ∧ r.latch = none) ∧
    (∀ x : Sending, s.hp.sending = [x] → (∀ p, (s.pairs.get p).due = []) →
      (s.tick < x.endAt → x.hdr.isSealed = false ∨ s.tick < x.sealAt → s.catchUp s.tick = s) ∧
      (x.endAt ≤ s.tick → x.cut = none → x.latch = none → x.hdr.isSealed = false → x.sealW = none →
        x.code = 0 ∨ x.code = 8 → x.off = false →
        OnlyChanges [.regs, .recfg, .yk, .hp] s (s.catchUp s.tick) ∧ (s.catchUp s.tick).hp.sending = [] ∧
        Responded (BitVec.ofNat 8 x.op) x.code x.words x.body (s.catchUp s.tick)))

/-- R313, R314, R315, R316, R319, R362, R374: a POP takes whole entries from CONS of a host-consumed Crib, those published before its
tick, and moves CONS over them; cut off by HSEL_N it moves nothing; elsewhere it is refused; a WRITE to a push window publishes its
entries, is held under STALL without room, and is refused on a pop window. -/
def Obligations.CribsArePoppedAndPushedThroughTheirWindows : Prop :=
  ∀ (s : State) (h : HostHdr),
    (∀ c j, Accepts s opPOP h → cribWindow h.addr.toNat = some c → s.popWindow c = true → s.readSince opPOP h.n = none →
      (∀ p, (s.pairs.get p).due = []) → s.hp.sending = [] → s.btick + s.swLen < 2 ^ 64 → j = s.popCount c h.n →
      (∀ k, DoesOnly [.regs, .cribs, .hp] (.pop h ⟨[], 0, k, none⟩) s fun t =>
        Responded opPOP 0 (s.ringWords c (s.cons c.val) j).length
          (BitVec.ofNat 32 (s.entryWords c.val * 2 ^ 24 + j) :: s.ringWords c (s.cons c.val) j) t ∧
        t.reg (Reg.CRIB_CONS c.val) = s.reg (Reg.CRIB_CONS c.val) + BitVec.ofNat 32 j ∧
        (t.cribs.get c).latched = 0 ∧ t.reg (Reg.CRIB_PROD c.val) = s.reg (Reg.CRIB_PROD c.val) ∧
        ∀ d, d ≠ c → t.cribs.get d = s.cribs.get d) ∧
      (j ≤ h.n / s.entryWords c.val ∧ j ≤ s.occupancy c.val) ∧
      (∀ ticks k, 0 < ticks → DoesOnly [.regs, .cribs, .hp] (.pop h ⟨[], ticks, k, none⟩) s fun t =>
        t.reg (Reg.CRIB_CONS c.val) = s.reg (Reg.CRIB_CONS c.val) ∧ (t.cribs.get c).latched = j ∧
        t.hp.resp = s.hp.resp ∧ ∃ x, t.hp.sending = [x] ∧ x.latch = some (c, s.reg (Reg.CRIB_CONS c.val), j)) ∧
      (∀ k sealed, DoesOnly portParts (.pop h ⟨[], 0, k, some sealed⟩) s fun t =>
        t.reg (Reg.CRIB_CONS c.val) = s.reg (Reg.CRIB_CONS c.val) ∧ (t.cribs.get c).latched = 0 ∧
        t.hp.resp = s.hp.resp ∧ Counted s F.HP_COUNTS_ABORTED t)) ∧
    (Accepts s opPOP h → (∀ c, cribWindow h.addr.toNat = some c → s.popWindow c = false) → ∀ f,
      DoesOnly portParts (.pop h f) s fun t => Refused opPOP 5 t) ∧
    (∀ c ws, Accepts s opWRITE h → cribWindow h.addr.toNat = some c → ws.length = h.n → s.debugRefused h ws = none →
      (s.popWindow c = true → DoesOnly portParts (.write h ws) s fun t => Refused opWRITE 5 t) ∧
      (s.popWindow c = false → s.pushWindow c = true → s.fld (F.CRIB_CFG_POLICY c.val) = 3 →
        s.freePlaces c < ws.length / s.entryWords c.val → DoesOnly [.regs, .hp] (.write h ws) s fun t =>
          t.flag (F.CRIB_STATUS_STALLED c.val) = true ∧ t.hp.reads = s.hp.reads ∧
          ∃ w, t.hp.writes = s.hp.writes ++ [w] ∧ w.crib = some c ∧ w.words = ws ∧
            w.limit = s.tick + 48 * s.fld F.HP_BUSY_LIMIT_LIMIT) ∧
      (s.popWindow c = false → s.pushWindow c = true → (s.cribs.get c).written = [] →
        ws.length / s.entryWords c.val ≤ s.freePlaces c →
        DoesOnly [.regs, .mem, .cribs, .hp] (.write h ws) s fun t =>
          Responded opWRITE 0 (ws.length / s.entryWords c.val * s.entryWords c.val) [] t ∧
          t.reg (Reg.CRIB_PROD c.val) = s.reg (Reg.CRIB_PROD c.val) + BitVec.ofNat 32 (ws.length / s.entryWords c.val) ∧
          t.reg (Reg.CRIB_CONS c.val) = s.reg (Reg.CRIB_CONS c.val)))

/-- R293, R294, R367, R369, R371, R372, R288: a WRITE of one word takes effect as the access of its address says and answers that
status; a debug write outside bench mode is refused whole. -/
def Obligations.WritesTakeEffectAtTheirAddress : Prop :=
  ∀ (s u : State) (h : HostHdr) (v : Word) (ws : List Word), Accepts s opWRITE h → u = s.takeLane →
    (h.n = 1 → cribWindow h.addr.toNat = none → s.debugDenied h.addr.toNat v = none →
      Does (.write h [v]) s fun t =>
        OnlyChanges portParts (u.hostWrite false h.addr.toNat v).2 t ∧
        Responded opWRITE (u.hostWrite false h.addr.toNat v).1
          (if (u.hostWrite false h.addr.toNat v).1 = 0 then 1 else 0) [] t) ∧
    (h.n = 1 → ∀ a, a = h.addr.toNat → generalBase ≤ a → s.debugDenied a v = none →
      DoesOnly [.regs, .mem, .hp] (.write h [v]) s fun t =>
        t.readMem a = v ∧ ∀ b, (b < a ∨ a + 4 ≤ b) → t.readByte b = s.readByte b) ∧
    (h.n = 1 → ∀ i, h.addr.toNat = signalBase + 32 * i → i < 131072 → s.isHostEntry i = true →
      DoesOnly [.regs, .sig, .pipe, .hp] (.write h [v]) s fun t =>
        (t.entry i).pend = some ⟨v, 1, s.swath + 1, true, true⟩ ∧ t.pipe.next = s.pipe.next ||| cUNSTAMPED ∧
        ∀ j, j ≠ i → t.entry j = s.entry j) ∧
    (∀ p, ws.length = h.n → s.debugRefused h ws = some p → DoesOnly portParts (.write h ws) s fun t =>
      Refused opWRITE 5 t ∧ Told s.swath (if p < 4 then srcBND p else 0x24 + p % 4) kHaltRefused (faultAddr 63 63) t)

/-- R22, R308, R375, R376: a stamped write waits in the queue for its target swath, is late for a swath under way or past, finds the
queue full above 64; once Thresh has ended what is due becomes pending copies, where no unstamped write for the same swath stands. -/
def Obligations.StampedWritesQueueAndDeposit : Prop :=
  ∀ (s : State) (h : HostHdr) (stamp : BitVec 64) (ws : List Word) (target : Nat), target = (stamp.extractLsb' 8 48).toNat →
    (Accepts s opSTAMP h → crc8Of stamp = stamp.extractLsb' 0 8 → target ≤ s.swath + 65536 → ws.length = h.n →
      (hdrAddrs h opSTAMP).length = h.n →
      (∀ a ∈ hdrAddrs h opSTAMP, ∃ i, a = signalBase + 32 * i ∧ i < 131072 ∧ s.isHostEntry i = true) →
      (target ≤ s.swath → DoesOnly portParts (.stampWrite h stamp ws) s fun t =>
        Responded opSTAMP 3 0 [] t ∧ Counted s F.HP_COUNTS_LATE t ∧ t.queue = s.queue) ∧
      (s.swath + 1 < target → 64 < s.queue.length + h.n → DoesOnly portParts (.stampWrite h stamp ws) s fun t =>
        Responded opSTAMP 9 0 [] t ∧ Counted s F.HP_COUNTS2_QUEUE_FULL t ∧ t.queue = s.queue) ∧
      (s.swath + 1 < target → s.queue.length + h.n ≤ 64 → DoesOnly [.regs, .hp, .queue] (.stampWrite h stamp ws) s fun t =>
        Responded opSTAMP 0 h.n [] t ∧
        t.queue = s.queue ++ ((hdrAddrs h opSTAMP).zip ws).map fun x => ⟨(x.1 - signalBase) / 32, x.2, target⟩)) ∧
    (s.pipe.window = true → Does .stampDeposit s fun t => t = s) ∧
    (s.pipe.window = false →
      (DoesOnly (.queue :: faultParts) .stampDeposit s fun t =>
        ∀ q, q ∈ t.queue ↔ q ∈ s.queue ∧ s.swath + 1 < q.target) ∧
      ((∀ q ∈ s.queue, q.target ≤ s.swath + 1 → s.isHostEntry q.index = true) →
        DoesOnly [.sig, .queue] .stampDeposit s fun t =>
          ∀ q ∈ s.queue, q.target ≤ s.swath + 1 →
            (∀ q' ∈ s.queue, q'.target ≤ s.swath + 1 → q'.index = q.index → q' = q) → (s.entry q.index).pend = none →
            (t.entry q.index).pend = some ⟨q.value, 1, q.target, false, true⟩) ∧
      ((∀ q ∈ s.queue, q.target ≤ s.swath + 1 → s.isHostEntry q.index = true) →
        DoesOnly [.sig, .queue] .stampDeposit s fun t =>
          ∀ i d, (s.entry i).pend = some d → d.unstamped = true →
            (∀ q ∈ s.queue, q.target ≤ s.swath + 1 → q.index = i → q.target = d.target) → (t.entry i).pend = some d))

/-- R342, R355, R363, R366, R499, R507: NVM_STAGE takes its data at STAGE_NEXT, or waits while the flash programs, a page of the journal
is due or PFAIL_N is asserted; FORCE and RELEASE change the forces of the next boundary in bench mode; each is refused with 5 where its conditions fail. -/
def Obligations.StagingDataAndForces : Prop :=
  ∀ (s : State) (h : HostHdr) (ws : List Word),
    (Accepts s opNVM h → ws.length = h.n →
      (s.nvmDenied h = true → DoesOnly portParts (.nvmStage h ws) s fun t => Refused opNVM 5 t ∧ t.hp.writes = s.hp.writes) ∧
      (s.nvmDenied h = false → s.boot.programming = true ∨ s.env.pfail = true ∨ s.pageDue = true → DoesOnly [.hp] (.nvmStage h ws) s fun t =>
        t.hp.reads = s.hp.reads ∧ t.hp.resp = s.hp.resp ∧
        ∃ w, t.hp.writes = s.hp.writes ++ [w] ∧ w.words = ws ∧ w.limit = s.tick + 9600000) ∧
      (s.nvmDenied h = false → s.boot.programming = false → s.env.pfail = false → s.pageDue = false → h.addr.toNat + 4 * h.n ≤ 0x400000 →
        DoesOnly [.regs, .boot, .hp] (.nvmStage h ws) s fun t =>
          Responded opNVM 0 h.n [] t ∧ t.boot.programming = true ∧
          t.fld F.STAGE_NEXT_NEXT = h.addr.toNat + 4 * h.n ∧
          t.boot.slots.getD (1 - s.slotRun) [] = s.boot.slots.getD (1 - s.slotRun) [] ++ ws ∧
          t.boot.slots.getD s.slotRun [] = s.boot.slots.getD s.slotRun [])) ∧
    (Accepts s opFORCE h → ∀ i v, h.n = 1 → forceEntries opFORCE h = some [i] →
      (s.bench = true → (putForce s.forcesDue (i, v)).length ≤ 256 →
        DoesOnly [.regs, .pipe, .hp, .forceNext] (.force h [v]) s fun t =>
          t.forceNext = some (s.forcesDue.filter (fun f => f.1 != i) ++ [(i, v)]) ∧ Responded opFORCE 0 1 [] t ∧
          t.pipe.next = s.pipe.next ||| cUNSTAMPED) ∧
      (s.bench = false → DoesOnly portParts (.force h [v]) s fun t => Refused opFORCE 5 t)) ∧
    (Accepts s opRELEASE h → ∀ is, forceEntries opRELEASE h = some is →
      (s.bench = true → DoesOnly [.regs, .pipe, .hp, .forceNext] (.release h) s fun t =>
        t.forceNext = some (s.forcesDue.filter fun f => !is.contains f.1) ∧ Responded opRELEASE 0 h.n [] t ∧
        t.pipe.next = s.pipe.next ||| cUNSTAMPED) ∧
      (s.bench = false → DoesOnly portParts (.release h) s fun t => Refused opRELEASE 5 t))

/-- R13, R14, R16, R17, R40, R288, R348, R369, R370, R548, R556: a register without behaviour of its own takes the written bits of its
access code and keeps the others, a W1C bit set in the same tick too; HP_BUSY_LIMIT drops 0; a Wide lead passes a write of its
follower's registers on; nothing happens at an address without a register or in a block that is off, and a debug write outside
bench mode is told; HP_CFG takes FLOW, and LANE unless it is 3; VIO_HIGH follows VIO above 2.5 V, and the model stops beyond the
absolute maximum ratings, where no behaviour is stated. -/
def Obligations.RegisterWritesFollowTheirAccessCodeAndVioShows : Prop :=
  (∀ (s : State) (a : BitVec 24) (v : Word),
     (∀ p, s.debugDenied a.toNat v = some p → DoesOnly faultParts (.registerWrite a v) s fun t =>
       Told s.swath (if p < 4 then srcBND p else 0x24 + p % 4) kHaltRefused (faultAddr 63 63) t) ∧
     (s.coreOn = true → s.debugDenied a.toNat v = none → a.toNat < signalBase → s.blockOff a.toNat = false → bankHole a.toNat = false →
       (∀ r, s.twinOf a.toNat = none → regRow? (canonAddr a.toNat) = some r →
         s.actWrite false (canonAddr a.toNat) v = none →
         DoesOnly [.regs] (.registerWrite a v) s fun t =>
           RegsKeep (fun b => b == canonAddr a.toNat) s t ∧
           ∀ n < 32, (t.reg (canonAddr a.toNat)).getLsbD n =
             (if r.w1c.testBit n && v.getLsbD n && !(s.freshBits (canonAddr a.toNat)).getLsbD n then false
               else if r.wmask.testBit n then v.getLsbD n else (s.reg (canonAddr a.toNat)).getLsbD n)) ∧
       (∀ f r, s.twinOf a.toNat = some f → regRow? (canonAddr f) = some r → r.acc ≠ .ro → r.acc ≠ .rc →
         DoesOnly [.pipe, .yk] (.registerWrite a v) s fun t =>
           t.yk.forward = s.yk.forward ++ [(canonAddr f, v, false)] ∧ t.pipe.next = s.pipe.next ||| cUNSTAMPED) ∧
       (s.twinOf a.toNat = none → regRow? (canonAddr a.toNat) = none → Does (.registerWrite a v) s fun t => t = s)) ∧
     (s.debugDenied a.toNat v = none → signalBase ≤ a.toNat ∨ s.blockOff a.toNat = true ∨ bankHole a.toNat = true →
       Does (.registerWrite a v) s fun t => t = s) ∧
     (a.toNat = Reg.HP_BUSY_LIMIT →
       (wbits v 15 0 = 0 → Does (.registerWrite a v) s fun t => t = s) ∧
       (s.coreOn = true → wbits v 15 0 ≠ 0 → DoesOnly [.regs] (.registerWrite a v) s fun t =>
         t.reg Reg.HP_BUSY_LIMIT = v &&& 0xFFFF#32 ∧ RegsKeep (fun b => b == Reg.HP_BUSY_LIMIT) s t)) ∧
     (s.coreOn = true → DoesOnly [.regs] (.hpCfgWrite v) s fun t =>
       t.fld F.HP_CFG_FLOW = wbits v 2 2 ∧ (wbits v 1 0 ≠ 3 → t.fld F.HP_CFG_LANE = wbits v 1 0) ∧
       (wbits v 1 0 = 3 → t.fld F.HP_CFG_LANE = s.fld F.HP_CFG_LANE) ∧
       t.flag F.HP_CFG_MEMBER = s.flag F.HP_CFG_MEMBER ∧ RegsKeep (fun b => b == Reg.HP_CFG) s t)) ∧
  (∀ (mv : Nat) (s : State),
     (mv ≤ 4000 → DoesOnly [.regs, .env] (.vioLevelChange mv) s fun t =>
       t.env = { s.env with vioMv := mv } ∧ (t.flag F.HP_CFG_VIO_HIGH = true ↔ 2500 < mv) ∧
       RegsKeep (fun a => a == Reg.HP_CFG) s t) ∧
     (4000 < mv → exec (.vioLevelChange mv) s = .fault .beyondRatings))

/-! ## Chain member -/

/-- R341, R380, R381, R383, R384, R420: the member loads the prepared bale, or BUSY, at the falling edge of HSEL_N and judges what
it sampled at the rising one; a flashless member takes delivered words at the offset it expects, ends a delivery with its
length and starts again after an abort. -/
def Obligations.MemberBalesAreJudgedAndImagesDelivered : Prop :=
  (∀ s : State,
     (s.asMember = true → s.env.hselLow = false → DoesOnly [.env, .hp] .memberBaleLoad s fun t =>
       t.env = { s.env with hselLow := true } ∧
       (∀ r, s.hp.readyAt = some r → r ≤ s.tick → t.hp = { s.takeLane.hp with shift := s.hp.bale }) ∧
       (∀ r, s.hp.readyAt = some r → s.tick < r → t.hp = { s.takeLane.hp with shift := s.memberBale 0xB5 [] }) ∧
       (s.hp.readyAt = none → t.hp = { s.takeLane.hp with shift := s.memberBale 0xB5 [] })) ∧
     (s.asMember = false ∨ s.env.hselLow = true → Does .memberBaleLoad s fun t => t = s) ∧
     (∀ bits, s.asMember = false ∨ s.env.hselLow = false → Does (.memberCommandBale bits) s fun t => t = s) ∧
     (∀ bits, s.asMember = true → s.env.hselLow = true →
       (DoesOnly (.boot :: .queue :: portParts) (.memberCommandBale bits) s fun t =>
         t.env.hselLow = false ∧
         t.hp.hdo = (List.replicate s.retimer false ++ s.hp.shift ++ bits).take bits.length) ∧
       (s.pipe.window = true → bits.length < s.hlen → DoesOnly [.env, .hp] (.memberCommandBale bits) s fun t =>
         t.hp.reject = some (5, 0) ∧ t.hp.prepare = some s.swath) ∧
       (∀ b, s.pipe.window = true → s.hlen ≤ bits.length → b = parseBale s.hlen (bits.drop (bits.length - s.hlen)) →
         (b.crcOk = false → DoesOnly [.env, .hp] (.memberCommandBale bits) s fun t => t.hp.reject = some (1, b.seq)) ∧
         (b.crcOk = true → b.state ≠ 0xA0 → DoesOnly [.env, .hp] (.memberCommandBale bits) s fun t =>
           t.hp.reject = some (4, b.seq)) ∧
         (b.crcOk = true → b.state = 0xA0 → (b.cls, b.layout) ≠ s.memberClass →
           DoesOnly [.env, .hp] (.memberCommandBale bits) s fun t => t.hp.reject = some (2, b.seq)) ∧
         (b.crcOk = true → b.state = 0xA0 → (b.cls, b.layout) = s.memberClass → b.cls ≠ 0 →
           s.swath + 1 < s.baleTarget b.seq →
           s.queue.length + (s.hostEntries.zip (payloadWords b.payload)).length ≤ 64 →
           DoesOnly [.regs, .env, .hp, .queue] (.memberCommandBale bits) s fun t =>
             t.hp.reject = s.hp.reject ∧
             t.queue = s.queue ++ (s.hostEntries.zip (payloadWords b.payload)).map fun x =>
               ⟨x.1, x.2, s.baleTarget b.seq⟩)))) ∧
  (∀ s : State,
     (Does .deliveryNop s fun t => t = s) ∧
     (∀ (offset : BitVec 19) (ws : List Word), s.flashless = true → s.hp.dstate ≤ 1 → offset.toNat = s.boot.stage.length →
       offset.toNat < 262144 → DoesOnly [.boot, .hp] (.deliveryData offset ws) s fun t =>
         t.hp = { s.hp with dstate := 1 } ∧
         ∃ add, t.boot = { s.boot with stage := (s.boot.stage ++ add).take 262144 } ∧ add.length = 28 ∧
           ∀ j < 28, add.getD j 0#32 = ws.getD j 0#32) ∧
     (∀ (offset : BitVec 19) (ws : List Word), s.flashless = false ∨ 1 < s.hp.dstate ∨ offset.toNat ≠ s.boot.stage.length ∨
         262144 ≤ offset.toNat →
       Does (.deliveryData offset ws) s fun t => t = s) ∧
     (∀ length : BitVec 19, s.flashless = true → s.hp.dstate ≤ 1 → DoesOnly [.boot, .hp] (.deliveryDone length) s fun t =>
       t.hp = { s.hp with dstate := 2 } ∧ t.boot = { s.boot with stage := s.boot.stage.take length.toNat }) ∧
     (∀ length : BitVec 19, s.flashless = false ∨ 1 < s.hp.dstate → Does (.deliveryDone length) s fun t => t = s) ∧
     (s.flashless = true → DoesOnly [.boot, .hp] .deliveryAbort s fun t =>
       t.hp = { s.hp with dstate := 0 } ∧ t.boot = { s.boot with stage := [] }) ∧
     (s.flashless = false → Does .deliveryAbort s fun t => t = s))

/-! ## Check-value units, the scrub and the counters -/

/-- R391, R393, R394, R395, R398: a scan starts at a boundary that is due, publishes its CRC, checks it and judges the alive value;
its key waits or is lost; a sealed write sets the session of the host's unit and ends its synchronisation. -/
def Obligations.CheckValueUnitsScanAndJudge : Prop :=
  ∀ (u : UnitIx) (s : State),
    (s.fld (F.CVU_CFG_MODE u.val) = 1 → (s.cvu.get u).scan = none → s.tick = s.btick →
      ((s.fld (F.CVU_TIMING_PERIOD u.val) = 0 ∧ ∃ n, (s.cvu.get u).key = some n ∧ n < s.swath) ∨
        (0 < s.fld (F.CVU_TIMING_PERIOD u.val) ∧ s.ruleSwath % s.fld (F.CVU_TIMING_PERIOD u.val) = 0)) →
      DoesOnly [.regs, .cvu] (.cvuScanStart u) s fun t =>
        (t.cvu.get u).scan = some s.swath ∧ (t.cvu.get u).done = 0 ∧ (t.cvu.get u).key = none ∧
        t.flag (F.CVU_ALIVE_SCANNING u.val) = true ∧ (∀ x, x ≠ u → t.cvu.get x = s.cvu.get x) ∧
        RegsKeep (fun a => a == Reg.CVU_ALIVE u.val) s t) ∧
    (s.fld (F.CVU_CFG_MODE u.val) ≠ 1 ∨ (s.cvu.get u).scan.isSome = true ∨ s.tick ≠ s.btick →
      Does (.cvuScanStart u) s fun t => t = s) ∧
    ((s.cvu.get u).scan = none ∨ s.tick ≠ s.btick → Does (.cvuScanPublish u) s fun t => t = s) ∧
    (∀ n v, (s.cvu.get u).scan = some n → n + s.fld (F.CVU_TIMING_D u.val) ≤ s.swath → s.tick = s.btick →
      s.cvuLength u ≤ (s.cvu.get u).done → v = (s.cvu.get u).alive.toNat % 65536 →
      DoesOnly (.cvu :: faultParts) (.cvuScanPublish u) s fun t =>
        (t.cvu.get u).scan = none ∧ t.flag (F.CVU_ALIVE_SCANNING u.val) = false ∧
        t.reg (Reg.CVU_RESULT u.val) = (s.cvu.get u).crc ^^^ 0xFFFFFFFF#32 ∧
        (s.flag (F.CVU_CFG_CHECK u.val) = true → (s.cvu.get u).crc ^^^ 0xFFFFFFFF#32 ≠ (s.cvu.get u).last →
          Counted s (F.CVU_COUNTS_CRC u.val) t ∧ Told s.swath (srcCVU u.val) kCvuCrc (cvuAddr 1 0xFF) t) ∧
        (s.flag (F.CVU_CFG_ALIVE_EN u.val) = true →
          (s.flag (F.CVU_ALIVE_SYNC u.val) = false ∨ v = s.fld (F.CVU_ALIVE_EXPECT u.val) →
            t.flag (F.CVU_ALIVE_SYNC u.val) = true ∧ t.fld (F.CVU_ALIVE_EXPECT u.val) = (v + 1) % 65536) ∧
          (s.flag (F.CVU_ALIVE_SYNC u.val) = true → v ≠ s.fld (F.CVU_ALIVE_EXPECT u.val) →
            t.fld (F.CVU_ALIVE_EXPECT u.val) = s.fld (F.CVU_ALIVE_EXPECT u.val) ∧
            ((v + 1) % 65536 = s.fld (F.CVU_ALIVE_EXPECT u.val) → Counted s (F.CVU_COUNTS_REPEAT u.val) t ∧
              Told s.swath (srcCVU u.val) kAliveRepeat (cvuAddr 1 0xFF) t) ∧
            ((v + 1) % 65536 ≠ s.fld (F.CVU_ALIVE_EXPECT u.val) → Counted s (F.CVU_COUNTS_SKIP u.val) t ∧
              Told s.swath (srcCVU u.val) kAliveSkip (cvuAddr 1 0xFF) t)))) ∧
    (∀ n k, (s.cvu.get u).scan = some n → n + s.fld (F.CVU_TIMING_D u.val) ≤ s.swath → s.tick = s.btick →
      (s.cvu.get u).done = 0 → (s.cvu.get u).crc = 0xFFFFFFFF#32 → s.flag (F.CVU_CFG_CHECK u.val) = false →
      s.cvuLength u = 4 * k → Does (.cvuScanPublish u) s fun t =>
        t.reg (Reg.CVU_RESULT u.val) =
          crc32cWords ((List.range k).map fun j => s.granaryWord (s.cvuStart u + 4 * j))) ∧
    (s.fld (F.CVU_CFG_MODE u.val) = 1 → s.fld (F.CVU_TIMING_PERIOD u.val) = 0 →
      (s.coreOn = true → (s.cvu.get u).scan = none → (s.cvu.get u).key = none → DoesOnly [.pipe, .cvu] (.cvuScanKey u) s fun t =>
        t.cvu.get u = { s.cvu.get u with key := some s.swath } ∧ t.pipe.next = s.pipe.next ||| cUNSTAMPED) ∧
      (s.coreOn = true → (s.cvu.get u).scan.isSome = true ∨ (s.cvu.get u).key.isSome = true → DoesOnly [.regs, .pipe] (.cvuScanKey u) s fun t =>
        Counted s (F.CVU_COUNTS_TRIG_LOST u.val) t ∧ t.pipe.next = s.pipe.next ||| cUNSTAMPED)) ∧
    (s.fld (F.CVU_CFG_MODE u.val) ≠ 1 ∨ s.fld (F.CVU_TIMING_PERIOD u.val) ≠ 0 → Does (.cvuScanKey u) s fun t => t = s) ∧
    (∀ id, s.coreOn = true → s.fld (F.CVU_CFG_MODE u.val) = 2 → DoesOnly [.regs] (.cvuSessionWrite u id true) s fun t =>
      t.reg (Reg.CVU_SESSION u.val) = id ∧ t.flag (F.CVU_ALIVE_SYNC u.val) = false ∧
      t.fld (F.CVU_ALIVE_EXPECT u.val) = 0 ∧ t.reg (Reg.CVU_DEV_ALIVE u.val) = 0#32) ∧
    (∀ id is, is = false ∨ s.fld (F.CVU_CFG_MODE u.val) ≠ 2 → Does (.cvuSessionWrite u id is) s fun t => t = s)

/-- R300, R301, R302: the scrub reads word after word and counts its passes; a corrected error counts, one that the read of another
block met too, an uncorrectable one shows its address and is told by its area; it stands still in Dormant. -/
def Obligations.ScrubWalksAndReportsErrors : Prop :=
  ∀ s : State,
    (s.pwr.mode ≠ 4 → s.env.vin = true →
      (DoesOnly [.regs, .scrub] (.scrubSlot ⟨0, []⟩) s fun t =>
        (s.scrub + 1 < 0x100000 → t.scrub = s.scrub + 1 ∧ t.regs = s.regs) ∧
        (0x100000 ≤ s.scrub + 1 → t.scrub = 0 ∧ t.reg Reg.GRN_SCRUB = s.reg Reg.GRN_SCRUB + 1)) ∧
      (DoesOnly (.scrub :: faultParts) (.scrubSlot ⟨1, []⟩) s fun t =>
        Counted s F.GRN_ECC_CORR t ∧
        (∀ a, a = faultAddr (areaOf (0x800000 + 8 * s.scrub)) (bankOf (0x800000 + 8 * s.scrub)) →
          FirstOf s srcGRN kGrnEccCorr a → Told s.swath srcGRN kGrnEccCorr a t)) ∧
      (∀ a : BitVec 24, 0x800000 ≤ a.toNat → DoesOnly (.scrub :: faultParts) (.scrubSlot ⟨0, [(a, false)]⟩) s fun t =>
        Counted s F.GRN_ECC_CORR t ∧
        (FirstOf s srcGRN kGrnEccCorr (faultAddr (areaOf a.toNat) (bankOf a.toNat)) →
          Told s.swath srcGRN kGrnEccCorr (faultAddr (areaOf a.toNat) (bankOf a.toNat)) t)) ∧
      (DoesOnly (.scrub :: .mem :: .sr :: .gln :: .free :: faultParts) (.scrubSlot ⟨2, []⟩) s fun t =>
        t.fld F.GRN_ECC_ADDR_AREA = areaOf (0x800000 + 8 * s.scrub) ∧
        (areaOf (0x800000 + 8 * s.scrub) ∈ [0, 3, 5] → t.mem = s.mem ∧ Told s.swath srcGRN kGrnUncorr
          (faultAddr (areaOf (0x800000 + 8 * s.scrub)) (bankOf (0x800000 + 8 * s.scrub))) t) ∧
        (areaOf (0x800000 + 8 * s.scrub) ∉ [0, 3, 5] → Counted s F.GRN_ECC_UNCORR t ∧ Told s.swath srcGRN kGrnDataLost
          (faultAddr (areaOf (0x800000 + 8 * s.scrub)) (bankOf (0x800000 + 8 * s.scrub))) t) ∧
        (areaOf (0x800000 + 8 * s.scrub) = 6 → t.readMem (0x800000 + 8 * s.scrub) = 0#32 ∧
          t.readMem (0x800000 + 8 * s.scrub + 4) = 0#32))) ∧
    (s.pwr.mode = 4 ∨ s.env.vin = false → ∀ x, Does (.scrubSlot x) s fun t => t = s)

/-! ## Spare slice, sequencer and fingerprints -/

/-- R174, R177, R178, R179, R184, R185, R187, R188, R189, R190: the sequencer starts its entry, or its waiting test section, at a
stook boundary of a half whose field die takes its commands and received a frame that could carry one in the stook before; a shadow
comparison, a calibration and a test-DAC result are judged against their limits; a trigger is taken, latched or lost, and a key ends
a park. Model's choices in it: what SELF (OP 5, as which the reserved values 6 to 15 act, R188) runs over, the ranges in use of the half
(log entry 32); the reference of a calibration's step 4 (log entry 31). -/
def Obligations.SequencerStartsEntriesAndVerdictsAreJudged : Prop :=
  ∀ (h : HalfIx) (s : State),
    (s.phase ≠ 0 ∨ s.tick ≠ s.btick ∨ (s.seqOf h).running = true ∨ s.fld (F.SEQ_STATUS_STATE h.val) = 0 ∨
        s.fld (F.SEQ_STATUS_STATE h.val) = 3 ∨ s.fld (F.SEQ_CFG_LEN h.val) = 0 ∨ (s.half h).loaded = false ∨
        (s.half h).kept.isEmpty = false ∨ s.framesRun h = false ∨ (s.half h).mailOk = false ∨
        (((s.seqOf h).wait = false ∨ (s.seqOf h).fresh = true) ∧ s.tick < (s.seqOf h).due) →
      Does (.seqEntryStart h) s fun t => t = s) ∧
    (s.phase = 0 → s.tick = s.btick → (s.seqOf h).running = false → s.fld (F.SEQ_STATUS_STATE h.val) ≠ 0 →
      s.fld (F.SEQ_STATUS_STATE h.val) ≠ 3 → (s.half h).loaded = true → (s.half h).kept.isEmpty = true →
      s.framesRun h = true → (s.half h).mailOk = true → s.fld (F.SEQ_CFG_LEN h.val) ≠ 0 → ∀ e c, e < 256 → s.seqCh h e = c →
      (((s.seqOf h).wait = false ∨ (s.seqOf h).fresh = true) ∧ (s.seqOf h).due ≤ s.tick ∧ (s.seqOf h).next = e) ∨
        ((s.seqOf h).wait = true ∧ (s.seqOf h).fresh = false ∧ s.fld (F.SEQ_CFG_BG_LEN h.val) = e) →
      ((s.seqOf h).wait = true → (s.seqOf h).fresh = false → s.seqOp h e ≠ 3 →
        DoesOnly [.regs, .halves] (.seqEntryStart h) s fun t =>
          (t.seqOf h).test = true ∧ (t.seqOf h).wait = false ∧ (t.seqOf h).resume = (s.seqOf h).next ∧
          t.seqEntry h = e ∧ t.fld (F.SEQ_STATUS_STATE h.val) = 2) ∧
      (5 ≤ s.seqOp h e → DoesOnly [.regs, .halves] (.seqEntryStart h) s fun t =>
        (t.seqOf h).running = true ∧ (t.seqOf h).stage = .selfZero ∧ (t.seqOf h).selfLeft = s.rangesInUse h ∧
        t.fld (F.SPR_STATUS_MODE h.val) = 0 ∧ t.seqEntry h = e) ∧
      (s.seqOp h e = 0 → DoesOnly [.regs, .halves] (.seqEntryStart h) s fun t =>
        (t.seqOf h).running = true ∧ (t.seqOf h).stage = .nop ∧ t.seqEntry h = e ∧
        t.fld (F.SPR_STATUS_MODE h.val) = 0) ∧
      (s.seqOp h e = 1 ∨ s.seqOp h e = 2 ∨ (s.seqOp h e = 3 ∧ s.tdacRefused c = false) →
        s.setOld h (s.func c, s.fld (F.CH_CFG_OPT c.val)) = false →
        DoesOnly [.regs, .halves] (.seqEntryStart h) s fun t =>
          (t.seqOf h).running = true ∧ (t.seqOf h).stage = .shadow ∧ t.fld (F.SEQ_STATUS_STEP h.val) = 1 ∧
          t.fld (F.SPR_STATUS_MODE h.val) = 1 ∧ t.fld (F.SPR_STATUS_TARGET h.val) = c.val ∧ t.seqEntry h = e) ∧
      (s.seqOp h e = 1 ∨ s.seqOp h e = 2 ∨ (s.seqOp h e = 3 ∧ s.tdacRefused c = false) →
        s.setOld h (s.func c, s.fld (F.CH_CFG_OPT c.val)) = true →
        DoesOnly [.regs, .halves] (.seqEntryStart h) s fun t =>
          (t.seqOf h).running = true ∧ (t.seqOf h).stage = .selfZero ∧ (t.seqOf h).after = .shadow ∧ (t.seqOf h).selfLeft = [(s.func c, s.fld (F.CH_CFG_OPT c.val))]) ∧
      (s.seqOp h e = 3 → s.tdacRefused c = true → DoesOnly faultParts (.seqEntryStart h) s fun t =>
        (t.seqOf h).running = false ∧ Counted s (F.SEQ_COUNTS_REFUSED h.val) t ∧
        Told s.swath (srcTHR h.val) kTestRefused (faultAddr 63 c.val) t) ∧
      (s.seqOp h e = 4 → DoesOnly [.regs, .halves] (.seqEntryStart h) s fun t =>
        (t.seqOf h).stage = .int ∧ t.fld (F.SPR_STATUS_MODE h.val) = 3 ∧
        t.fld (F.SPR_STATUS_CODE h.val) = s.seqArg h e)) ∧
    ((s.seqOf h).cmp = none →
      (Does (.shadowVerdict h) s fun t => t = s) ∧ Does (.step4Verdict h) s fun t => t = s) ∧
    (∀ c d, (s.seqOf h).cmp = some (c, 1, some d) →
      (d.natAbs < 8389 → DoesOnly [.regs, .halves] (.shadowVerdict h) s fun t =>
        t.seqOf h = { s.seqOf h with cmp := none, unjudged := 0 }) ∧
      (8389 ≤ d.natAbs → DoesOnly faultParts (.shadowVerdict h) s fun t =>
        t.seqOf h = { s.seqOf h with cmp := none, unjudged := 0 } ∧
        Told s.swath (srcTHR h.val) kShadowMismatch (faultAddr 1 c) t)) ∧
    (∀ c, (s.seqOf h).cmp = some (c, 1, none) → DoesOnly [.regs, .halves] (.shadowVerdict h) s fun t =>
      (t.seqOf h).unjudged = (s.seqOf h).unjudged + 1 ∧ (t.seqOf h).cmp = none ∧
      (16 ≤ (s.seqOf h).unjudged + 1 → (t.seqOf h).ending = true ∧ (t.seqOf h).skip = true ∧
        Counted s (F.SEQ_COUNTS_SKIPPED h.val) t) ∧
      ((s.seqOf h).unjudged + 1 < 16 → (t.seqOf h).stage = if (s.seqOf h).stage = .selfZero then .selfZero else .shadow)) ∧
    (∀ c, (s.seqOf h).cmp = some (c, 4, none) → DoesOnly [.regs, .halves] (.step4Verdict h) s fun t =>
      (t.seqOf h).unjudged = (s.seqOf h).unjudged + 1 ∧ (t.seqOf h).cmp = none ∧
      (16 ≤ (s.seqOf h).unjudged + 1 → (t.seqOf h).ending = true ∧ (t.seqOf h).skip = true ∧
        Counted s (F.SEQ_COUNTS_SKIPPED h.val) t) ∧
      ((s.seqOf h).unjudged + 1 < 16 → (t.seqOf h).stage = if (s.seqOf h).stage = .selfZero then .selfZero else .check)) ∧
    (∀ c d, (s.seqOf h).cmp = some (c, 4, some d) →
      (d.natAbs ≤ 1677 → DoesOnly [.regs, .chans, .halves] (.step4Verdict h) s fun t =>
        (t.chan (s.target h)).good = (s.chan (s.target h)).coefs ∧ (t.seqOf h).ending = true ∧
        ((s.seqOf h).attempt ≠ 0 → t.flag (F.SPR_CHSTAT_UNCAL (s.target h).val) = false ∧
          t.fld (F.SPR_CHSTAT_AGE (s.target h).val) = 0) ∧ OtherChKept (s.target h) s t) ∧
      (1677 < d.natAbs → (s.seqOf h).attempt < 2 → DoesOnly faultParts (.step4Verdict h) s fun t =>
        (t.seqOf h).redo = true ∧ (t.seqOf h).attempt = (s.seqOf h).attempt + 1 ∧
        (8389 ≤ d.natAbs → Told s.swath (srcTHR h.val) kShadowMismatch (faultAddr 4 (s.target h).val) t)) ∧
      (1677 < d.natAbs → 2 ≤ (s.seqOf h).attempt → DoesOnly faultParts (.step4Verdict h) s fun t =>
        t.fld (F.SEQ_STATUS_STATE h.val) = 3 ∧ t.fld (F.SEQ_STATUS_STEP h.val) = 0 ∧
        t.fld (F.SPR_STATUS_MODE h.val) = 4 ∧
        t.flag (F.SPR_CHSTAT_PARKED (s.target h).val) = true ∧
        Told s.swath (srcTHR h.val) kCalFail (faultAddr 63 (s.target h).val) t)) ∧
    ((s.seqOf h).dacRes = none → Does (.tdacCheck h) s fun t => t = s) ∧
    (∀ c code want, (s.seqOf h).dacRes = some (c, code, want) →
      ((code - want).natAbs < 8389 → DoesOnly [.halves] (.tdacCheck h) s fun t => (t.seqOf h).dacRes = none) ∧
      (8389 ≤ (code - want).natAbs → DoesOnly faultParts (.tdacCheck h) s fun t =>
        (t.seqOf h).dacRes = none ∧ Told s.swath (srcTHR h.val) kTdacFail (faultAddr 63 c) t)) ∧
    (∀ lost, lost = (decide (s.fld (F.SEQ_CFG_LEN h.val) ≤ s.fld (F.SEQ_CFG_BG_LEN h.val)) ||
        decide (s.fld (F.SEQ_STATUS_STATE h.val) = 3) ||
        (((s.seqOf h).test || (s.seqOf h).wait) && s.flag (F.SEQ_STATUS_PENDING h.val))) →
      s.coreOn = true → DoesOnly [.regs, .pipe, .halves] (.seqGo h) s fun t =>
        t.pipe.next = s.pipe.next ||| cUNSTAMPED ∧ OtherDieKept h s t ∧
        (lost = true → t.half h = s.half h ∧ Counted s (F.SEQ_COUNTS_TRIG_LOST h.val) t) ∧
        (lost = false → (s.seqOf h).test = false → (s.seqOf h).wait = false → (t.seqOf h).wait = true) ∧
        (lost = false → ((s.seqOf h).test || (s.seqOf h).wait) = true → t.flag (F.SEQ_STATUS_PENDING h.val) = true)) ∧
    (s.coreOn = true → s.fld (F.SEQ_STATUS_STATE h.val) = 3 → DoesOnly [.pipe, .halves] (.sprParkEnd h) s fun t =>
      t.seqOf h = { s.seqOf h with ending := true } ∧ OtherDieKept h s t ∧ t.pipe.next = s.pipe.next ||| cUNSTAMPED) ∧
    (s.fld (F.SEQ_STATUS_STATE h.val) ≠ 3 ∨ s.coreOn = false → Does (.sprParkEnd h) s fun t => t = s) ∧
    (s.coreOn = false → Does (.seqGo h) s fun t => t = s)

/-- R195-R200, R510: a capture of 256 samples ends with its flags and features, or without features at a low supply; the holding features
follow from the fast bank, and a capture outside its limits raises PART_CHANGED. A part registered while the capture ran takes no part in
the comparison. -/
def Obligations.FingerprintsAreFormedAndCompared : Prop :=
  ∀ (c : ChIx) (s : State),
    ((s.chan c).capture = none → Does (.fpCaptureDone c) s fun t => t = s) ∧
    (∀ k, (s.chan c).capture = some k → k.samples.length < 256 → Does (.fpCaptureDone c) s fun t => t = s) ∧
    (∀ k, (s.chan c).capture = some k → 256 ≤ k.samples.length →
      DoesOnly [.regs, .chans, .sr, .free] (.fpCaptureDone c) s fun t =>
        (t.chan c).capture = none ∧ OtherChKept c s t ∧
        t.fld (F.FP_STAT_CAPTURES c.val) = (s.fld (F.FP_STAT_CAPTURES c.val) + 1) % 65536 ∧
        t.flag (F.FP_STAT_TRUNC c.val) = false ∧ t.flag (F.FP_STAT_LIMITED c.val) = k.limitedAt.isSome ∧
        t.flag (F.FP_STAT_NO_BASE c.val) = (s.baseline c).isNone ∧
        (k.lowv = true → k.energise = true → (t.chan c).holdFrom = none) ∧
        (k.lowv = true → t.flag (F.FP_STAT_LOWV c.val) = true ∧ t.reg (Reg.FP_L0 c.val) = s.reg (Reg.FP_L0 c.val) ∧
          t.reg (Reg.FP_PULL c.val) = s.reg (Reg.FP_PULL c.val) ∧
          t.reg (Reg.FP_DROP c.val) = s.reg (Reg.FP_DROP c.val)) ∧
        (k.lowv = false → k.energise = true → 64000 ≤ sum8 k.v → k.limitedAt = none →
          (k.dip (s.dipH c) = none → t.flag (F.FP_STAT_NO_DIP c.val) = true ∧ t.reg (Reg.FP_PULL c.val) = 0#32) ∧
          ∀ j, k.dip (s.dipH c) = some j → t.fld (F.FP_PULL_T_PULL c.val) = min (k.us j) 65535 ∧
            t.flag (F.FP_STAT_NO_DIP c.val) = false) ∧
        (k.lowv = false → k.energise = false →
          (∀ j, 1 ≤ j → j < k.samples.length → -2000 < k.v j → (∀ i, 1 ≤ i → i < j → k.v i ≤ -2000) →
            t.fld (F.FP_DROP_T_DROP c.val) = min (k.us j) 65535 ∧ t.flag (F.FP_STAT_NO_DROP c.val) = false) ∧
          ((∀ i, 1 ≤ i → i < k.samples.length → k.v i ≤ -2000) → t.flag (F.FP_STAT_NO_DROP c.val) = true))) ∧
    ((s.chan c).holdFrom = none → Does (.fpHoldFeatures c) s fun t => t = s) ∧
    (∀ t0, (s.chan c).holdFrom = some t0 →
      (s.pipe.prevBtick < t0 ∨ s.pipe.window = true ∨ s.fld (F.THR_FB_CNT_COUNT c.val) = 0 →
        Does (.fpHoldFeatures c) s fun t => t = s) ∧
      (t0 ≤ s.pipe.prevBtick → s.pipe.window = false → s.fld (F.THR_FB_CNT_COUNT c.val) ≠ 0 →
        ∀ sum iuA vmV hot den : Int,
        sum = sx 40 (wbits (s.reg (Reg.THR_FB_SUM_HI c.val)) 7 0 * 2 ^ 32 + (s.reg (Reg.THR_FB_SUM_LO c.val)).toNat) →
        iuA = roundDiv (sum * 4000000) (32768 * s.fld (F.THR_FB_CNT_COUNT c.val)) →
        vmV = roundDiv (sx 16 (s.fld (F.THR_FB_SEC_SEC c.val)) * 48000) 32768 →
        hot = roundDiv (vmV * 1000000) iuA → den = 10000000 + 393 * (s.fpTemp c - 2000) →
        DoesOnly (.chans :: .sr :: .free :: faultParts) (.fpHoldFeatures c) s fun t =>
          (t.chan c).holdFrom = none ∧ OtherChKept c s t ∧
          t.fld (F.FP_HOLD_I_HOLD c.val) = uOf 16 (roundDiv iuA 100) ∧ t.fld (F.FP_HOLD_V_HOLD c.val) = uOf 16 vmV ∧
          (0 < iuA → (t.chan c).rHot = some hot.toNat ∧
            (0 < den → t.reg (Reg.FP_R20 c.val) = wInt (roundDiv (hot * 10000000) den))) ∧
          ∀ is, is = s.slotsFrom c.val (s.chan c).capFrom → (∀ i ∈ is, (s.sr.slots.get i).adopt = false) →
          ((s.chan c).l0ok = true → s.baseline c = none → t.flag (F.FP_STAT_NO_BASE c.val) = true) ∧
          (∀ b, (s.chan c).l0ok = true → s.baseOf is = some b →
            (t.flag (F.FP_STAT_OUT c.val) = true ↔
              8 * b.1 < (((t.reg (Reg.FP_R20 c.val)).toNat : Int) - b.1).natAbs * 100 ∨
              15 * b.2.1 < (((s.reg (Reg.FP_L0 c.val)).toNat : Int) - b.2.1).natAbs * 100) ∧
            (t.flag (F.FP_STAT_OUT c.val) = true → (∃ i ∈ is, (s.sr.slots.get i).out = false) →
              Told s.swath (srcTHR (halfOf c).val) kPartChanged (faultAddr 63 c.val) t ∧
              ∀ i ∈ is, (t.sr.slots.get i).doubt = true))))

/-! ## Gleaner -/

/-- R403-R424, R426: a scan that is due starts at its tick or is late; it lands as a broken chain, an enumeration or one bale per
position; a fold places what landed, or STALE, in the entries of its positions; a class image is read and its digest
checked. Model's choices in it (log entry 38): CHAIN_CHANGED only where the chain's length was known before, the fold where it was not, and
which positions fail in the scan that finds a change, those above the N_f in force before it; no fold in HALTED. -/
def Obligations.GleanerScansLandAndFold : Prop :=
  ∀ (k : Fin 32) (s : State),
    (∀ grdy, s.scanning = false ∨ s.scanDue k.val s.swath = false ∨ (s.gln.segs.get k).scan.isSome = true →
      Does (.gleanerScanStart k grdy) s fun t => t = s) ∧
    (s.scanning = true → s.scanDue k.val s.swath = true → (s.gln.segs.get k).scan = none →
      (DoesOnly [.regs, .gln] (.gleanerScanStart k true) s fun t =>
        t.reg (Reg.GLN_SEG_START k.val) = BitVec.ofNat 32 (s.scanStart k.val s.swath) ∧
        t.fld F.GLN_STATUS_STATE = 1 ∧ t.fld F.GLN_STATUS_SEG = k.val ∧
        t.reg (Reg.GLN_SEG_SCANS k.val) = s.reg (Reg.GLN_SEG_SCANS k.val) + 1 ∧
        (t.gln.segs.get k).scan = some s.swath ∧ (t.gln.segs.get k).started = true ∧
        (t.gln.segs.get k).members = (if (s.gln.segs.get k).afresh then [] else (s.gln.segs.get k).members) ∧
        ((s.gln.segs.get k).afresh = false → t.gln.sent = s.commandStream k s.swath (!(s.gln.segs.get k).started))) ∧
      (DoesOnly (.gln :: faultParts) (.gleanerScanStart k false) s fun t =>
        (t.gln.segs.get k).scan = none ∧ (t.gln.segs.get k).land = some (s.swath, true, true) ∧
        Counted s (F.GLN_SEG_COUNTS_SCAN_LATE k.val) t ∧
        Told s.swath (srcGLN k.val) kScanLate (glnAddr k.val 0) t ∧
        ∀ j, 1 ≤ j → j ≤ s.segN k.val → (t.member k j).data = none ∧
          (t.member k j).fails = if (s.gln.segs.get k).afresh then 1 else min 15 ((s.member k j).fails + 1))) ∧
    (∀ bs strobe ecc, (s.gln.segs.get k).scan = none → Does (.scanLanding k bs strobe ecc) s fun t => t = s) ∧
    (∀ n bs ecc, (s.gln.segs.get k).scan = some n →
      (DoesOnly (.cvu :: .gln :: faultParts) (.scanLanding k bs 1 ecc) s fun t =>
        BrokenChain s k t ∧ (t.gln.segs.get k).scan = none ∧ (t.gln.segs.get k).land = some (n, false, !(s.gln.segs.get k).scanFirst)) ∧
      (DoesOnly (.cvu :: .gln :: faultParts) (.scanLanding k bs 2 ecc) s fun t =>
        (t.gln.segs.get k).scan = none ∧ (t.gln.segs.get k).land = some (n, true, true) ∧
        Told s.swath (srcGLN k.val) kScanLate (glnAddr k.val 0) t ∧
        ∀ j, 1 ≤ j → j ≤ s.segN k.val → BaleFailed s k j t) ∧
      ((s.gln.segs.get k).scanEnum = true → s.enumerate k.val bs = none →
        DoesOnly (.cvu :: .gln :: faultParts) (.scanLanding k bs 0 ecc) s fun t =>
          BrokenChain s k t ∧ t.fld (F.GLN_SEG_STATE_FOUND k.val) = 0 ∧
          (t.gln.segs.get k).land = some (n, false, !(s.gln.segs.get k).scanFirst)) ∧
      (∀ l nf, (s.gln.segs.get k).scanEnum = true → s.enumerate k.val bs = some (l, nf) → nf < 256 → l < 2048 →
        DoesOnly (.cvu :: .gln :: faultParts) (.scanLanding k bs 0 ecc) s fun t =>
          t.fld (F.GLN_SEG_STATE_LAT k.val) = l ∧ t.fld (F.GLN_SEG_STATE_FOUND k.val) = nf ∧
          t.fld (F.GLN_SEG_STATE_STATE k.val) = 2 ∧ (t.gln.segs.get k).scan = none ∧
          (t.gln.segs.get k).known = true ∧
          ((s.gln.segs.get k).scanFirst = true → (t.gln.segs.get k).land = some (n, false, false)) ∧
          ((s.gln.segs.get k).known = true →
            (l, nf) ≠ (s.fld (F.GLN_SEG_STATE_LAT k.val), s.fld (F.GLN_SEG_STATE_FOUND k.val)) →
            (t.gln.segs.get k).land = some (n, false, false) ∧
            (∀ j, 1 ≤ j → j ≤ s.segN k.val → (t.member k j).data = none ∧
              (s.fld (F.GLN_SEG_STATE_FOUND k.val) < j → BaleFailed s k j t)) ∧
            Told s.swath (srcGLN k.val) kChainChanged (glnAddr k.val 0) t) ∧
          ((s.gln.segs.get k).scanFirst = false → (s.gln.segs.get k).known = false ∨
            (l, nf) = (s.fld (F.GLN_SEG_STATE_LAT k.val), s.fld (F.GLN_SEG_STATE_FOUND k.val)) →
            (t.gln.segs.get k).land = some (n, false, true))) ∧
      ((s.gln.segs.get k).scanEnum = false →
        echoAt bs (s.fld (F.GLN_SEG_STATE_LAT k.val) +
          s.fld (F.GLN_SEG_STATE_FOUND k.val) * (s.segHlen k.val + s.segR k.val)) = false →
        DoesOnly (.cvu :: .gln :: faultParts) (.scanLanding k bs 0 ecc) s fun t => BrokenChain s k t) ∧
      (∀ strobe a, DoesOnly (.cvu :: .gln :: faultParts) (.scanLanding k bs strobe (some a)) s fun t =>
        Counted s F.GRN_ECC_UNCORR t ∧
        Told s.swath srcGRN kGrnDataLost (faultAddr 2 (bankOf (0xE00000 + a % 0x100000))) t ∧
        ∀ j, 1 ≤ j → j ≤ s.segN k.val → (t.member k j).data = none) ∧
      ((s.gln.segs.get k).scanEnum = false →
        echoAt bs (s.fld (F.GLN_SEG_STATE_LAT k.val) +
          s.fld (F.GLN_SEG_STATE_FOUND k.val) * (s.segHlen k.val + s.segR k.val)) = true →
        DoesOnly (.cvu :: .gln :: faultParts) (.scanLanding k bs 0 none) s fun t =>
          (t.gln.segs.get k).scan = none ∧ (t.gln.segs.get k).land = some (n, false, true) ∧
          (t.gln.segs.get k).lastRun = some n ∧ t.fld (F.GLN_SEG_STATE_STATE k.val) = 2 ∧
          ∀ j b, 1 ≤ j → j ≤ s.segN k.val →
            b = parseBale (s.segHlen k.val) (s.responseBits k.val bs (s.fld (F.GLN_SEG_STATE_LAT k.val))
              (s.fld (F.GLN_SEG_STATE_FOUND k.val)) j) →
            (s.fld (F.GLN_SEG_STATE_FOUND k.val) < j ∨ b.crcOk = false → BaleFailed s k j t) ∧
            (∀ d, j ≤ s.fld (F.GLN_SEG_STATE_FOUND k.val) → b.crcOk = true → b.state = 0xA0 → b.cls ≠ 0 →
              s.descFor k.val j b.cls b.layout = some d → (s.member k j).lost = false →
              (t.member k j).state = 1 ∧ (t.member k j).fails = 0 ∧ (t.member k j).cls = b.cls ∧
              (t.member k j).layout = b.layout ∧
              ∃ vs qs, (t.member k j).data = some (vs, qs) ∧ vs.length = d.vals ∧
                ∀ i < d.vals, vs.getD i 0#32 = BitVec.ofNat 32 (natOfBits ((b.payload.drop (32 * i)).take 32))))) ∧
    (∀ blk ticks, (s.gln.segs.get k).land = none → Does (.foldBlock k blk ticks) s fun t => t = s) ∧
    (∀ n l f blk ticks last, (s.gln.segs.get k).land = some (n, l, f) → last = (s.foldN k.val s.swath).getD 0 →
      (n + 1 ≠ s.swath ∨ last ≤ 32 * blk ∨ s.glnOn = false → Does (.foldBlock k blk ticks) s fun t => t = s) ∧
      (n + 1 = s.swath → 32 * blk < last → s.glnOn = true → f = true →
        DoesOnly [.regs, .sig, .gln] (.foldBlock k blk ticks) s fun t =>
          ∀ j, 32 * blk < j → j ≤ 32 * blk + 32 → j ≤ last → (t.member k j).data = none ∧
            ((s.sig.map fun x => x.1).Nodup → ∀ i ix, ((s.runOf k.val j).take (s.foldCount k j))[i]? = some ix →
              (∀ vs qs, (s.member k j).data = some (vs, qs) → (t.entry ix).pend = some ⟨vs.getD i 0#32,
                withValid ((qs.getD i 0 &&& 0x3FFE) ||| qb qMEMBER true), s.swath + 1, false, true⟩) ∧
              ((s.member k j).data = none → (t.entry ix).pend = some ⟨(s.readEntry ix).value,
                withBits (s.readEntry ix).qual (qb qSTALE true), s.swath + 1, false, true⟩))) ∧
      (n + 1 = s.swath → 32 * blk < last → s.glnOn = true → f = false →
        DoesOnly [.regs] (.foldBlock k blk ticks) s fun t => t.swath = s.swath)) ∧
    (∀ pos, s.deliverEntry k.val pos = none → Does (.classImageRead k pos) s fun t => t = s) ∧
    (∀ pos i e, s.deliverEntry k.val pos = some i → s.gln.read.any (fun r => r.1 == i) = false → s.glnOn = true →
      s.gln.classes[i]? = some e →
      (imageDigest (s.flashWords s.slotRun (e.offset / 4) (e.length / 4)) = e.digest →
        DoesOnly [.gln] (.classImageRead k pos) s fun t => t.gln = { s.gln with read := (i, true) :: s.gln.read }) ∧
      (imageDigest (s.flashWords s.slotRun (e.offset / 4) (e.length / 4)) ≠ e.digest →
        DoesOnly (.gln :: faultParts) (.classImageRead k pos) s fun t =>
          t.gln = { s.gln with read := (i, false) :: s.gln.read } ∧
          Told s.swath (srcGLN k.val) kClassDigest (glnAddr k.val pos) t))

/-! ## Yoke -/

/-- R432, R433, R436, R437, R439, R442: a join starts, is retried and is refused after 40 swaths; a link frame that is not valid is
counted and discarded, a valid one is a sign of the link, and its HELLO or its part of the block is taken. Model's choices in it: the
words of a HELLO stand in the model's own order (log entry 10); a HELLO at a joined device ends the pair there too (log entry 82). -/
def Obligations.YokeJoinsAndTakesLinkFrames : Prop :=
  ∀ s : State,
    (s.yokeOn = true → s.isSafe = true ∨ s.isArmed = true → s.fld F.YK_STATUS_STATE = 0 ∨ s.fld F.YK_STATUS_STATE = 6 →
      DoesOnly [.regs, .yk] .joinStart s fun t =>
        t.fld F.YK_STATUS_STATE = 1 ∧ t.fld F.YK_STATUS_REASON = s.fld F.YK_STATUS_REASON ∧ t.yk.helloAt = some s.swath ∧
        t.yk.hello = none ∧ t.yk.confirmed = false) ∧
    (s.yokeOn = false ∨ (s.isSafe = false ∧ s.isArmed = false) ∨
        (s.fld F.YK_STATUS_STATE ≠ 0 ∧ s.fld F.YK_STATUS_STATE ≠ 6) → Does .joinStart s fun t => t = s) ∧
    (s.coreOn = true → s.imageYoke ≠ 0 → s.glnOn = true → s.fld F.YK_STATUS_STATE = 5 → DoesOnly [.regs, .sig, .yk] .joinRetry s fun t =>
      t.fld F.YK_STATUS_STATE = 1 ∧ t.flag F.YK_STATUS_CLAIM = false ∧ t.yk.helloAt = some s.swath ∧
      t.yokeMode = s.imageYoke ∧ ∀ i < 16, (t.entry (16 + i)).src = srcPartner i) ∧
    (s.coreOn = false ∨ s.imageYoke = 0 ∨ s.glnOn = false ∨ s.fld F.YK_STATUS_STATE ≠ 5 → Does .joinRetry s fun t => t = s) ∧
    (s.yk.helloAt = none → Does .joinTimeout s fun t => t = s) ∧
    (∀ n, s.yk.helloAt = some n → s.swath < n + 40 → Does .joinTimeout s fun t => t = s) ∧
    (∀ n r, s.yk.helloAt = some n → n + 40 ≤ s.swath → 1 ≤ s.fld F.YK_STATUS_STATE → s.fld F.YK_STATUS_STATE ≤ 3 →
      r = (if s.flag F.YK_STATUS_LINK_OK then 7 else 1) → DoesOnly faultParts .joinTimeout s fun t =>
        t.fld F.YK_STATUS_STATE = 5 ∧ t.fld F.YK_STATUS_REASON = r ∧ t.flag F.YK_STATUS_CLAIM = true ∧
        t.yk.helloAt = none ∧ t.yokeMode = 0 ∧ t.env.yfltOut = (s.env.yfltOut && s.fc.haltReact) ∧ (∀ i < 16, t.entry (16 + i) = {}) ∧ Told s.swath srcYK kYokeMismatch (faultAddr 63 r) t) ∧
    (∀ slot rx arrive, s.yokeOn = false → Does (.yokeFrame slot rx arrive) s fun t => t = s) ∧
    (∀ slot rx arrive, s.yokeOn = true → (∀ ws, rx = some ws → yokeValid slot ws = false) →
      ((slot ≠ 0 ∨ s.joined = false ∨ s.boot.lead = true) → DoesOnly [.regs, .yk] (.yokeFrame slot rx arrive) s fun t =>
        t.yk = { s.yk with rxBad := s.yk.rxBad + 1 } ∧ Counted s F.YK_COUNTS_INVALID t ∧
        RegsKeep (fun a => a == Reg.YK_COUNTS) s t) ∧
      (slot = 0 → s.joined = true → s.boot.lead = false → s.yk.slot0Bad = 0 →
        DoesOnly [.regs, .yk] (.yokeFrame slot rx arrive) s fun t => t.yk.slot0Bad = 1 ∧ t.joined = true) ∧
      (slot = 0 → s.joined = true → s.boot.lead = false → 0 < s.yk.slot0Bad →
        DoesOnly faultParts (.yokeFrame slot rx arrive) s fun t =>
          t.fld F.YK_STATUS_STATE = 6 ∧ Told s.swath srcYK kYokeAlign (faultAddr 63 63) t)) ∧
    (∀ slot ws arrive, s.yokeOn = true → yokeValid slot ws = true → slot ≠ 0 →
      ((s.awaitBeat (wbit (ws.getD 0 0#32) 19 || wbit (ws.getD 0 0#32) 18)).beatMissing = true →
        DoesOnly faultParts (.yokeFrame slot (some ws) arrive) s fun t =>
          Told s.swath srcYK kYokePath (faultAddr 63 0) t) ∧
      (wbit (ws.getD 0 0#32) 19 = false → (s.awaitBeat (wbit (ws.getD 0 0#32) 18)).beatMissing = false →
        (wbits (ws.getD 0 0#32) 23 20 = 3 ∨ wbits (ws.getD 0 0#32) 23 20 = 2 →
          DoesOnly [.regs, .yk] (.yokeFrame slot (some ws) arrive) s fun t =>
            t.yk.lastFrame = some s.tick ∧ t.yk.life = s.yk.life ∧ t.flag F.YK_STATUS_LINK_OK = true ∧
            t.flag F.YK_STATUS_PARTNER_READY = wbit (ws.getD 0 0#32) 18 ∧
            (s.joined = true → wbits (ws.getD 0 0#32) 23 20 = 2 →
              t.yk.rx = s.yk.rx ++ [(slot, (ws.drop 3).take 44)]) ∧
            (s.joined = false ∨ wbits (ws.getD 0 0#32) 23 20 = 3 → t.yk.rx = s.yk.rx)) ∧
        (wbits (ws.getD 0 0#32) 23 20 = 1 → wbits (ws.getD 3 0#32) 31 24 = ykHELLO → s.fld F.YK_STATUS_STATE = 1 →
          ((parseHello ((ws.drop 3).take 44)).follower ≠ s.boot.lead →
            DoesOnly faultParts (.yokeFrame slot (some ws) arrive) s fun t =>
              t.fld F.YK_STATUS_STATE = 5 ∧ t.fld F.YK_STATUS_REASON = 2 ∧
              Told s.swath srcYK kYokeMismatch (faultAddr 63 2) t) ∧
          (s.judgeHello (parseHello ((ws.drop 3).take 44)) = 0 →
            DoesOnly [.regs, .yk] (.yokeFrame slot (some ws) arrive) s fun t =>
              t.fld F.YK_STATUS_STATE = 2 ∧ t.yk.hello = some (parseHello ((ws.drop 3).take 44)))) ∧
        (wbits (ws.getD 0 0#32) 23 20 = 1 → wbits (ws.getD 3 0#32) 31 24 = ykHELLO → s.joined = true → s.yk.releasing = false →
          DoesOnly faultParts (.yokeFrame slot (some ws) arrive) s fun t =>
            t.fld F.YK_STATUS_STATE = 6 ∧ Told s.swath srcYK kYokeLost (faultAddr 63 63) t) ∧
        (wbits (ws.getD 0 0#32) 23 20 = 1 → wbits (ws.getD 3 0#32) 31 24 = ykECHO → s.fld F.YK_STATUS_STATE = 2 →
          s.boot.lead = true → DoesOnly [.regs, .yk] (.yokeFrame slot (some ws) arrive) s fun t =>
            t.yk.echoIn = some arrive ∧ t.fld F.YK_STATUS_STATE = 2) ∧
        (wbits (ws.getD 0 0#32) 23 20 = 1 → wbits (ws.getD 3 0#32) 31 24 = ykALIGN → s.fld F.YK_STATUS_STATE = 2 →
          s.boot.lead = false →
          (s.isSafe = true → DoesOnly [.regs, .yk] (.yokeFrame slot (some ws) arrive) s fun t =>
            t.yk.aligning = true ∧ t.yk.base = some ((ws.getD 5 0#32).toNat + 2 ^ 32 * wbits (ws.getD 6 0#32) 15 0,
              (ws.getD 7 0#32).toNat + 2 ^ 32 * wbits (ws.getD 8 0#32) 15 0, (ws.getD 9 0#32).toNat) ∧
            ∀ e, s.yk.echoAt = some e → t.reg Reg.YK_DELAY =
              BitVec.ofNat 32 ((arrive - e - (ws.getD 4 0#32).toNat) / 2 % 65536)) ∧
          (s.isSafe = false → DoesOnly faultParts (.yokeFrame slot (some ws) arrive) s fun t =>
            t.fld F.YK_STATUS_STATE = 5 ∧ t.fld F.YK_STATUS_REASON = 9 ∧
            Told s.swath srcYK kYokeMismatch (faultAddr 63 9) t)) ∧
        (wbits (ws.getD 0 0#32) 23 20 = 1 → wbits (ws.getD 3 0#32) 31 24 = ykCONFIRM →
          (wbits (ws.getD 3 0#32) 7 0 = 0 →
            s.fld F.YK_STATUS_STATE = 3 ∨ (s.fld F.YK_STATUS_STATE = 2 ∧ s.boot.lead = true ∧ s.digestsEqual = true) →
            DoesOnly [.regs, .yk] (.yokeFrame slot (some ws) arrive) s fun t =>
              t.yk.confirmed = true ∧ t.fld F.YK_STATUS_STATE = 3) ∧
          (wbits (ws.getD 3 0#32) 7 0 = 0 → s.fld F.YK_STATUS_STATE = 2 → s.boot.lead = true → s.digestsEqual = false →
            DoesOnly faultParts (.yokeFrame slot (some ws) arrive) s fun t =>
              t.fld F.YK_STATUS_STATE = 5 ∧ t.fld F.YK_STATUS_REASON = 10 ∧
              Told s.swath srcYK kYokeMismatch (faultAddr 63 10) t) ∧
          (∀ r, wbits (ws.getD 3 0#32) 7 0 = r → 1 ≤ r → r ≤ 10 → 1 ≤ s.fld F.YK_STATUS_STATE → s.fld F.YK_STATUS_STATE ≤ 4 →
            DoesOnly faultParts (.yokeFrame slot (some ws) arrive) s fun t =>
              t.fld F.YK_STATUS_STATE = 5 ∧ t.fld F.YK_STATUS_REASON = r ∧
              Told s.swath srcYK kYokeMismatch (faultAddr 63 r) t)) ∧
        (wbits (ws.getD 0 0#32) 23 20 = 1 → wbits (ws.getD 3 0#32) 31 24 = ykRECFG →
          DoesOnly [.regs, .yk] (.yokeFrame slot (some ws) arrive) s fun t =>
            t.yk.recfg = pendingDigest ((ws.drop 4).take 8)) ∧
        (wbits (ws.getD 0 0#32) 23 20 = 1 → wbits (ws.getD 3 0#32) 31 24 = ykPOWER →
          DoesOnly [.regs, .yk] (.yokeFrame slot (some ws) arrive) s fun t =>
            t.yk.power = some (wbits (ws.getD 3 0#32) 7 0, (ws.getD 4 0#32).toNat))) ∧
      (wbit (ws.getD 0 0#32) 19 = true → DoesOnly faultParts (.yokeFrame slot (some ws) arrive) s fun t =>
        t.yk.life = some s.tick)) ∧
    (∀ ws arrive (err : Int), s.yokeOn = true → yokeValid 0 ws = true → s.joined = true → s.boot.lead = false →
      wbits (ws.getD 0 0#32) 23 20 = 3 → wbit (ws.getD 0 0#32) 19 = false →
      (s.awaitBeat (wbit (ws.getD 0 0#32) 18)).beatMissing = false →
      err = ((arrive - (s.reg Reg.YK_DELAY).toNat : Nat) : Int) - s.btick → err.natAbs ≤ 2 →
      wbits (ws.getD 2 0#32) 23 0 + err.toNat < 2 ^ 21 → 2 < wbits (ws.getD 2 0#32) 23 0 →
      DoesOnly [.regs, .yk] (.yokeFrame 0 (some ws) arrive) s fun t =>
        t.yk.alignBad = 0 ∧ t.yk.slot0Bad = 0 ∧
        t.yk.base = s.baseAt (ws.getD 1 0#32).toNat (wbit (ws.getD 2 0#32) 31) ∧
        t.fld F.TB_PHASE_LENGTH = (wbits (ws.getD 2 0#32) 23 0 + err).toNat ∧
        (wbit (ws.getD 2 0#32) 31 = true → 0 < s.kLen → s.kLen ≤ 256 → t.phase + 1 = s.kLen))

/-- R433, R446, R448, R449, R450, R453, R455: the partner's heartbeat, its YFLT_N and their loss; the end of a drive, the takeover
and the share tests of a stand-in. -/
def Obligations.YokeSignsOfLifeTakeoverAndShareTests : Prop :=
  ∀ s : State,
    (s.yokeOn = false → (Does .ybeatEdge s fun t => t = s) ∧ (Does .yfltLow s fun t => t = s) ∧
      (Does .signOfLifeLoss s fun t => t = s) ∧ Does .yokeTakeover s fun t => t = s) ∧
    (s.yokeOn = true →
      (∀ e, s.yk.lastEdge = some e → e + 88 ≤ s.tick → s.tick ≤ e + 104 →
        (s.joined = false ∨ s.flag F.YK_STATUS_LINK_OK = false ∨ s.deadSince s.yk.lastFrame = false →
          DoesOnly [.regs, .yk] .ybeatEdge s fun t =>
            t.yk = { s.yk with
              lastEdge := some s.tick, life := some s.tick, yfltAt := none, beatSince := some s.tick, beatTold := false } ∧
            t.flag F.YK_STATUS_BEAT_OK = true ∧ RegsKeep (fun a => a == Reg.YK_STATUS) s t) ∧
        (s.joined = true → s.flag F.YK_STATUS_LINK_OK = true → s.deadSince s.yk.lastFrame = true →
          DoesOnly faultParts .ybeatEdge s fun t =>
            t.yk.life = some s.tick ∧ t.flag F.YK_STATUS_LINK_OK = false ∧
            Told s.swath srcYK kYokePath (faultAddr 63 1) t)) ∧
      ((∀ e, s.yk.lastEdge = some e → s.tick < e + 88 ∨ e + 104 < s.tick) → DoesOnly [.yk] .ybeatEdge s fun t =>
        t.yk = { s.yk with lastEdge := some s.tick }) ∧
      (s.env.yfltOut = true → Does .yfltLow s fun t => t = s) ∧
      (s.env.yfltOut = false →
        (s.joined = false → DoesOnly [.regs] .yfltLow s fun t =>
          t.flag F.YK_STATUS_YFLT = true ∧ RegsKeep (fun a => a == Reg.YK_STATUS) s t) ∧
        (s.joined = true → s.yokeMode ≠ 3 → DoesOnly faultParts .yfltLow s fun t =>
          t.flag F.YK_STATUS_YFLT = true ∧ Told s.swath srcYK kYokePartnerSafe (faultAddr 63 63) t ∧
          ∀ l, s.yk.life = some l → s.tick < l + 384 → Told s.swath srcYK kYokePath (faultAddr 63 2) t) ∧
        (s.joined = true → s.yokeMode = 3 →
          (∀ l, s.yk.life = some l → s.tick < l + 384 → DoesOnly faultParts .yfltLow s fun t =>
            Told s.swath srcYK kYokePath (faultAddr 63 2) t ∧ t.yk.yfltAt = s.yk.yfltAt) ∧
          ((∀ l, s.yk.life = some l → l + 384 ≤ s.tick) → DoesOnly [.regs, .yk] .yfltLow s fun t =>
            t.yk = { s.yk with yfltAt := some s.tick }))) ∧
      (s.joined = false ∨ s.deadSince s.yk.life = false → Does .signOfLifeLoss s fun t => t = s) ∧
      (s.joined = true → s.deadSince s.yk.life = true →
        (s.yk.releasing = false → s.standby = false ∨ s.flag F.YK_STATUS_READY = false →
          DoesOnly faultParts .signOfLifeLoss s fun t =>
            t.fld F.YK_STATUS_STATE = 6 ∧ t.flag F.YK_STATUS_BEAT_OK = false ∧
            Told s.swath srcYK kYokeLost (faultAddr 63 63) t) ∧
        (s.standby = true → s.flag F.YK_STATUS_READY = true → s.deadSince s.yk.lastFrame = true ∨ s.beatMissing = false →
          DoesOnly [.regs] .signOfLifeLoss s fun t =>
          t.flag F.YK_STATUS_BEAT_OK = false ∧ t.joined = true) ∧
        (s.yk.releasing = true → DoesOnly faultParts .signOfLifeLoss s fun t => t.joined = true) ∧
        (s.deadSince s.yk.lastFrame = false → s.beatMissing = true →
          DoesOnly faultParts .signOfLifeLoss s fun t => Told s.swath srcYK kYokePath (faultAddr 63 0) t)) ∧
      (s.standby = false ∨ s.releaseDue = false ∨ s.joined = false → Does .yokeTakeover s fun t => t = s) ∧
      (s.standby = true → s.releaseDue = true → s.joined = true →
        (s.flag F.YK_STATUS_READY = true → s.fld F.FC_STATUS_PENDING = 0 → DoesOnly [.regs, .yk] .yokeTakeover s fun t =>
          t.yk = { s.yk with releasing := true }) ∧
        (s.flag F.YK_STATUS_READY = false ∨ s.fld F.FC_STATUS_PENDING ≠ 0 → DoesOnly faultParts .yokeTakeover s fun t =>
          t.fld F.YK_STATUS_STATE = 6 ∧ Told s.swath srcYK kYokeLost (faultAddr 63 63) t))) ∧
    (s.yk.driveEnd = none → Does .activeYfltAssert s fun t => t = s) ∧
    (∀ e, s.yk.driveEnd = some e →
      ((∀ h : HalfIx, s.fld (F.BD_STATUS_KEEPER h.val) ≠ 2) ∨ e + 11904 ≤ s.tick →
        DoesOnly [.env] .activeYfltAssert s fun t => t.env = { s.env with yfltOut := true }) ∧
      ((∃ h : HalfIx, s.fld (F.BD_STATUS_KEEPER h.val) = 2) → s.tick < e + 11904 →
        Does .activeYfltAssert s fun t => t = s)) ∧
    (∀ c, s.isSwitch c = true → s.isArmed = true → s.yokeMode = 3 → s.dpSlotDue c s.ruleSwath = true →
      (s.releaseSwath = true → DoesOnly [.regs] (.shareTest c) s fun t =>
        Counted s (F.CH_COUNTS_DP_SKIP c.val) t ∧ RegsKeep (fun a => a == Reg.CH_COUNTS c.val) s t) ∧
      (s.releaseSwath = false → s.joined = true → s.flag F.YK_STATUS_ACTIVE = false →
        ((s.chan c).share = none → wbit ((s.out.get c).at s.tick) 0 = true → (s.chan c).comp = true →
          DoesOnly [.regs, .chans] (.shareTest c) s fun t =>
            (t.chan c).share = some s.tick ∧ (t.chan c).closed = s.unprotected c ∧ (t.chan c).action = some 1 ∧
            OtherChKept c s t) ∧
        ((s.chan c).share.isSome = true ∨ wbit ((s.out.get c).at s.tick) 0 = false ∨ (s.chan c).comp = false →
          Does (.shareTest c) s fun t => t = s))) ∧
    (∀ c, s.isSwitch c = false ∨ s.isArmed = false ∨ s.yokeMode ≠ 3 ∨ s.dpSlotDue c s.ruleSwath = false ∨
        (s.releaseSwath = false ∧ (s.joined = false ∨ s.flag F.YK_STATUS_ACTIVE = true)) →
      Does (.shareTest c) s fun t => t = s) ∧
    (∀ c, (s.chan c).share = none → Does (.shareTestVerdict c) s fun t => t = s) ∧
    (∀ c t0, (s.chan c).share = some t0 →
      (5 < (s.chan c).peak → DoesOnly [.regs, .chans, .sr] (.shareTestVerdict c) s fun t =>
        (t.chan c).share = none ∧ (t.chan c).closed = false ∧ OtherChKept c s t) ∧
      ((s.chan c).peak ≤ 5 → DoesOnly (.chans :: .sr :: faultParts) (.shareTestVerdict c) s fun t =>
        (t.chan c).share = none ∧ t.yk.checksOk = false ∧ t.flag F.YK_STATUS_READY = false ∧
        Told s.swath srcYK kStandinTest (faultAddr 63 c.val) t))

/-! ## Fault Collector and watchdog -/

/-- R444, R457-R468, R470: a message is collected and counted, a kind raised at most once in a swath the first time alone, and its
reaction is that of its class on its targets, a pair halted in bench mode keeping its evaluation (R290); clears and an injection wait for
their boundary. -/
def Obligations.FaultsAreCollectedAndTakeTheirReaction : Prop :=
  ∀ s : State,
    (∀ (src : BitVec 8) (kind : BitVec 6) (addr : BitVec 12) cls auto,
      s.reactionOf src.toNat kind.toNat = (cls, auto) →
      (known src.toNat kind.toNat = false → Does (.faultMessage none src kind addr) s fun t => t = s) ∧
      (s.coreOn = false → Does (.faultMessage none src kind addr) s fun t => t = s) ∧
      (¬ FirstOf s src.toNat kind.toNat addr.toNat → Does (.faultMessage none src kind addr) s fun t => t = s) ∧
      (s.coreOn = true → known src.toNat kind.toNat = true → FirstOf s src.toNat kind.toNat addr.toNat →
        DoesOnly faultParts (.faultMessage none src kind addr) s fun t =>
        FaultRegsOnly s t ∧ Told s.swath src.toNat kind.toNat addr.toNat t ∧
        (cls < 3 → Counted s (F.FC_SRC_CNT_COUNT src.toNat) t ∧
          t.fld (F.FC_SRC_CNT_LAST_KIND src.toNat) = kind.toNat ∧ t.fc.pends = s.fc.pends ∧
          t.fld F.SYS_STATE_STATE = s.fld F.SYS_STATE_STATE ∧
          t.fld F.SYS_STATE_ARMED_HALVES = s.fld F.SYS_STATE_ARMED_HALVES) ∧
        (cls < 2 → t.fc.latches = s.fc.latches) ∧
        (2 ≤ cls → s.isHalted = false → ∀ c : ChIx,
          (s.targetChannels src.toNat kind.toNat addr.toNat).testBit c.val = true → t.latched c.val = true) ∧
        (s.isHalted = true → cls < 5 → t.isHalted = true ∧ t.fc.latches = s.fc.latches ∧ t.fc.pends = s.fc.pends) ∧
        (cls = 3 → (src.toNat < 0x24 ∨ 0x27 < src.toNat) → s.isHalted = false → s.isBoot = false → ∀ h : HalfIx,
          (s.targetHalves src.toNat).testBit h.val = true → t.isPending h.val = true ∧ t.armed h.val = false) ∧
        (cls = 4 → (src.toNat < 0x24 ∨ 0x27 < src.toNat) → s.isHalted = false → s.isBoot = false →
          t.isHalted = true ∧ t.fld F.SYS_STATE_ARMED_HALVES = 0 ∧ t.flag F.FC_STATUS_FAULT_N = true ∧
          (∀ p, (t.pairs.get p).commit = (s.pairs.get p).commit ∧
            ((s.pairs.get p).halted = false → (t.pairs.get p).ctx = none ∧ (t.pairs.get p).tines = []) ∧
            ((s.pairs.get p).halted = true → t.pairs.get p = s.pairs.get p)) ∧
          (s.yokeMode = 1 ∨ s.yokeMode = 2 → t.env.yfltOut = true) ∧
          (s.recfgState ≠ 2 → t.reg Reg.FC_REACT_MSG = msgWord
            (src.toNat * 2 ^ 18 + kind.toNat * 2 ^ 12 + addr.toNat) true false cls)) ∧
        ((cls = 3 ∨ cls = 4) → (src.toNat < 0x24 ∨ 0x27 < src.toNat) → s.isBoot = true → s.recfgState ≠ 2 →
          ∃ x, t.fc.heldReact = s.fc.heldReact ++ [x] ∧ x.1 = cls ∧ x.2.1 = s.targetHalves src.toNat ∧ x.2.2.1 = auto) ∧
        ((cls = 3 ∨ cls = 4) → s.isBoot = true → s.recfgState ≠ 2 → t.isBoot = true ∧ t.fc.pends = s.fc.pends ∧
          t.fld F.SYS_STATE_ARMED_HALVES = s.fld F.SYS_STATE_ARMED_HALVES) ∧
        (5 ≤ cls → (src.toNat < 0x24 ∨ 0x27 < src.toNat) → t.fc.resetting = true ∧ t.fld F.SYS_STATE_ARMED_HALVES = 0 ∧ t.flag F.FC_STATUS_FAULT_N = true) ∧
        (3 ≤ cls → (src.toNat < 0x24 ∨ 0x27 < src.toNat) → s.isHalted = false → s.recfgState = 2 → t.recfgState = 5))) ∧
    (∀ (cls : Fin 8) (src : BitVec 8) (kind : BitVec 6) (addr : BitVec 12),
      (s.yokeMode ≠ 1 ∨ s.boot.lead = false ∨ s.joined = false →
        Does (.faultMessage (some cls) src kind addr) s fun t => t = s) ∧
      (s.coreOn = true → s.yokeMode = 1 → s.boot.lead = true → s.joined = true → 0x20 ≤ src.toNat → src.toNat ≤ 0x23 →
        known src.toNat kind.toNat = true → DoesOnly [.regs, .fc] (.faultMessage (some cls) src kind addr) s fun t =>
          Told s.swath (src.toNat + 4) kind.toNat addr.toNat t ∧ t.fc.latches = s.fc.latches ∧ t.fc.pends = s.fc.pends) ∧
      (s.coreOn = true → s.yokeMode = 1 → s.boot.lead = true → s.joined = true → src.toNat = srcGRN →
        DoesOnly [.regs, .fc] (.faultMessage (some cls) src kind addr) s fun t =>
          Told s.swath srcYK kFollowerFault (srcGRN * 16 + cls.val * 2) t)) ∧
    (∀ i (m : ClearReq) (r : ClearReq), r = s.fc.clearReq.getD ⟨0, 0, false⟩ →
      ((∃ b : BitVec 16, i = .fcClearChannels b ∧ m = ⟨b.toNat, 0, false⟩) ∨
        (∃ b : BitVec 2, i = .fcClearHalves b ∧ m = ⟨0, b.toNat, false⟩) ∨ (i = .fcClearFirst ∧ m = ⟨0, 0, true⟩)) →
      s.coreOn = true → DoesOnly [.fc, .pipe] i s fun t =>
        t.fc = { s.fc with clearReq := some ⟨r.channels ||| m.channels, r.halves ||| m.halves, r.first || m.first⟩ } ∧
        t.pipe.next = s.pipe.next ||| cUNSTAMPED) ∧
    (∀ w, s.coreOn = true → s.reg Reg.FC_FORCE_MSG = w →
      (known (wbits w 31 24) (wbits w 23 18) = true → DoesOnly [.regs, .fc, .pipe] .faultInject s fun t =>
        t.fc = { s.fc with inject := some w } ∧ t.fld F.FC_FORCE_CTRL_STATE = 1 ∧
        t.pipe.next = s.pipe.next ||| cUNSTAMPED) ∧
      (known (wbits w 31 24) (wbits w 23 18) = false → DoesOnly [.regs] .faultInject s fun t =>
        t.fld F.FC_FORCE_CTRL_STATE = 3))

/-- R474-R479: a service in its window is taken, one outside it is early; the disable sequence, enable, lock and wrong words; the
close edge of an unserved window, which the entry boundary of Dormant no longer judges (R531). -/
def Obligations.WatchdogJudgesItsWordsAndItsWindow : Prop :=
  ∀ (s : State) (sl : Bool),
    (s.coreOn = true → s.flag F.WDG_CFG_SEALED = true → sl = false → ∀ i,
      (i = .wdgService sl ∨ i = .wdgDisableStart sl ∨ i = .wdgDisable sl ∨ i = .wdgEnable sl ∨ i = .wdgLock sl ∨
        ∃ w, i = .wdgKey w sl) →
      DoesOnly faultParts i s fun t => Counted s F.WDG_COUNTS_KEY t ∧ Told s.swath 0x31 kWdgKey (faultAddr 63 2) t) ∧
    (s.coreOn = true → s.flag F.WDG_CFG_SEALED = false ∨ sl = true →
      (s.wdg.disableTick = none → s.wdgGrid = none → Does (.wdgService sl) s fun t => t = s) ∧
      (∀ a ph, s.wdg.disableTick = none → s.wdgGrid = some a → ph = (s.swath - a) % s.wdgPeriod →
        ph ≠ 0 ∨ s.swath ≤ a ∨ s.atBoundary = false →
        (s.fld F.WDG_WINDOW_OPEN ≤ ph → s.flag F.WDG_STATUS_SERVED = false →
          DoesOnly [.regs] (.wdgService sl) s fun t => t.flag F.WDG_STATUS_SERVED = true ∧
            t.reg Reg.WDG_LAST = s.swath32 ∧ RegsKeep (fun r => r == Reg.WDG_STATUS || r == Reg.WDG_LAST) s t) ∧
        (ph < s.fld F.WDG_WINDOW_OPEN ∨ s.flag F.WDG_STATUS_SERVED = true →
          DoesOnly faultParts (.wdgService sl) s fun t =>
            Counted s F.WDG_COUNTS_EARLY t ∧ Told s.swath 0x31 kWdgEarly (faultAddr 63 63) t ∧
            t.flag F.WDG_STATUS_SERVED = s.flag F.WDG_STATUS_SERVED)) ∧
      (s.wdg.disableTick = none → DoesOnly [.regs, .wdg] (.wdgDisableStart sl) s fun t =>
        t.wdg = { s.wdg with disableTick := some s.tick } ∧ t.flag F.WDG_STATUS_DISABLE_WAIT = true) ∧
      (s.wdg.disableTick.isSome = true → DoesOnly (.wdg :: faultParts) (.wdgDisableStart sl) s fun t =>
        t.wdg = { s.wdg with disableTick := some s.tick } ∧ Counted s F.WDG_COUNTS_KEY t ∧
        Told s.swath 0x31 kWdgKey (faultAddr 63 (if s.flag F.WDG_CFG_LOCK then 4 else 3)) t) ∧
      (∀ t0, s.flag F.WDG_CFG_LOCK = false → s.wdg.disableTick = some t0 → s.tick ≤ t0 + 64 →
        DoesOnly [.regs, .wdg, .pipe] (.wdgDisable sl) s fun t =>
          t.wdg = { s.wdg with disableTick := none, change := some false } ∧
          t.pipe.next = s.pipe.next ||| cUNSTAMPED) ∧
      (s.flag F.WDG_CFG_LOCK = true ∨ s.wdg.disableTick = none ∨ (∃ t0, s.wdg.disableTick = some t0 ∧ t0 + 64 < s.tick) →
        DoesOnly (.wdg :: faultParts) (.wdgDisable sl) s fun t =>
          t.wdg = { s.wdg with disableTick := none } ∧ Counted s F.WDG_COUNTS_KEY t ∧
          Told s.swath 0x31 kWdgKey (faultAddr 63 (if s.flag F.WDG_CFG_LOCK then 4 else 3)) t) ∧
      (s.wdg.disableTick = none →
        (DoesOnly [.wdg, .pipe] (.wdgEnable sl) s fun t =>
          t.wdg = { s.wdg with change := some true } ∧ t.pipe.next = s.pipe.next ||| cUNSTAMPED) ∧
        (DoesOnly [.regs, .wdg, .pipe] (.wdgLock sl) s fun t =>
          t.wdg = { s.wdg with change := some true } ∧ t.flag F.WDG_CFG_LOCK = true ∧
          t.pipe.next = s.pipe.next ||| cUNSTAMPED ∧ RegsKeep (fun r => r == Reg.WDG_CFG) s t) ∧
        (∀ w : BitVec 16, w ≠ 0x5EED#16 → w ≠ 0xD15A#16 → w ≠ 0xB1ED#16 → w ≠ 0xE4AB#16 → w ≠ 0x10CC#16 →
          DoesOnly faultParts (.wdgKey w sl) s fun t =>
            Counted s F.WDG_COUNTS_KEY t ∧ Told s.swath 0x31 kWdgKey (faultAddr 63 1) t)) ∧
      (s.wdg.disableTick.isSome = true → ∀ i,
        (i = .wdgService sl ∨ i = .wdgEnable sl ∨ i = .wdgLock sl ∨
          ∃ w : BitVec 16, i = .wdgKey w sl ∧ w ≠ 0xD15A#16 ∧ w ≠ 0xB1ED#16) →
        DoesOnly (.wdg :: faultParts) i s fun t =>
          t.wdg.disableTick = none ∧ t.flag F.WDG_STATUS_DISABLE_WAIT = false ∧
          Told s.swath 0x31 kWdgKey (faultAddr 63 (if s.flag F.WDG_CFG_LOCK then 4 else 3)) t) ∧
      (∀ a, s.wdg.disableTick = none → s.wdgGrid = some a → s.wdg.closed = none → (s.swath - a) % s.wdgPeriod = 0 →
        a < s.swath → s.atBoundary = true →
        (s.flag F.WDG_STATUS_SERVED = false → Does (.wdgService sl) s fun t => t = s) ∧
        (s.flag F.WDG_STATUS_SERVED = true → DoesOnly faultParts (.wdgService sl) s fun t =>
          Counted s F.WDG_COUNTS_EARLY t ∧ Told s.swath 0x31 kWdgEarly (faultAddr 63 63) t))) ∧
    (s.wdg.disableTick = none → Does .wdgDisableTimeout s fun t => t = s) ∧
    (s.wdg.disableTick.isSome = true → DoesOnly (.wdg :: faultParts) .wdgDisableTimeout s fun t =>
      t.wdg = { s.wdg with disableTick := none } ∧ t.flag F.WDG_STATUS_DISABLE_WAIT = false ∧
      Counted s F.WDG_COUNTS_KEY t ∧
      Told s.swath 0x31 kWdgKey (faultAddr 63 (if s.flag F.WDG_CFG_LOCK then 4 else 3)) t) ∧
    (s.wdgGrid = none → Does .wdgCloseEdge s fun t => t = s) ∧
    (∀ a, s.wdgGrid = some a →
      (s.atBoundary = false ∨ s.entersDormant = true ∨ s.swath ≤ a ∨ (s.swath - a) % s.wdgPeriod ≠ 0 →
        Does .wdgCloseEdge s fun t => t = s) ∧
      (s.atBoundary = true → s.entersDormant = false → a < s.swath → (s.swath - a) % s.wdgPeriod = 0 →
        (∀ t0 v, s.wdg.closed = some (t0, v) → t0 ≠ s.tick) →
        (s.flag F.WDG_STATUS_SERVED = true → DoesOnly [.regs, .wdg] .wdgCloseEdge s fun t =>
          t.flag F.WDG_STATUS_SERVED = false ∧ t.fld F.WDG_STATUS_REMAIN = s.wdgPeriod) ∧
        (s.flag F.WDG_STATUS_SERVED = false → DoesOnly (.wdg :: faultParts) .wdgCloseEdge s fun t =>
          t.flag F.WDG_STATUS_SERVED = false ∧ Counted s F.WDG_COUNTS_LATE t ∧
          Told s.swath 0x31 kWdgLate (faultAddr 63 63) t)))

/-! ## Service Record -/

/-- R496-R506, R509: pages that are due are programmed, after the erase their slot needs, then seals that were made, and slots are
erased, or the journal fails; a closed block is sealed with the next leaf, or waits for a tree; trees are generated; a token is gained; an
attestation takes a token and its report is signed. That the swaths of a token count from the last gain is the model's choice (log entry 46). -/
def Obligations.JournalSealsTreesAndReportsProceed : Prop :=
  ∀ s : State,
    (∀ ok, s.pageDue = false → s.sealBlock = none → Does (.pageProgram ok) s fun t => t = s) ∧
    (∀ b, (s.pageDue = true ∧ s.pageBlock = some b) ∨ (s.pageDue = false ∧ s.sealBlock = some b) →
      DoesOnly (.sr :: faultParts) (.pageProgram false) s fun t =>
        b.slot ∈ t.sr.badSlots ∧ Told s.swath srcSR kJournalFail (faultAddr 63 2) t) ∧
    (∀ b, s.sealBlock = some b → s.pageDue = false → DoesOnly [.sr] (.pageProgram true) s fun t =>
      t.sr = { s.sr with blocks := t.sr.blocks } ∧
      t.sr.blocks = s.sr.blocks.map fun x => if x.seq = b.seq then { x with sealIn := true } else x) ∧
    (∀ b, s.pageBlock = some b → s.pageDue = true →
      (s.slotTaken b = false → DoesOnly [.sr] (.pageProgram true) s fun t =>
        t.sr = { s.sr with blocks := t.sr.blocks } ∧
        t.sr.blocks = s.sr.blocks.map fun x => if x.seq = b.seq then
          { x with programmed := min x.recs.length (x.programmed / 4 * 4 + 4) } else x) ∧
      (s.slotTaken b = true → s.env.pfail = true → Does (.pageProgram true) s fun t => t = s) ∧
      (s.slotTaken b = true → s.env.pfail = false → DoesOnly (.sr :: faultParts) (.pageProgram true) s fun t =>
        (∀ x ∈ t.sr.blocks, x.slot = b.slot → b.seq ≤ x.seq) ∧
        ∀ y ∈ s.sr.blocks, y.slot = b.slot → y.seq < b.seq → (s.reg Reg.SR_JRN_ACK).toNat < y.seq →
          Told s.swath srcSR kJournalFail (faultAddr 63 1) t)) ∧
    (∀ ok, s.env.pfail = true → Does (.slotErase ok) s fun t => t = s) ∧
    (s.env.pfail = false → DoesOnly (.sr :: faultParts) (.slotErase false) s fun t =>
      s.eraseSlot ∈ t.sr.badSlots ∧ Told s.swath srcSR kJournalFail (faultAddr 63 2) t) ∧
    (∀ b n, s.env.pfail = false → s.newest = some n → b ∈ s.sr.blocks → b.seq < n.seq →
      b.slot = s.eraseSlot →
      (∀ x ∈ s.sr.blocks, x.slot = b.slot → x.seq < n.seq → x = b) →
      (b.seq ≤ (s.reg Reg.SR_JRN_ACK).toNat → DoesOnly [.sr] (.slotErase true) s fun t =>
        t.sr = { s.sr with blocks := s.sr.blocks.filter fun y => y.seq != b.seq }) ∧
      ((s.reg Reg.SR_JRN_ACK).toNat < b.seq → DoesOnly (.sr :: faultParts) (.slotErase true) s fun t =>
        t.sr = { s.sr with blocks := s.sr.blocks.filter fun y => y.seq != b.seq } ∧
        Counted s F.SR_COUNTS_OVERRUN t ∧ Told s.swath srcSR kJournalFail (faultAddr 63 1) t)) ∧
    (s.leaf < leafCount → s.pwr.mode ≠ 2 → s.pwr.mode ≠ 4 →
      (s.sr.tree = false → DoesOnly [.regs, .sr] .treeGeneration s fun t =>
        t.sr = { s.sr with tree := true, treeOut := false, deferred := false } ∧
        t.fld F.SR_STATUS_TREE = (if s.sr.nextTree then 3 else 2)) ∧
      (s.sr.tree = true → 768 ≤ s.leaf % 1024 → s.leaf / 1024 < 1023 → DoesOnly [.regs, .sr] .treeGeneration s fun t =>
        t.sr = { s.sr with nextTree := true } ∧ t.fld F.SR_STATUS_TREE = 3)) ∧
    (leafCount ≤ s.leaf ∨ s.pwr.mode = 2 ∨ s.pwr.mode = 4 ∨ (s.sr.tree = true ∧ (s.leaf % 1024 < 768 ∨ 1023 ≤ s.leaf / 1024)) →
      Does .treeGeneration s fun t => t = s) ∧
    (s.sealDue = none → Does .blockSeal s fun t => t = s) ∧
    (∀ b, s.sealDue = some b →
      (s.canSign = true → s.reportFirst b = true → Does .blockSeal s fun t => t = s) ∧
      (s.canSign = true → s.reportFirst b = false → DoesOnly (.sr :: faultParts) .blockSeal s fun t =>
        t.leaf = s.leaf + 1 ∧ t.reg Reg.SR_JRN_SEALED = BitVec.ofNat 32 b.seq ∧
        (s.leaf = 256 * s.leafFuses → t.reg Reg.SR_LEAF_RES = s.reg Reg.SR_LEAF_RES + 1) ∧
        (s.leaf ≠ 256 * s.leafFuses → t.reg Reg.SR_LEAF_RES = s.reg Reg.SR_LEAF_RES) ∧
        (∀ x ∈ t.sr.blocks, x.seq = b.seq → x.done = true ∧ x.msg = some (s.sealMessage b s.leaf) ∧
          x.sign = s.signature s.leaf (s.sealMessage b s.leaf) ∧ x.sign.length = 1269) ∧
        (b.recovered = true → Counted s F.SR_COUNTS_RECOVERED t)) ∧
      (leafCount ≤ s.leaf → DoesOnly [.sr] .blockSeal s fun t =>
        ∀ x ∈ t.sr.blocks, x.seq = b.seq → x.done = true) ∧
      (s.leaf < leafCount → s.sr.tree = false → s.env.pfail = false → s.sr.deferred = false → s.sr.treeOut = true →
        DoesOnly (.sr :: faultParts) .blockSeal s fun t =>
          t.sr = { s.sr with deferred := true } ∧ Counted s F.SR_COUNTS_DEFERRED t ∧
          Told s.swath srcSR kSealDeferred (faultAddr 63 63) t) ∧
      (s.leaf < leafCount → s.canSign = false →
        (s.sr.tree = true ∨ s.sr.treeOut = false ∨ s.sr.deferred = true ∨ s.env.pfail = true) →
        Does .blockSeal s fun t => t = s)) ∧
    (s.swath < s.sr.tokenSwath + s.tokenSwaths → Does .tokenGain s fun t => t = s) ∧
    (s.sr.tokenSwath + s.tokenSwaths ≤ s.swath → DoesOnly [.regs, .sr] .tokenGain s fun t =>
      t.sr = { s.sr with tokenSwath := s.swath } ∧ RegsKeep (fun a => a == Reg.SR_ATT_TOKENS) s t ∧
      (s.leaf < leafCount → s.fld F.SR_ATT_TOKENS_TOKENS ≤ 32 →
        t.fld F.SR_ATT_TOKENS_TOKENS = min 32 (s.fld F.SR_ATT_TOKENS_TOKENS + 1)) ∧
      (leafCount ≤ s.leaf → t.fld F.SR_ATT_TOKENS_TOKENS = 0)) ∧
    (∀ h ws, Accepts s opATTEST h → ws.length = h.n →
      (s.fld F.SR_ATT_TOKENS_TOKENS ≠ 0 → s.fld F.SR_ATT_STATUS_STATE ≠ 1 →
        DoesOnly [.regs, .sr, .hp] (.attest h ws) s fun t =>
          Responded opATTEST 0 h.n [] t ∧ t.fld F.SR_ATT_TOKENS_TOKENS = s.fld F.SR_ATT_TOKENS_TOKENS - 1 ∧
          t.fld F.SR_ATT_STATUS_STATE = 1 ∧ t.sr = { s.sr with nonce := some ws, nonceAt := s.tick, report := [] }) ∧
      (s.fld F.SR_ATT_TOKENS_TOKENS = 0 ∨ s.fld F.SR_ATT_STATUS_STATE = 1 →
        DoesOnly portParts (.attest h ws) s fun t => Refused opATTEST 5 t)) ∧
    (s.sr.nonce = none → Does .attestReportReady s fun t => t = s) ∧
    (∀ nonce, s.sr.nonce = some nonce →
      ((∃ b, s.sealDue = some b ∧ s.reportFirst b = false) ∨ s.fld F.SR_ATT_STATUS_STATE ≠ 1 ∨ (s.canSign = false ∧ (s.sr.tree = true ∨
          s.sr.treeOut = false ∨ s.sr.deferred = true ∨ s.env.pfail = true ∨ leafCount ≤ s.leaf)) →
        Does .attestReportReady s fun t => t = s) ∧
      ((∀ b, s.sealDue = some b → s.reportFirst b = true) → s.fld F.SR_ATT_STATUS_STATE = 1 → s.leaf < leafCount → s.sr.tree = false →
        s.env.pfail = false → s.sr.deferred = false → s.sr.treeOut = true →
        DoesOnly (.sr :: faultParts) .attestReportReady s fun t =>
          t.sr = { s.sr with deferred := true } ∧ Counted s F.SR_COUNTS_DEFERRED t ∧
          Told s.swath srcSR kSealDeferred (faultAddr 63 63) t) ∧
      (s.canSign = true → (∀ b, s.sealDue = some b → s.reportFirst b = true) → s.fld F.SR_ATT_STATUS_STATE = 1 →
        DoesOnly (.sr :: faultParts) .attestReportReady s fun t =>
          t.fld F.SR_ATT_STATUS_STATE = 2 ∧ t.sr.nonce = none ∧ t.leaf = s.leaf + 1 ∧
          t.sr.report = s.reportBody nonce s.leaf ++ s.signature s.leaf (s.reportBody nonce s.leaf) ∧
          t.sr.due = s.sr.due ++ [(0, 9, 0, nonce.take 4 ++ [BitVec.ofNat 32 s.leaf])]))

/-- R365, R486, R487, R488, R489: OPEN answers a challenge, AUTH authenticates with the right MAC, a message that its session accepts
has its effect and answers OK, every other has none; a session ends by CLOSE or by its timeout, and the lock after its time. -/
def Obligations.ServiceSessionsAuthoriseTheirMessages : Prop :=
  ∀ (s : State) (h : HostHdr) (low : BitVec 24) (ws : List Word),
    (Accepts s opSERVICE h → h.n = ws.length + 1 →
      (∀ r, (s.sr.lockAt.isSome = true ∧ r = 4) ∨ (s.sr.lockAt = none ∧ ws ≠ [] ∧ r = 3) ∨
          (s.sr.lockAt = none ∧ ws = [] ∧ low.toNat / 65536 ≠ 0 ∧ r = 5) →
        DoesOnly [.regs, .sr, .hp] (.srOpen h low ws) s fun t =>
          Replied h [replyWord (reqWord 0x01#8 low) r] t ∧
          t.sr = { s.sr with session := s.sr.session.map fun x => { x with last := s.tick } }) ∧
      (s.sr.lockAt = none → ws = [] → low.toNat / 65536 = 0 →
        DoesOnly [.regs, .sr, .hp] (.srOpen h low ws) s fun t =>
          t.flag F.SR_STATUS_SESSION = true ∧ t.sr.opens = s.sr.opens + 1 ∧
          ∃ ch, t.sr.session = some { challenge := ch, last := s.tick } ∧
            Replied h (replyWord (reqWord 0x01#8 low) 0 :: ch ++ s.serial) t) ∧
      (s.sr.session = none → ∀ i op, ((i = .srAuth h low ws ∧ op = 0x02#8) ∨ (i = .srRegister h low ws ∧ op = 0x10#8) ∨
          (i = .srRetire h low ws ∧ op = 0x11#8) ∨ (i = .srReadSlot h low ws ∧ op = 0x12#8) ∨
          (i = .srAccept h low ws ∧ op = 0x13#8) ∨ (i = .srClose h low ws ∧ op = 0x1F#8)) →
        DoesOnly [.regs, .hp] i s fun t => Replied h [replyWord (reqWord op low) 2] t) ∧
      (∀ x r, s.sr.session = some x →
          (x.authed = false ∧ r = 2) ∨ (x.authed = true ∧ low.toNat / 65536 ≠ (x.seq + 1) % 256 ∧ r = 5) → ∀ i op,
          ((i = .srRegister h low ws ∧ op = 0x10#8) ∨ (i = .srRetire h low ws ∧ op = 0x11#8) ∨
          (i = .srReadSlot h low ws ∧ op = 0x12#8) ∨ (i = .srAccept h low ws ∧ op = 0x13#8) ∨
          (i = .srClose h low ws ∧ op = 0x1F#8)) →
        DoesOnly [.regs, .sr, .hp] i s fun t => Replied h (s.reply (reqWord op low) r []) t ∧
          t.sr = { s.sr with session := some { x with last := s.tick } }) ∧
      (∀ x, s.sr.session = some x →
        (∀ k, s.boot.svcKey = some k → ws.take 8 ≠ hmac (bytesOfWords k) (bytesOfWords (x.challenge ++ s.serial))) →
          DoesOnly (.sr :: portParts) (.srAuth h low ws) s fun t =>
            Replied h (s.reply (reqWord 0x02#8 low) 1 []) t ∧ Counted s F.SR_COUNTS_AUTH_FAIL t ∧
            t.sr.fails = s.sr.fails + 1 ∧ t.sr.session = some { x with last := s.tick } ∧
            Told s.swath srcSR kServiceAuth (faultAddr 63 63) t ∧
            (8 ≤ s.sr.fails + 1 → s.sr.lockAt = none →
              t.sr.lockAt = some s.tick ∧ t.flag F.SR_STATUS_LOCKED = true) ∧
            (s.sr.fails + 1 < 8 → t.sr.lockAt = s.sr.lockAt)) ∧
      (∀ x k, s.sr.session = some x → s.boot.svcKey = some k →
        (low.toNat / 65536 = (x.seq + 1) % 256 → (ws.take 8).length = 8 →
          (s.mac x (reqWord 0x02#8 low :: ws.take 8)).length = 4 →
          ws.take 8 = hmac (bytesOfWords k) (bytesOfWords (x.challenge ++ s.serial)) →
          ws = ws.take 8 ++ s.mac x (reqWord 0x02#8 low :: ws.take 8) →
          DoesOnly [.regs, .sr, .hp] (.srAuth h low ws) s fun t =>
            Replied h (s.reply (reqWord 0x02#8 low) 0 []) t ∧
            t.sr = { s.sr with
              session := some { x with authed := true, seq := low.toNat / 65536, last := s.tick } }))) ∧
    (∀ slot target idHi idLo cls sigIx adopt ref l0 pull drop x,
      GoodRequest s h 0x10#8 low [slot, target, idHi, idLo, cls, sigIx, adopt, ref, l0, pull, drop] ws x →
      (s.targetOk target.toNat = true → cls.toNat < s.sr.classes.length → sigIx.toNat < sigCount → ∀ k : Fin 32,
        slot.toNat = k.val → DoesOnly [.regs, .pipe, .sr, .hp] (.srRegister h low ws) s fun t =>
          Replied h (s.reply (reqWord 0x10#8 low) 0 []) t ∧ t.pipe.next = s.pipe.next ||| cUNSTAMPED ∧
          t.sr = { s.sr with
            ops := s.sr.ops ++ [.register k target.toNat idHi idLo cls.toNat sigIx.toNat
              (if adopt = 0#32 then some (ref.toNat, l0.toNat, pull.toNat, drop.toNat) else none)]
            session := some { x with seq := low.toNat / 65536, last := s.tick } }) ∧
      (s.targetOk target.toNat = false ∨ s.sr.classes.length ≤ cls.toNat ∨ sigCount ≤ sigIx.toNat ∨ 32 ≤ slot.toNat →
        DoesOnly [.regs, .sr, .hp] (.srRegister h low ws) s fun t =>
          Replied h (s.reply (reqWord 0x10#8 low) 3 []) t ∧
          t.sr = { s.sr with session := some { x with last := s.tick } })) ∧
    (∀ (k : Fin 32) x y, s.sr.slots.get k = y →
      (GoodRequest s h 0x11#8 low [BitVec.ofNat 32 k.val] ws x → y.state ≠ 0 →
        DoesOnly [.regs, .pipe, .sr, .hp] (.srRetire h low ws) s fun t =>
          Replied h (s.reply (reqWord 0x11#8 low) 0 [BitVec.ofNat 32 y.n, BitVec.ofNat 32 y.w]) t ∧
          t.sr = { s.sr with
            ops := s.sr.ops ++ [.retire k], session := some { x with seq := low.toNat / 65536, last := s.tick } } ∧
          t.pipe.next = s.pipe.next ||| cUNSTAMPED) ∧
      (y.state = 0 → ∀ i op, (i = .srRetire h low ws ∧ op = 0x11#8) ∨ (i = .srAccept h low ws ∧ op = 0x13#8) →
        GoodRequest s h op low [BitVec.ofNat 32 k.val] ws x → DoesOnly [.regs, .sr, .hp] i s fun t =>
          Replied h (s.reply (reqWord op low) 3 []) t ∧
          t.sr = { s.sr with session := some { x with last := s.tick } }) ∧
      (GoodRequest s h 0x12#8 low [BitVec.ofNat 32 k.val] ws x →
        DoesOnly [.regs, .sr, .hp] (.srReadSlot h low ws) s fun t =>
          Replied h (s.reply (reqWord 0x12#8 low) 0 (slotRegs y)) t ∧
          t.sr = { s.sr with session := some { x with seq := low.toNat / 65536, last := s.tick } }) ∧
      (GoodRequest s h 0x13#8 low [BitVec.ofNat 32 k.val] ws x → y.state ≠ 0 →
        DoesOnly [.regs, .pipe, .sr, .hp] (.srAccept h low ws) s fun t =>
          Replied h (s.reply (reqWord 0x13#8 low) 0 []) t ∧
          t.sr = { s.sr with
            ops := s.sr.ops ++ [.accept k], session := some { x with seq := low.toNat / 65536, last := s.tick } } ∧
          t.pipe.next = s.pipe.next ||| cUNSTAMPED) ∧
      (GoodRequest s h 0x1F#8 low [] ws x → DoesOnly [.regs, .sr, .hp] (.srClose h low ws) s fun t =>
        Replied h (s.reply (reqWord 0x1F#8 low) 0 []) t ∧ t.sr.session = none ∧
        t.flag F.SR_STATUS_SESSION = false ∧ t.sr.due = s.sr.due ++ [(0, 10, 0, [2#32])])) ∧
    (∀ x, s.sr.session = some x → x.last + secTicks 60 ≤ s.tick → DoesOnly [.regs, .sr] .sessionTimeout s fun t =>
      t.sr = { s.sr with session := none, due := s.sr.due ++ [(0, 10, 0, [2#32])] } ∧
      t.flag F.SR_STATUS_SESSION = false ∧ RegsKeep (fun a => a == Reg.SR_STATUS) s t) ∧
    ((∀ x, s.sr.session = some x → s.tick < x.last + secTicks 60) → Does .sessionTimeout s fun t => t = s) ∧
    (∀ l, s.sr.lockAt = some l → l + secTicks 3600 ≤ s.tick → DoesOnly [.regs, .sr] .serviceUnlock s fun t =>
      t.sr = { s.sr with fails := 0, lockAt := none } ∧ t.flag F.SR_STATUS_LOCKED = false) ∧
    ((∀ l, s.sr.lockAt = some l → s.tick < l + secTicks 3600) → Does .serviceUnlock s fun t => t = s)

/-- R492, R493, R495, R500, R505, R507: the hourly pass updates predictions, writes the records due and closes the open block; the read
window fetches journal or report; at PFAIL_N a PFAIL record falls due, with SR_LEAF and the records staged. Model's choice: the read window
takes bits [1:0] of OFFSET as 0 (log entry 55). -/
def Obligations.HourlyPassReadWindowAndPowerFail : Prop :=
  ∀ s : State,
    (∀ a, s.tick ≠ s.btick ∨ s.isBoot = true ∨ s.ruleSwath % max 1 s.hourSwaths ≠ 0 ∨ s.sr.hourAt = some s.swath →
      Does (.hourlyPass a) s fun t => t = s) ∧
    (∀ a, s.tick = s.btick → s.isBoot = false → s.ruleSwath % max 1 s.hourSwaths = 0 → s.sr.hourAt ≠ some s.swath →
      DoesOnly (.sr :: .free :: faultParts) (.hourlyPass a) s fun t =>
        t.sr.due = [] ∧ t.sr.hourAt = some s.swath ∧ (∀ b, t.newest = some b → b.recs ≠ [] → b.closed = true) ∧
        (∀ i < 7, (t.reg Reg.SR_DEV_EOL_MIN).toNat ≤ (t.reg (Reg.SR_DEV_EOL i)).toNat) ∧
        (∃ i < 7, t.reg Reg.SR_DEV_EOL_MIN = t.reg (Reg.SR_DEV_EOL i)) ∧
        ∀ (k : Fin 32) x c, s.sr.slots.get k = x → x.state ≠ 0 → s.classOf x = some c →
          (t.sr.slots.get k).n = x.n ∧ (t.sr.slots.get k).w = x.w ∧ (t.sr.slots.get k).hourOps = 0 ∧
          (t.sr.slots.get k).keptN = x.n ∧ (t.sr.slots.get k).keptW = x.w ∧
          (t.sr.slots.get k).hours = (x.hourOps :: x.hours).take 168 ∧
          (∀ sum, sum = x.recent.foldl (· + ·) 0 → sum ≠ 0 → trendOps x c.tLim = none →
            (t.sr.slots.get k).pred =
              word32 (min (c.nMech - x.n) ((65536 * c.nElec - x.w) * x.recent.length / sum)) ∧
            (x.warned = false → min (c.nMech - x.n) ((65536 * c.nElec - x.w) * x.recent.length / sum) ≤ c.warnOps →
              (t.sr.slots.get k).state = 3 ∧ Told s.swath srcSR kWearLimit (faultAddr 63 k.val) t))) ∧
    (∀ off : BitVec 28, s.coreOn = true → (DoesOnly [.regs] (.srWinJournal off) s fun t =>
        t.fld F.SR_WIN_SEL_SRC = 1 ∧ t.fld F.SR_WIN_SEL_OFFSET = off.toNat / 4 * 4 ∧
        t.flag F.SR_WIN_STATUS_READY = false ∧
        RegsKeep (fun a => a == Reg.SR_WIN_SEL || a == Reg.SR_WIN_STATUS) s t) ∧
      (DoesOnly [.regs] (.srWinReport off) s fun t =>
        t.fld F.SR_WIN_SEL_SRC = 2 ∧ t.fld F.SR_WIN_SEL_OFFSET = off.toNat / 4 * 4 ∧
        t.flag F.SR_WIN_STATUS_READY = false ∧
        RegsKeep (fun a => a == Reg.SR_WIN_SEL || a == Reg.SR_WIN_STATUS) s t)) ∧
    (s.fld F.SR_WIN_SEL_SRC = 0 ∨ s.flag F.SR_WIN_STATUS_READY = true → Does .windowReady s fun t => t = s) ∧
    (∀ off n, off = s.fld F.SR_WIN_SEL_OFFSET → s.flag F.SR_WIN_STATUS_READY = false →
      (s.fld F.SR_WIN_SEL_SRC = 1 → n = min 512 ((s.jslots * 24576 - off) / 4) →
        DoesOnly [.regs] .windowReady s fun t =>
          t.flag F.SR_WIN_STATUS_READY = true ∧ t.fld F.SR_WIN_STATUS_BYTES = 4 * n ∧
          ∀ i < 512, t.reg (Reg.SR_WIN i) = if i < n then s.journalWord (off + 4 * i) else 0#32) ∧
      (s.fld F.SR_WIN_SEL_SRC = 2 → n = min 512 ((4 * s.sr.report.length - off) / 4) →
        DoesOnly [.regs] .windowReady s fun t =>
          t.flag F.SR_WIN_STATUS_READY = true ∧ t.fld F.SR_WIN_STATUS_BYTES = 4 * n ∧
          ∀ i < 512, t.reg (Reg.SR_WIN i) = if i < n then s.sr.report.getD (off / 4 + i) 0#32 else 0#32)) ∧
    (s.env.pfail = true → Does .pfailAssert s fun t => t = s) ∧
    (s.env.pfail = false → DoesOnly (.sr :: faultParts) .pfailAssert s fun t =>
      t.env.pfail = true ∧ Told s.swath srcPWR kPfail (faultAddr 63 63) t ∧
      t.sr = { s.sr with
        pfailAt := s.tick, due := s.sr.due ++ [(0, 2, 0, [s.reg Reg.SR_LEAF, BitVec.ofNat 32 s.backlog])] }) ∧
    (DoesOnly [.env] .pfailDeassert s fun t => t.env = { s.env with pfail := false })

/-! ## Power -/

/-- R513, R518-R529, R532: a request waits and is judged at a boundary: entered, kept waiting or refused with its code; a wake is
latched with its source and exits once its domains are ready; the logic die reports its heat once; with the core domain off in Dormant
no command to it acts (R515). A request replaces one that waits, and a sheaf's is made where its entry has changed with REQ set and no host
request came first. Which code a refused entry names where several refusers hold is the model's choice (log entry 48). -/
def Obligations.PowerRequestsAreJudgedAndWakesLatched : Prop :=
  ∀ s : State,
    (∀ v : Word, wbits v 6 4 = 3 ∨ 5 ≤ wbits v 6 4 → Does (.powerRequest v) s fun t => t = s) ∧
    (∀ v : Word, s.coreOn = true → wbits v 6 4 ≠ 3 → wbits v 6 4 < 5 → (wbits v 6 4 ≠ 0 ∨ (s.pwr.mode ≠ 1 ∧ s.pwr.mode ≠ 2)) →
      DoesOnly [.regs, .pwr] (.powerRequest v) s fun t =>
        t.pwr = { s.pwr with req := some ⟨wbits v 6 4, wbits v 1 0, false, none⟩ } ∧
        t.reg Reg.PWR_TARGET = v &&& 0xF3#32 ∧
        RegsKeep (fun a => a == Reg.PWR_TARGET || a == Reg.PWR_STATUS) s t) ∧
    (∀ v : Word, wbits v 6 4 = 0 → s.pwr.mode = 1 ∨ s.pwr.mode = 2 → DoesOnly [.regs, .pwr] (.powerRequest v) s fun t =>
      t.pwr.req = if wbits v 1 0 = s.fld F.PWR_STATUS_LEVEL then none else some ⟨0, wbits v 1 0, false, none⟩) ∧
    (∀ p (v before : Word), s.fld F.PWR_CFG_REQ_PAIR = p → (s.readEntry (64 + p)).value = v →
      (p < 4 → v ≠ before → wbit v 7 = true → wbits v 6 4 ≠ 3 → wbits v 6 4 < 5 →
        (∀ r, s.pwr.req = some r → r.sheaf = true ∨ r.since.isSome = true) →
        (s.sheafRequest before).pwr = { s.pwr with req := some ⟨wbits v 6 4, wbits v 1 0, true, none⟩ }) ∧
      (4 ≤ p ∨ v = before ∨ wbit v 7 = false ∨ wbits v 6 4 = 3 ∨ 5 ≤ wbits v 6 4 ∨
          (∃ r, s.pwr.req = some r ∧ r.sheaf = false ∧ r.since = none) → s.sheafRequest before = s)) ∧
    (s.atBoundary = false ∨ s.pwr.handover.isSome = true ∨ s.pwr.mode = 4 ∨ s.pwr.req = none →
      Does .requestJudge s fun t => t = s) ∧
    (∀ r k, s.atBoundary = true → s.pwr.handover = none → s.pwr.mode ≠ 4 → s.pwr.req = some r → k = r.since.getD s.swath →
      (r.state = 0 ∨ r.state = s.pwr.mode → r.level = s.fld F.PWR_STATUS_LEVEL →
        DoesOnly [.regs, .pwr] .requestJudge s fun t => t.pwr = { s.pwr with req := none }) ∧
      (r.state = 0 ∨ r.state = s.pwr.mode → r.level ≠ s.fld F.PWR_STATUS_LEVEL → s.refuser r = none →
        DoesOnly [.regs, .pwr] .requestJudge s fun t =>
          t.pwr = { s.pwr with req := none, levelNext := some r.level }) ∧
      (r.state ≠ s.pwr.mode → s.refuser r = none →
        (r.state = 1 → DoesOnly [.regs, .sig, .pipe, .pairs, .pwr] .requestJudge s fun t =>
          t.pwr.mode = 1 ∧ t.pwr.req = none ∧ t.fld F.PWR_STATUS_STATE = 2 ∧
          ∀ p, (s.pairs.get p).prog.isSome = true → (s.pairs.get p).halted = false → (s.pairs.get p).blocked = none →
            (t.pairs.get p).ctx = none ∧ (t.pairs.get p).tines = [] ∧ (t.pairs.get p).commit = none) ∧
        (r.state = 2 → DoesOnly (.wdg :: .cvu :: .sr :: .gln :: .pwr :: faultParts) .requestJudge s fun t =>
          t.pwr.mode = 2 ∧ t.pwr.req = none ∧ t.fld F.PWR_STATUS_STATE = 3 ∧ t.sr.session = none ∧
          t.yk.helloAt = (if s.yokeMode = 0 then s.yk.helloAt else none) ∧
          (s.yokeMode ≠ 0 → t.env.yfltOut = false)) ∧
        (r.state = 4 → DoesOnly (.wdg :: .chans :: .cvu :: .sr :: .gln :: .pwr :: faultParts) .requestJudge s fun t =>
          t.pwr.mode = s.pwr.mode ∧ t.pwr.handover = some [] ∧ t.pwr.req = none ∧
          t.fld F.SYS_STATE_ARMED_HALVES = 0 ∧ t.sr.session = none ∧ t.wdg.a0 = none ∧
          ∀ h, (t.half h).nightTx = true)) ∧
      (∀ code, (r.state ≠ 0 ∧ r.state ≠ s.pwr.mode) ∨ r.level ≠ s.fld F.PWR_STATUS_LEVEL → s.refuser r = some code →
        (k + s.fld F.PWR_CFG_ENTRY_GRACE ≤ s.swath → DoesOnly (.pwr :: faultParts) .requestJudge s fun t =>
          t.pwr = { s.pwr with req := none } ∧ Counted s F.PWR_REFUSED_COUNT t ∧ t.fld F.PWR_REFUSER_CODE = code ∧
          Told s.swath srcPWR kPwrRefused (faultAddr r.state code) t) ∧
        (s.swath < k + s.fld F.PWR_CFG_ENTRY_GRACE → DoesOnly [.regs, .pwr] .requestJudge s fun t =>
          t.pwr = { s.pwr with req := some { r with since := some k } } ∧ t.flag F.PWR_STATUS_WAITING = true))) ∧
    (∀ i src ch, s.pwr.wake = none → s.pwr.mode < 16 →
      ((∃ v : Word, i = .powerRequest v ∧ wbits v 6 4 = 0 ∧ (s.pwr.mode = 1 ∨ s.pwr.mode = 2) ∧ src = 1 ∧ ch = 0) ∨
        (∃ l : Fin 4, i = .wakeHost l ∧ (s.pwr.mode = 1 ∨ s.pwr.mode = 2) ∧ src = 1 ∧ ch = 0) ∨
        (i = .wakePin ∧ s.asleep = true ∧ s.flag F.PWR_WAKE_CFG_PIN = true ∧ src = 2 ∧ ch = 0) ∨
        (∃ c : ChIx, i = .wakeDi c ∧ s.asleep = true ∧ (s.fld F.PWR_WAKE_CFG_DI).testBit c.val = true ∧ s.func c = fDI ∧
          src = 3 ∧ ch = c.val) ∨
        (i = .wakeHsel ∧ (s.pwr.mode = 4 ∨ s.pwr.handover.isSome = true) ∧ s.flag F.PWR_WAKE_CFG_HSEL = true ∧
          s.env.vioMv ≠ 0 ∧ src = 4 ∧ ch = 0) ∨
        (i = .wakeAlarm ∧ s.pwr.mode = 4 ∧ s.flag F.PWR_WAKE_CFG_ALARM = true ∧ s.swath32 = s.reg Reg.PWR_WAKE_AT ∧
          s.tick < s.btick + 1024 ∧ src = 5 ∧ ch = 0) ∨
        (i = .wakeAlarm ∧ s.pwr.mode ≠ 1 ∧ s.pwr.mode ≠ 2 ∧ s.pwr.handover.isSome = true ∧ s.atBoundary = true ∧
          s.flag F.PWR_WAKE_CFG_ALARM = true ∧ s.swath32 = s.reg Reg.PWR_WAKE_AT ∧ src = 5 ∧ ch = 0)) →
      DoesOnly [.regs, .pwr] i s fun t =>
        t.pwr.wake = some (src, ch) ∧ t.pwr.ready = false ∧ t.pwr.mode = s.pwr.mode ∧
        t.fld F.PWR_WAKE_CAUSE_SOURCE = src ∧ t.fld F.PWR_WAKE_CAUSE_CHANNEL = ch ∧
        (s.pwr.handover = none → t.fld F.PWR_WAKE_CAUSE_FROM = s.pwr.mode) ∧
        (s.pwr.handover.isSome = true → t.pwr.replay = true ∧ t.fld F.PWR_WAKE_CAUSE_FROM = 4)) ∧
    (s.asleep = false → (Does .wakePin s fun t => t = s) ∧ (∀ c, Does (.wakeDi c) s fun t => t = s) ∧
      (Does .wakeHsel s fun t => t = s) ∧ (Does .wakeAlarm s fun t => t = s) ∧
      ∀ l, Does (.wakeHost l) s fun t => t = s) ∧
    (s.flag F.PWR_WAKE_CFG_ALARM = true → s.swath32 = s.reg Reg.PWR_WAKE_AT → s.pwr.mode = 1 ∨ s.pwr.mode = 2 →
      s.atBoundary = true → s.pwr.handover = none → s.pwr.wake = none →
      DoesOnly [.regs, .sig, .pipe, .pairs, .gln, .pwr] .wakeAlarm s fun t =>
        t.pwr.mode = 0 ∧ t.pwr.wake = none ∧ t.fld F.PWR_STATUS_STATE = 0 ∧ t.fld F.PWR_WAKE_CAUSE_SOURCE = 5 ∧
        ∀ p, (t.pairs.get p).judgeFrom = some s.swath) ∧
    (s.pwr.wake.isSome = true → s.pwr.mode ≠ 0 → s.pwr.ready = false →
      (DoesOnly [.regs, .env, .pwr] (.wakeReady true) s fun t =>
        t.pwr = { s.pwr with ready := true } ∧ (s.pwr.mode ≠ 4 → t.env = s.env) ∧
        (s.pwr.mode = 4 → t.env = { s.env with pll := true } ∧
          (s.env.pll = false → t.flag F.TB_CLK_STATUS_PLL_LOCK = true) ∧
          ∀ h : HalfIx, t.fld (F.BD_STATUS_LINK h.val) = 1)) ∧
      (Does (.wakeReady false) s fun t =>
        t.isBoot = true ∧ t.swath = 0 ∧ t.fld (F.FC_SRC_CNT_LAST_KIND srcGRN) = kCellarLost)) ∧
    (∀ ok, s.pwr.wake = none ∨ s.pwr.mode = 0 ∨ s.pwr.ready = true → Does (.wakeReady ok) s fun t => t = s) ∧
    (s.pwr.hot = false → DoesOnly (.pwr :: faultParts) .logicHot s fun t =>
      t.pwr = { s.pwr with hot := true } ∧ Told s.swath srcPWR kLogicHot (faultAddr 63 63) t) ∧
    (s.pwr.hot = true → Does .logicHot s fun t => t = s) ∧
    (DoesOnly [.pwr] .logicCooled s fun t => t.pwr = { s.pwr with hot := false }) ∧
    (s.coreOn = false → ∀ i, coreCommand i = true → Does i s fun t => t = s)

/-! ## The whole machine -/

/-- The command at the front of the queue acts on the state with the queue's rest. With an empty queue the model lets time pass (log
entry 1): nothing while no clock runs, else at least one tick inside the swath. -/
def Obligations.StepTakesTheFrontCommand : Prop :=
  (∀ (i : Instr) (s : State), step { s with pending := i :: s.pending } = exec i s) ∧
  (∀ s : State, s.pending = [] →
    (s.env.pll = false → step s = .next s) ∧
    (s.env.pll = true → s.hp.writes = [] → s.hp.sending = [] → (∀ p, (s.pairs.get p).due = []) → s.tick + 1 < 2 ^ 64 →
      s.tick + 1 < s.btick + s.swLen → ∃ t, step s = .next t ∧ OnlyChanges [.regs] s t ∧ t.tick = s.tick + 1 ∧
        t.swath = s.swath ∧ t.btick = s.btick))

/-- R12, R18, R45, R60, R376: the machine at power-on: its registers hold the values their chapters give for reset, nothing is
listed in memory, signal table and queues, and no half is armed. What memory reads as is the model's (log entry 2), and so is SR_SERIAL,
for which no chapter gives a value (log entry 3). -/
def Obligations.ResetHoldsTheStatedValues : Prop :=
  State.reset.memWf ∧ State.reset.queueWf ∧ State.reset.pending = [] ∧ State.reset.queue = [] ∧
    (∀ a, State.reset.reg a = regReset a) ∧ (∀ i, State.reset.entry i = {}) ∧ State.reset.isBoot = true ∧
    State.reset.fld F.SYS_STATE_ARMED_HALVES = 0 ∧ State.reset.tick = 0 ∧ State.reset.swath = 0 ∧
    State.reset.lNom = 24000 ∧ State.reset.fc.latches = [] ∧ State.reset.fc.pends = [] ∧
    (∀ c, (State.reset.chan c).closed = false) ∧ (∀ p, (State.reset.pairs.get p).ctx = none) ∧
    ∀ a, State.reset.readByte a = 0#8

/-- Every step keeps the addressed memory in its canonical form and every command that waits well-formed. -/
def Obligations.StepsKeepMemoryAndQueueSound : Prop :=
  ∀ s t : State, s.memWf → s.queueWf → step s = .next t → t.memWf ∧ t.queueWf

/-- R286, R313, R314, R375: what every step keeps of the queue, the Cribs and the pipeline: the stamped-write queue holds at most 64 writes;
what stands in a Crib unpublished is an entry of at most eight words of a Binder pair, as every other producer publishes as it writes;
and a blocked pair has no evaluation, no tine and no commit, and is not halted. -/
def Obligations.StepsKeepQueueCribsAndPairsSound : Prop :=
  ∀ s t : State, step s = .next t →
    (s.stampedFit → t.stampedFit) ∧ (s.cribsSound → t.cribsSound) ∧ (s.blockedIdle → t.blockedIdle)

/-- Every command but a pin beyond its absolute maximum ratings answers a next state with the queue as it was; R335, R336: the
rollback counter never falls, and fused keys are never blank again. -/
def Obligations.CommandsAnswerAndFusesOnlyRise : Prop :=
  ∀ (i : Instr) (s : State), beyond i = false → ∃ t, exec i s = .next t ∧ t.pending = s.pending ∧
    s.boot.rollback ≤ t.boot.rollback ∧ (s.boot.keyHash.isSome = true → t.boot.keyHash.isSome = true) ∧
    (s.boot.svcKey.isSome = true → t.boot.svcKey.isSome = true)
end

