-- ==== Sys2Proof/Laws/State.lean ====
section
/-!
SUPPORT. Laws/State.lean: what each named update of the state leaves alone, one lemma per part, and what reading the updated
part gives.
-/
namespace Sys2Proof.Machine

@[simp] theorem State.setReg_mem (s : State) (a : Nat) (v : Word) : (s.setReg a v).mem = s.mem := rfl
@[simp] theorem State.setReg_sig (s : State) (a : Nat) (v : Word) : (s.setReg a v).sig = s.sig := rfl
@[simp] theorem State.setReg_env (s : State) (a : Nat) (v : Word) : (s.setReg a v).env = s.env := rfl
@[simp] theorem State.setReg_tb (s : State) (a : Nat) (v : Word) : (s.setReg a v).tb = s.tb := rfl
@[simp] theorem State.setReg_fc (s : State) (a : Nat) (v : Word) : (s.setReg a v).fc = s.fc := rfl
@[simp] theorem State.setReg_wdg (s : State) (a : Nat) (v : Word) : (s.setReg a v).wdg = s.wdg := rfl
@[simp] theorem State.setReg_pipe (s : State) (a : Nat) (v : Word) : (s.setReg a v).pipe = s.pipe := rfl
@[simp] theorem State.setReg_out (s : State) (a : Nat) (v : Word) : (s.setReg a v).out = s.out := rfl
@[simp] theorem State.setReg_chans (s : State) (a : Nat) (v : Word) : (s.setReg a v).chans = s.chans := rfl
@[simp] theorem State.setReg_halves (s : State) (a : Nat) (v : Word) : (s.setReg a v).halves = s.halves := rfl
@[simp] theorem State.setReg_pairs (s : State) (a : Nat) (v : Word) : (s.setReg a v).pairs = s.pairs := rfl
@[simp] theorem State.setReg_cribs (s : State) (a : Nat) (v : Word) : (s.setReg a v).cribs = s.cribs := rfl
@[simp] theorem State.setReg_boot (s : State) (a : Nat) (v : Word) : (s.setReg a v).boot = s.boot := rfl
@[simp] theorem State.setReg_recfg (s : State) (a : Nat) (v : Word) : (s.setReg a v).recfg = s.recfg := rfl
@[simp] theorem State.setReg_cvu (s : State) (a : Nat) (v : Word) : (s.setReg a v).cvu = s.cvu := rfl
@[simp] theorem State.setReg_sr (s : State) (a : Nat) (v : Word) : (s.setReg a v).sr = s.sr := rfl
@[simp] theorem State.setReg_gln (s : State) (a : Nat) (v : Word) : (s.setReg a v).gln = s.gln := rfl
@[simp] theorem State.setReg_pwr (s : State) (a : Nat) (v : Word) : (s.setReg a v).pwr = s.pwr := rfl
@[simp] theorem State.setReg_yk (s : State) (a : Nat) (v : Word) : (s.setReg a v).yk = s.yk := rfl
@[simp] theorem State.setReg_hp (s : State) (a : Nat) (v : Word) : (s.setReg a v).hp = s.hp := rfl
@[simp] theorem State.setReg_forces (s : State) (a : Nat) (v : Word) : (s.setReg a v).forces = s.forces := rfl
@[simp] theorem State.setReg_forceNext (s : State) (a : Nat) (v : Word) : (s.setReg a v).forceNext = s.forceNext := rfl
@[simp] theorem State.setReg_queue (s : State) (a : Nat) (v : Word) : (s.setReg a v).queue = s.queue := rfl
@[simp] theorem State.setReg_perf (s : State) (a : Nat) (v : Word) : (s.setReg a v).perf = s.perf := rfl
@[simp] theorem State.setReg_scrub (s : State) (a : Nat) (v : Word) : (s.setReg a v).scrub = s.scrub := rfl
@[simp] theorem State.setReg_free (s : State) (a : Nat) (v : Word) : (s.setReg a v).free = s.free := rfl
@[simp] theorem State.setReg_pending (s : State) (a : Nat) (v : Word) : (s.setReg a v).pending = s.pending := rfl

@[simp] theorem State.setF_mem (s : State) (f : Fld) (v : Nat) : (s.setF f v).mem = s.mem := rfl
@[simp] theorem State.setF_sig (s : State) (f : Fld) (v : Nat) : (s.setF f v).sig = s.sig := rfl
@[simp] theorem State.setF_env (s : State) (f : Fld) (v : Nat) : (s.setF f v).env = s.env := rfl
@[simp] theorem State.setF_tb (s : State) (f : Fld) (v : Nat) : (s.setF f v).tb = s.tb := rfl
@[simp] theorem State.setF_fc (s : State) (f : Fld) (v : Nat) : (s.setF f v).fc = s.fc := rfl
@[simp] theorem State.setF_wdg (s : State) (f : Fld) (v : Nat) : (s.setF f v).wdg = s.wdg := rfl
@[simp] theorem State.setF_pipe (s : State) (f : Fld) (v : Nat) : (s.setF f v).pipe = s.pipe := rfl
@[simp] theorem State.setF_out (s : State) (f : Fld) (v : Nat) : (s.setF f v).out = s.out := rfl
@[simp] theorem State.setF_chans (s : State) (f : Fld) (v : Nat) : (s.setF f v).chans = s.chans := rfl
@[simp] theorem State.setF_halves (s : State) (f : Fld) (v : Nat) : (s.setF f v).halves = s.halves := rfl
@[simp] theorem State.setF_pairs (s : State) (f : Fld) (v : Nat) : (s.setF f v).pairs = s.pairs := rfl
@[simp] theorem State.setF_cribs (s : State) (f : Fld) (v : Nat) : (s.setF f v).cribs = s.cribs := rfl
@[simp] theorem State.setF_boot (s : State) (f : Fld) (v : Nat) : (s.setF f v).boot = s.boot := rfl
@[simp] theorem State.setF_recfg (s : State) (f : Fld) (v : Nat) : (s.setF f v).recfg = s.recfg := rfl
@[simp] theorem State.setF_cvu (s : State) (f : Fld) (v : Nat) : (s.setF f v).cvu = s.cvu := rfl
@[simp] theorem State.setF_sr (s : State) (f : Fld) (v : Nat) : (s.setF f v).sr = s.sr := rfl
@[simp] theorem State.setF_gln (s : State) (f : Fld) (v : Nat) : (s.setF f v).gln = s.gln := rfl
@[simp] theorem State.setF_pwr (s : State) (f : Fld) (v : Nat) : (s.setF f v).pwr = s.pwr := rfl
@[simp] theorem State.setF_yk (s : State) (f : Fld) (v : Nat) : (s.setF f v).yk = s.yk := rfl
@[simp] theorem State.setF_hp (s : State) (f : Fld) (v : Nat) : (s.setF f v).hp = s.hp := rfl
@[simp] theorem State.setF_forces (s : State) (f : Fld) (v : Nat) : (s.setF f v).forces = s.forces := rfl
@[simp] theorem State.setF_forceNext (s : State) (f : Fld) (v : Nat) : (s.setF f v).forceNext = s.forceNext := rfl
@[simp] theorem State.setF_queue (s : State) (f : Fld) (v : Nat) : (s.setF f v).queue = s.queue := rfl
@[simp] theorem State.setF_perf (s : State) (f : Fld) (v : Nat) : (s.setF f v).perf = s.perf := rfl
@[simp] theorem State.setF_scrub (s : State) (f : Fld) (v : Nat) : (s.setF f v).scrub = s.scrub := rfl
@[simp] theorem State.setF_free (s : State) (f : Fld) (v : Nat) : (s.setF f v).free = s.free := rfl
@[simp] theorem State.setF_pending (s : State) (f : Fld) (v : Nat) : (s.setF f v).pending = s.pending := rfl

@[simp] theorem State.setB_mem (s : State) (f : Fld) (b : Bool) : (s.setB f b).mem = s.mem := rfl
@[simp] theorem State.setB_sig (s : State) (f : Fld) (b : Bool) : (s.setB f b).sig = s.sig := rfl
@[simp] theorem State.setB_env (s : State) (f : Fld) (b : Bool) : (s.setB f b).env = s.env := rfl
@[simp] theorem State.setB_tb (s : State) (f : Fld) (b : Bool) : (s.setB f b).tb = s.tb := rfl
@[simp] theorem State.setB_fc (s : State) (f : Fld) (b : Bool) : (s.setB f b).fc = s.fc := rfl
@[simp] theorem State.setB_wdg (s : State) (f : Fld) (b : Bool) : (s.setB f b).wdg = s.wdg := rfl
@[simp] theorem State.setB_pipe (s : State) (f : Fld) (b : Bool) : (s.setB f b).pipe = s.pipe := rfl
@[simp] theorem State.setB_out (s : State) (f : Fld) (b : Bool) : (s.setB f b).out = s.out := rfl
@[simp] theorem State.setB_chans (s : State) (f : Fld) (b : Bool) : (s.setB f b).chans = s.chans := rfl
@[simp] theorem State.setB_halves (s : State) (f : Fld) (b : Bool) : (s.setB f b).halves = s.halves := rfl
@[simp] theorem State.setB_pairs (s : State) (f : Fld) (b : Bool) : (s.setB f b).pairs = s.pairs := rfl
@[simp] theorem State.setB_cribs (s : State) (f : Fld) (b : Bool) : (s.setB f b).cribs = s.cribs := rfl
@[simp] theorem State.setB_boot (s : State) (f : Fld) (b : Bool) : (s.setB f b).boot = s.boot := rfl
@[simp] theorem State.setB_recfg (s : State) (f : Fld) (b : Bool) : (s.setB f b).recfg = s.recfg := rfl
@[simp] theorem State.setB_cvu (s : State) (f : Fld) (b : Bool) : (s.setB f b).cvu = s.cvu := rfl
@[simp] theorem State.setB_sr (s : State) (f : Fld) (b : Bool) : (s.setB f b).sr = s.sr := rfl
@[simp] theorem State.setB_gln (s : State) (f : Fld) (b : Bool) : (s.setB f b).gln = s.gln := rfl
@[simp] theorem State.setB_pwr (s : State) (f : Fld) (b : Bool) : (s.setB f b).pwr = s.pwr := rfl
@[simp] theorem State.setB_yk (s : State) (f : Fld) (b : Bool) : (s.setB f b).yk = s.yk := rfl
@[simp] theorem State.setB_hp (s : State) (f : Fld) (b : Bool) : (s.setB f b).hp = s.hp := rfl
@[simp] theorem State.setB_forces (s : State) (f : Fld) (b : Bool) : (s.setB f b).forces = s.forces := rfl
@[simp] theorem State.setB_forceNext (s : State) (f : Fld) (b : Bool) : (s.setB f b).forceNext = s.forceNext := rfl
@[simp] theorem State.setB_queue (s : State) (f : Fld) (b : Bool) : (s.setB f b).queue = s.queue := rfl
@[simp] theorem State.setB_perf (s : State) (f : Fld) (b : Bool) : (s.setB f b).perf = s.perf := rfl
@[simp] theorem State.setB_scrub (s : State) (f : Fld) (b : Bool) : (s.setB f b).scrub = s.scrub := rfl
@[simp] theorem State.setB_free (s : State) (f : Fld) (b : Bool) : (s.setB f b).free = s.free := rfl
@[simp] theorem State.setB_pending (s : State) (f : Fld) (b : Bool) : (s.setB f b).pending = s.pending := rfl

@[simp] theorem State.writeByte_regs (s : State) (a : Nat) (b : Byte) : (s.writeByte a b).regs = s.regs := rfl
@[simp] theorem State.writeByte_sig (s : State) (a : Nat) (b : Byte) : (s.writeByte a b).sig = s.sig := rfl
@[simp] theorem State.writeByte_env (s : State) (a : Nat) (b : Byte) : (s.writeByte a b).env = s.env := rfl
@[simp] theorem State.writeByte_tb (s : State) (a : Nat) (b : Byte) : (s.writeByte a b).tb = s.tb := rfl
@[simp] theorem State.writeByte_fc (s : State) (a : Nat) (b : Byte) : (s.writeByte a b).fc = s.fc := rfl
@[simp] theorem State.writeByte_wdg (s : State) (a : Nat) (b : Byte) : (s.writeByte a b).wdg = s.wdg := rfl
@[simp] theorem State.writeByte_pipe (s : State) (a : Nat) (b : Byte) : (s.writeByte a b).pipe = s.pipe := rfl
@[simp] theorem State.writeByte_out (s : State) (a : Nat) (b : Byte) : (s.writeByte a b).out = s.out := rfl
@[simp] theorem State.writeByte_chans (s : State) (a : Nat) (b : Byte) : (s.writeByte a b).chans = s.chans := rfl
@[simp] theorem State.writeByte_halves (s : State) (a : Nat) (b : Byte) : (s.writeByte a b).halves = s.halves := rfl
@[simp] theorem State.writeByte_pairs (s : State) (a : Nat) (b : Byte) : (s.writeByte a b).pairs = s.pairs := rfl
@[simp] theorem State.writeByte_cribs (s : State) (a : Nat) (b : Byte) : (s.writeByte a b).cribs = s.cribs := rfl
@[simp] theorem State.writeByte_boot (s : State) (a : Nat) (b : Byte) : (s.writeByte a b).boot = s.boot := rfl
@[simp] theorem State.writeByte_recfg (s : State) (a : Nat) (b : Byte) : (s.writeByte a b).recfg = s.recfg := rfl
@[simp] theorem State.writeByte_cvu (s : State) (a : Nat) (b : Byte) : (s.writeByte a b).cvu = s.cvu := rfl
@[simp] theorem State.writeByte_sr (s : State) (a : Nat) (b : Byte) : (s.writeByte a b).sr = s.sr := rfl
@[simp] theorem State.writeByte_gln (s : State) (a : Nat) (b : Byte) : (s.writeByte a b).gln = s.gln := rfl
@[simp] theorem State.writeByte_pwr (s : State) (a : Nat) (b : Byte) : (s.writeByte a b).pwr = s.pwr := rfl
@[simp] theorem State.writeByte_yk (s : State) (a : Nat) (b : Byte) : (s.writeByte a b).yk = s.yk := rfl
@[simp] theorem State.writeByte_hp (s : State) (a : Nat) (b : Byte) : (s.writeByte a b).hp = s.hp := rfl
@[simp] theorem State.writeByte_forces (s : State) (a : Nat) (b : Byte) : (s.writeByte a b).forces = s.forces := rfl
@[simp] theorem State.writeByte_forceNext (s : State) (a : Nat) (b : Byte) : (s.writeByte a b).forceNext = s.forceNext := rfl
@[simp] theorem State.writeByte_queue (s : State) (a : Nat) (b : Byte) : (s.writeByte a b).queue = s.queue := rfl
@[simp] theorem State.writeByte_perf (s : State) (a : Nat) (b : Byte) : (s.writeByte a b).perf = s.perf := rfl
@[simp] theorem State.writeByte_scrub (s : State) (a : Nat) (b : Byte) : (s.writeByte a b).scrub = s.scrub := rfl
@[simp] theorem State.writeByte_free (s : State) (a : Nat) (b : Byte) : (s.writeByte a b).free = s.free := rfl
@[simp] theorem State.writeByte_pending (s : State) (a : Nat) (b : Byte) : (s.writeByte a b).pending = s.pending := rfl

@[simp] theorem State.updChan_regs (s : State) (c : ChIx) (f : Chan → Chan) : (s.updChan c f).regs = s.regs := rfl
@[simp] theorem State.updChan_mem (s : State) (c : ChIx) (f : Chan → Chan) : (s.updChan c f).mem = s.mem := rfl
@[simp] theorem State.updChan_sig (s : State) (c : ChIx) (f : Chan → Chan) : (s.updChan c f).sig = s.sig := rfl
@[simp] theorem State.updChan_env (s : State) (c : ChIx) (f : Chan → Chan) : (s.updChan c f).env = s.env := rfl
@[simp] theorem State.updChan_tb (s : State) (c : ChIx) (f : Chan → Chan) : (s.updChan c f).tb = s.tb := rfl
@[simp] theorem State.updChan_fc (s : State) (c : ChIx) (f : Chan → Chan) : (s.updChan c f).fc = s.fc := rfl
@[simp] theorem State.updChan_wdg (s : State) (c : ChIx) (f : Chan → Chan) : (s.updChan c f).wdg = s.wdg := rfl
@[simp] theorem State.updChan_pipe (s : State) (c : ChIx) (f : Chan → Chan) : (s.updChan c f).pipe = s.pipe := rfl
@[simp] theorem State.updChan_out (s : State) (c : ChIx) (f : Chan → Chan) : (s.updChan c f).out = s.out := rfl
@[simp] theorem State.updChan_halves (s : State) (c : ChIx) (f : Chan → Chan) : (s.updChan c f).halves = s.halves := rfl
@[simp] theorem State.updChan_pairs (s : State) (c : ChIx) (f : Chan → Chan) : (s.updChan c f).pairs = s.pairs := rfl
@[simp] theorem State.updChan_cribs (s : State) (c : ChIx) (f : Chan → Chan) : (s.updChan c f).cribs = s.cribs := rfl
@[simp] theorem State.updChan_boot (s : State) (c : ChIx) (f : Chan → Chan) : (s.updChan c f).boot = s.boot := rfl
@[simp] theorem State.updChan_recfg (s : State) (c : ChIx) (f : Chan → Chan) : (s.updChan c f).recfg = s.recfg := rfl
@[simp] theorem State.updChan_cvu (s : State) (c : ChIx) (f : Chan → Chan) : (s.updChan c f).cvu = s.cvu := rfl
@[simp] theorem State.updChan_sr (s : State) (c : ChIx) (f : Chan → Chan) : (s.updChan c f).sr = s.sr := rfl
@[simp] theorem State.updChan_gln (s : State) (c : ChIx) (f : Chan → Chan) : (s.updChan c f).gln = s.gln := rfl
@[simp] theorem State.updChan_pwr (s : State) (c : ChIx) (f : Chan → Chan) : (s.updChan c f).pwr = s.pwr := rfl
@[simp] theorem State.updChan_yk (s : State) (c : ChIx) (f : Chan → Chan) : (s.updChan c f).yk = s.yk := rfl
@[simp] theorem State.updChan_hp (s : State) (c : ChIx) (f : Chan → Chan) : (s.updChan c f).hp = s.hp := rfl
@[simp] theorem State.updChan_forces (s : State) (c : ChIx) (f : Chan → Chan) : (s.updChan c f).forces = s.forces := rfl
@[simp] theorem State.updChan_forceNext (s : State) (c : ChIx) (f : Chan → Chan) : (s.updChan c f).forceNext = s.forceNext := rfl
@[simp] theorem State.updChan_queue (s : State) (c : ChIx) (f : Chan → Chan) : (s.updChan c f).queue = s.queue := rfl
@[simp] theorem State.updChan_perf (s : State) (c : ChIx) (f : Chan → Chan) : (s.updChan c f).perf = s.perf := rfl
@[simp] theorem State.updChan_scrub (s : State) (c : ChIx) (f : Chan → Chan) : (s.updChan c f).scrub = s.scrub := rfl
@[simp] theorem State.updChan_free (s : State) (c : ChIx) (f : Chan → Chan) : (s.updChan c f).free = s.free := rfl
@[simp] theorem State.updChan_pending (s : State) (c : ChIx) (f : Chan → Chan) : (s.updChan c f).pending = s.pending := rfl

@[simp] theorem State.updHalf_regs (s : State) (h : HalfIx) (f : Half → Half) : (s.updHalf h f).regs = s.regs := rfl
@[simp] theorem State.updHalf_mem (s : State) (h : HalfIx) (f : Half → Half) : (s.updHalf h f).mem = s.mem := rfl
@[simp] theorem State.updHalf_sig (s : State) (h : HalfIx) (f : Half → Half) : (s.updHalf h f).sig = s.sig := rfl
@[simp] theorem State.updHalf_env (s : State) (h : HalfIx) (f : Half → Half) : (s.updHalf h f).env = s.env := rfl
@[simp] theorem State.updHalf_tb (s : State) (h : HalfIx) (f : Half → Half) : (s.updHalf h f).tb = s.tb := rfl
@[simp] theorem State.updHalf_fc (s : State) (h : HalfIx) (f : Half → Half) : (s.updHalf h f).fc = s.fc := rfl
@[simp] theorem State.updHalf_wdg (s : State) (h : HalfIx) (f : Half → Half) : (s.updHalf h f).wdg = s.wdg := rfl
@[simp] theorem State.updHalf_pipe (s : State) (h : HalfIx) (f : Half → Half) : (s.updHalf h f).pipe = s.pipe := rfl
@[simp] theorem State.updHalf_out (s : State) (h : HalfIx) (f : Half → Half) : (s.updHalf h f).out = s.out := rfl
@[simp] theorem State.updHalf_chans (s : State) (h : HalfIx) (f : Half → Half) : (s.updHalf h f).chans = s.chans := rfl
@[simp] theorem State.updHalf_pairs (s : State) (h : HalfIx) (f : Half → Half) : (s.updHalf h f).pairs = s.pairs := rfl
@[simp] theorem State.updHalf_cribs (s : State) (h : HalfIx) (f : Half → Half) : (s.updHalf h f).cribs = s.cribs := rfl
@[simp] theorem State.updHalf_boot (s : State) (h : HalfIx) (f : Half → Half) : (s.updHalf h f).boot = s.boot := rfl
@[simp] theorem State.updHalf_recfg (s : State) (h : HalfIx) (f : Half → Half) : (s.updHalf h f).recfg = s.recfg := rfl
@[simp] theorem State.updHalf_cvu (s : State) (h : HalfIx) (f : Half → Half) : (s.updHalf h f).cvu = s.cvu := rfl
@[simp] theorem State.updHalf_sr (s : State) (h : HalfIx) (f : Half → Half) : (s.updHalf h f).sr = s.sr := rfl
@[simp] theorem State.updHalf_gln (s : State) (h : HalfIx) (f : Half → Half) : (s.updHalf h f).gln = s.gln := rfl
@[simp] theorem State.updHalf_pwr (s : State) (h : HalfIx) (f : Half → Half) : (s.updHalf h f).pwr = s.pwr := rfl
@[simp] theorem State.updHalf_yk (s : State) (h : HalfIx) (f : Half → Half) : (s.updHalf h f).yk = s.yk := rfl
@[simp] theorem State.updHalf_hp (s : State) (h : HalfIx) (f : Half → Half) : (s.updHalf h f).hp = s.hp := rfl
@[simp] theorem State.updHalf_forces (s : State) (h : HalfIx) (f : Half → Half) : (s.updHalf h f).forces = s.forces := rfl
@[simp] theorem State.updHalf_forceNext (s : State) (h : HalfIx) (f : Half → Half) : (s.updHalf h f).forceNext = s.forceNext := rfl
@[simp] theorem State.updHalf_queue (s : State) (h : HalfIx) (f : Half → Half) : (s.updHalf h f).queue = s.queue := rfl
@[simp] theorem State.updHalf_perf (s : State) (h : HalfIx) (f : Half → Half) : (s.updHalf h f).perf = s.perf := rfl
@[simp] theorem State.updHalf_scrub (s : State) (h : HalfIx) (f : Half → Half) : (s.updHalf h f).scrub = s.scrub := rfl
@[simp] theorem State.updHalf_free (s : State) (h : HalfIx) (f : Half → Half) : (s.updHalf h f).free = s.free := rfl
@[simp] theorem State.updHalf_pending (s : State) (h : HalfIx) (f : Half → Half) : (s.updHalf h f).pending = s.pending := rfl

@[simp] theorem State.updPair_regs (s : State) (p : PairIx) (f : Pair → Pair) : (s.updPair p f).regs = s.regs := rfl
@[simp] theorem State.updPair_mem (s : State) (p : PairIx) (f : Pair → Pair) : (s.updPair p f).mem = s.mem := rfl
@[simp] theorem State.updPair_sig (s : State) (p : PairIx) (f : Pair → Pair) : (s.updPair p f).sig = s.sig := rfl
@[simp] theorem State.updPair_env (s : State) (p : PairIx) (f : Pair → Pair) : (s.updPair p f).env = s.env := rfl
@[simp] theorem State.updPair_tb (s : State) (p : PairIx) (f : Pair → Pair) : (s.updPair p f).tb = s.tb := rfl
@[simp] theorem State.updPair_fc (s : State) (p : PairIx) (f : Pair → Pair) : (s.updPair p f).fc = s.fc := rfl
@[simp] theorem State.updPair_wdg (s : State) (p : PairIx) (f : Pair → Pair) : (s.updPair p f).wdg = s.wdg := rfl
@[simp] theorem State.updPair_pipe (s : State) (p : PairIx) (f : Pair → Pair) : (s.updPair p f).pipe = s.pipe := rfl
@[simp] theorem State.updPair_out (s : State) (p : PairIx) (f : Pair → Pair) : (s.updPair p f).out = s.out := rfl
@[simp] theorem State.updPair_chans (s : State) (p : PairIx) (f : Pair → Pair) : (s.updPair p f).chans = s.chans := rfl
@[simp] theorem State.updPair_halves (s : State) (p : PairIx) (f : Pair → Pair) : (s.updPair p f).halves = s.halves := rfl
@[simp] theorem State.updPair_cribs (s : State) (p : PairIx) (f : Pair → Pair) : (s.updPair p f).cribs = s.cribs := rfl
@[simp] theorem State.updPair_boot (s : State) (p : PairIx) (f : Pair → Pair) : (s.updPair p f).boot = s.boot := rfl
@[simp] theorem State.updPair_recfg (s : State) (p : PairIx) (f : Pair → Pair) : (s.updPair p f).recfg = s.recfg := rfl
@[simp] theorem State.updPair_cvu (s : State) (p : PairIx) (f : Pair → Pair) : (s.updPair p f).cvu = s.cvu := rfl
@[simp] theorem State.updPair_sr (s : State) (p : PairIx) (f : Pair → Pair) : (s.updPair p f).sr = s.sr := rfl
@[simp] theorem State.updPair_gln (s : State) (p : PairIx) (f : Pair → Pair) : (s.updPair p f).gln = s.gln := rfl
@[simp] theorem State.updPair_pwr (s : State) (p : PairIx) (f : Pair → Pair) : (s.updPair p f).pwr = s.pwr := rfl
@[simp] theorem State.updPair_yk (s : State) (p : PairIx) (f : Pair → Pair) : (s.updPair p f).yk = s.yk := rfl
@[simp] theorem State.updPair_hp (s : State) (p : PairIx) (f : Pair → Pair) : (s.updPair p f).hp = s.hp := rfl
@[simp] theorem State.updPair_forces (s : State) (p : PairIx) (f : Pair → Pair) : (s.updPair p f).forces = s.forces := rfl
@[simp] theorem State.updPair_forceNext (s : State) (p : PairIx) (f : Pair → Pair) : (s.updPair p f).forceNext = s.forceNext := rfl
@[simp] theorem State.updPair_queue (s : State) (p : PairIx) (f : Pair → Pair) : (s.updPair p f).queue = s.queue := rfl
@[simp] theorem State.updPair_perf (s : State) (p : PairIx) (f : Pair → Pair) : (s.updPair p f).perf = s.perf := rfl
@[simp] theorem State.updPair_scrub (s : State) (p : PairIx) (f : Pair → Pair) : (s.updPair p f).scrub = s.scrub := rfl
@[simp] theorem State.updPair_free (s : State) (p : PairIx) (f : Pair → Pair) : (s.updPair p f).free = s.free := rfl
@[simp] theorem State.updPair_pending (s : State) (p : PairIx) (f : Pair → Pair) : (s.updPair p f).pending = s.pending := rfl

@[simp] theorem State.updCrib_regs (s : State) (c : CribIx) (f : Crib → Crib) : (s.updCrib c f).regs = s.regs := rfl
@[simp] theorem State.updCrib_mem (s : State) (c : CribIx) (f : Crib → Crib) : (s.updCrib c f).mem = s.mem := rfl
@[simp] theorem State.updCrib_sig (s : State) (c : CribIx) (f : Crib → Crib) : (s.updCrib c f).sig = s.sig := rfl
@[simp] theorem State.updCrib_env (s : State) (c : CribIx) (f : Crib → Crib) : (s.updCrib c f).env = s.env := rfl
@[simp] theorem State.updCrib_tb (s : State) (c : CribIx) (f : Crib → Crib) : (s.updCrib c f).tb = s.tb := rfl
@[simp] theorem State.updCrib_fc (s : State) (c : CribIx) (f : Crib → Crib) : (s.updCrib c f).fc = s.fc := rfl
@[simp] theorem State.updCrib_wdg (s : State) (c : CribIx) (f : Crib → Crib) : (s.updCrib c f).wdg = s.wdg := rfl
@[simp] theorem State.updCrib_pipe (s : State) (c : CribIx) (f : Crib → Crib) : (s.updCrib c f).pipe = s.pipe := rfl
@[simp] theorem State.updCrib_out (s : State) (c : CribIx) (f : Crib → Crib) : (s.updCrib c f).out = s.out := rfl
@[simp] theorem State.updCrib_chans (s : State) (c : CribIx) (f : Crib → Crib) : (s.updCrib c f).chans = s.chans := rfl
@[simp] theorem State.updCrib_halves (s : State) (c : CribIx) (f : Crib → Crib) : (s.updCrib c f).halves = s.halves := rfl
@[simp] theorem State.updCrib_pairs (s : State) (c : CribIx) (f : Crib → Crib) : (s.updCrib c f).pairs = s.pairs := rfl
@[simp] theorem State.updCrib_boot (s : State) (c : CribIx) (f : Crib → Crib) : (s.updCrib c f).boot = s.boot := rfl
@[simp] theorem State.updCrib_recfg (s : State) (c : CribIx) (f : Crib → Crib) : (s.updCrib c f).recfg = s.recfg := rfl
@[simp] theorem State.updCrib_cvu (s : State) (c : CribIx) (f : Crib → Crib) : (s.updCrib c f).cvu = s.cvu := rfl
@[simp] theorem State.updCrib_sr (s : State) (c : CribIx) (f : Crib → Crib) : (s.updCrib c f).sr = s.sr := rfl
@[simp] theorem State.updCrib_gln (s : State) (c : CribIx) (f : Crib → Crib) : (s.updCrib c f).gln = s.gln := rfl
@[simp] theorem State.updCrib_pwr (s : State) (c : CribIx) (f : Crib → Crib) : (s.updCrib c f).pwr = s.pwr := rfl
@[simp] theorem State.updCrib_yk (s : State) (c : CribIx) (f : Crib → Crib) : (s.updCrib c f).yk = s.yk := rfl
@[simp] theorem State.updCrib_hp (s : State) (c : CribIx) (f : Crib → Crib) : (s.updCrib c f).hp = s.hp := rfl
@[simp] theorem State.updCrib_forces (s : State) (c : CribIx) (f : Crib → Crib) : (s.updCrib c f).forces = s.forces := rfl
@[simp] theorem State.updCrib_forceNext (s : State) (c : CribIx) (f : Crib → Crib) : (s.updCrib c f).forceNext = s.forceNext := rfl
@[simp] theorem State.updCrib_queue (s : State) (c : CribIx) (f : Crib → Crib) : (s.updCrib c f).queue = s.queue := rfl
@[simp] theorem State.updCrib_perf (s : State) (c : CribIx) (f : Crib → Crib) : (s.updCrib c f).perf = s.perf := rfl
@[simp] theorem State.updCrib_scrub (s : State) (c : CribIx) (f : Crib → Crib) : (s.updCrib c f).scrub = s.scrub := rfl
@[simp] theorem State.updCrib_free (s : State) (c : CribIx) (f : Crib → Crib) : (s.updCrib c f).free = s.free := rfl
@[simp] theorem State.updCrib_pending (s : State) (c : CribIx) (f : Crib → Crib) : (s.updCrib c f).pending = s.pending := rfl

@[simp] theorem State.updUnit_regs (s : State) (u : UnitIx) (f : CvuUnit → CvuUnit) : (s.updUnit u f).regs = s.regs := rfl
@[simp] theorem State.updUnit_mem (s : State) (u : UnitIx) (f : CvuUnit → CvuUnit) : (s.updUnit u f).mem = s.mem := rfl
@[simp] theorem State.updUnit_sig (s : State) (u : UnitIx) (f : CvuUnit → CvuUnit) : (s.updUnit u f).sig = s.sig := rfl
@[simp] theorem State.updUnit_env (s : State) (u : UnitIx) (f : CvuUnit → CvuUnit) : (s.updUnit u f).env = s.env := rfl
@[simp] theorem State.updUnit_tb (s : State) (u : UnitIx) (f : CvuUnit → CvuUnit) : (s.updUnit u f).tb = s.tb := rfl
@[simp] theorem State.updUnit_fc (s : State) (u : UnitIx) (f : CvuUnit → CvuUnit) : (s.updUnit u f).fc = s.fc := rfl
@[simp] theorem State.updUnit_wdg (s : State) (u : UnitIx) (f : CvuUnit → CvuUnit) : (s.updUnit u f).wdg = s.wdg := rfl
@[simp] theorem State.updUnit_pipe (s : State) (u : UnitIx) (f : CvuUnit → CvuUnit) : (s.updUnit u f).pipe = s.pipe := rfl
@[simp] theorem State.updUnit_out (s : State) (u : UnitIx) (f : CvuUnit → CvuUnit) : (s.updUnit u f).out = s.out := rfl
@[simp] theorem State.updUnit_chans (s : State) (u : UnitIx) (f : CvuUnit → CvuUnit) : (s.updUnit u f).chans = s.chans := rfl
@[simp] theorem State.updUnit_halves (s : State) (u : UnitIx) (f : CvuUnit → CvuUnit) : (s.updUnit u f).halves = s.halves := rfl
@[simp] theorem State.updUnit_pairs (s : State) (u : UnitIx) (f : CvuUnit → CvuUnit) : (s.updUnit u f).pairs = s.pairs := rfl
@[simp] theorem State.updUnit_cribs (s : State) (u : UnitIx) (f : CvuUnit → CvuUnit) : (s.updUnit u f).cribs = s.cribs := rfl
@[simp] theorem State.updUnit_boot (s : State) (u : UnitIx) (f : CvuUnit → CvuUnit) : (s.updUnit u f).boot = s.boot := rfl
@[simp] theorem State.updUnit_recfg (s : State) (u : UnitIx) (f : CvuUnit → CvuUnit) : (s.updUnit u f).recfg = s.recfg := rfl
@[simp] theorem State.updUnit_sr (s : State) (u : UnitIx) (f : CvuUnit → CvuUnit) : (s.updUnit u f).sr = s.sr := rfl
@[simp] theorem State.updUnit_gln (s : State) (u : UnitIx) (f : CvuUnit → CvuUnit) : (s.updUnit u f).gln = s.gln := rfl
@[simp] theorem State.updUnit_pwr (s : State) (u : UnitIx) (f : CvuUnit → CvuUnit) : (s.updUnit u f).pwr = s.pwr := rfl
@[simp] theorem State.updUnit_yk (s : State) (u : UnitIx) (f : CvuUnit → CvuUnit) : (s.updUnit u f).yk = s.yk := rfl
@[simp] theorem State.updUnit_hp (s : State) (u : UnitIx) (f : CvuUnit → CvuUnit) : (s.updUnit u f).hp = s.hp := rfl
@[simp] theorem State.updUnit_forces (s : State) (u : UnitIx) (f : CvuUnit → CvuUnit) : (s.updUnit u f).forces = s.forces := rfl
@[simp] theorem State.updUnit_forceNext (s : State) (u : UnitIx) (f : CvuUnit → CvuUnit) : (s.updUnit u f).forceNext = s.forceNext := rfl
@[simp] theorem State.updUnit_queue (s : State) (u : UnitIx) (f : CvuUnit → CvuUnit) : (s.updUnit u f).queue = s.queue := rfl
@[simp] theorem State.updUnit_perf (s : State) (u : UnitIx) (f : CvuUnit → CvuUnit) : (s.updUnit u f).perf = s.perf := rfl
@[simp] theorem State.updUnit_scrub (s : State) (u : UnitIx) (f : CvuUnit → CvuUnit) : (s.updUnit u f).scrub = s.scrub := rfl
@[simp] theorem State.updUnit_free (s : State) (u : UnitIx) (f : CvuUnit → CvuUnit) : (s.updUnit u f).free = s.free := rfl
@[simp] theorem State.updUnit_pending (s : State) (u : UnitIx) (f : CvuUnit → CvuUnit) : (s.updUnit u f).pending = s.pending := rfl

@[simp] theorem State.updSeg_regs (s : State) (k : Fin 32) (f : Seg → Seg) : (s.updSeg k f).regs = s.regs := rfl
@[simp] theorem State.updSeg_mem (s : State) (k : Fin 32) (f : Seg → Seg) : (s.updSeg k f).mem = s.mem := rfl
@[simp] theorem State.updSeg_sig (s : State) (k : Fin 32) (f : Seg → Seg) : (s.updSeg k f).sig = s.sig := rfl
@[simp] theorem State.updSeg_env (s : State) (k : Fin 32) (f : Seg → Seg) : (s.updSeg k f).env = s.env := rfl
@[simp] theorem State.updSeg_tb (s : State) (k : Fin 32) (f : Seg → Seg) : (s.updSeg k f).tb = s.tb := rfl
@[simp] theorem State.updSeg_fc (s : State) (k : Fin 32) (f : Seg → Seg) : (s.updSeg k f).fc = s.fc := rfl
@[simp] theorem State.updSeg_wdg (s : State) (k : Fin 32) (f : Seg → Seg) : (s.updSeg k f).wdg = s.wdg := rfl
@[simp] theorem State.updSeg_pipe (s : State) (k : Fin 32) (f : Seg → Seg) : (s.updSeg k f).pipe = s.pipe := rfl
@[simp] theorem State.updSeg_out (s : State) (k : Fin 32) (f : Seg → Seg) : (s.updSeg k f).out = s.out := rfl
@[simp] theorem State.updSeg_chans (s : State) (k : Fin 32) (f : Seg → Seg) : (s.updSeg k f).chans = s.chans := rfl
@[simp] theorem State.updSeg_halves (s : State) (k : Fin 32) (f : Seg → Seg) : (s.updSeg k f).halves = s.halves := rfl
@[simp] theorem State.updSeg_pairs (s : State) (k : Fin 32) (f : Seg → Seg) : (s.updSeg k f).pairs = s.pairs := rfl
@[simp] theorem State.updSeg_cribs (s : State) (k : Fin 32) (f : Seg → Seg) : (s.updSeg k f).cribs = s.cribs := rfl
@[simp] theorem State.updSeg_boot (s : State) (k : Fin 32) (f : Seg → Seg) : (s.updSeg k f).boot = s.boot := rfl
@[simp] theorem State.updSeg_recfg (s : State) (k : Fin 32) (f : Seg → Seg) : (s.updSeg k f).recfg = s.recfg := rfl
@[simp] theorem State.updSeg_cvu (s : State) (k : Fin 32) (f : Seg → Seg) : (s.updSeg k f).cvu = s.cvu := rfl
@[simp] theorem State.updSeg_sr (s : State) (k : Fin 32) (f : Seg → Seg) : (s.updSeg k f).sr = s.sr := rfl
@[simp] theorem State.updSeg_pwr (s : State) (k : Fin 32) (f : Seg → Seg) : (s.updSeg k f).pwr = s.pwr := rfl
@[simp] theorem State.updSeg_yk (s : State) (k : Fin 32) (f : Seg → Seg) : (s.updSeg k f).yk = s.yk := rfl
@[simp] theorem State.updSeg_hp (s : State) (k : Fin 32) (f : Seg → Seg) : (s.updSeg k f).hp = s.hp := rfl
@[simp] theorem State.updSeg_forces (s : State) (k : Fin 32) (f : Seg → Seg) : (s.updSeg k f).forces = s.forces := rfl
@[simp] theorem State.updSeg_forceNext (s : State) (k : Fin 32) (f : Seg → Seg) : (s.updSeg k f).forceNext = s.forceNext := rfl
@[simp] theorem State.updSeg_queue (s : State) (k : Fin 32) (f : Seg → Seg) : (s.updSeg k f).queue = s.queue := rfl
@[simp] theorem State.updSeg_perf (s : State) (k : Fin 32) (f : Seg → Seg) : (s.updSeg k f).perf = s.perf := rfl
@[simp] theorem State.updSeg_scrub (s : State) (k : Fin 32) (f : Seg → Seg) : (s.updSeg k f).scrub = s.scrub := rfl
@[simp] theorem State.updSeg_free (s : State) (k : Fin 32) (f : Seg → Seg) : (s.updSeg k f).free = s.free := rfl
@[simp] theorem State.updSeg_pending (s : State) (k : Fin 32) (f : Seg → Seg) : (s.updSeg k f).pending = s.pending := rfl

@[simp] theorem State.updPwr_regs (s : State) (f : Pwr → Pwr) : (s.updPwr f).regs = s.regs := rfl
@[simp] theorem State.updPwr_mem (s : State) (f : Pwr → Pwr) : (s.updPwr f).mem = s.mem := rfl
@[simp] theorem State.updPwr_sig (s : State) (f : Pwr → Pwr) : (s.updPwr f).sig = s.sig := rfl
@[simp] theorem State.updPwr_env (s : State) (f : Pwr → Pwr) : (s.updPwr f).env = s.env := rfl
@[simp] theorem State.updPwr_tb (s : State) (f : Pwr → Pwr) : (s.updPwr f).tb = s.tb := rfl
@[simp] theorem State.updPwr_fc (s : State) (f : Pwr → Pwr) : (s.updPwr f).fc = s.fc := rfl
@[simp] theorem State.updPwr_wdg (s : State) (f : Pwr → Pwr) : (s.updPwr f).wdg = s.wdg := rfl
@[simp] theorem State.updPwr_pipe (s : State) (f : Pwr → Pwr) : (s.updPwr f).pipe = s.pipe := rfl
@[simp] theorem State.updPwr_out (s : State) (f : Pwr → Pwr) : (s.updPwr f).out = s.out := rfl
@[simp] theorem State.updPwr_chans (s : State) (f : Pwr → Pwr) : (s.updPwr f).chans = s.chans := rfl
@[simp] theorem State.updPwr_halves (s : State) (f : Pwr → Pwr) : (s.updPwr f).halves = s.halves := rfl
@[simp] theorem State.updPwr_pairs (s : State) (f : Pwr → Pwr) : (s.updPwr f).pairs = s.pairs := rfl
@[simp] theorem State.updPwr_cribs (s : State) (f : Pwr → Pwr) : (s.updPwr f).cribs = s.cribs := rfl
@[simp] theorem State.updPwr_boot (s : State) (f : Pwr → Pwr) : (s.updPwr f).boot = s.boot := rfl
@[simp] theorem State.updPwr_recfg (s : State) (f : Pwr → Pwr) : (s.updPwr f).recfg = s.recfg := rfl
@[simp] theorem State.updPwr_cvu (s : State) (f : Pwr → Pwr) : (s.updPwr f).cvu = s.cvu := rfl
@[simp] theorem State.updPwr_sr (s : State) (f : Pwr → Pwr) : (s.updPwr f).sr = s.sr := rfl
@[simp] theorem State.updPwr_gln (s : State) (f : Pwr → Pwr) : (s.updPwr f).gln = s.gln := rfl
@[simp] theorem State.updPwr_yk (s : State) (f : Pwr → Pwr) : (s.updPwr f).yk = s.yk := rfl
@[simp] theorem State.updPwr_hp (s : State) (f : Pwr → Pwr) : (s.updPwr f).hp = s.hp := rfl
@[simp] theorem State.updPwr_forces (s : State) (f : Pwr → Pwr) : (s.updPwr f).forces = s.forces := rfl
@[simp] theorem State.updPwr_forceNext (s : State) (f : Pwr → Pwr) : (s.updPwr f).forceNext = s.forceNext := rfl
@[simp] theorem State.updPwr_queue (s : State) (f : Pwr → Pwr) : (s.updPwr f).queue = s.queue := rfl
@[simp] theorem State.updPwr_perf (s : State) (f : Pwr → Pwr) : (s.updPwr f).perf = s.perf := rfl
@[simp] theorem State.updPwr_scrub (s : State) (f : Pwr → Pwr) : (s.updPwr f).scrub = s.scrub := rfl
@[simp] theorem State.updPwr_free (s : State) (f : Pwr → Pwr) : (s.updPwr f).free = s.free := rfl
@[simp] theorem State.updPwr_pending (s : State) (f : Pwr → Pwr) : (s.updPwr f).pending = s.pending := rfl

@[simp] theorem State.updSr_regs (s : State) (f : Sr → Sr) : (s.updSr f).regs = s.regs := rfl
@[simp] theorem State.updSr_mem (s : State) (f : Sr → Sr) : (s.updSr f).mem = s.mem := rfl
@[simp] theorem State.updSr_sig (s : State) (f : Sr → Sr) : (s.updSr f).sig = s.sig := rfl
@[simp] theorem State.updSr_env (s : State) (f : Sr → Sr) : (s.updSr f).env = s.env := rfl
@[simp] theorem State.updSr_tb (s : State) (f : Sr → Sr) : (s.updSr f).tb = s.tb := rfl
@[simp] theorem State.updSr_fc (s : State) (f : Sr → Sr) : (s.updSr f).fc = s.fc := rfl
@[simp] theorem State.updSr_wdg (s : State) (f : Sr → Sr) : (s.updSr f).wdg = s.wdg := rfl
@[simp] theorem State.updSr_pipe (s : State) (f : Sr → Sr) : (s.updSr f).pipe = s.pipe := rfl
@[simp] theorem State.updSr_out (s : State) (f : Sr → Sr) : (s.updSr f).out = s.out := rfl
@[simp] theorem State.updSr_chans (s : State) (f : Sr → Sr) : (s.updSr f).chans = s.chans := rfl
@[simp] theorem State.updSr_halves (s : State) (f : Sr → Sr) : (s.updSr f).halves = s.halves := rfl
@[simp] theorem State.updSr_pairs (s : State) (f : Sr → Sr) : (s.updSr f).pairs = s.pairs := rfl
@[simp] theorem State.updSr_cribs (s : State) (f : Sr → Sr) : (s.updSr f).cribs = s.cribs := rfl
@[simp] theorem State.updSr_boot (s : State) (f : Sr → Sr) : (s.updSr f).boot = s.boot := rfl
@[simp] theorem State.updSr_recfg (s : State) (f : Sr → Sr) : (s.updSr f).recfg = s.recfg := rfl
@[simp] theorem State.updSr_cvu (s : State) (f : Sr → Sr) : (s.updSr f).cvu = s.cvu := rfl
@[simp] theorem State.updSr_gln (s : State) (f : Sr → Sr) : (s.updSr f).gln = s.gln := rfl
@[simp] theorem State.updSr_pwr (s : State) (f : Sr → Sr) : (s.updSr f).pwr = s.pwr := rfl
@[simp] theorem State.updSr_yk (s : State) (f : Sr → Sr) : (s.updSr f).yk = s.yk := rfl
@[simp] theorem State.updSr_hp (s : State) (f : Sr → Sr) : (s.updSr f).hp = s.hp := rfl
@[simp] theorem State.updSr_forces (s : State) (f : Sr → Sr) : (s.updSr f).forces = s.forces := rfl
@[simp] theorem State.updSr_forceNext (s : State) (f : Sr → Sr) : (s.updSr f).forceNext = s.forceNext := rfl
@[simp] theorem State.updSr_queue (s : State) (f : Sr → Sr) : (s.updSr f).queue = s.queue := rfl
@[simp] theorem State.updSr_perf (s : State) (f : Sr → Sr) : (s.updSr f).perf = s.perf := rfl
@[simp] theorem State.updSr_scrub (s : State) (f : Sr → Sr) : (s.updSr f).scrub = s.scrub := rfl
@[simp] theorem State.updSr_free (s : State) (f : Sr → Sr) : (s.updSr f).free = s.free := rfl
@[simp] theorem State.updSr_pending (s : State) (f : Sr → Sr) : (s.updSr f).pending = s.pending := rfl

@[simp] theorem State.updSlot_regs (s : State) (k : Fin 32) (f : PartSlot → PartSlot) : (s.updSlot k f).regs = s.regs := rfl
@[simp] theorem State.updSlot_mem (s : State) (k : Fin 32) (f : PartSlot → PartSlot) : (s.updSlot k f).mem = s.mem := rfl
@[simp] theorem State.updSlot_sig (s : State) (k : Fin 32) (f : PartSlot → PartSlot) : (s.updSlot k f).sig = s.sig := rfl
@[simp] theorem State.updSlot_env (s : State) (k : Fin 32) (f : PartSlot → PartSlot) : (s.updSlot k f).env = s.env := rfl
@[simp] theorem State.updSlot_tb (s : State) (k : Fin 32) (f : PartSlot → PartSlot) : (s.updSlot k f).tb = s.tb := rfl
@[simp] theorem State.updSlot_fc (s : State) (k : Fin 32) (f : PartSlot → PartSlot) : (s.updSlot k f).fc = s.fc := rfl
@[simp] theorem State.updSlot_wdg (s : State) (k : Fin 32) (f : PartSlot → PartSlot) : (s.updSlot k f).wdg = s.wdg := rfl
@[simp] theorem State.updSlot_pipe (s : State) (k : Fin 32) (f : PartSlot → PartSlot) : (s.updSlot k f).pipe = s.pipe := rfl
@[simp] theorem State.updSlot_out (s : State) (k : Fin 32) (f : PartSlot → PartSlot) : (s.updSlot k f).out = s.out := rfl
@[simp] theorem State.updSlot_chans (s : State) (k : Fin 32) (f : PartSlot → PartSlot) : (s.updSlot k f).chans = s.chans := rfl
@[simp] theorem State.updSlot_halves (s : State) (k : Fin 32) (f : PartSlot → PartSlot) : (s.updSlot k f).halves = s.halves := rfl
@[simp] theorem State.updSlot_pairs (s : State) (k : Fin 32) (f : PartSlot → PartSlot) : (s.updSlot k f).pairs = s.pairs := rfl
@[simp] theorem State.updSlot_cribs (s : State) (k : Fin 32) (f : PartSlot → PartSlot) : (s.updSlot k f).cribs = s.cribs := rfl
@[simp] theorem State.updSlot_boot (s : State) (k : Fin 32) (f : PartSlot → PartSlot) : (s.updSlot k f).boot = s.boot := rfl
@[simp] theorem State.updSlot_recfg (s : State) (k : Fin 32) (f : PartSlot → PartSlot) : (s.updSlot k f).recfg = s.recfg := rfl
@[simp] theorem State.updSlot_cvu (s : State) (k : Fin 32) (f : PartSlot → PartSlot) : (s.updSlot k f).cvu = s.cvu := rfl
@[simp] theorem State.updSlot_gln (s : State) (k : Fin 32) (f : PartSlot → PartSlot) : (s.updSlot k f).gln = s.gln := rfl
@[simp] theorem State.updSlot_pwr (s : State) (k : Fin 32) (f : PartSlot → PartSlot) : (s.updSlot k f).pwr = s.pwr := rfl
@[simp] theorem State.updSlot_yk (s : State) (k : Fin 32) (f : PartSlot → PartSlot) : (s.updSlot k f).yk = s.yk := rfl
@[simp] theorem State.updSlot_hp (s : State) (k : Fin 32) (f : PartSlot → PartSlot) : (s.updSlot k f).hp = s.hp := rfl
@[simp] theorem State.updSlot_forces (s : State) (k : Fin 32) (f : PartSlot → PartSlot) : (s.updSlot k f).forces = s.forces := rfl
@[simp] theorem State.updSlot_forceNext (s : State) (k : Fin 32) (f : PartSlot → PartSlot) : (s.updSlot k f).forceNext = s.forceNext := rfl
@[simp] theorem State.updSlot_queue (s : State) (k : Fin 32) (f : PartSlot → PartSlot) : (s.updSlot k f).queue = s.queue := rfl
@[simp] theorem State.updSlot_perf (s : State) (k : Fin 32) (f : PartSlot → PartSlot) : (s.updSlot k f).perf = s.perf := rfl
@[simp] theorem State.updSlot_scrub (s : State) (k : Fin 32) (f : PartSlot → PartSlot) : (s.updSlot k f).scrub = s.scrub := rfl
@[simp] theorem State.updSlot_free (s : State) (k : Fin 32) (f : PartSlot → PartSlot) : (s.updSlot k f).free = s.free := rfl
@[simp] theorem State.updSlot_pending (s : State) (k : Fin 32) (f : PartSlot → PartSlot) : (s.updSlot k f).pending = s.pending := rfl

@[simp] theorem State.setEntry_regs (s : State) (i : Nat) (e : Entry) : (s.setEntry i e).regs = s.regs := rfl
@[simp] theorem State.setEntry_mem (s : State) (i : Nat) (e : Entry) : (s.setEntry i e).mem = s.mem := rfl
@[simp] theorem State.setEntry_env (s : State) (i : Nat) (e : Entry) : (s.setEntry i e).env = s.env := rfl
@[simp] theorem State.setEntry_tb (s : State) (i : Nat) (e : Entry) : (s.setEntry i e).tb = s.tb := rfl
@[simp] theorem State.setEntry_fc (s : State) (i : Nat) (e : Entry) : (s.setEntry i e).fc = s.fc := rfl
@[simp] theorem State.setEntry_wdg (s : State) (i : Nat) (e : Entry) : (s.setEntry i e).wdg = s.wdg := rfl
@[simp] theorem State.setEntry_pipe (s : State) (i : Nat) (e : Entry) : (s.setEntry i e).pipe = s.pipe := rfl
@[simp] theorem State.setEntry_out (s : State) (i : Nat) (e : Entry) : (s.setEntry i e).out = s.out := rfl
@[simp] theorem State.setEntry_chans (s : State) (i : Nat) (e : Entry) : (s.setEntry i e).chans = s.chans := rfl
@[simp] theorem State.setEntry_halves (s : State) (i : Nat) (e : Entry) : (s.setEntry i e).halves = s.halves := rfl
@[simp] theorem State.setEntry_pairs (s : State) (i : Nat) (e : Entry) : (s.setEntry i e).pairs = s.pairs := rfl
@[simp] theorem State.setEntry_cribs (s : State) (i : Nat) (e : Entry) : (s.setEntry i e).cribs = s.cribs := rfl
@[simp] theorem State.setEntry_boot (s : State) (i : Nat) (e : Entry) : (s.setEntry i e).boot = s.boot := rfl
@[simp] theorem State.setEntry_recfg (s : State) (i : Nat) (e : Entry) : (s.setEntry i e).recfg = s.recfg := rfl
@[simp] theorem State.setEntry_cvu (s : State) (i : Nat) (e : Entry) : (s.setEntry i e).cvu = s.cvu := rfl
@[simp] theorem State.setEntry_sr (s : State) (i : Nat) (e : Entry) : (s.setEntry i e).sr = s.sr := rfl
@[simp] theorem State.setEntry_gln (s : State) (i : Nat) (e : Entry) : (s.setEntry i e).gln = s.gln := rfl
@[simp] theorem State.setEntry_pwr (s : State) (i : Nat) (e : Entry) : (s.setEntry i e).pwr = s.pwr := rfl
@[simp] theorem State.setEntry_yk (s : State) (i : Nat) (e : Entry) : (s.setEntry i e).yk = s.yk := rfl
@[simp] theorem State.setEntry_hp (s : State) (i : Nat) (e : Entry) : (s.setEntry i e).hp = s.hp := rfl
@[simp] theorem State.setEntry_forces (s : State) (i : Nat) (e : Entry) : (s.setEntry i e).forces = s.forces := rfl
@[simp] theorem State.setEntry_forceNext (s : State) (i : Nat) (e : Entry) : (s.setEntry i e).forceNext = s.forceNext := rfl
@[simp] theorem State.setEntry_queue (s : State) (i : Nat) (e : Entry) : (s.setEntry i e).queue = s.queue := rfl
@[simp] theorem State.setEntry_perf (s : State) (i : Nat) (e : Entry) : (s.setEntry i e).perf = s.perf := rfl
@[simp] theorem State.setEntry_scrub (s : State) (i : Nat) (e : Entry) : (s.setEntry i e).scrub = s.scrub := rfl
@[simp] theorem State.setEntry_free (s : State) (i : Nat) (e : Entry) : (s.setEntry i e).free = s.free := rfl
@[simp] theorem State.setEntry_pending (s : State) (i : Nat) (e : Entry) : (s.setEntry i e).pending = s.pending := rfl

@[simp] theorem State.updWdg_regs (s : State) (f : Wdg → Wdg) : (s.updWdg f).regs = s.regs := rfl
@[simp] theorem State.updWdg_mem (s : State) (f : Wdg → Wdg) : (s.updWdg f).mem = s.mem := rfl
@[simp] theorem State.updWdg_sig (s : State) (f : Wdg → Wdg) : (s.updWdg f).sig = s.sig := rfl
@[simp] theorem State.updWdg_env (s : State) (f : Wdg → Wdg) : (s.updWdg f).env = s.env := rfl
@[simp] theorem State.updWdg_tb (s : State) (f : Wdg → Wdg) : (s.updWdg f).tb = s.tb := rfl
@[simp] theorem State.updWdg_fc (s : State) (f : Wdg → Wdg) : (s.updWdg f).fc = s.fc := rfl
@[simp] theorem State.updWdg_pipe (s : State) (f : Wdg → Wdg) : (s.updWdg f).pipe = s.pipe := rfl
@[simp] theorem State.updWdg_out (s : State) (f : Wdg → Wdg) : (s.updWdg f).out = s.out := rfl
@[simp] theorem State.updWdg_chans (s : State) (f : Wdg → Wdg) : (s.updWdg f).chans = s.chans := rfl
@[simp] theorem State.updWdg_halves (s : State) (f : Wdg → Wdg) : (s.updWdg f).halves = s.halves := rfl
@[simp] theorem State.updWdg_pairs (s : State) (f : Wdg → Wdg) : (s.updWdg f).pairs = s.pairs := rfl
@[simp] theorem State.updWdg_cribs (s : State) (f : Wdg → Wdg) : (s.updWdg f).cribs = s.cribs := rfl
@[simp] theorem State.updWdg_boot (s : State) (f : Wdg → Wdg) : (s.updWdg f).boot = s.boot := rfl
@[simp] theorem State.updWdg_recfg (s : State) (f : Wdg → Wdg) : (s.updWdg f).recfg = s.recfg := rfl
@[simp] theorem State.updWdg_cvu (s : State) (f : Wdg → Wdg) : (s.updWdg f).cvu = s.cvu := rfl
@[simp] theorem State.updWdg_sr (s : State) (f : Wdg → Wdg) : (s.updWdg f).sr = s.sr := rfl
@[simp] theorem State.updWdg_gln (s : State) (f : Wdg → Wdg) : (s.updWdg f).gln = s.gln := rfl
@[simp] theorem State.updWdg_pwr (s : State) (f : Wdg → Wdg) : (s.updWdg f).pwr = s.pwr := rfl
@[simp] theorem State.updWdg_yk (s : State) (f : Wdg → Wdg) : (s.updWdg f).yk = s.yk := rfl
@[simp] theorem State.updWdg_hp (s : State) (f : Wdg → Wdg) : (s.updWdg f).hp = s.hp := rfl
@[simp] theorem State.updWdg_forces (s : State) (f : Wdg → Wdg) : (s.updWdg f).forces = s.forces := rfl
@[simp] theorem State.updWdg_forceNext (s : State) (f : Wdg → Wdg) : (s.updWdg f).forceNext = s.forceNext := rfl
@[simp] theorem State.updWdg_queue (s : State) (f : Wdg → Wdg) : (s.updWdg f).queue = s.queue := rfl
@[simp] theorem State.updWdg_perf (s : State) (f : Wdg → Wdg) : (s.updWdg f).perf = s.perf := rfl
@[simp] theorem State.updWdg_scrub (s : State) (f : Wdg → Wdg) : (s.updWdg f).scrub = s.scrub := rfl
@[simp] theorem State.updWdg_free (s : State) (f : Wdg → Wdg) : (s.updWdg f).free = s.free := rfl
@[simp] theorem State.updWdg_pending (s : State) (f : Wdg → Wdg) : (s.updWdg f).pending = s.pending := rfl

@[simp] theorem State.updYk_regs (s : State) (f : Yk → Yk) : (s.updYk f).regs = s.regs := rfl
@[simp] theorem State.updYk_mem (s : State) (f : Yk → Yk) : (s.updYk f).mem = s.mem := rfl
@[simp] theorem State.updYk_sig (s : State) (f : Yk → Yk) : (s.updYk f).sig = s.sig := rfl
@[simp] theorem State.updYk_env (s : State) (f : Yk → Yk) : (s.updYk f).env = s.env := rfl
@[simp] theorem State.updYk_tb (s : State) (f : Yk → Yk) : (s.updYk f).tb = s.tb := rfl
@[simp] theorem State.updYk_fc (s : State) (f : Yk → Yk) : (s.updYk f).fc = s.fc := rfl
@[simp] theorem State.updYk_wdg (s : State) (f : Yk → Yk) : (s.updYk f).wdg = s.wdg := rfl
@[simp] theorem State.updYk_pipe (s : State) (f : Yk → Yk) : (s.updYk f).pipe = s.pipe := rfl
@[simp] theorem State.updYk_out (s : State) (f : Yk → Yk) : (s.updYk f).out = s.out := rfl
@[simp] theorem State.updYk_chans (s : State) (f : Yk → Yk) : (s.updYk f).chans = s.chans := rfl
@[simp] theorem State.updYk_halves (s : State) (f : Yk → Yk) : (s.updYk f).halves = s.halves := rfl
@[simp] theorem State.updYk_pairs (s : State) (f : Yk → Yk) : (s.updYk f).pairs = s.pairs := rfl
@[simp] theorem State.updYk_cribs (s : State) (f : Yk → Yk) : (s.updYk f).cribs = s.cribs := rfl
@[simp] theorem State.updYk_boot (s : State) (f : Yk → Yk) : (s.updYk f).boot = s.boot := rfl
@[simp] theorem State.updYk_recfg (s : State) (f : Yk → Yk) : (s.updYk f).recfg = s.recfg := rfl
@[simp] theorem State.updYk_cvu (s : State) (f : Yk → Yk) : (s.updYk f).cvu = s.cvu := rfl
@[simp] theorem State.updYk_sr (s : State) (f : Yk → Yk) : (s.updYk f).sr = s.sr := rfl
@[simp] theorem State.updYk_gln (s : State) (f : Yk → Yk) : (s.updYk f).gln = s.gln := rfl
@[simp] theorem State.updYk_pwr (s : State) (f : Yk → Yk) : (s.updYk f).pwr = s.pwr := rfl
@[simp] theorem State.updYk_hp (s : State) (f : Yk → Yk) : (s.updYk f).hp = s.hp := rfl
@[simp] theorem State.updYk_forces (s : State) (f : Yk → Yk) : (s.updYk f).forces = s.forces := rfl
@[simp] theorem State.updYk_forceNext (s : State) (f : Yk → Yk) : (s.updYk f).forceNext = s.forceNext := rfl
@[simp] theorem State.updYk_queue (s : State) (f : Yk → Yk) : (s.updYk f).queue = s.queue := rfl
@[simp] theorem State.updYk_perf (s : State) (f : Yk → Yk) : (s.updYk f).perf = s.perf := rfl
@[simp] theorem State.updYk_scrub (s : State) (f : Yk → Yk) : (s.updYk f).scrub = s.scrub := rfl
@[simp] theorem State.updYk_free (s : State) (f : Yk → Yk) : (s.updYk f).free = s.free := rfl
@[simp] theorem State.updYk_pending (s : State) (f : Yk → Yk) : (s.updYk f).pending = s.pending := rfl

@[simp] theorem State.push_regs (s : State) (i : Instr) : (s.push i).regs = s.regs := rfl
@[simp] theorem State.push_mem (s : State) (i : Instr) : (s.push i).mem = s.mem := rfl
@[simp] theorem State.push_sig (s : State) (i : Instr) : (s.push i).sig = s.sig := rfl
@[simp] theorem State.push_env (s : State) (i : Instr) : (s.push i).env = s.env := rfl
@[simp] theorem State.push_tb (s : State) (i : Instr) : (s.push i).tb = s.tb := rfl
@[simp] theorem State.push_fc (s : State) (i : Instr) : (s.push i).fc = s.fc := rfl
@[simp] theorem State.push_wdg (s : State) (i : Instr) : (s.push i).wdg = s.wdg := rfl
@[simp] theorem State.push_pipe (s : State) (i : Instr) : (s.push i).pipe = s.pipe := rfl
@[simp] theorem State.push_out (s : State) (i : Instr) : (s.push i).out = s.out := rfl
@[simp] theorem State.push_chans (s : State) (i : Instr) : (s.push i).chans = s.chans := rfl
@[simp] theorem State.push_halves (s : State) (i : Instr) : (s.push i).halves = s.halves := rfl
@[simp] theorem State.push_pairs (s : State) (i : Instr) : (s.push i).pairs = s.pairs := rfl
@[simp] theorem State.push_cribs (s : State) (i : Instr) : (s.push i).cribs = s.cribs := rfl
@[simp] theorem State.push_boot (s : State) (i : Instr) : (s.push i).boot = s.boot := rfl
@[simp] theorem State.push_recfg (s : State) (i : Instr) : (s.push i).recfg = s.recfg := rfl
@[simp] theorem State.push_cvu (s : State) (i : Instr) : (s.push i).cvu = s.cvu := rfl
@[simp] theorem State.push_sr (s : State) (i : Instr) : (s.push i).sr = s.sr := rfl
@[simp] theorem State.push_gln (s : State) (i : Instr) : (s.push i).gln = s.gln := rfl
@[simp] theorem State.push_pwr (s : State) (i : Instr) : (s.push i).pwr = s.pwr := rfl
@[simp] theorem State.push_yk (s : State) (i : Instr) : (s.push i).yk = s.yk := rfl
@[simp] theorem State.push_hp (s : State) (i : Instr) : (s.push i).hp = s.hp := rfl
@[simp] theorem State.push_forces (s : State) (i : Instr) : (s.push i).forces = s.forces := rfl
@[simp] theorem State.push_forceNext (s : State) (i : Instr) : (s.push i).forceNext = s.forceNext := rfl
@[simp] theorem State.push_queue (s : State) (i : Instr) : (s.push i).queue = s.queue := rfl
@[simp] theorem State.push_perf (s : State) (i : Instr) : (s.push i).perf = s.perf := rfl
@[simp] theorem State.push_scrub (s : State) (i : Instr) : (s.push i).scrub = s.scrub := rfl
@[simp] theorem State.push_free (s : State) (i : Instr) : (s.push i).free = s.free := rfl

end Sys2Proof.Machine
end

