-- ==== Sys2Proof/Laws/Only.lean ====
section
/-!
SUPPORT. Laws/Only.lean: how `OnlyChanges` composes: along steps, choices, loops and record updates.
-/
namespace Sys2Proof.Machine

/-- Every part of the first list is in the second. -/
def Part.sub (ps qs : List Part) : Bool := ps.all fun p => qs.contains p

theorem only_refl (ps : List Part) (s : State) : OnlyChanges ps s s := by
  constructor; intro p _; cases p <;> rfl

theorem Part.same_trans {p : Part} {s t u : State} (h : p.same s t) (h' : p.same t u) : p.same s u := by
  cases p <;> exact Eq.trans h' h

theorem only_trans {ps : List Part} {s t u : State} (h : OnlyChanges ps s t) (h' : OnlyChanges ps t u) :
    OnlyChanges ps s u := ⟨fun p hp => Part.same_trans (h.same p hp) (h'.same p hp)⟩

theorem only_mono {ps qs : List Part} {s t : State} (h : OnlyChanges ps s t) (k : Part.sub ps qs = true) :
    OnlyChanges qs s t := by
  constructor
  intro p hp
  refine h.same p fun hm => hp ?_
  have := List.all_eq_true.mp k p hm
  simpa using this

/-- One more step, which changes parts of the list. -/
theorem only_step {ps qs : List Part} {s t u : State} (h : OnlyChanges qs t u) (k : Part.sub qs ps = true)
    (h' : OnlyChanges ps s t) : OnlyChanges ps s u := only_trans h' (only_mono h k)

theorem only_ite {ps : List Part} {s t u : State} {c : Prop} [Decidable c] (h : OnlyChanges ps s t)
    (h' : OnlyChanges ps s u) : OnlyChanges ps s (if c then t else u) := by
  split <;> assumption

theorem only_dite {ps : List Part} {s : State} {c : Prop} [Decidable c] {t : c → State} {u : ¬c → State}
    (h : ∀ x, OnlyChanges ps s (t x)) (h' : ∀ x, OnlyChanges ps s (u x)) : OnlyChanges ps s (dite c t u) := by
  split
  · exact h _
  · exact h' _

/-- A fold that carries something beside the state. -/
theorem only_foldl_snd {ps : List Part} {s0 : State} {α β : Type} {f : β × State → α → β × State} {xs : List α} {r : β × State}
    (h : ∀ r x, OnlyChanges ps s0 r.2 → OnlyChanges ps s0 (f r x).2) (h0 : OnlyChanges ps s0 r.2) :
    OnlyChanges ps s0 (xs.foldl f r).2 := by
  induction xs generalizing r with
  | nil => exact h0
  | cons x xs ih => exact ih (h r x h0)

theorem only_foldl {ps : List Part} {s t : State} {α : Type} {f : State → α → State} {xs : List α}
    (h : ∀ u x, OnlyChanges ps u (f u x)) (h' : OnlyChanges ps s t) : OnlyChanges ps s (xs.foldl f t) := by
  induction xs generalizing t with
  | nil => exact h'
  | cons x xs ih => exact ih (only_trans h' (h t x))

theorem only_forEach {ps : List Part} {s t : State} {α : Type} {f : α → State → State} {xs : List α}
    (h : ∀ u x, OnlyChanges ps u (f x u)) (h' : OnlyChanges ps s t) : OnlyChanges ps s (t.forEach xs f) :=
  only_foldl h h'

theorem only_whenB {ps : List Part} {s t : State} {b : Bool} {f : State → State}
    (h : ∀ u, OnlyChanges ps u (f u)) (h' : OnlyChanges ps s t) : OnlyChanges ps s (t.whenB b f) := by
  unfold State.whenB
  split
  · exact only_trans h' (h t)
  · exact h'

theorem Part.sub_trans {a b c : List Part} (h : Part.sub a b = true) (k : Part.sub b c = true) : Part.sub a c = true := by
  refine List.all_eq_true.mpr fun p hp => List.all_eq_true.mp k p ?_
  simpa using List.all_eq_true.mp h p hp

theorem only_of_pair {ps : List Part} {s t : State} {α : Type} {p : α × State} {a : α} (e : p = (a, t))
    (h : OnlyChanges ps s p.2) : OnlyChanges ps s t := by
  rw [e] at h
  exact h

theorem only_of_fst {ps : List Part} {s t : State} {α : Type} {p : State × α} {a : α} (e : p = (t, a))
    (h : OnlyChanges ps s p.1) : OnlyChanges ps s t := by
  rw [e] at h
  exact h

theorem opt_none {p : State → Prop} : ∀ t, (none : Option State) = some t → p t := fun _ e => nomatch e

theorem opt_some {p : State → Prop} {u : State} (h : p u) : ∀ t, some u = some t → p t := by
  rintro t ⟨⟩
  exact h

theorem opt_ite {p : State → Prop} {c : Prop} [Decidable c] {a b : Option State} (h : ∀ t, a = some t → p t)
    (h' : ∀ t, b = some t → p t) : ∀ t, (if c then a else b) = some t → p t := by
  split <;> assumption

theorem only_pair {ps : List Part} {s : State} {α : Type} {p : α × State} {f : α → State → State}
    (h : ∀ a u, OnlyChanges ps s u → OnlyChanges ps s (f a u)) (h' : OnlyChanges ps s p.2) :
    OnlyChanges ps s (match p with | (a, u) => f a u) := h p.1 p.2 h'

theorem only_regs {ps : List Part} {s t : State} {v0} (k : Part.sub [.regs] ps = true) (h : OnlyChanges ps s t) :
    OnlyChanges ps s { t with regs := v0 } :=
  only_step (t := t) (qs := [.regs]) (by constructor; intro p hp; cases p <;> first | rfl | exact absurd (by decide) hp) k h

theorem only_mem {ps : List Part} {s t : State} {v0} (k : Part.sub [.mem] ps = true) (h : OnlyChanges ps s t) :
    OnlyChanges ps s { t with mem := v0 } :=
  only_step (t := t) (qs := [.mem]) (by constructor; intro p hp; cases p <;> first | rfl | exact absurd (by decide) hp) k h

theorem only_sig {ps : List Part} {s t : State} {v0} (k : Part.sub [.sig] ps = true) (h : OnlyChanges ps s t) :
    OnlyChanges ps s { t with sig := v0 } :=
  only_step (t := t) (qs := [.sig]) (by constructor; intro p hp; cases p <;> first | rfl | exact absurd (by decide) hp) k h

theorem only_env {ps : List Part} {s t : State} {v0} (k : Part.sub [.env] ps = true) (h : OnlyChanges ps s t) :
    OnlyChanges ps s { t with env := v0 } :=
  only_step (t := t) (qs := [.env]) (by constructor; intro p hp; cases p <;> first | rfl | exact absurd (by decide) hp) k h

theorem only_tb {ps : List Part} {s t : State} {v0} (k : Part.sub [.tb] ps = true) (h : OnlyChanges ps s t) :
    OnlyChanges ps s { t with tb := v0 } :=
  only_step (t := t) (qs := [.tb]) (by constructor; intro p hp; cases p <;> first | rfl | exact absurd (by decide) hp) k h

theorem only_fc {ps : List Part} {s t : State} {v0} (k : Part.sub [.fc] ps = true) (h : OnlyChanges ps s t) :
    OnlyChanges ps s { t with fc := v0 } :=
  only_step (t := t) (qs := [.fc]) (by constructor; intro p hp; cases p <;> first | rfl | exact absurd (by decide) hp) k h

theorem only_wdg {ps : List Part} {s t : State} {v0} (k : Part.sub [.wdg] ps = true) (h : OnlyChanges ps s t) :
    OnlyChanges ps s { t with wdg := v0 } :=
  only_step (t := t) (qs := [.wdg]) (by constructor; intro p hp; cases p <;> first | rfl | exact absurd (by decide) hp) k h

theorem only_pipe {ps : List Part} {s t : State} {v0} (k : Part.sub [.pipe] ps = true) (h : OnlyChanges ps s t) :
    OnlyChanges ps s { t with pipe := v0 } :=
  only_step (t := t) (qs := [.pipe]) (by constructor; intro p hp; cases p <;> first | rfl | exact absurd (by decide) hp) k h

theorem only_out {ps : List Part} {s t : State} {v0} (k : Part.sub [.out] ps = true) (h : OnlyChanges ps s t) :
    OnlyChanges ps s { t with out := v0 } :=
  only_step (t := t) (qs := [.out]) (by constructor; intro p hp; cases p <;> first | rfl | exact absurd (by decide) hp) k h

theorem only_chans {ps : List Part} {s t : State} {v0} (k : Part.sub [.chans] ps = true) (h : OnlyChanges ps s t) :
    OnlyChanges ps s { t with chans := v0 } :=
  only_step (t := t) (qs := [.chans]) (by constructor; intro p hp; cases p <;> first | rfl | exact absurd (by decide) hp) k h

theorem only_halves {ps : List Part} {s t : State} {v0} (k : Part.sub [.halves] ps = true) (h : OnlyChanges ps s t) :
    OnlyChanges ps s { t with halves := v0 } :=
  only_step (t := t) (qs := [.halves]) (by constructor; intro p hp; cases p <;> first | rfl | exact absurd (by decide) hp) k h

theorem only_pairs {ps : List Part} {s t : State} {v0} (k : Part.sub [.pairs] ps = true) (h : OnlyChanges ps s t) :
    OnlyChanges ps s { t with pairs := v0 } :=
  only_step (t := t) (qs := [.pairs]) (by constructor; intro p hp; cases p <;> first | rfl | exact absurd (by decide) hp) k h

theorem only_cribs {ps : List Part} {s t : State} {v0} (k : Part.sub [.cribs] ps = true) (h : OnlyChanges ps s t) :
    OnlyChanges ps s { t with cribs := v0 } :=
  only_step (t := t) (qs := [.cribs]) (by constructor; intro p hp; cases p <;> first | rfl | exact absurd (by decide) hp) k h

theorem only_boot {ps : List Part} {s t : State} {v0} (k : Part.sub [.boot] ps = true) (h : OnlyChanges ps s t) :
    OnlyChanges ps s { t with boot := v0 } :=
  only_step (t := t) (qs := [.boot]) (by constructor; intro p hp; cases p <;> first | rfl | exact absurd (by decide) hp) k h

theorem only_recfg {ps : List Part} {s t : State} {v0} (k : Part.sub [.recfg] ps = true) (h : OnlyChanges ps s t) :
    OnlyChanges ps s { t with recfg := v0 } :=
  only_step (t := t) (qs := [.recfg]) (by constructor; intro p hp; cases p <;> first | rfl | exact absurd (by decide) hp) k h

theorem only_cvu {ps : List Part} {s t : State} {v0} (k : Part.sub [.cvu] ps = true) (h : OnlyChanges ps s t) :
    OnlyChanges ps s { t with cvu := v0 } :=
  only_step (t := t) (qs := [.cvu]) (by constructor; intro p hp; cases p <;> first | rfl | exact absurd (by decide) hp) k h

theorem only_sr {ps : List Part} {s t : State} {v0} (k : Part.sub [.sr] ps = true) (h : OnlyChanges ps s t) :
    OnlyChanges ps s { t with sr := v0 } :=
  only_step (t := t) (qs := [.sr]) (by constructor; intro p hp; cases p <;> first | rfl | exact absurd (by decide) hp) k h

theorem only_gln {ps : List Part} {s t : State} {v0} (k : Part.sub [.gln] ps = true) (h : OnlyChanges ps s t) :
    OnlyChanges ps s { t with gln := v0 } :=
  only_step (t := t) (qs := [.gln]) (by constructor; intro p hp; cases p <;> first | rfl | exact absurd (by decide) hp) k h

theorem only_pwr {ps : List Part} {s t : State} {v0} (k : Part.sub [.pwr] ps = true) (h : OnlyChanges ps s t) :
    OnlyChanges ps s { t with pwr := v0 } :=
  only_step (t := t) (qs := [.pwr]) (by constructor; intro p hp; cases p <;> first | rfl | exact absurd (by decide) hp) k h

theorem only_yk {ps : List Part} {s t : State} {v0} (k : Part.sub [.yk] ps = true) (h : OnlyChanges ps s t) :
    OnlyChanges ps s { t with yk := v0 } :=
  only_step (t := t) (qs := [.yk]) (by constructor; intro p hp; cases p <;> first | rfl | exact absurd (by decide) hp) k h

theorem only_hp {ps : List Part} {s t : State} {v0} (k : Part.sub [.hp] ps = true) (h : OnlyChanges ps s t) :
    OnlyChanges ps s { t with hp := v0 } :=
  only_step (t := t) (qs := [.hp]) (by constructor; intro p hp; cases p <;> first | rfl | exact absurd (by decide) hp) k h

theorem only_forces {ps : List Part} {s t : State} {v0} (k : Part.sub [.forces] ps = true) (h : OnlyChanges ps s t) :
    OnlyChanges ps s { t with forces := v0 } :=
  only_step (t := t) (qs := [.forces]) (by constructor; intro p hp; cases p <;> first | rfl | exact absurd (by decide) hp) k h

theorem only_forceNext {ps : List Part} {s t : State} {v0} (k : Part.sub [.forceNext] ps = true) (h : OnlyChanges ps s t) :
    OnlyChanges ps s { t with forceNext := v0 } :=
  only_step (t := t) (qs := [.forceNext]) (by constructor; intro p hp; cases p <;> first | rfl | exact absurd (by decide) hp) k h

theorem only_queue {ps : List Part} {s t : State} {v0} (k : Part.sub [.queue] ps = true) (h : OnlyChanges ps s t) :
    OnlyChanges ps s { t with queue := v0 } :=
  only_step (t := t) (qs := [.queue]) (by constructor; intro p hp; cases p <;> first | rfl | exact absurd (by decide) hp) k h

theorem only_perf {ps : List Part} {s t : State} {v0} (k : Part.sub [.perf] ps = true) (h : OnlyChanges ps s t) :
    OnlyChanges ps s { t with perf := v0 } :=
  only_step (t := t) (qs := [.perf]) (by constructor; intro p hp; cases p <;> first | rfl | exact absurd (by decide) hp) k h

theorem only_scrub {ps : List Part} {s t : State} {v0} (k : Part.sub [.scrub] ps = true) (h : OnlyChanges ps s t) :
    OnlyChanges ps s { t with scrub := v0 } :=
  only_step (t := t) (qs := [.scrub]) (by constructor; intro p hp; cases p <;> first | rfl | exact absurd (by decide) hp) k h

theorem only_free {ps : List Part} {s t : State} {v0} (k : Part.sub [.free] ps = true) (h : OnlyChanges ps s t) :
    OnlyChanges ps s { t with free := v0 } :=
  only_step (t := t) (qs := [.free]) (by constructor; intro p hp; cases p <;> first | rfl | exact absurd (by decide) hp) k h

theorem only_pending {ps : List Part} {s t : State} {v0} (k : Part.sub [.pending] ps = true) (h : OnlyChanges ps s t) :
    OnlyChanges ps s { t with pending := v0 } :=
  only_step (t := t) (qs := [.pending]) (by constructor; intro p hp; cases p <;> first | rfl | exact absurd (by decide) hp) k h

theorem only_fc_pipe_chans_halves_cribs {ps : List Part} {s t : State} {v0 v1 v2 v3 v4} (k : Part.sub [.fc, .pipe, .chans, .halves, .cribs] ps = true) (h : OnlyChanges ps s t) :
    OnlyChanges ps s { t with fc := v0, pipe := v1, chans := v2, halves := v3, cribs := v4 } :=
  only_step (t := t) (qs := [.fc, .pipe, .chans, .halves, .cribs]) (by constructor; intro p hp; cases p <;> first | rfl | exact absurd (by decide) hp) k h

theorem only_boot_hp {ps : List Part} {s t : State} {v0 v1} (k : Part.sub [.boot, .hp] ps = true) (h : OnlyChanges ps s t) :
    OnlyChanges ps s { t with boot := v0, hp := v1 } :=
  only_step (t := t) (qs := [.boot, .hp]) (by constructor; intro p hp; cases p <;> first | rfl | exact absurd (by decide) hp) k h

theorem only_forces_forceNext {ps : List Part} {s t : State} {v0 v1} (k : Part.sub [.forces, .forceNext] ps = true) (h : OnlyChanges ps s t) :
    OnlyChanges ps s { t with forces := v0, forceNext := v1 } :=
  only_step (t := t) (qs := [.forces, .forceNext]) (by constructor; intro p hp; cases p <;> first | rfl | exact absurd (by decide) hp) k h

theorem only_tb_boot {ps : List Part} {s t : State} {v0 v1} (k : Part.sub [.tb, .boot] ps = true) (h : OnlyChanges ps s t) :
    OnlyChanges ps s { t with tb := v0, boot := v1 } :=
  only_step (t := t) (qs := [.tb, .boot]) (by constructor; intro p hp; cases p <;> first | rfl | exact absurd (by decide) hp) k h

theorem only_regs_env_tb_fc_pipe_boot_sr {ps : List Part} {s t : State} {v0 v1 v2 v3 v4 v5 v6} (k : Part.sub [.regs, .env, .tb, .fc, .pipe, .boot, .sr] ps = true) (h : OnlyChanges ps s t) :
    OnlyChanges ps s { t with regs := v0, env := v1, tb := v2, fc := v3, pipe := v4, boot := v5, sr := v6 } :=
  only_step (t := t) (qs := [.regs, .env, .tb, .fc, .pipe, .boot, .sr]) (by constructor; intro p hp; cases p <;> first | rfl | exact absurd (by decide) hp) k h

theorem only_regs_env_boot_sr {ps : List Part} {s t : State} {v0 v1 v2 v3} (k : Part.sub [.regs, .env, .boot, .sr] ps = true) (h : OnlyChanges ps s t) :
    OnlyChanges ps s { t with regs := v0, env := v1, boot := v2, sr := v3 } :=
  only_step (t := t) (qs := [.regs, .env, .boot, .sr]) (by constructor; intro p hp; cases p <;> first | rfl | exact absurd (by decide) hp) k h

theorem only_sig_pipe {ps : List Part} {s t : State} {v0 v1} (k : Part.sub [.sig, .pipe] ps = true) (h : OnlyChanges ps s t) :
    OnlyChanges ps s { t with sig := v0, pipe := v1 } :=
  only_step (t := t) (qs := [.sig, .pipe]) (by constructor; intro p hp; cases p <;> first | rfl | exact absurd (by decide) hp) k h

theorem only_env_hp {ps : List Part} {s t : State} {v0 v1} (k : Part.sub [.env, .hp] ps = true) (h : OnlyChanges ps s t) :
    OnlyChanges ps s { t with env := v0, hp := v1 } :=
  only_step (t := t) (qs := [.env, .hp]) (by constructor; intro p hp; cases p <;> first | rfl | exact absurd (by decide) hp) k h

theorem only_pairs_cribs {ps : List Part} {s t : State} {v0 v1} (k : Part.sub [.pairs, .cribs] ps = true) (h : OnlyChanges ps s t) :
    OnlyChanges ps s { t with pairs := v0, cribs := v1 } :=
  only_step (t := t) (qs := [.pairs, .cribs]) (by constructor; intro p hp; cases p <;> first | rfl | exact absurd (by decide) hp) k h

theorem only_chans_halves {ps : List Part} {s t : State} {v0 v1} (k : Part.sub [.chans, .halves] ps = true) (h : OnlyChanges ps s t) :
    OnlyChanges ps s { t with chans := v0, halves := v1 } :=
  only_step (t := t) (qs := [.chans, .halves]) (by constructor; intro p hp; cases p <;> first | rfl | exact absurd (by decide) hp) k h

theorem only_tb_pipe {ps : List Part} {s t : State} {v0 v1} (k : Part.sub [.tb, .pipe] ps = true) (h : OnlyChanges ps s t) :
    OnlyChanges ps s { t with tb := v0, pipe := v1 } :=
  only_step (t := t) (qs := [.tb, .pipe]) (by constructor; intro p hp; cases p <;> first | rfl | exact absurd (by decide) hp) k h

theorem only_fc_pairs {ps : List Part} {s t : State} {v0 v1} (k : Part.sub [.fc, .pairs] ps = true) (h : OnlyChanges ps s t) :
    OnlyChanges ps s { t with fc := v0, pairs := v1 } :=
  only_step (t := t) (qs := [.fc, .pairs]) (by constructor; intro p hp; cases p <;> first | rfl | exact absurd (by decide) hp) k h

theorem only_fc_pipe_chans_halves {ps : List Part} {s t : State} {v0 v1 v2 v3} (k : Part.sub [.fc, .pipe, .chans, .halves] ps = true) (h : OnlyChanges ps s t) :
    OnlyChanges ps s { t with fc := v0, pipe := v1, chans := v2, halves := v3 } :=
  only_step (t := t) (qs := [.fc, .pipe, .chans, .halves]) (by constructor; intro p hp; cases p <;> first | rfl | exact absurd (by decide) hp) k h

theorem only_regs_chans {ps : List Part} {s t : State} {v0 v1} (k : Part.sub [.regs, .chans] ps = true) (h : OnlyChanges ps s t) :
    OnlyChanges ps s { t with regs := v0, chans := v1 } :=
  only_step (t := t) (qs := [.regs, .chans]) (by constructor; intro p hp; cases p <;> first | rfl | exact absurd (by decide) hp) k h

end Sys2Proof.Machine
end

