-- ==== Sys2Proof/Laws/FramesA.lean ====
section
/-!
SUPPORT. Laws/FramesA.lean: what each shared operation and each effect may change of the state: one lemma per definition
(part 1 of 5, in the order in which they use one another).
-/
namespace Sys2Proof.Machine

theorem State.ageDie_only (s : State) (i n : Nat) : OnlyChanges [.sr] s (s.ageDie i n) := by
  unfold State.ageDie
  repeat' first
    | with_reducible exact only_refl _ _ | decide | assumption | with_reducible apply only_ite | refine fun _ => ?_
    | refine fun _ _ => ?_ | dsimp only | with_reducible apply only_sr
    | (constructor; intro p hp; cases p <;> first | rfl | exact absurd (by decide) hp)

theorem State.ageSwath_only (s : State) : OnlyChanges [.sr] s (s.ageSwath) := by
  unfold State.ageSwath
  repeat' first
    | with_reducible exact only_refl _ _ | decide | assumption
    | with_reducible apply only_step (State.ageDie_only ..) | with_reducible apply only_foldl | refine fun _ => ?_
    | refine fun _ _ => ?_ | dsimp only

theorem State.takeReadings_only (s : State) (a : Ageing) : OnlyChanges [.sr] s (s.takeReadings a) := by
  unfold State.takeReadings
  repeat' first
    | with_reducible exact only_refl _ _ | decide | assumption
    | with_reducible apply only_step (State.ageDie_only ..) | with_reducible apply only_foldl
    | with_reducible apply only_ite | refine fun _ => ?_ | refine fun _ _ => ?_ | dsimp only
    | with_reducible apply only_sr | (constructor; intro p hp; cases p <;> first | rfl | exact absurd (by decide) hp)

theorem State.drawWord_only (s : State) : OnlyChanges [.free] s (s.drawWord).2 := by
  unfold State.drawWord
  repeat' first
    | with_reducible exact only_refl _ _ | decide | assumption | with_reducible apply only_pair
    | (refine only_of_pair (by assumption) ?_) | (refine only_of_fst (by assumption) ?_) | refine fun _ => ?_
    | refine fun _ _ => ?_ | dsimp only | split | with_reducible apply only_free
    | (constructor; intro p hp; cases p <;> first | rfl | exact absurd (by decide) hp)

theorem State.journal_only (s : State) (subject type flags : Nat) (payload : List Word) :
    OnlyChanges [.sr] s (s.journal subject type flags payload) := by
  unfold State.journal
  repeat' first
    | with_reducible exact only_refl _ _ | decide | assumption | refine fun _ => ?_ | refine fun _ _ => ?_
    | dsimp only | with_reducible apply only_sr
    | (constructor; intro p hp; cases p <;> first | rfl | exact absurd (by decide) hp)

theorem State.setReg_only (s : State) (a : Nat) (v : Word) : OnlyChanges [.regs] s (s.setReg a v) := by
  unfold State.setReg
  repeat' first
    | with_reducible exact only_refl _ _ | decide | assumption | refine fun _ => ?_ | refine fun _ _ => ?_
    | dsimp only | with_reducible apply only_regs
    | (constructor; intro p hp; cases p <;> first | rfl | exact absurd (by decide) hp)

theorem State.hourlyDevice_only (s : State) (a : Ageing) : OnlyChanges [.regs, .sr, .free] s (s.hourlyDevice a) := by
  unfold State.hourlyDevice
  repeat' first
    | with_reducible exact only_refl _ _ | decide | assumption
    | with_reducible apply only_step (State.setReg_only ..)
    | with_reducible apply only_step (State.takeReadings_only ..)
    | with_reducible apply only_step (State.journal_only ..)
    | with_reducible apply only_step (State.drawWord_only ..) | with_reducible apply only_foldl
    | with_reducible apply only_ite | with_reducible apply only_pair | (refine only_of_pair (by assumption) ?_)
    | (refine only_of_fst (by assumption) ?_) | refine fun _ => ?_ | refine fun _ _ => ?_ | dsimp only | split
    | with_reducible apply only_sr | (constructor; intro p hp; cases p <;> first | rfl | exact absurd (by decide) hp)

theorem State.setPairReg_only (s : State) (lo hi w : Nat) (v : Nat) :
    OnlyChanges [.regs] s (s.setPairReg lo hi w v) := by
  unfold State.setPairReg
  repeat' first
    | with_reducible exact only_refl _ _ | decide | assumption
    | with_reducible apply only_step (State.setReg_only ..) | refine fun _ => ?_ | refine fun _ _ => ?_ | dsimp only

theorem State.pcAdd_only (s : State) (lo n : Nat) : OnlyChanges [.regs] s (s.pcAdd lo n) := by
  unfold State.pcAdd
  repeat' first
    | with_reducible exact only_refl _ _ | decide | assumption
    | with_reducible apply only_step (State.setPairReg_only ..) | refine fun _ => ?_ | refine fun _ _ => ?_
    | dsimp only

theorem State.pcPairHeld_only (s : State) (p k n : Nat) : OnlyChanges [.regs] s (s.pcPairHeld p k n) := by
  unfold State.pcPairHeld
  repeat' first
    | with_reducible exact only_refl _ _ | decide | assumption | with_reducible apply only_step (State.pcAdd_only ..)
    | refine fun _ => ?_ | refine fun _ _ => ?_ | dsimp only

theorem State.pcPair_only (s : State) (p k n : Nat) : OnlyChanges [.regs] s (s.pcPair p k n) := by
  unfold State.pcPair
  repeat' first
    | with_reducible exact only_refl _ _ | decide | assumption
    | with_reducible apply only_step (State.pcPairHeld_only ..) | with_reducible apply only_ite | refine fun _ => ?_
    | refine fun _ _ => ?_ | dsimp only

theorem State.pcTake_only (s : State) (p k n : Nat) : OnlyChanges [.regs] s (s.pcTake p k n) := by
  unfold State.pcTake
  repeat' first
    | with_reducible exact only_refl _ _ | decide | assumption
    | with_reducible apply only_step (State.pcPairHeld_only ..) | refine fun _ => ?_ | refine fun _ _ => ?_
    | dsimp only

theorem State.chaffTines_only (s : State) (p : PairIx) (cs : List Ctx) :
    OnlyChanges [.regs] s (s.chaffTines p cs) := by
  unfold State.chaffTines
  repeat' first
    | with_reducible exact only_refl _ _ | decide | assumption
    | with_reducible apply only_step (State.pcTake_only ..) | with_reducible apply only_step (State.pcPair_only ..)
    | with_reducible apply only_foldl | refine fun _ => ?_ | refine fun _ _ => ?_ | dsimp only

theorem State.updPair_only (s : State) (p : PairIx) (f : Pair → Pair) : OnlyChanges [.pairs] s (s.updPair p f) := by
  unfold State.updPair
  repeat' first
    | with_reducible exact only_refl _ _ | decide | assumption | refine fun _ => ?_ | refine fun _ _ => ?_
    | dsimp only | with_reducible apply only_pairs
    | (constructor; intro p hp; cases p <;> first | rfl | exact absurd (by decide) hp)

theorem State.cutWork_only (s : State) (p : PairIx) (x : Slots) : OnlyChanges [.regs, .pairs] s (s.cutWork p x) := by
  unfold State.cutWork
  repeat' first
    | with_reducible exact only_refl _ _ | decide | assumption
    | with_reducible apply only_step (State.chaffTines_only ..)
    | with_reducible apply only_step (State.pcTake_only ..) | with_reducible apply only_step (State.updPair_only ..)
    | with_reducible apply only_ite | with_reducible apply only_pair | (refine only_of_pair (by assumption) ?_)
    | (refine only_of_fst (by assumption) ?_) | refine fun _ => ?_ | refine fun _ _ => ?_ | dsimp only | split

theorem State.setF_only (s : State) (f : Fld) (v : Nat) : OnlyChanges [.regs] s (s.setF f v) := by
  unfold State.setF
  repeat' first
    | with_reducible exact only_refl _ _ | decide | assumption
    | with_reducible apply only_step (State.setReg_only ..) | refine fun _ => ?_ | refine fun _ _ => ?_ | dsimp only

theorem State.freezeRoll_only (s : State) (p : PairIx) : OnlyChanges [.regs] s (s.freezeRoll p) := by
  unfold State.freezeRoll
  repeat' first
    | with_reducible exact only_refl _ _ | decide | assumption | with_reducible apply only_step (State.setF_only ..)
    | refine fun _ => ?_ | refine fun _ _ => ?_ | dsimp only

theorem State.pcIdle_only (s : State) (p : PairIx) (len : Nat) : OnlyChanges [.regs, .pairs] s (s.pcIdle p len) := by
  unfold State.pcIdle
  repeat' first
    | with_reducible exact only_refl _ _ | decide | assumption
    | with_reducible apply only_step (State.pcTake_only ..) | with_reducible apply only_step (State.updPair_only ..)
    | with_reducible apply only_ite | refine fun _ => ?_ | refine fun _ _ => ?_ | dsimp only

theorem State.setB_only (s : State) (f : Fld) (b : Bool) : OnlyChanges [.regs] s (s.setB f b) := by
  unfold State.setB
  repeat' first
    | with_reducible exact only_refl _ _ | decide | assumption | with_reducible apply only_step (State.setF_only ..)
    | refine fun _ => ?_ | refine fun _ _ => ?_ | dsimp only

theorem State.showPc_only (s : State) (p : PairIx) : OnlyChanges [.regs] s (s.showPc p) := by
  unfold State.showPc
  repeat' first
    | with_reducible exact only_refl _ _ | decide | assumption | with_reducible apply only_step (State.setF_only ..)
    | with_reducible apply only_pair | (refine only_of_pair (by assumption) ?_)
    | (refine only_of_fst (by assumption) ?_) | refine fun _ => ?_ | refine fun _ _ => ?_ | dsimp only | split

theorem State.haltNow_only (s : State) (p : PairIx) (bkpt : Bool) :
    OnlyChanges [.regs, .pairs] s (s.haltNow p bkpt) := by
  unfold State.haltNow
  repeat' first
    | with_reducible exact only_refl _ _ | decide | assumption | with_reducible apply only_step (State.setB_only ..)
    | with_reducible apply only_step (State.cutWork_only ..) | with_reducible apply only_step (State.setF_only ..)
    | with_reducible apply only_step (State.pcIdle_only ..) | with_reducible apply only_step (State.updPair_only ..)
    | with_reducible apply only_step (State.showPc_only ..)
    | with_reducible apply only_step (State.freezeRoll_only ..) | with_reducible apply only_ite
    | with_reducible apply only_pair | (refine only_of_pair (by assumption) ?_)
    | (refine only_of_fst (by assumption) ?_) | refine fun _ => ?_ | refine fun _ _ => ?_ | dsimp only | split

theorem State.writeByte_only (s : State) (a : Nat) (b : Byte) : OnlyChanges [.mem] s (s.writeByte a b) := by
  unfold State.writeByte
  repeat' first
    | with_reducible exact only_refl _ _ | decide | assumption | refine fun _ => ?_ | refine fun _ _ => ?_
    | dsimp only | with_reducible apply only_mem
    | (constructor; intro p hp; cases p <;> first | rfl | exact absurd (by decide) hp)

theorem State.writeMem_only (s : State) (a : Nat) (w : Word) : OnlyChanges [.mem] s (s.writeMem a w) := by
  unfold State.writeMem
  repeat' first
    | with_reducible exact only_refl _ _ | decide | assumption
    | with_reducible apply only_step (State.writeByte_only ..) | refine fun _ => ?_ | refine fun _ _ => ?_
    | dsimp only

theorem State.writeWords_only (s : State) (a : Nat) (ws : List Word) : OnlyChanges [.mem] s (s.writeWords a ws) := by
  induction ws generalizing s a with
  | nil => exact only_refl _ _
  | cons w ws ih => exact only_trans (State.writeMem_only ..) (ih ..)

theorem State.layEntries_only (s : State) (c : CribIx) (x : Nat) (es : List (Nat × List Word)) :
    OnlyChanges [.mem] s (s.layEntries c x es) := by
  induction es generalizing s x with
  | nil => exact only_refl _ _
  | cons e es ih => exact only_trans (State.writeWords_only ..) (ih ..)

theorem State.syncCrib_only (s : State) (c : CribIx) : OnlyChanges [.regs] s (s.syncCrib c) := by
  unfold State.syncCrib
  repeat' first
    | with_reducible exact only_refl _ _ | decide | assumption | with_reducible apply only_step (State.setB_only ..)
    | with_reducible apply only_step (State.setF_only ..) | refine fun _ => ?_ | refine fun _ _ => ?_ | dsimp only

theorem State.updCrib_only (s : State) (c : CribIx) (f : Crib → Crib) : OnlyChanges [.cribs] s (s.updCrib c f) := by
  unfold State.updCrib
  repeat' first
    | with_reducible exact only_refl _ _ | decide | assumption | refine fun _ => ?_ | refine fun _ _ => ?_
    | dsimp only | with_reducible apply only_cribs
    | (constructor; intro p hp; cases p <;> first | rfl | exact absurd (by decide) hp)

theorem State.dropTag_only (s : State) (c : CribIx) (tag : Nat) :
    OnlyChanges [.regs, .mem, .cribs] s (s.dropTag c tag) := by
  unfold State.dropTag
  repeat' first
    | with_reducible exact only_refl _ _ | decide | assumption
    | with_reducible apply only_step (State.syncCrib_only ..)
    | with_reducible apply only_step (State.updCrib_only ..)
    | with_reducible apply only_step (State.layEntries_only ..) | with_reducible apply only_ite | refine fun _ => ?_
    | refine fun _ _ => ?_ | dsimp only

theorem State.dropEmits_only (s : State) (p : PairIx) :
    OnlyChanges [.regs, .mem, .pairs, .cribs] s (s.dropEmits p) := by
  unfold State.dropEmits
  repeat' first
    | with_reducible exact only_refl _ _ | decide | assumption
    | with_reducible apply only_step (State.dropTag_only ..) | with_reducible apply only_step (State.updPair_only ..)
    | with_reducible apply only_foldl | refine fun _ => ?_ | refine fun _ _ => ?_ | dsimp only

theorem State.dropPair_only (s : State) (p : Nat) : OnlyChanges [.sig] s (s.dropPair p) := by
  unfold State.dropPair
  repeat' first
    | with_reducible exact only_refl _ _ | decide | assumption | with_reducible apply only_ite
    | with_reducible apply only_pair | (refine only_of_pair (by assumption) ?_)
    | (refine only_of_fst (by assumption) ?_) | refine fun _ => ?_ | refine fun _ _ => ?_ | dsimp only | split
    | with_reducible apply only_sig
    | (constructor; intro p hp; cases p <;> first | rfl | exact absurd (by decide) hp)

theorem State.gather_only (s : State) (f : Fld) (g : Nat → Nat) : OnlyChanges [.regs] s (s.gather f g) := by
  unfold State.gather
  repeat' first
    | with_reducible exact only_refl _ _ | decide | assumption | with_reducible apply only_step (State.setF_only ..)
    | refine fun _ => ?_ | refine fun _ _ => ?_ | dsimp only

theorem State.addF_only (s : State) (f : Fld) (n : Nat) : OnlyChanges [.regs] s (s.addF f n) := by
  unfold State.addF
  repeat' first
    | with_reducible exact only_refl _ _ | decide | assumption
    | with_reducible apply only_step (State.gather_only ..) | refine fun _ => ?_ | refine fun _ _ => ?_ | dsimp only

theorem State.memCorr_only (s : State) (p : PairIx) (x : Slots) : OnlyChanges [.regs] s (s.memCorr p x) := by
  unfold State.memCorr
  repeat' first
    | with_reducible exact only_refl _ _ | decide | assumption | with_reducible apply only_step (State.addF_only ..)
    | refine fun _ => ?_ | refine fun _ _ => ?_ | dsimp only

theorem State.blockPair_only (s : State) (p : PairIx) (cause pc : Nat) (x : Slots) :
    OnlyChanges [.regs, .mem, .sig, .pairs, .cribs] s (s.blockPair p cause pc x) := by
  unfold State.blockPair
  repeat' first
    | with_reducible exact only_refl _ _ | decide | assumption | with_reducible apply only_step (State.setB_only ..)
    | with_reducible apply only_step (State.cutWork_only ..) | with_reducible apply only_step (State.setF_only ..)
    | with_reducible apply only_step (State.pcTake_only ..) | with_reducible apply only_step (State.updPair_only ..)
    | with_reducible apply only_step (State.memCorr_only ..)
    | with_reducible apply only_step (State.dropPair_only ..)
    | with_reducible apply only_step (State.dropEmits_only ..) | with_reducible apply only_ite
    | with_reducible apply only_pair | (refine only_of_pair (by assumption) ?_)
    | (refine only_of_fst (by assumption) ?_) | refine fun _ => ?_ | refine fun _ _ => ?_ | dsimp only | split

theorem State.countSource_only (s : State) (src kind : Nat) : OnlyChanges [.regs] s (s.countSource src kind) := by
  unfold State.countSource
  repeat' first
    | with_reducible exact only_refl _ _ | decide | assumption | with_reducible apply only_step (State.setF_only ..)
    | with_reducible apply only_step (State.addF_only ..) | refine fun _ => ?_ | refine fun _ _ => ?_ | dsimp only

theorem State.enter_only (s : State) (code : Nat) : OnlyChanges [.regs] s (s.enter code) := by
  unfold State.enter
  repeat' first
    | with_reducible exact only_refl _ _ | decide | assumption | with_reducible apply only_step (State.setF_only ..)
    | refine fun _ => ?_ | refine fun _ _ => ?_ | dsimp only

theorem State.disarm_only (s : State) (mask : Nat) : OnlyChanges [.regs, .halves] s (s.disarm mask) := by
  unfold State.disarm
  repeat' first
    | with_reducible exact only_refl _ _ | decide | assumption | with_reducible apply only_step (State.setF_only ..)
    | with_reducible apply only_step (State.enter_only ..) | with_reducible apply only_foldl
    | with_reducible apply only_ite | refine fun _ => ?_ | refine fun _ _ => ?_ | dsimp only
    | with_reducible apply only_halves
    | (constructor; intro p hp; cases p <;> first | rfl | exact absurd (by decide) hp)

theorem State.stopPairs_only (s : State) : OnlyChanges [.regs, .pairs] s (s.stopPairs) := by
  unfold State.stopPairs
  repeat' first
    | with_reducible exact only_refl _ _ | decide | assumption
    | with_reducible apply only_step (State.cutWork_only ..) | with_reducible apply only_step (State.updPair_only ..)
    | with_reducible apply only_foldl | with_reducible apply only_ite | refine fun _ => ?_ | refine fun _ _ => ?_
    | dsimp only

theorem State.deviceSafe_only (s : State) (msg : Word) :
    OnlyChanges [.regs, .env, .fc, .halves, .pairs] s (s.deviceSafe msg) := by
  unfold State.deviceSafe
  repeat' first
    | with_reducible exact only_refl _ _ | decide | assumption
    | with_reducible apply only_step (State.setReg_only ..) | with_reducible apply only_step (State.disarm_only ..)
    | with_reducible apply only_step (State.stopPairs_only ..) | with_reducible apply only_whenB
    | with_reducible apply only_step (State.enter_only ..) | refine fun _ => ?_ | refine fun _ _ => ?_ | dsimp only
    | with_reducible apply only_env | with_reducible apply only_fc
    | (constructor; intro p hp; cases p <;> first | rfl | exact absurd (by decide) hp)

theorem State.endDrive_only (s : State) : OnlyChanges [.regs, .yk] s (s.endDrive) := by
  unfold State.endDrive
  repeat' first
    | with_reducible exact only_refl _ _ | decide | assumption | with_reducible apply only_step (State.setB_only ..)
    | with_reducible apply only_ite | refine fun _ => ?_ | refine fun _ _ => ?_ | dsimp only
    | with_reducible apply only_yk | (constructor; intro p hp; cases p <;> first | rfl | exact absurd (by decide) hp)

theorem State.latchChannels_only (s : State) (mask src kind : Nat) (auto : Bool) :
    OnlyChanges [.fc] s (s.latchChannels mask src kind auto) := by
  unfold State.latchChannels
  repeat' first
    | with_reducible exact only_refl _ _ | decide | assumption | with_reducible apply only_pair
    | (refine only_of_pair (by assumption) ?_) | (refine only_of_fst (by assumption) ?_) | refine fun _ => ?_
    | refine fun _ _ => ?_ | dsimp only | split | with_reducible apply only_fc
    | (constructor; intro p hp; cases p <;> first | rfl | exact absurd (by decide) hp)

theorem State.markPending_only (s : State) (mask : Nat) (auto : Bool) :
    OnlyChanges [.fc] s (s.markPending mask auto) := by
  unfold State.markPending
  repeat' first
    | with_reducible exact only_refl _ _ | decide | assumption | refine fun _ => ?_ | refine fun _ _ => ?_
    | dsimp only | with_reducible apply only_fc
    | (constructor; intro p hp; cases p <;> first | rfl | exact absurd (by decide) hp)

theorem State.resetReact_only (s : State) (msg : Word) : OnlyChanges [.regs, .fc, .halves] s (s.resetReact msg) := by
  unfold State.resetReact
  repeat' first
    | with_reducible exact only_refl _ _ | decide | assumption
    | with_reducible apply only_step (State.setReg_only ..) | with_reducible apply only_step (State.disarm_only ..)
    | with_reducible apply only_ite | refine fun _ => ?_ | refine fun _ _ => ?_ | dsimp only
    | with_reducible apply only_fc | (constructor; intro p hp; cases p <;> first | rfl | exact absurd (by decide) hp)

theorem State.causeNow_only (s : State) (c : Nat) : OnlyChanges [.pipe] s (s.causeNow c) := by
  unfold State.causeNow
  repeat' first
    | with_reducible exact only_refl _ _ | decide | assumption | refine fun _ => ?_ | refine fun _ _ => ?_
    | dsimp only | with_reducible apply only_pipe
    | (constructor; intro p hp; cases p <;> first | rfl | exact absurd (by decide) hp)

theorem State.suspendReact_only (s : State) : OnlyChanges [.pipe] s (s.suspendReact) := by
  unfold State.suspendReact
  repeat' first
    | with_reducible exact only_refl _ _ | decide | assumption
    | with_reducible apply only_step (State.causeNow_only ..) | refine fun _ => ?_ | refine fun _ _ => ?_
    | dsimp only | with_reducible apply only_pipe
    | (constructor; intro p hp; cases p <;> first | rfl | exact absurd (by decide) hp)

theorem State.syncFc_only (s : State) : OnlyChanges [.regs] s (s.syncFc) := by
  unfold State.syncFc
  repeat' first
    | with_reducible exact only_refl _ _ | decide | assumption | with_reducible apply only_step (State.setB_only ..)
    | with_reducible apply only_step (State.setF_only ..) | with_reducible apply only_foldl | refine fun _ => ?_
    | refine fun _ _ => ?_ | dsimp only

theorem State.react_only (s : State) (src kind addr cls : Nat) (auto : Bool) (msg : Word) :
    OnlyChanges [.regs, .env, .fc, .pipe, .halves, .pairs, .yk] s (s.react src kind addr cls auto msg) := by
  unfold State.react
  repeat' first
    | with_reducible exact only_refl _ _ | decide | assumption
    | with_reducible apply only_step (State.deviceSafe_only ..)
    | with_reducible apply only_step (State.resetReact_only ..)
    | with_reducible apply only_step (State.endDrive_only ..) | with_reducible apply only_step (State.disarm_only ..)
    | with_reducible apply only_step (State.latchChannels_only ..)
    | with_reducible apply only_step (State.suspendReact_only ..)
    | with_reducible apply only_step (State.syncFc_only ..)
    | with_reducible apply only_step (State.markPending_only ..) | with_reducible apply only_ite | refine fun _ => ?_
    | refine fun _ _ => ?_ | dsimp only | with_reducible apply only_fc
    | (constructor; intro p hp; cases p <;> first | rfl | exact absurd (by decide) hp)

theorem State.raiseCore_only (s : State) (src kind addr : Nat) (forced rehearsal : Bool) :
    OnlyChanges [.regs, .env, .fc, .pipe, .halves, .pairs, .yk] s (s.raiseCore src kind addr forced rehearsal) := by
  unfold State.raiseCore
  repeat' first
    | with_reducible exact only_refl _ _ | decide | assumption
    | with_reducible apply only_step (State.countSource_only ..)
    | with_reducible apply only_step (State.react_only ..) | with_reducible apply only_ite
    | with_reducible apply only_pair | (refine only_of_pair (by assumption) ?_)
    | (refine only_of_fst (by assumption) ?_) | refine fun _ => ?_ | refine fun _ _ => ?_ | dsimp only | split
    | with_reducible apply only_fc | (constructor; intro p hp; cases p <;> first | rfl | exact absurd (by decide) hp)

theorem State.setRecfg_only (s : State) (st reason : Nat) : OnlyChanges [.regs, .recfg] s (s.setRecfg st reason) := by
  unfold State.setRecfg
  repeat' first
    | with_reducible exact only_refl _ _ | decide | assumption | with_reducible apply only_step (State.setF_only ..)
    | with_reducible apply only_pair | (refine only_of_pair (by assumption) ?_)
    | (refine only_of_fst (by assumption) ?_) | refine fun _ => ?_ | refine fun _ _ => ?_ | dsimp only | split
    | with_reducible apply only_recfg
    | (constructor; intro p hp; cases p <;> first | rfl | exact absurd (by decide) hp)

theorem State.endRecfg_only (s : State) (st reason : Nat) :
    OnlyChanges [.regs, .env, .fc, .pipe, .halves, .pairs, .recfg, .yk] s (s.endRecfg st reason) := by
  unfold State.endRecfg
  repeat' first
    | with_reducible exact only_refl _ _ | decide | assumption
    | with_reducible apply only_step (State.setRecfg_only ..)
    | with_reducible apply only_step (State.raiseCore_only ..) | refine fun _ => ?_ | refine fun _ _ => ?_
    | dsimp only

theorem State.recfgCancelFor_only (s : State) (reason : Nat) :
    OnlyChanges [.regs, .env, .fc, .pipe, .halves, .pairs, .recfg, .yk] s (s.recfgCancelFor reason) := by
  unfold State.recfgCancelFor
  repeat' first
    | with_reducible exact only_refl _ _ | decide | assumption
    | with_reducible apply only_step (State.endRecfg_only ..) | with_reducible apply only_ite | refine fun _ => ?_
    | refine fun _ _ => ?_ | dsimp only

theorem State.raiseWith_only (s : State) (src kind addr : Nat) (forced rehearsal : Bool) :
    OnlyChanges [.regs, .env, .fc, .pipe, .halves, .pairs, .recfg, .yk] s (s.raiseWith src kind addr forced rehearsal) := by
  unfold State.raiseWith
  repeat' first
    | with_reducible exact only_refl _ _ | decide | assumption | with_reducible apply only_whenB
    | with_reducible apply only_step (State.recfgCancelFor_only ..)
    | with_reducible apply only_step (State.raiseCore_only ..) | with_reducible apply only_ite | refine fun _ => ?_
    | refine fun _ _ => ?_ | dsimp only

theorem State.raise_only (s : State) (src kind addr : Nat) :
    OnlyChanges [.regs, .env, .fc, .pipe, .halves, .pairs, .recfg, .yk] s (s.raise src kind addr) := by
  unfold State.raise
  repeat' first
    | with_reducible exact only_refl _ _ | decide | assumption
    | with_reducible apply only_step (State.raiseWith_only ..) | refine fun _ => ?_ | refine fun _ _ => ?_
    | dsimp only

theorem State.lockstepFault_only (s : State) (p : PairIx) (cause pc sheaf : Nat) (x : Slots) :
    OnlyChanges [.regs, .mem, .sig, .env, .fc, .pipe, .halves, .pairs, .cribs, .recfg, .yk] s (s.lockstepFault p cause pc sheaf x) := by
  unfold State.lockstepFault
  repeat' first
    | with_reducible exact only_refl _ _ | decide | assumption | with_reducible apply only_step (State.raise_only ..)
    | with_reducible apply only_step (State.blockPair_only ..) | refine fun _ => ?_ | refine fun _ _ => ?_
    | dsimp only

theorem State.onEngine_only (s : State) (p : PairIx) (op : BinderOp) :
    OnlyChanges [.regs, .mem, .sig, .env, .fc, .pipe, .halves, .pairs, .cribs, .recfg, .yk] s (s.onEngine p op) := by
  unfold State.onEngine
  repeat' first
    | with_reducible exact only_refl _ _ | decide | assumption
    | with_reducible apply only_step (State.lockstepFault_only ..)
    | with_reducible apply only_step (State.updPair_only ..) | with_reducible apply only_step (State.haltNow_only ..)
    | with_reducible apply only_ite | with_reducible apply only_pair | (refine only_of_pair (by assumption) ?_)
    | (refine only_of_fst (by assumption) ?_) | refine fun _ => ?_ | refine fun _ _ => ?_ | dsimp only | split

theorem State.keepDies_only (s : State) : OnlyChanges [.chans, .halves] s (s.keepDies) := by
  unfold State.keepDies
  repeat' first
    | with_reducible exact only_refl _ _ | decide | assumption | with_reducible apply only_foldl | refine fun _ => ?_
    | refine fun _ _ => ?_ | dsimp only | with_reducible apply only_chans_halves
    | (constructor; intro p hp; cases p <;> first | rfl | exact absurd (by decide) hp)

theorem State.dropTicks_only (s : State) : OnlyChanges [.chans, .halves] s (s.dropTicks) := by
  unfold State.dropTicks
  repeat' first
    | with_reducible exact only_refl _ _ | decide | assumption | with_reducible apply only_ite | refine fun _ => ?_
    | refine fun _ _ => ?_ | dsimp only | with_reducible apply only_chans_halves
    | (constructor; intro p hp; cases p <;> first | rfl | exact absurd (by decide) hp)

theorem State.syncSr_only (s : State) : OnlyChanges [.regs] s (s.syncSr) := by
  unfold State.syncSr
  repeat' first
    | with_reducible exact only_refl _ _ | decide | assumption | with_reducible apply only_step (State.setB_only ..)
    | with_reducible apply only_step (State.setF_only ..) | refine fun _ => ?_ | refine fun _ _ => ?_ | dsimp only

theorem State.syncTree_only (s : State) : OnlyChanges [.regs] s (s.syncTree) := by
  unfold State.syncTree
  repeat' first
    | with_reducible exact only_refl _ _ | decide | assumption | with_reducible apply only_step (State.setB_only ..)
    | with_reducible apply only_step (State.setF_only ..) | with_reducible apply only_ite | refine fun _ => ?_
    | refine fun _ _ => ?_ | dsimp only

theorem State.startAfresh_only (s : State) :
    OnlyChanges [.regs, .sig, .env, .tb, .fc, .wdg, .pipe, .out, .chans, .halves, .pairs, .cribs, .boot, .recfg, .cvu, .sr, .gln, .pwr, .yk, .hp, .forces, .forceNext, .queue, .perf] s (s.startAfresh) := by
  unfold State.startAfresh
  dsimp only
  refine only_step (State.setF_only ..) (by decide) (only_step (State.syncSr_only ..) (by decide)
    (only_step (State.syncTree_only ..) (by decide) (only_step (State.setReg_only ..) (by decide) ?_)))
  constructor
  intro p hp
  cases p <;> first | rfl | exact absurd (by decide) hp

theorem State.countWait_only (s : State) (n : Nat) : OnlyChanges [.regs] s (s.countWait n) := by
  unfold State.countWait
  repeat' first
    | with_reducible exact only_refl _ _ | decide | assumption | with_reducible apply only_step (State.pcAdd_only ..)
    | refine fun _ => ?_ | refine fun _ _ => ?_ | dsimp only

theorem State.raiseByRule_only (s : State) (src kind addr : Nat) (forced rehearsal : Bool) :
    OnlyChanges [.regs, .env, .fc, .pipe, .halves, .pairs, .recfg, .yk] s (s.raiseByRule src kind addr forced rehearsal) := by
  unfold State.raiseByRule
  repeat' first
    | with_reducible exact only_refl _ _ | decide | assumption
    | with_reducible apply only_step (State.raiseWith_only ..) | with_reducible apply only_ite
    | with_reducible apply only_pair | (refine only_of_pair (by assumption) ?_)
    | (refine only_of_fst (by assumption) ?_) | refine fun _ => ?_ | refine fun _ _ => ?_ | dsimp only | split
    | with_reducible apply only_fc | (constructor; intro p hp; cases p <;> first | rfl | exact absurd (by decide) hp)

theorem State.raiseOnce_only (s : State) (src kind addr : Nat) :
    OnlyChanges [.regs, .env, .fc, .pipe, .halves, .pairs, .recfg, .yk] s (s.raiseOnce src kind addr) := by
  unfold State.raiseOnce
  repeat' first
    | with_reducible exact only_refl _ _ | decide | assumption
    | with_reducible apply only_step (State.raiseByRule_only ..) | refine fun _ => ?_ | refine fun _ _ => ?_
    | dsimp only

theorem State.hpFault_only (s : State) (kind code : Nat) :
    OnlyChanges [.regs, .env, .fc, .pipe, .halves, .pairs, .recfg, .yk] s (s.hpFault kind code) := by
  unfold State.hpFault
  repeat' first
    | with_reducible exact only_refl _ _ | decide | assumption
    | with_reducible apply only_step (State.raiseOnce_only ..) | refine fun _ => ?_ | refine fun _ _ => ?_
    | dsimp only

theorem State.pcHost_only (s : State) (k n : Nat) : OnlyChanges [.regs] s (s.pcHost k n) := by
  unfold State.pcHost
  repeat' first
    | with_reducible exact only_refl _ _ | decide | assumption | with_reducible apply only_step (State.pcAdd_only ..)
    | with_reducible apply only_ite | refine fun _ => ?_ | refine fun _ _ => ?_ | dsimp only

theorem State.cutTx_only (s : State) :
    OnlyChanges [.regs, .env, .fc, .pipe, .halves, .pairs, .recfg, .yk] s (s.cutTx) := by
  unfold State.cutTx
  repeat' first
    | with_reducible exact only_refl _ _ | decide | assumption
    | with_reducible apply only_step (State.hpFault_only ..) | with_reducible apply only_step (State.pcHost_only ..)
    | with_reducible apply only_step (State.addF_only ..) | refine fun _ => ?_ | refine fun _ _ => ?_ | dsimp only

theorem State.syncStalled_only (s : State) (held : List HeldWrite) : OnlyChanges [.regs] s (s.syncStalled held) := by
  unfold State.syncStalled
  repeat' first
    | with_reducible exact only_refl _ _ | decide | assumption | with_reducible apply only_step (State.setB_only ..)
    | with_reducible apply only_foldl | with_reducible apply only_pair | (refine only_of_pair (by assumption) ?_)
    | (refine only_of_fst (by assumption) ?_) | refine fun _ => ?_ | refine fun _ _ => ?_ | dsimp only | split

theorem State.unlatch_only (s : State) (c : CribIx) : OnlyChanges [.cribs] s (s.unlatch c) := by
  unfold State.unlatch
  repeat' first
    | with_reducible exact only_refl _ _ | decide | assumption
    | with_reducible apply only_step (State.updCrib_only ..) | refine fun _ => ?_ | refine fun _ _ => ?_ | dsimp only

theorem State.unlatchAll_only (s : State) (ls : List (Option (CribIx × Word × Nat))) :
    OnlyChanges [.cribs] s (s.unlatchAll ls) := by
  unfold State.unlatchAll
  repeat' first
    | with_reducible exact only_refl _ _ | decide | assumption
    | with_reducible apply only_step (State.unlatch_only ..) | with_reducible apply only_foldl
    | with_reducible apply only_pair | (refine only_of_pair (by assumption) ?_)
    | (refine only_of_fst (by assumption) ?_) | refine fun _ => ?_ | refine fun _ _ => ?_ | dsimp only | split

theorem State.abandonTx_only (s : State) :
    OnlyChanges [.regs, .env, .fc, .pipe, .halves, .pairs, .cribs, .recfg, .yk, .hp] s (s.abandonTx) := by
  unfold State.abandonTx
  repeat' first
    | with_reducible exact only_refl _ _ | decide | assumption | with_reducible apply only_step (State.cutTx_only ..)
    | with_reducible apply only_step (State.unlatchAll_only ..)
    | with_reducible apply only_step (State.syncStalled_only ..)
    | with_reducible apply only_step (State.countWait_only ..) | with_reducible apply only_foldl | refine fun _ => ?_
    | refine fun _ _ => ?_ | dsimp only | with_reducible apply only_hp
    | (constructor; intro p hp; cases p <;> first | rfl | exact absurd (by decide) hp)

theorem State.pinReset_only (s : State) :
    OnlyChanges [.regs, .sig, .env, .tb, .fc, .wdg, .pipe, .out, .chans, .halves, .pairs, .cribs, .boot, .recfg, .cvu, .sr, .gln, .pwr, .yk, .hp, .forces, .forceNext, .queue, .perf] s (s.pinReset) := by
  unfold State.pinReset
  repeat' first
    | with_reducible exact only_refl _ _ | decide | assumption
    | with_reducible apply only_step (State.startAfresh_only ..)
    | with_reducible apply only_step (State.abandonTx_only ..) | with_reducible apply only_ite | refine fun _ => ?_
    | refine fun _ _ => ?_ | dsimp only

theorem State.updSr_only (s : State) (f : Sr → Sr) : OnlyChanges [.sr] s (s.updSr f) := by
  unfold State.updSr
  repeat' first
    | with_reducible exact only_refl _ _ | decide | assumption | refine fun _ => ?_ | refine fun _ _ => ?_
    | dsimp only | with_reducible apply only_sr
    | (constructor; intro p hp; cases p <;> first | rfl | exact absurd (by decide) hp)

theorem State.recoverJournal_only (s : State) : OnlyChanges [.regs, .sr] s (s.recoverJournal) := by
  unfold State.recoverJournal
  repeat' first
    | with_reducible exact only_refl _ _ | decide | assumption
    | with_reducible apply only_step (State.setReg_only ..) | with_reducible apply only_step (State.updSr_only ..)
    | with_reducible apply only_step (State.setF_only ..) | with_reducible apply only_step (State.syncTree_only ..)
    | with_reducible apply only_foldl | with_reducible apply only_ite | refine fun _ => ?_ | refine fun _ _ => ?_
    | dsimp only

theorem State.coldReset_only (s : State) :
    OnlyChanges [.regs, .mem, .sig, .env, .tb, .fc, .wdg, .pipe, .out, .chans, .halves, .pairs, .cribs, .boot, .recfg, .cvu, .sr, .gln, .pwr, .yk, .hp, .forces, .forceNext, .queue, .perf, .scrub] s (s.coldReset) := by
  unfold State.coldReset
  dsimp only
  refine only_step (State.recoverJournal_only ..) (by decide) ?_
  constructor
  intro p hp
  cases p <;> first | rfl | exact absurd (by decide) hp

theorem State.appendRecord_only (s : State) (t : RecType) (slot : Nat) :
    OnlyChanges [.boot] s (s.appendRecord t slot) := by
  unfold State.appendRecord
  repeat' first
    | with_reducible exact only_refl _ _ | decide | assumption | with_reducible apply only_ite
    | with_reducible apply only_pair | (refine only_of_pair (by assumption) ?_)
    | (refine only_of_fst (by assumption) ?_) | refine fun _ => ?_ | refine fun _ _ => ?_ | dsimp only | split
    | with_reducible apply only_boot
    | (constructor; intro p hp; cases p <;> first | rfl | exact absurd (by decide) hp)

theorem State.bootFault_only (s : State) (kind lo : Nat) :
    OnlyChanges [.regs, .env, .fc, .pipe, .halves, .pairs, .recfg, .yk] s (s.bootFault kind lo) := by
  unfold State.bootFault
  repeat' first
    | with_reducible exact only_refl _ _ | decide | assumption | with_reducible apply only_step (State.raise_only ..)
    | refine fun _ => ?_ | refine fun _ _ => ?_ | dsimp only

theorem State.chooseSlot_only (s : State) :
    OnlyChanges [.regs, .env, .fc, .pipe, .halves, .pairs, .boot, .recfg, .yk] s (s.chooseSlot) := by
  unfold State.chooseSlot
  repeat' first
    | with_reducible exact only_refl _ _ | decide | assumption
    | with_reducible apply only_step (State.bootFault_only ..)
    | with_reducible apply only_step (State.appendRecord_only ..) | with_reducible apply only_pair
    | (refine only_of_pair (by assumption) ?_) | (refine only_of_fst (by assumption) ?_) | refine fun _ => ?_
    | refine fun _ _ => ?_ | dsimp only | split | with_reducible apply only_boot
    | (constructor; intro p hp; cases p <;> first | rfl | exact absurd (by decide) hp)

theorem State.updChan_only (s : State) (c : ChIx) (f : Chan → Chan) : OnlyChanges [.chans] s (s.updChan c f) := by
  unfold State.updChan
  repeat' first
    | with_reducible exact only_refl _ _ | decide | assumption | refine fun _ => ?_ | refine fun _ _ => ?_
    | dsimp only | with_reducible apply only_chans
    | (constructor; intro p hp; cases p <;> first | rfl | exact absurd (by decide) hp)

theorem State.updHalf_only (s : State) (h : HalfIx) (f : Half → Half) : OnlyChanges [.halves] s (s.updHalf h f) := by
  unfold State.updHalf
  repeat' first
    | with_reducible exact only_refl _ _ | decide | assumption | refine fun _ => ?_ | refine fun _ _ => ?_
    | dsimp only | with_reducible apply only_halves
    | (constructor; intro p hp; cases p <;> first | rfl | exact absurd (by decide) hp)

theorem State.loseCoefs_only (s : State) : OnlyChanges [.regs, .chans, .halves] s (s.loseCoefs) := by
  unfold State.loseCoefs
  repeat' first
    | with_reducible exact only_refl _ _ | decide | assumption | with_reducible apply only_step (State.setB_only ..)
    | with_reducible apply only_step (State.updChan_only ..) | with_reducible apply only_step (State.updHalf_only ..)
    | with_reducible apply only_foldl | refine fun _ => ?_ | refine fun _ _ => ?_ | dsimp only

theorem State.startBoot_only (s : State) (st : Straps) :
    OnlyChanges [.regs, .env, .fc, .pipe, .chans, .halves, .pairs, .boot, .recfg, .yk] s (s.startBoot st) := by
  unfold State.startBoot
  repeat' first
    | with_reducible exact only_refl _ _ | decide | assumption | with_reducible apply only_step (State.setB_only ..)
    | with_reducible apply only_step (State.setReg_only ..)
    | with_reducible apply only_step (State.chooseSlot_only ..) | with_reducible apply only_step (State.setF_only ..)
    | with_reducible apply only_step (State.loseCoefs_only ..) | with_reducible apply only_step (State.enter_only ..)
    | with_reducible apply only_foldl | with_reducible apply only_ite | refine fun _ => ?_ | refine fun _ _ => ?_
    | dsimp only | with_reducible apply only_boot
    | (constructor; intro p hp; cases p <;> first | rfl | exact absurd (by decide) hp)

theorem State.takeFlash_only (s : State) (f : FlashIn) : OnlyChanges [.boot] s (s.takeFlash f) := by
  unfold State.takeFlash
  repeat' first
    | with_reducible exact only_refl _ _ | decide | assumption | with_reducible apply only_ite | refine fun _ => ?_
    | refine fun _ _ => ?_ | dsimp only | with_reducible apply only_boot
    | (constructor; intro p hp; cases p <;> first | rfl | exact absurd (by decide) hp)

theorem State.placeZero_only (s : State) : OnlyChanges [.regs, .env] s (s.placeZero) := by
  unfold State.placeZero
  repeat' first
    | with_reducible exact only_refl _ _ | decide | assumption | with_reducible apply only_step (State.setB_only ..)
    | with_reducible apply only_step (State.setF_only ..) | refine fun _ => ?_ | refine fun _ _ => ?_ | dsimp only
    | with_reducible apply only_env
    | (constructor; intro p hp; cases p <;> first | rfl | exact absurd (by decide) hp)

theorem State.publish_only (s : State) (c : CribIx) (tag : Nat) :
    OnlyChanges [.regs, .mem, .cribs] s (s.publish c tag) := by
  unfold State.publish
  repeat' first
    | with_reducible exact only_refl _ _ | decide | assumption
    | with_reducible apply only_step (State.setReg_only ..) | with_reducible apply only_step (State.syncCrib_only ..)
    | with_reducible apply only_step (State.updCrib_only ..)
    | with_reducible apply only_step (State.layEntries_only ..) | with_reducible apply only_ite | refine fun _ => ?_
    | refine fun _ _ => ?_ | dsimp only

theorem State.countDrop_only (s : State) (c : CribIx) :
    OnlyChanges [.regs, .env, .fc, .pipe, .halves, .pairs, .recfg, .yk] s (s.countDrop c) := by
  unfold State.countDrop
  repeat' first
    | with_reducible exact only_refl _ _ | decide | assumption
    | with_reducible apply only_step (State.raiseOnce_only ..)
    | with_reducible apply only_step (State.causeNow_only ..) | with_reducible apply only_step (State.addF_only ..)
    | refine fun _ => ?_ | refine fun _ _ => ?_ | dsimp only

theorem State.countOver_only (s : State) (c : CribIx) :
    OnlyChanges [.regs, .env, .fc, .pipe, .halves, .pairs, .recfg, .yk] s (s.countOver c) := by
  unfold State.countOver
  repeat' first
    | with_reducible exact only_refl _ _ | decide | assumption | with_reducible apply only_step (State.raise_only ..)
    | with_reducible apply only_step (State.addF_only ..) | refine fun _ => ?_ | refine fun _ _ => ?_ | dsimp only

theorem State.storeEntry_only (s : State) (c : CribIx) (tag : Nat) (ws : List Word) :
    OnlyChanges [.mem, .cribs] s (s.storeEntry c tag ws) := by
  unfold State.storeEntry
  repeat' first
    | with_reducible exact only_refl _ _ | decide | assumption
    | with_reducible apply only_step (State.writeWords_only ..)
    | with_reducible apply only_step (State.updCrib_only ..) | refine fun _ => ?_ | refine fun _ _ => ?_ | dsimp only

theorem only_placeEntry {ps : List Part} {s0 : State} (s : State) (c : CribIx) (tag : Nat) (ws : List Word)
    (drop refuse : State → State) (k : Part.sub [.regs, .mem, .cribs] ps = true)
    (H : ∀ u, OnlyChanges ps u (drop u)) (H' : ∀ u, OnlyChanges ps u (refuse u)) (h0 : OnlyChanges ps s0 s) :
    OnlyChanges ps s0 (s.placeEntry c tag ws drop refuse) := by
  have H2 : ∀ s u, OnlyChanges ps s u → OnlyChanges ps s (drop u) :=
    fun _ u h => only_trans h (H u)
  have H3 : ∀ s u, OnlyChanges ps s u → OnlyChanges ps s (refuse u) :=
    fun _ u h => only_trans h (H' u)
  unfold State.placeEntry
  repeat' first
    | with_reducible exact only_refl _ _ | exact Part.sub_trans (by decide) k | assumption | with_reducible apply H2
    | with_reducible apply H3 | with_reducible apply only_step (State.setReg_only ..)
    | with_reducible apply only_step (State.syncCrib_only ..)
    | with_reducible apply only_step (State.storeEntry_only ..) | with_reducible apply only_ite
    | with_reducible apply only_pair | (refine only_of_pair (by assumption) ?_)
    | (refine only_of_fst (by assumption) ?_) | refine fun _ => ?_ | refine fun _ _ => ?_ | dsimp only | split

theorem State.putEntry_only (s : State) (c : CribIx) (tag : Nat) (ws : List Word) :
    OnlyChanges [.regs, .mem, .env, .fc, .pipe, .halves, .pairs, .cribs, .recfg, .yk] s (s.putEntry c tag ws) := by
  unfold State.putEntry
  repeat' first
    | with_reducible exact only_refl _ _ | decide | assumption
    | with_reducible apply only_step (State.countOver_only ..) | with_reducible apply only_placeEntry
    | with_reducible apply only_step (State.countDrop_only ..) | refine fun _ => ?_ | refine fun _ _ => ?_
    | dsimp only

theorem State.produce_only (s : State) (c : CribIx) (ws : List Word) :
    OnlyChanges [.regs, .mem, .env, .fc, .pipe, .halves, .pairs, .cribs, .recfg, .yk] s (s.produce c ws) := by
  unfold State.produce
  repeat' first
    | with_reducible exact only_refl _ _ | decide | assumption
    | with_reducible apply only_step (State.putEntry_only ..)
    | with_reducible apply only_step (State.publish_only ..) | refine fun _ => ?_ | refine fun _ _ => ?_ | dsimp only

theorem State.deliverRecord_only (s : State) (ws : List Word) :
    OnlyChanges [.regs, .mem, .env, .fc, .pipe, .halves, .pairs, .cribs, .recfg, .yk] s (s.deliverRecord ws) := by
  unfold State.deliverRecord
  repeat' first
    | with_reducible exact only_refl _ _ | decide | assumption
    | with_reducible apply only_step (State.produce_only ..) | with_reducible apply only_step (State.addF_only ..)
    | with_reducible apply only_ite | refine fun _ => ?_ | refine fun _ _ => ?_ | dsimp only
    | with_reducible apply only_fc | (constructor; intro p hp; cases p <;> first | rfl | exact absurd (by decide) hp)

theorem State.maxF_only (s : State) (f : Fld) (n : Nat) : OnlyChanges [.regs] s (s.maxF f n) := by
  unfold State.maxF
  repeat' first
    | with_reducible exact only_refl _ _ | decide | assumption
    | with_reducible apply only_step (State.gather_only ..) | refine fun _ => ?_ | refine fun _ _ => ?_ | dsimp only

theorem State.orF_only (s : State) (f : Fld) (bits : Nat) : OnlyChanges [.regs] s (s.orF f bits) := by
  unfold State.orF
  repeat' first
    | with_reducible exact only_refl _ _ | decide | assumption
    | with_reducible apply only_step (State.gather_only ..) | refine fun _ => ?_ | refine fun _ _ => ?_ | dsimp only

theorem State.logMsg_only (s : State) (m : Msg) :
    OnlyChanges [.regs, .mem, .env, .fc, .pipe, .halves, .pairs, .cribs, .recfg, .yk] s (s.logMsg m) := by
  unfold State.logMsg
  repeat' first
    | with_reducible exact only_refl _ _ | decide | assumption
    | with_reducible apply only_step (State.setReg_only ..) | with_reducible apply only_step (State.orF_only ..)
    | with_reducible apply only_step (State.maxF_only ..)
    | with_reducible apply only_step (State.deliverRecord_only ..) | with_reducible apply only_ite
    | refine fun _ => ?_ | refine fun _ _ => ?_ | dsimp only | with_reducible apply only_fc
    | (constructor; intro p hp; cases p <;> first | rfl | exact absurd (by decide) hp)

theorem State.restart_only (s : State) (st : Straps) (cellarOk : Bool) :
    OnlyChanges [.regs, .mem, .sig, .env, .tb, .fc, .wdg, .pipe, .out, .chans, .halves, .pairs, .cribs, .boot, .recfg, .cvu, .sr, .gln, .pwr, .yk, .hp, .forces, .forceNext, .queue, .perf, .scrub] s (s.restart st cellarOk) := by
  unfold State.restart
  repeat' first
    | with_reducible exact only_refl _ _ | decide | assumption
    | with_reducible apply only_step (State.countSource_only ..)
    | with_reducible apply only_step (State.coldReset_only ..)
    | with_reducible apply only_step (State.placeZero_only ..)
    | with_reducible apply only_step (State.logMsg_only ..)
    | with_reducible apply only_step (State.startBoot_only ..)
    | with_reducible apply only_step (State.pinReset_only ..) | with_reducible apply only_ite | refine fun _ => ?_
    | refine fun _ _ => ?_ | dsimp only | with_reducible apply only_env
    | (constructor; intro p hp; cases p <;> first | rfl | exact absurd (by decide) hp)

theorem State.relock_only (s : State) : OnlyChanges [.regs, .env] s (s.relock) := by
  unfold State.relock
  repeat' first
    | with_reducible exact only_refl _ _ | decide | assumption | with_reducible apply only_step (State.setB_only ..)
    | with_reducible apply only_ite | refine fun _ => ?_ | refine fun _ _ => ?_ | dsimp only
    | with_reducible apply only_env
    | (constructor; intro p hp; cases p <;> first | rfl | exact absurd (by decide) hp)

theorem State.haltBoot_only (s : State) (r1 r2 : Nat) : OnlyChanges [.regs] s (s.haltBoot r1 r2) := by
  unfold State.haltBoot
  repeat' first
    | with_reducible exact only_refl _ _ | decide | assumption | with_reducible apply only_step (State.setF_only ..)
    | with_reducible apply only_step (State.enter_only ..) | refine fun _ => ?_ | refine fun _ _ => ?_ | dsimp only

theorem State.bootDetail_only (s : State) (f : VFail) : OnlyChanges [.regs] s (s.bootDetail f) := by
  unfold State.bootDetail
  repeat' first
    | with_reducible exact only_refl _ _ | decide | assumption | with_reducible apply only_step (State.setF_only ..)
    | refine fun _ => ?_ | refine fun _ _ => ?_ | dsimp only

theorem State.holdChange_only (s before : State) (c : ChIx) : OnlyChanges [.chans] s (s.holdChange before c) := by
  unfold State.holdChange
  repeat' first
    | with_reducible exact only_refl _ _ | decide | assumption
    | with_reducible apply only_step (State.updChan_only ..) | with_reducible apply only_ite | refine fun _ => ?_
    | refine fun _ _ => ?_ | dsimp only

theorem State.dropFeatures_only (s : State) (c : ChIx) (k : Capture) :
    OnlyChanges [.regs] s (s.dropFeatures c k) := by
  unfold State.dropFeatures
  repeat' first
    | with_reducible exact only_refl _ _ | decide | assumption | with_reducible apply only_step (State.setB_only ..)
    | with_reducible apply only_step (State.setF_only ..) | with_reducible apply only_pair
    | (refine only_of_pair (by assumption) ?_) | (refine only_of_fst (by assumption) ?_) | refine fun _ => ?_
    | refine fun _ _ => ?_ | dsimp only | split

theorem State.energiseFeatures_only (s : State) (c : ChIx) (k : Capture) :
    OnlyChanges [.regs, .chans, .free] s (s.energiseFeatures c k) := by
  unfold State.energiseFeatures
  repeat' first
    | with_reducible exact only_refl _ _ | decide | assumption | with_reducible apply only_step (State.setB_only ..)
    | with_reducible apply only_step (State.updChan_only ..) | with_reducible apply only_step (State.setReg_only ..)
    | with_reducible apply only_step (State.setF_only ..) | with_reducible apply only_step (State.drawWord_only ..)
    | with_reducible apply only_ite | with_reducible apply only_pair | (refine only_of_pair (by assumption) ?_)
    | (refine only_of_fst (by assumption) ?_) | refine fun _ => ?_ | refine fun _ _ => ?_ | dsimp only | split

theorem State.noteBase_only (s : State) (c : ChIx) : OnlyChanges [.regs] s (s.noteBase c) := by
  unfold State.noteBase
  repeat' first
    | with_reducible exact only_refl _ _ | decide | assumption | with_reducible apply only_step (State.setB_only ..)
    | refine fun _ => ?_ | refine fun _ _ => ?_ | dsimp only

theorem State.journalPrint_only (s : State) (i : Fin 32) (ws : List Word) (n : Nat) :
    OnlyChanges [.sr] s (s.journalPrint i ws n) := by
  unfold State.journalPrint
  repeat' first
    | with_reducible exact only_refl _ _ | decide | assumption
    | with_reducible apply only_step (State.journal_only ..) | refine fun _ => ?_ | refine fun _ _ => ?_ | dsimp only

theorem State.updSlot_only (s : State) (k : Fin 32) (f : PartSlot → PartSlot) :
    OnlyChanges [.sr] s (s.updSlot k f) := by
  unfold State.updSlot
  repeat' first
    | with_reducible exact only_refl _ _ | decide | assumption | refine fun _ => ?_ | refine fun _ _ => ?_
    | dsimp only | with_reducible apply only_sr
    | (constructor; intro p hp; cases p <;> first | rfl | exact absurd (by decide) hp)

theorem State.captureFor_only (s : State) (ws : List Word) (point : Option Nat) (i : Fin 32) :
    OnlyChanges [.sr] s (s.captureFor ws point i) := by
  unfold State.captureFor
  repeat' first
    | with_reducible exact only_refl _ _ | decide | assumption
    | with_reducible apply only_step (State.updSlot_only ..)
    | with_reducible apply only_step (State.journalPrint_only ..) | with_reducible apply only_whenB
    | with_reducible apply only_pair | (refine only_of_pair (by assumption) ?_)
    | (refine only_of_fst (by assumption) ?_) | refine fun _ => ?_ | refine fun _ _ => ?_ | dsimp only | split

theorem State.captureLeft_only (s : State) (target : Nat) (ws : List Word) :
    OnlyChanges [.sr] s (s.captureLeft target ws) := by
  unfold State.captureLeft
  repeat' first
    | with_reducible exact only_refl _ _ | decide | assumption
    | with_reducible apply only_step (State.journal_only ..) | with_reducible apply only_whenB
    | with_reducible apply only_foldl | refine fun _ => ?_ | refine fun _ _ => ?_ | dsimp only
    | with_reducible apply only_sr | (constructor; intro p hp; cases p <;> first | rfl | exact absurd (by decide) hp)

theorem State.passCapture_only (s : State) (target start : Nat) (ws : List Word) (energise : Bool) :
    OnlyChanges [.sr] s (s.passCapture target start ws energise) := by
  unfold State.passCapture
  repeat' first
    | with_reducible exact only_refl _ _ | decide | assumption
    | with_reducible apply only_step (State.captureLeft_only ..)
    | with_reducible apply only_step (State.captureFor_only ..) | with_reducible apply only_foldl
    | with_reducible apply only_ite | refine fun _ => ?_ | refine fun _ _ => ?_ | dsimp only

theorem State.captureEnd_only (s : State) (c : ChIx) (trunc : Bool) :
    OnlyChanges [.regs, .chans, .sr, .free] s (s.captureEnd c trunc) := by
  unfold State.captureEnd
  repeat' first
    | with_reducible exact only_refl _ _ | decide | assumption
    | with_reducible apply only_step (State.energiseFeatures_only ..)
    | with_reducible apply only_step (State.setB_only ..)
    | with_reducible apply only_step (State.dropFeatures_only ..)
    | with_reducible apply only_step (State.updChan_only ..) | with_reducible apply only_step (State.setReg_only ..)
    | with_reducible apply only_step (State.setF_only ..)
    | with_reducible apply only_step (State.passCapture_only ..)
    | with_reducible apply only_step (State.noteBase_only ..) | with_reducible apply only_ite
    | with_reducible apply only_pair | (refine only_of_pair (by assumption) ?_)
    | (refine only_of_fst (by assumption) ?_) | refine fun _ => ?_ | refine fun _ _ => ?_ | dsimp only | split

theorem State.captureStart_only (s : State) (c : ChIx) (energise : Bool) :
    OnlyChanges [.regs, .chans, .sr, .free] s (s.captureStart c energise) := by
  unfold State.captureStart
  repeat' first
    | with_reducible exact only_refl _ _ | decide | assumption
    | with_reducible apply only_step (State.updChan_only ..) | with_reducible apply only_step (State.setReg_only ..)
    | with_reducible apply only_step (State.captureEnd_only ..) | with_reducible apply only_ite | refine fun _ => ?_
    | refine fun _ _ => ?_ | dsimp only

theorem State.closeSwitch_only (s : State) (c : ChIx) (cap : Bool) :
    OnlyChanges [.regs, .chans, .sr, .free] s (s.closeSwitch c cap) := by
  unfold State.closeSwitch
  repeat' first
    | with_reducible exact only_refl _ _ | decide | assumption
    | with_reducible apply only_step (State.updChan_only ..) | with_reducible apply only_whenB
    | with_reducible apply only_step (State.captureStart_only ..) | with_reducible apply only_ite
    | refine fun _ => ?_ | refine fun _ _ => ?_ | dsimp only

theorem State.countOperation_only (s : State) (target : Nat) : OnlyChanges [.sr] s (s.countOperation target) := by
  unfold State.countOperation
  repeat' first
    | with_reducible exact only_refl _ _ | decide | assumption | with_reducible apply only_ite | refine fun _ => ?_
    | refine fun _ _ => ?_ | dsimp only | with_reducible apply only_sr
    | (constructor; intro p hp; cases p <;> first | rfl | exact absurd (by decide) hp)

theorem State.partOperation_only (s : State) (target : Nat) : OnlyChanges [.sr] s (s.partOperation target) := by
  unfold State.partOperation
  repeat' first
    | with_reducible exact only_refl _ _ | decide | assumption
    | with_reducible apply only_step (State.countOperation_only ..) | with_reducible apply only_ite
    | refine fun _ => ?_ | refine fun _ _ => ?_ | dsimp only | with_reducible apply only_sr
    | (constructor; intro p hp; cases p <;> first | rfl | exact absurd (by decide) hp)

theorem State.openSwitch_only (s : State) (c : ChIx) (cap : Bool) :
    OnlyChanges [.regs, .chans, .sr, .free] s (s.openSwitch c cap) := by
  unfold State.openSwitch
  repeat' first
    | with_reducible exact only_refl _ _ | decide | assumption
    | with_reducible apply only_step (State.updChan_only ..) | with_reducible apply only_whenB
    | with_reducible apply only_step (State.partOperation_only ..)
    | with_reducible apply only_step (State.captureStart_only ..) | with_reducible apply only_ite
    | refine fun _ => ?_ | refine fun _ _ => ?_ | dsimp only

theorem State.reSwitch_only (s : State) (c : ChIx) (cap : Bool) :
    OnlyChanges [.regs, .chans, .sr, .free] s (s.reSwitch c cap) := by
  unfold State.reSwitch
  repeat' first
    | with_reducible exact only_refl _ _ | decide | assumption
    | with_reducible apply only_step (State.closeSwitch_only ..)
    | with_reducible apply only_step (State.openSwitch_only ..) | with_reducible apply only_ite | refine fun _ => ?_
    | refine fun _ _ => ?_ | dsimp only

theorem State.syncChan_only (s : State) (c : ChIx) : OnlyChanges [.regs] s (s.syncChan c) := by
  unfold State.syncChan
  repeat' first
    | with_reducible exact only_refl _ _ | decide | assumption | with_reducible apply only_step (State.setB_only ..)
    | with_reducible apply only_step (State.setF_only ..) | with_reducible apply only_whenB | refine fun _ => ?_
    | refine fun _ _ => ?_ | dsimp only

theorem State.syncHalf_only (s : State) (h : HalfIx) : OnlyChanges [.regs, .halves, .sr] s (s.syncHalf h) := by
  unfold State.syncHalf
  repeat' first
    | with_reducible exact only_refl _ _ | decide | assumption | with_reducible apply only_step (State.setB_only ..)
    | with_reducible apply only_step (State.updHalf_only ..) | with_reducible apply only_step (State.setF_only ..)
    | with_reducible apply only_whenB | with_reducible apply only_step (State.partOperation_only ..)
    | refine fun _ => ?_ | refine fun _ _ => ?_ | dsimp only

theorem only_fieldChange {ps : List Part} {s0 : State} (s : State) (h : HalfIx) (cap : Bool) (f : State → State)
    (k : Part.sub [.regs, .chans, .halves, .sr, .free] ps = true) (H : ∀ u, OnlyChanges ps u (f u)) (h0 : OnlyChanges ps s0 s) :
    OnlyChanges ps s0 (s.fieldChange h cap f) := by
  have H2 : ∀ s u, OnlyChanges ps s u → OnlyChanges ps s (f u) :=
    fun _ u h => only_trans h (H u)
  unfold State.fieldChange
  repeat' first
    | with_reducible exact only_refl _ _ | exact Part.sub_trans (by decide) k | assumption | with_reducible apply H2
    | with_reducible apply only_step (State.holdChange_only ..)
    | with_reducible apply only_step (State.syncHalf_only ..)
    | with_reducible apply only_step (State.reSwitch_only ..)
    | with_reducible apply only_step (State.syncChan_only ..) | with_reducible apply only_foldl | refine fun _ => ?_
    | refine fun _ _ => ?_ | dsimp only

theorem State.loadDie_only (s : State) (h : HalfIx) :
    OnlyChanges [.regs, .chans, .halves, .sr, .free] s (s.loadDie h) := by
  unfold State.loadDie
  repeat' first
    | with_reducible exact only_refl _ _ | decide | assumption
    | with_reducible apply only_step (State.updChan_only ..) | with_reducible apply only_step (State.updHalf_only ..)
    | with_reducible apply only_step (State.setF_only ..) | with_reducible apply only_fieldChange
    | with_reducible apply only_foldl | with_reducible apply only_ite | refine fun _ => ?_ | refine fun _ _ => ?_
    | dsimp only

theorem State.syncTableCrc_only (s : State) (h : HalfIx) : OnlyChanges [.regs] s (s.syncTableCrc h) := by
  unfold State.syncTableCrc
  repeat' first
    | with_reducible exact only_refl _ _ | decide | assumption
    | with_reducible apply only_step (State.setReg_only ..) | refine fun _ => ?_ | refine fun _ _ => ?_ | dsimp only

theorem State.endPulse_only (s : State) (c : ChIx) : OnlyChanges [.regs, .chans] s (s.endPulse c) := by
  unfold State.endPulse
  repeat' first
    | with_reducible exact only_refl _ _ | decide | assumption
    | with_reducible apply only_step (State.updChan_only ..)
    | with_reducible apply only_step (State.syncChan_only ..) | with_reducible apply only_ite | refine fun _ => ?_
    | refine fun _ _ => ?_ | dsimp only

theorem State.abortPulse_only (s : State) (c : ChIx) :
    OnlyChanges [.regs, .chans, .sr, .free] s (s.abortPulse c) := by
  unfold State.abortPulse
  repeat' first
    | with_reducible exact only_refl _ _ | decide | assumption
    | with_reducible apply only_step (State.endPulse_only ..)
    | with_reducible apply only_step (State.captureStart_only ..)
    | with_reducible apply only_step (State.addF_only ..) | with_reducible apply only_ite | refine fun _ => ?_
    | refine fun _ _ => ?_ | dsimp only

theorem State.tableCheck_only (s : State) (h : HalfIx) (word18 : Option Word) :
    OnlyChanges [.regs, .chans, .halves, .sr, .free] s (s.tableCheck h word18) := by
  unfold State.tableCheck
  repeat' first
    | with_reducible exact only_refl _ _ | decide | assumption
    | with_reducible apply only_step (State.updHalf_only ..)
    | with_reducible apply only_step (State.abortPulse_only ..) | with_reducible apply only_fieldChange
    | with_reducible apply only_foldl | with_reducible apply only_ite | with_reducible apply only_pair
    | (refine only_of_pair (by assumption) ?_) | (refine only_of_fst (by assumption) ?_) | refine fun _ => ?_
    | refine fun _ _ => ?_ | dsimp only | split

theorem State.loadDies_only (s : State) : OnlyChanges [.regs, .chans, .halves, .sr, .free] s (s.loadDies) := by
  unfold State.loadDies
  repeat' first
    | with_reducible exact only_refl _ _ | decide | assumption
    | with_reducible apply only_step (State.syncTableCrc_only ..)
    | with_reducible apply only_step (State.loadDie_only ..)
    | with_reducible apply only_step (State.tableCheck_only ..) | with_reducible apply only_foldl
    | with_reducible apply only_ite | refine fun _ => ?_ | refine fun _ _ => ?_ | dsimp only

theorem State.leaveBoot_only (s : State) :
    OnlyChanges [.regs, .env, .fc, .pipe, .halves, .pairs] s (s.leaveBoot) := by
  unfold State.leaveBoot
  repeat' first
    | with_reducible exact only_refl _ _ | decide | assumption
    | with_reducible apply only_step (State.deviceSafe_only ..) | with_reducible apply only_whenB
    | with_reducible apply only_step (State.suspendReact_only ..)
    | with_reducible apply only_step (State.syncFc_only ..) | with_reducible apply only_step (State.enter_only ..)
    | with_reducible apply only_step (State.markPending_only ..) | with_reducible apply only_foldl
    | with_reducible apply only_pair | (refine only_of_pair (by assumption) ?_)
    | (refine only_of_fst (by assumption) ?_) | refine fun _ => ?_ | refine fun _ _ => ?_ | dsimp only | split
    | with_reducible apply only_fc | (constructor; intro p hp; cases p <;> first | rfl | exact absurd (by decide) hp)

theorem State.allocate_only (s : State) (als : List Alloc) :
    OnlyChanges [.sig, .pipe, .forces, .forceNext] s (s.allocate als) := by
  unfold State.allocate
  repeat' first
    | with_reducible exact only_refl _ _ | decide | assumption | with_reducible apply only_ite | refine fun _ => ?_
    | refine fun _ _ => ?_ | dsimp only | with_reducible apply only_forces_forceNext
    | with_reducible apply only_sig_pipe
    | (constructor; intro p hp; cases p <;> first | rfl | exact absurd (by decide) hp)

theorem State.fixTimeout_only (s : State) (yoke : Nat) : OnlyChanges [.regs] s (s.fixTimeout yoke) := by
  unfold State.fixTimeout
  repeat' first
    | with_reducible exact only_refl _ _ | decide | assumption | with_reducible apply only_step (State.setB_only ..)
    | with_reducible apply only_step (State.setF_only ..) | with_reducible apply only_whenB
    | with_reducible apply only_foldl | refine fun _ => ?_ | refine fun _ _ => ?_ | dsimp only

theorem State.loadFaults_only (s : State) (irq : Nat) (es : List Reaction) :
    OnlyChanges [.regs, .fc] s (s.loadFaults irq es) := by
  unfold State.loadFaults
  repeat' first
    | with_reducible exact only_refl _ _ | decide | assumption | with_reducible apply only_step (State.setF_only ..)
    | refine fun _ => ?_ | refine fun _ _ => ?_ | dsimp only | with_reducible apply only_fc
    | (constructor; intro p hp; cases p <;> first | rfl | exact absurd (by decide) hp)

theorem State.loadSegments_only (s : State) : OnlyChanges [.regs] s (s.loadSegments) := by
  unfold State.loadSegments
  repeat' first
    | with_reducible exact only_refl _ _ | decide | assumption
    | with_reducible apply only_step (State.setReg_only ..) | with_reducible apply only_foldl
    | with_reducible apply only_ite | refine fun _ => ?_ | refine fun _ _ => ?_ | dsimp only

theorem State.loadGleaner_only (s : State) (descs : List Desc) (pos : List (Nat × Word)) (head : Bool) :
    OnlyChanges [.regs, .gln] s (s.loadGleaner descs pos head) := by
  unfold State.loadGleaner
  repeat' first
    | with_reducible exact only_refl _ _ | decide | assumption | with_reducible apply only_step (State.setB_only ..)
    | with_reducible apply only_step (State.loadSegments_only ..) | with_reducible apply only_foldl
    | refine fun _ => ?_ | refine fun _ _ => ?_ | dsimp only | with_reducible apply only_gln
    | (constructor; intro p hp; cases p <;> first | rfl | exact absurd (by decide) hp)

theorem State.updYk_only (s : State) (f : Yk → Yk) : OnlyChanges [.yk] s (s.updYk f) := by
  unfold State.updYk
  repeat' first
    | with_reducible exact only_refl _ _ | decide | assumption | refine fun _ => ?_ | refine fun _ _ => ?_
    | dsimp only | with_reducible apply only_yk
    | (constructor; intro p hp; cases p <;> first | rfl | exact absurd (by decide) hp)

end Sys2Proof.Machine
end

