-- ==== Sys2Proof/Laws/FramesB.lean ====
section
/-!
SUPPORT. Laws/FramesB.lean: what each shared operation and each effect may change of the state: one lemma per definition
(part 2 of 5, in the order in which they use one another).
-/
namespace Sys2Proof.Machine

theorem State.loadLists_only (s : State) (yoke : Nat) (lead : Bool) (runs : List Run) (lists : List Word) :
    OnlyChanges [.regs, .yk] s (s.loadLists yoke lead runs lists) := by
  unfold State.loadLists
  repeat' first
    | with_reducible exact only_refl _ _ | decide | assumption | with_reducible apply only_step (State.setF_only ..)
    | with_reducible apply only_step (State.updYk_only ..) | refine fun _ => ?_ | refine fun _ _ => ?_ | dsimp only

theorem State.loadProgram_only (s : State) (p : PairIx) (c : Option CheckedProg) :
    OnlyChanges [.regs, .pairs] s (s.loadProgram p c) := by
  unfold State.loadProgram
  repeat' first
    | with_reducible exact only_refl _ _ | decide | assumption | with_reducible apply only_step (State.setB_only ..)
    | with_reducible apply only_step (State.setReg_only ..) | with_reducible apply only_step (State.setF_only ..)
    | with_reducible apply only_step (State.updPair_only ..) | with_reducible apply only_ite
    | with_reducible apply only_pair | (refine only_of_pair (by assumption) ?_)
    | (refine only_of_fst (by assumption) ?_) | refine fun _ => ?_ | refine fun _ _ => ?_ | dsimp only | split

theorem State.loadPrograms_only (s : State) (ps : List (Nat × CheckedProg)) :
    OnlyChanges [.regs, .pairs] s (s.loadPrograms ps) := by
  unfold State.loadPrograms
  repeat' first
    | with_reducible exact only_refl _ _ | decide | assumption
    | with_reducible apply only_step (State.loadProgram_only ..) | with_reducible apply only_foldl
    | refine fun _ => ?_ | refine fun _ _ => ?_ | dsimp only

theorem State.loadRegs_only (s : State) (types skip : List Nat) (recs : List Rec) :
    OnlyChanges [.regs] s (s.loadRegs types skip recs) := by
  unfold State.loadRegs
  repeat' first
    | with_reducible exact only_refl _ _ | decide | assumption
    | with_reducible apply only_step (State.setReg_only ..) | with_reducible apply only_foldl | refine fun _ => ?_
    | refine fun _ _ => ?_ | dsimp only

theorem State.loadUnits_only (s : State) (lNom : Nat) : OnlyChanges [.regs] s (s.loadUnits lNom) := by
  unfold State.loadUnits
  repeat' first
    | with_reducible exact only_refl _ _ | decide | assumption | with_reducible apply only_step (State.setF_only ..)
    | with_reducible apply only_foldl | with_reducible apply only_ite | refine fun _ => ?_ | refine fun _ _ => ?_
    | dsimp only

theorem State.showImage_only (s : State) (i : Image) : OnlyChanges [.regs] s (s.showImage i) := by
  unfold State.showImage
  repeat' first
    | with_reducible exact only_refl _ _ | decide | assumption
    | with_reducible apply only_step (State.setReg_only ..) | with_reducible apply only_foldl | refine fun _ => ?_
    | refine fun _ _ => ?_ | dsimp only

theorem State.updPwr_only (s : State) (f : Pwr → Pwr) : OnlyChanges [.pwr] s (s.updPwr f) := by
  unfold State.updPwr
  repeat' first
    | with_reducible exact only_refl _ _ | decide | assumption | refine fun _ => ?_ | refine fun _ _ => ?_
    | dsimp only | with_reducible apply only_pwr
    | (constructor; intro p hp; cases p <;> first | rfl | exact absurd (by decide) hp)

theorem State.loadTables_only (s : State) (i : Image) (t : Tables) :
    OnlyChanges [.regs, .sig, .fc, .wdg, .pipe, .pairs, .boot, .sr, .gln, .pwr, .yk, .forces, .forceNext] s (s.loadTables i t) := by
  unfold State.loadTables
  repeat' first
    | with_reducible exact only_refl _ _ | decide | assumption | with_reducible apply only_step (State.setB_only ..)
    | with_reducible apply only_step (State.syncCrib_only ..) | with_reducible apply only_step (State.updSr_only ..)
    | with_reducible apply only_step (State.loadFaults_only ..)
    | with_reducible apply only_step (State.loadUnits_only ..) | with_reducible apply only_step (State.setF_only ..)
    | with_reducible apply only_whenB | with_reducible apply only_step (State.loadLists_only ..)
    | with_reducible apply only_step (State.fixTimeout_only ..)
    | with_reducible apply only_step (State.showImage_only ..)
    | with_reducible apply only_step (State.loadRegs_only ..)
    | with_reducible apply only_step (State.loadGleaner_only ..)
    | with_reducible apply only_step (State.loadPrograms_only ..)
    | with_reducible apply only_step (State.allocate_only ..) | with_reducible apply only_step (State.updPwr_only ..)
    | with_reducible apply only_foldl | refine fun _ => ?_ | refine fun _ _ => ?_ | dsimp only
    | with_reducible apply only_boot | with_reducible apply only_gln | with_reducible apply only_wdg
    | (constructor; intro p hp; cases p <;> first | rfl | exact absurd (by decide) hp)

theorem State.runImage_only (s : State) (i : Image) (t : Tables) :
    OnlyChanges [.regs, .sig, .env, .fc, .wdg, .pipe, .pairs, .boot, .sr, .gln, .pwr, .yk, .forces, .forceNext] s (s.runImage i t) := by
  unfold State.runImage
  repeat' first
    | with_reducible exact only_refl _ _ | decide | assumption
    | with_reducible apply only_step (State.loadTables_only ..)
    | with_reducible apply only_step (State.syncTableCrc_only ..) | with_reducible apply only_foldl
    | refine fun _ => ?_ | refine fun _ _ => ?_ | dsimp only | with_reducible apply only_env
    | (constructor; intro p hp; cases p <;> first | rfl | exact absurd (by decide) hp)

theorem State.notePart_only (s : State) (c : ChIx) : OnlyChanges [.chans] s (s.notePart c) := by
  unfold State.notePart
  repeat' first
    | with_reducible exact only_refl _ _ | decide | assumption
    | with_reducible apply only_step (State.updChan_only ..) | with_reducible apply only_ite | refine fun _ => ?_
    | refine fun _ _ => ?_ | dsimp only

theorem State.setSpare_only (s : State) (h : HalfIx) (mode target code : Nat) :
    OnlyChanges [.regs] s (s.setSpare h mode target code) := by
  unfold State.setSpare
  repeat' first
    | with_reducible exact only_refl _ _ | decide | assumption | with_reducible apply only_step (State.setF_only ..)
    | refine fun _ => ?_ | refine fun _ _ => ?_ | dsimp only

theorem State.updSeq_only (s : State) (h : HalfIx) (f : Seq → Seq) : OnlyChanges [.halves] s (s.updSeq h f) := by
  unfold State.updSeq
  repeat' first
    | with_reducible exact only_refl _ _ | decide | assumption
    | with_reducible apply only_step (State.updHalf_only ..) | refine fun _ => ?_ | refine fun _ _ => ?_ | dsimp only

theorem State.stage_only (s : State) (h : HalfIx) (g : SeqStage) : OnlyChanges [.regs, .halves] s (s.stage h g) := by
  unfold State.stage
  repeat' first
    | with_reducible exact only_refl _ _ | decide | assumption | with_reducible apply only_step (State.setF_only ..)
    | with_reducible apply only_step (State.updSeq_only ..) | refine fun _ => ?_ | refine fun _ _ => ?_ | dsimp only

theorem State.cutEntry_only (s : State) (h : HalfIx) (c : ChIx) :
    OnlyChanges [.regs, .chans, .halves] s (s.cutEntry h c) := by
  unfold State.cutEntry
  repeat' first
    | with_reducible exact only_refl _ _ | decide | assumption | with_reducible apply only_step (State.setB_only ..)
    | with_reducible apply only_step (State.updChan_only ..)
    | with_reducible apply only_step (State.setSpare_only ..) | with_reducible apply only_step (State.setF_only ..)
    | with_reducible apply only_step (State.stage_only ..) | with_reducible apply only_step (State.notePart_only ..)
    | with_reducible apply only_step (State.updSeq_only ..) | with_reducible apply only_foldl
    | with_reducible apply only_ite | refine fun _ => ?_ | refine fun _ _ => ?_ | dsimp only

theorem State.restartSeq_only (s : State) (h : HalfIx) (c : ChIx) :
    OnlyChanges [.regs, .chans, .halves] s (s.restartSeq h c) := by
  unfold State.restartSeq
  repeat' first
    | with_reducible exact only_refl _ _ | decide | assumption | with_reducible apply only_step (State.setB_only ..)
    | with_reducible apply only_step (State.setF_only ..) | with_reducible apply only_step (State.cutEntry_only ..)
    | with_reducible apply only_step (State.updSeq_only ..) | with_reducible apply only_ite | refine fun _ => ?_
    | refine fun _ _ => ?_ | dsimp only

theorem State.srFault_only (s : State) (kind lo : Nat) :
    OnlyChanges [.regs, .env, .fc, .pipe, .halves, .pairs, .recfg, .yk] s (s.srFault kind lo) := by
  unfold State.srFault
  repeat' first
    | with_reducible exact only_refl _ _ | decide | assumption | with_reducible apply only_step (State.raise_only ..)
    | refine fun _ => ?_ | refine fun _ _ => ?_ | dsimp only

theorem State.journalFail_only (s : State) (reason : Nat) :
    OnlyChanges [.regs, .env, .fc, .pipe, .halves, .pairs, .recfg, .yk] s (s.journalFail reason) := by
  unfold State.journalFail
  repeat' first
    | with_reducible exact only_refl _ _ | decide | assumption
    | with_reducible apply only_step (State.srFault_only ..) | with_reducible apply only_step (State.addF_only ..)
    | with_reducible apply only_ite | refine fun _ => ?_ | refine fun _ _ => ?_ | dsimp only

theorem State.tellLeaves_only (s : State) :
    OnlyChanges [.regs, .env, .fc, .pipe, .halves, .pairs, .recfg, .sr, .yk] s (s.tellLeaves) := by
  unfold State.tellLeaves
  repeat' first
    | with_reducible exact only_refl _ _ | decide | assumption | with_reducible apply only_step (State.updSr_only ..)
    | with_reducible apply only_step (State.srFault_only ..) | with_reducible apply only_ite | refine fun _ => ?_
    | refine fun _ _ => ?_ | dsimp only

theorem State.startJournal_only (s : State) :
    OnlyChanges [.regs, .env, .fc, .pipe, .halves, .pairs, .recfg, .sr, .yk, .free] s (s.startJournal) := by
  unfold State.startJournal
  repeat' first
    | with_reducible exact only_refl _ _ | decide | assumption | with_reducible apply only_step (State.updSr_only ..)
    | with_reducible apply only_step (State.setF_only ..) | with_reducible apply only_step (State.journal_only ..)
    | with_reducible apply only_step (State.drawWord_only ..)
    | with_reducible apply only_step (State.journalFail_only ..)
    | with_reducible apply only_step (State.tellLeaves_only ..)
    | with_reducible apply only_step (State.syncSr_only ..) | with_reducible apply only_ite
    | with_reducible apply only_pair | (refine only_of_pair (by assumption) ?_)
    | (refine only_of_fst (by assumption) ?_) | refine fun _ => ?_ | refine fun _ _ => ?_ | dsimp only | split

theorem State.finishBoot_only (s : State) :
    OnlyChanges [.regs, .env, .fc, .pipe, .chans, .halves, .pairs, .boot, .recfg, .sr, .yk, .free] s (s.finishBoot) := by
  unfold State.finishBoot
  repeat' first
    | with_reducible exact only_refl _ _ | decide | assumption | with_reducible apply only_step (State.setF_only ..)
    | with_reducible apply only_step (State.leaveBoot_only ..)
    | with_reducible apply only_step (State.restartSeq_only ..)
    | with_reducible apply only_step (State.loadDies_only ..)
    | with_reducible apply only_step (State.startJournal_only ..) | with_reducible apply only_foldl
    | with_reducible apply only_ite | with_reducible apply only_pair | (refine only_of_pair (by assumption) ?_)
    | (refine only_of_fst (by assumption) ?_) | refine fun _ => ?_ | refine fun _ _ => ?_ | dsimp only | split
    | with_reducible apply only_boot
    | (constructor; intro p hp; cases p <;> first | rfl | exact absurd (by decide) hp)

theorem State.tryBoot_only (s : State) (first : Nat) :
    OnlyChanges [.regs, .sig, .env, .fc, .wdg, .pipe, .halves, .pairs, .boot, .recfg, .sr, .gln, .pwr, .yk, .forces, .forceNext] s (s.tryBoot first) := by
  unfold State.tryBoot
  repeat' first
    | with_reducible exact only_refl _ _ | decide | assumption | with_reducible apply only_step (State.setB_only ..)
    | with_reducible apply only_step (State.bootDetail_only ..)
    | with_reducible apply only_step (State.bootFault_only ..) | with_reducible apply only_step (State.setF_only ..)
    | with_reducible apply only_step (State.haltBoot_only ..)
    | with_reducible apply only_step (State.runImage_only ..) | with_reducible apply only_pair
    | (refine only_of_pair (by assumption) ?_) | (refine only_of_fst (by assumption) ?_) | refine fun _ => ?_
    | refine fun _ _ => ?_ | dsimp only | split

theorem State.setTick_only (s : State) (t : Nat) : OnlyChanges [.regs] s (s.setTick t) := by
  unfold State.setTick
  repeat' first
    | with_reducible exact only_refl _ _ | decide | assumption
    | with_reducible apply only_step (State.setPairReg_only ..) | refine fun _ => ?_ | refine fun _ _ => ?_
    | dsimp only

theorem State.advance_only (s : State) (t : Nat) : OnlyChanges [.regs] s (s.advance t) := by
  unfold State.advance
  repeat' first
    | with_reducible exact only_refl _ _ | decide | assumption | with_reducible apply only_step (State.pcAdd_only ..)
    | with_reducible apply only_step (State.setTick_only ..) | with_reducible apply only_ite | refine fun _ => ?_
    | refine fun _ _ => ?_ | dsimp only

theorem State.blockSent_only (s : State) : OnlyChanges [.yk] s (s.blockSent) := by
  unfold State.blockSent
  repeat' first
    | with_reducible exact only_refl _ _ | decide | assumption | with_reducible apply only_step (State.updYk_only ..)
    | refine fun _ => ?_ | refine fun _ _ => ?_ | dsimp only

theorem State.oweDrop_only (s : State) (p : PairIx) (c : CribIx) (kind : Nat) :
    OnlyChanges [.regs, .pipe, .pairs] s (s.oweDrop p c kind) := by
  unfold State.oweDrop
  repeat' first
    | with_reducible exact only_refl _ _ | decide | assumption | with_reducible apply only_whenB
    | with_reducible apply only_step (State.causeNow_only ..)
    | with_reducible apply only_step (State.updPair_only ..) | with_reducible apply only_step (State.addF_only ..)
    | refine fun _ => ?_ | refine fun _ _ => ?_ | dsimp only

theorem State.placeDue_only (s : State) (t : Nat) :
    OnlyChanges [.regs, .mem, .pipe, .pairs, .cribs] s (s.placeDue t) := by
  unfold State.placeDue
  repeat' first
    | with_reducible exact only_refl _ _ | decide | assumption | with_reducible apply only_placeEntry
    | with_reducible apply only_step (State.oweDrop_only ..) | with_reducible apply only_step (State.updPair_only ..)
    | with_reducible apply only_foldl | with_reducible apply only_ite | with_reducible apply only_dite
    | refine fun _ => ?_ | refine fun _ _ => ?_ | dsimp only

theorem State.drainTo_only (s : State) (t : Nat) :
    OnlyChanges [.regs, .mem, .pipe, .pairs, .cribs] s (s.drainTo t) := by
  unfold State.drainTo
  repeat' first
    | with_reducible exact only_refl _ _ | decide | assumption
    | with_reducible apply only_step (State.placeDue_only ..)
    | with_reducible apply only_step (State.dropEmits_only ..) | with_reducible apply only_foldl
    | with_reducible apply only_ite | with_reducible apply only_pair | (refine only_of_pair (by assumption) ?_)
    | (refine only_of_fst (by assumption) ?_) | refine fun _ => ?_ | refine fun _ _ => ?_ | dsimp only | split

theorem State.sealSent_only (s : State) (isSealed : Bool) : OnlyChanges [.regs] s (s.sealSent isSealed) := by
  unfold State.sealSent
  repeat' first
    | with_reducible exact only_refl _ _ | decide | assumption | with_reducible apply only_step (State.setF_only ..)
    | with_reducible apply only_pair | (refine only_of_pair (by assumption) ?_)
    | (refine only_of_fst (by assumption) ?_) | refine fun _ => ?_ | refine fun _ _ => ?_ | dsimp only | split

theorem State.sendSeal_only (s : State) (x : Sending) : OnlyChanges [.regs] s (s.sendSeal x).2 := by
  unfold State.sendSeal
  repeat' first
    | with_reducible exact only_refl _ _ | decide | assumption
    | with_reducible apply only_step (State.sealSent_only ..) | with_reducible apply only_ite
    | with_reducible apply only_pair | (refine only_of_pair (by assumption) ?_)
    | (refine only_of_fst (by assumption) ?_) | refine fun _ => ?_ | refine fun _ _ => ?_ | dsimp only | split

theorem State.sealTo_only (s : State) (t : Nat) : OnlyChanges [.regs, .hp] s (s.sealTo t) := by
  unfold State.sealTo
  dsimp only
  refine only_hp (by decide) (only_foldl_snd (fun r x h => ?_) (only_refl _ _))
  split
  · exact only_trans h (only_mono (State.sendSeal_only _ _) (by decide))
  · exact h

theorem State.countStatus_only (s : State) (code : Nat) (off : Bool) :
    OnlyChanges [.regs, .env, .fc, .pipe, .halves, .pairs, .recfg, .yk] s (s.countStatus code off) := by
  unfold State.countStatus
  repeat' first
    | with_reducible exact only_refl _ _ | decide | assumption
    | with_reducible apply only_step (State.hpFault_only ..) | with_reducible apply only_step (State.addF_only ..)
    | with_reducible apply only_ite | with_reducible apply only_pair | (refine only_of_pair (by assumption) ?_)
    | (refine only_of_fst (by assumption) ?_) | refine fun _ => ?_ | refine fun _ _ => ?_ | dsimp only | split

theorem State.endTx_only (s : State) (op : BitVec 8) (h : HostHdr) (code words : Nat) (off : Bool) (wait : Nat) :
    OnlyChanges [.regs, .env, .fc, .pipe, .halves, .pairs, .recfg, .yk] s (s.endTx op h code words off wait) := by
  unfold State.endTx
  repeat' first
    | with_reducible exact only_refl _ _ | decide | assumption
    | with_reducible apply only_step (State.setReg_only ..) | with_reducible apply only_step (State.setF_only ..)
    | with_reducible apply only_step (State.countStatus_only ..)
    | with_reducible apply only_step (State.pcHost_only ..)
    | with_reducible apply only_step (State.countWait_only ..) | with_reducible apply only_ite | refine fun _ => ?_
    | refine fun _ _ => ?_ | dsimp only

theorem State.popDone_only (s : State) (c : CribIx) (cons0 : Word) (j : Nat) :
    OnlyChanges [.regs, .cribs] s (s.popDone c cons0 j) := by
  unfold State.popDone
  repeat' first
    | with_reducible exact only_refl _ _ | decide | assumption
    | with_reducible apply only_step (State.setReg_only ..) | with_reducible apply only_step (State.syncCrib_only ..)
    | with_reducible apply only_step (State.updCrib_only ..) | with_reducible apply only_ite | refine fun _ => ?_
    | refine fun _ _ => ?_ | dsimp only

theorem State.rcClear_only (s : State) (a : Nat) : OnlyChanges [.regs] s (s.rcClear a) := by
  unfold State.rcClear
  repeat' first
    | with_reducible exact only_refl _ _ | decide | assumption
    | with_reducible apply only_step (State.setReg_only ..) | refine fun _ => ?_ | refine fun _ _ => ?_ | dsimp only

theorem State.readDone_only (s : State) (a n : Nat) : OnlyChanges [.regs, .recfg, .yk] s (s.readDone a n) := by
  unfold State.readDone
  repeat' first
    | with_reducible exact only_refl _ _ | decide | assumption | with_reducible apply only_step (State.updYk_only ..)
    | with_reducible apply only_step (State.setRecfg_only ..)
    | with_reducible apply only_step (State.rcClear_only ..) | with_reducible apply only_ite
    | with_reducible apply only_pair | (refine only_of_pair (by assumption) ?_)
    | (refine only_of_fst (by assumption) ?_) | refine fun _ => ?_ | refine fun _ _ => ?_ | dsimp only | split
    | with_reducible apply only_recfg
    | (constructor; intro p hp; cases p <;> first | rfl | exact absurd (by decide) hp)

theorem State.respond_only (s : State) (op : BitVec 8) (h : HostHdr) (id : Word) (short : Bool) (code words : Nat) (body : List Word) (sealW : Option Word) :
    OnlyChanges [.hp] s (s.respond op h id short code words body sealW) := by
  unfold State.respond
  repeat' first
    | with_reducible exact only_refl _ _ | decide | assumption | with_reducible apply only_ite
    | with_reducible apply only_pair | (refine only_of_pair (by assumption) ?_)
    | (refine only_of_fst (by assumption) ?_) | refine fun _ => ?_ | refine fun _ _ => ?_ | dsimp only | split
    | with_reducible apply only_hp | (constructor; intro p hp; cases p <;> first | rfl | exact absurd (by decide) hp)

theorem State.sendEnd_only (s : State) (x : Sending) :
    OnlyChanges [.regs, .env, .fc, .pipe, .halves, .pairs, .cribs, .recfg, .yk, .hp] s (s.sendEnd x) := by
  unfold State.sendEnd
  repeat' first
    | with_reducible exact only_refl _ _ | decide | assumption
    | with_reducible apply only_step (State.popDone_only ..)
    | with_reducible apply only_step (State.sendSeal_only ..) | with_reducible apply only_step (State.cutTx_only ..)
    | with_reducible apply only_step (State.endTx_only ..)
    | with_reducible apply only_step (State.unlatchAll_only ..)
    | with_reducible apply only_step (State.respond_only ..)
    | with_reducible apply only_step (State.readDone_only ..)
    | with_reducible apply only_step (State.countWait_only ..) | with_reducible apply only_foldl
    | with_reducible apply only_pair | (refine only_of_pair (by assumption) ?_)
    | (refine only_of_fst (by assumption) ?_) | refine fun _ => ?_ | refine fun _ _ => ?_ | dsimp only | split

theorem State.sendTo_only (s : State) (t : Nat) :
    OnlyChanges [.regs, .mem, .env, .fc, .pipe, .halves, .pairs, .cribs, .recfg, .yk, .hp] s (s.sendTo t) := by
  unfold State.sendTo
  repeat' first
    | with_reducible exact only_refl _ _ | decide | assumption
    | with_reducible apply only_step (State.sendEnd_only ..) | with_reducible apply only_step (State.sealTo_only ..)
    | with_reducible apply only_step (State.drainTo_only ..) | with_reducible apply only_foldl
    | with_reducible apply only_ite | refine fun _ => ?_ | refine fun _ _ => ?_ | dsimp only
    | with_reducible apply only_hp | (constructor; intro p hp; cases p <;> first | rfl | exact absurd (by decide) hp)

theorem State.catchUp_only (s : State) (t : Nat) :
    OnlyChanges [.regs, .mem, .env, .fc, .pipe, .halves, .pairs, .cribs, .recfg, .yk, .hp] s (s.catchUp t) := by
  unfold State.catchUp
  repeat' first
    | with_reducible exact only_refl _ _ | decide | assumption
    | with_reducible apply only_step (State.sendTo_only ..) | with_reducible apply only_step (State.drainTo_only ..)
    | refine fun _ => ?_ | refine fun _ _ => ?_ | dsimp only

theorem State.setEntry_only (s : State) (i : Nat) (e : Entry) : OnlyChanges [.sig] s (s.setEntry i e) := by
  unfold State.setEntry
  repeat' first
    | with_reducible exact only_refl _ _ | decide | assumption | refine fun _ => ?_ | refine fun _ _ => ?_
    | dsimp only | with_reducible apply only_sig
    | (constructor; intro p hp; cases p <;> first | rfl | exact absurd (by decide) hp)

theorem State.updEntry_only (s : State) (i : Nat) (f : Entry → Entry) : OnlyChanges [.sig] s (s.updEntry i f) := by
  unfold State.updEntry
  repeat' first
    | with_reducible exact only_refl _ _ | decide | assumption
    | with_reducible apply only_step (State.setEntry_only ..) | refine fun _ => ?_ | refine fun _ _ => ?_
    | dsimp only

theorem State.depositDue_only (s : State) :
    OnlyChanges [.regs, .sig, .env, .fc, .pipe, .halves, .pairs, .recfg, .yk, .queue] s (s.depositDue) := by
  unfold State.depositDue
  repeat' first
    | with_reducible exact only_refl _ _ | decide | assumption
    | with_reducible apply only_step (State.updEntry_only ..)
    | with_reducible apply only_step (State.hpFault_only ..) | with_reducible apply only_step (State.addF_only ..)
    | with_reducible apply only_foldl | with_reducible apply only_ite | refine fun _ => ?_ | refine fun _ _ => ?_
    | dsimp only | with_reducible apply only_queue
    | (constructor; intro p hp; cases p <;> first | rfl | exact absurd (by decide) hp)

theorem State.elapse_only (s : State) (t : Nat) : OnlyChanges [.regs] s (s.elapse t) := by
  unfold State.elapse
  repeat' first
    | with_reducible exact only_refl _ _ | decide | assumption
    | with_reducible apply only_step (State.advance_only ..) | refine fun _ => ?_ | refine fun _ _ => ?_ | dsimp only

theorem State.pairLast_only (s : State) (p : PairIx) (outcome tine ready : Nat) :
    OnlyChanges [.regs] s (s.pairLast p outcome tine ready) := by
  unfold State.pairLast
  repeat' first
    | with_reducible exact only_refl _ _ | decide | assumption
    | with_reducible apply only_step (State.setReg_only ..) | with_reducible apply only_step (State.setF_only ..)
    | refine fun _ => ?_ | refine fun _ _ => ?_ | dsimp only

theorem State.startTine_only (s : State) (p : PairIx) (t : Nat) :
    OnlyChanges [.regs, .pairs] s (s.startTine p t) := by
  unfold State.startTine
  repeat' first
    | with_reducible exact only_refl _ _ | decide | assumption
    | with_reducible apply only_step (State.pcPair_only ..) | with_reducible apply only_step (State.updPair_only ..)
    | with_reducible apply only_ite | with_reducible apply only_pair | (refine only_of_pair (by assumption) ?_)
    | (refine only_of_fst (by assumption) ?_) | refine fun _ => ?_ | refine fun _ _ => ?_ | dsimp only | split

theorem State.overrun_only (s : State) (p : PairIx) (x : Slots) (sheaf : Nat) :
    OnlyChanges [.regs, .env, .fc, .pipe, .halves, .pairs, .recfg, .yk] s (s.overrun p x sheaf) := by
  unfold State.overrun
  repeat' first
    | with_reducible exact only_refl _ _ | decide | assumption
    | with_reducible apply only_step (State.cutWork_only ..) | with_reducible apply only_step (State.elapse_only ..)
    | with_reducible apply only_step (State.causeNow_only ..) | with_reducible apply only_step (State.raise_only ..)
    | with_reducible apply only_step (State.updPair_only ..) | with_reducible apply only_step (State.memCorr_only ..)
    | with_reducible apply only_step (State.startTine_only ..)
    | with_reducible apply only_step (State.pairLast_only ..) | with_reducible apply only_ite | refine fun _ => ?_
    | refine fun _ _ => ?_ | dsimp only

theorem State.drain_only (s : State) (p : PairIx) (c : Ctx) (r : Nat) :
    OnlyChanges [.sig, .pairs] s (s.drain p c r) := by
  unfold State.drain
  repeat' first
    | with_reducible exact only_refl _ _ | decide | assumption
    | with_reducible apply only_step (State.updEntry_only ..)
    | with_reducible apply only_step (State.updPair_only ..) | with_reducible apply only_foldl | refine fun _ => ?_
    | refine fun _ _ => ?_ | dsimp only

theorem State.stackCmd_only (s : State) (c : ChIx) (v : Word) (start : Nat) :
    OnlyChanges [.out] s (s.stackCmd c v start) := by
  unfold State.stackCmd
  repeat' first
    | with_reducible exact only_refl _ _ | decide | assumption | with_reducible apply only_ite
    | with_reducible apply only_pair | (refine only_of_pair (by assumption) ?_)
    | (refine only_of_fst (by assumption) ?_) | refine fun _ => ?_ | refine fun _ _ => ?_ | dsimp only | split
    | with_reducible apply only_out
    | (constructor; intro p hp; cases p <;> first | rfl | exact absurd (by decide) hp)

theorem State.stackPair_only (s : State) (p : PairIx) (pr : Prog) (c : Ctx) (r : Nat) :
    OnlyChanges [.out] s (s.stackPair p pr c r) := by
  unfold State.stackPair
  repeat' first
    | with_reducible exact only_refl _ _ | decide | assumption
    | with_reducible apply only_step (State.stackCmd_only ..) | with_reducible apply only_foldl
    | with_reducible apply only_ite | with_reducible apply only_pair | (refine only_of_pair (by assumption) ?_)
    | (refine only_of_fst (by assumption) ?_) | refine fun _ => ?_ | refine fun _ _ => ?_ | dsimp only | split

theorem State.settle_only (s : State) (p : PairIx) (pr : Prog) (c : Ctx) (outcome tine r : Nat) :
    OnlyChanges [.regs, .sig, .out, .pairs] s (s.settle p pr c outcome tine r) := by
  unfold State.settle
  repeat' first
    | with_reducible exact only_refl _ _ | decide | assumption
    | with_reducible apply only_step (State.elapse_only ..) | with_reducible apply only_step (State.updPair_only ..)
    | with_reducible apply only_step (State.startTine_only ..)
    | with_reducible apply only_step (State.pairLast_only ..) | with_reducible apply only_step (State.drain_only ..)
    | with_reducible apply only_step (State.addF_only ..) | with_reducible apply only_step (State.stackPair_only ..)
    | with_reducible apply only_ite | refine fun _ => ?_ | refine fun _ _ => ?_ | dsimp only

theorem State.endEvaluation_only (s : State) (p : PairIx) :
    OnlyChanges [.regs, .sig, .env, .fc, .pipe, .out, .halves, .pairs, .recfg, .yk] s (s.endEvaluation p) := by
  unfold State.endEvaluation
  repeat' first
    | with_reducible exact only_refl _ _ | decide | assumption
    | with_reducible apply only_step (State.overrun_only ..) | with_reducible apply only_step (State.settle_only ..)
    | with_reducible apply only_ite | with_reducible apply only_pair | (refine only_of_pair (by assumption) ?_)
    | (refine only_of_fst (by assumption) ?_) | refine fun _ => ?_ | refine fun _ _ => ?_ | dsimp only | split

theorem State.fullTx_only (s : State) (op : BitVec 8) (h : HostHdr) (id : Word) (code words : Nat) (off : Bool) (wait : Nat) (body : List Word) :
    OnlyChanges [.regs, .env, .fc, .pipe, .halves, .pairs, .recfg, .yk, .hp] s (s.fullTx op h id code words off wait body) := by
  unfold State.fullTx
  repeat' first
    | with_reducible exact only_refl _ _ | decide | assumption
    | with_reducible apply only_step (State.sealSent_only ..) | with_reducible apply only_step (State.endTx_only ..)
    | with_reducible apply only_step (State.respond_only ..) | refine fun _ => ?_ | refine fun _ _ => ?_ | dsimp only

theorem State.pushWords_only (s : State) (c : CribIx) (ws : List Word) :
    OnlyChanges [.regs, .mem, .env, .fc, .pipe, .halves, .pairs, .cribs, .recfg, .yk] s (s.pushWords c ws) := by
  unfold State.pushWords
  repeat' first
    | with_reducible exact only_refl _ _ | decide | assumption
    | with_reducible apply only_step (State.putEntry_only ..)
    | with_reducible apply only_step (State.publish_only ..) | with_reducible apply only_foldl | refine fun _ => ?_
    | refine fun _ _ => ?_ | dsimp only

theorem State.endPush_only (s : State) (h : HostHdr) (id : Word) (c : CribIx) (ws : List Word) (wait : Nat) :
    OnlyChanges [.regs, .mem, .env, .fc, .pipe, .halves, .pairs, .cribs, .recfg, .yk, .hp] s (s.endPush h id c ws wait) := by
  unfold State.endPush
  repeat' first
    | with_reducible exact only_refl _ _ | decide | assumption
    | with_reducible apply only_step (State.fullTx_only ..)
    | with_reducible apply only_step (State.pushWords_only ..) | refine fun _ => ?_ | refine fun _ _ => ?_
    | dsimp only

theorem State.setSlot_only (s : State) (slot : Nat) (ws : List Word) : OnlyChanges [.boot] s (s.setSlot slot ws) := by
  unfold State.setSlot
  repeat' first
    | with_reducible exact only_refl _ _ | decide | assumption | with_reducible apply only_ite | refine fun _ => ?_
    | refine fun _ _ => ?_ | dsimp only | with_reducible apply only_boot
    | (constructor; intro p hp; cases p <;> first | rfl | exact absurd (by decide) hp)

theorem State.nvmTake_only (s : State) (h : HostHdr) (id : Word) (ws : List Word) (wait : Nat) :
    OnlyChanges [.regs, .env, .fc, .pipe, .halves, .pairs, .boot, .recfg, .yk, .hp] s (s.nvmTake h id ws wait) := by
  unfold State.nvmTake
  repeat' first
    | with_reducible exact only_refl _ _ | decide | assumption | with_reducible apply only_step (State.setF_only ..)
    | with_reducible apply only_step (State.setSlot_only ..) | with_reducible apply only_step (State.fullTx_only ..)
    | with_reducible apply only_ite | refine fun _ => ?_ | refine fun _ _ => ?_ | dsimp only
    | with_reducible apply only_boot
    | (constructor; intro p hp; cases p <;> first | rfl | exact absurd (by decide) hp)

theorem State.retryWrite_only (s : State) (w : HeldWrite) :
    OnlyChanges [.regs, .mem, .env, .fc, .pipe, .halves, .pairs, .cribs, .boot, .recfg, .yk, .hp] s (s.retryWrite w) := by
  unfold State.retryWrite
  repeat' first
    | with_reducible exact only_refl _ _ | decide | assumption
    | with_reducible apply only_step (State.endPush_only ..) | with_reducible apply only_step (State.endTx_only ..)
    | with_reducible apply only_step (State.nvmTake_only ..) | with_reducible apply only_step (State.respond_only ..)
    | with_reducible apply only_step (State.fullTx_only ..) | with_reducible apply only_ite
    | with_reducible apply only_pair | (refine only_of_pair (by assumption) ?_)
    | (refine only_of_fst (by assumption) ?_) | refine fun _ => ?_ | refine fun _ _ => ?_ | dsimp only | split
    | with_reducible apply only_hp | (constructor; intro p hp; cases p <;> first | rfl | exact absurd (by decide) hp)

theorem State.retryWrites_only (s : State) :
    OnlyChanges [.regs, .mem, .env, .fc, .pipe, .halves, .pairs, .cribs, .boot, .recfg, .yk, .hp] s (s.retryWrites) := by
  unfold State.retryWrites
  repeat' first
    | with_reducible exact only_refl _ _ | decide | assumption
    | with_reducible apply only_step (State.retryWrite_only ..)
    | with_reducible apply only_step (State.syncStalled_only ..) | with_reducible apply only_foldl
    | refine fun _ => ?_ | refine fun _ _ => ?_ | dsimp only | with_reducible apply only_hp
    | (constructor; intro p hp; cases p <;> first | rfl | exact absurd (by decide) hp)

theorem State.updUnit_only (s : State) (u : UnitIx) (f : CvuUnit → CvuUnit) :
    OnlyChanges [.cvu] s (s.updUnit u f) := by
  unfold State.updUnit
  repeat' first
    | with_reducible exact only_refl _ _ | decide | assumption | refine fun _ => ?_ | refine fun _ _ => ?_
    | dsimp only | with_reducible apply only_cvu
    | (constructor; intro p hp; cases p <;> first | rfl | exact absurd (by decide) hp)

theorem State.scanWords_only (s : State) (u : UnitIx) (n : Nat) : OnlyChanges [.cvu] s (s.scanWords u n) := by
  induction n generalizing s with
  | zero => exact only_refl _ _
  | succ n ih =>
    unfold State.scanWords
    exact only_ite (only_refl _ _) (only_trans (State.updUnit_only ..) (ih ..))

theorem State.scansAdvance_only (s : State) (len : Nat) : OnlyChanges [.cvu] s (s.scansAdvance len) := by
  unfold State.scansAdvance
  repeat' first
    | with_reducible exact only_refl _ _ | decide | assumption
    | with_reducible apply only_step (State.scanWords_only ..) | with_reducible apply only_foldl
    | with_reducible apply only_ite | refine fun _ => ?_ | refine fun _ _ => ?_ | dsimp only

theorem State.noteBands_only (s : State) (p : PairIx) (pr : Prog) : OnlyChanges [.pairs] s (s.noteBands p pr) := by
  unfold State.noteBands
  repeat' first
    | with_reducible exact only_refl _ _ | decide | assumption
    | with_reducible apply only_step (State.updPair_only ..) | with_reducible apply only_foldl
    | with_reducible apply only_ite | with_reducible apply only_pair | (refine only_of_pair (by assumption) ?_)
    | (refine only_of_fst (by assumption) ?_) | refine fun _ => ?_ | refine fun _ _ => ?_ | dsimp only | split

theorem State.noteAllBands_only (s : State) : OnlyChanges [.pairs] s (s.noteAllBands) := by
  unfold State.noteAllBands
  repeat' first
    | with_reducible exact only_refl _ _ | decide | assumption
    | with_reducible apply only_step (State.noteBands_only ..) | with_reducible apply only_foldl
    | with_reducible apply only_ite | with_reducible apply only_pair | (refine only_of_pair (by assumption) ?_)
    | (refine only_of_fst (by assumption) ?_) | refine fun _ => ?_ | refine fun _ _ => ?_ | dsimp only | split

theorem State.operationsDue_only (s : State) : OnlyChanges [.sr] s (s.operationsDue) := by
  unfold State.operationsDue
  repeat' first
    | with_reducible exact only_refl _ _ | decide | assumption
    | with_reducible apply only_step (State.countOperation_only ..) | with_reducible apply only_foldl
    | refine fun _ => ?_ | refine fun _ _ => ?_ | dsimp only | with_reducible apply only_sr
    | (constructor; intro p hp; cases p <;> first | rfl | exact absurd (by decide) hp)

theorem State.prepareBale_only (s : State) : OnlyChanges [.hp] s (s.prepareBale) := by
  unfold State.prepareBale
  repeat' first
    | with_reducible exact only_refl _ _ | decide | assumption | with_reducible apply only_pair
    | (refine only_of_pair (by assumption) ?_) | (refine only_of_fst (by assumption) ?_) | refine fun _ => ?_
    | refine fun _ _ => ?_ | dsimp only | split | with_reducible apply only_hp
    | (constructor; intro p hp; cases p <;> first | rfl | exact absurd (by decide) hp)

theorem State.eccCorrected_only (s : State) (a : Nat) :
    OnlyChanges [.regs, .env, .fc, .pipe, .halves, .pairs, .recfg, .yk] s (s.eccCorrected a) := by
  unfold State.eccCorrected
  repeat' first
    | with_reducible exact only_refl _ _ | decide | assumption
    | with_reducible apply only_step (State.raiseOnce_only ..) | with_reducible apply only_step (State.addF_only ..)
    | refine fun _ => ?_ | refine fun _ _ => ?_ | dsimp only

theorem State.updSeg_only (s : State) (k : Fin 32) (f : Seg → Seg) : OnlyChanges [.gln] s (s.updSeg k f) := by
  unfold State.updSeg
  repeat' first
    | with_reducible exact only_refl _ _ | decide | assumption | refine fun _ => ?_ | refine fun _ _ => ?_
    | dsimp only | with_reducible apply only_gln
    | (constructor; intro p hp; cases p <;> first | rfl | exact absurd (by decide) hp)

theorem State.setMember_only (s : State) (k : Fin 32) (j : Nat) (m : Member) :
    OnlyChanges [.gln] s (s.setMember k j m) := by
  unfold State.setMember
  repeat' first
    | with_reducible exact only_refl _ _ | decide | assumption
    | with_reducible apply only_step (State.updSeg_only ..) | refine fun _ => ?_ | refine fun _ _ => ?_ | dsimp only

theorem State.dropData_only (s : State) (k : Fin 32) : OnlyChanges [.gln] s (s.dropData k) := by
  unfold State.dropData
  repeat' first
    | with_reducible exact only_refl _ _ | decide | assumption
    | with_reducible apply only_step (State.setMember_only ..) | with_reducible apply only_foldl | refine fun _ => ?_
    | refine fun _ _ => ?_ | dsimp only

theorem State.drawBit_only (s : State) : OnlyChanges [.free] s (s.drawBit).2 := by
  unfold State.drawBit
  repeat' first
    | with_reducible exact only_refl _ _ | decide | assumption | with_reducible apply only_pair
    | (refine only_of_pair (by assumption) ?_) | (refine only_of_fst (by assumption) ?_) | refine fun _ => ?_
    | refine fun _ _ => ?_ | dsimp only | split | with_reducible apply only_free
    | (constructor; intro p hp; cases p <;> first | rfl | exact absurd (by decide) hp)

theorem State.dropTrees_only (s : State) (all : Bool) : OnlyChanges [.regs, .sr] s (s.dropTrees all) := by
  unfold State.dropTrees
  repeat' first
    | with_reducible exact only_refl _ _ | decide | assumption | with_reducible apply only_step (State.updSr_only ..)
    | with_reducible apply only_step (State.syncTree_only ..) | with_reducible apply only_ite | refine fun _ => ?_
    | refine fun _ _ => ?_ | dsimp only

theorem State.stagingLost_only (s : State) :
    OnlyChanges [.regs, .env, .fc, .pipe, .halves, .pairs, .recfg, .sr, .yk, .free] s (s.stagingLost) := by
  unfold State.stagingLost
  repeat' first
    | with_reducible exact only_refl _ _ | decide | assumption | with_reducible apply only_step (State.updSr_only ..)
    | with_reducible apply only_step (State.dropTrees_only ..)
    | with_reducible apply only_step (State.drawBit_only ..)
    | with_reducible apply only_step (State.journalFail_only ..) | with_reducible apply only_pair
    | (refine only_of_pair (by assumption) ?_) | (refine only_of_fst (by assumption) ?_) | refine fun _ => ?_
    | refine fun _ _ => ?_ | dsimp only | split

theorem State.eccDamage_only (s : State) (a : Nat) :
    OnlyChanges [.regs, .mem, .env, .fc, .pipe, .halves, .pairs, .cribs, .recfg, .sr, .gln, .yk, .free] s (s.eccDamage a) := by
  unfold State.eccDamage
  repeat' first
    | with_reducible exact only_refl _ _ | decide | assumption
    | with_reducible apply only_step (State.writeWords_only ..)
    | with_reducible apply only_step (State.stagingLost_only ..)
    | with_reducible apply only_step (State.dropData_only ..)
    | with_reducible apply only_step (State.updCrib_only ..) | with_reducible apply only_ite
    | with_reducible apply only_pair | (refine only_of_pair (by assumption) ?_)
    | (refine only_of_fst (by assumption) ?_) | refine fun _ => ?_ | refine fun _ _ => ?_ | dsimp only | split

theorem State.eccUncorr_only (s : State) (a : Nat) :
    OnlyChanges [.regs, .env, .fc, .pipe, .halves, .pairs, .recfg, .yk] s (s.eccUncorr a) := by
  unfold State.eccUncorr
  repeat' first
    | with_reducible exact only_refl _ _ | decide | assumption | with_reducible apply only_step (State.setF_only ..)
    | with_reducible apply only_step (State.raise_only ..) | with_reducible apply only_step (State.addF_only ..)
    | with_reducible apply only_ite | refine fun _ => ?_ | refine fun _ _ => ?_ | dsimp only

theorem State.eccAt_only (s : State) (a : Nat) (uncorr : Bool) :
    OnlyChanges [.regs, .mem, .env, .fc, .pipe, .halves, .pairs, .cribs, .recfg, .sr, .gln, .yk, .free] s (s.eccAt a uncorr) := by
  unfold State.eccAt
  repeat' first
    | with_reducible exact only_refl _ _ | decide | assumption
    | with_reducible apply only_step (State.eccDamage_only ..)
    | with_reducible apply only_step (State.eccUncorr_only ..)
    | with_reducible apply only_step (State.eccCorrected_only ..) | with_reducible apply only_ite
    | refine fun _ => ?_ | refine fun _ _ => ?_ | dsimp only

theorem State.rcMark_only (s : State) (xs : List Nat) : OnlyChanges [.regs] s (s.rcMark xs) := by
  unfold State.rcMark
  repeat' first
    | with_reducible exact only_refl _ _ | decide | assumption | refine fun _ => ?_ | refine fun _ _ => ?_
    | dsimp only | with_reducible apply only_regs
    | (constructor; intro p hp; cases p <;> first | rfl | exact absurd (by decide) hp)

theorem State.send_only (s : State) (x : Sending) :
    OnlyChanges [.regs, .env, .fc, .pipe, .halves, .pairs, .cribs, .recfg, .yk, .hp] s (s.send x) := by
  unfold State.send
  repeat' first
    | with_reducible exact only_refl _ _ | decide | assumption
    | with_reducible apply only_step (State.sendEnd_only ..)
    | with_reducible apply only_step (State.sendSeal_only ..) | with_reducible apply only_ite
    | with_reducible apply only_pair | (refine only_of_pair (by assumption) ?_)
    | (refine only_of_fst (by assumption) ?_) | refine fun _ => ?_ | refine fun _ _ => ?_ | dsimp only | split
    | with_reducible apply only_hp | (constructor; intro p hp; cases p <;> first | rfl | exact absurd (by decide) hp)

theorem State.runRead_only (s : State) (id : Word) (r : HeldRead) :
    OnlyChanges [.regs, .mem, .env, .fc, .pipe, .halves, .pairs, .cribs, .recfg, .sr, .gln, .yk, .hp, .free] s (s.runRead id r) := by
  unfold State.runRead
  repeat' first
    | with_reducible exact only_refl _ _ | decide | assumption
    | with_reducible apply only_step (State.elapse_only ..) | with_reducible apply only_step (State.eccAt_only ..)
    | with_reducible apply only_step (State.catchUp_only ..) | with_reducible apply only_step (State.rcMark_only ..)
    | with_reducible apply only_step (State.send_only ..) | with_reducible apply only_foldl
    | with_reducible apply only_ite | with_reducible apply only_pair | (refine only_of_pair (by assumption) ?_)
    | (refine only_of_fst (by assumption) ?_) | refine fun _ => ?_ | refine fun _ _ => ?_ | dsimp only | split

theorem State.runReads_only (s : State) :
    OnlyChanges [.regs, .mem, .env, .fc, .pipe, .halves, .pairs, .cribs, .recfg, .sr, .gln, .yk, .hp, .free] s (s.runReads) := by
  unfold State.runReads
  repeat' first
    | with_reducible exact only_refl _ _ | decide | assumption
    | with_reducible apply only_step (State.runRead_only ..) | with_reducible apply only_foldl
    | with_reducible apply only_ite | refine fun _ => ?_ | refine fun _ _ => ?_ | dsimp only
    | with_reducible apply only_hp | (constructor; intro p hp; cases p <;> first | rfl | exact absurd (by decide) hp)

theorem State.stackHost_only (s : State) : OnlyChanges [.out] s (s.stackHost) := by
  unfold State.stackHost
  repeat' first
    | with_reducible exact only_refl _ _ | decide | assumption
    | with_reducible apply only_step (State.stackCmd_only ..) | with_reducible apply only_foldl
    | with_reducible apply only_ite | refine fun _ => ?_ | refine fun _ _ => ?_ | dsimp only

theorem State.applyForces_only (s : State) : OnlyChanges [.sig, .pipe] s (s.applyForces) := by
  unfold State.applyForces
  repeat' first
    | with_reducible exact only_refl _ _ | decide | assumption
    | with_reducible apply only_step (State.updEntry_only ..) | with_reducible apply only_foldl | refine fun _ => ?_
    | refine fun _ _ => ?_ | dsimp only | with_reducible apply only_pipe
    | (constructor; intro p hp; cases p <;> first | rfl | exact absurd (by decide) hp)

theorem State.internalResult_only (s : State) (h : HalfIx) :
    OnlyChanges [.regs, .sig, .env, .fc, .pipe, .halves, .pairs, .recfg, .sr, .yk] s (s.internalResult h) := by
  unfold State.internalResult
  repeat' first
    | with_reducible exact only_refl _ _ | decide | assumption
    | with_reducible apply only_step (State.updHalf_only ..)
    | with_reducible apply only_step (State.updEntry_only ..) | with_reducible apply only_step (State.raise_only ..)
    | with_reducible apply only_step (State.addF_only ..) | with_reducible apply only_ite
    | with_reducible apply only_pair | (refine only_of_pair (by assumption) ?_)
    | (refine only_of_fst (by assumption) ?_) | refine fun _ => ?_ | refine fun _ _ => ?_ | dsimp only | split
    | with_reducible apply only_sr | (constructor; intro p hp; cases p <;> first | rfl | exact absurd (by decide) hp)

theorem State.takeSmp_only (s : State) (c : ChIx) (m : Smp) (closed : Nat) :
    OnlyChanges [.chans] s (s.takeSmp c m closed) := by
  unfold State.takeSmp
  repeat' first
    | with_reducible exact only_refl _ _ | decide | assumption
    | with_reducible apply only_step (State.updChan_only ..) | with_reducible apply only_ite | refine fun _ => ?_
    | refine fun _ _ => ?_ | dsimp only

theorem State.loseCh_only (s : State) (c : ChIx) (w : Win) : OnlyChanges [.chans] s (s.loseCh c w) := by
  unfold State.loseCh
  repeat' first
    | with_reducible exact only_refl _ _ | decide | assumption
    | with_reducible apply only_step (State.updChan_only ..) | with_reducible apply only_step (State.takeSmp_only ..)
    | with_reducible apply only_ite | refine fun _ => ?_ | refine fun _ _ => ?_ | dsimp only

theorem State.loseWin_only (s : State) (h : HalfIx) (old : Bool) :
    OnlyChanges [.regs, .chans, .halves] s (s.loseWin h old) := by
  unfold State.loseWin
  repeat' first
    | with_reducible exact only_refl _ _ | decide | assumption
    | with_reducible apply only_step (State.updHalf_only ..) | with_reducible apply only_step (State.addF_only ..)
    | with_reducible apply only_step (State.loseCh_only ..) | with_reducible apply only_foldl
    | with_reducible apply only_ite | with_reducible apply only_pair | (refine only_of_pair (by assumption) ?_)
    | (refine only_of_fst (by assumption) ?_) | refine fun _ => ?_ | refine fun _ _ => ?_ | dsimp only | split

theorem State.loseDue_only (s : State) (h : HalfIx) (old : Bool) :
    OnlyChanges [.regs, .chans, .halves] s (s.loseDue h old) := by
  unfold State.loseDue
  repeat' first
    | with_reducible exact only_refl _ _ | decide | assumption
    | with_reducible apply only_step (State.loseWin_only ..) | with_reducible apply only_ite
    | with_reducible apply only_pair | (refine only_of_pair (by assumption) ?_)
    | (refine only_of_fst (by assumption) ?_) | refine fun _ => ?_ | refine fun _ _ => ?_ | dsimp only | split

theorem State.fastSnapshot_only (s : State) (c : ChIx) : OnlyChanges [.regs] s (s.fastSnapshot c) := by
  unfold State.fastSnapshot
  repeat' first
    | with_reducible exact only_refl _ _ | decide | assumption
    | with_reducible apply only_step (State.setReg_only ..) | with_reducible apply only_step (State.setF_only ..)
    | with_reducible apply only_ite | refine fun _ => ?_ | refine fun _ _ => ?_ | dsimp only

theorem State.endPeriod_only (s : State) (c : ChIx) (whole next : Bool) :
    OnlyChanges [.regs, .chans] s (s.endPeriod c whole next) := by
  unfold State.endPeriod
  repeat' first
    | with_reducible exact only_refl _ _ | decide | assumption | with_reducible apply only_step (State.setB_only ..)
    | with_reducible apply only_step (State.updChan_only ..) | with_reducible apply only_step (State.setReg_only ..)
    | with_reducible apply only_step (State.setF_only ..) | refine fun _ => ?_ | refine fun _ _ => ?_ | dsimp only

theorem State.publishPrec_only (s : State) (c : ChIx) (code : Int) (qual : Nat) :
    OnlyChanges [.regs, .chans] s (s.publishPrec c code qual) := by
  unfold State.publishPrec
  repeat' first
    | with_reducible exact only_refl _ _ | decide | assumption
    | with_reducible apply only_step (State.updChan_only ..) | with_reducible apply only_step (State.setReg_only ..)
    | with_reducible apply only_step (State.setF_only ..) | refine fun _ => ?_ | refine fun _ _ => ?_ | dsimp only

theorem State.thrFlag_only (s : State) (c : ChIx) (f : Fld) : OnlyChanges [.regs, .chans] s (s.thrFlag c f) := by
  unfold State.thrFlag
  repeat' first
    | with_reducible exact only_refl _ _ | decide | assumption | with_reducible apply only_step (State.setB_only ..)
    | with_reducible apply only_step (State.updChan_only ..) | with_reducible apply only_ite | refine fun _ => ?_
    | refine fun _ _ => ?_ | dsimp only

theorem State.resultPrec_only (s : State) (c : ChIx) (w : PrecWin) (word : Word) :
    OnlyChanges [.regs, .chans] s (s.resultPrec c w word) := by
  unfold State.resultPrec
  repeat' first
    | with_reducible exact only_refl _ _ | decide | assumption
    | with_reducible apply only_step (State.publishPrec_only ..)
    | with_reducible apply only_step (State.thrFlag_only ..) | with_reducible apply only_whenB
    | with_reducible apply only_pair | (refine only_of_pair (by assumption) ?_)
    | (refine only_of_fst (by assumption) ?_) | refine fun _ => ?_ | refine fun _ _ => ?_ | dsimp only | split

theorem State.precThresh_only (s : State) (c : ChIx) : OnlyChanges [.regs, .chans] s (s.precThresh c).1 := by
  unfold State.precThresh
  repeat' first
    | with_reducible exact only_refl _ _ | decide | assumption
    | with_reducible apply only_step (State.updChan_only ..) | with_reducible apply only_step (State.setF_only ..)
    | with_reducible apply only_step (State.endPeriod_only ..)
    | with_reducible apply only_step (State.resultPrec_only ..) | with_reducible apply only_step (State.addF_only ..)
    | with_reducible apply only_ite | with_reducible apply only_pair | (refine only_of_pair (by assumption) ?_)
    | (refine only_of_fst (by assumption) ?_) | refine fun _ => ?_ | refine fun _ _ => ?_ | dsimp only | split

theorem State.sumPeriod_only (s : State) (c : ChIx) (period : Bool) :
    OnlyChanges [.regs, .mem, .env, .fc, .pipe, .halves, .pairs, .cribs, .recfg, .yk] s (s.sumPeriod c period) := by
  unfold State.sumPeriod
  repeat' first
    | with_reducible exact only_refl _ _ | decide | assumption
    | with_reducible apply only_step (State.produce_only ..) | with_reducible apply only_ite | refine fun _ => ?_
    | refine fun _ _ => ?_ | dsimp only

theorem State.summarise_only (s : State) (c : ChIx) (period : Bool) :
    OnlyChanges [.regs, .mem, .env, .fc, .pipe, .halves, .pairs, .cribs, .recfg, .yk] s (s.summarise c period) := by
  unfold State.summarise
  repeat' first
    | with_reducible exact only_refl _ _ | decide | assumption
    | with_reducible apply only_step (State.sumPeriod_only ..)
    | with_reducible apply only_step (State.produce_only ..) | with_reducible apply only_ite | refine fun _ => ?_
    | refine fun _ _ => ?_ | dsimp only

theorem State.writeChannel_only (s : State) (c : ChIx) : OnlyChanges [.regs, .sig] s (s.writeChannel c) := by
  unfold State.writeChannel
  repeat' first
    | with_reducible exact only_refl _ _ | decide | assumption
    | with_reducible apply only_step (State.setReg_only ..) | with_reducible apply only_step (State.setF_only ..)
    | with_reducible apply only_step (State.updEntry_only ..) | with_reducible apply only_ite | refine fun _ => ?_
    | refine fun _ _ => ?_ | dsimp only

theorem State.threshCh_only (s : State) (c : ChIx) :
    OnlyChanges [.regs, .mem, .sig, .env, .fc, .pipe, .chans, .halves, .pairs, .cribs, .recfg, .yk] s (s.threshCh c) := by
  unfold State.threshCh
  repeat' first
    | with_reducible exact only_refl _ _ | decide | assumption
    | with_reducible apply only_step (State.updChan_only ..)
    | with_reducible apply only_step (State.fastSnapshot_only ..)
    | with_reducible apply only_step (State.precThresh_only ..)
    | with_reducible apply only_step (State.sumPeriod_only ..)
    | with_reducible apply only_step (State.summarise_only ..)
    | with_reducible apply only_step (State.writeChannel_only ..) | with_reducible apply only_ite
    | with_reducible apply only_pair | (refine only_of_pair (by assumption) ?_)
    | (refine only_of_fst (by assumption) ?_) | refine fun _ => ?_ | refine fun _ _ => ?_ | dsimp only | split

theorem State.threshWork_only (s : State) :
    OnlyChanges [.regs, .mem, .sig, .env, .tb, .fc, .pipe, .chans, .halves, .pairs, .cribs, .recfg, .sr, .yk] s (s.threshWork) := by
  unfold State.threshWork
  repeat' first
    | with_reducible exact only_refl _ _ | decide | assumption
    | with_reducible apply only_step (State.loseDue_only ..) | with_reducible apply only_step (State.updHalf_only ..)
    | with_reducible apply only_step (State.threshCh_only ..)
    | with_reducible apply only_step (State.internalResult_only ..)
    | with_reducible apply only_step (State.applyForces_only ..) | with_reducible apply only_foldl
    | with_reducible apply only_ite | refine fun _ => ?_ | refine fun _ _ => ?_ | dsimp only
    | with_reducible apply only_tb_pipe | with_reducible apply only_pipe | with_reducible apply only_tb
    | (constructor; intro p hp; cases p <;> first | rfl | exact absurd (by decide) hp)

theorem State.threshEnd_only (s : State) :
    OnlyChanges [.regs, .mem, .sig, .env, .tb, .fc, .pipe, .out, .chans, .halves, .pairs, .cribs, .boot, .recfg, .sr, .gln, .yk, .hp, .free] s (s.threshEnd) := by
  unfold State.threshEnd
  repeat' first
    | with_reducible exact only_refl _ _ | decide | assumption
    | with_reducible apply only_step (State.runReads_only ..) | with_reducible apply only_step (State.elapse_only ..)
    | with_reducible apply only_step (State.retryWrites_only ..)
    | with_reducible apply only_step (State.prepareBale_only ..)
    | with_reducible apply only_step (State.noteAllBands_only ..)
    | with_reducible apply only_step (State.operationsDue_only ..)
    | with_reducible apply only_step (State.threshWork_only ..)
    | with_reducible apply only_step (State.stackHost_only ..) | with_reducible apply only_ite
    | with_reducible apply only_pair | (refine only_of_pair (by assumption) ?_)
    | (refine only_of_fst (by assumption) ?_) | refine fun _ => ?_ | refine fun _ _ => ?_ | dsimp only | split

theorem State.endSwath_only (s : State) :
    OnlyChanges [.regs, .mem, .sig, .env, .tb, .fc, .pipe, .out, .chans, .halves, .pairs, .cribs, .boot, .recfg, .cvu, .sr, .gln, .yk, .hp, .queue, .free] s (s.endSwath) := by
  unfold State.endSwath
  repeat' first
    | with_reducible exact only_refl _ _ | decide | assumption
    | with_reducible apply only_step (State.retryWrites_only ..)
    | with_reducible apply only_step (State.pcIdle_only ..)
    | with_reducible apply only_step (State.blockSent_only ..)
    | with_reducible apply only_step (State.depositDue_only ..)
    | with_reducible apply only_step (State.updPair_only ..)
    | with_reducible apply only_step (State.threshEnd_only ..)
    | with_reducible apply only_step (State.catchUp_only ..)
    | with_reducible apply only_step (State.endEvaluation_only ..)
    | with_reducible apply only_step (State.scansAdvance_only ..)
    | with_reducible apply only_step (State.advance_only ..) | with_reducible apply only_foldl | refine fun _ => ?_
    | refine fun _ _ => ?_ | dsimp only

theorem State.setBtick_only (s : State) (t : Nat) : OnlyChanges [.regs] s (s.setBtick t) := by
  unfold State.setBtick
  repeat' first
    | with_reducible exact only_refl _ _ | decide | assumption
    | with_reducible apply only_step (State.setPairReg_only ..) | refine fun _ => ?_ | refine fun _ _ => ?_
    | dsimp only

theorem State.setStook_only (s : State) (n : Nat) : OnlyChanges [.regs] s (s.setStook n) := by
  unfold State.setStook
  repeat' first
    | with_reducible exact only_refl _ _ | decide | assumption
    | with_reducible apply only_step (State.setPairReg_only ..) | refine fun _ => ?_ | refine fun _ _ => ?_
    | dsimp only

theorem State.setSwath_only (s : State) (n : Nat) : OnlyChanges [.regs] s (s.setSwath n) := by
  unfold State.setSwath
  repeat' first
    | with_reducible exact only_refl _ _ | decide | assumption
    | with_reducible apply only_step (State.setPairReg_only ..) | refine fun _ => ?_ | refine fun _ _ => ?_
    | dsimp only

theorem State.countBoundary_only (s : State) (k : Count) : OnlyChanges [.regs, .pipe] s (s.countBoundary k) := by
  unfold State.countBoundary
  repeat' first
    | with_reducible exact only_refl _ _ | decide | assumption
    | with_reducible apply only_step (State.setStook_only ..)
    | with_reducible apply only_step (State.setBtick_only ..) | with_reducible apply only_step (State.setF_only ..)
    | with_reducible apply only_step (State.setSwath_only ..) | with_reducible apply only_ite | refine fun _ => ?_
    | refine fun _ _ => ?_ | dsimp only | with_reducible apply only_pipe
    | (constructor; intro p hp; cases p <;> first | rfl | exact absurd (by decide) hp)

theorem State.setPartner_only (s : State) (on : Bool) : OnlyChanges [.sig] s (s.setPartner on) := by
  unfold State.setPartner
  repeat' first
    | with_reducible exact only_refl _ _ | decide | assumption
    | with_reducible apply only_step (State.setEntry_only ..) | with_reducible apply only_foldl
    | with_reducible apply only_ite | refine fun _ => ?_ | refine fun _ _ => ?_ | dsimp only

theorem State.unjoin_only (s : State) (state : Nat) : OnlyChanges [.regs, .yk] s (s.unjoin state) := by
  unfold State.unjoin
  repeat' first
    | with_reducible exact only_refl _ _ | decide | assumption | with_reducible apply only_step (State.setF_only ..)
    | with_reducible apply only_step (State.updYk_only ..) | refine fun _ => ?_ | refine fun _ _ => ?_ | dsimp only

theorem State.refuseJoin_only (s : State) (reason : Nat) :
    OnlyChanges [.regs, .sig, .env, .fc, .pipe, .halves, .pairs, .recfg, .yk] s (s.refuseJoin reason) := by
  unfold State.refuseJoin
  repeat' first
    | with_reducible exact only_refl _ _ | decide | assumption | with_reducible apply only_step (State.setB_only ..)
    | with_reducible apply only_step (State.setF_only ..) | with_reducible apply only_step (State.setPartner_only ..)
    | with_reducible apply only_step (State.updYk_only ..) | with_reducible apply only_step (State.raise_only ..)
    | with_reducible apply only_step (State.unjoin_only ..) | refine fun _ => ?_ | refine fun _ _ => ?_ | dsimp only
    | with_reducible apply only_env
    | (constructor; intro p hp; cases p <;> first | rfl | exact absurd (by decide) hp)

theorem State.endAlign_only (s : State) :
    OnlyChanges [.regs, .sig, .env, .tb, .fc, .pipe, .halves, .pairs, .recfg, .yk] s (s.endAlign) := by
  unfold State.endAlign
  repeat' first
    | with_reducible exact only_refl _ _ | decide | assumption | with_reducible apply only_step (State.setF_only ..)
    | with_reducible apply only_step (State.updYk_only ..)
    | with_reducible apply only_step (State.setPairReg_only ..)
    | with_reducible apply only_step (State.refuseJoin_only ..) | with_reducible apply only_ite
    | with_reducible apply only_pair | (refine only_of_pair (by assumption) ?_)
    | (refine only_of_fst (by assumption) ?_) | refine fun _ => ?_ | refine fun _ _ => ?_ | dsimp only | split
    | with_reducible apply only_tb | (constructor; intro p hp; cases p <;> first | rfl | exact absurd (by decide) hp)

theorem State.turnOver_only (s : State) (prev : Nat) :
    OnlyChanges [.fc, .pipe, .chans, .halves] s (s.turnOver prev) := by
  unfold State.turnOver
  repeat' first
    | with_reducible exact only_refl _ _ | decide | assumption | with_reducible apply only_ite | refine fun _ => ?_
    | refine fun _ _ => ?_ | dsimp only | with_reducible apply only_fc_pipe_chans_halves
    | (constructor; intro p hp; cases p <;> first | rfl | exact absurd (by decide) hp)

theorem State.dropStook_only (s : State) : OnlyChanges [.regs, .chans] s (s.dropStook) := by
  unfold State.dropStook
  repeat' first
    | with_reducible exact only_refl _ _ | decide | assumption
    | with_reducible apply only_step (State.updChan_only ..) | with_reducible apply only_step (State.thrFlag_only ..)
    | with_reducible apply only_foldl | refine fun _ => ?_ | refine fun _ _ => ?_ | dsimp only

theorem State.closePrec_only (s : State) (r : StookRaw) (stook : Nat) :
    OnlyChanges [.regs, .chans, .halves] s (s.closePrec r stook) := by
  unfold State.closePrec
  repeat' first
    | with_reducible exact only_refl _ _ | decide | assumption
    | with_reducible apply only_step (State.updChan_only ..) | with_reducible apply only_step (State.updHalf_only ..)
    | with_reducible apply only_step (State.thrFlag_only ..) | with_reducible apply only_foldl
    | with_reducible apply only_ite | refine fun _ => ?_ | refine fun _ _ => ?_ | dsimp only

theorem State.ageChannels_only (s : State) (h : HalfIx) : OnlyChanges [.regs] s (s.ageChannels h) := by
  unfold State.ageChannels
  repeat' first
    | with_reducible exact only_refl _ _ | decide | assumption | with_reducible apply only_step (State.addF_only ..)
    | with_reducible apply only_foldl | refine fun _ => ?_ | refine fun _ _ => ?_ | dsimp only

theorem State.internalStale_only (s : State) (h : HalfIx) : OnlyChanges [.sig] s (s.internalStale h) := by
  unfold State.internalStale
  repeat' first
    | with_reducible exact only_refl _ _ | decide | assumption
    | with_reducible apply only_step (State.updEntry_only ..) | with_reducible apply only_foldl
    | with_reducible apply only_ite | refine fun _ => ?_ | refine fun _ _ => ?_ | dsimp only

theorem State.insertSelf_only (s : State) (h : HalfIx) (r : Nat × Nat) (after : SeqStage) :
    OnlyChanges [.regs, .halves] s (s.insertSelf h r after) := by
  unfold State.insertSelf
  repeat' first
    | with_reducible exact only_refl _ _ | decide | assumption
    | with_reducible apply only_step (State.setSpare_only ..) | with_reducible apply only_step (State.stage_only ..)
    | with_reducible apply only_step (State.updSeq_only ..) | refine fun _ => ?_ | refine fun _ _ => ?_ | dsimp only

theorem State.beginCover_only (s : State) (h : HalfIx) (c : ChIx) (g : SeqStage) :
    OnlyChanges [.regs, .halves] s (s.beginCover h c g) := by
  unfold State.beginCover
  repeat' first
    | with_reducible exact only_refl _ _ | decide | assumption
    | with_reducible apply only_step (State.setSpare_only ..)
    | with_reducible apply only_step (State.insertSelf_only ..)
    | with_reducible apply only_step (State.stage_only ..) | with_reducible apply only_ite | refine fun _ => ?_
    | refine fun _ _ => ?_ | dsimp only

theorem State.beginRun_only (s : State) (h : HalfIx) (c : ChIx) :
    OnlyChanges [.regs, .halves] s (s.beginRun h c) := by
  unfold State.beginRun
  repeat' first
    | with_reducible exact only_refl _ _ | decide | assumption
    | with_reducible apply only_step (State.setSpare_only ..)
    | with_reducible apply only_step (State.insertSelf_only ..)
    | with_reducible apply only_step (State.stage_only ..) | with_reducible apply only_ite | refine fun _ => ?_
    | refine fun _ _ => ?_ | dsimp only

theorem State.endEntry_only (s : State) (h : HalfIx) : OnlyChanges [.regs, .sig, .halves] s (s.endEntry h) := by
  unfold State.endEntry
  repeat' first
    | with_reducible exact only_refl _ _ | decide | assumption | with_reducible apply only_step (State.setB_only ..)
    | with_reducible apply only_step (State.setReg_only ..) | with_reducible apply only_step (State.setSpare_only ..)
    | with_reducible apply only_step (State.setF_only ..) | with_reducible apply only_step (State.stage_only ..)
    | with_reducible apply only_step (State.updSeq_only ..)
    | with_reducible apply only_step (State.internalStale_only ..) | with_reducible apply only_ite
    | refine fun _ => ?_ | refine fun _ _ => ?_ | dsimp only

theorem only_runDone {ps : List Part} {s0 : State} (s : State) (h : HalfIx) (again : State → State)
    (k : Part.sub [.regs, .sig, .halves] ps = true) (H : ∀ u, OnlyChanges ps u (again u)) (h0 : OnlyChanges ps s0 s) :
    OnlyChanges ps s0 (s.runDone h again) := by
  have H2 : ∀ s u, OnlyChanges ps s u → OnlyChanges ps s (again u) :=
    fun _ u h => only_trans h (H u)
  unfold State.runDone
  repeat' first
    | with_reducible exact only_refl _ _ | exact Part.sub_trans (by decide) k | assumption | with_reducible apply H2
    | with_reducible apply only_step (State.setF_only ..) | with_reducible apply only_step (State.endEntry_only ..)
    | with_reducible apply only_step (State.updSeq_only ..) | with_reducible apply only_ite | refine fun _ => ?_
    | refine fun _ _ => ?_ | dsimp only

end Sys2Proof.Machine
end

