-- ==== Sys2Proof/Laws/FramesC.lean ====
section
/-!
SUPPORT. Laws/FramesC.lean: what each shared operation and each effect may change of the state: one lemma per definition
(part 3 of 5, in the order in which they use one another).
-/
namespace Sys2Proof.Machine

theorem State.afterShadow_only (s : State) (h : HalfIx) : OnlyChanges [.regs, .sig, .halves] s (s.afterShadow h) := by
  unfold State.afterShadow
  repeat' first
    | with_reducible exact only_refl _ _ | decide | assumption
    | with_reducible apply only_step (State.beginRun_only ..)
    | with_reducible apply only_step (State.beginCover_only ..) | with_reducible apply only_runDone
    | with_reducible apply only_pair | (refine only_of_pair (by assumption) ?_)
    | (refine only_of_fst (by assumption) ?_) | refine fun _ => ?_ | refine fun _ _ => ?_ | dsimp only | split

theorem State.beginCheck_only (s : State) (h : HalfIx) (c : ChIx) (g : SeqStage) :
    OnlyChanges [.regs, .halves] s (s.beginCheck h c g) := by
  unfold State.beginCheck
  repeat' first
    | with_reducible exact only_refl _ _ | decide | assumption
    | with_reducible apply only_step (State.insertSelf_only ..)
    | with_reducible apply only_step (State.stage_only ..) | with_reducible apply only_ite | refine fun _ => ?_
    | refine fun _ _ => ?_ | dsimp only

theorem calPath_only (full zero ref : Int) (s : State) : OnlyChanges [.free] s (calPath full zero ref s).2 := by
  unfold calPath
  repeat' first
    | with_reducible exact only_refl _ _ | decide | assumption
    | with_reducible apply only_step (State.drawWord_only ..) | with_reducible apply only_ite
    | with_reducible apply only_pair | (refine only_of_pair (by assumption) ?_)
    | (refine only_of_fst (by assumption) ?_) | refine fun _ => ?_ | refine fun _ _ => ?_ | dsimp only | split

theorem calibrate_only (zero ref : ModRaw) (s : State) : OnlyChanges [.free] s (calibrate zero ref s).2 := by
  unfold calibrate
  repeat' first
    | with_reducible exact only_refl _ _ | decide | assumption | with_reducible apply only_step (calPath_only ..)
    | with_reducible apply only_pair | (refine only_of_pair (by assumption) ?_)
    | (refine only_of_fst (by assumption) ?_) | refine fun _ => ?_ | refine fun _ _ => ?_ | dsimp only | split

theorem State.refreshSet_only (s : State) (h : HalfIx) (r : Nat × Nat) (ref : ModRaw) :
    OnlyChanges [.halves, .free] s (s.refreshSet h r ref) := by
  unfold State.refreshSet
  repeat' first
    | with_reducible exact only_refl _ _ | decide | assumption
    | with_reducible apply only_step (State.updHalf_only ..) | with_reducible apply only_step (calibrate_only ..)
    | with_reducible apply only_pair | (refine only_of_pair (by assumption) ?_)
    | (refine only_of_fst (by assumption) ?_) | refine fun _ => ?_ | refine fun _ _ => ?_ | dsimp only | split

theorem State.idleStook_only (s : State) (h : HalfIx) (raw : ModRaw) :
    OnlyChanges [.halves, .free] s (s.idleStook h raw) := by
  unfold State.idleStook
  repeat' first
    | with_reducible exact only_refl _ _ | decide | assumption
    | with_reducible apply only_step (State.refreshSet_only ..)
    | with_reducible apply only_step (State.updSeq_only ..) | with_reducible apply only_pair
    | (refine only_of_pair (by assumption) ?_) | (refine only_of_fst (by assumption) ?_) | refine fun _ => ?_
    | refine fun _ _ => ?_ | dsimp only | split

theorem State.noteInt_only (s : State) (h : HalfIx) (v : Int) (spr : ModRaw) :
    OnlyChanges [.halves] s (s.noteInt h v spr) := by
  unfold State.noteInt
  repeat' first
    | with_reducible exact only_refl _ _ | decide | assumption
    | with_reducible apply only_step (State.updHalf_only ..) | refine fun _ => ?_ | refine fun _ _ => ?_ | dsimp only

theorem State.seqStook_only (s : State) (h : HalfIx) (r : StookRaw) (stook : Nat) :
    OnlyChanges [.regs, .sig, .chans, .halves, .free] s (s.seqStook h r stook) := by
  unfold State.seqStook
  repeat' first
    | with_reducible exact only_refl _ _ | decide | assumption
    | with_reducible apply only_step (State.updChan_only ..)
    | with_reducible apply only_step (State.beginRun_only ..)
    | with_reducible apply only_step (State.beginCover_only ..)
    | with_reducible apply only_step (State.setSpare_only ..)
    | with_reducible apply only_step (State.noteInt_only ..)
    | with_reducible apply only_step (State.insertSelf_only ..) | with_reducible apply only_step (State.setF_only ..)
    | with_reducible apply only_step (State.stage_only ..) | with_reducible apply only_runDone
    | with_reducible apply only_step (State.idleStook_only ..)
    | with_reducible apply only_step (State.afterShadow_only ..) | with_reducible apply only_whenB
    | with_reducible apply only_step (calibrate_only ..) | with_reducible apply only_step (State.endEntry_only ..)
    | with_reducible apply only_step (State.refreshSet_only ..)
    | with_reducible apply only_step (State.updSeq_only ..)
    | with_reducible apply only_step (State.beginCheck_only ..) | with_reducible apply only_ite
    | with_reducible apply only_pair | (refine only_of_pair (by assumption) ?_)
    | (refine only_of_fst (by assumption) ?_) | refine fun _ => ?_ | refine fun _ _ => ?_ | dsimp only | split

theorem State.syncSpareIn_only (s : State) (h : HalfIx) : OnlyChanges [.halves] s (s.syncSpareIn h) := by
  unfold State.syncSpareIn
  repeat' first
    | with_reducible exact only_refl _ _ | decide | assumption
    | with_reducible apply only_step (State.updHalf_only ..) | with_reducible apply only_ite | refine fun _ => ?_
    | refine fun _ _ => ?_ | dsimp only

theorem State.unpark_only (s : State) (h : HalfIx) : OnlyChanges [.regs, .sig, .chans, .halves] s (s.unpark h) := by
  unfold State.unpark
  repeat' first
    | with_reducible exact only_refl _ _ | decide | assumption | with_reducible apply only_step (State.setB_only ..)
    | with_reducible apply only_step (State.updChan_only ..)
    | with_reducible apply only_step (State.endEntry_only ..) | with_reducible apply only_ite | refine fun _ => ?_
    | refine fun _ _ => ?_ | dsimp only

theorem State.spareStook_only (s : State) (h : HalfIx) (r : StookRaw) (stook : Nat) :
    OnlyChanges [.regs, .sig, .chans, .halves, .free] s (s.spareStook h r stook) := by
  unfold State.spareStook
  repeat' first
    | with_reducible exact only_refl _ _ | decide | assumption
    | with_reducible apply only_step (State.updHalf_only ..)
    | with_reducible apply only_step (State.seqStook_only ..) | with_reducible apply only_step (State.unpark_only ..)
    | with_reducible apply only_step (State.syncSpareIn_only ..)
    | with_reducible apply only_step (State.internalStale_only ..)
    | with_reducible apply only_step (State.ageChannels_only ..) | with_reducible apply only_ite | refine fun _ => ?_
    | refine fun _ _ => ?_ | dsimp only

theorem State.closeStook_only (s : State) (r : StookRaw) (stook : Nat) (short : Bool) :
    OnlyChanges [.regs, .sig, .chans, .halves, .free] s (s.closeStook r stook short) := by
  unfold State.closeStook
  repeat' first
    | with_reducible exact only_refl _ _ | decide | assumption
    | with_reducible apply only_step (State.closePrec_only ..)
    | with_reducible apply only_step (State.spareStook_only ..) | with_reducible apply only_foldl
    | with_reducible apply only_ite | refine fun _ => ?_ | refine fun _ _ => ?_ | dsimp only
    | with_reducible apply only_chans
    | (constructor; intro p hp; cases p <;> first | rfl | exact absurd (by decide) hp)

theorem State.dropPushes_only (s before : State) :
    OnlyChanges [.regs, .env, .fc, .pipe, .halves, .pairs, .recfg, .yk, .hp] s (s.dropPushes before) := by
  unfold State.dropPushes
  repeat' first
    | with_reducible exact only_refl _ _ | decide | assumption
    | with_reducible apply only_step (State.syncStalled_only ..)
    | with_reducible apply only_step (State.fullTx_only ..) | with_reducible apply only_foldl
    | with_reducible apply only_ite | with_reducible apply only_pair | (refine only_of_pair (by assumption) ?_)
    | (refine only_of_fst (by assumption) ?_) | refine fun _ => ?_ | refine fun _ _ => ?_ | dsimp only | split
    | with_reducible apply only_hp | (constructor; intro p hp; cases p <;> first | rfl | exact absurd (by decide) hp)

theorem State.keepFolds_only (s : State) : OnlyChanges [.gln] s (s.keepFolds) := by
  unfold State.keepFolds
  repeat' first
    | with_reducible exact only_refl _ _ | decide | assumption | with_reducible apply only_ite | refine fun _ => ?_
    | refine fun _ _ => ?_ | dsimp only | with_reducible apply only_gln
    | (constructor; intro p hp; cases p <;> first | rfl | exact absurd (by decide) hp)

theorem State.recrib_only (s before : State) (c : CribIx) : OnlyChanges [.regs, .cribs] s (s.recrib before c) := by
  unfold State.recrib
  repeat' first
    | with_reducible exact only_refl _ _ | decide | assumption
    | with_reducible apply only_step (State.setReg_only ..) | with_reducible apply only_step (State.syncCrib_only ..)
    | with_reducible apply only_step (State.updCrib_only ..) | with_reducible apply only_ite | refine fun _ => ?_
    | refine fun _ _ => ?_ | dsimp only

theorem State.resegment_only (s before : State) (k : Fin 32) :
    OnlyChanges [.regs, .gln] s (s.resegment before k) := by
  unfold State.resegment
  repeat' first
    | with_reducible exact only_refl _ _ | decide | assumption
    | with_reducible apply only_step (State.updSeg_only ..) | with_reducible apply only_step (State.setReg_only ..)
    | with_reducible apply only_ite | refine fun _ => ?_ | refine fun _ _ => ?_ | dsimp only

theorem State.retable_only (s : State) (h : HalfIx) : OnlyChanges [.regs, .halves] s (s.retable h) := by
  unfold State.retable
  repeat' first
    | with_reducible exact only_refl _ _ | decide | assumption
    | with_reducible apply only_step (State.updHalf_only ..)
    | with_reducible apply only_step (State.syncTableCrc_only ..) | with_reducible apply only_foldl
    | with_reducible apply only_ite | refine fun _ => ?_ | refine fun _ _ => ?_ | dsimp only

theorem State.setBuffer_only (s : State) (h : HalfIx) (on : Bool) :
    OnlyChanges [.regs, .chans, .halves] s (s.setBuffer h on) := by
  unfold State.setBuffer
  repeat' first
    | with_reducible exact only_refl _ _ | decide | assumption | with_reducible apply only_step (State.setB_only ..)
    | with_reducible apply only_step (State.updChan_only ..) | with_reducible apply only_step (State.updHalf_only ..)
    | with_reducible apply only_foldl | with_reducible apply only_ite | refine fun _ => ?_ | refine fun _ _ => ?_
    | dsimp only

theorem State.rethresh_only (s before : State) (h : HalfIx) :
    OnlyChanges [.regs, .chans, .halves] s (s.rethresh before h) := by
  unfold State.rethresh
  repeat' first
    | with_reducible exact only_refl _ _ | decide | assumption | with_reducible apply only_step (State.setB_only ..)
    | with_reducible apply only_step (State.updHalf_only ..)
    | with_reducible apply only_step (State.setBuffer_only ..)
    | with_reducible apply only_step (State.restartSeq_only ..)
    | with_reducible apply only_step (State.updSeq_only ..) | with_reducible apply only_step (State.addF_only ..)
    | with_reducible apply only_ite | refine fun _ => ?_ | refine fun _ _ => ?_ | dsimp only

theorem State.scanAbandon_only (s : State) (u : UnitIx) : OnlyChanges [.regs, .cvu] s (s.scanAbandon u) := by
  unfold State.scanAbandon
  repeat' first
    | with_reducible exact only_refl _ _ | decide | assumption | with_reducible apply only_step (State.setB_only ..)
    | with_reducible apply only_step (State.updUnit_only ..) | refine fun _ => ?_ | refine fun _ _ => ?_ | dsimp only

theorem State.applySet_only (s : State) (c : CheckedSet) :
    OnlyChanges [.regs, .sig, .fc, .pipe, .chans, .halves, .pairs, .cribs, .boot, .cvu, .gln, .yk, .forces, .forceNext] s (s.applySet c) := by
  unfold State.applySet
  repeat' first
    | with_reducible exact only_refl _ _ | decide | assumption
    | with_reducible apply only_step (State.loadFaults_only ..)
    | with_reducible apply only_step (State.recrib_only ..)
    | with_reducible apply only_step (State.keepFolds_only ..)
    | with_reducible apply only_step (State.scanAbandon_only ..) | with_reducible apply only_whenB
    | with_reducible apply only_step (State.retable_only ..)
    | with_reducible apply only_step (State.loadLists_only ..)
    | with_reducible apply only_step (State.fixTimeout_only ..)
    | with_reducible apply only_step (State.loadRegs_only ..)
    | with_reducible apply only_step (State.loadGleaner_only ..)
    | with_reducible apply only_step (State.loadPrograms_only ..)
    | with_reducible apply only_step (State.allocate_only ..)
    | with_reducible apply only_step (State.rethresh_only ..)
    | with_reducible apply only_step (State.resegment_only ..) | with_reducible apply only_foldl
    | with_reducible apply only_ite | refine fun _ => ?_ | refine fun _ _ => ?_ | dsimp only
    | with_reducible apply only_boot | with_reducible apply only_pipe
    | (constructor; intro p hp; cases p <;> first | rfl | exact absurd (by decide) hp)

theorem State.recfgApply_only (s : State) :
    OnlyChanges [.regs, .sig, .env, .fc, .pipe, .chans, .halves, .pairs, .cribs, .boot, .recfg, .cvu, .gln, .yk, .forces, .forceNext] s (s.recfgApply) := by
  unfold State.recfgApply
  repeat' first
    | with_reducible exact only_refl _ _ | decide | assumption | with_reducible apply only_step (State.setF_only ..)
    | with_reducible apply only_step (State.setRecfg_only ..)
    | with_reducible apply only_step (State.endRecfg_only ..)
    | with_reducible apply only_step (State.applySet_only ..) | with_reducible apply only_ite
    | with_reducible apply only_pair | (refine only_of_pair (by assumption) ?_)
    | (refine only_of_fst (by assumption) ?_) | refine fun _ => ?_ | refine fun _ _ => ?_ | dsimp only | split
    | with_reducible apply only_recfg
    | (constructor; intro p hp; cases p <;> first | rfl | exact absurd (by decide) hp)

theorem State.recfgCompare_only (s : State) :
    OnlyChanges [.regs, .env, .fc, .pipe, .halves, .pairs, .recfg, .yk] s (s.recfgCompare) := by
  unfold State.recfgCompare
  repeat' first
    | with_reducible exact only_refl _ _ | decide | assumption
    | with_reducible apply only_step (State.endRecfg_only ..) | with_reducible apply only_ite | refine fun _ => ?_
    | refine fun _ _ => ?_ | dsimp only

theorem State.tables_only (s : State) :
    OnlyChanges [.regs, .sig, .env, .fc, .pipe, .chans, .halves, .pairs, .cribs, .boot, .recfg, .cvu, .gln, .yk, .hp, .forces, .forceNext] s (s.tables) := by
  unfold State.tables
  repeat' first
    | with_reducible exact only_refl _ _ | decide | assumption
    | with_reducible apply only_step (State.recfgApply_only ..)
    | with_reducible apply only_step (State.recfgCompare_only ..)
    | with_reducible apply only_step (State.dropPushes_only ..) | refine fun _ => ?_ | refine fun _ _ => ?_
    | dsimp only

theorem State.causeNext_only (s : State) (c : Nat) : OnlyChanges [.pipe] s (s.causeNext c) := by
  unfold State.causeNext
  repeat' first
    | with_reducible exact only_refl _ _ | decide | assumption | refine fun _ => ?_ | refine fun _ _ => ?_
    | dsimp only | with_reducible apply only_pipe
    | (constructor; intro p hp; cases p <;> first | rfl | exact absurd (by decide) hp)

theorem State.unstamped_only (s : State) : OnlyChanges [.pipe] s (s.unstamped) := by
  unfold State.unstamped
  repeat' first
    | with_reducible exact only_refl _ _ | decide | assumption
    | with_reducible apply only_step (State.causeNext_only ..) | refine fun _ => ?_ | refine fun _ _ => ?_
    | dsimp only

theorem State.hostValue_only (s : State) (i : Nat) (v : Word) : OnlyChanges [.sig, .pipe] s (s.hostValue i v) := by
  unfold State.hostValue
  repeat' first
    | with_reducible exact only_refl _ _ | decide | assumption
    | with_reducible apply only_step (State.updEntry_only ..)
    | with_reducible apply only_step (State.unstamped_only ..) | refine fun _ => ?_ | refine fun _ _ => ?_
    | dsimp only

theorem State.atClear_only (s : State) (c : ChIx) : OnlyChanges [.pipe, .chans] s (s.atClear c) := by
  unfold State.atClear
  repeat' first
    | with_reducible exact only_refl _ _ | decide | assumption
    | with_reducible apply only_step (State.updChan_only ..)
    | with_reducible apply only_step (State.unstamped_only ..) | refine fun _ => ?_ | refine fun _ _ => ?_
    | dsimp only

theorem only_after {ps : List Part} {s : State} {f : State → Host.Outcome State Fault Refusal}
    (h : Answers ps s (f s)) : OnlyChanges ps s (s.after f) := by
  obtain ⟨t, e, k⟩ := h
  unfold State.after
  rw [e]
  exact k

theorem State.haltRefused_only (s : State) (p : PairIx) :
    OnlyChanges [.regs, .env, .fc, .pipe, .halves, .pairs, .recfg, .yk] s (s.haltRefused p) := by
  unfold State.haltRefused
  repeat' first
    | with_reducible exact only_refl _ _ | decide | assumption | with_reducible apply only_step (State.raise_only ..)
    | refine fun _ => ?_ | refine fun _ _ => ?_ | dsimp only

theorem execBndHalt_only (p : PairIx) (s : State) :
    Answers [.regs, .mem, .sig, .env, .fc, .pipe, .halves, .pairs, .cribs, .recfg, .yk] s (execBndHalt p s) := by
  refine ⟨_, rfl, ?_⟩
  repeat' first
    | with_reducible apply only_whenB | with_reducible exact only_refl _ _ | decide | assumption
    | with_reducible apply only_step (State.haltRefused_only ..)
    | with_reducible apply only_step (State.unstamped_only ..)
    | with_reducible apply only_step (State.updPair_only ..) | with_reducible apply only_ite | refine fun _ => ?_
    | refine fun _ _ => ?_ | dsimp only

theorem execBndResume_only (p : PairIx) (s : State) :
    Answers [.regs, .mem, .sig, .env, .fc, .pipe, .halves, .pairs, .cribs, .recfg, .yk] s (execBndResume p s) := by
  refine ⟨_, rfl, ?_⟩
  repeat' first
    | with_reducible apply only_whenB | with_reducible exact only_refl _ _ | decide | assumption
    | with_reducible apply only_step (State.haltRefused_only ..)
    | with_reducible apply only_step (State.unstamped_only ..)
    | with_reducible apply only_step (State.updPair_only ..) | with_reducible apply only_ite | refine fun _ => ?_
    | refine fun _ _ => ?_ | dsimp only

theorem execBndStep_only (p : PairIx) (s : State) :
    Answers [.regs, .mem, .sig, .env, .fc, .pipe, .halves, .pairs, .cribs, .recfg, .yk] s (execBndStep p s) := by
  refine ⟨_, rfl, ?_⟩
  repeat' first
    | with_reducible apply only_whenB | with_reducible exact only_refl _ _ | decide | assumption
    | with_reducible apply only_step (State.haltRefused_only ..)
    | with_reducible apply only_step (State.lockstepFault_only ..)
    | with_reducible apply only_step (State.raise_only ..) | with_reducible apply only_step (State.blockPair_only ..)
    | with_reducible apply only_step (State.updPair_only ..) | with_reducible apply only_step (State.showPc_only ..)
    | with_reducible apply only_ite | with_reducible apply only_pair | (refine only_of_pair (by assumption) ?_)
    | (refine only_of_fst (by assumption) ?_) | refine fun _ => ?_ | refine fun _ _ => ?_ | dsimp only | split

theorem State.debugKey_only (s : State) (p : PairIx) (key : Nat) :
    OnlyChanges [.regs, .mem, .sig, .env, .fc, .pipe, .halves, .pairs, .cribs, .recfg, .yk] s (s.debugKey p key) := by
  unfold State.debugKey
  repeat' first
    | with_reducible exact only_refl _ _ | decide | assumption | with_reducible apply only_after
    | exact execBndHalt_only .. | exact execBndResume_only .. | exact execBndStep_only ..
    | with_reducible apply only_ite | refine fun _ => ?_ | refine fun _ _ => ?_ | dsimp only

theorem State.clearField_only (s : State) (h : HalfIx) : OnlyChanges [.chans, .halves] s (s.clearField h) := by
  unfold State.clearField
  repeat' first
    | with_reducible exact only_refl _ _ | decide | assumption
    | with_reducible apply only_step (State.updChan_only ..) | with_reducible apply only_step (State.updHalf_only ..)
    | with_reducible apply only_foldl | refine fun _ => ?_ | refine fun _ _ => ?_ | dsimp only

theorem State.dropPulse_only (s : State) (c : ChIx) : OnlyChanges [.regs, .chans] s (s.dropPulse c) := by
  unfold State.dropPulse
  repeat' first
    | with_reducible exact only_refl _ _ | decide | assumption
    | with_reducible apply only_step (State.updChan_only ..) | with_reducible apply only_step (State.addF_only ..)
    | with_reducible apply only_ite | refine fun _ => ?_ | refine fun _ _ => ?_ | dsimp only

theorem State.unload_only (s : State) (h : HalfIx) :
    OnlyChanges [.regs, .chans, .halves, .sr, .free] s (s.unload h) := by
  unfold State.unload
  repeat' first
    | with_reducible exact only_refl _ _ | decide | assumption
    | with_reducible apply only_step (State.updChan_only ..) | with_reducible apply only_step (State.updHalf_only ..)
    | with_reducible apply only_fieldChange | with_reducible apply only_foldl | refine fun _ => ?_
    | refine fun _ _ => ?_ | dsimp only

theorem State.dieLost_only (s : State) (h : HalfIx) :
    OnlyChanges [.regs, .chans, .halves, .sr, .free] s (s.dieLost h) := by
  unfold State.dieLost
  repeat' first
    | with_reducible exact only_refl _ _ | decide | assumption
    | with_reducible apply only_step (State.updHalf_only ..) | with_reducible apply only_step (State.setF_only ..)
    | with_reducible apply only_step (State.captureEnd_only ..) | with_reducible apply only_fieldChange
    | with_reducible apply only_step (State.cutEntry_only ..)
    | with_reducible apply only_step (State.clearField_only ..)
    | with_reducible apply only_step (State.dropPulse_only ..)
    | with_reducible apply only_step (State.unload_only ..) | with_reducible apply only_foldl | refine fun _ => ?_
    | refine fun _ _ => ?_ | dsimp only

theorem State.fieldReset_only (s : State) (h : HalfIx) :
    OnlyChanges [.regs, .chans, .halves, .sr, .free] s (s.fieldReset h) := by
  unfold State.fieldReset
  repeat' first
    | with_reducible exact only_refl _ _ | decide | assumption
    | with_reducible apply only_step (State.updHalf_only ..) | with_reducible apply only_step (State.dieLost_only ..)
    | with_reducible apply only_ite | refine fun _ => ?_ | refine fun _ _ => ?_ | dsimp only

theorem State.parkEnd_only (s : State) (h : HalfIx) : OnlyChanges [.pipe, .halves] s (s.parkEnd h) := by
  unfold State.parkEnd
  repeat' first
    | with_reducible exact only_refl _ _ | decide | assumption
    | with_reducible apply only_step (State.unstamped_only ..)
    | with_reducible apply only_step (State.updSeq_only ..) | with_reducible apply only_ite | refine fun _ => ?_
    | refine fun _ _ => ?_ | dsimp only

theorem State.seqGo_only (s : State) (h : HalfIx) : OnlyChanges [.regs, .pipe, .halves] s (s.seqGo h) := by
  unfold State.seqGo
  repeat' first
    | with_reducible exact only_refl _ _ | decide | assumption | with_reducible apply only_step (State.setB_only ..)
    | with_reducible apply only_step (State.unstamped_only ..)
    | with_reducible apply only_step (State.updSeq_only ..) | with_reducible apply only_step (State.addF_only ..)
    | with_reducible apply only_ite | refine fun _ => ?_ | refine fun _ _ => ?_ | dsimp only

theorem State.uvRearm_only (s : State) (h : HalfIx) : OnlyChanges [.halves] s (s.uvRearm h) := by
  unfold State.uvRearm
  repeat' first
    | with_reducible exact only_refl _ _ | decide | assumption
    | with_reducible apply only_step (State.updHalf_only ..) | with_reducible apply only_ite | refine fun _ => ?_
    | refine fun _ _ => ?_ | dsimp only

theorem State.releaseLatch_only (s : State) (c : ChIx) : OnlyChanges [.pipe, .chans] s (s.releaseLatch c) := by
  unfold State.releaseLatch
  repeat' first
    | with_reducible exact only_refl _ _ | decide | assumption
    | with_reducible apply only_step (State.updChan_only ..)
    | with_reducible apply only_step (State.unstamped_only ..) | with_reducible apply only_ite | refine fun _ => ?_
    | refine fun _ _ => ?_ | dsimp only

theorem State.writeChFlags_only (s : State) (c : ChIx) (v : Word) :
    OnlyChanges [.regs, .pipe, .chans] s (s.writeChFlags c v) := by
  unfold State.writeChFlags
  repeat' first
    | with_reducible exact only_refl _ _ | decide | assumption
    | with_reducible apply only_step (State.setReg_only ..)
    | with_reducible apply only_step (State.releaseLatch_only ..) | with_reducible apply only_ite
    | refine fun _ => ?_ | refine fun _ _ => ?_ | dsimp only

theorem State.writeRefBuf_only (s : State) (h : HalfIx) (v : Word) :
    OnlyChanges [.regs, .pipe, .halves] s (s.writeRefBuf h v) := by
  unfold State.writeRefBuf
  repeat' first
    | with_reducible exact only_refl _ _ | decide | assumption | with_reducible apply only_step (State.setB_only ..)
    | with_reducible apply only_step (State.updHalf_only ..)
    | with_reducible apply only_step (State.unstamped_only ..) | with_reducible apply only_ite | refine fun _ => ?_
    | refine fun _ _ => ?_ | dsimp only

theorem State.writeWmark_only (s : State) (c : CribIx) (v : Word) : OnlyChanges [.regs] s (s.writeWmark c v) := by
  unfold State.writeWmark
  repeat' first
    | with_reducible exact only_refl _ _ | decide | assumption
    | with_reducible apply only_step (State.syncCrib_only ..) | with_reducible apply only_step (State.setF_only ..)
    | with_reducible apply only_ite | refine fun _ => ?_ | refine fun _ _ => ?_ | dsimp only

theorem State.actHigh_only (s : State) (a : Nat) (v : Word) (t : State)
    (e : s.actHigh a v = some t) :
    OnlyChanges [.regs, .mem, .sig, .env, .fc, .pipe, .chans, .halves, .pairs, .cribs, .recfg, .sr, .yk, .free] s t := by
  revert t
  unfold State.actHigh
  repeat' first
    | with_reducible exact opt_none | with_reducible refine opt_ite ?_ ?_ | with_reducible refine opt_some ?_
    | (dsimp only; refine opt_ite ?_ ?_)
    | with_reducible exact only_refl _ _ | decide | assumption | with_reducible apply only_step (State.seqGo_only ..)
    | with_reducible apply only_step (State.atClear_only ..)
    | with_reducible apply only_step (State.fieldReset_only ..)
    | with_reducible apply only_step (State.writeWmark_only ..)
    | with_reducible apply only_step (State.debugKey_only ..)
    | with_reducible apply only_step (State.writeChFlags_only ..)
    | with_reducible apply only_step (State.writeRefBuf_only ..)
    | with_reducible apply only_step (State.parkEnd_only ..) | with_reducible apply only_step (State.uvRearm_only ..)
    | with_reducible apply only_ite | refine fun _ => ?_ | refine fun _ _ => ?_ | dsimp only

theorem State.armRequest_only (s : State) (mask : Nat) : OnlyChanges [.regs, .pipe, .boot] s (s.armRequest mask) := by
  unfold State.armRequest
  repeat' first
    | with_reducible exact only_refl _ _ | decide | assumption | with_reducible apply only_step (State.setF_only ..)
    | with_reducible apply only_step (State.unstamped_only ..) | with_reducible apply only_ite | refine fun _ => ?_
    | refine fun _ _ => ?_ | dsimp only | with_reducible apply only_boot
    | (constructor; intro p hp; cases p <;> first | rfl | exact absurd (by decide) hp)

theorem State.rollbackRaise_only (s : State) : OnlyChanges [.regs, .boot] s (s.rollbackRaise) := by
  unfold State.rollbackRaise
  repeat' first
    | with_reducible exact only_refl _ _ | decide | assumption | with_reducible apply only_step (State.setF_only ..)
    | with_reducible apply only_ite | with_reducible apply only_pair | (refine only_of_pair (by assumption) ?_)
    | (refine only_of_fst (by assumption) ?_) | refine fun _ => ?_ | refine fun _ _ => ?_ | dsimp only | split
    | with_reducible apply only_boot
    | (constructor; intro p hp; cases p <;> first | rfl | exact absurd (by decide) hp)

theorem State.setStage_only (s : State) (st reason : Nat) : OnlyChanges [.regs] s (s.setStage st reason) := by
  unfold State.setStage
  repeat' first
    | with_reducible exact only_refl _ _ | decide | assumption | with_reducible apply only_step (State.setF_only ..)
    | refine fun _ => ?_ | refine fun _ _ => ?_ | dsimp only

theorem State.stageActivate_only (s : State) : OnlyChanges [.regs, .boot] s (s.stageActivate) := by
  unfold State.stageActivate
  repeat' first
    | with_reducible exact only_refl _ _ | decide | assumption
    | with_reducible apply only_step (State.setStage_only ..)
    | with_reducible apply only_step (State.appendRecord_only ..) | with_reducible apply only_ite
    | refine fun _ => ?_ | refine fun _ _ => ?_ | dsimp only

theorem State.stageCheck_only (s : State) : OnlyChanges [.regs, .boot] s (s.stageCheck) := by
  unfold State.stageCheck
  repeat' first
    | with_reducible exact only_refl _ _ | decide | assumption
    | with_reducible apply only_step (State.setStage_only ..) | with_reducible apply only_ite | refine fun _ => ?_
    | refine fun _ _ => ?_ | dsimp only | with_reducible apply only_boot
    | (constructor; intro p hp; cases p <;> first | rfl | exact absurd (by decide) hp)

theorem State.stageConfirm_only (s : State) : OnlyChanges [.regs, .boot] s (s.stageConfirm) := by
  unfold State.stageConfirm
  repeat' first
    | with_reducible exact only_refl _ _ | decide | assumption | with_reducible apply only_step (State.setB_only ..)
    | with_reducible apply only_step (State.appendRecord_only ..) | with_reducible apply only_ite
    | refine fun _ => ?_ | refine fun _ _ => ?_ | dsimp only

theorem State.stageOpen_only (s : State) : OnlyChanges [.regs, .boot] s (s.stageOpen) := by
  unfold State.stageOpen
  repeat' first
    | with_reducible exact only_refl _ _ | decide | assumption | with_reducible apply only_step (State.setF_only ..)
    | with_reducible apply only_step (State.setSlot_only ..)
    | with_reducible apply only_step (State.setStage_only ..)
    | with_reducible apply only_step (State.appendRecord_only ..) | with_reducible apply only_ite
    | with_reducible apply only_pair | (refine only_of_pair (by assumption) ?_)
    | (refine only_of_fst (by assumption) ?_) | refine fun _ => ?_ | refine fun _ _ => ?_ | dsimp only | split
    | with_reducible apply only_boot
    | (constructor; intro p hp; cases p <;> first | rfl | exact absurd (by decide) hp)

theorem State.bootKey_only (s : State) (key : Nat) : OnlyChanges [.regs, .boot] s (s.bootKey key) := by
  unfold State.bootKey
  repeat' first
    | with_reducible exact only_refl _ _ | decide | assumption
    | with_reducible apply only_step (State.rollbackRaise_only ..)
    | with_reducible apply only_step (State.stageConfirm_only ..)
    | with_reducible apply only_step (State.stageOpen_only ..)
    | with_reducible apply only_step (State.stageActivate_only ..)
    | with_reducible apply only_step (State.stageCheck_only ..) | with_reducible apply only_ite | refine fun _ => ?_
    | refine fun _ _ => ?_ | dsimp only

theorem State.clearReq_only (s : State) (channels halves : Nat) (first : Bool) :
    OnlyChanges [.fc, .pipe] s (s.clearReq channels halves first) := by
  unfold State.clearReq
  repeat' first
    | with_reducible exact only_refl _ _ | decide | assumption
    | with_reducible apply only_step (State.unstamped_only ..) | refine fun _ => ?_ | refine fun _ _ => ?_
    | dsimp only | with_reducible apply only_fc
    | (constructor; intro p hp; cases p <;> first | rfl | exact absurd (by decide) hp)

theorem State.commission_only (s : State) : OnlyChanges [.regs, .boot] s (s.commission) := by
  unfold State.commission
  repeat' first
    | with_reducible exact only_refl _ _ | decide | assumption | with_reducible apply only_step (State.setF_only ..)
    | with_reducible apply only_ite | refine fun _ => ?_ | refine fun _ _ => ?_ | dsimp only
    | with_reducible apply only_boot
    | (constructor; intro p hp; cases p <;> first | rfl | exact absurd (by decide) hp)

theorem State.injectKey_only (s : State) : OnlyChanges [.regs, .fc, .pipe] s (s.injectKey) := by
  unfold State.injectKey
  repeat' first
    | with_reducible exact only_refl _ _ | decide | assumption | with_reducible apply only_step (State.setF_only ..)
    | with_reducible apply only_step (State.unstamped_only ..) | with_reducible apply only_pair
    | (refine only_of_pair (by assumption) ?_) | (refine only_of_fst (by assumption) ?_) | refine fun _ => ?_
    | refine fun _ _ => ?_ | dsimp only | split | with_reducible apply only_fc
    | (constructor; intro p hp; cases p <;> first | rfl | exact absurd (by decide) hp)

theorem State.joinStart_only (s : State) : OnlyChanges [.regs, .yk] s (s.joinStart) := by
  unfold State.joinStart
  repeat' first
    | with_reducible exact only_refl _ _ | decide | assumption | with_reducible apply only_step (State.updYk_only ..)
    | with_reducible apply only_step (State.unjoin_only ..) | refine fun _ => ?_ | refine fun _ _ => ?_ | dsimp only

theorem State.joinRetry_only (s : State) : OnlyChanges [.regs, .sig, .yk] s (s.joinRetry) := by
  unfold State.joinRetry
  repeat' first
    | with_reducible exact only_refl _ _ | decide | assumption | with_reducible apply only_step (State.setB_only ..)
    | with_reducible apply only_step (State.joinStart_only ..)
    | with_reducible apply only_step (State.setPartner_only ..) | with_reducible apply only_ite | refine fun _ => ?_
    | refine fun _ _ => ?_ | dsimp only

theorem State.pcKey_only (s : State) (bit : Nat) : OnlyChanges [.regs, .perf] s (s.pcKey bit) := by
  unfold State.pcKey
  repeat' first
    | with_reducible exact only_refl _ _ | decide | assumption | with_reducible apply only_step (State.setB_only ..)
    | refine fun _ => ?_ | refine fun _ _ => ?_ | dsimp only | with_reducible apply only_perf
    | (constructor; intro p hp; cases p <;> first | rfl | exact absurd (by decide) hp)

theorem State.pcWrite_only (s : State) (key : Nat) : OnlyChanges [.regs, .perf] s (s.pcWrite key) := by
  unfold State.pcWrite
  repeat' first
    | with_reducible exact only_refl _ _ | decide | assumption | with_reducible apply only_step (State.pcKey_only ..)
    | with_reducible apply only_ite | refine fun _ => ?_ | refine fun _ _ => ?_ | dsimp only

theorem State.syncPwr_only (s : State) : OnlyChanges [.regs] s (s.syncPwr) := by
  unfold State.syncPwr
  repeat' first
    | with_reducible exact only_refl _ _ | decide | assumption | with_reducible apply only_step (State.setB_only ..)
    | with_reducible apply only_step (State.setF_only ..) | with_reducible apply only_pair
    | (refine only_of_pair (by assumption) ?_) | (refine only_of_fst (by assumption) ?_) | refine fun _ => ?_
    | refine fun _ _ => ?_ | dsimp only | split

theorem State.putRequest_only (s : State) (r : PwrReq) : OnlyChanges [.regs, .pwr] s (s.putRequest r) := by
  unfold State.putRequest
  repeat' first
    | with_reducible exact only_refl _ _ | decide | assumption
    | with_reducible apply only_step (State.updPwr_only ..) | with_reducible apply only_step (State.syncPwr_only ..)
    | refine fun _ => ?_ | refine fun _ _ => ?_ | dsimp only

theorem State.latchWake_only (s : State) (src ch : Nat) : OnlyChanges [.regs, .pwr] s (s.latchWake src ch) := by
  unfold State.latchWake
  repeat' first
    | with_reducible exact only_refl _ _ | decide | assumption | with_reducible apply only_step (State.setF_only ..)
    | with_reducible apply only_step (State.updPwr_only ..) | with_reducible apply only_ite | refine fun _ => ?_
    | refine fun _ _ => ?_ | dsimp only

theorem State.wakeHost_only (s : State) (level : Nat) : OnlyChanges [.regs, .pwr] s (s.wakeHost level) := by
  unfold State.wakeHost
  repeat' first
    | with_reducible exact only_refl _ _ | decide | assumption
    | with_reducible apply only_step (State.putRequest_only ..)
    | with_reducible apply only_step (State.latchWake_only ..)
    | with_reducible apply only_step (State.updPwr_only ..) | with_reducible apply only_step (State.syncPwr_only ..)
    | with_reducible apply only_ite | refine fun _ => ?_ | refine fun _ _ => ?_ | dsimp only

theorem State.powerRequest_only (s : State) (v : Word) : OnlyChanges [.regs, .pwr] s (s.powerRequest v) := by
  unfold State.powerRequest
  repeat' first
    | with_reducible exact only_refl _ _ | decide | assumption
    | with_reducible apply only_step (State.setReg_only ..)
    | with_reducible apply only_step (State.putRequest_only ..)
    | with_reducible apply only_step (State.wakeHost_only ..) | with_reducible apply only_ite | refine fun _ => ?_
    | refine fun _ _ => ?_ | dsimp only

theorem State.recfgCancel_only (s : State) :
    OnlyChanges [.regs, .env, .fc, .pipe, .halves, .pairs, .recfg, .yk] s (s.recfgCancel) := by
  unfold State.recfgCancel
  repeat' first
    | with_reducible exact only_refl _ _ | decide | assumption
    | with_reducible apply only_step (State.endRecfg_only ..) | with_reducible apply only_ite | refine fun _ => ?_
    | refine fun _ _ => ?_ | dsimp only

theorem State.passSet_only (s : State) (length : Nat) : OnlyChanges [.yk] s (s.passSet length) := by
  unfold State.passSet
  repeat' first
    | with_reducible exact only_refl _ _ | decide | assumption | with_reducible apply only_step (State.updYk_only ..)
    | with_reducible apply only_ite | refine fun _ => ?_ | refine fun _ _ => ?_ | dsimp only

theorem State.rejectCommit_only (s : State) (reason : Nat) :
    OnlyChanges [.regs, .env, .fc, .pipe, .halves, .pairs, .recfg, .yk] s (s.rejectCommit reason) := by
  unfold State.rejectCommit
  repeat' first
    | with_reducible exact only_refl _ _ | decide | assumption | with_reducible apply only_step (State.setF_only ..)
    | with_reducible apply only_step (State.raiseCore_only ..) | with_reducible apply only_ite | refine fun _ => ?_
    | refine fun _ _ => ?_ | dsimp only | with_reducible apply only_recfg
    | (constructor; intro p hp; cases p <;> first | rfl | exact absurd (by decide) hp)

theorem State.recfgCommit_only (s : State) (length : Nat) :
    OnlyChanges [.regs, .env, .fc, .pipe, .halves, .pairs, .recfg, .yk] s (s.recfgCommit length) := by
  unfold State.recfgCommit
  repeat' first
    | with_reducible exact only_refl _ _ | decide | assumption | with_reducible apply only_step (State.setF_only ..)
    | with_reducible apply only_step (State.passSet_only ..)
    | with_reducible apply only_step (State.rejectCommit_only ..) | with_reducible apply only_ite
    | refine fun _ => ?_ | refine fun _ _ => ?_ | dsimp only | with_reducible apply only_recfg
    | (constructor; intro p hp; cases p <;> first | rfl | exact absurd (by decide) hp)

theorem State.scanKey_only (s : State) (u : UnitIx) : OnlyChanges [.regs, .pipe, .cvu] s (s.scanKey u) := by
  unfold State.scanKey
  repeat' first
    | with_reducible exact only_refl _ _ | decide | assumption
    | with_reducible apply only_step (State.unstamped_only ..)
    | with_reducible apply only_step (State.updUnit_only ..) | with_reducible apply only_step (State.addF_only ..)
    | with_reducible apply only_ite | refine fun _ => ?_ | refine fun _ _ => ?_ | dsimp only

theorem State.unsync_only (s : State) (u : UnitIx) : OnlyChanges [.regs] s (s.unsync u) := by
  unfold State.unsync
  repeat' first
    | with_reducible exact only_refl _ _ | decide | assumption | with_reducible apply only_step (State.setB_only ..)
    | with_reducible apply only_step (State.setReg_only ..) | with_reducible apply only_step (State.setF_only ..)
    | refine fun _ => ?_ | refine fun _ _ => ?_ | dsimp only

theorem State.sessionWrite_only (s : State) (u : UnitIx) (id : Word) (isSealed : Bool) :
    OnlyChanges [.regs] s (s.sessionWrite u id isSealed) := by
  unfold State.sessionWrite
  repeat' first
    | with_reducible exact only_refl _ _ | decide | assumption
    | with_reducible apply only_step (State.setReg_only ..) | with_reducible apply only_step (State.unsync_only ..)
    | with_reducible apply only_ite | refine fun _ => ?_ | refine fun _ _ => ?_ | dsimp only

theorem State.updWdg_only (s : State) (f : Wdg → Wdg) : OnlyChanges [.wdg] s (s.updWdg f) := by
  unfold State.updWdg
  repeat' first
    | with_reducible exact only_refl _ _ | decide | assumption | refine fun _ => ?_ | refine fun _ _ => ?_
    | dsimp only | with_reducible apply only_wdg
    | (constructor; intro p hp; cases p <;> first | rfl | exact absurd (by decide) hp)

theorem State.wdgFault_only (s : State) (f : Fld) (kind lo : Nat) :
    OnlyChanges [.regs, .env, .fc, .pipe, .halves, .pairs, .recfg, .yk] s (s.wdgFault f kind lo) := by
  unfold State.wdgFault
  repeat' first
    | with_reducible exact only_refl _ _ | decide | assumption | with_reducible apply only_step (State.raise_only ..)
    | with_reducible apply only_step (State.addF_only ..) | refine fun _ => ?_ | refine fun _ _ => ?_ | dsimp only

theorem State.wdgKeyFault_only (s : State) (reason : Nat) :
    OnlyChanges [.regs, .env, .fc, .pipe, .halves, .pairs, .recfg, .yk] s (s.wdgKeyFault reason) := by
  unfold State.wdgKeyFault
  repeat' first
    | with_reducible exact only_refl _ _ | decide | assumption
    | with_reducible apply only_step (State.wdgFault_only ..) | refine fun _ => ?_ | refine fun _ _ => ?_
    | dsimp only

theorem State.wdgDisable_only (s : State) :
    OnlyChanges [.regs, .env, .fc, .wdg, .pipe, .halves, .pairs, .recfg, .yk] s (s.wdgDisable) := by
  unfold State.wdgDisable
  repeat' first
    | with_reducible exact only_refl _ _ | decide | assumption | with_reducible apply only_step (State.setB_only ..)
    | with_reducible apply only_step (State.wdgKeyFault_only ..)
    | with_reducible apply only_step (State.updWdg_only ..)
    | with_reducible apply only_step (State.unstamped_only ..) | with_reducible apply only_ite
    | with_reducible apply only_pair | (refine only_of_pair (by assumption) ?_)
    | (refine only_of_fst (by assumption) ?_) | refine fun _ => ?_ | refine fun _ _ => ?_ | dsimp only | split

theorem State.breakSequence_only (s : State) :
    OnlyChanges [.regs, .env, .fc, .wdg, .pipe, .halves, .pairs, .recfg, .yk] s (s.breakSequence) := by
  unfold State.breakSequence
  repeat' first
    | with_reducible exact only_refl _ _ | decide | assumption | with_reducible apply only_step (State.setB_only ..)
    | with_reducible apply only_step (State.wdgKeyFault_only ..)
    | with_reducible apply only_step (State.updWdg_only ..) | with_reducible apply only_ite | refine fun _ => ?_
    | refine fun _ _ => ?_ | dsimp only

theorem State.wdgEnable_only (s : State) :
    OnlyChanges [.regs, .env, .fc, .wdg, .pipe, .halves, .pairs, .recfg, .yk] s (s.wdgEnable) := by
  unfold State.wdgEnable
  repeat' first
    | with_reducible exact only_refl _ _ | decide | assumption
    | with_reducible apply only_step (State.updWdg_only ..)
    | with_reducible apply only_step (State.breakSequence_only ..)
    | with_reducible apply only_step (State.unstamped_only ..) | refine fun _ => ?_ | refine fun _ _ => ?_
    | dsimp only

theorem State.wdgLock_only (s : State) :
    OnlyChanges [.regs, .env, .fc, .wdg, .pipe, .halves, .pairs, .recfg, .yk] s (s.wdgLock) := by
  unfold State.wdgLock
  repeat' first
    | with_reducible exact only_refl _ _ | decide | assumption | with_reducible apply only_step (State.setB_only ..)
    | with_reducible apply only_step (State.updWdg_only ..)
    | with_reducible apply only_step (State.breakSequence_only ..)
    | with_reducible apply only_step (State.unstamped_only ..) | refine fun _ => ?_ | refine fun _ _ => ?_
    | dsimp only

theorem State.wdgOther_only (s : State) :
    OnlyChanges [.regs, .env, .fc, .wdg, .pipe, .halves, .pairs, .recfg, .yk] s (s.wdgOther) := by
  unfold State.wdgOther
  repeat' first
    | with_reducible exact only_refl _ _ | decide | assumption
    | with_reducible apply only_step (State.wdgKeyFault_only ..)
    | with_reducible apply only_step (State.breakSequence_only ..) | refine fun _ => ?_ | refine fun _ _ => ?_
    | dsimp only

theorem only_wdgSealed {ps : List Part} {s0 : State} (s : State) (isSealed : Bool) (f : State → State)
    (k : Part.sub [.regs, .env, .fc, .pipe, .halves, .pairs, .recfg, .yk] ps = true) (H : ∀ u, OnlyChanges ps u (f u)) (h0 : OnlyChanges ps s0 s) :
    OnlyChanges ps s0 (s.wdgSealed isSealed f) := by
  have H2 : ∀ s u, OnlyChanges ps s u → OnlyChanges ps s (f u) :=
    fun _ u h => only_trans h (H u)
  unfold State.wdgSealed
  repeat' first
    | with_reducible exact only_refl _ _ | exact Part.sub_trans (by decide) k | assumption | with_reducible apply H2
    | with_reducible apply only_step (State.wdgKeyFault_only ..) | with_reducible apply only_ite | refine fun _ => ?_
    | refine fun _ _ => ?_ | dsimp only

theorem State.wdgEarly_only (s : State) :
    OnlyChanges [.regs, .env, .fc, .pipe, .halves, .pairs, .recfg, .yk] s (s.wdgEarly) := by
  unfold State.wdgEarly
  repeat' first
    | with_reducible exact only_refl _ _ | decide | assumption
    | with_reducible apply only_step (State.wdgFault_only ..) | refine fun _ => ?_ | refine fun _ _ => ?_
    | dsimp only

theorem State.wdgJudge_only (s : State) :
    OnlyChanges [.regs, .env, .fc, .pipe, .halves, .pairs, .recfg, .yk] s (s.wdgJudge) := by
  unfold State.wdgJudge
  repeat' first
    | with_reducible exact only_refl _ _ | decide | assumption | with_reducible apply only_step (State.setB_only ..)
    | with_reducible apply only_step (State.setReg_only ..) | with_reducible apply only_step (State.wdgEarly_only ..)
    | with_reducible apply only_ite | with_reducible apply only_pair | (refine only_of_pair (by assumption) ?_)
    | (refine only_of_fst (by assumption) ?_) | refine fun _ => ?_ | refine fun _ _ => ?_ | dsimp only | split

theorem State.wdgService_only (s : State) :
    OnlyChanges [.regs, .env, .fc, .wdg, .pipe, .halves, .pairs, .recfg, .yk] s (s.wdgService) := by
  unfold State.wdgService
  repeat' first
    | with_reducible exact only_refl _ _ | decide | assumption
    | with_reducible apply only_step (State.breakSequence_only ..)
    | with_reducible apply only_step (State.wdgJudge_only ..) | refine fun _ => ?_ | refine fun _ _ => ?_
    | dsimp only

theorem State.wdgStart_only (s : State) :
    OnlyChanges [.regs, .env, .fc, .wdg, .pipe, .halves, .pairs, .recfg, .yk] s (s.wdgStart) := by
  unfold State.wdgStart
  repeat' first
    | with_reducible exact only_refl _ _ | decide | assumption | with_reducible apply only_step (State.setB_only ..)
    | with_reducible apply only_step (State.updWdg_only ..)
    | with_reducible apply only_step (State.breakSequence_only ..) | refine fun _ => ?_ | refine fun _ _ => ?_
    | dsimp only

theorem State.wdgKick_only (s : State) (w : Nat) (isSealed : Bool) :
    OnlyChanges [.regs, .env, .fc, .wdg, .pipe, .halves, .pairs, .recfg, .yk] s (s.wdgKick w isSealed) := by
  unfold State.wdgKick
  repeat' first
    | with_reducible exact only_refl _ _ | decide | assumption
    | with_reducible apply only_step (State.wdgOther_only ..) | with_reducible apply only_wdgSealed
    | with_reducible apply only_step (State.wdgLock_only ..)
    | with_reducible apply only_step (State.wdgEnable_only ..)
    | with_reducible apply only_step (State.wdgStart_only ..)
    | with_reducible apply only_step (State.wdgService_only ..)
    | with_reducible apply only_step (State.wdgDisable_only ..) | with_reducible apply only_ite | refine fun _ => ?_
    | refine fun _ _ => ?_ | dsimp only

theorem State.writeHpCfg_only (s : State) (v : Word) : OnlyChanges [.regs] s (s.writeHpCfg v) := by
  unfold State.writeHpCfg
  repeat' first
    | with_reducible exact only_refl _ _ | decide | assumption | with_reducible apply only_step (State.setF_only ..)
    | with_reducible apply only_ite | refine fun _ => ?_ | refine fun _ _ => ?_ | dsimp only

theorem State.writeSyncCtrl_only (s : State) (v : Word) : OnlyChanges [.regs] s (s.writeSyncCtrl v) := by
  unfold State.writeSyncCtrl
  repeat' first
    | with_reducible exact only_refl _ _ | decide | assumption
    | with_reducible apply only_step (State.setReg_only ..) | refine fun _ => ?_ | refine fun _ _ => ?_ | dsimp only

theorem State.writeWinSel_only (s : State) (v : Word) : OnlyChanges [.regs] s (s.writeWinSel v) := by
  unfold State.writeWinSel
  repeat' first
    | with_reducible exact only_refl _ _ | decide | assumption
    | with_reducible apply only_step (State.setReg_only ..) | with_reducible apply only_ite | refine fun _ => ?_
    | refine fun _ _ => ?_ | dsimp only

theorem State.actLow_only (s : State) (isSealed : Bool) (a : Nat) (v : Word) (t : State)
    (e : s.actLow isSealed a v = some t) :
    OnlyChanges [.regs, .sig, .env, .fc, .wdg, .pipe, .halves, .pairs, .boot, .recfg, .cvu, .pwr, .yk, .perf] s t := by
  revert t
  unfold State.actLow
  repeat' first
    | with_reducible exact opt_none | with_reducible refine opt_ite ?_ ?_ | with_reducible refine opt_some ?_
    | (dsimp only; refine opt_ite ?_ ?_)
    | with_reducible exact only_refl _ _ | decide | assumption
    | with_reducible apply only_step (State.writeHpCfg_only ..)
    | with_reducible apply only_step (State.writeWinSel_only ..)
    | with_reducible apply only_step (State.setReg_only ..)
    | with_reducible apply only_step (State.injectKey_only ..)
    | with_reducible apply only_step (State.pcWrite_only ..) | with_reducible apply only_step (State.wdgKick_only ..)
    | with_reducible apply only_step (State.armRequest_only ..)
    | with_reducible apply only_step (State.recfgCancel_only ..)
    | with_reducible apply only_step (State.bootKey_only ..)
    | with_reducible apply only_step (State.commission_only ..)
    | with_reducible apply only_step (State.writeSyncCtrl_only ..)
    | with_reducible apply only_step (State.sessionWrite_only ..)
    | with_reducible apply only_step (State.recfgCommit_only ..)
    | with_reducible apply only_step (State.powerRequest_only ..)
    | with_reducible apply only_step (State.scanKey_only ..)
    | with_reducible apply only_step (State.joinRetry_only ..)
    | with_reducible apply only_step (State.clearReq_only ..) | with_reducible apply only_ite | refine fun _ => ?_
    | refine fun _ _ => ?_ | dsimp only

theorem State.actWrite_only (s : State) (isSealed : Bool) (a : Nat) (v : Word) (t : State)
    (e : s.actWrite isSealed a v = some t) :
    OnlyChanges [.regs, .mem, .sig, .env, .fc, .wdg, .pipe, .chans, .halves, .pairs, .cribs, .boot, .recfg, .cvu, .sr, .pwr, .yk, .perf, .free] s t := by
  revert t
  unfold State.actWrite
  repeat' first
    | with_reducible exact opt_none | with_reducible refine opt_ite ?_ ?_ | with_reducible refine opt_some ?_
    | (dsimp only; refine opt_ite ?_ ?_)
    | with_reducible exact only_refl _ _ | decide | assumption
    | (refine only_step (State.actLow_only _ _ _ _ _ (by assumption)) ?_ ?_)
    | (refine only_step (State.actHigh_only _ _ _ _ (by assumption)) ?_ ?_) | with_reducible apply only_ite
    | refine fun _ => ?_ | refine fun _ _ => ?_ | dsimp only

theorem State.plainWrite_only (s : State) (r : RegRow) (a : Nat) (v : Word) :
    OnlyChanges [.regs] s (s.plainWrite r a v) := by
  unfold State.plainWrite
  repeat' first
    | with_reducible exact only_refl _ _ | decide | assumption
    | with_reducible apply only_step (State.setReg_only ..) | refine fun _ => ?_ | refine fun _ _ => ?_ | dsimp only

theorem State.regWrite_only (s : State) (isSealed : Bool) (r : RegRow) (a : Nat) (v : Word) :
    OnlyChanges [.regs, .mem, .sig, .env, .fc, .wdg, .pipe, .chans, .halves, .pairs, .cribs, .boot, .recfg, .cvu, .sr, .pwr, .yk, .perf, .free] s (s.regWrite isSealed r a v) := by
  unfold State.regWrite
  repeat' first
    | with_reducible exact only_refl _ _ | decide | assumption
    | with_reducible apply only_step (State.plainWrite_only ..)
    | (refine only_step (State.actWrite_only _ _ _ _ _ (by assumption)) ?_ ?_) | with_reducible apply only_pair
    | (refine only_of_pair (by assumption) ?_) | (refine only_of_fst (by assumption) ?_) | refine fun _ => ?_
    | refine fun _ _ => ?_ | dsimp only | split

theorem State.hostWrite_only (s : State) (isSealed : Bool) (a : Nat) (v : Word) :
    OnlyChanges [.regs, .mem, .sig, .env, .fc, .wdg, .pipe, .chans, .halves, .pairs, .cribs, .boot, .recfg, .cvu, .sr, .pwr, .yk, .perf, .free] s (s.hostWrite isSealed a v).2 := by
  unfold State.hostWrite
  repeat' first
    | with_reducible exact only_refl _ _ | decide | assumption
    | with_reducible apply only_step (State.writeMem_only ..) | with_reducible apply only_step (State.updYk_only ..)
    | with_reducible apply only_step (State.regWrite_only ..)
    | with_reducible apply only_step (State.unstamped_only ..)
    | with_reducible apply only_step (State.hostValue_only ..) | with_reducible apply only_ite
    | with_reducible apply only_pair | (refine only_of_pair (by assumption) ?_)
    | (refine only_of_fst (by assumption) ?_) | refine fun _ => ?_ | refine fun _ _ => ?_ | dsimp only | split

theorem State.refuseDebug_only (s : State) (n : Nat) :
    OnlyChanges [.regs, .env, .fc, .pipe, .halves, .pairs, .recfg, .yk] s (s.refuseDebug n) := by
  unfold State.refuseDebug
  repeat' first
    | with_reducible exact only_refl _ _ | decide | assumption | with_reducible apply only_step (State.raise_only ..)
    | with_reducible apply only_ite | refine fun _ => ?_ | refine fun _ _ => ?_ | dsimp only

theorem State.applyForwarded_only (s : State) (x : Nat × Word × Bool) :
    OnlyChanges [.regs, .mem, .sig, .env, .fc, .wdg, .pipe, .chans, .halves, .pairs, .cribs, .boot, .recfg, .cvu, .sr, .pwr, .yk, .perf, .free] s (s.applyForwarded x) := by
  unfold State.applyForwarded
  repeat' first
    | with_reducible exact only_refl _ _ | decide | assumption
    | with_reducible apply only_step (State.refuseDebug_only ..)
    | with_reducible apply only_step (State.setReg_only ..)
    | with_reducible apply only_step (State.hostWrite_only ..) | with_reducible apply only_ite
    | with_reducible apply only_pair | (refine only_of_pair (by assumption) ?_)
    | (refine only_of_fst (by assumption) ?_) | refine fun _ => ?_ | refine fun _ _ => ?_ | dsimp only | split

theorem State.lateAtTarget_only (s : State) (late : Bool) : OnlyChanges [.sig] s (s.lateAtTarget late) := by
  unfold State.lateAtTarget
  repeat' first
    | with_reducible exact only_refl _ _ | decide | assumption | with_reducible apply only_ite
    | with_reducible apply only_pair | (refine only_of_pair (by assumption) ?_)
    | (refine only_of_fst (by assumption) ?_) | refine fun _ => ?_ | refine fun _ _ => ?_ | dsimp only | split
    | with_reducible apply only_sig
    | (constructor; intro p hp; cases p <;> first | rfl | exact absurd (by decide) hp)

theorem State.boundaryCause_only (s : State) (c : Nat) : OnlyChanges [.sig, .pipe] s (s.boundaryCause c) := by
  unfold State.boundaryCause
  repeat' first
    | with_reducible exact only_refl _ _ | decide | assumption
    | with_reducible apply only_step (State.lateAtTarget_only ..)
    | with_reducible apply only_step (State.causeNow_only ..) | with_reducible apply only_ite | refine fun _ => ?_
    | refine fun _ _ => ?_ | dsimp only | with_reducible apply only_sig_pipe
    | (constructor; intro p hp; cases p <;> first | rfl | exact absurd (by decide) hp)

theorem State.forwarded_only (s : State) :
    OnlyChanges [.regs, .mem, .sig, .env, .fc, .wdg, .pipe, .chans, .halves, .pairs, .cribs, .boot, .recfg, .cvu, .sr, .pwr, .yk, .perf, .free] s (s.forwarded) := by
  unfold State.forwarded
  repeat' first
    | with_reducible exact only_refl _ _ | decide | assumption
    | with_reducible apply only_step (State.applyForwarded_only ..)
    | with_reducible apply only_step (State.boundaryCause_only ..)
    | with_reducible apply only_step (State.updYk_only ..) | with_reducible apply only_foldl
    | with_reducible apply only_ite | refine fun _ => ?_ | refine fun _ _ => ?_ | dsimp only
    | with_reducible apply only_pipe
    | (constructor; intro p hp; cases p <;> first | rfl | exact absurd (by decide) hp)

theorem State.confirmPair_only (s : State) (p : Nat) (late : Bool) : OnlyChanges [.sig] s (s.confirmPair p late) := by
  unfold State.confirmPair
  repeat' first
    | with_reducible exact only_refl _ _ | decide | assumption | with_reducible apply only_ite
    | with_reducible apply only_pair | (refine only_of_pair (by assumption) ?_)
    | (refine only_of_fst (by assumption) ?_) | refine fun _ => ?_ | refine fun _ _ => ?_ | dsimp only | split
    | with_reducible apply only_sig
    | (constructor; intro p hp; cases p <;> first | rfl | exact absurd (by decide) hp)

theorem State.rollFault_only (s : State) (p kind : Nat) (w : Word) :
    OnlyChanges [.regs, .env, .fc, .pipe, .halves, .pairs, .recfg, .yk] s (s.rollFault p kind w) := by
  unfold State.rollFault
  repeat' first
    | with_reducible exact only_refl _ _ | decide | assumption
    | with_reducible apply only_step (State.raiseOnce_only ..) | with_reducible apply only_pair
    | (refine only_of_pair (by assumption) ?_) | (refine only_of_fst (by assumption) ?_) | refine fun _ => ?_
    | refine fun _ _ => ?_ | dsimp only | split

theorem State.rollCall_only (s : State) (p : PairIx) (checkins dups : Word) :
    OnlyChanges [.regs, .env, .fc, .pipe, .halves, .pairs, .recfg, .yk] s (s.rollCall p checkins dups) := by
  unfold State.rollCall
  repeat' first
    | with_reducible exact only_refl _ _ | decide | assumption
    | with_reducible apply only_step (State.setReg_only ..) | with_reducible apply only_step (State.orF_only ..)
    | with_reducible apply only_step (State.setF_only ..) | with_reducible apply only_step (State.rollFault_only ..)
    | with_reducible apply only_step (State.addF_only ..) | with_reducible apply only_ite | refine fun _ => ?_
    | refine fun _ _ => ?_ | dsimp only

theorem State.judgeRoll_only (s : State) (p : PairIx) (armed : Bool) (checkins dups : Word) :
    OnlyChanges [.regs, .env, .fc, .pipe, .halves, .pairs, .recfg, .yk] s (s.judgeRoll p armed checkins dups) := by
  unfold State.judgeRoll
  repeat' first
    | with_reducible exact only_refl _ _ | decide | assumption | with_reducible apply only_step (State.setF_only ..)
    | with_reducible apply only_step (State.updPair_only ..)
    | with_reducible apply only_step (State.freezeRoll_only ..)
    | with_reducible apply only_step (State.rollCall_only ..) | with_reducible apply only_ite
    | with_reducible apply only_pair | (refine only_of_pair (by assumption) ?_)
    | (refine only_of_fst (by assumption) ?_) | refine fun _ => ?_ | refine fun _ _ => ?_ | dsimp only | split

theorem State.payOwed_only (s : State) (p : PairIx) :
    OnlyChanges [.regs, .env, .fc, .pipe, .halves, .pairs, .recfg, .yk] s (s.payOwed p) := by
  unfold State.payOwed
  repeat' first
    | with_reducible exact only_refl _ _ | decide | assumption
    | with_reducible apply only_step (State.raiseOnce_only ..) | with_reducible apply only_step (State.raise_only ..)
    | with_reducible apply only_step (State.updPair_only ..) | with_reducible apply only_foldl
    | with_reducible apply only_ite | with_reducible apply only_dite | refine fun _ => ?_ | refine fun _ _ => ?_
    | dsimp only

theorem State.pcCommitted_only (s : State) (p : Nat) (x : Slots) (reeval : Bool) :
    OnlyChanges [.regs] s (s.pcCommitted p x reeval) := by
  unfold State.pcCommitted
  repeat' first
    | with_reducible exact only_refl _ _ | decide | assumption
    | with_reducible apply only_step (State.pcTake_only ..)
    | with_reducible apply only_step (State.pcPairHeld_only ..) | with_reducible apply only_ite | refine fun _ => ?_
    | refine fun _ _ => ?_ | dsimp only

theorem State.applyCommit_only (s : State) (p : PairIx) (late armed : Bool) :
    OnlyChanges [.regs, .mem, .sig, .env, .fc, .pipe, .halves, .pairs, .cribs, .recfg, .yk] s (s.applyCommit p late armed) := by
  unfold State.applyCommit
  repeat' first
    | with_reducible exact only_refl _ _ | decide | assumption
    | with_reducible apply only_step (State.payOwed_only ..) | with_reducible apply only_step (State.cutWork_only ..)
    | with_reducible apply only_step (State.pcCommitted_only ..) | with_reducible apply only_whenB
    | with_reducible apply only_step (State.publish_only ..) | with_reducible apply only_step (State.raise_only ..)
    | with_reducible apply only_step (State.judgeRoll_only ..)
    | with_reducible apply only_step (State.updPair_only ..)
    | with_reducible apply only_step (State.confirmPair_only ..)
    | with_reducible apply only_step (State.addF_only ..) | with_reducible apply only_foldl
    | with_reducible apply only_ite | with_reducible apply only_pair | (refine only_of_pair (by assumption) ?_)
    | (refine only_of_fst (by assumption) ?_) | refine fun _ => ?_ | refine fun _ _ => ?_ | dsimp only | split

theorem State.applyDebug_only (s : State) (p : PairIx) : OnlyChanges [.regs, .pairs] s (s.applyDebug p) := by
  unfold State.applyDebug
  repeat' first
    | with_reducible exact only_refl _ _ | decide | assumption | with_reducible apply only_step (State.setB_only ..)
    | with_reducible apply only_step (State.setF_only ..) | with_reducible apply only_step (State.updPair_only ..)
    | with_reducible apply only_step (State.haltNow_only ..) | with_reducible apply only_ite
    | with_reducible apply only_pair | (refine only_of_pair (by assumption) ?_)
    | (refine only_of_fst (by assumption) ?_) | refine fun _ => ?_ | refine fun _ _ => ?_ | dsimp only | split

theorem State.staleDerived_only (s : State) (p : PairIx) : OnlyChanges [.sig] s (s.staleDerived p) := by
  unfold State.staleDerived
  repeat' first
    | with_reducible exact only_refl _ _ | decide | assumption | with_reducible apply only_ite | refine fun _ => ?_
    | refine fun _ _ => ?_ | dsimp only | with_reducible apply only_sig
    | (constructor; intro p hp; cases p <;> first | rfl | exact absurd (by decide) hp)

theorem State.commits_only (s : State) (late armed : Bool) :
    OnlyChanges [.regs, .mem, .sig, .env, .fc, .pipe, .halves, .pairs, .cribs, .recfg, .yk, .forces, .forceNext] s (s.commits late armed) := by
  unfold State.commits
  repeat' first
    | with_reducible exact only_refl _ _ | decide | assumption
    | with_reducible apply only_step (State.staleDerived_only ..)
    | with_reducible apply only_step (State.applyForces_only ..)
    | with_reducible apply only_step (State.applyCommit_only ..)
    | with_reducible apply only_step (State.applyDebug_only ..) | with_reducible apply only_foldl
    | refine fun _ => ?_ | refine fun _ _ => ?_ | dsimp only | with_reducible apply only_forces_forceNext
    | (constructor; intro p hp; cases p <;> first | rfl | exact absurd (by decide) hp)

theorem State.applyClear_only (s : State) : OnlyChanges [.regs, .fc] s (s.applyClear) := by
  unfold State.applyClear
  repeat' first
    | with_reducible exact only_refl _ _ | decide | assumption
    | with_reducible apply only_step (State.setReg_only ..) | with_reducible apply only_step (State.syncFc_only ..)
    | with_reducible apply only_ite | with_reducible apply only_pair | (refine only_of_pair (by assumption) ?_)
    | (refine only_of_fst (by assumption) ?_) | refine fun _ => ?_ | refine fun _ _ => ?_ | dsimp only | split
    | with_reducible apply only_fc | (constructor; intro p hp; cases p <;> first | rfl | exact absurd (by decide) hp)

theorem State.applyInject_only (s : State) :
    OnlyChanges [.regs, .env, .fc, .pipe, .halves, .pairs, .recfg, .yk] s (s.applyInject) := by
  unfold State.applyInject
  repeat' first
    | with_reducible exact only_refl _ _ | decide | assumption | with_reducible apply only_step (State.setF_only ..)
    | with_reducible apply only_step (State.raiseByRule_only ..) | with_reducible apply only_pair
    | (refine only_of_pair (by assumption) ?_) | (refine only_of_fst (by assumption) ?_) | refine fun _ => ?_
    | refine fun _ _ => ?_ | dsimp only | split | with_reducible apply only_fc
    | (constructor; intro p hp; cases p <;> first | rfl | exact absurd (by decide) hp)

theorem State.retireSlot_only (s : State) (k : Fin 32) : OnlyChanges [.sr] s (s.retireSlot k) := by
  unfold State.retireSlot
  repeat' first
    | with_reducible exact only_refl _ _ | decide | assumption | with_reducible apply only_step (State.updSr_only ..)
    | with_reducible apply only_step (State.updSlot_only ..) | with_reducible apply only_step (State.journal_only ..)
    | with_reducible apply only_whenB | with_reducible apply only_ite | refine fun _ => ?_ | refine fun _ _ => ?_
    | dsimp only

theorem State.applySlotOp_only (s : State) (o : SlotOp) : OnlyChanges [.sr] s (s.applySlotOp o) := by
  unfold State.applySlotOp
  repeat' first
    | with_reducible exact only_refl _ _ | decide | assumption
    | with_reducible apply only_step (State.updSlot_only ..) | with_reducible apply only_step (State.journal_only ..)
    | with_reducible apply only_step (State.retireSlot_only ..) | with_reducible apply only_ite
    | with_reducible apply only_pair | (refine only_of_pair (by assumption) ?_)
    | (refine only_of_fst (by assumption) ?_) | refine fun _ => ?_ | refine fun _ _ => ?_ | dsimp only | split

end Sys2Proof.Machine
end

