-- ==== Sys2Proof/Laws/FramesD.lean ====
section
/-!
SUPPORT. Laws/FramesD.lean: what each shared operation and each effect may change of the state: one lemma per definition
(part 4 of 5, in the order in which they use one another).
-/
namespace Sys2Proof.Machine

theorem State.applySlotOps_only (s : State) : OnlyChanges [.regs, .sr] s (s.applySlotOps) := by
  unfold State.applySlotOps
  repeat' first
    | with_reducible exact only_refl _ _ | decide | assumption | with_reducible apply only_step (State.updSr_only ..)
    | with_reducible apply only_step (State.applySlotOp_only ..)
    | with_reducible apply only_step (State.noteBase_only ..) | with_reducible apply only_step (State.syncSr_only ..)
    | with_reducible apply only_foldl | with_reducible apply only_ite | refine fun _ => ?_ | refine fun _ _ => ?_
    | dsimp only

theorem State.eraseBlock_only (s : State) (b : JBlock) :
    OnlyChanges [.regs, .env, .fc, .pipe, .halves, .pairs, .recfg, .sr, .yk] s (s.eraseBlock b) := by
  unfold State.eraseBlock
  repeat' first
    | with_reducible exact only_refl _ _ | decide | assumption | with_reducible apply only_step (State.updSr_only ..)
    | with_reducible apply only_step (State.journalFail_only ..) | with_reducible apply only_ite | refine fun _ => ?_
    | refine fun _ _ => ?_ | dsimp only

theorem State.eraseAhead_only (s : State) (b : JBlock) :
    OnlyChanges [.regs, .env, .fc, .pipe, .halves, .pairs, .recfg, .sr, .yk] s (s.eraseAhead b) := by
  unfold State.eraseAhead
  repeat' first
    | with_reducible exact only_refl _ _ | decide | assumption
    | with_reducible apply only_step (State.eraseBlock_only ..) | with_reducible apply only_foldl
    | refine fun _ => ?_ | refine fun _ _ => ?_ | dsimp only

theorem State.updBlock_only (s : State) (seq : Nat) (f : JBlock → JBlock) :
    OnlyChanges [.sr] s (s.updBlock seq f) := by
  unfold State.updBlock
  repeat' first
    | with_reducible exact only_refl _ _ | decide | assumption | with_reducible apply only_step (State.updSr_only ..)
    | with_reducible apply only_ite | refine fun _ => ?_ | refine fun _ _ => ?_ | dsimp only

theorem State.programPage_only (s : State) :
    OnlyChanges [.regs, .env, .fc, .pipe, .halves, .pairs, .recfg, .sr, .yk] s (s.programPage) := by
  unfold State.programPage
  repeat' first
    | with_reducible exact only_refl _ _ | decide | assumption
    | with_reducible apply only_step (State.updBlock_only ..)
    | with_reducible apply only_step (State.eraseAhead_only ..) | with_reducible apply only_ite
    | with_reducible apply only_pair | (refine only_of_pair (by assumption) ?_)
    | (refine only_of_fst (by assumption) ?_) | refine fun _ => ?_ | refine fun _ _ => ?_ | dsimp only | split

theorem State.keepBacklog_only (s : State) :
    OnlyChanges [.regs, .env, .fc, .pipe, .halves, .pairs, .recfg, .sr, .yk] s (s.keepBacklog) := by
  unfold State.keepBacklog
  repeat' first
    | with_reducible exact only_refl _ _ | decide | assumption
    | with_reducible apply only_step (State.programPage_only ..) | with_reducible apply only_ite | refine fun _ => ?_
    | refine fun _ _ => ?_ | dsimp only

theorem State.openBlock_only (s : State) : OnlyChanges [.sr] s (s.openBlock) := by
  unfold State.openBlock
  repeat' first
    | with_reducible exact only_refl _ _ | decide | assumption | with_reducible apply only_step (State.updSr_only ..)
    | with_reducible apply only_ite | with_reducible apply only_pair | (refine only_of_pair (by assumption) ?_)
    | (refine only_of_fst (by assumption) ?_) | refine fun _ => ?_ | refine fun _ _ => ?_ | dsimp only | split

theorem State.addRecord_only (s : State) (subject type flags : Nat) (payload : List Word) :
    OnlyChanges [.regs, .env, .fc, .pipe, .halves, .pairs, .recfg, .sr, .yk] s (s.addRecord subject type flags payload) := by
  unfold State.addRecord
  repeat' first
    | with_reducible exact only_refl _ _ | decide | assumption
    | with_reducible apply only_step (State.setReg_only ..) | with_reducible apply only_step (State.updBlock_only ..)
    | with_reducible apply only_step (State.keepBacklog_only ..)
    | with_reducible apply only_step (State.openBlock_only ..) | with_reducible apply only_ite
    | with_reducible apply only_pair | (refine only_of_pair (by assumption) ?_)
    | (refine only_of_fst (by assumption) ?_) | refine fun _ => ?_ | refine fun _ _ => ?_ | dsimp only | split

theorem State.writeDue_only (s : State) :
    OnlyChanges [.regs, .env, .fc, .pipe, .halves, .pairs, .recfg, .sr, .yk] s (s.writeDue) := by
  unfold State.writeDue
  repeat' first
    | with_reducible exact only_refl _ _ | decide | assumption | with_reducible apply only_step (State.updSr_only ..)
    | with_reducible apply only_step (State.addRecord_only ..) | with_reducible apply only_foldl | refine fun _ => ?_
    | refine fun _ _ => ?_ | dsimp only

theorem State.journalBoundary_only (s : State) :
    OnlyChanges [.regs, .env, .fc, .pipe, .halves, .pairs, .recfg, .sr, .yk] s (s.journalBoundary) := by
  unfold State.journalBoundary
  repeat' first
    | with_reducible exact only_refl _ _ | decide | assumption
    | with_reducible apply only_step (State.programPage_only ..)
    | with_reducible apply only_step (State.writeDue_only ..) | with_reducible apply only_foldl
    | with_reducible apply only_ite | refine fun _ => ?_ | refine fun _ _ => ?_ | dsimp only

theorem State.sheafRequest_only (s : State) (before : Word) :
    OnlyChanges [.regs, .pwr] s (s.sheafRequest before) := by
  unfold State.sheafRequest
  repeat' first
    | with_reducible exact only_refl _ _ | decide | assumption
    | with_reducible apply only_step (State.putRequest_only ..) | with_reducible apply only_ite
    | with_reducible apply only_pair | (refine only_of_pair (by assumption) ?_)
    | (refine only_of_fst (by assumption) ?_) | refine fun _ => ?_ | refine fun _ _ => ?_ | dsimp only | split

theorem State.gleanerStart_only (s : State) : OnlyChanges [.gln] s (s.gleanerStart) := by
  unfold State.gleanerStart
  repeat' first
    | with_reducible exact only_refl _ _ | decide | assumption | refine fun _ => ?_ | refine fun _ _ => ?_
    | dsimp only | with_reducible apply only_gln
    | (constructor; intro p hp; cases p <;> first | rfl | exact absurd (by decide) hp)

theorem State.loseExchange_only (s : State) : OnlyChanges [.yk] s (s.loseExchange) := by
  unfold State.loseExchange
  repeat' first
    | with_reducible exact only_refl _ _ | decide | assumption | with_reducible apply only_step (State.updYk_only ..)
    | refine fun _ => ?_ | refine fun _ _ => ?_ | dsimp only

theorem State.loseLanding_only (s : State) : OnlyChanges [.gln] s (s.loseLanding) := by
  unfold State.loseLanding
  repeat' first
    | with_reducible exact only_refl _ _ | decide | assumption
    | with_reducible apply only_step (State.updSeg_only ..) | with_reducible apply only_foldl | refine fun _ => ?_
    | refine fun _ _ => ?_ | dsimp only

theorem State.loseGranary_only (s : State) :
    OnlyChanges [.regs, .mem, .sig, .chans, .cribs, .sr, .gln, .yk] s (s.loseGranary) := by
  unfold State.loseGranary
  repeat' first
    | with_reducible exact only_refl _ _ | decide | assumption
    | with_reducible apply only_step (State.setReg_only ..) | with_reducible apply only_step (State.syncCrib_only ..)
    | with_reducible apply only_step (State.loseExchange_only ..)
    | with_reducible apply only_step (State.loseLanding_only ..)
    | with_reducible apply only_step (State.dropTrees_only ..)
    | with_reducible apply only_step (State.updCrib_only ..) | with_reducible apply only_foldl
    | with_reducible apply only_ite | refine fun _ => ?_ | refine fun _ _ => ?_ | dsimp only
    | with_reducible apply only_mem | with_reducible apply only_regs_chans | with_reducible apply only_sig
    | (constructor; intro p hp; cases p <;> first | rfl | exact absurd (by decide) hp)

theorem State.restartLoop_only (s : State) : OnlyChanges [.regs, .tb] s (s.restartLoop) := by
  unfold State.restartLoop
  repeat' first
    | with_reducible exact only_refl _ _ | decide | assumption | with_reducible apply only_step (State.setF_only ..)
    | with_reducible apply only_ite | refine fun _ => ?_ | refine fun _ _ => ?_ | dsimp only
    | with_reducible apply only_tb | (constructor; intro p hp; cases p <;> first | rfl | exact absurd (by decide) hp)

theorem State.resumeDormant_only (s : State) :
    OnlyChanges [.regs, .mem, .sig, .tb, .chans, .halves, .cribs, .boot, .sr, .gln, .pwr, .yk] s (s.resumeDormant) := by
  unfold State.resumeDormant
  repeat' first
    | with_reducible exact only_refl _ _ | decide | assumption
    | with_reducible apply only_step (State.restartLoop_only ..)
    | with_reducible apply only_step (State.setF_only ..) | with_reducible apply only_step (State.restartSeq_only ..)
    | with_reducible apply only_step (State.updPwr_only ..)
    | with_reducible apply only_step (State.loseGranary_only ..)
    | with_reducible apply only_step (State.unsync_only ..) | with_reducible apply only_foldl
    | with_reducible apply only_ite | with_reducible apply only_pair | (refine only_of_pair (by assumption) ?_)
    | (refine only_of_fst (by assumption) ?_) | refine fun _ => ?_ | refine fun _ _ => ?_ | dsimp only | split
    | with_reducible apply only_boot
    | (constructor; intro p hp; cases p <;> first | rfl | exact absurd (by decide) hp)

theorem State.resumePairs_only (s : State) : OnlyChanges [.pairs] s (s.resumePairs) := by
  unfold State.resumePairs
  repeat' first
    | with_reducible exact only_refl _ _ | decide | assumption
    | with_reducible apply only_step (State.updPair_only ..) | with_reducible apply only_foldl | refine fun _ => ?_
    | refine fun _ _ => ?_ | dsimp only

theorem State.wakeExit_only (s : State) :
    OnlyChanges [.regs, .mem, .sig, .tb, .chans, .halves, .pairs, .cribs, .boot, .sr, .gln, .pwr, .yk] s (s.wakeExit) := by
  unfold State.wakeExit
  repeat' first
    | with_reducible exact only_refl _ _ | decide | assumption
    | with_reducible apply only_step (State.gleanerStart_only ..)
    | with_reducible apply only_step (State.setF_only ..)
    | with_reducible apply only_step (State.resumePairs_only ..)
    | with_reducible apply only_step (State.updPwr_only ..)
    | with_reducible apply only_step (State.resumeDormant_only ..)
    | with_reducible apply only_step (State.syncPwr_only ..) | with_reducible apply only_ite | refine fun _ => ?_
    | refine fun _ _ => ?_ | dsimp only

theorem State.wdgStop_only (s : State) : OnlyChanges [.regs, .wdg] s (s.wdgStop) := by
  unfold State.wdgStop
  repeat' first
    | with_reducible exact only_refl _ _ | decide | assumption | with_reducible apply only_step (State.setB_only ..)
    | with_reducible apply only_step (State.setF_only ..) | with_reducible apply only_ite | refine fun _ => ?_
    | refine fun _ _ => ?_ | dsimp only | with_reducible apply only_wdg
    | (constructor; intro p hp; cases p <;> first | rfl | exact absurd (by decide) hp)

theorem State.wdgBoundary_only (s : State) : OnlyChanges [.regs, .wdg] s (s.wdgBoundary) := by
  unfold State.wdgBoundary
  repeat' first
    | with_reducible exact only_refl _ _ | decide | assumption | with_reducible apply only_step (State.setB_only ..)
    | with_reducible apply only_step (State.setReg_only ..) | with_reducible apply only_step (State.setF_only ..)
    | with_reducible apply only_step (State.wdgStop_only ..) | with_reducible apply only_step (State.updWdg_only ..)
    | with_reducible apply only_ite | with_reducible apply only_pair | (refine only_of_pair (by assumption) ?_)
    | (refine only_of_fst (by assumption) ?_) | refine fun _ => ?_ | refine fun _ _ => ?_ | dsimp only | split

theorem State.writeBatch_only (s : State) :
    OnlyChanges [.regs, .mem, .env, .fc, .pipe, .halves, .pairs, .cribs, .recfg, .yk] s (s.writeBatch) := by
  unfold State.writeBatch
  repeat' first
    | with_reducible exact only_refl _ _ | decide | assumption
    | with_reducible apply only_step (State.logMsg_only ..) | with_reducible apply only_foldl | refine fun _ => ?_
    | refine fun _ _ => ?_ | dsimp only | with_reducible apply only_fc
    | (constructor; intro p hp; cases p <;> first | rfl | exact absurd (by decide) hp)

theorem State.waiting_only (s : State) (before : Word) :
    OnlyChanges [.regs, .mem, .sig, .env, .tb, .fc, .wdg, .pipe, .chans, .halves, .pairs, .cribs, .boot, .recfg, .sr, .gln, .pwr, .yk] s (s.waiting before) := by
  unfold State.waiting
  repeat' first
    | with_reducible exact only_refl _ _ | decide | assumption | with_reducible apply only_step (State.setF_only ..)
    | with_reducible apply only_step (State.applyClear_only ..)
    | with_reducible apply only_step (State.boundaryCause_only ..)
    | with_reducible apply only_step (State.journalBoundary_only ..)
    | with_reducible apply only_step (State.applyInject_only ..)
    | with_reducible apply only_step (State.wakeExit_only ..)
    | with_reducible apply only_step (State.writeBatch_only ..)
    | with_reducible apply only_step (State.sheafRequest_only ..)
    | with_reducible apply only_step (State.applySlotOps_only ..)
    | with_reducible apply only_step (State.updPwr_only ..)
    | with_reducible apply only_step (State.wdgBoundary_only ..) | with_reducible apply only_ite
    | with_reducible apply only_pair | (refine only_of_pair (by assumption) ?_)
    | (refine only_of_fst (by assumption) ?_) | refine fun _ => ?_ | refine fun _ _ => ?_ | dsimp only | split

theorem State.swathLength_only (s : State) (i : Nat) : OnlyChanges [.tb] s (s.swathLength i).2 := by
  unfold State.swathLength
  repeat' first
    | with_reducible exact only_refl _ _ | decide | assumption | with_reducible apply only_ite
    | with_reducible apply only_pair | (refine only_of_pair (by assumption) ?_)
    | (refine only_of_fst (by assumption) ?_) | refine fun _ => ?_ | refine fun _ _ => ?_ | dsimp only | split
    | with_reducible apply only_tb | (constructor; intro p hp; cases p <;> first | rfl | exact absurd (by decide) hp)

theorem State.fixLength_only (s : State) (phase : Nat) :
    OnlyChanges [.regs, .sig, .env, .tb, .fc, .pipe, .halves, .pairs, .recfg, .yk] s (s.fixLength phase) := by
  unfold State.fixLength
  repeat' first
    | with_reducible exact only_refl _ _ | decide | assumption | with_reducible apply only_step (State.setF_only ..)
    | with_reducible apply only_whenB | with_reducible apply only_step (State.updYk_only ..)
    | with_reducible apply only_step (State.swathLength_only ..)
    | with_reducible apply only_step (State.refuseJoin_only ..) | with_reducible apply only_ite
    | with_reducible apply only_pair | (refine only_of_pair (by assumption) ?_)
    | (refine only_of_fst (by assumption) ?_) | refine fun _ => ?_ | refine fun _ _ => ?_ | dsimp only | split

theorem State.fixBudget_only (s : State) : OnlyChanges [.pipe] s (s.fixBudget) := by
  unfold State.fixBudget
  repeat' first
    | with_reducible exact only_refl _ _ | decide | assumption | refine fun _ => ?_ | refine fun _ _ => ?_
    | dsimp only | with_reducible apply only_pipe
    | (constructor; intro p hp; cases p <;> first | rfl | exact absurd (by decide) hp)

theorem State.guardSignal_only (s : State) (causes swath : Nat) :
    OnlyChanges [.regs, .sig] s (s.guardSignal causes swath) := by
  unfold State.guardSignal
  repeat' first
    | with_reducible exact only_refl _ _ | decide | assumption | with_reducible apply only_step (State.setB_only ..)
    | with_reducible apply only_step (State.setF_only ..) | with_reducible apply only_step (State.updEntry_only ..)
    | with_reducible apply only_step (State.addF_only ..) | with_reducible apply only_ite | refine fun _ => ?_
    | refine fun _ _ => ?_ | dsimp only

theorem State.applyAtClear_only (s : State) (c : ChIx) : OnlyChanges [.regs, .chans] s (s.applyAtClear c) := by
  unfold State.applyAtClear
  repeat' first
    | with_reducible exact only_refl _ _ | decide | assumption
    | with_reducible apply only_step (State.updChan_only ..) | with_reducible apply only_step (State.setReg_only ..)
    | with_reducible apply only_foldl | with_reducible apply only_ite | refine fun _ => ?_ | refine fun _ _ => ?_
    | dsimp only

theorem State.chanChange_only (s : State) (c : ChIx) (cap : Bool) (f : Chan → Chan) :
    OnlyChanges [.regs, .chans, .halves, .sr, .free] s (s.chanChange c cap f) := by
  unfold State.chanChange
  repeat' first
    | with_reducible exact only_refl _ _ | decide | assumption
    | with_reducible apply only_step (State.updChan_only ..) | with_reducible apply only_fieldChange
    | refine fun _ => ?_ | refine fun _ _ => ?_ | dsimp only

theorem State.applyRelease_only (s : State) (c : ChIx) :
    OnlyChanges [.regs, .chans, .halves, .sr, .free] s (s.applyRelease c) := by
  unfold State.applyRelease
  repeat' first
    | with_reducible exact only_refl _ _ | decide | assumption
    | with_reducible apply only_step (State.updChan_only ..)
    | with_reducible apply only_step (State.chanChange_only ..) | with_reducible apply only_ite | refine fun _ => ?_
    | refine fun _ _ => ?_ | dsimp only

theorem State.supplyChange_only (s : State) (h : HalfIx) (f : Half → Half) :
    OnlyChanges [.regs, .chans, .halves, .sr, .free] s (s.supplyChange h f) := by
  unfold State.supplyChange
  repeat' first
    | with_reducible exact only_refl _ _ | decide | assumption
    | with_reducible apply only_step (State.updHalf_only ..) | with_reducible apply only_fieldChange
    | refine fun _ => ?_ | refine fun _ _ => ?_ | dsimp only

theorem State.applyUv_only (s : State) (h : HalfIx) :
    OnlyChanges [.regs, .chans, .halves, .sr, .free] s (s.applyUv h) := by
  unfold State.applyUv
  repeat' first
    | with_reducible exact only_refl _ _ | decide | assumption
    | with_reducible apply only_step (State.supplyChange_only ..) | with_reducible apply only_ite
    | refine fun _ => ?_ | refine fun _ _ => ?_ | dsimp only

theorem State.autoClear_only (s : State) (start : Nat) : OnlyChanges [.regs, .fc] s (s.autoClear start) := by
  unfold State.autoClear
  repeat' first
    | with_reducible exact only_refl _ _ | decide | assumption
    | with_reducible apply only_step (State.syncFc_only ..) | with_reducible apply only_ite | refine fun _ => ?_
    | refine fun _ _ => ?_ | dsimp only | with_reducible apply only_fc
    | (constructor; intro p hp; cases p <;> first | rfl | exact absurd (by decide) hp)

theorem State.bufferStep_only (s : State) (h : HalfIx) : OnlyChanges [.regs, .chans, .halves] s (s.bufferStep h) := by
  unfold State.bufferStep
  repeat' first
    | with_reducible exact only_refl _ _ | decide | assumption
    | with_reducible apply only_step (State.updHalf_only ..)
    | with_reducible apply only_step (State.setBuffer_only ..) | with_reducible apply only_ite
    | with_reducible apply only_pair | (refine only_of_pair (by assumption) ?_)
    | (refine only_of_fst (by assumption) ?_) | refine fun _ => ?_ | refine fun _ _ => ?_ | dsimp only | split

theorem State.openPrec_only (s : State) (counts : Bool) : OnlyChanges [.chans] s (s.openPrec counts) := by
  unfold State.openPrec
  repeat' first
    | with_reducible exact only_refl _ _ | decide | assumption
    | with_reducible apply only_step (State.updChan_only ..) | with_reducible apply only_foldl | refine fun _ => ?_
    | refine fun _ _ => ?_ | dsimp only

theorem State.fieldBoundary_only (s : State) (k : Count) (start : Nat) :
    OnlyChanges [.regs, .fc, .chans, .halves, .sr, .free] s (s.fieldBoundary k start) := by
  unfold State.fieldBoundary
  repeat' first
    | with_reducible exact only_refl _ _ | decide | assumption
    | with_reducible apply only_step (State.updChan_only ..) | with_reducible apply only_step (State.applyUv_only ..)
    | with_reducible apply only_step (State.openPrec_only ..)
    | with_reducible apply only_step (State.applyRelease_only ..)
    | with_reducible apply only_step (State.applyAtClear_only ..)
    | with_reducible apply only_step (State.autoClear_only ..)
    | with_reducible apply only_step (State.bufferStep_only ..) | with_reducible apply only_foldl
    | with_reducible apply only_ite | refine fun _ => ?_ | refine fun _ _ => ?_ | dsimp only

theorem State.drivePulse_only (s : State) (isStook : Bool) : OnlyChanges [.env] s (s.drivePulse isStook) := by
  unfold State.drivePulse
  repeat' first
    | with_reducible exact only_refl _ _ | decide | assumption | with_reducible apply only_ite | refine fun _ => ?_
    | refine fun _ _ => ?_ | dsimp only | with_reducible apply only_env
    | (constructor; intro p hp; cases p <;> first | rfl | exact absurd (by decide) hp)

theorem State.refusePower_only (s : State) (st code : Nat) :
    OnlyChanges [.regs, .env, .fc, .pipe, .halves, .pairs, .recfg, .pwr, .yk] s (s.refusePower st code) := by
  unfold State.refusePower
  repeat' first
    | with_reducible exact only_refl _ _ | decide | assumption | with_reducible apply only_step (State.setF_only ..)
    | with_reducible apply only_step (State.raise_only ..) | with_reducible apply only_step (State.updPwr_only ..)
    | with_reducible apply only_step (State.addF_only ..) | with_reducible apply only_step (State.syncPwr_only ..)
    | refine fun _ => ?_ | refine fun _ _ => ?_ | dsimp only

theorem State.abandonDormant_only (s : State) :
    OnlyChanges [.regs, .env, .fc, .pipe, .chans, .halves, .pairs, .recfg, .gln, .pwr, .yk] s (s.abandonDormant) := by
  unfold State.abandonDormant
  repeat' first
    | with_reducible exact only_refl _ _ | decide | assumption
    | with_reducible apply only_step (State.gleanerStart_only ..) | with_reducible apply only_whenB
    | with_reducible apply only_step (State.restartSeq_only ..)
    | with_reducible apply only_step (State.refusePower_only ..)
    | with_reducible apply only_step (State.updPwr_only ..) | with_reducible apply only_foldl | refine fun _ => ?_
    | refine fun _ _ => ?_ | dsimp only

theorem State.applyR63_only (s : State) : OnlyChanges [.regs, .tb, .boot] s (s.applyR63) := by
  unfold State.applyR63
  repeat' first
    | with_reducible exact only_refl _ _ | decide | assumption
    | with_reducible apply only_step (State.setReg_only ..)
    | with_reducible apply only_step (State.restartLoop_only ..) | with_reducible apply only_whenB
    | with_reducible apply only_pair | (refine only_of_pair (by assumption) ?_)
    | (refine only_of_fst (by assumption) ?_) | refine fun _ => ?_ | refine fun _ _ => ?_ | dsimp only | split
    | with_reducible apply only_tb_boot
    | (constructor; intro p hp; cases p <;> first | rfl | exact absurd (by decide) hp)

theorem State.applySyncCtrl_only (s : State) : OnlyChanges [.regs, .tb] s (s.applySyncCtrl) := by
  unfold State.applySyncCtrl
  repeat' first
    | with_reducible exact only_refl _ _ | decide | assumption
    | with_reducible apply only_step (State.restartLoop_only ..) | with_reducible apply only_ite | refine fun _ => ?_
    | refine fun _ _ => ?_ | dsimp only | with_reducible apply only_tb
    | (constructor; intro p hp; cases p <;> first | rfl | exact absurd (by decide) hp)

theorem State.dieBoundary_only (s : State) : OnlyChanges [.halves] s (s.dieBoundary) := by
  unfold State.dieBoundary
  repeat' first
    | with_reducible exact only_refl _ _ | decide | assumption
    | with_reducible apply only_step (State.updHalf_only ..) | with_reducible apply only_foldl
    | with_reducible apply only_ite | refine fun _ => ?_ | refine fun _ _ => ?_ | dsimp only

theorem State.flushBuffer_only (s : State) :
    OnlyChanges [.regs, .mem, .env, .fc, .pipe, .halves, .pairs, .cribs, .recfg, .yk] s (s.flushBuffer) := by
  unfold State.flushBuffer
  repeat' first
    | with_reducible exact only_refl _ _ | decide | assumption
    | with_reducible apply only_step (State.deliverRecord_only ..) | with_reducible apply only_foldl
    | refine fun _ => ?_ | refine fun _ _ => ?_ | dsimp only | with_reducible apply only_fc
    | (constructor; intro p hp; cases p <;> first | rfl | exact absurd (by decide) hp)

theorem State.aliveReject_only (s : State) (u : UnitIx) (verdict feed pos : Nat) :
    OnlyChanges [.regs, .env, .fc, .pipe, .halves, .pairs, .recfg, .yk] s (s.aliveReject u verdict feed pos) := by
  unfold State.aliveReject
  repeat' first
    | with_reducible exact only_refl _ _ | decide | assumption | with_reducible apply only_step (State.raise_only ..)
    | with_reducible apply only_step (State.addF_only ..) | with_reducible apply only_ite | refine fun _ => ?_
    | refine fun _ _ => ?_ | dsimp only

theorem State.cvuCrcFault_only (s : State) (u : UnitIx) (feed pos : Nat) :
    OnlyChanges [.regs, .env, .fc, .pipe, .halves, .pairs, .recfg, .yk] s (s.cvuCrcFault u feed pos) := by
  unfold State.cvuCrcFault
  repeat' first
    | with_reducible exact only_refl _ _ | decide | assumption | with_reducible apply only_step (State.raise_only ..)
    | with_reducible apply only_step (State.addF_only ..) | refine fun _ => ?_ | refine fun _ _ => ?_ | dsimp only

theorem State.snoopFaults_only (s : State) :
    OnlyChanges [.regs, .env, .fc, .pipe, .halves, .pairs, .recfg, .cvu, .yk] s (s.snoopFaults) := by
  unfold State.snoopFaults
  repeat' first
    | with_reducible exact only_refl _ _ | decide | assumption
    | with_reducible apply only_step (State.updUnit_only ..)
    | with_reducible apply only_step (State.cvuCrcFault_only ..)
    | with_reducible apply only_step (State.aliveReject_only ..) | with_reducible apply only_foldl
    | with_reducible apply only_ite | refine fun _ => ?_ | refine fun _ _ => ?_ | dsimp only

theorem State.unfolded_only (s : State) : OnlyChanges [.sig] s (s.unfolded) := by
  unfold State.unfolded
  repeat' first
    | with_reducible exact only_refl _ _ | decide | assumption | with_reducible apply only_ite | refine fun _ => ?_
    | refine fun _ _ => ?_ | dsimp only | with_reducible apply only_sig
    | (constructor; intro p hp; cases p <;> first | rfl | exact absurd (by decide) hp)

theorem State.gleanerBoundary_only (s : State) (off : Bool) :
    OnlyChanges [.regs, .sig, .env, .fc, .pipe, .halves, .pairs, .recfg, .cvu, .yk] s (s.gleanerBoundary off) := by
  unfold State.gleanerBoundary
  repeat' first
    | with_reducible exact only_refl _ _ | decide | assumption
    | with_reducible apply only_step (State.causeNext_only ..)
    | with_reducible apply only_step (State.snoopFaults_only ..)
    | with_reducible apply only_step (State.unfolded_only ..) | with_reducible apply only_ite
    | with_reducible apply only_pair | (refine only_of_pair (by assumption) ?_)
    | (refine only_of_fst (by assumption) ?_) | refine fun _ => ?_ | refine fun _ _ => ?_ | dsimp only | split

theorem State.joinRoles_only (s : State) : OnlyChanges [.regs] s (s.joinRoles) := by
  unfold State.joinRoles
  repeat' first
    | with_reducible exact only_refl _ _ | decide | assumption | with_reducible apply only_step (State.setB_only ..)
    | with_reducible apply only_ite | with_reducible apply only_pair | (refine only_of_pair (by assumption) ?_)
    | (refine only_of_fst (by assumption) ?_) | refine fun _ => ?_ | refine fun _ _ => ?_ | dsimp only | split

theorem State.joinComplete_only (s : State) : OnlyChanges [.regs, .sr, .yk] s (s.joinComplete) := by
  unfold State.joinComplete
  repeat' first
    | with_reducible exact only_refl _ _ | decide | assumption | with_reducible apply only_step (State.setB_only ..)
    | with_reducible apply only_step (State.setF_only ..) | with_reducible apply only_step (State.joinRoles_only ..)
    | with_reducible apply only_step (State.updYk_only ..) | with_reducible apply only_ite
    | with_reducible apply only_pair | (refine only_of_pair (by assumption) ?_)
    | (refine only_of_fst (by assumption) ?_) | refine fun _ => ?_ | refine fun _ _ => ?_ | dsimp only | split
    | with_reducible apply only_sr | (constructor; intro p hp; cases p <;> first | rfl | exact absurd (by decide) hp)

theorem State.markBoundary_only (s : State) (isStook : Bool) : OnlyChanges [.tb] s (s.markBoundary isStook) := by
  unfold State.markBoundary
  repeat' first
    | with_reducible exact only_refl _ _ | decide | assumption | with_reducible apply only_ite | refine fun _ => ?_
    | refine fun _ _ => ?_ | dsimp only | with_reducible apply only_tb
    | (constructor; intro p hp; cases p <;> first | rfl | exact absurd (by decide) hp)

theorem State.stalePartner_only (s : State) : OnlyChanges [.sig] s (s.stalePartner) := by
  unfold State.stalePartner
  repeat' first
    | with_reducible exact only_refl _ _ | decide | assumption | with_reducible apply only_ite | refine fun _ => ?_
    | refine fun _ _ => ?_ | dsimp only | with_reducible apply only_sig
    | (constructor; intro p hp; cases p <;> first | rfl | exact absurd (by decide) hp)

theorem State.blockLost_only (s : State) (bad : Nat) :
    OnlyChanges [.regs, .sig, .env, .fc, .pipe, .halves, .pairs, .recfg, .yk] s (s.blockLost bad) := by
  unfold State.blockLost
  repeat' first
    | with_reducible exact only_refl _ _ | decide | assumption
    | with_reducible apply only_step (State.stalePartner_only ..)
    | with_reducible apply only_step (State.raise_only ..) | with_reducible apply only_step (State.addF_only ..)
    | refine fun _ => ?_ | refine fun _ _ => ?_ | dsimp only

theorem State.compareIn_only (s : State) (img : List Word) :
    OnlyChanges [.regs, .env, .fc, .pipe, .halves, .pairs, .recfg, .yk] s (s.compareIn img) := by
  unfold State.compareIn
  repeat' first
    | with_reducible exact only_refl _ _ | decide | assumption | with_reducible apply only_step (State.updYk_only ..)
    | with_reducible apply only_step (State.raise_only ..) | with_reducible apply only_foldl
    | with_reducible apply only_ite | refine fun _ => ?_ | refine fun _ _ => ?_ | dsimp only

theorem State.compareOut_only (s : State) (crc : Word) :
    OnlyChanges [.regs, .env, .fc, .pipe, .halves, .pairs, .recfg, .yk] s (s.compareOut crc) := by
  unfold State.compareOut
  repeat' first
    | with_reducible exact only_refl _ _ | decide | assumption | with_reducible apply only_step (State.updYk_only ..)
    | with_reducible apply only_step (State.raise_only ..) | with_reducible apply only_ite | refine fun _ => ?_
    | refine fun _ _ => ?_ | dsimp only

theorem State.countDisc_only (s : State) (img : List Word) (crc : Word) :
    OnlyChanges [.regs] s (s.countDisc img crc) := by
  unfold State.countDisc
  repeat' first
    | with_reducible exact only_refl _ _ | decide | assumption | with_reducible apply only_step (State.addF_only ..)
    | with_reducible apply only_ite | refine fun _ => ?_ | refine fun _ _ => ?_ | dsimp only

theorem State.adoptPrint_only (s : State) (is : List (Fin 32)) (f : Print) :
    OnlyChanges [.sr] s (s.adoptPrint is f) := by
  unfold State.adoptPrint
  repeat' first
    | with_reducible exact only_refl _ _ | decide | assumption
    | with_reducible apply only_step (State.updSlot_only ..) | with_reducible apply only_foldl
    | with_reducible apply only_ite | refine fun _ => ?_ | refine fun _ _ => ?_ | dsimp only

theorem State.partChanged_only (s : State) (is : List (Fin 32)) (target : Nat) (dev : Word) :
    OnlyChanges [.regs, .env, .fc, .pipe, .halves, .pairs, .recfg, .sr, .yk] s (s.partChanged is target dev) := by
  unfold State.partChanged
  repeat' first
    | with_reducible exact only_refl _ _ | decide | assumption
    | with_reducible apply only_step (State.updSlot_only ..) | with_reducible apply only_step (State.journal_only ..)
    | with_reducible apply only_step (State.raise_only ..) | with_reducible apply only_foldl
    | with_reducible apply only_ite | refine fun _ => ?_ | refine fun _ _ => ?_ | dsimp only

theorem State.judgePrint_only (s : State) (is : List (Fin 32)) (target : Nat) (ws : List Word) (dev : Word) (out : Bool) :
    OnlyChanges [.regs, .env, .fc, .pipe, .halves, .pairs, .recfg, .sr, .yk] s (s.judgePrint is target ws dev out) := by
  unfold State.judgePrint
  repeat' first
    | with_reducible exact only_refl _ _ | decide | assumption
    | with_reducible apply only_step (State.updSlot_only ..)
    | with_reducible apply only_step (State.journalPrint_only ..) | with_reducible apply only_whenB
    | with_reducible apply only_step (State.partChanged_only ..) | with_reducible apply only_foldl
    | with_reducible apply only_ite | refine fun _ => ?_ | refine fun _ _ => ?_ | dsimp only

theorem State.partnerCompare_only (s : State) (c : ChIx) :
    OnlyChanges [.regs, .env, .fc, .pipe, .halves, .pairs, .recfg, .sr, .yk] s (s.partnerCompare c) := by
  unfold State.partnerCompare
  repeat' first
    | with_reducible exact only_refl _ _ | decide | assumption
    | with_reducible apply only_step (State.adoptPrint_only ..)
    | with_reducible apply only_step (State.judgePrint_only ..) | with_reducible apply only_pair
    | (refine only_of_pair (by assumption) ?_) | (refine only_of_fst (by assumption) ?_) | refine fun _ => ?_
    | refine fun _ _ => ?_ | dsimp only | split

theorem State.updPartner_only (s : State) (c : ChIx) (f : PartnerFp → PartnerFp) :
    OnlyChanges [.sr] s (s.updPartner c f) := by
  unfold State.updPartner
  repeat' first
    | with_reducible exact only_refl _ _ | decide | assumption | refine fun _ => ?_ | refine fun _ _ => ?_
    | dsimp only | with_reducible apply only_sr
    | (constructor; intro p hp; cases p <;> first | rfl | exact absurd (by decide) hp)

theorem State.partnerPrint_only (s : State) (was : Nat → Word) (c : ChIx) :
    OnlyChanges [.regs, .env, .fc, .pipe, .halves, .pairs, .recfg, .sr, .yk] s (s.partnerPrint was c) := by
  unfold State.partnerPrint
  repeat' first
    | with_reducible exact only_refl _ _ | decide | assumption
    | with_reducible apply only_step (State.passCapture_only ..) | with_reducible apply only_whenB
    | with_reducible apply only_step (State.partnerCompare_only ..)
    | with_reducible apply only_step (State.updPartner_only ..) | with_reducible apply only_ite | refine fun _ => ?_
    | refine fun _ _ => ?_ | dsimp only

theorem State.readbackCheck_only (s : State) (img : List Word) :
    OnlyChanges [.regs, .env, .fc, .pipe, .halves, .pairs, .recfg, .yk] s (s.readbackCheck img) := by
  unfold State.readbackCheck
  repeat' first
    | with_reducible exact only_refl _ _ | decide | assumption | with_reducible apply only_step (State.updYk_only ..)
    | with_reducible apply only_step (State.raise_only ..) | with_reducible apply only_foldl
    | with_reducible apply only_ite | refine fun _ => ?_ | refine fun _ _ => ?_ | dsimp only

theorem State.takeRegs_only (s : State) (ws : List Word) : OnlyChanges [.yk] s (s.takeRegs ws) := by
  induction s, ws using State.takeRegs.induct with
  | case1 s a v ws ih =>
    unfold State.takeRegs
    exact only_trans (State.updYk_only ..) ih
  | case2 s ws h =>
    unfold State.takeRegs
    split
    · exact absurd rfl (h _ _ _)
    · exact only_refl _ _

theorem State.writePartner_only (s : State) (i : Nat) (v w1 : Word) (aux : List Word) :
    OnlyChanges [.sig, .sr] s (s.writePartner i v w1 aux) := by
  unfold State.writePartner
  repeat' first
    | with_reducible exact only_refl _ _ | decide | assumption
    | with_reducible apply only_step (State.updEntry_only ..)
    | with_reducible apply only_step (State.partOperation_only ..) | with_reducible apply only_foldl
    | with_reducible apply only_ite | refine fun _ => ?_ | refine fun _ _ => ?_ | dsimp only

theorem State.writeRun_only (s : State) (first : Nat) (ws : List Word) (count : Nat) :
    OnlyChanges [.sig, .sr] s (s.writeRun first ws count) := by
  unfold State.writeRun
  repeat' first
    | with_reducible exact only_refl _ _ | decide | assumption
    | with_reducible apply only_step (State.writePartner_only ..) | with_reducible apply only_foldl
    | refine fun _ => ?_ | refine fun _ _ => ?_ | dsimp only

theorem State.writeRuns_only (s : State) (rs : List (Nat × Nat)) (ws : List Word) :
    OnlyChanges [.sig, .sr] s (s.writeRuns rs ws) := by
  induction rs generalizing s ws with
  | nil => exact only_refl _ _
  | cons r rs ih => exact only_trans (State.writeRun_only ..) (ih ..)

theorem State.takeBlock_only (s : State) (body : List Word) :
    OnlyChanges [.regs, .sig, .env, .fc, .pipe, .halves, .pairs, .recfg, .sr, .yk] s (s.takeBlock body) := by
  unfold State.takeBlock
  repeat' first
    | with_reducible exact only_refl _ _ | decide | assumption
    | with_reducible apply only_step (State.compareIn_only ..)
    | with_reducible apply only_step (State.writePartner_only ..)
    | with_reducible apply only_step (State.updYk_only ..)
    | with_reducible apply only_step (State.readbackCheck_only ..)
    | with_reducible apply only_step (State.partnerPrint_only ..)
    | with_reducible apply only_step (State.compareOut_only ..)
    | with_reducible apply only_step (State.writeRuns_only ..)
    | with_reducible apply only_step (State.takeRegs_only ..)
    | with_reducible apply only_step (State.countDisc_only ..) | with_reducible apply only_foldl
    | with_reducible apply only_ite | refine fun _ => ?_ | refine fun _ _ => ?_ | dsimp only

theorem State.partnerBlock_only (s : State) :
    OnlyChanges [.regs, .sig, .env, .fc, .pipe, .halves, .pairs, .recfg, .sr, .yk] s (s.partnerBlock) := by
  unfold State.partnerBlock
  repeat' first
    | with_reducible exact only_refl _ _ | decide | assumption
    | with_reducible apply only_step (State.takeBlock_only ..) | with_reducible apply only_step (State.updYk_only ..)
    | with_reducible apply only_step (State.blockLost_only ..)
    | with_reducible apply only_step (State.stalePartner_only ..) | with_reducible apply only_ite
    | refine fun _ => ?_ | refine fun _ _ => ?_ | dsimp only

theorem State.holdWaits_only (s : State) : OnlyChanges [.hp] s (s.holdWaits) := by
  unfold State.holdWaits
  repeat' first
    | with_reducible exact only_refl _ _ | decide | assumption | with_reducible apply only_ite | refine fun _ => ?_
    | refine fun _ _ => ?_ | dsimp only | with_reducible apply only_hp
    | (constructor; intro p hp; cases p <;> first | rfl | exact absurd (by decide) hp)

theorem State.pcApply_only (s : State) : OnlyChanges [.regs, .pipe, .hp, .perf] s (s.pcApply) := by
  unfold State.pcApply
  repeat' first
    | with_reducible exact only_refl _ _ | decide | assumption | with_reducible apply only_step (State.setB_only ..)
    | with_reducible apply only_step (State.setReg_only ..) | with_reducible apply only_step (State.setF_only ..)
    | with_reducible apply only_step (State.holdWaits_only ..) | with_reducible apply only_foldl
    | with_reducible apply only_ite | refine fun _ => ?_ | refine fun _ _ => ?_ | dsimp only
    | with_reducible apply only_perf | with_reducible apply only_pipe
    | (constructor; intro p hp; cases p <;> first | rfl | exact absurd (by decide) hp)

theorem State.yokeLost_only (s : State) (kind : Nat) :
    OnlyChanges [.regs, .env, .fc, .pipe, .halves, .pairs, .recfg, .yk] s (s.yokeLost kind) := by
  unfold State.yokeLost
  repeat' first
    | with_reducible exact only_refl _ _ | decide | assumption | with_reducible apply only_step (State.updYk_only ..)
    | with_reducible apply only_step (State.raise_only ..) | with_reducible apply only_step (State.unjoin_only ..)
    | refine fun _ => ?_ | refine fun _ _ => ?_ | dsimp only

theorem State.releaseNow_only (s : State) :
    OnlyChanges [.regs, .env, .fc, .pipe, .halves, .pairs, .recfg, .yk] s (s.releaseNow) := by
  unfold State.releaseNow
  repeat' first
    | with_reducible exact only_refl _ _ | decide | assumption | with_reducible apply only_step (State.setB_only ..)
    | with_reducible apply only_step (State.yokeLost_only ..) | with_reducible apply only_step (State.setReg_only ..)
    | with_reducible apply only_step (State.updYk_only ..) | with_reducible apply only_step (State.raise_only ..)
    | with_reducible apply only_step (State.unjoin_only ..) | with_reducible apply only_ite | refine fun _ => ?_
    | refine fun _ _ => ?_ | dsimp only

theorem State.syncReady_only (s : State) : OnlyChanges [.regs] s (s.syncReady) := by
  unfold State.syncReady
  repeat' first
    | with_reducible exact only_refl _ _ | decide | assumption | with_reducible apply only_step (State.setB_only ..)
    | refine fun _ => ?_ | refine fun _ _ => ?_ | dsimp only

theorem State.boundary_only (s : State) (r : StookRaw) :
    OnlyChanges [.regs, .mem, .sig, .env, .tb, .fc, .wdg, .pipe, .out, .chans, .halves, .pairs, .cribs, .boot, .recfg, .cvu, .sr, .gln, .pwr, .yk, .hp, .forces, .forceNext, .queue, .perf, .free] s (s.boundary r) := by
  unfold State.boundary
  repeat' first
    | with_reducible exact only_refl _ _ | decide | assumption
    | with_reducible apply only_step (State.lateAtTarget_only ..)
    | with_reducible apply only_step (State.ageSwath_only ..)
    | with_reducible apply only_step (State.markBoundary_only ..)
    | with_reducible apply only_step (State.dieBoundary_only ..)
    | with_reducible apply only_step (State.gleanerStart_only ..)
    | with_reducible apply only_step (State.joinComplete_only ..)
    | with_reducible apply only_step (State.guardSignal_only ..)
    | with_reducible apply only_step (State.commits_only ..) | with_reducible apply only_step (State.pcApply_only ..)
    | with_reducible apply only_step (State.releaseNow_only ..)
    | with_reducible apply only_step (State.fixBudget_only ..)
    | with_reducible apply only_step (State.fixLength_only ..)
    | with_reducible apply only_step (State.closeStook_only ..) | with_reducible apply only_whenB
    | with_reducible apply only_step (State.fieldBoundary_only ..)
    | with_reducible apply only_step (State.abandonDormant_only ..)
    | with_reducible apply only_step (State.dropStook_only ..)
    | with_reducible apply only_step (State.syncReady_only ..)
    | with_reducible apply only_step (State.turnOver_only ..)
    | with_reducible apply only_step (State.gleanerBoundary_only ..)
    | with_reducible apply only_step (State.endAlign_only ..)
    | with_reducible apply only_step (State.applyR63_only ..)
    | with_reducible apply only_step (State.waiting_only ..)
    | with_reducible apply only_step (State.flushBuffer_only ..)
    | with_reducible apply only_step (State.drivePulse_only ..)
    | with_reducible apply only_step (State.finishBoot_only ..)
    | with_reducible apply only_step (State.forwarded_only ..)
    | with_reducible apply only_step (State.countBoundary_only ..)
    | with_reducible apply only_step (State.tables_only ..)
    | with_reducible apply only_step (State.applySyncCtrl_only ..)
    | with_reducible apply only_step (State.partnerBlock_only ..)
    | with_reducible apply only_step (State.syncPwr_only ..)
    | with_reducible apply only_step (State.endSwath_only ..) | with_reducible apply only_ite | refine fun _ => ?_
    | refine fun _ _ => ?_ | dsimp only

theorem State.dormantBoundary_only (s : State) : OnlyChanges [.regs, .sig, .pipe, .halves] s (s.dormantBoundary) := by
  unfold State.dormantBoundary
  repeat' first
    | with_reducible exact only_refl _ _ | decide | assumption
    | with_reducible apply only_step (State.dieBoundary_only ..)
    | with_reducible apply only_step (State.setF_only ..) | with_reducible apply only_step (State.unfolded_only ..)
    | with_reducible apply only_step (State.countBoundary_only ..) | with_reducible apply only_ite
    | refine fun _ => ?_ | refine fun _ _ => ?_ | dsimp only

theorem State.idle_only (s : State) :
    OnlyChanges [.regs, .mem, .env, .fc, .pipe, .halves, .pairs, .cribs, .boot, .recfg, .yk, .hp] s (s.idle) := by
  unfold State.idle
  repeat' first
    | with_reducible exact only_refl _ _ | decide | assumption
    | with_reducible apply only_step (State.elapse_only ..)
    | with_reducible apply only_step (State.retryWrites_only ..)
    | with_reducible apply only_step (State.catchUp_only ..) | with_reducible apply only_ite | refine fun _ => ?_
    | refine fun _ _ => ?_ | dsimp only

theorem State.noteEvent_only (s : State) (c : ChIx) (kind : Nat) :
    OnlyChanges [.regs, .chans] s (s.noteEvent c kind) := by
  unfold State.noteEvent
  repeat' first
    | with_reducible exact only_refl _ _ | decide | assumption
    | with_reducible apply only_step (State.updChan_only ..) | with_reducible apply only_step (State.orF_only ..)
    | with_reducible apply only_ite | refine fun _ => ?_ | refine fun _ _ => ?_ | dsimp only

theorem State.chFault_only (s : State) (c : ChIx) (kind partner : Nat) :
    OnlyChanges [.regs, .env, .fc, .pipe, .chans, .halves, .pairs, .recfg, .sr, .yk] s (s.chFault c kind partner) := by
  unfold State.chFault
  repeat' first
    | with_reducible exact only_refl _ _ | decide | assumption
    | with_reducible apply only_step (State.updHalf_only ..) | with_reducible apply only_whenB
    | with_reducible apply only_step (State.syncHalf_only ..)
    | with_reducible apply only_step (State.noteEvent_only ..) | with_reducible apply only_step (State.raise_only ..)
    | refine fun _ => ?_ | refine fun _ _ => ?_ | dsimp only

theorem State.overloadTrip_only (s : State) (c : ChIx) :
    OnlyChanges [.regs, .env, .fc, .pipe, .chans, .halves, .pairs, .recfg, .sr, .yk, .free] s (s.overloadTrip c) := by
  unfold State.overloadTrip
  repeat' first
    | with_reducible exact only_refl _ _ | decide | assumption
    | with_reducible apply only_step (State.chFault_only ..)
    | with_reducible apply only_step (State.chanChange_only ..) | with_reducible apply only_step (State.addF_only ..)
    | with_reducible apply only_ite | refine fun _ => ?_ | refine fun _ _ => ?_ | dsimp only

theorem State.endShare_only (s : State) (c : ChIx) : OnlyChanges [.regs, .chans, .sr] s (s.endShare c) := by
  unfold State.endShare
  repeat' first
    | with_reducible exact only_refl _ _ | decide | assumption
    | with_reducible apply only_step (State.updChan_only ..) | with_reducible apply only_whenB
    | with_reducible apply only_step (State.partOperation_only ..)
    | with_reducible apply only_step (State.syncChan_only ..) | refine fun _ => ?_ | refine fun _ _ => ?_
    | dsimp only

theorem State.shareGuard_only (s : State) (c : ChIx) (t : Nat) :
    OnlyChanges [.regs, .chans, .sr] s (s.shareGuard c t) := by
  unfold State.shareGuard
  repeat' first
    | with_reducible exact only_refl _ _ | decide | assumption
    | with_reducible apply only_step (State.endShare_only ..) | with_reducible apply only_ite | refine fun _ => ?_
    | refine fun _ _ => ?_ | dsimp only

theorem State.halfFault_only (s : State) (h : HalfIx) (kind : Nat) :
    OnlyChanges [.regs, .env, .fc, .pipe, .halves, .pairs, .recfg, .yk] s (s.halfFault h kind) := by
  unfold State.halfFault
  repeat' first
    | with_reducible exact only_refl _ _ | decide | assumption | with_reducible apply only_step (State.raise_only ..)
    | refine fun _ => ?_ | refine fun _ _ => ?_ | dsimp only

theorem State.holdGate_only (s : State) (h : HalfIx) (kind : Nat) :
    OnlyChanges [.regs, .env, .fc, .pipe, .chans, .halves, .pairs, .recfg, .sr, .yk, .free] s (s.holdGate h kind) := by
  unfold State.holdGate
  repeat' first
    | with_reducible exact only_refl _ _ | decide | assumption
    | with_reducible apply only_step (State.halfFault_only ..)
    | with_reducible apply only_step (State.updHalf_only ..) | with_reducible apply only_fieldChange
    | refine fun _ => ?_ | refine fun _ _ => ?_ | dsimp only

theorem State.pcGln_only (s : State) (k n : Nat) : OnlyChanges [.regs] s (s.pcGln k n) := by
  unfold State.pcGln
  repeat' first
    | with_reducible exact only_refl _ _ | decide | assumption | with_reducible apply only_step (State.pcAdd_only ..)
    | with_reducible apply only_ite | refine fun _ => ?_ | refine fun _ _ => ?_ | dsimp only

theorem State.aliveAccept_only (s : State) (u : UnitIx) (v : Nat) : OnlyChanges [.regs] s (s.aliveAccept u v) := by
  unfold State.aliveAccept
  repeat' first
    | with_reducible exact only_refl _ _ | decide | assumption | with_reducible apply only_step (State.setB_only ..)
    | with_reducible apply only_step (State.setF_only ..) | refine fun _ => ?_ | refine fun _ _ => ?_ | dsimp only

theorem State.judgeAlive_only (s : State) (u : UnitIx) (v feed pos : Nat) :
    OnlyChanges [.regs, .env, .fc, .pipe, .halves, .pairs, .recfg, .yk] s (s.judgeAlive u v feed pos) := by
  unfold State.judgeAlive
  repeat' first
    | with_reducible exact only_refl _ _ | decide | assumption
    | with_reducible apply only_step (State.aliveAccept_only ..)
    | with_reducible apply only_step (State.aliveReject_only ..) | with_reducible apply only_ite | refine fun _ => ?_
    | refine fun _ _ => ?_ | dsimp only

theorem State.diagnose_only (s : State) (c : ChIx) (kind partner : Nat) :
    OnlyChanges [.regs, .env, .fc, .pipe, .chans, .halves, .pairs, .recfg, .sr, .yk] s (s.diagnose c kind partner) := by
  unfold State.diagnose
  repeat' first
    | with_reducible exact only_refl _ _ | decide | assumption
    | with_reducible apply only_step (State.updChan_only ..) | with_reducible apply only_step (State.chFault_only ..)
    | with_reducible apply only_ite | refine fun _ => ?_ | refine fun _ _ => ?_ | dsimp only

theorem State.fpCompare_only (s : State) (c : ChIx) :
    OnlyChanges [.regs, .env, .fc, .pipe, .halves, .pairs, .recfg, .sr, .yk] s (s.fpCompare c) := by
  unfold State.fpCompare
  repeat' first
    | with_reducible exact only_refl _ _ | decide | assumption | with_reducible apply only_step (State.setB_only ..)
    | with_reducible apply only_step (State.setReg_only ..) | with_reducible apply only_step (State.noteBase_only ..)
    | with_reducible apply only_step (State.adoptPrint_only ..)
    | with_reducible apply only_step (State.judgePrint_only ..) | with_reducible apply only_pair
    | (refine only_of_pair (by assumption) ?_) | (refine only_of_fst (by assumption) ?_) | refine fun _ => ?_
    | refine fun _ _ => ?_ | dsimp only | split

theorem State.fpHot_only (s : State) (iuA vmV : Int) : OnlyChanges [.free] s (s.fpHot iuA vmV).2 := by
  unfold State.fpHot
  repeat' first
    | with_reducible exact only_refl _ _ | decide | assumption
    | with_reducible apply only_step (State.drawWord_only ..) | with_reducible apply only_ite
    | with_reducible apply only_pair | (refine only_of_pair (by assumption) ?_)
    | (refine only_of_fst (by assumption) ?_) | refine fun _ => ?_ | refine fun _ _ => ?_ | dsimp only | split

theorem State.fpR20_only (s : State) (c : ChIx) (hot : Int) : OnlyChanges [.free] s (s.fpR20 c hot).2 := by
  unfold State.fpR20
  repeat' first
    | with_reducible exact only_refl _ _ | decide | assumption
    | with_reducible apply only_step (State.drawWord_only ..) | with_reducible apply only_ite
    | with_reducible apply only_pair | (refine only_of_pair (by assumption) ?_)
    | (refine only_of_fst (by assumption) ?_) | refine fun _ => ?_ | refine fun _ _ => ?_ | dsimp only | split

theorem State.fpHold_only (s : State) (c : ChIx) (n : Int) : OnlyChanges [.regs, .chans, .free] s (s.fpHold c n) := by
  unfold State.fpHold
  repeat' first
    | with_reducible exact only_refl _ _ | decide | assumption
    | with_reducible apply only_step (State.updChan_only ..) | with_reducible apply only_step (State.setReg_only ..)
    | with_reducible apply only_step (State.setF_only ..) | with_reducible apply only_step (State.fpHot_only ..)
    | with_reducible apply only_step (State.fpR20_only ..) | with_reducible apply only_pair
    | (refine only_of_pair (by assumption) ?_) | (refine only_of_fst (by assumption) ?_) | refine fun _ => ?_
    | refine fun _ _ => ?_ | dsimp only | split

theorem State.syncLost_only (s : State) (k : Fin 32) : OnlyChanges [.regs] s (s.syncLost k) := by
  unfold State.syncLost
  repeat' first
    | with_reducible exact only_refl _ _ | decide | assumption | with_reducible apply only_step (State.setF_only ..)
    | refine fun _ => ?_ | refine fun _ _ => ?_ | dsimp only

theorem State.failBale_only (s : State) (k : Fin 32) (j : Nat) (absent : Bool) :
    OnlyChanges [.regs, .env, .fc, .pipe, .halves, .pairs, .recfg, .gln, .yk] s (s.failBale k j absent) := by
  unfold State.failBale
  repeat' first
    | with_reducible exact only_refl _ _ | decide | assumption | with_reducible apply only_step (State.raise_only ..)
    | with_reducible apply only_step (State.addF_only ..) | with_reducible apply only_step (State.setMember_only ..)
    | with_reducible apply only_ite | refine fun _ => ?_ | refine fun _ _ => ?_ | dsimp only

theorem State.failScan_only (s : State) (k : Fin 32) :
    OnlyChanges [.regs, .env, .fc, .pipe, .halves, .pairs, .recfg, .gln, .yk] s (s.failScan k) := by
  unfold State.failScan
  repeat' first
    | with_reducible exact only_refl _ _ | decide | assumption
    | with_reducible apply only_step (State.syncLost_only ..)
    | with_reducible apply only_step (State.failBale_only ..) | with_reducible apply only_foldl | refine fun _ => ?_
    | refine fun _ _ => ?_ | dsimp only

theorem State.scanLate_only (s : State) (k : Fin 32) (n : Nat) :
    OnlyChanges [.regs, .env, .fc, .pipe, .halves, .pairs, .recfg, .gln, .yk] s (s.scanLate k n) := by
  unfold State.scanLate
  repeat' first
    | with_reducible exact only_refl _ _ | decide | assumption
    | with_reducible apply only_step (State.updSeg_only ..) | with_reducible apply only_step (State.raise_only ..)
    | with_reducible apply only_step (State.addF_only ..) | refine fun _ => ?_ | refine fun _ _ => ?_ | dsimp only

theorem State.chainBroken_only (s : State) (k : Fin 32) :
    OnlyChanges [.regs, .env, .fc, .pipe, .halves, .pairs, .recfg, .gln, .yk] s (s.chainBroken k) := by
  unfold State.chainBroken
  repeat' first
    | with_reducible exact only_refl _ _ | decide | assumption
    | with_reducible apply only_step (State.updSeg_only ..) | with_reducible apply only_step (State.setF_only ..)
    | with_reducible apply only_step (State.raise_only ..) | with_reducible apply only_step (State.addF_only ..)
    | refine fun _ => ?_ | refine fun _ _ => ?_ | dsimp only

theorem State.snoop_only (s : State) (k j : Nat) (b : Bale) : OnlyChanges [.regs, .cvu] s (s.snoop k j b) := by
  unfold State.snoop
  repeat' first
    | with_reducible exact only_refl _ _ | decide | assumption
    | with_reducible apply only_step (State.aliveAccept_only ..)
    | with_reducible apply only_step (State.updUnit_only ..) | with_reducible apply only_foldl
    | with_reducible apply only_ite | refine fun _ => ?_ | refine fun _ _ => ?_ | dsimp only

theorem State.snoopUnsync_only (s : State) (k j : Nat) : OnlyChanges [.regs] s (s.snoopUnsync k j) := by
  unfold State.snoopUnsync
  repeat' first
    | with_reducible exact only_refl _ _ | decide | assumption
    | with_reducible apply only_step (State.unsync_only ..) | with_reducible apply only_foldl
    | with_reducible apply only_ite | refine fun _ => ?_ | refine fun _ _ => ?_ | dsimp only

theorem State.unknownClass_only (s : State) (k : Fin 32) (j : Nat) (m : Member) :
    OnlyChanges [.regs, .env, .fc, .pipe, .halves, .pairs, .recfg, .gln, .yk] s (s.unknownClass k j m) := by
  unfold State.unknownClass
  repeat' first
    | with_reducible exact only_refl _ _ | decide | assumption | with_reducible apply only_step (State.raise_only ..)
    | with_reducible apply only_step (State.setMember_only ..) | with_reducible apply only_ite | refine fun _ => ?_
    | refine fun _ _ => ?_ | dsimp only

theorem State.deliveryBale_only (s : State) (k : Fin 32) (j : Nat) (m : Member) (b : Bale) :
    OnlyChanges [.regs, .env, .fc, .pipe, .halves, .pairs, .recfg, .gln, .yk] s (s.deliveryBale k j m b) := by
  unfold State.deliveryBale
  repeat' first
    | with_reducible exact only_refl _ _ | decide | assumption
    | with_reducible apply only_step (State.unknownClass_only ..)
    | with_reducible apply only_step (State.raise_only ..) | with_reducible apply only_step (State.setMember_only ..)
    | with_reducible apply only_ite | with_reducible apply only_pair | (refine only_of_pair (by assumption) ?_)
    | (refine only_of_fst (by assumption) ?_) | refine fun _ => ?_ | refine fun _ _ => ?_ | dsimp only | split

theorem State.judgeBale_only (s : State) (k : Fin 32) (j : Nat) (b : Bale) (enum fold : Bool) :
    OnlyChanges [.regs, .env, .fc, .pipe, .halves, .pairs, .recfg, .gln, .yk] s (s.judgeBale k j b enum fold) := by
  unfold State.judgeBale
  repeat' first
    | with_reducible exact only_refl _ _ | decide | assumption
    | with_reducible apply only_step (State.deliveryBale_only ..)
    | with_reducible apply only_step (State.failBale_only ..)
    | with_reducible apply only_step (State.snoopUnsync_only ..)
    | with_reducible apply only_step (State.unknownClass_only ..)
    | with_reducible apply only_step (State.raise_only ..) | with_reducible apply only_step (State.setMember_only ..)
    | with_reducible apply only_ite | with_reducible apply only_pair | (refine only_of_pair (by assumption) ?_)
    | (refine only_of_fst (by assumption) ?_) | refine fun _ => ?_ | refine fun _ _ => ?_ | dsimp only | split

theorem State.judgeScan_only (s : State) (k : Fin 32) (bs : List Bool) (l nf : Nat) (enum fold : Bool) :
    OnlyChanges [.regs, .env, .fc, .pipe, .halves, .pairs, .recfg, .cvu, .gln, .yk] s (s.judgeScan k bs l nf enum fold) := by
  unfold State.judgeScan
  repeat' first
    | with_reducible exact only_refl _ _ | decide | assumption
    | with_reducible apply only_step (State.syncLost_only ..) | with_reducible apply only_step (State.snoop_only ..)
    | with_reducible apply only_step (State.failBale_only ..)
    | with_reducible apply only_step (State.judgeBale_only ..) | with_reducible apply only_foldl
    | with_reducible apply only_ite | refine fun _ => ?_ | refine fun _ _ => ?_ | dsimp only

theorem State.scanDone_only (s : State) (k : Fin 32) (n : Nat) (fold : Bool) :
    OnlyChanges [.regs, .gln] s (s.scanDone k n fold) := by
  unfold State.scanDone
  repeat' first
    | with_reducible exact only_refl _ _ | decide | assumption
    | with_reducible apply only_step (State.updSeg_only ..) | with_reducible apply only_step (State.pcGln_only ..)
    | with_reducible apply only_step (State.setF_only ..) | refine fun _ => ?_ | refine fun _ _ => ?_ | dsimp only

theorem State.landingEcc_only (s : State) (k : Fin 32) (ecc : Option Nat) :
    OnlyChanges [.regs, .env, .fc, .pipe, .halves, .pairs, .recfg, .gln, .yk] s (s.landingEcc k ecc) := by
  unfold State.landingEcc
  repeat' first
    | with_reducible exact only_refl _ _ | decide | assumption
    | with_reducible apply only_step (State.eccUncorr_only ..)
    | with_reducible apply only_step (State.dropData_only ..) | with_reducible apply only_pair
    | (refine only_of_pair (by assumption) ?_) | (refine only_of_fst (by assumption) ?_) | refine fun _ => ?_
    | refine fun _ _ => ?_ | dsimp only | split

theorem State.chainChanged_only (s : State) (k : Fin 32) (nf : Nat) :
    OnlyChanges [.regs, .env, .fc, .pipe, .halves, .pairs, .recfg, .gln, .yk] s (s.chainChanged k nf) := by
  unfold State.chainChanged
  repeat' first
    | with_reducible exact only_refl _ _ | decide | assumption
    | with_reducible apply only_step (State.syncLost_only ..)
    | with_reducible apply only_step (State.failBale_only ..) | with_reducible apply only_step (State.raise_only ..)
    | with_reducible apply only_step (State.dropData_only ..) | with_reducible apply only_foldl | refine fun _ => ?_
    | refine fun _ _ => ?_ | dsimp only

theorem State.landScan_only (s : State) (k : Fin 32) (n : Nat) (bs : List Bool) (strobe : Fin 3) :
    OnlyChanges [.regs, .env, .fc, .pipe, .halves, .pairs, .recfg, .cvu, .gln, .yk] s (s.landScan k n bs strobe) := by
  unfold State.landScan
  repeat' first
    | with_reducible exact only_refl _ _ | decide | assumption
    | with_reducible apply only_step (State.updSeg_only ..) | with_reducible apply only_step (State.setF_only ..)
    | with_reducible apply only_step (State.scanLate_only ..)
    | with_reducible apply only_step (State.failScan_only ..)
    | with_reducible apply only_step (State.chainChanged_only ..)
    | with_reducible apply only_step (State.scanDone_only ..)
    | with_reducible apply only_step (State.chainBroken_only ..)
    | with_reducible apply only_step (State.judgeScan_only ..) | with_reducible apply only_ite
    | with_reducible apply only_pair | (refine only_of_pair (by assumption) ?_)
    | (refine only_of_fst (by assumption) ?_) | refine fun _ => ?_ | refine fun _ _ => ?_ | dsimp only | split

theorem State.foldPosition_only (s : State) (k : Fin 32) (j : Nat) :
    OnlyChanges [.sig, .gln] s (s.foldPosition k j) := by
  unfold State.foldPosition
  repeat' first
    | with_reducible exact only_refl _ _ | decide | assumption
    | with_reducible apply only_step (State.updEntry_only ..)
    | with_reducible apply only_step (State.setMember_only ..) | with_reducible apply only_foldl
    | with_reducible apply only_pair | (refine only_of_pair (by assumption) ?_)
    | (refine only_of_fst (by assumption) ?_) | refine fun _ => ?_ | refine fun _ _ => ?_ | dsimp only | split

theorem State.judgeSeal_only (s : State) (u : UnitIx) (op : BitVec 8) (h : HostHdr) (stamp ws : List Word) :
    OnlyChanges [.regs, .env, .fc, .pipe, .halves, .pairs, .recfg, .yk] s (s.judgeSeal u op h stamp ws).2 := by
  unfold State.judgeSeal
  repeat' first
    | with_reducible exact only_refl _ _ | decide | assumption
    | with_reducible apply only_step (State.judgeAlive_only ..) | with_reducible apply only_ite
    | with_reducible apply only_pair | (refine only_of_pair (by assumption) ?_)
    | (refine only_of_fst (by assumption) ?_) | refine fun _ => ?_ | refine fun _ _ => ?_ | dsimp only | split

theorem State.refuseTx_only (s : State) (op : BitVec 8) (h : HostHdr) (code : Nat) :
    OnlyChanges [.regs, .env, .fc, .pipe, .halves, .pairs, .recfg, .yk, .hp] s (s.refuseTx op h code) := by
  unfold State.refuseTx
  repeat' first
    | with_reducible exact only_refl _ _ | decide | assumption | with_reducible apply only_step (State.endTx_only ..)
    | with_reducible apply only_step (State.respond_only ..) | refine fun _ => ?_ | refine fun _ _ => ?_ | dsimp only

theorem State.takeLane_only (s : State) : OnlyChanges [.hp] s (s.takeLane) := by
  unfold State.takeLane
  repeat' first
    | with_reducible exact only_refl _ _ | decide | assumption | refine fun _ => ?_ | refine fun _ _ => ?_
    | dsimp only | with_reducible apply only_hp
    | (constructor; intro p hp; cases p <;> first | rfl | exact absurd (by decide) hp)

theorem only_transact {ps : List Part} {s0 : State} (s : State) (op : BitVec 8) (h : HostHdr) (stamp ws : List Word) (bad denied : Bool) (f : Word → State → State)
    (k : Part.sub [.regs, .mem, .env, .fc, .pipe, .halves, .pairs, .cribs, .recfg, .yk, .hp] ps = true) (H : ∀ x u, OnlyChanges ps u (f x u)) (h0 : OnlyChanges ps s0 s) :
    OnlyChanges ps s0 (s.transact op h stamp ws bad denied f) := by
  have H2 : ∀ x s u, OnlyChanges ps s u → OnlyChanges ps s (f x u) :=
    fun x _ u h => only_trans h (H x u)
  unfold State.transact
  repeat' first
    | with_reducible exact only_refl _ _ | exact Part.sub_trans (by decide) k | with_reducible assumption
    | with_reducible apply H2 | with_reducible apply only_step (State.takeLane_only ..)
    | with_reducible apply only_step (State.judgeSeal_only ..)
    | with_reducible apply only_step (State.refuseTx_only ..)
    | with_reducible apply only_step (State.catchUp_only ..) | with_reducible apply only_ite
    | with_reducible apply only_pair | (refine only_of_pair (by assumption) ?_)
    | (refine only_of_fst (by assumption) ?_) | refine fun _ => ?_ | refine fun _ _ => ?_ | dsimp only | split

theorem only_withPayload {ps : List Part} {s0 : State} (s : State) (h : HostHdr) (ws : List Word) (f : List Word → State → State)
    (k : Part.sub [.regs, .mem, .env, .fc, .pipe, .halves, .pairs, .cribs, .recfg, .yk, .hp] ps = true) (H : ∀ x u, OnlyChanges ps u (f x u)) (h0 : OnlyChanges ps s0 s) :
    OnlyChanges ps s0 (s.withPayload h ws f) := by
  have H2 : ∀ x s u, OnlyChanges ps s u → OnlyChanges ps s (f x u) :=
    fun x _ u h => only_trans h (H x u)
  unfold State.withPayload
  repeat' first
    | with_reducible exact only_refl _ _ | exact Part.sub_trans (by decide) k | assumption | with_reducible apply H2
    | with_reducible apply only_step (State.abandonTx_only ..)
    | with_reducible apply only_step (State.catchUp_only ..) | with_reducible apply only_ite | refine fun _ => ?_
    | refine fun _ _ => ?_ | dsimp only

theorem State.startRead_only (s : State) (op : BitVec 8) (h : HostHdr) (f : Fetch) (id : Word) :
    OnlyChanges [.regs, .mem, .env, .fc, .pipe, .halves, .pairs, .cribs, .recfg, .sr, .gln, .yk, .hp, .free] s (s.startRead op h f id) := by
  unfold State.startRead
  repeat' first
    | with_reducible exact only_refl _ _ | decide | assumption
    | with_reducible apply only_step (State.runRead_only ..) | with_reducible apply only_step (State.updCrib_only ..)
    | with_reducible apply only_ite | with_reducible apply only_pair | (refine only_of_pair (by assumption) ?_)
    | (refine only_of_fst (by assumption) ?_) | refine fun _ => ?_ | refine fun _ _ => ?_ | dsimp only | split
    | with_reducible apply only_hp | (constructor; intro p hp; cases p <;> first | rfl | exact absurd (by decide) hp)

end Sys2Proof.Machine
end

