-- ==== Sys2Proof/Laws/Sparse.lean ====
section
/-!
SUPPORT. Laws/Sparse.lean: sparse data: what a read gives after a write, that writes keep the canonical form, and so for the
addressed memory.
-/
namespace Sys2Proof

theorem Sparse.get_insert {α : Type} (d : Nat → α) (m : Sparse α) (k : Nat) (v : α) (j : Nat) :
    Sparse.get d (Sparse.insert k v m) j = if j = k then v else Sparse.get d m j := by
  induction m with
  | nil => simp [Sparse.insert, Sparse.get]
  | cons x m ih =>
    obtain ⟨k', v'⟩ := x
    simp only [Sparse.insert]
    split
    · simp [Sparse.get]
    · split
      · subst_vars
        simp only [Sparse.get]
        split <;> rfl
      · simp only [Sparse.get, ih]
        split
        · rw [if_neg (by omega)]
        · rfl

theorem Sparse.get_erase {α : Type} (d : Nat → α) (m : Sparse α) (k j : Nat) :
    Sparse.get d (Sparse.erase k m) j = if j = k then d k else Sparse.get d m j := by
  induction m with
  | nil => simp only [Sparse.erase, Sparse.get]; split <;> simp_all
  | cons x m ih =>
    obtain ⟨k', v'⟩ := x
    simp only [Sparse.erase]
    split
    · rw [ih]
      simp only [Sparse.get]
      split
      · rfl
      · rw [if_neg (by omega)]
    · simp only [Sparse.get, ih]
      split
      · rw [if_neg (by omega)]
      · rfl

/-- A read after a write. -/
theorem Sparse.get_put {α : Type} [DecidableEq α] (d : Nat → α) (m : Sparse α) (k : Nat) (v : α) (j : Nat) :
    Sparse.get d (Sparse.put d m k v) j = if j = k then v else Sparse.get d m j := by
  unfold Sparse.put
  split
  · next h => rw [Sparse.get_erase, h]
  · exact Sparse.get_insert ..

theorem Sparse.above_of {α : Type} (b : Nat) (m : Sparse α) (h : ∀ x ∈ m, b < x.1) : Sparse.above b m = true := by
  cases m with
  | nil => rfl
  | cons x m => simpa [Sparse.above] using h x (by simp)

/-- Every key of a canonical list is above a bound its first key is above. -/
theorem Sparse.keys_above {α : Type} [DecidableEq α] (d : Nat → α) (b : Nat) (m : Sparse α) (h : Sparse.wf d m = true)
    (hb : Sparse.above b m = true) : ∀ x ∈ m, b < x.1 := by
  induction m generalizing b with
  | nil => simp
  | cons y m ih =>
    obtain ⟨k, v⟩ := y
    simp only [Sparse.wf, Sparse.above, Bool.and_eq_true, decide_eq_true_eq] at h hb
    intro x hx
    rcases List.mem_cons.mp hx with rfl | hx
    · exact hb
    · exact Nat.lt_trans hb (ih k h.2 h.1.2 x hx)

theorem Sparse.mem_insert {α : Type} (k : Nat) (v : α) (m : Sparse α) (x : Nat × α) (h : x ∈ Sparse.insert k v m) :
    x = (k, v) ∨ x ∈ m := by
  induction m with
  | nil => simpa [Sparse.insert] using h
  | cons y m ih =>
    obtain ⟨k', v'⟩ := y
    simp only [Sparse.insert] at h
    split at h
    · simpa using h
    · split at h
      · rcases List.mem_cons.mp h with h | h
        · exact .inl h
        · exact .inr (List.mem_cons_of_mem _ h)
      · rcases List.mem_cons.mp h with h | h
        · exact .inr (by simp [h])
        · rcases ih h with h | h
          · exact .inl h
          · exact .inr (List.mem_cons_of_mem _ h)

theorem Sparse.wf_insert {α : Type} [DecidableEq α] (d : Nat → α) (m : Sparse α) (k : Nat) (v : α) (hv : v ≠ d k)
    (h : Sparse.wf d m = true) : Sparse.wf d (Sparse.insert k v m) = true := by
  induction m with
  | nil => simp [Sparse.insert, Sparse.wf, Sparse.above, hv]
  | cons y m ih =>
    obtain ⟨k', v'⟩ := y
    have hm := h
    simp only [Sparse.wf, Bool.and_eq_true, decide_eq_true_eq] at h
    simp only [Sparse.insert]
    split
    · simp only [Sparse.wf, Sparse.above, Bool.and_eq_true, decide_eq_true_eq]
      exact ⟨⟨hv, by assumption⟩, h⟩
    · split
      · subst_vars
        simp only [Sparse.wf, Bool.and_eq_true, decide_eq_true_eq]
        exact ⟨⟨hv, h.1.2⟩, h.2⟩
      · simp only [Sparse.wf, Bool.and_eq_true, decide_eq_true_eq]
        refine ⟨⟨h.1.1, Sparse.above_of _ _ fun x hx => ?_⟩, ih h.2⟩
        rcases Sparse.mem_insert _ _ _ _ hx with rfl | hx
        · dsimp only
          omega
        · exact Sparse.keys_above d k' m h.2 h.1.2 x hx

theorem Sparse.wf_filter {α : Type} [DecidableEq α] (d : Nat → α) (m : Sparse α) (f : Nat × α → Bool)
    (h : Sparse.wf d m = true) : Sparse.wf d (m.filter f) = true := by
  induction m with
  | nil => rfl
  | cons y m ih =>
    obtain ⟨k, v⟩ := y
    simp only [Sparse.wf, Bool.and_eq_true, decide_eq_true_eq] at h
    rw [List.filter_cons]
    split
    · simp only [Sparse.wf, Bool.and_eq_true, decide_eq_true_eq]
      exact ⟨⟨h.1.1, Sparse.above_of _ _ fun x hx => Sparse.keys_above d k m h.2 h.1.2 x (List.mem_filter.mp hx).1⟩,
        ih h.2⟩
    · exact ih h.2

theorem Sparse.erase_eq {α : Type} (k : Nat) (m : Sparse α) : Sparse.erase k m = m.filter fun x => k ≠ x.1 := by
  induction m with
  | nil => rfl
  | cons y m ih =>
    obtain ⟨k', v'⟩ := y
    simp only [Sparse.erase, List.filter_cons, ih]
    split <;> simp_all

/-- A write keeps the canonical form. -/
theorem Sparse.wf_put {α : Type} [DecidableEq α] (d : Nat → α) (m : Sparse α) (k : Nat) (v : α)
    (h : Sparse.wf d m = true) : Sparse.wf d (Sparse.put d m k v) = true := by
  unfold Sparse.put
  split
  · rw [Sparse.erase_eq]
    exact Sparse.wf_filter d m _ h
  · exact Sparse.wf_insert d m k v (by assumption) h

namespace Machine

/-! ## The addressed memory -/

/-- A byte written reads back, and no other byte changes. -/
theorem State.readByte_writeByte (s : State) (a b : Nat) (v : Byte) :
    (s.writeByte a v).readByte b = if b = a then v else s.readByte b := Sparse.get_put ..

theorem State.writeByte_memWf (s : State) (a : Nat) (v : Byte) (h : s.memWf) : (s.writeByte a v).memWf :=
  Sparse.wf_put memDefault s.mem a v h

theorem State.writeMem_memWf (s : State) (a : Nat) (w : Word) (h : s.memWf) : (s.writeMem a w).memWf :=
  State.writeByte_memWf _ _ _ (State.writeByte_memWf _ _ _ (State.writeByte_memWf _ _ _ (State.writeByte_memWf _ _ _ h)))

theorem State.writeWords_memWf (s : State) (a : Nat) (ws : List Word) (h : s.memWf) : (s.writeWords a ws).memWf := by
  induction ws generalizing s a with
  | nil => exact h
  | cons w ws ih => exact ih _ _ (State.writeMem_memWf _ _ _ h)

theorem reset_memWf : State.reset.memWf := rfl

/-- The four bytes of a word, put together again. -/
theorem wordOf_extract (w : Word) :
    wordOf (w.extractLsb' 24 8) (w.extractLsb' 16 8) (w.extractLsb' 8 8) (w.extractLsb' 0 8) = w := by
  apply BitVec.eq_of_getLsbD_eq
  intro i hi
  have e1 : i - 8 - 8 = i - 16 := by omega
  have e2 : i - 16 - 8 = i - 24 := by omega
  simp only [wordOf, BitVec.getLsbD_append, BitVec.getLsbD_extractLsb', e1, e2]
  by_cases h1 : i < 8
  · simp [h1]
  · by_cases h2 : i - 8 < 8
    · have : 8 + (i - 8) = i := by omega
      simp [h1, h2, this]
    · by_cases h3 : i - 16 < 8
      · have : 16 + (i - 16) = i := by omega
        simp [h1, h2, h3, this]
      · have : 24 + (i - 24) = i := by omega
        have h4 : i - 24 < 8 := by omega
        simp [h1, h2, h3, this, h4]

/-- A word written reads back; the bytes beside it do not change. -/
theorem State.readMem_writeMem (s : State) (a : Nat) (w : Word) : (s.writeMem a w).readMem a = w := by
  simp only [State.readMem, State.writeMem, State.readByte_writeByte]
  simpa using wordOf_extract w

theorem State.readByte_writeMem (s : State) (a b : Nat) (w : Word) (h : b < a ∨ a + 4 ≤ b) :
    (s.writeMem a w).readByte b = s.readByte b := by
  simp only [State.writeMem, State.readByte_writeByte]
  repeat rw [if_neg (by omega)]

end Machine

end Sys2Proof
end

