-- ==== Sys2Proof/Laws/Regs.lean ====
section
/-!
SUPPORT. Laws/Regs.lean: what a register and a field of it read after a write of a register or of a field.
-/
namespace Sys2Proof.Machine

theorem State.reg_setReg (s : State) (a b : Nat) (v : Word) :
    (s.setReg a v).reg b = if b = a then v else s.reg b := Sparse.get_put ..

@[simp] theorem State.reg_setReg_same (s : State) (a : Nat) (v : Word) : (s.setReg a v).reg a = v := by
  rw [State.reg_setReg, if_pos rfl]

theorem State.reg_setReg_ne (s : State) (a b : Nat) (v : Word) (h : b ≠ a) : (s.setReg a v).reg b = s.reg b := by
  rw [State.reg_setReg, if_neg h]

/-- The bits of a word after a field is set. -/
theorem getLsbD_wput (w : Word) (hi lo v j : Nat) (h : lo ≤ hi) (h' : hi < 32) :
    (wput w hi lo v).getLsbD j = if lo ≤ j ∧ j ≤ hi then v.testBit (j - lo) else w.getLsbD j := by
  unfold wput
  by_cases hj : j < 32
  · simp only [BitVec.getLsbD_or, BitVec.getLsbD_and, BitVec.getLsbD_not, BitVec.getLsbD_shiftLeft,
      BitVec.getLsbD_ofNat, hj, decide_true, Bool.true_and, Nat.testBit_two_pow_sub_one, Nat.testBit_mod_two_pow]
    by_cases h1 : lo ≤ j
    · by_cases h2 : j ≤ hi
      · have a1 : ¬ j < lo := by omega
        have a2 : j - lo < 32 := by omega
        have a3 : j - lo < hi - lo + 1 := by omega
        simp [h1, h2, a1, a2, a3]
      · have a1 : ¬ j < lo := by omega
        have a2 : j - lo < 32 := by omega
        have a3 : ¬ j - lo < hi - lo + 1 := by omega
        simp [h1, h2, a1, a2, a3]
    · have a1 : j < lo := by omega
      simp [h1, a1]
  · have a1 : ¬ (lo ≤ j ∧ j ≤ hi) := by omega
    rw [if_neg a1, BitVec.getLsbD_of_ge _ _ (by omega), BitVec.getLsbD_of_ge _ _ (by omega)]

theorem testBit_wbits (w : Word) (hi lo i : Nat) :
    (wbits w hi lo).testBit i = (decide (i < hi - lo + 1) && w.getLsbD (lo + i)) := by
  unfold wbits
  rw [Nat.testBit_mod_two_pow, Nat.testBit_shiftRight]
  rfl

/-- A field reads what was put there, cut to its width. -/
theorem wbits_wput_same (w : Word) (hi lo v : Nat) (h : lo ≤ hi) (h' : hi < 32) :
    wbits (wput w hi lo v) hi lo = v % 2 ^ (hi - lo + 1) := by
  apply Nat.eq_of_testBit_eq
  intro i
  rw [testBit_wbits, getLsbD_wput _ _ _ _ _ h h', Nat.testBit_mod_two_pow]
  by_cases hi' : i < hi - lo + 1
  · have a : lo ≤ lo + i ∧ lo + i ≤ hi := by omega
    simp [hi', a]
  · simp [hi']

/-- A field that shares no bit with the field put reads as before. -/
theorem wbits_wput_ne (w : Word) (hi lo v hi' lo' : Nat) (h : lo ≤ hi) (h' : hi < 32) (d : hi' < lo ∨ hi < lo')
    (k : lo' ≤ hi') : wbits (wput w hi lo v) hi' lo' = wbits w hi' lo' := by
  apply Nat.eq_of_testBit_eq
  intro i
  rw [testBit_wbits, testBit_wbits, getLsbD_wput _ _ _ _ _ h h']
  by_cases hi2 : i < hi' - lo' + 1
  · have a : ¬ (lo ≤ lo' + i ∧ lo' + i ≤ hi) := by omega
    simp only [if_neg a]
  · simp [hi2]

/-- A field of a register reads what was set, cut to its width. -/
theorem State.fld_setF_same (s : State) (f : Fld) (v : Nat) (h : f.lo ≤ f.hi) (h' : f.hi < 32) :
    (s.setF f v).fld f = v % 2 ^ (f.hi - f.lo + 1) := by
  unfold State.fld State.setF
  rw [State.reg_setReg_same]
  exact wbits_wput_same _ _ _ _ h h'

/-- A field of another register, or one that shares no bit, reads as before. -/
theorem State.fld_setF_ne (s : State) (f g : Fld) (v : Nat) (h : f.lo ≤ f.hi) (h' : f.hi < 32) (k : g.lo ≤ g.hi)
    (d : g.reg ≠ f.reg ∨ g.hi < f.lo ∨ f.hi < g.lo) : (s.setF f v).fld g = s.fld g := by
  unfold State.fld State.setF
  by_cases e : g.reg = f.reg
  · rw [e, State.reg_setReg_same]
    exact wbits_wput_ne _ _ _ _ _ _ h h' (d.resolve_left fun x => x e) k
  · rw [State.reg_setReg_ne _ _ _ _ e]

theorem State.fld_setReg_ne (s : State) (a : Nat) (v : Word) (g : Fld) (h : g.reg ≠ a) :
    (s.setReg a v).fld g = s.fld g := by
  unfold State.fld
  rw [State.reg_setReg_ne _ _ _ _ h]

/-- A register other than the one that holds the field. -/
theorem State.reg_setF_ne (s : State) (f : Fld) (v b : Nat) (h : b ≠ f.reg) : (s.setF f v).reg b = s.reg b :=
  State.reg_setReg_ne _ _ _ _ h

/-- A one-bit field reads the Boolean set. -/
theorem State.flag_setB_same (s : State) (f : Fld) (b : Bool) (h : f.hi = f.lo) (h' : f.hi < 32) :
    (s.setB f b).flag f = b := by
  unfold State.flag State.setB
  rw [State.fld_setF_same _ _ _ (by omega) h']
  have e : f.hi - f.lo + 1 = 1 := by omega
  rw [e]
  cases b <;> rfl

end Sys2Proof.Machine
end

