-- ==== Sys2Proof/Laws/Raise.lean ====
section
/-!
SUPPORT. Laws/Raise.lean: raising a fault changes the registers of `faultReg` alone.
-/
namespace Sys2Proof.Machine

theorem fr_refl (s : State) : FaultRegsOnly s s := ⟨fun _ _ => rfl⟩

theorem fr_trans {s t u : State} (h : FaultRegsOnly s t) (k : FaultRegsOnly t u) : FaultRegsOnly s u :=
  ⟨fun a e => (k.same a e).trans (h.same a e)⟩

theorem fr_setReg {s t : State} (a : Nat) (v : Word) (e : faultReg a = true) (h : FaultRegsOnly s t) :
    FaultRegsOnly s (t.setReg a v) := by
  constructor
  intro b hb
  rw [State.reg_setReg_ne _ _ _ _ (fun x => by simp_all)]
  exact h.same b hb

theorem fr_setF {s t : State} (f : Fld) (v : Nat) (e : faultReg f.reg = true) (h : FaultRegsOnly s t) :
    FaultRegsOnly s (t.setF f v) := fr_setReg _ _ e h

theorem fr_setB {s t : State} (f : Fld) (v : Bool) (e : faultReg f.reg = true) (h : FaultRegsOnly s t) :
    FaultRegsOnly s (t.setB f v) := fr_setReg _ _ e h

theorem faultReg_news (a : Nat) (h : newsBase ≤ a) : faultReg a = true := by
  simp [faultReg, h]

theorem faultReg_pair (p : PairIx) (k : Nat) (h : k < 32) : faultReg (Reg.PC_PAIR p.val k) = true := by
  have h1 : 0x6100 ≤ Reg.PC_PAIR p.val k := by unfold Reg.PC_PAIR; omega
  have h2 : Reg.PC_PAIR p.val k < 0x6500 := by unfold Reg.PC_PAIR; omega
  simp only [faultReg, h1, h2, decide_true, Bool.and_self, Bool.or_true, Bool.true_or]

theorem fr_addF {s t : State} (f : Fld) (n : Nat) (e : faultReg f.reg = true) (h : FaultRegsOnly s t) :
    FaultRegsOnly s (t.addF f n) := by
  unfold State.addF State.gather
  exact fr_setF _ _ (faultReg_news _ (by simp [Fld.news])) (fr_setF _ _ e h)

/-- A step that changes no register. -/
theorem fr_regs {s t u : State} (e : u.regs = t.regs) (h : FaultRegsOnly s t) : FaultRegsOnly s u := by
  constructor
  intro a ha
  rw [← h.same a ha]
  unfold State.reg
  rw [e]

theorem fr_only {ps : List Part} {s t u : State} (k : OnlyChanges ps t u) (n : ps.contains .regs = false)
    (h : FaultRegsOnly s t) : FaultRegsOnly s u :=
  fr_regs (k.same .regs (by simpa using n)) h

theorem fr_foldl {s t : State} {α : Type} {f : State → α → State} {xs : List α}
    (h : ∀ u x, FaultRegsOnly u (f u x)) (h' : FaultRegsOnly s t) : FaultRegsOnly s (xs.foldl f t) := by
  induction xs generalizing t with
  | nil => exact h'
  | cons x xs ih => exact ih (fr_trans h' (h t x))

theorem fr_ite {s t u : State} {c : Prop} [Decidable c] (h : FaultRegsOnly s t) (h' : FaultRegsOnly s u) :
    FaultRegsOnly s (if c then t else u) := by
  split <;> assumption

theorem fr_syncFc (s : State) : FaultRegsOnly s s.syncFc := by
  unfold State.syncFc
  exact fr_setB _ _ (by decide) (fr_setF _ _ (by decide) (fr_setF _ _ (by decide) (fr_refl s)))

theorem fr_pcPairHeld {s t : State} (p : PairIx) (k n : Nat) (e : k < 15) (h : FaultRegsOnly s t) :
    FaultRegsOnly s (t.pcPairHeld p.val k n) := by
  unfold State.pcPairHeld State.pcAdd State.setPairReg
  have e1 : Reg.PC_PAIR p.val (2 * k) + 4 = Reg.PC_PAIR p.val (2 * k + 1) := by unfold Reg.PC_PAIR; omega
  refine fr_setReg _ _ ?_ (fr_setReg _ _ (faultReg_pair p _ (by omega)) h)
  rw [e1]
  exact faultReg_pair p _ (by omega)

theorem fr_pcTake {s t : State} (p : PairIx) (k n : Nat) (e : k < 15) (h : FaultRegsOnly s t) :
    FaultRegsOnly s (t.pcTake p.val k n) := fr_pcPairHeld p _ _ (by decide) (fr_pcPairHeld p k n e h)

theorem fr_chaffTines {s t : State} (p : PairIx) (cs : List Ctx) (h : FaultRegsOnly s t) :
    FaultRegsOnly s (t.chaffTines p cs) := by
  unfold State.chaffTines State.pcPair
  have h1 := fr_pcTake (s := s) p pcCHAFF (cs.foldl (fun a c => a + c.slots.total) 0) (by decide) h
  dsimp only
  split
  · exact h1
  · exact fr_pcPairHeld p _ _ (by decide) h1

theorem fr_cutWork {s t : State} (p : PairIx) (x : Slots) (h : FaultRegsOnly s t) : FaultRegsOnly s (t.cutWork p x) := by
  unfold State.cutWork
  dsimp only
  have h1 := fr_chaffTines (s := s) p (t.pairs.get p).tines h
  split
  · exact h1
  · refine fr_only (State.updPair_only ..) (by decide) ?_
    split
    · exact fr_chaffTines p _ h1
    · exact fr_pcTake p _ _ (by decide) h1

theorem faultReg_bnd (p : PairIx) : faultReg (Reg.BND_STATUS p.val) = true := by
  revert p
  decide

theorem fr_disarm (s : State) (mask : Nat) : FaultRegsOnly s (s.disarm mask) := by
  unfold State.disarm
  dsimp only
  have h : FaultRegsOnly s ((allHalves.foldl (fun (s' : State) h =>
      if mask.testBit h.val && s'.armed h.val then
        { s' with halves := s'.halves.upd h fun x => { x with disarmTick := some s.tick } }
      else s') s).setF F.SYS_STATE_ARMED_HALVES (s.fld F.SYS_STATE_ARMED_HALVES &&& (3 - mask % 4))) := by
    refine fr_setF _ _ (by decide) (fr_foldl (fun u x => ?_) (fr_refl s))
    exact fr_ite (fr_regs (t := u) rfl (fr_refl u)) (fr_refl u)
  refine fr_ite ?_ h
  refine fr_foldl (fun u p => ?_) (fr_setF _ _ (by decide) h)
  exact fr_ite (fr_setF _ _ (faultReg_bnd p) (fr_refl u)) (fr_refl u)

theorem fr_stopPairs {s t : State} (h : FaultRegsOnly s t) : FaultRegsOnly s t.stopPairs := by
  unfold State.stopPairs
  refine fr_foldl (fun u p => ?_) h
  exact fr_ite (fr_refl u) (fr_only (State.updPair_only ..) (by decide) (fr_cutWork p _ (fr_refl u)))

theorem fr_deviceSafe (s : State) (msg : Word) : FaultRegsOnly s (s.deviceSafe msg) := by
  unfold State.deviceSafe
  dsimp only
  refine fr_regs (t := State.whenB _ _ _) rfl ?_
  have h : FaultRegsOnly s ((((s.disarm 3).stopPairs).enter 4).setReg Reg.FC_REACT_MSG msg) :=
    fr_setReg _ _ (by decide) (fr_setF _ _ (by decide) (fr_stopPairs (fr_disarm s 3)))
  unfold State.whenB
  split
  · exact fr_regs (t := (((s.disarm 3).stopPairs).enter 4).setReg Reg.FC_REACT_MSG msg) rfl h
  · exact h

theorem fr_resetReact (s : State) (msg : Word) : FaultRegsOnly s (s.resetReact msg) := by
  unfold State.resetReact
  exact fr_regs (t := (s.disarm 3).setReg Reg.FC_REACT_MSG msg) rfl (fr_setReg _ _ (by decide) (fr_disarm s 3))

theorem fr_endDrive (s : State) : FaultRegsOnly s s.endDrive := by
  unfold State.endDrive
  refine fr_ite ?_ (fr_refl s)
  exact fr_regs (t := s.setB F.YK_STATUS_ACTIVE false) rfl (fr_setB _ _ (by decide) (fr_refl s))

theorem fr_react (s : State) (src kind addr cls : Nat) (auto : Bool) (msg : Word) :
    FaultRegsOnly s (s.react src kind addr cls auto msg) := by
  unfold State.react
  dsimp only
  have h : FaultRegsOnly s (s.latchChannels (s.targetChannels src kind addr) src kind auto) :=
    fr_only (State.latchChannels_only ..) (by decide) (fr_refl s)
  refine fr_ite (fr_refl s) (fr_ite (fr_refl s) (fr_ite ?_ ?_))
  · refine fr_trans ?_ (fr_syncFc _)
    exact fr_regs (t := s.latchChannels (s.targetChannels src kind addr) src kind auto) rfl h
  · refine fr_trans ?_ (fr_syncFc _)
    generalize s.latchChannels (s.targetChannels src kind addr) src kind auto = t at h
    have h2 : FaultRegsOnly s (if cls ≥ clsHALF then
        ((t.suspendReact.endDrive.disarm (t.targetHalves src)).markPending (t.targetHalves src) auto) else t) :=
      fr_ite (fr_only (State.markPending_only ..) (by decide) (fr_trans (fr_trans
        (fr_only (State.suspendReact_only t) (by decide) h) (fr_endDrive _)) (fr_disarm _ _))) h
    generalize (if cls ≥ clsHALF then
        ((t.suspendReact.endDrive.disarm (t.targetHalves src)).markPending (t.targetHalves src) auto) else t) = u at h2
    refine fr_ite ?_ (fr_ite ?_ h2)
    · exact fr_trans h2 (fr_deviceSafe _ _)
    · exact fr_trans h2 (fr_resetReact _ _)

theorem kindTable_src (src kind : Nat) (r : KindRow) (h : kindRow? src kind = some r) : src ≤ 0x50 := by
  have h1 := List.find?_some h
  have h2 := List.mem_of_find?_eq_some h
  simp only [Bool.and_eq_true, decide_eq_true_eq] at h1
  have h3 : ∀ r ∈ kindTable, r.hi ≤ 0x50 := by decide
  exact Nat.le_trans h1.1.2 (h3 r h2)

theorem fr_countSource (s : State) (src kind : Nat) (h : src ≤ 0x50) : FaultRegsOnly s (s.countSource src kind) := by
  have e : faultReg (0x2100 + 4 * src) = true := by
    have h1 : 0x2000 ≤ 0x2100 + 4 * src := by omega
    have h2 : 0x2100 + 4 * src < 0x3000 := by omega
    simp only [faultReg, h1, h2, decide_true, Bool.and_self, Bool.or_true, Bool.true_or]
  unfold State.countSource
  exact fr_setF _ _ e (fr_addF _ _ e (fr_refl s))

theorem fr_raiseCore (s : State) (src kind addr : Nat) (forced rehearsal : Bool) :
    FaultRegsOnly s (s.raiseCore src kind addr forced rehearsal) := by
  unfold State.raiseCore
  split
  · exact fr_refl s
  · next r h =>
    dsimp only
    have hc := fr_countSource s src kind (kindTable_src src kind r h)
    refine fr_ite ?_ ?_
    · exact fr_regs (t := s.countSource src kind) rfl hc
    · refine fr_trans ?_ (fr_react _ _ _ _ _ _ _)
      exact fr_regs (t := s.countSource src kind) rfl hc

theorem fr_setRecfg (s : State) (st reason : Nat) : FaultRegsOnly s (s.setRecfg st reason) := by
  unfold State.setRecfg
  split
  · exact fr_regs (t := s) rfl (fr_refl s)
  · exact fr_setF _ _ (by decide) (fr_setF _ _ (by decide) (fr_refl s))

theorem fr_endRecfg (s : State) (st reason : Nat) : FaultRegsOnly s (s.endRecfg st reason) :=
  fr_trans (fr_setRecfg _ _ _) (fr_raiseCore _ _ _ _ _ _)

theorem fr_raiseWith (s : State) (src kind addr : Nat) (forced rehearsal : Bool) :
    FaultRegsOnly s (s.raiseWith src kind addr forced rehearsal) := by
  unfold State.raiseWith
  dsimp only
  unfold State.whenB
  refine fr_ite ?_ (fr_refl s)
  refine fr_ite ?_ (fr_raiseCore _ _ _ _ _ _)
  unfold State.recfgCancelFor
  exact fr_ite (fr_trans (fr_raiseCore _ _ _ _ _ _) (fr_endRecfg _ _ _)) (fr_raiseCore _ _ _ _ _ _)

theorem fr_raise (s : State) (src kind addr : Nat) : FaultRegsOnly s (s.raise src kind addr) := fr_raiseWith ..

/-- A register that raising a fault does not change. -/
theorem State.reg_raise (s : State) (src kind addr a : Nat) (h : faultReg a = false) :
    (s.raise src kind addr).reg a = s.reg a := (fr_raise s src kind addr).same a h

theorem State.fld_raise (s : State) (src kind addr : Nat) (f : Fld) (h : faultReg f.reg = false) :
    (s.raise src kind addr).fld f = s.fld f := by
  unfold State.fld
  rw [State.reg_raise _ _ _ _ _ h]

end Sys2Proof.Machine
end

