-- ==== Sys2Proof/Laws/Told.lean ====
section
/-!
SUPPORT. Laws/Told.lean: a fault that is raised is collected (R457, R459), no later fault takes a message back, and a
fault changes nothing of a half but the tick of its disarming.
-/
namespace Sys2Proof.Machine

/-! ## Messages -/

theorem collect_keeps {ms : List Msg} {m x : Msg} (h : x ∈ ms) :
    ∃ y ∈ collect ms m, y.key = x.key ∧ y.swath = x.swath ∧ (x.real = true → y.real = true) := by
  unfold collect
  split
  · refine ⟨_, List.mem_map_of_mem h, ?_⟩
    split
    · exact ⟨rfl, rfl, fun e => by simp [e]⟩
    · exact ⟨rfl, rfl, id⟩
  · exact ⟨x, List.mem_append_left _ h, rfl, rfl, id⟩

theorem collect_has (ms : List Msg) (m : Msg) (h : m.real = true) :
    ∃ y ∈ collect ms m, y.key = m.key ∧ y.swath = m.swath ∧ y.real = true := by
  unfold collect
  split
  · rename_i e
    obtain ⟨x, hx, e⟩ := List.any_eq_true.mp e
    refine ⟨_, List.mem_map_of_mem hx, ?_⟩
    rw [if_pos e]
    simp only [Bool.and_eq_true, beq_iff_eq] at e
    exact ⟨e.1, e.2, by simp [h]⟩
  · exact ⟨m, by simp, rfl, rfl, h⟩

/-- The batch of the Fault Collector holds a real message of a source, kind and address of a swath. -/
def HasMsg (swath src kind addr : Nat) (t : State) : Prop :=
  ∃ m ∈ t.fc.batch, m.key = src * 2 ^ 18 + kind * 2 ^ 12 + addr % 4096 ∧ m.real = true ∧ m.swath = swath

theorem has_of_batch {n src kind addr : Nat} {s t : State} (e : t.fc.batch = s.fc.batch)
    (h : HasMsg n src kind addr s) : HasMsg n src kind addr t := by
  unfold HasMsg at *
  rw [e]
  exact h

/-! ## The batch through a reaction -/

theorem batch_only {ps : List Part} {s t : State} (k : OnlyChanges ps s t) (m : ps.contains .fc = false) :
    t.fc.batch = s.fc.batch := congrArg Fc.batch (k.same .fc (by simpa using m))

theorem batch_disarm (s : State) (mask : Nat) : (s.disarm mask).fc.batch = s.fc.batch :=
  batch_only (State.disarm_only ..) (by decide)

theorem batch_syncFc (s : State) : s.syncFc.fc.batch = s.fc.batch := batch_only (State.syncFc_only ..) (by decide)

theorem batch_ite {s t u : State} {c : Prop} [Decidable c] (h : t.fc.batch = s.fc.batch) (h' : u.fc.batch = s.fc.batch) :
    (if c then t else u).fc.batch = s.fc.batch := by
  split <;> assumption

theorem batch_half (s : State) (halves : Nat) (auto : Bool) :
    ((s.suspendReact.endDrive.disarm halves).markPending halves auto).fc.batch = s.fc.batch := by
  have h : ((s.suspendReact.endDrive.disarm halves).markPending halves auto).fc.batch
      = (s.suspendReact.endDrive.disarm halves).fc.batch := rfl
  rw [h, batch_disarm, batch_only (State.endDrive_only _) (by decide), batch_only (State.suspendReact_only _) (by decide)]

theorem batch_deviceSafe (s : State) (msg : Word) : (s.deviceSafe msg).fc.batch = s.fc.batch := by
  rw [← batch_disarm s 3, ← batch_only (State.stopPairs_only (s.disarm 3)) (by decide)]
  unfold State.deviceSafe State.whenB
  dsimp only
  split <;> rfl

theorem batch_resetReact (s : State) (msg : Word) : (s.resetReact msg).fc.batch = s.fc.batch := by
  rw [← batch_disarm s 3]
  rfl

theorem batch_react (s : State) (src kind addr cls : Nat) (auto : Bool) (msg : Word) :
    (s.react src kind addr cls auto msg).fc.batch = s.fc.batch := by
  unfold State.react
  dsimp only
  have h : (s.latchChannels (s.targetChannels src kind addr) src kind auto).fc.batch = s.fc.batch := rfl
  generalize s.latchChannels (s.targetChannels src kind addr) src kind auto = t at h ⊢
  refine batch_ite rfl (batch_ite rfl (batch_ite ?_ ?_))
  · exact (batch_syncFc _).trans h
  · rw [batch_syncFc]
    have h2 : (if cls ≥ clsHALF then
        (t.suspendReact.endDrive.disarm (t.targetHalves src)).markPending (t.targetHalves src) auto else t).fc.batch
        = s.fc.batch := batch_ite ((batch_half ..).trans h) h
    refine batch_ite ((batch_deviceSafe ..).trans h2) (batch_ite ((batch_resetReact ..).trans h2) h2)

theorem has_raiseCore {s : State} {src kind addr : Nat} (h : known src kind = true) (r : Bool) :
    HasMsg s.swath src kind addr (s.raiseCore src kind addr false r) := by
  unfold State.raiseCore
  unfold known at h
  split
  · rename_i e
    simp [e] at h
  · have key : HasMsg s.swath src kind addr { (s.countSource src kind) with fc := { (s.countSource src kind).fc with
        batch := collect (s.countSource src kind).fc.batch ⟨src * 2 ^ 18 + kind * 2 ^ 12 + addr % 4096, !false, false,
          (s.reactionOf src kind).1, s.swath, s.tick⟩ } } := by
      obtain ⟨y, hy, e1, e2, e3⟩ := collect_has (s.countSource src kind).fc.batch
        ⟨src * 2 ^ 18 + kind * 2 ^ 12 + addr % 4096, !false, false, (s.reactionOf src kind).1, s.swath, s.tick⟩ rfl
      exact ⟨y, hy, e1, e3, e2⟩
    have hsw : (s.countSource src kind).swath = s.swath := by
      unfold State.swath State.pairReg
      rw [(fr_countSource s src kind (by
        rename_i r e
        exact kindTable_src src kind r e)).same _ (by decide), (fr_countSource s src kind (by
        rename_i r e
        exact kindTable_src src kind r e)).same _ (by decide)]
    have htk : (s.countSource src kind).tick = s.tick := by
      unfold State.tick State.pairReg
      rw [(fr_countSource s src kind (by
        rename_i r e
        exact kindTable_src src kind r e)).same _ (by decide), (fr_countSource s src kind (by
        rename_i r e
        exact kindTable_src src kind r e)).same _ (by decide)]
    dsimp only
    rw [hsw, htk]
    split
    · exact key
    · exact has_of_batch (batch_react ..) key

theorem fc_countSource (s : State) (src kind : Nat) : (s.countSource src kind).fc = s.fc :=
  (State.countSource_only s src kind).same .fc (by decide)

theorem has_keep_raiseCore {s : State} {n src kind addr src' kind' addr' : Nat} {f r : Bool}
    (h : HasMsg n src kind addr s) : HasMsg n src kind addr (s.raiseCore src' kind' addr' f r) := by
  unfold State.raiseCore
  split
  · exact h
  · have key : ∀ m, HasMsg n src kind addr { (s.countSource src' kind') with fc := { (s.countSource src' kind').fc with
        batch := collect (s.countSource src' kind').fc.batch m } } := by
      intro m
      rw [fc_countSource]
      obtain ⟨x, hx, e1, e2, e3⟩ := h
      obtain ⟨y, hy, k1, k2, k3⟩ := collect_keeps (m := m) hx
      exact ⟨y, hy, k1.trans e1, k3 e2, k2.trans e3⟩
    dsimp only
    split
    · exact key _
    · exact has_of_batch (batch_react ..) (key _)

theorem has_setRecfg {s : State} {n src kind addr a b : Nat} (h : HasMsg n src kind addr s) :
    HasMsg n src kind addr (s.setRecfg a b) := by
  unfold State.setRecfg
  split
  · exact h
  · exact h

theorem has_cancel {s : State} {n src kind addr a : Nat} (h : HasMsg n src kind addr s) :
    HasMsg n src kind addr (s.recfgCancelFor a) := by
  unfold State.recfgCancelFor
  split
  · exact has_keep_raiseCore (has_setRecfg h)
  · exact h

/-- A step that leaves the power state leaves the core domain as it was. -/
theorem coreOn_only {ps : List Part} {s t : State} (k : OnlyChanges ps s t) (m : ps.contains .pwr = false) :
    t.coreOn = s.coreOn := by
  unfold State.coreOn
  rw [show t.pwr = s.pwr from k.same .pwr (by simpa using m)]

theorem coreOn_raise (s : State) (src kind addr : Nat) : (s.raise src kind addr).coreOn = s.coreOn :=
  coreOn_only (State.raise_only ..) (by decide)

/-- A step that touches neither the Fault Collector nor the power state keeps a message. -/
theorem told_only {ps : List Part} {n src kind addr : Nat} {s t : State} (k : OnlyChanges ps s t)
    (m : ps.contains .fc = false) (m' : ps.contains .pwr = false) (h : Told n src kind addr s) : Told n src kind addr t :=
  fun on => has_of_batch (batch_only k m) (h ((coreOn_only k m').symm.trans on))

/-- A fault of a known kind is collected while the core domain is on. -/
theorem told_raise {s : State} {src kind addr : Nat} (h : known src kind = true) :
    Told s.swath src kind addr (s.raise src kind addr) := by
  intro on
  rw [coreOn_raise] at on
  unfold State.raise State.raiseWith State.whenB
  dsimp only
  rw [if_pos on]
  split
  · exact has_cancel (has_raiseCore h _)
  · exact has_raiseCore h _

/-- No fault takes a message back. -/
theorem told_keep {s : State} {n src kind addr src' kind' addr' : Nat} (h : Told n src kind addr s) :
    Told n src kind addr (s.raise src' kind' addr') := by
  intro on
  rw [coreOn_raise] at on
  unfold State.raise State.raiseWith State.whenB
  dsimp only
  rw [if_pos on]
  split
  · exact has_cancel (has_keep_raiseCore (h on))
  · exact has_keep_raiseCore (h on)

/-! ## The halves -/

/-- Nothing of a half has changed but the tick of its disarming. -/
structure HalvesKept (s t : State) : Prop where
  /-- every other field -/
  same : ∀ h : HalfIx, t.half h = { s.half h with disarmTick := (t.half h).disarmTick }

theorem hk_eq {s t : State} (e : t.halves = s.halves) : HalvesKept s t :=
  ⟨fun h => by unfold State.half; rw [e]⟩

theorem hk_trans {s t u : State} (h : HalvesKept s t) (k : HalvesKept t u) : HalvesKept s u :=
  ⟨fun x => by rw [k.same x, h.same x]⟩

theorem hk_only {ps : List Part} {s t : State} (k : OnlyChanges ps s t) (m : ps.contains .halves = false) :
    HalvesKept s t := hk_eq (k.same .halves (by simpa using m))

theorem hk_ite {s t u : State} {c : Prop} [Decidable c] (h : HalvesKept s t) (h' : HalvesKept s u) :
    HalvesKept s (if c then t else u) := by
  split <;> assumption

theorem hk_foldl {s t : State} {α : Type} {f : State → α → State} {xs : List α} (h : ∀ u x, HalvesKept u (f u x))
    (h' : HalvesKept s t) : HalvesKept s (xs.foldl f t) := by
  induction xs generalizing t with
  | nil => exact h'
  | cons x xs ih => exact ih (hk_trans h' (h t x))

theorem hk_disarm (s : State) (mask : Nat) : HalvesKept s (s.disarm mask) := by
  unfold State.disarm
  dsimp only
  have h : HalvesKept s (allHalves.foldl (fun (s' : State) h =>
      if mask.testBit h.val && s'.armed h.val then
        { s' with halves := s'.halves.upd h fun x => { x with disarmTick := some s.tick } }
      else s') s) := by
    refine hk_foldl (fun u x => hk_ite ⟨fun y => ?_⟩ (hk_eq rfl)) (hk_eq rfl)
    unfold State.half
    by_cases e : x = y
    · subst e
      simp
    · simp [Tab.get_upd_ne _ _ _ _ e]
  refine hk_ite (hk_foldl (fun u p => ?_) (hk_trans h (hk_eq rfl))) (hk_trans h (hk_eq rfl))
  exact hk_ite (hk_eq rfl) (hk_eq rfl)

theorem hk_half (s : State) (halves : Nat) (auto : Bool) :
    HalvesKept s ((s.suspendReact.endDrive.disarm halves).markPending halves auto) :=
  hk_trans (t := s.suspendReact.endDrive.disarm halves)
    (hk_trans (t := s.suspendReact.endDrive)
      (hk_trans (t := s.suspendReact) (hk_eq rfl) (hk_only (State.endDrive_only _) (by decide))) (hk_disarm _ _)) (hk_eq rfl)

theorem hk_deviceSafe (s : State) (msg : Word) : HalvesKept s (s.deviceSafe msg) := by
  refine hk_trans (hk_disarm s 3) (hk_trans (hk_only (State.stopPairs_only _) (by decide)) ?_)
  unfold State.deviceSafe State.whenB
  dsimp only
  split <;> exact hk_eq rfl

theorem hk_react (s : State) (src kind addr cls : Nat) (auto : Bool) (msg : Word) :
    HalvesKept s (s.react src kind addr cls auto msg) := by
  unfold State.react
  dsimp only
  have h : HalvesKept s (s.latchChannels (s.targetChannels src kind addr) src kind auto) := hk_eq rfl
  generalize s.latchChannels (s.targetChannels src kind addr) src kind auto = t at h ⊢
  refine hk_ite (hk_eq rfl) (hk_ite (hk_eq rfl) (hk_ite ?_ ?_))
  · refine hk_trans ?_ (hk_only (State.syncFc_only _) (by decide))
    exact hk_trans h (hk_eq rfl)
  · refine hk_trans ?_ (hk_only (State.syncFc_only _) (by decide))
    have h2 : HalvesKept s (if cls ≥ clsHALF then
        (t.suspendReact.endDrive.disarm (t.targetHalves src)).markPending (t.targetHalves src) auto else t) :=
      hk_ite (hk_trans h (hk_half ..)) h
    refine hk_ite (hk_trans h2 (hk_deviceSafe ..)) (hk_ite (hk_trans h2 ?_) h2)
    exact hk_trans (hk_disarm _ 3) (hk_eq rfl)

theorem hk_raiseCore (s : State) (src kind addr : Nat) (f r : Bool) : HalvesKept s (s.raiseCore src kind addr f r) := by
  unfold State.raiseCore
  split
  · exact hk_eq rfl
  · have h : HalvesKept s (s.countSource src kind) := hk_only (State.countSource_only ..) (by decide)
    dsimp only
    generalize s.countSource src kind = t at h ⊢
    have hf : ∀ x, HalvesKept s { t with fc := x } := fun x => hk_trans h (hk_eq rfl)
    exact hk_ite (hf _) (hk_trans (hf _) (hk_react ..))

/-- A fault changes nothing of a half but the tick of its disarming. -/
theorem hk_raise (s : State) (src kind addr : Nat) : HalvesKept s (s.raise src kind addr) := by
  unfold State.raise State.raiseWith State.whenB
  dsimp only
  refine hk_ite ?_ (hk_eq rfl)
  have h := hk_raiseCore s src kind addr false false
  generalize s.raiseCore src kind addr false false = u at h
  refine hk_ite (hk_trans h ?_) h
  unfold State.recfgCancelFor State.endRecfg
  refine hk_ite (hk_trans (t := u.setRecfg 5 0x21) ?_ (hk_raiseCore ..)) (hk_eq rfl)
  unfold State.setRecfg
  split <;> exact hk_eq rfl

end Sys2Proof.Machine
end

