-- ==== Sys2Proof/Laws/Field.lean ====
section
/-!
SUPPORT. Laws/Field.lean: what a change of a field die does beyond the change itself: its switches follow their commands
(R87), status and fingerprint registers follow, and nothing else of a channel, a half or the register file changes.
-/
namespace Sys2Proof.Machine

/-- What of a channel a switching leaves alone: all but the switch, its limit, its closures, its capture, and a retry that
waited for the command with its count. -/
def Chan.core (x : Chan) : Chan :=
  { x with closed := false, limit := false, backoff := b2n (x.backoff == 1), closures := 0#32, capture := none,
           holdFrom := none, capFrom := 0, l0ok := false, tries := 0 }

/-- What of a half a switching leaves alone: all but the state of GDRV, which follows. -/
def Half.core (x : Half) : Half := { x with gdrv := false }

/-- Two halves agree in all but the state of GDRV. -/
structure HalfKept (s t : State) : Prop where
  /-- each half -/
  same : ∀ h, (t.half h).core = (s.half h).core

theorem hc_eq {s t : State} (e : t.halves = s.halves) : HalfKept s t := ⟨fun h => by unfold State.half; rw [e]⟩

theorem hc_trans {s t u : State} (h : HalfKept s t) (k : HalfKept t u) : HalfKept s u :=
  ⟨fun x => (k.same x).trans (h.same x)⟩

/-- What the commands of a channel take from its half. -/
theorem half_inputs {s t : State} (h : HalfKept s t) (k : HalfIx) :
    (t.half k).kept = (s.half k).kept ∧ (t.half k).uv = (s.half k).uv ∧ (t.half k).timedOut = (s.half k).timedOut ∧
      (t.half k).forced = (s.half k).forced ∧ (t.half k).gateHold = (s.half k).gateHold := by
  have e := h.same k
  unfold Half.core at e
  rw [Half.mk.injEq] at e
  simp only [e, and_self]

/-- Switches and status have followed, and nothing else has changed. -/
structure Follows (s t : State) : Prop where
  /-- registers -/
  regs : ∀ a, t.reg a &&& fieldKeep a = s.reg a &&& fieldKeep a
  /-- halves -/
  halves : HalfKept s t
  /-- channels -/
  chans : ∀ c, (t.chan c).core = (s.chan c).core

theorem fo_refl (s : State) : Follows s s := ⟨fun _ => rfl, hc_eq rfl, fun _ => rfl⟩

theorem fo_trans {s t u : State} (h : Follows s t) (k : Follows t u) : Follows s u :=
  ⟨fun a => (k.regs a).trans (h.regs a), hc_trans h.halves k.halves, fun c => (k.chans c).trans (h.chans c)⟩

theorem fo_ite {s t u : State} {c : Prop} [Decidable c] (h : Follows s t) (h' : Follows s u) :
    Follows s (if c then t else u) := by
  split <;> assumption

theorem fo_foldl {s t : State} {α : Type} {f : State → α → State} {xs : List α} (h : ∀ u x, Follows u (f u x))
    (h' : Follows s t) : Follows s (xs.foldl f t) := by
  induction xs generalizing t with
  | nil => exact h'
  | cons x xs ih => exact ih (fo_trans h' (h t x))

theorem fieldKeep_zero {a : Nat} (e : fieldReg a = true) : fieldKeep a = 0#32 := by
  unfold fieldKeep
  rw [if_pos e]

/-- A write that leaves the bits kept of its register. -/
theorem fo_keep (s : State) (a : Nat) (v : Word) (e : v &&& fieldKeep a = s.reg a &&& fieldKeep a) :
    Follows s (s.setReg a v) := by
  refine ⟨fun b => ?_, hc_eq rfl, fun _ => rfl⟩
  rw [State.reg_setReg]
  split
  · subst_vars
    exact e
  · rfl

theorem fo_setReg (s : State) (a : Nat) (v : Word) (e : fieldReg a = true) : Follows s (s.setReg a v) :=
  fo_keep s a v (by rw [fieldKeep_zero e, BitVec.and_zero, BitVec.and_zero])

/-- One bit put where the mask has a 0. -/
theorem and_wput (w m : Word) (i v : Nat) (h : i < 32) (e : m.getLsbD i = false) : wput w i i v &&& m = w &&& m := by
  apply BitVec.eq_of_getLsbD_eq
  intro j _
  rw [BitVec.getLsbD_and, BitVec.getLsbD_and, getLsbD_wput _ _ _ _ _ (Nat.le_refl _) h]
  split
  · rename_i k
    have : j = i := by omega
    subst this
    simp [e]
  · rfl

/-- A one-bit field that is not kept. -/
theorem fo_bit (s : State) (f : Fld) (b : Bool) (h : f.hi = f.lo) (h' : f.lo < 32)
    (e : (fieldKeep f.reg).getLsbD f.lo = false) : Follows s (s.setB f b) := by
  refine fo_keep s f.reg _ ?_
  rw [h]
  exact and_wput _ _ _ _ h' e

theorem fo_setF (s : State) (f : Fld) (v : Nat) (e : fieldReg f.reg = true) : Follows s (s.setF f v) := fo_setReg _ _ _ e

theorem fo_setB (s : State) (f : Fld) (v : Bool) (e : fieldReg f.reg = true) : Follows s (s.setB f v) := fo_setReg _ _ _ e

/-- A step that touches neither registers nor channels nor halves. -/
theorem fo_only {ps : List Part} {s t : State} (k : OnlyChanges ps s t)
    (m : (ps.contains .regs || ps.contains .chans || ps.contains .halves) = false) : Follows s t := by
  simp only [Bool.or_eq_false_iff] at m
  refine ⟨fun a => ?_, hc_eq (k.same .halves (by simpa using m.2)), fun c => ?_⟩
  · have := k.same .regs (by simpa using m.1.1)
    unfold State.reg
    rw [show t.regs = s.regs from this]
  · have := k.same .chans (by simpa using m.1.2)
    unfold State.chan
    rw [show t.chans = s.chans from this]

theorem chan_updChan (s : State) (c d : ChIx) (f : Chan → Chan) :
    (s.updChan c f).chan d = if d = c then f (s.chan d) else s.chan d := by
  unfold State.updChan State.chan
  split
  · subst_vars
    simp
  · rename_i h
    simp [Tab.get_upd_ne _ _ _ _ (Ne.symm h)]

theorem half_updHalf (s : State) (h k : HalfIx) (f : Half → Half) :
    (s.updHalf h f).half k = if k = h then f (s.half k) else s.half k := by
  unfold State.updHalf State.half
  split
  · subst_vars
    simp
  · rename_i h
    simp [Tab.get_upd_ne _ _ _ _ (Ne.symm h)]

@[simp] theorem half_updChan (s : State) (c : ChIx) (h : HalfIx) (f : Chan → Chan) : (s.updChan c f).half h = s.half h := rfl
@[simp] theorem chan_updHalf (s : State) (h : HalfIx) (c : ChIx) (f : Half → Half) : (s.updHalf h f).chan c = s.chan c := rfl
@[simp] theorem reg_updChan (s : State) (c : ChIx) (a : Nat) (f : Chan → Chan) : (s.updChan c f).reg a = s.reg a := rfl
@[simp] theorem reg_updHalf (s : State) (h : HalfIx) (a : Nat) (f : Half → Half) : (s.updHalf h f).reg a = s.reg a := rfl
@[simp] theorem fld_updChan (s : State) (c : ChIx) (a : Fld) (f : Chan → Chan) : (s.updChan c f).fld a = s.fld a := rfl
@[simp] theorem fld_updHalf (s : State) (h : HalfIx) (a : Fld) (f : Half → Half) : (s.updHalf h f).fld a = s.fld a := rfl
@[simp] theorem chan_setReg (s : State) (a : Nat) (v : Word) (c : ChIx) : (s.setReg a v).chan c = s.chan c := rfl
@[simp] theorem half_setReg (s : State) (a : Nat) (v : Word) (h : HalfIx) : (s.setReg a v).half h = s.half h := rfl
@[simp] theorem chan_setF (s : State) (a : Fld) (v : Nat) (c : ChIx) : (s.setF a v).chan c = s.chan c := rfl
@[simp] theorem half_setF (s : State) (a : Fld) (v : Nat) (h : HalfIx) : (s.setF a v).half h = s.half h := rfl
@[simp] theorem chan_setB (s : State) (a : Fld) (v : Bool) (c : ChIx) : (s.setB a v).chan c = s.chan c := rfl
@[simp] theorem half_setB (s : State) (a : Fld) (v : Bool) (h : HalfIx) : (s.setB a v).half h = s.half h := rfl
@[simp] theorem chan_addF (s : State) (a : Fld) (v : Nat) (c : ChIx) : (s.addF a v).chan c = s.chan c :=
  congrArg (fun t : Tab 16 Chan => t.get c) ((State.addF_only s a v).same .chans (by decide))
@[simp] theorem half_addF (s : State) (a : Fld) (v : Nat) (h : HalfIx) : (s.addF a v).half h = s.half h :=
  congrArg (fun t : Tab 2 Half => t.get h) ((State.addF_only s a v).same .halves (by decide))
@[simp] theorem chan_orF (s : State) (a : Fld) (v : Nat) (c : ChIx) : (s.orF a v).chan c = s.chan c :=
  congrArg (fun t : Tab 16 Chan => t.get c) ((State.orF_only s a v).same .chans (by decide))
@[simp] theorem half_orF (s : State) (a : Fld) (v : Nat) (h : HalfIx) : (s.orF a v).half h = s.half h :=
  congrArg (fun t : Tab 2 Half => t.get h) ((State.orF_only s a v).same .halves (by decide))

theorem fo_updChan (s : State) (c : ChIx) (f : Chan → Chan) (e : (f (s.chan c)).core = (s.chan c).core) :
    Follows s (s.updChan c f) := by
  refine ⟨fun _ => rfl, hc_eq rfl, fun d => ?_⟩
  rw [chan_updChan]
  split
  · subst_vars
    exact e
  · rfl

theorem fieldReg_fp (a : Nat) (h : 0x2A100 ≤ a) (h' : a < 0x2A500) : fieldReg a = true := by
  simp [fieldReg, h, h']

theorem fo_energise (s : State) (c : ChIx) (k : Capture) : Follows s (s.energiseFeatures c k) := by
  have hc := c.isLt
  have r : ∀ o, 8 ≤ o → o < 0x40 → fieldReg (0x2A100 + o + 64 * c.val) = true :=
    fun o h1 h2 => fieldReg_fp _ (by omega) (by omega)
  unfold State.energiseFeatures
  dsimp only
  have h1 : ∀ u : State, Follows s u → Follows s (if k.limitedAt.isSome then u
      else match k.dip (u.dipH c) with
        | none => (u.setReg (Reg.FP_PULL c.val) 0#32).setB (F.FP_STAT_NO_DIP c.val) true
        | some pk =>
          (u.setF (F.FP_PULL_T_PULL c.val) (sat 65535 (k.us pk))).setF (F.FP_PULL_DEPTH c.val)
            (sat 65535 (roundDiv (k.i pk - k.i (valley (u.dipH c) k
              ((List.range k.samples.length).filter fun j => decide (pk + 1 < j)) (pk + 1))) 100).toNat)) := by
    intro u hu
    refine fo_ite hu ?_
    split
    · exact fo_trans (fo_trans hu (fo_setReg _ _ _ (r 0x18 (by decide) (by decide))))
        (fo_setB _ _ _ (r 0x28 (by decide) (by decide)))
    · exact fo_trans (fo_trans hu (fo_setF _ _ _ (r 0x18 (by decide) (by decide))))
        (fo_setF _ _ _ (r 0x18 (by decide) (by decide)))
  apply h1
  refine fo_ite (fo_updChan _ _ _ rfl) ?_
  refine fo_trans ?_ (fo_updChan _ _ _ rfl)
  refine fo_trans (fo_trans ?_ (fo_setReg _ _ _ (r 8 (by decide) (by decide)))) (fo_setReg _ _ _ (r 0xC (by decide) (by decide)))
  split
  · exact ⟨fun _ => rfl, hc_eq rfl, fun _ => rfl⟩
  · exact fo_refl s

theorem fo_drop (s : State) (c : ChIx) (k : Capture) : Follows s (s.dropFeatures c k) := by
  have hc := c.isLt
  have r : ∀ o, 8 ≤ o → o < 0x40 → fieldReg (0x2A100 + o + 64 * c.val) = true :=
    fun o h1 h2 => fieldReg_fp _ (by omega) (by omega)
  unfold State.dropFeatures
  dsimp only
  have d : ∀ (u : State) (o : Nat), 8 ≤ o → o < 0x40 → ∀ (f : Fld) (v : Nat), f.reg = 0x2A100 + o + 64 * c.val →
      Follows u (u.setF f v) := fun u o h1 h2 f v e => fo_setF u f v (by rw [e]; exact r o h1 h2)
  have hd : ∀ v w, Follows s ((s.setF (F.FP_DROP_T_DROP c.val) v).setB (F.FP_STAT_NO_DROP c.val) w) := fun v w =>
    fo_trans (d _ 0x20 (by decide) (by decide) _ _ rfl) (d _ 0x28 (by decide) (by decide) _ _ rfl)
  split
  · exact fo_trans (fo_trans (hd _ _) (d _ 0x20 (by decide) (by decide) _ _ rfl)) (d _ 0x24 (by decide) (by decide) _ _ rfl)
  · exact fo_trans (fo_trans (fo_trans (hd _ _) (d _ 0x20 (by decide) (by decide) _ _ rfl))
      (d _ 0x24 (by decide) (by decide) _ _ rfl)) (d _ 0x28 (by decide) (by decide) _ _ rfl)

theorem fieldReg_stat (c : ChIx) : fieldReg (Reg.FP_STAT c.val) = true :=
  fieldReg_fp _ (by unfold Reg.FP_STAT; omega) (by have := c.isLt; unfold Reg.FP_STAT; omega)

theorem fo_noteBase (s : State) (c : ChIx) : Follows s (s.noteBase c) := fo_setB _ _ _ (fieldReg_stat c)

theorem fo_captureEnd (s : State) (c : ChIx) (b : Bool) : Follows s (s.captureEnd c b) := by
  have r := fieldReg_stat c
  unfold State.captureEnd
  split
  · exact fo_refl s
  · dsimp only
    refine fo_trans ?_ (fo_only (State.passCapture_only ..) (by decide))
    refine fo_ite ?_ (fo_ite (fo_trans ?_ (fo_energise ..)) (fo_trans ?_ (fo_drop ..))) <;>
    exact fo_trans (fo_trans (fo_trans (fo_trans (fo_trans (fo_trans (fo_updChan _ _ _ rfl) (fo_noteBase ..))
      (fo_setReg _ _ _ r)) (fo_setF _ _ _ r)) (fo_setB _ _ _ r)) (fo_setB _ _ _ r)) (fo_setB _ _ _ r)

theorem fo_captureStart (s : State) (c : ChIx) (b : Bool) : Follows s (s.captureStart c b) := by
  have hc := c.isLt
  unfold State.captureStart
  refine fo_ite ?_ (fo_refl s)
  dsimp only
  refine fo_trans (fo_trans (fo_captureEnd s c true) (fo_updChan _ _ _ rfl)) (fo_setReg _ _ _ ?_)
  exact fieldReg_fp _ (by unfold Reg.FP_SWATH; omega) (by unfold Reg.FP_SWATH; omega)

theorem fo_partOperation (s : State) (n : Nat) : Follows s (s.partOperation n) :=
  fo_only (State.partOperation_only ..) (by decide)

theorem fo_openSwitch (s : State) (c : ChIx) (cap : Bool) : Follows s (s.openSwitch c cap) := by
  unfold State.openSwitch State.whenB
  refine fo_ite (fo_refl s) ?_
  dsimp only
  refine fo_ite (fo_trans ?_ (fo_captureStart ..)) ?_ <;>
  exact fo_trans (fo_updChan s c _ rfl) (fo_partOperation ..)

theorem fieldReg_status (c : ChIx) : fieldReg (Reg.CH_STATUS c.val) = true := by
  revert c
  decide

theorem fieldReg_half (h : HalfIx) : fieldReg (Reg.FH_STATUS h.val) = true := by
  revert h
  decide

theorem fo_closeSwitch (s : State) (c : ChIx) (cap : Bool) (n : (s.chan c).backoff ≠ 1) :
    Follows s (s.closeSwitch c cap) := by
  unfold State.closeSwitch State.whenB
  refine fo_ite (fo_refl s) ?_
  dsimp only
  refine fo_ite (fo_trans ?_ (fo_captureStart ..)) ?_ <;>
  exact fo_updChan _ _ _ (by simp [Chan.core, b2n, n])

theorem fo_reSwitch (s : State) (c : ChIx) (cap : Bool) : Follows s (s.reSwitch c cap) := by
  unfold State.reSwitch
  split
  · rename_i e
    refine fo_closeSwitch s c cap ?_
    simp only [State.unprotected, Bool.and_eq_true, bne_iff_ne] at e
    exact e.2.1.1.2
  · exact fo_openSwitch ..

theorem keep_latched (c : ChIx) : (fieldKeep (Reg.CH_FLAGS c.val)).getLsbD 12 = false := by
  revert c
  decide

theorem keep_shunt (c : ChIx) : (fieldKeep (Reg.THR_NOW c.val)).getLsbD 4 = false := by
  revert c
  decide

theorem fo_syncChan (s : State) (c : ChIx) : Follows s (s.syncChan c) := by
  have r := fieldReg_status c
  have k : ∀ v w x y, Follows s ((((s.setF (F.CH_STATUS_STATE c.val) v).setB (F.CH_STATUS_ALM_HIGH c.val) w).setF
      (F.CH_STATUS_ATTEMPT c.val) x).setB (F.CH_FLAGS_LATCHED c.val) y) := fun _ _ _ _ =>
    fo_trans (fo_trans (fo_trans (fo_setF _ _ _ r) (fo_setB _ _ _ r)) (fo_setF _ _ _ r))
      (fo_bit _ _ _ rfl (by show 12 < 32; decide) (keep_latched c))
  unfold State.syncChan State.whenB
  dsimp only
  refine fo_ite (fo_trans (k _ _ _ _) (fo_bit _ _ _ rfl (by show 4 < 32; decide) (keep_shunt c))) (k _ _ _ _)

theorem fo_syncHalf (s : State) (h : HalfIx) : Follows s (s.syncHalf h) := by
  unfold State.syncHalf State.whenB
  dsimp only
  have k : Follows s (s.updHalf h fun x => { x with gdrv := s.gdrvWanted h }) := by
    refine ⟨fun _ => rfl, ⟨fun k => ?_⟩, fun _ => rfl⟩
    rw [half_updHalf]
    split <;> rfl
  have k2 := fo_trans k (fo_setB _ (F.FH_STATUS_GATE_HELD h.val)
    (((s.updHalf h fun x => { x with gdrv := s.gdrvWanted h }).half h).gateHold ||
      ((s.updHalf h fun x => { x with gdrv := s.gdrvWanted h }).half h).gdrvHold) (fieldReg_half h))
  generalize State.setB _ _ _ = u at k2
  have k3 := fo_ite (c := (u.half h).inReset = true) (fo_trans k2 (fo_setF _ (F.FH_STATUS_SUPPLY h.val)
    (u.half h).supply (fieldReg_half h))) k2
  generalize (if (u.half h).inReset = true then _ else _) = v at k3
  exact fo_ite (fo_trans k3 (fo_partOperation ..)) k3

/-! ## Whether a switch may close -/

theorem core_fields {x y : Chan} (h : x.core = y.core) :
    x.action = y.action ∧ x.value = y.value ∧ x.holding = y.holding ∧ x.holdVal = y.holdVal ∧ x.hot = y.hot ∧
      x.pulse = y.pulse ∧ x.ovl = y.ovl ∧ ((x.backoff == 1) = (y.backoff == 1)) := by
  unfold Chan.core at h
  injection h
  refine ⟨by assumption, by assumption, by assumption, by assumption, by assumption, by assumption, by assumption, ?_⟩
  have h' : b2n (x.backoff == 1) = b2n (y.backoff == 1) := by assumption
  revert h'
  cases x.backoff == 1 <;> cases y.backoff == 1 <;> simp [b2n]

theorem keep_inputs (c : ChIx) : fieldKeep (Reg.CH_CFG c.val) = BitVec.allOnes 32 ∧
    fieldKeep (Reg.CH_SAFE c.val) = BitVec.allOnes 32 := by
  revert c
  decide

/-- A register that is kept whole. -/
theorem reg_of_keep {s t : State} {a : Nat} (h : t.reg a &&& fieldKeep a = s.reg a &&& fieldKeep a)
    (e : fieldKeep a = BitVec.allOnes 32) : t.reg a = s.reg a := by
  rw [e, BitVec.and_allOnes, BitVec.and_allOnes] at h
  exact h

/-- A field of a configuration register of a channel, as its field die holds it. -/
theorem chFld_keep {s t : State} (c : ChIx) (f : Fld) (hh : HalfKept s t)
    (e : t.reg f.reg = s.reg f.reg) : t.chFld c f = s.chFld c f := by
  unfold State.chFld State.cfgReg
  rw [(half_inputs hh _).1, e]

/-- What a channel is commanded to follows from its command and its configuration. -/
theorem wants_of {s t : State} (c : ChIx) (hh : HalfKept s t)
    (r1 : t.reg (Reg.CH_CFG c.val) = s.reg (Reg.CH_CFG c.val)) (r2 : t.reg (Reg.CH_SAFE c.val) = s.reg (Reg.CH_SAFE c.val))
    (e1 : (t.chan c).action = (s.chan c).action) (e2 : (t.chan c).value = (s.chan c).value)
    (e3 : s.inSafe c = true → (t.chan c).holding = (s.chan c).holding ∧ (t.chan c).holdVal = (s.chan c).holdVal) :
    t.wants c = s.wants c := by
  have f1 : t.func c = s.func c := chFld_keep c _ hh r1
  have f2 : t.chFld c (F.CH_SAFE_SAFE c.val) = s.chFld c (F.CH_SAFE_SAFE c.val) := chFld_keep c _ hh r2
  have f3 : t.chFld c (F.CH_SAFE_NIGHT c.val) = s.chFld c (F.CH_SAFE_NIGHT c.val) := chFld_keep c _ hh r2
  have sw : t.isSwitch c = s.isSwitch c := by unfold State.isSwitch; rw [f1]
  obtain ⟨-, h2, h3, h4, h5⟩ := half_inputs hh (halfOf c)
  have sf : t.inSafe c = s.inSafe c := by unfold State.inSafe; simp only [e1, h2, h3, h4]
  have nt : t.inNight c = s.inNight c := by unfold State.inNight; rw [sf, e1]
  unfold State.wants
  simp only [sw, sf, nt, e1, e2, f2, f3, h4, h5]
  by_cases m : s.inSafe c = true
  · rw [(e3 m).1, (e3 m).2]
  · simp [m]

theorem mayClose_follows {s t : State} (h : Follows s t) (c : ChIx) : t.mayClose c = s.mayClose c := by
  obtain ⟨e1, e2, e3, e4, e5, e6, e7, e8⟩ := core_fields (h.chans c)
  obtain ⟨r1, r2⟩ := keep_inputs c
  have w : t.wants c = s.wants c :=
    wants_of c h.halves (reg_of_keep (h.regs _) r1) (reg_of_keep (h.regs _) r2) e1 e2 fun _ => ⟨e3, e4⟩
  have u : t.unprotected c = s.unprotected c := by
    unfold State.unprotected State.ovlLatched
    simp only [e5, e6, e7, bne, e8]
  unfold State.mayClose
  rw [w, u]

/-! ## The switch after `reSwitch` -/

theorem chan_only {ps : List Part} {s t : State} (k : OnlyChanges ps s t) (m : ps.contains .chans = false) (d : ChIx) :
    t.chan d = s.chan d := by
  have := k.same .chans (by simpa using m)
  unfold State.chan
  rw [show t.chans = s.chans from this]

theorem chan_partOperation (s : State) (n : Nat) (d : ChIx) : (s.partOperation n).chan d = s.chan d :=
  chan_only (State.partOperation_only ..) (by decide) d

/-- A step of a capture of channel `c`: its switch and every other channel stay as they are. -/
structure CapKept (c d : ChIx) (s t : State) : Prop where
  /-- the switch -/
  closed : (t.chan d).closed = (s.chan d).closed
  /-- the other channels -/
  other : d ≠ c → t.chan d = s.chan d

theorem ck_eq {c d : ChIx} {s t : State} (h : t.chan d = s.chan d) : CapKept c d s t := ⟨by rw [h], fun _ => h⟩

theorem ck_trans {c d : ChIx} {s t u : State} (h : CapKept c d s t) (k : CapKept c d t u) : CapKept c d s u :=
  ⟨k.closed.trans h.closed, fun n => (k.other n).trans (h.other n)⟩

theorem ck_ite {c d : ChIx} {s t u : State} {p : Prop} [Decidable p] (h : CapKept c d s t) (h' : CapKept c d s u) :
    CapKept c d s (if p then t else u) := by
  split <;> assumption

theorem ck_upd (s : State) (c d : ChIx) (f : Chan → Chan) (e : (f (s.chan c)).closed = (s.chan c).closed) :
    CapKept c d s (s.updChan c f) := by
  constructor
  · rw [chan_updChan]
    split
    · subst_vars
      exact e
    · rfl
  · intro n
    rw [chan_updChan, if_neg n]

theorem chan_energise (s : State) (c : ChIx) (k : Capture) (d : ChIx) : CapKept c d s (s.energiseFeatures c k) := by
  unfold State.energiseFeatures
  dsimp only
  have h1 : ∀ u : State, CapKept c d s u → CapKept c d s (if k.limitedAt.isSome then u
      else match k.dip (u.dipH c) with
        | none => (u.setReg (Reg.FP_PULL c.val) 0#32).setB (F.FP_STAT_NO_DIP c.val) true
        | some pk =>
          (u.setF (F.FP_PULL_T_PULL c.val) (sat 65535 (k.us pk))).setF (F.FP_PULL_DEPTH c.val)
            (sat 65535 (roundDiv (k.i pk - k.i (valley (u.dipH c) k
              ((List.range k.samples.length).filter fun j => decide (pk + 1 < j)) (pk + 1))) 100).toNat)) := by
    intro u hu
    refine ck_ite hu ?_
    split <;> exact ck_trans hu (ck_eq rfl)
  apply h1
  refine ck_ite (ck_upd _ _ _ _ rfl) (ck_trans (ck_trans ?_ (ck_eq rfl)) (ck_upd _ _ _ _ rfl))
  split <;> exact ck_eq rfl

theorem chan_captureEnd (s : State) (c : ChIx) (b : Bool) (d : ChIx) : CapKept c d s (s.captureEnd c b) := by
  unfold State.captureEnd
  split
  · exact ck_eq rfl
  · dsimp only
    refine ck_trans ?_ (ck_eq (chan_only (State.passCapture_only ..) (by decide) d))
    refine ck_ite ?_ (ck_ite (ck_trans ?_ (chan_energise ..))
      (ck_trans ?_ (ck_eq (chan_only (State.dropFeatures_only ..) (by decide) d)))) <;>
    exact ck_trans (ck_upd s c d _ rfl) (ck_eq rfl)

theorem chan_captureStart (s : State) (c : ChIx) (b : Bool) (d : ChIx) : CapKept c d s (s.captureStart c b) := by
  unfold State.captureStart
  dsimp only
  refine ck_ite ?_ (ck_eq rfl)
  exact ck_trans (ck_trans (chan_captureEnd s c true d) (ck_upd _ _ _ _ rfl)) (ck_eq rfl)

/-- After its switch has followed, a channel's switch is closed exactly if it may close, and no other channel has
changed. -/
theorem chan_reSwitch (s : State) (c : ChIx) (cap : Bool) (d : ChIx) :
    (d = c → ((s.reSwitch c cap).chan d).closed = s.mayClose d) ∧ (d ≠ c → (s.reSwitch c cap).chan d = s.chan d) := by
  unfold State.reSwitch
  split
  · rename_i e
    unfold State.closeSwitch State.whenB
    dsimp only
    split
    · rename_i k
      exact ⟨fun h => by subst h; rw [k]; exact e.symm, fun _ => rfl⟩
    · generalize hu : State.updChan _ c _ = u
      have eu : (d = c → (u.chan d).closed = true) ∧ (d ≠ c → u.chan d = s.chan d) := by
        rw [← hu, chan_updChan]
        exact ⟨fun h => by rw [if_pos h], fun h => by rw [if_neg h]⟩
      have m : d = c → s.mayClose d = true := fun h => by subst h; exact e
      split
      · have k := chan_captureStart u c true d
        exact ⟨fun h => by rw [k.closed, eu.1 h, m h], fun h => (k.other h).trans (eu.2 h)⟩
      · exact ⟨fun h => by rw [eu.1 h, m h], eu.2⟩
  · rename_i e
    have m : d = c → s.mayClose d = false := fun h => by subst h; simpa [State.mayClose] using e
    unfold State.openSwitch State.whenB
    dsimp only
    split
    · rename_i k
      exact ⟨fun h => by rw [m h]; subst h; simpa using k, fun _ => rfl⟩
    · generalize hu : (State.updChan s c _).partOperation _ = u
      have eu : (d = c → (u.chan d).closed = false) ∧ (d ≠ c → u.chan d = s.chan d) := by
        rw [← hu, chan_partOperation, chan_updChan]
        exact ⟨fun h => by rw [if_pos h], fun h => by rw [if_neg h]⟩
      split
      · have k := chan_captureStart u c false d
        exact ⟨fun h => by rw [k.closed, eu.1 h, m h], fun h => (k.other h).trans (eu.2 h)⟩
      · exact ⟨fun h => by rw [eu.1 h, m h], eu.2⟩

theorem fold_reSwitch_other (xs : List ChIx) (cap : Bool) (s : State) (d : ChIx) (n : d ∉ xs) :
    (xs.foldl (fun (t : State) c => t.reSwitch c cap) s).chan d = s.chan d := by
  induction xs generalizing s with
  | nil => rfl
  | cons c xs ih =>
    simp only [List.mem_cons, not_or] at n
    rw [List.foldl_cons, ih _ n.2, (chan_reSwitch s c cap d).2 n.1]

theorem fold_reSwitch (xs : List ChIx) (cap : Bool) (s : State) (d : ChIx) (m : d ∈ xs) :
    ((xs.foldl (fun (t : State) c => t.reSwitch c cap) s).chan d).closed = s.mayClose d := by
  induction xs generalizing s with
  | nil => cases m
  | cons c xs ih =>
    rw [List.foldl_cons]
    by_cases k : d ∈ xs
    · rw [ih _ k, mayClose_follows (fo_reSwitch s c cap)]
    · rw [fold_reSwitch_other xs cap _ d k]
      refine (chan_reSwitch s c cap d).1 ?_
      simpa [k] using m

/-! ## A change of a field die -/

theorem mem_chOf (c : ChIx) : c ∈ chOf (halfOf c) := by
  revert c
  decide

theorem halfOf_of_mem (c : ChIx) (h : HalfIx) (m : c ∈ chOf h) : halfOf c = h := by
  revert c h
  decide

/-- A channel but for its HOLD. -/
def Chan.unheld (x : Chan) : Chan := { x with holding := false, holdVal := 0 }

theorem hold_regs (s b : State) (c : ChIx) (a : Nat) : (s.holdChange b c).reg a = s.reg a := by
  unfold State.holdChange
  split
  · rfl
  · split <;> rfl

theorem hold_halves (s b : State) (c : ChIx) : (s.holdChange b c).halves = s.halves := by
  unfold State.holdChange
  split
  · rfl
  · split <;> rfl

theorem hold_chan (s b : State) (c d : ChIx) : ((s.holdChange b c).chan d).unheld = (s.chan d).unheld := by
  unfold State.holdChange
  split
  · rw [chan_updChan]
    split <;> rfl
  · split
    · rw [chan_updChan]
      split <;> rfl
    · rfl

theorem hold_fold (xs : List ChIx) (b s : State) :
    (∀ a, (xs.foldl (fun (t : State) c => t.holdChange b c) s).reg a = s.reg a) ∧
      (xs.foldl (fun (t : State) c => t.holdChange b c) s).halves = s.halves ∧
      ∀ d, ((xs.foldl (fun (t : State) c => t.holdChange b c) s).chan d).unheld = (s.chan d).unheld := by
  induction xs generalizing s with
  | nil => exact ⟨fun _ => rfl, rfl, fun _ => rfl⟩
  | cons c xs ih =>
    obtain ⟨h1, h2, h3⟩ := ih (s.holdChange b c)
    exact ⟨fun a => (h1 a).trans (hold_regs ..), h2.trans (hold_halves ..), fun d => (h3 d).trans (hold_chan ..)⟩

/-- What a change of a field die leaves as the change itself left it: the register bits of `fieldKeep`, the halves, and of
every channel all but its switch and its HOLD. -/
structure FieldKept (s t : State) : Prop where
  /-- registers -/
  regs : ∀ a, t.reg a &&& fieldKeep a = s.reg a &&& fieldKeep a
  /-- halves -/
  halves : HalfKept s t
  /-- channels -/
  chans : ∀ c, (t.chan c).core.unheld = (s.chan c).core.unheld

theorem core_unheld (x : Chan) : x.core.unheld = x.unheld.core := rfl

theorem chan_sync_fold (xs : List ChIx) (s : State) (d : ChIx) :
    (xs.foldl (fun (t : State) c => t.syncChan c) s).chan d = s.chan d := by
  induction xs generalizing s with
  | nil => rfl
  | cons c xs ih =>
    rw [List.foldl_cons, ih]
    exact chan_only (State.syncChan_only ..) (by decide) d

theorem chan_syncHalf (s : State) (h : HalfIx) (d : ChIx) : (s.syncHalf h).chan d = s.chan d :=
  chan_only (State.syncHalf_only ..) (by decide) d

/-- Every field-die change keeps what it did not change itself, and leaves every switch of the half closed exactly if it may
close. -/
theorem fieldChange_spec (s : State) (h : HalfIx) (cap : Bool) (f : State → State) :
    FieldKept (f s) (s.fieldChange h cap f) ∧
      ∀ c ∈ chOf h, ((s.fieldChange h cap f).chan c).closed = (s.fieldChange h cap f).mayClose c := by
  unfold State.fieldChange
  dsimp only
  obtain ⟨h1, h2, h3⟩ := hold_fold (chOf h) s (f s)
  generalize (chOf h).foldl (fun (t : State) c => t.holdChange s c) (f s) = u at h1 h2 h3
  have k : Follows u ((chOf h).foldl (fun (t : State) c => t.syncChan c)
      (((chOf h).foldl (fun (t : State) c => t.reSwitch c cap) u).syncHalf h)) :=
    fo_foldl (fun v c => fo_syncChan v c)
      (fo_trans (fo_foldl (fun v c => fo_reSwitch v c cap) (fo_refl u)) (fo_syncHalf ..))
  refine ⟨⟨fun a => (k.regs a).trans (by rw [h1 a]), hc_trans (hc_eq h2) k.halves, fun c => ?_⟩, fun c m => ?_⟩
  · rw [core_unheld, ← core_unheld, k.chans c, core_unheld, core_unheld, h3 c]
  · rw [mayClose_follows k, chan_sync_fold, chan_syncHalf, fold_reSwitch _ _ _ _ m]

/-! ## Faults of a channel and of a half -/

theorem chan_raise (s : State) (src kind addr : Nat) (d : ChIx) : (s.raise src kind addr).chan d = s.chan d :=
  chan_only (State.raise_only ..) (by decide) d

theorem chan_halfFault (s : State) (h : HalfIx) (kind : Nat) (d : ChIx) : (s.halfFault h kind).chan d = s.chan d :=
  chan_raise ..

/-- A channel but for the marks of the events of the present tick. -/
def Chan.unmarked (x : Chan) : Chan := { x with evBits := 0#32, thrBits := 0#32, bitsTick := 0 }

theorem chan_noteEvent (s : State) (c : ChIx) (kind : Nat) (d : ChIx) :
    ((s.noteEvent c kind).chan d).unmarked = (s.chan d).unmarked ∧ (d ≠ c → (s.noteEvent c kind).chan d = s.chan d) := by
  unfold State.noteEvent
  dsimp only
  rw [chan_updChan, chan_orF]
  refine ⟨?_, fun n => if_neg n⟩
  split
  · subst_vars
    rfl
  · rfl

/-- A register that a field does not stand in, nor what it has taken in, reads as before. -/
theorem reg_orF_ne (s : State) (f : Fld) (v a : Nat) (n : a ≠ f.reg) (k : a < newsBase) : (s.orF f v).reg a = s.reg a := by
  unfold State.orF State.gather
  rw [State.reg_setF_ne _ _ _ _ (by simp only [Fld.news]; omega), State.reg_setF_ne _ _ _ _ n]

theorem reg_noteEvent (s : State) (c : ChIx) (kind a : Nat) (n : a ≠ Reg.CH_FLAGS c.val) (k : a < newsBase) :
    (s.noteEvent c kind).reg a = s.reg a := by
  unfold State.noteEvent
  dsimp only
  rw [reg_updChan]
  exact reg_orF_ne _ _ _ _ n k

theorem noteEvent_halves (s : State) (c : ChIx) (kind : Nat) : (s.noteEvent c kind).halves = s.halves :=
  (State.noteEvent_only s c kind).same .halves (by decide)

/-- What raising a fault does not change has an address. -/
theorem lt_of_faultReg {a : Nat} (h : faultReg a = false) : a < newsBase := by
  simp only [faultReg, Bool.or_eq_false_iff, decide_eq_false_iff_not] at h
  omega

/-- A channel fault raises its message over its event and, for some kinds, the GDRV hold. -/
theorem chFault_cases (s : State) (c : ChIx) (kind partner : Nat) : ∃ u : State,
    s.chFault c kind partner = u.raise (srcFH (halfOf c).val) kind (faultAddr partner c.val) ∧
      (u = s.noteEvent c kind ∨
        u = ((s.noteEvent c kind).updHalf (halfOf c) fun x => { x with gdrvHold := true }).syncHalf (halfOf c)) := by
  unfold State.chFault State.whenB
  dsimp only
  split
  · exact ⟨_, rfl, .inr rfl⟩
  · exact ⟨_, rfl, .inl rfl⟩

/-- A channel fault marks its event at its channel, and touches no other. -/
theorem chan_chFault (s : State) (c : ChIx) (kind partner : Nat) (d : ChIx) :
    ((s.chFault c kind partner).chan d).unmarked = (s.chan d).unmarked ∧
      (d ≠ c → (s.chFault c kind partner).chan d = s.chan d) := by
  obtain ⟨u, e, k⟩ := chFault_cases s c kind partner
  have hu : u.chan d = (s.noteEvent c kind).chan d := by
    rcases k with k | k <;> rw [k]
    · rw [chan_syncHalf, chan_updHalf]
  rw [e, chan_raise, hu]
  exact chan_noteEvent ..

/-- A register that a channel fault does not change. -/
theorem reg_chFault (s : State) (c : ChIx) (kind partner a : Nat) (h : faultReg a = false) (n : a ≠ Reg.CH_FLAGS c.val)
    (n' : fieldKeep a = BitVec.allOnes 32) : (s.chFault c kind partner).reg a = s.reg a := by
  obtain ⟨u, e, k⟩ := chFault_cases s c kind partner
  rw [e, State.reg_raise _ _ _ _ _ h, ← reg_noteEvent s c kind a n (lt_of_faultReg h)]
  rcases k with k | k <;> rw [k]
  · rw [reg_of_keep ((fo_syncHalf ..).regs a) n', reg_updHalf]

theorem fld_chFault (s : State) (c : ChIx) (kind partner : Nat) (f : Fld) (h : faultReg f.reg = false)
    (n : f.reg ≠ Reg.CH_FLAGS c.val) (n' : fieldKeep f.reg = BitVec.allOnes 32) :
    (s.chFault c kind partner).fld f = s.fld f := by
  unfold State.fld
  rw [reg_chFault _ _ _ _ _ h n n']

theorem half_syncHalf (s : State) (h k : HalfIx) :
    (s.syncHalf h).half k = { s.half k with gdrv := ((s.syncHalf h).half k).gdrv } := by
  have e := (fo_syncHalf s h).halves.same k
  generalize (s.syncHalf h).half k = x at e
  generalize s.half k = y at e
  cases x
  cases y
  simp only [Half.core, Half.mk.injEq] at e ⊢
  simp only [e, and_self]

/-- Of a half a channel fault changes GDRV and its hold and the tick of a disarming alone. -/
theorem half_chFault (s : State) (c : ChIx) (kind partner : Nat) (h : HalfIx) :
    (s.chFault c kind partner).half h = { s.half h with
      gdrv := ((s.chFault c kind partner).half h).gdrv
      gdrvHold := ((s.chFault c kind partner).half h).gdrvHold
      disarmTick := ((s.chFault c kind partner).half h).disarmTick } := by
  obtain ⟨u, e, k⟩ := chFault_cases s c kind partner
  have f : u.half h = { s.half h with gdrv := (u.half h).gdrv, gdrvHold := (u.half h).gdrvHold } := by
    rcases k with rfl | rfl
    · unfold State.half
      rw [noteEvent_halves]
    · rw [half_syncHalf, half_updHalf]
      have e : (s.noteEvent c kind).half h = s.half h := by
        unfold State.half
        rw [noteEvent_halves]
      rw [e]
      split <;> rfl
  rw [e, (hk_raise u (srcFH (halfOf c).val) kind (faultAddr partner c.val)).same h, f]

theorem half_halfFault (s : State) (h k : HalfIx) (kind : Nat) :
    (s.halfFault h kind).half k = { s.half k with disarmTick := ((s.halfFault h kind).half k).disarmTick } :=
  (hk_raise ..).same k

theorem eventBit_lt (kind : Nat) : eventBit kind < 12 := by
  unfold eventBit
  split <;> decide

theorem faultReg_flags (c : ChIx) : faultReg (Reg.CH_FLAGS c.val) = false := by
  revert c
  decide

theorem swath_flags (c : ChIx) : Reg.TB_SWATH_LO ≠ Reg.CH_FLAGS c.val ∧ Reg.TB_SWATH_HI ≠ Reg.CH_FLAGS c.val := by
  revert c
  decide

theorem reg_setB_ne (s : State) (f : Fld) (v : Bool) (b : Nat) (h : b ≠ f.reg) : (s.setB f v).reg b = s.reg b :=
  State.reg_setF_ne _ _ _ _ h

/-- FH_STATUS is the one register that follows a half. -/
theorem reg_syncHalf (s : State) (h : HalfIx) (a : Nat) (n : a ≠ Reg.FH_STATUS h.val) : (s.syncHalf h).reg a = s.reg a := by
  unfold State.syncHalf State.whenB
  dsimp only
  have k (u : State) (m : Nat) : (u.partOperation m).reg a = u.reg a := by
    unfold State.reg
    rw [(State.partOperation_only u m).same .regs (by decide)]
  have e := reg_setB_ne (s.updHalf h fun x => { x with gdrv := s.gdrvWanted h }) (F.FH_STATUS_GATE_HELD h.val)
    (((s.updHalf h fun x => { x with gdrv := s.gdrvWanted h }).half h).gateHold ||
      ((s.updHalf h fun x => { x with gdrv := s.gdrvWanted h }).half h).gdrvHold) a n
  rw [reg_updHalf] at e
  generalize State.setB _ _ _ = u at e ⊢
  have e2 : (if (u.half h).inReset = true then u.setF (F.FH_STATUS_SUPPLY h.val) (u.half h).supply else u).reg a = s.reg a := by
    split
    · rw [State.reg_setF_ne _ (F.FH_STATUS_SUPPLY h.val) _ _ n, e]
    · exact e
  generalize (if (u.half h).inReset = true then _ else _) = v at e2 ⊢
  split
  · rw [k, e2]
  · exact e2

theorem fh_ne (h : HalfIx) (c : ChIx) : Reg.CH_FLAGS c.val ≠ Reg.FH_STATUS h.val ∧
    Reg.TB_SWATH_LO ≠ Reg.FH_STATUS h.val ∧ Reg.TB_SWATH_HI ≠ Reg.FH_STATUS h.val := by
  revert c h
  decide

theorem syncHalf_swath (s : State) (h : HalfIx) : (s.syncHalf h).swath = s.swath := by
  unfold State.swath State.pairReg
  rw [reg_syncHalf _ _ _ (fh_ne h 0).2.1, reg_syncHalf _ _ _ (fh_ne h 0).2.2]

theorem updHalf_swath (s : State) (h : HalfIx) (f : Half → Half) : (s.updHalf h f).swath = s.swath := rfl

theorem swath_noteEvent (s : State) (c : ChIx) (kind : Nat) : (s.noteEvent c kind).swath = s.swath := by
  unfold State.swath State.pairReg
  rw [reg_noteEvent _ _ _ _ (swath_flags c).1 (by decide), reg_noteEvent _ _ _ _ (swath_flags c).2 (by decide)]

theorem events_noteEvent (s : State) (c : ChIx) (kind : Nat) : (s.noteEvent c kind).fld (F.CH_FLAGS_EVENTS c.val)
    = (s.fld (F.CH_FLAGS_EVENTS c.val) ||| 2 ^ eventBit kind) % 2 ^ 12 := by
  unfold State.noteEvent
  dsimp only
  rw [fld_updChan]
  unfold State.orF State.gather
  rw [State.fld_setF_ne _ _ _ _ (Nat.zero_le _) (by show 11 < 32; decide) (Nat.zero_le _) (.inl (by simp [Fld.news, newsBase]))]
  exact State.fld_setF_same s (F.CH_FLAGS_EVENTS c.val) _ (Nat.zero_le _) (by show 11 < 32; decide)

/-- A channel fault is told and its event set. -/
theorem chFault_told (s : State) (c : ChIx) (kind partner : Nat) (k : known (srcFH (halfOf c).val) kind = true) :
    ChTold s c kind partner (s.chFault c kind partner) := by
  obtain ⟨u, e, k'⟩ := chFault_cases s c kind partner
  have hu : u.swath = s.swath ∧ u.fld (F.CH_FLAGS_EVENTS c.val)
      = (s.fld (F.CH_FLAGS_EVENTS c.val) ||| 2 ^ eventBit kind) % 2 ^ 12 := by
    rw [← swath_noteEvent s c kind, ← events_noteEvent]
    rcases k' with k' | k' <;> rw [k']
    · exact ⟨rfl, rfl⟩
    · refine ⟨(syncHalf_swath ..).trans (updHalf_swath ..), ?_⟩
      unfold State.fld
      rw [reg_syncHalf _ _ (F.CH_FLAGS_EVENTS c.val).reg (fh_ne _ c).1, reg_updHalf]
  rw [e]
  constructor
  · rw [← hu.1]
    exact told_raise k
  · rw [State.fld_raise _ _ _ _ _ (faultReg_flags c), hu.2, Nat.testBit_mod_two_pow, Nat.testBit_or, Nat.testBit_two_pow_self]
    simp [eventBit_lt]

/-- Every kind of a channel is known, of either half. -/
theorem known_ch (c : ChIx) (kind : Nat) (h : 1 ≤ kind) (h' : kind ≤ 12) : known (srcFH (halfOf c).val) kind = true := by
  have : ∀ (h : HalfIx) (k : Fin 13), 1 ≤ k.val → known (srcFH h.val) k.val = true := by decide
  exact this (halfOf c) ⟨kind, by omega⟩ h

/-- Every kind of a half is known. -/
theorem known_half (h : HalfIx) (kind : Nat) (l : 0x10 ≤ kind) (l' : kind ≤ 0x19) : known (srcFH h.val) kind = true := by
  have : ∀ (h : HalfIx) (k : Fin 26), 16 ≤ k.val → known (srcFH h.val) k.val = true := by decide
  exact this h ⟨kind, by omega⟩ l

/-- A half-level fault is told. -/
theorem halfFault_told (s : State) (h : HalfIx) (kind : Nat) (l : 0x10 ≤ kind) (l' : kind ≤ 0x19) :
    HalfTold s h kind (s.halfFault h kind) := told_raise (known_half h kind l l')

/-! ## What a field-die change leaves of the commands -/

theorem inSafe_of {s t : State} (c : ChIx) (a : (t.chan c).action = (s.chan c).action) (h : HalfKept s t) :
    t.inSafe c = s.inSafe c := by
  obtain ⟨-, h2, h3, h4, -⟩ := half_inputs h (halfOf c)
  unfold State.inSafe
  simp only [a, h2, h3, h4]

theorem hold_stays (b s : State) (c d : ChIx) (e : s.inSafe d = b.inSafe d) (m : s.inSafe d = true) :
    (s.holdChange b c).chan d = s.chan d := by
  unfold State.holdChange
  by_cases k : d = c
  · subst k
    rw [if_neg (by rw [← e, m]; decide), if_neg (by rw [m]; decide)]
  · split
    · rw [chan_updChan, if_neg k]
    · split
      · rw [chan_updChan, if_neg k]
      · rfl

theorem hold_fold_stays (xs : List ChIx) (b s : State) (d : ChIx) (e : s.inSafe d = b.inSafe d) (m : s.inSafe d = true) :
    (xs.foldl (fun (t : State) c => t.holdChange b c) s).chan d = s.chan d := by
  induction xs generalizing s with
  | nil => rfl
  | cons c xs ih =>
    have k := hold_stays b s c d e m
    have i : (s.holdChange b c).inSafe d = s.inSafe d := inSafe_of d (by rw [k]) (hc_eq (hold_halves ..))
    rw [List.foldl_cons, ih _ (by rw [i, e]) (by rw [i, m]), k]

/-- What a channel is commanded to is what the change left it commanded to, unless the change itself brought it into or out of
its safe state. -/
theorem wants_fieldChange (s : State) (h : HalfIx) (cap : Bool) (f : State → State) (c : ChIx)
    (e : (f s).inSafe c = s.inSafe c) : (s.fieldChange h cap f).wants c = (f s).wants c := by
  obtain ⟨k, _⟩ := fieldChange_spec s h cap f
  obtain ⟨r1, r2⟩ := keep_inputs c
  have a1 : ((s.fieldChange h cap f).chan c).action = ((f s).chan c).action := by
    have := congrArg Chan.action (k.chans c)
    exact this
  have a2 : ((s.fieldChange h cap f).chan c).value = ((f s).chan c).value := by
    have := congrArg Chan.value (k.chans c)
    exact this
  refine wants_of c k.halves (reg_of_keep (k.regs _) r1) (reg_of_keep (k.regs _) r2)
    a1 a2 fun m => ?_
  have u := hold_fold_stays (chOf h) s (f s) c e m
  have fo : Follows ((chOf h).foldl (fun (t : State) c => t.holdChange s c) (f s)) (s.fieldChange h cap f) :=
    fo_foldl (fun v c => fo_syncChan v c)
      (fo_trans (fo_foldl (fun v c => fo_reSwitch v c cap) (fo_refl _)) (fo_syncHalf ..))
  have := core_fields (fo.chans c)
  rw [u] at this
  exact ⟨this.2.2.1, this.2.2.2.1⟩

/-- The latch of a channel through a field-die change. -/
theorem latched_fieldChange (s : State) (h : HalfIx) (cap : Bool) (f : State → State) (c : ChIx) :
    (s.fieldChange h cap f).ovlLatched c = (f s).ovlLatched c := by
  have := congrArg Chan.ovl ((fieldChange_spec s h cap f).1.chans c)
  exact this

/-- A change of one channel: what it leaves of that channel, and that its switch follows. -/
theorem chanChange_spec (s : State) (c : ChIx) (cap : Bool) (f : Chan → Chan) :
    ((s.chanChange c cap f).chan c).core.unheld = (f (s.chan c)).core.unheld ∧
      ((s.chanChange c cap f).chan c).closed = (s.chanChange c cap f).mayClose c ∧
      BitsKeep fieldKeep s (s.chanChange c cap f) ∧
      HalfKept s (s.chanChange c cap f) := by
  obtain ⟨k, w⟩ := fieldChange_spec s (halfOf c) cap fun s => s.updChan c f
  refine ⟨?_, w c (mem_chOf c), ⟨fun a _ => k.regs a⟩,
    hc_trans (t := s.updChan c f) (hc_eq rfl) k.halves⟩
  have := k.chans c
  rw [chan_updChan, if_pos rfl] at this
  exact this

/-- What a channel is commanded to does not change with what a change of one channel leaves alone. -/
theorem wants_chanChange (s : State) (c : ChIx) (cap : Bool) (f : Chan → Chan)
    (e : ∀ x, (f x).action = x.action ∧ (f x).value = x.value ∧ (f x).holding = x.holding ∧ (f x).holdVal = x.holdVal) :
    (s.chanChange c cap f).wants c = s.wants c := by
  have u : (s.updChan c f).chan c = f (s.chan c) := by rw [chan_updChan, if_pos rfl]
  have i : (s.updChan c f).inSafe c = s.inSafe c := inSafe_of c (by rw [u]; exact (e _).1) (hc_eq rfl)
  obtain ⟨e1, e2, e3, e4⟩ := e (s.chan c)
  unfold State.chanChange
  rw [wants_fieldChange _ _ _ _ _ i]
  exact wants_of c (hc_eq rfl) rfl rfl (by rw [u, e1]) (by rw [u, e2]) fun _ => by rw [u, e3, e4]; exact ⟨rfl, rfl⟩

end Sys2Proof.Machine
end

