-- ==== Sys2Proof/Laws/FramesE.lean ====
section
/-!
SUPPORT. Laws/FramesE.lean: what each shared operation and each effect may change of the state: one lemma per definition
(part 5 of 5, in the order in which they use one another).
-/
namespace Sys2Proof.Machine

theorem State.readTx_only (s : State) (op : BitVec 8) (h : HostHdr) (f : Fetch) (denied : Bool) :
    OnlyChanges [.regs, .mem, .env, .fc, .pipe, .halves, .pairs, .cribs, .recfg, .sr, .gln, .yk, .hp, .free] s (s.readTx op h f denied) := by
  unfold State.readTx
  repeat' first
    | with_reducible exact only_refl _ _ | decide | assumption | with_reducible apply only_transact
    | with_reducible apply only_step (State.startRead_only ..) | refine fun _ => ?_ | refine fun _ _ => ?_
    | dsimp only

theorem State.writeAll_only (s : State) (b : Bool) (xs : List (Nat × Word)) :
    OnlyChanges [.regs, .mem, .sig, .env, .fc, .wdg, .pipe, .chans, .halves, .pairs, .cribs, .boot, .recfg, .cvu, .sr, .pwr, .yk, .perf, .free] s (s.writeAll b xs).2 := by
  induction xs generalizing s with
  | nil => exact only_refl _ _
  | cons x xs ih => exact only_trans (State.hostWrite_only ..) (ih ..)

theorem State.startPush_only (s : State) (h : HostHdr) (id : Word) (c : CribIx) (ws : List Word) :
    OnlyChanges [.regs, .mem, .env, .fc, .pipe, .halves, .pairs, .cribs, .recfg, .yk, .hp] s (s.startPush h id c ws) := by
  unfold State.startPush
  repeat' first
    | with_reducible exact only_refl _ _ | decide | assumption
    | with_reducible apply only_step (State.endPush_only ..)
    | with_reducible apply only_step (State.syncStalled_only ..) | with_reducible apply only_ite | refine fun _ => ?_
    | refine fun _ _ => ?_ | dsimp only | with_reducible apply only_hp
    | (constructor; intro p hp; cases p <;> first | rfl | exact absurd (by decide) hp)

theorem State.startWrite_only (s : State) (h : HostHdr) (id : Word) (ws : List Word) :
    OnlyChanges [.regs, .mem, .sig, .env, .fc, .wdg, .pipe, .chans, .halves, .pairs, .cribs, .boot, .recfg, .cvu, .sr, .pwr, .yk, .hp, .perf, .free] s (s.startWrite h id ws) := by
  unfold State.startWrite
  repeat' first
    | with_reducible exact only_refl _ _ | decide | assumption | with_reducible apply only_step (State.setF_only ..)
    | with_reducible apply only_step (State.startPush_only ..)
    | with_reducible apply only_step (State.writeAll_only ..) | with_reducible apply only_step (State.fullTx_only ..)
    | with_reducible apply only_step (State.unsync_only ..) | with_reducible apply only_ite
    | with_reducible apply only_pair | (refine only_of_pair (by assumption) ?_)
    | (refine only_of_fst (by assumption) ?_) | refine fun _ => ?_ | refine fun _ _ => ?_ | dsimp only | split

theorem State.enqueue_only (s : State) (t : Nat) (xs : List (Nat × Word)) :
    OnlyChanges [.regs, .sig, .env, .fc, .pipe, .halves, .pairs, .recfg, .yk, .queue] s (s.enqueue t xs) := by
  unfold State.enqueue
  repeat' first
    | with_reducible exact only_refl _ _ | decide | assumption
    | with_reducible apply only_step (State.depositDue_only ..)
    | with_reducible apply only_step (State.pcHost_only ..) | with_reducible apply only_ite | refine fun _ => ?_
    | refine fun _ _ => ?_ | dsimp only | with_reducible apply only_queue
    | (constructor; intro p hp; cases p <;> first | rfl | exact absurd (by decide) hp)

theorem only_serviceTx {ps : List Part} {s0 : State} (s : State) (h : HostHdr) (ws : List Word) (f : State → List Word → List Word × State)
    (k : Part.sub [.regs, .mem, .env, .fc, .pipe, .halves, .pairs, .cribs, .recfg, .sr, .yk, .hp] ps = true) (H : ∀ u x, OnlyChanges ps u (f u x).2) (h0 : OnlyChanges ps s0 s) :
    OnlyChanges ps s0 (s.serviceTx h ws f) := by
  have H2 : ∀ x s u, OnlyChanges ps s u → OnlyChanges ps s (f u x).2 :=
    fun x _ u h => only_trans h (H u x)
  unfold State.serviceTx
  repeat' first
    | with_reducible exact only_refl _ _ | exact Part.sub_trans (by decide) k | assumption | with_reducible apply H2
    | with_reducible apply only_step (State.updSr_only ..) | with_reducible apply only_transact
    | with_reducible apply only_withPayload | with_reducible apply only_step (State.fullTx_only ..)
    | with_reducible apply only_pair | (refine only_of_pair (by assumption) ?_)
    | (refine only_of_fst (by assumption) ?_) | refine fun _ => ?_ | refine fun _ _ => ?_ | dsimp only | split

theorem State.mbAnswer_only (s : State) (h : HalfIx) (op result seq addr : Nat) (data : List Word) :
    OnlyChanges [.halves] s (s.mbAnswer h op result seq addr data) := by
  unfold State.mbAnswer
  repeat' first
    | with_reducible exact only_refl _ _ | decide | assumption
    | with_reducible apply only_step (State.updHalf_only ..) | refine fun _ => ?_ | refine fun _ _ => ?_ | dsimp only

theorem State.mbWrite_only (s : State) (h : HalfIx) (seq a : Nat) (ws : List Word) :
    OnlyChanges [.halves] s (s.mbWrite h seq a ws) := by
  unfold State.mbWrite
  repeat' first
    | with_reducible exact only_refl _ _ | decide | assumption
    | with_reducible apply only_step (State.updHalf_only ..)
    | with_reducible apply only_step (State.mbAnswer_only ..) | with_reducible apply only_foldl
    | with_reducible apply only_ite | refine fun _ => ?_ | refine fun _ _ => ?_ | dsimp only

theorem State.mbRead_only (s : State) (h : HalfIx) (seq a : Nat) : OnlyChanges [.halves] s (s.mbRead h seq a) := by
  unfold State.mbRead
  repeat' first
    | with_reducible exact only_refl _ _ | decide | assumption
    | with_reducible apply only_step (State.mbAnswer_only ..) | with_reducible apply only_ite | refine fun _ => ?_
    | refine fun _ _ => ?_ | dsimp only

theorem State.mbCommit_only (s : State) (h : HalfIx) (seq a : Nat) (w18 : Word) :
    OnlyChanges [.regs, .chans, .halves, .sr, .free] s (s.mbCommit h seq a w18) := by
  unfold State.mbCommit
  repeat' first
    | with_reducible exact only_refl _ _ | decide | assumption
    | with_reducible apply only_step (State.updHalf_only ..)
    | with_reducible apply only_step (State.mbAnswer_only ..)
    | with_reducible apply only_step (State.tableCheck_only ..) | with_reducible apply only_ite | refine fun _ => ?_
    | refine fun _ _ => ?_ | dsimp only

theorem State.mbAct_only (s : State) (h : HalfIx) (ws : List Word) (w18 : Word) :
    OnlyChanges [.regs, .chans, .halves, .sr, .free] s (s.mbAct h ws w18) := by
  unfold State.mbAct
  repeat' first
    | with_reducible exact only_refl _ _ | decide | assumption
    | with_reducible apply only_step (State.updHalf_only ..)
    | with_reducible apply only_step (State.mbCommit_only ..)
    | with_reducible apply only_step (State.mbAnswer_only ..)
    | with_reducible apply only_step (State.mbWrite_only ..) | with_reducible apply only_step (State.mbRead_only ..)
    | with_reducible apply only_ite | with_reducible apply only_pair | (refine only_of_pair (by assumption) ?_)
    | (refine only_of_fst (by assumption) ?_) | refine fun _ => ?_ | refine fun _ _ => ?_ | dsimp only | split

theorem State.mailbox_only (s : State) (h : HalfIx) (op seq addr : Nat) (data : List Word) :
    Answers [.regs, .chans, .halves, .sr, .free] s (State.mailbox s h op seq addr data) := by
  refine ⟨_, rfl, ?_⟩
  repeat' first
    | with_reducible apply only_whenB | with_reducible exact only_refl _ _ | decide | assumption
    | with_reducible apply only_step (State.updHalf_only ..) | with_reducible apply only_whenB
    | with_reducible apply only_step (State.mbAct_only ..) | refine fun _ => ?_ | refine fun _ _ => ?_ | dsimp only

theorem State.takeCmd_only (s : State) (c : ChIx) (f : DownFrame) (w : Word) :
    OnlyChanges [.chans] s (s.takeCmd c f w) := by
  unfold State.takeCmd
  repeat' first
    | with_reducible exact only_refl _ _ | decide | assumption
    | with_reducible apply only_step (State.updChan_only ..) | with_reducible apply only_ite | refine fun _ => ?_
    | refine fun _ _ => ?_ | dsimp only

theorem State.applyFrame_only (s : State) (h : HalfIx) (slot : Nat) (f : DownFrame) :
    OnlyChanges [.regs, .chans, .halves, .sr, .free] s (s.applyFrame h slot f) := by
  unfold State.applyFrame
  repeat' first
    | with_reducible exact only_refl _ _ | decide | assumption
    | with_reducible apply only_step (State.updHalf_only ..)
    | with_reducible apply only_step (State.abortPulse_only ..) | with_reducible apply only_fieldChange
    | with_reducible apply only_step (State.takeCmd_only ..)
    | with_reducible apply only_step (State.tableCheck_only ..)
    | with_reducible apply only_step (State.mbAct_only ..) | with_reducible apply only_foldl
    | with_reducible apply only_ite | refine fun _ => ?_ | refine fun _ _ => ?_ | dsimp only

theorem State.noteSent_only (s : State) (c : ChIx) (t : Nat) : OnlyChanges [.regs, .chans] s (s.noteSent c t) := by
  unfold State.noteSent
  repeat' first
    | with_reducible exact only_refl _ _ | decide | assumption
    | with_reducible apply only_step (State.updChan_only ..) | with_reducible apply only_step (State.setReg_only ..)
    | with_reducible apply only_ite | with_reducible apply only_pair | (refine only_of_pair (by assumption) ?_)
    | (refine only_of_fst (by assumption) ?_) | refine fun _ => ?_ | refine fun _ _ => ?_ | dsimp only | split

theorem State.linkCrc_only (s : State) (h : HalfIx) (dn up : Nat) :
    OnlyChanges [.regs, .env, .fc, .pipe, .halves, .pairs, .recfg, .yk] s (s.linkCrc h dn up) := by
  unfold State.linkCrc
  repeat' first
    | with_reducible exact only_refl _ _ | decide | assumption
    | with_reducible apply only_step (State.raiseOnce_only ..) | with_reducible apply only_ite | refine fun _ => ?_
    | refine fun _ _ => ?_ | dsimp only

theorem State.clampSample_only (s : State) (c : ChIx) (clamp : Bool) :
    OnlyChanges [.regs, .env, .fc, .pipe, .chans, .halves, .pairs, .recfg, .yk] s (s.clampSample c clamp) := by
  unfold State.clampSample
  repeat' first
    | with_reducible exact only_refl _ _ | decide | assumption | with_reducible apply only_step (State.setB_only ..)
    | with_reducible apply only_step (State.updChan_only ..) | with_reducible apply only_step (State.setF_only ..)
    | with_reducible apply only_step (State.thrFlag_only ..) | with_reducible apply only_whenB
    | with_reducible apply only_step (State.raise_only ..) | with_reducible apply only_ite | refine fun _ => ?_
    | refine fun _ _ => ?_ | dsimp only

theorem State.rangeSample_only (s : State) (c : ChIx) (q : Nat) :
    OnlyChanges [.regs, .env, .fc, .pipe, .chans, .halves, .pairs, .recfg, .yk] s (s.rangeSample c q) := by
  unfold State.rangeSample
  repeat' first
    | with_reducible exact only_refl _ _ | decide | assumption | with_reducible apply only_step (State.setB_only ..)
    | with_reducible apply only_step (State.updChan_only ..) | with_reducible apply only_step (State.thrFlag_only ..)
    | with_reducible apply only_whenB | with_reducible apply only_step (State.raise_only ..)
    | with_reducible apply only_ite | refine fun _ => ?_ | refine fun _ _ => ?_ | dsimp only

theorem State.takeCh_only (s : State) (c : ChIx) (w : Win) :
    OnlyChanges [.regs, .env, .fc, .pipe, .chans, .halves, .pairs, .recfg, .yk] s (s.takeCh c w) := by
  unfold State.takeCh
  repeat' first
    | with_reducible exact only_refl _ _ | decide | assumption | with_reducible apply only_step (State.setB_only ..)
    | with_reducible apply only_step (State.rangeSample_only ..)
    | with_reducible apply only_step (State.clampSample_only ..)
    | with_reducible apply only_step (State.thrFlag_only ..) | with_reducible apply only_step (State.takeSmp_only ..)
    | with_reducible apply only_whenB | with_reducible apply only_step (State.syncChan_only ..) | refine fun _ => ?_
    | refine fun _ _ => ?_ | dsimp only

theorem State.takeWin_only (s : State) (h : HalfIx) (old : Bool) (rx : Nat → ChWin → ChWin) :
    OnlyChanges [.regs, .env, .fc, .pipe, .chans, .halves, .pairs, .recfg, .yk] s (s.takeWin h old rx) := by
  unfold State.takeWin
  repeat' first
    | with_reducible exact only_refl _ _ | decide | assumption
    | with_reducible apply only_step (State.updHalf_only ..) | with_reducible apply only_step (State.loseWin_only ..)
    | with_reducible apply only_step (State.takeCh_only ..) | with_reducible apply only_whenB
    | with_reducible apply only_foldl | with_reducible apply only_ite | with_reducible apply only_pair
    | (refine only_of_pair (by assumption) ?_) | (refine only_of_fst (by assumption) ?_) | refine fun _ => ?_
    | refine fun _ _ => ?_ | dsimp only | split

theorem State.takeFrame_only (s : State) (h : HalfIx) (place : Option Bool) (f : UpFrame) :
    OnlyChanges [.regs, .env, .fc, .pipe, .chans, .halves, .pairs, .recfg, .yk] s (s.takeFrame h place f) := by
  unfold State.takeFrame
  repeat' first
    | with_reducible exact only_refl _ _ | decide | assumption
    | with_reducible apply only_step (State.updHalf_only ..) | with_reducible apply only_whenB
    | with_reducible apply only_step (State.takeWin_only ..) | with_reducible apply only_ite
    | with_reducible apply only_pair | (refine only_of_pair (by assumption) ?_)
    | (refine only_of_fst (by assumption) ?_) | refine fun _ => ?_ | refine fun _ _ => ?_ | dsimp only | split

theorem State.takeConds_only (s : State) (h : HalfIx) (prev : Bool) (t : Nat) (f : UpFrame) :
    OnlyChanges [.chans] s (s.takeConds h prev t f) := by
  unfold State.takeConds
  repeat' first
    | with_reducible exact only_refl _ _ | decide | assumption
    | with_reducible apply only_step (State.updChan_only ..) | with_reducible apply only_foldl
    | with_reducible apply only_ite | refine fun _ => ?_ | refine fun _ _ => ?_ | dsimp only

theorem State.takeHalf_only (s : State) (h : HalfIx) (f : UpFrame) : OnlyChanges [.regs] s (s.takeHalf h f) := by
  unfold State.takeHalf
  repeat' first
    | with_reducible exact only_refl _ _ | decide | assumption | with_reducible apply only_step (State.setB_only ..)
    | with_reducible apply only_step (State.setF_only ..) | refine fun _ => ?_ | refine fun _ _ => ?_ | dsimp only

theorem State.uplinkValid_only (s : State) (h : HalfIx) (prev : Bool) (f : UpFrame) :
    OnlyChanges [.regs, .env, .fc, .pipe, .chans, .halves, .pairs, .recfg, .yk] s (s.uplinkValid h prev f) := by
  unfold State.uplinkValid
  repeat' first
    | with_reducible exact only_refl _ _ | decide | assumption | with_reducible apply only_step (State.setB_only ..)
    | with_reducible apply only_step (State.updChan_only ..) | with_reducible apply only_step (State.updHalf_only ..)
    | with_reducible apply only_step (State.setReg_only ..) | with_reducible apply only_step (State.setF_only ..)
    | with_reducible apply only_step (State.raise_only ..) | with_reducible apply only_step (State.addF_only ..)
    | with_reducible apply only_foldl | with_reducible apply only_ite | refine fun _ => ?_ | refine fun _ _ => ?_
    | dsimp only

theorem State.uplinkBad_only (s : State) (h : HalfIx) (slot : Nat) (prev : Bool) :
    OnlyChanges [.regs, .pipe, .halves] s (s.uplinkBad h slot prev) := by
  unfold State.uplinkBad
  repeat' first
    | with_reducible exact only_refl _ _ | decide | assumption
    | with_reducible apply only_step (State.updHalf_only ..) | with_reducible apply only_step (State.setReg_only ..)
    | with_reducible apply only_step (State.addF_only ..) | with_reducible apply only_ite | refine fun _ => ?_
    | refine fun _ _ => ?_ | dsimp only | with_reducible apply only_pipe
    | (constructor; intro p hp; cases p <;> first | rfl | exact absurd (by decide) hp)

theorem State.judgeUp_only (s : State) (h : HalfIx) (slot : Option Nat) (f : Option UpFrame) (place : Option Bool) :
    OnlyChanges [.regs, .env, .fc, .pipe, .chans, .halves, .pairs, .recfg, .yk] s (s.judgeUp h slot f place) := by
  unfold State.judgeUp
  repeat' first
    | with_reducible exact only_refl _ _ | decide | assumption
    | with_reducible apply only_step (State.updHalf_only ..)
    | with_reducible apply only_step (State.uplinkBad_only ..)
    | with_reducible apply only_step (State.takeConds_only ..)
    | with_reducible apply only_step (State.uplinkValid_only ..)
    | with_reducible apply only_step (State.takeHalf_only ..)
    | with_reducible apply only_step (State.takeFrame_only ..) | with_reducible apply only_pair
    | (refine only_of_pair (by assumption) ?_) | (refine only_of_fst (by assumption) ?_) | refine fun _ => ?_
    | refine fun _ _ => ?_ | dsimp only | split

theorem State.uplinkFrame_only (s : State) (h : HalfIx) (slot : Option Nat) (rx : Option (List Word)) :
    OnlyChanges [.regs, .env, .fc, .pipe, .chans, .halves, .pairs, .recfg, .yk] s (s.uplinkFrame h slot rx) := by
  unfold State.uplinkFrame
  repeat' first
    | with_reducible exact only_refl _ _ | decide | assumption
    | with_reducible apply only_step (State.updHalf_only ..) | with_reducible apply only_step (State.elapse_only ..)
    | with_reducible apply only_step (State.linkCrc_only ..) | with_reducible apply only_step (State.judgeUp_only ..)
    | with_reducible apply only_ite | with_reducible apply only_pair | (refine only_of_pair (by assumption) ?_)
    | (refine only_of_fst (by assumption) ?_) | refine fun _ => ?_ | refine fun _ _ => ?_ | dsimp only | split

theorem State.dieSlotEnd_only (s : State) (h : HalfIx) :
    OnlyChanges [.regs, .chans, .halves, .sr, .free] s (s.dieSlotEnd h) := by
  unfold State.dieSlotEnd
  repeat' first
    | with_reducible exact only_refl _ _ | decide | assumption
    | with_reducible apply only_step (State.updHalf_only ..)
    | with_reducible apply only_step (State.tableCheck_only ..) | with_reducible apply only_ite | refine fun _ => ?_
    | refine fun _ _ => ?_ | dsimp only

theorem State.logicSlotEnd_only (s : State) (h : HalfIx) : OnlyChanges [.regs, .halves] s (s.logicSlotEnd h) := by
  unfold State.logicSlotEnd
  repeat' first
    | with_reducible exact only_refl _ _ | decide | assumption
    | with_reducible apply only_step (State.updHalf_only ..) | with_reducible apply only_whenB
    | with_reducible apply only_step (State.addF_only ..) | with_reducible apply only_ite | refine fun _ => ?_
    | refine fun _ _ => ?_ | dsimp only

theorem State.fullSlotEnd_only (s : State) (h : HalfIx) :
    OnlyChanges [.regs, .chans, .halves, .sr, .free] s (s.fullSlotEnd h) := by
  unfold State.fullSlotEnd
  repeat' first
    | with_reducible exact only_refl _ _ | decide | assumption
    | with_reducible apply only_step (State.logicSlotEnd_only ..)
    | with_reducible apply only_step (State.dieSlotEnd_only ..) | refine fun _ => ?_ | refine fun _ _ => ?_
    | dsimp only

theorem State.uplinkTimeout_only (s : State) (h : HalfIx) :
    OnlyChanges [.regs, .env, .fc, .pipe, .halves, .pairs, .recfg, .yk] s (s.uplinkTimeout h) := by
  unfold State.uplinkTimeout
  repeat' first
    | with_reducible exact only_refl _ _ | decide | assumption
    | with_reducible apply only_step (State.updHalf_only ..) | with_reducible apply only_step (State.setF_only ..)
    | with_reducible apply only_step (State.raise_only ..) | with_reducible apply only_step (State.addF_only ..)
    | with_reducible apply only_ite | refine fun _ => ?_ | refine fun _ _ => ?_ | dsimp only

theorem State.deliverData_only (s : State) (offset : Nat) (ws : List Word) :
    OnlyChanges [.boot, .hp] s (s.deliverData offset ws) := by
  unfold State.deliverData
  repeat' first
    | with_reducible exact only_refl _ _ | decide | assumption | with_reducible apply only_ite | refine fun _ => ?_
    | refine fun _ _ => ?_ | dsimp only | with_reducible apply only_boot_hp
    | (constructor; intro p hp; cases p <;> first | rfl | exact absurd (by decide) hp)

theorem State.deliverDone_only (s : State) (length : Nat) : OnlyChanges [.boot, .hp] s (s.deliverDone length) := by
  unfold State.deliverDone
  repeat' first
    | with_reducible exact only_refl _ _ | decide | assumption | with_reducible apply only_ite | refine fun _ => ?_
    | refine fun _ _ => ?_ | dsimp only | with_reducible apply only_boot_hp
    | (constructor; intro p hp; cases p <;> first | rfl | exact absurd (by decide) hp)

theorem State.deliverAbort_only (s : State) : OnlyChanges [.boot, .hp] s (s.deliverAbort) := by
  unfold State.deliverAbort
  repeat' first
    | with_reducible exact only_refl _ _ | decide | assumption | with_reducible apply only_ite | refine fun _ => ?_
    | refine fun _ _ => ?_ | dsimp only | with_reducible apply only_boot_hp
    | (constructor; intro p hp; cases p <;> first | rfl | exact absurd (by decide) hp)

theorem State.deliver_only (s : State) (ws : List Word) : OnlyChanges [.boot, .hp] s (s.deliver ws) := by
  unfold State.deliver
  repeat' first
    | with_reducible exact only_refl _ _ | decide | assumption
    | with_reducible apply only_step (State.deliverDone_only ..)
    | with_reducible apply only_step (State.deliverAbort_only ..)
    | with_reducible apply only_step (State.deliverData_only ..) | with_reducible apply only_pair
    | (refine only_of_pair (by assumption) ?_) | (refine only_of_fst (by assumption) ?_) | refine fun _ => ?_
    | refine fun _ _ => ?_ | dsimp only | split

theorem State.rejectBale_only (s : State) (reason seq : Nat) : OnlyChanges [.hp] s (s.rejectBale reason seq) := by
  unfold State.rejectBale
  repeat' first
    | with_reducible exact only_refl _ _ | decide | assumption | refine fun _ => ?_ | refine fun _ _ => ?_
    | dsimp only | with_reducible apply only_hp
    | (constructor; intro p hp; cases p <;> first | rfl | exact absurd (by decide) hp)

theorem State.baleWrite_only (s : State) (b : Bale) :
    OnlyChanges [.regs, .sig, .env, .fc, .pipe, .halves, .pairs, .recfg, .yk, .hp, .queue] s (s.baleWrite b) := by
  unfold State.baleWrite
  repeat' first
    | with_reducible exact only_refl _ _ | decide | assumption
    | with_reducible apply only_step (State.enqueue_only ..)
    | with_reducible apply only_step (State.rejectBale_only ..)
    | with_reducible apply only_step (State.hpFault_only ..) | with_reducible apply only_step (State.addF_only ..)
    | with_reducible apply only_pair | (refine only_of_pair (by assumption) ?_)
    | (refine only_of_fst (by assumption) ?_) | refine fun _ => ?_ | refine fun _ _ => ?_ | dsimp only | split

theorem State.takeBale_only (s : State) (bits : List Bool) :
    OnlyChanges [.regs, .sig, .env, .fc, .pipe, .halves, .pairs, .boot, .recfg, .yk, .hp, .queue] s (s.takeBale bits) := by
  unfold State.takeBale
  repeat' first
    | with_reducible exact only_refl _ _ | decide | assumption
    | with_reducible apply only_step (State.rejectBale_only ..)
    | with_reducible apply only_step (State.baleWrite_only ..)
    | with_reducible apply only_step (State.deliver_only ..) | with_reducible apply only_ite | refine fun _ => ?_
    | refine fun _ _ => ?_ | dsimp only

theorem State.reach_only (s : State) (t : Nat) : OnlyChanges [.regs] s (s.reach t) := by
  unfold State.reach
  repeat' first
    | with_reducible exact only_refl _ _ | decide | assumption
    | with_reducible apply only_step (State.advance_only ..) | refine fun _ => ?_ | refine fun _ _ => ?_ | dsimp only

theorem State.startReal_only (s : State) (p : PairIx) (pr : Prog) (outcome r : Nat) :
    OnlyChanges [.regs, .pairs] s (s.startReal p pr outcome r) := by
  unfold State.startReal
  repeat' first
    | with_reducible exact only_refl _ _ | decide | assumption
    | with_reducible apply only_step (State.updPair_only ..) | with_reducible apply only_step (State.addF_only ..)
    | with_reducible apply only_ite | refine fun _ => ?_ | refine fun _ _ => ?_ | dsimp only

theorem State.frontSlots_only (s : State) (p : PairIx) (n : Nat) :
    OnlyChanges [.regs, .pairs] s (s.frontSlots p n) := by
  unfold State.frontSlots
  repeat' first
    | with_reducible exact only_refl _ _ | decide | assumption
    | with_reducible apply only_step (State.pcTake_only ..) | with_reducible apply only_step (State.updPair_only ..)
    | with_reducible apply only_ite | refine fun _ => ?_ | refine fun _ _ => ?_ | dsimp only

theorem State.judged_only (s : State) (p : PairIx) (pr : Prog) (front : Nat) (cut : Slots) (r : Nat) :
    OnlyChanges [.regs, .pairs] s (s.judged p pr front cut r) := by
  unfold State.judged
  repeat' first
    | with_reducible exact only_refl _ _ | decide | assumption | with_reducible apply only_step (State.setF_only ..)
    | with_reducible apply only_step (State.elapse_only ..) | with_reducible apply only_step (State.updPair_only ..)
    | with_reducible apply only_step (State.frontSlots_only ..)
    | with_reducible apply only_step (State.memCorr_only ..) | refine fun _ => ?_ | refine fun _ _ => ?_ | dsimp only

theorem State.restPairs_only (s : State) : OnlyChanges [.regs, .pairs] s (s.restPairs) := by
  unfold State.restPairs
  repeat' first
    | with_reducible exact only_refl _ _ | decide | assumption
    | with_reducible apply only_step (State.cutWork_only ..) | with_reducible apply only_step (State.updPair_only ..)
    | with_reducible apply only_step (State.freezeRoll_only ..) | with_reducible apply only_foldl
    | with_reducible apply only_ite | refine fun _ => ?_ | refine fun _ _ => ?_ | dsimp only

theorem State.endSession_only (s : State) : OnlyChanges [.regs, .sr] s (s.endSession) := by
  unfold State.endSession
  repeat' first
    | with_reducible exact only_refl _ _ | decide | assumption | with_reducible apply only_step (State.updSr_only ..)
    | with_reducible apply only_step (State.journal_only ..) | with_reducible apply only_step (State.syncSr_only ..)
    | with_reducible apply only_ite | refine fun _ => ?_ | refine fun _ _ => ?_ | dsimp only

theorem State.programSeal_only (s : State) : OnlyChanges [.sr] s (s.programSeal) := by
  unfold State.programSeal
  repeat' first
    | with_reducible exact only_refl _ _ | decide | assumption
    | with_reducible apply only_step (State.updBlock_only ..) | with_reducible apply only_pair
    | (refine only_of_pair (by assumption) ?_) | (refine only_of_fst (by assumption) ?_) | refine fun _ => ?_
    | refine fun _ _ => ?_ | dsimp only | split

theorem State.programBacklog_only (s : State) :
    OnlyChanges [.regs, .env, .fc, .pipe, .halves, .pairs, .recfg, .sr, .yk] s (s.programBacklog) := by
  unfold State.programBacklog
  repeat' first
    | with_reducible exact only_refl _ _ | decide | assumption
    | with_reducible apply only_step (State.programSeal_only ..)
    | with_reducible apply only_step (State.programPage_only ..) | with_reducible apply only_foldl
    | refine fun _ => ?_ | refine fun _ _ => ?_ | dsimp only

theorem State.deepEntry_only (s : State) :
    OnlyChanges [.regs, .env, .fc, .pipe, .halves, .pairs, .recfg, .cvu, .sr, .yk] s (s.deepEntry) := by
  unfold State.deepEntry
  repeat' first
    | with_reducible exact only_refl _ _ | decide | assumption
    | with_reducible apply only_step (State.programBacklog_only ..)
    | with_reducible apply only_step (State.scanAbandon_only ..)
    | with_reducible apply only_step (State.recfgCancelFor_only ..)
    | with_reducible apply only_step (State.dropTrees_only ..)
    | with_reducible apply only_step (State.writeDue_only ..)
    | with_reducible apply only_step (State.endSession_only ..) | with_reducible apply only_foldl
    | refine fun _ => ?_ | refine fun _ _ => ?_ | dsimp only

theorem State.yokeRest_only (s : State) : OnlyChanges [.regs, .env, .yk] s (s.yokeRest) := by
  unfold State.yokeRest
  repeat' first
    | with_reducible exact only_refl _ _ | decide | assumption | with_reducible apply only_step (State.setB_only ..)
    | with_reducible apply only_step (State.updYk_only ..) | with_reducible apply only_step (State.unjoin_only ..)
    | with_reducible apply only_ite | refine fun _ => ?_ | refine fun _ _ => ?_ | dsimp only
    | with_reducible apply only_env
    | (constructor; intro p hp; cases p <;> first | rfl | exact absurd (by decide) hp)

theorem State.dropWindows_only (s : State) : OnlyChanges [.chans] s (s.dropWindows) := by
  unfold State.dropWindows
  repeat' first
    | with_reducible exact only_refl _ _ | decide | assumption
    | with_reducible apply only_step (State.updChan_only ..) | with_reducible apply only_foldl | refine fun _ => ?_
    | refine fun _ _ => ?_ | dsimp only

theorem State.dormantEntry_only (s : State) :
    OnlyChanges [.regs, .env, .fc, .wdg, .pipe, .chans, .halves, .pairs, .recfg, .cvu, .sr, .pwr, .yk] s (s.dormantEntry) := by
  unfold State.dormantEntry
  repeat' first
    | with_reducible exact only_refl _ _ | decide | assumption
    | with_reducible apply only_step (State.updHalf_only ..) | with_reducible apply only_step (State.setF_only ..)
    | with_reducible apply only_step (State.wdgStop_only ..)
    | with_reducible apply only_step (State.cutEntry_only ..)
    | with_reducible apply only_step (State.restPairs_only ..)
    | with_reducible apply only_step (State.yokeRest_only ..) | with_reducible apply only_step (State.updPwr_only ..)
    | with_reducible apply only_step (State.deepEntry_only ..) | with_reducible apply only_foldl | refine fun _ => ?_
    | refine fun _ _ => ?_ | dsimp only

theorem State.enterPower_only (s : State) (st : Nat) :
    OnlyChanges [.regs, .env, .fc, .wdg, .pipe, .chans, .halves, .pairs, .recfg, .cvu, .sr, .gln, .pwr, .yk] s (s.enterPower st) := by
  unfold State.enterPower
  repeat' first
    | with_reducible exact only_refl _ _ | decide | assumption
    | with_reducible apply only_step (State.loseExchange_only ..)
    | with_reducible apply only_step (State.loseLanding_only ..)
    | with_reducible apply only_step (State.restPairs_only ..)
    | with_reducible apply only_step (State.yokeRest_only ..)
    | with_reducible apply only_step (State.dormantEntry_only ..)
    | with_reducible apply only_step (State.updPwr_only ..)
    | with_reducible apply only_step (State.deepEntry_only ..)
    | with_reducible apply only_step (State.syncPwr_only ..) | with_reducible apply only_ite
    | with_reducible apply only_pair | (refine only_of_pair (by assumption) ?_)
    | (refine only_of_fst (by assumption) ?_) | refine fun _ => ?_ | refine fun _ _ => ?_ | dsimp only | split

theorem State.judgeRequest_only (s : State) :
    OnlyChanges [.regs, .sig, .env, .fc, .wdg, .pipe, .chans, .halves, .pairs, .recfg, .cvu, .sr, .gln, .pwr, .yk] s (s.judgeRequest) := by
  unfold State.judgeRequest
  repeat' first
    | with_reducible exact only_refl _ _ | decide | assumption
    | with_reducible apply only_step (State.boundaryCause_only ..)
    | with_reducible apply only_step (State.enterPower_only ..)
    | with_reducible apply only_step (State.refusePower_only ..)
    | with_reducible apply only_step (State.updPwr_only ..) | with_reducible apply only_step (State.syncPwr_only ..)
    | with_reducible apply only_ite | with_reducible apply only_pair | (refine only_of_pair (by assumption) ?_)
    | (refine only_of_fst (by assumption) ?_) | refine fun _ => ?_ | refine fun _ _ => ?_ | dsimp only | split

theorem State.dropStaging_only (s : State) : OnlyChanges [.regs, .boot] s (s.dropStaging) := by
  unfold State.dropStaging
  repeat' first
    | with_reducible exact only_refl _ _ | decide | assumption
    | with_reducible apply only_step (State.setReg_only ..) | refine fun _ => ?_ | refine fun _ _ => ?_ | dsimp only
    | with_reducible apply only_boot
    | (constructor; intro p hp; cases p <;> first | rfl | exact absurd (by decide) hp)

theorem State.dormantDown_only (s : State) :
    OnlyChanges [.regs, .env, .pipe, .chans, .halves, .boot, .pwr] s (s.dormantDown) := by
  unfold State.dormantDown
  repeat' first
    | with_reducible exact only_refl _ _ | decide | assumption | with_reducible apply only_step (State.setB_only ..)
    | with_reducible apply only_step (State.updHalf_only ..) | with_reducible apply only_step (State.setF_only ..)
    | with_reducible apply only_step (State.loseCoefs_only ..)
    | with_reducible apply only_step (State.dropStaging_only ..)
    | with_reducible apply only_step (State.dropWindows_only ..)
    | with_reducible apply only_step (State.updPwr_only ..) | with_reducible apply only_step (State.addF_only ..)
    | with_reducible apply only_step (State.syncPwr_only ..) | with_reducible apply only_foldl
    | with_reducible apply only_ite | refine fun _ => ?_ | refine fun _ _ => ?_ | dsimp only
    | with_reducible apply only_env | with_reducible apply only_pipe
    | (constructor; intro p hp; cases p <;> first | rfl | exact absurd (by decide) hp)

theorem State.handoverCheck_only (s : State) (h : HalfIx) (ok : Bool) :
    OnlyChanges [.regs, .env, .fc, .pipe, .chans, .halves, .pairs, .boot, .recfg, .gln, .pwr, .yk] s (s.handoverCheck h ok) := by
  unfold State.handoverCheck
  repeat' first
    | with_reducible exact only_refl _ _ | decide | assumption
    | with_reducible apply only_step (State.dormantDown_only ..)
    | with_reducible apply only_step (State.abandonDormant_only ..)
    | with_reducible apply only_step (State.updPwr_only ..) | with_reducible apply only_ite
    | with_reducible apply only_pair | (refine only_of_pair (by assumption) ?_)
    | (refine only_of_fst (by assumption) ?_) | refine fun _ => ?_ | refine fun _ _ => ?_ | dsimp only | split

theorem State.loseDormant_only (s : State) :
    OnlyChanges [.regs, .mem, .sig, .chans, .cribs, .sr, .gln, .yk] s (s.loseDormant) := by
  unfold State.loseDormant
  repeat' first
    | with_reducible exact only_refl _ _ | decide | assumption | with_reducible apply only_whenB
    | with_reducible apply only_step (State.loseGranary_only ..) | refine fun _ => ?_ | refine fun _ _ => ?_
    | dsimp only

theorem State.flashFailed_only (s : State) (slot : Nat) :
    OnlyChanges [.regs, .env, .fc, .pipe, .halves, .pairs, .recfg, .sr, .yk] s (s.flashFailed slot) := by
  unfold State.flashFailed
  repeat' first
    | with_reducible exact only_refl _ _ | decide | assumption | with_reducible apply only_step (State.updSr_only ..)
    | with_reducible apply only_step (State.journalFail_only ..) | with_reducible apply only_ite | refine fun _ => ?_
    | refine fun _ _ => ?_ | dsimp only

theorem State.takeLeaf_only (s : State) :
    OnlyChanges [.regs, .env, .fc, .pipe, .halves, .pairs, .recfg, .sr, .yk] s (s.takeLeaf) := by
  unfold State.takeLeaf
  repeat' first
    | with_reducible exact only_refl _ _ | decide | assumption
    | with_reducible apply only_step (State.setReg_only ..) | with_reducible apply only_step (State.updSr_only ..)
    | with_reducible apply only_step (State.syncTree_only ..)
    | with_reducible apply only_step (State.tellLeaves_only ..) | with_reducible apply only_ite | refine fun _ => ?_
    | refine fun _ _ => ?_ | dsimp only

theorem State.deferSign_only (s : State) :
    OnlyChanges [.regs, .env, .fc, .pipe, .halves, .pairs, .recfg, .sr, .yk] s (s.deferSign) := by
  unfold State.deferSign
  repeat' first
    | with_reducible exact only_refl _ _ | decide | assumption | with_reducible apply only_step (State.updSr_only ..)
    | with_reducible apply only_step (State.srFault_only ..) | with_reducible apply only_step (State.addF_only ..)
    | with_reducible apply only_ite | refine fun _ => ?_ | refine fun _ _ => ?_ | dsimp only

theorem State.attest_only (s : State) (nonce : List Word) : OnlyChanges [.regs, .sr] s (s.attest nonce) := by
  unfold State.attest
  repeat' first
    | with_reducible exact only_refl _ _ | decide | assumption | with_reducible apply only_step (State.updSr_only ..)
    | with_reducible apply only_step (State.setF_only ..) | refine fun _ => ?_ | refine fun _ _ => ?_ | dsimp only

theorem State.authFailed_only (s : State) :
    OnlyChanges [.regs, .env, .fc, .pipe, .halves, .pairs, .recfg, .sr, .yk] s (s.authFailed) := by
  unfold State.authFailed
  repeat' first
    | with_reducible exact only_refl _ _ | decide | assumption | with_reducible apply only_step (State.updSr_only ..)
    | with_reducible apply only_step (State.srFault_only ..) | with_reducible apply only_step (State.journal_only ..)
    | with_reducible apply only_step (State.addF_only ..) | with_reducible apply only_step (State.syncSr_only ..)
    | with_reducible apply only_ite | refine fun _ => ?_ | refine fun _ _ => ?_ | dsimp only

theorem State.srOpen_only (s : State) (ws : List Word) : OnlyChanges [.regs, .sr] s (s.srOpen ws).2 := by
  unfold State.srOpen
  repeat' first
    | with_reducible exact only_refl _ _ | decide | assumption | with_reducible apply only_step (State.updSr_only ..)
    | with_reducible apply only_step (State.journal_only ..) | with_reducible apply only_step (State.syncSr_only ..)
    | with_reducible apply only_step (State.endSession_only ..) | with_reducible apply only_ite
    | with_reducible apply only_pair | (refine only_of_pair (by assumption) ?_)
    | (refine only_of_fst (by assumption) ?_) | refine fun _ => ?_ | refine fun _ _ => ?_ | dsimp only | split

theorem only_srMessage {ps : List Part} {s0 : State} (s : State) (ws : List Word) (len : Nat) (authed : Bool) (f : State → Option (List Word × State))
    (k : Part.sub [.regs, .env, .fc, .pipe, .halves, .pairs, .recfg, .sr, .yk] ps = true) (H : ∀ u r, f u = some r → OnlyChanges ps u r.2) (h0 : OnlyChanges ps s0 s) :
    OnlyChanges ps s0 (s.srMessage ws len authed f).2 := by
  have H2 : ∀ b s u v, f u = some (b, v) → OnlyChanges ps s u → OnlyChanges ps s v :=
    fun _ _ u _ e h => only_trans h (H u _ e)
  unfold State.srMessage
  repeat' first
    | with_reducible exact only_refl _ _ | exact Part.sub_trans (by decide) k | assumption
    | (refine H2 _ _ _ _ (by assumption) ?_) | with_reducible apply only_step (State.updSr_only ..)
    | with_reducible apply only_step (State.authFailed_only ..) | with_reducible apply only_ite
    | with_reducible apply only_pair | (refine only_of_pair (by assumption) ?_)
    | (refine only_of_fst (by assumption) ?_) | refine fun _ => ?_ | refine fun _ _ => ?_ | dsimp only | split

theorem State.srAuth_only (s : State) (ws : List Word) :
    OnlyChanges [.regs, .env, .fc, .pipe, .halves, .pairs, .recfg, .sr, .yk] s (s.srAuth ws).2 := by
  unfold State.srAuth
  repeat' first
    | with_reducible exact only_refl _ _ | decide | assumption | with_reducible apply only_step (State.updSr_only ..)
    | with_reducible apply only_step (State.authFailed_only ..) | with_reducible apply only_srMessage
    | with_reducible apply only_ite | with_reducible apply only_pair | (refine only_of_pair (by assumption) ?_)
    | (refine only_of_fst (by assumption) ?_) | refine fun _ => ?_ | refine fun _ _ => ?_ | dsimp only | split
  rename_i u r e
  cases e
  dsimp only
  exact only_mono (State.updSr_only ..) (by decide)

theorem State.slotOp_only (s : State) (op : SlotOp) : OnlyChanges [.pipe, .sr] s (s.slotOp op) := by
  unfold State.slotOp
  repeat' first
    | with_reducible exact only_refl _ _ | decide | assumption | with_reducible apply only_step (State.updSr_only ..)
    | with_reducible apply only_step (State.unstamped_only ..) | refine fun _ => ?_ | refine fun _ _ => ?_
    | dsimp only

theorem State.srRegister_only (s : State) (ws : List Word) :
    OnlyChanges [.regs, .env, .fc, .pipe, .halves, .pairs, .recfg, .sr, .yk] s (s.srRegister ws).2 := by
  unfold State.srRegister
  repeat' first
    | with_reducible exact only_refl _ _ | decide | assumption | with_reducible apply only_srMessage
    | with_reducible apply only_step (State.slotOp_only ..) | with_reducible apply only_ite
    | with_reducible apply only_dite | with_reducible apply only_pair | (refine only_of_pair (by assumption) ?_)
    | (refine only_of_fst (by assumption) ?_) | refine fun _ => ?_ | refine fun _ _ => ?_ | dsimp only | split
  rename_i u r e
  dsimp only at e
  split at e
  · split at e
    · cases e
    · cases e
      exact only_mono (State.slotOp_only ..) (by decide)
  · cases e

theorem State.srRetire_only (s : State) (ws : List Word) :
    OnlyChanges [.regs, .env, .fc, .pipe, .halves, .pairs, .recfg, .sr, .yk] s (s.srRetire ws).2 := by
  unfold State.srRetire
  repeat' first
    | with_reducible exact only_refl _ _ | decide | assumption | with_reducible apply only_srMessage
    | with_reducible apply only_step (State.slotOp_only ..) | with_reducible apply only_pair
    | (refine only_of_pair (by assumption) ?_) | (refine only_of_fst (by assumption) ?_) | refine fun _ => ?_
    | refine fun _ _ => ?_ | dsimp only | split
  rename_i u r e
  obtain ⟨k, _, rfl⟩ := Option.map_eq_some_iff.mp e
  exact only_mono (State.slotOp_only ..) (by decide)

theorem State.srReadSlot_only (s : State) (ws : List Word) :
    OnlyChanges [.regs, .env, .fc, .pipe, .halves, .pairs, .recfg, .sr, .yk] s (s.srReadSlot ws).2 := by
  unfold State.srReadSlot
  repeat' first
    | with_reducible exact only_refl _ _ | decide | assumption | with_reducible apply only_srMessage
    | with_reducible apply only_dite | with_reducible apply only_pair | (refine only_of_pair (by assumption) ?_)
    | (refine only_of_fst (by assumption) ?_) | refine fun _ => ?_ | refine fun _ _ => ?_ | dsimp only | split
  rename_i u r e
  dsimp only at e
  split at e
  · cases e
    exact only_refl _ _
  · cases e

theorem State.srAccept_only (s : State) (ws : List Word) :
    OnlyChanges [.regs, .env, .fc, .pipe, .halves, .pairs, .recfg, .sr, .yk] s (s.srAccept ws).2 := by
  unfold State.srAccept
  repeat' first
    | with_reducible exact only_refl _ _ | decide | assumption | with_reducible apply only_srMessage
    | with_reducible apply only_step (State.slotOp_only ..) | with_reducible apply only_pair
    | (refine only_of_pair (by assumption) ?_) | (refine only_of_fst (by assumption) ?_) | refine fun _ => ?_
    | refine fun _ _ => ?_ | dsimp only | split
  rename_i u r e
  obtain ⟨k, _, rfl⟩ := Option.map_eq_some_iff.mp e
  exact only_mono (State.slotOp_only ..) (by decide)

theorem State.srClose_only (s : State) (ws : List Word) :
    OnlyChanges [.regs, .env, .fc, .pipe, .halves, .pairs, .recfg, .sr, .yk] s (s.srClose ws).2 := by
  unfold State.srClose
  repeat' first
    | with_reducible exact only_refl _ _ | decide | assumption | with_reducible apply only_srMessage
    | with_reducible apply only_step (State.endSession_only ..) | with_reducible apply only_pair
    | (refine only_of_pair (by assumption) ?_) | (refine only_of_fst (by assumption) ?_) | refine fun _ => ?_
    | refine fun _ _ => ?_ | dsimp only | split
  rename_i u r e
  cases e
  exact only_mono (State.endSession_only ..) (by decide)

theorem State.hourlySlot_only (s : State) (k : Fin 32) :
    OnlyChanges [.regs, .env, .fc, .pipe, .halves, .pairs, .recfg, .sr, .yk, .free] s (s.hourlySlot k) := by
  unfold State.hourlySlot
  repeat' first
    | with_reducible exact only_refl _ _ | decide | assumption
    | with_reducible apply only_step (State.updSlot_only ..) | with_reducible apply only_step (State.srFault_only ..)
    | with_reducible apply only_step (State.journal_only ..)
    | with_reducible apply only_step (State.drawWord_only ..) | with_reducible apply only_foldl
    | with_reducible apply only_ite | with_reducible apply only_pair | (refine only_of_pair (by assumption) ?_)
    | (refine only_of_fst (by assumption) ?_) | refine fun _ => ?_ | refine fun _ _ => ?_ | dsimp only | split

theorem State.hourly_only (s : State) (a : Ageing) :
    OnlyChanges [.regs, .env, .fc, .pipe, .halves, .pairs, .recfg, .sr, .yk, .free] s (s.hourly a) := by
  unfold State.hourly
  repeat' first
    | with_reducible exact only_refl _ _ | decide | assumption
    | with_reducible apply only_step (State.hourlySlot_only ..)
    | with_reducible apply only_step (State.hourlyDevice_only ..)
    | with_reducible apply only_step (State.writeDue_only ..) | with_reducible apply only_foldl | refine fun _ => ?_
    | refine fun _ _ => ?_ | dsimp only

theorem State.closeNewest_only (s : State) : OnlyChanges [.sr] s (s.closeNewest) := by
  unfold State.closeNewest
  repeat' first
    | with_reducible exact only_refl _ _ | decide | assumption
    | with_reducible apply only_step (State.updBlock_only ..) | with_reducible apply only_ite
    | with_reducible apply only_pair | (refine only_of_pair (by assumption) ?_)
    | (refine only_of_fst (by assumption) ?_) | refine fun _ => ?_ | refine fun _ _ => ?_ | dsimp only | split

theorem State.startEntry_only (s : State) (h : HalfIx) (e : Nat) :
    OnlyChanges [.regs, .sig, .env, .fc, .pipe, .halves, .pairs, .recfg, .yk] s (s.startEntry h e) := by
  unfold State.startEntry
  repeat' first
    | with_reducible exact only_refl _ _ | decide | assumption
    | with_reducible apply only_step (State.beginRun_only ..)
    | with_reducible apply only_step (State.setSpare_only ..) | with_reducible apply only_step (State.setF_only ..)
    | with_reducible apply only_step (State.stage_only ..) | with_reducible apply only_step (State.endEntry_only ..)
    | with_reducible apply only_step (State.raise_only ..) | with_reducible apply only_step (State.updSeq_only ..)
    | with_reducible apply only_step (State.addF_only ..) | with_reducible apply only_ite
    | with_reducible apply only_pair | (refine only_of_pair (by assumption) ?_)
    | (refine only_of_fst (by assumption) ?_) | refine fun _ => ?_ | refine fun _ _ => ?_ | dsimp only | split

theorem State.unjudged_only (s : State) (h : HalfIx) (again : SeqStage) :
    OnlyChanges [.regs, .halves] s (s.unjudged h again) := by
  unfold State.unjudged
  repeat' first
    | with_reducible exact only_refl _ _ | decide | assumption | with_reducible apply only_step (State.stage_only ..)
    | with_reducible apply only_step (State.updSeq_only ..) | with_reducible apply only_step (State.addF_only ..)
    | with_reducible apply only_ite | refine fun _ => ?_ | refine fun _ _ => ?_ | dsimp only

theorem State.noteD_only (s : State) (h : HalfIx) (d : Int) : OnlyChanges [.regs] s (s.noteD h d) := by
  unfold State.noteD
  repeat' first
    | with_reducible exact only_refl _ _ | decide | assumption | with_reducible apply only_step (State.setF_only ..)
    | refine fun _ => ?_ | refine fun _ _ => ?_ | dsimp only

theorem State.mismatch_only (s : State) (h : HalfIx) (c step : Nat) (d : Int) :
    OnlyChanges [.regs, .env, .fc, .pipe, .halves, .pairs, .recfg, .yk] s (s.mismatch h c step d) := by
  unfold State.mismatch
  repeat' first
    | with_reducible exact only_refl _ _ | decide | assumption | with_reducible apply only_step (State.raise_only ..)
    | with_reducible apply only_ite | refine fun _ => ?_ | refine fun _ _ => ?_ | dsimp only

theorem State.calGood_only (s : State) (h : HalfIx) (c : ChIx) :
    OnlyChanges [.regs, .chans, .halves] s (s.calGood h c) := by
  unfold State.calGood
  repeat' first
    | with_reducible exact only_refl _ _ | decide | assumption | with_reducible apply only_step (State.setB_only ..)
    | with_reducible apply only_step (State.updChan_only ..) | with_reducible apply only_step (State.setF_only ..)
    | with_reducible apply only_step (State.updSeq_only ..) | with_reducible apply only_ite | refine fun _ => ?_
    | refine fun _ _ => ?_ | dsimp only

theorem State.calFail_only (s : State) (h : HalfIx) (c : ChIx) :
    OnlyChanges [.regs, .env, .fc, .pipe, .halves, .pairs, .recfg, .yk] s (s.calFail h c) := by
  unfold State.calFail
  repeat' first
    | with_reducible exact only_refl _ _ | decide | assumption | with_reducible apply only_step (State.setB_only ..)
    | with_reducible apply only_step (State.setSpare_only ..) | with_reducible apply only_step (State.setF_only ..)
    | with_reducible apply only_step (State.stage_only ..) | with_reducible apply only_step (State.raise_only ..)
    | with_reducible apply only_step (State.updSeq_only ..) | refine fun _ => ?_ | refine fun _ _ => ?_ | dsimp only

theorem State.programDone_only (s : State) (ok : Bool) :
    OnlyChanges [.regs, .env, .fc, .pipe, .halves, .pairs, .boot, .recfg, .yk] s (s.programDone ok) := by
  unfold State.programDone
  repeat' first
    | with_reducible exact only_refl _ _ | decide | assumption
    | with_reducible apply only_step (State.bootFault_only ..)
    | with_reducible apply only_step (State.setStage_only ..) | with_reducible apply only_ite | refine fun _ => ?_
    | refine fun _ _ => ?_ | dsimp only | with_reducible apply only_boot
    | (constructor; intro p hp; cases p <;> first | rfl | exact absurd (by decide) hp)

theorem State.setUpPair_only (s : State) (p : PairIx) : OnlyChanges [.regs, .pairs] s (s.setUpPair p) := by
  unfold State.setUpPair
  repeat' first
    | with_reducible exact only_refl _ _ | decide | assumption | with_reducible apply only_step (State.setB_only ..)
    | with_reducible apply only_step (State.setF_only ..) | with_reducible apply only_whenB
    | with_reducible apply only_step (State.updPair_only ..) | with_reducible apply only_step (State.showPc_only ..)
    | with_reducible apply only_foldl | with_reducible apply only_pair | (refine only_of_pair (by assumption) ?_)
    | (refine only_of_fst (by assumption) ?_) | refine fun _ => ?_ | refine fun _ _ => ?_ | dsimp only | split

theorem State.setUpPairs_only (s : State) :
    OnlyChanges [.regs, .sig, .pipe, .out, .pairs, .pwr] s (s.setUpPairs) := by
  unfold State.setUpPairs
  repeat' first
    | with_reducible exact only_refl _ _ | decide | assumption
    | with_reducible apply only_step (State.setUpPair_only ..)
    | with_reducible apply only_step (State.updPwr_only ..) | with_reducible apply only_foldl
    | with_reducible apply only_ite | refine fun _ => ?_ | refine fun _ _ => ?_ | dsimp only
    | with_reducible apply only_out | with_reducible apply only_sig_pipe
    | (constructor; intro p hp; cases p <;> first | rfl | exact absurd (by decide) hp)

theorem State.armHalf_only (s : State) (h : HalfIx) : OnlyChanges [.regs, .chans, .halves] s (s.armHalf h) := by
  unfold State.armHalf
  repeat' first
    | with_reducible exact only_refl _ _ | decide | assumption
    | with_reducible apply only_step (State.updChan_only ..) | with_reducible apply only_step (State.updHalf_only ..)
    | with_reducible apply only_step (State.setF_only ..) | with_reducible apply only_whenB
    | with_reducible apply only_step (State.addF_only ..) | with_reducible apply only_foldl
    | with_reducible apply only_ite | refine fun _ => ?_ | refine fun _ _ => ?_ | dsimp only

theorem State.armHalves_only (s : State) (mask : Nat) :
    OnlyChanges [.regs, .sig, .pipe, .out, .chans, .halves, .pairs, .pwr, .yk] s (s.armHalves mask) := by
  unfold State.armHalves
  repeat' first
    | with_reducible exact only_refl _ _ | decide | assumption
    | with_reducible apply only_step (State.updChan_only ..) | with_reducible apply only_step (State.updHalf_only ..)
    | with_reducible apply only_step (State.armHalf_only ..) | with_reducible apply only_whenB
    | with_reducible apply only_step (State.updYk_only ..) | with_reducible apply only_step (State.syncReady_only ..)
    | with_reducible apply only_step (State.setUpPairs_only ..)
    | with_reducible apply only_step (State.enter_only ..) | with_reducible apply only_step (State.unsync_only ..)
    | with_reducible apply only_foldl | refine fun _ => ?_ | refine fun _ _ => ?_ | dsimp only
    | with_reducible apply only_pipe
    | (constructor; intro p hp; cases p <;> first | rfl | exact absurd (by decide) hp)

theorem State.push_only (s : State) (i : Instr) : OnlyChanges [.pending] s (s.push i) := by
  unfold State.push
  repeat' first
    | with_reducible exact only_refl _ _ | decide | assumption | refine fun _ => ?_ | refine fun _ _ => ?_
    | dsimp only | with_reducible apply only_pending
    | (constructor; intro p hp; cases p <;> first | rfl | exact absurd (by decide) hp)

theorem State.withFetchWord_only (s : State) (nbits w : Nat) :
    OnlyChanges [.pending] s (s.withFetchWord nbits w) := by
  unfold State.withFetchWord
  repeat' first
    | with_reducible exact only_refl _ _ | decide | assumption | with_reducible apply only_step (State.push_only ..)
    | with_reducible apply only_pair | (refine only_of_pair (by assumption) ?_)
    | (refine only_of_fst (by assumption) ?_) | refine fun _ => ?_ | refine fun _ _ => ?_ | dsimp only | split

theorem State.filterStep_only (s : State) (c : ChIx) (v : Int) (t : Nat) :
    OnlyChanges [.chans] s (s.filterStep c v t) := by
  unfold State.filterStep
  repeat' first
    | with_reducible exact only_refl _ _ | decide | assumption
    | with_reducible apply only_step (State.updChan_only ..) | with_reducible apply only_ite | refine fun _ => ?_
    | refine fun _ _ => ?_ | dsimp only

theorem State.pulseSample_only (s : State) (c : ChIx) (w : WinSample) :
    OnlyChanges [.chans] s (s.pulseSample c w) := by
  unfold State.pulseSample
  repeat' first
    | with_reducible exact only_refl _ _ | decide | assumption
    | with_reducible apply only_step (State.updChan_only ..) | with_reducible apply only_ite
    | with_reducible apply only_pair | (refine only_of_pair (by assumption) ?_)
    | (refine only_of_fst (by assumption) ?_) | refine fun _ => ?_ | refine fun _ _ => ?_ | dsimp only | split

theorem State.captureSample_only (s : State) (c : ChIx) (code sec : Int) (vfield : Nat) (opened closed : Nat) :
    OnlyChanges [.chans] s (s.captureSample c code sec vfield opened closed) := by
  unfold State.captureSample
  repeat' first
    | with_reducible exact only_refl _ _ | decide | assumption
    | with_reducible apply only_step (State.updChan_only ..) | with_reducible apply only_ite | refine fun _ => ?_
    | refine fun _ _ => ?_ | dsimp only

theorem State.sampleDie_only (s : State) (c : ChIx) (w : WinSample) (t : Nat) :
    OnlyChanges [.chans] s (s.sampleDie c w t) := by
  unfold State.sampleDie
  repeat' first
    | with_reducible exact only_refl _ _ | decide | assumption
    | with_reducible apply only_step (State.updChan_only ..)
    | with_reducible apply only_step (State.filterStep_only ..) | with_reducible apply only_ite | refine fun _ => ?_
    | refine fun _ _ => ?_ | dsimp only

theorem State.sampleRest_only (s : State) (c : ChIx) (w : WinSample) (y : ChWin) (m : Smp) (opened t : Nat) :
    OnlyChanges [.chans] s (s.sampleRest c w y m opened t) := by
  unfold State.sampleRest
  repeat' first
    | with_reducible exact only_refl _ _ | decide | assumption
    | with_reducible apply only_step (State.updChan_only ..)
    | with_reducible apply only_step (State.captureSample_only ..) | with_reducible apply only_ite
    | with_reducible apply only_pair | (refine only_of_pair (by assumption) ?_)
    | (refine only_of_fst (by assumption) ?_) | refine fun _ => ?_ | refine fun _ _ => ?_ | dsimp only | split

theorem State.missWin_only (s : State) (h : HalfIx) (k opened t : Nat) :
    OnlyChanges [.regs, .chans, .halves] s (s.missWin h k opened t) := by
  unfold State.missWin
  repeat' first
    | with_reducible exact only_refl _ _ | decide | assumption
    | with_reducible apply only_step (State.updHalf_only ..) | with_reducible apply only_step (State.loseWin_only ..)
    | refine fun _ => ?_ | refine fun _ _ => ?_ | dsimp only

theorem State.closeWin_only (s : State) (h : HalfIx) (k : Nat) (w : WinSample) (opened t : Nat) :
    OnlyChanges [.regs, .chans, .halves] s (s.closeWin h k w opened t) := by
  unfold State.closeWin
  repeat' first
    | with_reducible exact only_refl _ _ | decide | assumption
    | with_reducible apply only_step (State.updChan_only ..) | with_reducible apply only_step (State.updHalf_only ..)
    | with_reducible apply only_step (State.loseWin_only ..)
    | with_reducible apply only_step (State.pulseSample_only ..)
    | with_reducible apply only_step (State.sampleRest_only ..)
    | with_reducible apply only_step (State.sampleDie_only ..) | with_reducible apply only_foldl
    | with_reducible apply only_ite | refine fun _ => ?_ | refine fun _ _ => ?_ | dsimp only

theorem State.qualifyEdge_only (s : State) (t : Nat) : OnlyChanges [.regs, .tb] s (s.qualifyEdge t) := by
  unfold State.qualifyEdge
  repeat' first
    | with_reducible exact only_refl _ _ | decide | assumption | with_reducible apply only_step (State.setF_only ..)
    | with_reducible apply only_ite | with_reducible apply only_pair | (refine only_of_pair (by assumption) ?_)
    | (refine only_of_fst (by assumption) ?_) | refine fun _ => ?_ | refine fun _ _ => ?_ | dsimp only | split
    | with_reducible apply only_tb | (constructor; intro p hp; cases p <;> first | rfl | exact absurd (by decide) hp)

theorem State.loopUpdate_only (s : State) (e : Int) (due : Nat) :
    OnlyChanges [.regs, .tb] s (s.loopUpdate e due) := by
  unfold State.loopUpdate
  repeat' first
    | with_reducible exact only_refl _ _ | decide | assumption | with_reducible apply only_step (State.setF_only ..)
    | refine fun _ => ?_ | refine fun _ _ => ?_ | dsimp only | with_reducible apply only_tb
    | (constructor; intro p hp; cases p <;> first | rfl | exact absurd (by decide) hp)

theorem State.wildEdge_only (s : State) :
    OnlyChanges [.regs, .env, .fc, .pipe, .halves, .pairs, .recfg, .yk] s (s.wildEdge) := by
  unfold State.wildEdge
  repeat' first
    | with_reducible exact only_refl _ _ | decide | assumption | with_reducible apply only_step (State.raise_only ..)
    | with_reducible apply only_step (State.addF_only ..) | refine fun _ => ?_ | refine fun _ _ => ?_ | dsimp only

theorem State.pullEdge_only (s : State) (t : Nat) : OnlyChanges [.regs, .tb] s (s.pullEdge t) := by
  unfold State.pullEdge
  repeat' first
    | with_reducible exact only_refl _ _ | decide | assumption | with_reducible apply only_step (State.setF_only ..)
    | with_reducible apply only_step (State.loopUpdate_only ..) | with_reducible apply only_ite
    | with_reducible apply only_pair | (refine only_of_pair (by assumption) ?_)
    | (refine only_of_fst (by assumption) ?_) | refine fun _ => ?_ | refine fun _ _ => ?_ | dsimp only | split
    | with_reducible apply only_tb | (constructor; intro p hp; cases p <;> first | rfl | exact absurd (by decide) hp)

theorem State.lockedEdge_only (s : State) (t : Nat) :
    OnlyChanges [.regs, .env, .tb, .fc, .pipe, .halves, .pairs, .recfg, .yk] s (s.lockedEdge t) := by
  unfold State.lockedEdge
  repeat' first
    | with_reducible exact only_refl _ _ | decide | assumption
    | with_reducible apply only_step (State.wildEdge_only ..)
    | with_reducible apply only_step (State.loopUpdate_only ..) | with_reducible apply only_ite
    | with_reducible apply only_pair | (refine only_of_pair (by assumption) ?_)
    | (refine only_of_fst (by assumption) ?_) | refine fun _ => ?_ | refine fun _ _ => ?_ | dsimp only | split
    | with_reducible apply only_tb | (constructor; intro p hp; cases p <;> first | rfl | exact absurd (by decide) hp)

theorem State.yokePath_only (s : State) (path : Nat) :
    OnlyChanges [.regs, .env, .fc, .pipe, .halves, .pairs, .recfg, .yk] s (s.yokePath path) := by
  unfold State.yokePath
  repeat' first
    | with_reducible exact only_refl _ _ | decide | assumption | with_reducible apply only_step (State.raise_only ..)
    | refine fun _ => ?_ | refine fun _ _ => ?_ | dsimp only

theorem State.signOfLife_only (s : State) : OnlyChanges [.yk] s (s.signOfLife) := by
  unfold State.signOfLife
  repeat' first
    | with_reducible exact only_refl _ _ | decide | assumption | with_reducible apply only_step (State.updYk_only ..)
    | refine fun _ => ?_ | refine fun _ _ => ?_ | dsimp only

theorem State.joinAlign_only (s : State) (ws : List Word) (arrive : Nat) :
    OnlyChanges [.regs, .sig, .env, .fc, .pipe, .halves, .pairs, .recfg, .yk] s (s.joinAlign ws arrive) := by
  unfold State.joinAlign
  repeat' first
    | with_reducible exact only_refl _ _ | decide | assumption
    | with_reducible apply only_step (State.setReg_only ..) | with_reducible apply only_step (State.updYk_only ..)
    | with_reducible apply only_step (State.refuseJoin_only ..) | with_reducible apply only_ite
    | with_reducible apply only_pair | (refine only_of_pair (by assumption) ?_)
    | (refine only_of_fst (by assumption) ?_) | refine fun _ => ?_ | refine fun _ _ => ?_ | dsimp only | split

theorem State.takeConfirm_only (s : State) (result : Nat) :
    OnlyChanges [.regs, .sig, .env, .fc, .pipe, .halves, .pairs, .recfg, .yk] s (s.takeConfirm result) := by
  unfold State.takeConfirm
  repeat' first
    | with_reducible exact only_refl _ _ | decide | assumption | with_reducible apply only_step (State.setF_only ..)
    | with_reducible apply only_step (State.updYk_only ..)
    | with_reducible apply only_step (State.refuseJoin_only ..) | with_reducible apply only_ite | refine fun _ => ?_
    | refine fun _ _ => ?_ | dsimp only

theorem State.handshake_only (s : State) (ws : List Word) (arrive : Nat) :
    OnlyChanges [.regs, .sig, .env, .fc, .pipe, .halves, .pairs, .recfg, .yk] s (s.handshake ws arrive) := by
  unfold State.handshake
  repeat' first
    | with_reducible exact only_refl _ _ | decide | assumption
    | with_reducible apply only_step (State.yokeLost_only ..) | with_reducible apply only_step (State.setF_only ..)
    | with_reducible apply only_step (State.joinAlign_only ..)
    | with_reducible apply only_step (State.takeConfirm_only ..)
    | with_reducible apply only_step (State.updYk_only ..)
    | with_reducible apply only_step (State.refuseJoin_only ..) | with_reducible apply only_ite | refine fun _ => ?_
    | refine fun _ _ => ?_ | dsimp only

theorem State.formBlock_only (s : State) : OnlyChanges [.regs, .yk] s (s.formBlock) := by
  unfold State.formBlock
  repeat' first
    | with_reducible exact only_refl _ _ | decide | assumption | with_reducible apply only_step (State.updYk_only ..)
    | with_reducible apply only_ite | refine fun _ => ?_ | refine fun _ _ => ?_ | dsimp only
    | with_reducible apply only_regs
    | (constructor; intro p hp; cases p <;> first | rfl | exact absurd (by decide) hp)

theorem State.sendYoke_only (s : State) (slot : Nat) (accept : Option Nat) :
    OnlyChanges [.regs, .yk] s (s.sendYoke slot accept) := by
  unfold State.sendYoke
  repeat' first
    | with_reducible exact only_refl _ _ | decide | assumption
    | with_reducible apply only_step (State.formBlock_only ..) | with_reducible apply only_step (State.updYk_only ..)
    | with_reducible apply only_ite | refine fun _ => ?_ | refine fun _ _ => ?_ | dsimp only

theorem State.slotZero_only (s : State) (ws : List Word) (arrive : Nat) :
    OnlyChanges [.regs, .env, .fc, .pipe, .halves, .pairs, .recfg, .yk] s (s.slotZero ws arrive) := by
  unfold State.slotZero
  repeat' first
    | with_reducible exact only_refl _ _ | decide | assumption
    | with_reducible apply only_step (State.yokeLost_only ..) | with_reducible apply only_step (State.setF_only ..)
    | with_reducible apply only_step (State.updYk_only ..) | with_reducible apply only_ite | refine fun _ => ?_
    | refine fun _ _ => ?_ | dsimp only

theorem State.yokeBad_only (s : State) (slot : Nat) :
    OnlyChanges [.regs, .env, .fc, .pipe, .halves, .pairs, .recfg, .yk] s (s.yokeBad slot) := by
  unfold State.yokeBad
  repeat' first
    | with_reducible exact only_refl _ _ | decide | assumption
    | with_reducible apply only_step (State.yokeLost_only ..) | with_reducible apply only_step (State.updYk_only ..)
    | with_reducible apply only_step (State.addF_only ..) | with_reducible apply only_ite | refine fun _ => ?_
    | refine fun _ _ => ?_ | dsimp only

theorem State.awaitBeat_only (s : State) (runs : Bool) : OnlyChanges [.yk] s (s.awaitBeat runs) := by
  unfold State.awaitBeat
  repeat' first
    | with_reducible exact only_refl _ _ | decide | assumption | with_reducible apply only_step (State.updYk_only ..)
    | with_reducible apply only_ite | refine fun _ => ?_ | refine fun _ _ => ?_ | dsimp only

theorem State.beatLost_only (s : State) :
    OnlyChanges [.regs, .env, .fc, .pipe, .halves, .pairs, .recfg, .yk] s (s.beatLost) := by
  unfold State.beatLost
  repeat' first
    | with_reducible exact only_refl _ _ | decide | assumption | with_reducible apply only_step (State.setB_only ..)
    | with_reducible apply only_step (State.yokePath_only ..) | with_reducible apply only_step (State.updYk_only ..)
    | refine fun _ => ?_ | refine fun _ _ => ?_ | dsimp only

theorem State.driveCheck_only (s : State) : OnlyChanges [.regs, .yk] s (s.driveCheck) := by
  unfold State.driveCheck
  repeat' first
    | with_reducible exact only_refl _ _ | decide | assumption
    | with_reducible apply only_step (State.endDrive_only ..) | with_reducible apply only_step (State.updYk_only ..)
    | with_reducible apply only_ite | refine fun _ => ?_ | refine fun _ _ => ?_ | dsimp only

end Sys2Proof.Machine
end

