-- ==== Sys2Proof/Laws/MemWf.lean ====
section
/-!
SUPPORT. Laws/MemWf.lean: every operation and every effect keeps the canonical form of the addressed memory.
-/
namespace Sys2Proof.Machine

/-- From a canonical memory to a canonical memory. -/
structure KeepsMem (s t : State) : Prop where
  /-- the form is kept -/
  keep : s.memWf → t.memWf

theorem km_refl (s : State) : KeepsMem s s := ⟨id⟩

theorem km_step {s t u : State} (h : KeepsMem t u) (h' : KeepsMem s t) : KeepsMem s u := ⟨h.keep ∘ h'.keep⟩

theorem km_only {ps : List Part} {s t u : State} (h : OnlyChanges ps t u) (n : ps.contains .mem = false)
    (h' : KeepsMem s t) : KeepsMem s u := by
  refine km_step ⟨fun w => ?_⟩ h'
  have e : u.mem = t.mem := h.same .mem (by simpa using n)
  unfold State.memWf
  rw [e]
  exact w

theorem km_ite {s t u : State} {c : Prop} [Decidable c] (h : KeepsMem s t) (h' : KeepsMem s u) :
    KeepsMem s (if c then t else u) := by
  split <;> assumption

theorem km_dite {s : State} {c : Prop} [Decidable c] {t : c → State} {u : ¬c → State} (h : ∀ x, KeepsMem s (t x))
    (h' : ∀ x, KeepsMem s (u x)) : KeepsMem s (dite c t u) := by
  split
  · exact h _
  · exact h' _

theorem km_foldl {s t : State} {α : Type} {f : State → α → State} {xs : List α} (h : ∀ u x, KeepsMem u (f u x))
    (h' : KeepsMem s t) : KeepsMem s (xs.foldl f t) := by
  induction xs generalizing t with
  | nil => exact h'
  | cons x xs ih => exact ih (km_step (h t x) h')

theorem km_forEach {s t : State} {α : Type} {f : α → State → State} {xs : List α} (h : ∀ u x, KeepsMem u (f x u))
    (h' : KeepsMem s t) : KeepsMem s (t.forEach xs f) := km_foldl h h'

theorem km_whenB {s t : State} {b : Bool} {f : State → State} (h : ∀ u, KeepsMem u (f u)) (h' : KeepsMem s t) :
    KeepsMem s (t.whenB b f) := by
  unfold State.whenB
  split
  · exact km_step (h t) h'
  · exact h'

theorem km_pair {s : State} {α : Type} {p : α × State} {f : α → State → State}
    (h : ∀ a u, KeepsMem s u → KeepsMem s (f a u)) (h' : KeepsMem s p.2) :
    KeepsMem s (match p with | (a, u) => f a u) := h p.1 p.2 h'

theorem km_of_pair {s t : State} {α : Type} {p : α × State} {a : α} (e : p = (a, t)) (h : KeepsMem s p.2) :
    KeepsMem s t := by
  rw [e] at h
  exact h

theorem km_of_fst {s t : State} {α : Type} {p : State × α} {a : α} (e : p = (t, a)) (h : KeepsMem s p.1) :
    KeepsMem s t := by
  rw [e] at h
  exact h

theorem km_filter {s t : State} {f : Host.Cell → Bool} (h : KeepsMem s t) :
    KeepsMem s { t with mem := t.mem.filter f } := km_step ⟨fun w => Sparse.wf_filter memDefault t.mem f w⟩ h

theorem State.writeByte_km (s : State) (a : Nat) (b : Byte) : KeepsMem s (s.writeByte a b) :=
  ⟨State.writeByte_memWf s a b⟩
theorem State.writeMem_km (s : State) (a : Nat) (w : Word) : KeepsMem s (s.writeMem a w) := ⟨State.writeMem_memWf s a w⟩
theorem State.writeWords_km (s : State) (a : Nat) (ws : List Word) : KeepsMem s (s.writeWords a ws) :=
  ⟨State.writeWords_memWf s a ws⟩
theorem State.layEntries_km (s : State) (c : CribIx) (x : Nat) (es : List (Nat × List Word)) :
    KeepsMem s (s.layEntries c x es) := by
  induction es generalizing s x with
  | nil => exact km_refl _
  | cons e es ih => exact km_step (ih ..) (State.writeWords_km ..)

theorem State.dropTag_km (s : State) (c : CribIx) (tag : Nat) : KeepsMem s (s.dropTag c tag) := by
  unfold State.dropTag
  repeat' first
    | with_reducible exact km_refl _ | decide | assumption | with_reducible apply km_only (State.syncCrib_only ..)
    | with_reducible apply km_only (State.updCrib_only ..) | with_reducible apply km_step (State.layEntries_km ..)
    | with_reducible apply km_ite | refine fun _ => ?_ | refine fun _ _ => ?_ | dsimp only

theorem State.dropEmits_km (s : State) (p : PairIx) : KeepsMem s (s.dropEmits p) := by
  unfold State.dropEmits
  repeat' first
    | with_reducible exact km_refl _ | decide | assumption | with_reducible apply km_step (State.dropTag_km ..)
    | with_reducible apply km_only (State.updPair_only ..) | with_reducible apply km_foldl | refine fun _ => ?_
    | refine fun _ _ => ?_ | dsimp only

theorem State.blockPair_km (s : State) (p : PairIx) (cause pc : Nat) (x : Slots) :
    KeepsMem s (s.blockPair p cause pc x) := by
  unfold State.blockPair
  repeat' first
    | with_reducible exact km_refl _ | decide | assumption | with_reducible apply km_only (State.setB_only ..)
    | with_reducible apply km_only (State.cutWork_only ..) | with_reducible apply km_only (State.setF_only ..)
    | with_reducible apply km_only (State.pcTake_only ..) | with_reducible apply km_only (State.updPair_only ..)
    | with_reducible apply km_only (State.memCorr_only ..) | with_reducible apply km_only (State.dropPair_only ..)
    | with_reducible apply km_step (State.dropEmits_km ..) | with_reducible apply km_ite
    | with_reducible apply km_pair | (refine km_of_pair (by assumption) ?_) | (refine km_of_fst (by assumption) ?_)
    | refine fun _ => ?_ | refine fun _ _ => ?_ | dsimp only | split

theorem State.lockstepFault_km (s : State) (p : PairIx) (cause pc sheaf : Nat) (x : Slots) :
    KeepsMem s (s.lockstepFault p cause pc sheaf x) := by
  unfold State.lockstepFault
  repeat' first
    | with_reducible exact km_refl _ | decide | assumption | with_reducible apply km_only (State.raise_only ..)
    | with_reducible apply km_step (State.blockPair_km ..) | refine fun _ => ?_ | refine fun _ _ => ?_ | dsimp only

theorem State.onEngine_km (s : State) (p : PairIx) (op : BinderOp) : KeepsMem s (s.onEngine p op) := by
  unfold State.onEngine
  repeat' first
    | with_reducible exact km_refl _ | decide | assumption | with_reducible apply km_step (State.lockstepFault_km ..)
    | with_reducible apply km_only (State.updPair_only ..) | with_reducible apply km_only (State.haltNow_only ..)
    | with_reducible apply km_ite | with_reducible apply km_pair | (refine km_of_pair (by assumption) ?_)
    | (refine km_of_fst (by assumption) ?_) | refine fun _ => ?_ | refine fun _ _ => ?_ | dsimp only | split

theorem State.coldReset_km (s : State) : KeepsMem s s.coldReset := by
  unfold State.coldReset
  dsimp only
  exact km_only (State.recoverJournal_only ..) (by decide) ⟨fun _ => rfl⟩

theorem State.publish_km (s : State) (c : CribIx) (tag : Nat) : KeepsMem s (s.publish c tag) := by
  unfold State.publish
  repeat' first
    | with_reducible exact km_refl _ | decide | assumption | with_reducible apply km_only (State.setReg_only ..)
    | with_reducible apply km_only (State.syncCrib_only ..) | with_reducible apply km_only (State.updCrib_only ..)
    | with_reducible apply km_step (State.layEntries_km ..) | with_reducible apply km_ite | refine fun _ => ?_
    | refine fun _ _ => ?_ | dsimp only

theorem State.storeEntry_km (s : State) (c : CribIx) (tag : Nat) (ws : List Word) :
    KeepsMem s (s.storeEntry c tag ws) := by
  unfold State.storeEntry
  repeat' first
    | with_reducible exact km_refl _ | decide | assumption | with_reducible apply km_step (State.writeWords_km ..)
    | with_reducible apply km_only (State.updCrib_only ..) | refine fun _ => ?_ | refine fun _ _ => ?_ | dsimp only

theorem km_placeEntry {s0 s : State} {c : CribIx} {tag : Nat} {ws : List Word} {drop refuse : State → State}
    (H : ∀ u, KeepsMem u (drop u)) (H' : ∀ u, KeepsMem u (refuse u)) (h0 : KeepsMem s0 s) :
    KeepsMem s0 (s.placeEntry c tag ws drop refuse) := by
  unfold State.placeEntry
  repeat' first
    | with_reducible exact km_refl _ | decide | assumption | with_reducible apply km_step (H _)
    | with_reducible apply km_step (H' _) | with_reducible apply km_only (State.setReg_only ..)
    | with_reducible apply km_only (State.syncCrib_only ..) | with_reducible apply km_step (State.storeEntry_km ..)
    | with_reducible apply km_ite | with_reducible apply km_pair | (refine km_of_pair (by assumption) ?_)
    | (refine km_of_fst (by assumption) ?_) | refine fun _ => ?_ | refine fun _ _ => ?_ | dsimp only | split

theorem State.putEntry_km (s : State) (c : CribIx) (tag : Nat) (ws : List Word) :
    KeepsMem s (s.putEntry c tag ws) := by
  unfold State.putEntry
  repeat' first
    | with_reducible exact km_refl _ | decide | assumption | with_reducible apply km_only (State.countOver_only ..)
    | with_reducible apply km_placeEntry | with_reducible apply km_only (State.countDrop_only ..)
    | refine fun _ => ?_ | refine fun _ _ => ?_ | dsimp only

theorem State.produce_km (s : State) (c : CribIx) (ws : List Word) : KeepsMem s (s.produce c ws) := by
  unfold State.produce
  repeat' first
    | with_reducible exact km_refl _ | decide | assumption | with_reducible apply km_step (State.putEntry_km ..)
    | with_reducible apply km_step (State.publish_km ..) | refine fun _ => ?_ | refine fun _ _ => ?_ | dsimp only

theorem State.deliverRecord_km (s : State) (ws : List Word) : KeepsMem s (s.deliverRecord ws) := by
  unfold State.deliverRecord
  repeat' first
    | with_reducible exact km_refl _ | decide | assumption | with_reducible apply km_step (State.produce_km ..)
    | with_reducible apply km_only (State.addF_only ..) | with_reducible apply km_ite | refine fun _ => ?_
    | refine fun _ _ => ?_ | dsimp only
    | with_reducible apply km_only (only_fc (ps := [.fc]) (by decide) (only_refl _ _))

theorem State.logMsg_km (s : State) (m : Msg) : KeepsMem s (s.logMsg m) := by
  unfold State.logMsg
  repeat' first
    | with_reducible exact km_refl _ | decide | assumption | with_reducible apply km_only (State.setReg_only ..)
    | with_reducible apply km_only (State.orF_only ..) | with_reducible apply km_only (State.maxF_only ..)
    | with_reducible apply km_step (State.deliverRecord_km ..) | with_reducible apply km_ite | refine fun _ => ?_
    | refine fun _ _ => ?_ | dsimp only
    | with_reducible apply km_only (only_fc (ps := [.fc]) (by decide) (only_refl _ _))

theorem State.restart_km (s : State) (st : Straps) (cellarOk : Bool) : KeepsMem s (s.restart st cellarOk) := by
  unfold State.restart
  repeat' first
    | with_reducible exact km_refl _ | decide | assumption | with_reducible apply km_only (State.countSource_only ..)
    | with_reducible apply km_step (State.coldReset_km ..) | with_reducible apply km_only (State.placeZero_only ..)
    | with_reducible apply km_step (State.logMsg_km ..) | with_reducible apply km_only (State.startBoot_only ..)
    | with_reducible apply km_only (State.pinReset_only ..) | with_reducible apply km_ite | refine fun _ => ?_
    | refine fun _ _ => ?_ | dsimp only
    | with_reducible apply km_only (only_env (ps := [.env]) (by decide) (only_refl _ _))

theorem State.placeDue_km (s : State) (t : Nat) : KeepsMem s (s.placeDue t) := by
  unfold State.placeDue
  repeat' first
    | with_reducible exact km_refl _ | decide | assumption | with_reducible apply km_placeEntry
    | with_reducible apply km_only (State.oweDrop_only ..) | with_reducible apply km_only (State.updPair_only ..)
    | with_reducible apply km_foldl | with_reducible apply km_ite | with_reducible apply km_dite | refine fun _ => ?_
    | refine fun _ _ => ?_ | dsimp only

theorem State.drainTo_km (s : State) (t : Nat) : KeepsMem s (s.drainTo t) := by
  unfold State.drainTo
  repeat' first
    | with_reducible exact km_refl _ | decide | assumption | with_reducible apply km_step (State.placeDue_km ..)
    | with_reducible apply km_step (State.dropEmits_km ..) | with_reducible apply km_foldl
    | with_reducible apply km_ite | with_reducible apply km_pair | (refine km_of_pair (by assumption) ?_)
    | (refine km_of_fst (by assumption) ?_) | refine fun _ => ?_ | refine fun _ _ => ?_ | dsimp only | split

theorem State.sendTo_km (s : State) (t : Nat) : KeepsMem s (s.sendTo t) := by
  unfold State.sendTo
  repeat' first
    | with_reducible exact km_refl _ | decide | assumption | with_reducible apply km_only (State.sendEnd_only ..)
    | with_reducible apply km_only (State.sealTo_only ..) | with_reducible apply km_step (State.drainTo_km ..)
    | with_reducible apply km_foldl | with_reducible apply km_ite | refine fun _ => ?_ | refine fun _ _ => ?_
    | dsimp only | with_reducible apply km_only (only_hp (ps := [.hp]) (by decide) (only_refl _ _))

theorem State.catchUp_km (s : State) (t : Nat) : KeepsMem s (s.catchUp t) := by
  unfold State.catchUp
  repeat' first
    | with_reducible exact km_refl _ | decide | assumption | with_reducible apply km_step (State.sendTo_km ..)
    | with_reducible apply km_step (State.drainTo_km ..) | refine fun _ => ?_ | refine fun _ _ => ?_ | dsimp only

theorem State.pushWords_km (s : State) (c : CribIx) (ws : List Word) : KeepsMem s (s.pushWords c ws) := by
  unfold State.pushWords
  repeat' first
    | with_reducible exact km_refl _ | decide | assumption | with_reducible apply km_step (State.putEntry_km ..)
    | with_reducible apply km_step (State.publish_km ..) | with_reducible apply km_foldl | refine fun _ => ?_
    | refine fun _ _ => ?_ | dsimp only

theorem State.endPush_km (s : State) (h : HostHdr) (id : Word) (c : CribIx) (ws : List Word) (wait : Nat) :
    KeepsMem s (s.endPush h id c ws wait) := by
  unfold State.endPush
  repeat' first
    | with_reducible exact km_refl _ | decide | assumption | with_reducible apply km_only (State.fullTx_only ..)
    | with_reducible apply km_step (State.pushWords_km ..) | refine fun _ => ?_ | refine fun _ _ => ?_ | dsimp only

theorem State.retryWrite_km (s : State) (w : HeldWrite) : KeepsMem s (s.retryWrite w) := by
  unfold State.retryWrite
  repeat' first
    | with_reducible exact km_refl _ | decide | assumption | with_reducible apply km_step (State.endPush_km ..)
    | with_reducible apply km_only (State.endTx_only ..) | with_reducible apply km_only (State.nvmTake_only ..)
    | with_reducible apply km_only (State.respond_only ..) | with_reducible apply km_only (State.fullTx_only ..)
    | with_reducible apply km_ite | with_reducible apply km_pair | (refine km_of_pair (by assumption) ?_)
    | (refine km_of_fst (by assumption) ?_) | refine fun _ => ?_ | refine fun _ _ => ?_ | dsimp only | split
    | with_reducible apply km_only (only_hp (ps := [.hp]) (by decide) (only_refl _ _))

theorem State.retryWrites_km (s : State) : KeepsMem s (s.retryWrites) := by
  unfold State.retryWrites
  repeat' first
    | with_reducible exact km_refl _ | decide | assumption | with_reducible apply km_step (State.retryWrite_km ..)
    | with_reducible apply km_only (State.syncStalled_only ..) | with_reducible apply km_foldl | refine fun _ => ?_
    | refine fun _ _ => ?_ | dsimp only
    | with_reducible apply km_only (only_hp (ps := [.hp]) (by decide) (only_refl _ _))

theorem State.eccDamage_km (s : State) (a : Nat) : KeepsMem s (s.eccDamage a) := by
  unfold State.eccDamage
  repeat' first
    | with_reducible exact km_refl _ | decide | assumption | with_reducible apply km_step (State.writeWords_km ..)
    | with_reducible apply km_only (State.stagingLost_only ..)
    | with_reducible apply km_only (State.dropData_only ..) | with_reducible apply km_only (State.updCrib_only ..)
    | with_reducible apply km_ite | with_reducible apply km_pair | (refine km_of_pair (by assumption) ?_)
    | (refine km_of_fst (by assumption) ?_) | refine fun _ => ?_ | refine fun _ _ => ?_ | dsimp only | split

theorem State.eccAt_km (s : State) (a : Nat) (uncorr : Bool) : KeepsMem s (s.eccAt a uncorr) := by
  unfold State.eccAt
  repeat' first
    | with_reducible exact km_refl _ | decide | assumption | with_reducible apply km_step (State.eccDamage_km ..)
    | with_reducible apply km_only (State.eccUncorr_only ..)
    | with_reducible apply km_only (State.eccCorrected_only ..) | with_reducible apply km_ite | refine fun _ => ?_
    | refine fun _ _ => ?_ | dsimp only

theorem State.runRead_km (s : State) (id : Word) (r : HeldRead) : KeepsMem s (s.runRead id r) := by
  unfold State.runRead
  repeat' first
    | with_reducible exact km_refl _ | decide | assumption | with_reducible apply km_only (State.elapse_only ..)
    | with_reducible apply km_step (State.eccAt_km ..) | with_reducible apply km_step (State.catchUp_km ..)
    | with_reducible apply km_only (State.rcMark_only ..) | with_reducible apply km_only (State.send_only ..)
    | with_reducible apply km_foldl | with_reducible apply km_ite | with_reducible apply km_pair
    | (refine km_of_pair (by assumption) ?_) | (refine km_of_fst (by assumption) ?_) | refine fun _ => ?_
    | refine fun _ _ => ?_ | dsimp only | split

theorem State.runReads_km (s : State) : KeepsMem s (s.runReads) := by
  unfold State.runReads
  repeat' first
    | with_reducible exact km_refl _ | decide | assumption | with_reducible apply km_step (State.runRead_km ..)
    | with_reducible apply km_foldl | with_reducible apply km_ite | refine fun _ => ?_ | refine fun _ _ => ?_
    | dsimp only | with_reducible apply km_only (only_hp (ps := [.hp]) (by decide) (only_refl _ _))

theorem State.sumPeriod_km (s : State) (c : ChIx) (period : Bool) : KeepsMem s (s.sumPeriod c period) := by
  unfold State.sumPeriod
  repeat' first
    | with_reducible exact km_refl _ | decide | assumption | with_reducible apply km_step (State.produce_km ..)
    | with_reducible apply km_ite | refine fun _ => ?_ | refine fun _ _ => ?_ | dsimp only

theorem State.summarise_km (s : State) (c : ChIx) (period : Bool) : KeepsMem s (s.summarise c period) := by
  unfold State.summarise
  repeat' first
    | with_reducible exact km_refl _ | decide | assumption | with_reducible apply km_step (State.sumPeriod_km ..)
    | with_reducible apply km_step (State.produce_km ..) | with_reducible apply km_ite | refine fun _ => ?_
    | refine fun _ _ => ?_ | dsimp only

theorem State.threshCh_km (s : State) (c : ChIx) : KeepsMem s (s.threshCh c) := by
  unfold State.threshCh
  repeat' first
    | with_reducible exact km_refl _ | decide | assumption | with_reducible apply km_only (State.updChan_only ..)
    | with_reducible apply km_only (State.fastSnapshot_only ..)
    | with_reducible apply km_only (State.precThresh_only ..) | with_reducible apply km_step (State.sumPeriod_km ..)
    | with_reducible apply km_step (State.summarise_km ..)
    | with_reducible apply km_only (State.writeChannel_only ..) | with_reducible apply km_ite
    | with_reducible apply km_pair | (refine km_of_pair (by assumption) ?_) | (refine km_of_fst (by assumption) ?_)
    | refine fun _ => ?_ | refine fun _ _ => ?_ | dsimp only | split

theorem State.threshWork_km (s : State) : KeepsMem s (s.threshWork) := by
  unfold State.threshWork
  repeat' first
    | with_reducible exact km_refl _ | decide | assumption | with_reducible apply km_only (State.loseDue_only ..)
    | with_reducible apply km_only (State.updHalf_only ..) | with_reducible apply km_step (State.threshCh_km ..)
    | with_reducible apply km_only (State.internalResult_only ..)
    | with_reducible apply km_only (State.applyForces_only ..) | with_reducible apply km_foldl
    | with_reducible apply km_ite | refine fun _ => ?_ | refine fun _ _ => ?_ | dsimp only
    | with_reducible apply km_only (only_tb_pipe (ps := [.tb, .pipe]) (by decide) (only_refl _ _))
    | with_reducible apply km_only (only_pipe (ps := [.pipe]) (by decide) (only_refl _ _))
    | with_reducible apply km_only (only_tb (ps := [.tb]) (by decide) (only_refl _ _))

theorem State.threshEnd_km (s : State) : KeepsMem s (s.threshEnd) := by
  unfold State.threshEnd
  repeat' first
    | with_reducible exact km_refl _ | decide | assumption | with_reducible apply km_step (State.runReads_km ..)
    | with_reducible apply km_only (State.elapse_only ..) | with_reducible apply km_step (State.retryWrites_km ..)
    | with_reducible apply km_only (State.prepareBale_only ..)
    | with_reducible apply km_only (State.noteAllBands_only ..)
    | with_reducible apply km_only (State.operationsDue_only ..)
    | with_reducible apply km_step (State.threshWork_km ..) | with_reducible apply km_only (State.stackHost_only ..)
    | with_reducible apply km_ite | with_reducible apply km_pair | (refine km_of_pair (by assumption) ?_)
    | (refine km_of_fst (by assumption) ?_) | refine fun _ => ?_ | refine fun _ _ => ?_ | dsimp only | split

theorem State.endSwath_km (s : State) : KeepsMem s (s.endSwath) := by
  unfold State.endSwath
  repeat' first
    | with_reducible exact km_refl _ | decide | assumption | with_reducible apply km_step (State.retryWrites_km ..)
    | with_reducible apply km_only (State.pcIdle_only ..) | with_reducible apply km_only (State.blockSent_only ..)
    | with_reducible apply km_only (State.depositDue_only ..) | with_reducible apply km_only (State.updPair_only ..)
    | with_reducible apply km_step (State.threshEnd_km ..) | with_reducible apply km_step (State.catchUp_km ..)
    | with_reducible apply km_only (State.endEvaluation_only ..)
    | with_reducible apply km_only (State.scansAdvance_only ..)
    | with_reducible apply km_only (State.advance_only ..) | with_reducible apply km_foldl | refine fun _ => ?_
    | refine fun _ _ => ?_ | dsimp only

theorem km_after {s : State} {f : State → Host.Outcome State Fault Refusal}
    (h : ∃ t, f s = .next t ∧ KeepsMem s t) : KeepsMem s (s.after f) := by
  obtain ⟨t, e, k⟩ := h
  unfold State.after
  rw [e]
  exact k

theorem execBndHalt_km (p : PairIx) (s : State) : ∃ t, execBndHalt p s = .next t ∧ KeepsMem s t := by
  refine ⟨_, rfl, ?_⟩
  repeat' first
    | with_reducible apply km_whenB | with_reducible exact km_refl _ | decide | assumption
    | with_reducible apply km_only (State.haltRefused_only ..)
    | with_reducible apply km_only (State.unstamped_only ..) | with_reducible apply km_only (State.updPair_only ..)
    | with_reducible apply km_ite | refine fun _ => ?_ | refine fun _ _ => ?_ | dsimp only

theorem execBndResume_km (p : PairIx) (s : State) : ∃ t, execBndResume p s = .next t ∧ KeepsMem s t := by
  refine ⟨_, rfl, ?_⟩
  repeat' first
    | with_reducible apply km_whenB | with_reducible exact km_refl _ | decide | assumption
    | with_reducible apply km_only (State.haltRefused_only ..)
    | with_reducible apply km_only (State.unstamped_only ..) | with_reducible apply km_only (State.updPair_only ..)
    | with_reducible apply km_ite | refine fun _ => ?_ | refine fun _ _ => ?_ | dsimp only

theorem execBndStep_km (p : PairIx) (s : State) : ∃ t, execBndStep p s = .next t ∧ KeepsMem s t := by
  refine ⟨_, rfl, ?_⟩
  repeat' first
    | with_reducible apply km_whenB | with_reducible exact km_refl _ | decide | assumption
    | with_reducible apply km_only (State.haltRefused_only ..)
    | with_reducible apply km_step (State.lockstepFault_km ..) | with_reducible apply km_only (State.raise_only ..)
    | with_reducible apply km_step (State.blockPair_km ..) | with_reducible apply km_only (State.updPair_only ..)
    | with_reducible apply km_only (State.showPc_only ..) | with_reducible apply km_ite
    | with_reducible apply km_pair | (refine km_of_pair (by assumption) ?_) | (refine km_of_fst (by assumption) ?_)
    | refine fun _ => ?_ | refine fun _ _ => ?_ | dsimp only | split

theorem State.debugKey_km (s : State) (p : PairIx) (key : Nat) : KeepsMem s (s.debugKey p key) := by
  unfold State.debugKey
  exact km_ite (km_after (execBndHalt_km ..)) (km_ite (km_after (execBndResume_km ..))
    (km_ite (km_after (execBndStep_km ..)) (km_refl _)))

theorem State.actHigh_km (s : State) (a : Nat) (v : Word) (t : State)
    (e : s.actHigh a v = some t) :
    KeepsMem s t := by
  revert t
  unfold State.actHigh
  repeat' first
    | with_reducible exact opt_none | with_reducible refine opt_ite ?_ ?_ | with_reducible refine opt_some ?_
    | (dsimp only; refine opt_ite ?_ ?_)
    | with_reducible exact km_refl _ | decide | assumption | with_reducible apply km_only (State.seqGo_only ..)
    | with_reducible apply km_only (State.atClear_only ..) | with_reducible apply km_only (State.fieldReset_only ..)
    | with_reducible apply km_only (State.writeWmark_only ..) | with_reducible apply km_step (State.debugKey_km ..)
    | with_reducible apply km_only (State.writeChFlags_only ..)
    | with_reducible apply km_only (State.writeRefBuf_only ..) | with_reducible apply km_only (State.parkEnd_only ..)
    | with_reducible apply km_only (State.uvRearm_only ..) | with_reducible apply km_ite | refine fun _ => ?_
    | refine fun _ _ => ?_ | dsimp only

theorem State.actWrite_km (s : State) (isSealed : Bool) (a : Nat) (v : Word) (t : State)
    (e : s.actWrite isSealed a v = some t) : KeepsMem s t := by
  unfold State.actWrite at e
  split at e
  · exact km_only (State.actLow_only _ _ _ _ _ e) (by decide) (km_refl _)
  · exact State.actHigh_km _ _ _ _ e

theorem State.regWrite_km (s : State) (isSealed : Bool) (r : RegRow) (a : Nat) (v : Word) :
    KeepsMem s (s.regWrite isSealed r a v) := by
  unfold State.regWrite
  split
  · exact State.actWrite_km _ _ _ _ _ (by assumption)
  · exact km_only (State.plainWrite_only ..) (by decide) (km_refl _)

theorem State.hostWrite_km (s : State) (isSealed : Bool) (a : Nat) (v : Word) :
    KeepsMem s (s.hostWrite isSealed a v).2 := by
  unfold State.hostWrite
  repeat' first
    | with_reducible exact km_refl _ | decide | assumption | with_reducible apply km_step (State.writeMem_km ..)
    | with_reducible apply km_only (State.updYk_only ..) | with_reducible apply km_step (State.regWrite_km ..)
    | with_reducible apply km_only (State.unstamped_only ..) | with_reducible apply km_only (State.hostValue_only ..)
    | with_reducible apply km_ite | with_reducible apply km_pair | (refine km_of_pair (by assumption) ?_)
    | (refine km_of_fst (by assumption) ?_) | refine fun _ => ?_ | refine fun _ _ => ?_ | dsimp only | split

theorem State.applyForwarded_km (s : State) (x : Nat × Word × Bool) : KeepsMem s (s.applyForwarded x) := by
  unfold State.applyForwarded
  repeat' first
    | with_reducible exact km_refl _ | decide | assumption | with_reducible apply km_only (State.refuseDebug_only ..)
    | with_reducible apply km_only (State.setReg_only ..) | with_reducible apply km_step (State.hostWrite_km ..)
    | with_reducible apply km_ite | with_reducible apply km_pair | (refine km_of_pair (by assumption) ?_)
    | (refine km_of_fst (by assumption) ?_) | refine fun _ => ?_ | refine fun _ _ => ?_ | dsimp only | split

theorem State.forwarded_km (s : State) : KeepsMem s (s.forwarded) := by
  unfold State.forwarded
  repeat' first
    | with_reducible exact km_refl _ | decide | assumption
    | with_reducible apply km_step (State.applyForwarded_km ..)
    | with_reducible apply km_only (State.boundaryCause_only ..) | with_reducible apply km_only (State.updYk_only ..)
    | with_reducible apply km_foldl | with_reducible apply km_ite | refine fun _ => ?_ | refine fun _ _ => ?_
    | dsimp only | with_reducible apply km_only (only_pipe (ps := [.pipe]) (by decide) (only_refl _ _))

theorem State.applyCommit_km (s : State) (p : PairIx) (late armed : Bool) :
    KeepsMem s (s.applyCommit p late armed) := by
  unfold State.applyCommit
  repeat' first
    | with_reducible exact km_refl _ | decide | assumption | with_reducible apply km_only (State.payOwed_only ..)
    | with_reducible apply km_only (State.cutWork_only ..) | with_reducible apply km_only (State.pcCommitted_only ..)
    | with_reducible apply km_whenB | with_reducible apply km_step (State.publish_km ..)
    | with_reducible apply km_only (State.raise_only ..) | with_reducible apply km_only (State.judgeRoll_only ..)
    | with_reducible apply km_only (State.updPair_only ..) | with_reducible apply km_only (State.confirmPair_only ..)
    | with_reducible apply km_only (State.addF_only ..) | with_reducible apply km_foldl | with_reducible apply km_ite
    | with_reducible apply km_pair | (refine km_of_pair (by assumption) ?_) | (refine km_of_fst (by assumption) ?_)
    | refine fun _ => ?_ | refine fun _ _ => ?_ | dsimp only | split

theorem State.commits_km (s : State) (late armed : Bool) : KeepsMem s (s.commits late armed) := by
  unfold State.commits
  repeat' first
    | with_reducible exact km_refl _ | decide | assumption
    | with_reducible apply km_only (State.staleDerived_only ..)
    | with_reducible apply km_only (State.applyForces_only ..)
    | with_reducible apply km_step (State.applyCommit_km ..)
    | with_reducible apply km_only (State.applyDebug_only ..) | with_reducible apply km_foldl | refine fun _ => ?_
    | refine fun _ _ => ?_ | dsimp only
    | with_reducible apply km_only (only_forces_forceNext (ps := [.forces, .forceNext]) (by decide) (only_refl _ _))

theorem State.loseGranary_km (s : State) : KeepsMem s (s.loseGranary) := by
  unfold State.loseGranary
  repeat' first
    | with_reducible exact km_refl _ | decide | assumption | with_reducible apply km_only (State.setReg_only ..)
    | with_reducible apply km_only (State.syncCrib_only ..)
    | with_reducible apply km_only (State.loseExchange_only ..)
    | with_reducible apply km_only (State.loseLanding_only ..)
    | with_reducible apply km_only (State.dropTrees_only ..) | with_reducible apply km_only (State.updCrib_only ..)
    | with_reducible apply km_foldl | with_reducible apply km_ite | refine fun _ => ?_ | refine fun _ _ => ?_
    | dsimp only | with_reducible apply km_filter
    | with_reducible apply km_only (only_regs_chans (ps := [.regs, .chans]) (by decide) (only_refl _ _))
    | with_reducible apply km_only (only_sig (ps := [.sig]) (by decide) (only_refl _ _))

theorem State.resumeDormant_km (s : State) : KeepsMem s (s.resumeDormant) := by
  unfold State.resumeDormant
  repeat' first
    | with_reducible exact km_refl _ | decide | assumption | with_reducible apply km_only (State.restartLoop_only ..)
    | with_reducible apply km_only (State.setF_only ..) | with_reducible apply km_only (State.restartSeq_only ..)
    | with_reducible apply km_only (State.updPwr_only ..) | with_reducible apply km_step (State.loseGranary_km ..)
    | with_reducible apply km_only (State.unsync_only ..) | with_reducible apply km_foldl
    | with_reducible apply km_ite | with_reducible apply km_pair | (refine km_of_pair (by assumption) ?_)
    | (refine km_of_fst (by assumption) ?_) | refine fun _ => ?_ | refine fun _ _ => ?_ | dsimp only | split
    | with_reducible apply km_only (only_boot (ps := [.boot]) (by decide) (only_refl _ _))

theorem State.wakeExit_km (s : State) : KeepsMem s (s.wakeExit) := by
  unfold State.wakeExit
  repeat' first
    | with_reducible exact km_refl _ | decide | assumption
    | with_reducible apply km_only (State.gleanerStart_only ..) | with_reducible apply km_only (State.setF_only ..)
    | with_reducible apply km_only (State.resumePairs_only ..) | with_reducible apply km_only (State.updPwr_only ..)
    | with_reducible apply km_step (State.resumeDormant_km ..) | with_reducible apply km_only (State.syncPwr_only ..)
    | with_reducible apply km_ite | refine fun _ => ?_ | refine fun _ _ => ?_ | dsimp only

theorem State.writeBatch_km (s : State) : KeepsMem s (s.writeBatch) := by
  unfold State.writeBatch
  repeat' first
    | with_reducible exact km_refl _ | decide | assumption | with_reducible apply km_step (State.logMsg_km ..)
    | with_reducible apply km_foldl | refine fun _ => ?_ | refine fun _ _ => ?_ | dsimp only
    | with_reducible apply km_only (only_fc (ps := [.fc]) (by decide) (only_refl _ _))

theorem State.waiting_km (s : State) (before : Word) : KeepsMem s (s.waiting before) := by
  unfold State.waiting
  repeat' first
    | with_reducible exact km_refl _ | decide | assumption | with_reducible apply km_only (State.setF_only ..)
    | with_reducible apply km_only (State.applyClear_only ..)
    | with_reducible apply km_only (State.boundaryCause_only ..)
    | with_reducible apply km_only (State.journalBoundary_only ..)
    | with_reducible apply km_only (State.applyInject_only ..) | with_reducible apply km_step (State.wakeExit_km ..)
    | with_reducible apply km_step (State.writeBatch_km ..)
    | with_reducible apply km_only (State.sheafRequest_only ..)
    | with_reducible apply km_only (State.applySlotOps_only ..) | with_reducible apply km_only (State.updPwr_only ..)
    | with_reducible apply km_only (State.wdgBoundary_only ..) | with_reducible apply km_ite
    | with_reducible apply km_pair | (refine km_of_pair (by assumption) ?_) | (refine km_of_fst (by assumption) ?_)
    | refine fun _ => ?_ | refine fun _ _ => ?_ | dsimp only | split

theorem State.flushBuffer_km (s : State) : KeepsMem s (s.flushBuffer) := by
  unfold State.flushBuffer
  repeat' first
    | with_reducible exact km_refl _ | decide | assumption | with_reducible apply km_step (State.deliverRecord_km ..)
    | with_reducible apply km_foldl | refine fun _ => ?_ | refine fun _ _ => ?_ | dsimp only
    | with_reducible apply km_only (only_fc (ps := [.fc]) (by decide) (only_refl _ _))

theorem State.boundary_km (s : State) (r : StookRaw) : KeepsMem s (s.boundary r) := by
  unfold State.boundary
  repeat' first
    | with_reducible exact km_refl _ | decide | assumption
    | with_reducible apply km_only (State.lateAtTarget_only ..)
    | with_reducible apply km_only (State.ageSwath_only ..)
    | with_reducible apply km_only (State.markBoundary_only ..)
    | with_reducible apply km_only (State.dieBoundary_only ..)
    | with_reducible apply km_only (State.gleanerStart_only ..)
    | with_reducible apply km_only (State.joinComplete_only ..)
    | with_reducible apply km_only (State.guardSignal_only ..) | with_reducible apply km_step (State.commits_km ..)
    | with_reducible apply km_only (State.pcApply_only ..) | with_reducible apply km_only (State.releaseNow_only ..)
    | with_reducible apply km_only (State.fixBudget_only ..) | with_reducible apply km_only (State.fixLength_only ..)
    | with_reducible apply km_only (State.closeStook_only ..) | with_reducible apply km_whenB
    | with_reducible apply km_only (State.fieldBoundary_only ..)
    | with_reducible apply km_only (State.abandonDormant_only ..)
    | with_reducible apply km_only (State.dropStook_only ..) | with_reducible apply km_only (State.syncReady_only ..)
    | with_reducible apply km_only (State.turnOver_only ..)
    | with_reducible apply km_only (State.gleanerBoundary_only ..)
    | with_reducible apply km_only (State.endAlign_only ..) | with_reducible apply km_only (State.applyR63_only ..)
    | with_reducible apply km_step (State.waiting_km ..) | with_reducible apply km_step (State.flushBuffer_km ..)
    | with_reducible apply km_only (State.drivePulse_only ..)
    | with_reducible apply km_only (State.finishBoot_only ..) | with_reducible apply km_step (State.forwarded_km ..)
    | with_reducible apply km_only (State.countBoundary_only ..)
    | with_reducible apply km_only (State.tables_only ..)
    | with_reducible apply km_only (State.applySyncCtrl_only ..)
    | with_reducible apply km_only (State.partnerBlock_only ..)
    | with_reducible apply km_only (State.syncPwr_only ..) | with_reducible apply km_step (State.endSwath_km ..)
    | with_reducible apply km_ite | refine fun _ => ?_ | refine fun _ _ => ?_ | dsimp only

theorem State.idle_km (s : State) : KeepsMem s (s.idle) := by
  unfold State.idle
  repeat' first
    | with_reducible exact km_refl _ | decide | assumption | with_reducible apply km_only (State.elapse_only ..)
    | with_reducible apply km_step (State.retryWrites_km ..) | with_reducible apply km_step (State.catchUp_km ..)
    | with_reducible apply km_ite | refine fun _ => ?_ | refine fun _ _ => ?_ | dsimp only

theorem km_transact {s0 s : State} {op : BitVec 8} {h : HostHdr} {stamp ws : List Word} {bad denied : Bool}
    {f : Word → State → State} (H : ∀ x u, KeepsMem u (f x u)) (h0 : KeepsMem s0 s) :
    KeepsMem s0 (s.transact op h stamp ws bad denied f) := by
  have H2 : ∀ x s u, KeepsMem s u → KeepsMem s (f x u) := fun x _ u k => km_step (H x u) k
  unfold State.transact
  repeat' first
    | with_reducible exact km_refl _ | decide | with_reducible assumption | with_reducible apply H2
    | with_reducible apply km_only (State.refuseTx_only ..) | with_reducible apply km_only (State.judgeSeal_only ..)
    | with_reducible apply km_only (State.takeLane_only ..)
    | with_reducible apply km_step (State.catchUp_km ..)
    | with_reducible apply km_ite | with_reducible apply km_pair | (refine km_of_pair (by assumption) ?_)
    | refine fun _ => ?_ | dsimp only | split

theorem km_withPayload {s0 s : State} {h : HostHdr} {ws : List Word} {f : List Word → State → State}
    (H : ∀ x u, KeepsMem u (f x u)) (h0 : KeepsMem s0 s) : KeepsMem s0 (s.withPayload h ws f) := by
  unfold State.withPayload
  repeat' first
    | with_reducible exact km_refl _ | decide | with_reducible assumption | with_reducible apply km_step (H _ _)
    | with_reducible apply km_only (State.abandonTx_only ..) | with_reducible apply km_step (State.catchUp_km ..)
    | with_reducible apply km_ite | refine fun _ => ?_ | refine fun _ _ => ?_ | dsimp only

theorem State.startRead_km (s : State) (op : BitVec 8) (h : HostHdr) (f : Fetch) (id : Word) :
    KeepsMem s (s.startRead op h f id) := by
  unfold State.startRead
  repeat' first
    | with_reducible exact km_refl _ | decide | assumption | with_reducible apply km_step (State.runRead_km ..)
    | with_reducible apply km_only (State.updCrib_only ..) | with_reducible apply km_ite
    | with_reducible apply km_pair | (refine km_of_pair (by assumption) ?_) | (refine km_of_fst (by assumption) ?_)
    | refine fun _ => ?_ | refine fun _ _ => ?_ | dsimp only | split
    | with_reducible apply km_only (only_hp (ps := [.hp]) (by decide) (only_refl _ _))

theorem State.readTx_km (s : State) (op : BitVec 8) (h : HostHdr) (f : Fetch) (denied : Bool) :
    KeepsMem s (s.readTx op h f denied) := by
  unfold State.readTx
  repeat' first
    | with_reducible exact km_refl _ | decide | assumption | with_reducible apply km_transact
    | with_reducible apply km_step (State.startRead_km ..) | refine fun _ => ?_ | refine fun _ _ => ?_ | dsimp only

theorem State.writeAll_km (s : State) (b : Bool) (xs : List (Nat × Word)) : KeepsMem s (s.writeAll b xs).2 := by
  induction xs generalizing s with
  | nil => exact km_refl _
  | cons x xs ih => exact km_step (ih ..) (State.hostWrite_km ..)

theorem State.startPush_km (s : State) (h : HostHdr) (id : Word) (c : CribIx) (ws : List Word) :
    KeepsMem s (s.startPush h id c ws) := by
  unfold State.startPush
  repeat' first
    | with_reducible exact km_refl _ | decide | assumption | with_reducible apply km_step (State.endPush_km ..)
    | with_reducible apply km_only (State.syncStalled_only ..) | with_reducible apply km_ite | refine fun _ => ?_
    | refine fun _ _ => ?_ | dsimp only
    | with_reducible apply km_only (only_hp (ps := [.hp]) (by decide) (only_refl _ _))

theorem State.startWrite_km (s : State) (h : HostHdr) (id : Word) (ws : List Word) :
    KeepsMem s (s.startWrite h id ws) := by
  unfold State.startWrite
  repeat' first
    | with_reducible exact km_refl _ | decide | assumption | with_reducible apply km_only (State.setF_only ..)
    | with_reducible apply km_step (State.startPush_km ..) | with_reducible apply km_step (State.writeAll_km ..)
    | with_reducible apply km_only (State.fullTx_only ..) | with_reducible apply km_only (State.unsync_only ..)
    | with_reducible apply km_ite | with_reducible apply km_pair | (refine km_of_pair (by assumption) ?_)
    | (refine km_of_fst (by assumption) ?_) | refine fun _ => ?_ | refine fun _ _ => ?_ | dsimp only | split

theorem km_serviceTx {s0 s : State} {h : HostHdr} {ws : List Word} {f : State → List Word → List Word × State}
    (H : ∀ u x, KeepsMem u (f u x).2) (h0 : KeepsMem s0 s) : KeepsMem s0 (s.serviceTx h ws f) := by
  have H2 : ∀ x s u, KeepsMem s u → KeepsMem s (f u x).2 := fun x _ u k => km_step (H u x) k
  unfold State.serviceTx
  repeat' first
    | with_reducible exact km_refl _ | decide | assumption | with_reducible apply H2
    | with_reducible apply km_only (State.updSr_only ..) | with_reducible apply km_transact
    | with_reducible apply km_withPayload | with_reducible apply km_only (State.fullTx_only ..)
    | with_reducible apply km_pair | (refine km_of_pair (by assumption) ?_) | (refine km_of_fst (by assumption) ?_)
    | refine fun _ => ?_ | refine fun _ _ => ?_ | dsimp only | split

theorem State.loseDormant_km (s : State) : KeepsMem s (s.loseDormant) := by
  unfold State.loseDormant
  repeat' first
    | with_reducible exact km_refl _ | decide | assumption | with_reducible apply km_whenB
    | with_reducible apply km_step (State.loseGranary_km ..) | refine fun _ => ?_ | refine fun _ _ => ?_ | dsimp only

end Sys2Proof.Machine
end

