-- ==== Sys2Proof/Machine/Pads.lean ====
section
/-!
DEFINITION. Machine/Pads.lean: what the logic die drives on its pads (R541), and the levels it clamps them to (R385, R429, R454, R530).
-/
namespace Sys2Proof.Machine

/-- The host port's outputs (R346): clamped low, driven or of high impedance, HRDY, and the lanes that carry data, the others of HDO
being driven low. -/
structure HostPads where
  clamped : Bool
  driven : Bool
  hrdyHigh : Bool
  lanes : Nat
  deriving DecidableEq, Repr

/-- What the logic die drives on its pads (R541): FAULT_N and HIRQ_N low, SYNC_OUT's pulse, the heartbeat, YFLT_N low, YTXP/YTXN in
the idle differential state, the Gleaner's pads, the flash's pads clamped (FCLK low, FCS_N high, FIO0-FIO3 of high impedance), and the
outputs of the host port. -/
structure Pads where
  faultLow : Bool
  hirqLow : Bool
  syncOut : Nat
  beat : Bool
  yfltLow : Bool
  ytxIdle : Bool
  gln : GlnPads
  flashClamped : Bool
  host : HostPads
  deriving DecidableEq, Repr

/-- The core drives its pads: VIN is present and the core domain on (R541). -/
def State.padsOn (s : State) : Bool := s.env.vin && s.pwr.mode != 4

/-- The pads of the Yoke, the Gleaner and the host port leave their Dormant states: VIO is present too (R548). -/
def State.vioOn (s : State) : Bool := s.padsOn && decide (0 < s.env.vioMv)

/-- The outputs of the host port (R346, R347, R350, R354, R379, R385): driven in member mode and while HSEL_N is low; HRDY low holds a
block back in STRETCH flow; HSTB follows HCLK while they are driven. Without power they are clamped low. -/
def State.hostPads (s : State) : HostPads :=
  let on := s.vioOn
  let member := s.flag F.HP_CFG_MEMBER
  let waits := s.hp.flow && !(s.hp.reads.isEmpty && s.hp.writes.isEmpty)
  { clamped := !on
    driven := !on || member || s.hselIsLow
    hrdyHigh := on && (member || !waits)
    lanes := if s.hp.lane == 2 then 4 else 1 }

/-- The pads as they stand: in Dormant FAULT_N keeps its state and every other pad of this list has its level of rest (R385, R429,
R454, R530, R541); so have those of the Yoke, the Gleaner and the host port without VIO (R548). -/
def State.pads (s : State) : Pads :=
  let on := s.padsOn
  let vio := s.vioOn
  { faultLow := s.env.vin && s.flag F.FC_STATUS_FAULT_N
    hirqLow := vio && (s.catchUp s.tick).hirq
    syncOut := if on then s.env.syncOut else 0
    beat := vio && s.ybeatPad
    yfltLow := vio && s.env.yfltOut
    ytxIdle := !(vio && s.yokeSends)
    gln := if vio then s.glnPads else glnRest
    flashClamped := !on
    host := s.hostPads }

end Sys2Proof.Machine
end

