-- ==== Sys2Proof/Tests/Slice0.lean ====
section
/-!
SUPPORT. Tests/Slice0.lean: one-step tests. Each shows, for a statement of Certificates/Slice0/Obligations.lean, a concrete
state and command that meet its hypotheses, and what the manual says of the state after it; and for each check of
WellFormed.lean a command that it refuses. Expected values come from the rules of the manual named with each group.
-/
namespace Sys2Proof.Tests

open Sys2Proof.Machine

set_option Elab.async false
set_option maxRecDepth 4000

/-- Two states agree in a part, decided. -/
def agree : Part → State → State → Bool
  | .regs, s, t => decide (t.regs = s.regs)
  | .mem, s, t => decide (t.mem = s.mem)
  | .sig, s, t => decide (t.sig = s.sig)
  | .env, s, t => decide (t.env = s.env)
  | .tb, s, t => decide (t.tb = s.tb)
  | .fc, s, t => decide (t.fc = s.fc)
  | .wdg, s, t => decide (t.wdg = s.wdg)
  | .pipe, s, t => decide (t.pipe = s.pipe)
  | .out, s, t => decide (t.out = s.out)
  | .chans, s, t => decide (t.chans = s.chans)
  | .halves, s, t => decide (t.halves = s.halves)
  | .pairs, s, t => decide (t.pairs = s.pairs)
  | .cribs, s, t => decide (t.cribs = s.cribs)
  | .boot, s, t => decide (t.boot = s.boot)
  | .recfg, s, t => decide (t.recfg = s.recfg)
  | .cvu, s, t => decide (t.cvu = s.cvu)
  | .sr, s, t => decide (t.sr = s.sr)
  | .gln, s, t => decide (t.gln = s.gln)
  | .pwr, s, t => decide (t.pwr = s.pwr)
  | .yk, s, t => decide (t.yk = s.yk)
  | .hp, s, t => decide (t.hp = s.hp)
  | .forces, s, t => decide (t.forces = s.forces)
  | .forceNext, s, t => decide (t.forceNext = s.forceNext)
  | .queue, s, t => decide (t.queue = s.queue)
  | .perf, s, t => decide (t.perf = s.perf)
  | .scrub, s, t => decide (t.scrub = s.scrub)
  | .free, s, t => decide (t.free = s.free)
  | .pending, s, t => decide (t.pending = s.pending)

/-- Every part. -/
def everyPart : List Part :=
  [.regs, .mem, .sig, .env, .tb, .fc, .wdg, .pipe, .out, .chans, .halves, .pairs, .cribs, .boot, .recfg, .cvu, .sr, .gln,
    .pwr, .yk, .hp, .forces, .forceNext, .queue, .perf, .scrub, .free, .pending]

/-- A well-formed command in a state that meets `hyp` answers a next state that differs in the named parts at most, and of
which `p` holds. -/
def ck (ps : List Part) (s : State) (i : Instr) (hyp : State → Bool) (p : State → State → Bool) : Bool :=
  i.wf && hyp s && match exec i s with
    | .next t => everyPart.all (fun q => ps.contains q || agree q s t) && p s t
    | _ => false

/-- The command leaves a state that meets `hyp` as it is. -/
def same (s : State) (i : Instr) (hyp : State → Bool) : Bool :=
  i.wf && hyp s && match exec i s with | .next t => decide (t = s) | _ => false

/-- The fault message of a source, kind and address stands in the batch of the swath. -/
def told (s : State) (src kind addr : Nat) (t : State) : Bool :=
  t.fc.batch.any fun m => m.key == src * 2 ^ 18 + kind * 2 ^ 12 + addr % 4096 && m.real && m.swath == s.swath

/-- A channel fault with its event bit. -/
def chTold (s : State) (c : ChIx) (kind partner : Nat) (t : State) : Bool :=
  told s (srcFH (halfOf c).val) kind (faultAddr partner c.val) t && (t.fld (F.CH_FLAGS_EVENTS c.val)).testBit (eventBit kind)

/-- A half fault. -/
def halfTold (s : State) (h : HalfIx) (kind : Nat) (t : State) : Bool := told s (srcFH h.val) kind (faultAddr 63 63) t

/-- A counting field has gone up by one. -/
def up (s : State) (f : Fld) (t : State) : Bool := t.fld f == s.fld f + 1

/-- State after reset with its clock running, a swath of 24,000 ticks and with fields set. -/
def base (fs : List (Fld × Nat)) : State :=
  fs.foldl (fun s x => s.setF x.1 x.2) ({ State.reset with env := { pll := true } }.setF F.TB_PHASE_LENGTH 24000)

/-- Two cells. -/
def two {α : Type} (a b : α) : Tab 2 α := (Tab.fill 2 a).set 1 b

/-- Channel 3 is a DO that drives its closed switch in a loaded half. -/
def sw (fs : List (Fld × Nat)) (f : Chan → Chan) : State :=
  ((base ((F.CH_CFG_FUNC 3, 2) :: fs)).updChan 3 fun x =>
    f { x with action := some 1, value := 1, closed := true, safeL := false }).updHalf 0 fun x =>
      { x with loaded := true, armedF := true }

/-- Channel 3 has a function; its half is loaded. -/
def fn (k : Nat) (fs : List (Fld × Nat)) (f : Chan → Chan) : State :=
  ((base ((F.CH_CFG_FUNC 3, k) :: fs)).updChan 3 f).updHalf 0 fun x => { x with loaded := true, armedF := true }

/-! ## Channels -/

/-- R91: the limit engages. -/
theorem test_doCurrentLimit : ck fieldParts (sw [] id) (.doCurrentLimit 3)
    (fun s => s.isSwitch 3 && (s.chan 3).closed && s.mayClose 3)
    (fun _ t => (t.chan 3).limit && (t.chan 3).closed) = true := by decide +kernel

/-- R92: overload with OVL_MODE 0 latches. -/
theorem test_chOverload_latch : ck switchFaultParts (sw [] fun x => { x with limit := true }) (.chOverload 3 false)
    (fun s => s.isSwitch 3 && (s.chan 3).limit && (s.chan 3).heldTill == none)
    (fun s t => !(t.chan 3).closed && chTold s 3 kChOverload 63 t && up s (F.CH_COUNTS_OVL_TRIPS 3) t && t.ovlLatched 3)
    = true := by decide +kernel

/-- R92: with OVL_MODE 1 and one attempt left it starts a backoff. -/
theorem test_chOverload_backoff : ck switchFaultParts
    (sw [(F.CH_DO_OVL_MODE 3, 1), (F.CH_DO_RETRY_MAX 3, 3), (F.CH_STATUS_ATTEMPT 3, 2)] id) (.chOverload 3 true)
    (fun s => (s.chan 3).closed && s.fld (F.CH_STATUS_ATTEMPT 3) < s.fld (F.CH_DO_RETRY_MAX 3))
    (fun _ t => (t.chan 3).backoff == 1 && !(t.chan 3).closed && !t.ovlLatched 3) = true := by decide +kernel

/-- R94: 175 °C opens the switch. -/
theorem test_chOvertemp : ck switchFaultParts (sw [] id) (.chOvertemp 3) (fun s => s.isSwitch 3 && !(s.chan 3).hot)
    (fun s t => (t.chan 3).hot && !(t.chan 3).closed && chTold s 3 kChOvertemp 63 t && up s (F.CH_COUNTS_HOT_TRIPS 3) t)
    = true := by decide +kernel

/-- R92: after the backoff the switch closes again on its command. -/
theorem test_retryAttempt : ck fieldParts (sw [] fun x => { x with backoff := 1, closed := false }) (.retryAttempt 3)
    (fun s => (s.chan 3).backoff == 1 && s.wants 3 && !s.ovlLatched 3 && !(s.chan 3).hot && (s.chan 3).pulse == none)
    (fun _ t => (t.chan 3).backoff != 1 && (t.chan 3).closed) = true := by decide +kernel

/-- R92: the attempt count returns to 0. -/
theorem test_attemptCountReset : ck [.regs] (sw [(F.CH_STATUS_ATTEMPT 3, 2)] id) (.attemptCountReset 3)
    (fun s => (s.chan 3).closed && !(s.chan 3).limit) (fun _ t => t.fld (F.CH_STATUS_ATTEMPT 3) == 0) = true := by
  decide +kernel

/-- R93: a latch release waits for the boundary. -/
theorem test_latchRelease : ck [.chans, .pipe] (sw [(F.CH_FLAGS_LATCHED 3, 1)] fun x => { x with closed := false, ovl := true })
    (.latchRelease 3) (fun s => s.ovlLatched 3)
    (fun s t => (t.chan 3).releaseReq && t.ovlLatched 3 && t.pipe.next == (s.pipe.next ||| cUNSTAMPED)) = true := by
  decide +kernel

/-- R94: below 150 °C the switch follows its command again. -/
theorem test_thermalRecovery : ck fieldParts (sw [] fun x => { x with hot := true, closed := false }) (.thermalRecovery 3)
    (fun s => (s.chan 3).hot && s.wants 3) (fun _ t => !(t.chan 3).hot && (t.chan 3).closed) = true := by decide +kernel

/-- R128: HOLD ends, and the switch opens. -/
theorem test_holdExpiry : ck fieldParts
    (sw [(F.CH_SAFE_SAFE 3, 2)] fun x => { x with action := some 2, holding := true, holdVal := 1 }) (.holdExpiry 3)
    (fun s => (s.chan 3).holding && s.inSafe 3 && s.isSwitch 3 && s.mayClose 3)
    (fun _ t => !(t.chan 3).holding && !(t.chan 3).closed) = true := by decide +kernel

/-- R97: the shunt of a current input opens. -/
theorem test_shuntOpen : ck fieldParts (fn 5 [(F.SYS_STATE_STATE, 2)] id) (.shuntOpen 3) (fun s => s.hasShunt 3 && !(s.chan 3).shuntOpen)
    (fun _ t => (t.chan 3).shuntOpen && t.flag (F.THR_NOW_SHUNT_OPEN 3)) = true := by decide +kernel

/-- R97: it reconnects below 26 mA, not at 26 mA. -/
theorem test_shuntReconnect : (ck fieldParts (fn 5 [(F.SYS_STATE_STATE, 2), (F.THR_NOW_SHUNT_OPEN 3, 1)] fun x => { x with shuntOpen := true })
      (.shuntReconnect 3 25999) (fun s => (s.chan 3).shuntOpen)
      (fun _ t => !(t.chan 3).shuntOpen && !t.flag (F.THR_NOW_SHUNT_OPEN 3)) &&
    same (fn 5 [] fun x => { x with shuntOpen := true }) (.shuntReconnect 3 26000) (fun s => (s.chan 3).shuntOpen))
    = true := by decide +kernel

/-- R97: an open shunt that stays overloaded is told. -/
theorem test_shuntOpenOverload : ck (.chans :: faultParts) (fn 5 [] fun x => { x with shuntOpen := true })
    (.shuntOpenOverload 3) (fun s => (s.chan 3).shuntOpen && !(s.chan 3).shuntOvl)
    (fun s t => chTold s 3 kChOverload 63 t && (t.chan 3).shuntOpen) = true := by decide +kernel

/-- R98: the loop supply limits. -/
theorem test_loopSupplyLimit : ck switchFaultParts (fn 6 [] fun x => { x with action := some 1 }) (.loopSupplyLimit 3)
    (fun s => s.func 3 == fLOOP && s.loopSupply 3 && !(s.chan 3).loopLimit)
    (fun s t => chTold s 3 kChOverload 63 t && (t.chan 3).loopLimit && (t.chan 3).closed == t.mayClose 3) = true := by
  decide +kernel

/-- R82: the return switch opens and closes. -/
theorem test_returnSwitch : (ck (.chans :: faultParts) (fn 1 [] id) (.returnSwitchOpen 3)
      (fun s => s.isReturn 3 && !(s.chan 3).retOpen && !(s.chan 3).has kChShortVf)
      (fun s t => (t.chan 3).retOpen && chTold s 3 kChShortVf 63 t) &&
    ck [.chans] (fn 1 [] fun x => { x with retOpen := true, conds := [kChShortVf] }) (.returnSwitchClose 3)
      (fun s => (s.chan 3).retOpen) (fun _ t => !(t.chan 3).retOpen && !(t.chan 3).has kChShortVf)) = true := by decide +kernel

/-- R100: an AO-V stage. -/
theorem test_aoV : (ck (.chans :: faultParts) (fn 8 [] id) (.chSense 3) (fun s => s.func 3 == fAOV && !(s.chan 3).has kChSense)
      (fun s t => (t.chan 3).localReg && chTold s 3 kChSense 63 t) &&
    ck [.chans] (fn 8 [] id) (.aoVDisconnect 3) (fun s => s.func 3 == fAOV) (fun _ t => (t.chan 3).disconnected) &&
    ck [.chans] (fn 8 [] fun x => { x with disconnected := true }) (.aoVReconnect 3) (fun s => s.func 3 == fAOV)
      (fun _ t => !(t.chan 3).disconnected) &&
    ck [.chans] (fn 8 [] fun x => { x with localReg := true, conds := [kChSense] }) (.remoteSenseRestore 3)
      (fun s => (s.chan 3).localReg) (fun _ t => !(t.chan 3).localReg && !(t.chan 3).has kChSense)) = true := by decide +kernel

/-- R95: demagnetisation. -/
theorem test_chClampEnergy : ck (.chans :: faultParts) (sw [] fun x => { x with closed := false }) (.chClampEnergy 3)
    (fun s => s.isSwitch 3 && !(s.chan 3).closed) (fun s t => chTold s 3 kChClampEnergy 63 t) = true := by decide +kernel

/-- R99: headroom at 1 mA. -/
theorem test_chHeadroom : ck (.chans :: faultParts) (fn 7 [] fun x => { x with action := some 1, value := 1000 }) (.chHeadroom 3)
    (fun s => s.func 3 == fAOI && 1000 ≤ s.aoLevel 3) (fun s t => chTold s 3 kChHeadroom 63 t) = true := by decide +kernel

/-- R101: deviation of an analogue output. -/
theorem test_chAoDev : ck (.chans :: faultParts) (fn 7 [] fun x => { x with action := some 1 }) (.chAoDev 3)
    (fun s => s.func 3 == fAOI && !(s.chan 3).clamped && !s.inSafe 3) (fun s t => chTold s 3 kChAoDev 63 t) = true := by
  decide +kernel

/-- R109: an open load found at a closed switch whose test is enabled. -/
theorem test_chOpen : ck (.chans :: faultParts) (sw [(F.CH_DIAG_OW_ON_EN 3, 1), (F.FH_STATUS_GATE_CLOSED 0, 1)] id) (.chOpen 3)
    (fun s => s.openTest 3 && !(s.chan 3).has kChOpen) (fun s t => chTold s 3 kChOpen 63 t && (t.chan 3).has kChOpen)
    = true := by decide +kernel

/-- R109: short to VFIELD with the switch open. -/
theorem test_chShortVf : ck (.chans :: faultParts) (sw [(F.CH_DIAG_SVF_EN 3, 1)] fun x => { x with closed := false }) (.chShortVf 3)
    (fun s => s.isSwitch 3 && s.flag (F.CH_DIAG_SVF_EN 3) && !(s.chan 3).closed && (s.chan 3).heldTill == none &&
      !s.standbyOut 3 && !(s.chan 3).has kChShortVf)
    (fun s t => chTold s 3 kChShortVf 63 t && (t.chan 3).has kChShortVf) = true := by decide +kernel

/-- R109, R122: a stuck-on switch holds the gate open. -/
theorem test_chStuckOn : ck switchFaultParts (sw [] fun x => { x with value := 0, closed := false }) (.chStuckOn 3)
    (fun s => s.isSwitch 3 && !s.wants 3 && !(s.chan 3).has kChStuckOn)
    (fun s t => chTold s 3 kChStuckOn 63 t && (t.half 0).gateHold && (t.chan 3).closed == t.mayClose 3) = true := by
  decide +kernel

/-- R109: a stuck-off switch. -/
theorem test_chStuckOff : ck (.chans :: faultParts) (sw [(F.FH_STATUS_GATE_CLOSED 0, 1)] id) (.chStuckOff 3)
    (fun s => s.isSwitch 3 && s.mayClose 3 && !(s.chan 3).limit && (s.chan 3).heldTill == none &&
      s.flag (F.FH_STATUS_GATE_CLOSED 0) && !s.standbyOut 3 && !(s.chan 3).has kChStuckOff)
    (fun s t => chTold s 3 kChStuckOff 63 t && (t.chan 3).has kChStuckOff) = true := by decide +kernel

/-- R109: the off-state open test counts its failures. -/
theorem test_offStateOpenTest : (ck [.chans] (sw [(F.CH_DIAG_OW_OFF_EN 3, 1)] fun x => { x with closed := false, offFails := 1 })
      (.offStateOpenTest 3 true) (fun s => !(s.chan 3).comp && !(s.half 0).susp && !s.standbyOut 3)
      (fun _ t => (t.chan 3).offFails == 2) &&
    ck [.chans] (sw [(F.CH_DIAG_OW_OFF_EN 3, 1)] fun x => { x with closed := false, offFails := 2, conds := [kChOpen] })
      (.offStateOpenTest 3 false) (fun s => s.flag (F.CH_DIAG_OW_OFF_EN 3))
      (fun _ t => (t.chan 3).offFails == 0 && !(t.chan 3).has kChOpen)) = true := by decide +kernel

/-- R103, R545, R554: a changed ALM strap, and the codes of its two phases: 4.0 V and 1.0 V, and a change between the phases. -/
theorem test_almRead : (ck faultParts (base []) (.almRead 1 ⟨4001, 4001, false⟩) (fun s => !(s.half 1).inReset && (s.half 1).almIn != 2)
      (fun s t => (t.half 1).almIn == 2 && (t.half 1).alm == (s.half 1).alm && halfTold s 1 kAlmChanged t) &&
    same ((base []).updHalf 1 fun x => { x with almIn := 1 }) (.almRead 1 ⟨999, 999, false⟩) (fun s => (s.half 1).almIn == 1) &&
    ((almCode ⟨4001, 999, false⟩, almCode ⟨4000, 999, false⟩, almCode ⟨999, 1000, false⟩, almCode ⟨4001, 4000, false⟩, almCode ⟨999, 999, true⟩) == (0, 3, 3, 3, 3))) = true := by
  decide +kernel

/-- R105, R157: a rising edge counts, the third of a frame is lost. -/
theorem test_pulseEdge : (ck (.chans :: faultParts) (fn 9 [] id) (.pulseEdge 3 true) (fun s => s.func 3 == fPULSE && !(s.chan 3).comp)
      (fun s t => (t.chan 3).comp && (t.chan 3).pulses == 1#32 && (t.chan 3).edgeAt == [s.tick]) &&
    ck (.chans :: faultParts) (fn 9 [] fun x => { x with frameEdges := 2 }) (.pulseEdge 3 true) (fun s => !(s.chan 3).comp)
      (fun s t => chTold s 3 kChEdgeLost 63 t && (t.chan 3).pulses == 1#32) &&
    ck (.chans :: faultParts) (fn 9 [] fun x => { x with comp := true }) (.pulseEdge 3 false) (fun s => (s.chan 3).comp)
      (fun _ t => !(t.chan 3).comp && (t.chan 3).pulses == 0#32)) = true := by decide +kernel

/-- R111, R113: a due dark pulse opens the switch, or is skipped. -/
theorem test_darkPulse : (ck [.regs, .chans] (sw [] fun x => { x with dark := true, comp := true }) (.darkPulse 3)
      (fun s => (s.chan 3).dark && (s.chan 3).pulse == none && !s.dpSkip 3)
      (fun s t => !(t.chan 3).closed && (t.chan 3).pulse ==
        some { start := t.tick, held := (s.chan 3).smp, before := [] }) &&
    ck [.regs, .chans] (sw [] fun x => { x with dark := true, closed := false, value := 0 }) (.darkPulse 3)
      (fun s => (s.chan 3).dark && s.dpSkip 3)
      (fun s t => up s (F.CH_COUNTS_DP_SKIP 3) t && (t.chan 3).pulse == none)) = true := by decide +kernel

/-- R114: the verdict of a pulse. -/
theorem test_darkPulseVerdict : (ck (.chans :: faultParts) (sw [] fun x => { x with closed := false, pulse := some { start := 0, held := {}, seen := 2, passed := true } })
      (.darkPulseVerdict 3 none) (fun s => (s.chan 3).pulse != none)
      (fun s t => (t.chan 3).pulse == none && t.fld (F.CH_COUNTS_DP_FAIL 3) == s.fld (F.CH_COUNTS_DP_FAIL 3)) &&
    ck (.chans :: faultParts) (sw [] fun x => { x with closed := false, pulse := some { start := 0, held := {}, seen := 2, excess := [(5, 21), (6, 20)] } })
      (.darkPulseVerdict 3 none) (fun s => (s.chan 3).pulse != none)
      (fun s t => up s (F.CH_COUNTS_DP_FAIL 3) t && chTold s 3 kChCross 5 t) &&
    ck (.chans :: faultParts) { sw [(F.YK_STATUS_STATE, 4), (F.CH_CFG_FUNC 7, 2)] fun x => { x with closed := false, pulse := some { start := 0, held := {}, seen := 2, excess := [(5, 20)] } } with
        sig := [(19, { value := 0x1E0000#32 }), (23, { value := 0x1E0000#32 })] }
      (.darkPulseVerdict 3 (some 7)) (fun s => (s.chan 3).pulse != none && s.joined && s.partnerPeak (some 7) == some 7 && s.partnerPeak none == some 3)
      (fun s t => up s (F.CH_COUNTS_DP_FAIL 3) t && chTold s 3 kChCross 23 t) &&
    ck (.chans :: faultParts) (sw [] fun x => { x with closed := false, pulse := some { start := 0, held := {}, seen := 2 } })
      (.darkPulseVerdict 3 none) (fun s => (s.chan 3).pulse != none)
      (fun s t => up s (F.CH_COUNTS_DP_FAIL 3) t && chTold s 3 kChShortVf 63 t) &&
    ck (.chans :: faultParts) (sw [] fun x => { x with closed := false, pulse := some { start := 0, held := {}, seen := 2, passed := true, watch := [9], fell := [9] } })
      (.darkPulseVerdict 3 none) (fun s => (s.chan 3).pulse != none)
      (fun s t => chTold s 3 kChCross 9 t && chTold s 9 kChCross 3 t)) = true := by decide +kernel

/-- R116: an abort counts as skipped. -/
theorem test_darkPulseAbort : ck fieldParts (sw [] fun x => { x with closed := false, pulse := some { start := 0, held := {} } })
    (.darkPulseAbort 3) (fun s => (s.chan 3).pulse != none && !(s.chan 3).closed)
    (fun s t => (t.chan 3).pulse == none && (t.chan 3).closed && up s (F.CH_COUNTS_DP_SKIP 3) t) = true := by decide +kernel

/-! ## Halves -/

/-- R118: the supply comparators. -/
theorem test_supply : (ck switchFaultParts (sw [] id) (.supplyHigh 0) (fun s => !(s.half 0).high)
      (fun s t => (t.half 0).high && halfTold s 0 kSupplyHigh t && t.fld (F.FH_STATUS_SUPPLY 0) == s.fld (F.FH_STATUS_SUPPLY 0)) &&
    ck switchFaultParts (sw [] id) (.supplyLow 0) (fun s => !(s.half 0).low)
      (fun s t => (t.half 0).low && halfTold s 0 kSupplyLow t) &&
    ck fieldParts ((sw [] id).updHalf 0 fun x => { x with low := true, susp := true, inReset := true }) (.supplyConditionEnd 0 2)
      (fun s => (s.half 0).susp) (fun _ t => !(t.half 0).susp && (t.half 0).low && t.fld (F.FH_STATUS_SUPPLY 0) == 6)) = true := by decide +kernel

/-- R99, R118: tests are suspended, pulses end, and a current output without headroom is told. -/
theorem test_testsSuspended : ck switchFaultParts ((sw [(F.CH_CFG_FUNC 4, 7)] fun x =>
      { x with closed := false, pulse := some { start := 0, held := {} } })) (.testsSuspended 0) (fun s => !(s.half 0).susp)
    (fun s t => (t.half 0).susp && (t.chan 3).pulse == none && chTold s 4 kChHeadroom 63 t) = true := by decide +kernel

/-- R119: SUPPLY_UV latches, recovers and is re-armed by its key. -/
theorem test_supplyUv : (ck switchFaultParts (sw [] id) (.supplyUv 0) (fun s => !(s.half 0).inReset && !(s.half 0).uv)
      (fun s t => (t.half 0).uv && !(t.half 0).uvReady && halfTold s 0 kSupplyUv t && up s (F.FH_COUNTS_UV_CNT 0) t &&
        t.inSafe 3 && (t.chan 3).safeL && !(t.chan 3).closed) &&
    ck switchFaultParts ((sw [] id).updHalf 0 fun x => { x with uv := true, uvReady := true }) (.supplyUv 0)
      (fun s => (s.half 0).uvReady) (fun s t => (t.half 0).uv && !(t.half 0).uvReady && up s (F.FH_COUNTS_UV_CNT 0) t) &&
    ck (.halves :: fieldParts) ((sw [] id).updHalf 0 fun x => { x with uv := true }) (.uvRecovery 0) (fun s => (s.half 0).uv)
      (fun _ t => (t.half 0).uv && (t.half 0).uvReady) &&
    ck [.halves] ((sw [] id).updHalf 0 fun x => { x with uv := true, uvReady := true }) (.uvRearm 0) (fun s => (s.half 0).uvReady)
      (fun s t => t.half 0 == { s.half 0 with uvKey := true }) &&
    same ((sw [] id).updHalf 0 fun x => { x with uv := true }) (.uvRearm 0) (fun s => !(s.half 0).uvReady)) = true := by
  decide +kernel

/-- R120, R132: a field die resets, or is reset in a half that is not armed. -/
theorem test_fieldReset : (ck (.halves :: fieldParts) (sw [(F.BD_STATUS_LINK 0, 2)] id) (.fieldDieReset 0) (fun s => !(s.half 0).inReset)
      (fun _ t => (t.half 0).inReset && (t.half 0).returning && !(t.half 0).loaded && t.fld (F.BD_STATUS_LINK 0) == 0 &&
        (t.chan 3).action == none && !(t.chan 3).closed) &&
    ck (.halves :: fieldParts) (sw [(F.BD_STATUS_LINK 0, 2), (F.CH_FLAGS_LATCHED 3, 1)] fun x => { x with filt := 7, backoff := 1 }) (.fieldReset 0)
      (fun s => !s.armed 0 && !(s.half 0).inReset)
      (fun _ t => (t.half 0).returning && !(t.half 0).loaded && t.fld (F.BD_STATUS_LINK 0) == 0 && (t.chan 3).action == none &&
        !(t.chan 3).closed && !t.ovlLatched 3 && (t.chan 3).filt == 0 && (t.chan 3).backoff == 0) &&
    same (sw [(F.SYS_STATE_ARMED_HALVES, 1)] id) (.fieldReset 0) (fun s => s.armed 0)) = true := by decide +kernel

/-- R120, R127, R202: the die restarts, its link trains, and it is reloaded into its safe state. -/
theorem test_fieldReturn : (ck switchFaultParts ((fn 2 [] id).updHalf 0 fun x => { x with returning := true, inReset := true, loaded := false })
      (.fieldRestart 0) (fun s => (s.half 0).returning)
      (fun s t => !(t.half 0).returning && !(t.half 0).inReset && halfTold s 0 kFieldRestart t && up s (F.FH_COUNTS_RESTARTS 0) t) &&
    ck [.regs, .halves] (base [(F.BD_STATUS_LINK 0, 1), (F.BD_STATUS_UP_MISS 0, 5)]) (.linkTrained 0) (fun s => !(s.half 0).inReset)
      (fun _ t => t.fld (F.BD_STATUS_LINK 0) == 4 && (t.half 0).counting && t.fld (F.BD_STATUS_UP_MISS 0) == 5) &&
    ck (.halves :: fieldParts) { base [(F.CH_CFG_FUNC 3, 2), (F.BD_STATUS_LINK 0, 4)] with boot := { image := some {} }, env := { pll := true, linkIdle := false } } (.fieldReload 0)
      (fun s => s.framesRun 0 && !(s.half 0).loaded && s.boot.image.isSome)
      (fun s t => (t.half 0).loaded && (t.half 0).table == s.tableWords 0 && (t.half 0).keeper == 1 &&
        t.fld (F.BD_STATUS_LINK 0) == 2 && (t.chan 3).action == some 2)) = true := by decide +kernel

/-- R122-R124: gate failure and overcurrent hold the gate open. -/
theorem test_gate : (ck switchFaultParts (sw [(F.FH_STATUS_GATE_CLOSED 0, 1)] id) (.gateFail 0) (fun _ => true)
      (fun s t => (t.half 0).gateHold && !t.gateWanted 0 && !(t.half 0).gdrv && t.flag (F.FH_STATUS_GATE_HELD 0) &&
        halfTold s 0 kGateFail t) &&
    ck switchFaultParts (sw [(F.FH_STATUS_GATE_CLOSED 0, 1)] id) (.halfOvercurrent 0) (fun _ => true)
      (fun s t => (t.half 0).gateHold && !t.gateWanted 0 && halfTold s 0 kHalfOvercurrent t)) = true := by
  decide +kernel

/-- R125: the GDRV faults. -/
theorem test_gdrv : (ck faultParts ((base [(F.FH_CFG_GDRV_MODE 1, 1)]).updHalf 1 fun x => { x with loaded := true, armedF := true }) (.gdrvOpen 1)
      (fun s => s.halfFld 1 (F.FH_CFG_GDRV_MODE 1) == 1 && s.gdrvWanted 1) (fun s t => halfTold s 1 kGdrvOpen t) &&
    ck (.sr :: faultParts) ((base [(F.FH_CFG_GDRV_MODE 1, 1)]).updHalf 1 fun x => { x with gdrv := true }) (.gdrvShort 1)
      (fun s => s.halfFld 1 (F.FH_CFG_GDRV_MODE 1) == 1)
      (fun s t => (t.half 1).gdrvCut && !(t.half 1).gdrv && halfTold s 1 kGdrvShort t) &&
    ck faultParts (base [(F.FH_CFG_GDRV_MODE 1, 2)]) (.gdrvShort 1) (fun s => s.halfFld 1 (F.FH_CFG_GDRV_MODE 1) == 2)
      (fun s t => halfTold s 1 kGdrvShort t && !(t.half 1).gdrvCut) &&
    ck faultParts (base [(F.FH_CFG_FB_CH 1, 15), (F.CH_CFG_FUNC 15, 1)]) (.gdrvFb 1) (fun s => s.mirrorWrong 1)
      (fun s t => halfTold s 1 kGdrvFb t) &&
    same (base [(F.FH_CFG_FB_CH 1, 15)]) (.gdrvFb 1) (fun s => s.func 15 != fDI)) = true := by decide +kernel

/-! ## Barn Door -/

/-- Half 0 with its link up, channel 3 a DO. -/
def linked (fs : List (Fld × Nat)) (f : Half → Half) : State :=
  let s := (sw ((F.BD_STATUS_LINK 0, 2) :: fs) id).updHalf 0 f
  { s with env := { s.env with linkIdle := false } }

/-- The words of a downlink frame of slot 1 with ARMED that drives channel 3 to 0. -/
def frame1 : List Word :=
  let ws := [0xBC180001#32, 0#32, 0#32, 0#32, 0#32, 0x10000000#32] ++ List.replicate 17 0#32
  ws ++ [crc32cWords ws]

/-- R204, R214: a frame with a wrong CRC counts as none. -/
theorem test_downlink_bad : ck [.regs, .chans, .halves] (linked [] fun x => { x with dnRun := 3, dnMiss := 2 })
    (.downlinkFrame 0 1 (some (frame1.set 23 0#32)))
    (fun s => s.linkUp 0 && 1 < s.fullSlots && parseDown 1 (frame1.set 23 0#32) == none)
    (fun s t => (t.half 0).dnRun == 0 && (t.half 0).dnBad == 1 && (t.half 0).dnMiss == 2 && (t.chan 3).action == (s.chan 3).action)
    = true := by decide +kernel

/-- R206, R207: a valid frame gives its commands. -/
theorem test_downlink_good : ck (.halves :: fieldParts) (linked [] fun x => { x with dnRun := 3, dnMiss := 2 })
    (.downlinkFrame 0 1 (some frame1)) (fun s => s.linkUp 0 && (parseDown 1 frame1).isSome)
    (fun _ t => (t.half 0).dnRun == 4 && (t.half 0).dnMiss == 0 && (t.half 0).dnGot && (t.half 0).armedF &&
      (t.chan 3).action == some 1 && (t.chan 3).value == 0 && !(t.chan 3).closed) = true := by decide +kernel

/-- R206: the frame of the device itself. -/
theorem test_downlink_own : ck (.halves :: fieldParts) (linked [(F.SYS_STATE_ARMED_HALVES, 1)] id)
    (.downlinkFrame 0 1 none) (fun s => s.linkUp 0)
    (fun _ t => (t.half 0).dnMiss == 0 && (t.half 0).dnGot && (t.half 0).armedF && (t.chan 3).action == some 1 &&
      (t.chan 3).value == 0) = true := by decide +kernel

/-- R209, R219: uplink frames. -/
theorem test_uplink : (ck (.chans :: faultParts) (linked [(F.BD_STATUS_UP_MISS 0, 3)] id) (.uplinkFrame 0 (some 123) (some (List.replicate 24 0#32)))
      (fun s => s.linkUp 0 && 124 < s.fullSlots)
      (fun s t => up s (F.BD_COUNTS_UP_INVALID 0) t && t.fld (F.BD_STATUS_UP_MISS 0) == 3) &&
    ck (.chans :: faultParts) (linked [(F.BD_STATUS_UP_MISS 0, 3)] fun x => { x with keeper := 2, upTimeout := some 3 })
      (.uplinkFrame 0 (some 0) none) (fun s => s.linkUp 0)
      (fun _ t => t.fld (F.BD_STATUS_UP_MISS 0) == 0 && (t.half 0).upGot && (t.half 0).upTimeout == none &&
        t.fld (F.BD_STATUS_KEEPER 0) == 2)) = true := by decide +kernel

/-- R214, R217: slots without a frame count on both sides, up to the timeouts. -/
theorem test_slots : (ck (.yk :: .halves :: fieldParts) (linked [(F.BD_STATUS_UP_MISS 0, 3)] fun x => { x with dnMiss := 4, dnRun := 2, counting := true })
      (.fullSlotEnd 0 124) (fun s => 124 < s.fullSlots && s.pwr.mode != 4)
      (fun s t => (t.half 0).dnMiss == 5 && (t.half 0).dnRun == 0 && up s (F.BD_STATUS_UP_MISS 0) t) &&
    ck (.halves :: fieldParts) (linked [] fun x => { x with dnMiss := 64 }) (.downlinkTimeout 0)
      (fun s => s.dieTimeout 0 ≤ (s.half 0).dnMiss && !(s.half 0).timedOut && (s.half 0).loaded)
      (fun _ t => (t.half 0).timedOut && (t.half 0).keeper == 4 && t.inSafe 3 && (t.chan 3).safeL && !(t.chan 3).closed) &&
    ck faultParts (linked [(F.BD_STATUS_UP_MISS 0, 64)] id) (.uplinkTimeout 0)
      (fun s => s.timeout 0 ≤ s.fld (F.BD_STATUS_UP_MISS 0) && (s.half 0).upTimeout == none)
      (fun s t => (t.half 0).upTimeout == some s.tick && t.fld (F.BD_STATUS_LINK 0) == 3 &&
        told s (srcBD 0) kLinkLoss (faultAddr 1 63) t && up s (F.BD_LOSS_TIMEOUTS 0) t)) = true := by decide +kernel

/-- R208, R211: a repeated sequence number does nothing at the field die. -/
theorem test_mailbox_repeat : [Instr.mbWrite 0 9 20 [1#32], .mbRead 0 9 20, .mbCommitTable 0 9, .mbSpareInput 0 9 1#32].all (fun i =>
    ck [.halves] (linked [] fun x => { x with mbSeq := some 9 }) i (fun s => s.framesRun 0)
      (fun s t => t.half 0 == { s.half 0 with mbOut := (t.half 0).mbOut } && (t.half 0).mbOut.length == 8)) = true := by
  decide +kernel

/-- R208, R211, R213: a new one acts; the table is not written while the half is armed. -/
theorem test_mailbox : (ck [.halves] (linked [] id) (.mbWrite 0 9 249 [7#32]) (fun s => (s.half 0).mbSeq != some 9)
      (fun _ t => Sparse.get (fun _ => 0#32) (t.half 0).params 249 == 7#32 && (t.half 0).mbSeq == some 9) &&
    ck [.halves] (linked [] id) (.mbWrite 0 9 250 [7#32]) (fun s => (s.half 0).mbSeq != some 9)
      (fun _ t => (t.half 0).params == [] && wbits ((t.half 0).mbReturn.getD 0 0#32) 27 24 == 1) &&
    ck [.halves] (linked [] id) (.mbWrite 0 9 9 [7#32]) (fun s => (s.half 0).armedF)
      (fun _ t => (t.half 0).params == [] && wbits ((t.half 0).mbReturn.getD 0 0#32) 27 24 == 3) &&
    ck [.halves] (linked [] fun x => { x with params := [(249, 3#32)] }) (.mbRead 0 9 249) (fun s => s.framesRun 0)
      (fun _ t => ((t.half 0).mbReturn.drop 1).take 2 == [3#32, 0#32] && (t.half 0).mbSeq == some 9) &&
    ck (.halves :: fieldParts) (linked [] fun x => { x with armedF := false, params := [(9, 64#32)] }) (.mbCommitTable 0 9) (fun s => !(s.half 0).armedF)
      (fun _ t => (t.half 0).table.length == 10 && (t.half 0).table.getD 9 0#32 == 64#32 && (t.half 0).mbSeq == some 9 && (t.half 0).forced) &&
    ck [.halves] (linked [] id) (.mbSpareInput 0 9 1#32) (fun s => s.framesRun 0) (fun _ t => (t.half 0).spareIn == some 1#32) &&
    ck [.halves] { linked [] id with env := { pll := true, linkIdle := false, clkFailed := true } } (.mbSpareInput 0 9 1#32)
      (fun s => !s.framesRun 0) (fun s t => (t.half 0).spareIn == (s.half 0).spareIn && (t.half 0).mbOut.length == 8)) = true := by
  decide +kernel

/-! ## Binder instructions -/

/-- An evaluation of pair 0 with W1 = `a`, W2 = `b`. -/
def ctx (k : EvalKind) (a b : Word) : Ctx :=
  ({ kind := k, swath := 0, pc := 5 } : Ctx).setW 1 a |>.setW 2 b

/-- The evaluation with its engines in agreement. -/
def twin (c : Ctx) : Ctx := { c with eb := c.engA }

/-- A program of two sheaves, the first speculable, with entry 7 as its hot input. -/
def prog0 : Prog :=
  { starts := [3, 40], specLen := 1, hots := [⟨7, none⟩], bands := [[-5, 10]], code := List.replicate 60 0#32 }

/-- Pair 0 runs an evaluation in an armed device. -/
def run (c : Ctx) (fs : List (Fld × Nat)) : State :=
  (base ((F.SYS_STATE_STATE, 3) :: fs)).updPair 0 fun x => { x with prog := some prog0, ctx := some (twin c) }

/-- The evaluation under way in pair 0. -/
def cx (s : State) : Ctx := ((s.pairs.get 0).ctx).getD (ctx .real 0#32 0#32)

/-- What an instruction makes of an evaluation of pair 0 with W1 = `a`, W2 = `b`. -/
def op (k : EvalKind) (a b : Word) (f : Ctx → Ctx) (i : Instr) (p : Ctx → Ctx → Bool) : Bool :=
  ck [.pairs] (run (f (ctx k a b)) []) i
    (fun s => (s.pairs.get 0).ctx.isSome && (s.pairs.get 0).prog == some prog0 && s.evaluates 0 (cx s) && !s.atBreak 0 (cx s) &&
      decide ((cx s).eb = (cx s).engA))
    (fun s t => p (cx s) (cx t) && decide ((cx t).eb = (cx t).engA))

/-- The four flags. -/
def flags (c : Ctx) : List Bool := [c.ze, c.lt, c.lu, c.sat]

/-- R266, R267: ADD wraps; its flags. -/
theorem test_bAlu_add : (op .real 0x7FFFFFFF#32 1#32 id (.bAlu 0 3 1 2 0) fun _ c => c.w 3 == 0x80000000#32 && flags c == [false, true, false, true] && c.pc == 6) = true := by
  decide +kernel
/-- R266, R267: SUB below zero; SUBS saturates; MULH; SAR by 33 shifts by 1. -/
theorem test_bAlu : ((op .real 1#32 2#32 id (.bAlu 0 3 1 2 1) fun _ c => c.w 3 == 0xFFFFFFFF#32 && flags c == [false, true, true, false]) &&
    (op .real 0x80000000#32 1#32 id (.bAlu 0 1 1 2 3) fun _ c => c.w 1 == 0x80000000#32 && flags c == [false, true, false, true]) &&
    (op .real 0x80000000#32 0xFFFFFFFF#32 id (.bAlu 0 3 1 2 5) fun _ c => c.w 3 == 0x7FFFFFFF#32 && c.sat) &&
    (op .real 0xFFFFFFFF#32 1#32 id (.bAlu 0 3 1 2 6) fun _ c => c.w 3 == 0xFFFFFFFF#32 && !c.sat) &&
    (op .real 0x80000000#32 33#32 id (.bAlu 0 3 1 2 13) fun _ c => c.w 3 == 0xC0000000#32)) = true := by decide +kernel
/-- R266: the immediate of ALUI is sign-extended. -/
theorem test_bAlui : (op .real 5#32 0#32 id (.bAlui 0 3 1 0 0x3FFF) fun _ c => c.w 3 == 4#32 && flags c == [false, false, true, false]) = true := by
  decide +kernel
/-- R267: comparisons give the true signed order. -/
theorem test_bCmp : ((op .real 0x80000000#32 1#32 id (.bCmp 0 1 2) fun _ c => flags c == [false, true, false, false] && c.w 1 == 0x80000000#32) &&
    (op .real 0xFFFFFFFF#32 0#32 id (.bCmpi 0 1 0x3FFFF) fun _ c => flags c == [true, false, false, false])) = true := by decide +kernel
/-- R267: condition codes. -/
theorem test_bSel : ((op .real 7#32 8#32 (fun c => { c with lu := true }) (.bSel 0 3 1 2 6) fun _ c => c.w 3 == 7#32 && flags c == [false, false, true, false]) &&
    (op .real 7#32 8#32 id (.bSel 0 3 1 2 10) fun _ c => c.w 3 == 8#32) &&
    (op .real 7#32 8#32 id (.bSetc 0 3 14) fun _ c => c.w 3 == 1#32) &&
    (op .real 7#32 8#32 (fun c => { c with ze := true }) (.bSetc 0 1 9) fun _ c => c.w 1 == 0#32)) = true := by decide +kernel
/-- R265: immediates. -/
theorem test_bMov : ((op .real 0#32 0#32 id (.bMovi 0 3 0x20000) fun _ c => c.w 3 == 0xFFFE0000#32) &&
    (op .real 0x12345678#32 0#32 id (.bMovh 0 1 0xABCD) fun _ c => c.w 1 == 0xABCD5678#32)) = true := by decide +kernel
/-- R272: grid values, of the swath under way and of the next. -/
theorem test_bRds : (ck [.pairs] (run { ctx .real 0#32 0#32 with swath := 2 ^ 33 + 5 } [(F.TB_CONFIG_K, 40)]) (.bRds 0 3 1) (fun _ => true) (fun _ t => (cx t).w 3 == 2#32) &&
    ck [.pairs] (run (ctx .real 0#32 0#32) [(F.TB_PHASE_STOOK_PHASE, 39)]) (.bRds 0 3 2) (fun s => (cx s).swath == s.swath) (fun _ t => (cx t).w 3 == 39#32) &&
    ck [.pairs] (run { ctx (.tine 1) 0#32 0#32 with swath := 1 } [(F.TB_PHASE_STOOK_PHASE, 39)]) (.bRds 0 3 2) (fun s => (cx s).swath != s.swath && s.kLen ≤ s.phase + 1) (fun _ t => (cx t).w 3 == 0#32) &&
    ck [.pairs] (run { ctx (.tine 1) 0#32 0#32 with swath := 1 } [(F.TB_PHASE_STOOK_PHASE, 38)]) (.bRds 0 3 2) (fun s => s.phase + 1 < s.kLen) (fun _ t => (cx t).w 3 == 39#32)) = true := by
  decide +kernel

/-- An entry of the pair's own and one of a local channel with a value. -/
def withSig (s : State) : State :=
  { s with sig := [(3, { value := 9#32, qual := 1, src := srcLocal 3 }), (600, { src := srcDerived 0 })] }

/-- R268, R269, R234: loads, and their record in a tine. -/
theorem test_bLoads : (ck [.pairs] (withSig (run (ctx .real 2#32 0#32) [])) (.bLds 0 4 1 1 1) (fun _ => true) (fun _ t => (cx t).w 4 == 1#32 && (cx t).reads == []) &&
    ck [.pairs] (withSig (run { ctx (.tine 1) 2#32 0#32 with swath := 1 } [])) (.bLdv 0 4 3) (fun _ => true) (fun s t => (cx t).reads == [⟨3, .value (s.seen 0 prog0 (cx s) 3).value⟩] && (cx t).w 4 == (s.seen 0 prog0 (cx s) 3).value) &&
    ck [.pairs] (withSig (run (ctx .real 2#32 0#32) [])) (.bLdq 0 4 1 0 3) (fun _ => true) (fun s t => (cx t).w 4 == (s.entry 3).word1) &&
    ck [.pairs] (withSig (run (ctx .real 2#32 0#32) [])) (.bLdw 0 4 7 3) (fun _ => true) (fun s t => (cx t).w 4 == (s.entry 3).words.getD 7 0#32) &&
    ck [.pairs] (withSig (run (ctx .real 2#32 0#32) [])) (.bLdb 0 4 0 3) (fun _ => true) (fun _ t => (cx t).w 4 == 1#32) &&
    ck [.pairs] (withSig ((run (ctx .real 2#32 0#32) []).setReg 0x21E04 77#32)) (.bLdk 0 4 15 1) (fun _ => true) (fun _ t => (cx t).w 4 == 77#32)) = true := by
  decide +kernel

/-- R271, R276: data memory wraps at 4,096 words; EDG. -/
theorem test_bDmem : ((op .real 4095#32 0#32 (fun c => { c with dmem := [(0, 5#32)] }) (.bLdd 0 3 1 1 1) fun _ c => c.w 3 == 5#32) &&
    (op .real 4095#32 6#32 id (.bStd 0 2 1 1 2) fun _ c => c.dmem == [(1, 6#32)]) &&
    (op .real 3#32 0#32 (fun c => { c with dmem := [(9, 6#32)] }) (.bEdg 0 3 1 9) fun _ c => c.w 3 == 1#32 && c.dmem == [(9, 1#32)]) &&
    (op .real 2#32 0#32 (fun c => { c with dmem := [(9, 7#32)] }) (.bEdg 0 3 1 9) fun _ c => c.w 3 == 2#32 && c.dmem == [])) = true := by decide +kernel

/-- R270, R232: stores enter the commit set; a foreign index raises SIG_OWNER at commit or aborts the tine. -/
theorem test_bSts : (ck [.pairs] (withSig (run (ctx .real 2#32 0xFFFFFFFF#32) [])) (.bSts 0 1 2 0 600) (fun s => s.isOwnDerived 0 600) (fun _ t => (cx t).writes == [⟨600, 2#32, 1, 0⟩]) &&
    ck [.pairs] (withSig (run (ctx .real 599#32 0x100#32) [])) (.bStsx 0 1 1 2 1 1) (fun s => s.isOwnDerived 0 600) (fun _ t => (cx t).writes == [⟨600, 599#32, 0x100, 0⟩]) &&
    ck [.pairs] (withSig (run (ctx .real 2#32 0#32) [])) (.bSts 0 1 2 0 3) (fun s => !s.isOwnDerived 0 3) (fun _ t => (cx t).writes == [] && (cx t).faults == [(kSigOwner, faultAddr 63 0)]) &&
    ck [.pairs] (withSig (run { ctx (.tine 1) 2#32 0#32 with swath := 1 } [])) (.bSts 0 1 2 0 3) (fun s => !s.isOwnDerived 0 3) (fun _ t => (cx t).aborted && (cx t).faults == [])) = true := by
  decide +kernel

/-- R278, R279: emits and check-ins are held. -/
theorem test_bEmit : ((op .real 1#32 2#32 id (.bEmit 0 4 0) fun _ c => c.emits == [⟨4, [0#32, 1#32, 2#32, 0#32], 0⟩]) &&
    (op .real 1#32 2#32 (fun c => { c with checkins := 2#32 }) (.bChk 0 1) fun _ c => c.checkins == 2#32 && c.dups == 2#32) &&
    (op .real 1#32 2#32 id (.bChk 0 31) fun _ c => c.checkins == 0x80000000#32 && c.dups == 0#32)) = true := by decide +kernel

/-- R265, R280: control flow. -/
theorem test_bFlow : ((op .real 0#32 0#32 id (.bNop 0) fun _ c => c.pc == 6) &&
    (op .real 0#32 0#32 (fun c => { c with ze := true }) (.bBr 0 0 3) fun _ c => c.pc == 8) &&
    (op .real 0#32 0#32 id (.bBr 0 0 3) fun _ c => c.pc == 6) &&
    (op .real 0#32 0#32 id (.bCall 0 50) fun _ c => c.pc == 50 && c.calls == [6]) &&
    (op .real 0#32 0#32 (fun c => { c with calls := [6] }) (.bRet 0) fun _ c => c.pc == 6 && c.calls == []) &&
    (op .real 0#32 0#32 id (.bEnd 0) fun _ c => c.pc == 40 && c.sheaf == 1 && !c.ended) &&
    (op .real 0#32 0#32 (fun c => { c with sheaf := 1 }) (.bEnd 0) fun _ c => c.ended)) = true := by decide +kernel
/-- R265: a body of one instruction entered with a count of 2 runs twice. -/
theorem test_bLoop : ((op .real 0#32 0#32 id (.bLoop 0 1 1) fun _ c => c.pc == 6 && c.loops == [⟨6, 6, 1⟩]) &&
    (op .real 0#32 0#32 (fun c => { c with pc := 6, loops := [⟨6, 6, 1⟩] }) (.bNop 0) fun _ c => c.pc == 6 && c.loops == [⟨6, 6, 0⟩]) &&
    (op .real 0#32 0#32 (fun c => { c with pc := 6, loops := [⟨6, 6, 0⟩] }) (.bNop 0) fun _ c => c.pc == 7 && c.loops == []) &&
    (op .real 9#32 0#32 id (.bLoopr 0 1 3 2) fun _ c => c.pc == 6 && c.loops == [⟨6, 7, 3⟩]) &&
    (op .real 0xFFFFFFFF#32 0#32 id (.bLoopr 0 1 3 2) fun _ c => c.pc == 8 && c.loops == [])) = true := by decide +kernel

/-- R274: TON with PT 0 follows IN, TOF drops at once, TP gives no pulse; TP with PT 1 does. -/
theorem test_bTimers : ((op .real 1#32 0#32 id (.bTon 0 3 1 2 4) fun _ c => c.w 3 == 1#32 && c.updates == 1) &&
    (op .real 0#32 0#32 (fun c => { c with timers := [(4, { q := true, kind := 2 })] }) (.bTof 0 3 1 2 4) fun _ c => c.w 3 == 0#32) &&
    (op .real 1#32 0#32 id (.bTof 0 3 1 2 4) fun _ c => c.w 3 == 1#32) &&
    (op .real 1#32 0#32 id (.bTp 0 3 1 2 4) fun _ c => c.w 3 == 0#32) &&
    (op .real 1#32 1#32 id (.bTp 0 3 1 2 4) fun _ c => c.w 3 == 1#32)) = true := by decide +kernel

/-- R277: the monitor: agreeing, disagreeing, latching with its fault, clearing when idle. -/
theorem test_bDsc : ((op .real 1#32 1#32 id (.bDsc 0 3 1 2 1 8 0 1) fun _ c => c.w 3 == 1#32 && c.faults == []) &&
    (op .real 1#32 0#32 id (.bDsc 0 3 1 2 1 8 0 1) fun _ c => c.w 3 == 4#32) &&
    (op .real 1#32 0#32 id (.bDsc 0 3 1 2 2 8 0 1) fun _ c => c.w 3 == 6#32 && c.faults == [(kDiscrepancy, faultAddr 0 8)]) &&
    (op .real 1#32 0#32 (fun c => { c with timers := [(8, { latched := true })] }) (.bDsc 0 3 1 2 2 8 1 1) fun _ c => c.w 3 == 2#32) &&
    (op .real 0#32 0#32 (fun c => { c with timers := [(8, { latched := true })] }) (.bDsc 0 3 1 2 2 8 0 1) fun _ c => c.w 3 == 0#32)) = true := by decide +kernel

/-- R256: without an evaluation nothing changes. -/
theorem test_binder_idle : same State.reset (.bAlu 2 1 2 3 0) (fun s => (s.pairs.get 2).ctx == none) = true := by decide +kernel

/-! ## The swath pipeline -/

/-- Pair 0 armed with a program, its evaluation and more. -/
def pipe (c : Option Ctx) (fs : List (Fld × Nat)) (f : Pair → Pair) : State :=
  (base ((F.SYS_STATE_STATE, 3) :: (F.SYS_STATE_ARMED_HALVES, 3) :: fs)).updPair 0 fun x => f { x with prog := some prog0, ctx := c.map twin }

/-- R231, R259: a tine that has ended is put by; the next starts afresh. -/
theorem test_tineEnd : (ck [.regs, .pairs] (pipe (some { ctx (.tine 0) 1#32 2#32 with ended := true, swath := 1, dmem := [(3, 4#32)] }) [] fun x => { x with dmem := [(1, 2#32)], tineFor := 1 })
      (.tineEnd 0 {}) (fun s => (cx s).isTine && (cx s).ended)
      (fun _ t => (t.pairs.get 0).tines.length == 1 && (cx t).kind == .tine 1 && (cx t).swath == 1 && (cx t).dmem == [(1, 2#32)] && (cx t).pc == 3 && (cx t).w 1 == 0#32) &&
    ck [.regs, .pairs] (pipe (some { ctx (.tine 1) 1#32 2#32 with aborted := true, swath := 1 }) [] id)
      (.tineEnd 0 {}) (fun s => (cx s).aborted) (fun _ t => (t.pairs.get 0).tines.length == 1 && (t.pairs.get 0).ctx == none)) = true := by decide +kernel

/-- R238: validation: no match, no speculable part, a match, an abandoned one. -/
theorem test_validation : (ck [.regs, .pairs] (pipe none [] id) (.validationEnd 0 0 {}) (fun s => s.mayValidate 0 && s.tinesAtHand 0 {} == [])
      (fun s t => (t.pairs.get 0).ctx == some (freshCtx .real s.swath prog0 0 [] []) && (t.pairs.get 0).outcome == 2 && up s (F.PIPE_PAIR_CNT_MISSES 0) t) &&
    ck [.regs, .pairs] (pipe none [] fun x => { x with tines := [{ ctx (.tine 0) 1#32 2#32 with ended := true }] }) (.validationEnd 0 0 {})
      (fun s => s.mayValidate 0 && (s.tinesAtHand 0 {}).length == 1 && s.tineMatches prog0 ((s.tinesAtHand 0 {}).getD 0 (ctx .real 0#32 0#32)))
      (fun _ t => (cx t).kind == .post && (cx t).sheaf == 1 && (cx t).pc == 40 && (cx t).w 1 == 1#32 && (t.pairs.get 0).outcome == 1 && (t.pairs.get 0).tine == 0) &&
    ck [.regs, .pairs] { pipe none [] fun x => { x with tines := [{ ctx (.tine 0) 1#32 2#32 with ended := true }] } with pipe := { threshEnd := 950 } } (.validationAbandon 0 0 {})
      (fun s => s.mayValidate 0 && 960 < s.validationAt 0) (fun s t => (t.pairs.get 0).outcome == 5 && up s (F.PIPE_PAIR_CNT_MISSES 0) t && (t.pairs.get 0).tines == [])) = true := by
  decide +kernel

/-- R238: a program without a speculable part, and one without a post part. -/
theorem test_validation_parts : (ck [.regs, .pairs] ((pipe none [] id).updPair 0 fun x => { x with prog := some { prog0 with specLen := 0 } }) (.validationEnd 0 0 {})
      (fun s => s.mayValidate 0) (fun _ t => (t.pairs.get 0).outcome == 3 && (t.pairs.get 0).judged) &&
    ck (.out :: faultParts) ((pipe none [] id).updPair 0 fun x => { x with prog := some { prog0 with specLen := 2 }, tines := [{ ctx (.tine 0) 1#32 2#32 with ended := true }] }) (.validationEnd 0 0 {})
      (fun s => s.mayValidate 0) (fun _ t => (t.pairs.get 0).done && (t.pairs.get 0).commit.isSome && t.fld (F.PIPE_PAIR_LAST_OUTCOME 0) == 1)) = true := by decide +kernel

/-- R223, R308: a real evaluation ends; its store becomes a pending copy, its command enters the output image. -/
theorem test_realEvaluationEnd : ck [.regs, .sig, .out, .pairs]
    (withSig (pipe (some { ctx .real 1#32 2#32 with ended := true, sheaf := 1, writes := [⟨600, 1#32, 1, 0⟩] }) [(F.CH_CMD_SRC_EN 3, 1), (F.CH_CMD_SRC_INDEX 3, 600)] fun x => { x with outcome := 2 }))
    (.realEvaluationEnd 0 {}) (fun s => (cx s).ended && !(cx s).isTine && (cx s).emits == [])
    (fun s t => (t.pairs.get 0).done && (t.pairs.get 0).commit.isSome && (t.entry 600).pend == some ⟨1#32, 1, s.swath + 1, false, false⟩ &&
      t.fld (F.PIPE_PAIR_LAST_OUTCOME 0) == 2 && (t.out.get 3).next == some (1#32, 192)) = true := by decide +kernel

/-- R241: a budget overrun commits nothing. -/
theorem test_budgetOverrun : ck faultParts (pipe (some { ctx .real 1#32 2#32 with dmem := [(3, 4#32)] }) [] fun x => { x with dmem := [(1, 2#32)] })
    (.budgetOverrun 0 {}) (fun s => !(cx s).ended && !(cx s).isTine)
    (fun s t => told s (srcBND 0) kBudgetOverrun (faultAddr 63 0) t && (t.pairs.get 0).commit == none && (t.pairs.get 0).done &&
      (t.pairs.get 0).dmem == [(1, 2#32)] && t.fld (F.PIPE_PAIR_LAST_OUTCOME 0) == 4 && t.pipe.now.testBit 0) = true := by decide +kernel

/-- R286, R287: a mismatch and a Binder fault block the pair. -/
theorem test_engineFault : (ck faultParts (pipe (some (ctx .real 1#32 2#32)) [] id) (.lockstep 0 6 16383 63 {}) (fun s => (s.pairs.get 0).blocked == none)
      (fun s t => (t.pairs.get 0).blocked.isSome && (t.pairs.get 0).ctx == none && t.fld (F.BND_FAULT_PC 0) == 16383 && t.fld (F.BND_FAULT_CAUSE 0) == 6 &&
        t.fld (F.BND_STATUS_STATE 0) == 2 && told s (srcBND 0) kLockstep (faultAddr 6 63) t) &&
    ck faultParts (pipe (some (ctx .real 1#32 2#32)) [] id) (.binderFault 0 8 1 2 {}) (fun s => (s.pairs.get 0).blocked == none)
      (fun s t => (t.pairs.get 0).blocked.isSome && told s (srcBND 0) kBinderFault (faultAddr 8 2) t) &&
    ck faultParts ((run (ctx .real 1#32 2#32) []).updPair 0 fun x => { x with ctx := x.ctx.map fun c => { c with eb := (c.setW 1 9).engA } }) (.bAlu 0 3 1 2 0)
      (fun s => s.evaluates 0 (cx s))
      (fun s t => (t.pairs.get 0).blocked.isSome && t.fld (F.BND_FAULT_CAUSE 0) == 1 && t.fld (F.BND_FAULT_PC 0) == 5 && told s (srcBND 0) kLockstep (faultAddr 1 0) t) &&
    same (pipe none [] fun x => { x with blocked := some 3 }) (.binderFault 0 8 1 2 {}) (fun s => (s.pairs.get 0).blocked.isSome)) = true := by decide +kernel

/-- Bench mode: the MODE straps read 10. -/
def benched (s : State) : State := s.setF F.BOOT_STATUS_MODE 2

/-- R288, R289: debug keys in bench mode and outside it. -/
theorem test_debug : (ck [.pairs, .pipe] (benched (run (ctx .real 1#32 2#32) [])) (.bndHalt 0) (fun s => s.bench) (fun _ t => (t.pairs.get 0).debugReq == some true) &&
    ck [.pairs, .pipe] ((benched (run (ctx .real 1#32 2#32) [])).updPair 0 fun x => { x with halted := true }) (.bndResume 0) (fun s => s.bench) (fun _ t => (t.pairs.get 0).debugReq == some false) &&
    same (benched (run (ctx .real 1#32 2#32) [])) (.bndResume 0) (fun s => s.bench && !(s.pairs.get 0).halted) &&
    ck faultParts (run (ctx .real 1#32 2#32) []) (.bndStep 0) (fun s => !s.bench) (fun s t => told s (srcBND 0) kHaltRefused (faultAddr 63 63) t)) = true := by decide +kernel

/-- R289, R290: a step runs one instruction, here END, or faults on a reserved word; a breakpoint halts. -/
theorem test_step : (ck [.regs, .pairs] ((benched (run (ctx .real 1#32 2#32) [])).updPair 0 fun x => { x with halted := true }) (.bndStep 0)
      (fun s => decodeBinder (prog0.code.getD (cx s).pc 0#32) == some .opEnd) (fun _ t => (cx t).pc == 40 && t.fld (F.BND_STATUS_PC 0) == 40) &&
    ck faultParts ((benched (run (ctx .real 1#32 2#32) [])).updPair 0 fun x => { x with halted := true, prog := some { prog0 with code := List.replicate 60 0xFFFFFFFF#32 } }) (.bndStep 0)
      (fun s => decodeBinder 0xFFFFFFFF#32 == none && s.bench) (fun s t => (t.pairs.get 0).blocked.isSome && told s (srcBND 0) kBinderFault (faultAddr 10 0) t) &&
    ck [.regs, .pairs] (benched (run (ctx .real 1#32 2#32) [(F.BND_BKPT_EN 0 3, 1), (F.BND_BKPT_ADDR 0 3, 5)])) (.breakpointHit 0) (fun s => s.bench && s.flag (F.BND_BKPT_EN 0 3))
      (fun _ t => (t.pairs.get 0).halted && t.fld (F.BND_STATUS_STATE 0) == 3 && t.flag (F.BND_STATUS_AT_BKPT 0) && t.fld (F.BND_STATUS_PC 0) == 5 && t.fld (F.RC_STATE_STATE 0) == 2)) = true := by
  decide +kernel

/-! ## Power-on, resets and boot -/

/-- A device that has run: counters, memory, an armed half with a closed switch. -/
def ran (fs : List (Fld × Nat)) : State :=
  let s := ((((sw ([(F.SYS_STATE_STATE, 3), (F.SYS_STATE_ARMED_HALVES, 1), (F.TB_CLK_STATUS_PLL_LOCK, 1)] ++ fs) id).setTick 1000).setSwath 7).setBtick 900).setStook 2
  { s with mem := [(0xFC0000, 5#8)], queue := [⟨9, 1#32, 9⟩], boot := { s.boot with rollback := 3 } }

/-- R55: power-on. -/
theorem test_powerOn : ck everyPart (ran []) (.powerOn { mode := 2 } none) (fun s => s.tick == 1000)
    (fun s t => t.tick == 0 && t.swath == 0 && t.stook == 0 && t.btick == 0 && t.isBoot && t.env.vin && t.fld F.BOOT_STATUS_MODE == 2 &&
      t.flag F.TB_CLK_STATUS_PLL_LOCK && t.fld F.TB_PHASE_LENGTH == t.lNom && t.mem == [] && t.queue == [] && t.boot.rollback == 3 &&
      t.fld (F.BD_STATUS_LINK 1) == 1 && t.pending == s.pending) = true := by decide +kernel

/-- R3: loss of VIN. -/
theorem test_vinLoss : ck everyPart (ran []) .vinLoss (fun s => s.env.vin)
    (fun s t => !t.env.vin && t.mem == [] && t.sig == [] && t.boot.rollback == 3 && (t.chan 3).closed && (t.chan 3).action == (s.chan 3).action) = true := by
  decide +kernel

/-- R52, R18: RST_N keeps counters, memory and field dies, and starts boot; with the Cellar lost the counters start at 0. -/
theorem test_rstN : (ck everyPart (ran []) (.rstN { mode := 2 } true) (fun s => s.env.vin)
      (fun s t => t.tick == 1000 && t.swath == 7 && t.stook == 2 && t.btick == 900 && t.isBoot && t.fld F.SYS_STATE_ARMED_HALVES == 0 && t.mem == s.mem &&
        t.queue == [] && (t.chan 3).closed && (t.half 0).loaded && t.fld (F.BD_STATUS_LINK 0) == 1 && t.fld F.BOOT_STATUS_MODE == 2) &&
    ck everyPart (ran []) (.rstN { mode := 2 } false) (fun s => s.env.vin)
      (fun _ t => t.tick == 0 && t.swath == 0 && t.stook == 0 && t.mem == [] && t.fld (F.FC_SRC_CNT_LAST_KIND srcGRN) == kCellarLost && (t.chan 3).closed)) = true := by
  decide +kernel

/-- R468: a reaction reset; R528: a brown-out in Hibernate under LP-limit. -/
theorem test_otherResets : (ck everyPart { (ran []).setTick 2038 with fc := { resetting := true } } (.resetReaction true) (fun s => s.fc.resetting && s.fc.resetAt + resetTicks ≤ s.tick)
      (fun _ t => t.isBoot && t.swath == 7 && t.flag F.FC_STATUS_FAULT_N) &&
    ck everyPart { ran [(F.PWR_CFG_REG, 0)] with pwr := { mode := 2 } } (.coreBor true) (fun s => s.pwr.mode == 2 && s.fld F.PWR_CFG_REG == 0)
      (fun s t => t.isBoot && t.swath == 7 && told s srcPWR kCoreBor (faultAddr 63 63) t && t.flag F.FC_STATUS_FAULT_N) &&
    same (ran []) (.resetReaction true) (fun s => !s.fc.resetting) &&
    same { (ran []).setTick 2037 with fc := { resetting := true } } (.resetReaction true) (fun s => s.fc.resetting) &&
    same { ran [(F.PWR_CFG_REG, 1)] with pwr := { mode := 2 } } (.coreBor true) (fun s => s.fld F.PWR_CFG_REG != 0)) = true := by decide +kernel

/-- R546: TEST_N; without VIN no pin acts. -/
theorem test_testNLow : (ck everyPart (ran []) (.testNLow {} true) (fun s => s.env.vin)
      (fun s t => t.isHalted && t.fld F.BOOT_STATUS_REASON_1 == 0x0E && t.env.testSeen && t.tick == 1000 && t.mem == s.mem) &&
    same { ran [] with env := { vin := false } } (.testNLow {} true) (fun s => !s.env.vin) &&
    same { ran [] with env := { vin := false } } (.rstN {} true) (fun s => !s.env.vin)) = true := by decide +kernel

/-- R53: the root clock fails. -/
theorem test_clkFail : (ck faultParts (ran []) (.clkFail true) (fun s => s.flag F.TB_CLK_STATUS_PLL_LOCK)
      (fun s t => t.env.clkFailed && told s srcCLK kClkFail 0xFFF t && !t.flag F.TB_CLK_STATUS_PLL_LOCK) &&
    ck faultParts (ran [(F.TB_CLK_STATUS_ROOT_OK, 1)]) (.clkFail false) (fun s => s.flag F.TB_CLK_STATUS_ROOT_OK)
      (fun _ t => !t.flag F.TB_CLK_STATUS_ROOT_OK && t.flag F.TB_CLK_STATUS_PLL_LOCK)) = true := by decide +kernel

/-- A device in BOOT. -/
def booting (fs : List (Fld × Nat)) (b : Boot) : State :=
  { base ([(F.SYS_STATE_STATE, 1), (F.TB_CLK_STATUS_PLL_LOCK, 1)] ++ fs) with boot := b }

/-- R324, R341, R546: ends of boot without an image. -/
theorem test_bootComplete : (ck [.regs] { booting [] {} with env := { testSeen := true, pll := true } } .bootComplete (fun s => s.isBoot && s.env.pll)
      (fun _ t => t.isHalted && t.fld F.BOOT_STATUS_REASON_1 == 0x0E) &&
    ck [.regs] (booting [] { flash := 2 }) .bootComplete (fun s => s.fld F.BOOT_STATUS_MODE == 0) (fun _ t => t.isHalted && t.fld F.BOOT_STATUS_REASON_1 == 2) &&
    same (booting [(F.BOOT_STATUS_MODE, 1)] {}) .bootComplete (fun s => s.fld F.BOOT_STATUS_MODE == 1)) = true := by decide +kernel

/-- R420: a delivered image that does not verify is discarded. -/
theorem test_memberImageVerify : (ck [.regs, .boot, .hp] { booting [(F.BOOT_STATUS_MODE, 1)] { stage := [1#32, 2#32] } with hp := { dstate := 2 } } .memberImageVerify
      (fun s => match verifyImage s.verifyEnv s.boot.stage with | .error _ => true | .ok _ => false)
      (fun _ t => t.isBoot && t.boot.stage == [] && t.hp.dstate == 3 && t.fld F.BOOT_STATUS_REASON_1 != 0) &&
    same (booting [(F.BOOT_STATUS_MODE, 1)] {}) .memberImageVerify (fun s => s.hp.dstate != 2)) = true := by decide +kernel

/-! ## Commissioning, staging and arming -/

/-- R335: commissioning takes the keys and ends. -/
theorem test_commission : (ck [.regs, .boot] { base [(F.SYS_STATE_STATE, 4), (F.BOOT_STATUS_REASON_1, 4)] with mem := [(0xFC005B, 9#8)] } .commission
      (fun s => s.boot.keyHash == none && s.boot.svcKey == none && s.isHalted)
      (fun _ t => t.fld F.SYS_COMMISSION_STATE == 1 && t.boot.keyInput.length == 92 && t.boot.keyInput.getD 91 0#8 == 9#8 && t.boot.keyHash == none) &&
    same (base [(F.SYS_STATE_STATE, 4), (F.BOOT_STATUS_REASON_1, 7)]) .commission (fun s => s.fld F.BOOT_STATUS_REASON_1 != 4) &&
    ck [.regs, .boot] { base [(F.SYS_COMMISSION_STATE, 1)] with boot := { keyInput := List.replicate 92 1#8 } } (.commissionDone true) (fun s => s.fld F.SYS_COMMISSION_STATE == 1)
      (fun _ t => t.fld F.SYS_COMMISSION_STATE == 2 && t.boot.keyHash == some (sha256 (List.replicate 60 1#8)) && t.boot.svcKey == some (List.replicate 8 0x01010101#32) && t.flag F.BOOT_FUSES_KEY) &&
    ck [.regs, .boot] { base [(F.SYS_COMMISSION_STATE, 1)] with boot := { keyInput := List.replicate 92 1#8 } } (.commissionDone false) (fun s => s.fld F.SYS_COMMISSION_STATE == 1)
      (fun _ t => t.fld F.SYS_COMMISSION_STATE == 3 && t.boot.keyHash == some []) &&
    same (base []) (.commissionDone true) (fun s => s.fld F.SYS_COMMISSION_STATE != 1)) = true := by decide +kernel

/-- R336: the rollback counter rises to the SVN, not for a trial. -/
theorem test_rollbackRaise : (ck [.regs, .boot] { base [] with boot := { image := some { word3 := 5#32 }, rollback := 3 } } .rollbackRaise (fun s => !s.flag F.BOOT_STATUS_TRIAL)
      (fun _ t => t.boot.rollback == 5 && t.fld F.BOOT_FUSES_ROLLBACK == 5) &&
    same { base [(F.BOOT_STATUS_TRIAL, 1)] with boot := { image := some { word3 := 5#32 } } } .rollbackRaise (fun s => s.flag F.BOOT_STATUS_TRIAL)) = true := by decide +kernel

/-- R342: staging in order. -/
theorem test_staging : (ck [.regs, .boot] { base [(F.SYS_STATE_STATE, 4)] with boot := { slots := two [1#32] [2#32] } } .stageOpen (fun s => s.isHalted)
      (fun _ t => t.fld F.STAGE_STATUS_STATE == 1 && decide (t.boot.slots = two [1#32] [])) &&
    same (base [(F.SYS_STATE_STATE, 1)]) .stageOpen (fun s => s.isBoot) &&
    ck [.regs] (base [(F.STAGE_STATUS_STATE, 1)]) .stageEraseDone (fun _ => true) (fun _ t => t.fld F.STAGE_STATUS_STATE == 2) &&
    ck [.regs] (base [(F.SYS_STATE_STATE, 2), (F.STAGE_STATUS_STATE, 2)]) .stageCheck (fun s => s.isSafe) (fun _ t => t.fld F.STAGE_STATUS_STATE == 3) &&
    same (base [(F.SYS_STATE_STATE, 2)]) .stageCheck (fun s => s.fld F.STAGE_STATUS_STATE != 2)) = true := by decide +kernel

/-- R363: a program that fails. -/
theorem test_stageProgramDone : (ck [.boot] { base [(F.STAGE_STATUS_STATE, 2)] with boot := { programming := true } } (.stageProgramDone true) (fun s => s.hp.writes == [])
      (fun _ t => !t.boot.programming && t.fld F.STAGE_STATUS_STATE == 2) &&
    ck (.boot :: faultParts) { base [(F.STAGE_STATUS_STATE, 2)] with boot := { programming := true } } (.stageProgramDone false) (fun s => s.hp.writes == [])
      (fun s t => t.fld F.STAGE_STATUS_STATE == 5 && t.fld F.STAGE_STATUS_REASON == 0x0D && told s srcBOOT kStageFail (faultAddr 63 0x0D) t)) = true := by decide +kernel

/-- R337: ACTIVATE and CONFIRM append their records. -/
theorem test_records : (ck [.regs, .boot] (base [(F.STAGE_STATUS_STATE, 4)]) .stageActivate (fun s => s.slotRun == 0)
      (fun _ t => t.fld F.STAGE_STATUS_STATE == 6 && (t.boot.records.getLast?).any fun r => r.type == .activate && r.slot == 1) &&
    ck [.regs, .boot] { base [(F.BOOT_STATUS_TRIAL, 1)] with boot := { image := some {} } } .stageConfirm (fun s => s.flag F.BOOT_STATUS_TRIAL)
      (fun _ t => !t.flag F.BOOT_STATUS_TRIAL && (t.boot.records.getLast?).any fun r => r.type == .confirm && r.slot == 0)) = true := by decide +kernel

/-- R343: a request, and what drops one. -/
theorem test_armRequest : (ck [.regs, .pipe, .boot] (base []) (.armRequest 3) (fun s => s.boot.armReq == none)
      (fun s t => t.boot.armReq == some (3, s.swath) && t.fld F.SYS_ARM_STATUS_STATE == 1) &&
    same (base []) (.armRequest 0) (fun _ => true) &&
    same { base [] with boot := { armReq := some (1, 0) } } (.armRequest 3) (fun s => s.boot.armReq.isSome && !s.boot.autoArm)) = true := by decide +kernel

/-- An image whose sections verify: accumulation periods, the Fault Crib, fault classes and a watchdog window. -/
def img0 : Image :=
  { sections := [(0x4, allCh.flatMap fun c => [BitVec.ofNat 32 (Reg.THR_WIN c.val), 0x10000#32]),
      (0x6, [BitVec.ofNat 32 (Reg.CRIB_CFG 0), (base [(F.CRIB_CFG_EN 0, 1), (F.CRIB_CFG_LOG2N 0, 4)]).reg (Reg.CRIB_CFG 0)]), (0x9, [7#32]),
      (0xA, [BitVec.ofNat 32 Reg.WDG_WINDOW, 0x20001#32])] }

/-- Both halves loaded with good tables, a request since swath 0, swath 1. -/
def asked (fs : List (Fld × Nat)) (b : Boot) : State :=
  { (((sw ([(F.SYS_STATE_STATE, 2), (F.BD_STATUS_TABLE_OK 0, 1), (F.BD_STATUS_TABLE_OK 1, 1)] ++ fs) fun x => { x with filt := 4, pulses := 3#32 }).updHalf 1 fun x =>
      { x with loaded := true }).setSwath 1) with boot := b, sig := [(600, { value := 3#32, src := srcDerived 0, count := 8#32 })] }

/-- R343: its halves are armed. -/
theorem test_arming : ck [.regs, .sig, .pipe, .out, .chans, .halves, .pairs, .boot, .pwr, .yk] (asked [] { armReq := some (3, 0), image := some img0 }) .arming
    (fun s => s.tick == s.btick && s.armCode 3 == 0 && s.fld F.SYS_STATE_ARMED_HALVES == 0 && (s.entry 600).cls == 6)
    (fun _ t => t.isArmed && t.fld F.SYS_ARM_STATUS_STATE == 2 && t.boot.armReq == none && t.armed 0 && t.armed 1 && (t.chan 3).filt == 0 &&
      (t.chan 3).pulses == 0#32 && (t.entry 600).value == 0#32 && (t.entry 600).count == 0#32) = true := by decide +kernel

/-- R343: a request without an image is refused with code 2; an automatic one stays. -/
theorem test_arming_refused : (ck (.boot :: faultParts) (asked [] { armReq := some (3, 0) }) .arming (fun s => s.armCode 3 == 2)
      (fun s t => t.fld F.SYS_ARM_STATUS_CODE == 2 && t.fld F.SYS_ARM_STATUS_STATE == 3 && t.boot.armReq == none && told s srcBOOT kArmRefused (faultAddr 63 2) t) &&
    ck (.boot :: faultParts) (asked [] { armReq := some (3, 0), autoArm := true }) .arming (fun s => s.armCode 3 == 2)
      (fun s t => t.boot.armReq == some (3, s.swath) && t.fld F.SYS_ARM_STATUS_STATE == 1) &&
    ck (.boot :: faultParts) (asked [] { armReq := some (3, 0), image := some {} }) .arming (fun s => !s.tablesHold)
      (fun _ t => t.fld F.SYS_ARM_STATUS_CODE == 2 && !t.isArmed) &&
    same (base []) .arming (fun s => s.boot.armReq == none)) = true := by decide +kernel

/-! ## Timebase -/

/-- Raw results of a stook, all 0. -/
def raw0 : StookRaw := { chans := List.replicate 16 {}, spares := [{}, {}], ints := [0, 0] }

/-- A device alone, at tick `t` of swath 7 that began at 24,000. -/
def solo (fs : List (Fld × Nat)) : State :=
  (((base ([(F.TB_CLK_STATUS_PLL_LOCK, 1), (F.SYS_STATE_STATE, 2)] ++ fs)).setBtick 24000).setTick 24100).setSwath 7

/-- R57: a boundary, and one that begins a stook. -/
theorem test_swathBoundary : (ck everyPart (solo [(F.TB_PHASE_STOOK_PHASE, 38)]) (.swathBoundary raw0) (fun s => s.yokeMode == 0 && s.boot.tbNext == none && s.kLen == 40)
      (fun s t => t.swath == 8 && t.btick == 48000 && t.pipe.window && t.phase == 39 && t.stook == s.stook && t.perf == 0) &&
    ck everyPart (solo [(F.TB_PHASE_STOOK_PHASE, 39)]) (.swathBoundary raw0) (fun s => s.kLen == 40)
      (fun s t => t.phase == 0 && t.stook == s.stook + 1) &&
    same { base [] with env := {} } (.swathBoundary raw0) (fun s => !s.env.pll)) = true := by decide +kernel

/-- R59: counts of 1,024 ticks in Dormant. -/
theorem test_dormantCount : (ck [.regs] { solo [(F.TB_CLK_STATUS_PLL_LOCK, 0)] with pwr := { mode := 4 }, env := {} } .dormantCount (fun s => s.pwr.mode == 4)
      (fun _ t => t.tick == 25124 && t.swath == 7 && t.btick == 24000) &&
    ck [.regs, .sig, .pipe, .halves] ({ solo [(F.TB_CLK_STATUS_PLL_LOCK, 0)] with pwr := { mode := 4 }, env := {} }.setTick 46976) .dormantCount (fun s => s.pwr.mode == 4)
      (fun _ t => t.tick == 48000 && t.swath == 8 && t.btick == 48000) &&
    same (solo []) .dormantCount (fun s => s.pwr.mode != 4)) = true := by decide +kernel

/-- SYNC from an edge per swath, in a loop state. -/
def sync (st : Nat) (tb : Tb) : State :=
  let s := (((base [(F.SYNC_STATUS_STATE, st), (F.SYNC_PERIOD_P, 24000), (F.TB_CLK_STATUS_PLL_LOCK, 1)]).setBtick 24000).setTick 24100).setSwath 1
  { s with tb := { tb with ctrl := 0x31#32, pNom := 24000 } }

/-- R66-R68: the fourth edge within the range leads to PULL; one out of it starts the count again. -/
theorem test_syncEdge_acquire : (ck [.regs, .tb] (sync 1 { edges := [72000, 48000, 24000] }) (.syncEdge 96000 30 false) (fun s => s.inLockRange 24000)
      (fun _ t => t.loop == lpPULL && t.trackP == 24000 && t.tb.edges == [96000]) &&
    ck [.tb] (sync 1 { edges := [72000] }) (.syncEdge 99000 30 false) (fun s => !s.inLockRange 27000) (fun _ t => t.tb.edges == [99000]) &&
    ck [.tb] (sync 4 {}) (.syncEdge 99000 30 false) (fun s => s.loop == lpFREERUN) (fun _ t => t.tb.edges == [99000]) &&
    same (sync 1 {}) (.syncEdge 99000 30 true) (fun s => !s.syncPol)) = true := by decide +kernel

/-- R68-R70: PULL, LOCKED and a wild edge. -/
theorem test_syncEdge : (ck [.regs, .tb] (sync 3 {}) (.syncEdge 48048 30 false) (fun s => nearestMark 48048 s.markCandidates == some (2, 48000))
      (fun s t => t.loop == lpLOCKED && t.tb.usedMark == some 2 && t.tb.c == s.tb.c + 48 / (2 ^ s.kpShift : Nat) && t.trackP == 24006) &&
    ck faultParts (sync 3 {}) (.syncEdge 54001 30 false) (fun s => s.loop == lpLOCKED)
      (fun s t => up s F.SYNC_COUNTS_SYNC_WILD_CNT t && told s srcSYNC kSyncWild 0xFFF t) &&
    ck [.regs, .tb] (sync 2 { good := 3 }) (.syncEdge 48048 30 false) (fun s => s.loop == lpPULL) (fun _ t => t.loop == lpLOCKED) &&
    ck [.regs, .tb] (sync 2 { good := 3 }) (.syncEdge 48049 30 false) (fun s => s.loop == lpPULL) (fun _ t => t.loop == lpPULL && t.tb.good == 0)) = true := by
  decide +kernel

/-- R69, R70: missing edges. -/
theorem test_syncMissingEdge : (ck [.regs, .tb] (sync 3 { missRow := 6 }) .syncMissingEdge (fun s => s.tb.missRow < 7)
      (fun s t => up s F.SYNC_COUNTS_SYNC_MISS_CNT t && t.tb.missRow == 7 && t.loop == lpLOCKED) &&
    ck (.tb :: faultParts) (sync 3 { missRow := 7 }) .syncMissingEdge (fun s => 7 ≤ s.tb.missRow)
      (fun s t => t.loop == lpFREERUN && t.tb.edges == [] && told s srcSYNC kSyncLost 0xFFF t) &&
    same (sync 1 {}) .syncMissingEdge (fun s => s.loop == lpACQUIRE)) = true := by decide +kernel

/-- R17: SYNC_CTRL drops fields whose codes are not used. -/
theorem test_syncCtrlWrite : (ck [.regs] (base []) (.syncCtrlWrite 0x481#32) (fun _ => true)
      (fun _ t => t.fld F.SYNC_CTRL_KP_SHIFT == 4 && t.fld F.SYNC_CTRL_KI_SHIFT == 8 && t.fld F.SYNC_CTRL_SRC == 1) &&
    ck [.regs] (base [(F.SYNC_CTRL_KP_SHIFT, 2), (F.SYNC_CTRL_KI_SHIFT, 3)]) (.syncCtrlWrite 0x59A#32) (fun _ => true)
      (fun _ t => t.fld F.SYNC_CTRL_KP_SHIFT == 2 && t.fld F.SYNC_CTRL_KI_SHIFT == 3 && t.fld F.SYNC_CTRL_SRC == 2)) = true := by decide +kernel

/-! ## Staged reconfiguration -/

/-- R27, R30: a commit starts a check, or is rejected. -/
theorem test_recfgCommit : (ck [.regs, .recfg, .yk] (base [(F.SYS_STATE_STATE, 2)]) (.recfgCommit 0x8000) (fun s => s.recfgState == 0)
      (fun s t => t.recfgState == 1 && t.recfg.length == 32768 && t.recfg.target == s.targetStook) &&
    ck faultParts (base [(F.SYS_STATE_STATE, 2)]) (.recfgCommit 0) (fun s => s.recfgState == 0)
      (fun s t => t.recfgState == 4 && t.fld F.SYS_RECFG_STATUS_REASON == 1 && told s srcSYS kRecfgReject 1 t) &&
    ck faultParts (base [(F.SYS_STATE_STATE, 4)]) (.recfgCommit 20) (fun s => s.isHalted) (fun s t => told s srcSYS kRecfgReject 0x0B t) &&
    ck faultParts (base [(F.SYS_STATE_STATE, 2), (F.SYS_RECFG_STATUS_STATE, 2)]) (.recfgCommit 20) (fun s => s.recfgState == 2)
      (fun s t => t.fld F.SYS_RECFG_STATUS_STATE == 4 && t.fld F.SYS_RECFG_STATUS_REASON == 0x0A && t.recfgState == 2 && told s srcSYS kRecfgReject 0x0A t)) = true := by
  decide +kernel

/-- R28, R32: a check that fails, a set that is cancelled. -/
theorem test_recfgEnd : (ck faultParts { base [(F.SYS_STATE_STATE, 2), (F.SYS_RECFG_STATUS_STATE, 1)] with recfg := { length := 3 } } .recfgCheckDone (fun s => s.recfgState == 1)
      (fun s t => t.recfgState == 4 && told s srcSYS kRecfgReject 4 t) &&
    ck faultParts (base [(F.SYS_STATE_STATE, 2), (F.SYS_RECFG_STATUS_STATE, 2)]) .recfgCancel (fun s => s.recfgState == 2)
      (fun s t => t.recfgState == 5 && told s srcSYS kRecfgReject 0x20 t) &&
    same (base []) .recfgCancel (fun s => s.recfgState == 0) && same (base []) .recfgCheckDone (fun s => s.recfgState == 0)) = true := by decide +kernel
/-! ## Thresher windows and keys -/

/-- A sample of every channel and half: the IO voltage and clamp of channel 3. -/
def sample (io : Int) (clamp : Bool) : WinSample :=
  { chans := (List.replicate 16 {}).set 3 { io := io, clamp := clamp }, spares := [{}, {}], vfield := [24000, 70000], total := [0, 0] }

/-- R88, R89, R140: a DI above its threshold counts up; a clamp is told; VFIELD saturates. -/
theorem test_fastWindow : ck [.regs, .chans, .halves] (fn 1 [(F.CH_DI_FILT_L 3, 1), (F.CH_DI_ON_TH 3, 80), (F.CH_DI_OFF_TH 3, 50)] id)
    (.fastWindowClose 25 (sample 9000 true)) (fun s => s.func 3 == fDI && !(s.chan 3).clampEp && windowsOf (s.dieLen 0) == 25)
    (fun _ t => ((t.half 0).win.any fun x => x.vfield == 24000 && x.opened == 23040 && x.closed == 24000 && x.chans.length == 8) && (t.half 1).win.isSome &&
      (t.chan 3).clampLast == some 24000 && (t.chan 3).filt == 1 && (t.chan 3).state) = true := by decide +kernel

/-- R88: at its lower threshold a DI keeps its count, below it counts down; a switch readback compares with VFIELD. -/
theorem test_fastWindow_down : (ck (.chans :: faultParts) (fn 1 [(F.CH_DI_FILT_L 3, 4), (F.CH_DI_ON_TH 3, 80), (F.CH_DI_OFF_TH 3, 50)] fun x => { x with filt := 2, state := true })
      (.fastWindowClose 1 (sample 5000 false)) (fun s => s.func 3 == fDI) (fun _ t => (t.chan 3).filt == 2 && (t.chan 3).state) &&
    ck (.chans :: faultParts) (fn 1 [(F.CH_DI_FILT_L 3, 4), (F.CH_DI_ON_TH 3, 80), (F.CH_DI_OFF_TH 3, 50)] fun x => { x with filt := 1, state := true })
      (.fastWindowClose 1 (sample 4999 false)) (fun s => s.func 3 == fDI) (fun _ t => (t.chan 3).filt == 0 && !(t.chan 3).state) &&
    ck (.chans :: faultParts) (sw [] id) (.fastWindowClose 1 (sample 14401 false)) (fun s => s.isSwitch 3 && !(s.chan 3).comp) (fun _ t => (t.chan 3).comp) &&
    ck (.chans :: faultParts) (sw [] id) (.fastWindowClose 1 (sample 14400 false)) (fun s => s.isSwitch 3 && !(s.chan 3).comp) (fun _ t => !(t.chan 3).comp) &&
    same (sw [] id) (.fastWindowClose 26 (sample 0 false)) (fun s => (s.swLen + 480) / 960 == 25)) = true := by decide +kernel

/-- R142, R157, R224: Thresh ends, the DI entry shows its bits, the fast accumulation is transferred. -/
theorem test_threshEnd : (ck [.regs, .mem, .sig, .env, .tb, .fc, .pipe, .out, .chans, .halves, .pairs, .cribs, .boot, .recfg, .sr, .gln, .yk, .hp]
      { fn 1 [(F.SYS_STATE_STATE, 2)] (fun x => { x with smp := { bit0 := true, bit1 := true }, fCount := 25, clamped := true }) with pipe := { window := true, late := true, ranPrev := true } } .threshEnd
      (fun s => s.pipe.window && !s.isBoot && s.hp.reads == [] && (s.half 0).win == none)
      (fun s t => !t.pipe.window && !t.tb.r63 && t.pipe.threshEnd == (if s.slowFabric then 480 else 432) && (t.chan 3).fCount == 0 && (t.chan 3).res == none &&
        !(t.chan 3).clamped && (t.entry 3).value == 3#32) &&
    same (fn 1 [] id) .threshEnd (fun s => !s.pipe.window)) = true := by decide +kernel

/-- R153, R154, R160: keys of the Thresher. -/
theorem test_thresherKeys : (ck [.chans, .pipe] (base []) (.thrAtClear 3) (fun _ => true)
      (fun s t => (t.chan 3).atClear && !(t.chan 4).atClear && t.pipe.next == (s.pipe.next ||| cUNSTAMPED)) &&
    ck [.regs, .halves, .pipe] (base []) (.refbufEnWrite 1 1#32) (fun s => !s.flag (F.THR_REF_LEAN 1)) (fun _ t => (t.half 1).refWrite == some true && (t.half 0).refWrite == none) &&
    same (base [(F.THR_REF_LEAN 1, 1)]) (.refbufEnWrite 1 1#32) (fun s => s.flag (F.THR_REF_LEAN 1))) = true := by decide +kernel

/-- R538: keys of PC_CTRL wait side by side. -/
theorem test_pcKeys : (ck [.regs, .perf] (base []) .pcSnapshot (fun s => s.perf == 0) (fun _ t => t.perf == 1 && t.flag F.PC_STATUS_WAITING) &&
    ck [.regs, .perf] { base [] with perf := 1 } .pcClear (fun s => s.perf == 1) (fun _ t => t.perf == 3) &&
    ck [.regs, .perf] { base [] with perf := 3 } .pcFreeze (fun s => s.perf == 3) (fun _ t => t.perf == 7) &&
    ck [.regs, .perf] { base [] with perf := 1 } .pcRun (fun s => s.perf == 1) (fun _ t => t.perf == 9)) = true := by decide +kernel

/-! ## Host port -/

/-- A header with its CRC (R356). -/
def hdr (op : BitVec 8) (h : HostHdr) : HostHdr := { h with crc := crc8Of (hdrBits h op) }

/-- A port that answers, outside a write window. -/
def port (fs : List (Fld × Nat)) : State := base ([(F.SYS_STATE_STATE, 2)] ++ fs)

/-- The transaction is accepted. -/
def accepted (op : BitVec 8) (h : HostHdr) (s : State) : Bool :=
  s.portAnswers && decide (s.catchUp s.tick = s) && hdrOpcode h op == op && !badHeader op h && !h.isSealed

/-- The fault is not held back by the once-per-swath rule of its kind. -/
def firstOf (s : State) (src kind addr : Nat) : Bool := (onceKey src kind addr).all fun k => !s.onceTaken k false

/-- A full response. -/
def answered (op : BitVec 8) (code words : Nat) (body : List Word) (t : State) : Bool :=
  !t.hp.short && t.hp.resp == body ++ [BitVec.ofNat 32 (code * 2 ^ 24 + words)] && t.fld F.HP_STATUS_LAST_CODE == code &&
    t.fld F.HP_STATUS_LAST_OP == op.toNat

/-- A short response. -/
def refusedWith (op : BitVec 8) (code : Nat) (t : State) : Bool :=
  t.hp.short && t.hp.resp == [BitVec.ofNat 32 (code * 2 ^ 24)] && t.fld F.HP_STATUS_LAST_CODE == code &&
    t.fld F.HP_STATUS_LAST_OP == op.toNat && t.fld F.HP_LAST_ERR_CODE == code

/-- R356, R357, R371, R379, R396: a port in member mode, a bad header, a seal without a unit. -/
theorem test_headers : (same (port [(F.HP_CFG_MEMBER, 1)]) (.status (hdr opSTATUS { count := 4 })) (fun s => !s.portAnswers) &&
    ck portParts (port []) (.status { count := 4, crc := crc8Of (hdrBits { count := 4 } opSTATUS) + 1 }) (fun s => s.portAnswers)
      (fun s t => refusedWith opSTATUS 4 t && up s F.HP_COUNTS_BAD_HEADER t && told s srcHP kHpFrame (faultAddr 4 63) t) &&
    ck portParts (port []) (.status (hdr opSTATUS { count := 5 })) (fun s => s.portAnswers) (fun _ t => refusedWith opSTATUS 4 t) &&
    ck portParts (port []) (.write (hdr opWRITE { isSealed := true, addr := 0xF80000 }) [1#32]) (fun s => s.portAnswers && s.hostUnit == none)
      (fun _ t => refusedWith opWRITE 5 t)) = true := by decide +kernel

/-- R374: abandoned, by the pin or for want of payload. -/
theorem test_abandon : (ck portParts { port [] with hp := { reads := [{ op := 1, hdr := {}, came := 0, since := 0, ecc := [], latch := some (3, 1, 0), ticks := 0, sealTicks := 0, cut := some false }] } } .transactionAbandon (fun s => s.portAnswers)
      (fun s t => t.hp.reads == [] && up s F.HP_COUNTS_ABORTED t && (t.cribs.get 3).latched == 0 && told s srcHP kHpFrame (faultAddr 63 63) t) &&
    ck portParts (port []) (.write (hdr opWRITE { count := 2, addr := 0xF80000 }) [1#32]) (fun s => s.portAnswers)
      (fun s t => up s F.HP_COUNTS_ABORTED t && told s srcHP kHpFrame (faultAddr 63 63) t && t.mem == s.mem)) = true := by decide +kernel

/-- R360, R361: STATUS; a READ of DEV_ID with its stamp pair. -/
theorem test_statusRead : (ck [.regs, .hp] (port [(F.SYS_STATE_ARMED_HALVES, 1)]) (.status (hdr opSTATUS { count := 2 })) (accepted opSTATUS (hdr opSTATUS { count := 2 }))
      (fun _ t => answered opSTATUS 0 2 [0x4C4B1600#32, 0x24000000#32] t) &&
    ck [.regs, .recfg, .yk, .hp] (port []) (.read (hdr opREAD { snap := true, addr := 0 }) {}) (fun s => accepted opREAD (hdr opREAD { snap := true }) s && s.readSince opREAD 1 == none)
      (fun s t => answered opREAD 0 1 (s.stampPair ++ [0x4C4B1600#32]) t)) = true := by decide +kernel

/-- R311, R361: a READ in the write window and a SNAP wait. -/
theorem test_readWaits : (ck [.hp] { port [] with pipe := { window := true } } (.read (hdr opREAD {}) {}) (accepted opREAD (hdr opREAD {}))
      (fun s t => t.hp.reads.length == 1 && t.hp.reads.all fun r => r.since == s.swath && r.latch == none) &&
    ck [.hp] (port []) (.snap (hdr opSNAP {}) {}) (accepted opSNAP (hdr opSNAP {}))
      (fun s t => t.hp.reads.length == 1 && t.hp.reads.all fun r => r.since == s.swath + 1 && r.latch == none)) = true := by decide +kernel
/-! ## Cribs, writes and forces -/

/-- Crib 3 with a consumer, a producer, a policy and 2^1 entries of 4 words; one entry published. -/
def cribbed (cons prod pol : Nat) (fs : List (Fld × Nat)) : State :=
  let s := (port ([(F.CRIB_CFG_EN 3, 1), (F.CRIB_CFG_CONSUMER 3, cons), (F.CRIB_CFG_PRODUCER 3, prod), (F.CRIB_CFG_POLICY 3, pol), (F.CRIB_CFG_LOG2N 3, 1)] ++ fs)).setReg
    (Reg.CRIB_PROD 3) 1#32
  s.writeWords loftBase [11#32, 12#32, 13#32, 14#32]

/-- R315, R362: a POP takes the whole entries that are there; refused where the window does not pop. -/
theorem test_pop : (ck [.regs, .cribs, .hp] (cribbed 0 4 0 []) (.pop (hdr opPOP { count := 9, addr := 0x38300 }) {})
      (fun s => accepted opPOP (hdr opPOP { count := 9, addr := 0x38300 }) s && cribWindow 0x38300 == some 3 && s.popWindow 3 && s.readSince opPOP 9 == none)
      (fun _ t => answered opPOP 0 4 [0x04000001#32, 11#32, 12#32, 13#32, 14#32] t && t.reg (Reg.CRIB_CONS 3) == 1#32 && (t.cribs.get 3).latched == 0) &&
    ck portParts (cribbed 1 4 0 []) (.pop (hdr opPOP { count := 9, addr := 0x38300 }) {}) (fun s => accepted opPOP (hdr opPOP { count := 9, addr := 0x38300 }) s && !s.popWindow 3)
      (fun _ t => refusedWith opPOP 5 t)) = true := by decide +kernel

/-- R314, R316: a push publishes whole entries, waits under STALL without room, is refused on a pop window; a read of a push window is refused. -/
theorem test_push : (ck [.regs, .mem, .cribs, .hp] (cribbed 1 5 3 []) (.write (hdr opWRITE { count := 5, addr := 0x38300, inc := false }) [1#32, 2#32, 3#32, 4#32, 5#32])
      (fun s => accepted opWRITE (hdr opWRITE { count := 5, addr := 0x38300, inc := false }) s && s.pushWindow 3 && !s.popWindow 3 && (s.cribs.get 3).written == [])
      (fun s t => answered opWRITE 0 4 [] t && t.reg (Reg.CRIB_PROD 3) == 2#32 && t.readWords (loftBase + 16) 4 == [1#32, 2#32, 3#32, 4#32] && t.readWords loftBase 4 == s.readWords loftBase 4) &&
    ck [.regs, .hp] (cribbed 1 5 3 []) (.write (hdr opWRITE { count := 8, addr := 0x38300, inc := false }) (List.replicate 8 1#32))
      (fun s => s.freePlaces 3 == 1) (fun _ t => t.flag (F.CRIB_STATUS_STALLED 3) && t.hp.writes.length == 1 && t.hp.writes.all fun w => w.crib == some 3 && w.limit == 48 * 1000) &&
    ck portParts (cribbed 0 4 0 []) (.write (hdr opWRITE { addr := 0x38300 }) [1#32]) (fun s => s.popWindow 3) (fun _ t => refusedWith opWRITE 5 t) &&
    ck portParts (cribbed 1 5 0 []) (.read (hdr opREAD { addr := 0x38300 }) {}) (fun s => s.readDenied (hdr opREAD { addr := 0x38300 })) (fun _ t => refusedWith opREAD 5 t)) = true := by
  decide +kernel

/-- A host command entry 700. -/
def hosted (fs : List (Fld × Nat)) : State := { port fs with sig := [(700, { src := srcHost })] }

/-- R293, R294, R367: a write to memory at its last word, to a host command entry, to a register; a debug write outside bench mode. -/
theorem test_writes : (ck [.regs, .mem, .hp] (port []) (.write (hdr opWRITE { addr := 0xFFFFFC }) [0xA1B2C3D4#32]) (accepted opWRITE (hdr opWRITE { addr := 0xFFFFFC }))
      (fun s t => t.readMem 0xFFFFFC == 0xA1B2C3D4#32 && t.readByte 0xFFFFFB == s.readByte 0xFFFFFB && t.readByte 0xFFFFFC == 0xA1#8) &&
    ck [.regs, .sig, .pipe, .hp] (hosted []) (.write (hdr opWRITE { addr := 0x800000 + 32 * 700 }) [9#32]) (fun s => s.isHostEntry 700)
      (fun s t => (t.entry 700).pend == some ⟨9#32, 1, s.swath + 1, true, true⟩ && t.pipe.next == (s.pipe.next ||| cUNSTAMPED) && answered opWRITE 0 1 [] t) &&
    ck portParts (port []) (.write (hdr opWRITE { addr := 0x44100 }) [0x48000000#32])
      (fun s => s.debugRefused (hdr opWRITE { addr := 0x44100 }) [0x48000000#32] == some 1)
      (fun s t => refusedWith opWRITE 5 t && told s (srcBND 1) kHaltRefused (faultAddr 63 63) t)) = true := by decide +kernel

/-- The stamp word of a target swath, with its CRC. -/
def stampOf (n : Nat) : BitVec 64 :=
  let w := BitVec.ofNat 64 (n * 256)
  w ||| (crc8Of w).setWidth 64

/-- R375: late, accepted, queue full. -/
theorem test_stampWrite : (ck portParts ((hosted []).setSwath 5) (.stampWrite (hdr opSTAMP { addr := 0x800000 + 32 * 700 }) (stampOf 5) [9#32]) (fun s => (stampOf 5).extractLsb' 8 48 == 5#48 && s.swath == 5)
      (fun s t => answered opSTAMP 3 0 [] t && up s F.HP_COUNTS_LATE t && t.queue == []) &&
    ck [.regs, .hp, .queue] ((hosted []).setSwath 5) (.stampWrite (hdr opSTAMP { addr := 0x800000 + 32 * 700 }) (stampOf 7) [9#32]) (fun _ => true)
      (fun _ t => answered opSTAMP 0 1 [] t && t.queue == [⟨700, 9#32, 7⟩]) &&
    ck portParts { (hosted []).setSwath 5 with queue := List.replicate 64 ⟨700, 1#32, 9⟩ } (.stampWrite (hdr opSTAMP { addr := 0x800000 + 32 * 700 }) (stampOf 7) [9#32]) (fun s => s.queue.length == 64)
      (fun s t => answered opSTAMP 9 0 [] t && up s F.HP_COUNTS2_QUEUE_FULL t && t.queue == s.queue)) = true := by decide +kernel

/-- R376: what is due is deposited, nothing while the window is open. -/
theorem test_stampDeposit : (ck [.sig, .queue] { (hosted []).setSwath 5 with queue := [⟨700, 1#32, 6⟩, ⟨700, 2#32, 7⟩] } .stampDeposit (fun s => !s.pipe.window)
      (fun _ t => t.queue == [⟨700, 2#32, 7⟩] && (t.entry 700).pend == some ⟨1#32, 1, 6, false, true⟩) &&
    same { (hosted []).setSwath 5 with pipe := { window := true }, queue := [⟨700, 1#32, 6⟩] } .stampDeposit (fun s => s.pipe.window)) = true := by decide +kernel

/-- R342, R363: NVM_STAGE takes its data, waits, or is refused. -/
theorem test_nvmStage : (ck [.regs, .boot, .hp] { port [(F.STAGE_STATUS_STATE, 2)] with boot := { slots := two [5#32] [] } } (.nvmStage (hdr opNVM { count := 64 }) (List.replicate 64 7#32))
      (fun s => !s.nvmDenied (hdr opNVM { count := 64 }) && accepted opNVM (hdr opNVM { count := 64 }) s && s.slotRun == 0)
      (fun _ t => answered opNVM 0 64 [] t && t.boot.programming && t.fld F.STAGE_NEXT_NEXT == 256 && decide (t.boot.slots = two [5#32] (List.replicate 64 7#32))) &&
    ck [.hp] { port [(F.STAGE_STATUS_STATE, 2)] with boot := { programming := true } } (.nvmStage (hdr opNVM { count := 64 }) (List.replicate 64 7#32)) (fun _ => true)
      (fun s t => t.hp.writes.length == 1 && t.hp.writes.all fun w => w.limit == s.tick + 9600000) &&
    ck portParts (port []) (.nvmStage (hdr opNVM { count := 64 }) (List.replicate 64 7#32)) (fun s => s.nvmDenied (hdr opNVM { count := 64 })) (fun _ t => refusedWith opNVM 5 t)) = true := by
  decide +kernel

/-- R366: FORCE and RELEASE in bench mode. -/
theorem test_forces : (ck [.regs, .pipe, .hp, .forceNext] { port [(F.BOOT_STATUS_MODE, 2)] with forces := [(700, 1#32), (701, 2#32)] } (.force (hdr opFORCE { addr := 0x800000 + 32 * 700 }) [9#32])
      (fun s => s.bench && forceEntries opFORCE (hdr opFORCE { addr := 0x800000 + 32 * 700 }) == some [700])
      (fun _ t => t.forceNext == some [(701, 2#32), (700, 9#32)] && answered opFORCE 0 1 [] t) &&
    ck [.regs, .pipe, .hp, .forceNext] { port [(F.BOOT_STATUS_MODE, 2)] with forces := [(700, 1#32), (701, 2#32)] } (.release (hdr opRELEASE { count := 2, addr := 0x800000 + 32 * 700 }))
      (fun s => s.bench) (fun _ t => t.forceNext == some [] && answered opRELEASE 0 2 [] t) &&
    ck portParts (port []) (.force (hdr opFORCE { addr := 0x800000 + 32 * 700 }) [9#32]) (fun s => !s.bench) (fun _ t => refusedWith opFORCE 5 t) &&
    ck portParts (port []) (.release (hdr opRELEASE { addr := 0x800000 })) (fun s => !s.bench) (fun _ t => refusedWith opRELEASE 5 t)) = true := by decide +kernel

/-- R13, R16, R348, R548: a plain RW register, one that is none, HP_CFG, VIO above and at 2.5 V and up to 4.0 V. -/
theorem test_registerWrites : (ck [.regs] (base []) (.registerWrite (BitVec.ofNat 24 Reg.GLN_MBR_SEL) 0xFFFFFFFF#32) (fun s => s.blockOff Reg.GLN_MBR_SEL == false)
      (fun _ t => (regRow? Reg.GLN_MBR_SEL).any fun r => (t.reg Reg.GLN_MBR_SEL).toNat == r.wmask) &&
    same (base []) (.registerWrite 0xFFF0 1#32) (fun _ => (regRow? 0xFFF0).isNone) &&
    ck [.regs] (base []) (.hpCfgWrite 6#32) (fun _ => true) (fun _ t => t.fld F.HP_CFG_FLOW == 1 && t.fld F.HP_CFG_LANE == 2) &&
    ck [.regs] (base [(F.HP_CFG_LANE, 1)]) (.hpCfgWrite 3#32) (fun _ => true) (fun _ t => t.fld F.HP_CFG_FLOW == 0 && t.fld F.HP_CFG_LANE == 1) &&
    ck [.regs, .env] (base []) (.vioLevelChange 2501) (fun _ => true) (fun _ t => t.env.vioMv == 2501 && t.flag F.HP_CFG_VIO_HIGH) &&
    ck [.regs, .env] (base [(F.HP_CFG_VIO_HIGH, 1)]) (.vioLevelChange 2500) (fun _ => true) (fun _ t => !t.flag F.HP_CFG_VIO_HIGH) &&
    ck [.regs, .env] (base []) (.vioLevelChange 4000) (fun _ => true) (fun _ t => t.flag F.HP_CFG_VIO_HIGH) &&
    (match exec (.vioLevelChange 4001) (base []) with | .fault f => f == .beyondRatings | _ => false)) = true := by decide +kernel

/-! ## Chain member -/

/-- A member of class 7, layout 2, with bales of 96 bits and a host command entry; HSEL_N as given. -/
def memberDev (low : Bool) (hp : Hp) : State :=
  { port [(F.HP_CFG_MEMBER, 1), (F.HP_HLEN_HLEN, 96)] with
    env := { hselLow := low }, hp := hp, boot := { image := some { word3 := 0x07020000#32 } }, sig := [(700, { src := srcHost })] }

/-- R380, R384: the load of a prepared bale, or BUSY. -/
theorem test_memberBaleLoad : (ck [.env, .hp] (memberDev false { readyAt := some 0, bale := [true, false] }) .memberBaleLoad (fun s => s.asMember && !s.env.hselLow)
      (fun _ t => t.env.hselLow && t.hp.shift == [true, false]) &&
    ck [.env, .hp] (memberDev false {}) .memberBaleLoad (fun s => s.hp.readyAt == none) (fun s t => t.hp.shift == s.memberBale 0xB5 [] && natOfBits (t.hp.shift.take 8) == 0xB5) &&
    same (memberDev true {}) .memberBaleLoad (fun s => s.env.hselLow)) = true := by decide +kernel

/-- R381, R383: a short bale, a wrong CRC, another state, another class, an accepted command; what leaves on the data output. -/
theorem test_memberCommandBale : (ck [.env, .hp] { memberDev true {} with pipe := { window := true } } (.memberCommandBale [true]) (fun s => s.pipe.window && s.hlen == 96)
      (fun _ t => t.hp.reject == some (5, 0) && t.hp.prepare == some 0 && !t.env.hselLow) &&
    ck [.env, .hp] { memberDev true {} with pipe := { window := true } } (.memberCommandBale (List.replicate 96 true)) (fun s => s.pipe.window)
      (fun _ t => t.hp.reject == some (1, 0xFF)) &&
    ck [.env, .hp] { memberDev true {} with pipe := { window := true } } (.memberCommandBale (mkBale 96 0xB5 7 2 5 [1#32])) (fun s => s.pipe.window) (fun _ t => t.hp.reject == some (4, 5)) &&
    ck [.env, .hp] { memberDev true {} with pipe := { window := true } } (.memberCommandBale (mkBale 96 0xA0 7 3 5 [1#32])) (fun s => s.memberClass == (7, 2)) (fun _ t => t.hp.reject == some (2, 5)) &&
    ck [.regs, .env, .hp, .queue] { memberDev true {} with pipe := { window := true } } (.memberCommandBale (mkBale 96 0xA0 7 2 5 [1#32]))
      (fun s => s.baleTarget 5 == s.swath + 5 && s.hostEntries == [700]) (fun s t => t.hp.reject == none && t.queue == [⟨700, 1#32, s.swath + 5⟩]) &&
    ck (.boot :: .queue :: portParts) (memberDev true { shift := [true, true] }) (.memberCommandBale (List.replicate 5 false)) (fun s => s.retimer == 2)
      (fun _ t => t.hp.hdo == [false, false, true, true, false] && !t.env.hselLow) &&
    same (memberDev false {}) (.memberCommandBale []) (fun s => !s.env.hselLow)) = true := by decide +kernel

/-- A flashless member in BOOT. -/
def waiting (hp : Hp) (st : List Word) : State := { base [(F.SYS_STATE_STATE, 1), (F.BOOT_STATUS_MODE, 1)] with hp := hp, boot := { stage := st } }

/-- R420: DATA at the offset it expects and elsewhere, DONE, ABORT. -/
theorem test_delivery : (ck [.boot, .hp] (waiting {} []) (.deliveryData 0 (List.replicate 28 7#32)) (fun s => s.flashless) (fun _ t => t.hp.dstate == 1 && t.boot.stage == List.replicate 28 7#32) &&
    same (waiting {} []) (.deliveryData 28 (List.replicate 28 7#32)) (fun s => s.flashless) &&
    ck [.boot, .hp] (waiting { dstate := 1 } [1#32, 2#32, 3#32]) (.deliveryDone 2) (fun s => s.flashless) (fun _ t => t.hp.dstate == 2 && t.boot.stage == [1#32, 2#32]) &&
    same (waiting { dstate := 2 } [1#32]) (.deliveryDone 1) (fun s => s.hp.dstate == 2) &&
    ck [.boot, .hp] (waiting { dstate := 2 } [1#32]) .deliveryAbort (fun s => s.flashless) (fun _ t => t.hp.dstate == 0 && t.boot.stage == []) &&
    same (base []) .deliveryAbort (fun s => !s.flashless) && same (base []) .deliveryNop (fun _ => true)) = true := by decide +kernel
/-! ## Check-value units and the scrub -/

/-- Unit 1 of mode 1 over 8 bytes of the General area, as given. -/
def unitOf (fs : List (Fld × Nat)) (x : CvuUnit) : State :=
  let s := ((base ((F.CVU_CFG_MODE 1, 1) :: fs)).setReg (Reg.CVU_START 1) 0xFC0000#32).setReg (Reg.CVU_LENGTH 1) 8#32
  { s with cvu := s.cvu.set 1 x, mem := [(0xFC0000, 5#8)] }

/-- R393, R395: a scan starts by its period or its key. -/
theorem test_cvuScanStart : (ck [.regs, .cvu] (unitOf [(F.CVU_TIMING_PERIOD 1, 1)] {}) (.cvuScanStart 1) (fun s => s.tick == s.btick && (s.cvu.get 1).scan == none)
      (fun s t => (t.cvu.get 1).scan == some s.swath && t.flag (F.CVU_ALIVE_SCANNING 1) && (t.cvu.get 0).scan == none) &&
    ck [.regs, .cvu] ((unitOf [] { key := some 0, done := 4 }).setSwath 1) (.cvuScanStart 1) (fun s => (s.cvu.get 1).key.isSome) (fun _ t => (t.cvu.get 1).key == none && (t.cvu.get 1).done == 0) &&
    same (unitOf [] {}) (.cvuScanStart 0) (fun s => s.fld (F.CVU_CFG_MODE 0) != 1)) = true := by decide +kernel

/-- R391, R394: the result of a scan, its check, and the alive value: accepted, repeated, skipped. -/
theorem test_cvuScanPublish : (ck (.cvu :: faultParts) (unitOf [] { scan := some 0 }) (.cvuScanPublish 1) (fun s => s.cvuLength 1 == 8 && s.fld (F.CVU_TIMING_D 1) == 0)
      (fun _ t => t.reg (Reg.CVU_RESULT 1) == crc32cWords [0x05000000#32, 0#32] && (t.cvu.get 1).scan == none) &&
    ck (.cvu :: faultParts) (unitOf [(F.CVU_CFG_CHECK 1, 1)] { scan := some 0, done := 8, crc := 1#32, last := 3#32 }) (.cvuScanPublish 1) (fun s => s.cvuLength 1 <= (s.cvu.get 1).done)
      (fun s t => t.reg (Reg.CVU_RESULT 1) == 0xFFFFFFFE#32 && up s (F.CVU_COUNTS_CRC 1) t && told s (srcCVU 1) kCvuCrc (cvuAddr 1 0xFF) t) &&
    ck (.cvu :: faultParts) (unitOf [(F.CVU_CFG_ALIVE_EN 1, 1)] { scan := some 0, done := 8, alive := 0x2FFFF#32 }) (.cvuScanPublish 1) (fun s => !s.flag (F.CVU_ALIVE_SYNC 1))
      (fun _ t => t.flag (F.CVU_ALIVE_SYNC 1) && t.fld (F.CVU_ALIVE_EXPECT 1) == 0) &&
    ck (.cvu :: faultParts) (unitOf [(F.CVU_CFG_ALIVE_EN 1, 1), (F.CVU_ALIVE_SYNC 1, 1), (F.CVU_ALIVE_EXPECT 1, 8)] { scan := some 0, done := 8, alive := 7#32 }) (.cvuScanPublish 1)
      (fun _ => true) (fun s t => t.fld (F.CVU_ALIVE_EXPECT 1) == 8 && up s (F.CVU_COUNTS_REPEAT 1) t && told s (srcCVU 1) kAliveRepeat (cvuAddr 1 0xFF) t) &&
    ck (.cvu :: faultParts) (unitOf [(F.CVU_CFG_ALIVE_EN 1, 1), (F.CVU_ALIVE_SYNC 1, 1), (F.CVU_ALIVE_EXPECT 1, 8)] { scan := some 0, done := 8, alive := 9#32 }) (.cvuScanPublish 1)
      (fun _ => true) (fun s t => up s (F.CVU_COUNTS_SKIP 1) t && told s (srcCVU 1) kAliveSkip (cvuAddr 1 0xFF) t) &&
    same (unitOf [] {}) (.cvuScanPublish 1) (fun s => (s.cvu.get 1).scan == none)) = true := by decide +kernel

/-- R395, R398: the key waits or is lost; a session is written sealed. -/
theorem test_cvuKeys : (ck [.pipe, .cvu] (unitOf [] {}) (.cvuScanKey 1) (fun s => s.fld (F.CVU_TIMING_PERIOD 1) == 0) (fun _ t => (t.cvu.get 1).key.isSome) &&
    ck [.regs, .pipe] (unitOf [] { key := some 0 }) (.cvuScanKey 1) (fun _ => true) (fun s t => up s (F.CVU_COUNTS_TRIG_LOST 1) t) &&
    same (unitOf [(F.CVU_TIMING_PERIOD 1, 3)] {}) (.cvuScanKey 1) (fun s => s.fld (F.CVU_TIMING_PERIOD 1) != 0) &&
    ck [.regs] (base [(F.CVU_CFG_MODE 2, 2), (F.CVU_ALIVE_SYNC 2, 1), (F.CVU_ALIVE_EXPECT 2, 4)]) (.cvuSessionWrite 2 9#32 true) (fun _ => true)
      (fun _ t => t.reg (Reg.CVU_SESSION 2) == 9#32 && !t.flag (F.CVU_ALIVE_SYNC 2) && t.fld (F.CVU_ALIVE_EXPECT 2) == 0) &&
    same (base [(F.CVU_CFG_MODE 2, 2)]) (.cvuSessionWrite 2 9#32 false) (fun _ => true)) = true := by decide +kernel

/-- R300, R301, R302: the scrub goes on, wraps, corrects, finds an error in the General area and in the signal table. -/
theorem test_scrub : (ck [.regs, .scrub] (base []) (.scrubSlot { found := 0 }) (fun s => s.scrub == 0) (fun s t => t.scrub == 1 && t.regs == s.regs) &&
    ck [.regs, .scrub] { base [] with scrub := 0xFFFFF } (.scrubSlot { found := 0 }) (fun _ => true) (fun _ t => t.scrub == 0 && t.reg Reg.GRN_SCRUB == 1#32) &&
    ck (.scrub :: faultParts) (base []) (.scrubSlot { found := 1 }) (fun s => firstOf s srcGRN kGrnEccCorr (faultAddr 0 0)) (fun s t => up s F.GRN_ECC_CORR t && told s srcGRN kGrnEccCorr (faultAddr 0 0) t) &&
    ck (.scrub :: .mem :: .sr :: .gln :: faultParts) { base [] with scrub := 0xF8001, mem := [(0xFC0008, 5#8), (0xFC0010, 6#8)] } (.scrubSlot { found := 2 }) (fun s => areaOf (0x800000 + 8 * s.scrub) == 6)
      (fun s t => t.mem == [(0xFC0010, 6#8)] && t.fld F.GRN_ECC_ADDR_AREA == 6 && up s F.GRN_ECC_UNCORR t && told s srcGRN kGrnDataLost (faultAddr 6 1) t) &&
    ck (.scrub :: .mem :: .sr :: .gln :: faultParts) (base []) (.scrubSlot { found := 2 }) (fun s => areaOf (0x800000 + 8 * s.scrub) == 0)
      (fun s t => told s srcGRN kGrnUncorr (faultAddr 0 0) t) &&
    same { base [] with pwr := { mode := 4 } } (.scrubSlot { found := 1 }) (fun s => s.pwr.mode == 4)) = true := by decide +kernel

/-! ## Spare slice, sequencer and fingerprints -/

/-- Half 0 with a background table whose entry 0 has the given first word, the sequencer as given. -/
def seqDev (w0 : Word) (fs : List (Fld × Nat)) (q : Seq) : State :=
  { ((fn 2 ([(F.SEQ_CFG_LEN 0, 2), (F.SEQ_CFG_BG_LEN 0, 1), (F.SEQ_STATUS_STATE 0, 1), (F.BD_STATUS_LINK 0, 2)] ++ fs) id).setReg
    (Reg.SEQ_TABLE_W0 0 0) w0).updHalf 0 fun x => { x with seq := q, mailOk := true } with env := { pll := true, linkIdle := false } }

/-- R174, R176, R184, R185, R190: a pause, a comparison with an old set and with a fresh one, an internal quantity, a refused DAC test. -/
theorem test_seqEntryStart : (ck [.regs, .halves] (seqDev 0x00000100#32 [] {}) (.seqEntryStart 0) (fun s => s.phase == 0 && s.seqOp 0 0 == 0 && (s.seqOf 0).due <= s.tick)
      (fun _ t => (t.seqOf 0).running && (t.seqOf 0).stage == .nop && t.seqEntry 0 == 0) &&
    ck [.regs, .halves] (seqDev 0x13000100#32 [] {}) (.seqEntryStart 0) (fun s => s.seqCh 0 0 == 3 && s.setOld 0 (s.func 3, 0)) (fun _ t => (t.seqOf 0).stage == .selfZero && (t.seqOf 0).selfLeft == [(2, 0)]) &&
    ck [.regs, .halves] ((seqDev 0x13000100#32 [] {}).updHalf 0 fun x => { x with sets := [⟨2, 0, {}, some 0⟩] }) (.seqEntryStart 0) (fun s => !s.setOld 0 (s.func 3, 0))
      (fun _ t => (t.seqOf 0).stage == .shadow && t.fld (F.SEQ_STATUS_STEP 0) == 1 && t.fld (F.SPR_STATUS_MODE 0) == 1 && t.fld (F.SPR_STATUS_TARGET 0) == 3) &&
    ck [.regs, .halves] (seqDev 0x40050100#32 [] {}) (.seqEntryStart 0) (fun s => s.seqOp 0 0 == 4) (fun _ t => (t.seqOf 0).stage == .int && t.fld (F.SPR_STATUS_MODE 0) == 3 && t.fld (F.SPR_STATUS_CODE 0) == 5) &&
    ck faultParts (seqDev 0x33000100#32 [(F.CH_CFG_FUNC 3, fAOI)] {}) (.seqEntryStart 0) (fun s => s.seqOp 0 0 == 3 && s.tdacRefused 3)
      (fun s t => !(t.seqOf 0).running && up s (F.SEQ_COUNTS_REFUSED 0) t && told s (srcTHR 0) kTestRefused (faultAddr 63 3) t) &&
    same (seqDev 0#32 [] { due := 1 }) (.seqEntryStart 0) (fun s => s.tick < (s.seqOf 0).due)) = true := by decide +kernel

/-- R177, R178: step 1 at its limit, unjudged and unjudged for the 16th time. -/
theorem test_shadowVerdict : (ck [.regs, .halves] (seqDev 0#32 [] { cmp := some (3, 1, some 8388) }) (.shadowVerdict 0) (fun _ => true) (fun _ t => (t.seqOf 0).cmp == none) &&
    ck faultParts (seqDev 0#32 [] { cmp := some (3, 1, some (-8389)) }) (.shadowVerdict 0) (fun _ => true) (fun s t => (t.seqOf 0).cmp == none && told s (srcTHR 0) kShadowMismatch (faultAddr 1 3) t) &&
    ck [.regs, .halves] (seqDev 0#32 [] { cmp := some (3, 1, none) }) (.shadowVerdict 0) (fun _ => true) (fun _ t => (t.seqOf 0).unjudged == 1 && (t.seqOf 0).stage == .shadow) &&
    ck [.regs, .halves] (seqDev 0#32 [] { cmp := some (3, 1, none), unjudged := 15 }) (.shadowVerdict 0) (fun _ => true) (fun s t => (t.seqOf 0).ending && (t.seqOf 0).skip && up s (F.SEQ_COUNTS_SKIPPED 0) t)) = true := by decide +kernel

/-- R179: step 4 passes, is repeated, fails. -/
theorem test_step4Verdict : (ck [.regs, .chans, .halves] (seqDev 0x13000100#32 [(F.SPR_CHSTAT_UNCAL 3, 1)] { cmp := some (3, 4, some 1677) }) (.step4Verdict 0) (fun s => s.target 0 == 3)
      (fun _ t => (t.seqOf 0).ending && !t.flag (F.SPR_CHSTAT_UNCAL 3)) &&
    ck faultParts (seqDev 0x13000100#32 [] { cmp := some (3, 4, some 8389) }) (.step4Verdict 0) (fun _ => true)
      (fun s t => (t.seqOf 0).redo && (t.seqOf 0).attempt == 2 && told s (srcTHR 0) kShadowMismatch (faultAddr 4 3) t) &&
    ck faultParts (seqDev 0x13000100#32 [] { cmp := some (3, 4, some 1678), attempt := 2 }) (.step4Verdict 0) (fun _ => true)
      (fun s t => t.fld (F.SEQ_STATUS_STATE 0) == 3 && t.fld (F.SPR_STATUS_MODE 0) == 4 && t.flag (F.SPR_CHSTAT_PARKED 3) && told s (srcTHR 0) kCalFail (faultAddr 63 3) t)) = true := by decide +kernel

/-- R187, R189, R179: the DAC check, the trigger, the end of a park. -/
theorem test_seqKeys : (ck [.halves] (seqDev 0#32 [] { dacRes := some (3, 8388, 0) }) (.tdacCheck 0) (fun _ => true) (fun _ t => (t.seqOf 0).dacRes == none) &&
    ck faultParts (seqDev 0#32 [] { dacRes := some (3, 0, 8389) }) (.tdacCheck 0) (fun _ => true) (fun s t => told s (srcTHR 0) kTdacFail (faultAddr 63 3) t) &&
    same (seqDev 0#32 [] {}) (.tdacCheck 0) (fun _ => true) &&
    ck [.regs, .pipe, .halves] (seqDev 0#32 [] {}) (.seqGo 0) (fun _ => true) (fun _ t => (t.seqOf 0).wait) &&
    ck [.regs, .pipe, .halves] (seqDev 0#32 [] { wait := true }) (.seqGo 0) (fun _ => true) (fun _ t => t.flag (F.SEQ_STATUS_PENDING 0)) &&
    ck [.regs, .pipe, .halves] (seqDev 0#32 [(F.SEQ_STATUS_PENDING 0, 1)] { wait := true }) (.seqGo 0) (fun _ => true) (fun s t => up s (F.SEQ_COUNTS_TRIG_LOST 0) t) &&
    ck [.pipe, .halves] (seqDev 0#32 [(F.SEQ_STATUS_STATE 0, 3)] {}) (.sprParkEnd 0) (fun _ => true) (fun _ t => (t.seqOf 0).ending) &&
    same (seqDev 0#32 [] {}) (.sprParkEnd 0) (fun _ => true)) = true := by decide +kernel

/-- A capture of 256 samples: µA, mV, twice the midpoint in ticks. -/
def shot (e : Bool) (v : Int) (low : Bool) (peak : Int) : Capture :=
  { start := 0, energise := e, lowv := low, samples := (List.range 256).map fun (j : Nat) =>
      (if j = 20 then peak else 1000 * (j : Int), if 50 ≤ j then v else -30000, 960 * j) }

/-- A capture with its voltage from the first sample. -/
def shotUp (peak : Int) : Capture :=
  { start := 0, energise := true, samples := (List.range 256).map fun (j : Nat) => (if j = 20 then peak else 1000 * (j : Int), 24000, 960 * j) }

/-- R195, R196, R198, R199: a capture with its dip, one without, a low supply, a de-energisation; one not full. -/
theorem test_fpCaptureDone : (ck [.regs, .chans, .sr, .free] (fn 3 [(F.FP_CFG_DIP_H 3, 50), (F.FP_STAT_CAPTURES 3, 65535)] fun x => { x with capture := some (shotUp 40000) }) (.fpCaptureDone 3)
      (fun s => (shotUp 40000).dip (s.dipH 3) == some 20) (fun _ t => (t.chan 3).capture == none && t.fld (F.FP_STAT_CAPTURES 3) == 0 && t.fld (F.FP_PULL_T_PULL 3) == 200 && !t.flag (F.FP_STAT_NO_DIP 3)) &&
    ck [.regs, .chans, .sr, .free] (fn 3 [(F.FP_CFG_DIP_H 3, 50)] fun x => { x with capture := some (shotUp 20000) }) (.fpCaptureDone 3)
      (fun s => (shotUp 20000).dip (s.dipH 3) == none && 64000 <= sum8 (shotUp 20000).v) (fun _ t => t.flag (F.FP_STAT_NO_DIP 3) && t.reg (Reg.FP_PULL 3) == 0#32) &&
    ck [.regs, .chans, .sr, .free] (fn 3 [] fun x => { x with capture := some (shot true 0 true 0) }) (.fpCaptureDone 3) (fun _ => true)
      (fun s t => t.flag (F.FP_STAT_LOWV 3) && t.reg (Reg.FP_PULL 3) == s.reg (Reg.FP_PULL 3)) &&
    ck [.regs, .chans, .sr, .free] (fn 3 [(F.FP_CFG_DIP_H 3, 50)] fun x => { x with capture := some (shot false (-1999) false 0) }) (.fpCaptureDone 3) (fun _ => true)
      (fun _ t => t.fld (F.FP_DROP_T_DROP 3) == 500 && !t.flag (F.FP_STAT_NO_DROP 3)) &&
    ck [.regs, .chans, .sr, .free] (fn 3 [(F.FP_CFG_DIP_H 3, 50)] fun x => { x with capture := some (shot false (-2000) false 0) }) (.fpCaptureDone 3) (fun _ => true)
      (fun _ t => t.flag (F.FP_STAT_NO_DROP 3)) &&
    same (fn 3 [] fun x => { x with capture := some { start := 0, energise := true } }) (.fpCaptureDone 3) (fun _ => true)) = true := by decide +kernel

/-- Channel 3 after its energisation: 0.5 A from 24 V over 100 samples of the fast bank; its part stands in slot 2 with a baseline. -/
def heldCoil (b : Nat × Nat × Nat × Nat) (f : Chan → Chan) : State :=
  let s := (fn 3 [(F.THR_FB_CNT_COUNT 3, 100), (F.THR_FB_SEC_SEC 3, 16384)] fun x => f { x with holdFrom := some 0, closed := true, l0ok := true }).setReg (Reg.THR_FB_SUM_LO 3) 409600#32
  (s.setReg (Reg.FP_L0 3) 1000#32).updSlot 2 fun x => { x with state := 1, target := 3, base := some b }

/-- R197, R200: 0.5 A and 24 V give 48 ohms, at 20 °C R20 as well; inside and outside the limits of the baseline, and without one. -/
theorem test_fpHold : (ck (.chans :: .sr :: .free :: faultParts) (heldCoil (48000, 1000, 0, 0) id) (.fpHoldFeatures 3) (fun s => s.baseline 3 == some (48000, 1000, 0, 0) && s.slotsOf 3 == [2])
      (fun _ t => (t.chan 3).holdFrom == none && (t.chan 3).rHot == some 48000 && t.reg (Reg.FP_R20 3) == 48000#32 && t.fld (F.FP_HOLD_I_HOLD 3) == 5000 && t.fld (F.FP_HOLD_V_HOLD 3) == 24000 &&
        !t.flag (F.FP_STAT_OUT 3)) &&
    ck (.chans :: .sr :: .free :: faultParts) (heldCoil (44445, 1000, 0, 0) id) (.fpHoldFeatures 3) (fun _ => true) (fun _ t => !t.flag (F.FP_STAT_OUT 3)) &&
    ck (.chans :: .sr :: .free :: faultParts) (heldCoil (48000, 869, 0, 0) id) (.fpHoldFeatures 3) (fun _ => true)
      (fun s t => t.flag (F.FP_STAT_OUT 3) && (t.sr.slots.get 2).doubt && told s (srcTHR 0) kPartChanged (faultAddr 63 3) t) &&
    same { heldCoil (48000, 1000, 0, 0) id with pipe := { window := true } } (.fpHoldFeatures 3) (fun s => s.pipe.window) &&
    same (fn 3 [] id) (.fpHoldFeatures 3) (fun s => (s.chan 3).holdFrom == none)) = true := by decide +kernel
/-! ## Gleaner -/

/-- A head in SAFE whose segment 1 has two positions with bales of 96 bits, and one accepting descriptor of class 7 with one value. -/
def head (fs : List (Fld × Nat)) (g : Seg → Seg) : State :=
  let s := base ([(F.SYS_STATE_STATE, 2), (F.GLN_CFG_HEAD, 1), (F.GLN_SEG_CFG_EN 1, 1), (F.GLN_SEG_CFG_HLEN 1, 96), (F.GLN_SEG_SCHED_N 1, 2)] ++ fs)
  let s := { s with gln := { segs := s.gln.segs.upd 1 g, descs := [{ cls := 7, layout := 2, compat := 1, cmds := [], vals := 1 }] } }
  { s with sig := [(900, { src := srcMember 1 1 }), (901, { src := srcMember 1 2, value := 6#32 })] }

/-- R407, R409, R411: a due scan starts with zeros after the echo word; late without GRDY; not outside its swath. -/
theorem test_gleanerScanStart : (ck [.regs, .gln] (head [] id) (.gleanerScanStart 1 true) (fun s => s.scanning && s.scanDue 1 s.swath && (s.gln.segs.get 1).scan == none)
      (fun s t => t.reg (Reg.GLN_SEG_START 1) == 960#32 && t.fld F.GLN_STATUS_STATE == 1 && t.fld F.GLN_STATUS_SEG == 1 && t.reg (Reg.GLN_SEG_SCANS 1) == 1#32 &&
        (t.gln.segs.get 1).scan == some s.swath && (t.gln.segs.get 1).started && t.gln.sent == bitsOf 64 echoWord ++ List.replicate (2 + 96 + 2 + 96) false) &&
    ck (.gln :: faultParts) (head [] id) (.gleanerScanStart 1 false) (fun s => s.segN 1 == 2)
      (fun s t => (t.gln.segs.get 1).land == some (s.swath, true, true) && up s (F.GLN_SEG_COUNTS_SCAN_LATE 1) t && told s (srcGLN 1) kScanLate (glnAddr 1 0) t &&
        (t.member 1 1).fails == 1 && (t.member 1 2).fails == 1) &&
    same (head [(F.GLN_SEG_SCHED_PERIOD 1, 1), (F.GLN_SEG_SCHED_PHASE 1, 1)] id) (.gleanerScanStart 1 true) (fun s => !s.scanDue 1 s.swath)) = true := by decide +kernel

/-- What comes back: zeros for the retimer, the bale of position 1 after that of position 2, the echo word. -/
def stream (b1 b2 : List Bool) : List Bool := [false, false] ++ b2 ++ [false, false] ++ b1 ++ bitsOf 64 echoWord

/-- The found state of segment 1. -/
def found : List (Fld × Nat) := [(F.GLN_SEG_STATE_LAT 1, 0), (F.GLN_SEG_STATE_FOUND 1, 2), (F.GLN_SEG_STATE_STATE 1, 2)]

/-- R412, R421: bales land; one with a wrong CRC fails. -/
theorem test_scanLanding : (ck (.cvu :: .gln :: faultParts) (head found fun x => { x with scan := some 0, started := true }) (.scanLanding 1 (stream (mkBale 96 0xA0 7 2 5 [9#32]) (List.replicate 96 true)) 0 none)
      (fun s => !(s.gln.segs.get 1).scanEnum && s.segR 1 == 2 && echoAt (stream (mkBale 96 0xA0 7 2 5 [9#32]) (List.replicate 96 true)) (2 * 98) && (s.descFor 1 1 7 2).isSome)
      (fun _ t => (t.gln.segs.get 1).scan == none && (t.gln.segs.get 1).land == some (0, false, true) && (t.gln.segs.get 1).lastRun == some 0 && t.fld (F.GLN_SEG_STATE_STATE 1) == 2 &&
        (t.member 1 1).state == 1 && (t.member 1 1).cls == 7 && ((t.member 1 1).data.map fun d => d.1) == some [9#32] && (t.member 1 2).fails == 1 && (t.member 1 2).data == none) &&
    same (head found id) (.scanLanding 1 [] 0 none) (fun s => (s.gln.segs.get 1).scan == none)) = true := by decide +kernel

/-- R413, R414, R423: no strobe, a late strobe, no echo, an enumeration that finds nothing. -/
theorem test_scanLanding_broken : (ck (.cvu :: .gln :: faultParts) (head found fun x => { x with scan := some 0, started := true }) (.scanLanding 1 [] 1 none) (fun _ => true)
      (fun s t => up s (F.GLN_SEG_COUNTS_BROKEN 1) t && told s (srcGLN 1) kChainBroken (glnAddr 1 0) t && t.fld (F.GLN_SEG_STATE_STATE 1) == 3 && (t.gln.segs.get 1).enumNext &&
        (t.member 1 2).fails == 1 && (t.gln.segs.get 1).land == some (0, false, true)) &&
    ck (.cvu :: .gln :: faultParts) (head found fun x => { x with scan := some 0, started := true }) (.scanLanding 1 [] 2 none) (fun _ => true)
      (fun s t => (t.gln.segs.get 1).land == some (0, true, true) && told s (srcGLN 1) kScanLate (glnAddr 1 0) t && (t.member 1 1).fails == 1) &&
    ck (.cvu :: .gln :: faultParts) (head found fun x => { x with scan := some 0, started := true }) (.scanLanding 1 [true] 0 none) (fun s => !echoAt [true] (2 * 98) && s.segR 1 == 2)
      (fun s t => told s (srcGLN 1) kChainBroken (glnAddr 1 0) t) &&
    ck (.cvu :: .gln :: faultParts) (head found fun x => { x with scan := some 0, scanEnum := true }) (.scanLanding 1 [] 0 none) (fun s => s.enumerate 1 [] == none)
      (fun s t => told s (srcGLN 1) kChainBroken (glnAddr 1 0) t && t.fld (F.GLN_SEG_STATE_FOUND 1) == 0)) = true := by decide +kernel

/-- R414: an enumeration finds two members; a later one finds a changed chain. -/
theorem test_scanLanding_enum : (ck (.cvu :: .gln :: faultParts) (head [] fun x => { x with scan := some 0, scanEnum := true, scanFirst := true, started := true })
      (.scanLanding 1 (stream (mkBale 96 0xA0 7 2 5 [9#32]) (mkBale 96 0xA0 7 2 5 [9#32])) 0 none)
      (fun s => s.enumerate 1 (stream (mkBale 96 0xA0 7 2 5 [9#32]) (mkBale 96 0xA0 7 2 5 [9#32])) == some (0, 2))
      (fun _ t => t.fld (F.GLN_SEG_STATE_LAT 1) == 0 && t.fld (F.GLN_SEG_STATE_FOUND 1) == 2 && t.fld (F.GLN_SEG_STATE_STATE 1) == 2 && (t.gln.segs.get 1).land == some (0, false, false)) &&
    ck (.cvu :: .gln :: faultParts) (head [(F.GLN_SEG_STATE_FOUND 1, 1)] fun x => { x with scan := some 0, scanEnum := true, started := true, known := true })
      (.scanLanding 1 (stream (mkBale 96 0xA0 7 2 5 [9#32]) (mkBale 96 0xA0 7 2 5 [9#32])) 0 none) (fun _ => true)
      (fun s t => told s (srcGLN 1) kChainChanged (glnAddr 1 0) t && (t.gln.segs.get 1).land == some (0, false, false))) = true := by decide +kernel

/-- R422: a fold of the scan of the swath before: what landed, STALE where nothing did; nothing of a scan that is not folded, or of another swath. -/
theorem test_foldBlock : (ck (.cvu :: .gln :: faultParts) ((head found fun x => { x with land := some (0, false, true), members := [(1, { heard := true, cls := 7, layout := 2, data := some ([9#32], [2]) })] }).setSwath 1)
      (.foldBlock 1 0 960) (fun s => s.glnOn && s.foldCount 1 1 == 1 && s.runOf 1 1 == [900])
      (fun s t => (t.member 1 1).data == none && (t.entry 900).pend == some ⟨9#32, withValid (2 ||| qb qMEMBER true), s.swath + 1, false, true⟩ &&
        (t.entry 901).pend == some ⟨6#32, withBits 0 (qb qSTALE true), s.swath + 1, false, true⟩) &&
    ck (.cvu :: faultParts) ((head found fun x => { x with land := some (0, false, false) }).setSwath 1) (.foldBlock 1 0 960) (fun _ => true) (fun s t => t.swath == s.swath && (t.entry 900).pend == none) &&
    same ((head found fun x => { x with land := some (0, false, true) }).setSwath 2) (.foldBlock 1 0 0) (fun s => s.swath == 2) &&
    same ((head found fun x => { x with land := some (0, false, true) }).setSwath 1) (.foldBlock 1 1 0) (fun s => s.segN 1 <= 32)) = true := by decide +kernel

/-- A head that delivers class 7, layout 2 to position 1, with a digest. -/
def delivers (d : List Word) : State :=
  let s := head [] id
  { s with gln := { s.gln with posWords := [(257, 0x07020000#32)], classes := [{ cls := 7, layout := 2, compat := 1, offset := 0, length := 16, digest := d }] }
           boot := { slots := two [1#32, 2#32, 12#32, 4#32] [] } }

/-- R426: the digest of a class image is right or wrong; no class is delivered to position 2. -/
theorem test_classImageRead : (ck [.gln] (delivers (sha256 [0, 0, 0, 1, 0, 0, 0, 2, 0, 0, 0, 12])) (.classImageRead 1 1) (fun s => s.deliverEntry 1 1 == some 0) (fun _ t => t.gln.read == [(0, true)]) &&
    ck (.gln :: faultParts) (delivers []) (.classImageRead 1 1) (fun _ => true) (fun s t => t.gln.read == [(0, false)] && told s (srcGLN 1) kClassDigest (glnAddr 1 1) t) &&
    same (delivers []) (.classImageRead 1 2) (fun s => s.deliverEntry 1 2 == none)) = true := by decide +kernel

/-! ## Yoke -/

/-- A device of a Yoke mode, lead or follower, in SAFE. -/
def yoked (mode : Nat) (lead : Bool) (fs : List (Fld × Nat)) (y : Yk) : State :=
  { base ((F.SYS_STATE_STATE, 2) :: fs) with boot := { image := some { yoke := mode, digest := List.replicate 8 5#32 }, lead := lead }, yk := y }

/-- R436, R437: a join starts, is retried, runs out. -/
theorem test_joins : (ck [.regs, .yk] (yoked 2 true [] { confirmed := true }) .joinStart (fun s => s.yokeOn && s.isSafe)
      (fun s t => t.fld F.YK_STATUS_STATE == 1 && t.yk.helloAt == some s.swath && !t.yk.confirmed) &&
    same (yoked 0 true [] {}) .joinStart (fun s => !s.yokeOn) && same (yoked 2 true [(F.YK_STATUS_STATE, 5)] {}) .joinStart (fun _ => true) &&
    ck [.regs, .sig, .yk] (yoked 2 true [(F.YK_STATUS_STATE, 5), (F.YK_STATUS_CLAIM, 1)] {}) .joinRetry (fun _ => true) (fun _ t => t.fld F.YK_STATUS_STATE == 1 && !t.flag F.YK_STATUS_CLAIM) &&
    same (yoked 2 true [] {}) .joinRetry (fun s => s.fld F.YK_STATUS_STATE != 5) &&
    ck faultParts ((yoked 2 true [(F.YK_STATUS_STATE, 1)] { helloAt := some 0 }).setSwath 40) .joinTimeout (fun s => !s.flag F.YK_STATUS_LINK_OK)
      (fun s t => t.fld F.YK_STATUS_STATE == 5 && t.fld F.YK_STATUS_REASON == 1 && t.flag F.YK_STATUS_CLAIM && t.yk.helloAt == none && told s srcYK kYokeMismatch (faultAddr 63 1) t) &&
    ck faultParts ((yoked 2 true [(F.YK_STATUS_STATE, 3), (F.YK_STATUS_LINK_OK, 1)] { helloAt := some 0 }).setSwath 40) .joinTimeout (fun _ => true) (fun _ t => t.fld F.YK_STATUS_REASON == 7) &&
    same ((yoked 2 true [(F.YK_STATUS_STATE, 1)] { helloAt := some 0 }).setSwath 39) .joinTimeout (fun s => s.swath < 40)) = true := by decide +kernel

/-- The words of a frame with its CRC. -/
def frame48 (w0 w2 : Word) (payload : List Word) : List Word :=
  let ws := [w0, 0#32, w2] ++ payload ++ List.replicate (44 - payload.length) 0#32
  ws ++ [crc32cWords ws]

/-- R432, R439: no frame, and a second bad slot-0 frame of a joined follower. -/
theorem test_yokeFrame_bad : (ck [.regs, .yk] (yoked 2 true [] {}) (.yokeFrame 3 none 0) (fun _ => true) (fun s t => t.yk.rxBad == 1 && up s F.YK_COUNTS_INVALID t) &&
    ck [.regs, .yk] (yoked 2 false [(F.YK_STATUS_STATE, 4)] {}) (.yokeFrame 0 (some (List.replicate 48 0#32)) 0) (fun s => s.joined && !yokeValid 0 (List.replicate 48 0#32)) (fun _ t => t.yk.slot0Bad == 1 && t.joined) &&
    ck faultParts (yoked 2 false [(F.YK_STATUS_STATE, 4)] { slot0Bad := 1 }) (.yokeFrame 0 none 0) (fun _ => true) (fun s t => t.fld F.YK_STATUS_STATE == 6 && told s srcYK kYokeAlign (faultAddr 63 63) t) &&
    same (yoked 0 true [] {}) (.yokeFrame 3 none 0) (fun s => !s.yokeOn)) = true := by decide +kernel

/-- R432, R441: an idle frame, a part of the block, DRIVING as a sign of life. -/
theorem test_yokeFrame_good : (ck [.regs, .yk] (yoked 2 true [(F.YK_STATUS_STATE, 4)] { life := some 7 }) (.yokeFrame 3 (some (frame48 0xBC340003#32 0#32 [])) 0) (fun _ => yokeValid 3 (frame48 0xBC340003#32 0#32 []))
      (fun s t => t.yk.lastFrame == some s.tick && t.yk.life == some 7 && t.flag F.YK_STATUS_LINK_OK && t.flag F.YK_STATUS_PARTNER_READY && t.yk.rx == []) &&
    ck [.regs, .yk] (yoked 2 true [(F.YK_STATUS_STATE, 4)] {}) (.yokeFrame 3 (some (frame48 0xBC200003#32 0#32 [8#32])) 0) (fun _ => true)
      (fun _ t => t.yk.rx == [(3, 8#32 :: List.replicate 43 0#32)] && !t.flag F.YK_STATUS_PARTNER_READY) &&
    ck [.regs, .yk] (yoked 2 true [] {}) (.yokeFrame 3 (some (frame48 0xBC200003#32 0#32 [8#32])) 0) (fun s => !s.joined) (fun _ t => t.yk.rx == []) &&
    ck faultParts (yoked 3 true [] {}) (.yokeFrame 3 (some (frame48 0xBC380003#32 0#32 [])) 0) (fun _ => true) (fun s t => t.yk.life == some s.tick)) = true := by decide +kernel

/-- R436, R437: a HELLO of the same strap is refused, the partner's own is taken. -/
theorem test_yokeHello : (ck faultParts (yoked 2 true [(F.YK_STATUS_STATE, 1)] { helloAt := some 0 }) (.yokeFrame 3 (some (frame48 0xBC100003#32 0#32 (yoked 2 true [] {}).helloWords)) 0)
      (fun _ => !(parseHello (yoked 2 true [] {}).helloWords).follower)
      (fun s t => t.fld F.YK_STATUS_STATE == 5 && t.fld F.YK_STATUS_REASON == 2 && told s srcYK kYokeMismatch (faultAddr 63 2) t) &&
    ck [.regs, .yk] (yoked 2 true [(F.YK_STATUS_STATE, 1)] { helloAt := some 0 }) (.yokeFrame 3 (some (frame48 0xBC100003#32 0#32 (yoked 2 false [] {}).helloWords)) 0)
      (fun s => s.judgeHello (parseHello (yoked 2 false [] {}).helloWords) == 0) (fun _ t => t.fld F.YK_STATUS_STATE == 2 && t.yk.hello.isSome)) = true := by decide +kernel

/-- R439: a joined follower takes its length from the lead's slot-0 frame, 2 ticks late at most. -/
theorem test_yokeSlotZero : (ck [.regs, .yk] (yoked 2 false [(F.YK_STATUS_STATE, 4)] { lead := some (0, 0, 24000), slot0Bad := 1, alignBad := 2 }) (.yokeFrame 0 (some (frame48 0xBC300000#32 24000#32 [])) 2)
      (fun s => s.joined && s.btick == 0) (fun _ t => t.fld F.TB_PHASE_LENGTH == 24002 && t.yk.alignBad == 0 && t.yk.slot0Bad == 0)) = true := by decide +kernel

/-- R433, R453: a heartbeat in its window, one outside it, one that finds the link dead. -/
theorem test_ybeatEdge : (ck [.regs, .yk] ((yoked 2 true [] { lastEdge := some 0 }).setTick 88) .ybeatEdge (fun s => !s.joined)
      (fun s t => t.yk.life == some s.tick && t.yk.lastEdge == some 88 && t.flag F.YK_STATUS_BEAT_OK) &&
    ck [.yk] ((yoked 2 true [] { lastEdge := some 0 }).setTick 105) .ybeatEdge (fun _ => true) (fun _ t => t.yk.lastEdge == some 105 && t.yk.life == none) &&
    ck faultParts ((yoked 2 true [(F.YK_STATUS_STATE, 4), (F.YK_STATUS_LINK_OK, 1)] { lastEdge := some 0 }).setTick 104) .ybeatEdge (fun s => s.deadSince s.yk.lastFrame)
      (fun s t => !t.flag F.YK_STATUS_LINK_OK && told s srcYK kYokePath (faultAddr 63 1) t) &&
    same (yoked 0 true [] {}) .ybeatEdge (fun s => !s.yokeOn)) = true := by decide +kernel

/-- R446, R450, R453: YFLT_N low: not joined, in Mirror with the partner alive, in Stand-in alive and dead; its own assertion. -/
theorem test_yfltLow : (ck [.regs] (yoked 2 true [] {}) .yfltLow (fun s => !s.joined) (fun _ t => t.flag F.YK_STATUS_YFLT) &&
    ck faultParts (yoked 2 true [(F.YK_STATUS_STATE, 4)] { life := some 0 }) .yfltLow (fun s => s.tick < 384)
      (fun s t => told s srcYK kYokePartnerSafe (faultAddr 63 63) t && told s srcYK kYokePath (faultAddr 63 2) t) &&
    ck faultParts (yoked 3 true [(F.YK_STATUS_STATE, 4)] { life := some 0 }) .yfltLow (fun _ => true) (fun s t => told s srcYK kYokePath (faultAddr 63 2) t && t.yk.yfltAt == none) &&
    ck [.regs, .yk] (yoked 3 true [(F.YK_STATUS_STATE, 4)] {}) .yfltLow (fun s => s.yk.life == none) (fun s t => t.yk.yfltAt == some s.tick) &&
    same { yoked 2 true [] {} with env := { yfltOut := true } } .yfltLow (fun s => s.env.yfltOut)) = true := by decide +kernel

/-- R446, R450: no sign of life: lost, or left to a READY stand-in's takeover; a stand-in that is not READY. -/
theorem test_lifeLoss : (ck faultParts (yoked 2 true [(F.YK_STATUS_STATE, 4), (F.YK_STATUS_BEAT_OK, 1)] {}) .signOfLifeLoss (fun s => s.joined && s.deadSince s.yk.life && !s.standby)
      (fun s t => t.fld F.YK_STATUS_STATE == 6 && !t.flag F.YK_STATUS_BEAT_OK && told s srcYK kYokeLost (faultAddr 63 63) t) &&
    ck [.regs] (yoked 3 true [(F.YK_STATUS_STATE, 4), (F.YK_STATUS_READY, 1), (F.YK_STATUS_BEAT_OK, 1)] {}) .signOfLifeLoss (fun s => s.standby) (fun _ t => !t.flag F.YK_STATUS_BEAT_OK && t.joined) &&
    same (yoked 2 true [(F.YK_STATUS_STATE, 4)] { life := some 0 }) .signOfLifeLoss (fun s => !s.deadSince s.yk.life) &&
    ck [.regs, .yk] (yoked 3 true [(F.YK_STATUS_STATE, 4), (F.YK_STATUS_READY, 1)] {}) .yokeTakeover (fun s => s.standby && s.releaseDue && s.fld F.FC_STATUS_PENDING == 0) (fun _ t => t.yk.releasing) &&
    ck faultParts (yoked 3 true [(F.YK_STATUS_STATE, 4)] {}) .yokeTakeover (fun s => !s.flag F.YK_STATUS_READY) (fun s t => t.fld F.YK_STATUS_STATE == 6 && told s srcYK kYokeLost (faultAddr 63 63) t) &&
    same (yoked 2 true [(F.YK_STATUS_STATE, 4)] {}) .yokeTakeover (fun s => !s.standby)) = true := by decide +kernel

/-- R449: YFLT_N after a drive: at once without an armed keeper, else after 248 µs. -/
theorem test_activeYflt : (ck [.env] (yoked 3 true [] { driveEnd := some 0 }) .activeYfltAssert (fun s => s.fld (F.BD_STATUS_KEEPER 0) != 2) (fun _ t => t.env.yfltOut) &&
    ck [.env] ((yoked 3 true [(F.BD_STATUS_KEEPER 1, 2)] { driveEnd := some 0 }).setTick 11904) .activeYfltAssert (fun _ => true) (fun _ t => t.env.yfltOut) &&
    same ((yoked 3 true [(F.BD_STATUS_KEEPER 1, 2)] { driveEnd := some 0 }).setTick 11903) .activeYfltAssert (fun s => s.tick < 11904) &&
    same (yoked 3 true [] {}) .activeYfltAssert (fun s => s.yk.driveEnd == none)) = true := by decide +kernel

/-- An armed stand-in with channel 3 commanded and read as closed. -/
def standIn (y : Yk) (f : Chan → Chan) : State :=
  let s := sw [(F.SYS_STATE_STATE, 3), (F.SYS_STATE_ARMED_HALVES, 1), (F.YK_STATUS_STATE, 4), (F.CH_DIAG_DP_EN 3, 1), (F.FH_DP_DP_PERIOD 0, 1)] fun x => f { x with comp := true, closed := false }
  { s with boot := { image := some { yoke := 3 } }, yk := y, out := s.out.set 3 { value := 1#32 } }

/-- R448, R455: the share test starts, is skipped in a release, does not start without its readback; it passes above 5 mA. -/
theorem test_shareTest : (ck [.regs, .chans] (standIn {} id) (.shareTest 3) (fun s => s.isSwitch 3 && s.isArmed && s.dpSlotDue 3 s.ruleSwath && wbit ((s.out.get 3).at s.tick) 0)
      (fun s t => (t.chan 3).share == some s.tick && (t.chan 3).closed && (t.chan 3).action == some 1) &&
    ck [.regs] (standIn { releasing := true } id) (.shareTest 3) (fun _ => true) (fun s t => up s (F.CH_COUNTS_DP_SKIP 3) t) &&
    same (standIn {} fun x => { x with comp := false }) (.shareTest 3) (fun s => !(s.chan 3).comp) &&
    ck [.regs, .chans] (standIn {} fun x => { x with share := some 0, peak := 6, closed := true }) (.shareTestVerdict 3) (fun _ => true) (fun _ t => (t.chan 3).share == none && !(t.chan 3).closed) &&
    ck (.chans :: faultParts) (standIn {} fun x => { x with share := some 0, peak := 5, closed := true }) (.shareTestVerdict 3) (fun _ => true)
      (fun s t => (t.chan 3).share == none && !t.yk.checksOk && !t.flag F.YK_STATUS_READY && told s srcYK kStandinTest (faultAddr 63 3) t) &&
    same (standIn {} id) (.shareTestVerdict 3) (fun s => (s.chan 3).share == none)) = true := by decide +kernel
/-! ## Fault Collector and watchdog -/

/-- An armed device with a class for SUPPLY_LOW of half A and CH_OPEN. -/
def reacts (cls : Nat) (fs : List (Fld × Nat)) : State :=
  let s := sw ([(F.SYS_STATE_STATE, 3), (F.SYS_STATE_ARMED_HALVES, 3)] ++ fs) id
  { s with fc := { table := [⟨0x10, 0x10, false, cls⟩, ⟨0x10, kChOpen, false, cls⟩] }, boot := { image := some { yoke := 2 } } }

/-- R457, R459, R461: a message is logged and counted; an unknown kind is none. -/
theorem test_faultMessage : (ck faultParts (reacts 1 []) (.faultMessage none 0x10 0x10 (BitVec.ofNat 12 (faultAddr 63 63))) (fun s => s.reactionOf 0x10 0x10 == (1, false) && known 0x10 0x10)
      (fun s t => told s 0x10 0x10 (faultAddr 63 63) t && up s (F.FC_SRC_CNT_COUNT 0x10) t && t.fld (F.FC_SRC_CNT_LAST_KIND 0x10) == 0x10 && t.fc.latches == [] && t.isArmed) &&
    same (reacts 1 []) (.faultMessage none 0x10 0x3F 0) (fun _ => !known 0x10 0x3F)) = true := by decide +kernel

/-- R464, R465, R467, R468: the reactions of class Channel-safe to Reset. -/
theorem test_reactions : (ck faultParts (reacts 2 []) (.faultMessage none 0x10 (BitVec.ofNat 6 kChOpen) (BitVec.ofNat 12 (faultAddr 63 3))) (fun s => (s.targetChannels 0x10 kChOpen (faultAddr 63 3)).testBit 3)
      (fun _ t => t.latched 3 && t.isArmed) &&
    ck faultParts (reacts 3 []) (.faultMessage none 0x10 0x10 (BitVec.ofNat 12 (faultAddr 63 63))) (fun s => s.targetHalves 0x10 == 1) (fun _ t => t.isPending 0 && !t.armed 0 && t.armed 1) &&
    ck faultParts (reacts 4 []) (.faultMessage none 0x10 0x10 (BitVec.ofNat 12 (faultAddr 63 63))) (fun s => s.yokeMode == 2)
      (fun _ t => t.isHalted && t.fld F.SYS_STATE_ARMED_HALVES == 0 && t.flag F.FC_STATUS_FAULT_N && t.env.yfltOut &&
        t.reg Reg.FC_REACT_MSG == msgWord (0x10 * 2 ^ 18 + 0x10 * 2 ^ 12 + faultAddr 63 63) true false 4) &&
    ck faultParts (reacts 5 []) (.faultMessage none 0x10 0x10 (BitVec.ofNat 12 (faultAddr 63 63))) (fun _ => true) (fun _ t => t.fc.resetting && t.fld F.SYS_STATE_ARMED_HALVES == 0) &&
    ck faultParts (reacts 3 [(F.SYS_RECFG_STATUS_STATE, 2)]) (.faultMessage none 0x10 0x10 (BitVec.ofNat 12 (faultAddr 63 63))) (fun s => s.recfgState == 2) (fun _ t => t.recfgState == 5) &&
    ck faultParts (reacts 3 [(F.SYS_STATE_STATE, 1), (F.SYS_STATE_ARMED_HALVES, 0)]) (.faultMessage none 0x10 0x10 (BitVec.ofNat 12 (faultAddr 63 63))) (fun s => s.isBoot) (fun _ t => t.isBoot && t.fc.pends == [])) = true := by
  decide +kernel

/-- R444: a Wide lead logs a follower's fault of a pair under its own number, another under the Yoke. -/
theorem test_followerFault : (ck [.regs, .fc] (yoked 1 true [(F.YK_STATUS_STATE, 4)] {}) (.faultMessage (some 4) 0x21 1 5) (fun s => s.joined && known 0x21 1) (fun s t => told s 0x25 1 5 t && t.fc.latches == []) &&
    ck [.regs, .fc] (yoked 1 true [(F.YK_STATUS_STATE, 4)] {}) (.faultMessage (some 4) (BitVec.ofNat 8 srcGRN) 1 5) (fun _ => true) (fun s t => told s srcYK kFollowerFault (srcGRN * 16 + 8) t) &&
    same (yoked 1 false [(F.YK_STATUS_STATE, 4)] {}) (.faultMessage (some 4) 0x21 1 5) (fun s => !s.boot.lead)) = true := by decide +kernel

/-- R460, R466, R470: clears and an injection wait for their boundary. -/
theorem test_fcKeys : (ck [.fc, .pipe] { base [] with fc := { clearReq := some ⟨1, 0, false⟩ } } (.fcClearChannels 8) (fun _ => true) (fun _ t => t.fc.clearReq == some ⟨9, 0, false⟩) &&
    ck [.fc, .pipe] (base []) (.fcClearHalves 2) (fun _ => true) (fun _ t => t.fc.clearReq == some ⟨0, 2, false⟩) &&
    ck [.fc, .pipe] (base []) .fcClearFirst (fun _ => true) (fun _ t => t.fc.clearReq == some ⟨0, 0, true⟩) &&
    ck [.regs, .fc, .pipe] ((base []).setReg Reg.FC_FORCE_MSG 0x10400000#32) .faultInject (fun _ => known 0x10 0x10) (fun _ t => t.fc.inject == some 0x10400000#32 && t.fld F.FC_FORCE_CTRL_STATE == 1) &&
    ck [.regs] ((base []).setReg Reg.FC_FORCE_MSG 0xFF000000#32) .faultInject (fun _ => !known 0xFF 0) (fun _ t => t.fld F.FC_FORCE_CTRL_STATE == 3)) = true := by decide +kernel

/-- A watchdog with a grid from swath 2 on of period 4, open from phase 2 on; swath and status as given. -/
def dog (n : Nat) (fs : List (Fld × Nat)) (w : Wdg) : State :=
  { (base ([(F.SYS_STATE_STATE, 2), (F.WDG_CFG_EN, 1), (F.WDG_WINDOW_PERIOD, 4), (F.WDG_WINDOW_OPEN, 2)] ++ fs)).setSwath n with wdg := w }

/-- R475, R476: a service in its window, early, a second one, without a grid, unsealed. -/
theorem test_wdgService : (ck [.regs] (dog 4 [] { a0 := some 2 }) (.wdgService false) (fun s => s.wdgGrid == some 2 && s.wdgPeriod == 4) (fun s t => t.flag F.WDG_STATUS_SERVED && t.reg Reg.WDG_LAST == s.swath32) &&
    ck faultParts (dog 3 [] { a0 := some 2 }) (.wdgService false) (fun _ => true) (fun s t => up s F.WDG_COUNTS_EARLY t && told s 0x31 kWdgEarly (faultAddr 63 63) t && !t.flag F.WDG_STATUS_SERVED) &&
    ck faultParts (dog 4 [(F.WDG_STATUS_SERVED, 1)] { a0 := some 2 }) (.wdgService false) (fun _ => true) (fun s t => told s 0x31 kWdgEarly (faultAddr 63 63) t && t.flag F.WDG_STATUS_SERVED) &&
    same (dog 4 [] {}) (.wdgService false) (fun s => s.wdgGrid == none) &&
    ck faultParts (dog 4 [(F.WDG_CFG_SEALED, 1)] { a0 := some 2 }) (.wdgService false) (fun _ => true) (fun s t => up s F.WDG_COUNTS_KEY t && told s 0x31 kWdgKey (faultAddr 63 2) t)) = true := by decide +kernel

/-- R477: the disable sequence: started, broken by a second start, completed at 64 ticks, too late, locked, timed out. -/
theorem test_wdgDisable : (ck [.regs, .wdg] (dog 4 [] {}) (.wdgDisableStart false) (fun _ => true) (fun s t => t.wdg.disableTick == some s.tick && t.flag F.WDG_STATUS_DISABLE_WAIT) &&
    ck (.wdg :: faultParts) (dog 4 [] { disableTick := some 0 }) (.wdgDisableStart false) (fun _ => true) (fun s t => t.wdg.disableTick == some s.tick && told s 0x31 kWdgKey (faultAddr 63 3) t) &&
    ck [.regs, .wdg, .pipe] ((dog 4 [] { disableTick := some 0 }).setTick 64) (.wdgDisable false) (fun _ => true) (fun _ t => t.wdg.change == some false && t.wdg.disableTick == none) &&
    ck (.wdg :: faultParts) ((dog 4 [] { disableTick := some 0 }).setTick 65) (.wdgDisable false) (fun _ => true) (fun s t => t.wdg.change == none && up s F.WDG_COUNTS_KEY t && told s 0x31 kWdgKey (faultAddr 63 3) t) &&
    ck (.wdg :: faultParts) (dog 4 [(F.WDG_CFG_LOCK, 1)] { disableTick := some 0 }) (.wdgDisable false) (fun _ => true) (fun s t => told s 0x31 kWdgKey (faultAddr 63 4) t) &&
    ck (.wdg :: faultParts) (dog 4 [(F.WDG_STATUS_DISABLE_WAIT, 1)] { disableTick := some 0 }) .wdgDisableTimeout (fun _ => true) (fun s t => t.wdg.disableTick == none && !t.flag F.WDG_STATUS_DISABLE_WAIT && told s 0x31 kWdgKey (faultAddr 63 3) t) &&
    same (dog 4 [] {}) .wdgDisableTimeout (fun s => s.wdg.disableTick == none)) = true := by decide +kernel

/-- R475, R477, R478: enable, lock, another word; a close edge served and unserved, and none. -/
theorem test_wdgOthers : (ck [.wdg, .pipe] (dog 4 [] {}) (.wdgEnable false) (fun _ => true) (fun _ t => t.wdg.change == some true) &&
    ck [.regs, .wdg, .pipe] (dog 4 [] {}) (.wdgLock false) (fun _ => true) (fun _ t => t.wdg.change == some true && t.flag F.WDG_CFG_LOCK) &&
    ck faultParts (dog 4 [] {}) (.wdgKey 0x1234 false) (fun _ => true) (fun s t => up s F.WDG_COUNTS_KEY t && told s 0x31 kWdgKey (faultAddr 63 1) t) &&
    ck [.regs, .wdg] (dog 6 [(F.WDG_STATUS_SERVED, 1)] { a0 := some 2 }) .wdgCloseEdge (fun s => s.atBoundary) (fun _ t => !t.flag F.WDG_STATUS_SERVED && t.fld F.WDG_STATUS_REMAIN == 4) &&
    ck (.wdg :: faultParts) (dog 6 [] { a0 := some 2 }) .wdgCloseEdge (fun _ => true) (fun s t => up s F.WDG_COUNTS_LATE t && told s 0x31 kWdgLate (faultAddr 63 63) t) &&
    same (dog 2 [] { a0 := some 2 }) .wdgCloseEdge (fun s => s.swath == 2) && same (dog 6 [] {}) .wdgCloseEdge (fun s => s.wdgGrid == none)) = true := by decide +kernel

/-! ## Service Record -/

/-- A Service Record. -/
def record (fs : List (Fld × Nat)) (sr : Sr) : State := { port ([(F.SR_STATUS_JOURNAL, 2)] ++ fs) with sr := sr }

/-- A block of five records. -/
def block5 : JBlock := { seq := 1, first := 0, slot := 0, recs := List.replicate 5 (List.replicate 16 7#32) }

/-- R499, R500, R509: pages, a failed page, erases. -/
theorem test_journalFlash : (ck [.sr] (record [] { blocks := [block5] }) (.pageProgram true) (fun s => s.backlog == 5) (fun _ t => t.sr.blocks.map (fun b => b.programmed) == [4]) &&
    ck (.sr :: faultParts) (record [] { blocks := [block5] }) (.pageProgram false) (fun _ => true) (fun s t => told s srcSR kJournalFail (faultAddr 63 2) t) &&
    same (record [] {}) (.pageProgram true) (fun s => !s.pageDue && s.sealBlock == none) &&
    ck [.sr] (record [] { blocks := [{ block5 with programmed := 5, done := true, closed := true, msg := some [] }] }) (.pageProgram true) (fun s => !s.pageDue && s.sealBlock.isSome) (fun _ t => t.sr.blocks.all fun b => b.sealIn) &&
    same { record [] { blocks := [{ block5 with programmed := 5, done := true }, { block5 with seq := 2 }] } with env := { pfail := true } } (.pageProgram true) (fun s => s.pageDue && (s.pageBlock.any fun b => s.slotTaken b)) &&
    ck (.sr :: faultParts) (record [] { blocks := [{ block5 with programmed := 5, done := true }, { block5 with seq := 2 }] }) (.pageProgram true) (fun s => s.pageDue && !s.env.pfail && s.reg Reg.SR_JRN_ACK == 0#32)
      (fun s t => t.sr.blocks.map (fun b => (b.seq, b.programmed)) == [(2, 4)] && told s srcSR kJournalFail (faultAddr 63 1) t) &&
    ck [.sr] ((record [] { lastSlot := 1, blocks := [block5, { block5 with seq := 2, slot := 1 }] }).setReg Reg.SR_JRN_SLOTS 2#32 |>.setReg Reg.SR_JRN_ACK 1#32) (.slotErase true) (fun s => s.jslots == 2)
      (fun _ t => t.sr.blocks.map (fun b => b.seq) == [2]) &&
    ck (.sr :: faultParts) ((record [] { lastSlot := 1, blocks := [block5, { block5 with seq := 2, slot := 1 }] }).setReg Reg.SR_JRN_SLOTS 2#32) (.slotErase true) (fun s => s.reg Reg.SR_JRN_ACK == 0#32)
      (fun s t => t.sr.blocks.map (fun b => b.seq) == [2] && up s F.SR_COUNTS_OVERRUN t && told s srcSR kJournalFail (faultAddr 63 1) t) &&
    ck (.sr :: faultParts) (record [] {}) (.slotErase false) (fun _ => true) (fun s t => told s srcSR kJournalFail (faultAddr 63 2) t) &&
    same { record [] { blocks := [block5] } with env := { pfail := true } } (.slotErase true) (fun s => s.env.pfail)) = true := by decide +kernel

/-- R503, R505: trees and tokens. -/
theorem test_treesTokens : (ck [.regs, .sr] (record [] {}) .treeGeneration (fun s => s.leaf < leafCount && !s.sr.tree) (fun _ t => t.sr.tree && t.fld F.SR_STATUS_TREE == 2) &&
    ck [.regs, .sr] ((record [] { tree := true }).setReg Reg.SR_LEAF 768#32) .treeGeneration (fun s => s.leaf == 768) (fun _ t => t.sr.nextTree && t.fld F.SR_STATUS_TREE == 3) &&
    same ((record [] { tree := true }).setReg Reg.SR_LEAF 767#32) .treeGeneration (fun s => s.leaf == 767) &&
    ck [.regs, .sr] ((record [(F.SR_ATT_TOKENS_TOKENS, 31)] {}).setSwath 5400000) .tokenGain (fun s => s.sr.tokenSwath + s.tokenSwaths == s.swath)
      (fun _ t => t.fld F.SR_ATT_TOKENS_TOKENS == 32 && t.sr.tokenSwath == 5400000) &&
    same ((record [(F.SR_ATT_TOKENS_TOKENS, 31)] {}).setSwath 5399999) .tokenGain (fun _ => true) &&
    ck [.sr] ((record [(F.SR_ATT_TOKENS_TOKENS, 32)] {}).setSwath 5400000) .tokenGain (fun _ => true) (fun _ t => t.sr.tokenSwath == 5400000) &&
    ck [.regs, .sr] (((record [(F.SR_ATT_TOKENS_TOKENS, 5)] {}).setReg Reg.SR_LEAF 0x100000#32).setSwath 5400000) .tokenGain (fun s => s.leaf == leafCount) (fun _ t => t.fld F.SR_ATT_TOKENS_TOKENS == 0)) = true := by decide +kernel

/-- R498, R501, R504: a seal takes a leaf and blows a fuse at the first of 256; it is deferred at an exhausted tree; without leaves the block closes unsealed. -/
theorem test_blockSeal : (ck (.sr :: faultParts) (record [] { tree := true, blocks := [{ block5 with closed := true, recovered := true }] }) .blockSeal (fun s => s.canSign && s.sealDue.isSome && s.leaf == 256 * s.leafFuses)
      (fun s t => t.leaf == 1 && t.reg Reg.SR_JRN_SEALED == 1#32 && t.reg Reg.SR_LEAF_RES == s.reg Reg.SR_LEAF_RES + 1 && up s F.SR_COUNTS_RECOVERED t &&
        t.sr.blocks.all fun b => b.done && b.msg == some (s.sealMessage { block5 with closed := true, recovered := true } 0)) &&
    ck (.sr :: faultParts) ((record [] { blocks := [{ block5 with closed := true }], treeOut := true }).setReg Reg.SR_LEAF 1024#32) .blockSeal (fun s => s.leaf == 1024 && !s.sr.tree)
      (fun s t => t.sr.deferred && up s F.SR_COUNTS_DEFERRED t && told s srcSR kSealDeferred (faultAddr 63 63) t) &&
    ck [.sr] ((record [] { blocks := [{ block5 with closed := true }] }).setReg Reg.SR_LEAF 0x100000#32) .blockSeal (fun s => s.leaf == leafCount) (fun _ t => t.sr.blocks.all fun b => b.done && b.msg == none) &&
    same (record [] { blocks := [{ block5 with closed := true }] }) .blockSeal (fun s => s.leaf == 0 && !s.sr.tree) && same (record [] { blocks := [block5] }) .blockSeal (fun s => s.sealDue == none)) = true := by decide +kernel

/-- R364, R505: an attestation takes a token, waits, and is refused without one; its report. -/
theorem test_attest : (ck [.regs, .sr, .hp] (record [(F.SR_ATT_TOKENS_TOKENS, 2)] {}) (.attest (hdr opATTEST { count := 8 }) (List.replicate 8 3#32)) (accepted opATTEST (hdr opATTEST { count := 8 }))
      (fun _ t => answered opATTEST 0 8 [] t && t.fld F.SR_ATT_TOKENS_TOKENS == 1 && t.fld F.SR_ATT_STATUS_STATE == 1 && t.sr.nonce == some (List.replicate 8 3#32)) &&
    ck portParts (record [(F.SR_ATT_TOKENS_TOKENS, 0)] {}) (.attest (hdr opATTEST { count := 8 }) (List.replicate 8 3#32)) (fun s => s.fld F.SR_ATT_TOKENS_TOKENS == 0) (fun _ t => refusedWith opATTEST 5 t) &&
    ck (.sr :: faultParts) (record [(F.SR_ATT_STATUS_STATE, 1)] { tree := true, nonce := some (List.replicate 8 3#32) }) .attestReportReady (fun s => s.canSign && s.sealDue == none)
      (fun _ t => t.fld F.SR_ATT_STATUS_STATE == 2 && t.sr.nonce == none && t.leaf == 1 && t.sr.due == [(0, 9, 0, [3#32, 3#32, 3#32, 3#32, 0#32])]) &&
    same (record [] { nonce := some [] }) .attestReportReady (fun s => !s.canSign) && same (record [] {}) .attestReportReady (fun s => s.sr.nonce == none)) = true := by decide +kernel

/-- A session with a known key; its last SEQ is 4. -/
def sess : Session := { challenge := List.replicate 8 1#32, authed := true, seq := 4 }

/-- The device of the session, with a part in slot 2 and one class. -/
def served (x : Session) : State :=
  let s := (record [(F.SR_STATUS_SESSION, 1), (F.CH_CFG_FUNC 3, 2)] { session := some x, classes := [⟨100, 10, 1000, 0, 50, 5⟩] }).updSlot 2 fun y => { y with state := 1, target := 3, n := 6, w := 7 }
  { s with boot := { svcKey := some (List.replicate 8 2#32) } }

/-- The words after word 0 of a request of the session: body and MAC. -/
def request (op : BitVec 8) (low : BitVec 24) (body : List Word) : List Word := body ++ (served sess).mac sess (reqWord op low :: body)

/-- The header of a service request with so many words after word 0. -/
def svc (n : Nat) : HostHdr := hdr opSERVICE { count := BitVec.ofNat 16 (n + 1) }

/-- The reply. -/
def replied (n : Nat) (reply : List Word) (t : State) : Bool := answered opSERVICE 0 (n + 1) (BitVec.ofNat 32 reply.length :: reply) t

/-- R487, R488: OPEN, OPEN while locked, AUTH without a session, with the right value and with a wrong one. -/
theorem test_srOpenAuth : (ck [.regs, .sr, .hp] (record [] {}) (.srOpen (svc 0) 0 []) (fun s => accepted opSERVICE (svc 0) s && s.sr.lockAt == none)
      (fun s t => t.flag F.SR_STATUS_SESSION && t.sr.opens == 1 && (t.sr.session.any fun x => !x.authed && replied 0 (replyWord (reqWord 0x01#8 0) 0 :: x.challenge ++ s.serial) t)) &&
    ck [.regs, .hp] (record [(F.SR_STATUS_LOCKED, 1)] { lockAt := some 0 }) (.srOpen (svc 0) 0 []) (fun _ => true) (fun _ t => replied 0 [replyWord (reqWord 0x01#8 0) 4] t) &&
    ck [.regs, .hp] (record [] {}) (.srAuth (svc 12) 0x010000 (List.replicate 12 0#32)) (fun s => s.sr.session == none) (fun _ t => replied 12 [replyWord (reqWord 0x02#8 0x010000) 2] t) &&
    ck (.sr :: portParts) { served { sess with authed := false } with sr := { (served { sess with authed := false }).sr with fails := 7 } } (.srAuth (svc 12) 0x050000 (List.replicate 12 0#32)) (fun s => s.sr.fails == 7)
      (fun s t => t.sr.fails == 8 && t.sr.lockAt == some s.tick && t.flag F.SR_STATUS_LOCKED && up s F.SR_COUNTS_AUTH_FAIL t && told s srcSR kServiceAuth (faultAddr 63 63) t)) = true := by decide +kernel

/-- R487: AUTH with the value of the key. -/
theorem test_srAuth : (let a := hmac (bytesOfWords (List.replicate 8 2#32)) (bytesOfWords (sess.challenge ++ (served sess).serial))
    ck [.regs, .sr, .hp] (served { sess with authed := false }) (.srAuth (svc 12) 0x050000 (request 0x02#8 0x050000 a)) (fun s => accepted opSERVICE (svc 12) s && a.length == 8)
      (fun s t => t.sr.session == some { sess with seq := 5 } && replied 12 (s.reply (reqWord 0x02#8 0x050000) 0 []) t)) = true := by decide +kernel

/-- R487, R489: REGISTER, RETIRE. -/
theorem test_srRegister : (ck [.regs, .pipe, .sr, .hp] (served sess) (.srRegister (svc 15) 0x050000 (request 0x10#8 0x050000 [5#32, 3#32, 1#32, 2#32, 0#32, 9#32, 0#32, 48000#32, 10#32, 11#32, 12#32]))
      (fun s => accepted opSERVICE (svc 15) s && s.targetOk 3) (fun s t => replied 15 (s.reply (reqWord 0x10#8 0x050000) 0 []) t &&
        t.sr.ops == [.register 5 3 1#32 2#32 0 9 (some (48000, 10, 11, 12))] && t.sr.session == some { sess with seq := 5 }) &&
    ck [.regs, .hp] (served sess) (.srRegister (svc 15) 0x050000 (request 0x10#8 0x050000 [5#32, 3#32, 1#32, 2#32, 1#32, 9#32, 0#32, 48000#32, 10#32, 11#32, 12#32])) (fun s => s.sr.classes.length == 1)
      (fun s t => replied 15 (s.reply (reqWord 0x10#8 0x050000) 3 []) t) &&
    ck [.regs, .pipe, .sr, .hp] (served sess) (.srRetire (svc 5) 0x050000 (request 0x11#8 0x050000 [2#32])) (fun s => accepted opSERVICE (svc 5) s)
      (fun s t => replied 5 (s.reply (reqWord 0x11#8 0x050000) 0 [6#32, 7#32]) t && t.sr.ops == [.retire 2])) = true := by decide +kernel

/-- R487, R488, R489: READ_SLOT, ACCEPT, CLOSE, a wrong SEQ. -/
theorem test_srOthers : (ck [.regs, .sr, .hp] (served sess) (.srReadSlot (svc 5) 0x050000 (request 0x12#8 0x050000 [2#32])) (fun s => accepted opSERVICE (svc 5) s)
      (fun s t => replied 5 (s.reply (reqWord 0x12#8 0x050000) 0 (slotRegs (s.sr.slots.get 2))) t && t.sr.session == some { sess with seq := 5 }) &&
    ck [.regs, .pipe, .sr, .hp] (served sess) (.srAccept (svc 5) 0x050000 (request 0x13#8 0x050000 [2#32])) (fun _ => true) (fun _ t => t.sr.ops == [.accept 2]) &&
    ck [.regs, .sr, .hp] (served sess) (.srClose (svc 4) 0x050000 (request 0x1F#8 0x050000 [])) (fun _ => true)
      (fun s t => t.sr.session == none && !t.flag F.SR_STATUS_SESSION && replied 4 (s.reply (reqWord 0x1F#8 0x050000) 0 []) t && t.sr.due == [(0, 10, 0, [2#32])]) &&
    ck [.regs, .hp] (served sess) (.srClose (svc 4) 0x060000 (request 0x1F#8 0x060000 [])) (fun _ => true) (fun s t => replied 4 (s.reply (reqWord 0x1F#8 0x060000) 5 []) t)) = true := by decide +kernel

/-- R488: the session and the lock end with their times. -/
theorem test_srTimes : (ck [.regs, .sr] ((served sess).setTick 2880000000) .sessionTimeout (fun s => s.sr.session.isSome && secTicks 60 == 2880000000) (fun _ t => t.sr.session == none && !t.flag F.SR_STATUS_SESSION && t.sr.due == [(0, 10, 0, [2#32])]) &&
    same (record [] {}) .sessionTimeout (fun s => s.sr.session == none) && same ((served sess).setTick 2879999999) .sessionTimeout (fun s => s.sr.session.isSome) &&
    ck [.regs, .sr] ((record [(F.SR_STATUS_LOCKED, 1)] { fails := 8, lockAt := some 0 }).setTick 172800000000) .serviceUnlock (fun s => s.tick == secTicks 3600) (fun _ t => t.sr.fails == 0 && !t.flag F.SR_STATUS_LOCKED) &&
    same (record [] { fails := 3 }) .serviceUnlock (fun s => s.sr.lockAt == none)) = true := by decide +kernel

/-- R492, R493: an hour of one part: the new fields of its slot, PART_HOURLY and WEAR_LIMIT. -/
theorem test_hourlySlot : (let s := (record [] { classes := [⟨100, 10, 1000, 0, 50, 5⟩] }).updSlot 2 fun x => { x with state := 1, n := 96, w := 65536, recent := [65536], hourOps := 3 }
    let t := s.hourlySlot 2
    let y := t.sr.slots.get 2
    s.tick == s.btick && !s.isBoot && s.ruleSwath % max 1 s.hourSwaths == 0 && y.hours == [3] && y.hourOps == 0 && y.n == 96 && y.pred == 4#32 && y.state == 3 && y.warned &&
      t.sr.slots.get 3 == s.sr.slots.get 3 && told s srcSR kWearLimit (faultAddr 63 2) t && agree .hp s t && agree .chans s t) = true := by decide +kernel

/-- R495: no pass in BOOT, nor at a swath that H_SW does not divide. -/
theorem test_hourlyPass : (same (base [(F.SYS_STATE_STATE, 1)]) (.hourlyPass { junctions := List.replicate 16 [] }) (fun s => s.isBoot) &&
    same ((record [] {}).setReg Reg.TB_SWATH_LO 1#32) (.hourlyPass { junctions := List.replicate 16 [] }) (fun s => !s.isBoot && s.ruleSwath == 1)) = true := by decide +kernel

/-- R500, R505: the read window. -/
theorem test_windows : (ck [.regs] (record [] {}) (.srWinJournal 0x104) (fun _ => true) (fun _ t => t.fld F.SR_WIN_SEL_SRC == 1 && t.fld F.SR_WIN_SEL_OFFSET == 0x104) &&
    ck [.regs] (record [(F.SR_WIN_STATUS_READY, 1)] {}) (.srWinReport 4) (fun _ => true) (fun _ t => t.fld F.SR_WIN_SEL_SRC == 2 && t.fld F.SR_WIN_SEL_OFFSET == 4 && !t.flag F.SR_WIN_STATUS_READY) &&
    ck [.regs] (record [(F.SR_WIN_SEL_SRC, 2), (F.SR_WIN_SEL_OFFSET, 4)] { report := [1#32, 2#32, 3#32] }) .windowReady (fun _ => true)
      (fun _ t => t.flag F.SR_WIN_STATUS_READY && t.fld F.SR_WIN_STATUS_BYTES == 8 && t.reg (Reg.SR_WIN 0) == 2#32 && t.reg (Reg.SR_WIN 1) == 3#32 && t.reg (Reg.SR_WIN 2) == 0#32) &&
    same (record [] {}) .windowReady (fun s => s.fld F.SR_WIN_SEL_SRC == 0)) = true := by decide +kernel

/-- R507: PFAIL_N falls and rises. -/
theorem test_pfail : (ck (.sr :: faultParts) ((record [] { due := [(0, 1, 0, [])] }).setReg Reg.SR_JRN_SLOTS 1#32) .pfailAssert (fun s => !s.env.pfail)
      (fun s t => t.env.pfail && t.sr.due == s.sr.due ++ [(0, 2, 0, [0#32, 0#32])] && t.sr.pfailAt == s.tick && told s srcPWR kPfail (faultAddr 63 63) t) &&
    ck (.sr :: faultParts) (record [] { blocks := [block5], due := [] }) .pfailAssert (fun s => !s.env.pfail && s.backlog == 5) (fun _ t => t.sr.due == [(0, 2, 0, [0#32, 5#32])] && t.pageDue) &&
    same { record [] {} with env := { pfail := true } } .pfailAssert (fun s => s.env.pfail) &&
    ck [.env] { record [] {} with env := { pfail := true } } .pfailDeassert (fun _ => true) (fun _ t => !t.env.pfail)) = true := by decide +kernel

/-! ## Power -/

/-- A device in SAFE with power as given. -/
def powered (fs : List (Fld × Nat)) (p : Pwr) : State := { base ((F.SYS_STATE_STATE, 2) :: fs) with pwr := p }

/-- R523, R524: a request, an unused state; entered, kept waiting, refused. -/
theorem test_powerRequests : (ck [.regs, .pwr] (powered [] {}) (.powerRequest 0x21#32) (fun s => s.pwr.mode == 0) (fun _ t => t.pwr.req == some ⟨2, 1, false, none⟩ && t.reg Reg.PWR_TARGET == 0x21#32) &&
    same (powered [] {}) (.powerRequest 0x30#32) (fun _ => true) && same (powered [] {}) (.powerRequest 0x50#32) (fun _ => true) &&
    ck [.regs, .sig, .pipe, .pairs, .pwr] (powered [] { req := some ⟨1, 0, false, none⟩ }) .requestJudge (fun s => s.atBoundary && s.refuser ⟨1, 0, false, none⟩ == none) (fun _ t => t.pwr.mode == 1 && t.pwr.req == none && t.fld F.PWR_STATUS_STATE == 2) &&
    ck (.wdg :: .cvu :: .sr :: .gln :: .pwr :: faultParts) (powered [] { req := some ⟨2, 0, false, none⟩ }) .requestJudge (fun s => s.refuser ⟨2, 0, false, none⟩ == none) (fun _ t => t.pwr.mode == 2 && t.fld F.PWR_STATUS_STATE == 3) &&
    ck (.wdg :: .cvu :: .sr :: .gln :: .pwr :: faultParts) (powered [] { req := some ⟨4, 0, false, none⟩ }) .requestJudge (fun s => s.refuser ⟨4, 0, false, none⟩ == none)
      (fun _ t => t.pwr.mode == 0 && t.pwr.handover == some [] && (t.half 0).nightTx && (t.half 1).nightTx) &&
    ck [.regs, .pwr] (powered [] { req := some ⟨0, 2, false, none⟩ }) .requestJudge (fun s => s.refuser ⟨0, 2, false, none⟩ == none) (fun _ t => t.pwr.levelNext == some 2 && t.pwr.req == none) &&
    same (powered [] {}) .requestJudge (fun s => s.pwr.req == none)) = true := by decide +kernel

/-- R524: a seal under way refuses Hibernate after the grace, and keeps it waiting before. -/
theorem test_powerRefused : (ck (.pwr :: faultParts) { powered [(F.SYS_COMMISSION_STATE, 1), (F.PWR_CFG_ENTRY_GRACE, 0)] { req := some ⟨2, 0, false, none⟩ } with sr := {} } .requestJudge (fun s => s.refuser ⟨2, 0, false, none⟩ == some 5)
      (fun s t => t.pwr.req == none && up s F.PWR_REFUSED_COUNT t && t.fld F.PWR_REFUSER_CODE == 5 && told s srcPWR kPwrRefused (faultAddr 2 5) t) &&
    ck [.regs, .pwr] (powered [(F.SYS_COMMISSION_STATE, 1), (F.PWR_CFG_ENTRY_GRACE, 2)] { req := some ⟨2, 0, false, none⟩ }) .requestJudge (fun _ => true) (fun s t => t.pwr.req == some ⟨2, 0, false, some s.swath⟩ && t.flag F.PWR_STATUS_WAITING)) = true := by
  decide +kernel

/-- R526, R527: the wake sources. -/
theorem test_wakes : (ck [.regs, .pwr] (powered [] { mode := 2 }) (.powerRequest 0#32) (fun s => s.fld F.PWR_STATUS_LEVEL == 0) (fun _ t => t.pwr.wake == some (1, 0) && t.fld F.PWR_WAKE_CAUSE_SOURCE == 1 && t.fld F.PWR_WAKE_CAUSE_FROM == 2) &&
    ck [.regs, .pwr] (powered [] { mode := 1 }) (.wakeHost 0) (fun s => s.asleep) (fun _ t => t.pwr.wake == some (1, 0)) &&
    ck [.regs, .pwr] (powered [(F.PWR_WAKE_CFG_PIN, 1)] { mode := 4 }) .wakePin (fun s => s.asleep) (fun _ t => t.pwr.wake == some (2, 0) && t.fld F.PWR_WAKE_CAUSE_FROM == 4) &&
    ck [.regs, .pwr] (powered [(F.PWR_WAKE_CFG_DI, 8), (F.CH_CFG_FUNC 3, fDI)] { mode := 2 }) (.wakeDi 3) (fun s => s.func 3 == fDI) (fun _ t => t.pwr.wake == some (3, 3) && t.fld F.PWR_WAKE_CAUSE_CHANNEL == 3) &&
    ck [.regs, .pwr] (powered [(F.PWR_WAKE_CFG_HSEL, 1)] { handover := some [] }) .wakeHsel (fun s => s.pwr.handover.isSome) (fun _ t => t.pwr.wake == some (4, 0) && t.pwr.replay && t.fld F.PWR_WAKE_CAUSE_FROM == 4) &&
    ck [.regs, .pwr] (powered [(F.PWR_WAKE_CFG_ALARM, 1)] { mode := 4 }) .wakeAlarm (fun s => s.swath32 == s.reg Reg.PWR_WAKE_AT) (fun _ t => t.pwr.wake == some (5, 0)) &&
    ck [.regs, .sig, .pipe, .pairs, .pwr] (powered [(F.PWR_WAKE_CFG_ALARM, 1)] { mode := 1 }) .wakeAlarm (fun s => s.atBoundary)
      (fun s t => t.pwr.mode == 0 && t.pwr.wake == none && t.fld F.PWR_STATUS_STATE == 0 && (t.pairs.get 2).judgeFrom == some s.swath) &&
    same (powered [(F.PWR_WAKE_CFG_PIN, 1)] {}) .wakePin (fun s => !s.asleep) && same (powered [] {}) (.wakeDi 3) (fun s => !s.asleep) && same (powered [] {}) .wakeHsel (fun s => !s.asleep) &&
    same (powered [] {}) .wakeAlarm (fun s => !s.asleep) && same (powered [] {}) (.wakeHost 1) (fun s => !s.asleep)) = true := by decide +kernel

/-- R527, R528, R532: ready, the Cellar lost, heat. -/
theorem test_wakeReady : (ck [.regs, .env, .pwr] { powered [] { mode := 4, wake := some (2, 0) } with env := {} } (.wakeReady true) (fun _ => true)
      (fun _ t => t.pwr.ready && t.env.pll && t.flag F.TB_CLK_STATUS_PLL_LOCK && t.fld (F.BD_STATUS_LINK 0) == 1) &&
    ck everyPart ((powered [] { mode := 4, wake := some (2, 0) }).setSwath 9) (.wakeReady false) (fun _ => true) (fun _ t => t.isBoot && t.swath == 0 && t.fld (F.FC_SRC_CNT_LAST_KIND srcGRN) == kCellarLost) &&
    same (powered [] { wake := some (2, 0) }) (.wakeReady true) (fun s => s.pwr.mode == 0) &&
    ck (.pwr :: faultParts) (powered [] {}) .logicHot (fun s => !s.pwr.hot) (fun s t => t.pwr.hot && told s srcPWR kLogicHot (faultAddr 63 63) t) &&
    same (powered [] { hot := true }) .logicHot (fun s => s.pwr.hot) && ck [.pwr] (powered [] { hot := true }) .logicCooled (fun _ => true) (fun _ t => !t.pwr.hot)) = true := by decide +kernel

/-! ## The whole machine -/

/-- A step takes the front command; without one a tick passes, none without VIN (log entry 1). -/
theorem test_stepTakes : ((match step { powered [] { hot := true } with pending := [.logicCooled, .vinLoss] } with | .next t => !t.pwr.hot && t.pending == [.vinLoss] && t.env.vin | _ => false) &&
    (match step (base [(F.TB_CLK_STATUS_PLL_LOCK, 1)]) with | .next t => t.tick == 1 && t.swath == 0 | _ => false) &&
    (match step { base [(F.TB_CLK_STATUS_PLL_LOCK, 1)] with env := { vin := false } } with | .next t => t.tick == 0 | _ => false) &&
    (match step { powered [] {} with pending := [.vioLevelChange 4001] } with | .fault _ => true | _ => false)) = true := by decide +kernel

/-- R12, R60: values at reset. -/
theorem test_reset : (State.reset.isBoot && State.reset.lNom == 24000 && State.reset.reg Reg.DEV_ID == 0x4C4B1600#32 && State.reset.reg Reg.HP_BUSY_LIMIT == 0x3E8#32 &&
    State.reset.reg Reg.HP_HLEN == 0x400#32 && State.reset.pending == [] && State.reset.mem == [] && State.reset.swath == 0) = true := by decide +kernel

/-! ## Edges of the statements -/

/-- R133: on an output of a disarmed stand-in the return switch opens untold. -/
theorem test_returnSwitch_standby : ck [.chans] { fn 7 [(F.SYS_STATE_STATE, 2), (F.YK_STATUS_STATE, 4)] id with boot := { image := some { yoke := 3 } } }
    (.returnSwitchOpen 3) (fun s => s.isReturn 3 && !(s.chan 3).retOpen && s.standbyOut 3)
    (fun _ t => (t.chan 3).retOpen && !(t.chan 3).has kChShortVf) = true := by decide +kernel

/-- R202, R209: both frames read back as what they carry, at the last slot index and the widest fields; no slot after the last ends. -/
theorem test_frames : (parseDown 8191 (DownFrame.words ⟨true, false, 7#32, List.replicate 8 0xFFFFFFFF#32, List.replicate 8 5#32, 9#32, true, 2 ^ 24 - 1⟩ 8191)
      == some ⟨true, false, 7#32, List.replicate 8 0xFFFFFFFF#32, List.replicate 8 5#32, 9#32, true, 2 ^ 24 - 1⟩ &&
    parseUp 8191 (UpFrame.words ⟨15, List.replicate 9 (65535, 1), 2047, true, 65535, 3#32, 4#32, true, List.replicate 9 6#32, 65535, 7, 3, true, false, true, 255⟩ 8191)
      == some ⟨15, List.replicate 9 (65535, 1), 2047, true, 65535, 3#32, 4#32, true, List.replicate 9 6#32, 65535, 7, 3, true, false, true, 255⟩ &&
    same (linked [] fun x => { x with counting := true }) (.fullSlotEnd 0 125) (fun s => s.env.pll && s.fullSlots == 125)) = true := by decide +kernel

/-- R342, R363, R507: staging with PFAIL_N asserted, and a check that waits for data under programming. -/
theorem test_staging_waits : (ck [.regs, .boot] { base [(F.SYS_STATE_STATE, 2)] with env := { pfail := true }, boot := { slots := two [1#32] [2#32] } } .stageOpen
      (fun s => s.isSafe && s.env.pfail) (fun _ t => t.fld F.STAGE_STATUS_STATE == 1 && decide (t.boot.slots = two [1#32] [2#32])) &&
    same { base [(F.STAGE_STATUS_STATE, 1)] with env := { pfail := true } } .stageEraseDone (fun s => s.env.pfail) &&
    ck [.boot] { base [(F.SYS_STATE_STATE, 2), (F.STAGE_STATUS_STATE, 2)] with boot := { programming := true } } .stageCheck (fun s => s.boot.programming)
      (fun _ t => t.boot.checkWaits && t.fld F.STAGE_STATUS_STATE == 2) &&
    ck [.regs, .boot] { base [(F.STAGE_STATUS_STATE, 2)] with boot := { programming := true, checkWaits := true } } (.stageProgramDone true) (fun s => s.boot.checkWaits)
      (fun _ t => !t.boot.programming && !t.boot.checkWaits && t.fld F.STAGE_STATUS_STATE == 3) &&
    ck [.hp] { port [(F.STAGE_STATUS_STATE, 2)] with env := { pfail := true } } (.nvmStage (hdr opNVM { count := 64 }) (List.replicate 64 7#32)) (fun s => s.env.pfail)
      (fun s t => t.hp.writes.length == 1 && t.hp.writes.all fun w => w.limit == s.tick + 9600000)) = true := by decide +kernel

/-- R14, R17, R40, R288: HP_BUSY_LIMIT drops 0; W1C spares a bit set in the same tick; a Wide lead passes a write on; a debug write outside bench mode. -/
theorem test_registerWrites_more : (same (base []) (.registerWrite (BitVec.ofNat 24 Reg.HP_BUSY_LIMIT) 0xFFFF0000#32) (fun _ => true) &&
    ck [.regs] (base []) (.registerWrite (BitVec.ofNat 24 Reg.HP_BUSY_LIMIT) 0xFFFF0001#32) (fun _ => true) (fun _ t => t.reg Reg.HP_BUSY_LIMIT == 1#32) &&
    ck [.regs] ((base []).setReg (Reg.CH_FLAGS 3) 6#32) (.registerWrite (BitVec.ofNat 24 (Reg.CH_FLAGS 3)) 2#32)
      (fun s => (regRow? (Reg.CH_FLAGS 3)).any (fun r => r.w1c.testBit 1) && !(s.freshBits (Reg.CH_FLAGS 3)).getLsbD 1) (fun _ t => t.reg (Reg.CH_FLAGS 3) == 4#32) &&
    ck [.pipe, .yk] (yoked 1 true [(F.YK_STATUS_STATE, 4)] {}) (.registerWrite 0x1404C 2#32) (fun s => s.twinOf 0x1404C == some 0x1004C && !s.blockOff 0x1404C && (regRow? 0x1004C).any fun r => r.acc != .ro && r.acc != .rc)
      (fun _ t => t.yk.forward.length == 1) &&
    ck faultParts (base []) (.registerWrite 0x4011C 1#32) (fun s => s.debugDenied 0x4011C 1#32 == some 0) (fun s t => told s (srcBND 0) kHaltRefused (faultAddr 63 63) t)) = true := by
  decide +kernel

/-- R374: a READ and a POP that HSEL_N cuts off while their data leave. -/
theorem test_cutOff : (ck portParts (port []) (.read (hdr opREAD {}) ⟨[], 0, 0, some false⟩) (accepted opREAD (hdr opREAD {}))
      (fun s t => t.hp.resp == s.hp.resp && up s F.HP_COUNTS_ABORTED t) &&
    ck portParts (cribbed 0 4 0 []) (.pop (hdr opPOP { count := 9, addr := 0x38300 }) ⟨[], 0, 0, some false⟩) (fun s => s.popWindow 3 && s.popCount 3 9 == 1)
      (fun s t => t.reg (Reg.CRIB_CONS 3) == s.reg (Reg.CRIB_CONS 3) && (t.cribs.get 3).latched == 0 && up s F.HP_COUNTS_ABORTED t)) = true := by decide +kernel

/-- R300: a corrected error that a read of another block met, at the first word of the signal table. -/
theorem test_scrub_other : ck (.scrub :: faultParts) (base []) (.scrubSlot ⟨0, [(0x800000, false)]⟩) (fun s => firstOf s srcGRN kGrnEccCorr (faultAddr 0 0))
    (fun s t => up s F.GRN_ECC_CORR t && told s srcGRN kGrnEccCorr (faultAddr (areaOf 0x800000) (bankOf 0x800000)) t) = true := by decide +kernel

/-- R65-R69, R73, R76: no edge in Dormant, at a Yoke follower, and under 30 ticks from SRC 3; the loop leaves PULL for an edge out of the range. -/
theorem test_sync_none : (same { sync 1 {} with pwr := { mode := 4 } } (.syncEdge 96000 30 false) (fun s => s.pwr.mode == 4) &&
    same { sync 1 {} with boot := { image := some { yoke := 2 }, lead := false } } (.syncEdge 96000 30 false) (fun s => s.followsYoke) &&
    same { sync 1 {} with tb := { ctrl := 0x33#32, pNom := 24000 } } (.syncEdge 96000 29 false) (fun s => s.syncSrc == 3) &&
    same { sync 3 {} with pwr := { mode := 4 } } .syncMissingEdge (fun s => s.loop == lpLOCKED) &&
    ck [.regs, .tb] (sync 2 { edges := [20000] }) (.syncEdge 48048 30 false) (fun s => s.loop == lpPULL && !s.inLockRange 28048)
      (fun _ t => t.loop == lpACQUIRE && t.tb.edges == [48048])) = true := by decide +kernel

/-- R240, R242, R259, R290: an evaluation above its budget; no evaluation in SAFE; a pair halts at its breakpoint. -/
theorem test_evaluation_bounds : (ck faultParts (pipe (some { ctx .real 1#32 2#32 with ended := true }) [] id) (.realEvaluationEnd 0 { issue := 1 }) (fun s => s.pipe.budget == 0)
      (fun s t => told s (srcBND 0) kBudgetOverrun (faultAddr 63 0) t && (t.pairs.get 0).commit == none && (t.pairs.get 0).done) &&
    same { pipe (some (ctx .real 1#32 2#32)) [] id with pipe := { budget := 2 } } (.budgetOverrun 0 { issue := 1 }) (fun s => s.pipe.budget == 2) &&
    same (base [(F.SYS_STATE_STATE, 2)] |>.updPair 0 fun x => { x with prog := some prog0, ctx := some (twin (ctx .real 1#32 2#32)) }) (.bNop 0) (fun s => !s.isArmed) &&
    ck [.regs, .pairs] (benched (run (ctx .real 1#32 2#32) [(F.BND_BKPT_EN 0 0, 1), (F.BND_BKPT_ADDR 0 0, 5)])) (.bNop 0) (fun s => s.atBreak 0 (cx s) && s.evaluates 0 (cx s))
      (fun s t => (t.pairs.get 0).halted && (t.pairs.get 0).ctx == (s.pairs.get 0).ctx && t.flag (F.BND_STATUS_AT_BKPT 0))) = true := by decide +kernel

/-- R237, R290: no tine is kept where a breakpoint is enabled or tables changed. -/
theorem test_validation_none : (ck [.regs, .pairs] (pipe none [(F.BND_BKPT_EN 0 2, 1), (F.BOOT_STATUS_MODE, 2)] fun x => { x with tines := [{ ctx (.tine 0) 1#32 2#32 with ended := true }] }) (.validationEnd 0 0 {})
      (fun s => s.mayValidate 0 && s.anyBreak 0) (fun _ t => (t.pairs.get 0).outcome == 2 && (t.pairs.get 0).tines == [] && (cx t).kind == .real) &&
    ck [.regs, .pairs] { pipe none [] fun x => { x with tines := [{ ctx (.tine 0) 1#32 2#32 with ended := true }] } with pipe := { recfg := true } } (.validationEnd 0 0 {})
      (fun s => s.mayValidate 0 && s.pipe.recfg) (fun _ t => (t.pairs.get 0).outcome == 6 && (t.pairs.get 0).tines == [])) = true := by decide +kernel

/-- R187, R174, R184, R177: a test section that waits starts over the background table; SELF; step 4 not judged, and for the 16th time. -/
theorem test_seq_more : (ck [.regs, .halves] (((seqDev 0#32 [] { wait := true, next := 0, due := 9 }).setReg (Reg.SEQ_TABLE_W0 0 1) 0x100#32)) (.seqEntryStart 0)
      (fun s => s.seqOp 0 1 == 0 && s.fld (F.SEQ_CFG_BG_LEN 0) == 1)
      (fun _ t => (t.seqOf 0).test && !(t.seqOf 0).wait && t.seqEntry 0 == 1 && t.fld (F.SEQ_STATUS_STATE 0) == 2) &&
    ck [.regs, .halves] (seqDev 0x50000100#32 [] {}) (.seqEntryStart 0) (fun s => s.seqOp 0 0 == 5)
      (fun s t => (t.seqOf 0).stage == .selfZero && (t.seqOf 0).selfLeft == s.rangesInUse 0) &&
    ck [.regs, .halves] (seqDev 0x13000100#32 [] { cmp := some (3, 4, none) }) (.step4Verdict 0) (fun _ => true) (fun _ t => (t.seqOf 0).unjudged == 1 && (t.seqOf 0).stage == .check) &&
    ck [.regs, .halves] (seqDev 0x13000100#32 [] { cmp := some (3, 4, none), unjudged := 15 }) (.step4Verdict 0) (fun _ => true)
      (fun s t => (t.seqOf 0).ending && (t.seqOf 0).skip && up s (F.SEQ_COUNTS_SKIPPED 0) t)) = true := by decide +kernel

/-! ## Further witnesses: transactions, Yoke, Gleaner, journal, Dormant -/

/-- R357, R359: a reserved opcode is a bad header; a code of bench mode elsewhere is denied. -/
theorem test_strayOpcode : (ck portParts (port []) (.status (hdr 0x66 { count := 2, stray := some 0x66 })) (fun s => s.portAnswers && reservedOp 0x66 && s.headerBad opSTATUS (hdr 0x66 { count := 2, stray := some 0x66 }))
      (fun s t => refusedWith 0x66 4 t && up s F.HP_COUNTS_BAD_HEADER t) &&
    ck portParts (port []) (.status (hdr 0x74 { count := 2, stray := some 0x74 })) (fun s => !s.bench && s.benchCode 0x74 && !s.headerBad opSTATUS (hdr 0x74 { count := 2, stray := some 0x74 }))
      (fun _ t => refusedWith 0x74 5 t)) = true := by decide +kernel

/-- A port that sends the answer of a READ up to tick 100. -/
def sendingPort : State :=
  { port [] with hp := { sending := [⟨1, hdr opREAD {}, 0#32, 0, 1, false, 0, [7#32], none, [], 0, 0, none, 100, none⟩] } }

/-- R373, R374: a READ and a POP whose device part is still being sent; it ends with its last bit. -/
theorem test_sending : (ck [.regs, .fc, .pairs, .hp] (port []) (.read (hdr opREAD {}) ⟨[], 5, 0, none⟩) (accepted opREAD (hdr opREAD {}))
      (fun s t => t.hp.sending.map (fun x => (x.op, x.words, x.endAt, x.body)) == [(opREAD.toNat, 1, s.tick + s.fetchTicks 1 + 5, [0x4C4B1600#32])] && t.hp.resp == s.hp.resp) &&
    ck [.regs, .fc, .pairs, .cribs, .hp] (cribbed 0 4 0 []) (.pop (hdr opPOP { count := 9, addr := 0x38300 }) ⟨[], 5, 0, none⟩) (fun s => s.popWindow 3 && s.popCount 3 9 == 1)
      (fun s t => t.reg (Reg.CRIB_CONS 3) == s.reg (Reg.CRIB_CONS 3) && (t.cribs.get 3).latched == 1 && t.hp.sending.length == 1) &&
    decide (sendingPort.catchUp sendingPort.tick = sendingPort) && ((sendingPort.setTick 100).catchUp 100).hp.sending == [] &&
    answered opREAD 0 1 [7#32] ((sendingPort.setTick 100).catchUp 100)) = true := by decide +kernel

/-- R499: the data of an NVM_STAGE wait while a page of the journal is due. -/
theorem test_nvm_page : ck [.hp] { port [(F.STAGE_STATUS_STATE, 2)] with sr := { blocks := [{ block5 with programmed := 0 }] } } (.nvmStage (hdr opNVM { count := 64 }) (List.replicate 64 7#32))
    (fun s => s.pageDue && !s.boot.programming && accepted opNVM (hdr opNVM { count := 64 }) s) (fun _ t => t.hp.writes.length == 1) = true := by decide +kernel

/-- R144, R203, R210: the window of a die in reset stands empty; the last one closes where the die's own count ends. -/
theorem test_fastWindow_dies : ck [.regs, .chans, .halves] (((sw [] id).updHalf 0 fun x => { x with dnLen := 23990 }).updHalf 1 fun x => { x with inReset := true }) (.fastWindowClose 25 (sample 9000 false))
    (fun s => (s.half 1).inReset && !(s.half 0).inReset && windowsOf s.swLen == 25)
    (fun _ t => ((t.half 1).win.any fun x => x.chans == [] && x.closed == 24000) && (t.half 0).win.any fun x => x.chans.length == 8 && x.closed == 23990) = true := by decide +kernel

/-- R366: the Stack takes the forced value of a derived entry. -/
theorem test_forcedStack : ck [.regs, .sig, .out, .pairs]
    { withSig (pipe (some { ctx .real 1#32 2#32 with ended := true, sheaf := 1, writes := [⟨600, 1#32, 1, 0⟩] }) [(F.CH_CMD_SRC_EN 3, 1), (F.CH_CMD_SRC_INDEX 3, 600)] fun x => { x with outcome := 2 }) with
      forces := [(600, 0#32)] }
    (.realEvaluationEnd 0 {}) (fun s => (cx s).ended && s.forces == [(600, 0#32)]) (fun _ t => (t.out.get 3).next == some (0#32, 192)) = true := by decide +kernel

/-- R290, R343: a halted pair stands at the start of its program when its halves are armed. -/
theorem test_arming_halted : ck [.regs, .sig, .pipe, .out, .chans, .halves, .pairs, .boot, .pwr, .yk]
    ((asked [] { armReq := some (3, 0), image := some img0 }).updPair 0 fun x => { x with prog := some prog0, halted := true }) .arming
    (fun s => s.tick == s.btick && s.armCode 3 == 0 && (s.pairs.get 0).halted)
    (fun s t => (t.pairs.get 0).ctx == some (freshCtx .real s.swath prog0 0 (t.pairs.get 0).dmem [])) = true := by decide +kernel

/-- R302, R414, R428: an uncorrectable error in the landing buffer of a broken scan; positions above the N_f in force fail in a scan that finds a changed chain. -/
theorem test_scanLanding_more : (ck (.cvu :: .gln :: faultParts) (head found fun x => { x with scan := some 0, started := true, members := [(1, { heard := true, cls := 7, layout := 2, data := some ([9#32], [2]) })] })
      (.scanLanding 1 [] 1 (some 4)) (fun s => (s.gln.segs.get 1).scan == some 0)
      (fun s t => up s F.GRN_ECC_UNCORR t && told s srcGRN kGrnDataLost (faultAddr 2 (bankOf 0xE00004)) t && (t.member 1 1).data == none) &&
    ck (.cvu :: .gln :: faultParts) (head [(F.GLN_SEG_STATE_FOUND 1, 1)] fun x => { x with scan := some 0, scanEnum := true, started := true, known := true })
      (.scanLanding 1 (stream (mkBale 96 0xA0 7 2 5 [9#32]) (mkBale 96 0xA0 7 2 5 [9#32])) 0 none) (fun s => s.fld (F.GLN_SEG_STATE_FOUND 1) == 1)
      (fun _ t => (t.member 1 2).fails == 1 && (t.member 1 1).fails == 0) &&
    ck (.gln :: faultParts) (head [] fun x => { x with afresh := true, members := [(1, { heard := true, fails := 3 })] }) (.gleanerScanStart 1 false) (fun s => (s.gln.segs.get 1).afresh)
      (fun _ t => (t.member 1 1).fails == 1)) = true := by decide +kernel

/-- R436, R437: the echo at the lead; ALIGN at the follower in SAFE and in ARMED; CONFIRM at the lead with equal and unequal digests, and one that refuses. -/
theorem test_yokeJoin : (ck [.regs, .yk] (yoked 2 true [(F.YK_STATUS_STATE, 2)] {}) (.yokeFrame 3 (some (frame48 0xBC100003#32 0#32 [0x06000000#32])) 30) (fun s => s.boot.lead && !(s.awaitBeat false).beatMissing)
      (fun _ t => t.yk.echoIn == some 30 && t.fld F.YK_STATUS_STATE == 2) &&
    ck [.regs, .yk] (yoked 2 false [(F.YK_STATUS_STATE, 2)] { echoAt := some 10 }) (.yokeFrame 3 (some (frame48 0xBC100003#32 0#32 [0x02000000#32, 4#32, 7#32, 0#32, 3#32, 0#32, 5#32])) 30)
      (fun s => s.isSafe && !s.boot.lead) (fun _ t => t.yk.aligning && t.yk.base == some (7, 3, 5) && t.reg Reg.YK_DELAY == 8#32) &&
    ck faultParts (yoked 2 false [(F.SYS_STATE_STATE, 3), (F.YK_STATUS_STATE, 2)] {}) (.yokeFrame 3 (some (frame48 0xBC100003#32 0#32 [0x02000000#32])) 30)
      (fun s => !s.isSafe) (fun s t => t.fld F.YK_STATUS_STATE == 5 && t.fld F.YK_STATUS_REASON == 9 && told s srcYK kYokeMismatch (faultAddr 63 9) t) &&
    ck [.regs, .yk] (yoked 2 true [(F.YK_STATUS_STATE, 2)] {}) (.yokeFrame 3 (some (frame48 0xBC100003#32 0#32 [0x03000000#32])) 30) (fun s => s.digestsEqual)
      (fun _ t => t.yk.confirmed && t.fld F.YK_STATUS_STATE == 3) &&
    ck faultParts (yoked 2 true [(F.YK_STATUS_STATE, 2)] { hello := some { parseHello (yoked 2 false [] {}).helloWords with recfg := [1#32] } }) (.yokeFrame 3 (some (frame48 0xBC100003#32 0#32 [0x03000000#32])) 30)
      (fun s => !s.digestsEqual) (fun s t => t.fld F.YK_STATUS_STATE == 5 && t.fld F.YK_STATUS_REASON == 10 && told s srcYK kYokeMismatch (faultAddr 63 10) t) &&
    ck faultParts (yoked 2 true [(F.YK_STATUS_STATE, 3)] {}) (.yokeFrame 3 (some (frame48 0xBC100003#32 0#32 [0x03000005#32])) 30)
      (fun s => s.fld F.YK_STATUS_STATE == 3) (fun _ t => t.fld F.YK_STATUS_STATE == 5 && t.fld F.YK_STATUS_REASON == 5) &&
    ck faultParts (yoked 2 true [(F.YK_STATUS_STATE, 4)] {}) (.yokeFrame 3 (some (frame48 0xBC100003#32 0#32 [0x01000000#32])) 30)
      (fun s => s.joined && !s.yk.releasing && !(s.awaitBeat false).beatMissing) (fun s t => t.fld F.YK_STATUS_STATE == 6 && told s srcYK kYokeLost (faultAddr 63 63) t) &&
    ck faultParts (yoked 2 true [(F.YK_STATUS_STATE, 4)] {}) (.yokeFrame 3 (some (frame48 0xBC100003#32 0#32 [0x0300000A#32])) 30)
      (fun s => s.joined) (fun _ t => t.fld F.YK_STATUS_STATE == 5 && t.fld F.YK_STATUS_REASON == 10)) = true := by decide +kernel

/-- R450, R453, R455: the heartbeat is missing while the link is alive: told by a frame and by the loss; a release under way goes on; no test in its swath. -/
theorem test_yokePaths : (ck faultParts ((yoked 2 true [(F.YK_STATUS_STATE, 4), (F.YK_STATUS_BEAT_OK, 1)] { beatSince := some 0 }).setTick 12000) (.yokeFrame 3 (some (frame48 0xBC300003#32 0#32 [])) 0) (fun s => (s.awaitBeat false).beatMissing)
      (fun s t => told s srcYK kYokePath (faultAddr 63 0) t && !t.flag F.YK_STATUS_BEAT_OK) &&
    ck faultParts ((yoked 2 true [(F.YK_STATUS_STATE, 4), (F.YK_STATUS_BEAT_OK, 1)] { lastFrame := some 1, beatSince := some 0 }).setTick 12000) .signOfLifeLoss (fun s => s.deadSince s.yk.life && !s.deadSince s.yk.lastFrame && s.beatMissing)
      (fun s t => told s srcYK kYokePath (faultAddr 63 0) t && told s srcYK kYokeLost (faultAddr 63 63) t) &&
    ck faultParts (yoked 3 true [(F.YK_STATUS_STATE, 4)] { releasing := true }) .signOfLifeLoss (fun s => s.deadSince s.yk.life) (fun _ t => t.joined) &&
    ck [.regs] ((standIn {} id).setF F.YK_STATUS_STATE 0 |>.setF F.YK_STATUS_ACTIVE 1) (.shareTest 3) (fun s => s.releaseSwath && !s.yk.releasing) (fun s t => up s (F.CH_COUNTS_DP_SKIP 3) t)) = true := by decide +kernel

/-- R499, R504, R509: a page that is due fails, one that is not due stays; a report due before a seal goes first. -/
theorem test_journal_more : (ck (.sr :: faultParts) (record [] { blocks := [block5] }) (.pageProgram false) (fun s => s.pageDue && s.pageBlock == some block5)
      (fun s t => t.sr.badSlots == [0] && told s srcSR kJournalFail (faultAddr 63 2) t) &&
    same (record [] { blocks := [{ block5 with recs := [[0#32, 0#32, 0#32, 0#32]] }] }) (.pageProgram true) (fun s => !s.pageDue && s.pageBlock.isSome) &&
    same (record [] { tree := true, nonce := some [], blocks := [{ block5 with closed := true, closedAt := 5 }] }) .blockSeal (fun s => s.canSign && (s.sealDue.any fun b => s.reportFirst b)) &&
    same (record [] { hourAt := some 0 }) (.hourlyPass { junctions := List.replicate 16 [] }) (fun s => !s.hourDue && s.ruleSwath == 0)) = true := by decide +kernel

/-- R515: in Dormant the core domain is off. -/
theorem test_coreOff : [Instr.seqGo 0, .fcClearFirst, .faultMessage none 0x10 0x10 0, .registerWrite 0x20000 1#32, .powerRequest 0#32, .wdgKey 1 false, .joinRetry, .bndStep 0].all (fun i =>
    same { base [] with pwr := { mode := 4 } } i (fun s => !s.coreOn && coreCommand i)) = true := by decide +kernel

/-- R177: an unjudged comparison behind which a self-calibration has been inserted goes on with it. -/
theorem test_unjudged_self : ck [.regs, .halves] (seqDev 0x13000100#32 [] { cmp := some (3, 1, none), stage := .selfZero }) (.shadowVerdict 0) (fun _ => true)
    (fun _ t => (t.seqOf 0).unjudged == 1 && (t.seqOf 0).stage == .selfZero) = true := by decide +kernel

/-- R346, R379: the outputs of the port: high impedance while HSEL_N is high, driven with HRDY high in member mode, clamped without power. -/
theorem test_hostPads : ((let p := { base [] with env := { pll := true, vin := true, vioMv := 3300 } }.hostPads; !p.clamped && !p.driven && p.hrdyHigh && p.lanes == 1) &&
    (let p := { base [(F.HP_CFG_MEMBER, 1)] with env := { pll := true, vin := true, vioMv := 3300 } }.hostPads; p.driven && p.hrdyHigh) &&
    (let p := { base [] with env := { vin := false } }.hostPads; p.clamped && !p.hrdyHigh)) = true := by decide +kernel

/-- R22, R48, R63, R239: at a boundary the kept causes are in force and a commit whose pair has no evaluation is taken; the boundary of R63 ends BOOT in SAFE; of two host writes for one swath the unstamped one wins, in either order. -/
theorem test_boundary_more : (ck everyPart { solo [] with pipe := { next := cUNSTAMPED, reacted := true }, forceNext := some [] } (.swathBoundary raw0) (fun s => s.env.pll)
      (fun s t => t.pipe.window && t.pipe.prevBtick == s.btick && t.forceNext == none && t.pipe.now == (cUNSTAMPED ||| cREACTION)) &&
    ck everyPart ((solo []).updPair 0 fun x => { x with commit := some { ctx .real 1#32 2#32 with dmem := [(3, 4#32)], swath := 7 } }) (.swathBoundary raw0) (fun s => (s.pairs.get 0).ctx == none)
      (fun _ t => (t.pairs.get 0).commit == none && (t.pairs.get 0).dmem == [(3, 4#32)]) &&
    (let t := { solo [] with pipe := { next := 5, reacted := true, late := true }, fc := { onceSeen := [1] } }.turnOver 0
     t.pipe.now == (5 ||| cREACTION) && t.pipe.next == 0 && !t.pipe.late && t.fc.onceSeen == [] && t.pipe.lateB == suspends t.pipe.now) &&
    (let s := { solo [] with sig := [(700, { src := srcHost })] }
     (((s.hostValue 700 9#32).updEntry 700 fun e => e.deposit 8#32 (s.swath + 1)).entry 700).pend == some ⟨9#32, 1, 8, true, true⟩ &&
     (((s.updEntry 700 fun e => e.deposit 8#32 (s.swath + 1)).hostValue 700 9#32).entry 700).pend == some ⟨9#32, 1, 8, true, true⟩) &&
    ck everyPart { solo [(F.SYS_STATE_STATE, 1)] with boot := { tbNext := some (0x00285DC0#32, 5#32), image := some {} } } (.swathBoundary raw0)
      (fun s => s.isBoot && s.yokeMode == 0 && s.yk.apply == [] && s.yk.alignEnd == none && s.recfgState != 2)
      (fun s t => t.reg Reg.TB_CONFIG == 0x00285DC0#32 && t.reg Reg.SYNC_OFFSET == 5#32 && t.phase == 0 && t.stook == s.stook + 1 && t.isSafe && t.boot.tbNext == none)) = true := by
  decide +kernel

/-- Crib 3 with one entry published, and one of pair 0 due at tick 10. -/
def draining : State := (cribbed 0 0 0 []).updPair 0 fun x => { x with due := [(10, 3, [1#32, 2#32, 3#32, 4#32])] }

/-- R310, R313, R314: an entry of a commit falls due and stands unpublished beyond PROD; the boundary publishes it. -/
theorem test_cribs_commit : (draining.entryWords 3 == 4 && draining.ringSize 3 == 2 && draining.occupancy 3 == 1 && (draining.cribs.get 3).written == [] && draining.flag (F.CRIB_CFG_EN 3) &&
    ((draining.drainTo 10).cribs.get 3).written == [(0, [1#32, 2#32, 3#32, 4#32])] && (draining.drainTo 10).prod 3 == 1 && ((draining.drainTo 10).pairs.get 0).due == [] &&
    (draining.drainTo 10).readWords (draining.ringAddr 3 1) 4 == [1#32, 2#32, 3#32, 4#32] && (draining.drainTo 10).readWords (draining.ringAddr 3 0) 4 == [11#32, 12#32, 13#32, 14#32] &&
    ((draining.drainTo 10).publish 3 0).prod 3 == 2 && (((draining.drainTo 10).publish 3 0).cribs.get 3).written == [] &&
    ((draining.drainTo 10).publish 3 0).readWords (draining.ringAddr 3 1) 4 == [1#32, 2#32, 3#32, 4#32]) = true := by decide +kernel

/-- R239: the boundary gives a pair the data memory of its commit and publishes its entries. -/
theorem test_applyCommit : ((fun u : State => u.prod 3 == 2 && (u.cribs.get 3).written == [] && (u.pairs.get 0).commit == none && (u.pairs.get 0).dmem == [(3, 4#32)])
    (((draining.drainTo 10).updPair 0 fun x => { x with commit := some { ctx .real 1#32 2#32 with dmem := [(3, 4#32)] } }).applyCommit 0 false true)) = true := by decide +kernel

/-- R239, R309: the boundary confirms the copies of a commit, LATE where its swath is suspended. -/
theorem test_commit_copies : ([true, false].all fun l =>
    let s := { (solo []).updPair 0 fun x => { x with commit := some (ctx .real 1#32 2#32) } with sig := [(600, { src := srcDerived 0, pend := some ⟨1#32, 1, 7, false, false⟩ })] }
    ((s.applyCommit 0 l true).entry 600).pend == some ⟨1#32, withLate l 1, 7, false, true⟩) = true := by decide +kernel

/-- R286, R313, R375: the invariants hold after reset, and of a pair that a Binder fault has blocked. -/
theorem test_invariants : (State.reset.stampedFit ∧ State.reset.cribsSound ∧ State.reset.blockedIdle) ∧
    (match step { pipe (some (ctx .real 1#32 2#32)) [] id with pending := [.binderFault 0 8 1 2 {}] } with
      | .next t => (t.pairs.get 0).blocked.isSome && (t.pairs.get 0).ctx == none && (t.pairs.get 0).commit == none
      | _ => false) = true := by
  unfold State.stampedFit State.cribsSound State.blockedIdle
  decide +kernel

/-- R203, R204: a frame is taken by the slot that the die counts from its own boundary. -/
theorem test_dieSlot : (ck (.halves :: fieldParts) (linked [] fun x => { x with dieAt := 192 }) (.downlinkFrame 0 2 (some frame1)) (fun s => s.framesRun 0 && s.btick == 0)
      (fun _ t => (t.half 0).dnGot && (t.half 0).dieAt == 192 && (t.chan 3).value == 0) &&
    ck [.regs, .chans, .halves, .sr] (linked [] fun x => { x with dieAt := 192 }) (.downlinkFrame 0 1 (some frame1)) (fun s => s.framesRun 0)
      (fun s t => (t.half 0).dnBad == (s.half 0).dnBad + 1 && !(t.half 0).dnGot)) = true := by decide +kernel

/-- R28, R30: a rejection drops the shadow of an earlier one whose set has ended. -/
theorem test_recfg_shadow : ck faultParts { base [(F.SYS_STATE_STATE, 2), (F.SYS_RECFG_STATUS_STATE, 3)] with recfg := { shadow := some (3, 0) } } (.recfgCommit 0) (fun s => s.recfgState == 3)
    (fun _ t => t.recfg.shadow == none && t.fld F.SYS_RECFG_STATUS_STATE == 4 && t.fld F.SYS_RECFG_STATUS_REASON == 1) = true := by decide +kernel

/-- R462, R470, R290: a kind raised once in a swath is not raised again; a reaction that disarms keeps a halted pair. -/
theorem test_faults_more : (same { reacts 1 [] with fc := { onceSeen := ((onceKey srcHP kHpFrame 63).toList.map fun k => 2 * k + 1) } } (.faultMessage none (BitVec.ofNat 8 srcHP) (BitVec.ofNat 6 kHpFrame) 63)
      (fun s => known srcHP kHpFrame && !firstOf s srcHP kHpFrame 63) &&
    ck faultParts ((reacts 4 []).updPair 0 fun x => { x with prog := some prog0, halted := true, ctx := some (twin (ctx .real 1#32 2#32)) }) (.faultMessage none 0x10 0x10 (BitVec.ofNat 12 (faultAddr 63 63)))
      (fun s => (s.pairs.get 0).halted && s.reactionOf 0x10 0x10 == (4, false)) (fun s t => t.isHalted && t.pairs.get 0 == s.pairs.get 0)) = true := by decide +kernel

/-- R475, R531: the entry boundary of Dormant no longer judges the window. -/
theorem test_wdg_dormant : same { dog 6 [] { a0 := some 2 } with pwr := { req := some ⟨4, 0, false, none⟩ } } .wdgCloseEdge (fun s => s.entersDormant && s.wdgGrid == some 2 && s.atBoundary) = true := by
  decide +kernel

/-- R523, R525: in Doze a request for Run that changes the level waits behind the wake; a sheaf's request. -/
theorem test_power_more : (ck [.regs, .pwr] (powered [] { mode := 1, req := some ⟨2, 0, false, none⟩ }) (.powerRequest 2#32) (fun s => s.fld F.PWR_STATUS_LEVEL != 2)
      (fun _ t => t.pwr.req == some ⟨0, 2, false, none⟩ && t.pwr.wake == some (1, 0)) &&
    ck [.regs, .pwr] (powered [] { mode := 1, req := some ⟨2, 0, false, none⟩ }) (.powerRequest 0#32) (fun s => s.fld F.PWR_STATUS_LEVEL == 0) (fun _ t => t.pwr.req == none) &&
    (let s := { powered [(F.PWR_CFG_REQ_PAIR, 1)] {} with sig := [(65, { src := srcDerived 1, value := 0xA1#32 })] }
     (s.readEntry 65).value == 0xA1#32 && (s.sheafRequest 0#32).pwr.req == some ⟨2, 1, true, none⟩ && decide (s.sheafRequest 0xA1#32 = s) &&
     decide ({ s with pwr := { req := some ⟨1, 0, false, none⟩ } }.sheafRequest 0#32 = { s with pwr := { req := some ⟨1, 0, false, none⟩ } }))) = true := by decide +kernel

/-- R360, R374: a STATUS that HSEL_N cuts off before its last bit answers nothing and counts. -/
theorem test_status_cut : ck portParts (port []) (.status (hdr opSTATUS { count := 2, cut := some false })) (accepted opSTATUS (hdr opSTATUS { count := 2, cut := some false }))
    (fun s t => t.hp.resp == s.hp.resp && up s F.HP_COUNTS_ABORTED t) = true := by decide +kernel

/-- R213, R209: a valid uplink frame brings the supply, the straps and the conditions of its half. -/
theorem test_uplink_words : ck (.chans :: faultParts) ((linked [] fun x => { x with high := true, almIn := 3, gdrv := true, forced := true }).updChan 3 fun x => { x with limit := true, told := 0 }) (.uplinkFrame 0 (some 4) none)
    (fun s => s.linkUp 0 && 5 < s.fullSlots && (s.upRx 0 (some 4) none).isSome)
    (fun s t => t.fld (F.FH_STATUS_SUPPLY 0) == (s.half 0).supply && t.fld (F.FH_STATUS_ALM_STRAP 0) == 3 && t.flag (F.FH_STATUS_GDRV_ON 0) && !t.flag (F.BD_STATUS_TABLE_OK 0) &&
      (t.chan 3).told == wbits ((s.upFrame 0 (some 4)).conds) 14 12 && (t.chan 3).told != 0) = true := by decide +kernel

/-- R522, R528: a pin reset in Dormant finds what is not retained there lost. -/
theorem test_rstN_dormant : ck everyPart { ran [] with mem := [(loftBase, 5#8)], pwr := { mode := 4 } } (.rstN {} true) (fun s => s.env.vin && !s.flag F.PWR_CFG_REG && (s.catchUp s.tick).loseDormant.mem == [])
    (fun s t => t.mem == [] && t.swath == s.swath && t.isBoot) = true := by decide +kernel

/-! ## Ill-formed commands: one for each check of WellFormed.lean -/

/-- A stook with all its results. -/
def stook0 : StookRaw := { chans := List.replicate 16 {}, spares := [{}, {}], ints := [0, 0] }

/-- R140, R141, R325: power-on and windows. -/
theorem test_wf_samples : ((Instr.swathBoundary stook0).wf && !(Instr.swathBoundary { stook0 with chans := [] }).wf && !(Instr.swathBoundary { stook0 with spares := [{}] }).wf && !(Instr.swathBoundary { stook0 with ints := [] }).wf &&
    !(Instr.powerOn {} (some { records := List.replicate 257 [] })).wf && !(Instr.fastWindowClose 0 (sample 0 false)).wf && !(Instr.fastWindowClose 1 { sample 0 false with chans := [] }).wf &&
    !(Instr.fastWindowClose 1 { sample 0 false with spares := [] }).wf && !(Instr.fastWindowClose 1 { sample 0 false with vfield := [] }).wf && !(Instr.fastWindowClose 1 { sample 0 false with total := [0] }).wf &&
    !(Instr.hourlyPass {}).wf && (Instr.hourlyPass { junctions := List.replicate 16 [] }).wf) = true := by decide +kernel

/-- A slot with more words than the flash holds. -/
theorem test_wf_flash : (∀ ws : List Word, 1048576 < ws.length → (Instr.powerOn {} (some { slotA := ws })).wf = false) ∧
    ∀ ws : List Word, 1048576 < ws.length → (Instr.powerOn {} (some { slotB := ws })).wf = false := by
  constructor <;> intro ws h <;> simp [Instr.wf, FlashIn.wf] <;> omega

/-- R202-R208, R432: frames, slots and the mailbox. -/
theorem test_wf_links : (!(Instr.downlinkFrame 0 8192 none).wf && !(Instr.downlinkFrame 0 1 (some (List.replicate 23 0#32))).wf && (Instr.downlinkFrame 0 1 (some (List.replicate 24 0#32))).wf &&
    !(Instr.mbWrite 0 0 0 (List.replicate 8 0#32)).wf && !(Instr.uplinkFrame 0 (some 8192) none).wf && !(Instr.yokeFrame 8192 none 0).wf && !(Instr.yokeFrame 0 (some (List.replicate 47 0#32)) 0).wf &&
    !(Instr.fullSlotEnd 0 8192).wf && !(Instr.syncEdge 0 4 true).wf) = true := by decide +kernel

/-- R265, R267, R268, R272: reserved codes of Binder instructions, and a PC outside the code memory. -/
theorem test_wf_binder : ([12#4, 13#4, 15#4].all (fun k => !(Instr.bSel 0 0 0 0 k).wf && !(Instr.bSetc 0 0 k).wf && !(Instr.bBr 0 k 0).wf) && (Instr.bBr 0 14 0).wf && !(Instr.bRds 0 0 7).wf && !(Instr.bLdw 0 0 1 0).wf &&
    !(Instr.lockstep 0 0 16384 0 {}).wf && !(Instr.binderFault 0 0 16384 0 {}).wf) = true := by decide +kernel

/-- R420, R422, R426, R500, R9, R556: the rest. -/
theorem test_wf_rest : (!(Instr.deliveryData 1 (List.replicate 28 0#32)).wf && !(Instr.deliveryData 0 (List.replicate 27 0#32)).wf && !(Instr.foldBlock 0 8 0).wf && !(Instr.foldBlock 0 0 961).wf &&
    !(Instr.classImageRead 0 0).wf && !(Instr.classImageRead 0 256).wf && !(Instr.srWinJournal 2).wf && !(Instr.srWinReport 1).wf && !(Instr.registerWrite 2 0#32).wf && !(Instr.vioLevelChange 4001).wf) = true := by decide +kernel

end Sys2Proof.Tests
end

section
/-!
PROOFS. Proofs/Keys.lean: the state at power-on, and the keys that wait for the boundary.
-/
namespace Sys2Proof.Machine

/-! ## Shared rules -/

theorem State.whenB_true (s : State) {b : Bool} (f : State → State) (h : b = true) : s.whenB b f = f s := if_pos h

theorem State.whenB_false (s : State) {b : Bool} (f : State → State) (h : b = false) : s.whenB b f = s :=
  if_neg (by simp [h])

/-- A command to the core domain acts while the domain is on (R515). -/
theorem State.hostKey_on (s : State) (f : State → State) (h : s.coreOn = true) : s.hostKey f = .next (f s) :=
  congrArg Host.Outcome.next (s.whenB_true f h)

/-- A command to the core domain that would change nothing changes nothing, be the domain on or off. -/
theorem State.hostKey_same (s : State) (f : State → State) (h : f s = s) : s.hostKey f = .next s := by
  unfold State.hostKey State.whenB
  split
  · rw [h]
  · rfl

theorem regsKeep_setReg (s : State) (a : Nat) (v : Word) : RegsKeep (fun b => b == a) s (s.setReg a v) :=
  ⟨fun b _ n => s.reg_setReg_ne a b v (by simpa using n)⟩

/-- Setting a field changes the register it stands in alone. -/
theorem regsKeep_setF (s : State) (f : Fld) (v : Nat) : RegsKeep (fun b => b == f.reg) s (s.setF f v) :=
  regsKeep_setReg ..

theorem regsKeep_setB (s : State) (f : Fld) (b : Bool) : RegsKeep (fun a => a == f.reg) s (s.setB f b) :=
  regsKeep_setReg ..

/-! ## Power-on -/

/-- Settles O57: the state at power-on holds no list and no register beside its reset value. -/
theorem resetHoldsTheStatedValues : Obligations.ResetHoldsTheStatedValues := by
  refine ⟨reset_memWf, ?queue, rfl, rfl, fun _ => rfl, fun _ => rfl, by decide, by decide, by decide, by decide, by decide,
    rfl, rfl, ?apart, ?idle, fun _ => rfl⟩
  case queue => simp [State.queueWf, State.reset]
  case apart => simp [State.chan, State.reset]
  case idle => simp [State.reset]

/-! ## Keys (R153, R160, R538) -/

theorem atClear_spec (s : State) (c : ChIx) :
    (s.atClear c).chan c = { s.chan c with atClear := true } ∧ OtherChKept c s (s.atClear c) ∧
      (s.atClear c).pipe.next = s.pipe.next ||| cUNSTAMPED := by
  refine ⟨?own, fun d n => ?other, rfl⟩
  case own => exact (chan_updChan s c c _).trans (if_pos rfl)
  case other => exact (chan_updChan s c d _).trans (if_neg n)

/-- A write of REFBUF_EN in Full mode (R13, R153). -/
theorem writeRefBuf_full (s : State) (h : HalfIx) (v : Word) (full : s.flag (F.THR_REF_LEAN h.val) = false) :
    s.writeRefBuf h v
      = ((s.setB (F.THR_REF_REFBUF_EN h.val) (wbit v 0)).updHalf h fun x => { x with refWrite := some (wbit v 0) }).unstamped :=
  if_neg (by simp [full])

/-- In Lean mode the write is dropped (R154). -/
theorem writeRefBuf_lean (s : State) (h : HalfIx) (v : Word) (lean : s.flag (F.THR_REF_LEAN h.val) = true) :
    s.writeRefBuf h v = s := if_pos lean

theorem writeRefBuf_spec (s : State) (h : HalfIx) (v : Word) (full : s.flag (F.THR_REF_LEAN h.val) = false) :
    (s.writeRefBuf h v).half h = { s.half h with refWrite := some (wbit v 0) } ∧ OtherDieKept h s (s.writeRefBuf h v) ∧
      (s.writeRefBuf h v).flag (F.THR_REF_REFBUF_EN h.val) = wbit v 0 ∧
      RegsKeep (fun a => a == Reg.THR_REF h.val) s (s.writeRefBuf h v) ∧
      (s.writeRefBuf h v).pipe.next = s.pipe.next ||| cUNSTAMPED := by
  rw [writeRefBuf_full s h v full]
  have written (k : HalfIx) := half_updHalf (s.setB (F.THR_REF_REFBUF_EN h.val) (wbit v 0)) h k
    fun x => { x with refWrite := some (wbit v 0) }
  refine ⟨(written h).trans (if_pos rfl), fun k n => (written k).trans (if_neg n), ?_, ?_, rfl⟩
  · exact s.flag_setB_same (F.THR_REF_REFBUF_EN h.val) (wbit v 0) rfl (by decide : (0 : Nat) < 32)
  · exact ⟨(regsKeep_setB s (F.THR_REF_REFBUF_EN h.val) (wbit v 0)).same⟩

/-- A key of PC_CTRL joins those that wait, and PC_STATUS shows that one does (R538). -/
theorem pcKey_spec (s : State) (bit : Nat) :
    (∀ k, (s.pcKey bit).perf.testBit k = (s.perf.testBit k || decide (k = bit))) ∧
      (s.pcKey bit).flag F.PC_STATUS_WAITING = true ∧ RegsKeep (fun a => a == Reg.PC_STATUS) s (s.pcKey bit) := by
  refine ⟨fun k => ?_, State.flag_setB_same _ F.PC_STATUS_WAITING true rfl (by decide),
    ⟨(regsKeep_setB s F.PC_STATUS_WAITING true).same⟩⟩
  change (s.perf ||| 2 ^ bit).testBit k = _
  rw [Nat.testBit_or, Nat.testBit_two_pow]
  simp only [eq_comm]

/-- The four keys put their bit. -/
theorem exec_pcKey (s : State) (i : Instr) (bit : Nat)
    (h : (i = .pcSnapshot ∧ bit = 0) ∨ (i = .pcClear ∧ bit = 1) ∨ (i = .pcFreeze ∧ bit = 2) ∨ (i = .pcRun ∧ bit = 3)) :
    exec i s = s.hostKey fun s => s.pcKey bit := by
  rcases h with ⟨rfl, rfl⟩ | ⟨rfl, rfl⟩ | ⟨rfl, rfl⟩ | ⟨rfl, rfl⟩ <;> rfl

/-- Settles O34: each key records what it asks for, and marks the next swath or PC_STATUS. -/
theorem keysWaitForTheBoundary : Obligations.KeysWaitForTheBoundary := by
  refine ⟨fun s => ⟨fun c on => ?clear, fun h v on full => ?full, fun h v lean => ?lean⟩, fun s i bit h on => ?perf⟩
  case clear => exact ⟨_, s.hostKey_on _ on, only_mono (State.atClear_only ..) (by decide), atClear_spec s c⟩
  case full =>
    exact ⟨_, s.hostKey_on _ on, only_mono (State.writeRefBuf_only ..) (by decide), writeRefBuf_spec s h v full⟩
  case lean => exact ⟨s, s.hostKey_same _ (writeRefBuf_lean s h v lean), rfl⟩
  case perf => exact ⟨_, (exec_pcKey s i bit h).trans (s.hostKey_on _ on), State.pcKey_only .., pcKey_spec s bit⟩

end Sys2Proof.Machine
end

section
/-!
PROOFS. Register writes of the host (R13-R17, R348, R370), and the level of VIO (R548).
-/
namespace Sys2Proof.Machine

/-! ## Writes that R288 refuses -/

/-- A refused write names a pair of the device, or one that a Wide lead presents. -/
theorem debugDenied_lt (s : State) (a : Nat) (v : Word) (p : Nat) (h : s.debugDenied a v = some p) : p < 8 := by
  unfold State.debugDenied at h
  split at h
  · cases h
  · next range =>
    have upper : a < 0x60000 := by
      simp only [Bool.or_eq_true, Bool.not_eq_true', Bool.and_eq_false_iff, decide_eq_false_iff_not, Bool.or_eq_false_iff,
        not_or, not_and, not_lt] at range
      omega
    dsimp only at h
    split at h
    · injection h with h
      omega
    · cases h

/-- No register below the Binder blocks is a debug key or a breakpoint. -/
theorem debugDenied_low (s : State) (a : Nat) (v : Word) (h : a < 0x40000) : s.debugDenied a v = none :=
  if_pos (by simp; omega)

theorem known_haltRefused (p : Nat) (h : p < 8) : known (if p < 4 then srcBND p else 0x24 + p % 4) kHaltRefused = true := by
  have all : ∀ q : Fin 8, known (if q.val < 4 then srcBND q.val else 0x24 + q.val % 4) kHaltRefused = true := by decide
  exact all ⟨p, h⟩

theorem exec_registerWrite_refused (s : State) (a : BitVec 24) (v : Word) (p : Nat) (h : s.debugDenied a.toNat v = some p) :
    exec (.registerWrite a v) s = .next (s.whenB s.coreOn fun s => s.refuseDebug p) := by
  change Host.Outcome.next _ = _
  unfold State.whenB
  dsimp only
  rw [h]

/-- A refused write is told while the core domain is on, and does nothing else. -/
theorem registerWrite_refused (s : State) (a : BitVec 24) (v : Word) (p : Nat) (h : s.debugDenied a.toNat v = some p) :
    DoesOnly faultParts (.registerWrite a v) s fun t =>
      Told s.swath (if p < 4 then srcBND p else 0x24 + p % 4) kHaltRefused (faultAddr 63 63) t := by
  refine ⟨_, exec_registerWrite_refused s a v p h, ?_⟩
  cases on : s.coreOn with
  | false =>
    rw [s.whenB_false _ rfl]
    exact ⟨only_refl _ s, fun on' => by simp [on] at on'⟩
  | true =>
    rw [s.whenB_true _ rfl]
    exact ⟨only_mono (State.refuseDebug_only ..) (by decide), told_raise (known_haltRefused p (debugDenied_lt s _ v p h))⟩

/-! ## One word of the host -/

theorem exec_registerWrite_on (s : State) (a : BitVec 24) (v : Word) (on : s.coreOn = true)
    (h : s.debugDenied a.toNat v = none) (low : a.toNat < signalBase) :
    exec (.registerWrite a v) s = .next (s.hostWrite false a.toNat v).2 := by
  refine (s.hostKey_on _ on).trans ?_
  rw [h]
  exact congrArg Host.Outcome.next (if_neg (by omega))

/-- The registers of CVU_SESSION, whose write asks for a seal (R398). -/
def isSession (a : Nat) : Bool := decide (Reg.CVU_CFG 0 ≤ a) && decide (a < Reg.CVU_CFG 4) && a % 64 == 0x1C

/-- Outside the Granary, the snapshot bank's holes and the follower's blocks a write goes to the register that stands there. -/
theorem hostWrite_register (s : State) (a : Nat) (v : Word) (r : RegRow) (off : s.blockOff a = false) (low : a < signalBase)
    (hole : bankHole a = false) (twin : s.twinOf a = none) (row : regRow? (canonAddr a) = some r)
    (ses : isSession a = false) : (s.hostWrite false a v).2 = s.regWrite false r (canonAddr a) v := by
  unfold isSession at ses
  have nlow : ¬ signalBase ≤ a := by omega
  simp [State.hostWrite, off, nlow, hole, twin, row, ses]

theorem hostWrite_unmapped (s : State) (a : Nat) (v : Word) (off : s.blockOff a = false) (low : a < signalBase)
    (hole : bankHole a = false) (twin : s.twinOf a = none) (row : regRow? (canonAddr a) = none) :
    (s.hostWrite false a v).2 = s := by
  have nlow : ¬ signalBase ≤ a := by omega
  simp [State.hostWrite, off, nlow, hole, twin, row]

/-- A Wide lead passes the write of a writable register of its follower on (R443). -/
theorem hostWrite_twin (s : State) (a f : Nat) (v : Word) (r : RegRow) (off : s.blockOff a = false) (low : a < signalBase)
    (hole : bankHole a = false) (twin : s.twinOf a = some f) (row : regRow? (canonAddr f) = some r) (ro : r.acc ≠ .ro)
    (rc : r.acc ≠ .rc) :
    (s.hostWrite false a v).2
      = (s.updYk fun y => { y with forward := y.forward ++ [(canonAddr f, v, false)] }).unstamped := by
  have nlow : ¬ signalBase ≤ a := by omega
  simp [State.hostWrite, off, nlow, hole, twin, row, ro, rc]

/-- A block that is off and a hole of the snapshot bank take no write. -/
theorem hostWrite_none (s : State) (a : Nat) (v : Word) (low : a < signalBase)
    (h : s.blockOff a = true ∨ bankHole a = true) : (s.hostWrite false a v).2 = s := by
  have nlow : ¬ signalBase ≤ a := by omega
  cases off : s.blockOff a with
  | true => simp [State.hostWrite, off]
  | false => simp [State.hostWrite, off, nlow, h.resolve_left (by simp [off])]

/-! ## Access codes -/

/-- The write of a CVU_SESSION register acts (R398). -/
theorem actWrite_session (s : State) (a : Nat) (v : Word) (h : isSession a = true) :
    s.actWrite false (canonAddr a) v ≠ none := by
  have unit : ∃ u : Fin 4, a = 0x501C + 64 * u.val := by
    simp only [isSession, Bool.and_eq_true, decide_eq_true_eq, beq_iff_eq] at h
    simp only [Reg.CVU_CFG] at h
    exact ⟨⟨(a - 0x5000) / 64, by omega⟩, by simp only; omega⟩
  obtain ⟨u, rfl⟩ := unit
  have acts : ∀ u : Fin 4, (s.actWrite false (canonAddr (0x501C + 64 * u.val)) v).isSome = true
    | 0 => rfl
    | 1 => rfl
    | 2 => rfl
    | 3 => rfl
  intro none
  simpa [none] using acts u

/-- A bit after a write that follows the access code: cleared, set as written, or kept (R13, R14). -/
theorem getLsbD_plainWrite (s : State) (r : RegRow) (a : Nat) (v : Word) (n : Nat) (h : n < 32) :
    ((s.plainWrite r a v).reg a).getLsbD n =
      (if r.w1c.testBit n && v.getLsbD n && !(s.freshBits a).getLsbD n then false
        else if r.wmask.testBit n then v.getLsbD n else (s.reg a).getLsbD n) := by
  unfold State.plainWrite
  rw [State.reg_setReg_same]
  simp only [BitVec.getLsbD_and, BitVec.getLsbD_or, BitVec.getLsbD_not, BitVec.getLsbD_ofNat, h, decide_true, Bool.true_and]
  cases r.wmask.testBit n <;> cases r.w1c.testBit n <;> cases v.getLsbD n <;> cases (s.freshBits a).getLsbD n <;>
    cases (s.reg a).getLsbD n <;> rfl

/-- A register whose write does not act follows its access code. -/
theorem registerWrite_plain (s : State) (a : BitVec 24) (v : Word) (r : RegRow) (on : s.coreOn = true)
    (fine : s.debugDenied a.toNat v = none) (low : a.toNat < signalBase) (off : s.blockOff a.toNat = false)
    (hole : bankHole a.toNat = false) (twin : s.twinOf a.toNat = none) (row : regRow? (canonAddr a.toNat) = some r)
    (idle : s.actWrite false (canonAddr a.toNat) v = none) :
    exec (.registerWrite a v) s = .next (s.plainWrite r (canonAddr a.toNat) v) := by
  have ses : isSession a.toNat = false := by
    cases e : isSession a.toNat with
    | false => rfl
    | true => exact absurd idle (actWrite_session s a.toNat v e)
  rw [exec_registerWrite_on s a v on fine low, hostWrite_register s a.toNat v r off low hole twin row ses]
  unfold State.regWrite
  rw [idle]

/-! ## Registers of the host port -/

theorem blockOff_hp (s : State) (on : s.coreOn = true) : s.blockOff Reg.HP_BUSY_LIMIT = false := by
  simp [State.blockOff, on, Reg.HP_BUSY_LIMIT]

theorem twinOf_hp (s : State) : s.twinOf Reg.HP_BUSY_LIMIT = none := by
  unfold State.twinOf
  split
  · decide
  · rfl

/-- A write of HP_BUSY_LIMIT: 0 is dropped (R369). -/
theorem registerWrite_busyLimit (s : State) (a : BitVec 24) (v : Word) (on : s.coreOn = true)
    (h : a.toNat = Reg.HP_BUSY_LIMIT) :
    exec (.registerWrite a v) s
      = .next (if wbits v 15 0 == 0 then s else s.setReg Reg.HP_BUSY_LIMIT (v &&& 0xFFFF#32)) := by
  have row : (regRow? (canonAddr Reg.HP_BUSY_LIMIT)).isSome = true := by decide
  obtain ⟨r, row⟩ := Option.isSome_iff_exists.mp row
  have fine : s.debugDenied a.toNat v = none := debugDenied_low s _ v (by rw [h]; decide)
  rw [exec_registerWrite_on s a v on fine (by rw [h]; decide), h,
    hostWrite_register s _ v r (blockOff_hp s on) (by decide) (by decide) (twinOf_hp s) row (by decide)]
  rfl

theorem exec_registerWrite_off (s : State) (a : BitVec 24) (v : Word) (off : s.coreOn = false) :
    exec (.registerWrite a v) s = .next s := congrArg Host.Outcome.next (s.whenB_false _ off)

/-- A field that another field's bits were written to reads them back. -/
theorem State.fld_setF_wbits (s : State) (f : Fld) (v : Word) (h : f.lo ≤ f.hi) (h' : f.hi < 32) :
    (s.setF f (wbits v f.hi f.lo)).fld f = wbits v f.hi f.lo := by
  rw [s.fld_setF_same f _ h h']
  exact Nat.mod_mod _ _

/-- Two fields of one register set one after the other change that register alone. -/
theorem regsKeep_setF_setF (s : State) (f g : Fld) (v w : Nat) (h : g.reg = f.reg) :
    RegsKeep (fun b => b == f.reg) s ((s.setF f v).setF g w) := by
  refine ⟨fun b lt n => ?_⟩
  rw [(regsKeep_setF (s.setF f v) g w).same b lt (by rw [h]; exact n), (regsKeep_setF s f v).same b lt n]

/-- FLOW and LANE of HP_CFG after a write of it: LANE does not take 3 (R348). -/
theorem writeHpCfg_spec (s : State) (v : Word) :
    (s.writeHpCfg v).fld F.HP_CFG_FLOW = wbits v 2 2 ∧
      (wbits v 1 0 ≠ 3 → (s.writeHpCfg v).fld F.HP_CFG_LANE = wbits v 1 0) ∧
      (wbits v 1 0 = 3 → (s.writeHpCfg v).fld F.HP_CFG_LANE = s.fld F.HP_CFG_LANE) ∧
      (s.writeHpCfg v).flag F.HP_CFG_MEMBER = s.flag F.HP_CFG_MEMBER ∧
      RegsKeep (fun b => b == Reg.HP_CFG) s (s.writeHpCfg v) := by
  have flow : (s.setF F.HP_CFG_FLOW (wbits v 2 2)).fld F.HP_CFG_FLOW = wbits v 2 2 :=
    s.fld_setF_wbits F.HP_CFG_FLOW v (by decide) (by decide)
  have apart (f : Fld) (k : f.lo ≤ f.hi) (d : f.reg ≠ Reg.HP_CFG ∨ f.hi < 2 ∨ 2 < f.lo) :
      (s.setF F.HP_CFG_FLOW (wbits v 2 2)).fld f = s.fld f :=
    s.fld_setF_ne F.HP_CFG_FLOW f _ (by decide) (by decide) k d
  by_cases three : wbits v 1 0 = 3
  · rw [show s.writeHpCfg v = s.setF F.HP_CFG_FLOW (wbits v 2 2) from if_pos (by simpa using three)]
    refine ⟨flow, fun n => absurd three n, fun _ => apart F.HP_CFG_LANE (by decide) (by decide), ?_,
      regsKeep_setF s F.HP_CFG_FLOW _⟩
    exact congrArg (· != 0) (apart F.HP_CFG_MEMBER (by decide) (by decide))
  · rw [show s.writeHpCfg v = (s.setF F.HP_CFG_FLOW (wbits v 2 2)).setF F.HP_CFG_LANE (wbits v 1 0) from
      if_neg (by simpa using three)]
    have lane (f : Fld) (k : f.lo ≤ f.hi) (d : f.reg ≠ Reg.HP_CFG ∨ 1 < f.lo) :
        ((s.setF F.HP_CFG_FLOW (wbits v 2 2)).setF F.HP_CFG_LANE (wbits v 1 0)).fld f
          = (s.setF F.HP_CFG_FLOW (wbits v 2 2)).fld f :=
      State.fld_setF_ne _ F.HP_CFG_LANE f _ (by decide) (by decide) k (d.imp_right .inr)
    refine ⟨(lane F.HP_CFG_FLOW (by decide) (by decide)).trans flow, fun _ => ?_, fun e => absurd e three, ?_,
      regsKeep_setF_setF s F.HP_CFG_FLOW F.HP_CFG_LANE _ _ rfl⟩
    · exact State.fld_setF_wbits _ F.HP_CFG_LANE v (by decide) (by decide)
    · exact congrArg (· != 0)
        ((lane F.HP_CFG_MEMBER (by decide) (by decide)).trans (apart F.HP_CFG_MEMBER (by decide) (by decide)))

/-! ## VIO -/

theorem vioLevelChange_spec (s : State) (mv : Nat) (h : mv ≤ 4000) :
    DoesOnly [.regs, .env] (.vioLevelChange mv) s fun t =>
      t.env = { s.env with vioMv := mv } ∧ (t.flag F.HP_CFG_VIO_HIGH = true ↔ 2500 < mv) ∧
      RegsKeep (fun a => a == Reg.HP_CFG) s t := by
  refine ⟨_, if_neg (by omega), only_env (by decide) (only_step (State.setB_only ..) (by decide) (only_refl _ s)), rfl, ?_, ?_⟩
  · have high := s.flag_setB_same F.HP_CFG_VIO_HIGH (decide (2500 < mv)) rfl (by decide)
    exact (iff_of_eq (congrArg (· = true) high)).trans decide_eq_true_iff
  · exact ⟨(regsKeep_setB s F.HP_CFG_VIO_HIGH _).same⟩

/-- Settles O41: a refused write, a register that follows its access code, one passed on by a Wide lead, none at all, HP_BUSY_LIMIT,
HP_CFG and VIO, each by its own lemma. -/
theorem registerWritesFollowTheirAccessCodeAndVioShows :
    Obligations.RegisterWritesFollowTheirAccessCodeAndVioShows := by
  refine ⟨fun s a v => ⟨fun p h => registerWrite_refused s a v p h, fun on fine low off hole => ⟨?plain, ?twin, ?unmapped⟩,
    ?none, fun at_ => ⟨?dropped, ?busy⟩, fun on => ?hpCfg⟩, fun mv s => ⟨vioLevelChange_spec s mv, fun h => if_pos h⟩⟩
  case plain =>
    intro r twin row idle
    exact ⟨_, registerWrite_plain s a v r on fine low off hole twin row idle, State.plainWrite_only ..,
      regsKeep_setReg .., getLsbD_plainWrite s r _ v⟩
  case twin =>
    intro f r twin row ro rc
    have e := hostWrite_twin s a.toNat f v r off low hole twin row ro rc
    refine ⟨_, (exec_registerWrite_on s a v on fine low).trans (congrArg _ e), ?_, rfl, rfl⟩
    exact only_step (State.unstamped_only ..) (by decide) (only_mono (State.updYk_only ..) (by decide))
  case unmapped =>
    intro twin row
    have e := hostWrite_unmapped s a.toNat v off low hole twin row
    exact ⟨s, (exec_registerWrite_on s a v on fine low).trans (congrArg _ e), rfl⟩
  case none =>
    intro fine h
    refine ⟨s, s.hostKey_same _ ?_, rfl⟩
    rw [fine]
    dsimp only
    split
    · rfl
    · next low => exact hostWrite_none s a.toNat v (by omega) (h.resolve_left low)
  case dropped =>
    intro zero
    refine ⟨s, ?_, rfl⟩
    cases on : s.coreOn with
    | false => exact exec_registerWrite_off s a v on
    | true => rw [registerWrite_busyLimit s a v on at_, if_pos (by simpa using zero)]
  case busy =>
    intro on nonzero
    refine ⟨_, (registerWrite_busyLimit s a v on at_).trans (congrArg _ (if_neg (by simpa using nonzero))), ?_⟩
    exact ⟨State.setReg_only .., s.reg_setReg_same _ _, regsKeep_setReg ..⟩
  case hpCfg => exact ⟨_, s.hostKey_on _ on, State.writeHpCfg_only .., writeHpCfg_spec s v⟩

end Sys2Proof.Machine
end

section
/-!
PROOFS. Steady: what neither the host's catching up, nor a fault, nor the settling of a swath changes of the timebase, of the device
state and of a join. The counters and the programmed configuration have their own writers; everything else leaves them alone.
-/
namespace Sys2Proof.Machine

/-- The registers of the timebase, and the functions of the channels: TB_SWATH to TB_CONFIG, the tick counter only where `strict` says so,
SYNC_OFFSET, the leaf index, and CH_CFG. -/
def clockReg (strict : Bool) (a : Nat) : Bool :=
  (decide (0xA000 ≤ a) && decide (a < 0xA028) && (strict || (a != Reg.TB_TICK_LO && a != Reg.TB_TICK_HI))) || a == Reg.SYNC_OFFSET
    || a == Reg.SR_LEAF
    || (decide (0x10000 ≤ a) && decide (a < 0x14000) && a % 1024 == 0)

/-- A register apart from those of `Steady`. -/
def quiet (a : Nat) : Bool := !clockReg true a && a != Reg.SYS_STATE && a != Reg.YK_STATUS

/-- From `s` to `t` the timebase stands, BOOT goes on and is not entered, a device that is not armed does not get armed, no join
completes and no traffic of a lead comes in. `strict`: the tick counter and the halves stand too. -/
structure DeviceStands (strict : Bool) (s t : State) : Prop where
  regs : ∀ a, clockReg strict a = true → t.reg a = s.reg a
  mode : t.fld F.SYS_STATE_STATE = s.fld F.SYS_STATE_STATE ∨
    s.isBoot = false ∧ (t.fld F.SYS_STATE_STATE = 2 ∨ t.fld F.SYS_STATE_STATE = 4)
  joined : s.joined = false → t.joined = false
  yoke : t.imageYoke = s.imageYoke
  tbNext : t.boot.tbNext = s.boot.tbNext
  align : s.yk.alignEnd = none → t.yk.alignEnd = none
  apply : s.yk.apply = [] → t.yk.apply = []
  halves : strict = true → HalvesKept s t

/-- A pair keeps its committed state and its waiting commit. `rest`: that is said of a pair without an evaluation, which starts none. -/
structure PairStands (rest : Bool) (x y : Pair) : Prop where
  held : (rest = true → x.ctx = none) → y.dmem = x.dmem ∧ y.timers = x.timers ∧ y.commit = x.commit
  rests : rest = true → x.ctx = none → y.ctx = none

/-- The causes of a swath only grow, and no boundary goes by. `window`: the write window does not close. -/
structure PipeStands (window : Bool) (x y : Pipe) : Prop where
  prev : y.prevBtick = x.prevBtick
  now : y.now ||| x.now = y.now
  next : y.next ||| x.next = y.next
  reacted : x.reacted = true → y.reacted = true
  window : window = true → y.window = x.window

/-- What is said of a step: of the device, strictly or not, of which pairs, resting or not, and of the write window. -/
structure Claim where
  device : Bool := true
  strict : Bool := true
  rest : Bool := true
  window : Bool := true
  pairs : PairIx → Bool := fun _ => true

/-- Ticks may pass and the halves change. -/
abbrev Claim.loose (device rest window : Bool) (pairs : PairIx → Bool) : Claim := ⟨device, false, rest, window, pairs⟩

/-- Pairs and pipeline alone. -/
abbrev Claim.free (rest window : Bool) (pairs : PairIx → Bool) : Claim := ⟨false, false, rest, window, pairs⟩

/-- From `s` to `t` that stands of which the claim speaks. -/
structure Steady (k : Claim) (s t : State) : Prop where
  device : k.device = true → DeviceStands k.strict s t
  pairs : ∀ p, k.pairs p = true → PairStands k.rest (s.pairs.get p) (t.pairs.get p)
  pipe : PipeStands k.window s.pipe t.pipe

theorem reg_of_regs {s t : State} (e : t.regs = s.regs) (a : Nat) : t.reg a = s.reg a := by
  unfold State.reg
  rw [e]

theorem fld_of_regs {s t : State} (e : t.regs = s.regs) (f : Fld) : t.fld f = s.fld f := by
  unfold State.fld
  rw [reg_of_regs e]

theorem ds_refl {strict : Bool} (s : State) : DeviceStands strict s s :=
  ⟨fun _ _ => rfl, .inl rfl, id, rfl, rfl, id, id, fun _ => hk_eq rfl⟩

theorem ds_step {strict : Bool} {s t u : State} (k : DeviceStands strict t u) (h : DeviceStands strict s t) : DeviceStands strict s u where
  regs a e := (k.regs a e).trans (h.regs a e)
  mode := by
    rcases k.mode with same | ⟨out, ends⟩
    · rw [same]
      exact h.mode
    · refine .inr ⟨?_, ends⟩
      rcases h.mode with same | ⟨out', _⟩
      · simpa only [State.isBoot, same] using out
      · exact out'
  joined e := k.joined (h.joined e)
  yoke := k.yoke.trans h.yoke
  tbNext := k.tbNext.trans h.tbNext
  align e := k.align (h.align e)
  apply e := k.apply (h.apply e)
  halves e := hk_trans (h.halves e) (k.halves e)

/-- Registers, boot, the Yoke and the halves stand. -/
theorem ds_same {strict : Bool} {s t : State} (r : t.regs = s.regs) (b : t.boot = s.boot) (y : t.yk = s.yk)
    (x : strict = true → t.halves = s.halves) : DeviceStands strict s t where
  regs a _ := reg_of_regs r a
  mode := .inl (fld_of_regs r _)
  joined e := by rw [← e]; unfold State.joined; rw [fld_of_regs r]
  yoke := by unfold State.imageYoke; rw [b]
  tbNext := by rw [b]
  align e := by rw [y]; exact e
  apply e := by rw [y]; exact e
  halves e := hk_eq (x e)

theorem pairStands_refl {rest : Bool} (x : Pair) : PairStands rest x x := ⟨fun _ => ⟨rfl, rfl, rfl⟩, fun _ => id⟩

theorem pairStands_trans {rest : Bool} {x y z : Pair} (h : PairStands rest x y) (k : PairStands rest y z) : PairStands rest x z where
  held e := by
    obtain ⟨dmem, timers, commit⟩ := h.held e
    obtain ⟨dmem', timers', commit'⟩ := k.held fun r => h.rests r (e r)
    exact ⟨dmem'.trans dmem, timers'.trans timers, commit'.trans commit⟩
  rests r e := k.rests r (h.rests r e)

theorem pipeStands_refl {window : Bool} (x : Pipe) : PipeStands window x x := ⟨rfl, Nat.or_self _, Nat.or_self _, id, fun _ => rfl⟩

theorem pipeStands_trans {window : Bool} {x y z : Pipe} (h : PipeStands window x y) (k : PipeStands window y z) : PipeStands window x z where
  prev := k.prev.trans h.prev
  now := by rw [← k.now, Nat.or_assoc, h.now]
  next := by rw [← k.next, Nat.or_assoc, h.next]
  reacted e := k.reacted (h.reacted e)
  window e := (k.window e).trans (h.window e)

section
variable {k : Claim} {s t u : State}

/-! ## Rules -/

theorem st_refl (s : State) : Steady k s s := ⟨fun _ => ds_refl s, fun _ _ => pairStands_refl _, pipeStands_refl _⟩

theorem st_step (h' : Steady k t u) (h : Steady k s t) : Steady k s u :=
  ⟨fun d => ds_step (h'.device d) (h.device d), fun p n => pairStands_trans (h.pairs p n) (h'.pairs p n), pipeStands_trans h.pipe h'.pipe⟩

/-- A step that leaves pairs and pipeline alone. -/
theorem st_of (d : k.device = true → DeviceStands k.strict s t) (p : t.pairs = s.pairs) (q : t.pipe = s.pipe) : Steady k s t :=
  ⟨d, fun _ _ => p ▸ pairStands_refl _, q ▸ pipeStands_refl _⟩

theorem Steady.kept (h : Steady k s t) (r : u.regs = t.regs) (b : u.boot = t.boot) (y : u.yk = t.yk) (x : u.halves = t.halves)
    (p : u.pairs = t.pairs) (q : u.pipe = t.pipe) : Steady k s u :=
  st_step (st_of (fun _ => ds_same r b y fun _ => x) p q) h

theorem st_only {ps : List Part} (o : OnlyChanges ps t u)
    (n : (ps.contains .regs || ps.contains .boot || ps.contains .yk || ps.contains .halves || ps.contains .pairs || ps.contains .pipe) = false)
    (h : Steady k s t) : Steady k s u := by
  simp only [Bool.or_eq_false_iff] at n
  obtain ⟨⟨⟨⟨⟨r, b⟩, y⟩, x⟩, p⟩, q⟩ := n
  exact h.kept (o.same .regs (by simpa using r)) (o.same .boot (by simpa using b)) (o.same .yk (by simpa using y))
    (o.same .halves (by simpa using x)) (o.same .pairs (by simpa using p)) (o.same .pipe (by simpa using q))

theorem st_ite {c : Prop} [Decidable c] (h : Steady k s t) (h' : Steady k s u) :
    Steady k s (if c then t else u) := by
  split <;> assumption

theorem st_dite {c : Prop} [Decidable c] {t : c → State} {u : ¬c → State} (h : ∀ x, Steady k s (t x))
    (h' : ∀ x, Steady k s (u x)) : Steady k s (dite c t u) := by
  split
  · exact h _
  · exact h' _

theorem st_whenB {b : Bool} {f : State → State} (h : ∀ u, Steady k u (f u)) (h' : Steady k s t) :
    Steady k s (t.whenB b f) := st_ite (st_step (h t) h') h'

theorem st_foldl {α : Type} {f : State → α → State} {xs : List α} (h : ∀ u x, Steady k u (f u x))
    (h' : Steady k s t) : Steady k s (xs.foldl f t) := by
  induction xs generalizing t with
  | nil => exact h'
  | cons x xs ih => exact ih (st_step (h t x) h')

theorem st_updYk {f : Yk → Yk} (e : ((f t.yk).alignEnd, (f t.yk).apply) = (t.yk.alignEnd, t.yk.apply)) (h : Steady k s t) :
    Steady k s (t.updYk f) := by
  obtain ⟨align, apply⟩ := Prod.mk.inj e
  have step : Steady k t (t.updYk f) :=
    st_of (fun _ => ⟨fun _ _ => rfl, .inl rfl, id, rfl, rfl, fun e => align.trans e, fun e => apply.trans e, fun _ => hk_eq rfl⟩) rfl rfl
  exact st_step step h

/-- One pair changes. -/
theorem st_pairs {p : PairIx} {f : Pair → Pair} (e : k.pairs p = true → ∀ x, PairStands k.rest x (f x)) (h : Steady k s t) :
    Steady k s (t.updPair p f) := by
  refine st_step (t := t) ⟨fun _ => ds_same rfl rfl rfl fun _ => rfl, fun q n => ?_, pipeStands_refl _⟩ h
  change PairStands k.rest _ ((t.pairs.upd p f).get q)
  by_cases same : p = q
  · subst same
    rw [Tab.get_upd_same]
    exact e n _
  · rw [Tab.get_upd_ne _ _ _ _ same]
    exact pairStands_refl _

/-- A pair changes beside evaluation and commit. -/
theorem st_updPair {p : PairIx} {f : Pair → Pair}
    (e : ∀ x, ((f x).dmem, (f x).timers, (f x).commit, (f x).ctx) = (x.dmem, x.timers, x.commit, x.ctx)) (h : Steady k s t) :
    Steady k s (t.updPair p f) := by
  refine st_pairs (fun _ x => ?_) h
  have same := e x
  simp only [Prod.mk.injEq] at same
  obtain ⟨dmem, timers, commit, ctx⟩ := same
  exact ⟨fun _ => ⟨dmem, timers, commit⟩, fun _ r => ctx.trans r⟩

/-- The evaluation of a pair ends without a commit. -/
theorem st_restPair {p : PairIx} {f : Pair → Pair}
    (e : ∀ x, ((f x).dmem, (f x).timers, (f x).commit, (f x).ctx) = (x.dmem, x.timers, x.commit, none)) (h : Steady k s t) :
    Steady k s (t.updPair p f) := by
  refine st_pairs (fun _ x => ?_) h
  have same := e x
  simp only [Prod.mk.injEq] at same
  obtain ⟨dmem, timers, commit, ctx⟩ := same
  exact ⟨fun _ => ⟨dmem, timers, commit⟩, fun _ _ => ctx⟩

/-- The pipeline changes beside causes, boundary and window. -/
theorem st_pipeline (r : u.regs = t.regs) (b : u.boot = t.boot) (y : u.yk = t.yk) (x : u.halves = t.halves) (p : u.pairs = t.pairs)
    (e : (u.pipe.prevBtick, u.pipe.now, u.pipe.next, u.pipe.reacted, u.pipe.window) =
      (t.pipe.prevBtick, t.pipe.now, t.pipe.next, t.pipe.reacted, t.pipe.window)) (h : Steady k s t) : Steady k s u := by
  simp only [Prod.mk.injEq] at e
  obtain ⟨prev, now, next, reacted, window⟩ := e
  refine st_step ⟨fun _ => ds_same r b y fun _ => x, fun _ _ => p ▸ pairStands_refl _, ?_⟩ h
  exact ⟨prev, by rw [now, Nat.or_self], by rw [next, Nat.or_self], fun r => reacted.trans r, fun _ => window⟩

theorem st_pipe {v : Pipe} (e : (v.prevBtick, v.now, v.next, v.reacted, v.window) =
      (t.pipe.prevBtick, t.pipe.now, t.pipe.next, t.pipe.reacted, t.pipe.window)) (h : Steady k s t) : Steady k s { t with pipe := v } :=
  st_pipeline (t := t) rfl rfl rfl rfl rfl e h

/-- A cause is added to those of the swath. -/
theorem State.causeNow_st (s : State) (c : Nat) : Steady k s (s.causeNow c) := by
  refine ⟨fun _ => ds_same rfl rfl rfl fun _ => rfl, fun _ _ => pairStands_refl _, rfl, ?_, Nat.or_self _, id, fun _ => rfl⟩
  exact Nat.or_assoc .. |>.trans (by rw [Nat.or_comm c, ← Nat.or_assoc, Nat.or_self]; rfl)

theorem State.suspendReact_st (s : State) : Steady k s s.suspendReact := by
  have cause := s.causeNow_st (k := k) cREACTION
  exact ⟨fun _ => ds_same rfl rfl rfl fun _ => rfl, fun _ _ => pairStands_refl _, rfl, cause.pipe.now, cause.pipe.next, fun _ => rfl, fun _ => rfl⟩

/-! ## Record updates of the other parts -/

theorem st_mem {v} (h : Steady k s t) : Steady k s { t with mem := v } := h.kept rfl rfl rfl rfl rfl rfl
theorem st_sig {v} (h : Steady k s t) : Steady k s { t with sig := v } := h.kept rfl rfl rfl rfl rfl rfl
theorem st_env {v} (h : Steady k s t) : Steady k s { t with env := v } := h.kept rfl rfl rfl rfl rfl rfl
theorem st_tb {v} (h : Steady k s t) : Steady k s { t with tb := v } := h.kept rfl rfl rfl rfl rfl rfl
theorem st_fc {v} (h : Steady k s t) : Steady k s { t with fc := v } := h.kept rfl rfl rfl rfl rfl rfl
theorem st_wdg {v} (h : Steady k s t) : Steady k s { t with wdg := v } := h.kept rfl rfl rfl rfl rfl rfl
theorem st_recfg {v} (h : Steady k s t) : Steady k s { t with recfg := v } := h.kept rfl rfl rfl rfl rfl rfl
theorem st_sr {v} (h : Steady k s t) : Steady k s { t with sr := v } := h.kept rfl rfl rfl rfl rfl rfl
theorem st_gln {v} (h : Steady k s t) : Steady k s { t with gln := v } := h.kept rfl rfl rfl rfl rfl rfl
theorem st_hp {v} (h : Steady k s t) : Steady k s { t with hp := v } := h.kept rfl rfl rfl rfl rfl rfl
theorem st_forces {v} (h : Steady k s t) : Steady k s { t with forces := v } := h.kept rfl rfl rfl rfl rfl rfl
theorem st_forceNext {v} (h : Steady k s t) : Steady k s { t with forceNext := v } := h.kept rfl rfl rfl rfl rfl rfl
theorem st_queue {v} (h : Steady k s t) : Steady k s { t with queue := v } := h.kept rfl rfl rfl rfl rfl rfl
theorem st_perf {v} (h : Steady k s t) : Steady k s { t with perf := v } := h.kept rfl rfl rfl rfl rfl rfl

/-! ## Registers -/

theorem quiet_high {a : Nat} (h : newsBase ≤ a) : quiet a = true := by
  have high : 0x100000 ≤ a := Nat.le_trans (by decide) h
  simp only [quiet, clockReg, Reg.SYNC_OFFSET, Reg.SR_LEAF, Reg.SYS_STATE, Reg.YK_STATUS, Bool.and_eq_true, Bool.not_eq_true', Bool.or_eq_false_iff,
    Bool.and_eq_false_iff, decide_eq_false_iff_not, bne_iff_ne, beq_eq_false_iff_ne, ne_eq]
  omega

theorem quiet_low {a : Nat} (l : Reg.SYS_STATE < a) (h : a < Reg.YK_STATUS) : quiet a = true := by
  simp only [Reg.SYS_STATE, Reg.YK_STATUS] at l h
  simp only [quiet, clockReg, Reg.SYNC_OFFSET, Reg.SR_LEAF, Reg.SYS_STATE, Reg.YK_STATUS, Bool.and_eq_true, Bool.not_eq_true', Bool.or_eq_false_iff,
    Bool.and_eq_false_iff, decide_eq_false_iff_not, bne_iff_ne, beq_eq_false_iff_ne, ne_eq]
  omega

theorem quiet_news (f : Fld) : quiet f.news.reg = true := quiet_high (Nat.le_add_left ..)

theorem clockReg_true {strict : Bool} {a : Nat} (h : clockReg strict a = true) : clockReg true a = true := by
  cases strict
  · simp only [clockReg, Bool.or_eq_true, Bool.and_eq_true] at h ⊢
    tauto
  · exact h

theorem quiet_clock {strict : Bool} {a : Nat} (h : clockReg strict a = true) : quiet a = false := by
  simp [quiet, clockReg_true h]

/-- Registers that are written where no register of `DeviceStands` is. -/
theorem st_regs (other : ∀ a, quiet a = false → t.reg a = s.reg a) (b : t.boot = s.boot) (y : t.yk = s.yk)
    (x : t.halves = s.halves) (p : t.pairs = s.pairs) (q : t.pipe = s.pipe) : Steady k s t := by
  refine st_of (fun _ => ?_) p q
  exact {
    regs := fun a e => other a (quiet_clock e)
    mode := .inl (by unfold State.fld; rw [other _ (by decide)])
    joined := fun e => by rw [← e]; unfold State.joined State.fld; rw [other _ (by decide)]
    yoke := by unfold State.imageYoke; rw [b]
    tbNext := by rw [b]
    align := fun e => by rw [y]; exact e
    apply := fun e => by rw [y]; exact e
    halves := fun _ => hk_eq x }

theorem st_setReg {a : Nat} {v : Word} (q : quiet a = true) (h : Steady k s t) : Steady k s (t.setReg a v) :=
  st_step (st_regs (fun b e => t.reg_setReg_ne a b v (by rintro rfl; simp [q] at e)) rfl rfl rfl rfl rfl) h

theorem st_setF {f : Fld} {v : Nat} (q : quiet f.reg = true) (h : Steady k s t) : Steady k s (t.setF f v) := st_setReg q h

theorem st_setB {f : Fld} {b : Bool} (q : quiet f.reg = true) (h : Steady k s t) : Steady k s (t.setB f b) := st_setReg q h

theorem st_gather {f : Fld} {g : Nat → Nat} (q : quiet f.reg = true) (h : Steady k s t) : Steady k s (t.gather f g) :=
  st_setF (quiet_news _) (st_setF q h)

theorem st_addF {f : Fld} {n : Nat} (q : quiet f.reg = true) (h : Steady k s t) : Steady k s (t.addF f n) := st_gather q h

theorem st_pcAdd {lo n : Nat} (q : (quiet lo && quiet (lo + 4)) = true) (h : Steady k s t) : Steady k s (t.pcAdd lo n) := by
  simp only [Bool.and_eq_true] at q
  exact st_setReg q.2 (st_setReg q.1 h)

/-- A field of YK_STATUS apart from its STATE. -/
theorem st_ykField {f : Fld} {v : Nat} (r : f.reg = Reg.YK_STATUS) (w : f.lo ≤ f.hi) (d : f.hi < 28)
    (h : Steady k s t) : Steady k s (t.setF f v) := by
  have state : (t.setF f v).joined = t.joined := by
    unfold State.joined
    rw [t.fld_setF_ne f F.YK_STATUS_STATE v w (by omega) (by decide) (.inr (.inr d))]
  have other (a : Nat) (n : a ≠ Reg.YK_STATUS) : (t.setF f v).reg a = t.reg a := t.reg_setReg_ne f.reg a _ (r ▸ n)
  refine st_step (st_of (fun _ => ⟨fun a e => other a ?_, .inl ?_, fun e => state.trans e, rfl, rfl, id, id, fun _ => hk_eq rfl⟩) rfl rfl) h
  · rintro rfl
    exact absurd (clockReg_true e) (by decide)
  · unfold State.fld
    rw [other _ (by decide)]

theorem st_ykBit {f : Fld} {v : Bool} (r : f.reg = Reg.YK_STATUS) (w : f.lo ≤ f.hi) (d : f.hi < 28)
    (h : Steady k s t) : Steady k s (t.setB f v) := st_ykField r w d h

/-! ## The device state -/

theorem isBoot_of_fld {s : State} {n : Nat} (h : s.fld F.SYS_STATE_STATE = n) (k : n ≠ 1) : s.isBoot = false := by
  unfold State.isBoot
  rw [h]
  exact beq_false_of_ne k

/-- A device that has left BOOT does not go back. -/
theorem Steady.isBoot (h : Steady k s t) (d : k.device = true) (e : s.isBoot = false) : t.isBoot = false := by
  rcases (h.device d).mode with same | ⟨_, two | four⟩
  · rw [← e]
    unfold State.isBoot
    rw [same]
  · exact isBoot_of_fld two (by decide)
  · exact isBoot_of_fld four (by decide)

theorem st_sysState {v : Word} (m : k.device = true → (t.setReg Reg.SYS_STATE v).fld F.SYS_STATE_STATE = t.fld F.SYS_STATE_STATE ∨
      t.isBoot = false ∧ ((t.setReg Reg.SYS_STATE v).fld F.SYS_STATE_STATE = 2 ∨ (t.setReg Reg.SYS_STATE v).fld F.SYS_STATE_STATE = 4))
    (h : Steady k s t) : Steady k s (t.setReg Reg.SYS_STATE v) := by
  have other (a : Nat) (n : a ≠ Reg.SYS_STATE) : (t.setReg Reg.SYS_STATE v).reg a = t.reg a := t.reg_setReg_ne _ a v n
  refine st_step (st_of (fun d => ⟨fun a e => other a ?_, m d, fun e => ?_, rfl, rfl, id, id, fun _ => hk_eq rfl⟩) rfl rfl) h
  · rintro rfl
    exact absurd (clockReg_true e) (by decide)
  · rw [← e]
    unfold State.joined State.fld
    rw [other _ (by decide)]

theorem st_armedHalves {v : Nat} (h : Steady k s t) : Steady k s (t.setF F.SYS_STATE_ARMED_HALVES v) :=
  st_sysState (fun _ => .inl (t.fld_setF_ne F.SYS_STATE_ARMED_HALVES F.SYS_STATE_STATE v (by decide) (by decide) (by decide) (by decide))) h

/-- SAFE or HALTED is entered from outside BOOT. -/
theorem st_enter {n : Nat} (e : n = 2 ∨ n = 4) (out : k.device = true → t.isBoot = false) (h : Steady k s t) :
    Steady k s (t.enter n) := by
  refine st_sysState (fun d => .inr ⟨out d, ?_⟩) h
  have entered := t.fld_setF_same F.SYS_STATE_STATE n (by decide) (by decide)
  rcases e with rfl | rfl
  · exact .inl entered
  · exact .inr entered

/-! ## Raising a fault -/

theorem quiet_pair (p : PairIx) {k : Nat} (h : k < 64) : quiet (Reg.PC_PAIR p.val k) = true := by
  have lo : 0x6100 ≤ Reg.PC_PAIR p.val k := by unfold Reg.PC_PAIR; omega
  have hi : Reg.PC_PAIR p.val k < 0x6500 := by unfold Reg.PC_PAIR; omega
  exact quiet_low (Nat.lt_of_lt_of_le (by decide) lo) (Nat.lt_trans hi (by decide))

theorem st_pcPairHeld (p : PairIx) {i n : Nat} (e : i < 31) (h : Steady k s t) : Steady k s (t.pcPairHeld p.val i n) := by
  have next : Reg.PC_PAIR p.val (2 * i) + 4 = Reg.PC_PAIR p.val (2 * i + 1) := by unfold Reg.PC_PAIR; omega
  refine st_pcAdd ?_ h
  rw [next, quiet_pair p (by omega), quiet_pair p (by omega)]
  rfl

theorem st_pcPair (p : PairIx) {i n : Nat} (e : i < 31) (h : Steady k s t) : Steady k s (t.pcPair p.val i n) :=
  st_ite h (st_pcPairHeld p e h)

theorem st_pcTake (p : PairIx) {i n : Nat} (e : i < 31) (h : Steady k s t) : Steady k s (t.pcTake p.val i n) :=
  st_pcPairHeld p (by decide) (st_pcPairHeld p e h)

theorem State.chaffTines_st (s : State) (p : PairIx) (cs : List Ctx) : Steady k s (s.chaffTines p cs) :=
  st_pcPair p (by decide) (st_pcTake p (by decide) (st_refl s))

theorem State.cutWork_st (s : State) (p : PairIx) (x : Slots) : Steady k s (s.cutWork p x) := by
  have tines := s.chaffTines_st (k := k) p (s.pairs.get p).tines
  unfold State.cutWork
  dsimp only
  split
  · exact tines
  · refine st_updPair (fun _ => rfl) (st_ite ?_ ?_)
    · exact st_step (State.chaffTines_st ..) tines
    · exact st_pcTake p (by decide) tines

theorem State.syncFc_st (s : State) : Steady k s s.syncFc :=
  st_setB (by decide) (st_setF (by decide) (st_setF (by decide) (st_refl s)))

/-- The tick of a disarming is no part of what stands. -/
theorem st_disarmTick (s : State) (h : HalfIx) (n : Nat) :
    Steady k s { s with halves := s.halves.upd h fun x => { x with disarmTick := some n } } := by
  refine st_of (fun _ => ⟨fun _ _ => rfl, .inl rfl, id, rfl, rfl, id, id, fun _ => ⟨fun x => ?_⟩⟩) rfl rfl
  by_cases same : h = x
  · subst same
    simp [State.half]
  · simp [State.half, Tab.get_upd_ne _ _ _ _ same]

theorem State.disarm_st (s : State) (mask : Nat) : Steady k s (s.disarm mask) := by
  unfold State.disarm
  dsimp only
  have halves : Steady k s (allHalves.foldl (fun (s' : State) h =>
      if mask.testBit h.val && s'.armed h.val then
        { s' with halves := s'.halves.upd h fun x => { x with disarmTick := some s.tick } }
      else s') s) := st_foldl (fun u h => st_ite (st_disarmTick ..) (st_refl u)) (st_refl s)
  have left := st_armedHalves (v := s.fld F.SYS_STATE_ARMED_HALVES &&& (3 - mask % 4)) halves
  split
  · next last =>
    have out := isBoot_of_fld (beq_iff_eq.mp (Bool.and_eq_true_iff.mp last).2) (by decide)
    exact st_foldl (fun u p => st_ite (st_setF (by revert p; decide) (st_refl u)) (st_refl u)) (st_enter (.inl rfl) (fun _ => out) left)
  · exact left

theorem State.stopPairs_st (s : State) : Steady k s s.stopPairs :=
  st_foldl (fun u _ => st_ite (st_refl u) (st_restPair (fun _ => rfl) (State.cutWork_st ..))) (st_refl s)

theorem State.deviceSafe_st (s : State) (msg : Word) (out : k.device = true → s.isBoot = false) : Steady k s (s.deviceSafe msg) := by
  have stopped : Steady k s (s.disarm 3).stopPairs := st_step (State.stopPairs_st _) (s.disarm_st 3)
  have halted := st_setReg (a := Reg.FC_REACT_MSG) (v := msg) (by decide) (st_enter (.inr rfl) (fun d => stopped.isBoot d (out d)) stopped)
  exact (st_whenB (f := fun u => { u with env := { u.env with yfltOut := true } }) (fun u => (st_refl u).kept rfl rfl rfl rfl rfl rfl)
    halted).kept rfl rfl rfl rfl rfl rfl

theorem State.resetReact_st (s : State) (msg : Word) : Steady k s (s.resetReact msg) :=
  (st_setReg (a := Reg.FC_REACT_MSG) (v := msg) (by decide) (s.disarm_st 3)).kept rfl rfl rfl rfl rfl rfl

theorem State.endDrive_st (s : State) : Steady k s s.endDrive := by
  have off : Steady k s (s.setB F.YK_STATUS_ACTIVE false) := st_ykBit rfl (by decide) (by decide) (st_refl s)
  exact st_ite (st_step (t := s.setB F.YK_STATUS_ACTIVE false) (st_of (fun _ => ⟨fun _ _ => rfl, .inl rfl, id, rfl, rfl, id, id, fun _ => hk_eq rfl⟩) rfl rfl)
    off) (st_refl s)

theorem State.react_st (s : State) (src kind addr cls : Nat) (auto : Bool) (msg : Word) :
    Steady k s (s.react src kind addr cls auto msg) := by
  unfold State.react
  dsimp only
  have latched : Steady k s (s.latchChannels (s.targetChannels src kind addr) src kind auto) :=
    st_only (State.latchChannels_only ..) (by decide) (st_refl s)
  generalize s.latchChannels (s.targetChannels src kind addr) src kind auto = t at latched
  refine st_ite (st_refl s) (st_ite (st_refl s) ?_)
  split
  · exact st_step (State.syncFc_st _) (latched.kept rfl rfl rfl rfl rfl rfl)
  · next awake =>
    have halves : Steady k t (if cls ≥ clsHALF then
        (t.suspendReact.endDrive.disarm (t.targetHalves src)).markPending (t.targetHalves src) auto else t) :=
      st_ite (st_only (State.markPending_only ..) (by decide) (st_step (State.disarm_st ..) (st_step (State.endDrive_st _)
        (State.suspendReact_st t)))) (st_refl t)
    refine st_step (State.syncFc_st _) (st_step ?_ (st_step halves latched))
    generalize (if cls ≥ clsHALF then
        (t.suspendReact.endDrive.disarm (t.targetHalves src)).markPending (t.targetHalves src) auto else t) = u at halves
    split
    · next device =>
      refine State.deviceSafe_st _ _ fun d => halves.isBoot d ?_
      simpa [beq_iff_eq.mp device] using awake
    · exact st_ite (State.resetReact_st ..) (st_refl _)

theorem quiet_source {src : Nat} (h : src ≤ 0x50) : quiet (Reg.FC_SRC_CNT src) = true := by
  have lo : 0x2100 ≤ Reg.FC_SRC_CNT src := by unfold Reg.FC_SRC_CNT; omega
  have hi : Reg.FC_SRC_CNT src < 0x3000 := by unfold Reg.FC_SRC_CNT; omega
  exact quiet_low (Nat.lt_of_lt_of_le (by decide) lo) (Nat.lt_trans hi (by decide))

theorem State.countSource_st (s : State) (src kind : Nat) (h : src ≤ 0x50) : Steady k s (s.countSource src kind) :=
  st_setF (quiet_source h) (st_addF (quiet_source h) (st_refl s))

theorem State.raiseCore_st (s : State) (src kind addr : Nat) (forced rehearsal : Bool) :
    Steady k s (s.raiseCore src kind addr forced rehearsal) := by
  unfold State.raiseCore
  split
  · exact st_refl s
  · next r row =>
    have counted := s.countSource_st (k := k) src kind (kindTable_src src kind r row)
    dsimp only
    generalize s.countSource src kind = t at counted
    refine st_ite ?_ (st_step (State.react_st ..) ?_)
    all_goals exact counted.kept rfl rfl rfl rfl rfl rfl

theorem State.setRecfg_st (s : State) (st reason : Nat) : Steady k s (s.setRecfg st reason) := by
  unfold State.setRecfg
  split
  · exact st_of (fun _ => ds_same rfl rfl rfl fun _ => rfl) rfl rfl
  · exact st_setF (by decide) (st_setF (by decide) (st_refl s))

theorem State.endRecfg_st (s : State) (st reason : Nat) : Steady k s (s.endRecfg st reason) :=
  st_step (State.raiseCore_st ..) (s.setRecfg_st st reason)

theorem State.raiseWith_st (s : State) (src kind addr : Nat) (forced rehearsal : Bool) :
    Steady k s (s.raiseWith src kind addr forced rehearsal) :=
  st_whenB (fun u => st_ite (st_step (st_ite (State.endRecfg_st ..) (st_refl _)) (u.raiseCore_st src kind addr forced rehearsal))
    (u.raiseCore_st src kind addr forced rehearsal)) (st_refl s)

theorem State.raiseByRule_st (s : State) (src kind addr : Nat) (forced rehearsal : Bool) :
    Steady k s (s.raiseByRule src kind addr forced rehearsal) := by
  unfold State.raiseByRule
  split
  · exact State.raiseWith_st ..
  · exact st_ite (st_refl s) (st_step (State.raiseWith_st ..) (st_of (fun _ => ds_same rfl rfl rfl fun _ => rfl) rfl rfl))

theorem State.raise_st (s : State) (src kind addr : Nat) : Steady k s (s.raise src kind addr) := State.raiseWith_st ..

theorem State.raiseOnce_st (s : State) (src kind addr : Nat) : Steady k s (s.raiseOnce src kind addr) := State.raiseByRule_st ..

end
end Sys2Proof.Machine
end

section
namespace Sys2Proof

theorem Sparse.get_filter_key {α : Type} (d : Nat → α) (p : Nat → Bool) (m : Sparse α) (k : Nat) :
    Sparse.get d (m.filter fun x => p x.1) k = if p k then Sparse.get d m k else d k := by
  induction m with
  | nil => simp [Sparse.get]
  | cons x m ih =>
    obtain ⟨j, v⟩ := x
    rw [List.filter_cons]
    by_cases same : k = j
    · subst same
      split <;> simp_all [Sparse.get]
    · split <;> simp only [Sparse.get, ih, if_neg same]

end Sys2Proof

namespace Sys2Proof.Machine

section
variable {k : Claim} {s t u : State}

theorem State.syncCrib_st (s : State) (c : CribIx) : Steady k s (s.syncCrib c) := by
  unfold State.syncCrib
  repeat' first
    | with_reducible exact st_refl _ | with_reducible apply st_setB | with_reducible apply st_setF | dsimp only
    | (clear * -; decide +revert)

theorem st_placeEntry {c : CribIx} {tag : Nat} {ws : List Word} {drop refuse : State → State}
    (H : ∀ u, Steady k u (drop u)) (H' : ∀ u, Steady k u (refuse u)) (h : Steady k s t) :
    Steady k s (t.placeEntry c tag ws drop refuse) := by
  unfold State.placeEntry
  repeat' first
    | assumption | with_reducible apply st_step (H _) | with_reducible apply st_step (H' _) | with_reducible apply st_setReg
    | with_reducible apply st_step (State.syncCrib_st ..) | with_reducible apply st_only (State.storeEntry_only ..) (by decide)
    | with_reducible apply st_ite | dsimp only | split | (clear * -; decide +revert)

theorem State.oweDrop_st (s : State) (p : PairIx) (c : CribIx) (kind : Nat) : Steady k s (s.oweDrop p c kind) := by
  unfold State.oweDrop
  repeat' first
    | with_reducible exact st_refl _ | with_reducible apply st_step (State.causeNow_st ..)
    | with_reducible apply st_updPair | exact fun _ => rfl | with_reducible apply st_addF
    | with_reducible apply st_whenB | refine fun _ => ?_ | dsimp only | (clear * -; decide +revert)

theorem State.placeDue_st (s : State) (t : Nat) : Steady k s (s.placeDue t) := by
  unfold State.placeDue
  repeat' first
    | with_reducible exact st_refl _ | with_reducible apply st_step (State.oweDrop_st ..)
    | with_reducible apply st_updPair | exact fun _ => rfl | with_reducible apply st_ite
    | with_reducible apply st_dite | with_reducible apply st_foldl | with_reducible apply st_placeEntry | refine fun _ => ?_

theorem State.dropTag_st (s : State) (c : CribIx) (tag : Nat) : Steady k s (s.dropTag c tag) := by
  unfold State.dropTag
  repeat' first
    | with_reducible exact st_refl _ | with_reducible apply st_step (State.syncCrib_st ..)
    | with_reducible apply st_only (State.updCrib_only ..) (by decide)
    | with_reducible apply st_only (State.layEntries_only ..) (by decide) | with_reducible apply st_ite

theorem State.dropEmits_st (s : State) (p : PairIx) : Steady k s (s.dropEmits p) := by
  unfold State.dropEmits
  repeat' first
    | with_reducible exact st_refl _ | with_reducible apply st_step (State.dropTag_st ..)
    | with_reducible apply st_updPair | exact fun _ => rfl | with_reducible apply st_foldl | refine fun _ => ?_

theorem State.drainTo_st (s : State) (t : Nat) : Steady k s (s.drainTo t) := by
  unfold State.drainTo
  repeat' first
    | with_reducible exact st_refl _ | with_reducible apply st_step (State.placeDue_st ..)
    | with_reducible apply st_step (State.dropEmits_st ..) | with_reducible apply st_ite | with_reducible apply st_foldl
    | refine fun _ => ?_ | refine fun _ _ => ?_ | dsimp only | split

theorem State.sealSent_st (s : State) (isSealed : Bool) : Steady k s (s.sealSent isSealed) := by
  unfold State.sealSent
  repeat' first
    | with_reducible exact st_refl _ | with_reducible apply st_setF | split | (clear * -; decide +revert)

theorem State.sendSeal_st (s : State) (x : Sending) : Steady k s (s.sendSeal x).2 := by
  unfold State.sendSeal
  split
  · exact st_refl s
  · exact State.sealSent_st ..

/-- The fold of the seals that have been sent carries a list beside the state. -/
theorem st_foldl_snd {α β : Type} {f : β × State → α → β × State} {xs : List α} {r : β × State}
    (h : ∀ r x, Steady k r.2 (f r x).2) (h' : Steady k s r.2) : Steady k s (xs.foldl f r).2 := by
  induction xs generalizing r with
  | nil => exact h'
  | cons x xs ih => exact ih (st_step (h r x) h')

theorem State.sealTo_st (s : State) (t : Nat) : Steady k s (s.sealTo t) := by
  refine st_hp (st_foldl_snd (fun r x => ?_) (st_refl s))
  split
  · exact State.sendSeal_st ..
  · exact st_refl _

theorem State.hpFault_st (s : State) (kind code : Nat) : Steady k s (s.hpFault kind code) := by
  unfold State.hpFault
  repeat' first
    | with_reducible exact st_refl _ | with_reducible apply st_step (State.raiseOnce_st ..)

theorem State.pcHost_st (s : State) {i : Nat} (n : Nat) (h : i < 5) : Steady k s (s.pcHost i n) := by
  refine st_ite (st_refl s) (st_pcAdd ?_ (st_refl s))
  interval_cases i <;> rfl

theorem State.cutTx_st (s : State) : Steady k s s.cutTx := by
  unfold State.cutTx
  repeat' first
    | with_reducible exact st_refl _ | with_reducible apply st_step (State.hpFault_st ..)
    | with_reducible apply st_step (State.pcHost_st ..) | with_reducible apply st_addF | (clear * -; decide +revert)

theorem State.countWait_st (s : State) (n : Nat) : Steady k s (s.countWait n) := by
  unfold State.countWait
  repeat' first
    | with_reducible exact st_refl _ | with_reducible apply st_pcAdd | (clear * -; decide +revert)

theorem State.popDone_st (s : State) (c : CribIx) (cons0 : Word) (j : Nat) : Steady k s (s.popDone c cons0 j) := by
  unfold State.popDone
  repeat' first
    | with_reducible exact st_refl _ | with_reducible apply st_setReg | with_reducible apply st_step (State.syncCrib_st ..)
    | with_reducible apply st_only (State.updCrib_only ..) (by decide) | with_reducible apply st_ite | dsimp only
    | (clear * -; decide +revert)

/-- The addresses that are not quiet. -/
def loudAddrs : List Nat :=
  (List.range 40).map (0xA000 + ·) ++ (List.range 16).map (0x10000 + 1024 * ·) ++ [Reg.SYNC_OFFSET, Reg.SR_LEAF, Reg.SYS_STATE, Reg.YK_STATUS]

theorem mem_loudAddrs {a : Nat} (h : quiet a = false) : a ∈ loudAddrs := by
  simp only [quiet, clockReg, Bool.true_or, Bool.and_true, Bool.and_eq_false_iff, Bool.not_eq_false', Bool.or_eq_true, Bool.and_eq_true,
    decide_eq_true_eq, beq_iff_eq, bne_eq_false_iff_eq] at h
  simp only [loudAddrs, List.mem_append, List.mem_map, List.mem_range, List.mem_cons, List.not_mem_nil, or_false]
  rcases h with ((((⟨lo, hi⟩ | off) | leaf) | ⟨⟨lo, hi⟩, k⟩) | sys) | yk
  · exact .inl (.inl ⟨a - 0xA000, by omega, by omega⟩)
  · exact .inr (.inl off)
  · exact .inr (.inr (.inl leaf))
  · exact .inl (.inr ⟨(a - 0x10000) / 1024, by omega, by omega⟩)
  · exact .inr (.inr (.inr (.inl sys)))
  · exact .inr (.inr (.inr (.inr yk)))

/-- No register of `Steady` clears when it is read. -/
theorem quiet_of_rc {a : Nat} {r : RegRow} (row : regRow? a = some r) (rc : r.acc = .rc) : quiet a = true := by
  have none : ∀ b ∈ loudAddrs, (regRow? b).all (·.acc != .rc) = true := by decide +kernel
  by_contra loud
  have k := none a (mem_loudAddrs (by simpa using loud))
  simp [row, rc] at k

theorem State.readDone_st (s : State) (a n : Nat) : Steady k s (s.readDone a n) := by
  unfold State.readDone
  refine st_ite (st_refl s) ?_
  split
  · split
    · exact st_ite (st_updYk rfl (st_refl s)) (st_refl s)
    · exact st_refl s
  · split
    · next r row =>
      split
      · next rc => exact st_setReg (quiet_of_rc row (beq_iff_eq.mp rc)) (st_refl s)
      · refine st_ite ?_ (st_refl s)
        split
        · exact st_step (State.setRecfg_st ..) (st_recfg (st_refl s))
        · exact st_refl s
    · exact st_refl s

theorem State.countStatus_st (s : State) (code : Nat) (off : Bool) : Steady k s (s.countStatus code off) := by
  unfold State.countStatus
  repeat' first
    | with_reducible exact st_refl _ | with_reducible apply st_step (State.hpFault_st ..) | with_reducible apply st_addF
    | with_reducible apply st_ite | dsimp only | split | (clear * -; decide +revert)

theorem State.endTx_st (s : State) (op : BitVec 8) (h : HostHdr) (code words : Nat) (off : Bool) (wait : Nat) :
    Steady k s (s.endTx op h code words off wait) := by
  unfold State.endTx
  repeat' first
    | with_reducible exact st_refl _ | with_reducible apply st_setReg | with_reducible apply st_setF
    | with_reducible apply st_step (State.countStatus_st ..) | with_reducible apply st_step (State.pcHost_st ..)
    | with_reducible apply st_step (State.countWait_st ..) | with_reducible apply st_ite | dsimp only
    | (clear * -; decide +revert)

theorem State.sendEnd_st (s : State) (x : Sending) : Steady k s (s.sendEnd x) := by
  unfold State.sendEnd
  repeat' first
    | with_reducible exact st_refl _ | with_reducible apply st_step (State.popDone_st ..)
    | with_reducible apply st_step (State.sendSeal_st ..) | with_reducible apply st_step (State.cutTx_st ..)
    | with_reducible apply st_step (State.endTx_st ..) | with_reducible apply st_only (State.unlatchAll_only ..) (by decide)
    | with_reducible apply st_only (State.respond_only ..) (by decide) | with_reducible apply st_step (State.readDone_st ..)
    | with_reducible apply st_step (State.countWait_st ..) | with_reducible apply st_foldl | refine fun _ => ?_
    | refine fun _ _ => ?_ | dsimp only | split

theorem State.sendTo_st (s : State) (t : Nat) : Steady k s (s.sendTo t) := by
  unfold State.sendTo
  repeat' first
    | with_reducible exact st_refl _ | with_reducible apply st_step (State.sendEnd_st ..)
    | with_reducible apply st_step (State.sealTo_st ..) | with_reducible apply st_step (State.drainTo_st ..)
    | with_reducible apply st_ite | with_reducible apply st_foldl | refine fun _ => ?_ | refine fun _ _ => ?_ | dsimp only
    | with_reducible apply st_hp

theorem State.catchUp_st (s : State) (t : Nat) : Steady k s (s.catchUp t) := by
  unfold State.catchUp
  repeat' first
    | with_reducible exact st_refl _ | with_reducible apply st_step (State.sendTo_st ..)
    | with_reducible apply st_step (State.drainTo_st ..)

theorem State.syncTree_st (s : State) : Steady k s s.syncTree := by
  unfold State.syncTree
  repeat' first
    | with_reducible exact st_refl _ | with_reducible apply st_setB | with_reducible apply st_setF | with_reducible apply st_ite
    | dsimp only | (clear * -; decide +revert)

theorem State.dropTrees_st (s : State) (all : Bool) : Steady k s (s.dropTrees all) := by
  unfold State.dropTrees
  repeat' first
    | with_reducible exact st_refl _ | with_reducible apply st_only (State.updSr_only ..) (by decide)
    | with_reducible apply st_step (State.syncTree_st ..) | with_reducible apply st_ite

theorem State.loseExchange_st (s : State) : Steady k s s.loseExchange := by
  unfold State.loseExchange
  repeat' first
    | with_reducible exact st_refl _ | refine st_updYk rfl ?_

/-- A register outside the banks stays when the banks are lost. -/
theorem reg_dropBanks (s : State) (c : Tab 16 Chan) {a : Nat} (h : isBank a = false) :
    ({ s with regs := s.regs.filter fun r => !isBank r.1, chans := c } : State).reg a = s.reg a := by
  have k := Sparse.get_filter_key regReset (fun b => !isBank b) s.regs a
  rw [h] at k
  exact k

theorem st_dropBanks {c : Tab 16 Chan} (h : Steady k s t) :
    Steady k s { t with regs := t.regs.filter fun r => !isBank r.1, chans := c } := by
  have apart : ∀ a ∈ loudAddrs, isBank a = false := by decide +kernel
  exact st_step (st_regs (fun a e => reg_dropBanks t c (apart a (mem_loudAddrs e))) rfl rfl rfl rfl rfl) h

theorem State.loseGranary_st (s : State) : Steady k s s.loseGranary := by
  unfold State.loseGranary
  repeat' first
    | with_reducible exact st_refl _ | with_reducible apply st_setReg | with_reducible apply st_step (State.syncCrib_st ..)
    | with_reducible apply st_step (State.loseExchange_st ..)
    | with_reducible apply st_only (State.loseLanding_only ..) (by decide) | with_reducible apply st_step (State.dropTrees_st ..)
    | with_reducible apply st_only (State.updCrib_only ..) (by decide) | with_reducible apply st_ite
    | with_reducible apply st_foldl | refine fun _ => ?_ | refine fun _ _ => ?_ | dsimp only | with_reducible apply st_mem
    | with_reducible apply st_dropBanks | with_reducible apply st_sig | (clear * -; decide +revert)

theorem State.loseDormant_st (s : State) : Steady k s s.loseDormant := by
  unfold State.loseDormant
  repeat' first
    | with_reducible exact st_refl _ | with_reducible apply st_step (State.loseGranary_st ..) | with_reducible apply st_whenB
    | refine fun _ => ?_

theorem State.relock_st (s : State) : Steady k s s.relock := by
  unfold State.relock
  repeat' first
    | with_reducible exact st_refl _ | with_reducible apply st_setB | with_reducible apply st_ite | with_reducible apply st_env
    | (clear * -; decide +revert)

theorem State.syncStalled_st (s : State) (held : List HeldWrite) : Steady k s (s.syncStalled held) := by
  unfold State.syncStalled
  repeat' first
    | with_reducible exact st_refl _ | with_reducible apply st_setB | with_reducible apply st_foldl | refine fun _ => ?_
    | refine fun _ _ => ?_ | dsimp only | split | (clear * -; decide +revert)

theorem State.abandonTx_st (s : State) : Steady k s s.abandonTx := by
  unfold State.abandonTx
  repeat' first
    | with_reducible exact st_refl _ | with_reducible apply st_step (State.cutTx_st ..)
    | with_reducible apply st_only (State.unlatchAll_only ..) (by decide)
    | with_reducible apply st_step (State.syncStalled_st ..) | with_reducible apply st_step (State.countWait_st ..)
    | with_reducible apply st_foldl | refine fun _ => ?_ | refine fun _ _ => ?_ | dsimp only | with_reducible apply st_hp

theorem State.srFault_st (s : State) (kind lo : Nat) : Steady k s (s.srFault kind lo) := by
  unfold State.srFault
  repeat' first
    | with_reducible exact st_refl _ | with_reducible apply st_step (State.raise_st ..)

theorem State.journalFail_st (s : State) (reason : Nat) : Steady k s (s.journalFail reason) := by
  unfold State.journalFail
  repeat' first
    | with_reducible exact st_refl _ | with_reducible apply st_step (State.srFault_st ..) | with_reducible apply st_addF
    | with_reducible apply st_ite | dsimp only | (clear * -; decide +revert)

theorem State.eraseBlock_st (s : State) (b : JBlock) : Steady k s (s.eraseBlock b) := by
  unfold State.eraseBlock
  repeat' first
    | with_reducible exact st_refl _ | with_reducible apply st_only (State.updSr_only ..) (by decide)
    | with_reducible apply st_step (State.journalFail_st ..) | with_reducible apply st_ite

theorem State.eraseAhead_st (s : State) (b : JBlock) : Steady k s (s.eraseAhead b) := by
  unfold State.eraseAhead
  repeat' first
    | with_reducible exact st_refl _ | with_reducible apply st_step (State.eraseBlock_st ..) | with_reducible apply st_foldl
    | refine fun _ => ?_

theorem State.programPage_st (s : State) : Steady k s s.programPage := by
  unfold State.programPage
  repeat' first
    | with_reducible exact st_refl _ | with_reducible apply st_only (State.updBlock_only ..) (by decide)
    | with_reducible apply st_step (State.eraseAhead_st ..) | with_reducible apply st_ite | dsimp only | split

theorem State.keepBacklog_st (s : State) : Steady k s s.keepBacklog := by
  unfold State.keepBacklog
  repeat' first
    | with_reducible exact st_refl _ | with_reducible apply st_step (State.programPage_st ..) | with_reducible apply st_ite

theorem State.addRecord_st (s : State) (subject type flags : Nat) (payload : List Word) :
    Steady k s (s.addRecord subject type flags payload) := by
  unfold State.addRecord
  repeat' first
    | with_reducible exact st_refl _ | with_reducible apply st_setReg
    | with_reducible apply st_only (State.updBlock_only ..) (by decide) | with_reducible apply st_step (State.keepBacklog_st ..)
    | with_reducible apply st_only (State.openBlock_only ..) (by decide) | with_reducible apply st_ite | dsimp only | split
    | (clear * -; decide +revert)

theorem State.writeDue_st (s : State) : Steady k s s.writeDue := by
  unfold State.writeDue
  repeat' first
    | with_reducible exact st_refl _ | with_reducible apply st_only (State.updSr_only ..) (by decide)
    | with_reducible apply st_step (State.addRecord_st ..) | with_reducible apply st_foldl | refine fun _ => ?_

theorem State.programBacklog_st (s : State) : Steady k s s.programBacklog := by
  unfold State.programBacklog
  repeat' first
    | with_reducible exact st_refl _ | with_reducible apply st_only (State.programSeal_only ..) (by decide)
    | with_reducible apply st_step (State.programPage_st ..) | with_reducible apply st_foldl | refine fun _ => ?_

end
end Sys2Proof.Machine
end

section
/-!
PROOFS. Power-on and resets: which registers the start of boot writes, what the field dies keep, and what each reset leaves.
-/
namespace Sys2Proof.Machine

/-! ## Registers that stand -/

/-- Every register that `K` names reads as before. -/
structure KeepsRegs (K : Nat → Bool) (s t : State) : Prop where
  same : ∀ a, K a = true → t.reg a = s.reg a

section
variable {K : Nat → Bool} {s t u : State}

theorem kr_refl (s : State) : KeepsRegs K s s := ⟨fun _ _ => rfl⟩

theorem kr_step (k : KeepsRegs K t u) (h : KeepsRegs K s t) : KeepsRegs K s u := ⟨fun a e => (k.same a e).trans (h.same a e)⟩

theorem KeepsRegs.kept (h : KeepsRegs K s t) (e : u.regs = t.regs) : KeepsRegs K s u := kr_step ⟨fun a _ => reg_of_regs e a⟩ h

theorem kr_only {ps : List Part} (k : OnlyChanges ps t u) (n : ps.contains .regs = false) (h : KeepsRegs K s t) : KeepsRegs K s u :=
  h.kept (k.same .regs (by simpa using n))

theorem kr_setReg {a : Nat} {v : Word} (q : K a = false) (h : KeepsRegs K s t) : KeepsRegs K s (t.setReg a v) :=
  kr_step ⟨fun b e => t.reg_setReg_ne a b v (by rintro rfl; simp [q] at e)⟩ h

theorem kr_setF {f : Fld} {v : Nat} (q : K f.reg = false) (h : KeepsRegs K s t) : KeepsRegs K s (t.setF f v) := kr_setReg q h

theorem kr_setB {f : Fld} {b : Bool} (q : K f.reg = false) (h : KeepsRegs K s t) : KeepsRegs K s (t.setB f b) := kr_setReg q h

theorem kr_addF {f : Fld} {n : Nat} (q : K f.reg = false) (q' : K f.news.reg = false) (h : KeepsRegs K s t) :
    KeepsRegs K s (t.addF f n) := kr_setF q' (kr_setF q h)

theorem kr_ite {c : Prop} [Decidable c] (h : KeepsRegs K s t) (h' : KeepsRegs K s u) : KeepsRegs K s (if c then t else u) := by
  split <;> assumption

theorem kr_foldl {α : Type} {f : State → α → State} {xs : List α} (h : ∀ u x, KeepsRegs K u (f u x)) (h' : KeepsRegs K s t) :
    KeepsRegs K s (xs.foldl f t) := by
  induction xs generalizing t with
  | nil => exact h'
  | cons x xs ih => exact ih (kr_step (h t x) h')

theorem KeepsRegs.fld (h : KeepsRegs K s t) (f : Fld) (k : K f.reg = true) : t.fld f = s.fld f := by
  unfold State.fld
  rw [h.same _ k]

theorem KeepsRegs.flag (h : KeepsRegs K s t) (f : Fld) (k : K f.reg = true) : t.flag f = s.flag f := by
  unfold State.flag
  rw [h.fld f k]

end

/-! ## Loops -/

/-- What no step of a loop changes, the loop does not change. -/
theorem foldl_keeps {α β : Type} {p : State → β} {f : State → α → State} (h : ∀ u x, p (f u x) = p u) (xs : List α) (s : State) :
    p (xs.foldl f s) = p s := by
  induction xs generalizing s with
  | nil => rfl
  | cons x xs ih => exact (ih _).trans (h s x)

/-! ## A fault below class Channel -/

/-- A fault whose class has no reaction is counted and put in the batch, where it is collected at all. -/
theorem raise_silent (s : State) (src kind addr : Nat) {r : KindRow} (row : kindRow? src kind = some r)
    (low : (s.reactionOf src kind).1 < clsCHANNEL) : s.raise src kind addr = s ∨
      ∃ b, s.raise src kind addr = { s.countSource src kind with fc := { s.fc with batch := b } } := by
  have calm (t : State) (auto : Bool) (msg : Word) : t.react src kind addr (s.reactionOf src kind).1 auto msg = t :=
    if_pos (by simp [low])
  have mild : ¬ clsHALF ≤ (s.reactionOf src kind).1 := Nat.not_le.mpr (Nat.lt_trans low (by decide))
  unfold State.raise State.raiseWith State.whenB
  split
  · right
    simp only [mild, decide_false, Bool.and_false, Bool.false_and, Bool.not_false, Bool.false_eq_true, if_false]
    unfold State.raiseCore
    simp only [row, calm, fc_countSource, Bool.false_eq_true, if_false]
    exact ⟨_, rfl⟩
  · exact .inl rfl

/-! ## The start of boot (R323) -/

/-- Registers that the start of boot writes after SYS_STATE and the mode of BOOT_STATUS. -/
def bootReg (a : Nat) : Bool :=
  [Reg.YK_CFG, Reg.BOOT_FUSES, Reg.SR_JRN_SLOTS, Reg.SR_STATUS, Reg.HP_CFG, Reg.FC_SRC_CNT srcBOOT].contains a
    || (allHalves.any fun h => a == Reg.BD_STATUS h.val) || (allCh.any fun c => a == Reg.SPR_CHSTAT c.val) || decide (newsBase ≤ a)

/-- What of boot no start of boot changes. -/
structure BootKept (s t : State) : Prop where
  image : t.boot.image = s.boot.image
  rollback : t.boot.rollback = s.boot.rollback
  svcKey : t.boot.svcKey = s.boot.svcKey
  keyHash : t.boot.keyHash = s.boot.keyHash

theorem bk_of {s t : State} (e : t.boot = s.boot) : BootKept s t := ⟨by rw [e], by rw [e], by rw [e], by rw [e]⟩

theorem bk_trans {s t u : State} (h : BootKept s t) (k : BootKept t u) : BootKept s u :=
  ⟨k.image.trans h.image, k.rollback.trans h.rollback, k.svcKey.trans h.svcKey, k.keyHash.trans h.keyHash⟩

/-- BOOT is entered with the latched mode. -/
def State.startMode (s : State) (st : Straps) : State := (s.enter 1).setF F.BOOT_STATUS_MODE st.mode.val

/-- What the straps, the fuses and the flash say is shown. -/
def State.startPins (s : State) (st : Straps) : State :=
  let mode := st.mode.val
  let follower := st.follower && mode != 1
  let s := { s with boot := { s.boot with lead := !follower, choice := [], trial := none } }
  let s := s.setB F.YK_CFG_ROLE follower
  let s := ((s.setB F.BOOT_FUSES_KEY s.boot.keyHash.isSome).setB F.BOOT_FUSES_SVC_KEY s.boot.svcKey.isSome).setF
    F.BOOT_FUSES_ROLLBACK (min 255 s.boot.rollback)
  let region := if s.boot.flash == 0 && mode != 1 then s.boot.flashMib * 0x100000 - 0x810000 else 0
  let s := s.setReg Reg.SR_JRN_SLOTS (BitVec.ofNat 32 (region / jslotBytes))
  let s := s.setB F.SR_STATUS_PFAIL_OK s.pfailOk
  let s := s.setB F.HP_CFG_VIO_HIGH (decide (2500 < s.env.vioMv))
  if mode == 1 then (s.setB F.HP_CFG_MEMBER true).setF F.HP_CFG_LANE 2 else s

/-- The links begin to train. -/
def State.trainLinks (s : State) : State := allHalves.foldl (fun (s : State) h => s.setF (F.BD_STATUS_LINK h.val) 1) s

/-- The start of boot up to the choice of the slot. -/
def State.startHead (s : State) (st : Straps) : State := ((s.startMode st).startPins st).trainLinks.loseCoefs

theorem startBoot_eq (s : State) (st : Straps) : s.startBoot st = (s.startHead st).whenB
    ((st.mode.val == 0 || st.mode.val == 2) && (s.startHead st).boot.flash == 0 && !(s.startHead st).env.testSeen) State.chooseSlot := rfl

theorem startPins_regs (s : State) (st : Straps) : KeepsRegs (fun a => !bootReg a) s (s.startPins st) := by
  unfold State.startPins
  dsimp only
  have shown : KeepsRegs (fun a => !bootReg a) s (({ s with boot := { s.boot with
      lead := !(st.follower && st.mode.val != 1), choice := [], trial := none } } : State)) := (kr_refl s).kept rfl
  refine kr_ite (kr_setF (by decide) (kr_setB (by decide) ?_)) ?_
  all_goals exact kr_setB (by decide) (kr_setB (by decide) (kr_setReg (by decide) (kr_setF (by decide) (kr_setB (by decide)
    (kr_setB (by decide) (kr_setB (by decide) shown))))))

theorem trainLinks_regs {K : Nat → Bool} (q : ∀ h : HalfIx, K (Reg.BD_STATUS h.val) = false) (s : State) :
    KeepsRegs K s s.trainLinks := kr_foldl (fun _ h => kr_setF (q h) (kr_refl _)) (kr_refl s)

theorem loseCoefs_regs {K : Nat → Bool} (q : ∀ c : ChIx, K (Reg.SPR_CHSTAT c.val) = false) (s : State) :
    KeepsRegs K s s.loseCoefs :=
  kr_foldl (fun _ _ => kr_only (State.updHalf_only ..) (by decide) (kr_refl _))
    (kr_foldl (fun u c => kr_setB (q c) (kr_setB (q c) (kr_only (State.updChan_only u c _) (by decide) (kr_refl u)))) (kr_refl s))

/-- No fault takes a message back. -/
theorem has_raiseWith {s : State} {n src kind addr src' kind' addr' : Nat} {f r : Bool} (h : HasMsg n src kind addr s) :
    HasMsg n src kind addr (s.raiseWith src' kind' addr' f r) := by
  unfold State.raiseWith State.whenB
  dsimp only
  split
  · split
    · exact has_cancel (has_keep_raiseCore h)
    · exact has_keep_raiseCore h
  · exact h

theorem chooseSlot_msgs (s : State) {n src kind addr : Nat} (h : HasMsg n src kind addr s) : HasMsg n src kind addr s.chooseSlot := by
  unfold State.chooseSlot
  dsimp only
  split
  · exact h
  · exact has_raiseWith h
  · exact h

/-- In a state without fault table the choice of the slot counts a fallback, and nothing more of it shows in the registers. -/
theorem chooseSlot_silent (s : State) (none : s.fc.table = []) :
    KeepsRegs (fun a => a != Reg.FC_SRC_CNT srcBOOT && decide (a < newsBase)) s s.chooseSlot ∧
      OnlyChanges [.regs, .fc, .boot] s s.chooseSlot ∧ BootKept s s.chooseSlot := by
  have boot {t : State} (r : t.regs = s.regs) (o : OnlyChanges [.boot] s t) (b : BootKept s t) :
      KeepsRegs (fun a => a != Reg.FC_SRC_CNT srcBOOT && decide (a < newsBase)) s t ∧
        OnlyChanges [.regs, .fc, .boot] s t ∧ BootKept s t := ⟨(kr_refl s).kept r, only_mono o (by decide), b⟩
  unfold State.chooseSlot
  dsimp only
  split
  · exact boot rfl (only_boot (by decide) (State.appendRecord_only ..)) ⟨rfl, rfl, rfl, rfl⟩
  · next slot trial =>
    have put := boot (t := { s.appendRecord .revert slot with boot := { (s.appendRecord .revert slot).boot with
      choice := [confOf s.liveRecords, 1 - confOf s.liveRecords], trial := .none } }) rfl
      (only_boot (by decide) (State.appendRecord_only ..)) ⟨rfl, rfl, rfl, rfl⟩
    generalize hu : ({ s.appendRecord .revert slot with boot := { (s.appendRecord .revert slot).boot with
      choice := [confOf s.liveRecords, 1 - confOf s.liveRecords], trial := .none } } : State) = u at put
    obtain ⟨regs, parts, kept⟩ := put
    have low : (u.reactionOf srcBOOT kImageFallback).1 < clsCHANNEL := by
      unfold State.reactionOf
      rw [show u.fc.table = [] from hu ▸ none]
      decide
    rcases raise_silent u srcBOOT kImageFallback (faultAddr 63 (confOf s.liveRecords)) (r := ⟨3, 3, 1, 1, 1, 1⟩) (by decide) low
      with same | ⟨b, told⟩
    · unfold State.bootFault
      rw [same]
      exact ⟨regs, parts, kept⟩
    · unfold State.bootFault
      rw [told]
      refine ⟨?_, ?_, bk_trans kept (bk_of ((u.countSource_only srcBOOT kImageFallback).same .boot (by decide)))⟩
      · exact (kr_setF (by decide) (kr_addF (by decide) (by decide) regs)).kept rfl
      · exact only_fc (t := u.countSource srcBOOT kImageFallback) (by decide) (only_step (State.countSource_only ..) (by decide) parts)
  · exact boot rfl (only_boot (by decide) (only_refl _ s)) ⟨rfl, rfl, rfl, rfl⟩

/-! ## What the field dies keep (R80, R216) -/

/-- The field dies go on from `s` to `t`: the channels drive on as they did, each half keeps its table and whether it is loaded, and a
loaded one its functions. -/
structure DiesGoOn (s t : State) : Prop where
  chan : ∀ c, (t.chan c).action = (s.chan c).action ∧ (t.chan c).closed = (s.chan c).closed
  half : ∀ h, (t.half h).loaded = (s.half h).loaded ∧ (t.half h).table = (s.half h).table ∧ (t.half h).gateHold = (s.half h).gateHold
  func : ∀ c, (s.half (halfOf c)).loaded = true → t.func c = s.func c

theorem dies_trans {s t u : State} (h : DiesGoOn s t) (k : DiesGoOn t u) : DiesGoOn s u where
  chan c := ⟨(k.chan c).1.trans (h.chan c).1, (k.chan c).2.trans (h.chan c).2⟩
  half x := by
    obtain ⟨l, t, g⟩ := h.half x
    obtain ⟨l', t', g'⟩ := k.half x
    exact ⟨l'.trans l, t'.trans t, g'.trans g⟩
  func c e := (k.func c ((h.half _).1.trans e)).trans (h.func c e)

theorem dies_foldl {α : Type} {f : State → α → State} (h : ∀ u x, DiesGoOn u (f u x)) (xs : List α) (s : State) :
    DiesGoOn s (xs.foldl f s) := by
  induction xs generalizing s with
  | nil => exact ⟨fun _ => ⟨rfl, rfl⟩, fun _ => ⟨rfl, rfl, rfl⟩, fun _ _ => rfl⟩
  | cons x xs ih => exact dies_trans (h s x) (ih _)

theorem func_congr {s t : State} {c : ChIx} (k : (t.half (halfOf c)).kept = (s.half (halfOf c)).kept)
    (r : t.reg (Reg.CH_CFG c.val) = s.reg (Reg.CH_CFG c.val)) : t.func c = s.func c := by
  unfold State.func State.chFld State.cfgReg
  rw [k]
  split
  · rw [show (F.CH_CFG_FUNC c.val).reg = Reg.CH_CFG c.val from rfl, r]
  · rfl

/-- What of a half its field die goes on with. -/
def Half.die (x : Half) := (x.loaded, x.table, x.gateHold, x.kept)

/-- A step that leaves the channels' drive, the dies and their configuration alone. -/
theorem dies_same {s t : State} (x : ∀ c, (t.chan c).action = (s.chan c).action ∧ (t.chan c).closed = (s.chan c).closed)
    (y : ∀ h, (t.half h).die = (s.half h).die) (r : ∀ c : ChIx, t.reg (Reg.CH_CFG c.val) = s.reg (Reg.CH_CFG c.val)) :
    DiesGoOn s t := by
  simp only [Half.die, Prod.mk.injEq] at y
  exact ⟨x, fun h => ⟨(y h).1, (y h).2.1, (y h).2.2.1⟩, fun c _ => func_congr (y _).2.2.2 (r c)⟩

theorem dies_only {ps : List Part} {s t : State} (k : OnlyChanges ps s t) (n : (ps.contains .chans || ps.contains .halves) = false)
    (r : ∀ c : ChIx, t.reg (Reg.CH_CFG c.val) = s.reg (Reg.CH_CFG c.val)) : DiesGoOn s t := by
  simp only [Bool.or_eq_false_iff] at n
  have chans : t.chans = s.chans := k.same .chans (by simpa using n.1)
  have halves : t.halves = s.halves := k.same .halves (by simpa using n.2)
  refine dies_same (fun c => ?_) (fun h => ?_) r
  · unfold State.chan
    rw [chans]
    exact ⟨rfl, rfl⟩
  · unfold State.half
    rw [halves]

theorem clockReg_cfg (strict : Bool) (c : ChIx) : clockReg strict (Reg.CH_CFG c.val) = true := by
  revert strict c
  decide

/-- Steady steps that leave the channels alone let the dies go on. -/
theorem Steady.dies {s t : State} (h : Steady {} s t)
    (x : ∀ c, (t.chan c).action = (s.chan c).action ∧ (t.chan c).closed = (s.chan c).closed) : DiesGoOn s t :=
  dies_same x (fun k => by rw [((h.device rfl).halves rfl).same k]; rfl) fun c => (h.device rfl).regs _ (clockReg_cfg true c)

/-! ## The device as boot starts -/

theorem uncal_dies (u : State) (c : ChIx) :
    DiesGoOn u (((u.updChan c fun x => { x with coefs := x.factory, good := x.factory }).setB (F.SPR_CHSTAT_UNCAL c.val) true).setB
      (F.SPR_CHSTAT_PARKED c.val) false) := by
  refine dies_same (fun d => ?_) (fun _ => rfl) fun d => ?_
  · have k := chan_updChan u c d fun x => { x with coefs := x.factory, good := x.factory }
    change ((u.updChan c _).chan d).action = _ ∧ ((u.updChan c _).chan d).closed = _
    rw [k]
    split <;> exact ⟨rfl, rfl⟩
  · have apart : ∀ c d : ChIx, (Reg.SPR_CHSTAT c.val == Reg.CH_CFG d.val) = false := by decide
    exact (kr_setB (K := fun a => a == Reg.CH_CFG d.val) (apart c d) (kr_setB (apart c d) ((kr_refl u).kept rfl))).same _ (by simp)

theorem dropSets_dies (u : State) (h : HalfIx) :
    DiesGoOn u (u.updHalf h fun x => { x with sets := [], seq := { x.seq with firstPass := true } }) := by
  refine dies_same (fun _ => ⟨rfl, rfl⟩) (fun k => ?_) fun _ => rfl
  rw [half_updHalf]
  split <;> rfl

theorem loseCoefs_dies (s : State) : DiesGoOn s s.loseCoefs :=
  dies_trans (dies_foldl uncal_dies allCh s) (dies_foldl dropSets_dies allHalves _)

/-- What the start of boot makes of a state `s` without fault table. -/
structure BootStarted (st : Straps) (s t : State) : Prop where
  regs : KeepsRegs (fun a => !bootReg a) (s.startMode st) t
  parts : OnlyChanges [.regs, .fc, .chans, .halves, .boot] s t
  boot : BootKept s t
  dies : DiesGoOn s t
  links : ∀ h : HalfIx, t.fld (F.BD_STATUS_LINK h.val) = 1
  msgs : ∀ n src kind addr, HasMsg n src kind addr s → HasMsg n src kind addr t

theorem startMode_only (s : State) (st : Straps) : OnlyChanges [.regs] s (s.startMode st) :=
  only_step (State.setF_only ..) (by decide) (State.enter_only ..)

theorem startMode_reg (s : State) (st : Straps) {a : Nat} (sys : a ≠ Reg.SYS_STATE) (status : a ≠ Reg.BOOT_STATUS) :
    (s.startMode st).reg a = s.reg a := (State.reg_setF_ne _ F.BOOT_STATUS_MODE _ a status).trans (s.reg_setF_ne F.SYS_STATE_STATE _ a sys)

theorem startPins_only (s : State) (st : Straps) : OnlyChanges [.regs, .boot] s (s.startPins st) := by
  unfold State.startPins
  dsimp only
  have shown : OnlyChanges [.regs, .boot] s (({ s with boot := { s.boot with
      lead := !(st.follower && st.mode.val != 1), choice := [], trial := none } } : State)) := only_boot (by decide) (only_refl _ s)
  refine only_ite (only_step (State.setF_only ..) (by decide) (only_step (State.setB_only ..) (by decide) ?_)) ?_
  all_goals
    refine only_step (State.setB_only ..) (by decide) (only_step (State.setB_only ..) (by decide) (only_step (State.setReg_only ..)
      (by decide) (only_step (State.setF_only ..) (by decide) (only_step (State.setB_only ..) (by decide)
      (only_step (State.setB_only ..) (by decide) (only_step (State.setB_only ..) (by decide) shown))))))

theorem trainLinks_only (s : State) : OnlyChanges [.regs] s s.trainLinks :=
  only_foldl (fun _ _ => State.setF_only ..) (only_refl _ s)

theorem startHead_only (s : State) (st : Straps) : OnlyChanges [.regs, .chans, .halves, .boot] s (s.startHead st) :=
  only_step (State.loseCoefs_only ..) (by decide) (only_step (trainLinks_only _) (by decide) (only_step (startPins_only ..) (by decide)
    (only_step (startMode_only ..) (by decide) (only_refl _ s))))

theorem trainLinks_link (s : State) (h : HalfIx) : s.trainLinks.fld (F.BD_STATUS_LINK h.val) = 1 := by
  have both : s.trainLinks = (s.setF (F.BD_STATUS_LINK 0) 1).setF (F.BD_STATUS_LINK 1) 1 := rfl
  rw [both]
  match h with
  | 0 =>
    rw [Fin.val_zero, State.fld_setF_ne _ (F.BD_STATUS_LINK 1) (F.BD_STATUS_LINK 0) _ (by decide) (by decide) (by decide) (by decide)]
    exact State.fld_setF_same _ (F.BD_STATUS_LINK 0) 1 (by decide) (by decide)
  | 1 => exact State.fld_setF_same _ (F.BD_STATUS_LINK 1) 1 (by decide) (by decide)

theorem startHead_started (s : State) (st : Straps) : BootStarted st s (s.startHead st) where
  regs := kr_step (loseCoefs_regs (by decide) _) (kr_step (trainLinks_regs (by decide) _) (startPins_regs _ st))
  parts := only_mono (startHead_only s st) (by decide)
  boot := by
    have pins : BootKept (s.startMode st) ((s.startMode st).startPins st) := by
      unfold State.startPins
      dsimp only
      split <;> exact ⟨rfl, rfl, rfl, rfl⟩
    have links := bk_of ((trainLinks_only ((s.startMode st).startPins st)).same .boot (by decide))
    have coefs := bk_of ((State.loseCoefs_only ((s.startMode st).startPins st).trainLinks).same .boot (by decide))
    exact bk_trans (bk_trans (t := s.startMode st) (bk_of rfl) pins) (bk_trans links coefs)
  dies := by
    have apart : ∀ c : ChIx, bootReg (Reg.CH_CFG c.val) = false ∧ Reg.CH_CFG c.val ≠ Reg.SYS_STATE ∧ Reg.CH_CFG c.val ≠ Reg.BOOT_STATUS := by
      decide
    have regs : KeepsRegs (fun a => !bootReg a) (s.startMode st) ((s.startMode st).startPins st).trainLinks :=
      kr_step (trainLinks_regs (by decide) _) (startPins_regs _ st)
    refine dies_trans (dies_only ?_ (ps := [.regs, .boot]) (by decide) fun c => ?_) (loseCoefs_dies _)
    · exact only_step (trainLinks_only _) (by decide) (only_step (startPins_only ..) (by decide)
        (only_step (startMode_only ..) (by decide) (only_refl _ s)))
    · obtain ⟨boot, sys, status⟩ := apart c
      exact (regs.same _ (by simp [boot])).trans (startMode_reg s st sys status)
  links h := by
    have coefs := loseCoefs_regs (K := fun a => allHalves.any fun h => a == Reg.BD_STATUS h.val) (by decide)
      ((s.startMode st).startPins st).trainLinks
    exact (coefs.fld (F.BD_STATUS_LINK h.val) (by revert h; decide)).trans (trainLinks_link _ h)
  msgs _ _ _ _ := has_of_batch (batch_only (startHead_only s st) (by decide))

/-- Boot starts (R323). -/
theorem startBoot_started (s : State) (st : Straps) (none : s.fc.table = []) : BootStarted st s (s.startBoot st) := by
  have head := startHead_started s st
  rw [startBoot_eq]
  unfold State.whenB
  split
  · have quiet : (s.startHead st).fc.table = [] := by rw [(startHead_only s st).same .fc (by decide)]; exact none
    obtain ⟨regs, parts, kept⟩ := chooseSlot_silent _ quiet
    have shown : KeepsRegs (fun a => !bootReg a) (s.startHead st) (s.startHead st).chooseSlot := ⟨fun a e => regs.same a (by
      simp only [bootReg, List.contains_cons, Bool.not_or, Bool.and_eq_true, Bool.not_eq_true', decide_eq_false_iff_not] at e
      simp_all)⟩
    refine ⟨kr_step shown head.regs, only_step parts (by decide) head.parts, bk_trans head.boot kept,
      dies_trans head.dies (dies_only parts (by decide) fun c => shown.same _ (by revert c; decide)), fun h => ?_,
      fun _ _ _ _ m => chooseSlot_msgs _ (head.msgs _ _ _ _ m)⟩
    have apart : ∀ h : HalfIx, (Reg.BD_STATUS h.val != Reg.FC_SRC_CNT srcBOOT && decide (Reg.BD_STATUS h.val < newsBase)) = true := by decide
    exact (regs.fld (F.BD_STATUS_LINK h.val) (apart h)).trans (head.links h)
  · exact head

end Sys2Proof.Machine
end

section
namespace Sys2Proof.Machine

/-! ## Boot has started -/

section
variable {st : Straps} {s t : State}

theorem BootStarted.reg (h : BootStarted st s t) {a : Nat} (b : bootReg a = false) (sys : a ≠ Reg.SYS_STATE)
    (status : a ≠ Reg.BOOT_STATUS) : t.reg a = s.reg a :=
  (h.regs.same a (by simp [b])).trans (startMode_reg s st sys status)

theorem BootStarted.isBoot (h : BootStarted st s t) : t.isBoot = true := by
  have mode : (s.startMode st).fld F.SYS_STATE_STATE = 1 :=
    ((s.enter 1).fld_setF_ne F.BOOT_STATUS_MODE F.SYS_STATE_STATE _ (by decide) (by decide) (by decide) (by decide)).trans
      (s.fld_setF_same F.SYS_STATE_STATE 1 (by decide) (by decide))
  unfold State.isBoot
  rw [h.regs.fld F.SYS_STATE_STATE (by decide), mode]
  rfl

theorem BootStarted.mode (h : BootStarted st s t) : t.fld F.BOOT_STATUS_MODE = st.mode.val := by
  rw [h.regs.fld F.BOOT_STATUS_MODE (by decide)]
  refine ((s.enter 1).fld_setF_same F.BOOT_STATUS_MODE st.mode.val (by decide) (by decide)).trans (Nat.mod_eq_of_lt ?_)
  exact Nat.lt_of_lt_of_le st.mode.isLt (by decide)

/-- The armed halves are those of before: none after a reset. -/
theorem BootStarted.armed (h : BootStarted st s t) : t.fld F.SYS_STATE_ARMED_HALVES = s.fld F.SYS_STATE_ARMED_HALVES := by
  rw [h.regs.fld F.SYS_STATE_ARMED_HALVES (by decide)]
  exact ((s.enter 1).fld_setF_ne F.BOOT_STATUS_MODE F.SYS_STATE_ARMED_HALVES _ (by decide) (by decide) (by decide) (by decide)).trans
    (s.fld_setF_ne F.SYS_STATE_STATE F.SYS_STATE_ARMED_HALVES 1 (by decide) (by decide) (by decide) (by decide))

end

/-! ## The dies through a reset -/

theorem keepDies_half (s : State) (h : HalfIx) : s.keepDies.half h =
    (s.half h).keepDie ((dieRegs h).map fun a => (a, s.reg a)) ((chOf h).map fun c => s.stageFunc c) := by
  match h with
  | 0 => simp [State.keepDies, State.half, allHalves, Tab.get_upd_ne]
  | 1 => simp [State.keepDies, State.half, allHalves, Tab.get_upd_ne]

theorem Sparse.get_of_mem {α : Type} (d f : Nat → α) {a : Nat} (l : List Nat) (h : a ∈ l) :
    Sparse.get d (l.map fun b => (b, f b)) a = f a := by
  induction l with
  | nil => exact absurd h List.not_mem_nil
  | cons b l ih =>
    simp only [List.map_cons, Sparse.get]
    split
    · next same => rw [same]
    · next other => exact ih ((List.mem_cons.mp h).resolve_left other)

theorem cfg_mem_dieRegs (c : ChIx) : Reg.CH_CFG c.val ∈ dieRegs (halfOf c) := by
  revert c
  decide

theorem dieRegs_ne_nil (h : HalfIx) : dieRegs h ≠ [] := by
  revert h
  decide

/-- The configuration that a loaded die takes through a reset gives its channels their functions (R80). -/
theorem func_keepDie {s t : State} {c : ChIx} {funcs : List Nat} (loaded : (s.half (halfOf c)).loaded = true)
    (k : (t.half (halfOf c)).kept = ((s.half (halfOf c)).keepDie ((dieRegs (halfOf c)).map fun a => (a, s.reg a)) funcs).kept) :
    t.func c = s.func c := by
  have cfg : t.cfgReg (halfOf c) (Reg.CH_CFG c.val) = s.cfgReg (halfOf c) (Reg.CH_CFG c.val) := by
    simp only [Half.keepDie, loaded, Bool.not_true, Bool.false_eq_true, if_false] at k
    unfold State.cfgReg
    by_cases empty : (s.half (halfOf c)).kept.isEmpty = true
    · rw [if_pos empty] at k ⊢
      rw [k, if_neg (by simpa using dieRegs_ne_nil _)]
      exact Sparse.get_of_mem _ s.reg _ (cfg_mem_dieRegs c)
    · rw [if_neg empty] at k ⊢
      rw [k, if_neg empty]
  exact congrArg (fun w => wbits w 3 0) cfg

/-- A reset keeps the dies: their channels and halves are those of `keepDies` but for ticks. -/
theorem dies_keepDies {s t : State} (x : ∀ c, (t.chan c).action = (s.keepDies.chan c).action ∧ (t.chan c).closed = (s.keepDies.chan c).closed)
    (y : ∀ h, (t.half h).die = (s.keepDies.half h).die) : DiesGoOn s t := by
  have chan (c : ChIx) : s.keepDies.chan c = (s.chan c).keepDie := Tab.get_map ..
  simp only [keepDies_half, Half.die, Prod.mk.injEq] at y
  refine ⟨fun c => ?_, fun h => ⟨(y h).1, (y h).2.1, (y h).2.2.1⟩, fun c loaded => func_keepDie loaded (y _).2.2.2⟩
  rw [(x c).1, (x c).2, chan]
  exact ⟨rfl, rfl⟩

/-! ## A reset that spares the Cellar -/

/-- What `startAfresh` keeps and what it starts with, before the registers that it sets again. -/
def State.afreshBase (s : State) : State := { State.reset with
  regs := s.regs.filter fun x => domainOf x.1 != .pin
  mem := s.mem
  chans := s.keepDies.chans
  halves := s.keepDies.halves
  env := { s.env with clkFailed := false, linkIdle := true, yfltOut := false, hselLow := false }
  tb := { s.tb with r63 := false }
  fc := { batch := s.fc.batch, buffer := s.fc.buffer, firstHeld := s.fc.firstHeld, onceSeen := s.fc.onceSeen }
  pipe := { prevBtick := s.pipe.prevBtick, reacted := s.pipe.reacted, now := s.pipe.now &&& cREACTION }
  boot := s.persistBoot
  sr := { s.sr with ops := [], left := [], partner := Tab.fill 16 {}, session := none, nonce := none, report := [] }
  scrub := s.scrub
  free := s.free
  pending := s.pending }

theorem startAfresh_eq (s : State) : s.startAfresh =
    (((s.afreshBase.setReg Reg.TB_CLK_STATUS (s.reg Reg.TB_CLK_STATUS)).syncTree).syncSr).setF F.SR_STATUS_JOURNAL
      (s.fld F.SR_STATUS_JOURNAL) := rfl

theorem startAfresh_base (s : State) : OnlyChanges [.regs] s.afreshBase s.startAfresh :=
  only_step (State.setF_only ..) (by decide) (only_step (State.syncSr_only ..) (by decide)
    (only_step (State.syncTree_only ..) (by decide) (State.setReg_only ..)))

theorem syncTree_regs {K : Nat → Bool} (s : State) (q : K Reg.SR_STATUS = false)
    (tok : K Reg.SR_ATT_TOKENS = false ∨ s.leaf < leafCount) : KeepsRegs K s s.syncTree := by
  unfold State.syncTree
  dsimp only
  refine kr_setF q ?_
  split
  · next used =>
    refine kr_setF (tok.resolve_right ?_) (kr_setB q (kr_refl s))
    simpa using used
  · exact kr_setB q (kr_refl s)

theorem syncSr_regs {K : Nat → Bool} (s : State) (q : K Reg.SR_STATUS = false) : KeepsRegs K s s.syncSr :=
  kr_setF q (kr_setB q (kr_setB q (kr_refl s)))

theorem afreshBase_reg (s : State) (a : Nat) :
    s.afreshBase.reg a = if domainOf a != .pin then s.reg a else regReset a :=
  Sparse.get_filter_key regReset (fun b => domainOf b != .pin) s.regs a

/-- The Cellar goes through the reset; with every leaf used there are no attestation tokens (R18, R504). -/
theorem startAfresh_cellar (s : State) {a : Nat} (cellar : domainOf a = .cellar)
    (tok : a = Reg.SR_ATT_TOKENS → s.leaf < leafCount) : s.startAfresh.reg a = s.reg a := by
  have base (b : Nat) (c : domainOf b = .cellar) : s.afreshBase.reg b = s.reg b := by
    rw [afreshBase_reg, c]
    rfl
  have leaf : (s.afreshBase.setReg Reg.TB_CLK_STATUS (s.reg Reg.TB_CLK_STATUS)).leaf = s.leaf := by
    unfold State.leaf
    rw [State.reg_setReg_ne _ _ _ _ (by decide), base _ (by decide +kernel)]
  have pins : ∀ b ∈ [Reg.TB_CLK_STATUS, Reg.SR_STATUS], domainOf b ≠ .cellar := by decide +kernel
  have apart (b : Nat) (m : b ∈ [Reg.TB_CLK_STATUS, Reg.SR_STATUS]) : (b == a) = false :=
    beq_false_of_ne fun e => pins b m (e ▸ cellar)
  have status := apart Reg.SR_STATUS (by decide)
  have keeps : KeepsRegs (fun b => b == a) s.afreshBase s.startAfresh := by
    rw [startAfresh_eq]
    refine kr_setF status (kr_step (syncSr_regs _ status) (kr_step (syncTree_regs _ status ?_)
      (kr_setReg (apart Reg.TB_CLK_STATUS (by decide)) (kr_refl _))))
    rw [leaf]
    by_cases t : a = Reg.SR_ATT_TOKENS
    · exact .inr (tok t)
    · exact .inl (beq_false_of_ne (Ne.symm t))
  rw [keeps.same a (by simp), base a cellar]

theorem startAfresh_idle (s : State) : s.startAfresh.fld F.SYS_STATE_ARMED_HALVES = 0 := by
  have keeps : KeepsRegs (fun b => b == Reg.SYS_STATE) s.afreshBase s.startAfresh := by
    rw [startAfresh_eq]
    exact kr_setF (by decide) (kr_step (syncSr_regs _ (by decide)) (kr_step (syncTree_regs _ (by decide) (.inl (by decide)))
      (kr_setReg (by decide) (kr_refl _))))
  rw [keeps.fld F.SYS_STATE_ARMED_HALVES (by decide)]
  have pin : (domainOf Reg.SYS_STATE != .pin) = false := by decide +kernel
  unfold State.fld
  rw [show F.SYS_STATE_ARMED_HALVES.reg = Reg.SYS_STATE from rfl, afreshBase_reg, pin, if_neg Bool.false_ne_true]
  decide

theorem startAfresh_dies (s : State) : DiesGoOn s s.startAfresh := by
  have base := startAfresh_base s
  refine dies_keepDies (fun c => ?_) fun h => ?_
  · unfold State.chan
    rw [base.same .chans (by decide)]
    exact ⟨rfl, rfl⟩
  · unfold State.half
    rw [base.same .halves (by decide)]
    rfl

/-! ## Power-on, and a lost Cellar -/

/-- What `coldReset` keeps and what it starts with, before the journal is recovered. -/
def State.coldBase (s : State) : State := { State.reset with
  regs := s.regs.filter fun x => isFused x.1
  chans := s.keepDies.dropTicks.chans
  halves := s.keepDies.dropTicks.halves
  env := { s.env with vin := true, pll := false, testSeen := false, clkFailed := false, linkIdle := true, yfltOut := false, syncOut := 0, hselLow := false }
  boot := s.persistBoot
  sr := { s.sr with classes := [], opens := 0, fails := 0, lockAt := none, tokenSwath := 0, deferred := false, lowTold := 0 }
  free := s.free
  pending := s.pending }

theorem coldReset_eq (s : State) : s.coldReset = s.coldBase.recoverJournal := rfl

theorem coldReset_base (s : State) : OnlyChanges [.regs, .sr] s.coldBase s.coldReset := State.recoverJournal_only ..

/-- Registers that the recovery of the journal sets (R508). -/
def journalReg (a : Nat) : Bool := [Reg.SR_JRN_SEQ, Reg.SR_JRN_SEALED, Reg.SR_LEAF, Reg.SR_STATUS, Reg.SR_ATT_TOKENS].contains a

/-- Everything but fuses and journal starts from its reset value. -/
theorem coldReset_reg (s : State) {a : Nat} (f : isFused a = false) (j : journalReg a = false) : s.coldReset.reg a = regReset a := by
  have keeps : KeepsRegs (fun b => !journalReg b) s.coldBase s.coldReset := by
    rw [coldReset_eq]
    unfold State.recoverJournal
    dsimp only
    exact kr_step (syncTree_regs _ (by decide) (.inl (by decide))) (kr_setF (by decide) (kr_setReg (by decide) (kr_setReg (by decide)
      (kr_setReg (by decide) (kr_only (State.updSr_only ..) (by decide) (kr_refl _))))))
  rw [keeps.same a (by simp [j])]
  refine (Sparse.get_filter_key regReset isFused s.regs a).trans ?_
  rw [f]
  rfl

theorem coldReset_dies (s : State) : DiesGoOn s s.coldReset := by
  have base := coldReset_base s
  refine dies_keepDies (fun c => ?_) fun h => ?_
  · unfold State.chan
    rw [base.same .chans (by decide), State.coldBase, State.dropTicks, Tab.get_map]
    exact ⟨rfl, rfl⟩
  · unfold State.half
    rw [base.same .halves (by decide), State.coldBase, State.dropTicks, Tab.get_map]
    rfl

/-! ## The Cellar while a transaction is abandoned -/

/-- Registers of the Cellar that no fault changes. -/
def cellarReg (a : Nat) : Bool := domainOf a == .cellar && !faultReg a

theorem cellarReg_news (f : Fld) : cellarReg f.news.reg = false := by
  have high := faultReg_news f.news.reg (Nat.le_add_left ..)
  simp [cellarReg, high]

theorem kr_faults {s t : State} (h : FaultRegsOnly s t) : KeepsRegs cellarReg s t :=
  ⟨fun a e => h.same a (by simp only [cellarReg, Bool.and_eq_true, Bool.not_eq_true'] at e; exact e.2)⟩

theorem fr_raiseOnce (s : State) (src kind addr : Nat) : FaultRegsOnly s (s.raiseOnce src kind addr) := by
  unfold State.raiseOnce State.raiseByRule
  split
  · exact fr_raiseWith ..
  · refine fr_ite (fr_refl s) (fr_trans ?_ (fr_raiseWith ..))
    exact fr_regs (t := s) rfl (fr_refl s)

theorem countWait_cellar (s : State) (n : Nat) : KeepsRegs cellarReg s (s.countWait n) :=
  kr_setReg (by decide +kernel) (kr_setReg (by decide +kernel) (kr_refl s))

theorem syncStalled_cellar (s : State) (held : List HeldWrite) : KeepsRegs cellarReg s (s.syncStalled held) := by
  have apart : ∀ c : CribIx, cellarReg (Reg.CRIB_STATUS c.val) = false := by decide +kernel
  refine kr_foldl (fun u w => ?_) (kr_refl s)
  split
  · next c _ => exact kr_setB (apart c) (kr_refl u)
  · exact kr_refl u

theorem cutTx_cellar (s : State) : KeepsRegs cellarReg s s.cutTx := by
  have counted : KeepsRegs cellarReg s (s.addF F.HP_COUNTS_ABORTED 1) := kr_addF (by decide +kernel) (cellarReg_news _) (kr_refl s)
  unfold State.cutTx State.hpFault State.pcHost State.pcAdd State.setPairReg
  refine kr_step (kr_faults (fr_raiseOnce ..)) ?_
  exact kr_ite counted (kr_setReg (by decide +kernel) (kr_setReg (by decide +kernel) counted))

theorem abandonTx_cellar (s : State) : KeepsRegs cellarReg s s.abandonTx := by
  have unlatched : KeepsRegs cellarReg s ((s.unlatchAll (s.hp.reads.map (·.latch))).unlatchAll (s.hp.sending.map (·.latch))) :=
    kr_only (State.unlatchAll_only ..) (by decide) (kr_only (State.unlatchAll_only ..) (by decide) (kr_refl s))
  exact kr_step (cutTx_cellar _) (kr_step (syncStalled_cellar _ _)
    ((kr_foldl (fun u (x : Sending) => countWait_cellar u x.wait) unlatched).kept rfl))

end Sys2Proof.Machine
end

section
namespace Sys2Proof.Machine

/-! ## A restart that spares the Cellar -/

/-- What a restart that spares the Cellar makes of a state `s` (R18, R52, R216). -/
structure Spared (st : Straps) (s t : State) : Prop where
  cellar : ∀ a, cellarReg a = true → (a = Reg.SR_ATT_TOKENS → s.leaf < leafCount) → t.reg a = s.reg a
  isBoot : t.isBoot = true
  mode : t.fld F.BOOT_STATUS_MODE = st.mode.val
  idle : t.fld F.SYS_STATE_ARMED_HALVES = 0
  mem : t.mem = s.mem
  empty : t.sig = [] ∧ t.queue = [] ∧ t.forces = []
  boot : t.boot.image = none ∧ t.boot.rollback = s.boot.rollback
  dies : DiesGoOn s t
  links : ∀ h : HalfIx, t.fld (F.BD_STATUS_LINK h.val) = 1
  pending : t.pending = s.pending
  msgs : ∀ n src kind addr, HasMsg n src kind addr s → HasMsg n src kind addr t

/-- A transaction in progress is abandoned (R386). -/
def State.txAbandoned (s : State) : State :=
  if s.hp.reads.isEmpty && s.hp.sending.isEmpty && s.hp.writes.isEmpty then s else s.abandonTx

theorem has_raiseOnce {s : State} {n src kind addr src' kind' addr' : Nat} (h : HasMsg n src kind addr s) :
    HasMsg n src kind addr (s.raiseOnce src' kind' addr') := by
  unfold State.raiseOnce State.raiseByRule
  split
  · exact has_raiseWith h
  · split
    · exact h
    · exact has_raiseWith h

theorem abandonTx_msgs (s : State) {n src kind addr : Nat} (h : HasMsg n src kind addr s) :
    HasMsg n src kind addr s.abandonTx := by
  have waits (xs : List Sending) (u : State) := foldl_keeps (p := fun s : State => s.fc.batch)
    (f := fun (s : State) (x : Sending) => s.countWait x.wait) (fun u x => batch_only (State.countWait_only u x.wait) (by decide)) xs u
  have latches := (batch_only (State.unlatchAll_only (s.unlatchAll (s.hp.reads.map (·.latch))) (s.hp.sending.map (·.latch)))
    (by decide)).trans (batch_only (State.unlatchAll_only s (s.hp.reads.map (·.latch))) (by decide))
  unfold State.abandonTx State.cutTx State.hpFault
  refine has_raiseOnce (has_of_batch ?_ h)
  rw [batch_only (State.pcHost_only ..) (by decide), batch_only (State.addF_only ..) (by decide),
    batch_only (State.syncStalled_only ..) (by decide)]
  exact (waits _ _).trans latches

theorem abandonTx_dies (s : State) : DiesGoOn s s.abandonTx := by
  have chans := (State.abandonTx_only s).same .chans (by decide)
  refine s.abandonTx_st.dies fun c => ?_
  unfold State.chan
  rw [chans]
  exact ⟨rfl, rfl⟩

/-- The start of boot leaves the Cellar alone. -/
theorem bootReg_of_cellar {a : Nat} (c : cellarReg a = true) : bootReg a = false ∧ a ≠ Reg.SYS_STATE ∧ a ≠ Reg.BOOT_STATUS := by
  have single : ∀ b ∈ [Reg.YK_CFG, Reg.BOOT_FUSES, Reg.SR_JRN_SLOTS, Reg.SR_STATUS, Reg.HP_CFG, Reg.FC_SRC_CNT srcBOOT, Reg.SYS_STATE,
      Reg.BOOT_STATUS], cellarReg b = false := by decide +kernel
  have links : ∀ h : HalfIx, cellarReg (Reg.BD_STATUS h.val) = false := by decide +kernel
  have coefs : ∀ x : ChIx, cellarReg (Reg.SPR_CHSTAT x.val) = false := by decide +kernel
  have ne {b : Nat} (k : cellarReg b = false) : a ≠ b := fun e => by simp [e, k] at c
  have low : ¬ newsBase ≤ a := fun high => by simp [cellarReg, faultReg_news a high] at c
  refine ⟨?_, ne (single _ (by decide)), ne (single _ (by decide))⟩
  simp only [bootReg, Bool.or_eq_false_iff, decide_eq_false_iff_not, List.any_eq_false, beq_iff_eq]
  refine ⟨⟨⟨?_, fun h _ => ne (links h)⟩, fun x _ => ne (coefs x)⟩, low⟩
  by_contra listed
  rw [Bool.not_eq_false, List.contains_iff_mem] at listed
  have out := single a (List.mem_append_left [Reg.SYS_STATE, Reg.BOOT_STATUS] listed)
  simp [c] at out

theorem restart_true (s : State) (st : Straps) : s.restart st true = s.txAbandoned.startAfresh.startBoot st := rfl

theorem startBoot_afresh (v : State) (st : Straps) : Spared st v (v.startAfresh.startBoot st) := by
  have base := startAfresh_base v
  have boot := startBoot_started v.startAfresh st (by rw [base.same .fc (by decide)]; rfl)
  have kept {p : Part} (n : p ∉ [.regs, .fc, .chans, .halves, .boot]) := boot.parts.same p n
  have image : v.startAfresh.boot.image = none ∧ v.startAfresh.boot.rollback = v.boot.rollback := by
    rw [base.same .boot (by decide)]
    exact ⟨rfl, rfl⟩
  refine ⟨fun a c tok => ?_, boot.isBoot, boot.mode, boot.armed.trans (startAfresh_idle v), ?_, ⟨?_, ?_, ?_⟩,
    ⟨boot.boot.image.trans image.1, boot.boot.rollback.trans image.2⟩, dies_trans (startAfresh_dies v) boot.dies, boot.links, ?_,
    fun n src kind addr m => boot.msgs _ _ _ _ ?_⟩
  · obtain ⟨apart, sys, status⟩ := bootReg_of_cellar c
    simp only [cellarReg, Bool.and_eq_true, beq_iff_eq] at c
    exact (boot.reg apart sys status).trans (startAfresh_cellar v c.1 tok)
  · exact (kept (p := .mem) (by decide)).trans (base.same .mem (by decide))
  · exact (kept (p := .sig) (by decide)).trans (base.same .sig (by decide))
  · exact (kept (p := .queue) (by decide)).trans (base.same .queue (by decide))
  · exact (kept (p := .forces) (by decide)).trans (base.same .forces (by decide))
  · exact (kept (p := .pending) (by decide)).trans (base.same .pending (by decide))
  · exact has_of_batch (by rw [base.same .fc (by decide)]; rfl) m

theorem restart_spared (s : State) (st : Straps) : Spared st s (s.restart st true) := by
  rw [restart_true]
  have spared := startBoot_afresh s.txAbandoned st
  unfold State.txAbandoned at spared ⊢
  split at spared
  · next quiet =>
    rw [if_pos quiet]
    exact spared
  · next busy =>
    rw [if_neg busy]
    have same {p : Part} (n : p ∉ [.regs, .env, .fc, .pipe, .halves, .pairs, .cribs, .recfg, .yk, .hp]) := (State.abandonTx_only s).same p n
    have leaf : s.abandonTx.leaf = s.leaf := by
      unfold State.leaf
      rw [((s.abandonTx_st (k := {})).device rfl).regs _ (by decide)]
    obtain ⟨cellar, isBoot, mode, idle, mem, empty, ⟨image, rollback⟩, dies, links, pending, msgs⟩ := spared
    refine ⟨fun a c tok => (cellar a c fun e => leaf ▸ tok e).trans ((abandonTx_cellar s).same a c), isBoot, mode, idle,
      mem.trans (same (p := .mem) (by decide)), empty, ⟨image, rollback.trans ?_⟩, dies_trans (abandonTx_dies s) dies, links,
      pending.trans (same (p := .pending) (by decide)), fun n src kind addr m => msgs _ _ _ _ (abandonTx_msgs s m)⟩
    rw [show s.abandonTx.boot = s.boot from same (p := .boot) (by decide)]

/-- A reset by a reaction or a brown-out keeps FAULT_N asserted up to the next SAFE (R473). -/
def State.waitsForSafe (s : State) : State := ({ s with fc := { s.fc with resetWait := true } } : State).syncFc

theorem waitsForSafe_flag (s : State) : s.waitsForSafe.flag F.FC_STATUS_FAULT_N = true := by
  refine (State.flag_setB_same _ F.FC_STATUS_FAULT_N _ rfl (by decide)).trans ?_
  exact (congrArg (· || true) rfl).trans (Bool.or_true _)

theorem waitsForSafe_only (s : State) : OnlyChanges [.regs, .fc] s s.waitsForSafe :=
  only_step (State.syncFc_only _) (by decide) (only_fc (by decide) (only_refl _ s))

theorem waitsForSafe_regs (s : State) : KeepsRegs (fun a => a != Reg.FC_STATUS) s s.waitsForSafe :=
  kr_setB (by decide) (kr_setF (by decide) (kr_setF (by decide) ((kr_refl s).kept rfl)))

theorem waitsForSafe_isBoot {s : State} (h : s.isBoot = true) : s.waitsForSafe.isBoot = true := by
  unfold State.isBoot
  rw [(waitsForSafe_regs s).fld F.SYS_STATE_STATE (by decide)]
  exact h

theorem waitsForSafe_dies (s : State) : DiesGoOn s s.waitsForSafe :=
  dies_only (waitsForSafe_only s) (by decide) fun c => (waitsForSafe_regs s).same _ (by revert c; decide)

theorem spared_waitsForSafe {st : Straps} {s t : State} (h : Spared st s t) : Spared st s t.waitsForSafe := by
  have status := waitsForSafe_regs t
  have same {p : Part} (n : p ∉ [.regs, .fc]) := (waitsForSafe_only t).same p n
  have apart : cellarReg Reg.FC_STATUS = false := by decide +kernel
  have boot : t.waitsForSafe.boot = t.boot := same (p := .boot) (by decide)
  obtain ⟨cellar, isBoot, mode, idle, mem, ⟨sig, queue, forces⟩, ⟨image, rollback⟩, dies, links, pending, msgs⟩ := h
  refine ⟨fun a c tok => (status.same a ?_).trans (cellar a c tok), waitsForSafe_isBoot isBoot,
    (status.fld F.BOOT_STATUS_MODE (by decide)).trans mode, (status.fld F.SYS_STATE_ARMED_HALVES (by decide)).trans idle,
    (same (p := .mem) (by decide)).trans mem,
    ⟨(same (p := .sig) (by decide)).trans sig, (same (p := .queue) (by decide)).trans queue,
      (same (p := .forces) (by decide)).trans forces⟩, ⟨by rw [boot, image], by rw [boot, rollback]⟩,
    dies_trans dies (waitsForSafe_dies t),
    fun h => (status.fld (F.BD_STATUS_LINK h.val) (by revert h; decide)).trans (links h),
    (same (p := .pending) (by decide)).trans pending,
    fun n src kind addr m => has_of_batch (batch_only (State.syncFc_only _) (by decide)) (msgs n src kind addr m)⟩
  simp only [bne_iff_ne]
  rintro rfl
  simp [apart] at c

/-! ## Up to the reset -/

/-- The channels drive on as they did. -/
def DrivesOn (s t : State) : Prop := ∀ c, (t.chan c).action = (s.chan c).action ∧ (t.chan c).closed = (s.chan c).closed

theorem drives_step {s t u : State} (k : DrivesOn t u) (h : DrivesOn s t) : DrivesOn s u :=
  fun c => ⟨(k c).1.trans (h c).1, (k c).2.trans (h c).2⟩

theorem drives_only {ps : List Part} {s t : State} (k : OnlyChanges ps s t) (n : ps.contains .chans = false) : DrivesOn s t := by
  intro c
  unfold State.chan
  rw [k.same .chans (by simpa using n)]
  exact ⟨rfl, rfl⟩

/-- A memory that was retained, or else lost. -/
theorem drives_unless {s t u : State} {c : Prop} [Decidable c] (k : DrivesOn t u) (h : DrivesOn s t) :
    DrivesOn s (if c then t else u) := by
  split
  · exact h
  · exact drives_step k h

theorem drives_dropBanks (u : State) (r : Sparse Word) : DrivesOn u { u with regs := r, chans := u.chans.map Chan.dropBanks } := by
  intro c
  unfold State.chan
  rw [Tab.get_map]
  exact ⟨rfl, rfl⟩

theorem drives_loseGranary (s : State) : DrivesOn s s.loseGranary := by
  have crib (u : State) : OnlyChanges [.regs, .mem, .cribs] u (allCribs.foldl (fun (s : State) c =>
      ((s.updCrib c fun x => { x with written := [], latched := 0 }).setReg (Reg.CRIB_CONS c.val) (s.reg (Reg.CRIB_PROD c.val))).syncCrib
        c) { u with mem := u.mem.filter fun c => !inLoft c.1 }) :=
    only_foldl (fun _ _ => only_step (State.syncCrib_only ..) (by decide) (only_step (State.setReg_only ..) (by decide)
      (only_step (State.updCrib_only ..) (by decide) (only_refl _ _)))) (only_mem (by decide) (only_refl _ u))
  unfold State.loseGranary
  exact drives_unless (fun _ => ⟨rfl, rfl⟩) (drives_unless (drives_only (State.loseExchange_only _) (by decide))
    (drives_unless (drives_only (State.dropTrees_only _ _) (by decide)) (drives_unless (drives_dropBanks _ _)
    (drives_unless (drives_only (State.loseLanding_only _) (by decide)) (drives_unless (drives_only (crib _) (by decide))
    (drives_unless (fun _ => ⟨rfl, rfl⟩) fun _ => ⟨rfl, rfl⟩))))))

/-- The state in which a reset finds the device: what has ended by its tick has ended, and a Dormant before it has lost the Granary. -/
def State.atReset (s : State) : State := (s.catchUp s.tick).loseDormant

theorem atReset_steady (s : State) : Steady {} s s.atReset := st_step (State.loseDormant_st _) (State.catchUp_st ..)

theorem atReset_same (s : State) {p : Part} (n : p ∉ [.regs, .mem, .sig, .env, .fc, .pipe, .chans, .halves, .pairs, .cribs, .recfg, .sr,
    .gln, .yk, .hp]) : p.same s s.atReset :=
  (only_step (State.loseDormant_only _) (by decide) (only_mono (State.catchUp_only s s.tick) (by decide))).same p n

theorem atReset_dies (s : State) : DiesGoOn s s.atReset := by
  have lost : DrivesOn (s.catchUp s.tick) s.atReset := by
    unfold State.atReset State.loseDormant State.whenB
    split
    · exact drives_loseGranary _
    · exact fun _ => ⟨rfl, rfl⟩
  exact (atReset_steady s).dies (drives_step lost (drives_only (State.catchUp_only ..) (by decide)))

/-- What the tick of a reset and a Dormant before it bring before the restart. -/
structure Found (s u : State) : Prop where
  cellar : ∀ a, cellarReg a = true → u.reg a = s.atReset.reg a
  steady : Steady {} s u
  mem : u.mem = s.atReset.mem
  boot : u.boot = s.boot
  dies : DiesGoOn s u
  pending : u.pending = s.pending

theorem found_atReset (s : State) : Found s s.atReset :=
  ⟨fun _ _ => rfl, atReset_steady s, rfl, atReset_same s (p := .boot) (by decide), atReset_dies s,
    atReset_same s (p := .pending) (by decide)⟩

theorem Found.after {ps : List Part} {s u v : State} (h : Found s u) (k : OnlyChanges ps u v)
    (n : (ps.contains .mem || ps.contains .boot || ps.contains .pending || ps.contains .chans) = false)
    (c : KeepsRegs cellarReg u v) (st : Steady {} u v) : Found s v := by
  simp only [Bool.or_eq_false_iff] at n
  obtain ⟨⟨⟨mem, boot⟩, pending⟩, chans⟩ := n
  exact ⟨fun a e => (c.same a e).trans (h.cellar a e), st_step st h.steady, (k.same .mem (by simpa using mem)).trans h.mem,
    (k.same .boot (by simpa using boot)).trans h.boot, dies_trans h.dies (st.dies (drives_only k chans)),
    (k.same .pending (by simpa using pending)).trans h.pending⟩

theorem relock_cellar (s : State) : KeepsRegs cellarReg s s.relock :=
  kr_ite (kr_refl s) (kr_setB (by decide +kernel) (kr_setB (by decide +kernel) ((kr_refl s).kept rfl)))

theorem Found.relock {s u : State} (h : Found s u) : Found s u.relock :=
  h.after (State.relock_only u) (by decide) (relock_cellar u) (State.relock_st u)

/-- A brown-out wakes the core and is told (R528). -/
def State.brownOut (s : State) : State := (s.updPwr fun x => { x with mode := 0 }).raise srcPWR kCoreBor (faultAddr 63 63)

theorem Found.brownOut {s u : State} (h : Found s u) : Found s u.brownOut := by
  have awake : Found s (u.updPwr fun x => { x with mode := 0 }) :=
    h.after (State.updPwr_only ..) (by decide) ((kr_refl u).kept rfl) (st_only (State.updPwr_only ..) (by decide) (st_refl u))
  exact awake.after (State.raise_only ..) (by decide) (kr_faults (fr_raise ..)) (State.raise_st ..)

theorem brownOut_msg {s u : State} (h : Steady {} s u) : HasMsg s.swath srcPWR kCoreBor (faultAddr 63 63) u.brownOut := by
  have swath : (u.updPwr fun x => { x with mode := 0 }).swath = s.swath := by
    unfold State.swath State.pairReg
    rw [← (h.device rfl).regs Reg.TB_SWATH_LO (by decide), ← (h.device rfl).regs Reg.TB_SWATH_HI (by decide)]
    rfl
  rw [← swath]
  exact told_raise (by decide) (coreOn_raise ..)

/-! ## The three resets -/

/-- What remains of a state when a reset has spared its Cellar. -/
theorem spared_found {st : Straps} {s u t : State} (h : Found s u) (k : Spared st u t) :
    t.tick = s.tick ∧ t.swath = s.swath ∧ t.stook = s.stook ∧ t.btick = s.btick ∧
      (∀ a, domainOf a = .cellar → faultReg a = false → (a = Reg.SR_ATT_TOKENS → s.leaf < leafCount) → t.reg a = s.atReset.reg a) ∧
      t.isBoot = true ∧ t.fld F.BOOT_STATUS_MODE = st.mode.val ∧ t.fld F.SYS_STATE_ARMED_HALVES = 0 ∧
      t.mem = s.atReset.mem ∧ (s.pwr.mode ≠ 4 → s.catchUp s.tick = s → t.mem = s.mem) ∧
      t.sig = [] ∧ t.queue = [] ∧ t.forces = [] ∧ t.boot.image = none ∧ t.boot.rollback = s.boot.rollback ∧
      (∀ c, (t.chan c).action = (s.chan c).action ∧ (t.chan c).closed = (s.chan c).closed) ∧
      (∀ h, (t.half h).loaded = (s.half h).loaded ∧ (t.half h).table = (s.half h).table) ∧
      (∀ c, (s.half (halfOf c)).loaded = true → t.func c = s.func c) ∧
      (∀ h : HalfIx, t.fld (F.BD_STATUS_LINK h.val) = 1) ∧ t.pending = s.pending := by
  have leaf : u.leaf = s.leaf := by
    unfold State.leaf
    rw [(h.steady.device rfl).regs _ (by decide)]
  have cellar (a : Nat) (c : cellarReg a = true) (tok : a = Reg.SR_ATT_TOKENS → s.leaf < leafCount) : t.reg a = s.atReset.reg a :=
    (k.cellar a c fun e => leaf ▸ tok e).trans (h.cellar a c)
  have clock (lo hi : Nat) (l : cellarReg lo = true ∧ lo ≠ Reg.SR_ATT_TOKENS ∧ clockReg true lo = true)
      (g : cellarReg hi = true ∧ hi ≠ Reg.SR_ATT_TOKENS ∧ clockReg true hi = true) : t.pairReg lo hi = s.pairReg lo hi := by
    obtain ⟨lc, lt, lk⟩ := l
    obtain ⟨gc, gt, gk⟩ := g
    unfold State.pairReg
    rw [cellar lo lc (absurd · lt), cellar hi gc (absurd · gt), ((atReset_steady s).device rfl).regs lo lk, ((atReset_steady s).device rfl).regs hi gk]
  have dies := dies_trans h.dies k.dies
  obtain ⟨sig, queue, forces⟩ := k.empty
  obtain ⟨image, rollback⟩ := k.boot
  have mem : t.mem = s.atReset.mem := k.mem.trans h.mem
  refine ⟨clock _ _ (by decide +kernel) (by decide +kernel), clock _ _ (by decide +kernel) (by decide +kernel),
    clock _ _ (by decide +kernel) (by decide +kernel), clock _ _ (by decide +kernel) (by decide +kernel),
    fun a c f tok => cellar a (by simp [cellarReg, c, f]) tok, k.isBoot, k.mode, k.idle, mem, fun awake caught => mem.trans ?_,
    sig, queue, forces, image, rollback.trans (by rw [h.boot]), dies.chan, fun x => ⟨(dies.half x).1, (dies.half x).2.1⟩, dies.func,
    k.links, k.pending.trans h.pending⟩
  unfold State.atReset State.loseDormant
  rw [caught, State.whenB_false _ _ (by simpa using awake)]

/-- A command that resets the device where its condition stands, with the straps it starts under. -/
def Resets (s : State) (st : Straps) (cmd : Bool → Instr) : Prop :=
  (∃ st', cmd = .rstN st' ∧ s.env.vin = true ∧ st'.mode = st.mode) ∨
    (cmd = .resetReaction ∧ s.fc.resetting = true ∧ s.fc.resetAt + resetTicks ≤ s.tick ∧ st.mode.val = s.fld F.BOOT_STATUS_MODE) ∨
    (cmd = .coreBor ∧ (s.pwr.mode = 2 ∨ s.pwr.mode = 4) ∧ s.fld F.PWR_CFG_REG = 0 ∧ st.mode.val = s.fld F.BOOT_STATUS_MODE)

theorem strapsNow_mode {s : State} {st : Straps} (h : st.mode.val = s.fld F.BOOT_STATUS_MODE) : s.strapsNow.mode = st.mode := by
  apply Fin.ext
  have lt := st.mode.isLt
  simp only [State.strapsNow]
  omega

theorem exec_rstN (s : State) (st : Straps) (ok : Bool) (h : s.env.vin = true) :
    exec (.rstN st ok) s = .next (s.atReset.relock.restart st ok) := congrArg Host.Outcome.next (if_pos h)

theorem exec_resetReaction (s : State) (ok : Bool) (h : s.fc.resetting = true) (h' : s.fc.resetAt + resetTicks ≤ s.tick) :
    exec (.resetReaction ok) s = .next (s.atReset.restart s.strapsNow ok).waitsForSafe :=
  congrArg Host.Outcome.next (if_neg (by simp [h, h']))

theorem exec_coreBor (s : State) (ok : Bool) (h : s.pwr.mode = 2 ∨ s.pwr.mode = 4) (h' : s.fld F.PWR_CFG_REG = 0) :
    exec (.coreBor ok) s = .next (s.atReset.brownOut.relock.restart s.strapsNow ok).waitsForSafe :=
  congrArg Host.Outcome.next (if_neg (by rcases h with e | e <;> simp [e, h']))

/-- A reset that spares the Cellar restarts what it has found. -/
theorem reset_spares {s : State} {st : Straps} {cmd : Bool → Instr} (h : Resets s st cmd) :
    ∃ t u st', exec (cmd true) s = .next t ∧ st'.mode = st.mode ∧ Found s u ∧ Spared st' u t ∧
      (cmd = .coreBor → HasMsg s.swath srcPWR kCoreBor (faultAddr 63 63) t) ∧
      ((∃ st', cmd = .rstN st') ∨ t.flag F.FC_STATUS_FAULT_N = true) := by
  rcases h with ⟨st', rfl, vin, mode⟩ | ⟨rfl, resetting, due, mode⟩ | ⟨rfl, low, reg, mode⟩
  · exact ⟨_, _, st', exec_rstN s st' true vin, mode, (found_atReset s).relock, restart_spared .., fun e => (nomatch congrFun e true),
      .inl ⟨st', rfl⟩⟩
  · exact ⟨_, _, _, exec_resetReaction s true resetting due, strapsNow_mode mode, found_atReset s,
      spared_waitsForSafe (restart_spared ..), fun e => (nomatch congrFun e true), .inr (waitsForSafe_flag _)⟩
  · have spared := spared_waitsForSafe (restart_spared s.atReset.brownOut.relock s.strapsNow)
    refine ⟨_, _, _, exec_coreBor s true low reg, strapsNow_mode mode, (found_atReset s).brownOut.relock, spared, fun _ => ?_,
      .inr (waitsForSafe_flag _)⟩
    exact spared.msgs _ _ _ _ (has_of_batch (batch_only (State.relock_only _) (by decide)) (brownOut_msg (atReset_steady s)))

end Sys2Proof.Machine
end

section
namespace Sys2Proof.Machine

/-! ## A lost Cellar, and power-on -/

theorem crib0_cold (s : State) {t : State} (h : KeepsRegs (fun a => a == Reg.CRIB_CFG 0) s.coldReset t) : t.crib0 = false := by
  unfold State.crib0 State.flag
  rw [h.fld (F.CRIB_CFG_EN 0) (by decide)]
  unfold State.fld
  rw [coldReset_reg s (by decide) (by decide)]
  decide +kernel

theorem fr_gather {s t : State} (f : Fld) (g : Nat → Nat) (e : faultReg f.reg = true) (h : FaultRegsOnly s t) :
    FaultRegsOnly s (t.gather f g) := fr_setF _ _ (faultReg_news _ (Nat.le_add_left ..)) (fr_setF _ _ e h)

/-- A step inside the Fault Collector, up to its table of reactions. -/
structure InCollector (s t : State) : Prop where
  regs : FaultRegsOnly s t
  parts : OnlyChanges [.regs, .fc] s t
  table : t.fc.table = s.fc.table

theorem ic_of_regs {s t : State} (r : FaultRegsOnly s t) (o : OnlyChanges [.regs] s t) : InCollector s t :=
  ⟨r, only_mono o (by decide), congrArg Fc.table (o.same .fc (by decide))⟩

theorem ic_trans {s t u : State} (h : InCollector s t) (k : InCollector t u) : InCollector s u :=
  ⟨fr_trans h.regs k.regs, only_trans h.parts k.parts, k.table.trans h.table⟩

theorem deliverRecord_held (s : State) (ws : List Word) (h : s.crib0 = false) : InCollector s (s.deliverRecord ws) := by
  unfold State.deliverRecord
  rw [if_neg (by simp [h])]
  split
  · exact ⟨fr_regs (t := s) rfl (fr_refl s), only_fc (by decide) (only_refl _ s), rfl⟩
  · exact ic_of_regs (fr_addF _ _ (by decide) (fr_refl s)) (State.addF_only ..)

/-- Without Crib 0 a logged message changes registers and buffers of the Fault Collector. -/
theorem logMsg_held (s : State) (m : Msg) (h : s.crib0 = false) : InCollector s (s.logMsg m) := by
  have first (b : Bool) (v w x y : Word) : InCollector s (if b then ((((({ s with fc := { s.fc with firstHeld := true } } : State).setReg
      Reg.FC_FIRST_MSG v).setReg Reg.FC_FIRST_SWATH w).setReg Reg.FC_FIRST_TICK_HI x).setReg Reg.FC_FIRST_TICK_LO y) else s) := by
    have held : InCollector s { s with fc := { s.fc with firstHeld := true } } :=
      ⟨fr_regs (t := s) rfl (fr_refl s), only_fc (by decide) (only_refl _ s), rfl⟩
    split
    · refine ic_trans held (ic_of_regs ?_ ?_)
      · exact fr_setReg _ _ (by decide) (fr_setReg _ _ (by decide) (fr_setReg _ _ (by decide) (fr_setReg _ _ (by decide) (fr_refl _))))
      · exact only_step (State.setReg_only ..) (by decide) (only_step (State.setReg_only ..) (by decide)
          (only_step (State.setReg_only ..) (by decide) (State.setReg_only ..)))
    · exact ic_of_regs (fr_refl s) (only_refl _ s)
  have summary (u : State) (v : Word) :
      InCollector u (((u.orF F.FC_SUMMARY_SEEN (2 ^ m.cls)).maxF F.FC_SUMMARY_HIGHEST m.cls).setReg Reg.FC_LAST v) :=
    ic_of_regs (fr_setReg _ _ (by decide) (fr_gather _ _ (by decide) (fr_gather _ _ (by decide) (fr_refl u))))
      (only_step (State.setReg_only ..) (by decide) (only_step (State.maxF_only ..) (by decide) (State.orF_only ..)))
  have noted (v w x y z : Word) := ic_trans (first (!s.fc.firstHeld && m.real && decide (m.cls ≥ clsWARN)) v w x y) (summary _ z)
  unfold State.logMsg
  dsimp only
  refine ic_trans (noted _ _ _ _ _) (deliverRecord_held _ _ ?_)
  unfold State.crib0 State.flag State.fld
  rw [(noted _ _ _ _ _).regs.same _ (by decide)]
  exact h

/-! ## A cold start -/

/-- Registers that a cold start leaves at their reset values up to the start of boot. -/
def coldReg (a : Nat) : Bool :=
  !isFused a && !journalReg a && a != Reg.TB_CLK_STATUS && a != Reg.TB_PHASE && !faultReg a

/-- The device of `s` has started cold in `u` (R55, R321). -/
structure Cold (s u : State) : Prop where
  regs : ∀ a, coldReg a = true → u.reg a = regReset a
  empty : u.mem = [] ∧ u.sig = [] ∧ u.queue = [] ∧ u.forces = []
  table : u.fc.table = []
  image : u.boot.image = none
  boot : u.boot.rollback = s.boot.rollback ∧ u.boot.svcKey = s.boot.svcKey ∧
    (s.fld F.SYS_COMMISSION_STATE ≠ 1 → u.boot.keyHash = s.boot.keyHash)
  dies : DiesGoOn s u
  pending : u.pending = s.pending

theorem cold_coldReset (s : State) : Cold s s.coldReset := by
  have base := coldReset_base s
  have boot : s.coldReset.boot = s.persistBoot := base.same .boot (by decide)
  refine ⟨fun a e => ?_, ⟨base.same .mem (by decide), base.same .sig (by decide), base.same .queue (by decide),
    base.same .forces (by decide)⟩, by rw [base.same .fc (by decide)]; rfl, by rw [boot]; rfl, ⟨by rw [boot]; rfl, by rw [boot]; rfl, fun c => ?_⟩,
    coldReset_dies s, base.same .pending (by decide)⟩
  · simp only [coldReg, Bool.and_eq_true, Bool.not_eq_true'] at e
    exact coldReset_reg s e.1.1.1.1 e.1.1.1.2
  · rw [boot]
    exact if_neg (by simpa using c)

theorem Cold.step {s u v : State} (h : Cold s u) (k : OnlyChanges [.regs, .env, .fc] u v) (r : KeepsRegs coldReg u v)
    (f : v.fc.table = u.fc.table) : Cold s v := by
  have cfg : ∀ c : ChIx, coldReg (Reg.CH_CFG c.val) = true := by decide +kernel
  have boot : v.boot = u.boot := k.same .boot (by decide)
  obtain ⟨mem, sig, queue, forces⟩ := h.empty
  refine ⟨fun a e => (r.same a e).trans (h.regs a e), ⟨(k.same .mem (by decide)).trans mem, (k.same .sig (by decide)).trans sig,
    (k.same .queue (by decide)).trans queue, (k.same .forces (by decide)).trans forces⟩, f.trans h.table, by rw [boot]; exact h.image,
    by rw [boot]; exact h.boot, dies_trans h.dies (dies_only k (by decide) fun c => r.same _ (cfg c)),
    (k.same .pending (by decide)).trans h.pending⟩

theorem cold_takeFlash {s u : State} (f : FlashIn) (h : Cold s u) : Cold s (u.takeFlash f) :=
  ⟨h.regs, h.empty, h.table, h.image, h.boot, dies_trans h.dies (dies_only (State.takeFlash_only ..) (by decide) fun _ => rfl), h.pending⟩

theorem cold_placeZero {s u : State} (h : Cold s u) : Cold s u.placeZero :=
  h.step (only_mono (State.placeZero_only u) (by decide))
    (kr_setF (by decide +kernel) (kr_setB (by decide +kernel) (kr_setB (by decide +kernel) ((kr_refl u).kept rfl)))) rfl

theorem Cold.inCollector {s u v : State} (h : Cold s u) (k : InCollector u v) : Cold s v :=
  h.step (only_mono k.parts (by decide))
    ⟨fun a e => k.regs.same a (by simp only [coldReg, Bool.and_eq_true, Bool.not_eq_true'] at e; exact e.2)⟩ k.table

/-- Boot has started from a cold start. -/
theorem Cold.boots {s u : State} (h : Cold s u) (st : Straps) : BootStarted st u (u.startBoot st) := startBoot_started u st h.table

theorem Cold.clock {s u : State} (h : Cold s u) (st : Straps) {lo hi : Nat}
    (l : (coldReg lo && !bootReg lo && lo != Reg.SYS_STATE && lo != Reg.BOOT_STATUS && regReset lo == 0#32) = true)
    (g : (coldReg hi && !bootReg hi && hi != Reg.SYS_STATE && hi != Reg.BOOT_STATUS && regReset hi == 0#32) = true) :
    (u.startBoot st).pairReg lo hi = 0 := by
  have zero (a : Nat) (e : (coldReg a && !bootReg a && a != Reg.SYS_STATE && a != Reg.BOOT_STATUS && regReset a == 0#32) = true) :
      (u.startBoot st).reg a = 0#32 := by
    simp only [Bool.and_eq_true, Bool.not_eq_true', bne_iff_ne, beq_iff_eq] at e
    obtain ⟨⟨⟨⟨cold, boot⟩, sys⟩, status⟩, reset⟩ := e
    exact ((h.boots st).reg boot sys status).trans ((h.regs a cold).trans reset)
  unfold State.pairReg
  rw [zero lo l, zero hi g]
  rfl

/-- Every counter starts at 0 (R55). -/
theorem Cold.counters {s u : State} (h : Cold s u) (st : Straps) : (u.startBoot st).tick = 0 ∧ (u.startBoot st).swath = 0 ∧
    (u.startBoot st).stook = 0 ∧ (u.startBoot st).btick = 0 :=
  ⟨h.clock st (by decide +kernel) (by decide +kernel), h.clock st (by decide +kernel) (by decide +kernel),
    h.clock st (by decide +kernel) (by decide +kernel), h.clock st (by decide +kernel) (by decide +kernel)⟩

theorem Cold.started {s u : State} (h : Cold s u) (st : Straps) {p : Part} (n : p ∉ [.regs, .fc, .chans, .halves, .boot]) :
    p.same u (u.startBoot st) := (h.boots st).parts.same p n

/-! ## A lost Cellar -/

/-- The record of a lost Cellar (R321). -/
def cellarLostMsg : Msg := ⟨srcGRN * 2 ^ 18 + kCellarLost * 2 ^ 12 + faultAddr 7 0, true, false, clsRESET, 0, 0⟩

/-- The device that has lost its Cellar, as its boundaries begin anew. -/
def State.coldAgain (s : State) : State :=
  ({ s.coldReset with env := { s.coldReset.env with testSeen := s.env.testSeen } } : State).placeZero

theorem restart_false (s : State) (st : Straps) : s.restart st false =
    ((s.coldAgain.logMsg cellarLostMsg).countSource srcGRN kCellarLost).startBoot st := rfl

theorem cold_coldAgain (s : State) : Cold s s.coldAgain :=
  cold_placeZero ((cold_coldReset s).step (only_env (by decide) (only_refl _ _)) ((kr_refl _).kept rfl) rfl)

theorem coldAgain_crib0 (s : State) : s.coldAgain.crib0 = false :=
  crib0_cold s (kr_setF (by decide) (kr_setB (by decide) (kr_setB (by decide) ((kr_refl _).kept rfl))))

/-- What a lost Cellar makes of a state `s`. -/
structure CellarLost (s t : State) : Prop where
  counters : t.tick = 0 ∧ t.swath = 0 ∧ t.stook = 0
  isBoot : t.isBoot = true
  mem : t.mem = []
  boot : t.boot.image = none ∧ t.boot.rollback = s.boot.rollback
  told : t.fld (F.FC_SRC_CNT_LAST_KIND srcGRN) = kCellarLost
  dies : DiesGoOn s t

theorem restart_lost (s : State) (st : Straps) : CellarLost s (s.restart st false) := by
  rw [restart_false]
  have logged := (cold_coldAgain s).inCollector (logMsg_held _ cellarLostMsg (coldAgain_crib0 s))
  generalize s.coldAgain.logMsg cellarLostMsg = u at logged
  have counted : Cold s (u.countSource srcGRN kCellarLost) :=
    logged.inCollector (ic_of_regs (fr_countSource _ _ _ (by decide)) (State.countSource_only ..))
  have last : (u.countSource srcGRN kCellarLost).fld (F.FC_SRC_CNT_LAST_KIND srcGRN) = kCellarLost :=
    State.fld_setF_same _ (F.FC_SRC_CNT_LAST_KIND srcGRN) kCellarLost (by decide) (by decide)
  generalize u.countSource srcGRN kCellarLost = v at counted last
  have boots := counted.boots st
  obtain ⟨tick, swath, stook, -⟩ := counted.counters st
  refine ⟨⟨tick, swath, stook⟩, boots.isBoot, (counted.started st (p := .mem) (by decide)).trans counted.empty.1,
    ⟨boots.boot.image.trans counted.image, boots.boot.rollback.trans counted.boot.1⟩, ?_, dies_trans counted.dies boots.dies⟩
  refine Eq.trans ?_ last
  unfold State.fld
  rw [boots.reg (by decide) (by decide) (by decide)]

theorem lost_waitsForSafe {s t : State} (h : CellarLost s t) : CellarLost s t.waitsForSafe := by
  have regs := waitsForSafe_regs t
  have same {p : Part} (n : p ∉ [.regs, .fc]) := (waitsForSafe_only t).same p n
  have clock (lo hi : Nat) (l : lo ≠ Reg.FC_STATUS) (g : hi ≠ Reg.FC_STATUS) : t.waitsForSafe.pairReg lo hi = t.pairReg lo hi := by
    unfold State.pairReg
    rw [regs.same lo (by simpa using l), regs.same hi (by simpa using g)]
  have boot : t.waitsForSafe.boot = t.boot := same (p := .boot) (by decide)
  obtain ⟨⟨tick, swath, stook⟩, isBoot, mem, ⟨image, rollback⟩, told, dies⟩ := h
  exact ⟨⟨(clock _ _ (by decide) (by decide)).trans tick, (clock _ _ (by decide) (by decide)).trans swath,
      (clock _ _ (by decide) (by decide)).trans stook⟩, waitsForSafe_isBoot isBoot, (same (p := .mem) (by decide)).trans mem,
    ⟨by rw [boot, image], by rw [boot, rollback]⟩, (regs.fld (F.FC_SRC_CNT_LAST_KIND srcGRN) (by decide)).trans told,
    dies_trans dies (waitsForSafe_dies t)⟩

theorem lost_found {s u t : State} (h : Found s u) (k : CellarLost u t) : CellarLost s t :=
  ⟨k.counters, k.isBoot, k.mem, ⟨k.boot.1, k.boot.2.trans (by rw [h.boot])⟩, k.told, dies_trans h.dies k.dies⟩

theorem reset_loses {s : State} {st : Straps} {cmd : Bool → Instr} (h : Resets s st cmd) :
    ∃ t, exec (cmd false) s = .next t ∧ CellarLost s t := by
  rcases h with ⟨st', rfl, vin, -⟩ | ⟨rfl, resetting, due, -⟩ | ⟨rfl, low, reg, -⟩
  · exact ⟨_, exec_rstN s st' false vin, lost_found (found_atReset s).relock (restart_lost ..)⟩
  · exact ⟨_, exec_resetReaction s false resetting due, lost_found (found_atReset s) (lost_waitsForSafe (restart_lost ..))⟩
  · exact ⟨_, exec_coreBor s false low reg, lost_found (found_atReset s).brownOut.relock (lost_waitsForSafe (restart_lost ..))⟩

/-! ## Power-on and loss of VIN -/

theorem placeZero_lock (s : State) : s.placeZero.flag F.TB_CLK_STATUS_PLL_LOCK = true := by
  unfold State.placeZero State.flag
  rw [State.fld_setF_ne _ F.TB_PHASE_LENGTH F.TB_CLK_STATUS_PLL_LOCK _ (by decide) (by decide) (by decide) (by decide)]
  rw [show ∀ u : State, u.setB F.TB_CLK_STATUS_ROOT_OK true = u.setF F.TB_CLK_STATUS_ROOT_OK 1 from fun _ => rfl]
  rw [State.fld_setF_ne _ F.TB_CLK_STATUS_ROOT_OK F.TB_CLK_STATUS_PLL_LOCK _ (by decide) (by decide) (by decide) (by decide)]
  exact State.flag_setB_same _ F.TB_CLK_STATUS_PLL_LOCK true rfl (by decide)

theorem placeZero_length (s : State) (h : s.lNom = 24000) : s.placeZero.fld F.TB_PHASE_LENGTH = 24000 := by
  refine (State.fld_setF_same _ F.TB_PHASE_LENGTH s.lNom (by decide) (by decide)).trans ?_
  rw [h]
  decide

/-- The default length of a swath (R60) goes with a cold start. -/
theorem Cold.lNom {s u : State} (h : Cold s u) : u.lNom = 24000 := by
  unfold State.lNom State.fld
  rw [h.regs _ (by decide +kernel)]
  decide +kernel

/-- The state in which power-on starts the boot. -/
def State.powered (s : State) (flash : Option FlashIn) : State :=
  (match flash with | some f => s.coldReset.takeFlash f | none => s.coldReset).placeZero

theorem exec_powerOn (s : State) (st : Straps) (flash : Option FlashIn) :
    exec (.powerOn st flash) s = .next ((s.powered flash).startBoot st) := by
  cases flash <;> rfl

/-- Power-on is a cold start, with the PLL locked and a swath of the default length (R55, R60). -/
theorem powered_cold (s : State) (flash : Option FlashIn) : Cold s (s.powered flash) ∧
    (s.powered flash).flag F.TB_CLK_STATUS_PLL_LOCK = true ∧ (s.powered flash).fld F.TB_PHASE_LENGTH = 24000 ∧
    (s.powered flash).env.vin = true := by
  have vin : s.coldReset.env.vin = true := by rw [(coldReset_base s).same .env (by decide)]; rfl
  have placed {u : State} (h : Cold s u) (v : u.env.vin = true) : Cold s u.placeZero ∧
      u.placeZero.flag F.TB_CLK_STATUS_PLL_LOCK = true ∧ u.placeZero.fld F.TB_PHASE_LENGTH = 24000 ∧ u.placeZero.env.vin = true :=
    ⟨cold_placeZero h, placeZero_lock u, placeZero_length u h.lNom, v⟩
  cases flash with
  | none => exact placed (cold_coldReset s) vin
  | some f => exact placed (cold_takeFlash f (cold_coldReset s)) vin

/-- The state that loss of VIN leaves to the field dies. -/
def State.vinFalls (s : State) : State :=
  (s.whenB s.heldUp fun s => s.writeDue.programBacklog).updSr fun x => { x with heldUp := s.heldUp }

theorem exec_vinLoss (s : State) :
    exec .vinLoss s = .next { s.vinFalls.coldReset with env := { s.vinFalls.coldReset.env with vin := false } } := rfl

theorem vinFalls_steady (s : State) : Steady {} s s.vinFalls :=
  st_only (State.updSr_only ..) (by decide) (st_whenB (fun u => st_step (State.programBacklog_st _) (State.writeDue_st u)) (st_refl s))

theorem vinFalls_only (s : State) : OnlyChanges [.regs, .env, .fc, .pipe, .halves, .pairs, .recfg, .sr, .yk] s s.vinFalls := by
  refine only_step (State.updSr_only ..) (by decide) ?_
  unfold State.whenB
  exact only_ite (only_trans (State.writeDue_only s) (State.programBacklog_only _)) (only_refl _ s)

/-- Settles O23. Every reset is a walk of three parts: what its tick and a Dormant before it bring, the restart (which filters the
registers by domain and keeps the dies), and the start of boot, which writes a known list of registers. -/
theorem powerOnAndResetsLeaveTheirState : Obligations.PowerOnAndResetsLeaveTheirState := by
  unfold Obligations.PowerOnAndResetsLeaveTheirState
  refine ⟨fun st flash s => ⟨?powerOn, ?vinLoss⟩, fun s st cmd h => ⟨?spares, ?loses⟩⟩
  case powerOn =>
    obtain ⟨cold, lock, length, vin⟩ := powered_cold s flash
    generalize hu : s.powered flash = u at cold lock length vin
    have boots := cold.boots st
    have same {p : Part} (n : p ∉ [.regs, .fc, .chans, .halves, .boot]) := cold.started st n
    have shown (f : Fld) (e : (bootReg f.reg || f.reg == Reg.SYS_STATE || f.reg == Reg.BOOT_STATUS) = false) :
        (u.startBoot st).fld f = u.fld f := by
      simp only [Bool.or_eq_false_iff, beq_eq_false_iff_ne] at e
      unfold State.fld
      rw [boots.reg e.1.1 e.1.2 e.2]
    obtain ⟨tick, swath, stook, btick⟩ := cold.counters st
    obtain ⟨mem, sig, queue, forces⟩ := cold.empty
    obtain ⟨rollback, svcKey, keyHash⟩ := cold.boot
    have lNom : (u.startBoot st).lNom = 24000 := (shown F.TB_CONFIG_L_NOM (by decide)).trans cold.lNom
    have pll : (u.startBoot st).flag F.TB_CLK_STATUS_PLL_LOCK = true := by
      unfold State.flag at lock ⊢
      rw [shown F.TB_CLK_STATUS_PLL_LOCK (by decide)]
      exact lock
    refine ⟨_, hu ▸ exec_powerOn s st flash, tick, swath, stook, btick, boots.isBoot, ?_, boots.mode, pll,
      ((shown F.TB_PHASE_LENGTH (by decide)).trans length).trans lNom.symm, (same (p := .mem) (by decide)).trans mem,
      (same (p := .sig) (by decide)).trans sig, (same (p := .queue) (by decide)).trans queue,
      (same (p := .forces) (by decide)).trans forces, boots.boot.image.trans cold.image, boots.boot.rollback.trans rollback,
      boots.boot.svcKey.trans svcKey, fun c => boots.boot.keyHash.trans (keyHash c), boots.links,
      (same (p := .pending) (by decide)).trans cold.pending⟩
    rw [show (u.startBoot st).env = u.env from same (p := .env) (by decide)]
    exact vin
  case vinLoss =>
    have only := vinFalls_only s
    have dies := dies_trans ((vinFalls_steady s).dies (drives_only only (by decide))) (coldReset_dies s.vinFalls)
    have boot : s.vinFalls.boot = s.boot := only.same .boot (by decide)
    obtain ⟨-, ⟨mem, sig, -⟩, -, image, ⟨rollback, -⟩, -, pending⟩ := cold_coldReset s.vinFalls
    exact ⟨_, exec_vinLoss s, rfl, mem, sig, image, rollback.trans (by rw [boot]), dies.chan,
      fun h => (dies.half h).2, dies.func, pending.trans (only.same .pending (by decide))⟩
  case spares =>
    obtain ⟨t, u, st', run, mode, found, spared, told, faultN⟩ := reset_spares h
    obtain ⟨tick, swath, stook, btick, cellar, isBoot, mode', idle, mem, quiet, sig, queue, forces, image, rollback, drive, half, func, links,
      pending⟩ := spared_found found spared
    exact ⟨t, run, tick, swath, stook, btick, cellar, isBoot, mode ▸ mode', idle, mem, quiet, sig, queue, forces, image, rollback, drive, half,
      func, links, pending, fun e _ => told e, faultN⟩
  case loses =>
    obtain ⟨t, run, ⟨tick, swath, stook⟩, isBoot, mem, ⟨image, rollback⟩, told, dies⟩ := reset_loses h
    exact ⟨t, run, tick, swath, stook, isBoot, mem, image, rollback, told, dies.chan⟩

end Sys2Proof.Machine
end

section
namespace Sys2Proof.Machine

section
variable {k : Claim} {device rest window : Bool} {pairs : PairIx → Bool} {s t u : State}

/-! ## Rules -/

theorem st_orF {f : Fld} {n : Nat} (q : quiet f.reg = true) (h : Steady k s t) : Steady k s (t.orF f n) := st_gather q h

theorem st_maxF {f : Fld} {n : Nat} (q : quiet f.reg = true) (h : Steady k s t) : Steady k s (t.maxF f n) := st_gather q h

theorem State.causeNext_st (s : State) (c : Nat) : Steady k s (s.causeNext c) := by
  refine ⟨fun _ => ds_same rfl rfl rfl fun _ => rfl, fun _ _ => pairStands_refl _, rfl, Nat.or_self _, ?_, id, fun _ => rfl⟩
  exact Nat.or_assoc .. |>.trans (by rw [Nat.or_comm c, ← Nat.or_assoc, Nat.or_self]; rfl)

theorem st_loose {ps : List Part} (o : OnlyChanges ps t u)
    (n : (ps.contains .regs || ps.contains .boot || ps.contains .yk || ps.contains .pairs || ps.contains .pipe) = false)
    (h : Steady (.loose device rest window pairs) s t) : Steady (.loose device rest window pairs) s u := by
  simp only [Bool.or_eq_false_iff] at n
  obtain ⟨⟨⟨⟨rg, bt⟩, y⟩, p⟩, q⟩ := n
  exact st_step (st_of (fun _ => ds_same (o.same .regs (by simpa using rg)) (o.same .boot (by simpa using bt)) (o.same .yk (by simpa using y)) nofun)
    (o.same .pairs (by simpa using p)) (o.same .pipe (by simpa using q))) h

/-- Where nothing is said of the device. -/
theorem st_aside {ps : List Part} (o : OnlyChanges ps t u) (n : (ps.contains .pairs || ps.contains .pipe) = false)
    (h : Steady (.free rest window pairs) s t) : Steady (.free rest window pairs) s u := by
  simp only [Bool.or_eq_false_iff] at n
  exact st_step (st_of nofun (o.same .pairs (by simpa using n.1)) (o.same .pipe (by simpa using n.2))) h

/-- The field of boot that a join reads stays, and so does what the boundary of R63 brings. -/
theorem st_boot {v : Boot} (e : (v.image.map Image.yoke, v.tbNext) = (t.boot.image.map Image.yoke, t.boot.tbNext)) (h : Steady k s t) :
    Steady k s { t with boot := v } := by
  obtain ⟨image, tbNext⟩ := Prod.mk.inj e
  refine st_step (t := t) (st_of (fun _ => ⟨fun _ _ => rfl, .inl rfl, id, ?_, tbNext, id, id, fun _ => hk_eq rfl⟩) rfl rfl) h
  have yoke (x : Option Image) : (match x with | some i => i.yoke | none => 0) = (x.map Image.yoke).getD 0 := by cases x <;> rfl
  exact (yoke _).trans ((congrArg (·.getD 0) image).trans (yoke _).symm)

/-- What the Yoke waits for is dropped. -/
theorem st_clearYk {f : Yk → Yk} (e : ∀ y, ((f y).alignEnd, (f y).apply) = (none, [])) (h : Steady k s t) : Steady k s (t.updYk f) := by
  obtain ⟨align, apply⟩ := Prod.mk.inj (e t.yk)
  have step : Steady k t (t.updYk f) :=
    st_of (fun _ => ⟨fun _ _ => rfl, .inl rfl, id, rfl, rfl, fun _ => align, fun _ => apply, fun _ => hk_eq rfl⟩) rfl rfl
  exact st_step step h

/-- A state of the Yoke in which it is not joined. -/
theorem st_ykState {n : Nat} (e : n % 16 ≠ 4) (h : Steady k s t) : Steady k s (t.setF F.YK_STATUS_STATE n) := by
  have other (a : Nat) (ne : a ≠ Reg.YK_STATUS) : (t.setF F.YK_STATUS_STATE n).reg a = t.reg a := t.reg_setReg_ne Reg.YK_STATUS a _ ne
  refine st_step (st_of (fun _ => ⟨fun a l => other a ?_, .inl ?_, fun _ => ?_, rfl, rfl, id, id, fun _ => hk_eq rfl⟩) rfl rfl) h
  · rintro rfl
    exact absurd (clockReg_true l) (by decide)
  · unfold State.fld
    rw [other _ (by decide)]
  · unfold State.joined
    rw [t.fld_setF_same F.YK_STATUS_STATE n (by decide) (by decide)]
    exact beq_false_of_ne e

/-- Where a pair need not rest, its engine changes alone. -/
theorem st_engine {p : PairIx} {f : Pair → Pair} (n : k.rest = false)
    (e : ∀ x, ((f x).dmem, (f x).timers, (f x).commit) = (x.dmem, x.timers, x.commit)) (h : Steady k s t) : Steady k s (t.updPair p f) := by
  refine st_pairs (fun _ x => ?_) h
  have same := e x
  simp only [Prod.mk.injEq] at same
  exact ⟨fun _ => same, fun r => absurd r (by simp [n])⟩

/-! ## The functions of a boundary -/

/-- The tick counter counts where a claim is not strict. -/
theorem State.setTick_st (s : State) (t : Nat) : Steady (.loose device rest window pairs) s (s.setTick t) := by
  have apart : ∀ a, clockReg false a = true → a ≠ Reg.TB_TICK_LO ∧ a ≠ Reg.TB_TICK_HI := by
    intro a e
    constructor <;> (rintro rfl; revert e; decide)
  have other (a : Nat) (lo : a ≠ Reg.TB_TICK_LO) (hi : a ≠ Reg.TB_TICK_HI) : (s.setTick t).reg a = s.reg a :=
    (State.reg_setReg_ne _ _ a _ hi).trans (s.reg_setReg_ne _ a _ lo)
  have same (f : Fld) (e : (f.reg == Reg.TB_TICK_LO || f.reg == Reg.TB_TICK_HI) = false) : (s.setTick t).fld f = s.fld f := by
    simp only [Bool.or_eq_false_iff, beq_eq_false_iff_ne] at e
    unfold State.fld
    rw [other _ e.1 e.2]
  refine st_of (fun _ => ⟨fun a e => other a (apart a e).1 (apart a e).2, .inl (same _ (by decide)), fun e => ?_, rfl, rfl, id, id, nofun⟩) rfl rfl
  rw [← e]
  unfold State.joined
  rw [same _ (by decide)]

theorem State.advance_st (s : State) (t : Nat) : Steady (.loose device rest window pairs) s (s.advance t) := by
  unfold State.advance
  repeat' first
    | with_reducible exact st_refl _ | with_reducible apply st_pcAdd | with_reducible apply st_step (State.setTick_st ..)
    | with_reducible apply st_ite | dsimp only | (clear * -; decide +revert)

theorem State.elapse_st (s : State) (t : Nat) : Steady (.loose device rest window pairs) s (s.elapse t) := by
  unfold State.elapse
  repeat' first
    | with_reducible exact st_refl _ | with_reducible apply st_step (State.advance_st ..)

theorem State.noteBands_st (s : State) (p : PairIx) (pr : Prog) : Steady k s (s.noteBands p pr) := by
  unfold State.noteBands
  repeat' first
    | with_reducible exact st_refl _ | with_reducible apply st_updPair | with_reducible apply st_ite
    | with_reducible apply st_foldl | exact fun _ => rfl

theorem State.noteAllBands_st (s : State) : Steady k s s.noteAllBands := by
  unfold State.noteAllBands
  repeat' first
    | with_reducible exact st_refl _ | with_reducible apply st_step (State.noteBands_st ..) | with_reducible apply st_ite
    | with_reducible apply st_foldl | refine fun _ => ?_ | refine fun _ _ => ?_ | dsimp only | split

theorem State.loseWin_st (s : State) (h : HalfIx) (old : Bool) :
    Steady (.loose device rest window pairs) s (s.loseWin h old) := by
  unfold State.loseWin
  repeat' first
    | with_reducible exact st_refl _ | with_reducible apply st_loose (State.updHalf_only ..) (by decide)
    | with_reducible apply st_addF | with_reducible apply st_loose (State.loseCh_only ..) (by decide)
    | with_reducible apply st_ite | with_reducible apply st_foldl | refine fun _ => ?_ | refine fun _ _ => ?_ | dsimp only
    | split | (clear * -; decide +revert)

theorem State.loseDue_st (s : State) (h : HalfIx) (old : Bool) :
    Steady (.loose device rest window pairs) s (s.loseDue h old) := by
  unfold State.loseDue
  repeat' first
    | with_reducible exact st_refl _ | with_reducible apply st_step (State.loseWin_st ..) | with_reducible apply st_ite | split

theorem st_thrFlag {c : ChIx} {f : Fld} (q : quiet f.reg = true) (h : Steady k s t) : Steady k s (t.thrFlag c f) :=
  st_only (State.updChan_only ..) (by decide) (st_setB q h)

theorem State.publishPrec_st (s : State) (c : ChIx) (code : Int) (qual : Nat) : Steady k s (s.publishPrec c code qual) := by
  unfold State.publishPrec
  repeat' first
    | with_reducible exact st_refl _ | with_reducible apply st_only (State.updChan_only ..) (by decide)
    | with_reducible apply st_setReg | with_reducible apply st_setF | dsimp only | (clear * -; decide +revert)

theorem State.resultPrec_st (s : State) (c : ChIx) (w : PrecWin) (word : Word) : Steady k s (s.resultPrec c w word) := by
  unfold State.resultPrec
  repeat' first
    | with_reducible exact st_refl _ | with_reducible apply st_step (State.publishPrec_st ..) | with_reducible apply st_thrFlag
    | with_reducible apply st_whenB | refine fun _ => ?_ | dsimp only | split | (clear * -; decide +revert)

theorem State.endPeriod_st (s : State) (c : ChIx) (whole next : Bool) : Steady k s (s.endPeriod c whole next) := by
  unfold State.endPeriod
  repeat' first
    | with_reducible exact st_refl _ | with_reducible apply st_setB
    | with_reducible apply st_only (State.updChan_only ..) (by decide) | with_reducible apply st_setReg
    | with_reducible apply st_setF | dsimp only | (clear * -; decide +revert)

theorem State.precThresh_st (s : State) (c : ChIx) : Steady k s (s.precThresh c).1 := by
  unfold State.precThresh
  repeat' first
    | with_reducible exact st_refl _ | with_reducible apply st_only (State.updChan_only ..) (by decide)
    | with_reducible apply st_setF | with_reducible apply st_step (State.endPeriod_st ..)
    | with_reducible apply st_step (State.resultPrec_st ..) | with_reducible apply st_addF | with_reducible apply st_ite
    | dsimp only | split | (clear * -; decide +revert)

theorem State.publish_st (s : State) (c : CribIx) (tag : Nat) : Steady k s (s.publish c tag) := by
  unfold State.publish
  repeat' first
    | with_reducible exact st_refl _ | with_reducible apply st_setReg | with_reducible apply st_step (State.syncCrib_st ..)
    | with_reducible apply st_only (State.updCrib_only ..) (by decide)
    | with_reducible apply st_only (State.layEntries_only ..) (by decide) | with_reducible apply st_ite | dsimp only
    | (clear * -; decide +revert)

theorem State.countDrop_st (s : State) (c : CribIx) : Steady k s (s.countDrop c) := by
  unfold State.countDrop
  repeat' first
    | with_reducible exact st_refl _ | with_reducible apply st_step (State.raiseOnce_st ..)
    | with_reducible apply st_step (State.causeNow_st ..) | with_reducible apply st_addF | dsimp only
    | (clear * -; decide +revert)

theorem State.countOver_st (s : State) (c : CribIx) : Steady k s (s.countOver c) := by
  unfold State.countOver
  repeat' first
    | with_reducible exact st_refl _ | with_reducible apply st_step (State.raise_st ..) | with_reducible apply st_addF
    | (clear * -; decide +revert)

theorem State.putEntry_st (s : State) (c : CribIx) (tag : Nat) (ws : List Word) : Steady k s (s.putEntry c tag ws) := by
  unfold State.putEntry
  repeat' first
    | with_reducible exact st_refl _ | with_reducible apply st_step (State.countOver_st ..)
    | with_reducible apply st_step (State.countDrop_st ..) | with_reducible apply st_placeEntry | refine fun _ => ?_

theorem State.produce_st (s : State) (c : CribIx) (ws : List Word) : Steady k s (s.produce c ws) := by
  unfold State.produce
  repeat' first
    | with_reducible exact st_refl _ | with_reducible apply st_step (State.putEntry_st ..)
    | with_reducible apply st_step (State.publish_st ..)

theorem State.sumPeriod_st (s : State) (c : ChIx) (period : Bool) : Steady k s (s.sumPeriod c period) := by
  unfold State.sumPeriod
  repeat' first
    | with_reducible exact st_refl _ | with_reducible apply st_step (State.produce_st ..) | with_reducible apply st_ite

theorem State.summarise_st (s : State) (c : ChIx) (period : Bool) : Steady k s (s.summarise c period) := by
  unfold State.summarise
  repeat' first
    | with_reducible exact st_refl _ | with_reducible apply st_step (State.sumPeriod_st ..)
    | with_reducible apply st_step (State.produce_st ..) | with_reducible apply st_ite

theorem State.writeChannel_st (s : State) (c : ChIx) : Steady k s (s.writeChannel c) := by
  unfold State.writeChannel
  repeat' first
    | with_reducible exact st_refl _ | with_reducible apply st_setReg | with_reducible apply st_setF
    | with_reducible apply st_only (State.updEntry_only ..) (by decide) | with_reducible apply st_ite | dsimp only
    | (clear * -; decide +revert)

theorem State.fastSnapshot_st (s : State) (c : ChIx) : Steady k s (s.fastSnapshot c) := by
  unfold State.fastSnapshot
  repeat' first
    | with_reducible exact st_refl _ | with_reducible apply st_setReg | with_reducible apply st_setF
    | with_reducible apply st_ite | dsimp only | (clear * -; decide +revert)

theorem State.threshCh_st (s : State) (c : ChIx) : Steady k s (s.threshCh c) := by
  unfold State.threshCh
  repeat' first
    | with_reducible exact st_refl _ | with_reducible apply st_only (State.updChan_only ..) (by decide)
    | with_reducible apply st_step (State.fastSnapshot_st ..) | with_reducible apply st_step (State.precThresh_st ..)
    | with_reducible apply st_step (State.sumPeriod_st ..) | with_reducible apply st_step (State.summarise_st ..)
    | with_reducible apply st_step (State.writeChannel_st ..) | with_reducible apply st_ite

theorem State.internalResult_st (s : State) (h : HalfIx) : Steady (.loose device rest window pairs) s (s.internalResult h) := by
  unfold State.internalResult
  repeat' first
    | with_reducible exact st_refl _ | with_reducible apply st_loose (State.updHalf_only ..) (by decide)
    | with_reducible apply st_loose (State.updEntry_only ..) (by decide) | with_reducible apply st_step (State.raise_st ..)
    | with_reducible apply st_addF | with_reducible apply st_ite | dsimp only | split | with_reducible apply st_sr
    | (clear * -; decide +revert)

theorem State.applyForces_st (s : State) : Steady k s s.applyForces := by
  unfold State.applyForces
  repeat' first
    | with_reducible exact st_refl _ | with_reducible apply st_only (State.updEntry_only ..) (by decide)
    | with_reducible apply st_foldl | refine fun _ => ?_ | refine fun _ _ => ?_ | dsimp only | with_reducible apply st_pipe

/-- The channels at the end of Thresh. -/
def State.threshMeasured (s : State) : State :=
  let s := allHalves.foldl (fun (s : State) h => (s.loseDue h true).loseDue h false) s
  if s.isBoot then s
  else
    let s := allCh.foldl (fun (s : State) c => s.threshCh c) s
    let s := allHalves.foldl (fun (s : State) h => s.internalResult h) s
    s.applyForces

/-- The write window closes, and no loop of R63 is new. -/
def State.threshCloses (s : State) : State :=
  { s with
    pipe := { s.pipe with window := false, threshEnd := s.threshTicks, oldWin := [] }
    tb := { s.tb with r63 := false } }

theorem threshWork_eq (s : State) : s.threshWork =
    allHalves.foldl (fun (s : State) h => s.updHalf h fun x => { x with pGot := none }) s.threshMeasured.threshCloses := rfl

theorem State.threshMeasured_st (s : State) : Steady (.loose device rest window pairs) s s.threshMeasured := by
  have lost : Steady (.loose device rest window pairs) s (allHalves.foldl (fun (s : State) h => (s.loseDue h true).loseDue h false) s) :=
    st_foldl (fun _ _ => st_step (State.loseDue_st ..) (State.loseDue_st ..)) (st_refl s)
  refine st_ite lost (st_step (State.applyForces_st _) ?_)
  exact st_foldl (fun _ _ => State.internalResult_st ..) (st_foldl (fun _ _ => State.threshCh_st ..) lost)

theorem State.threshCloses_st (s : State) : Steady (.loose device rest false pairs) s s.threshCloses :=
  ⟨fun _ => ds_same rfl rfl rfl nofun, fun _ _ => pairStands_refl _, rfl, Nat.or_self _, Nat.or_self _, id, nofun⟩

/-- Thresh ends. -/
theorem State.threshWork_st (s : State) : Steady (.loose device rest false pairs) s s.threshWork := by
  rw [threshWork_eq]
  exact st_foldl (fun _ _ => st_loose (State.updHalf_only ..) (by decide) (st_refl _)) (st_step (State.threshCloses_st _) s.threshMeasured_st)

theorem State.fullTx_st (s : State) (op : BitVec 8) (h : HostHdr) (id : Word) (code words : Nat) (off : Bool) (wait : Nat) (body : List Word) :
    Steady k s (s.fullTx op h id code words off wait body) := by
  unfold State.fullTx
  repeat' first
    | with_reducible exact st_refl _ | with_reducible apply st_step (State.sealSent_st ..)
    | with_reducible apply st_step (State.endTx_st ..) | with_reducible apply st_only (State.respond_only ..) (by decide)

theorem State.pushWords_st (s : State) (c : CribIx) (ws : List Word) : Steady k s (s.pushWords c ws) := by
  unfold State.pushWords
  repeat' first
    | with_reducible exact st_refl _ | with_reducible apply st_step (State.putEntry_st ..)
    | with_reducible apply st_step (State.publish_st ..) | with_reducible apply st_foldl | refine fun _ => ?_

theorem State.endPush_st (s : State) (h : HostHdr) (id : Word) (c : CribIx) (ws : List Word) (wait : Nat) :
    Steady k s (s.endPush h id c ws wait) := by
  unfold State.endPush
  repeat' first
    | with_reducible exact st_refl _ | with_reducible apply st_step (State.fullTx_st ..)
    | with_reducible apply st_step (State.pushWords_st ..)

theorem State.setSlot_st (s : State) (slot : Nat) (ws : List Word) : Steady k s (s.setSlot slot ws) := by
  unfold State.setSlot
  repeat' first
    | with_reducible exact st_refl _ | with_reducible apply st_ite | dsimp only | with_reducible apply st_boot

theorem State.nvmTake_st (s : State) (h : HostHdr) (id : Word) (ws : List Word) (wait : Nat) :
    Steady k s (s.nvmTake h id ws wait) := by
  unfold State.nvmTake
  repeat' first
    | with_reducible exact st_refl _ | with_reducible apply st_setF | with_reducible apply st_step (State.setSlot_st ..)
    | with_reducible apply st_step (State.fullTx_st ..) | with_reducible apply st_ite | dsimp only | with_reducible apply st_boot
    | exact rfl

theorem State.retryWrite_st (s : State) (w : HeldWrite) : Steady k s (s.retryWrite w) := by
  unfold State.retryWrite
  repeat' first
    | with_reducible exact st_refl _ | with_reducible apply st_step (State.endPush_st ..)
    | with_reducible apply st_step (State.endTx_st ..) | with_reducible apply st_step (State.nvmTake_st ..)
    | with_reducible apply st_only (State.respond_only ..) (by decide) | with_reducible apply st_step (State.fullTx_st ..)
    | with_reducible apply st_ite | dsimp only | split | with_reducible apply st_hp

theorem State.retryWrites_st (s : State) : Steady k s s.retryWrites := by
  unfold State.retryWrites
  repeat' first
    | with_reducible exact st_refl _ | with_reducible apply st_step (State.retryWrite_st ..)
    | with_reducible apply st_step (State.syncStalled_st ..) | with_reducible apply st_foldl | refine fun _ => ?_
    | refine fun _ _ => ?_ | dsimp only | with_reducible apply st_hp

theorem State.stagingLost_st (s : State) : Steady k s s.stagingLost := by
  unfold State.stagingLost
  repeat' first
    | with_reducible exact st_refl _ | with_reducible apply st_only (State.updSr_only ..) (by decide)
    | with_reducible apply st_step (State.dropTrees_st ..) | with_reducible apply st_only (State.drawBit_only ..) (by decide)
    | with_reducible apply st_step (State.journalFail_st ..)

theorem State.eccDamage_st (s : State) (a : Nat) : Steady k s (s.eccDamage a) := by
  unfold State.eccDamage
  repeat' first
    | with_reducible exact st_refl _ | with_reducible apply st_only (State.writeWords_only ..) (by decide)
    | with_reducible apply st_step (State.stagingLost_st ..) | with_reducible apply st_only (State.dropData_only ..) (by decide)
    | with_reducible apply st_only (State.updCrib_only ..) (by decide) | with_reducible apply st_ite | dsimp only | split

theorem State.eccUncorr_st (s : State) (a : Nat) : Steady k s (s.eccUncorr a) := by
  unfold State.eccUncorr
  repeat' first
    | with_reducible exact st_refl _ | with_reducible apply st_setF | with_reducible apply st_step (State.raise_st ..)
    | with_reducible apply st_addF | with_reducible apply st_ite | dsimp only | (clear * -; decide +revert)

theorem State.eccCorrected_st (s : State) (a : Nat) : Steady k s (s.eccCorrected a) := by
  unfold State.eccCorrected
  repeat' first
    | with_reducible exact st_refl _ | with_reducible apply st_step (State.raiseOnce_st ..) | with_reducible apply st_addF
    | (clear * -; decide +revert)

theorem State.eccAt_st (s : State) (a : Nat) (uncorr : Bool) : Steady k s (s.eccAt a uncorr) := by
  unfold State.eccAt
  repeat' first
    | with_reducible exact st_refl _ | with_reducible apply st_step (State.eccDamage_st ..)
    | with_reducible apply st_step (State.eccUncorr_st ..) | with_reducible apply st_step (State.eccCorrected_st ..)
    | with_reducible apply st_ite

theorem State.rcMark_st (s : State) (xs : List Nat) : Steady k s (s.rcMark xs) := by
  refine st_regs (fun a loud => ?_) rfl rfl rfl rfl rfl
  have low : a < newsBase := by
    by_contra high
    simp [quiet_high (Nat.not_lt.mp high)] at loud
  have kept := Sparse.get_filter_key regReset (fun b => !xs.any fun x => canonAddr x + newsBase == b) s.regs a
  have stays : (!xs.any fun x => canonAddr x + newsBase == a) = true := by
    simp only [Bool.not_eq_true', List.any_eq_false, beq_iff_eq]
    omega
  rw [stays] at kept
  exact kept

theorem State.send_st (s : State) (x : Sending) : Steady k s (s.send x) := by
  unfold State.send
  repeat' first
    | with_reducible exact st_refl _ | with_reducible apply st_step (State.sendEnd_st ..)
    | with_reducible apply st_step (State.sendSeal_st ..) | with_reducible apply st_ite | dsimp only | split
    | with_reducible apply st_hp

theorem State.runRead_st (s : State) (id : Word) (r : HeldRead) :
    Steady (.loose device rest window pairs) s (s.runRead id r) := by
  unfold State.runRead
  repeat' first
    | with_reducible exact st_refl _ | with_reducible apply st_step (State.elapse_st ..)
    | with_reducible apply st_step (State.eccAt_st ..) | with_reducible apply st_step (State.catchUp_st ..)
    | with_reducible apply st_step (State.rcMark_st ..) | with_reducible apply st_step (State.send_st ..)
    | with_reducible apply st_ite | with_reducible apply st_foldl | refine fun _ => ?_

theorem State.runReads_st (s : State) : Steady (.loose device rest window pairs) s s.runReads := by
  unfold State.runReads
  repeat' first
    | with_reducible exact st_refl _ | with_reducible apply st_step (State.runRead_st ..) | with_reducible apply st_ite
    | with_reducible apply st_foldl | refine fun _ => ?_ | refine fun _ _ => ?_ | dsimp only | with_reducible apply st_hp

theorem State.depositDue_st (s : State) : Steady k s s.depositDue := by
  unfold State.depositDue
  repeat' first
    | with_reducible exact st_refl _ | with_reducible apply st_only (State.updEntry_only ..) (by decide)
    | with_reducible apply st_step (State.hpFault_st ..) | with_reducible apply st_addF | with_reducible apply st_ite
    | with_reducible apply st_foldl | refine fun _ => ?_ | refine fun _ _ => ?_ | dsimp only | with_reducible apply st_queue
    | (clear * -; decide +revert)

theorem State.blockSent_st (s : State) : Steady k s s.blockSent := by
  unfold State.blockSent
  repeat' first
    | with_reducible exact st_refl _ | with_reducible apply st_updYk | exact fun _ => rfl | exact rfl

theorem State.pcIdle_st (s : State) (p : PairIx) (len : Nat) : Steady k s (s.pcIdle p len) := by
  unfold State.pcIdle
  repeat' first
    | with_reducible exact st_refl _ | with_reducible apply st_pcTake | with_reducible apply st_updPair
    | with_reducible apply st_ite | exact fun _ => rfl | dsimp only | (clear * -; decide +revert)

theorem State.stage_st (s : State) (h : HalfIx) (g : SeqStage) : Steady (.loose device rest window pairs) s (s.stage h g) := by
  unfold State.stage
  repeat' first
    | with_reducible exact st_refl _ | with_reducible apply st_setF
    | with_reducible apply st_loose (State.updSeq_only ..) (by decide) | dsimp only | (clear * -; decide +revert)

theorem State.setSpare_st (s : State) (h : HalfIx) (mode target code : Nat) : Steady k s (s.setSpare h mode target code) := by
  unfold State.setSpare
  repeat' first
    | with_reducible exact st_refl _ | with_reducible apply st_setF | dsimp only | (clear * -; decide +revert)

theorem State.cutEntry_st (s : State) (h : HalfIx) (c : ChIx) : Steady (.loose device rest window pairs) s (s.cutEntry h c) := by
  unfold State.cutEntry
  repeat' first
    | with_reducible exact st_refl _ | with_reducible apply st_setB
    | with_reducible apply st_loose (State.updChan_only ..) (by decide) | with_reducible apply st_step (State.setSpare_st ..)
    | with_reducible apply st_setF | with_reducible apply st_step (State.stage_st ..)
    | with_reducible apply st_loose (State.notePart_only ..) (by decide)
    | with_reducible apply st_loose (State.updSeq_only ..) (by decide) | with_reducible apply st_ite
    | with_reducible apply st_foldl | refine fun _ => ?_ | refine fun _ _ => ?_ | dsimp only | (clear * -; decide +revert)

theorem State.restartSeq_st (s : State) (h : HalfIx) (c : ChIx) :
    Steady (.loose device rest window pairs) s (s.restartSeq h c) := by
  unfold State.restartSeq
  repeat' first
    | with_reducible exact st_refl _ | with_reducible apply st_setB | with_reducible apply st_setF
    | with_reducible apply st_step (State.cutEntry_st ..) | with_reducible apply st_loose (State.updSeq_only ..) (by decide)
    | with_reducible apply st_ite | refine fun _ => ?_ | dsimp only | (clear * -; decide +revert)

theorem State.syncPwr_st (s : State) : Steady k s s.syncPwr := by
  unfold State.syncPwr
  repeat' first
    | with_reducible exact st_refl _ | with_reducible apply st_setB | with_reducible apply st_setF | dsimp only | split
    | (clear * -; decide +revert)

theorem State.refusePower_st (s : State) (st code : Nat) : Steady k s (s.refusePower st code) := by
  unfold State.refusePower
  repeat' first
    | with_reducible exact st_refl _ | with_reducible apply st_setF | with_reducible apply st_step (State.raise_st ..)
    | with_reducible apply st_only (State.updPwr_only ..) (by decide) | with_reducible apply st_addF
    | with_reducible apply st_step (State.syncPwr_st ..) | dsimp only | (clear * -; decide +revert)

theorem State.abandonDormant_st (s : State) : Steady (.loose device rest window pairs) s s.abandonDormant := by
  unfold State.abandonDormant
  repeat' first
    | with_reducible exact st_refl _ | with_reducible apply st_loose (State.gleanerStart_only ..) (by decide)
    | with_reducible apply st_step (State.restartSeq_st ..) | with_reducible apply st_step (State.refusePower_st ..)
    | with_reducible apply st_loose (State.updPwr_only ..) (by decide) | with_reducible apply st_foldl
    | with_reducible apply st_whenB | refine fun _ => ?_

theorem State.dieBoundary_st (s : State) : Steady (.loose device rest window pairs) s s.dieBoundary := by
  unfold State.dieBoundary
  repeat' first
    | with_reducible exact st_refl _ | with_reducible apply st_loose (State.updHalf_only ..) (by decide)
    | with_reducible apply st_ite | with_reducible apply st_foldl | refine fun _ => ?_

theorem State.unjoin_st (s : State) (state : Nat) (e : state % 16 ≠ 4) : Steady k s (s.unjoin state) :=
  st_clearYk (fun _ => rfl) (st_ykState e (st_refl s))

theorem State.deliverRecord_st (s : State) (ws : List Word) : Steady k s (s.deliverRecord ws) := by
  unfold State.deliverRecord
  repeat' first
    | with_reducible exact st_refl _ | with_reducible apply st_step (State.produce_st ..) | with_reducible apply st_addF
    | with_reducible apply st_ite | dsimp only | with_reducible apply st_fc | (clear * -; decide +revert)

theorem State.flushBuffer_st (s : State) : Steady k s s.flushBuffer := by
  unfold State.flushBuffer
  repeat' first
    | with_reducible exact st_refl _ | with_reducible apply st_step (State.deliverRecord_st ..) | with_reducible apply st_foldl
    | refine fun _ => ?_ | refine fun _ _ => ?_ | dsimp only | with_reducible apply st_fc

theorem State.syncTableCrc_st (s : State) (h : HalfIx) : Steady k s (s.syncTableCrc h) := by
  unfold State.syncTableCrc
  repeat' first
    | with_reducible exact st_refl _ | with_reducible apply st_setReg | (clear * -; decide +revert)

theorem State.noteBase_st (s : State) (c : ChIx) : Steady k s (s.noteBase c) := by
  unfold State.noteBase
  repeat' first
    | with_reducible exact st_refl _ | with_reducible apply st_setB | (clear * -; decide +revert)

theorem State.energiseFeatures_st (s : State) (c : ChIx) (x : Capture) : Steady k s (s.energiseFeatures c x) := by
  unfold State.energiseFeatures
  repeat' first
    | with_reducible exact st_refl _ | with_reducible apply st_setB
    | with_reducible apply st_only (State.updChan_only ..) (by decide) | with_reducible apply st_setReg
    | with_reducible apply st_setF | with_reducible apply st_only (State.drawWord_only ..) (by decide)
    | with_reducible apply st_ite | dsimp only | split | (clear * -; decide +revert)

theorem State.dropFeatures_st (s : State) (c : ChIx) (x : Capture) : Steady k s (s.dropFeatures c x) := by
  unfold State.dropFeatures
  repeat' first
    | with_reducible exact st_refl _ | with_reducible apply st_setF | with_reducible apply st_setB | dsimp only | split
    | (clear * -; decide +revert)

theorem State.captureEnd_st (s : State) (c : ChIx) (trunc : Bool) : Steady k s (s.captureEnd c trunc) := by
  have stat : ∀ c : ChIx, quiet (Reg.FP_STAT c.val) = true := by decide
  unfold State.captureEnd
  split
  · exact st_refl s
  · next x _ =>
    have shown (u : State) (h : Steady k s u) (g : Word) (n : Nat) (v v' : Bool) : Steady k s
        (((((u.setReg (Reg.FP_STAT c.val) g).setF (F.FP_STAT_CAPTURES c.val) n).setB (F.FP_STAT_TRUNC c.val) trunc).setB
          (F.FP_STAT_LIMITED c.val) v).setB (F.FP_STAT_LOWV c.val) v') :=
      st_setB (stat c) (st_setB (stat c) (st_setB (stat c) (st_setF (stat c) (st_setReg (stat c) h))))
    have based (f : Chan → Chan) : Steady k s ((s.updChan c f).noteBase c) :=
      st_step (State.noteBase_st ..) (st_only (State.updChan_only s c f) (by decide) (st_refl s))
    have ended (f : Chan → Chan) := shown _ (based f)
    refine st_only (State.passCapture_only ..) (by decide) ?_
    exact st_ite (ended ..) (st_ite (st_step (State.energiseFeatures_st ..) (ended ..)) (st_step (State.dropFeatures_st ..) (ended ..)))

theorem State.captureStart_st (s : State) (c : ChIx) (energise : Bool) : Steady k s (s.captureStart c energise) := by
  unfold State.captureStart
  repeat' first
    | with_reducible exact st_refl _ | with_reducible apply st_only (State.updChan_only ..) (by decide)
    | with_reducible apply st_setReg | with_reducible apply st_step (State.captureEnd_st ..) | with_reducible apply st_ite
    | dsimp only | (clear * -; decide +revert)

theorem State.closeSwitch_st (s : State) (c : ChIx) (cap : Bool) : Steady k s (s.closeSwitch c cap) := by
  unfold State.closeSwitch
  repeat' first
    | with_reducible exact st_refl _ | with_reducible apply st_only (State.updChan_only ..) (by decide)
    | with_reducible apply st_step (State.captureStart_st ..) | with_reducible apply st_ite | with_reducible apply st_whenB
    | refine fun _ => ?_

theorem State.openSwitch_st (s : State) (c : ChIx) (cap : Bool) : Steady k s (s.openSwitch c cap) := by
  unfold State.openSwitch
  repeat' first
    | with_reducible exact st_refl _ | with_reducible apply st_only (State.updChan_only ..) (by decide)
    | with_reducible apply st_only (State.partOperation_only ..) (by decide)
    | with_reducible apply st_step (State.captureStart_st ..) | with_reducible apply st_ite | with_reducible apply st_whenB
    | refine fun _ => ?_

theorem State.reSwitch_st (s : State) (c : ChIx) (cap : Bool) : Steady k s (s.reSwitch c cap) := by
  unfold State.reSwitch
  repeat' first
    | with_reducible exact st_refl _ | with_reducible apply st_step (State.closeSwitch_st ..)
    | with_reducible apply st_step (State.openSwitch_st ..) | with_reducible apply st_ite

theorem State.syncChan_st (s : State) (c : ChIx) : Steady k s (s.syncChan c) := by
  unfold State.syncChan
  repeat' first
    | with_reducible exact st_refl _ | with_reducible apply st_setB | with_reducible apply st_setF
    | with_reducible apply st_whenB | refine fun _ => ?_ | dsimp only | (clear * -; decide +revert)

theorem State.syncHalf_st (s : State) (h : HalfIx) : Steady (.loose device rest window pairs) s (s.syncHalf h) := by
  unfold State.syncHalf
  repeat' first
    | with_reducible exact st_refl _ | with_reducible apply st_setB
    | with_reducible apply st_loose (State.updHalf_only ..) (by decide) | with_reducible apply st_setF
    | with_reducible apply st_loose (State.partOperation_only ..) (by decide) | with_reducible apply st_whenB
    | refine fun _ => ?_ | dsimp only | (clear * -; decide +revert)

theorem st_fieldChange {h : HalfIx} {cap : Bool} {f : State → State} (H : ∀ u, Steady (.loose device rest window pairs) u (f u))
    (h' : Steady (.loose device rest window pairs) s t) : Steady (.loose device rest window pairs) s (t.fieldChange h cap f) := by
  unfold State.fieldChange
  dsimp only
  refine st_foldl (fun _ _ => State.syncChan_st ..) (st_step (State.syncHalf_st ..) (st_foldl (fun _ _ => State.reSwitch_st ..)
    (st_foldl (fun _ _ => ?_) (st_step (H t) h'))))
  exact st_only (State.holdChange_only ..) (by decide) (st_refl _)

theorem State.endPulse_st (s : State) (c : ChIx) : Steady k s (s.endPulse c) := by
  unfold State.endPulse
  repeat' first
    | with_reducible exact st_refl _ | with_reducible apply st_only (State.updChan_only ..) (by decide)
    | with_reducible apply st_step (State.syncChan_st ..) | with_reducible apply st_ite

theorem State.abortPulse_st (s : State) (c : ChIx) : Steady k s (s.abortPulse c) := by
  unfold State.abortPulse
  repeat' first
    | with_reducible exact st_refl _ | with_reducible apply st_step (State.endPulse_st ..)
    | with_reducible apply st_step (State.captureStart_st ..) | with_reducible apply st_addF | with_reducible apply st_ite
    | dsimp only | (clear * -; decide +revert)

theorem State.tableCheck_st (s : State) (h : HalfIx) (word18 : Option Word) :
    Steady (.loose device rest window pairs) s (s.tableCheck h word18) := by
  unfold State.tableCheck
  repeat' first
    | with_reducible exact st_refl _ | with_reducible apply st_loose (State.updHalf_only ..) (by decide)
    | with_reducible apply st_step (State.abortPulse_st ..) | with_reducible apply st_ite | with_reducible apply st_foldl
    | with_reducible apply st_fieldChange | refine fun _ => ?_ | refine fun _ _ => ?_ | dsimp only | split

theorem State.loadDie_st (s : State) (h : HalfIx) : Steady (.loose device rest window pairs) s (s.loadDie h) := by
  unfold State.loadDie
  repeat' first
    | with_reducible exact st_refl _ | with_reducible apply st_loose (State.updChan_only ..) (by decide)
    | with_reducible apply st_loose (State.updHalf_only ..) (by decide) | with_reducible apply st_setF
    | with_reducible apply st_ite | with_reducible apply st_foldl | with_reducible apply st_fieldChange | refine fun _ => ?_
    | refine fun _ _ => ?_ | dsimp only | (clear * -; decide +revert)

theorem State.loadDies_st (s : State) : Steady (.loose device rest window pairs) s s.loadDies := by
  unfold State.loadDies
  repeat' first
    | with_reducible exact st_refl _ | with_reducible apply st_step (State.syncTableCrc_st ..)
    | with_reducible apply st_step (State.loadDie_st ..) | with_reducible apply st_step (State.tableCheck_st ..)
    | with_reducible apply st_ite | with_reducible apply st_foldl | refine fun _ => ?_

theorem State.tellLeaves_st (s : State) : Steady k s s.tellLeaves := by
  unfold State.tellLeaves
  repeat' first
    | with_reducible exact st_refl _ | with_reducible apply st_only (State.updSr_only ..) (by decide)
    | with_reducible apply st_step (State.srFault_st ..) | with_reducible apply st_ite

theorem State.syncSr_st (s : State) : Steady k s s.syncSr := by
  unfold State.syncSr
  repeat' first
    | with_reducible exact st_refl _ | with_reducible apply st_setB | with_reducible apply st_setF | dsimp only
    | (clear * -; decide +revert)

theorem State.startJournal_st (s : State) : Steady k s s.startJournal := by
  unfold State.startJournal
  repeat' first
    | with_reducible exact st_refl _ | with_reducible apply st_only (State.updSr_only ..) (by decide)
    | with_reducible apply st_setF | with_reducible apply st_only (State.journal_only ..) (by decide)
    | with_reducible apply st_only (State.drawWord_only ..) (by decide) | with_reducible apply st_step (State.journalFail_st ..)
    | with_reducible apply st_step (State.tellLeaves_st ..) | with_reducible apply st_step (State.syncSr_st ..)
    | with_reducible apply st_ite | dsimp only | split | (clear * -; decide +revert)

theorem State.restartLoop_st (s : State) : Steady k s s.restartLoop := by
  unfold State.restartLoop
  repeat' first
    | with_reducible exact st_refl _ | with_reducible apply st_setF | with_reducible apply st_ite | dsimp only
    | with_reducible apply st_tb | (clear * -; decide +revert)

theorem State.dropStook_st (s : State) : Steady k s s.dropStook := by
  unfold State.dropStook
  repeat' first
    | with_reducible exact st_refl _ | with_reducible apply st_only (State.updChan_only ..) (by decide)
    | with_reducible apply st_thrFlag | with_reducible apply st_foldl | refine fun _ => ?_ | refine fun _ _ => ?_ | dsimp only
    | (clear * -; decide +revert)

theorem State.recfgCompare_st (s : State) : Steady k s s.recfgCompare := by
  unfold State.recfgCompare
  repeat' first
    | with_reducible exact st_refl _ | with_reducible apply st_step (State.endRecfg_st ..) | with_reducible apply st_ite

theorem State.dropPushes_st (s before : State) : Steady k s (s.dropPushes before) := by
  unfold State.dropPushes
  repeat' first
    | with_reducible exact st_refl _ | with_reducible apply st_step (State.syncStalled_st ..)
    | with_reducible apply st_step (State.fullTx_st ..) | with_reducible apply st_ite | with_reducible apply st_foldl
    | refine fun _ => ?_ | refine fun _ _ => ?_ | dsimp only | split | with_reducible apply st_hp

/-- The registers of the sections that a reconfiguration may replace are quiet (R26). -/
theorem quiet_imgRegs : ∀ x ∈ imgRegs, routingTypes.contains x.type = true → ∀ a ∈ x.addrs, quiet a = true := by decide +kernel

theorem st_foldl_mem {α : Type} {f : State → α → State} {xs : List α} (h : ∀ u, ∀ x ∈ xs, Steady k u (f u x)) (h' : Steady k s t) :
    Steady k s (xs.foldl f t) := by
  induction xs generalizing t with
  | nil => exact h'
  | cons x xs ih =>
    exact ih (fun u y m => h u y (List.mem_cons_of_mem x m)) (st_step (h t x List.mem_cons_self) h')

theorem State.loadRegs_st (s : State) (types skip : List Nat) (recs : List Rec) (e : types.all routingTypes.contains = true) :
    Steady k s (s.loadRegs types skip recs) := by
  refine st_foldl_mem (fun u x m => st_foldl_mem (fun v a n => st_setReg ?_ (st_refl v)) (st_refl u)) (st_refl s)
  obtain ⟨row, type⟩ := List.mem_filter.mp m
  exact quiet_imgRegs x row (List.all_eq_true.mp e x.type (List.contains_iff_mem.mp type)) a (List.mem_of_mem_filter n)

theorem State.retable_st (s : State) (h : HalfIx) : Steady (.loose device rest window pairs) s (s.retable h) := by
  unfold State.retable
  repeat' first
    | with_reducible exact st_refl _ | with_reducible apply st_loose (State.updHalf_only ..) (by decide)
    | with_reducible apply st_step (State.syncTableCrc_st ..) | with_reducible apply st_ite

theorem State.fixTimeout_st (s : State) (yoke : Nat) : Steady k s (s.fixTimeout yoke) := by
  unfold State.fixTimeout
  repeat' first
    | with_reducible exact st_refl _ | with_reducible apply st_setB | with_reducible apply st_setF
    | with_reducible apply st_foldl | with_reducible apply st_whenB | refine fun _ => ?_ | refine fun _ _ => ?_ | dsimp only
    | (clear * -; decide +revert)

theorem State.setBuffer_st (s : State) (h : HalfIx) (on : Bool) :
    Steady (.loose device rest window pairs) s (s.setBuffer h on) := by
  unfold State.setBuffer
  repeat' first
    | with_reducible exact st_refl _ | with_reducible apply st_setB
    | with_reducible apply st_loose (State.updChan_only ..) (by decide)
    | with_reducible apply st_loose (State.updHalf_only ..) (by decide) | with_reducible apply st_ite
    | with_reducible apply st_foldl | refine fun _ => ?_ | refine fun _ _ => ?_ | dsimp only | (clear * -; decide +revert)

theorem State.rethresh_st (s before : State) (h : HalfIx) : Steady (.loose device rest window pairs) s (s.rethresh before h) := by
  unfold State.rethresh
  repeat' first
    | with_reducible exact st_refl _ | with_reducible apply st_setB
    | with_reducible apply st_loose (State.updHalf_only ..) (by decide) | with_reducible apply st_step (State.setBuffer_st ..)
    | with_reducible apply st_step (State.restartSeq_st ..) | with_reducible apply st_loose (State.updSeq_only ..) (by decide)
    | with_reducible apply st_addF | with_reducible apply st_ite | refine fun _ => ?_ | dsimp only | (clear * -; decide +revert)

theorem State.allocate_st (s : State) (als : List Alloc) : Steady k s (s.allocate als) := by
  unfold State.allocate
  dsimp only
  exact st_pipeline (t := s) rfl rfl rfl rfl rfl rfl (st_refl s)

theorem State.recrib_st (s before : State) (c : CribIx) : Steady k s (s.recrib before c) := by
  unfold State.recrib
  repeat' first
    | with_reducible exact st_refl _ | with_reducible apply st_setReg | with_reducible apply st_step (State.syncCrib_st ..)
    | with_reducible apply st_only (State.updCrib_only ..) (by decide) | with_reducible apply st_ite | dsimp only
    | (clear * -; decide +revert)

theorem State.resegment_st (s before : State) (i : Fin 32) : Steady k s (s.resegment before i) :=
  st_ite (st_refl s) (st_setReg (by revert i; decide) (st_only (State.updSeg_only ..) (by decide) (st_refl s)))

theorem State.loadSegments_st (s : State) : Steady k s s.loadSegments := by
  unfold State.loadSegments
  repeat' first
    | with_reducible exact st_refl _ | with_reducible apply st_setReg | with_reducible apply st_ite
    | with_reducible apply st_foldl | refine fun _ => ?_ | refine fun _ _ => ?_ | dsimp only | (clear * -; decide +revert)

theorem State.loadGleaner_st (s : State) (descs : List Desc) (pos : List (Nat × Word)) (head : Bool) :
    Steady k s (s.loadGleaner descs pos head) := by
  unfold State.loadGleaner
  repeat' first
    | with_reducible exact st_refl _ | with_reducible apply st_setB | with_reducible apply st_step (State.loadSegments_st ..)
    | with_reducible apply st_foldl | refine fun _ => ?_ | refine fun _ _ => ?_ | dsimp only | with_reducible apply st_gln
    | (clear * -; decide +revert)

theorem State.loadLists_st (s : State) (yoke : Nat) (lead : Bool) (runs : List Run) (lists : List Word) :
    Steady k s (s.loadLists yoke lead runs lists) := by
  unfold State.loadLists
  repeat' first
    | with_reducible exact st_refl _ | with_reducible apply st_setF | with_reducible apply st_updYk | exact fun _ => rfl
    | exact rfl

theorem State.loadFaults_st (s : State) (irq : Nat) (es : List Reaction) : Steady k s (s.loadFaults irq es) := by
  unfold State.loadFaults
  repeat' first
    | with_reducible exact st_refl _ | with_reducible apply st_setF | with_reducible apply st_fc | (clear * -; decide +revert)

theorem State.loadProgram_st (s : State) (p : PairIx) (c : Option CheckedProg) : Steady k s (s.loadProgram p c) := by
  unfold State.loadProgram
  repeat' first
    | with_reducible exact st_refl _ | with_reducible apply st_setB | with_reducible apply st_setReg
    | with_reducible apply st_setF | with_reducible apply st_updPair | with_reducible apply st_ite | exact fun _ => rfl
    | dsimp only | split | (clear * -; decide +revert)

theorem State.loadPrograms_st (s : State) (ps : List (Nat × CheckedProg)) : Steady k s (s.loadPrograms ps) := by
  unfold State.loadPrograms
  repeat' first
    | with_reducible exact st_refl _ | with_reducible apply st_step (State.loadProgram_st ..) | with_reducible apply st_foldl
    | refine fun _ => ?_

theorem State.scanAbandon_st (s : State) (u : UnitIx) : Steady k s (s.scanAbandon u) := by
  unfold State.scanAbandon
  repeat' first
    | with_reducible exact st_refl _ | with_reducible apply st_setB
    | with_reducible apply st_only (State.updUnit_only ..) (by decide) | dsimp only | (clear * -; decide +revert)







theorem State.putRequest_st (s : State) (r : PwrReq) : Steady k s (s.putRequest r) := by
  unfold State.putRequest
  repeat' first
    | with_reducible exact st_refl _ | with_reducible apply st_only (State.updPwr_only ..) (by decide)
    | with_reducible apply st_step (State.syncPwr_st ..)

theorem State.unsync_st (s : State) (u : UnitIx) : Steady k s (s.unsync u) := by
  unfold State.unsync
  repeat' first
    | with_reducible exact st_refl _ | with_reducible apply st_setB | with_reducible apply st_setReg
    | with_reducible apply st_setF | (clear * -; decide +revert)

theorem State.showPc_st (s : State) (p : PairIx) : Steady k s (s.showPc p) := by
  unfold State.showPc
  repeat' first
    | with_reducible exact st_refl _ | with_reducible apply st_setF | split | (clear * -; decide +revert)

theorem State.boundaryCause_st (s : State) (c : Nat) : Steady k s (s.boundaryCause c) := by
  have late : Steady k s ((s.causeNow c).lateAtTarget true) := st_only (State.lateAtTarget_only ..) (by decide) (s.causeNow_st c)
  exact st_pipeline (t := (s.causeNow c).lateAtTarget true) rfl rfl rfl rfl rfl rfl late

theorem State.rollFault_st (s : State) (p kind : Nat) (w : Word) : Steady k s (s.rollFault p kind w) := by
  unfold State.rollFault
  repeat' first
    | with_reducible exact st_refl _ | with_reducible apply st_step (State.raiseOnce_st ..) | split

theorem State.rollCall_st (s : State) (p : PairIx) (checkins dups : Word) : Steady k s (s.rollCall p checkins dups) := by
  unfold State.rollCall
  repeat' first
    | with_reducible exact st_refl _ | with_reducible apply st_setReg | with_reducible apply st_orF
    | with_reducible apply st_setF | with_reducible apply st_step (State.rollFault_st ..) | with_reducible apply st_addF
    | with_reducible apply st_ite | dsimp only | (clear * -; decide +revert)

theorem State.freezeRoll_st (s : State) (p : PairIx) : Steady k s (s.freezeRoll p) := by
  unfold State.freezeRoll
  repeat' first
    | with_reducible exact st_refl _ | with_reducible apply st_setF | (clear * -; decide +revert)

theorem State.judgeRoll_st (s : State) (p : PairIx) (armed : Bool) (checkins dups : Word) :
    Steady k s (s.judgeRoll p armed checkins dups) := by
  unfold State.judgeRoll
  repeat' first
    | with_reducible exact st_refl _ | with_reducible apply st_setF | with_reducible apply st_updPair
    | with_reducible apply st_step (State.freezeRoll_st ..) | with_reducible apply st_step (State.rollCall_st ..)
    | with_reducible apply st_ite | exact fun _ => rfl | dsimp only | split | (clear * -; decide +revert)

theorem State.payOwed_st (s : State) (p : PairIx) : Steady k s (s.payOwed p) := by
  unfold State.payOwed
  repeat' first
    | with_reducible exact st_refl _ | with_reducible apply st_step (State.raiseOnce_st ..)
    | with_reducible apply st_step (State.raise_st ..) | with_reducible apply st_updPair | with_reducible apply st_ite
    | with_reducible apply st_dite | with_reducible apply st_foldl | exact fun _ => rfl | refine fun _ => ?_

theorem State.pcCommitted_st (s : State) (p : PairIx) (x : Slots) (reeval : Bool) : Steady k s (s.pcCommitted p.val x reeval) := by
  have taken := st_pcTake p (i := pcBACKCRIB) (n := x.crib) (by decide) (st_pcTake p (i := pcBACKSHD) (n := x.shd) (by decide)
    (st_pcTake p (i := pcBACKGRN) (n := x.grn) (by decide) (st_pcTake p (i := pcRETIRED) (n := x.issue) (by decide) (st_refl (k := k) s))))
  exact st_ite (st_pcPairHeld p (by decide) taken) taken



theorem quiet_bndStatus : ∀ p : PairIx, quiet (Reg.BND_STATUS p.val) = true := by decide

/-- A pair is halted: its commit stands, and it holds an evaluation. -/
theorem State.haltNow_st (s : State) (p : PairIx) (bkpt : Bool) (n : k.rest = false) : Steady k s (s.haltNow p bkpt) := by
  unfold State.haltNow
  dsimp only
  split
  · exact st_refl s
  · refine st_step (State.freezeRoll_st ..) (st_step (State.showPc_st ..) (st_setB (quiet_bndStatus p) (st_setF (quiet_bndStatus p)
      (st_engine n (fun _ => rfl) (st_step (State.pcIdle_st ..) (st_restPair (fun _ => rfl) (State.cutWork_st ..)))))))

theorem State.applyDebug_st (s : State) (p : PairIx) (n : k.rest = false) : Steady k s (s.applyDebug p) := by
  unfold State.applyDebug
  dsimp only
  have told : Steady k s (s.updPair p fun x => { x with debugReq := none }) := st_updPair (fun _ => rfl) (st_refl s)
  refine st_ite told ?_
  split
  · exact st_ite told (s.haltNow_st p false n)
  · exact st_setF (quiet_bndStatus p) (st_setB (quiet_bndStatus p) (st_setF (quiet_bndStatus p) (st_restPair (fun _ => rfl) (st_refl s))))
  · exact st_refl s



theorem State.applyClear_st (s : State) : Steady k s s.applyClear := by
  unfold State.applyClear
  repeat' first
    | with_reducible exact st_refl _ | with_reducible apply st_setReg | with_reducible apply st_step (State.syncFc_st ..)
    | with_reducible apply st_ite | dsimp only | split | with_reducible apply st_fc | (clear * -; decide +revert)

theorem State.applyInject_st (s : State) : Steady k s s.applyInject := by
  unfold State.applyInject
  repeat' first
    | with_reducible exact st_refl _ | with_reducible apply st_setF | with_reducible apply st_step (State.raiseByRule_st ..)
    | dsimp only | split | with_reducible apply st_fc | (clear * -; decide +revert)

theorem State.logMsg_st (s : State) (m : Msg) : Steady k s (s.logMsg m) := by
  unfold State.logMsg
  repeat' first
    | with_reducible exact st_refl _ | with_reducible apply st_setReg | with_reducible apply st_orF
    | with_reducible apply st_maxF | with_reducible apply st_step (State.deliverRecord_st ..) | with_reducible apply st_ite
    | dsimp only | with_reducible apply st_fc | (clear * -; decide +revert)

theorem State.writeBatch_st (s : State) : Steady k s s.writeBatch := by
  unfold State.writeBatch
  repeat' first
    | with_reducible exact st_refl _ | with_reducible apply st_step (State.logMsg_st ..) | with_reducible apply st_foldl
    | refine fun _ => ?_ | refine fun _ _ => ?_ | dsimp only | with_reducible apply st_fc

theorem State.applySlotOps_st (s : State) : Steady k s s.applySlotOps := by
  unfold State.applySlotOps
  repeat' first
    | with_reducible exact st_refl _ | with_reducible apply st_only (State.updSr_only ..) (by decide)
    | with_reducible apply st_only (State.applySlotOp_only ..) (by decide) | with_reducible apply st_step (State.noteBase_st ..)
    | with_reducible apply st_step (State.syncSr_st ..) | with_reducible apply st_ite | with_reducible apply st_foldl
    | refine fun _ => ?_

theorem State.journalBoundary_st (s : State) : Steady k s s.journalBoundary := by
  unfold State.journalBoundary
  repeat' first
    | with_reducible exact st_refl _ | with_reducible apply st_step (State.programPage_st ..)
    | with_reducible apply st_step (State.writeDue_st ..) | with_reducible apply st_ite | with_reducible apply st_foldl
    | refine fun _ => ?_

theorem State.wdgStop_st (s : State) : Steady k s s.wdgStop := by
  unfold State.wdgStop
  repeat' first
    | with_reducible exact st_refl _ | with_reducible apply st_setB | with_reducible apply st_setF | with_reducible apply st_ite
    | dsimp only | with_reducible apply st_wdg | (clear * -; decide +revert)

theorem State.wdgBoundary_st (s : State) : Steady k s s.wdgBoundary := by
  unfold State.wdgBoundary
  repeat' first
    | with_reducible exact st_refl _ | with_reducible apply st_setB | with_reducible apply st_setReg
    | with_reducible apply st_setF | with_reducible apply st_step (State.wdgStop_st ..)
    | with_reducible apply st_only (State.updWdg_only ..) (by decide) | with_reducible apply st_ite | dsimp only | split
    | (clear * -; decide +revert)

theorem State.sheafRequest_st (s : State) (before : Word) : Steady k s (s.sheafRequest before) := by
  unfold State.sheafRequest
  repeat' first
    | with_reducible exact st_refl _ | with_reducible apply st_step (State.putRequest_st ..) | with_reducible apply st_ite

theorem State.resumeDormant_st (s : State) : Steady (.loose device rest window pairs) s s.resumeDormant := by
  unfold State.resumeDormant
  repeat' first
    | with_reducible exact st_refl _ | with_reducible apply st_step (State.restartLoop_st ..) | with_reducible apply st_setF
    | with_reducible apply st_step (State.restartSeq_st ..) | with_reducible apply st_loose (State.updPwr_only ..) (by decide)
    | with_reducible apply st_step (State.loseGranary_st ..) | with_reducible apply st_step (State.unsync_st ..)
    | with_reducible apply st_ite | with_reducible apply st_foldl | refine fun _ => ?_ | refine fun _ _ => ?_ | dsimp only
    | split | with_reducible apply st_boot | exact rfl

theorem State.resumePairs_st (s : State) : Steady k s s.resumePairs := by
  unfold State.resumePairs
  repeat' first
    | with_reducible exact st_refl _ | with_reducible apply st_updPair | with_reducible apply st_foldl | exact fun _ => rfl
    | refine fun _ => ?_

theorem State.wakeExit_st (s : State) : Steady (.loose device rest window pairs) s s.wakeExit := by
  unfold State.wakeExit
  repeat' first
    | with_reducible exact st_refl _ | with_reducible apply st_loose (State.gleanerStart_only ..) (by decide)
    | with_reducible apply st_setF | with_reducible apply st_step (State.resumePairs_st ..)
    | with_reducible apply st_loose (State.updPwr_only ..) (by decide) | with_reducible apply st_step (State.resumeDormant_st ..)
    | with_reducible apply st_step (State.syncPwr_st ..) | with_reducible apply st_ite | dsimp only | (clear * -; decide +revert)

theorem State.waiting_st (s : State) (before : Word) : Steady (.loose device rest window pairs) s (s.waiting before) := by
  unfold State.waiting
  repeat' first
    | with_reducible exact st_refl _ | with_reducible apply st_setF | with_reducible apply st_step (State.applyClear_st ..)
    | with_reducible apply st_step (State.boundaryCause_st ..) | with_reducible apply st_step (State.journalBoundary_st ..)
    | with_reducible apply st_step (State.applyInject_st ..) | with_reducible apply st_step (State.wakeExit_st ..)
    | with_reducible apply st_step (State.writeBatch_st ..) | with_reducible apply st_step (State.sheafRequest_st ..)
    | with_reducible apply st_step (State.applySlotOps_st ..) | with_reducible apply st_loose (State.updPwr_only ..) (by decide)
    | with_reducible apply st_step (State.wdgBoundary_st ..) | with_reducible apply st_ite | dsimp only | split
    | (clear * -; decide +revert)

theorem State.applySyncCtrl_st (s : State) : Steady k s s.applySyncCtrl := by
  unfold State.applySyncCtrl
  repeat' first
    | with_reducible exact st_refl _ | with_reducible apply st_step (State.restartLoop_st ..) | with_reducible apply st_ite
    | dsimp only | with_reducible apply st_tb

theorem State.fixBudget_st (s : State) : Steady k s s.fixBudget := by
  unfold State.fixBudget
  repeat' first
    | with_reducible exact st_refl _ | dsimp only | with_reducible apply st_pipe

theorem State.bufferStep_st (s : State) (h : HalfIx) : Steady (.loose device rest window pairs) s (s.bufferStep h) := by
  unfold State.bufferStep
  repeat' first
    | with_reducible exact st_refl _ | with_reducible apply st_loose (State.updHalf_only ..) (by decide)
    | with_reducible apply st_step (State.setBuffer_st ..) | with_reducible apply st_ite | dsimp only | split

theorem State.supplyChange_st (s : State) (h : HalfIx) (f : Half → Half) :
    Steady (.loose device rest window pairs) s (s.supplyChange h f) := by
  unfold State.supplyChange
  repeat' first
    | with_reducible exact st_refl _ | with_reducible apply st_loose (State.updHalf_only ..) (by decide)
    | with_reducible apply st_fieldChange | refine fun _ => ?_

theorem State.applyUv_st (s : State) (h : HalfIx) : Steady (.loose device rest window pairs) s (s.applyUv h) := by
  unfold State.applyUv
  repeat' first
    | with_reducible exact st_refl _ | with_reducible apply st_step (State.supplyChange_st ..) | with_reducible apply st_ite

theorem State.chanChange_st (s : State) (c : ChIx) (cap : Bool) (f : Chan → Chan) :
    Steady (.loose device rest window pairs) s (s.chanChange c cap f) := by
  unfold State.chanChange
  repeat' first
    | with_reducible exact st_refl _ | with_reducible apply st_loose (State.updChan_only ..) (by decide)
    | with_reducible apply st_fieldChange | refine fun _ => ?_

theorem State.applyRelease_st (s : State) (c : ChIx) : Steady (.loose device rest window pairs) s (s.applyRelease c) := by
  unfold State.applyRelease
  repeat' first
    | with_reducible exact st_refl _ | with_reducible apply st_loose (State.updChan_only ..) (by decide)
    | with_reducible apply st_step (State.chanChange_st ..) | with_reducible apply st_ite

theorem State.autoClear_st (s : State) (start : Nat) : Steady k s (s.autoClear start) := by
  unfold State.autoClear
  repeat' first
    | with_reducible exact st_refl _ | with_reducible apply st_step (State.syncFc_st ..) | with_reducible apply st_ite
    | dsimp only | with_reducible apply st_fc

theorem State.applyAtClear_st (s : State) (c : ChIx) : Steady k s (s.applyAtClear c) := by
  have shown : ∀ c : ChIx, quiet (Reg.THR_AT_PMIN c.val) = true ∧ quiet (Reg.THR_AT_PMAX c.val) = true ∧
      quiet (Reg.THR_AT_FMINMAX c.val) = true ∧ quiet (Reg.THR_AT_SINCE c.val) = true := by decide
  obtain ⟨pmin, pmax, fast, since⟩ := shown c
  have cleared : Steady k s (s.updChan c fun x => { x with atClear := false, aMin := 0x7FFF, aMax := -0x8000, atTick := s.tick }) :=
    st_only (State.updChan_only ..) (by decide) (st_refl s)
  exact st_ite (st_refl s) (st_setReg since (st_setReg fast (st_setReg pmax (st_setReg pmin cleared))))

theorem State.fieldBoundary_st (s : State) (x : Count) (start : Nat) :
    Steady (.loose device rest window pairs) s (s.fieldBoundary x start) := by
  unfold State.fieldBoundary
  repeat' first
    | with_reducible exact st_refl _ | with_reducible apply st_loose (State.updChan_only ..) (by decide)
    | with_reducible apply st_step (State.applyUv_st ..) | with_reducible apply st_loose (State.openPrec_only ..) (by decide)
    | with_reducible apply st_step (State.applyRelease_st ..) | with_reducible apply st_step (State.applyAtClear_st ..)
    | with_reducible apply st_step (State.autoClear_st ..) | with_reducible apply st_step (State.bufferStep_st ..)
    | with_reducible apply st_ite | with_reducible apply st_foldl | refine fun _ => ?_

theorem State.cvuCrcFault_st (s : State) (u : UnitIx) (feed pos : Nat) : Steady k s (s.cvuCrcFault u feed pos) := by
  unfold State.cvuCrcFault
  repeat' first
    | with_reducible exact st_refl _ | with_reducible apply st_step (State.raise_st ..) | with_reducible apply st_addF
    | (clear * -; decide +revert)

theorem State.aliveReject_st (s : State) (u : UnitIx) (verdict feed pos : Nat) :
    Steady k s (s.aliveReject u verdict feed pos) := by
  unfold State.aliveReject
  repeat' first
    | with_reducible exact st_refl _ | with_reducible apply st_step (State.raise_st ..) | with_reducible apply st_addF
    | with_reducible apply st_ite | (clear * -; decide +revert)

theorem State.snoopFaults_st (s : State) : Steady k s s.snoopFaults := by
  unfold State.snoopFaults
  repeat' first
    | with_reducible exact st_refl _ | with_reducible apply st_only (State.updUnit_only ..) (by decide)
    | with_reducible apply st_step (State.cvuCrcFault_st ..) | with_reducible apply st_step (State.aliveReject_st ..)
    | with_reducible apply st_ite | with_reducible apply st_foldl | refine fun _ => ?_

theorem State.gleanerBoundary_st (s : State) (off : Bool) : Steady k s (s.gleanerBoundary off) := by
  unfold State.gleanerBoundary
  dsimp only
  have told : Steady k s (if (allSegs.any fun i => match (s.gln.segs.get i).land with
      | some (n, l, _) => l && n + 1 == s.swath
      | none => false) = true then s.causeNext cSCANLATE else s).snoopFaults :=
    st_step (State.snoopFaults_st _) (st_ite (s.causeNext_st _) (st_refl s))
  exact st_ite told (st_only (State.unfolded_only ..) (by decide) told)

theorem State.syncReady_st (s : State) : Steady k s s.syncReady := st_ykBit rfl (by decide) (by decide) (st_refl s)

theorem State.yokeLost_st (s : State) (kind : Nat) : Steady k s (s.yokeLost kind) :=
  st_step (State.raise_st ..) (st_updYk rfl (s.unjoin_st 6 (by decide)))

theorem State.releaseNow_st (s : State) : Steady k s s.releaseNow := by
  unfold State.releaseNow
  have due : Steady k s (s.updYk fun y => { y with releasing := false, yfltAt := none }) := st_updYk rfl (st_refl s)
  refine st_ite (st_refl s) (st_ite (st_step (State.raise_st ..) (st_setReg (by decide) (st_ykBit rfl (by decide) (by decide) ?_)))
    (st_step (State.yokeLost_st ..) due))
  exact st_step (State.unjoin_st _ 0 (by decide)) due

theorem quiet_pcLive : ∀ a ∈ pcLive, quiet a = true ∧ quiet (a + 0x800) = true := by decide +kernel

/-- Registers of a list are set. -/
theorem st_setRegs {f : State → Nat → Word} {g : Nat → Nat} (xs : List Nat) (q : ∀ a ∈ xs, quiet (g a) = true) (h : Steady k s t) :
    Steady k s (xs.foldl (fun s a => s.setReg (g a) (f s a)) t) := by
  induction xs generalizing t with
  | nil => exact h
  | cons a xs ih =>
    obtain ⟨head, tail⟩ := List.forall_mem_cons.mp q
    exact ih tail (st_setReg head h)

/-- The keys of PC_CTRL act. -/
def State.pcKeys (s : State) (k : Nat) : State :=
  let s := if k.testBit 0 then
      (pcLive.foldl (fun s a => s.setReg (a + 0x800) (s.reg a)) s).setF F.PC_STATUS_SNAP_SWATH s.swath else s
  let s := if k.testBit 1 then pcLive.foldl (fun s a => s.setReg a 0#32) s else s
  let s := if k.testBit 2 then s.setB F.PC_STATUS_FROZEN true else s
  if k.testBit 3 then s.setB F.PC_STATUS_FROZEN false else s

/-- The waits that run are held aside, and the counters' state of before is kept. -/
def State.pcHeld (s : State) : State := { s.holdWaits with pipe := { s.holdWaits.pipe with frozenPrev := s.holdWaits.pcFrozen } }

theorem pcApply_eq (s : State) :
    s.pcApply = ({ s.pcHeld.pcKeys s.pcHeld.perf with perf := 0 } : State).setB F.PC_STATUS_WAITING false := rfl

theorem State.pcKeys_st (s : State) (n : Nat) : Steady k s (s.pcKeys n) := by
  have snap : Steady k s (if n.testBit 0 then
      (pcLive.foldl (fun s a => s.setReg (a + 0x800) (s.reg a)) s).setF F.PC_STATUS_SNAP_SWATH s.swath else s) :=
    st_ite (st_setF (by decide) (st_setRegs pcLive (fun a m => (quiet_pcLive a m).2) (st_refl s))) (st_refl s)
  have clear := st_ite (c := n.testBit 1 = true) (st_setRegs (f := fun _ _ => 0#32) pcLive (fun a m => (quiet_pcLive a m).1) snap) snap
  have freeze := st_ite (c := n.testBit 2 = true) (st_setB (f := F.PC_STATUS_FROZEN) (b := true) (by decide) clear) clear
  exact st_ite (st_setB (f := F.PC_STATUS_FROZEN) (b := false) (by decide) freeze) freeze

theorem State.pcApply_st (s : State) : Steady k s s.pcApply := by
  rw [pcApply_eq]
  have held : Steady k s s.pcHeld := st_pipe rfl (st_only (State.holdWaits_only s) (by decide) (st_refl s))
  exact st_setB (by decide) (st_perf (st_step (State.pcKeys_st ..) held))

theorem State.guardSignal_st (s : State) (causes swath : Nat) : Steady k s (s.guardSignal causes swath) := by
  unfold State.guardSignal
  repeat' first
    | with_reducible exact st_refl _ | with_reducible apply st_setB | with_reducible apply st_setF
    | with_reducible apply st_only (State.updEntry_only ..) (by decide) | with_reducible apply st_addF
    | with_reducible apply st_ite | dsimp only | (clear * -; decide +revert)

end
end Sys2Proof.Machine
end

section
namespace Sys2Proof.Machine

section
variable {k : Claim} {device rest window : Bool} {pairs : PairIx → Bool} {s t u : State}

/-- A pair with an evaluation is none that rests: nothing is said of it. -/
theorem st_busy {p : PairIx} (e : (s.pairs.get p).ctx ≠ none) (h : Steady (.loose device true window fun q => pairs q && q != p) s t) :
    Steady (.loose device true window pairs) s t := by
  refine ⟨h.device, fun q n => ?_, h.pipe⟩
  by_cases same : q = p
  · subst same
    exact ⟨fun r => absurd (r rfl) e, fun _ r => absurd r e⟩
  · exact h.pairs q (by simpa [same] using n)

/-- Nothing is said of a pair: it may change as it will. -/
theorem st_untold {p : PairIx} {f : Pair → Pair} (e : k.pairs p = false) (h : Steady k s t) : Steady k s (t.updPair p f) :=
  st_pairs (fun n => absurd n (by simp [e])) h

theorem State.pairLast_st (s : State) (p : PairIx) (outcome tine ready : Nat) : Steady k s (s.pairLast p outcome tine ready) := by
  unfold State.pairLast
  repeat' first
    | with_reducible exact st_refl _ | with_reducible apply st_setReg | with_reducible apply st_setF | dsimp only
    | (clear * -; decide +revert)

theorem State.drain_st (s : State) (p : PairIx) (c : Ctx) (r : Nat) : Steady k s (s.drain p c r) := by
  unfold State.drain
  repeat' first
    | with_reducible exact st_refl _ | with_reducible apply st_only (State.updEntry_only ..) (by decide)
    | with_reducible apply st_updPair | with_reducible apply st_foldl | exact fun _ => rfl | refine fun _ => ?_

theorem State.memCorr_st (s : State) (p : PairIx) (x : Slots) : Steady k s (s.memCorr p x) := by
  unfold State.memCorr
  repeat' first
    | with_reducible exact st_refl _ | with_reducible apply st_addF | (clear * -; decide +revert)

theorem State.refuseJoin_st (s : State) (reason : Nat) : Steady k s (s.refuseJoin reason) := by
  have unjoined : Steady k s ((s.unjoin 5).setPartner false) := st_only (State.setPartner_only ..) (by decide) (s.unjoin_st 5 (by decide))
  have shown : Steady k s ((((s.unjoin 5).setPartner false).setF F.YK_STATUS_REASON reason).setB F.YK_STATUS_CLAIM true) :=
    st_ykBit rfl (by decide) (by decide) (st_ykField rfl (by decide) (by decide) unjoined)
  exact st_step (State.raise_st ..) (st_env (st_updYk rfl shown))

theorem State.endAlign_st (s : State) : Steady (.free rest window pairs) s s.endAlign := by
  unfold State.endAlign
  repeat' first
    | with_reducible exact st_refl _ | with_reducible apply st_aside (State.setF_only ..) (by decide)
    | with_reducible apply st_aside (State.updYk_only ..) (by decide)
    | with_reducible apply st_aside (State.setPairReg_only ..) (by decide)
    | with_reducible apply st_step (State.refuseJoin_st ..) | with_reducible apply st_ite | dsimp only | split
    | with_reducible apply st_tb

theorem State.refuseDebug_st (s : State) (n : Nat) : Steady (.free true window pairs) s (s.refuseDebug n) := by
  unfold State.refuseDebug
  repeat' first
    | with_reducible exact st_refl _ | with_reducible apply st_step (State.raise_st ..)

theorem State.unstamped_st (s : State) : Steady k s s.unstamped := s.causeNext_st cUNSTAMPED

theorem State.hostValue_st (s : State) (i : Nat) (v : Word) : Steady (.free true window pairs) s (s.hostValue i v) := by
  unfold State.hostValue
  repeat' first
    | with_reducible exact st_refl _ | with_reducible apply st_aside (State.updEntry_only ..) (by decide)
    | with_reducible apply st_step (State.unstamped_st ..)

theorem State.rejectCommit_st (s : State) (reason : Nat) : Steady (.free true window pairs) s (s.rejectCommit reason) := by
  unfold State.rejectCommit
  repeat' first
    | with_reducible exact st_refl _ | with_reducible apply st_aside (State.setF_only ..) (by decide)
    | with_reducible apply st_step (State.raiseCore_st ..) | with_reducible apply st_ite | dsimp only
    | with_reducible apply st_recfg

theorem State.recfgCommit_st (s : State) (length : Nat) : Steady (.free true window pairs) s (s.recfgCommit length) := by
  unfold State.recfgCommit
  repeat' first
    | with_reducible exact st_refl _ | with_reducible apply st_aside (State.setF_only ..) (by decide)
    | with_reducible apply st_aside (State.passSet_only ..) (by decide) | with_reducible apply st_step (State.rejectCommit_st ..)
    | with_reducible apply st_ite | dsimp only | with_reducible apply st_recfg

theorem State.recfgCancel_st (s : State) : Steady (.free true window pairs) s s.recfgCancel := by
  unfold State.recfgCancel
  repeat' first
    | with_reducible exact st_refl _ | with_reducible apply st_step (State.endRecfg_st ..) | with_reducible apply st_ite

theorem State.armRequest_st (s : State) (mask : Nat) : Steady (.free true window pairs) s (s.armRequest mask) := by
  unfold State.armRequest
  repeat' first
    | with_reducible exact st_refl _ | with_reducible apply st_aside (State.setF_only ..) (by decide)
    | with_reducible apply st_step (State.unstamped_st ..) | with_reducible apply st_ite | dsimp only
    | with_reducible apply st_boot

theorem State.clearReq_st (s : State) (channels halves : Nat) (first : Bool) :
    Steady (.free true window pairs) s (s.clearReq channels halves first) := by
  unfold State.clearReq
  repeat' first
    | with_reducible exact st_refl _ | with_reducible apply st_step (State.unstamped_st ..) | dsimp only
    | with_reducible apply st_fc

theorem State.injectKey_st (s : State) : Steady (.free true window pairs) s s.injectKey := by
  unfold State.injectKey
  repeat' first
    | with_reducible exact st_refl _ | with_reducible apply st_aside (State.setF_only ..) (by decide)
    | with_reducible apply st_step (State.unstamped_st ..) | dsimp only | split | with_reducible apply st_fc

theorem State.wdgFault_st (s : State) (f : Fld) (kind lo : Nat) : Steady (.free true window pairs) s (s.wdgFault f kind lo) := by
  unfold State.wdgFault
  repeat' first
    | with_reducible exact st_refl _ | with_reducible apply st_step (State.raise_st ..)
    | with_reducible apply st_aside (State.addF_only ..) (by decide)

theorem State.wdgKeyFault_st (s : State) (reason : Nat) : Steady (.free true window pairs) s (s.wdgKeyFault reason) := by
  unfold State.wdgKeyFault
  repeat' first
    | with_reducible exact st_refl _ | with_reducible apply st_step (State.wdgFault_st ..)

theorem st_wdgSealed {isSealed : Bool} {f : State → State} (H : ∀ u, Steady (.free true window pairs) u (f u))
    (h : Steady (.free true window pairs) s t) : Steady (.free true window pairs) s (t.wdgSealed isSealed f) :=
  st_ite (st_step (State.wdgKeyFault_st ..) h) (st_step (H t) h)

theorem State.wdgEarly_st (s : State) : Steady (.free true window pairs) s s.wdgEarly := by
  unfold State.wdgEarly
  repeat' first
    | with_reducible exact st_refl _ | with_reducible apply st_step (State.wdgFault_st ..)

theorem State.wdgJudge_st (s : State) : Steady (.free true window pairs) s s.wdgJudge := by
  unfold State.wdgJudge
  repeat' first
    | with_reducible exact st_refl _ | with_reducible apply st_aside (State.setB_only ..) (by decide)
    | with_reducible apply st_aside (State.setReg_only ..) (by decide) | with_reducible apply st_step (State.wdgEarly_st ..)
    | with_reducible apply st_ite | dsimp only | split

theorem State.breakSequence_st (s : State) : Steady (.free true window pairs) s s.breakSequence := by
  unfold State.breakSequence
  repeat' first
    | with_reducible exact st_refl _ | with_reducible apply st_aside (State.setB_only ..) (by decide)
    | with_reducible apply st_step (State.wdgKeyFault_st ..) | with_reducible apply st_aside (State.updWdg_only ..) (by decide)
    | with_reducible apply st_ite

theorem State.wdgService_st (s : State) : Steady (.free true window pairs) s s.wdgService := by
  unfold State.wdgService
  repeat' first
    | with_reducible exact st_refl _ | with_reducible apply st_step (State.breakSequence_st ..)
    | with_reducible apply st_step (State.wdgJudge_st ..)

theorem State.wdgStart_st (s : State) : Steady (.free true window pairs) s s.wdgStart := by
  unfold State.wdgStart
  repeat' first
    | with_reducible exact st_refl _ | with_reducible apply st_aside (State.setB_only ..) (by decide)
    | with_reducible apply st_aside (State.updWdg_only ..) (by decide) | with_reducible apply st_step (State.breakSequence_st ..)

theorem State.wdgDisable_st (s : State) : Steady (.free true window pairs) s s.wdgDisable := by
  unfold State.wdgDisable
  repeat' first
    | with_reducible exact st_refl _ | with_reducible apply st_aside (State.setB_only ..) (by decide)
    | with_reducible apply st_step (State.wdgKeyFault_st ..) | with_reducible apply st_aside (State.updWdg_only ..) (by decide)
    | with_reducible apply st_step (State.unstamped_st ..) | with_reducible apply st_ite

theorem State.wdgEnable_st (s : State) : Steady (.free true window pairs) s s.wdgEnable := by
  unfold State.wdgEnable
  repeat' first
    | with_reducible exact st_refl _ | with_reducible apply st_aside (State.updWdg_only ..) (by decide)
    | with_reducible apply st_step (State.breakSequence_st ..) | with_reducible apply st_step (State.unstamped_st ..)

theorem State.wdgLock_st (s : State) : Steady (.free true window pairs) s s.wdgLock := by
  unfold State.wdgLock
  repeat' first
    | with_reducible exact st_refl _ | with_reducible apply st_aside (State.setB_only ..) (by decide)
    | with_reducible apply st_aside (State.updWdg_only ..) (by decide) | with_reducible apply st_step (State.breakSequence_st ..)
    | with_reducible apply st_step (State.unstamped_st ..)

theorem State.wdgOther_st (s : State) : Steady (.free true window pairs) s s.wdgOther := by
  unfold State.wdgOther
  repeat' first
    | with_reducible exact st_refl _ | with_reducible apply st_step (State.wdgKeyFault_st ..)
    | with_reducible apply st_step (State.breakSequence_st ..)

theorem State.wdgKick_st (s : State) (w : Nat) (isSealed : Bool) : Steady (.free true window pairs) s (s.wdgKick w isSealed) := by
  unfold State.wdgKick
  repeat' first
    | with_reducible exact st_refl _ | with_reducible apply st_step (State.wdgOther_st ..)
    | with_reducible apply st_step (State.wdgLock_st ..) | with_reducible apply st_step (State.wdgEnable_st ..)
    | with_reducible apply st_step (State.wdgStart_st ..) | with_reducible apply st_step (State.wdgService_st ..)
    | with_reducible apply st_step (State.wdgDisable_st ..) | with_reducible apply st_ite | with_reducible apply st_wdgSealed
    | refine fun _ => ?_

theorem State.scanKey_st (s : State) (u : UnitIx) : Steady (.free true window pairs) s (s.scanKey u) := by
  unfold State.scanKey
  repeat' first
    | with_reducible exact st_refl _ | with_reducible apply st_step (State.unstamped_st ..)
    | with_reducible apply st_aside (State.updUnit_only ..) (by decide)
    | with_reducible apply st_aside (State.addF_only ..) (by decide) | with_reducible apply st_ite

theorem State.actLow_st (s : State) (isSealed : Bool) (a : Nat) (v : Word) (t : State)
    (e : s.actLow isSealed a v = some t) : Steady (.free true window pairs) s t := by
  revert t
  unfold State.actLow
  repeat' first
    | with_reducible exact opt_none | with_reducible refine opt_ite ?_ ?_ | with_reducible refine opt_some ?_
    | with_reducible exact st_refl _ | with_reducible apply st_ite | dsimp only
    | with_reducible apply st_step (State.recfgCommit_st ..) | with_reducible apply st_step (State.recfgCancel_st ..)
    | with_reducible apply st_aside (State.bootKey_only ..) (by decide) | with_reducible apply st_step (State.armRequest_st ..)
    | with_reducible apply st_aside (State.commission_only ..) (by decide)
    | with_reducible apply st_aside (State.writeHpCfg_only ..) (by decide)
    | with_reducible apply st_aside (State.setReg_only ..) (by decide) | with_reducible apply st_step (State.clearReq_st ..)
    | with_reducible apply st_step (State.injectKey_st ..) | with_reducible apply st_step (State.wdgKick_st ..)
    | with_reducible apply st_aside (State.powerRequest_only ..) (by decide) | with_reducible apply st_step (State.scanKey_st ..)
    | with_reducible apply st_aside (State.sessionWrite_only ..) (by decide)
    | with_reducible apply st_aside (State.pcWrite_only ..) (by decide)
    | with_reducible apply st_aside (State.joinRetry_only ..) (by decide)
    | with_reducible apply st_aside (State.writeWinSel_only ..) (by decide)
    | with_reducible apply st_aside (State.writeSyncCtrl_only ..) (by decide)

theorem State.releaseLatch_st (s : State) (c : ChIx) : Steady (.free true window pairs) s (s.releaseLatch c) := by
  unfold State.releaseLatch
  repeat' first
    | with_reducible exact st_refl _ | with_reducible apply st_aside (State.updChan_only ..) (by decide)
    | with_reducible apply st_step (State.unstamped_st ..) | with_reducible apply st_ite

theorem State.writeChFlags_st (s : State) (c : ChIx) (v : Word) : Steady (.free true window pairs) s (s.writeChFlags c v) := by
  unfold State.writeChFlags
  repeat' first
    | with_reducible exact st_refl _ | with_reducible apply st_aside (State.setReg_only ..) (by decide)
    | with_reducible apply st_step (State.releaseLatch_st ..) | with_reducible apply st_ite

theorem State.atClear_st (s : State) (c : ChIx) : Steady (.free true window pairs) s (s.atClear c) := by
  unfold State.atClear
  repeat' first
    | with_reducible exact st_refl _ | with_reducible apply st_aside (State.updChan_only ..) (by decide)
    | with_reducible apply st_step (State.unstamped_st ..)

theorem State.writeRefBuf_st (s : State) (h : HalfIx) (v : Word) : Steady (.free true window pairs) s (s.writeRefBuf h v) := by
  unfold State.writeRefBuf
  repeat' first
    | with_reducible exact st_refl _ | with_reducible apply st_aside (State.setB_only ..) (by decide)
    | with_reducible apply st_aside (State.updHalf_only ..) (by decide) | with_reducible apply st_step (State.unstamped_st ..)
    | with_reducible apply st_ite

theorem State.seqGo_st (s : State) (h : HalfIx) : Steady (.free true window pairs) s (s.seqGo h) := by
  unfold State.seqGo
  repeat' first
    | with_reducible exact st_refl _ | with_reducible apply st_aside (State.setB_only ..) (by decide)
    | with_reducible apply st_step (State.unstamped_st ..) | with_reducible apply st_aside (State.updSeq_only ..) (by decide)
    | with_reducible apply st_aside (State.addF_only ..) (by decide) | with_reducible apply st_ite

theorem State.parkEnd_st (s : State) (h : HalfIx) : Steady (.free true window pairs) s (s.parkEnd h) := by
  unfold State.parkEnd
  repeat' first
    | with_reducible exact st_refl _ | with_reducible apply st_step (State.unstamped_st ..)
    | with_reducible apply st_aside (State.updSeq_only ..) (by decide) | with_reducible apply st_ite





theorem State.haltRefused_st (s : State) (p : PairIx) : Steady (.free true window pairs) s (s.haltRefused p) := by
  unfold State.haltRefused
  repeat' first
    | with_reducible exact st_refl _ | with_reducible apply st_step (State.raise_st ..)

theorem State.blockPair_st (s : State) (p : PairIx) (cause pc : Nat) (x : Slots) (e : pairs p = false) :
    Steady (.free true window pairs) s (s.blockPair p cause pc x) := by
  unfold State.blockPair
  dsimp only
  refine st_untold e (st_ite (st_step (State.dropEmits_st ..) ?_) ?_)
  all_goals
    refine st_aside (State.dropPair_only ..) (by decide) (st_aside (State.pcTake_only ..) (by decide) (st_step (State.cutWork_st ..) ?_))
    exact st_aside (State.setF_only ..) (by decide) (st_aside (State.setB_only ..) (by decide) (st_aside (State.setF_only ..) (by decide)
      (st_aside (State.setF_only ..) (by decide) (st_aside (State.setF_only ..) (by decide) (st_aside (State.memCorr_only ..) (by decide) (st_refl s))))))

theorem State.lockstepFault_st (s : State) (p : PairIx) (cause pc sheaf : Nat) (x : Slots) (e : pairs p = false) :
    Steady (.free true window pairs) s (s.lockstepFault p cause pc sheaf x) :=
  st_step (State.raise_st ..) (s.blockPair_st p cause pc x e)

theorem bndHalt_st (s : State) (p : PairIx) : Steady (.free true window pairs) s (s.after (execBndHalt p)) := by
  refine st_ite (st_ite (State.haltRefused_st ..) ?_) (st_refl s)
  exact st_step (State.unstamped_st _) (st_updPair (fun _ => rfl) (st_refl s))

theorem bndResume_st (s : State) (p : PairIx) : Steady (.free true window pairs) s (s.after (execBndResume p)) := by
  refine st_ite (st_ite (State.haltRefused_st ..) (st_ite (st_refl s) ?_)) (st_refl s)
  exact st_step (State.unstamped_st _) (st_updPair (fun _ => rfl) (st_refl s))

theorem bndStep_st (s : State) (p : PairIx) : Steady (.free true window pairs) s (s.after (execBndStep p)) := by
  refine st_ite (st_ite (State.haltRefused_st ..) ?_) (st_refl s)
  dsimp only
  split
  · next pr c prog ctx =>
    have untold : (pairs p && p != p) = false := by simp
    refine st_busy (p := p) (by simp [ctx]) (st_ite (st_refl s) ?_)
    split
    · exact st_step (State.raise_st ..) (State.blockPair_st _ _ _ _ _ untold)
    · split
      · exact st_step (State.showPc_st ..) (st_untold untold (st_refl s))
      · exact State.lockstepFault_st _ _ _ _ _ _ untold
  · exact st_refl s

/-- A debug key waits for the boundary, or steps a pair that holds an evaluation. -/
theorem State.debugKey_st (s : State) (p : PairIx) (key : Nat) : Steady (.free true window pairs) s (s.debugKey p key) :=
  st_ite (bndHalt_st s p) (st_ite (bndResume_st s p) (st_ite (bndStep_st s p) (st_refl s)))

theorem State.actHigh_st (s : State) (a : Nat) (v : Word) (t : State)
    (e : s.actHigh a v = some t) : Steady (.free true window pairs) s t := by
  revert t
  unfold State.actHigh
  repeat' first
    | with_reducible exact opt_none | with_reducible refine opt_ite ?_ ?_ | with_reducible refine opt_some ?_
    | with_reducible exact st_refl _ | with_reducible apply st_ite | dsimp only
    | with_reducible apply st_step (State.writeChFlags_st ..) | with_reducible apply st_aside (State.uvRearm_only ..) (by decide)
    | with_reducible apply st_aside (State.fieldReset_only ..) (by decide) | with_reducible apply st_step (State.atClear_st ..)
    | with_reducible apply st_step (State.writeRefBuf_st ..) | with_reducible apply st_step (State.seqGo_st ..)
    | with_reducible apply st_step (State.parkEnd_st ..) | with_reducible apply st_aside (State.writeWmark_only ..) (by decide)
    | with_reducible apply st_step (State.debugKey_st ..)

theorem State.actWrite_st (s : State) (isSealed : Bool) (a : Nat) (v : Word) (t : State) (e : s.actWrite isSealed a v = some t) :
    Steady (.free true window pairs) s t := by
  unfold State.actWrite at e
  split at e
  · exact s.actLow_st isSealed a v t e
  · exact s.actHigh_st a v t e

theorem State.regWrite_st (s : State) (isSealed : Bool) (r : RegRow) (a : Nat) (v : Word) :
    Steady (.free true window pairs) s (s.regWrite isSealed r a v) := by
  unfold State.regWrite
  split
  · next t e => exact s.actWrite_st isSealed a v t e
  · exact st_aside (State.plainWrite_only ..) (by decide) (st_refl s)

theorem State.hostWrite_st (s : State) (isSealed : Bool) (a : Nat) (v : Word) :
    Steady (.free true window pairs) s (s.hostWrite isSealed a v).2 := by
  unfold State.hostWrite
  repeat' first
    | with_reducible exact st_refl _ | with_reducible apply st_aside (State.writeMem_only ..) (by decide)
    | with_reducible apply st_aside (State.updYk_only ..) (by decide) | with_reducible apply st_step (State.regWrite_st ..)
    | with_reducible apply st_step (State.unstamped_st ..) | with_reducible apply st_step (State.hostValue_st ..)
    | with_reducible apply st_ite | dsimp only | split

theorem State.applyForwarded_st (s : State) (x : Nat × Word × Bool) :
    Steady (.free true window pairs) s (s.applyForwarded x) := by
  unfold State.applyForwarded
  repeat' first
    | with_reducible exact st_refl _ | with_reducible apply st_step (State.refuseDebug_st ..)
    | with_reducible apply st_aside (State.setReg_only ..) (by decide) | with_reducible apply st_step (State.hostWrite_st ..)
    | with_reducible apply st_ite | split

theorem State.blockLost_st (s : State) (bad : Nat) : Steady k s (s.blockLost bad) := by
  unfold State.blockLost
  repeat' first
    | with_reducible exact st_refl _ | with_reducible apply st_only (State.stalePartner_only ..) (by decide)
    | with_reducible apply st_step (State.raise_st ..) | with_reducible apply st_addF | (clear * -; decide +revert)

theorem State.compareOut_st (s : State) (crc : Word) : Steady (.free rest window pairs) s (s.compareOut crc) := by
  unfold State.compareOut
  repeat' first
    | with_reducible exact st_refl _ | with_reducible apply st_aside (State.updYk_only ..) (by decide)
    | with_reducible apply st_step (State.raise_st ..) | with_reducible apply st_ite

theorem State.compareIn_st (s : State) (img : List Word) : Steady (.free rest window pairs) s (s.compareIn img) := by
  unfold State.compareIn
  repeat' first
    | with_reducible exact st_refl _ | with_reducible apply st_aside (State.updYk_only ..) (by decide)
    | with_reducible apply st_step (State.raise_st ..) | with_reducible apply st_ite | with_reducible apply st_foldl
    | refine fun _ => ?_

theorem State.readbackCheck_st (s : State) (img : List Word) : Steady (.free rest window pairs) s (s.readbackCheck img) := by
  unfold State.readbackCheck
  repeat' first
    | with_reducible exact st_refl _ | with_reducible apply st_aside (State.updYk_only ..) (by decide)
    | with_reducible apply st_step (State.raise_st ..) | with_reducible apply st_ite | with_reducible apply st_foldl
    | refine fun _ => ?_

theorem State.partChanged_st (s : State) (is : List (Fin 32)) (target : Nat) (dev : Word) :
    Steady (.free rest window pairs) s (s.partChanged is target dev) := by
  unfold State.partChanged
  repeat' first
    | with_reducible exact st_refl _ | with_reducible apply st_aside (State.updSlot_only ..) (by decide)
    | with_reducible apply st_aside (State.journal_only ..) (by decide) | with_reducible apply st_step (State.raise_st ..)
    | with_reducible apply st_ite | with_reducible apply st_foldl | refine fun _ => ?_

theorem State.judgePrint_st (s : State) (is : List (Fin 32)) (target : Nat) (ws : List Word) (dev : Word) (out : Bool) :
    Steady (.free rest window pairs) s (s.judgePrint is target ws dev out) := by
  unfold State.judgePrint
  repeat' first
    | with_reducible exact st_refl _ | with_reducible apply st_aside (State.updSlot_only ..) (by decide)
    | with_reducible apply st_aside (State.journalPrint_only ..) (by decide)
    | with_reducible apply st_step (State.partChanged_st ..) | with_reducible apply st_ite | with_reducible apply st_foldl
    | with_reducible apply st_whenB | refine fun _ => ?_

theorem State.partnerCompare_st (s : State) (c : ChIx) : Steady (.free rest window pairs) s (s.partnerCompare c) := by
  unfold State.partnerCompare
  repeat' first
    | with_reducible exact st_refl _ | with_reducible apply st_aside (State.adoptPrint_only ..) (by decide)
    | with_reducible apply st_step (State.judgePrint_st ..) | dsimp only | split

theorem State.partnerPrint_st (s : State) (was : Nat → Word) (c : ChIx) :
    Steady (.free rest window pairs) s (s.partnerPrint was c) := by
  unfold State.partnerPrint
  repeat' first
    | with_reducible exact st_refl _ | with_reducible apply st_aside (State.passCapture_only ..) (by decide)
    | with_reducible apply st_step (State.partnerCompare_st ..)
    | with_reducible apply st_aside (State.updPartner_only ..) (by decide) | with_reducible apply st_ite
    | with_reducible apply st_whenB | refine fun _ => ?_

theorem State.takeBlock_st (s : State) (body : List Word) : Steady (.free rest window pairs) s (s.takeBlock body) := by
  unfold State.takeBlock
  repeat' first
    | with_reducible exact st_refl _ | with_reducible apply st_step (State.compareIn_st ..)
    | with_reducible apply st_aside (State.writePartner_only ..) (by decide)
    | with_reducible apply st_aside (State.updYk_only ..) (by decide) | with_reducible apply st_step (State.readbackCheck_st ..)
    | with_reducible apply st_step (State.partnerPrint_st ..) | with_reducible apply st_step (State.compareOut_st ..)
    | with_reducible apply st_aside (State.writeRuns_only ..) (by decide)
    | with_reducible apply st_aside (State.takeRegs_only ..) (by decide)
    | with_reducible apply st_aside (State.countDisc_only ..) (by decide) | with_reducible apply st_ite
    | with_reducible apply st_foldl | refine fun _ => ?_

theorem State.partnerBlock_st (s : State) : Steady (.free rest window pairs) s s.partnerBlock := by
  unfold State.partnerBlock
  repeat' first
    | with_reducible exact st_refl _ | with_reducible apply st_step (State.takeBlock_st ..)
    | with_reducible apply st_aside (State.updYk_only ..) (by decide) | with_reducible apply st_step (State.blockLost_st ..)
    | with_reducible apply st_aside (State.stalePartner_only ..) (by decide) | with_reducible apply st_ite

theorem State.fixLength_st (s : State) (phase : Nat) : Steady (.free rest window pairs) s (s.fixLength phase) := by
  unfold State.fixLength
  repeat' first
    | with_reducible exact st_refl _ | with_reducible apply st_aside (State.setF_only ..) (by decide)
    | with_reducible apply st_aside (State.updYk_only ..) (by decide)
    | with_reducible apply st_aside (State.swathLength_only ..) (by decide)
    | with_reducible apply st_step (State.refuseJoin_st ..) | with_reducible apply st_ite | with_reducible apply st_whenB
    | refine fun _ => ?_ | dsimp only | split

end
end Sys2Proof.Machine
end

section
namespace Sys2Proof.Machine

section
variable {k : Claim} {device rest window : Bool} {pairs : PairIx → Bool} {s t u : State}

/-! ## The swath ends -/

theorem State.startTine_st (s : State) (p : PairIx) (n : Nat) (e : k.pairs p = false) : Steady k s (s.startTine p n) := by
  unfold State.startTine
  dsimp only
  split
  · exact st_refl s
  · exact st_ite (st_refl s) (st_pcPair p (by decide) (st_untold e (st_refl s)))

theorem quiet_hits : ∀ p : PairIx, quiet (F.PIPE_PAIR_CNT_HITS p.val).reg = true := by decide

theorem State.settle_st (s : State) (p : PairIx) (pr : Prog) (c : Ctx) (outcome tine r : Nat) (e : pairs p = false) :
    Steady (.loose device rest window pairs) s (s.settle p pr c outcome tine r) := by
  have last : Steady (.loose device rest window pairs) s ((s.elapse (s.btick + r)).pairLast p outcome tine r) :=
    st_step (State.pairLast_st ..) (State.elapse_st ..)
  have counted := st_ite (c := (outcome == 1) = true) (st_addF (f := F.PIPE_PAIR_CNT_HITS p.val) (n := 1) (quiet_hits p) last) last
  exact st_step (State.startTine_st _ _ _ e) (st_untold e (st_step (State.drain_st ..) (st_only (State.stackPair_only ..) (by decide) counted)))

theorem State.overrun_st (s : State) (p : PairIx) (x : Slots) (sheaf : Nat) (e : pairs p = false) :
    Steady (.loose device rest window pairs) s (s.overrun p x sheaf) := by
  refine st_step (State.startTine_st _ _ _ e) (st_step (State.raise_st ..) (st_untold e (st_step (State.cutWork_st ..) ?_)))
  exact st_step (State.causeNow_st ..) (st_step (State.pairLast_st ..) (st_step (State.memCorr_st ..) (State.elapse_st ..)))

/-- The end of an evaluation says nothing of pairs that hold none. -/
theorem State.endEvaluation_st (s : State) (p : PairIx) : Steady (.loose device true window pairs) s (s.endEvaluation p) := by
  have untold : (pairs p && p != p) = false := by simp
  unfold State.endEvaluation
  dsimp only
  split
  · next pr c prog ctx =>
    refine st_ite (st_refl s) (st_busy (p := p) (by rw [ctx]; exact nofun) (st_ite ?_ ?_))
    · exact State.settle_st _ _ _ _ _ _ _ untold
    · exact State.overrun_st _ _ _ _ untold
  · exact st_refl s

theorem State.threshEnd_st (s : State) : Steady (.loose device rest false pairs) s s.threshEnd := by
  unfold State.threshEnd
  dsimp only
  have worked : Steady (.loose device rest false pairs) s (s.elapse (s.btick + s.threshTicks)).threshWork.operationsDue.noteAllBands :=
    st_step (State.noteAllBands_st _) (st_only (State.operationsDue_only ..) (by decide) (st_step (State.threshWork_st _) (State.elapse_st ..)))
  generalize (s.elapse (s.btick + s.threshTicks)).threshWork.operationsDue.noteAllBands = t at worked
  have stacked := st_step (State.retryWrites_st _) (st_ite (c := t.isBoot = true) worked (st_only (State.stackHost_only t) (by decide) worked))
  generalize (if t.isBoot = true then t else t.stackHost).retryWrites = u at stacked
  refine st_ite (st_refl s) (st_step (State.runReads_st _) ?_)
  split
  · exact st_ite (st_only (State.prepareBale_only ..) (by decide) stacked) stacked
  · exact stacked

theorem State.endSwath_st (s : State) : Steady (.loose device true false pairs) s s.endSwath := by
  unfold State.endSwath
  dsimp only
  refine st_step (State.advance_st ..) (st_foldl (fun _ _ => State.pcIdle_st ..) (st_only (State.scansAdvance_only ..) (by decide)
    (st_foldl (fun _ _ => st_updPair (fun _ => rfl) (st_refl _)) (st_step (State.catchUp_st ..)
    (st_foldl (fun _ _ => State.endEvaluation_st ..) (st_step (State.blockSent_st _) (st_step (State.retryWrites_st _) ?_)))))))
  exact st_step (State.depositDue_st _) (State.threshEnd_st s)

/-! ## Boot ends -/

/-- The device has left BOOT for SAFE; the reactions held in BOOT suspend the guarantee. -/
def State.outOfBoot (s : State) : State :=
  let s' := s.whenB (!s.fc.heldReact.isEmpty) State.suspendReact
  ({ s' with fc := { s'.fc with heldReact := [] } } : State).enter 2

/-- The reactions held in BOOT are taken. -/
def State.takeHeld (s : State) (held : List (Nat × Nat × Bool × Word)) : State :=
  let s := held.foldl (fun s x => s.markPending x.2.1 x.2.2.1) s
  match held.find? fun x => x.1 == clsDEVICE with
  | some (_, _, _, msg) => (s.deviceSafe msg).syncFc
  | none => ({ s with fc := { s.fc with resetWait := false } } : State).syncFc

theorem leaveBoot_eq (s : State) : s.leaveBoot = s.outOfBoot.takeHeld s.fc.heldReact := rfl

theorem State.takeHeld_st (s : State) (held : List (Nat × Nat × Bool × Word)) (out : k.device = true → s.isBoot = false) :
    Steady k s (s.takeHeld held) := by
  unfold State.takeHeld
  dsimp only
  have marked : Steady k s (held.foldl (fun s x => s.markPending x.2.1 x.2.2.1) s) :=
    st_foldl (fun _ _ => st_only (State.markPending_only ..) (by decide) (st_refl _)) (st_refl s)
  split
  · exact st_step (State.syncFc_st _) (st_step (State.deviceSafe_st _ _ fun d => marked.isBoot d (out d)) marked)
  · exact st_step (State.syncFc_st _) (st_fc marked)

theorem State.outOfBoot_st (s : State) : Steady (.free rest window pairs) s s.outOfBoot :=
  st_aside (State.enter_only ..) (by decide) (st_fc (st_whenB State.suspendReact_st (st_refl s)))

/-- The dies are loaded and the sequencers restart as BOOT ends. -/
def State.loadedDies (s : State) : State := allHalves.foldl (fun (s : State) h => s.restartSeq h (s.target h)) s.loadDies

/-- The automatic request to arm (R343). -/
def State.autoRequest (s : State) : State :=
  let auto := match s.boot.image with | some i => i.autoArm | none => false
  if auto && s.isSafe then
    ({ s with boot := { s.boot with autoArm := true, armReq := some (3, s.swath) } } : State).setF F.SYS_ARM_STATUS_STATE 1
  else s

theorem finishBoot_eq (s : State) (h : s.isBoot = true) : s.finishBoot = s.loadedDies.leaveBoot.startJournal.autoRequest := by
  unfold State.finishBoot State.autoRequest State.loadedDies
  simp only [h, Bool.not_true, Bool.false_eq_true, if_false] <;> rfl

theorem State.loadedDies_st (s : State) : Steady (.loose device rest window pairs) s s.loadedDies :=
  st_foldl (fun _ _ => State.restartSeq_st ..) (State.loadDies_st s)

theorem State.autoRequest_st (s : State) : Steady k s s.autoRequest :=
  st_ite (st_setF (by decide) (st_boot rfl (st_refl s))) (st_refl s)

theorem State.finishBoot_st (s : State) : Steady (.free rest window pairs) s s.finishBoot := by
  by_cases h : s.isBoot = true
  · rw [finishBoot_eq s h, leaveBoot_eq]
    exact st_step (State.autoRequest_st _) (st_step (State.startJournal_st _) (st_step (State.takeHeld_st _ _ nofun)
      (st_step (State.outOfBoot_st _) (State.loadedDies_st s))))
  · rw [show s.finishBoot = s from if_pos (by simpa using h)]
    exact st_refl s

/-! ## The contributions -/

theorem not_refused {b : Bool} {n : Nat} {x : Except Nat CheckedSet} {c : CheckedSet} (h : (if b then .error n else x) = .ok c) :
    b = false ∧ x = .ok c := by
  cases b
  · exact ⟨rfl, h⟩
  · exact nomatch h

theorem accepted {b : Bool} {n : Nat} {c c' : CheckedSet} (h : (if b then .ok c' else .error n) = (.ok c : Except Nat CheckedSet)) :
    c' = c := by
  cases b
  · exact nomatch h
  · exact Except.ok.inj h

/-- A set that passes its check replaces sections of the routing alone (R26). -/
theorem checkSet_types {s : State} {ws : List Word} {c : CheckedSet} (h : s.checkSet ws = .ok c) :
    c.types.all routingTypes.contains = true := by
  unfold State.checkSet at h
  split at h
  · exact nomatch h
  · dsimp only at h
    split at h
    · exact nomatch h
    · split at h
      · exact nomatch h
      · obtain ⟨-, h⟩ := not_refused h
        obtain ⟨-, h⟩ := not_refused h
        obtain ⟨-, h⟩ := not_refused h
        obtain ⟨routed, h⟩ := not_refused h
        split at h
        · exact nomatch h
        · rw [← accepted h]
          simpa using routed

/-- The sections of a set are loaded. -/
def State.loadSet (s : State) (c : CheckedSet) : State :=
  let before := s
  let t := c.tables
  let lead := s.boot.lead
  let has (ty : Nat) : Bool := c.types.contains ty
  let win := allCh.map fun ch => s.reg (Reg.THR_WIN ch.val)
  let s := s.whenB (has 0x7) State.keepFolds
  let s := s.loadRegs c.types [] t.recs
  let s := s.whenB (has 0x3) fun s => allHalves.foldl (fun s h => s.retable h) (s.fixTimeout s.imageYoke)
  let s := s.whenB (has 0x4) fun s =>
    allHalves.foldl (fun s h => s.rethresh before h) ({ s with pipe := { s.pipe with oldWin := win } } : State)
  let s := s.whenB (has 0x5 || has 0x8) fun s => s.allocate (allocation s.imageYoke lead (s.yokeMode == 0) t.runs t.lists)
  let s := s.whenB (has 0x6) fun s => allCribs.foldl (fun s k => s.recrib before k) s
  let s := s.whenB (has 0x7) fun s => allSegs.foldl (fun s k => s.resegment before k) (s.loadGleaner t.descs t.posWords true)
  let s := s.whenB (has 0x5 || has 0x8) fun s => s.loadLists s.imageYoke lead t.runs t.lists
  s.whenB (has 0x9) fun s => s.loadFaults t.irqClass t.faults

/-- The set is the one in force. -/
def State.takeSet (s : State) (c : CheckedSet) : State :=
  let s := { s with boot := { s.boot with image := s.boot.image.map fun (i : Image) => { i with sections := c.sections } } }
  let s := allUnits.foldl (fun s u => if (s.cvu.get u).scan.isSome then s.scanAbandon u else s) s
  { s with pipe := { s.pipe with recfg := true } }

theorem applySet_eq (s : State) (c : CheckedSet) : s.applySet c =
    ((s.loadSet c).loadPrograms (c.tables.programs (s.loadSet c).imageYoke s.boot.lead)).takeSet c := by
  unfold State.applySet State.takeSet State.loadSet
  dsimp only

theorem State.loadSet_st (s : State) (c : CheckedSet) (e : c.types.all routingTypes.contains = true) :
    Steady (.loose device rest window pairs) s (s.loadSet c) := by
  refine st_whenB (fun _ => State.loadFaults_st ..) (st_whenB (fun _ => State.loadLists_st ..) (st_whenB (fun _ => ?gleaner)
    (st_whenB (fun _ => ?cribs) (st_whenB (fun _ => State.allocate_st ..) (st_whenB (fun _ => ?thresh) (st_whenB (fun _ => ?tables)
    (st_step (State.loadRegs_st _ _ _ _ e) (st_whenB (fun u => st_only (State.keepFolds_only u) (by decide) (st_refl u)) (st_refl s)))))))))
  case gleaner => exact st_foldl (fun _ _ => State.resegment_st ..) (State.loadGleaner_st ..)
  case cribs => exact st_foldl (fun _ _ => State.recrib_st ..) (st_refl _)
  case thresh => exact st_foldl (fun _ _ => State.rethresh_st ..) (st_pipe rfl (st_refl _))
  case tables => exact st_foldl (fun _ _ => State.retable_st ..) (State.fixTimeout_st ..)

theorem State.takeSet_st (s : State) (c : CheckedSet) : Steady k s (s.takeSet c) := by
  refine st_pipe rfl (st_foldl (fun _ _ => st_ite (State.scanAbandon_st ..) (st_refl _)) (st_boot ?_ (st_refl s)))
  cases s.boot.image <;> rfl

theorem State.applySet_st (s : State) (c : CheckedSet) (e : c.types.all routingTypes.contains = true) :
    Steady (.loose device rest window pairs) s (s.applySet c) := by
  rw [applySet_eq]
  exact st_step (State.takeSet_st ..) (st_step (State.loadPrograms_st ..) (s.loadSet_st c e))

theorem State.recfgApply_st (s : State) : Steady (.loose device rest window pairs) s s.recfgApply := by
  unfold State.recfgApply
  dsimp only
  have met : Steady (.loose device rest window pairs) s (if (((s.recfgState == 1 || s.recfgState == 2) && s.phase == 0 &&
      s.ruleStook == s.recfg.target) = true) then { s with recfg := { s.recfg with met := some s.swath } } else s) :=
    st_ite (st_recfg (st_refl s)) (st_refl s)
  generalize (if (((s.recfgState == 1 || s.recfgState == 2) && s.phase == 0 && s.ruleStook == s.recfg.target) = true) then
    { s with recfg := { s.recfg with met := some s.swath } } else s) = t at met
  refine st_ite (st_step (State.endRecfg_st ..) met) (st_ite ?_ met)
  split
  · exact st_step (State.endRecfg_st ..) met
  · next c checked =>
    exact st_setF (by decide) (st_step (State.setRecfg_st ..) (st_step (State.applySet_st _ c (checkSet_types checked)) met))

theorem State.tables_st (s : State) : Steady (.loose device rest window pairs) s s.tables :=
  st_step (State.recfgCompare_st _) (st_step (State.dropPushes_st ..) (State.recfgApply_st s))

/-- Traffic of the lead acts as unstamped writes, but counts among the causes of this swath. -/
theorem State.forwarded_st (s : State) : Steady (.free true window pairs) s s.forwarded := by
  have written : Steady (.free true window pairs) s
      (s.yk.apply.foldl (fun s x => s.applyForwarded x) (s.updYk fun y => { y with apply := [] })) :=
    st_foldl (fun _ _ => State.applyForwarded_st ..) (st_aside (State.updYk_only ..) (by decide) (st_refl s))
  unfold State.forwarded
  dsimp only
  generalize s.yk.apply.foldl (fun s x => s.applyForwarded x) (s.updYk fun y => { y with apply := [] }) = t at written
  have restored : Steady (.free true window pairs) s { t with pipe := { t.pipe with next := s.pipe.next } } :=
    ⟨nofun, written.pairs, written.pipe.prev, written.pipe.now, Nat.or_self _, written.pipe.reacted, written.pipe.window⟩
  exact st_ite (st_refl s) (st_ite (st_step (State.boundaryCause_st ..) restored) restored)

/-! ## Commits -/

/-- The copies of a commit stand, its Crib entries are published, and its held faults are raised (R239). -/
def State.publishPair (s : State) (p : PairIx) (late : Bool) : State :=
  allCribs.foldl (fun (s : State) i => s.publish i p.val) ((s.confirmPair p.val late).payOwed p)

/-- Data memory and timers are those of the commit. -/
def State.takeCommit (s : State) (p : PairIx) (c : Ctx) : State :=
  s.updPair p fun y => { y with dmem := c.dmem, timers := c.timers, commit := none }

/-- The counts, faults and check-ins of a commit are delivered. -/
def State.tellCommit (s : State) (p : PairIx) (c : Ctx) (outcome : Nat) (armed : Bool) : State :=
  let s := s.pcCommitted p.val c.slots (isReeval outcome)
  let s := s.addF (F.BND_COUNTS_DSC_LATCH p.val) c.dscLatches
  let s := s.addF (F.BND_COUNTS_SIG_OWNER p.val) (c.faults.filter fun (f : Nat × Nat) => f.1 == kSigOwner).length
  let s := c.faults.foldl (fun (s : State) (f : Nat × Nat) => s.raise (srcBND p.val) f.1 f.2) s
  s.judgeRoll p armed c.checkins c.dups

/-- The swath of a pair is over: in SAFE and HALTED it goes on no more (R259). -/
def State.commitDone (s : State) (p : PairIx) (halted : Bool) : State :=
  let stop := !s.isArmed
  let s := s.whenB (stop && !halted) fun s => s.cutWork p (s.slotsSoFar p)
  s.updPair p fun y => { y with
    judged := false, done := false, outcome := 0, tine := 15
    ctx := if stop && !y.halted then none else y.ctx, tines := if stop then [] else y.tines }

theorem applyCommit_none (s : State) (p : PairIx) (late armed : Bool) (h : (s.pairs.get p).commit = none) :
    s.applyCommit p late armed = (s.judgeRoll p armed 0#32 0#32).commitDone p (s.pairs.get p).halted := by
  unfold State.applyCommit
  dsimp only
  rw [h]
  rfl

theorem applyCommit_some (s : State) (p : PairIx) (late armed : Bool) {c : Ctx} (h : (s.pairs.get p).commit = some c) :
    s.applyCommit p late armed = (((s.publishPair p late).takeCommit p c).tellCommit p c (s.pairs.get p).outcome armed).commitDone p
      (s.pairs.get p).halted := by
  unfold State.applyCommit
  dsimp only
  rw [h]
  rfl

theorem State.publishPair_st (s : State) (p : PairIx) (late : Bool) : Steady k s (s.publishPair p late) :=
  st_foldl (fun _ _ => State.publish_st ..) (st_step (State.payOwed_st ..) (st_only (State.confirmPair_only ..) (by decide) (st_refl s)))

theorem quiet_bndCounts : ∀ p : PairIx, quiet (F.BND_COUNTS_DSC_LATCH p.val).reg = true ∧ quiet (F.BND_COUNTS_SIG_OWNER p.val).reg = true := by
  decide

theorem State.tellCommit_st (s : State) (p : PairIx) (c : Ctx) (outcome : Nat) (armed : Bool) :
    Steady k s (s.tellCommit p c outcome armed) := by
  obtain ⟨latch, owner⟩ := quiet_bndCounts p
  exact st_step (State.judgeRoll_st ..) (st_foldl (fun _ _ => State.raise_st ..) (st_addF owner (st_addF latch (State.pcCommitted_st ..))))

theorem State.commitDone_st (s : State) (p : PairIx) (halted : Bool) : Steady k s (s.commitDone p halted) := by
  refine st_pairs (fun _ x => ⟨fun _ => ⟨rfl, rfl, rfl⟩, fun _ rests => ?_⟩) (st_whenB (fun _ => State.cutWork_st ..) (st_refl s))
  dsimp only
  split
  · rfl
  · exact rests

/-- Applying a commit leaves all but its pair alone. -/
theorem State.applyCommit_st (s : State) (p : PairIx) (late armed : Bool) (e : k.pairs p = false) :
    Steady k s (s.applyCommit p late armed) := by
  cases h : (s.pairs.get p).commit with
  | none =>
    rw [applyCommit_none s p late armed h]
    exact st_step (State.commitDone_st ..) (State.judgeRoll_st ..)
  | some c =>
    rw [applyCommit_some s p late armed h]
    exact st_step (State.commitDone_st ..) (st_step (State.tellCommit_st ..) (st_untold e (State.publishPair_st ..)))

/-- The pair has taken the commit (R239). -/
def Taken (c : Ctx) (x : Pair) : Prop := x.commit = none ∧ x.dmem = c.dmem ∧ x.timers = c.timers

theorem Steady.taken {p : PairIx} {c : Ctx} (h : Steady k s t) (e : k.pairs p = true) (n : k.rest = false) (x : Taken c (s.pairs.get p)) :
    Taken c (t.pairs.get p) := by
  obtain ⟨dmem, timers, commit⟩ := (h.pairs p e).held (by simp [n])
  exact ⟨commit.trans x.1, dmem.trans x.2.1, timers.trans x.2.2⟩

theorem applyCommit_taken (s : State) (p : PairIx) (late armed : Bool) {c : Ctx} (h : (s.pairs.get p).commit = some c) :
    Taken c ((s.applyCommit p late armed).pairs.get p) := by
  rw [applyCommit_some s p late armed h]
  have rest : Steady (.free false true fun _ => true) ((s.publishPair p late).takeCommit p c)
      ((((s.publishPair p late).takeCommit p c).tellCommit p c (s.pairs.get p).outcome armed).commitDone p (s.pairs.get p).halted) :=
    st_step (State.commitDone_st ..) (State.tellCommit_st ..)
  refine rest.taken rfl rfl ?_
  unfold State.takeCommit State.updPair
  rw [Tab.get_upd_same]
  exact ⟨rfl, rfl, rfl⟩

theorem mem_allPairs : ∀ p : PairIx, p ∈ allPairs := by decide

/-- A pair that holds a commit and no evaluation has taken it when all pairs have their commits applied. -/
theorem applyCommits_taken (s : State) (p : PairIx) (late armed : Bool) {c : Ctx} (rests : (s.pairs.get p).ctx = none)
    (h : (s.pairs.get p).commit = some c) :
    Taken c ((allPairs.foldl (fun (s : State) q => s.applyCommit q late armed) s).pairs.get p) := by
  have others (xs : List PairIx) (out : p ∉ xs) (r : Bool) (u : State) :
      Steady (.free r true fun q => q == p) u (xs.foldl (fun (s : State) q => s.applyCommit q late armed) u) :=
    st_foldl_mem (fun v q m => State.applyCommit_st v q late armed (beq_false_of_ne fun e => out (e ▸ m))) (st_refl u)
  obtain ⟨before, after, split⟩ := List.append_of_mem (mem_allPairs p)
  have nodup : allPairs.Nodup := by decide
  rw [split, List.nodup_append] at nodup
  obtain ⟨-, nodup, apart⟩ := nodup
  rw [split, List.foldl_append, List.foldl_cons]
  have first := others before (fun m => apart p m p List.mem_cons_self rfl) true s
  refine (others after (List.nodup_cons.mp nodup).1 false _).taken (beq_self_eq_true p) rfl (applyCommit_taken _ p late armed ?_)
  exact ((first.pairs p (beq_self_eq_true p)).held fun _ => rests).2.2.trans h

/-- What follows the commits in their step: forces, debug keys and the entries of blocked pairs. -/
def State.afterCommits (s : State) : State :=
  let fs := s.forcesDue
  let s : State := { s with forces := fs, forceNext := none }
  let s := s.applyForces
  let s := allPairs.foldl (fun (s : State) p => s.applyDebug p) s
  allPairs.foldl (fun (s : State) p => s.staleDerived p) s

theorem commits_eq (s : State) (late armed : Bool) :
    s.commits late armed = (allPairs.foldl (fun (s : State) p => s.applyCommit p late armed) s).afterCommits := rfl

theorem State.afterCommits_st (s : State) (n : k.rest = false) : Steady k s s.afterCommits := by
  refine st_foldl (fun _ _ => st_only (State.staleDerived_only ..) (by decide) (st_refl _)) (st_foldl (fun _ _ => State.applyDebug_st _ _ n)
    (st_step (State.applyForces_st _) (st_forceNext (t := { s with forces := s.forcesDue }) (st_forces (st_refl s)))))

/-- Where nothing is said of pairs, the commits leave all else alone. -/
theorem State.commits_st (s : State) (late armed : Bool) (e : ∀ p, k.pairs p = false) (n : k.rest = false) :
    Steady k s (s.commits late armed) :=
  st_step (State.afterCommits_st _ n) (st_foldl (fun _ p => State.applyCommit_st _ _ _ _ (e p)) (st_refl s))

end
end Sys2Proof.Machine
end

section
namespace Sys2Proof.Machine

section
variable {k : Claim} {device rest window : Bool} {pairs : PairIx → Bool} {s t u : State}

/-! ## The steps of a boundary -/

/-- The swath has ended; a night handover that was not completed is abandoned. -/
def State.swathOver (s : State) : State :=
  let s := s.endSwath.ageSwath
  s.whenB s.pwr.handover.isSome State.abandonDormant

/-- The counters have taken the boundary, and what belongs to the swath that ended is put aside. -/
def State.turned (s : State) : State := ((s.countBoundary s.nextCount).turnOver s.btick).dieBoundary

/-- Step 1, after a swath that ended in `a`. -/
def State.stepOne (s a : State) (r : StookRaw) : State :=
  let s := if a.nextCount.aligned then s.endAlign else s
  if a.nextCount.isStook && !s.isBoot then
    s.closeStook r a.stook ((a.nextCount.r63 || a.nextCount.aligned) && decide (a.phase + 1 < a.kLen)) else s

/-- The boundary of R63. -/
def State.atR63 (s : State) : State := s.dropStook.applyR63.finishBoot.gleanerStart.flushBuffer

/-- Steps 2 to 6. -/
def State.stepsTwoToSix (s : State) : State :=
  let s := s.tables
  let s := s.partnerBlock.forwarded
  s.lateAtTarget s.pipe.lateB

/-- The swath begins: what waited for the boundary, its length and its budget. -/
def State.swathBegins (s a : State) : State :=
  let s := s.waiting (a.readEntry (64 + a.fld F.PWR_CFG_REQ_PAIR)).value
  let s := (s.applySyncCtrl).markBoundary a.nextCount.isStook
  (s.fixLength a.nextCount.phase).fixBudget

/-- What Field side, Gleaner, Yoke and counters take at the boundary. -/
def State.sidesFollow (s a : State) : State :=
  let s := s.fieldBoundary a.nextCount a.btick
  let s := s.gleanerBoundary (!a.glnOn)
  ((s.joinComplete).releaseNow).syncReady

/-- What is shown of the swath that ended. -/
def State.shown (s a : State) : State :=
  ((s.pcApply.guardSignal a.pipe.now a.swath).drivePulse a.nextCount.isStook).syncPwr

/-- A boundary from the end of its swath on. -/
def State.boundaryFrom (a : State) (r : StookRaw) : State :=
  let s := a.turned.stepOne a r
  let s := (if a.nextCount.r63 then s.atR63 else s).stepsTwoToSix
  (((s.commits (suspends a.pipe.now) a.isArmed).swathBegins a).sidesFollow a).shown a

theorem boundary_eq (s : State) (r : StookRaw) : s.boundary r = s.swathOver.boundaryFrom r := rfl

theorem State.swathOver_st (s : State) : Steady (.loose device true false pairs) s s.swathOver :=
  st_whenB (fun u => u.abandonDormant_st) (st_only (State.ageSwath_only ..) (by decide) (State.endSwath_st s))

/-- What a turned boundary has made of the pipeline (R48, R253). -/
structure Turned (a t : State) : Prop where
  pairs : t.pairs = a.pairs
  window : t.pipe.window = true
  prev : t.pipe.prevBtick = a.btick
  now : t.pipe.now = a.pipe.next ||| (if a.pipe.reacted then cREACTION else 0)

/-- The counters of a boundary are registers; the pipeline notes whether it is a stook boundary. -/
theorem countBoundary_regs (s : State) (n : Count) :
    OnlyChanges [.regs] { s with pipe := { s.pipe with stookB := n.isStook } } (s.countBoundary n) := by
  have placed (u : State) (i j : Nat) : OnlyChanges [.regs] u ((u.setSwath i).setBtick j) :=
    only_step (State.setBtick_only ..) (by decide) (State.setSwath_only ..)
  exact only_step (State.setF_only ..) (by decide) (only_ite (only_step (State.setStook_only ..) (by decide) (placed ..)) (placed ..))

theorem turned_turned (a : State) : Turned a a.turned := by
  have die := State.dieBoundary_only ((a.countBoundary a.nextCount).turnOver a.btick)
  have counted := countBoundary_regs a a.nextCount
  have pipe : a.turned.pipe = ((a.countBoundary a.nextCount).turnOver a.btick).pipe := die.same .pipe (by decide)
  have before : (a.countBoundary a.nextCount).pipe = { a.pipe with stookB := a.nextCount.isStook } := counted.same .pipe (by decide)
  refine ⟨(die.same .pairs (by decide)).trans (counted.same .pairs (by decide)), by rw [pipe]; rfl, by rw [pipe]; rfl, ?_⟩
  rw [pipe, State.turnOver, before]

theorem State.stepOne_st (s a : State) (r : StookRaw) : Steady (.free rest window pairs) s (s.stepOne a r) := by
  have aligned : Steady (.free rest window pairs) s (if a.nextCount.aligned then s.endAlign else s) := st_ite (State.endAlign_st s) (st_refl s)
  exact st_ite (st_aside (State.closeStook_only ..) (by decide) aligned) aligned

theorem State.atR63_st (s : State) : Steady (.free rest window pairs) s s.atR63 :=
  st_step (State.flushBuffer_st _) (st_only (State.gleanerStart_only ..) (by decide) (st_step (State.finishBoot_st _)
    (st_aside (State.applyR63_only ..) (by decide) (State.dropStook_st s))))

theorem State.stepsTwoToSix_st (s : State) : Steady (.free true window pairs) s s.stepsTwoToSix :=
  st_only (State.lateAtTarget_only ..) (by decide) (st_step (State.forwarded_st _) (st_step (State.partnerBlock_st _) (State.tables_st s)))

theorem State.swathBegins_st (s a : State) : Steady (.free rest window pairs) s (s.swathBegins a) :=
  st_step (State.fixBudget_st _) (st_step (State.fixLength_st ..) (st_only (State.markBoundary_only ..) (by decide)
    (st_step (State.applySyncCtrl_st _) (State.waiting_st s _))))

theorem State.sidesFollow_st (s a : State) : Steady (.free rest window pairs) s (s.sidesFollow a) :=
  st_step (State.syncReady_st _) (st_step (State.releaseNow_st _) (st_aside (State.joinComplete_only ..) (by decide)
    (st_step (State.gleanerBoundary_st ..) (State.fieldBoundary_st ..))))

theorem State.shown_st (s a : State) : Steady k s (s.shown a) :=
  st_step (State.syncPwr_st _) (st_only (State.drivePulse_only ..) (by decide) (st_step (State.guardSignal_st ..) (State.pcApply_st s)))

theorem or_absorbs {x y z : Nat} (h : y ||| x = y) (k : z ||| y = z) : z ||| x = z := by
  rw [← k, Nat.or_assoc, h]

/-! ## What a boundary leaves (R3, R18, R22, R239, R253) -/

/-- The steps between a turned boundary and its commits. -/
def State.beforeCommits (a : State) (r : StookRaw) : State :=
  let s := a.turned.stepOne a r
  (if a.nextCount.r63 then s.atR63 else s).stepsTwoToSix

theorem beforeCommits_st (a : State) (r : StookRaw) : Steady (.free true window pairs) a.turned (a.beforeCommits r) :=
  st_step (State.stepsTwoToSix_st _) (st_ite (st_step (State.atR63_st _) (State.stepOne_st ..)) (State.stepOne_st ..))

/-- The steps after the commits. -/
def State.afterBoundary (s a : State) : State := ((s.swathBegins a).sidesFollow a).shown a

theorem afterBoundary_st (s a : State) : Steady (.free rest window pairs) s (s.afterBoundary a) :=
  st_step (State.shown_st ..) (st_step (State.sidesFollow_st ..) (State.swathBegins_st s a))

theorem boundaryFrom_eq (a : State) (r : StookRaw) :
    a.boundaryFrom r = ((a.beforeCommits r).commits (suspends a.pipe.now) a.isArmed).afterBoundary a := rfl

/-- The pipeline from a turned boundary on. -/
theorem boundaryFrom_pipe (a : State) (r : StookRaw) : PipeStands true a.turned.pipe (a.boundaryFrom r).pipe := by
  rw [boundaryFrom_eq]
  have before := beforeCommits_st (window := true) (pairs := fun _ => false) a r
  have commits := (a.beforeCommits r).commits_st (k := .free false true fun _ => false) (suspends a.pipe.now) a.isArmed (fun _ => rfl) rfl
  have after := afterBoundary_st (rest := false) (window := true) (pairs := fun _ => false)
    ((a.beforeCommits r).commits (suspends a.pipe.now) a.isArmed) a
  exact pipeStands_trans before.pipe (pipeStands_trans commits.pipe after.pipe)

/-- A pair with a commit and no evaluation has taken its commit. -/
theorem boundary_taken (s : State) (r : StookRaw) (p : PairIx) (c : Ctx) (rests : (s.pairs.get p).ctx = none)
    (commit : (s.pairs.get p).commit = some c) : Taken c ((s.boundary r).pairs.get p) := by
  rw [boundary_eq, boundaryFrom_eq, commits_eq]
  have ended := (s.swathOver_st (device := false) (pairs := fun _ => true)).pairs p rfl
  have before := (beforeCommits_st (window := true) (pairs := fun _ => true) s.swathOver r).pairs p rfl
  rw [(turned_turned s.swathOver).pairs] at before
  have commit' := (before.held fun _ => ended.rests rfl rests).2.2.trans ((ended.held fun _ => rests).2.2.trans commit)
  have taken := applyCommits_taken _ p (suspends s.swathOver.pipe.now) s.swathOver.isArmed (before.rests rfl (ended.rests rfl rests)) commit'
  have after (u : State) : Steady (.free false true fun _ => true) u (u.afterCommits.afterBoundary s.swathOver) :=
    st_step (afterBoundary_st ..) (State.afterCommits_st _ rfl)
  exact (after _).taken rfl rfl taken

/-- The parts that the steps after the commits change. -/
def afterParts : List Part := [.regs, .mem, .sig, .env, .tb, .fc, .wdg, .pipe, .chans, .halves, .pairs, .cribs, .boot, .recfg, .cvu, .sr, .gln,
  .pwr, .yk, .hp, .perf, .free]

/-- The performance keys are done and no release of forces waits. -/
theorem boundary_keys (s : State) (r : StookRaw) : (s.boundary r).perf = 0 ∧ (s.boundary r).forceNext = none := by
  rw [boundary_eq, boundaryFrom_eq, commits_eq]
  have shown (u a : State) : OnlyChanges [.regs, .sig, .env] u.pcApply (u.shown a) :=
    only_step (State.syncPwr_only _) (by decide) (only_step (State.drivePulse_only ..) (by decide)
      (only_mono (State.guardSignal_only ..) (by decide)))
  have keys (u : State) : u.pcApply.perf = 0 := by
    rw [pcApply_eq]
    rfl
  have forces (u : State) : u.afterCommits.forceNext = none := by
    have only : OnlyChanges [.regs, .sig, .pipe, .pairs] { u with forces := u.forcesDue, forceNext := none } u.afterCommits :=
      only_foldl (fun _ _ => only_mono (State.staleDerived_only ..) (by decide))
        (only_foldl (fun _ _ => only_mono (State.applyDebug_only ..) (by decide)) (only_mono (State.applyForces_only _) (by decide)))
    exact only.same .forceNext (by decide)
  have after (u a : State) : (u.afterBoundary a).forceNext = u.forceNext := by
    have begins : OnlyChanges afterParts u (u.swathBegins a) :=
      only_step (State.fixBudget_only _) (by decide) (only_step (State.fixLength_only ..) (by decide) (only_step (State.markBoundary_only ..)
        (by decide) (only_step (State.applySyncCtrl_only _) (by decide) (only_mono (State.waiting_only ..) (by decide)))))
    have sides (v : State) : OnlyChanges afterParts v (v.sidesFollow a) :=
      only_step (State.syncReady_only _) (by decide) (only_step (State.releaseNow_only _) (by decide) (only_step (State.joinComplete_only _)
        (by decide) (only_step (State.gleanerBoundary_only ..) (by decide) (only_mono (State.fieldBoundary_only ..) (by decide)))))
    have shows (v : State) : OnlyChanges afterParts v (v.shown a) :=
      only_trans (only_mono (State.pcApply_only v) (by decide)) (only_mono (shown v a) (by decide))
    exact (only_trans (only_trans begins (sides _)) (shows _)).same .forceNext (by decide)
  exact ⟨((shown _ _).same .perf (by decide)).trans (keys _), (after _ _).trans (forces _)⟩

theorem boundary_pipe (s : State) (r : StookRaw) : (s.boundary r).pipe.window = true ∧ (s.boundary r).pipe.prevBtick = s.btick ∧
    (s.boundary r).pipe.now ||| s.pipe.next = (s.boundary r).pipe.now ∧
    (s.pipe.reacted = true → (s.boundary r).pipe.now ||| cREACTION = (s.boundary r).pipe.now) := by
  have ended := s.swathOver_st (device := true) (pairs := fun _ => true)
  have turned := turned_turned s.swathOver
  have on := boundaryFrom_pipe s.swathOver r
  rw [boundary_eq]
  have btick : s.swathOver.btick = s.btick := by
    unfold State.btick State.pairReg
    rw [(ended.device rfl).regs Reg.TB_BTICK_LO (by decide), (ended.device rfl).regs Reg.TB_BTICK_HI (by decide)]
  refine ⟨(on.window rfl).trans turned.window, on.prev.trans (turned.prev.trans btick), ?_, fun reacted => ?_⟩
  · refine or_absorbs ended.pipe.next (or_absorbs ?_ on.now)
    rw [turned.now, Nat.or_right_comm, Nat.or_self]
  · refine or_absorbs ?_ on.now
    rw [turned.now, ended.pipe.reacted reacted, if_pos rfl, Nat.or_assoc, Nat.or_self]

end
end Sys2Proof.Machine
end

section
namespace Sys2Proof.Machine

/-! ## The boundary of R63 -/

/-- No traffic of a lead waits, and no join brings any: the device is not joined, or its image has no Yoke. -/
def Alone (s : State) : Prop := s.yk.apply = [] ∧ (s.joined = false ∨ s.imageYoke = 0)

theorem alone_of_yokeMode {s : State} (h : s.yokeMode = 0) (e : s.yk.apply = []) : Alone s := by
  refine ⟨e, ?_⟩
  unfold State.yokeMode at h
  split at h
  · next refused =>
    left
    unfold State.joined
    rw [beq_iff_eq.mp refused]
    rfl
  · exact .inr h

theorem Alone.stands {strict : Bool} {s t : State} (h : Alone s) (d : DeviceStands strict s t) : Alone t :=
  ⟨d.apply h.1, h.2.imp d.joined d.yoke.trans⟩

theorem Alone.forwarded {s : State} (h : Alone s) : s.forwarded = s := by
  unfold State.forwarded
  dsimp only
  rw [h.1]
  exact if_pos rfl

theorem boot_stands {strict : Bool} {s t : State} (h : s.isBoot = true) (d : DeviceStands strict s t) : t.isBoot = true := by
  rcases d.mode with same | ⟨out, -⟩
  · unfold State.isBoot at h ⊢
    rw [same]
    exact h
  · simp [h] at out

/-- The device has left BOOT. -/
def Out (s : State) : Prop := s.fld F.SYS_STATE_STATE = 2 ∨ s.fld F.SYS_STATE_STATE = 4

theorem Out.stands {strict : Bool} {s t : State} (h : Out s) (d : DeviceStands strict s t) : Out t := by
  rcases d.mode with same | ⟨-, ends⟩
  · unfold Out
    rw [same]
    exact h
  · exact ends

/-- The swath has begun at the boundary of R63, which was boundary `n` of a stook. -/
structure FromR63 (cfg off : Word) (n : Nat) (t : State) : Prop where
  config : t.reg Reg.TB_CONFIG = cfg
  offset : t.reg Reg.SYNC_OFFSET = off
  tbNext : t.boot.tbNext = none
  phase : t.phase = 0
  stook : t.stook = n

section
variable {cfg off : Word} {n : Nat} {s t : State}

theorem FromR63.keeps (h : FromR63 cfg off n s) {K : Nat → Bool} (r : KeepsRegs K s t) (b : t.boot.tbNext = s.boot.tbNext)
    (k : [Reg.TB_CONFIG, Reg.SYNC_OFFSET, Reg.TB_PHASE, Reg.TB_STOOK_LO, Reg.TB_STOOK_HI].all K = true) : FromR63 cfg off n t := by
  simp only [List.all_cons, List.all_nil, Bool.and_true, Bool.and_eq_true] at k
  obtain ⟨config, offset, phase, lo, hi⟩ := k
  refine ⟨(r.same _ config).trans h.config, (r.same _ offset).trans h.offset, b.trans h.tbNext, (r.fld F.TB_PHASE_STOOK_PHASE phase).trans h.phase, ?_⟩
  rw [← h.stook]
  unfold State.stook State.pairReg
  rw [r.same _ lo, r.same _ hi]

theorem FromR63.stands (h : FromR63 cfg off n s) (d : DeviceStands false s t) : FromR63 cfg off n t :=
  h.keeps ⟨d.regs⟩ d.tbNext (by decide)

/-- All stands where the length of the swath is set. -/
theorem FromR63.setLength (h : FromR63 cfg off n s) (l : Nat) : FromR63 cfg off n (s.setF F.TB_PHASE_LENGTH l) := by
  have other (a : Nat) (e : a ≠ Reg.TB_PHASE) : (s.setF F.TB_PHASE_LENGTH l).reg a = s.reg a := s.reg_setReg_ne Reg.TB_PHASE a _ e
  refine ⟨(other _ (by decide)).trans h.config, (other _ (by decide)).trans h.offset, h.tbNext, ?_, ?_⟩
  · exact (s.fld_setF_ne F.TB_PHASE_LENGTH F.TB_PHASE_STOOK_PHASE l (by decide) (by decide) (by decide) (by decide)).trans h.phase
  · rw [← h.stook]
    unfold State.stook State.pairReg
    rw [other _ (by decide), other _ (by decide)]

end

/-! ## Up to the boundary of R63 -/

/-- What is said of the device alone. -/
abbrev Claim.ofDevice : Claim := .loose true false true fun _ => false

/-- BOOT goes on, an image waits for the boundary of R63, and nothing of a Yoke comes in. -/
structure WaitsForR63 (cfg off : Word) (s : State) : Prop where
  isBoot : s.isBoot = true
  tbNext : s.boot.tbNext = some (cfg, off)
  alone : Alone s
  align : s.yk.alignEnd = none

section
variable {cfg off : Word} {n : Nat} {s t : State}

theorem WaitsForR63.stands {strict : Bool} (h : WaitsForR63 cfg off s) (d : DeviceStands strict s t) : WaitsForR63 cfg off t :=
  ⟨boot_stands h.isBoot d, d.tbNext.trans h.tbNext, h.alone.stands d, d.align h.align⟩

theorem Alone.keeps (h : Alone s) {K : Nat → Bool} (r : KeepsRegs K s t) (b : t.boot = s.boot) (y : t.yk = s.yk)
    (q : K Reg.YK_STATUS = true) : Alone t := by
  refine ⟨by rw [y]; exact h.1, h.2.imp (fun e => ?_) fun e => ?_⟩
  · unfold State.joined at e ⊢
    rw [r.fld F.YK_STATUS_STATE q]
    exact e
  · unfold State.imageYoke at e ⊢
    rw [b]
    exact e

theorem WaitsForR63.keeps (h : WaitsForR63 cfg off s) {K : Nat → Bool} (r : KeepsRegs K s t) (b : t.boot = s.boot) (y : t.yk = s.yk)
    (q : (K Reg.SYS_STATE && K Reg.YK_STATUS) = true) : WaitsForR63 cfg off t := by
  simp only [Bool.and_eq_true] at q
  refine ⟨?_, by rw [b]; exact h.tbNext, h.alone.keeps r b y q.2, by rw [y]; exact h.align⟩
  have boot := h.isBoot
  unfold State.isBoot at boot ⊢
  rw [r.fld F.SYS_STATE_STATE q.1]
  exact boot

theorem WaitsForR63.count (h : WaitsForR63 cfg off s) : s.nextCount = ⟨true, false, true, 0⟩ := by
  have aligned : s.endsAligned = false := by
    unfold State.endsAligned
    rw [h.align]
    rfl
  unfold State.nextCount State.nextIsStook
  simp [aligned, h.tbNext]

theorem pairReg_setPairReg (s : State) {lo hi : Nat} (ne : lo ≠ hi) {v : Nat} (lt : v < 2 ^ 48) :
    (s.setPairReg lo hi 48 v).pairReg lo hi = v := by
  unfold State.setPairReg State.pairReg
  rw [State.reg_setReg_ne _ hi lo _ ne, State.reg_setReg_same, State.reg_setReg_same, BitVec.toNat_ofNat, BitVec.toNat_ofNat,
    Nat.mod_eq_of_lt lt]
  omega

theorem pairReg_setPairReg_ne (s : State) {lo hi a b w v : Nat} (l : a ≠ lo ∧ a ≠ hi) (g : b ≠ lo ∧ b ≠ hi) :
    (s.setPairReg lo hi w v).pairReg a b = s.pairReg a b := by
  unfold State.setPairReg State.pairReg
  rw [State.reg_setReg_ne _ hi a _ l.2, State.reg_setReg_ne _ lo a _ l.1, State.reg_setReg_ne _ hi b _ g.2, State.reg_setReg_ne _ lo b _ g.1]

/-- The registers that a stook boundary counts in. -/
def countReg (a : Nat) : Bool :=
  [Reg.TB_SWATH_LO, Reg.TB_SWATH_HI, Reg.TB_BTICK_LO, Reg.TB_BTICK_HI, Reg.TB_STOOK_LO, Reg.TB_STOOK_HI, Reg.TB_PHASE].contains a

theorem kr_setPairReg {K : Nat → Bool} {lo hi w v : Nat} (q : K lo = false) (q' : K hi = false) (h : KeepsRegs K s t) :
    KeepsRegs K s (t.setPairReg lo hi w v) := kr_setReg q' (kr_setReg q h)

/-- What counting a stook boundary leaves. -/
theorem countBoundary_stook (s : State) (r63 aligned : Bool) :
    KeepsRegs (fun a => !countReg a) s (s.countBoundary ⟨r63, aligned, true, 0⟩) ∧ (s.countBoundary ⟨r63, aligned, true, 0⟩).phase = 0 ∧
      (s.countBoundary ⟨r63, aligned, true, 0⟩).stook = (s.stook + 1) % 2 ^ 48 := by
  refine ⟨?_, State.fld_setF_same _ F.TB_PHASE_STOOK_PHASE 0 (by decide) (by decide), ?_⟩
  · exact kr_setF (by decide) (kr_setPairReg (by decide) (by decide) (kr_setPairReg (by decide) (by decide)
      (kr_setPairReg (by decide) (by decide) ((kr_refl s).kept rfl))))
  · have other (u : State) : (u.setF F.TB_PHASE_STOOK_PHASE 0).stook = u.stook := by
      unfold State.stook State.pairReg
      rw [u.reg_setF_ne F.TB_PHASE_STOOK_PHASE 0 _ (by decide), u.reg_setF_ne F.TB_PHASE_STOOK_PHASE 0 _ (by decide)]
    have before (u : State) (i j : Nat) : ((u.setSwath i).setBtick j).stook = u.stook :=
      (pairReg_setPairReg_ne _ (by decide) (by decide)).trans (pairReg_setPairReg_ne _ (by decide) (by decide))
    refine (other _).trans ((pairReg_setPairReg _ (by decide) (Nat.mod_lt _ (by decide))).trans ?_)
    rw [before]
    rfl

theorem phase_stands {strict : Bool} (d : DeviceStands strict s t) : t.phase = s.phase ∧ t.stook = s.stook := by
  unfold State.phase State.fld State.stook State.pairReg
  have clock : ∀ a ∈ [F.TB_PHASE_STOOK_PHASE.reg, Reg.TB_STOOK_LO, Reg.TB_STOOK_HI], clockReg strict a = true := by
    cases strict <;> decide
  rw [d.regs _ (clock _ (by simp)), d.regs _ (clock _ (by simp)), d.regs _ (clock _ (by simp))]
  exact ⟨rfl, rfl⟩

/-- The turned boundary of R63. -/
theorem WaitsForR63.turned (h : WaitsForR63 cfg off s) :
    WaitsForR63 cfg off s.turned ∧ s.turned.phase = 0 ∧ s.turned.stook = (s.stook + 1) % 2 ^ 48 := by
  obtain ⟨regs, phase, stook⟩ := countBoundary_stook s true false
  have only := countBoundary_regs s ⟨true, false, true, 0⟩
  have turn (u : State) (i : Nat) : DeviceStands false u ((u.turnOver i).dieBoundary) :=
    ds_step ((State.dieBoundary_st (device := true) (rest := false) (window := true) (pairs := fun _ => false) _).device rfl)
      (ds_same rfl rfl rfl nofun)
  unfold State.turned
  rw [h.count]
  obtain ⟨phase', stook'⟩ := phase_stands (turn (s.countBoundary ⟨true, false, true, 0⟩) s.btick)
  have waits := h.keeps regs (only.same .boot (by decide)) (only.same .yk (by decide)) (by decide)
  exact ⟨waits.stands (turn _ _), phase'.trans phase, stook'.trans stook⟩

/-- Nothing of step 1 is taken in BOOT, where no aligning swath ends. -/
theorem WaitsForR63.stepOne {a : State} (h : WaitsForR63 cfg off s) (r : StookRaw) (e : a.nextCount.aligned = false) : s.stepOne a r = s := by
  unfold State.stepOne
  rw [e]
  simp [h.isBoot]

/-! ## The boundary of R63 to its end -/

/-- The image's L_nom, K and SYNC_OFFSET come into force. -/
def State.takeR63 (s : State) (cfg off : Word) : State :=
  { (s.setReg Reg.TB_CONFIG cfg).setReg Reg.SYNC_OFFSET off with
    boot := { s.boot with tbNext := none }, tb := { s.tb with ctrl := s.reg Reg.SYNC_CTRL, r63 := true } }

theorem applyR63_eq (h : s.boot.tbNext = some (cfg, off)) : s.applyR63 = (s.takeR63 cfg off).whenB
    (cfg != s.reg Reg.TB_CONFIG || off != s.reg Reg.SYNC_OFFSET || s.reg Reg.SYNC_CTRL != s.tb.ctrl) State.restartLoop := by
  unfold State.applyR63
  rw [h]
  rfl

theorem takeR63_regs (s : State) (cfg off : Word) :
    KeepsRegs (fun a => a != Reg.TB_CONFIG && a != Reg.SYNC_OFFSET) s (s.takeR63 cfg off) :=
  (kr_setReg (a := Reg.SYNC_OFFSET) (v := off) (by decide) (kr_setReg (a := Reg.TB_CONFIG) (v := cfg) (by decide) (kr_refl s))).kept rfl

/-- The boundary of R63 brings L_nom, K and SYNC_OFFSET of the image (R63). -/
theorem takeR63_begun (cfg off : Word) (phase : s.phase = 0) (stook : s.stook = n) : FromR63 cfg off n (s.takeR63 cfg off) := by
  have regs := takeR63_regs s cfg off
  refine ⟨?_, State.reg_setReg_same .., rfl, (regs.fld F.TB_PHASE_STOOK_PHASE (by decide)).trans phase, ?_⟩
  · exact (State.reg_setReg_ne _ Reg.SYNC_OFFSET Reg.TB_CONFIG _ (by decide)).trans (State.reg_setReg_same ..)
  · rw [← stook]
    unfold State.stook State.pairReg
    rw [regs.same Reg.TB_STOOK_LO (by decide), regs.same Reg.TB_STOOK_HI (by decide)]

theorem WaitsForR63.applied (h : WaitsForR63 cfg off s) (phase : s.phase = 0) (stook : s.stook = n) :
    FromR63 cfg off n s.applyR63 ∧ s.applyR63.isBoot = true ∧ Alone s.applyR63 := by
  rw [applyR63_eq h.tbNext]
  have regs := takeR63_regs s cfg off
  have loop (u : State) (b : Bool) : DeviceStands false u (u.whenB b State.restartLoop) :=
    (st_whenB (k := .ofDevice) (fun u => u.restartLoop_st) (st_refl u)).device rfl
  refine ⟨(takeR63_begun cfg off phase stook).stands (loop ..), boot_stands ?_ (loop ..), Alone.stands ?_ (loop ..)⟩
  · have boot := h.isBoot
    unfold State.isBoot at boot ⊢
    rw [regs.fld F.SYS_STATE_STATE (by decide)]
    exact boot
  · refine ⟨h.alone.1, h.alone.2.imp (fun e => ?_) id⟩
    unfold State.joined at e ⊢
    rw [regs.fld F.YK_STATUS_STATE (by decide)]
    exact e

end

/-- The swath has begun at the boundary of R63, and BOOT is over. -/
structure Begun (cfg off : Word) (n : Nat) (t : State) : Prop where
  begun : FromR63 cfg off n t
  out : Out t

section
variable {cfg off : Word} {n : Nat} {s t : State}

theorem Begun.stands (h : Begun cfg off n s) (d : Steady .ofDevice s t) : Begun cfg off n t :=
  ⟨h.begun.stands (d.device rfl), h.out.stands (d.device rfl)⟩

theorem Begun.keeps (h : Begun cfg off n s) {K : Nat → Bool} (r : KeepsRegs K s t) (b : t.boot.tbNext = s.boot.tbNext)
    (k : [Reg.TB_CONFIG, Reg.SYNC_OFFSET, Reg.TB_PHASE, Reg.TB_STOOK_LO, Reg.TB_STOOK_HI].all K = true) (q : K Reg.SYS_STATE = true) :
    Begun cfg off n t := by
  refine ⟨h.begun.keeps r b k, ?_⟩
  unfold Out
  rw [r.fld F.SYS_STATE_STATE q]
  exact h.out

theorem Out.isBoot (h : Out s) : s.isBoot = false := by
  rcases h with two | four
  · exact isBoot_of_fld two (by decide)
  · exact isBoot_of_fld four (by decide)

theorem outOfBoot_begun (h : FromR63 cfg off n s) (a : Alone s) : Begun cfg off n s.outOfBoot ∧ Alone s.outOfBoot := by
  have before : Steady .ofDevice s
      { s.whenB (!s.fc.heldReact.isEmpty) State.suspendReact with
        fc := { (s.whenB (!s.fc.heldReact.isEmpty) State.suspendReact).fc with heldReact := [] } } :=
    st_fc (st_whenB State.suspendReact_st (st_refl s))
  have begun := h.stands (before.device rfl)
  have alone := a.stands (before.device rfl)
  unfold State.outOfBoot
  dsimp only
  generalize ({ s.whenB (!s.fc.heldReact.isEmpty) State.suspendReact with
        fc := { (s.whenB (!s.fc.heldReact.isEmpty) State.suspendReact).fc with heldReact := [] } } : State) = u at begun alone
  have entered : KeepsRegs (fun b => b != Reg.SYS_STATE) u (u.enter 2) := kr_setF (by decide) (kr_refl u)
  exact ⟨⟨begun.keeps entered rfl (by decide), .inl (u.fld_setF_same F.SYS_STATE_STATE 2 (by decide) (by decide))⟩,
    alone.keeps entered rfl rfl (by decide)⟩

/-- The boundary of R63 ends BOOT (R63). -/
theorem WaitsForR63.atR63 (h : WaitsForR63 cfg off s) (phase : s.phase = 0) (stook : s.stook = n) :
    Begun cfg off n s.atR63 ∧ Alone s.atR63 := by
  have dropped := (State.dropStook_st (k := .ofDevice) s).device rfl
  obtain ⟨phase', stook'⟩ := phase_stands dropped
  obtain ⟨applied, boot, alone⟩ := (h.stands dropped).applied (phase'.trans phase) (stook'.trans stook)
  unfold State.atR63
  rw [finishBoot_eq _ boot, leaveBoot_eq]
  generalize s.dropStook.applyR63 = u at applied boot alone
  have loaded : Steady .ofDevice u u.loadedDies := State.loadedDies_st u
  obtain ⟨begun, alone⟩ := outOfBoot_begun (applied.stands (loaded.device rfl)) (alone.stands (loaded.device rfl))
  have rest (v : State) (held : List (Nat × Nat × Bool × Word)) (out : v.isBoot = false) :
      Steady .ofDevice v (v.takeHeld held).startJournal.autoRequest.gleanerStart.flushBuffer :=
    st_step (State.flushBuffer_st _) (st_only (State.gleanerStart_only _) (by decide) (st_step (State.autoRequest_st _)
      (st_step (State.startJournal_st _) (State.takeHeld_st _ _ fun _ => out))))
  have on := rest u.loadedDies.outOfBoot u.loadedDies.fc.heldReact begun.out.isBoot
  exact ⟨begun.stands on, alone.stands (on.device rfl)⟩

/-- A block of a device without a Yoke in its image brings signal entries alone. -/
theorem State.takeBlock_alone (s : State) (body : List Word) (h : s.yokeMode = 0) : Steady .ofDevice s (s.takeBlock body) := by
  unfold State.takeBlock
  simp only [h, Nat.reduceBEq, Bool.false_and, Bool.false_eq_true, if_false]
  refine st_updYk rfl (st_only (State.writeRuns_only ..) (by decide) (st_foldl (fun u i => ?_) (st_refl s)))
  exact st_only (State.writePartner_only ..) (by decide) (st_refl u)

theorem Alone.yokeMode (h : Alone s) (j : s.joined = true) : s.yokeMode = 0 := by
  unfold State.yokeMode
  rw [h.2.resolve_left (by simp [j]), ite_self]

theorem Alone.partnerBlock (h : Alone s) : Steady .ofDevice s s.partnerBlock := by
  unfold State.partnerBlock
  dsimp only
  have cleared : Steady .ofDevice s (s.updYk fun y => { y with rx := [], rxBad := 0, wrote := [] }) := st_updYk rfl (st_refl s)
  have alone := h.stands (cleared.device rfl)
  generalize (s.updYk fun y => { y with rx := [], rxBad := 0, wrote := [] }) = u at cleared alone
  refine st_step ?_ cleared
  split
  · exact st_only (State.stalePartner_only u) (by decide) (st_refl u)
  · split
    · exact st_refl u
    · next joined =>
      have mode := alone.yokeMode (by simpa using joined)
      have none : (u.yokeMode == 1 && !u.boot.lead) = false := by simp [mode]
      simp only [none, Bool.false_eq_true, if_false]
      exact st_ite (State.blockLost_st ..) (State.takeBlock_alone u _ mode)

theorem Begun.stepsTwoToSix (h : Begun cfg off n s) (a : Alone s) : Begun cfg off n s.stepsTwoToSix ∧ Alone s.stepsTwoToSix := by
  have tables : Steady .ofDevice s s.tables := State.tables_st s
  have alone := a.stands (tables.device rfl)
  have block := alone.partnerBlock
  have alone := alone.stands (block.device rfl)
  unfold State.stepsTwoToSix
  dsimp only
  rw [alone.forwarded]
  have late : Steady .ofDevice s (s.tables.partnerBlock.lateAtTarget s.tables.partnerBlock.pipe.lateB) :=
    st_only (State.lateAtTarget_only ..) (by decide) (st_step block tables)
  exact ⟨h.stands late, a.stands (late.device rfl)⟩

theorem Begun.setLength (h : Begun cfg off n s) (l : Nat) : Begun cfg off n (s.setF F.TB_PHASE_LENGTH l) := by
  refine ⟨h.begun.setLength l, ?_⟩
  unfold Out State.fld
  rw [s.reg_setF_ne F.TB_PHASE_LENGTH l _ (by decide)]
  exact h.out

theorem Begun.fixLength (h : Begun cfg off n s) (phase : Nat) : Begun cfg off n (s.fixLength phase) := by
  unfold State.fixLength
  dsimp only
  have judged := h.stands (st_whenB (fun u => u.refuseJoin_st 9) (st_refl s) (b := s.yk.aligning && !s.isSafe))
  generalize (s.whenB (s.yk.aligning && !s.isSafe) fun s => s.refuseJoin 9) = u at judged
  split
  · exact (judged.setLength _).keeps (K := fun _ => true) ((kr_refl _).kept rfl) rfl (by decide) rfl
  · exact (judged.stands (st_only (State.swathLength_only u phase) (by decide) (st_refl u))).setLength _

theorem Begun.swathBegins (h : Begun cfg off n s) (a : State) : Begun cfg off n (s.swathBegins a) := by
  unfold State.swathBegins
  dsimp only
  refine ((h.stands ?_).fixLength _).stands (State.fixBudget_st _)
  exact st_only (State.markBoundary_only ..) (by decide) (st_step (State.applySyncCtrl_st _) (State.waiting_st ..))

theorem joinRoles_regs (s : State) : KeepsRegs (fun a => a != Reg.YK_STATUS) s s.joinRoles := by
  unfold State.joinRoles
  exact kr_ite (kr_refl s) (kr_ite (kr_refl s) (kr_setB (by decide) (kr_refl s)))

theorem joinComplete_regs (s : State) : KeepsRegs (fun a => a != Reg.YK_STATUS) s s.joinComplete := by
  unfold State.joinComplete
  exact kr_ite (kr_only (State.updYk_only ..) (by decide) (kr_setB (by decide) (kr_setF (by decide)
    (kr_step (joinRoles_regs _) ((kr_refl s).kept rfl))))) (kr_refl s)

theorem Begun.joinComplete (h : Begun cfg off n s) : Begun cfg off n s.joinComplete :=
  h.keeps (joinComplete_regs s) (congrArg Boot.tbNext ((State.joinComplete_only s).same .boot (by decide))) (by decide) (by decide)

theorem Begun.sidesFollow (h : Begun cfg off n s) (a : State) : Begun cfg off n (s.sidesFollow a) := by
  unfold State.sidesFollow
  dsimp only
  refine (h.stands ?_).joinComplete.stands (st_step (State.syncReady_st _) (State.releaseNow_st _))
  exact st_step (State.gleanerBoundary_st ..) (State.fieldBoundary_st ..)

/-- The boundary that BOOT waited for (R63). -/
theorem WaitsForR63.boundary (h : WaitsForR63 cfg off s) (r : StookRaw) :
    Begun cfg off ((s.stook + 1) % 2 ^ 48) (s.boundary r) := by
  have ended := (s.swathOver_st (device := true) (pairs := fun _ => true)).device rfl
  have waits := h.stands ended
  rw [boundary_eq, boundaryFrom_eq]
  have stook := (phase_stands ended).2
  generalize s.swathOver = a at waits stook
  obtain ⟨turned, phase, count⟩ := waits.turned
  obtain ⟨begun, alone⟩ := turned.atR63 phase count
  have commits (u : State) (late armed : Bool) : Steady .ofDevice u (u.commits late armed) := State.commits_st u _ _ (fun _ => rfl) rfl
  unfold State.afterBoundary State.beforeCommits
  dsimp only
  rw [turned.stepOne r (by rw [waits.count]), waits.count, ← stook]
  simp only [if_true]
  exact ((((begun.stepsTwoToSix alone).1.stands (commits ..)).swathBegins a).sidesFollow a).stands (State.shown_st ..)

end
end Sys2Proof.Machine
end

section
namespace Sys2Proof.Machine

/-! ## The two host writes of an entry (R22) -/

theorem entry_updEntry_same (s : State) (i : Nat) (f : Entry → Entry) : (s.updEntry i f).entry i = f (s.entry i) := by
  unfold State.updEntry State.setEntry State.entry
  rw [Sparse.get_put, if_pos rfl]

theorem entry_hostValue_same (s : State) (i : Nat) (w : Word) :
    (s.hostValue i w).entry i = (s.entry i).place ⟨w, 1, s.swath + 1, true, true⟩ :=
  entry_updEntry_same s i fun e => e.place ⟨w, 1, s.swath + 1, true, true⟩

/-- A stamped write yields to the unstamped one that waits for the same swath. -/
theorem Entry.deposit_unstamped (e : Entry) (v w : Word) (t : Nat) (h : e.pend = some ⟨w, 1, t, true, true⟩) : e.deposit v t = e := by
  have whole : e.resolve t = e := by simp [Entry.resolve, h]
  simp [Entry.deposit, whole, h]

theorem hostValue_then_deposit (s : State) (i : Nat) (v w : Word) :
    (((s.hostValue i w).updEntry i fun e => e.deposit v (s.swath + 1)).entry i).pend = some ⟨w, 1, s.swath + 1, true, true⟩ := by
  rw [entry_updEntry_same, entry_hostValue_same, Entry.deposit_unstamped _ v w _ rfl]
  rfl

theorem deposit_then_hostValue (s : State) (i : Nat) (v w : Word) :
    (((s.updEntry i fun e => e.deposit v (s.swath + 1)).hostValue i w).entry i).pend = some ⟨w, 1, s.swath + 1, true, true⟩ := by
  rw [entry_hostValue_same]
  rfl

/-! ## The boundary as an instruction -/

theorem exec_swathBoundary_on (r : StookRaw) (s : State) (on : s.env.pll = true) : exec (.swathBoundary r) s = .next (s.boundary r) :=
  congrArg _ (s.whenB_true (fun s => s.boundary r) on)

theorem exec_swathBoundary_off (r : StookRaw) (s : State) (off : s.env.pll = false) : exec (.swathBoundary r) s = .next s :=
  congrArg _ (s.whenB_false (fun s => s.boundary r) off)

theorem turnOver_causes (s : State) (prev : Nat) :
    (s.turnOver prev).pipe.now = s.pipe.next ||| (if s.pipe.reacted then cREACTION else 0) ∧
      (s.turnOver prev).pipe.next = 0 ∧ (s.turnOver prev).pipe.late = false ∧ (s.turnOver prev).fc.onceSeen = [] ∧
      (s.turnOver prev).pipe.lateB = suspends (s.turnOver prev).pipe.now := ⟨rfl, rfl, rfl, rfl, rfl⟩

/-- Settles O30: the steps of a boundary after its turnover only add causes and leave the window open (`Steady`), so that the kept causes
are in force at its end; a pair that rests with a commit keeps it up to step 7, which takes it, and what follows leaves it; and from the
boundary of R63 on nothing writes L_nom, K, SYNC_OFFSET and the stook, or goes back to BOOT (`Begun`). -/
theorem boundaryTurnsTheSwathOverAndBringsItsContributions :
    Obligations.BoundaryTurnsTheSwathOverAndBringsItsContributions := by
  unfold Obligations.BoundaryTurnsTheSwathOverAndBringsItsContributions
  refine ⟨fun r s => ⟨fun on => ?turns, fun off => ⟨s, exec_swathBoundary_off r s off, rfl⟩⟩, turnOver_causes,
    fun s i v w _ => ⟨hostValue_then_deposit s i v w, deposit_then_hostValue s i v w⟩,
    fun r s cfg off on mode apply align boot _ image => ?begins⟩
  case turns =>
    obtain ⟨window, prev, now, reacted⟩ := boundary_pipe s r
    obtain ⟨perf, forceNext⟩ := boundary_keys s r
    exact ⟨s.boundary r, exec_swathBoundary_on r s on, State.boundary_only s r, window, prev, perf, forceNext, now, reacted,
      fun p c => boundary_taken s r p c⟩
  case begins =>
    have waits : WaitsForR63 cfg off s := ⟨boot, image, alone_of_yokeMode mode apply, align⟩
    obtain ⟨⟨config, offset, taken, phase, stook⟩, out⟩ := waits.boundary r
    refine ⟨s.boundary r, exec_swathBoundary_on r s on, config, offset, taken, phase, stook, out.isBoot, out.imp (fun two => ?_) fun four => ?_⟩
    · exact beq_iff_eq.mpr two
    · exact beq_iff_eq.mpr four

end Sys2Proof.Machine
end

section
/-!
PROOFS. A step takes the front command, and a tick that passes without one (R22, R54; log entry 1).
-/
namespace Sys2Proof.Machine

/-! ## Counters held in two registers -/

/-- A counter reads what it was set to, cut to its width (R54). -/
theorem State.pairReg_setPairReg_same (s : State) (lo hi w v : Nat) (n : lo ≠ hi) (small : w ≤ 64) :
    (s.setPairReg lo hi w v).pairReg lo hi = v % 2 ^ w := by
  have fits : v % 2 ^ w < 2 ^ 64 :=
    Nat.lt_of_lt_of_le (Nat.mod_lt v (Nat.two_pow_pos w)) (Nat.pow_le_pow_right (by decide) small)
  unfold State.pairReg State.setPairReg
  rw [State.reg_setReg_same, State.reg_setReg_ne _ _ _ _ n, State.reg_setReg_same, BitVec.toNat_ofNat, BitVec.toNat_ofNat]
  omega

/-- A counter of other registers reads as before. -/
theorem KeepsRegs.pairReg {K : Nat → Bool} {s t : State} (h : KeepsRegs K s t) {lo hi : Nat} (l : K lo = true) (g : K hi = true) :
    t.pairReg lo hi = s.pairReg lo hi := by
  unfold State.pairReg
  rw [h.same lo l, h.same hi g]

theorem kr_pcAdd {K : Nat → Bool} {s t : State} {lo n : Nat} (q : K lo = false) (q' : K (lo + 4) = false) (h : KeepsRegs K s t) :
    KeepsRegs K s (t.pcAdd lo n) := kr_setReg q' (kr_setReg q h)

/-! ## One tick inside the swath -/

/-- Time that passes up to a tick ahead brings the tick counter there. -/
theorem advance_tick (s : State) (t : Nat) (ahead : s.tick < t) (fits : t < 2 ^ 64) : (s.advance t).tick = t := by
  have set : (s.setTick t).tick = t :=
    (s.pairReg_setPairReg_same Reg.TB_TICK_LO Reg.TB_TICK_HI 64 t (by decide) (by decide)).trans (Nat.mod_eq_of_lt fits)
  unfold State.advance
  rw [if_neg (Nat.not_le.mpr ahead)]
  dsimp only
  split
  · exact set
  · refine Eq.trans (KeepsRegs.pairReg (K := fun a => a == Reg.TB_TICK_LO || a == Reg.TB_TICK_HI) ?_ rfl rfl) set
    exact kr_pcAdd (by decide) (by decide) (kr_refl _)

theorem elapse_inside (s : State) (t : Nat) (inside : t < s.btick + s.swLen) : s.elapse t = s.advance t :=
  congrArg s.advance (Nat.min_eq_left (Nat.le_sub_one_of_lt inside))

/-- Only the tick counter counts: neither boundary nor swath number moves. -/
theorem advance_clock (s : State) (t : Nat) : (s.advance t).swath = s.swath ∧ (s.advance t).btick = s.btick := by
  have steady : Steady (.loose true true true fun _ => true) s (s.advance t) := State.advance_st s t
  have regs := (steady.device rfl).regs
  unfold State.swath State.btick State.pairReg
  rw [regs _ (by decide), regs _ (by decide), regs _ (by decide), regs _ (by decide)]
  exact ⟨rfl, rfl⟩

/-! ## A host's side that waits for nothing -/

theorem sealTo_none (s : State) (t : Nat) (none : s.hp.sending = []) : s.sealTo t = s := by
  unfold State.sealTo
  rw [none]
  exact congrArg (fun l => { s with hp := { s.hp with sending := l } }) none.symm

theorem sendTo_none (s : State) (t : Nat) (none : s.hp.sending = []) : s.sendTo t = s := by
  unfold State.sendTo
  rw [sealTo_none s t none]
  dsimp only
  rw [none]
  rfl

theorem placeDue_none (s : State) (t : Nat) (none : ∀ p, (s.pairs.get p).due = []) : s.placeDue t = s := by
  unfold State.placeDue
  simp [none]

theorem drainTo_none (s : State) (t : Nat) (none : ∀ p, (s.pairs.get p).due = []) : s.drainTo t = s := by
  unfold State.drainTo
  rw [List.foldl_fixed' fun p => ?_, placeDue_none s t none]
  split
  · exact if_neg (by simp [none])
  · rfl

theorem catchUp_none (s : State) (t : Nat) (sending : s.hp.sending = []) (due : ∀ p, (s.pairs.get p).due = []) :
    s.catchUp t = s := by
  unfold State.catchUp
  rw [sendTo_none s t sending, drainTo_none s t due]

theorem retryWrites_none (s : State) (none : s.hp.writes = []) : s.retryWrites = s := by
  unfold State.retryWrites
  rw [none]
  exact congrArg (fun l => { s with hp := { s.hp with writes := l } }) none.symm

/-! ## The step -/

theorem idle_off (s : State) (off : s.env.pll = false) : s.idle = s := if_pos (by simp [off])

/-- One tick passes inside the swath while nothing waits. -/
theorem idle_on (s : State) (on : s.env.pll = true) (writes : s.hp.writes = []) (sending : s.hp.sending = [])
    (due : ∀ p, (s.pairs.get p).due = []) (inside : s.tick + 1 < s.btick + s.swLen) : s.idle = s.advance (s.tick + 1) := by
  have only := State.advance_only s (s.tick + 1)
  have hp : (s.advance (s.tick + 1)).hp = s.hp := only.same .hp (by decide)
  have pairs : (s.advance (s.tick + 1)).pairs = s.pairs := only.same .pairs (by decide)
  unfold State.idle
  rw [if_neg (by simp [on]), elapse_inside s _ inside]
  dsimp only
  rw [catchUp_none _ _ (hp ▸ sending) (pairs ▸ due), retryWrites_none _ (hp ▸ writes)]

theorem step_front (i : Instr) (s : State) : step { s with pending := i :: s.pending } = exec i s := rfl

theorem step_empty (s : State) (empty : s.pending = []) : step s = .next s.idle := by
  unfold step
  rw [empty]

/-- Settles O56: with a command at its front the queue gives it up; with none a tick passes that reaches no boundary, and nothing that
waits stirs. -/
theorem stepTakesTheFrontCommand : Obligations.StepTakesTheFrontCommand := by
  refine ⟨step_front, fun s empty => ⟨fun off => ?stands, fun on writes sending due fits inside => ?ticks⟩⟩
  case stands => rw [step_empty s empty, idle_off s off]
  case ticks =>
    refine ⟨_, step_empty s empty, ?_⟩
    rw [idle_on s on writes sending due inside]
    exact ⟨State.advance_only .., advance_tick s _ (Nat.lt_succ_self _) fits, advance_clock s _⟩

end Sys2Proof.Machine
end

section
/-!
PROOFS. Staged reconfiguration (R25-R34): a set is committed, checked, cancelled, and logging a rejection as RECFG_REJECT changes neither
SYS_RECFG_STATUS nor the set in hand.
-/
namespace Sys2Proof.Machine

/-! ## SYS_RECFG_STATUS through a fault -/

/-- SYS_RECFG_STATUS reads as before. -/
abbrev RecfgShown (s t : State) : Prop := KeepsRegs (fun a => a == Reg.SYS_RECFG_STATUS) s t

theorem pcPairHeld_shown {s t : State} (p : PairIx) (k n : Nat) (h : RecfgShown s t) : RecfgShown s (t.pcPairHeld p.val k n) := by
  have apart : (Reg.PC_PAIR p.val (2 * k) == Reg.SYS_RECFG_STATUS) = false ∧
      (Reg.PC_PAIR p.val (2 * k) + 4 == Reg.SYS_RECFG_STATUS) = false := by
    simp only [beq_eq_false_iff_ne, Reg.PC_PAIR, Reg.SYS_RECFG_STATUS]
    omega
  exact kr_setReg apart.2 (kr_setReg apart.1 h)

theorem pcTake_shown {s t : State} (p : PairIx) (k n : Nat) (h : RecfgShown s t) : RecfgShown s (t.pcTake p.val k n) :=
  pcPairHeld_shown p _ _ (pcPairHeld_shown p _ _ h)

theorem chaffTines_shown {s t : State} (p : PairIx) (cs : List Ctx) (h : RecfgShown s t) : RecfgShown s (t.chaffTines p cs) :=
  kr_ite (pcTake_shown p _ _ h) (pcPairHeld_shown p _ _ (pcTake_shown p _ _ h))

theorem cutWork_shown (s : State) (p : PairIx) (x : Slots) : RecfgShown s (s.cutWork p x) := by
  have tines := chaffTines_shown p (s.pairs.get p).tines (kr_refl s)
  unfold State.cutWork
  dsimp only
  split
  · exact tines
  · exact kr_only (State.updPair_only ..) (by decide) (kr_ite (chaffTines_shown p _ tines) (pcTake_shown p _ _ tines))

theorem stopPairs_shown (s : State) : RecfgShown s s.stopPairs :=
  kr_foldl (fun u p => kr_ite (kr_refl u) (kr_only (State.updPair_only ..) (by decide) (cutWork_shown u p _))) (kr_refl s)

theorem disarm_shown (s : State) (mask : Nat) : RecfgShown s (s.disarm mask) := by
  have status (p : PairIx) : (Reg.BND_STATUS p.val == Reg.SYS_RECFG_STATUS) = false := by
    revert p
    decide
  unfold State.disarm
  dsimp only
  have left : RecfgShown s ((allHalves.foldl (fun (s' : State) h =>
      if mask.testBit h.val && s'.armed h.val then
        { s' with halves := s'.halves.upd h fun x => { x with disarmTick := some s.tick } }
      else s') s).setF F.SYS_STATE_ARMED_HALVES (s.fld F.SYS_STATE_ARMED_HALVES &&& (3 - mask % 4))) :=
    kr_setF (by decide) (kr_foldl (fun u _ => kr_ite ((kr_refl u).kept rfl) (kr_refl u)) (kr_refl s))
  exact kr_ite (kr_foldl (fun u p => kr_ite (kr_setF (status p) (kr_refl u)) (kr_refl u)) (kr_setF (by decide) left)) left

theorem deviceSafe_shown (s : State) (msg : Word) : RecfgShown s (s.deviceSafe msg) := by
  have halted : RecfgShown s ((((s.disarm 3).stopPairs).enter 4).setReg Reg.FC_REACT_MSG msg) :=
    kr_setReg (by decide) (kr_setF (by decide) (kr_step (stopPairs_shown _) (disarm_shown s 3)))
  unfold State.deviceSafe State.whenB
  dsimp only
  generalize (((s.disarm 3).stopPairs).enter 4).setReg Reg.FC_REACT_MSG msg = t at halted
  split <;> exact halted.kept rfl

theorem resetReact_shown (s : State) (msg : Word) : RecfgShown s (s.resetReact msg) :=
  KeepsRegs.kept (t := (s.disarm 3).setReg Reg.FC_REACT_MSG msg) (kr_setReg (by decide) (disarm_shown s 3)) rfl

theorem endDrive_shown (s : State) : RecfgShown s s.endDrive := by
  have ended : RecfgShown s (s.setB F.YK_STATUS_ACTIVE false) := kr_setB (by decide) (kr_refl s)
  exact kr_ite (ended.kept rfl) (kr_refl s)

theorem syncFc_shown (s : State) : RecfgShown s s.syncFc :=
  kr_setB (by decide) (kr_setF (by decide) (kr_setF (by decide) (kr_refl s)))

theorem react_shown (s : State) (src kind addr cls : Nat) (auto : Bool) (msg : Word) :
    RecfgShown s (s.react src kind addr cls auto msg) := by
  have latched : RecfgShown s (s.latchChannels (s.targetChannels src kind addr) src kind auto) := (kr_refl s).kept rfl
  unfold State.react
  dsimp only
  generalize s.latchChannels (s.targetChannels src kind addr) src kind auto = t at latched
  have halves : RecfgShown t (if cls ≥ clsHALF then
      (t.suspendReact.endDrive.disarm (t.targetHalves src)).markPending (t.targetHalves src) auto else t) :=
    kr_ite (kr_only (State.markPending_only ..) (by decide) (kr_step (disarm_shown ..) (kr_step (endDrive_shown _)
      (kr_only (State.suspendReact_only t) (by decide) (kr_refl t))))) (kr_refl t)
  refine kr_ite (kr_refl s) (kr_ite (kr_refl s) (kr_ite ?held ?taken))
  case held => exact kr_step (syncFc_shown _) (latched.kept rfl)
  case taken =>
    refine kr_step (syncFc_shown _) (kr_step ?_ (kr_step halves latched))
    exact kr_ite (deviceSafe_shown ..) (kr_ite (resetReact_shown ..) (kr_refl _))

/-- Logging a fault and reacting to it leaves SYS_RECFG_STATUS: the cancellation of R32 stands apart. -/
theorem raiseCore_shown (s : State) (src kind addr : Nat) (forced rehearsal : Bool) :
    RecfgShown s (s.raiseCore src kind addr forced rehearsal) := by
  have apart : (Reg.FC_SRC_CNT src == Reg.SYS_RECFG_STATUS) = false ∧
      ((F.FC_SRC_CNT_COUNT src).news.reg == Reg.SYS_RECFG_STATUS) = false := by
    simp only [beq_eq_false_iff_ne, Reg.FC_SRC_CNT, Reg.SYS_RECFG_STATUS, Fld.news, newsBase, F.FC_SRC_CNT_COUNT]
    omega
  have counted : RecfgShown s (s.countSource src kind) := kr_setF apart.1 (kr_addF apart.1 apart.2 (kr_refl s))
  unfold State.raiseCore
  split
  · exact kr_refl s
  · dsimp only
    generalize s.countSource src kind = t at counted
    exact kr_ite (counted.kept rfl) (kr_step (react_shown ..) (counted.kept rfl))

/-! ## The set in hand -/

/-- The set in hand follows SYS_RECFG_STATUS and the rejection that stands for one read (R30). -/
theorem recfgState_kept {s t : State} (shown : RecfgShown s t) (part : t.recfg = s.recfg) : t.recfgState = s.recfgState := by
  unfold State.recfgState
  rw [part, shown.fld F.SYS_RECFG_STATUS_STATE rfl]

/-- A RECFG_REJECT is told and changes nothing of the set in hand. -/
theorem reject_logged (s : State) (reason : Nat) :
    RecfgShown s (s.raiseCore srcSYS kRecfgReject reason false false) ∧
      (s.raiseCore srcSYS kRecfgReject reason false false).recfg = s.recfg ∧
      Told s.swath srcSYS kRecfgReject reason (s.raiseCore srcSYS kRecfgReject reason false false) :=
  ⟨raiseCore_shown .., (State.raiseCore_only ..).same .recfg (by decide), fun _ => has_raiseCore (by decide) false⟩

/-- STATE and REASON of SYS_RECFG_STATUS as they are set. -/
theorem recfgStatus_set (s : State) (st reason : Nat) (st' : st < 16) :
    ((s.setF F.SYS_RECFG_STATUS_STATE st).setF F.SYS_RECFG_STATUS_REASON reason).fld F.SYS_RECFG_STATUS_STATE = st ∧
      ((s.setF F.SYS_RECFG_STATUS_STATE st).setF F.SYS_RECFG_STATUS_REASON reason).fld F.SYS_RECFG_STATUS_REASON = reason % 256 := by
  refine ⟨?_, State.fld_setF_same _ _ _ (by decide) (by decide)⟩
  rw [State.fld_setF_ne _ _ _ _ (by decide) (by decide) (by decide) (by decide), State.fld_setF_same _ _ _ (by decide) (by decide)]
  exact Nat.mod_eq_of_lt st'

theorem swath_recfgStatus (s : State) (st reason : Nat) :
    ((s.setF F.SYS_RECFG_STATUS_STATE st).setF F.SYS_RECFG_STATUS_REASON reason).swath = s.swath :=
  KeepsRegs.pairReg (K := fun a => a != Reg.SYS_RECFG_STATUS) (kr_setF (by decide) (kr_setF (by decide) (kr_refl s))) rfl rfl

theorem setRecfg_state (s : State) (st reason : Nat) (st' : st < 16) :
    (s.setRecfg st reason).recfgState = st ∧ (s.setRecfg st reason).swath = s.swath := by
  cases shadow : s.recfg.shadow with
  | some earlier =>
    have set : s.setRecfg st reason = { s with recfg := { s.recfg with shadow := some (st, reason) } } := by
      unfold State.setRecfg
      rw [shadow]
    rw [set]
    exact ⟨rfl, rfl⟩
  | none =>
    have set : s.setRecfg st reason = (s.setF F.SYS_RECFG_STATUS_STATE st).setF F.SYS_RECFG_STATUS_REASON reason := by
      unfold State.setRecfg
      rw [shadow]
    rw [set]
    refine ⟨?_, swath_recfgStatus ..⟩
    unfold State.recfgState
    rw [show ((s.setF F.SYS_RECFG_STATUS_STATE st).setF F.SYS_RECFG_STATUS_REASON reason).recfg.shadow = none from shadow]
    exact (recfgStatus_set s st reason st').1

/-- A set that ends takes its state and is told (R33). -/
theorem endRecfg_spec (s : State) (st reason : Nat) (st' : st < 16) :
    (s.endRecfg st reason).recfgState = st ∧ Told s.swath srcSYS kRecfgReject reason (s.endRecfg st reason) := by
  obtain ⟨state, swath⟩ := setRecfg_state s st reason st'
  obtain ⟨shown, recfg, told⟩ := reject_logged (s.setRecfg st reason) reason
  exact ⟨(recfgState_kept shown recfg).trans state, swath ▸ told⟩

theorem endRecfg_faultParts (s : State) (st reason : Nat) : OnlyChanges faultParts s (s.endRecfg st reason) :=
  only_mono (State.endRecfg_only ..) (by decide)

/-! ## Commit (R27, R30, R33) -/

/-- A set is being checked or pending. -/
def State.setInHand (s : State) : Prop := s.recfgState = 1 ∨ s.recfgState = 2

theorem busy_iff (s : State) : (s.recfgState == 1 || s.recfgState == 2) = true ↔ s.setInHand := by
  simp [State.setInHand]

/-- What a rejected commit leaves of the set in hand: no rejection stands beside a set that is done; one in hand keeps its state. -/
def State.keptSet (s : State) : Option (Nat × Nat) :=
  if !(s.recfgState == 1 || s.recfgState == 2) then none
  else if s.recfg.shadow.isNone then some (s.recfgState, s.fld F.SYS_RECFG_STATUS_REASON) else s.recfg.shadow

theorem keptSet_done (s : State) (done : ¬ s.setInHand) : s.keptSet = none :=
  if_pos (by rw [← busy_iff] at done; simpa using done)

theorem keptSet_state (s : State) (busy : s.setInHand) : ∃ reason, s.keptSet = some (s.recfgState, reason) := by
  unfold State.keptSet
  rw [(busy_iff s).mpr busy]
  cases shadow : s.recfg.shadow with
  | none => exact ⟨_, rfl⟩
  | some earlier =>
    obtain ⟨st, reason⟩ := earlier
    exact ⟨reason, by simp [State.recfgState, shadow]⟩

/-- A rejected commit shows its reason and is told; the words of the set in hand stand. -/
theorem rejectCommit_spec (s : State) (reason : Nat) (fits : reason < 256) :
    (s.rejectCommit reason).fld F.SYS_RECFG_STATUS_STATE = 4 ∧ (s.rejectCommit reason).fld F.SYS_RECFG_STATUS_REASON = reason ∧
      (s.rejectCommit reason).recfg = { s.recfg with shadow := s.keptSet } ∧
      Told s.swath srcSYS kRecfgReject reason (s.rejectCommit reason) := by
  obtain ⟨state, why⟩ := recfgStatus_set { s with recfg := { s.recfg with shadow := s.keptSet } } 4 reason (by decide)
  have swath := swath_recfgStatus { s with recfg := { s.recfg with shadow := s.keptSet } } 4 reason
  obtain ⟨shown, recfg, told⟩ := reject_logged (({ s with recfg := { s.recfg with shadow := s.keptSet } } : State).setF
    F.SYS_RECFG_STATUS_STATE 4 |>.setF F.SYS_RECFG_STATUS_REASON reason) reason
  exact ⟨(shown.fld _ rfl).trans state, (shown.fld _ rfl).trans (why.trans (Nat.mod_eq_of_lt fits)), recfg, swath ▸ told⟩

theorem rejectCommit_faultParts (s : State) (reason : Nat) : OnlyChanges faultParts s (s.rejectCommit reason) :=
  only_mono (State.rejectCommit_only ..) (by decide)

theorem recfgCommit_stopped (s : State) (n : Nat) (stopped : s.isBoot = true ∨ s.isHalted = true) :
    s.recfgCommit n = s.rejectCommit 0x0B := if_pos (by simpa using stopped)

theorem recfgCommit_busy (s : State) (n : Nat) (boot : s.isBoot = false) (halted : s.isHalted = false) (busy : s.setInHand) :
    s.recfgCommit n = s.rejectCommit 0x0A :=
  (if_neg (by simp [boot, halted])).trans (if_pos ((busy_iff s).mpr busy))

theorem recfgCommit_free (s : State) (n : Nat) (boot : s.isBoot = false) (halted : s.isHalted = false) (free : ¬ s.setInHand) :
    s.recfgCommit n = if n == 0 || stagingWords < n then s.rejectCommit 0x01 else
      ((({ s with recfg := { words := [], target := s.targetStook, length := n, shadow := none } } : State).setF
        F.SYS_RECFG_STATUS_STATE 1).setF F.SYS_RECFG_STATUS_REASON 0).passSet n :=
  (if_neg (by simp [boot, halted])).trans (if_neg (by rwa [← busy_iff] at free))

/-- A set of a good length is in hand, its check under way (R27). -/
theorem recfgCommit_checks (s : State) (n : Nat) (boot : s.isBoot = false) (halted : s.isHalted = false) (free : ¬ s.setInHand)
    (words : 0 < n) (fits : n ≤ 32768) :
    OnlyChanges [.regs, .recfg, .yk] s (s.recfgCommit n) ∧
      (s.recfgCommit n).fld F.SYS_RECFG_STATUS_STATE = 1 ∧ (s.recfgCommit n).fld F.SYS_RECFG_STATUS_REASON = 0 ∧
      (s.recfgCommit n).recfg = { words := [], target := s.targetStook, length := n, shadow := none } := by
  have length : ¬ (n == 0 || decide (stagingWords < n)) = true := by
    rw [Bool.or_eq_true, beq_iff_eq, decide_eq_true_eq]
    exact not_or.mpr ⟨Nat.ne_of_gt words, Nat.not_lt.mpr fits⟩
  rw [recfgCommit_free s n boot halted free, if_neg length]
  have put : OnlyChanges [.regs, .recfg, .yk] s
      { s with recfg := { words := [], target := s.targetStook, length := n, shadow := none } } :=
    only_recfg (by decide) (only_refl _ s)
  generalize hu : ({ s with recfg := { words := [], target := s.targetStook, length := n, shadow := none } } : State) = u at put
  obtain ⟨state, reason⟩ := recfgStatus_set u 1 0 (by decide)
  have pass := State.passSet_only ((u.setF F.SYS_RECFG_STATUS_STATE 1).setF F.SYS_RECFG_STATUS_REASON 0) n
  have regs := pass.same .regs (by decide)
  refine ⟨?_, (fld_of_regs regs _).trans state, (fld_of_regs regs _).trans reason, ?_⟩
  · exact only_step pass (by decide) (only_step (State.setF_only ..) (by decide) (only_step (State.setF_only ..) (by decide) put))
  · exact (pass.same .recfg (by decide)).trans (hu ▸ rfl)

/-! ## Cancel (R27) -/

theorem recfgCancel_busy (s : State) (busy : s.setInHand) : s.recfgCancel = s.endRecfg 5 0x20 := if_pos ((busy_iff s).mpr busy)

theorem recfgCancel_free (s : State) (free : ¬ s.setInHand) : s.recfgCancel = s := if_neg (by rwa [← busy_iff] at free)

/-! ## Check (R27, R28, R34) -/

/-- The words of the staging area are taken for the check. -/
def State.areaTaken (s : State) : State :=
  { s with recfg := { s.recfg with words := s.readWords stagingBase s.recfg.length } }

theorem exec_recfgCheckDone_idle (s : State) (idle : s.recfgState ≠ 1) : exec .recfgCheckDone s = .next s :=
  congrArg Host.Outcome.next (if_pos (by simpa using idle))

theorem exec_recfgCheckDone (s : State) (checking : s.recfgState = 1) :
    exec .recfgCheckDone s = .next (match s.checkSet (s.readWords stagingBase s.recfg.length) with
      | .error r => s.areaTaken.endRecfg 4 r
      | .ok _ =>
        if s.recfg.target ≤ s.ruleStook then s.areaTaken.endRecfg 4 0x08
        else if s.ruleStook + 65536 < s.recfg.target then s.areaTaken.endRecfg 4 0x09
        else if s.yokeMode != 0 && s.joined && decide (s.boundariesTo s.recfg.target < 2) then s.areaTaken.endRecfg 4 0x0C
        else s.areaTaken.setRecfg 2 0) :=
  congrArg Host.Outcome.next (if_neg (by simp [checking]))

/-- A set that fails its check is rejected with its reason. -/
theorem areaTaken_rejected (s : State) (r : Nat) :
    OnlyChanges faultParts s (s.areaTaken.endRecfg 4 r) ∧ (s.areaTaken.endRecfg 4 r).recfgState = 4 ∧
      Told s.swath srcSYS kRecfgReject r (s.areaTaken.endRecfg 4 r) :=
  ⟨only_step (endRecfg_faultParts ..) (by decide) (only_recfg (by decide) (only_refl _ s)), endRecfg_spec s.areaTaken 4 r (by decide)⟩

/-- A set that passes is pending, its words and target in hand. -/
theorem areaTaken_pending (s : State) :
    OnlyChanges [.regs, .recfg] s (s.areaTaken.setRecfg 2 0) ∧ (s.areaTaken.setRecfg 2 0).recfgState = 2 ∧
      (s.areaTaken.setRecfg 2 0).recfg.words = s.readWords stagingBase s.recfg.length ∧
      (s.areaTaken.setRecfg 2 0).recfg.target = s.recfg.target := by
  have kept : (s.areaTaken.setRecfg 2 0).recfg.words = s.areaTaken.recfg.words ∧
      (s.areaTaken.setRecfg 2 0).recfg.target = s.areaTaken.recfg.target := by
    unfold State.setRecfg
    split <;> exact ⟨rfl, rfl⟩
  exact ⟨only_step (State.setRecfg_only ..) (by decide) (only_recfg (by decide) (only_refl _ s)),
    (setRecfg_state s.areaTaken 2 0 (by decide)).1, kept⟩

/-- Settles O32: a commit goes through the reasons of its rejection in the model's order, a check through those of its own; a set that
ends is logged by `raiseCore`, which leaves SYS_RECFG_STATUS and the set in hand alone. -/
theorem reconfigurationSetsAreCommittedCheckedAndCancelled :
    Obligations.ReconfigurationSetsAreCommittedCheckedAndCancelled := by
  intro s
  have commit (n : BitVec 16) (on : s.coreOn = true) : exec (.recfgCommit n) s = .next (s.recfgCommit n.toNat) := s.hostKey_on _ on
  have free (checking : s.recfgState ≠ 1) (pending : s.recfgState ≠ 2) : ¬ s.setInHand := fun busy => busy.elim checking pending
  refine ⟨fun n on boot halted checking pending => ⟨fun words fits => ?accepted, fun bad => ?length⟩, fun n on stopped => ?stopped,
    fun n on boot halted busy => ?busy, fun on busy => ?cancel, fun checking pending => ?nothing, fun idle => ?idle,
    fun checking => ⟨fun r verdict => ?fails, fun c verdict => ⟨fun late => ?past, fun far => ?far,
      fun ahead near yoke joined close => ?close, fun ahead near room => ?pends⟩⟩⟩
  case accepted =>
    obtain ⟨only, state, reason, recfg⟩ := recfgCommit_checks s n.toNat boot halted (free checking pending) words fits
    exact ⟨_, commit n on, only, state, reason, by rw [recfg], by rw [recfg], by rw [recfg]⟩
  case length =>
    have why : s.recfgCommit n.toNat = s.rejectCommit 0x01 :=
      (recfgCommit_free s _ boot halted (free checking pending)).trans (if_pos (by rwa [Bool.or_eq_true, beq_iff_eq, decide_eq_true_eq]))
    obtain ⟨state, reason, recfg, told⟩ := rejectCommit_spec s 0x01 (by decide)
    exact ⟨_, (commit n on).trans (congrArg _ why), rejectCommit_faultParts .., state, reason,
      (congrArg Recfg.shadow recfg).trans (keptSet_done s (free checking pending)), told⟩
  case stopped =>
    obtain ⟨state, reason, recfg, told⟩ := rejectCommit_spec s 0x0B (by decide)
    exact ⟨_, (commit n on).trans (congrArg _ (recfgCommit_stopped s _ stopped)), rejectCommit_faultParts .., state, reason,
      fun checking pending => (congrArg Recfg.shadow recfg).trans (keptSet_done s (free checking pending)), told⟩
  case busy =>
    obtain ⟨state, reason, recfg, told⟩ := rejectCommit_spec s 0x0A (by decide)
    obtain ⟨earlier, kept⟩ := keptSet_state s busy
    refine ⟨_, (commit n on).trans (congrArg _ (recfgCommit_busy s _ boot halted busy)), rejectCommit_faultParts .., state, reason, ?_,
      by rw [recfg], told⟩
    unfold State.recfgState
    rw [recfg, kept]
    rfl
  case cancel =>
    exact ⟨_, (s.hostKey_on _ on).trans (congrArg _ (recfgCancel_busy s busy)), endRecfg_faultParts .., endRecfg_spec s 5 0x20 (by decide)⟩
  case nothing => exact ⟨s, s.hostKey_same _ (recfgCancel_free s (free checking pending)), rfl⟩
  case idle => exact ⟨s, exec_recfgCheckDone_idle s idle, rfl⟩
  case fails => exact ⟨_, by rw [exec_recfgCheckDone s checking, verdict], areaTaken_rejected s r⟩
  case past => exact ⟨_, by rw [exec_recfgCheckDone s checking, verdict]; exact congrArg _ (if_pos late), areaTaken_rejected s 0x08⟩
  case far =>
    refine ⟨_, ?_, areaTaken_rejected s 0x09⟩
    rw [exec_recfgCheckDone s checking, verdict]
    exact congrArg _ ((if_neg (by omega)).trans (if_pos far))
  case close =>
    refine ⟨_, ?_, areaTaken_rejected s 0x0C⟩
    rw [exec_recfgCheckDone s checking, verdict]
    exact congrArg _ ((if_neg (by omega)).trans ((if_neg (by omega)).trans (if_pos (by simp [yoke, joined, close]))))
  case pends =>
    refine ⟨_, ?_, areaTaken_pending s⟩
    rw [exec_recfgCheckDone s checking, verdict]
    refine congrArg _ ((if_neg (by omega)).trans ((if_neg (by omega)).trans (if_neg ?_)))
    rcases room with yoke | joined | room
    · simp [yoke]
    · simp [joined]
    · simp [Nat.not_lt.mpr room]

end Sys2Proof.Machine
end

section
/-!
PROOFS. Stamped writes (R22, R308, R375, R376): what a transaction that ends leaves in the port's registers, the verdict on a stamped
write, and the deposits of the queue.
-/
namespace Sys2Proof.Machine

/-! ## A transaction that ends (R353, R371, R388) -/

/-- The registers of the port that show how a transaction has ended, and count those that failed. -/
def portReg (a : Nat) : Bool := a == Reg.HP_STATUS || a == Reg.HP_COUNTS || a == Reg.HP_COUNTS2

/-- A fault changes none of them. -/
theorem kr_port {s t : State} (h : FaultRegsOnly s t) : KeepsRegs portReg s t := by
  refine ⟨fun a e => h.same a ?_⟩
  simp only [portReg, Bool.or_eq_true, beq_iff_eq] at e
  rcases e with (rfl | rfl) | rfl <;> decide

theorem pcHost_port (s : State) (k n : Nat) : KeepsRegs portReg s (s.pcHost k n) := by
  have apart (a : Nat) (low : 0x1100 ≤ a) : portReg a = false := by
    simp only [portReg, Reg.HP_STATUS, Reg.HP_COUNTS, Reg.HP_COUNTS2, Bool.or_eq_false_iff, beq_eq_false_iff_ne]
    omega
  have high : 0x1100 ≤ Reg.PC_HP (2 * k) := by unfold Reg.PC_HP; omega
  exact kr_ite (kr_refl s) (kr_pcAdd (apart _ high) (apart _ (Nat.le_add_right_of_le high)) (kr_refl s))

/-- A transaction that has ended, before its status is counted. -/
def State.txNoted (s : State) (op : BitVec 8) (h : HostHdr) (code words wait : Nat) : State :=
  let s := (s.setF F.HP_STATUS_LAST_CODE code).setF F.HP_STATUS_LAST_OP op.toNat
  let s := if code == 0 then s
    else ((s.setF F.HP_LAST_ERR_CODE code).setF F.HP_LAST_ERR_ADDR h.addr.toNat).setReg Reg.HP_LAST_ERR_SWATH s.swath32
  let s := (s.pcHost 0 1).countWait wait
  if op == opREAD || op == opPOP || op == opSNAP then s.pcHost 1 words
  else if op == opSTATUS || op == opRELEASE then s else s.pcHost 2 words

theorem endTx_eq (s : State) (op : BitVec 8) (h : HostHdr) (code words : Nat) (off : Bool) (wait : Nat) :
    s.endTx op h code words off wait = (s.txNoted op h code words wait).countStatus code off := rfl

/-- After HP_STATUS nothing of these registers is written until the status is counted. -/
theorem txNoted_port (s : State) (op : BitVec 8) (h : HostHdr) (code words wait : Nat) :
    KeepsRegs portReg ((s.setF F.HP_STATUS_LAST_CODE code).setF F.HP_STATUS_LAST_OP op.toNat) (s.txNoted op h code words wait) := by
  unfold State.txNoted
  dsimp only
  generalize (s.setF F.HP_STATUS_LAST_CODE code).setF F.HP_STATUS_LAST_OP op.toNat = t
  have noted : KeepsRegs portReg t (if code == 0 then t
      else ((t.setF F.HP_LAST_ERR_CODE code).setF F.HP_LAST_ERR_ADDR h.addr.toNat).setReg Reg.HP_LAST_ERR_SWATH t.swath32) :=
    kr_ite (kr_refl t) (kr_setReg (by decide) (kr_setF (by decide) (kr_setF (by decide) (kr_refl t))))
  generalize (if code == 0 then t
      else ((t.setF F.HP_LAST_ERR_CODE code).setF F.HP_LAST_ERR_ADDR h.addr.toNat).setReg Reg.HP_LAST_ERR_SWATH t.swath32) = u at noted
  have waited : KeepsRegs portReg t ((u.pcHost 0 1).countWait wait) :=
    kr_pcAdd (by decide) (by decide) (kr_step (pcHost_port u 0 1) noted)
  exact kr_ite (kr_step (pcHost_port ..) waited) (kr_ite waited (kr_step (pcHost_port ..) waited))

theorem txNoted_only (s : State) (op : BitVec 8) (h : HostHdr) (code words wait : Nat) :
    OnlyChanges [.regs] s (s.txNoted op h code words wait) := by
  have reg {t u : State} (k : OnlyChanges [.regs] t u) (h : OnlyChanges [.regs] s t) : OnlyChanges [.regs] s u := only_trans h k
  unfold State.txNoted
  dsimp only
  have shown := reg (State.setF_only _ F.HP_STATUS_LAST_OP op.toNat) (State.setF_only s F.HP_STATUS_LAST_CODE code)
  generalize (s.setF F.HP_STATUS_LAST_CODE code).setF F.HP_STATUS_LAST_OP op.toNat = t at shown
  have noted : OnlyChanges [.regs] s (if code == 0 then t
      else ((t.setF F.HP_LAST_ERR_CODE code).setF F.HP_LAST_ERR_ADDR h.addr.toNat).setReg Reg.HP_LAST_ERR_SWATH t.swath32) :=
    only_ite shown (reg (State.setReg_only ..) (reg (State.setF_only ..) (reg (State.setF_only ..) shown)))
  have waited := reg (State.countWait_only _ wait) (reg (State.pcHost_only _ 0 1) noted)
  exact only_ite (reg (State.pcHost_only ..) waited) (only_ite waited (reg (State.pcHost_only ..) waited))

/-- HP_STATUS shows code and opcode of a transaction that has ended. -/
theorem txNoted_status (s : State) (op : BitVec 8) (h : HostHdr) (code words wait : Nat) (fits : code < 256) :
    (s.txNoted op h code words wait).fld F.HP_STATUS_LAST_CODE = code ∧
      (s.txNoted op h code words wait).fld F.HP_STATUS_LAST_OP = op.toNat := by
  rw [(txNoted_port ..).fld _ (by decide), (txNoted_port ..).fld _ (by decide)]
  constructor
  · rw [State.fld_setF_ne _ _ _ _ (by decide) (by decide) (by decide) (by decide), State.fld_setF_same _ _ _ (by decide) (by decide)]
    exact Nat.mod_eq_of_lt fits
  · rw [State.fld_setF_same _ _ _ (by decide) (by decide)]
    exact Nat.mod_eq_of_lt op.isLt

/-- The counters of the port stand until the status is counted. -/
theorem txNoted_count (s : State) (op : BitVec 8) (h : HostHdr) (code words wait : Nat) (f : Fld)
    (place : f.reg = Reg.HP_COUNTS ∨ f.reg = Reg.HP_COUNTS2) : (s.txNoted op h code words wait).fld f = s.fld f := by
  have here : portReg f.reg = true := by rcases place with e | e <;> rw [e] <;> decide
  have apart : f.reg ≠ Reg.HP_STATUS := by rcases place with e | e <;> rw [e] <;> decide
  rw [(txNoted_port ..).fld f here]
  unfold State.fld
  rw [State.reg_setF_ne _ _ _ _ apart, State.reg_setF_ne _ _ _ _ apart]

/-- A failure is counted once, with its fault told; HP_STATUS stands. -/
theorem counted_fault (s : State) (f : Fld) (kind code : Nat) (lo : f.lo ≤ f.hi) (hi : f.hi < 32)
    (place : f.reg = Reg.HP_COUNTS ∨ f.reg = Reg.HP_COUNTS2) :
    Counted s f ((s.addF f 1).hpFault kind code) ∧
      KeepsRegs (fun a => a == Reg.HP_STATUS) s ((s.addF f 1).hpFault kind code) := by
  have here : portReg f.reg = true := by rcases place with e | e <;> rw [e] <;> decide
  have apart : (f.reg == Reg.HP_STATUS) = false := by rcases place with e | e <;> rw [e] <;> decide
  have news : (f.news.reg == Reg.HP_STATUS) = false := by
    simp only [beq_eq_false_iff_ne, Fld.news, newsBase, Reg.HP_STATUS]
    omega
  have told : KeepsRegs portReg (s.addF f 1) ((s.addF f 1).hpFault kind code) := kr_port (fr_raiseOnce ..)
  constructor
  · unfold Counted
    have small : min f.top (s.fld f + 1) < 2 ^ (f.hi - f.lo + 1) :=
      Nat.lt_of_le_of_lt (Nat.min_le_left ..) (Nat.sub_lt (Nat.two_pow_pos _) Nat.one_pos)
    rw [told.fld f here]
    have held : (s.addF f 1).fld f = (s.setF f (min (s.fld f + 1) f.top)).fld f :=
      State.fld_setReg_ne _ _ _ f (Nat.ne_of_lt (Nat.lt_add_of_pos_right (by decide)))
    rw [held, State.fld_setF_same _ _ _ lo hi, Nat.min_comm, Nat.mod_eq_of_lt small]
  · exact kr_step ⟨fun a e => told.same a (by simp_all [portReg])⟩ (kr_addF apart news (kr_refl s))

/-- A transaction without seal that ends with a full response: body and status word, in HP_STATUS its code and opcode. -/
theorem fullTx_plain (s : State) (op : BitVec 8) (h : HostHdr) (id : Word) (code words : Nat) (off : Bool) (wait : Nat)
    (body : List Word) (plain : h.isSealed = false) :
    s.fullTx op h id code words off wait body
      = ((s.respond op h id false code words body none).txNoted op h code words wait).countStatus code off := by
  unfold State.fullTx State.sealNow
  rw [plain]
  rfl

theorem respond_resp (s : State) (op : BitVec 8) (h : HostHdr) (id : Word) (code words : Nat) (body : List Word) :
    (s.respond op h id false code words body none).hp
      = { s.hp with short := false, resp := body ++ [BitVec.ofNat 32 (code * 2 ^ 24 + words)] } := rfl

/-- What counts the status leaves of the response. -/
theorem fullTx_responded (s t : State) (op : BitVec 8) (h : HostHdr) (id : Word) (code words wait : Nat) (body : List Word)
    (fits : code < 256) (hp : t.hp = ((s.respond op h id false code words body none).txNoted op h code words wait).hp)
    (status : KeepsRegs (fun a => a == Reg.HP_STATUS) ((s.respond op h id false code words body none).txNoted op h code words wait) t) :
    Responded op code words body t := by
  have resp := (hp.trans ((txNoted_only ..).same .hp (by decide))).trans (respond_resp s op h id code words body)
  obtain ⟨lastCode, lastOp⟩ := txNoted_status (s.respond op h id false code words body none) op h code words wait fits
  exact ⟨by rw [resp], by rw [resp], (status.fld _ rfl).trans lastCode, (status.fld _ rfl).trans lastOp⟩

/-- A transaction that succeeds raises nothing. -/
theorem fullTx_ok (s : State) (op : BitVec 8) (h : HostHdr) (id : Word) (words wait : Nat) (body : List Word)
    (plain : h.isSealed = false) :
    Responded op 0 words body (s.fullTx op h id 0 words false wait body) ∧
      OnlyChanges [.regs, .hp] s (s.fullTx op h id 0 words false wait body) := by
  rw [fullTx_plain s op h id 0 words false wait body plain]
  change Responded op 0 words body ((s.respond op h id false 0 words body none).txNoted op h 0 words wait) ∧
    OnlyChanges [.regs, .hp] s ((s.respond op h id false 0 words body none).txNoted op h 0 words wait)
  exact ⟨fullTx_responded s _ op h id 0 words wait body (by decide) rfl (kr_refl _),
    only_step (txNoted_only ..) (by decide) (only_mono (State.respond_only ..) (by decide))⟩

/-- A transaction that fails with a code that is counted in a field of its own, and told. -/
theorem fullTx_counted (s : State) (op : BitVec 8) (h : HostHdr) (id : Word) (code kind wait : Nat) (f : Fld)
    (plain : h.isSealed = false) (fits : code < 256) (lo : f.lo ≤ f.hi) (hi : f.hi < 32)
    (place : f.reg = Reg.HP_COUNTS ∨ f.reg = Reg.HP_COUNTS2)
    (counts : ∀ t : State, t.countStatus code false = (t.addF f 1).hpFault kind code) :
    Responded op code 0 [] (s.fullTx op h id code 0 false wait []) ∧ Counted s f (s.fullTx op h id code 0 false wait []) := by
  rw [fullTx_plain s op h id code 0 false wait [] plain, counts]
  have hp (t : State) : ((t.addF f 1).hpFault kind code).hp = t.hp :=
    ((State.hpFault_only ..).same .hp (by decide)).trans ((State.addF_only ..).same .hp (by decide))
  obtain ⟨counted, status⟩ := counted_fault ((s.respond op h id false code 0 [] none).txNoted op h code 0 wait) f kind code lo hi place
  refine ⟨fullTx_responded s _ op h id code 0 wait [] fits (hp _) status, counted.trans ?_⟩
  rw [txNoted_count _ op h code 0 wait f place]
  rfl

/-! ## A transaction that is accepted (R371, R375) -/

/-- A transaction of a known opcode that is not refused as a whole begins with the lane and flow of its falling edge. -/
theorem transact_accepted (s : State) (op : BitVec 8) (h : HostHdr) (stamp ws : List Word) (f : Word → State → State)
    (acc : Accepts s op h) (knows : reservedOp op = false) (bench : s.takeLane.benchCode op = false) :
    s.transact op h stamp ws false false f = f 0#32 s.takeLane := by
  obtain ⟨port, ready, own, good, plain⟩ := acc
  have head : s.takeLane.headerBad op h = false := by simp [State.headerBad, good, own, knows]
  unfold State.transact
  rw [if_neg (by simp [port])]
  dsimp only
  rw [ready, own, if_neg (by simp [head]), plain]
  exact if_neg (by simp [bench])

/-- The addresses of a stamped write all stand on word 0 of a host command entry (R375). -/
def State.stampable (s : State) (a : Nat) : Prop := ∃ i, a = signalBase + 32 * i ∧ i < 131072 ∧ s.isHostEntry i = true

theorem stampable_allowed (s : State) (a : Nat) (h : s.stampable a) :
    (decide (signalBase ≤ a) && decide (a < loftBase) && (a - signalBase) % 32 == 0 && s.isHostEntry ((a - signalBase) / 32)) = true := by
  obtain ⟨i, rfl, small, host⟩ := h
  have step : signalBase + 32 * i - signalBase = 32 * i := Nat.add_sub_cancel_left ..
  have below : signalBase + 32 * i < loftBase := by
    simp only [signalBase, loftBase]
    omega
  simp [step, below, host]

/-- What the verdict makes of a stamped write (R375). -/
def State.stampEnd (s : State) (h : HostHdr) (ws : List Word) (target : Nat) : State :=
  if s.stampVerdict target h.n == 0 then
    (s.takeLane.enqueue target (((hdrAddrs h opSTAMP).map fun a => (a - signalBase) / 32).zip ws)).fullTx opSTAMP h 0#32 0 h.n false 0 []
  else s.takeLane.fullTx opSTAMP h 0#32 (s.stampVerdict target h.n) 0 false 0 []

/-- Up to its verdict a good stamped write meets no refusal (R371, R375). -/
theorem exec_stampWrite (s : State) (h : HostHdr) (stamp : BitVec 64) (ws : List Word) (target : Nat)
    (is : target = (stamp.extractLsb' 8 48).toNat) (acc : Accepts s opSTAMP h) (crc : crc8Of stamp = stamp.extractLsb' 0 8)
    (near : target ≤ s.swath + 65536) (count : ws.length = h.n) (addrs : (hdrAddrs h opSTAMP).length = h.n)
    (entries : ∀ a ∈ hdrAddrs h opSTAMP, s.stampable a) :
    exec (.stampWrite h stamp ws) s = .next (s.stampEnd h ws target) := by
  subst is
  have bad : (crc8Of stamp != stamp.extractLsb' 0 8 || decide (s.swath + 65536 < (stamp.extractLsb' 8 48).toNat)) = false := by
    rw [crc, bne_self_eq_false, Bool.false_or]
    exact decide_eq_false (Nat.not_lt.mpr near)
  have denied : (decide ((hdrAddrs h opSTAMP).length < h.n) || (hdrAddrs h opSTAMP).any fun a =>
      !(decide (signalBase ≤ a) && decide (a < loftBase) && (a - signalBase) % 32 == 0 && s.isHostEntry ((a - signalBase) / 32))) = false := by
    rw [addrs, Bool.or_eq_false_iff, List.any_eq_false]
    exact ⟨by simp, fun a there => by rw [stampable_allowed s a (entries a there)]; decide⟩
  refine congrArg Host.Outcome.next ((if_neg (by simp [count])).trans ?_)
  dsimp only
  rw [← count, List.take_length, count, bad, denied, transact_accepted s opSTAMP h _ _ _ acc (by decide) rfl]
  rfl

theorem stampVerdict_late (s : State) (t n : Nat) (late : t ≤ s.swath) : s.stampVerdict t n = 3 := if_pos late

/-- Two swaths ahead and more only the room counts. -/
theorem stampVerdict_ahead (s : State) (t n : Nat) (ahead : s.swath + 1 < t) :
    s.stampVerdict t n = if 64 < s.queue.length + n then 9 else 0 := by
  have next : (t == s.swath + 1) = false := beq_false_of_ne (Nat.ne_of_gt ahead)
  unfold State.stampVerdict
  rw [if_neg (by omega), next]
  rfl

/-- Stamped writes have taken their places in the queue. -/
def State.queued (s : State) (t : Nat) (xs : List (Nat × Word)) : State :=
  { s with queue := s.queue ++ xs.map fun (x : Nat × Word) => QueuedWrite.mk x.1 x.2 t }

/-- Writes that are not yet due wait in the queue, in order. -/
theorem enqueue_ahead (s : State) (t : Nat) (xs : List (Nat × Word)) (ahead : s.swath + 1 < t) :
    s.enqueue t xs = (s.queued t xs).pcHost 4 xs.length := by
  have clock : ((s.queued t xs).pcHost 4 xs.length).swath = s.swath := by
    have kept : KeepsRegs (fun a => a == Reg.TB_SWATH_LO || a == Reg.TB_SWATH_HI) (s.queued t xs) ((s.queued t xs).pcAdd (Reg.PC_HP 8) xs.length) :=
      kr_pcAdd (by decide) (by decide) (kr_refl _)
    exact KeepsRegs.pairReg (kr_ite (kr_refl (s.queued t xs)) kept) rfl rfl
  refine if_neg ?_
  change ¬ (!((s.queued t xs).pcHost 4 xs.length).pipe.window && t == ((s.queued t xs).pcHost 4 xs.length).swath + 1) = true
  rw [clock, beq_false_of_ne (Nat.ne_of_gt ahead)]
  simp

section
variable {s : State} {h : HostHdr} {stamp : BitVec 64} {ws : List Word} {target : Nat}

/-- A verdict other than OK is counted and told, and the queue stands. -/
theorem stampEnd_fails (plain : h.isSealed = false) (code kind : Nat) (f : Fld) (verdict : s.stampVerdict target h.n = code)
    (nonzero : code ≠ 0) (fits : code < 256) (lo : f.lo ≤ f.hi) (hi : f.hi < 32)
    (place : f.reg = Reg.HP_COUNTS ∨ f.reg = Reg.HP_COUNTS2)
    (counts : ∀ t : State, t.countStatus code false = (t.addF f 1).hpFault kind code) :
    OnlyChanges portParts s (s.stampEnd h ws target) ∧ Responded opSTAMP code 0 [] (s.stampEnd h ws target) ∧
      Counted s f (s.stampEnd h ws target) ∧ (s.stampEnd h ws target).queue = s.queue := by
  have ends : s.stampEnd h ws target = s.takeLane.fullTx opSTAMP h 0#32 code 0 false 0 [] := by
    unfold State.stampEnd
    rw [verdict, if_neg (by simp [nonzero])]
  obtain ⟨resp, counted⟩ := fullTx_counted s.takeLane opSTAMP h 0#32 code kind 0 f plain fits lo hi place counts
  have only := State.fullTx_only s.takeLane opSTAMP h 0#32 code 0 false 0 []
  rw [ends]
  exact ⟨only_step only (by decide) (only_mono (State.takeLane_only s) (by decide)), resp, counted, only.same .queue (by decide)⟩

theorem map_zip_map {α β γ δ : Type} (xs : List α) (ys : List β) (g : α → γ) (f : γ → β → δ) :
    ((xs.map g).zip ys).map (fun x => f x.1 x.2) = (xs.zip ys).map fun x => f (g x.1) x.2 := by
  rw [List.zip_map_left, List.map_map]
  rfl

/-- A stamped write two swaths ahead and more, for which there is room, waits. -/
theorem stampEnd_waits (plain : h.isSealed = false) (ahead : s.swath + 1 < target) (room : s.queue.length + h.n ≤ 64) :
    OnlyChanges [.regs, .hp, .queue] s (s.stampEnd h ws target) ∧ Responded opSTAMP 0 h.n [] (s.stampEnd h ws target) ∧
      (s.stampEnd h ws target).queue
        = s.queue ++ ((hdrAddrs h opSTAMP).zip ws).map fun x => ⟨(x.1 - signalBase) / 32, x.2, target⟩ := by
  have ends : s.stampEnd h ws target = (s.takeLane.enqueue target
      (((hdrAddrs h opSTAMP).map fun a => (a - signalBase) / 32).zip ws)).fullTx opSTAMP h 0#32 0 h.n false 0 [] := by
    unfold State.stampEnd
    rw [stampVerdict_ahead s target h.n ahead, if_neg (Nat.not_lt.mpr room)]
    exact if_pos rfl
  rw [ends, enqueue_ahead s.takeLane target _ ahead]
  generalize zipped : ((hdrAddrs h opSTAMP).map fun a => (a - signalBase) / 32).zip ws = xs
  have queued : OnlyChanges [.regs, .hp, .queue] s (s.takeLane.queued target xs) :=
    only_queue (by decide) (only_mono (State.takeLane_only s) (by decide))
  have counted := State.pcHost_only (s.takeLane.queued target xs) 4 xs.length
  obtain ⟨resp, sent⟩ := fullTx_ok ((s.takeLane.queued target xs).pcHost 4 xs.length) opSTAMP h 0#32 h.n 0 [] plain
  refine ⟨only_step sent (by decide) (only_step counted (by decide) queued), resp, ?_⟩
  refine ((sent.same .queue (by decide)).trans (counted.same .queue (by decide))).trans (congrArg (s.queue ++ ·) ?_)
  exact zipped ▸ map_zip_map (hdrAddrs h opSTAMP) ws (fun a => (a - signalBase) / 32) fun i v => QueuedWrite.mk i v target

end

/-! ## Deposits (R308, R376) -/

/-- The deposits of an entry, in order. -/
def Entry.deposits (e : Entry) (qs : List QueuedWrite) : Entry := qs.foldl (fun e q => e.deposit q.value q.target) e

/-- The writes of a list that all stand on host entries, deposited in order. -/
def State.deposits (s : State) (qs : List QueuedWrite) : State :=
  qs.foldl (fun s q => s.updEntry q.index fun e => e.deposit q.value q.target) s

theorem entry_updEntry (s : State) (i j : Nat) (f : Entry → Entry) :
    (s.updEntry i f).entry j = if j = i then f (s.entry i) else s.entry j := Sparse.get_put ..

/-- Each entry takes the deposits on it, and no other. -/
theorem entry_deposits (s : State) (qs : List QueuedWrite) (i : Nat) :
    (s.deposits qs).entry i = (s.entry i).deposits (qs.filter fun q => q.index == i) := by
  induction qs generalizing s with
  | nil => rfl
  | cons q qs ih =>
    refine (ih _).trans ?_
    rw [entry_updEntry, List.filter_cons]
    by_cases same : i = q.index
    · subst same
      simp [Entry.deposits]
    · simp [same, Ne.symm same]

theorem Entry.readFor_src (e : Entry) (n : Word) : (e.readFor n).src = e.src := by
  unfold Entry.readFor
  split
  · rfl
  · split <;> rfl

theorem Entry.resolve_src (e : Entry) (t : Nat) : (e.resolve t).src = e.src := by
  unfold Entry.resolve
  split
  · rfl
  · split
    · split
      · exact Entry.readFor_src ..
      · rfl
    · rfl

/-- A deposit leaves the source of its entry. -/
theorem Entry.deposit_src (e : Entry) (v : Word) (t : Nat) : (e.deposit v t).src = e.src := by
  unfold Entry.deposit
  split
  · split <;> exact e.resolve_src t
  · exact e.resolve_src t

theorem isHostEntry_deposit (s : State) (q : QueuedWrite) (i : Nat) :
    (s.updEntry q.index fun e => e.deposit q.value q.target).isHostEntry i = s.isHostEntry i := by
  unfold State.isHostEntry Entry.cls
  rw [entry_updEntry]
  split
  · next same => rw [Entry.deposit_src, same]
  · rfl

/-- A deposit on an entry without a copy places one. -/
theorem Entry.deposit_fresh (e : Entry) (v : Word) (t : Nat) (none : e.pend = none) :
    (e.deposit v t).pend = some ⟨v, 1, t, false, true⟩ := by
  have whole : e.resolve t = e := by simp [Entry.resolve, none]
  simp [Entry.deposit, whole, none, Entry.place]

/-- The same deposit once more changes nothing of the copy. -/
theorem Entry.deposit_again (e : Entry) (v : Word) (t : Nat) (same : e.pend = some ⟨v, 1, t, false, true⟩) :
    (e.deposit v t).pend = some ⟨v, 1, t, false, true⟩ := by
  have whole : e.resolve t = e := by simp [Entry.resolve, same]
  simp [Entry.deposit, whole, same, Entry.place]

/-- An unstamped copy for the same swath stands (R22). -/
theorem Entry.deposit_yields (e : Entry) (v : Word) (d : Pend) (copy : e.pend = some d) (unstamped : d.unstamped = true) :
    e.deposit v d.target = e := by
  have whole : e.resolve d.target = e := by simp [Entry.resolve, copy]
  simp [Entry.deposit, whole, copy, unstamped]

theorem Entry.deposits_again (e : Entry) (q : QueuedWrite) (qs : List QueuedWrite) (only : ∀ x ∈ qs, x = q)
    (same : e.pend = some ⟨q.value, 1, q.target, false, true⟩) : (e.deposits qs).pend = some ⟨q.value, 1, q.target, false, true⟩ := by
  induction qs generalizing e with
  | nil => exact same
  | cons x qs ih =>
    obtain rfl := only x List.mem_cons_self
    exact ih _ (fun y there => only y (List.mem_cons_of_mem _ there)) (Entry.deposit_again e _ _ same)

/-- Of the writes that are due a single one stands on the entry. -/
theorem Entry.deposits_fresh (e : Entry) (q : QueuedWrite) (qs : List QueuedWrite) (there : q ∈ qs) (only : ∀ x ∈ qs, x = q)
    (none : e.pend = none) : (e.deposits qs).pend = some ⟨q.value, 1, q.target, false, true⟩ := by
  cases qs with
  | nil => exact absurd there List.not_mem_nil
  | cons x qs =>
    obtain rfl := only x List.mem_cons_self
    exact Entry.deposits_again _ x qs (fun y there => only y (List.mem_cons_of_mem _ there)) (Entry.deposit_fresh e _ _ none)

theorem Entry.deposits_yield (e : Entry) (qs : List QueuedWrite) (d : Pend) (copy : e.pend = some d) (unstamped : d.unstamped = true)
    (target : ∀ x ∈ qs, x.target = d.target) : e.deposits qs = e := by
  induction qs with
  | nil => rfl
  | cons x qs ih =>
    change (e.deposit x.value x.target).deposits qs = e
    rw [target x List.mem_cons_self, Entry.deposit_yields e _ d copy unstamped]
    exact ih fun y there => target y (List.mem_cons_of_mem _ there)

/-- The queue without what is due. -/
def State.queueRest (s : State) : State := { s with queue := s.queue.filter fun q => !decide (q.target ≤ s.swath + 1) }

/-- What of the queue is due (R376). -/
def State.queueDue (s : State) : List QueuedWrite := s.queue.filter fun q => decide (q.target ≤ s.swath + 1)

/-- Where no entry has been freed every write that is due is deposited. -/
theorem depositDue_hosts (s : State) (host : ∀ q ∈ s.queue, q.target ≤ s.swath + 1 → s.isHostEntry q.index = true) :
    s.depositDue = s.queueRest.deposits s.queueDue := by
  have run (qs : List QueuedWrite) (u : State) (host : ∀ q ∈ qs, u.isHostEntry q.index = true) :
      (qs.foldl (fun (s : State) q =>
        if s.isHostEntry q.index then s.updEntry q.index fun e => e.deposit q.value q.target
        else (s.addF F.HP_COUNTS2_STAMP_DROP 1).hpFault kHpLate 63) u) = u.deposits qs := by
    induction qs generalizing u with
    | nil => rfl
    | cons q qs ih =>
      rw [List.foldl_cons, if_pos (host q List.mem_cons_self)]
      exact ih _ fun x there => (isHostEntry_deposit u q x.index).trans (host x (List.mem_cons_of_mem _ there))
  refine run s.queueDue s.queueRest fun q there => ?_
  simp only [State.queueDue, List.mem_filter, decide_eq_true_eq] at there
  exact host q there.1 there.2

theorem depositDue_queue (s : State) (q : QueuedWrite) : q ∈ s.depositDue.queue ↔ q ∈ s.queue ∧ s.swath + 1 < q.target := by
  have kept : s.depositDue.queue = s.queueRest.queue := by
    refine foldl_keeps (p := State.queue) (fun u x => ?_) s.queueDue s.queueRest
    split
    · rfl
    · exact ((State.hpFault_only ..).same .queue (by decide)).trans ((State.addF_only ..).same .queue (by decide))
  rw [kept]
  simp [State.queueRest]

theorem deposits_only (s : State) (qs : List QueuedWrite) : OnlyChanges [.sig] s (s.deposits qs) :=
  only_foldl (fun _ _ => State.updEntry_only ..) (only_refl _ s)

theorem mem_dueOn (s : State) (q : QueuedWrite) (i : Nat) :
    q ∈ (s.queueDue.filter fun q => q.index == i) ↔ q ∈ s.queue ∧ q.target ≤ s.swath + 1 ∧ q.index = i := by
  simp only [State.queueDue, List.mem_filter, decide_eq_true_eq, beq_iff_eq, and_assoc]

theorem exec_stampDeposit (s : State) (closed : s.pipe.window = false) : exec .stampDeposit s = .next s.depositDue :=
  congrArg Host.Outcome.next (if_neg (by simp [closed]))

/-- Before Thresh has ended nothing is deposited. -/
theorem exec_stampDeposit_open (s : State) (window : s.pipe.window = true) : exec .stampDeposit s = .next s :=
  congrArg Host.Outcome.next (if_pos window)

/-- Settles O39: a stamped write that is not refused comes to its verdict, which is LATE up to the swath under way and goes by the room
two swaths ahead; what is due is deposited entry by entry, where an unstamped copy of the same swath stands. -/
theorem stampedWritesQueueAndDeposit : Obligations.StampedWritesQueueAndDeposit := by
  intro s h stamp ws target is
  refine ⟨fun acc crc near count addrs entries => ?stamps, fun window => ⟨s, exec_stampDeposit_open s window, rfl⟩, fun closed => ?deposits⟩
  case stamps =>
    have runs := exec_stampWrite s h stamp ws target is acc crc near count addrs entries
    refine ⟨fun late => ⟨_, runs, ?late⟩, fun ahead full => ⟨_, runs, ?full⟩, fun ahead room => ⟨_, runs, stampEnd_waits acc.plain ahead room⟩⟩
    case late =>
      exact stampEnd_fails acc.plain 3 kHpLate F.HP_COUNTS_LATE (stampVerdict_late s target h.n late) (by decide) (by decide)
        (by decide) (by decide) (.inl rfl) fun _ => rfl
    case full =>
      exact stampEnd_fails acc.plain 9 kHpLate F.HP_COUNTS2_QUEUE_FULL ((stampVerdict_ahead s target h.n ahead).trans (if_pos full))
        (by decide) (by decide) (by decide) (by decide) (.inr rfl) fun _ => rfl
  case deposits =>
    have runs := exec_stampDeposit s closed
    have parts : OnlyChanges [.sig, .queue] s (s.queueRest.deposits s.queueDue) :=
      only_step (deposits_only ..) (by decide) (only_queue (by decide) (only_refl _ s))
    refine ⟨⟨_, runs, only_mono (State.depositDue_only s) (by decide), depositDue_queue s⟩, fun host => ?fresh, fun host => ?yields⟩
    case fresh =>
      rw [depositDue_hosts s host] at runs
      refine ⟨_, runs, parts, fun q there due alone none => ?_⟩
      rw [entry_deposits]
      refine Entry.deposits_fresh _ q _ ((mem_dueOn s q q.index).mpr ⟨there, due, rfl⟩) (fun x on => ?_) none
      obtain ⟨inQueue, due', same⟩ := (mem_dueOn s x q.index).mp on
      exact alone x inQueue due' same
    case yields =>
      rw [depositDue_hosts s host] at runs
      refine ⟨_, runs, parts, fun i d copy unstamped target => ?_⟩
      rw [entry_deposits]
      refine (congrArg Entry.pend (Entry.deposits_yield _ _ d copy unstamped fun x on => ?_)).trans copy
      obtain ⟨inQueue, due, same⟩ := (mem_dueOn s x i).mp on
      exact target x inQueue due same

end Sys2Proof.Machine
end

section
/-!
PROOFS. Arming (R24, R89, R259, R286, R304, R343, R344): the request, the halves it arms, the pairs and derived entries it sets up.
-/
namespace Sys2Proof

/-- Values that change in place under their keys. -/
theorem Sparse.get_map_listed {α : Type} (d : Nat → α) (f : α → α) (m : Sparse α) (k : Nat) (listed : Sparse.get d m k ≠ d k) :
    Sparse.get d (m.map fun x => (x.1, f x.2)) k = f (Sparse.get d m k) := by
  induction m with
  | nil => exact absurd rfl listed
  | cons x m ih =>
    obtain ⟨j, v⟩ := x
    simp only [List.map_cons, Sparse.get] at listed ⊢
    split
    · rfl
    · next ne => exact ih (by rwa [if_neg ne] at listed)

end Sys2Proof

namespace Sys2Proof.Machine

/-! ## The request (R343, R344) -/

theorem armRequest_taken (s : State) (mask : BitVec 2) (some : mask ≠ 0#2) (free : s.boot.armReq = none ∨ s.boot.autoArm = true) :
    s.armRequest mask.toNat = ((({ s with boot := { s.boot with autoArm := false, armReq := .some (mask.toNat, s.swath) } } : State).setF
      F.SYS_ARM_STATUS_STATE 1).unstamped) := by
  have whole : mask.toNat % 4 = mask.toNat := Nat.mod_eq_of_lt mask.isLt
  have nonzero : mask.toNat ≠ 0 := fun e => some (BitVec.eq_of_toNat_eq e)
  have waits : (mask.toNat % 4 == 0 || (s.boot.armReq.isSome && !s.boot.autoArm)) = false := by
    rw [whole, beq_false_of_ne nonzero]
    rcases free with none | auto
    · simp [none]
    · simp [auto]
  unfold State.armRequest
  rw [if_neg (by simp [waits]), whole]

theorem armRequest_dropped (s : State) (mask : Nat) (h : mask = 0 ∨ s.boot.armReq.isSome = true ∧ s.boot.autoArm = false) :
    s.armRequest mask = s := by
  refine if_pos ?_
  rcases h with rfl | ⟨host, auto⟩
  · rfl
  · simp [host, auto]

/-- Without an image no condition on the tables in force holds (R24). -/
theorem armCode_unconfigured (s : State) (mask : Nat) (none : s.boot.image = none) : s.armCode mask ≠ 0 := by
  have tables : s.tablesHold = false := by
    unfold State.tablesHold
    rw [none]
  unfold State.armCode
  dsimp only
  split
  · decide
  · rw [if_pos (by rw [tables]; rfl)]
    decide

/-! ## Halves (R89, R103) -/

/-- The filter and the counts since arming stand at 0. -/
structure CountsAfresh (x : Chan) : Prop where
  filt : x.filt = 0
  state : x.state = false
  pulses : x.pulses = 0#32
  pulsesB : x.pulsesB = 0#32
  closures : x.closures = 0#32
  closuresB : x.closuresB = 0#32

/-- Channels that are set so stay so, and those of the list become so. -/
theorem chans_afresh (cs : List ChIx) (f : State → ChIx → Chan → Chan) (afresh : ∀ u d x, CountsAfresh (f u d x)) (s : State) (c : ChIx)
    (h : c ∈ cs ∨ CountsAfresh (s.chan c)) : CountsAfresh ((cs.foldl (fun u d => u.updChan d (f u d)) s).chan c) := by
  induction cs generalizing s with
  | nil => exact h.resolve_left List.not_mem_nil
  | cons d cs ih =>
    refine ih _ ?_
    rw [chan_updChan]
    split
    · exact .inr (afresh ..)
    · next other => exact h.imp (fun there => (List.mem_cons.mp there).resolve_left other) id

theorem armHalf_chans (s : State) (h : HalfIx) (c : ChIx) (fresh : c ∈ chOf h ∨ CountsAfresh (s.chan c)) :
    CountsAfresh ((s.armHalf h).chan c) := by
  unfold State.armHalf
  dsimp only
  refine chans_afresh _ _ (fun _ _ _ => ⟨rfl, rfl, rfl, rfl, rfl, rfl⟩) _ c (fresh.imp id fun old => ?_)
  have kept {t : State} (o : OnlyChanges [.regs, .halves] s t) : CountsAfresh (t.chan c) := by
    rwa [chan_only o (by decide)]
  exact kept (only_step (State.updHalf_only ..) (by decide)
    (only_whenB (fun u => only_mono (State.addF_only ..) (by decide)) (only_mono (State.setF_only ..) (by decide))))

/-- Registers that the arming of halves leaves: all but SYS_STATE and FH_COUNTS. -/
theorem armHalf_regs {K : Nat → Bool} (q : K Reg.SYS_STATE = false) (q' : ∀ h : HalfIx, K (Reg.FH_COUNTS h.val) = false)
    (news : ∀ a, newsBase ≤ a → K a = false) (s : State) (h : HalfIx) : KeepsRegs K s (s.armHalf h) := by
  have high : K (F.FH_COUNTS_GATE_SKIP h.val).news.reg = false := news _ (Nat.le_add_left ..)
  unfold State.armHalf State.whenB
  dsimp only
  have armed : KeepsRegs K s (s.setF F.SYS_STATE_ARMED_HALVES (s.fld F.SYS_STATE_ARMED_HALVES ||| 2 ^ h.val)) := kr_setF q (kr_refl s)
  refine kr_foldl (fun u _ => kr_only (State.updChan_only ..) (by decide) (kr_refl u)) (kr_only (State.updHalf_only ..) (by decide) ?_)
  exact kr_ite (kr_addF (q' h) high armed) armed

/-- A half that arms joins those that are armed. -/
theorem armHalf_armed (s : State) (h k : HalfIx) : (s.armHalf h).armed k.val = (s.armed k.val || decide (h = k)) := by
  have kept : KeepsRegs (fun a => a == Reg.SYS_STATE) (s.setF F.SYS_STATE_ARMED_HALVES (s.fld F.SYS_STATE_ARMED_HALVES ||| 2 ^ h.val))
      (s.armHalf h) := by
    have apart : ((F.FH_COUNTS_GATE_SKIP h.val).reg == Reg.SYS_STATE) = false ∧
        ((F.FH_COUNTS_GATE_SKIP h.val).news.reg == Reg.SYS_STATE) = false := by
      revert h
      decide
    unfold State.armHalf State.whenB
    dsimp only
    refine kr_foldl (fun u _ => kr_only (State.updChan_only ..) (by decide) (kr_refl u)) (kr_only (State.updHalf_only ..) (by decide) ?_)
    exact kr_ite (kr_addF apart.1 apart.2 (kr_refl _)) (kr_refl _)
  have bit (x : Nat) : ((x ||| 2 ^ h.val) % 2 ^ 2).testBit k.val = (x.testBit k.val || decide (h = k)) := by
    rw [Nat.testBit_mod_two_pow, Nat.testBit_or, Nat.testBit_two_pow, decide_eq_true k.isLt, Bool.true_and]
    simp only [Fin.ext_iff]
  unfold State.armed
  rw [kept.fld _ (by decide), State.fld_setF_same _ _ _ (by decide) (by decide)]
  exact bit _

/-- The halves of a mask. -/
def maskHalves (mask : Nat) : List HalfIx := allHalves.filter fun h => mask.testBit h.val

theorem mem_maskHalves (mask : Nat) (h : HalfIx) : h ∈ maskHalves mask ↔ mask.testBit h.val = true := by
  have all : ∀ h : HalfIx, h ∈ allHalves := by decide
  simp [maskHalves, all h]

/-- The halves of a mask are armed. -/
def State.halvesArmed (s : State) (mask : Nat) : State := (maskHalves mask).foldl (fun s h => s.armHalf h) s

theorem halvesArmed_armed (s : State) (mask : Nat) (k : HalfIx) :
    (s.halvesArmed mask).armed k.val = (s.armed k.val || mask.testBit k.val) := by
  have run (hs : List HalfIx) (u : State) : (hs.foldl (fun s h => s.armHalf h) u).armed k.val = (u.armed k.val || decide (k ∈ hs)) := by
    induction hs generalizing u with
    | nil => simp
    | cons h hs ih =>
      rw [List.foldl_cons, ih, armHalf_armed, Bool.or_assoc]
      congr 1
      simp [List.mem_cons, eq_comm]
  refine (run _ s).trans (congrArg (s.armed k.val || ·) ?_)
  rw [Bool.eq_iff_iff, decide_eq_true_eq, mem_maskHalves]

theorem halvesArmed_chans (s : State) (mask : Nat) (h : HalfIx) (on : mask.testBit h.val = true) (c : ChIx) (there : c ∈ chOf h) :
    CountsAfresh ((s.halvesArmed mask).chan c) := by
  have run (hs : List HalfIx) (u : State) (set : h ∈ hs ∨ CountsAfresh (u.chan c)) :
      CountsAfresh ((hs.foldl (fun s h => s.armHalf h) u).chan c) := by
    induction hs generalizing u with
    | nil => exact set.resolve_left List.not_mem_nil
    | cons k hs ih =>
      refine ih _ ?_
      rcases set with mem | old
      · rcases List.mem_cons.mp mem with rfl | later
        · exact .inr (armHalf_chans u h c (.inl there))
        · exact .inl later
      · exact .inr (armHalf_chans u k c (.inr old))
  exact run _ s (.inl ((mem_maskHalves mask h).mpr on))

theorem halvesArmed_regs {K : Nat → Bool} (q : K Reg.SYS_STATE = false) (q' : ∀ h : HalfIx, K (Reg.FH_COUNTS h.val) = false)
    (news : ∀ a, newsBase ≤ a → K a = false) (s : State) (mask : Nat) : KeepsRegs K s (s.halvesArmed mask) :=
  kr_foldl (fun u h => armHalf_regs q q' news u h) (kr_refl s)

theorem halvesArmed_only (s : State) (mask : Nat) : OnlyChanges [.regs, .chans, .halves] s (s.halvesArmed mask) :=
  only_foldl (fun _ _ => State.armHalf_only ..) (only_refl _ s)

/-! ## Pairs (R259, R289, R290) -/

/-- The data image of a program as a pair's data memory. -/
def Pair.image (x : Pair) : Sparse Word :=
  let img := match x.prog with | some pr => pr.data | none => []
  (List.range img.length).foldl (fun m i => Sparse.put (fun _ => 0#32) m i (img.getD i 0#32)) []

/-- A pair set up at an arming from none, for swath `n`. -/
def Pair.setUp (x : Pair) (n : Nat) : Pair :=
  { x with
    dmem := x.image, timers := []
    ctx := match x.halted, x.prog with | true, some pr => some (freshCtx .real n pr 0 x.image []) | _, _ => none
    tines := [], commit := none, judged := false, done := false, outcome := 0
    tine := 15, discarded := false, bands := [], judgeFrom := some n, watch := [], due := [], owed := [] }

theorem Pair.setUp_ctx (x : Pair) (n : Nat) : (x.halted = false → (x.setUp n).ctx = none) ∧
    ∀ pr, x.halted = true → x.prog = some pr → (x.setUp n).ctx = some (freshCtx .real n pr 0 (x.setUp n).dmem []) := by
  refine ⟨fun runs => ?_, fun pr halted prog => ?_⟩
  · simp [Pair.setUp, runs]
  · simp [Pair.setUp, halted, prog]

theorem get_updPair (s : State) (p q : PairIx) (f : Pair → Pair) :
    (s.updPair p f).pairs.get q = if q = p then f (s.pairs.get p) else s.pairs.get q := by
  unfold State.updPair
  split
  · next same => rw [same, Tab.get_upd_same]
  · next other => exact Tab.get_upd_ne _ _ _ _ (Ne.symm other)

/-- The registers of a pair after its set-up. -/
def State.showSetUp (s : State) (p : PairIx) (x : Pair) : State :=
  let s := s.whenB x.halted fun s => (s.setB (F.BND_STATUS_AT_BKPT p.val) false).showPc p
  s.whenB (x.prog.isSome && x.blocked.isNone && !x.halted) fun s => s.setF (F.BND_STATUS_STATE p.val) 1

theorem setUpPair_eq (s : State) (p : PairIx) : ∃ f : Pair → Pair,
    s.setUpPair p = (s.updPair p f).showSetUp p (s.pairs.get p) ∧ f (s.pairs.get p) = (s.pairs.get p).setUp s.swath :=
  ⟨_, rfl, rfl⟩

theorem showSetUp_only (s : State) (p : PairIx) (x : Pair) : OnlyChanges [.regs] s (s.showSetUp p x) :=
  only_whenB (fun _ => State.setF_only ..)
    (only_whenB (fun _ => only_trans (State.setF_only ..) (State.showPc_only ..)) (only_refl _ s))

/-- The set-up of a pair writes its BND_STATUS alone. -/
theorem setUpPair_regs {K : Nat → Bool} (q : ∀ p : PairIx, K (Reg.BND_STATUS p.val) = false) (s : State) (p : PairIx) :
    KeepsRegs K s (s.setUpPair p) := by
  obtain ⟨f, runs, _⟩ := setUpPair_eq s p
  have pc (u : State) : KeepsRegs K u (u.showPc p) := by
    unfold State.showPc
    split
    · exact kr_setF (q p) (kr_refl u)
    · exact kr_refl u
  have stood : KeepsRegs K s (s.updPair p f) := kr_only (State.updPair_only ..) (by decide) (kr_refl s)
  have shown : KeepsRegs K s ((s.updPair p f).whenB (s.pairs.get p).halted fun s => (s.setB (F.BND_STATUS_AT_BKPT p.val) false).showPc p) :=
    kr_ite (kr_step (pc _) (kr_setB (q p) stood)) stood
  rw [runs]
  exact kr_ite (kr_setF (q p) shown) shown

theorem setUpPair_get (s : State) (p q : PairIx) :
    (s.setUpPair p).pairs.get q = if q = p then (s.pairs.get p).setUp s.swath else s.pairs.get q := by
  obtain ⟨f, runs, same⟩ := setUpPair_eq s p
  rw [runs, show ((s.updPair p f).showSetUp p (s.pairs.get p)).pairs = (s.updPair p f).pairs from
    (showSetUp_only ..).same .pairs (by decide), get_updPair, same]

/-- All pairs are set up for the swath under way. -/
theorem setUpAll_get (ps : List PairIx) (nodup : ps.Nodup) (s : State) (q : PairIx) :
    (ps.foldl (fun s p => s.setUpPair p) s).pairs.get q = if q ∈ ps then (s.pairs.get q).setUp s.swath else s.pairs.get q := by
  induction ps generalizing s with
  | nil => rfl
  | cons p ps ih =>
    obtain ⟨notin, nodup⟩ := List.nodup_cons.mp nodup
    have swath : (s.setUpPair p).swath = s.swath := KeepsRegs.pairReg
      (K := fun a => a == Reg.TB_SWATH_LO || a == Reg.TB_SWATH_HI) (setUpPair_regs (by decide) s p) rfl rfl
    rw [List.foldl_cons, ih nodup, setUpPair_get, swath]
    by_cases same : q = p
    · subst same
      simp [notin]
    · simp [same]

/-! ## Entries (R259, R286, R304) -/

/-- The pair of a derived entry is blocked (R286). -/
def State.pairBlocked (s : State) (e : Entry) : Bool := allPairs.any fun p => (s.pairs.get p).blocked.isSome && e.src == srcDerived p.val

theorem pairBlocked_iff (s : State) (e : Entry) :
    s.pairBlocked e = true ↔ ∃ p : PairIx, e.src = srcDerived p.val ∧ (s.pairs.get p).blocked.isSome = true := by
  have all : ∀ p : PairIx, p ∈ allPairs := by decide
  simp [State.pairBlocked, all, and_comm]

/-- The entries as an arming from none leaves them. -/
def State.tableSetUp (s : State) : State :=
  { s with
    sig := s.sig.map fun x => (x.1, x.2.setUp (s.pairBlocked x.2) s.swath32)
    pipe := { s.pipe with forced := s.pipe.forced.map fun (f : Nat × Word × Word × Word) => (f.1, f.2.1, f.2.2.1, 0#32) } }

/-- The commands of channels that take theirs from a derived entry begin anew. -/
def State.commandsBack (s : State) : State :=
  allCh.foldl (fun (s : State) c =>
    if s.flag (F.CH_CMD_SRC_EN c.val) && (s.entry (s.fld (F.CH_CMD_SRC_INDEX c.val))).cls == 6 then
      { s with out := s.out.upd c fun _ => {} } else s) s

theorem setUpPairs_eq (s : State) : s.setUpPairs
    = ((allPairs.foldl (fun s p => s.setUpPair p) s).tableSetUp.commandsBack).updPwr fun x => { x with woken := false } := rfl

theorem commandsBack_keeps {β : Type} (f : State → β) (out : ∀ (u : State) (o : Tab 16 OutCmd), f { u with out := o } = f u) (s : State) :
    f s.commandsBack = f s := by
  refine foldl_keeps (fun u c => ?_) allCh s
  split
  · exact out ..
  · rfl

/-- After the pairs only table, output image and power state are written. -/
theorem setUpPairs_after {β : Type} (f : State → β) (sig : ∀ u : State, f u.tableSetUp = f u)
    (out : ∀ (u : State) (o : Tab 16 OutCmd), f { u with out := o } = f u) (pwr : ∀ (u : State) (g : Pwr → Pwr), f (u.updPwr g) = f u)
    (s : State) : f s.setUpPairs = f (allPairs.foldl (fun s p => s.setUpPair p) s) := by
  rw [setUpPairs_eq, pwr, commandsBack_keeps f out, sig]

theorem setUpPairs_pairs (s : State) (q : PairIx) : (s.setUpPairs).pairs.get q = (s.pairs.get q).setUp s.swath := by
  have all : ∀ p : PairIx, p ∈ allPairs := by decide
  rw [setUpPairs_after State.pairs (fun _ => rfl) (fun _ _ => rfl) (fun _ _ => rfl), setUpAll_get allPairs (by decide), if_pos (all q)]

theorem setUpPairs_regs {K : Nat → Bool} (q : ∀ p : PairIx, K (Reg.BND_STATUS p.val) = false) (s : State) : KeepsRegs K s s.setUpPairs :=
  KeepsRegs.kept (kr_foldl (fun u p => setUpPair_regs q u p) (kr_refl s))
    (setUpPairs_after State.regs (fun _ => rfl) (fun _ _ => rfl) (fun _ _ => rfl) s)

/-- A listed entry is set up, by whether its pair is blocked. -/
theorem setUpPairs_entry (s : State) (i : Nat) (listed : s.entry i ≠ {}) :
    (s.setUpPairs).entry i = (s.entry i).setUp (s.pairBlocked (s.entry i)) s.swath32 := by
  have regs : KeepsRegs (fun a => a == Reg.TB_SWATH_LO || a == Reg.TB_SWATH_HI) s (allPairs.foldl (fun s p => s.setUpPair p) s) :=
    kr_foldl (fun u p => setUpPair_regs (by decide) u p) (kr_refl s)
  have blocked (e : Entry) : (allPairs.foldl (fun s p => s.setUpPair p) s).pairBlocked e = s.pairBlocked e := by
    unfold State.pairBlocked
    simp only [setUpAll_get allPairs (by decide)]
    refine congrArg (allPairs.any ·) (funext fun p => ?_)
    split <;> rfl
  have sig : (allPairs.foldl (fun s p => s.setUpPair p) s).sig = s.sig :=
    (only_foldl (fun _ _ => State.setUpPair_only ..) (only_refl _ s) : OnlyChanges [.regs, .pairs] _ _).same .sig (by decide)
  have swath : (allPairs.foldl (fun s p => s.setUpPair p) s).swath32 = s.swath32 := congrArg (BitVec.ofNat 32) (regs.pairReg rfl rfl)
  unfold State.entry at listed ⊢
  rw [setUpPairs_eq, State.updPwr_sig, commandsBack_keeps State.sig (fun _ _ => rfl)]
  unfold State.tableSetUp
  simp only [sig, swath, blocked]
  exact Sparse.get_map_listed sigDefault (fun e => e.setUp (s.pairBlocked e) s.swath32) s.sig i listed

theorem Entry.setUp_derived (e : Entry) (n : Word) (derived : e.cls = 6) :
    e.setUp false n = { (e.readFor n).write 0#32 1 false n with count := 0#32, pend := none } := by
  have cls : (e.readFor n).cls = 6 := by
    rw [← derived]
    exact congrArg (· / 2 ^ 13) (e.readFor_src n)
  exact if_pos (by rw [cls]; rfl)

theorem Entry.setUp_blocked (e : Entry) (n : Word) : e.setUp true n = { e.readFor n with count := 0#32 } := if_neg (by simp)

/-- Word 3 starts at 0; a derived entry without a blocked pair holds 0 and no copy, one whose pair is blocked what it held. -/
theorem Entry.setUp_spec (e : Entry) (blocked : Bool) (n : Word) (derived : e.cls = 6) :
    (e.setUp blocked n).count = 0#32 ∧
      (blocked = false → (e.setUp blocked n).value = 0#32 ∧ (e.setUp blocked n).pend = none) ∧
      (blocked = true → e.pend = none → (e.setUp blocked n).value = e.value ∧ (e.setUp blocked n).qual = e.qual) := by
  cases blocked with
  | false =>
    rw [e.setUp_derived n derived]
    exact ⟨rfl, fun _ => ⟨rfl, rfl⟩, nofun⟩
  | true =>
    rw [e.setUp_blocked n]
    refine ⟨rfl, nofun, fun _ none => ?_⟩
    have same : e.readFor n = e := by
      unfold Entry.readFor
      rw [none]
    rw [same]
    exact ⟨rfl, rfl⟩

/-! ## The end of an arming -/

/-- No half has a NIGHT command on its way. -/
def State.nightOver (s : State) : State := allHalves.foldl (fun (s : State) h => s.updHalf h fun x => { x with nightTx := false }) s

/-- The reaction since the last arming is over, and the check-value units and the Yoke begin anew. -/
def State.reactionOver (s : State) : State :=
  let s := allUnits.foldl (fun (s : State) u => s.unsync u) s
  let now := s.pipe.now &&& (31 - cREACTION)
  let s := { s with pipe := { s.pipe with reacted := false, now := now, lateB := suspends now } }
  (s.updYk fun y => { y with checksOk := true }).syncReady

/-- The channels take their safe-state causes as they stand. -/
def State.safeFollows (s : State) : State := allCh.foldl (fun (s : State) c => s.updChan c fun x => { x with safeL := s.safeCause c }) s

/-- What an arming does once its halves are armed and its pairs set up. -/
def State.armEnd (s : State) : State := s.nightOver.reactionOver.safeFollows

theorem armHalves_eq (s : State) (mask : Nat) :
    s.armHalves mask = (((s.halvesArmed mask).enter 3).whenB (s.fld F.SYS_STATE_ARMED_HALVES == 0) State.setUpPairs).armEnd := rfl

theorem nightOver_only (s : State) : OnlyChanges [.halves] s s.nightOver :=
  only_foldl (fun _ _ => State.updHalf_only ..) (only_refl _ s)

theorem reactionOver_only (s : State) : OnlyChanges [.regs, .pipe, .yk] s s.reactionOver :=
  only_step (State.syncReady_only _) (by decide) (only_step (State.updYk_only ..) (by decide) (only_pipe (by decide)
    (only_foldl (fun _ _ => only_mono (State.unsync_only ..) (by decide)) (only_refl _ s))))

theorem safeFollows_only (s : State) : OnlyChanges [.chans] s s.safeFollows :=
  only_foldl (fun _ _ => State.updChan_only ..) (only_refl _ s)

theorem armEnd_only (s : State) : OnlyChanges [.regs, .pipe, .chans, .halves, .yk] s s.armEnd :=
  only_step (safeFollows_only _) (by decide) (only_step (reactionOver_only _) (by decide) (only_mono (nightOver_only s) (by decide)))

theorem armEnd_nightTx (s : State) (h : HalfIx) : (s.armEnd.half h).nightTx = false := by
  have kept : s.armEnd.halves = s.nightOver.halves :=
    ((safeFollows_only _).same .halves (by decide)).trans ((reactionOver_only _).same .halves (by decide))
  have ended : (s.nightOver.half h).nightTx = false := by
    change (((s.updHalf 0 _).updHalf 1 _).half h).nightTx = false
    rw [half_updHalf, half_updHalf]
    match h with
    | 0 => rfl
    | 1 => rfl
  rwa [State.half, kept]

theorem armEnd_reacted (s : State) : s.armEnd.pipe.reacted = false := by
  have kept : s.armEnd.pipe = s.nightOver.reactionOver.pipe := (safeFollows_only _).same .pipe (by decide)
  rw [kept]
  rfl

theorem armEnd_state (s : State) : KeepsRegs (fun a => a == Reg.SYS_STATE) s s.armEnd := by
  have alive : ∀ u : UnitIx, (Reg.CVU_ALIVE u.val == Reg.SYS_STATE) = false := by decide
  have dev : ∀ u : UnitIx, (Reg.CVU_DEV_ALIVE u.val == Reg.SYS_STATE) = false := by decide
  have unsync (u : State) (k : UnitIx) : KeepsRegs (fun a => a == Reg.SYS_STATE) u (u.unsync k) :=
    kr_setReg (dev k) (kr_setF (alive k) (kr_setB (alive k) (kr_refl u)))
  have night : KeepsRegs (fun a => a == Reg.SYS_STATE) s s.nightOver := kr_only (nightOver_only s) (by decide) (kr_refl s)
  have units : KeepsRegs (fun a => a == Reg.SYS_STATE) s (allUnits.foldl (fun (s : State) u => s.unsync u) s.nightOver) :=
    kr_foldl unsync night
  refine kr_only (safeFollows_only _) (by decide) ?_
  unfold State.reactionOver State.syncReady
  dsimp only
  exact kr_setB (by decide) (units.kept rfl)

theorem armEnd_chans (s : State) (c : ChIx) (fresh : CountsAfresh (s.chan c)) : CountsAfresh (s.armEnd.chan c) := by
  have run (cs : List ChIx) (u : State) (fresh : CountsAfresh (u.chan c)) :
      CountsAfresh ((cs.foldl (fun (s : State) c => s.updChan c fun x => { x with safeL := s.safeCause c }) u).chan c) := by
    induction cs generalizing u with
    | nil => exact fresh
    | cons d cs ih =>
      refine ih _ ?_
      obtain ⟨filt, state, pulses, pulsesB, closures, closuresB⟩ := fresh
      rw [chan_updChan]
      split
      · exact ⟨filt, state, pulses, pulsesB, closures, closuresB⟩
      · exact ⟨filt, state, pulses, pulsesB, closures, closuresB⟩
  unfold State.armEnd State.safeFollows
  refine run allCh s.nightOver.reactionOver ?_
  rwa [chan_only (reactionOver_only _) (by decide), chan_only (nightOver_only s) (by decide)]

/-! ## The halves of a mask are armed (R343) -/

theorem armHalves_sysState (s : State) (mask : Nat) : KeepsRegs (fun a => a == Reg.SYS_STATE) ((s.halvesArmed mask).enter 3) (s.armHalves mask) := by
  rw [armHalves_eq]
  exact kr_step (armEnd_state _) (kr_ite (setUpPairs_regs (by decide) _) (kr_refl _))

/-- The device is ARMED, with the halves of the mask and those that were. -/
theorem armHalves_armed (s : State) (mask : Nat) : (s.armHalves mask).isArmed = true ∧
    ∀ h : HalfIx, (s.armHalves mask).armed h.val = (s.armed h.val || mask.testBit h.val) := by
  have kept := armHalves_sysState s mask
  constructor
  · unfold State.isArmed
    rw [kept.fld _ (by decide), State.enter, State.fld_setF_same _ _ _ (by decide) (by decide)]
    rfl
  · intro h
    rw [← halvesArmed_armed]
    unfold State.armed
    rw [kept.fld _ (by decide), State.enter, State.fld_setF_ne _ _ _ _ (by decide) (by decide) (by decide) (by decide)]

theorem armHalves_chans (s : State) (mask : Nat) (h : HalfIx) (on : mask.testBit h.val = true) (c : ChIx) (there : c ∈ chOf h) :
    CountsAfresh ((s.armHalves mask).chan c) := by
  rw [armHalves_eq]
  refine armEnd_chans _ c ?_
  rw [chan_only (only_whenB State.setUpPairs_only (only_refl _ _)) (by decide), State.enter, chan_only (State.setF_only ..) (by decide)]
  exact halvesArmed_chans s mask h on c there

/-- With none armed before the pairs and the derived entries are set up (R259, R304). -/
theorem armHalves_setUp (s : State) (mask : Nat) (none : s.fld F.SYS_STATE_ARMED_HALVES = 0) :
    (∀ p, (s.armHalves mask).pairs.get p = (s.pairs.get p).setUp s.swath) ∧
      ∀ i, s.entry i ≠ {} → (s.armHalves mask).entry i = (s.entry i).setUp (s.pairBlocked (s.entry i)) s.swath32 := by
  have armed : OnlyChanges [.regs, .chans, .halves] s ((s.halvesArmed mask).enter 3) :=
    only_step (State.setF_only ..) (by decide) (halvesArmed_only s mask)
  have clock : KeepsRegs (fun a => a == Reg.TB_SWATH_LO || a == Reg.TB_SWATH_HI) s ((s.halvesArmed mask).enter 3) := by
    refine kr_setF (by decide) (halvesArmed_regs (by decide) (by decide) (fun a high => ?_) s mask)
    simp only [newsBase, Reg.TB_SWATH_LO, Reg.TB_SWATH_HI, Bool.or_eq_false_iff, beq_eq_false_iff_ne] at high ⊢
    omega
  have swath : ((s.halvesArmed mask).enter 3).swath = s.swath := clock.pairReg rfl rfl
  have pairs : ((s.halvesArmed mask).enter 3).pairs = s.pairs := armed.same .pairs (by decide)
  have entry (i : Nat) : ((s.halvesArmed mask).enter 3).entry i = s.entry i := by
    unfold State.entry
    rw [show _ = s.sig from armed.same .sig (by decide)]
  have runs : s.armHalves mask = ((s.halvesArmed mask).enter 3).setUpPairs.armEnd := by
    rw [armHalves_eq, State.whenB_true _ _ (beq_iff_eq.mpr none)]
  generalize (s.halvesArmed mask).enter 3 = u at swath pairs entry runs
  have blocked (e : Entry) : u.pairBlocked e = s.pairBlocked e := by
    unfold State.pairBlocked
    rw [pairs]
  rw [runs]
  refine ⟨fun p => ?_, fun i listed => ?_⟩
  · rw [show (u.setUpPairs.armEnd).pairs = u.setUpPairs.pairs from (armEnd_only _).same .pairs (by decide), setUpPairs_pairs, pairs, swath]
  · have sig : (u.setUpPairs.armEnd).entry i = u.setUpPairs.entry i := by
      unfold State.entry
      rw [show (u.setUpPairs.armEnd).sig = u.setUpPairs.sig from (armEnd_only _).same .sig (by decide)]
    rw [sig, setUpPairs_entry u i (by rwa [entry]), entry, blocked, State.swath32, swath]
    rfl

/-! ## The judgement at a boundary (R343) -/

/-- The request is answered, and none waits. -/
def State.requestDone (s : State) : State := { s with boot := { s.boot with armReq := none, autoArm := false } }

theorem requestDone_regs (s : State) : KeepsRegs (fun _ => true) s s.requestDone := (kr_refl s).kept rfl

/-- The halves of the request are armed. -/
def State.armingDone (s : State) (mask : Nat) : State := (s.requestDone.armHalves mask).setF F.SYS_ARM_STATUS_STATE 2

/-- The code of a refusal is shown; an automatic request stays. -/
def State.refusalShown (s : State) (mask : Nat) : State :=
  let s' : State := { s with boot := { s.boot with armReq := if s.boot.autoArm then some (mask, s.swath) else none } }
  (s'.setF F.SYS_ARM_STATUS_STATE (if s.boot.autoArm then 1 else 3)).setF F.SYS_ARM_STATUS_CODE (s.armCode mask)

/-- The request is refused whole. -/
def State.armingRefused (s : State) (mask : Nat) : State := (s.refusalShown mask).bootFault kArmRefused (s.armCode mask)

theorem exec_arming_none (s : State) (none : s.boot.armReq = none) : exec .arming s = .next s := by
  change Host.Outcome.next _ = _
  rw [none]

theorem exec_arming (s : State) (mask since : Nat) (req : s.boot.armReq = some (mask, since)) (boundary : s.tick = s.btick)
    (later : since < s.swath) : exec .arming s = .next (if s.armCode mask == 0 then s.armingDone mask else s.armingRefused mask) := by
  have due : (!s.atBoundary || decide (s.swath ≤ since)) = false := by
    simp [State.atBoundary, boundary, later]
  change Host.Outcome.next _ = _
  rw [req]
  exact congrArg Host.Outcome.next (if_neg (by simp [due]))

theorem armingDone_only (s : State) (mask : Nat) :
    OnlyChanges [.regs, .sig, .pipe, .out, .chans, .halves, .pairs, .boot, .pwr, .yk] s (s.armingDone mask) :=
  only_step (State.setF_only ..) (by decide) (only_step (State.armHalves_only ..) (by decide) (only_boot (by decide) (only_refl _ s)))

/-- That the status shows the outcome leaves which halves are armed. -/
theorem statusShown_armed (t : State) : (t.setF F.SYS_ARM_STATUS_STATE 2).isArmed = t.isArmed ∧
    ∀ h : HalfIx, (t.setF F.SYS_ARM_STATUS_STATE 2).armed h.val = t.armed h.val := by
  have shown : KeepsRegs (fun a => a == Reg.SYS_STATE) t (t.setF F.SYS_ARM_STATUS_STATE 2) := kr_setF (by decide) (kr_refl t)
  unfold State.isArmed State.armed
  exact ⟨by rw [shown.fld _ (by decide)], fun h => by rw [shown.fld _ (by decide)]⟩

theorem armingDone_armed (s : State) (mask : Nat) : (s.armingDone mask).isArmed = true ∧
    ∀ h : HalfIx, (s.armingDone mask).armed h.val = (s.armed h.val || mask.testBit h.val) := by
  obtain ⟨armed, halves⟩ := armHalves_armed s.requestDone mask
  obtain ⟨device, half⟩ := statusShown_armed (s.requestDone.armHalves mask)
  refine ⟨device.trans armed, fun h => (half h).trans ((halves h).trans ?_)⟩
  unfold State.armed
  rw [(requestDone_regs s).fld _ rfl]

/-- The request is answered, the reaction over and the night hold at an end. -/
theorem armingDone_ended (s : State) (mask : Nat) :
    (s.armingDone mask).fld F.SYS_ARM_STATUS_STATE = 2 ∧ (s.armingDone mask).boot.armReq = none ∧
      (s.armingDone mask).pipe.reacted = false ∧ ∀ h, ((s.armingDone mask).half h).nightTx = false := by
  have boot : (s.requestDone.armHalves mask).boot = s.requestDone.boot := (State.armHalves_only ..).same .boot (by decide)
  have ended : (s.requestDone.armHalves mask).pipe.reacted = false ∧ ∀ h, ((s.requestDone.armHalves mask).half h).nightTx = false := by
    rw [armHalves_eq]
    exact ⟨armEnd_reacted _, armEnd_nightTx _⟩
  unfold State.armingDone
  refine ⟨State.fld_setF_same _ _ _ (by decide) (by decide), ?_, ?_, fun h => ?_⟩
  · rw [State.setF_boot, boot]
    rfl
  · rw [State.setF_pipe, ended.1]
  · rw [half_setF, ended.2]

theorem requestDone_entry (s : State) (i : Nat) : s.requestDone.entry i = s.entry i := rfl

theorem requestDone_pairBlocked (s : State) (e : Entry) : s.requestDone.pairBlocked e = s.pairBlocked e := rfl

theorem entry_setF (s : State) (f : Fld) (v i : Nat) : (s.setF f v).entry i = s.entry i := rfl

/-- From none armed: the pairs are set up, and with them the derived entries. -/
theorem armingDone_setUp (s : State) (mask : Nat) (none : s.fld F.SYS_STATE_ARMED_HALVES = 0) :
    (∀ p, (s.armingDone mask).pairs.get p = (s.pairs.get p).setUp s.swath) ∧
      ∀ i, (s.entry i).cls = 6 → (s.armingDone mask).entry i = (s.entry i).setUp (s.pairBlocked (s.entry i)) s.swath32 := by
  have regs := requestDone_regs s
  have swath : s.requestDone.swath = s.swath := regs.pairReg rfl rfl
  obtain ⟨pairs, entries⟩ := armHalves_setUp s.requestDone mask ((regs.fld _ rfl).trans none)
  simp only [State.swath32, swath, requestDone_entry, requestDone_pairBlocked] at pairs entries
  unfold State.armingDone
  rw [State.setF_pairs]
  refine ⟨pairs, fun i derived => (entry_setF ..).trans (entries i fun default => ?_)⟩
  rw [default] at derived
  exact absurd derived (by decide)

theorem armCode_lt (s : State) (mask : Nat) : s.armCode mask < 8 := by
  unfold State.armCode
  dsimp only
  repeat' split
  all_goals decide

theorem refusalShown_only (s : State) (mask : Nat) : OnlyChanges [.regs, .boot] s (s.refusalShown mask) :=
  only_step (State.setF_only ..) (by decide) (only_step (State.setF_only ..) (by decide) (only_boot (by decide) (only_refl _ s)))

theorem refusalShown_status (s : State) (mask : Nat) :
    (s.refusalShown mask).fld F.SYS_ARM_STATUS_CODE = s.armCode mask ∧
      (s.refusalShown mask).fld F.SYS_ARM_STATUS_STATE = (if s.boot.autoArm then 1 else 3) ∧ (s.refusalShown mask).swath = s.swath := by
  have fits : s.armCode mask < 2 ^ 8 := Nat.lt_trans (armCode_lt s mask) (by decide)
  have small : (if s.boot.autoArm then 1 else 3) < 2 ^ 4 := by split <;> decide
  have clock (u : State) (v w : Nat) : KeepsRegs (fun a => a != Reg.SYS_ARM_STATUS) u
      ((u.setF F.SYS_ARM_STATUS_STATE v).setF F.SYS_ARM_STATUS_CODE w) := kr_setF (by decide) (kr_setF (by decide) (kr_refl u))
  refine ⟨?_, ?_, ?_⟩
  · exact (State.fld_setF_same _ _ _ (by decide) (by decide)).trans (Nat.mod_eq_of_lt fits)
  · unfold State.refusalShown
    rw [State.fld_setF_ne _ _ _ _ (by decide) (by decide) (by decide) (by decide), State.fld_setF_same _ _ _ (by decide) (by decide)]
    exact Nat.mod_eq_of_lt small
  · exact KeepsRegs.pairReg (clock ..) rfl rfl

/-- A refusal shows its code and is told; an automatic request waits on. -/
theorem armingRefused_spec (s : State) (mask : Nat) :
    OnlyChanges (.boot :: faultParts) s (s.armingRefused mask) ∧
      (s.armingRefused mask).fld F.SYS_ARM_STATUS_CODE = s.armCode mask ∧
      Told s.swath srcBOOT kArmRefused (faultAddr 63 (s.armCode mask)) (s.armingRefused mask) ∧
      (s.armingRefused mask).fld F.SYS_ARM_STATUS_STATE = (if s.boot.autoArm then 1 else 3) ∧
      (s.armingRefused mask).boot.armReq = if s.boot.autoArm then some (mask, s.swath) else none := by
  obtain ⟨code, state, swath⟩ := refusalShown_status s mask
  have raised := State.bootFault_only (s.refusalShown mask) kArmRefused (s.armCode mask)
  refine ⟨only_step raised (by decide) (only_mono (refusalShown_only s mask) (by decide)), ?_, ?_, ?_, ?_⟩
  · exact (State.fld_raise _ _ _ _ _ (by decide)).trans code
  · exact swath ▸ told_raise (by decide)
  · exact (State.fld_raise _ _ _ _ _ (by decide)).trans state
  · exact congrArg Boot.armReq (raised.same .boot (by decide) : (s.armingRefused mask).boot = (s.refusalShown mask).boot)

/-- Settles O28: a request waits for its boundary; there the halves of the mask arm one by one, from none armed with every pair and entry
set up, and nothing after that writes them again; or the request is refused whole, told by `raise`, which leaves SYS_ARM_STATUS. -/
theorem armingIsRequestedAndJudgedAtABoundary : Obligations.ArmingIsRequestedAndJudgedAtABoundary := by
  intro s
  refine ⟨fun mask on nonzero free => ?request, ⟨s, s.hostKey_same _ (armRequest_dropped s _ (.inl rfl)), rfl⟩,
    fun host auto mask => ⟨s, s.hostKey_same _ (armRequest_dropped s _ (.inr ⟨host, auto⟩)), rfl⟩,
    fun none => ⟨s, exec_arming_none s none, rfl⟩, fun none mask => armCode_unconfigured s mask none,
    fun mask since req boundary later => ⟨fun granted => ?granted, fun refused => ?refused⟩⟩
  case request =>
    have runs := armRequest_taken s mask nonzero free
    refine ⟨_, s.hostKey_on _ on, State.armRequest_only .., ?_⟩
    rw [runs]
    exact ⟨rfl, State.fld_setF_same _ _ _ (by decide) (by decide), rfl, ⟨(regsKeep_setF s F.SYS_ARM_STATUS_STATE 1).same⟩⟩
  case granted =>
    obtain ⟨armed, halves⟩ := armingDone_armed s mask
    obtain ⟨status, done, reacted, night⟩ := armingDone_ended s mask
    refine ⟨s.armingDone mask, ?_, armingDone_only s mask, armed, status, done, reacted, halves, night, fun h on c there => ?chans, fun none => ?setUp⟩
    · rw [exec_arming s mask since req boundary later, granted]
      rfl
    case chans =>
      obtain ⟨filt, state, pulses, pulsesB, closures, closuresB⟩ := armHalves_chans s.requestDone mask h on c there
      exact ⟨filt, state, pulses, pulsesB, closures, closuresB⟩
    case setUp =>
      obtain ⟨pairs, entries⟩ := armingDone_setUp s mask none
      refine ⟨fun p => ?_, fun i derived => ?_⟩
      · rw [pairs p]
        obtain ⟨idle, held⟩ := (s.pairs.get p).setUp_ctx s.swath
        exact ⟨rfl, rfl, idle, held⟩
      · rw [entries i derived]
        obtain ⟨count, own, blocked⟩ := (s.entry i).setUp_spec (s.pairBlocked (s.entry i)) s.swath32 derived
        refine ⟨count, fun free => own ?_, fun held => blocked ((pairBlocked_iff s _).mpr held)⟩
        refine Bool.eq_false_iff.mpr fun held => ?_
        obtain ⟨p, src, stopped⟩ := (pairBlocked_iff s _).mp held
        simp [free p src] at stopped
  case refused =>
    obtain ⟨only, code, told, state, waits⟩ := armingRefused_spec s mask
    refine ⟨s.armingRefused mask, ?_, only, code, told, fun host => ?_, fun auto => ?_⟩
    · rw [exec_arming s mask since req boundary later, if_neg (by simpa using refused)]
    · rw [waits, state, host]
      exact ⟨rfl, rfl⟩
    · rw [waits, state, auto]
      exact ⟨rfl, rfl⟩

end Sys2Proof.Machine
end

section
/-!
PROOFS. TEST_N, resets whose condition does not stand, and a clock that fails (R52, R53, R323, R468, R546).
-/
namespace Sys2Proof.Machine

/-! ## The root PLL and TEST_N through a fault -/

/-- The root PLL runs as before, and TEST_N has been seen low as before. -/
structure ClockStands (s t : State) : Prop where
  pll : t.env.pll = s.env.pll
  testSeen : t.env.testSeen = s.env.testSeen

theorem clk_refl (s : State) : ClockStands s s := ⟨rfl, rfl⟩

theorem clk_step {s t u : State} (k : ClockStands t u) (h : ClockStands s t) : ClockStands s u :=
  ⟨k.pll.trans h.pll, k.testSeen.trans h.testSeen⟩

theorem ClockStands.kept {s t u : State} (h : ClockStands s t) (e : u.env = t.env) : ClockStands s u :=
  clk_step ⟨by rw [e], by rw [e]⟩ h

theorem clk_only {ps : List Part} {s t u : State} (k : OnlyChanges ps t u) (n : ps.contains .env = false) (h : ClockStands s t) :
    ClockStands s u := h.kept (k.same .env (by simpa using n))

theorem clk_ite {s t u : State} {c : Prop} [Decidable c] (h : ClockStands s t) (k : ClockStands s u) :
    ClockStands s (if c then t else u) := by
  split <;> assumption

/-- HALTED by a reaction asserts YFLT_N at most (R446). -/
theorem clk_deviceSafe (s : State) (msg : Word) : ClockStands s (s.deviceSafe msg) := by
  have stopped : ClockStands s ((((s.disarm 3).stopPairs).enter 4).setReg Reg.FC_REACT_MSG msg) :=
    clk_only (State.setReg_only ..) (by decide) (clk_only (State.enter_only ..) (by decide)
      (clk_only (State.stopPairs_only _) (by decide) (clk_only (State.disarm_only ..) (by decide) (clk_refl s))))
  unfold State.deviceSafe State.whenB
  dsimp only
  generalize (((s.disarm 3).stopPairs).enter 4).setReg Reg.FC_REACT_MSG msg = t at stopped
  refine clk_step ?_ stopped
  split <;> exact ⟨rfl, rfl⟩

theorem clk_react (s : State) (src kind addr cls : Nat) (auto : Bool) (msg : Word) :
    ClockStands s (s.react src kind addr cls auto msg) := by
  have latched : ClockStands s (s.latchChannels (s.targetChannels src kind addr) src kind auto) := (clk_refl s).kept rfl
  unfold State.react
  dsimp only
  generalize s.latchChannels (s.targetChannels src kind addr) src kind auto = t at latched
  have halves : ClockStands t (if cls ≥ clsHALF then
      (t.suspendReact.endDrive.disarm (t.targetHalves src)).markPending (t.targetHalves src) auto else t) :=
    clk_ite (clk_only (State.markPending_only ..) (by decide) (clk_only (State.disarm_only ..) (by decide)
      (clk_only (State.endDrive_only _) (by decide) (clk_only (State.suspendReact_only t) (by decide) (clk_refl t))))) (clk_refl t)
  refine clk_ite (clk_refl s) (clk_ite (clk_refl s) (clk_ite ?held ?taken))
  case held => exact clk_only (State.syncFc_only _) (by decide) (latched.kept rfl)
  case taken =>
    refine clk_only (State.syncFc_only _) (by decide) (clk_step ?_ (clk_step halves latched))
    exact clk_ite (clk_deviceSafe ..) (clk_ite (clk_only (State.resetReact_only ..) (by decide) (clk_refl _)) (clk_refl _))

theorem clk_raiseCore (s : State) (src kind addr : Nat) (forced rehearsal : Bool) :
    ClockStands s (s.raiseCore src kind addr forced rehearsal) := by
  have counted : ClockStands s (s.countSource src kind) := clk_only (State.countSource_only ..) (by decide) (clk_refl s)
  unfold State.raiseCore
  split
  · exact clk_refl s
  · dsimp only
    generalize s.countSource src kind = t at counted
    exact clk_ite (counted.kept rfl) (clk_step (clk_react ..) (counted.kept rfl))

/-- No fault stops the PLL or takes TEST_N back. -/
theorem clk_raiseWith (s : State) (src kind addr : Nat) (forced rehearsal : Bool) :
    ClockStands s (s.raiseWith src kind addr forced rehearsal) := by
  have core := clk_raiseCore s src kind addr forced rehearsal
  have cancelled (u : State) : ClockStands u (u.recfgCancelFor 0x21) :=
    clk_ite (clk_step (clk_raiseCore ..) (clk_only (State.setRecfg_only ..) (by decide) (clk_refl u))) (clk_refl u)
  exact clk_ite (clk_ite (clk_step (cancelled _) core) core) (clk_refl s)

theorem clk_raiseOnce (s : State) (src kind addr : Nat) : ClockStands s (s.raiseOnce src kind addr) := by
  unfold State.raiseOnce State.raiseByRule
  split
  · exact clk_raiseWith ..
  · exact clk_ite (clk_refl s) (clk_step (clk_raiseWith ..) ((clk_refl s).kept rfl))

/-! ## TEST_N (R546) -/

theorem clk_abandonTx (s : State) : ClockStands s s.abandonTx := by
  have latches : OnlyChanges [.regs, .cribs] s ((s.unlatchAll (s.hp.reads.map (·.latch))).unlatchAll (s.hp.sending.map (·.latch))) :=
    only_step (State.unlatchAll_only ..) (by decide) (only_mono (State.unlatchAll_only ..) (by decide))
  have waits (xs : List Sending) (u : State) :
      OnlyChanges [.regs] u (xs.foldl (fun (s : State) (x : Sending) => s.countWait x.wait) u) :=
    only_foldl (fun u x => State.countWait_only u x.wait) (only_refl _ u)
  have cut (u : State) : ClockStands u u.cutTx :=
    clk_step (clk_raiseOnce _ srcHP kHpFrame _) (clk_only (State.pcHost_only ..) (by decide) (clk_only (State.addF_only ..) (by decide) (clk_refl u)))
  exact clk_step (cut _) (clk_only (State.syncStalled_only ..) (by decide) ((clk_only (waits ..) (by decide)
    (clk_only latches (by decide) (clk_refl s))).kept rfl))

theorem txAbandoned_testSeen (s : State) : s.txAbandoned.env.testSeen = s.env.testSeen := by
  unfold State.txAbandoned
  split
  · rfl
  · exact (clk_abandonTx s).testSeen

/-- TEST_N has been seen low through a restart, the Cellar kept or lost, up to the next power-on. -/
theorem restart_testSeen (s : State) (st : Straps) (ok : Bool) : (s.restart st ok).env.testSeen = s.env.testSeen := by
  have booted (u : State) (none : u.fc.table = []) : (u.startBoot st).env = u.env := (startBoot_started u st none).parts.same .env (by decide)
  cases ok with
  | true =>
    have base := startAfresh_base s.txAbandoned
    rw [restart_true, booted _ (by rw [base.same .fc (by decide)]; rfl), base.same .env (by decide)]
    exact txAbandoned_testSeen s
  | false =>
    have logged := logMsg_held _ cellarLostMsg (coldAgain_crib0 s)
    have counted := State.countSource_only (s.coldAgain.logMsg cellarLostMsg) srcGRN kCellarLost
    have table : ((s.coldAgain.logMsg cellarLostMsg).countSource srcGRN kCellarLost).fc.table = [] := by
      rw [counted.same .fc (by decide), logged.table, (cold_coldAgain s).table]
    rw [restart_false, booted _ table, counted.same .env (by decide), logged.parts.same .env (by decide)]
    rfl

/-- A failed boot is shown in HALTED, and nothing else changes. -/
theorem haltBoot_spec (s : State) (r1 r2 : Nat) : (s.haltBoot r1 r2).isHalted = true ∧
    (s.haltBoot r1 r2).fld F.BOOT_STATUS_REASON_1 = r1 % 256 ∧
    KeepsRegs (fun a => a != Reg.SYS_STATE && a != Reg.BOOT_STATUS) s (s.haltBoot r1 r2) := by
  refine ⟨beq_iff_eq.mpr (State.fld_setF_same _ F.SYS_STATE_STATE 4 (by decide) (by decide)), ?_,
    kr_setF (by decide) (kr_setF (by decide) (kr_setF (by decide) (kr_refl s)))⟩
  refine (State.fld_setF_ne _ F.SYS_STATE_STATE F.BOOT_STATUS_REASON_1 _ (by decide) (by decide) (by decide) (by decide)).trans ?_
  refine (State.fld_setF_ne _ F.BOOT_STATUS_REASON_2 F.BOOT_STATUS_REASON_1 _ (by decide) (by decide) (by decide) (by decide)).trans ?_
  exact State.fld_setF_same _ F.BOOT_STATUS_REASON_1 r1 (by decide) (by decide)

/-- TEST_N has been low: that stays noted up to the next power-on. -/
def State.noteTest (s : State) : State := { s with env := { s.env with testSeen := true } }

theorem Found.noteTest {s u : State} (h : Found s u) : Found s u.noteTest :=
  h.after (only_env (ps := [.env]) (by decide) (only_refl _ u)) (by decide) ((kr_refl u).kept rfl) (st_env (st_refl u))

theorem relock_testSeen (s : State) : s.relock.env.testSeen = s.env.testSeen := by
  unfold State.relock
  split <;> rfl

theorem exec_testNLow (s : State) (st : Straps) (ok : Bool) (vin : s.env.vin = true) :
    exec (.testNLow st ok) s = .next ((s.atReset.noteTest.relock.restart st ok).haltBoot 0x0E 0) := by
  change execTestNLow st ok s = _
  unfold execTestNLow
  rw [if_pos vin, show (s.catchUp s.tick).loseDormant = s.atReset from rfl]
  rfl

theorem testNLow_halts (s : State) (st : Straps) (ok : Bool) (vin : s.env.vin = true) : Does (.testNLow st ok) s fun t =>
    t.isHalted = true ∧ t.fld F.BOOT_STATUS_REASON_1 = 0x0E ∧ t.env.testSeen = true ∧ t.pending = s.pending ∧
      (ok = true → t.tick = s.tick ∧ t.swath = s.swath ∧ t.mem = s.atReset.mem) := by
  obtain ⟨halted, reason, regs⟩ := haltBoot_spec (s.atReset.noteTest.relock.restart st ok) 0x0E 0
  have only := State.haltBoot_only (s.atReset.noteTest.relock.restart st ok) 0x0E 0
  have found := (found_atReset s).noteTest.relock
  refine ⟨_, exec_testNLow s st ok vin, halted, reason, ?_, ?_, fun spared => ?_⟩
  · rw [only.same .env (by decide), restart_testSeen, relock_testSeen]
    rfl
  · have restarted : (s.atReset.noteTest.relock.restart st ok).pending = s.atReset.noteTest.relock.pending :=
      (State.restart_only ..).same .pending (by decide)
    exact (only.same .pending (by decide)).trans (restarted.trans found.pending)
  · subst spared
    obtain ⟨tick, swath, -, -, -, -, -, -, mem, -⟩ := spared_found found (restart_spared _ st)
    exact ⟨(regs.pairReg (by decide) (by decide)).trans tick, (regs.pairReg (by decide) (by decide)).trans swath,
      (only.same .mem (by decide)).trans mem⟩

/-! ## Resets without their condition -/

theorem exec_testNLow_off (s : State) (st : Straps) (ok : Bool) (off : s.env.vin = false) : exec (.testNLow st ok) s = .next s :=
  congrArg Host.Outcome.next (if_neg (by simp [off]))

theorem exec_rstN_off (s : State) (st : Straps) (ok : Bool) (off : s.env.vin = false) : exec (.rstN st ok) s = .next s :=
  congrArg Host.Outcome.next (if_neg (by simp [off]))

theorem exec_resetReaction_early (s : State) (ok : Bool) (early : s.fc.resetting = false ∨ s.tick < s.fc.resetAt + resetTicks) :
    exec (.resetReaction ok) s = .next s := congrArg Host.Outcome.next (if_pos (by simpa using early))

theorem exec_coreBor_regulated (s : State) (ok : Bool) (full : s.fld F.PWR_CFG_REG ≠ 0) : exec (.coreBor ok) s = .next s :=
  congrArg Host.Outcome.next (if_pos (by simp [full]))

/-! ## A clock that fails (R53) -/

/-- CLK_FAIL, shown by a bit of TB_CLK_STATUS. -/
def State.clockFails (s : State) (f : Fld) : State :=
  let s := (s.setB f false).raise srcCLK kClkFail 0xFFF
  { s with env := { s.env with clkFailed := true } }

theorem exec_clkFail (lost : Bool) (s : State) :
    exec (.clkFail lost) s = .next (s.clockFails (if lost then F.TB_CLK_STATUS_PLL_LOCK else F.TB_CLK_STATUS_ROOT_OK)) := by
  cases lost <;> rfl

/-- A failed clock is told, shows in its own bit `f` and in no other field `g`, and the PLL runs on. -/
theorem clockFails_spec (s : State) (f g : Fld) (here : f.reg = Reg.TB_CLK_STATUS) (bit : f.hi = f.lo ∧ f.hi < 32)
    (there : g.reg = Reg.TB_CLK_STATUS) (apart : g.lo ≤ g.hi ∧ (g.hi < f.lo ∨ f.hi < g.lo)) :
    OnlyChanges faultParts s (s.clockFails f) ∧ (s.clockFails f).env.clkFailed = true ∧ (s.clockFails f).env.pll = s.env.pll ∧
      Told s.swath srcCLK kClkFail 0xFFF (s.clockFails f) ∧ (s.clockFails f).flag f = false ∧ (s.clockFails f).flag g = s.flag g := by
  have raised := fr_raise (s.setB f false) srcCLK kClkFail 0xFFF
  have kept (k : Fld) (e : k.reg = Reg.TB_CLK_STATUS) : (s.clockFails f).flag k = (s.setB f false).flag k := by
    have fault : faultReg k.reg = false := e ▸ by decide
    exact congrArg (· != 0) (State.fld_raise (s.setB f false) srcCLK kClkFail 0xFFF k fault)
  have swath : (s.setB f false).swath = s.swath :=
    (kr_setB (K := fun a => a != Reg.TB_CLK_STATUS) (by simp [here]) (kr_refl s)).pairReg (by decide) (by decide)
  refine ⟨?_, rfl, (clk_raiseWith ..).pll, ?_, (kept f here).trans (s.flag_setB_same f false bit.1 bit.2), (kept g there).trans ?_⟩
  · exact only_env (by decide) (only_step (State.raise_only ..) (by decide) (only_mono (State.setB_only ..) (by decide)))
  · exact swath ▸ told_raise (s := s.setB f false) (by decide)
  · exact congrArg (· != 0) (s.fld_setF_ne f g _ (by omega) bit.2 apart.1 (.inr apart.2))

/-- Settles O24: TEST_N restarts what a reset finds, with TEST_N noted, and halts the boot; the resets whose condition does not stand
leave the state; and raising CLK_FAIL writes neither TB_CLK_STATUS nor the PLL. -/
theorem resetsNeedTheirConditionAndClocksFail : Obligations.ResetsNeedTheirConditionAndClocksFail := by
  refine ⟨fun s st ok => ⟨testNLow_halts s st ok, fun off => ⟨⟨s, exec_testNLow_off s st ok off, rfl⟩, s, exec_rstN_off s st ok off, rfl⟩,
    fun early => ⟨s, exec_resetReaction_early s ok early, rfl⟩, fun full => ⟨s, exec_coreBor_regulated s ok full, rfl⟩⟩,
    fun lost s => ?fails⟩
  case fails =>
    cases lost with
    | true =>
      obtain ⟨only, failed, pll, told, lock, root⟩ :=
        clockFails_spec s F.TB_CLK_STATUS_PLL_LOCK F.TB_CLK_STATUS_ROOT_OK rfl (by decide) rfl (by decide)
      exact ⟨_, exec_clkFail true s, only, failed, pll, told, fun _ => ⟨lock, root⟩, nofun⟩
    | false =>
      obtain ⟨only, failed, pll, told, root, lock⟩ :=
        clockFails_spec s F.TB_CLK_STATUS_ROOT_OK F.TB_CLK_STATUS_PLL_LOCK rfl (by decide) rfl (by decide)
      exact ⟨_, exec_clkFail false s, only, failed, pll, told, nofun, fun _ => ⟨root, lock⟩⟩

end Sys2Proof.Machine
end

section
/-!
PROOFS. The SYNC phase loop: edges that are ignored, qualified, used or wild, edges that do not come, and writes of SYNC_CTRL
(R65-R71, R73, R76).
-/
namespace Sys2Proof.Machine

/-! ## A counting field -/

/-- A counting field goes up by one. -/
theorem counted_addF (s : State) (f : Fld) (lo : f.lo ≤ f.hi) (hi : f.hi < 32) : Counted s f (s.addF f 1) := by
  have apart : f.reg ≠ f.news.reg := by
    change f.reg ≠ f.reg + newsBase
    simp only [newsBase]
    omega
  have fits : min (s.fld f + 1) f.top < 2 ^ (f.hi - f.lo + 1) :=
    Nat.lt_of_le_of_lt (Nat.min_le_right ..) (Nat.sub_lt (Nat.two_pow_pos _) Nat.one_pos)
  refine (State.fld_setF_ne _ f.news f _ lo hi lo (.inl apart)).trans ((s.fld_setF_same f _ lo hi).trans ?_)
  exact (Nat.mod_eq_of_lt fits).trans (Nat.min_comm ..)

/-- Another field stands while a field counts. -/
theorem fld_addF_ne (s : State) (f g : Fld) (n : Nat) (lo : f.lo ≤ f.hi) (hi : f.hi < 32) (k : g.lo ≤ g.hi) (low : g.reg < newsBase)
    (d : g.reg ≠ f.reg ∨ g.hi < f.lo ∨ f.hi < g.lo) : (s.addF f n).fld g = s.fld g := by
  have apart : g.reg ≠ f.news.reg := by
    change g.reg ≠ f.reg + newsBase
    omega
  exact (State.fld_setF_ne _ f.news g _ lo hi k (.inl apart)).trans (s.fld_setF_ne f g _ lo hi k d)

/-! ## Edges that the loop does not take (R65, R66, R73, R76) -/

/-- The loop takes an edge of the selected polarity: it is enabled, is not idle in Dormant, follows no Yoke, and the pulse has its
width. -/
structure TakesEdge (s : State) (width : Nat) : Prop where
  src : s.syncSrc ≠ 0
  follows : s.followsYoke = false
  on : s.pwr.mode ≠ 4
  wide : 5 ≤ width
  long : s.syncSrc = 3 → 30 ≤ width

section
variable {s : State} {stamp width : Nat} {falling : Bool}

theorem syncEdge_ignored (h : s.syncSrc = 0 ∨ s.followsYoke = true ∨ s.pwr.mode = 4 ∨ width < 5 ∨ (s.syncSrc = 3 ∧ width < 30)) :
    exec (.syncEdge stamp width falling) s = .next s := by
  refine congrArg Host.Outcome.next (if_pos ?_)
  rcases h with h | h | h | h | h <;> simp [h]

theorem syncEdge_otherPolarity : exec (.syncEdge stamp width (!s.syncPol)) s = .next s :=
  congrArg Host.Outcome.next (if_pos (by simp))

/-- What the loop does with an edge that it takes, by its state (R68, R69). -/
def State.loopEdge (s : State) (t : Nat) : State :=
  match s.loop with
  | 1 | 4 => s.qualifyEdge t
  | 2 => s.pullEdge t
  | 3 => s.lockedEdge t
  | _ => s

theorem syncEdge_taken (h : TakesEdge s width) : exec (.syncEdge stamp width s.syncPol) s = .next (s.loopEdge stamp) := by
  obtain ⟨src, follows, on, wide, long⟩ := h
  have short : (s.syncSrc == 3 && decide (width < 30)) = false := by
    by_cases three : s.syncSrc = 3
    · simpa [three] using long three
    · simp [three]
  exact congrArg Host.Outcome.next (if_neg (by simp [src, follows, on, wide, short]))

theorem loopEdge_qualifies (loop : s.loop = lpACQUIRE ∨ s.loop = lpFREERUN) : s.loopEdge stamp = s.qualifyEdge stamp := by
  unfold State.loopEdge
  rcases loop with loop | loop <;> rw [loop] <;> rfl

theorem loopEdge_pulls (loop : s.loop = lpPULL) : s.loopEdge stamp = s.pullEdge stamp := by
  unfold State.loopEdge
  rw [loop]
  rfl

theorem loopEdge_steers (loop : s.loop = lpLOCKED) : s.loopEdge stamp = s.lockedEdge stamp := by
  unfold State.loopEdge
  rw [loop]
  rfl

end

/-! ## Qualifying edges (R68) -/

/-- The row of edges under way is `run`. -/
def State.edgeRow (s : State) (run : List Nat) : State := { s with tb := { s.tb with edges := run } }

theorem edgeRow_only (s : State) (run : List Nat) : OnlyChanges [.tb] s (s.edgeRow run) := only_tb (by decide) (only_refl _ s)

theorem qualifyEdge_first (s : State) (t : Nat) (none : s.tb.edges = []) : s.qualifyEdge t = s.edgeRow [t] := by
  unfold State.qualifyEdge
  rw [none]
  rfl

/-- A spacing outside the lock range begins a new row. -/
theorem qualifyEdge_afresh (s : State) (t : Nat) {a : Nat} {es : List Nat} (row : s.tb.edges = a :: es)
    (out : s.inLockRange (t - a) = false) : s.qualifyEdge t = s.edgeRow [t] := by
  unfold State.qualifyEdge
  rw [row]
  simp [out, State.edgeRow]

theorem qualifyEdge_joins (s : State) (t : Nat) {a : Nat} {es : List Nat} (row : s.tb.edges = a :: es) (few : es.length < 2)
    (fits : s.inLockRange (t - a) = true) : s.qualifyEdge t = s.edgeRow (t :: a :: es) := by
  unfold State.qualifyEdge
  rw [row]
  simp only [fits, if_true]
  exact if_neg (by simp only [List.length_cons]; omega)

/-- The fourth edge sets P to the mean of the three spacings and moves the loop to PULL. -/
def State.qualified (s : State) (t c : Nat) : State :=
  let s := (s.setF F.SYNC_PERIOD_P ((t - c) / 3)).setF F.SYNC_STATUS_STATE lpPULL
  { s with tb := { s.tb with edges := [t], good := 0, missRow := 0, c := 0, held := [], usedMark := none } }

theorem qualifyEdge_fourth (s : State) (t : Nat) {a b c : Nat} (row : s.tb.edges = [a, b, c])
    (fits : s.inLockRange (t - a) = true) : s.qualifyEdge t = s.qualified t c := by
  unfold State.qualifyEdge
  rw [row]
  simp only [fits, if_true]
  rfl

theorem qualified_spec (s : State) (t c : Nat) : OnlyChanges [.regs, .tb] s (s.qualified t c) ∧ (s.qualified t c).loop = lpPULL ∧
    (s.qualified t c).trackP = (t - c) / 3 % 2 ^ 32 ∧
    RegsKeep (fun r => r == Reg.SYNC_STATUS || r == Reg.SYNC_PERIOD) s (s.qualified t c) := by
  have period := s.fld_setF_same F.SYNC_PERIOD_P ((t - c) / 3) (by decide) (by decide)
  refine ⟨only_tb (by decide) (only_step (State.setF_only ..) (by decide) (only_mono (State.setF_only ..) (by decide))),
    State.fld_setF_same _ F.SYNC_STATUS_STATE lpPULL (by decide) (by decide), ?_, ⟨fun r _ out => ?_⟩⟩
  · exact (State.fld_setF_ne _ F.SYNC_STATUS_STATE F.SYNC_PERIOD_P _ (by decide) (by decide) (by decide) (by decide)).trans period
  · simp only [Bool.or_eq_false_iff, beq_eq_false_iff_ne] at out
    exact (State.reg_setF_ne _ F.SYNC_STATUS_STATE _ r out.1).trans (s.reg_setF_ne F.SYNC_PERIOD_P _ r out.2)

/-! ## Edges that are used (R68-R71) -/

/-- What the update of a used edge with error `e` leaves, whatever the state of the loop. -/
theorem loopUpdate_spec (s : State) (e : Int) (due : Nat) :
    OnlyChanges [.regs, .tb] s (s.loopUpdate e due) ∧ (s.loopUpdate e due).loop = s.loop ∧
      (s.loopUpdate e due).tb = { s.tb with
        c := s.tb.c + e / (2 ^ s.kpShift : Nat), held := s.tb.held ++ [(s.trackP, e / (2 ^ s.kpShift : Nat), due)], missRow := 0 } ∧
      (s.loopUpdate e due).trackP = (max (((9 * s.pNomNow + 9) / 10 : Nat) : Int) (min ((s.pNomNow * 11 / 10 : Nat) : Int)
        ((s.trackP : Int) + e / (2 ^ s.kiShift : Nat)))).toNat % 2 ^ 32 := by
  have shown (u : State) (i j : Nat) (g : Fld) (k : g.lo ≤ g.hi) (d : g.reg ≠ Reg.SYNC_STATUS ∨ g.hi < 8) :
      ((u.setF F.SYNC_STATUS_ERROR i).setF F.SYNC_STATUS_MISSING j).fld g = u.fld g := by
    refine (State.fld_setF_ne _ F.SYNC_STATUS_MISSING g j (by decide) (by decide) k (d.imp_right .inl)).trans ?_
    refine u.fld_setF_ne F.SYNC_STATUS_ERROR g i (by decide) (by decide) k (d.imp_right fun low => .inl ?_)
    exact Nat.lt_trans low (by decide)
  refine ⟨?_, ?_, rfl, ?_⟩
  · exact only_tb (by decide) (only_step (State.setF_only ..) (by decide) (only_step (State.setF_only ..) (by decide)
      (only_mono (State.setF_only ..) (by decide))))
  · exact (shown _ _ _ F.SYNC_STATUS_STATE (by decide) (by decide)).trans
      (s.fld_setF_ne F.SYNC_PERIOD_P F.SYNC_STATUS_STATE _ (by decide) (by decide) (by decide) (by decide))
  · exact (shown _ _ _ F.SYNC_PERIOD_P (by decide) (by decide)).trans (s.fld_setF_same F.SYNC_PERIOD_P _ (by decide) (by decide))

/-- An edge has been used for boundary `i`. -/
def State.edgeUsed (s : State) (t i good : Nat) : State :=
  { s with tb := { s.tb with edges := [t], good := good, usedMark := some i } }

section
variable {s : State} {stamp i x : Nat} {e : Int} (near : nearestMark ((stamp : Int) + s.syncOffset) s.markCandidates = some (i, x))
  (error : e = (stamp : Int) + s.syncOffset - x)
include near error

theorem lockedEdge_wild (out : e.natAbs > s.lNom / 4 ∨ s.tb.usedMark = some i) : s.lockedEdge stamp = s.wildEdge := by
  subst error
  unfold State.lockedEdge
  rw [near]
  exact if_pos (by simpa using out)

/-- The first edge in the window of its boundary corrects the loop once the window has closed. -/
theorem lockedEdge_used (close : e.natAbs ≤ s.lNom / 4) (first : s.tb.usedMark ≠ some i) : s.lockedEdge stamp =
    (s.loopUpdate e (max s.tick (((x : Int) + (s.lNom / 4 : Nat) - s.syncOffset).toNat))).edgeUsed stamp i s.tb.good := by
  subst error
  unfold State.lockedEdge
  rw [near]
  exact if_neg (by simpa [first] using close)

/-- In PULL an edge is used at once; four good ones in a row lock the loop. -/
theorem pullEdge_used (fits : ∀ a es, s.tb.edges = a :: es → s.inLockRange (stamp - a) = true) {good : Nat}
    (count : good = if e.natAbs ≤ 48 then s.tb.good + 1 else 0) : s.pullEdge stamp =
      if good ≥ 4 then ((s.loopUpdate e s.tick).edgeUsed stamp i good).setF F.SYNC_STATUS_STATE lpLOCKED
      else (s.loopUpdate e s.tick).edgeUsed stamp i good := by
  subst error count
  unfold State.pullEdge
  rw [near]
  cases row : s.tb.edges with
  | nil => exact if_neg (by simp)
  | cons a es => exact if_neg (by simp [fits a es row])

end

/-- In PULL a spacing outside the lock range begins the qualifying afresh. -/
theorem pullEdge_lost (s : State) (t : Nat) {a : Nat} {es : List Nat} (row : s.tb.edges = a :: es)
    (out : s.inLockRange (t - a) = false) : ∃ u, u = s.setF F.SYNC_STATUS_STATE lpACQUIRE ∧
      s.pullEdge t = { u with tb := { u.tb with edges := [t], good := 0 } } := by
  refine ⟨_, rfl, ?_⟩
  unfold State.pullEdge
  rw [row]
  exact if_pos (by simpa using out)

/-- A wild edge is counted and told, and the loop goes on (R69). -/
theorem wildEdge_spec (s : State) : OnlyChanges faultParts s s.wildEdge ∧ Counted s F.SYNC_COUNTS_SYNC_WILD_CNT s.wildEdge ∧
    Told s.swath srcSYNC kSyncWild 0xFFF s.wildEdge ∧ s.wildEdge.loop = s.loop := by
  have swath : (s.addF F.SYNC_COUNTS_SYNC_WILD_CNT 1).swath = s.swath :=
    (kr_addF (K := fun a => decide (a < Reg.SYNC_CTRL)) (by decide) (by decide) (kr_refl s)).pairReg (by decide) (by decide)
  refine ⟨only_step (State.raise_only ..) (by decide) (only_mono (State.addF_only ..) (by decide)), ?_, ?_, ?_⟩
  · exact (State.fld_raise _ _ _ _ _ (by decide)).trans (counted_addF s _ (by decide) (by decide))
  · exact swath ▸ told_raise (s := s.addF F.SYNC_COUNTS_SYNC_WILD_CNT 1) (by decide)
  · exact (State.fld_raise _ _ _ _ _ (by decide)).trans (fld_addF_ne s _ _ 1 (by decide) (by decide) (by decide) (by decide) (by decide))

/-! ## Edges that do not come (R69) -/

/-- An edge is missing, and counts in the row. -/
def State.edgeMissed (s : State) : State :=
  let s := (s.addF F.SYNC_COUNTS_SYNC_MISS_CNT 1).addF F.SYNC_STATUS_MISSING 1
  { s with tb := { s.tb with missRow := s.tb.missRow + 1 } }

/-- The lock is lost. -/
def State.freeRuns (s : State) : State :=
  let s := s.setF F.SYNC_STATUS_STATE lpFREERUN
  { s with tb := { s.tb with edges := [], good := 0 } }

theorem edgeMissed_spec (s : State) : OnlyChanges [.regs, .tb] s s.edgeMissed ∧ Counted s F.SYNC_COUNTS_SYNC_MISS_CNT s.edgeMissed ∧
    Counted s F.SYNC_STATUS_MISSING s.edgeMissed ∧ s.edgeMissed.loop = s.loop ∧
    KeepsRegs (fun a => decide (a < Reg.SYNC_CTRL)) s s.edgeMissed := by
  have first (g : Fld) (k : g.lo ≤ g.hi) (low : g.reg < newsBase) (d : g.reg ≠ Reg.SYNC_COUNTS) :
      (s.addF F.SYNC_COUNTS_SYNC_MISS_CNT 1).fld g = s.fld g := fld_addF_ne s _ g 1 (by decide) (by decide) k low (.inl d)
  have second (u : State) (g : Fld) (k : g.lo ≤ g.hi) (low : g.reg < newsBase) (d : g.reg ≠ Reg.SYNC_STATUS ∨ g.hi < 8) :
      (u.addF F.SYNC_STATUS_MISSING 1).fld g = u.fld g := fld_addF_ne u _ g 1 (by decide) (by decide) k low (d.imp_right .inl)
  refine ⟨?_, ?_, ?_, ?_, ?_⟩
  · exact only_tb (by decide) (only_step (State.addF_only ..) (by decide) (only_mono (State.addF_only ..) (by decide)))
  · exact (second _ _ (by decide) (by decide) (by decide)).trans (counted_addF s _ (by decide) (by decide))
  · refine (counted_addF _ F.SYNC_STATUS_MISSING (by decide) (by decide)).trans ?_
    rw [first _ (by decide) (by decide) (by decide)]
  · exact (second _ _ (by decide) (by decide) (by decide)).trans (first _ (by decide) (by decide) (by decide))
  · exact KeepsRegs.kept (t := (s.addF F.SYNC_COUNTS_SYNC_MISS_CNT 1).addF F.SYNC_STATUS_MISSING 1)
      (kr_addF (by decide) (by decide) (kr_addF (by decide) (by decide) (kr_refl s))) rfl

theorem freeRuns_spec (s : State) : OnlyChanges [.regs, .tb] s s.freeRuns ∧ s.freeRuns.loop = lpFREERUN ∧
    KeepsRegs (fun a => a != Reg.SYNC_STATUS) s s.freeRuns :=
  ⟨only_tb (by decide) (only_mono (State.setF_only ..) (by decide)),
    State.fld_setF_same _ F.SYNC_STATUS_STATE lpFREERUN (by decide) (by decide), (kr_setF (by decide) (kr_refl s)).kept rfl⟩

section
variable {s : State}

theorem syncMissing_idle (h : (s.loop ≠ lpPULL ∧ s.loop ≠ lpLOCKED) ∨ s.pwr.mode = 4 ∨ s.followsYoke = true) :
    exec .syncMissingEdge s = .next s := by
  refine congrArg Host.Outcome.next (if_neg ?_)
  rcases h with ⟨pull, locked⟩ | h | h
  · simp [pull, locked]
  · simp [h]
  · simp [h]

variable (loop : s.loop = lpPULL ∨ s.loop = lpLOCKED) (on : s.pwr.mode ≠ 4) (alone : s.followsYoke = false)
include loop on alone

theorem syncMissing_taken : exec .syncMissingEdge s = .next (if s.tb.missRow + 1 ≥ 8 then
    if s.loop == lpLOCKED then s.edgeMissed.freeRuns.raise srcSYNC kSyncLost 0xFFF else s.edgeMissed.freeRuns else s.edgeMissed) :=
  congrArg Host.Outcome.next (if_pos (by rcases loop with loop | loop <;> simp [loop, on, alone]))

theorem syncMissing_counts (few : s.tb.missRow < 7) : DoesOnly [.regs, .tb] .syncMissingEdge s fun t =>
    Counted s F.SYNC_COUNTS_SYNC_MISS_CNT t ∧ t.tb.missRow = s.tb.missRow + 1 ∧ t.loop = s.loop ∧ Counted s F.SYNC_STATUS_MISSING t := by
  obtain ⟨only, missed, shown, same, -⟩ := edgeMissed_spec s
  refine ⟨s.edgeMissed, ?_, only, missed, rfl, same, shown⟩
  rw [syncMissing_taken loop on alone, if_neg (by omega)]

/-- The eighth in a row loses the lock (R69). -/
theorem syncMissing_loses (eighth : 7 ≤ s.tb.missRow) : DoesOnly (.tb :: faultParts) .syncMissingEdge s fun t =>
    t.loop = lpFREERUN ∧ t.tb.edges = [] ∧ Counted s F.SYNC_COUNTS_SYNC_MISS_CNT t ∧
      (s.loop = lpLOCKED → Told s.swath srcSYNC kSyncLost 0xFFF t) := by
  obtain ⟨only, missed, -, -, regs⟩ := edgeMissed_spec s
  obtain ⟨only', loop', regs'⟩ := freeRuns_spec s.edgeMissed
  have parts : OnlyChanges (.tb :: faultParts) s s.edgeMissed.freeRuns := only_step only' (by decide) (only_mono only (by decide))
  have missed' : Counted s F.SYNC_COUNTS_SYNC_MISS_CNT s.edgeMissed.freeRuns := (regs'.fld _ (by decide)).trans missed
  have swath : s.edgeMissed.freeRuns.swath = s.swath :=
    (regs'.pairReg (by decide) (by decide)).trans (regs.pairReg (by decide) (by decide))
  refine ⟨_, syncMissing_taken loop on alone, ?_⟩
  rw [if_pos (by omega)]
  by_cases locked : s.loop = lpLOCKED
  · have told : Told s.swath srcSYNC kSyncLost 0xFFF (s.edgeMissed.freeRuns.raise srcSYNC kSyncLost 0xFFF) :=
      swath ▸ told_raise (s := s.edgeMissed.freeRuns) (by decide)
    have raised := State.raise_only s.edgeMissed.freeRuns srcSYNC kSyncLost 0xFFF
    rw [if_pos (beq_iff_eq.mpr locked)]
    refine ⟨only_step raised (by decide) parts, (State.fld_raise _ _ _ _ _ (by decide)).trans loop', ?_,
      (State.fld_raise _ _ _ _ _ (by decide)).trans missed', fun _ => told⟩
    rw [raised.same .tb (by decide)]
    rfl
  · rw [if_neg (by simpa using locked)]
    exact ⟨parts, loop', rfl, missed', fun h => absurd h locked⟩

end

/-! ## SYNC_CTRL (R17, R65) -/

/-- The fields of a written SYNC_CTRL: KP_SHIFT and KI_SHIFT keep a value that the write does not set. -/
theorem syncCtrlMerge_fields (old v : Word) :
    wbits (syncCtrlMerge old v) 11 8 = (if wbits v 11 8 ≤ 4 then wbits v 11 8 else wbits old 11 8) ∧
      wbits (syncCtrlMerge old v) 7 4 = (if 1 ≤ wbits v 7 4 ∧ wbits v 7 4 ≤ 8 then wbits v 7 4 else wbits old 7 4) ∧
      wbits (syncCtrlMerge old v) 3 0 = wbits v 3 0 := by
  have nibble (w : Word) (lo : Nat) : wbits w (lo + 3) lo < 16 := by
    unfold wbits
    rw [show lo + 3 - lo + 1 = 4 by omega]
    exact Nat.mod_lt _ (by decide)
  have kp : (if wbits v 11 8 ≤ 4 then wbits v 11 8 else wbits old 11 8) < 16 := by
    split
    · exact nibble v 8
    · exact nibble old 8
  have ki : (if 1 ≤ wbits v 7 4 ∧ wbits v 7 4 ≤ 8 then wbits v 7 4 else wbits old 7 4) < 16 := by
    split
    · exact nibble v 4
    · exact nibble old 4
  have low : wbits v 3 0 < 16 := nibble v 0
  unfold syncCtrlMerge
  simp only [Bool.and_eq_true, decide_eq_true_eq]
  generalize (if wbits v 11 8 ≤ 4 then wbits v 11 8 else wbits old 11 8) = a at kp
  generalize (if 1 ≤ wbits v 7 4 ∧ wbits v 7 4 ≤ 8 then wbits v 7 4 else wbits old 7 4) = b at ki
  generalize wbits v 3 0 = c at low
  have whole : (BitVec.ofNat 32 (a * 256 + b * 16 + c)).toNat = a * 256 + b * 16 + c := by
    rw [BitVec.toNat_ofNat]
    omega
  unfold wbits
  rw [whole]
  simp only [Nat.shiftRight_eq_div_pow]
  omega

/-- A field of one bit is that bit. -/
theorem wbits_one (w : Word) (n : Nat) : (wbits w n n != 0) = wbit w n := by
  have bit : (wbits w n n).testBit 0 = wbit w n := (testBit_wbits w n n 0).trans (by simp [wbit])
  have small : wbits w n n < 2 := by
    unfold wbits
    rw [Nat.sub_self]
    exact Nat.mod_lt _ (by decide)
  rw [← bit]
  interval_cases wbits w n n <;> rfl

/-- The lower bits of equal fields are equal. -/
theorem getLsbD_of_wbits {w v : Word} {hi i : Nat} (same : wbits w hi 0 = wbits v hi 0) (h : i ≤ hi) : w.getLsbD i = v.getLsbD i := by
  have bit (u : Word) : (wbits u hi 0).testBit i = u.getLsbD i := by simp [testBit_wbits, Nat.lt_succ_of_le h]
  rw [← bit w, ← bit v, same]

theorem wbits_of_wider {w v : Word} {hi k : Nat} (same : wbits w hi 0 = wbits v hi 0) (h : k ≤ hi) : wbits w k 0 = wbits v k 0 := by
  refine Nat.eq_of_testBit_eq fun i => ?_
  simp only [testBit_wbits, Nat.zero_add, Nat.sub_zero]
  by_cases low : i < k + 1
  · rw [getLsbD_of_wbits same (by omega)]
  · simp [low]

theorem writeSyncCtrl_spec (s : State) (v : Word) :
    (s.writeSyncCtrl v).fld F.SYNC_CTRL_KP_SHIFT = (if wbits v 11 8 ≤ 4 then wbits v 11 8 else s.fld F.SYNC_CTRL_KP_SHIFT) ∧
      (s.writeSyncCtrl v).fld F.SYNC_CTRL_KI_SHIFT =
        (if 1 ≤ wbits v 7 4 ∧ wbits v 7 4 ≤ 8 then wbits v 7 4 else s.fld F.SYNC_CTRL_KI_SHIFT) ∧
      (s.writeSyncCtrl v).fld F.SYNC_CTRL_SRC = wbits v 1 0 ∧ (s.writeSyncCtrl v).flag F.SYNC_CTRL_POL = wbit v 2 ∧
      (s.writeSyncCtrl v).flag F.SYNC_CTRL_OUT_EN = wbit v 3 := by
  obtain ⟨kp, ki, low⟩ := syncCtrlMerge_fields (s.reg Reg.SYNC_CTRL) v
  have word : (s.writeSyncCtrl v).reg Reg.SYNC_CTRL = syncCtrlMerge (s.reg Reg.SYNC_CTRL) v := s.reg_setReg_same ..
  have shows (f : Fld) (here : f.reg = Reg.SYNC_CTRL) :
      (s.writeSyncCtrl v).fld f = wbits (syncCtrlMerge (s.reg Reg.SYNC_CTRL) v) f.hi f.lo := by
    unfold State.fld
    rw [here, word]
  have bit (i : Nat) (h : i ≤ 3) := getLsbD_of_wbits low h
  refine ⟨(shows _ rfl).trans kp, (shows _ rfl).trans ki, (shows _ rfl).trans (wbits_of_wider low (by decide)), ?_, ?_⟩
  · exact (congrArg (· != 0) (shows F.SYNC_CTRL_POL rfl)).trans ((wbits_one _ 2).trans (bit 2 (by decide)))
  · exact (congrArg (· != 0) (shows F.SYNC_CTRL_OUT_EN rfl)).trans ((wbits_one _ 3).trans (bit 3 (by decide)))

/-! ## The edges of a loop that takes them -/

section
variable {s : State} {stamp width : Nat} (takes : TakesEdge s width)
include takes

/-- In ACQUIRE and in FREERUN four edges of fitting spacings bring PULL (R68). -/
theorem syncEdge_qualifies (loop : s.loop = lpACQUIRE ∨ s.loop = lpFREERUN) :
    (∀ a b c, s.tb.edges = [a, b, c] → s.inLockRange (stamp - a) = true →
      DoesOnly [.regs, .tb] (.syncEdge stamp width s.syncPol) s fun t =>
        t.loop = lpPULL ∧ t.trackP = (stamp - c) / 3 % 2 ^ 32 ∧ t.tb.edges = [stamp] ∧
        RegsKeep (fun r => r == Reg.SYNC_STATUS || r == Reg.SYNC_PERIOD) s t) ∧
    (s.tb.edges = [] → DoesOnly [.tb] (.syncEdge stamp width s.syncPol) s fun t => t.tb.edges = [stamp]) ∧
    (∀ a es, s.tb.edges = a :: es → es.length < 2 → s.inLockRange (stamp - a) = true →
      DoesOnly [.tb] (.syncEdge stamp width s.syncPol) s fun t => t.tb.edges = stamp :: a :: es) ∧
    (∀ a es, s.tb.edges = a :: es → s.inLockRange (stamp - a) = false →
      DoesOnly [.tb] (.syncEdge stamp width s.syncPol) s fun t => t.tb.edges = [stamp]) := by
  have runs : exec (.syncEdge stamp width s.syncPol) s = .next (s.qualifyEdge stamp) :=
    (syncEdge_taken takes).trans (congrArg _ (loopEdge_qualifies loop))
  have row (run : List Nat) (e : s.qualifyEdge stamp = s.edgeRow run) :
      DoesOnly [.tb] (.syncEdge stamp width s.syncPol) s fun t => t.tb.edges = run :=
    ⟨_, runs.trans (congrArg _ e), edgeRow_only s run, rfl⟩
  refine ⟨fun a b c three fits => ?fourth, fun none => row _ (qualifyEdge_first s stamp none),
    fun a es some few fits => row _ (qualifyEdge_joins s stamp some few fits),
    fun a es some out => row _ (qualifyEdge_afresh s stamp some out)⟩
  case fourth =>
    obtain ⟨only, pull, period, regs⟩ := qualified_spec s stamp c
    exact ⟨_, runs.trans (congrArg _ (qualifyEdge_fourth s stamp three fits)), only, pull, period, rfl, regs⟩

/-- A spacing outside the lock range ends PULL (R68). -/
theorem syncEdge_pullEnds {a : Nat} {es : List Nat} (loop : s.loop = lpPULL) (row : s.tb.edges = a :: es)
    (out : s.inLockRange (stamp - a) = false) : DoesOnly [.regs, .tb] (.syncEdge stamp width s.syncPol) s fun t =>
      t.loop = lpACQUIRE ∧ t.tb.edges = [stamp] ∧ RegsKeep (fun r => r == Reg.SYNC_STATUS) s t := by
  obtain ⟨u, rfl, e⟩ := pullEdge_lost s stamp row out
  refine ⟨_, (syncEdge_taken takes).trans (congrArg _ ((loopEdge_pulls loop).trans e)), ?_, ?_, rfl,
    ⟨(regsKeep_setF s F.SYNC_STATUS_STATE lpACQUIRE).same⟩⟩
  · exact only_tb (by decide) (only_mono (State.setF_only ..) (by decide))
  · exact s.fld_setF_same F.SYNC_STATUS_STATE lpACQUIRE (by decide) (by decide)

variable {i x : Nat} {e : Int} (near : nearestMark ((stamp : Int) + s.syncOffset) s.markCandidates = some (i, x))
  (error : e = (stamp : Int) + s.syncOffset - x)
include near error

theorem syncEdge_wild (loop : s.loop = lpLOCKED) (out : e.natAbs > s.lNom / 4 ∨ s.tb.usedMark = some i) :
    DoesOnly faultParts (.syncEdge stamp width s.syncPol) s fun t =>
      Counted s F.SYNC_COUNTS_SYNC_WILD_CNT t ∧ Told s.swath srcSYNC kSyncWild 0xFFF t ∧ t.loop = lpLOCKED := by
  obtain ⟨only, counted, told, same⟩ := wildEdge_spec s
  exact ⟨_, (syncEdge_taken takes).trans (congrArg _ ((loopEdge_steers loop).trans (lockedEdge_wild near error out))), only, counted,
    told, same.trans loop⟩

/-- An edge in the window of its boundary steers the loop (R69-R71). -/
theorem syncEdge_steers (loop : s.loop = lpLOCKED) (close : e.natAbs ≤ s.lNom / 4) (first : s.tb.usedMark ≠ some i) :
    DoesOnly [.regs, .tb] (.syncEdge stamp width s.syncPol) s fun t =>
      t.loop = lpLOCKED ∧ t.tb.usedMark = some i ∧ t.tb.missRow = 0 ∧ t.tb.c = s.tb.c + e / (2 ^ s.kpShift : Nat) ∧
      t.tb.held = s.tb.held ++ [(s.trackP, e / (2 ^ s.kpShift : Nat),
        max s.tick (((x : Int) + (s.lNom / 4 : Nat) - s.syncOffset).toNat))] ∧
      t.trackP = (max (((9 * s.pNomNow + 9) / 10 : Nat) : Int) (min ((s.pNomNow * 11 / 10 : Nat) : Int)
        ((s.trackP : Int) + e / (2 ^ s.kiShift : Nat)))).toNat % 2 ^ 32 := by
  obtain ⟨only, same, tb, period⟩ :=
    loopUpdate_spec s e (max s.tick (((x : Int) + (s.lNom / 4 : Nat) - s.syncOffset).toNat))
  refine ⟨_, (syncEdge_taken takes).trans (congrArg _ ((loopEdge_steers loop).trans (lockedEdge_used near error close first))),
    only_tb (by decide) only, same.trans loop, rfl, ?_, ?_, ?_, period⟩
  · exact congrArg Tb.missRow tb
  · exact congrArg Tb.c tb
  · exact congrArg Tb.held tb

/-- In PULL every fitting edge pulls the swath, and the fourth good one in a row locks the loop (R68, R70). -/
theorem syncEdge_pulls (loop : s.loop = lpPULL) (fits : ∀ a es, s.tb.edges = a :: es → s.inLockRange (stamp - a) = true) :
    DoesOnly [.regs, .tb] (.syncEdge stamp width s.syncPol) s fun t =>
      t.tb.usedMark = some i ∧ t.tb.c = s.tb.c + e / (2 ^ s.kpShift : Nat) ∧ t.tb.edges = [stamp] ∧
      (e.natAbs ≤ 48 → 3 ≤ s.tb.good → t.loop = lpLOCKED) ∧ (48 < e.natAbs → t.loop = lpPULL ∧ t.tb.good = 0) := by
  obtain ⟨only, same, tb, -⟩ := loopUpdate_spec s e s.tick
  have runs := (syncEdge_taken takes).trans (congrArg Host.Outcome.next ((loopEdge_pulls loop).trans (pullEdge_used near error fits rfl)))
  have parts (good : Nat) : OnlyChanges [.regs, .tb] s ((s.loopUpdate e s.tick).edgeUsed stamp i good) := only_tb (by decide) only
  refine ⟨_, runs, ?_⟩
  by_cases lock : (if e.natAbs ≤ 48 then s.tb.good + 1 else 0) ≥ 4
  · have small : e.natAbs ≤ 48 := by
      by_contra far
      simp [far] at lock
    rw [if_pos lock]
    exact ⟨only_step (State.setF_only ..) (by decide) (parts _), rfl, congrArg Tb.c tb, rfl,
      fun _ _ => State.fld_setF_same _ F.SYNC_STATUS_STATE lpLOCKED (by decide) (by decide), fun far => absurd small (Nat.not_le.mpr far)⟩
  · rw [if_neg lock]
    refine ⟨parts _, rfl, congrArg Tb.c tb, rfl, fun small run => absurd ?_ lock, fun far => ⟨same.trans loop, if_neg (Nat.not_le.mpr far)⟩⟩
    rw [if_pos small]
    omega

end

/-- Settles O31: an edge that the loop takes is qualified, pulled or steered by the loop's state, each by its own lemma; a missing edge
counts up to the eighth in a row; a write of SYNC_CTRL merges its fields. -/
theorem syncEdgesQualifyPullLockAndGoMissing : Obligations.SyncEdgesQualifyPullLockAndGoMissing := by
  refine ⟨fun stamp width s => ⟨fun h falling => ⟨s, syncEdge_ignored h, rfl⟩, ⟨s, syncEdge_otherPolarity, rfl⟩,
    fun src follows on wide long => ?takes⟩, fun s => ⟨fun loop on alone => ?missing, fun pull locked => ?stopped,
    fun h => ⟨s, syncMissing_idle (.inr h), rfl⟩, fun v on => ?ctrl⟩⟩
  case takes =>
    have takes : TakesEdge s width := ⟨src, follows, on, wide, long⟩
    exact ⟨syncEdge_qualifies takes, fun a es loop row out => syncEdge_pullEnds takes loop row out,
      fun i x e near error => ⟨syncEdge_wild takes near error, syncEdge_steers takes near error, syncEdge_pulls takes near error⟩⟩
  case missing => exact ⟨syncMissing_counts loop on alone, syncMissing_loses loop on alone⟩
  case stopped => exact ⟨s, syncMissing_idle (.inl ⟨pull, locked⟩), rfl⟩
  case ctrl =>
    obtain ⟨kp, ki, src, pol, out⟩ := writeSyncCtrl_spec s v
    refine ⟨_, s.hostKey_on _ on, State.setReg_only .., regsKeep_setReg .., fun used => kp.trans (if_pos used),
      fun unused => kp.trans (if_neg (Nat.not_le.mpr unused)), fun one used => ki.trans (if_pos ⟨one, used⟩),
      fun unused => ki.trans (if_neg (by omega)), src, pol, out⟩

end Sys2Proof.Machine
end

section
/-!
PROOFS. The sequencer's and the precision windows' part of a stook boundary leaves the timebase alone (R141, R144, R173-R185).
-/
namespace Sys2Proof.Machine

section
variable {device rest window : Bool} {pairs : PairIx → Bool} {s t : State}

/-- A step of the sequencer's own record. -/
theorem st_updSeq {h : HalfIx} {f : Seq → Seq} (k : Steady (.loose device rest window pairs) s t) :
    Steady (.loose device rest window pairs) s (t.updSeq h f) := st_loose (State.updSeq_only ..) (by decide) k

theorem State.closePrec_st (s : State) (r : StookRaw) (stook : Nat) : Steady (.loose device rest window pairs) s (s.closePrec r stook) := by
  have short (c : ChIx) : quiet (F.THR_FLAGS_SHORT_STOOK c.val).reg = true := by
    revert c
    decide
  refine st_foldl (fun u c => st_ite (st_thrFlag (short c) (st_refl u)) (st_ite (st_refl u) ?_)) (st_foldl (fun u h => ?_) (st_refl s))
  · exact st_loose (State.updChan_only ..) (by decide) (st_refl u)
  · exact st_loose (State.updHalf_only ..) (by decide) (st_refl u)

/-! ## Steps of an entry -/

theorem State.insertSelf_st (s : State) (h : HalfIx) (r : Nat × Nat) (after : SeqStage) :
    Steady (.loose device rest window pairs) s (s.insertSelf h r after) :=
  st_step (State.stage_st ..) (st_updSeq (State.setSpare_st ..))

/-- The spare is given an input, and a stage begins. -/
theorem st_stageWith (h : HalfIx) (mode target code : Nat) (g : SeqStage) (k : Steady (.loose device rest window pairs) s t) :
    Steady (.loose device rest window pairs) s ((t.setSpare h mode target code).stage h g) :=
  st_step (State.stage_st ..) (st_step (State.setSpare_st ..) k)

theorem State.beginRun_st (s : State) (h : HalfIx) (c : ChIx) : Steady (.loose device rest window pairs) s (s.beginRun h c) :=
  st_ite (State.insertSelf_st ..) (st_stageWith _ _ _ _ _ (st_refl s))

theorem State.beginCover_st (s : State) (h : HalfIx) (c : ChIx) (g : SeqStage) :
    Steady (.loose device rest window pairs) s (s.beginCover h c g) :=
  st_ite (State.insertSelf_st ..) (st_stageWith _ _ _ _ _ (st_refl s))

theorem State.beginCheck_st (s : State) (h : HalfIx) (c : ChIx) (g : SeqStage) :
    Steady (.loose device rest window pairs) s (s.beginCheck h c g) :=
  st_ite (State.insertSelf_st ..) (State.stage_st ..)

theorem State.endEntry_st (s : State) (h : HalfIx) : Steady (.loose device rest window pairs) s (s.endEntry h) := by
  unfold State.endEntry
  repeat' first
    | with_reducible exact st_refl _ | with_reducible apply st_setF | with_reducible apply st_setB | with_reducible apply st_setReg
    | with_reducible apply st_updSeq | with_reducible apply st_stageWith
    | with_reducible apply st_loose (State.internalStale_only ..) (by decide) | with_reducible apply st_ite | dsimp only
    | (clear * -; decide +revert)

theorem State.runDone_st (s : State) (h : HalfIx) {again : State → State}
    (k : ∀ u, Steady (.loose device rest window pairs) u (again u)) : Steady (.loose device rest window pairs) s (s.runDone h again) := by
  have left : quiet (F.SEQ_STATUS_REPEAT_LEFT h.val).reg = true := by
    revert h
    decide
  exact st_ite (st_step (State.endEntry_st ..) (st_setF left (st_refl s))) (st_step (k _) (st_updSeq (st_setF left (st_refl s))))

theorem State.afterShadow_st (s : State) (h : HalfIx) : Steady (.loose device rest window pairs) s (s.afterShadow h) := by
  unfold State.afterShadow
  dsimp only
  split
  · exact State.beginCover_st ..
  · exact State.beginCover_st ..
  · exact State.runDone_st s h fun u => State.beginRun_st u h _

/-! ## The sequencer of a half -/

theorem State.seqStook_st (s : State) (h : HalfIx) (r : StookRaw) (stook : Nat) :
    Steady (.loose device rest window pairs) s (s.seqStook h r stook) := by
  have left : quiet (F.SEQ_STATUS_REPEAT_LEFT h.val).reg = true := by
    revert h
    decide
  have idle (u : State) (raw : ModRaw) : Steady (.loose device rest window pairs) u (u.idleStook h raw) :=
    st_loose (State.idleStook_only ..) (by decide) (st_refl u)
  unfold State.seqStook
  dsimp only
  refine st_ite (st_step (State.runDone_st _ h st_refl) (st_whenB (fun u => idle u _) (st_refl s))) (st_ite (st_refl s)
    (st_ite (idle s _) (st_ite ?skip ?stages)))
  case skip => exact st_step (State.endEntry_st ..) (st_loose (State.updChan_only ..) (by decide) (st_refl s))
  case stages =>
    split
    case h_1 => exact st_refl s
    case h_2 => exact st_refl s
    case h_3 => exact st_step (State.runDone_st _ h st_refl) (st_loose (State.noteInt_only ..) (by decide) (st_refl s))
    case h_4 => exact st_step (State.stage_st ..) (st_updSeq (st_refl s))
    case h_5 =>
      have refreshed : Steady (.loose device rest window pairs) s (match (s.seqOf h).selfLeft.head? with
          | some x => s.refreshSet h x (r.spares.getD h.val {})
          | none => s) := by
        split
        · exact st_loose (State.refreshSet_only ..) (by decide) (st_refl s)
        · exact st_refl s
      refine st_ite ?_ (st_ite ?_ ?_)
      · exact st_step (State.stage_st ..) (st_updSeq (st_step (State.setSpare_st ..) (st_updSeq refreshed)))
      · exact st_step (State.stage_st ..) (st_updSeq (st_step (State.setSpare_st ..) (st_updSeq refreshed)))
      · exact st_step (State.runDone_st _ h fun u => st_step (State.stage_st ..) (st_updSeq (st_refl u))) (st_updSeq refreshed)
    case h_6 =>
      refine st_ite (st_step (State.afterShadow_st ..) (st_updSeq (st_refl s))) (st_ite ?_ (st_updSeq (st_refl s)))
      exact st_step (State.insertSelf_st ..) (st_updSeq (st_refl s))
    case h_7 => exact st_step (State.stage_st ..) (st_updSeq (st_refl s))
    case h_8 =>
      have drawn : Steady (.loose device rest window pairs) s (calibrate (s.seqOf h).zeroRaw (r.chans.getD (s.target h).val {}) s).2 :=
        st_loose (calibrate_only ..) (by decide) (st_refl s)
      exact st_step (State.beginCheck_st ..) (st_loose (State.updChan_only ..) (by decide) drawn)
    case h_9 =>
      exact st_ite (st_step (State.beginCheck_st ..) (st_setF left (st_updSeq (st_refl s)))) (st_setF left (st_updSeq (st_refl s)))
    case h_10 =>
      exact st_ite (st_step (State.stage_st ..) (st_updSeq (st_refl s))) (st_step (State.beginCheck_st ..) (st_updSeq (st_refl s)))
    case h_11 =>
      refine st_ite (st_step (State.beginCover_st ..) (st_updSeq (st_refl s))) (st_ite (st_ite ?_ ?_) (st_refl s))
      · exact st_step (State.runDone_st _ h fun u => State.beginRun_st u h _) (State.setSpare_st ..)
      · exact st_step (State.endEntry_st ..) (State.setSpare_st ..)

theorem State.unpark_st (s : State) (h : HalfIx) : Steady (.loose device rest window pairs) s (s.unpark h) := by
  have parked (c : ChIx) : quiet (F.SPR_CHSTAT_PARKED c.val).reg = true := by
    revert c
    decide
  exact st_ite (st_step (State.endEntry_st ..) (st_setB (parked _) (st_loose (State.updChan_only ..) (by decide) (st_refl s)))) (st_refl s)

theorem State.ageChannels_st (s : State) (h : HalfIx) : Steady (.loose device rest window pairs) s (s.ageChannels h) := by
  have age (c : ChIx) : quiet (F.SPR_CHSTAT_AGE c.val).reg = true := by
    revert c
    decide
  exact st_foldl (fun u c => st_addF (age c) (st_refl u)) (st_refl s)

theorem State.spareStook_st (s : State) (h : HalfIx) (r : StookRaw) (stook : Nat) :
    Steady (.loose device rest window pairs) s (s.spareStook h r stook) := by
  have half (u : State) (f : Half → Half) : Steady (.loose device rest window pairs) u (u.updHalf h f) :=
    st_loose (State.updHalf_only ..) (by decide) (st_refl u)
  unfold State.spareStook
  refine st_step (State.ageChannels_st ..) (st_loose (State.internalStale_only ..) (by decide)
    (st_loose (State.syncSpareIn_only ..) (by decide) (st_step (half ..) ?_)))
  exact st_ite (half ..) (st_ite (st_step (State.unpark_st ..) (half ..)) (st_step (State.seqStook_st ..) (half ..)))

/-- Step 1 of a stook boundary. -/
theorem State.closeStook_st (s : State) (r : StookRaw) (stook : Nat) (short : Bool) :
    Steady (.loose device rest window pairs) s (s.closeStook r stook short) := by
  have cut : Steady (.loose device rest window pairs) s
      (if short then { s with chans := s.chans.map fun (x : Chan) => { x with wOpen := false } } else s) :=
    st_ite (st_loose (ps := [.chans]) (only_chans (by decide) (only_refl _ s)) (by decide) (st_refl s)) (st_refl s)
  exact st_foldl (fun u h => State.spareStook_st u h r stook) (st_step (State.closePrec_st ..) cut)

end
end Sys2Proof.Machine
end

section
/-!
PROOFS. What a boundary counts, and what the counters hold after it (R57, R58, R63).
-/
namespace Sys2Proof.Machine

section
variable {s t u : State}

/-! ## Counters that stand -/

/-- The counters of the timebase read as before. -/
structure CountsStand (s t : State) : Prop where
  swath : t.swath = s.swath
  btick : t.btick = s.btick
  stook : t.stook = s.stook
  phase : t.phase = s.phase

theorem cs_refl (s : State) : CountsStand s s := ⟨rfl, rfl, rfl, rfl⟩

theorem cs_step (k : CountsStand t u) (h : CountsStand s t) : CountsStand s u :=
  ⟨k.swath.trans h.swath, k.btick.trans h.btick, k.stook.trans h.stook, k.phase.trans h.phase⟩

theorem KeepsRegs.counts {K : Nat → Bool} (h : KeepsRegs K s t)
    (k : [Reg.TB_SWATH_LO, Reg.TB_SWATH_HI, Reg.TB_BTICK_LO, Reg.TB_BTICK_HI, Reg.TB_STOOK_LO, Reg.TB_STOOK_HI, Reg.TB_PHASE].all K = true) :
    CountsStand s t := by
  simp only [List.all_cons, List.all_nil, Bool.and_true, Bool.and_eq_true] at k
  obtain ⟨swathLo, swathHi, btickLo, btickHi, stookLo, stookHi, phase⟩ := k
  exact ⟨h.pairReg swathLo swathHi, h.pairReg btickLo btickHi, h.pairReg stookLo stookHi, h.fld F.TB_PHASE_STOOK_PHASE phase⟩

theorem DeviceStands.counts (d : DeviceStands false s t) : CountsStand s t := (KeepsRegs.mk d.regs).counts (by decide)

theorem Steady.counts (h : Steady .ofDevice s t) : CountsStand s t := (h.device rfl).counts

/-- A new length of the swath leaves the counters. -/
theorem setLength_counts (s : State) (l : Nat) : CountsStand s (s.setF F.TB_PHASE_LENGTH l) := by
  have others : KeepsRegs (fun a => a != Reg.TB_PHASE) s (s.setF F.TB_PHASE_LENGTH l) := kr_setF (by decide) (kr_refl s)
  exact ⟨others.pairReg (by decide) (by decide), others.pairReg (by decide) (by decide), others.pairReg (by decide) (by decide),
    s.fld_setF_ne F.TB_PHASE_LENGTH F.TB_PHASE_STOOK_PHASE l (by decide) (by decide) (by decide) (by decide)⟩

theorem updYk_counts (s : State) (f : Yk → Yk) : CountsStand s (s.updYk f) := ⟨rfl, rfl, rfl, rfl⟩

/-! ## Counting a boundary -/

/-- Beside the counters, counting a boundary leaves every register. -/
theorem countBoundary_regsKept (s : State) (n : Count) : KeepsRegs (fun a => !countReg a) s (s.countBoundary n) := by
  have placed (u : State) (i j : Nat) : KeepsRegs (fun a => !countReg a) u ((u.setSwath i).setBtick j) :=
    kr_setPairReg (by decide) (by decide) (kr_setPairReg (by decide) (by decide) (kr_refl u))
  refine kr_setF (by decide) (kr_ite (kr_setPairReg (by decide) (by decide) (kr_step (placed ..) ?_)) (kr_step (placed ..) ?_)) <;>
    exact (kr_refl s).kept rfl

/-- What the counters hold once a boundary is counted. -/
structure BoundaryCounted (n : Count) (s t : State) : Prop where
  swath : t.swath = (s.swath + 1) % 2 ^ 48
  btick : t.btick = (s.btick + s.swLen) % 2 ^ 64
  stook : t.stook = if n.isStook then (s.stook + 1) % 2 ^ 48 else s.stook
  phase : t.phase = n.phase % 2 ^ 8

theorem countBoundary_counts (s : State) (n : Count) : BoundaryCounted n s (s.countBoundary n) := by
  have phased (u : State) : KeepsRegs (fun a => a != Reg.TB_PHASE) u (u.setF F.TB_PHASE_STOOK_PHASE n.phase) := kr_setF (by decide) (kr_refl u)
  have stooked (u : State) (j : Nat) :
      KeepsRegs (fun a => a != Reg.TB_STOOK_LO && a != Reg.TB_STOOK_HI) u (if n.isStook then u.setStook j else u) :=
    kr_ite (kr_setPairReg (by decide) (by decide) (kr_refl u)) (kr_refl u)
  have placed (u : State) (i j : Nat) : ((u.setSwath i).setBtick j).stook = u.stook :=
    (pairReg_setPairReg_ne _ (by decide) (by decide)).trans (pairReg_setPairReg_ne _ (by decide) (by decide))
  refine ⟨?_, ?_, ?_, State.fld_setF_same _ F.TB_PHASE_STOOK_PHASE n.phase (by decide) (by decide)⟩
  · refine ((phased _).pairReg (by decide) (by decide)).trans (((stooked _ _).pairReg (by decide) (by decide)).trans ?_)
    refine (pairReg_setPairReg_ne _ (by decide) (by decide)).trans
      ((State.pairReg_setPairReg_same _ Reg.TB_SWATH_LO Reg.TB_SWATH_HI 48 _ (by decide) (by decide)).trans ?_)
    rw [Nat.mod_mod]
    rfl
  · refine ((phased _).pairReg (by decide) (by decide)).trans (((stooked _ _).pairReg (by decide) (by decide)).trans ?_)
    exact State.pairReg_setPairReg_same _ Reg.TB_BTICK_LO Reg.TB_BTICK_HI 64 _ (by decide) (by decide)
  · refine ((phased _).pairReg (by decide) (by decide)).trans ?_
    split
    · refine (State.pairReg_setPairReg_same _ Reg.TB_STOOK_LO Reg.TB_STOOK_HI 48 _ (by decide) (by decide)).trans ?_
      rw [placed, Nat.mod_mod]
      rfl
    · exact placed ..

/-! ## The phase of the next boundary -/

theorem kLen_lt (s : State) : s.kLen < 2 ^ 8 := Nat.mod_lt _ (by decide)

theorem nextCount_alone (h : s.yk.alignEnd = none) :
    s.nextCount.aligned = false ∧ s.nextCount.isStook = (s.boot.tbNext.isSome || decide (s.kLen ≤ s.phase + 1)) ∧
      s.nextCount.phase = if s.boot.tbNext.isSome || decide (s.kLen ≤ s.phase + 1) then 0 else s.phase + 1 := by
  have aligned : s.endsAligned = false := by
    unfold State.endsAligned
    rw [h]
    rfl
  unfold State.nextCount State.nextIsStook
  simp [aligned]

/-- Inside a stook the phase counts on (R57). -/
theorem inStook_counted (h : BoundaryCounted s.nextCount s t) (a : s.yk.alignEnd = none) (b : s.boot.tbNext = none)
    (inside : s.phase + 1 < s.kLen) : t.phase = s.phase + 1 ∧ t.stook = s.stook := by
  obtain ⟨-, isStook, phase⟩ := nextCount_alone a
  have goesOn : (s.boot.tbNext.isSome || decide (s.kLen ≤ s.phase + 1)) = false := by simp [b, inside]
  rw [h.phase, h.stook, isStook, phase, goesOn]
  exact ⟨Nat.mod_eq_of_lt (inside.trans (kLen_lt s)), rfl⟩

/-- At the end of a stook, and at the boundary of R63, the stook counts on from phase 0 (R58, R63). -/
theorem stookEnd_counted (h : BoundaryCounted s.nextCount s t) (a : s.yk.alignEnd = none)
    (ends : s.boot.tbNext.isSome = true ∨ s.kLen ≤ s.phase + 1) : t.phase = 0 ∧ t.stook = (s.stook + 1) % 2 ^ 48 := by
  obtain ⟨-, isStook, phase⟩ := nextCount_alone a
  have ended : (s.boot.tbNext.isSome || decide (s.kLen ≤ s.phase + 1)) = true := by simpa using ends
  rw [h.phase, h.stook, isStook, phase, ended]
  exact ⟨rfl, rfl⟩

theorem BoundaryCounted.stands {n : Count} (h : BoundaryCounted n s t) (k : CountsStand t u) : BoundaryCounted n s u :=
  ⟨k.swath.trans h.swath, k.btick.trans h.btick, k.stook.trans h.stook, k.phase.trans h.phase⟩

/-! ## The boundary of a device alone -/

/-- The counters stand, and a device alone stays alone. -/
structure StandsAlone (s t : State) : Prop where
  counts : CountsStand s t
  alone : Alone s → Alone t

theorem sa_refl (s : State) : StandsAlone s s := ⟨cs_refl s, id⟩

theorem sa_step (k : StandsAlone t u) (h : StandsAlone s t) : StandsAlone s u := ⟨cs_step k.counts h.counts, fun a => k.alone (h.alone a)⟩

theorem Steady.standsAlone (h : Steady .ofDevice s t) : StandsAlone s t := ⟨h.counts, fun a => a.stands (h.device rfl)⟩

/-- L_nom, K and SYNC_OFFSET come into force, where an image waits for them. -/
theorem applyR63_standsAlone (s : State) : StandsAlone s s.applyR63 := by
  match h : s.boot.tbNext with
  | none =>
    unfold State.applyR63
    rw [h]
    exact sa_refl s
  | some (cfg, off) =>
    rw [applyR63_eq h]
    have regs := takeR63_regs s cfg off
    have loop (u : State) (b : Bool) : Steady .ofDevice u (u.whenB b State.restartLoop) := st_whenB (fun u => u.restartLoop_st) (st_refl u)
    refine sa_step (loop ..).standsAlone ⟨regs.counts (by decide), fun a => ⟨a.1, a.2.imp (fun e => ?_) id⟩⟩
    unfold State.joined at e ⊢
    rw [regs.fld F.YK_STATUS_STATE (by decide)]
    exact e

theorem outOfBoot_isBoot (s : State) : s.outOfBoot.isBoot = false :=
  isBoot_of_fld (State.fld_setF_same _ F.SYS_STATE_STATE 2 (by decide) (by decide)) (by decide)

theorem outOfBoot_standsAlone (s : State) : StandsAlone s s.outOfBoot := by
  have before : Steady .ofDevice s
      { s.whenB (!s.fc.heldReact.isEmpty) State.suspendReact with
        fc := { (s.whenB (!s.fc.heldReact.isEmpty) State.suspendReact).fc with heldReact := [] } } :=
    st_fc (st_whenB State.suspendReact_st (st_refl s))
  unfold State.outOfBoot
  dsimp only
  generalize ({ s.whenB (!s.fc.heldReact.isEmpty) State.suspendReact with
        fc := { (s.whenB (!s.fc.heldReact.isEmpty) State.suspendReact).fc with heldReact := [] } } : State) = u at before
  have entered : KeepsRegs (fun b => b != Reg.SYS_STATE) u (u.enter 2) := kr_setF (by decide) (kr_refl u)
  exact sa_step ⟨entered.counts (by decide), fun a => a.keeps entered rfl rfl (by decide)⟩ before.standsAlone

theorem finishBoot_standsAlone (s : State) : StandsAlone s s.finishBoot := by
  by_cases h : s.isBoot = true
  · rw [finishBoot_eq s h, leaveBoot_eq]
    have loaded : Steady .ofDevice s s.loadedDies := State.loadedDies_st s
    have rest (v : State) (held : List (Nat × Nat × Bool × Word)) (out : v.isBoot = false) :
        Steady .ofDevice v (v.takeHeld held).startJournal.autoRequest :=
      st_step (State.autoRequest_st _) (st_step (State.startJournal_st _) (State.takeHeld_st _ _ fun _ => out))
    exact sa_step (rest _ _ (outOfBoot_isBoot _)).standsAlone (sa_step (outOfBoot_standsAlone _) loaded.standsAlone)
  · rw [show s.finishBoot = s from if_pos (by simpa using h)]
    exact sa_refl s

theorem atR63_standsAlone (s : State) : StandsAlone s s.atR63 := by
  have dropped : Steady .ofDevice s s.dropStook := State.dropStook_st s
  have gleaner (u : State) : Steady .ofDevice u u.gleanerStart.flushBuffer :=
    st_step (State.flushBuffer_st _) (st_only (State.gleanerStart_only _) (by decide) (st_refl u))
  exact sa_step (gleaner _).standsAlone (sa_step (finishBoot_standsAlone _) (sa_step (applyR63_standsAlone _) dropped.standsAlone))

/-- Step 1, where no aligning swath ends. -/
theorem stepOne_standsAlone {a : State} (s : State) (r : StookRaw) (e : a.nextCount.aligned = false) : StandsAlone s (s.stepOne a r) := by
  have closed (b : Bool) : Steady .ofDevice s (s.closeStook r a.stook b) := State.closeStook_st ..
  unfold State.stepOne
  rw [e]
  simp only [Bool.false_eq_true, if_false]
  exact (st_ite (closed _) (st_refl s)).standsAlone

/-- Steps 2 to 6 of a device alone: a staged set and nothing of a partner's. -/
theorem stepsTwoToSix_alone (a : Alone s) : CountsStand s s.stepsTwoToSix := by
  have tables : Steady .ofDevice s s.tables := State.tables_st s
  have alone := a.stands (tables.device rfl)
  have block := alone.partnerBlock
  have alone := alone.stands (block.device rfl)
  unfold State.stepsTwoToSix
  dsimp only
  rw [alone.forwarded]
  have late : Steady .ofDevice s (s.tables.partnerBlock.lateAtTarget s.tables.partnerBlock.pipe.lateB) :=
    st_only (State.lateAtTarget_only ..) (by decide) (st_step block tables)
  exact late.counts

theorem fixLength_counts (s : State) (phase : Nat) : CountsStand s (s.fixLength phase) := by
  unfold State.fixLength
  dsimp only
  have judged : Steady .ofDevice s (s.whenB (s.yk.aligning && !s.isSafe) fun s => s.refuseJoin 9) :=
    st_whenB (fun u => u.refuseJoin_st 9) (st_refl s)
  refine cs_step ?_ judged.counts
  generalize (s.whenB (s.yk.aligning && !s.isSafe) fun s => s.refuseJoin 9) = u
  split
  · exact cs_step (updYk_counts ..) (setLength_counts ..)
  · have length : Steady .ofDevice u (u.swathLength phase).2 := st_only (State.swathLength_only u phase) (by decide) (st_refl u)
    exact cs_step (setLength_counts ..) length.counts

theorem swathBegins_counts (s a : State) : CountsStand s (s.swathBegins a) := by
  have waited (w : Word) (b : Bool) : Steady .ofDevice s ((s.waiting w).applySyncCtrl.markBoundary b) :=
    st_only (State.markBoundary_only ..) (by decide) (st_step (State.applySyncCtrl_st _) (State.waiting_st ..))
  have budget (u : State) : Steady .ofDevice u u.fixBudget := State.fixBudget_st u
  exact cs_step (budget _).counts (cs_step (fixLength_counts ..) (waited ..).counts)

theorem sidesFollow_counts (s a : State) : CountsStand s (s.sidesFollow a) := by
  have sides : Steady .ofDevice s ((s.fieldBoundary a.nextCount a.btick).gleanerBoundary (!a.glnOn)) :=
    st_step (State.gleanerBoundary_st ..) (State.fieldBoundary_st ..)
  have released (u : State) : Steady .ofDevice u u.releaseNow.syncReady := st_step (State.syncReady_st _) (State.releaseNow_st _)
  exact cs_step (released _).counts (cs_step ((joinComplete_regs _).counts (by decide)) sides.counts)

/-- What a boundary puts aside is no counter and nothing of a Yoke. -/
theorem turnOver_stands (s : State) (prev : Nat) : DeviceStands false s (s.turnOver prev).dieBoundary := by
  have die (u : State) : Steady .ofDevice u u.dieBoundary := State.dieBoundary_st u
  exact ds_step ((die _).device rfl) (ds_same rfl rfl rfl nofun)

theorem turned_counted (s : State) : BoundaryCounted s.nextCount s s.turned := by
  exact (countBoundary_counts s s.nextCount).stands (turnOver_stands ..).counts

theorem Alone.turned (h : Alone s) : Alone s.turned := by
  have only := countBoundary_regs s s.nextCount
  exact (h.keeps (countBoundary_regsKept s s.nextCount) (only.same .boot (by decide)) (only.same .yk (by decide)) (by decide)).stands
    (turnOver_stands ..)

/-- What comes after the count of a boundary leaves the counters of a device alone. -/
theorem boundaryFrom_counts (a : State) (r : StookRaw) (h : Alone a) (e : a.nextCount.aligned = false) :
    CountsStand a.turned (a.boundaryFrom r) := by
  have one := stepOne_standsAlone a.turned r e
  have contributed : StandsAlone a.turned (if a.nextCount.r63 then (a.turned.stepOne a r).atR63 else a.turned.stepOne a r) := by
    split
    · exact sa_step (atR63_standsAlone _) one
    · exact one
  have commits (u : State) (late armed : Bool) : Steady .ofDevice u (u.commits late armed) := State.commits_st u _ _ (fun _ => rfl) rfl
  have shown (u : State) : Steady .ofDevice u (u.shown a) := State.shown_st ..
  unfold State.boundaryFrom
  dsimp only
  exact cs_step (shown _).counts (cs_step (sidesFollow_counts ..) (cs_step (swathBegins_counts ..) (cs_step (commits ..).counts
    (cs_step (stepsTwoToSix_alone (contributed.alone h.turned)) contributed.counts))))

end
end Sys2Proof.Machine
end

section
/-!
PROOFS. Swath, stook and phase count at the boundary of a device alone, and in Dormant (R57-R59, R63, R224, R522).
-/
namespace Sys2Proof.Machine

section
variable {s t u : State} {n : Count}

/-! ## The boundary of a device alone -/

/-- What stands up to the count of a boundary is counted from. -/
theorem BoundaryCounted.since (h : BoundaryCounted n t u) (d : DeviceStands false s t) : BoundaryCounted n s u := by
  obtain ⟨swath, btick, stook, phase⟩ := d.counts
  have swLen : t.swLen = s.swLen := (KeepsRegs.mk d.regs).fld F.TB_PHASE_LENGTH (by decide)
  refine ⟨?_, ?_, ?_, h.phase⟩
  · rw [h.swath, swath]
  · rw [h.btick, btick, swLen]
  · rw [h.stook, stook]

theorem nextCount_stands (d : DeviceStands false s t) (e : s.yk.alignEnd = none) : t.nextCount = s.nextCount := by
  have kLen : t.kLen = s.kLen := (KeepsRegs.mk d.regs).fld F.TB_CONFIG_K (by decide)
  unfold State.nextCount State.nextIsStook State.endsAligned
  rw [d.align e, e, d.tbNext, kLen, d.counts.phase]
  rfl

/-- A boundary counts once, and nothing else of it counts (R57, R58, R63). -/
theorem boundary_counted (s : State) (r : StookRaw) (alone : Alone s) (e : s.yk.alignEnd = none) :
    BoundaryCounted s.nextCount s (s.boundary r) := by
  have ended := (s.swathOver_st (device := true) (pairs := fun _ => true)).device rfl
  rw [boundary_eq, ← nextCount_stands ended e]
  exact ((turned_counted _).stands (boundaryFrom_counts _ r (alone.stands ended) (nextCount_alone (ended.align e)).1)).since ended

/-! ## The boundary that falls due in Dormant -/

theorem half_of_halves (e : t.halves = s.halves) (h : HalfIx) : t.half h = s.half h := congrArg (·.get h) e

/-- A field die counts on by its own length, and nothing else of its half changes (R224). -/
theorem dieBoundary_half (s : State) (h : HalfIx) :
    s.dieBoundary.half h = { s.half h with dieAt := (s.dieBoundary.half h).dieAt } := by
  unfold State.dieBoundary
  refine List.foldlRecOn (motive := fun (t : State) => t.half h = { s.half h with dieAt := (t.half h).dieAt }) allHalves _ rfl fun t sofar k _ => ?_
  dsimp only
  rw [half_updHalf]
  split
  · rw [sofar]
  · exact sofar

/-- The length of a swath in Dormant: the base length (R59, R73). -/
def State.dormantLength (s : State) (phase : Nat) : Nat :=
  if s.loop == lpDISABLED then s.lNom else baseLen s.trackP s.marksM (if s.marksM == 1 then 0 else phase)

theorem dormantBoundary_eq (s : State) : s.dormantBoundary = ((s.countBoundary s.nextCount).setF F.TB_PHASE_LENGTH
    ((s.countBoundary s.nextCount).dormantLength s.nextCount.phase)).dieBoundary.unfolded := rfl

theorem dormantBoundary_counted (s : State) : BoundaryCounted s.nextCount s s.dormantBoundary := by
  have rest (u : State) : Steady .ofDevice u u.dieBoundary.unfolded := st_only (State.unfolded_only _) (by decide) (State.dieBoundary_st u)
  rw [dormantBoundary_eq]
  exact (countBoundary_counts s s.nextCount).stands (cs_step (rest _).counts (setLength_counts ..))

theorem dormantBoundary_tick (s : State) : s.dormantBoundary.tick = s.tick := by
  have counted : KeepsRegs (fun a => !countReg a) s s.dormantBoundary := by
    rw [dormantBoundary_eq]
    exact kr_only (State.unfolded_only _) (by decide) (kr_only (State.dieBoundary_only _) (by decide)
      (kr_setF (by decide) (countBoundary_regsKept s _)))
  exact counted.pairReg (by decide) (by decide)

theorem dormantBoundary_half (s : State) (h : HalfIx) :
    s.dormantBoundary.half h = { s.half h with dieAt := (s.dormantBoundary.half h).dieAt } := by
  rw [dormantBoundary_eq]
  generalize (s.countBoundary s.nextCount).dormantLength s.nextCount.phase = l
  have before : OnlyChanges [.regs, .pipe] s ((s.countBoundary s.nextCount).setF F.TB_PHASE_LENGTH l) :=
    only_step (State.setF_only ..) (by decide) (State.countBoundary_only ..)
  have half : ((s.countBoundary s.nextCount).setF F.TB_PHASE_LENGTH l).half h = s.half h := half_of_halves (before.same .halves (by decide)) h
  generalize (s.countBoundary s.nextCount).setF F.TB_PHASE_LENGTH l = u at half
  rw [half_of_halves ((State.unfolded_only u.dieBoundary).same .halves (by decide)) h, ← half]
  exact dieBoundary_half u h

theorem dormantBoundary_only (s : State) : OnlyChanges [.regs, .sig, .pipe, .halves] s s.dormantBoundary := by
  rw [dormantBoundary_eq]
  exact only_step (State.unfolded_only _) (by decide) (only_step (State.dieBoundary_only _) (by decide)
    (only_step (State.setF_only ..) (by decide) (only_mono (State.countBoundary_only ..) (by decide))))

/-! ## One count of the root in Dormant -/

/-- 1,024 ticks later (R59). -/
def State.dormantTick (s : State) : State := s.setTick ((s.tick + 1024) % 2 ^ 64)

theorem dormantTick_tick (s : State) : s.dormantTick.tick = (s.tick + 1024) % 2 ^ 64 :=
  (State.pairReg_setPairReg_same s Reg.TB_TICK_LO Reg.TB_TICK_HI 64 _ (by decide) (by decide)).trans (Nat.mod_mod ..)

theorem dormantTick_stands (s : State) : DeviceStands false s s.dormantTick :=
  (State.setTick_st (device := true) (rest := false) (window := true) (pairs := fun _ => false) s _).device rfl

theorem dormantTick_half (s : State) (h : HalfIx) : s.dormantTick.half h = s.half h :=
  half_of_halves ((State.setTick_only s _).same .halves (by decide)) h

theorem dormantTick_end (s : State) : s.dormantTick.btick + s.dormantTick.swLen = s.btick + s.swLen := by
  have d := dormantTick_stands s
  have swLen : s.dormantTick.swLen = s.swLen := (KeepsRegs.mk d.regs).fld F.TB_PHASE_LENGTH (by decide)
  rw [d.counts.btick, swLen]

theorem exec_dormantCount_idle (s : State) (h : s.env.vin = false ∨ s.pwr.mode ≠ 4 ∨ s.env.pll = true) :
    exec .dormantCount s = .next s :=
  congrArg Host.Outcome.next (if_pos (by rcases h with h | h | h <;> simp [h]))

theorem exec_dormantCount_on (s : State) (vin : s.env.vin = true) (mode : s.pwr.mode = 4) (pll : s.env.pll = false) :
    exec .dormantCount s =
      .next (if s.btick + s.swLen ≤ (s.tick + 1024) % 2 ^ 64 then s.dormantTick.dormantBoundary else s.dormantTick) := by
  rw [← dormantTick_end, ← dormantTick_tick]
  exact congrArg Host.Outcome.next (if_neg (by simp [vin, mode, pll]))

end

/-- Settles O29: the boundary of a device alone counts once and every later step of it leaves the counters; the Dormant count adds its
ticks, counts the boundary that has fallen due by the same counting step, and has nothing else to do. -/
theorem boundaryCountsSwathStookAndPhase : Obligations.BoundaryCountsSwathStookAndPhase := by
  refine ⟨fun r s pll mode idle align _ fits => ?boundary, fun s vin mode pll => ⟨fun early => ?early, fun due => ?due⟩,
    fun s off => ⟨s, exec_dormantCount_idle s off, rfl⟩⟩
  case boundary =>
    have counted := boundary_counted s r (alone_of_yokeMode mode idle) align
    exact ⟨s.boundary r, exec_swathBoundary_on r s pll, counted.swath, counted.btick.trans (Nat.mod_eq_of_lt fits), (boundary_pipe s r).1,
      fun image inside => inStook_counted counted align image inside, fun ends => stookEnd_counted counted align ends⟩
  case early =>
    obtain ⟨swath, btick, stook, phase⟩ := (dormantTick_stands s).counts
    refine ⟨s.dormantTick, ?_, State.setTick_only .., dormantTick_tick s, swath, btick, stook, phase⟩
    rw [exec_dormantCount_on s vin mode pll, if_neg (Nat.not_le.mpr early)]
  case due =>
    have ticked := dormantTick_stands s
    have counted (align : s.yk.alignEnd = none) : BoundaryCounted s.nextCount s s.dormantTick.dormantBoundary :=
      nextCount_stands ticked align ▸ (dormantBoundary_counted s.dormantTick).since ticked
    have places := (dormantBoundary_counted s.dormantTick).since ticked
    refine ⟨s.dormantTick.dormantBoundary, ?_, only_trans (only_mono (State.setTick_only ..) (by decide)) (dormantBoundary_only _),
      (dormantBoundary_tick _).trans (dormantTick_tick s), places.swath, places.btick,
      fun image align inside => inStook_counted (counted align) align image inside,
      fun align ends => stookEnd_counted (counted align) align (.inr ends), fun h => ?_⟩
    · rw [exec_dormantCount_on s vin mode pll, if_pos due]
    · rw [← dormantTick_half s h]
      exact dormantBoundary_half s.dormantTick h

end Sys2Proof.Machine
end

section
/-!
PROOFS. The switches, halves and status registers of a field die as they follow a change of it (R87, R123, R125, R209), channel by
channel and half by half.
-/
namespace Sys2Proof.Machine

/-! ## Loops -/

/-- What a loop leaves alone where each of its steps does. -/
theorem foldl_keeps_mem {α β : Type} (p : State → β) {f : State → α → State} (xs : List α) (s : State)
    (h : ∀ u, ∀ x ∈ xs, p (f u x) = p u) : p (xs.foldl f s) = p s := by
  induction xs generalizing s with
  | nil => rfl
  | cons x xs ih => exact (ih (f s x) fun u y m => h u y (List.mem_cons_of_mem _ m)).trans (h s x List.mem_cons_self)

/-- One element of a loop without repetition alone bears on `p`: `p` comes of its step, taken in a state whose `p` is the first one's and
which every step before it has kept sound. -/
theorem foldl_touches {α β : Type} (p : State → β) (ok : State → Prop) {f : State → α → State} (kept : ∀ u x, ok u → ok (f u x)) {d : α}
    (other : ∀ u x, x ≠ d → p (f u x) = p u) (xs : List α) (s : State) (nodup : xs.Nodup) (mem : d ∈ xs) (sound : ok s) :
    ∃ u, ok u ∧ p u = p s ∧ p (xs.foldl f s) = p (f u d) := by
  induction xs generalizing s with
  | nil => cases mem
  | cons x xs ih =>
    obtain ⟨fresh, nodup⟩ := List.nodup_cons.mp nodup
    rcases List.mem_cons.mp mem with rfl | mem
    · exact ⟨s, sound, rfl, foldl_keeps_mem p xs _ fun u y m => other u y fun e => fresh (e ▸ m)⟩
    · have ne : x ≠ d := fun e => fresh (e ▸ mem)
      obtain ⟨u, sound', same, out⟩ := ih (f s x) nodup mem (kept s x sound)
      exact ⟨u, sound', same.trans (other s x ne), out⟩

theorem chOf_nodup (h : HalfIx) : (chOf h).Nodup := by
  revert h
  decide

/-! ## Registers -/

/-- The registers that no follower of a field die touches. -/
def standsReg (a : Nat) : Bool := fieldKeep a == BitVec.allOnes 32

theorem stands_of_keep {s t : State} (h : ∀ a, t.reg a &&& fieldKeep a = s.reg a &&& fieldKeep a) : KeepsRegs standsReg s t :=
  ⟨fun a e => reg_of_keep (h a) (by simpa [standsReg] using e)⟩

theorem fieldChange_regs (s : State) (h : HalfIx) (cap : Bool) (f : State → State) : KeepsRegs standsReg (f s) (s.fieldChange h cap f) :=
  stands_of_keep (fieldChange_spec s h cap f).1.regs

theorem stands_counts (c : ChIx) : standsReg (Reg.CH_COUNTS c.val) = true := by
  revert c
  decide

theorem stands_cfg (c : ChIx) : standsReg (Reg.CH_CFG c.val) = true ∧ standsReg (Reg.CH_SAFE c.val) = true := by
  revert c
  decide

theorem KeepsRegs.swath {K : Nat → Bool} {s t : State} (h : KeepsRegs K s t)
    (lo : K Reg.TB_SWATH_LO = true) (hi : K Reg.TB_SWATH_HI = true) : t.swath = s.swath := h.pairReg lo hi

theorem swath_fieldChange (s : State) (h : HalfIx) (cap : Bool) (f : State → State) : (s.fieldChange h cap f).swath = (f s).swath :=
  (fieldChange_regs s h cap f).swath (by decide) (by decide)

theorem isBoot_of_reg {s t : State} (e : t.reg Reg.SYS_STATE = s.reg Reg.SYS_STATE) : t.isBoot = s.isBoot := by
  unfold State.isBoot State.fld
  rw [show t.reg F.SYS_STATE_STATE.reg = s.reg F.SYS_STATE_STATE.reg from e]

/-! ## A step of a capture -/

/-- A channel but for its capture and the features that wait. -/
def Chan.uncaptured (x : Chan) : Chan := { x with capture := none, holdFrom := none, capFrom := 0, l0ok := false }

/-- No channel has changed but in its capture. -/
def CaptureOnly (s t : State) : Prop := ∀ d, (t.chan d).uncaptured = (s.chan d).uncaptured

theorem cp_chans {s t : State} (e : t.chans = s.chans) : CaptureOnly s t := fun d => by
  unfold State.chan
  rw [e]

theorem cp_step {s t u : State} (k : CaptureOnly t u) (h : CaptureOnly s t) : CaptureOnly s u := fun d => (k d).trans (h d)

theorem cp_only {ps : List Part} {s t : State} (k : OnlyChanges ps s t) (n : ps.contains .chans = false) : CaptureOnly s t :=
  cp_chans (k.same .chans (by simpa using n))

theorem cp_ite {s t u : State} {p : Prop} [Decidable p] (h : CaptureOnly s t) (k : CaptureOnly s u) :
    CaptureOnly s (if p then t else u) := by
  split <;> assumption

theorem cp_updChan (s : State) (c : ChIx) (f : Chan → Chan) (e : (f (s.chan c)).uncaptured = (s.chan c).uncaptured) :
    CaptureOnly s (s.updChan c f) := fun d => by
  rw [chan_updChan]
  split
  · subst_vars
    exact e
  · rfl

theorem energiseFeatures_captures (s : State) (c : ChIx) (k : Capture) : CaptureOnly s (s.energiseFeatures c k) := by
  unfold State.energiseFeatures
  dsimp only
  have tail (u : State) (h : CaptureOnly s u) : CaptureOnly s (if k.limitedAt.isSome then u
      else match k.dip (u.dipH c) with
        | none => (u.setReg (Reg.FP_PULL c.val) 0#32).setB (F.FP_STAT_NO_DIP c.val) true
        | some pk =>
          (u.setF (F.FP_PULL_T_PULL c.val) (sat 65535 (k.us pk))).setF (F.FP_PULL_DEPTH c.val)
            (sat 65535 (roundDiv (k.i pk - k.i (valley (u.dipH c) k
              ((List.range k.samples.length).filter fun j => decide (pk + 1 < j)) (pk + 1))) 100).toNat)) := by
    refine cp_ite h ?_
    split <;> exact h
  refine tail _ (cp_ite (cp_updChan _ _ _ rfl) (cp_step (cp_updChan _ _ _ rfl) ?_))
  split <;> exact cp_chans rfl

theorem captureEnd_captures (s : State) (c : ChIx) (b : Bool) : CaptureOnly s (s.captureEnd c b) := by
  unfold State.captureEnd
  split
  · exact cp_chans rfl
  · dsimp only
    refine cp_step (cp_only (State.passCapture_only ..) (by decide)) (cp_ite ?_ (cp_ite
      (cp_step (energiseFeatures_captures _ _ _) ?_) (cp_step (cp_only (State.dropFeatures_only ..) (by decide)) ?_)))
      <;> exact cp_step (cp_chans rfl) (cp_updChan s c _ rfl)

theorem captureStart_captures (s : State) (c : ChIx) (b : Bool) : CaptureOnly s (s.captureStart c b) := by
  unfold State.captureStart
  dsimp only
  refine cp_ite (cp_step (cp_chans rfl) (cp_step (cp_updChan _ _ _ rfl) ?_)) (cp_chans rfl)
  exact captureEnd_captures s c true

/-! ## The switch of one channel -/

/-- What following its command does to a channel, its capture aside: nothing while its switch stays closed; a limit only ends, a switch
that was closed keeps its count of attempts, and a backoff stays or ends. -/
structure Switched (x y : Chan) : Prop where
  /-- the limit -/
  limit : y.limit = true → x.limit = true
  /-- a switch that stays closed -/
  stays : x.closed = true → y.closed = true → y = x
  /-- attempts -/
  tries : x.closed = true → y.tries = x.tries
  /-- the backoff -/
  backoff : y.backoff = x.backoff ∨ y.backoff = 0

/-- What a normal form does not hide is the same where the normal forms are. -/
theorem seen_through {α β : Type} (n : α → α) (g : α → β) {x y : α} (h : n x = n y) (seen : ∀ z, g (n z) = g z := by exact fun _ => rfl) :
    g x = g y := (seen x).symm.trans ((congrArg g h).trans (seen y))

theorem openSwitch_switched (s : State) (c : ChIx) (cap : Bool) : Switched (s.chan c) ((s.openSwitch c cap).chan c) := by
  unfold State.openSwitch State.whenB
  split
  · exact ⟨id, fun _ _ => rfl, fun _ => rfl, .inl rfl⟩
  · dsimp only
    generalize hu : (State.updChan s c _).partOperation c.val = u
    have open_ : u.chan c = { s.chan c with closed := false, limit := false, holdFrom := s.holdKept c } := by
      rw [← hu, chan_partOperation, chan_updChan, if_pos rfl]
    have kept : CaptureOnly u (if cap = true then u.captureStart c false else u) :=
      cp_ite (captureStart_captures _ _ _) (cp_chans rfl)
    have k := kept c
    rw [open_] at k
    have closed := seen_through Chan.uncaptured Chan.closed k
    have limit := seen_through Chan.uncaptured Chan.limit k
    have tries := seen_through Chan.uncaptured Chan.tries k
    have backoff := seen_through Chan.uncaptured Chan.backoff k
    exact ⟨fun e => absurd (limit.symm.trans e) Bool.false_ne_true, fun _ e => absurd (closed.symm.trans e) Bool.false_ne_true,
      fun _ => tries, .inl backoff⟩

theorem closeSwitch_switched (s : State) (c : ChIx) (cap : Bool) : Switched (s.chan c) ((s.closeSwitch c cap).chan c) := by
  unfold State.closeSwitch State.whenB
  split
  · exact ⟨id, fun _ _ => rfl, fun _ => rfl, .inl rfl⟩
  · rename_i open_
    dsimp only
    generalize hu : State.updChan s c _ = u
    have shut : u.chan c = { s.chan c with
        closed := true, backoff := 0, closures := (s.chan c).closures + 1
        tries := if ((s.chan c).backoff == 2) = true then sat 15 ((s.chan c).tries + 1) else (s.chan c).tries } := by
      rw [← hu, chan_updChan, if_pos rfl]
    have kept : ∀ b, CaptureOnly u (if b = true then u.captureStart c true else u) := fun b =>
      cp_ite (captureStart_captures _ _ _) (cp_chans rfl)
    have k := kept (cap && !((s.chan c).backoff == 2)) c
    rw [shut] at k
    have limit := seen_through Chan.uncaptured Chan.limit k
    have backoff := seen_through Chan.uncaptured Chan.backoff k
    exact ⟨fun e => limit.symm.trans e, fun e => absurd e open_, fun e => absurd e open_, .inr backoff⟩

theorem reSwitch_switched (s : State) (c : ChIx) (cap : Bool) : Switched (s.chan c) ((s.reSwitch c cap).chan c) := by
  unfold State.reSwitch
  split
  · exact closeSwitch_switched ..
  · exact openSwitch_switched ..

/-! ## The channels of a half through a change -/

/-- The HOLDs of a half as a change of it leaves them. -/
def State.heldFrom (s before : State) (h : HalfIx) : State := (chOf h).foldl (fun (t : State) c => t.holdChange before c) s

theorem hold_other (s before : State) (c d : ChIx) (n : c ≠ d) : (s.holdChange before c).chan d = s.chan d := by
  unfold State.holdChange
  split
  · rw [chan_updChan, if_neg (Ne.symm n)]
  · split
    · rw [chan_updChan, if_neg (Ne.symm n)]
    · rfl

theorem heldFrom_other (s before : State) (h : HalfIx) (d : ChIx) (n : halfOf d ≠ h) : (s.heldFrom before h).chan d = s.chan d :=
  foldl_keeps_mem (fun u => u.chan d) _ s fun u c m => hold_other u before c d fun e => n (e ▸ halfOf_of_mem c h m)

theorem heldFrom_unheld (s before : State) (h : HalfIx) (d : ChIx) : ((s.heldFrom before h).chan d).unheld = (s.chan d).unheld :=
  (hold_fold (chOf h) before s).2.2 d

/-- A HOLD that has ended does not begin again with a change that brings no channel into its safe state. -/
theorem holdChange_ended (s before : State) (c d : ChIx) (e : s.inSafe d = before.inSafe d) (off : (s.chan d).holding = false) :
    ((s.holdChange before c).chan d).holding = false := by
  by_cases k : d = c
  · subst k
    unfold State.holdChange
    rw [if_neg (by rw [e]; simp)]
    split
    · rw [chan_updChan, if_pos rfl]
    · exact off
  · rw [hold_other s before c d (Ne.symm k)]
    exact off

theorem inSafe_holdChange (s before : State) (c d : ChIx) : (s.holdChange before c).inSafe d = s.inSafe d :=
  inSafe_of d (seen_through Chan.unheld Chan.action (hold_chan s before c d)) (hc_eq (hold_halves ..))

theorem heldFrom_ended (s before : State) (h : HalfIx) (d : ChIx) (e : s.inSafe d = before.inSafe d) (off : (s.chan d).holding = false) :
    ((s.heldFrom before h).chan d).holding = false := by
  unfold State.heldFrom
  generalize chOf h = xs
  induction xs generalizing s with
  | nil => exact off
  | cons c xs ih => exact ih _ ((inSafe_holdChange s before c d).trans e) (holdChange_ended s before c d e off)

/-- The state of a change of half `h` as its switches and its gate have followed. -/
def State.followed (s : State) (h : HalfIx) (cap : Bool) : State :=
  ((chOf h).foldl (fun (t : State) c => t.reSwitch c cap) s).syncHalf h

theorem fieldChange_eq (s : State) (h : HalfIx) (cap : Bool) (f : State → State) : s.fieldChange h cap f =
    (chOf h).foldl (fun (t : State) c => t.syncChan c) (((f s).heldFrom s h).followed h cap) := rfl

theorem fieldChange_chan (s : State) (h : HalfIx) (cap : Bool) (f : State → State) (d : ChIx) : (s.fieldChange h cap f).chan d =
    ((chOf h).foldl (fun (t : State) c => t.reSwitch c cap) ((f s).heldFrom s h)).chan d := by
  rw [fieldChange_eq, chan_sync_fold]
  exact chan_syncHalf ..

/-- A change of one half leaves the channels of the other as the change itself left them. -/
theorem fieldChange_other (s : State) (h : HalfIx) (cap : Bool) (f : State → State) (d : ChIx) (n : halfOf d ≠ h) :
    (s.fieldChange h cap f).chan d = (f s).chan d := by
  rw [fieldChange_chan, fold_reSwitch_other _ _ _ _ fun m => n (halfOf_of_mem d h m)]
  exact heldFrom_other _ _ _ _ n

/-- A channel of the half has followed its command. -/
theorem fieldChange_switched (s : State) (h : HalfIx) (cap : Bool) (f : State → State) (c : ChIx) (m : c ∈ chOf h) :
    Switched (((f s).heldFrom s h).chan c) ((s.fieldChange h cap f).chan c) := by
  obtain ⟨u, -, same, out⟩ := foldl_touches (fun u => u.chan c) (fun _ => True) (f := fun (t : State) c => t.reSwitch c cap)
    (fun _ _ => id) (fun u x n => (chan_reSwitch u x cap c).2 (Ne.symm n)) (chOf h) ((f s).heldFrom s h) (chOf_nodup h) m trivial
  rw [fieldChange_chan, out, ← same]
  exact reSwitch_switched u c cap

/-- A HOLD that has ended stays so through a change that brings no channel into its safe state. -/
theorem fieldChange_ended (s : State) (h : HalfIx) (cap : Bool) (f : State → State) (c : ChIx) (e : (f s).inSafe c = s.inSafe c)
    (off : ((f s).chan c).holding = false) : ((s.fieldChange h cap f).chan c).holding = false := by
  have followed : Follows ((f s).heldFrom s h) ((chOf h).foldl (fun (t : State) c => t.reSwitch c cap) ((f s).heldFrom s h)) :=
    fo_foldl (fun v c => fo_reSwitch v c cap) (fo_refl _)
  rw [fieldChange_chan]
  exact (congrArg Chan.holding (followed.chans c)).trans (heldFrom_ended (f s) s h c e off)

/-! ## The halves through a change -/

theorem syncHalf_halves (s : State) (h : HalfIx) : (s.syncHalf h).halves = (s.updHalf h fun x => { x with gdrv := s.gdrvWanted h }).halves := by
  unfold State.syncHalf State.whenB
  dsimp only
  have part (u : State) (n : Nat) : (u.partOperation n).halves = u.halves := (State.partOperation_only u n).same .halves (by decide)
  split
  · rw [part]
    split <;> rfl
  · split <;> rfl

/-- Of the halves a change leaves all but the state of GDRV of its own, which follows the gate. -/
theorem fieldChange_half (s : State) (h : HalfIx) (cap : Bool) (f : State → State) : ∃ u : State, HalfKept (f s) u ∧
    ∀ k, (s.fieldChange h cap f).half k = if k = h then { (f s).half k with gdrv := u.gdrvWanted h } else (f s).half k := by
  let u := (chOf h).foldl (fun (t : State) c => t.reSwitch c cap) ((f s).heldFrom s h)
  have early : u.halves = (f s).halves := by
    refine Eq.trans ?_ (hold_fold (chOf h) s (f s)).2.1
    exact foldl_keeps (p := State.halves) (fun v c => (State.reSwitch_only v c cap).same .halves (by decide)) ..
  have late : (s.fieldChange h cap f).halves = (u.syncHalf h).halves :=
    foldl_keeps (p := State.halves) (fun v c => (State.syncChan_only v c).same .halves (by decide)) ..
  refine ⟨u, hc_eq early, fun k => ?_⟩
  rw [half_of_halves (late.trans (syncHalf_halves u h)) k, half_updHalf]
  simp only [half_of_halves early k]

theorem fieldChange_otherHalf (s : State) (h : HalfIx) (cap : Bool) (f : State → State) (k : HalfIx) (n : k ≠ h) :
    (s.fieldChange h cap f).half k = (f s).half k := by
  obtain ⟨u, -, halves⟩ := fieldChange_half s h cap f
  exact (halves k).trans (if_neg n)

theorem fieldChange_ownHalf (s : State) (h : HalfIx) (cap : Bool) (f : State → State) :
    (s.fieldChange h cap f).half h = { (f s).half h with gdrv := ((s.fieldChange h cap f).half h).gdrv } := by
  obtain ⟨u, -, halves⟩ := fieldChange_half s h cap f
  rw [halves h, if_pos rfl]

theorem onlyGdrv_fieldChange (s : State) (h : HalfIx) (cap : Bool) (f : State → State) (e : ∀ k, (f s).half k = s.half k) :
    OnlyGdrv h s (s.fieldChange h cap f) :=
  ⟨fun k n => (fieldChange_otherHalf s h cap f k n).trans (e k), by rw [← e h]; exact fieldChange_ownHalf ..⟩

/-- A gate that is held open is open, and with it GDRV (R122, R125). -/
theorem gdrv_held (s : State) (h : HalfIx) (held : (s.half h).gateHold = true) : s.gateWanted h = false ∧ s.gdrvWanted h = false := by
  have gate : s.gateWanted h = false := by simp [State.gateWanted, held]
  exact ⟨gate, by simp [State.gdrvWanted, gate]⟩

/-! ## Status -/

/-- A channel's status does not reach another's. -/
theorem syncChan_apart (c d : ChIx) (n : d ≠ c) : Reg.CH_STATUS c.val ≠ Reg.CH_STATUS d.val ∧ Reg.CH_STATUS c.val ≠ Reg.CH_FLAGS d.val ∧
    Reg.CH_STATUS c.val ≠ Reg.THR_NOW d.val ∧ Reg.THR_NOW c.val ≠ Reg.CH_STATUS d.val ∧ Reg.THR_NOW c.val ≠ Reg.CH_FLAGS d.val ∧
    Reg.THR_NOW c.val ≠ Reg.THR_NOW d.val := by
  revert c d
  decide

theorem reg_syncChan_ne (s : State) (d : ChIx) (a : Nat) (n : a ≠ Reg.CH_STATUS d.val) (n' : a ≠ Reg.CH_FLAGS d.val)
    (n'' : a ≠ Reg.THR_NOW d.val) : (s.syncChan d).reg a = s.reg a := by
  have early : ∀ w x y z, ((((s.setF (F.CH_STATUS_STATE d.val) w).setB (F.CH_STATUS_ALM_HIGH d.val) x).setF
      (F.CH_STATUS_ATTEMPT d.val) y).setB (F.CH_FLAGS_LATCHED d.val) z).reg a = s.reg a := fun w x y z => by
    rw [reg_setB_ne _ _ _ _ n', State.reg_setF_ne _ _ _ _ n, reg_setB_ne _ _ _ _ n, State.reg_setF_ne _ _ _ _ n]
  unfold State.syncChan State.whenB
  dsimp only
  split
  · rw [reg_setB_ne _ _ _ _ n'', early]
  · exact early ..

theorem attempt_syncChan (s : State) (c : ChIx) : (s.syncChan c).fld (F.CH_STATUS_ATTEMPT c.val) = (s.chan c).tries % 16 := by
  have apart : Reg.CH_STATUS c.val ≠ Reg.CH_FLAGS c.val ∧ Reg.CH_STATUS c.val ≠ Reg.THR_NOW c.val := by
    revert c
    decide
  have early : ∀ w x z, ((((s.setF (F.CH_STATUS_STATE c.val) w).setB (F.CH_STATUS_ALM_HIGH c.val) x).setF
      (F.CH_STATUS_ATTEMPT c.val) (s.chan c).tries).setB (F.CH_FLAGS_LATCHED c.val) z).fld (F.CH_STATUS_ATTEMPT c.val)
      = (s.chan c).tries % 16 := fun w x z => by
    refine (State.fld_setReg_ne _ _ _ _ apart.1).trans ?_
    exact State.fld_setF_same _ (F.CH_STATUS_ATTEMPT c.val) _ (by decide : (23 : Nat) ≤ 26) (by decide : (26 : Nat) < 32)
  unfold State.syncChan State.whenB
  dsimp only
  split
  · exact (State.fld_setReg_ne _ _ _ _ apart.2).trans (early ..)
  · exact early ..

theorem shunt_syncChan (s : State) (c : ChIx) (run : s.isBoot = false) :
    (s.syncChan c).flag (F.THR_NOW_SHUNT_OPEN c.val) = (s.chan c).shuntOpen := by
  have sys : Reg.SYS_STATE ≠ Reg.CH_STATUS c.val ∧ Reg.SYS_STATE ≠ Reg.CH_FLAGS c.val := by
    revert c
    decide
  unfold State.syncChan
  dsimp only
  rw [State.whenB_true _ _ ?_]
  · exact State.flag_setB_same _ (F.THR_NOW_SHUNT_OPEN c.val) _ rfl (by decide : (4 : Nat) < 32)
  · rw [Bool.not_eq_true', ← run]
    refine isBoot_of_reg ?_
    rw [reg_setB_ne _ _ _ _ sys.2, State.reg_setF_ne _ _ _ _ sys.1, reg_setB_ne _ _ _ _ sys.1, State.reg_setF_ne _ _ _ _ sys.1]

/-- The status of a channel after a change of its half is the one its own step gave, in a state whose channels, its own among them, are
those of the end. -/
theorem fieldChange_status {β : Type} (p : State → β) (s : State) (h : HalfIx) (cap : Bool) (f : State → State) (c : ChIx)
    (m : c ∈ chOf h) (other : ∀ u d, d ≠ c → p (u.syncChan d) = p u) : ∃ u : State, KeepsRegs standsReg (f s) u ∧
      u.chan c = (s.fieldChange h cap f).chan c ∧ p (s.fieldChange h cap f) = p (u.syncChan c) := by
  let v := ((f s).heldFrom s h).followed h cap
  have sound : KeepsRegs standsReg (f s) v ∧ v.chan c = (s.fieldChange h cap f).chan c := by
    refine ⟨stands_of_keep fun a => ?_, ?_⟩
    · have followed : Follows ((f s).heldFrom s h) v :=
        fo_trans (fo_foldl (fun v c => fo_reSwitch v c cap) (fo_refl _)) (fo_syncHalf ..)
      exact (followed.regs a).trans (by rw [show ((f s).heldFrom s h).reg a = (f s).reg a from (hold_fold (chOf h) s (f s)).1 a])
    · rw [fieldChange_eq, chan_sync_fold]
  obtain ⟨u, ⟨regs, chan⟩, -, out⟩ := foldl_touches p (fun u => KeepsRegs standsReg (f s) u ∧ u.chan c = (s.fieldChange h cap f).chan c)
    (f := fun (t : State) c => t.syncChan c)
    (fun u x k => ⟨kr_step (stands_of_keep (fo_syncChan u x).regs) k.1, (chan_only (State.syncChan_only u x) (by decide) c).trans k.2⟩)
    other (chOf h) v (chOf_nodup h) m sound
  exact ⟨u, regs, chan, out⟩

theorem attempt_fieldChange (s : State) (h : HalfIx) (cap : Bool) (f : State → State) (c : ChIx) (m : c ∈ chOf h) :
    (s.fieldChange h cap f).fld (F.CH_STATUS_ATTEMPT c.val) = ((s.fieldChange h cap f).chan c).tries % 16 := by
  obtain ⟨u, -, chan, out⟩ := fieldChange_status (fun u => u.fld (F.CH_STATUS_ATTEMPT c.val)) s h cap f c m fun u d n => by
    obtain ⟨a, b, e, -⟩ := syncChan_apart c d n
    unfold State.fld
    rw [reg_syncChan_ne u d (F.CH_STATUS_ATTEMPT c.val).reg a b e]
  rw [← chan, ← attempt_syncChan]
  exact out

theorem shunt_fieldChange (s : State) (h : HalfIx) (cap : Bool) (f : State → State) (c : ChIx) (m : c ∈ chOf h)
    (run : (f s).isBoot = false) :
    (s.fieldChange h cap f).flag (F.THR_NOW_SHUNT_OPEN c.val) = ((s.fieldChange h cap f).chan c).shuntOpen := by
  obtain ⟨u, regs, chan, out⟩ := fieldChange_status (fun u => u.flag (F.THR_NOW_SHUNT_OPEN c.val)) s h cap f c m fun u d n => by
    obtain ⟨-, -, -, a, b, e⟩ := syncChan_apart c d n
    unfold State.flag State.fld
    rw [reg_syncChan_ne u d (F.THR_NOW_SHUNT_OPEN c.val).reg a b e]
  rw [← chan, ← shunt_syncChan u c ((isBoot_of_reg (regs.same _ (by decide))).trans run)]
  exact out

end Sys2Proof.Machine
end

section
/-!
PROOFS. Commands of one channel (R82, R91-R101, R128): what a command under its condition does, what a change of one channel and a
fault of it leave, and the statements on the protection of the switches and on the analogue stages.
-/
namespace Sys2Proof.Machine

/-! ## Commands under a condition -/

theorem run_whenCh {i : Instr} {s : State} {b : Bool} {f : State → State} (e : exec i s = s.whenCh b f) (on : b = true) :
    exec i s = .next (f s) := e.trans (congrArg Host.Outcome.next (s.whenB_true f on))

/-- A command whose condition the state rules out changes nothing. -/
theorem idle_whenCh {i : Instr} {s : State} {b : Bool} {f : State → State} (e : exec i s = s.whenCh b f) (off : b = false) :
    exec i s = .next s := e.trans (congrArg Host.Outcome.next (s.whenB_false f off))

theorem doesOnly_whenCh {ps : List Part} {i : Instr} {s : State} {b : Bool} {f : State → State} {p : State → Prop}
    (e : exec i s = s.whenCh b f) (on : b = true) (only : OnlyChanges ps s (f s)) (h : p (f s)) : DoesOnly ps i s p :=
  ⟨f s, run_whenCh e on, only, h⟩

theorem does_idle {i : Instr} {s : State} {b : Bool} {f : State → State} (e : exec i s = s.whenCh b f) (off : b = false) :
    Does i s fun t => t = s := ⟨s, idle_whenCh e off, rfl⟩

/-! ## What stays as it is -/

theorem OtherChKept.half {c : ChIx} {s t : State} (h : OtherChKept c s t) : OtherHalfKept c s t :=
  fun d n => h d fun e => n (e ▸ rfl)

theorem OtherHalfKept.step {c : ChIx} {s t u : State} (k : OtherHalfKept c t u) (h : OtherHalfKept c s t) : OtherHalfKept c s u :=
  fun d n => (k d n).trans (h d n)

theorem OtherChKept.step {c : ChIx} {s t u : State} (k : OtherChKept c t u) (h : OtherChKept c s t) : OtherChKept c s u :=
  fun d n => (k d n).trans (h d n)

theorem otherCh_chans {c : ChIx} {s t : State} (e : ∀ d, t.chan d = s.chan d) : OtherChKept c s t := fun d _ => e d

theorem otherCh_updChan (s : State) (c : ChIx) (f : Chan → Chan) : OtherChKept c s (s.updChan c f) :=
  fun d n => (chan_updChan s c d f).trans (if_neg n)

theorem chan_updChan_same (s : State) (c : ChIx) (f : Chan → Chan) : (s.updChan c f).chan c = f (s.chan c) :=
  (chan_updChan s c c f).trans (if_pos rfl)

/-! ## A change of one channel -/

section
variable (s : State) (c : ChIx) (cap : Bool) (f : Chan → Chan)

/-- What following a command does not touch of a channel is as the change left it. -/
theorem chanChange_field {β : Type} (g : Chan → β) (seen : ∀ z : Chan, g z.core.unheld = g z := by exact fun _ => rfl) :
    g ((s.chanChange c cap f).chan c) = g (f (s.chan c)) :=
  seen_through (fun z => z.core.unheld) g (chanChange_spec s c cap f).1 seen

theorem chanChange_closed : ((s.chanChange c cap f).chan c).closed = (s.chanChange c cap f).mayClose c := (chanChange_spec s c cap f).2.1

theorem chanChange_apart : OtherHalfKept c s (s.chanChange c cap f) ∧ BitsKeep fieldKeep s (s.chanChange c cap f) ∧
    OnlyGdrv (halfOf c) s (s.chanChange c cap f) := by
  refine ⟨fun d n => ?_, (chanChange_spec s c cap f).2.2.1, onlyGdrv_fieldChange s (halfOf c) cap _ fun k => rfl⟩
  exact (fieldChange_other s (halfOf c) cap _ d n).trans (otherCh_updChan s c f d fun e => n (e ▸ rfl))

theorem chanChange_regs : KeepsRegs standsReg s (s.chanChange c cap f) :=
  kr_step (fieldChange_regs s (halfOf c) cap fun s => s.updChan c f) ⟨fun _ _ => rfl⟩

theorem chanChange_switched : ∃ x : Chan, x.unheld = (f (s.chan c)).unheld ∧ Switched x ((s.chanChange c cap f).chan c) := by
  refine ⟨_, ?_, fieldChange_switched s (halfOf c) cap (fun s => s.updChan c f) c (mem_chOf c)⟩
  exact (heldFrom_unheld ..).trans (congrArg Chan.unheld (chan_updChan_same s c f))

theorem chanChange_unlimited (off : (f (s.chan c)).limit = false) : ((s.chanChange c cap f).chan c).limit = false := by
  obtain ⟨x, same, switched⟩ := chanChange_switched s c cap f
  refine Bool.eq_false_iff.mpr fun on => Bool.false_ne_true ?_
  exact off.symm.trans ((seen_through Chan.unheld Chan.limit same).symm.trans (switched.limit on))

/-- A backoff runs after a change exactly if the change left it running. -/
theorem chanChange_backoff : (((s.chanChange c cap f).chan c).backoff == 1) = ((f (s.chan c)).backoff == 1) :=
  chanChange_field s c cap f (fun x => x.backoff == 1) fun z => by
    change (b2n (z.backoff == 1) == 1) = (z.backoff == 1)
    cases z.backoff == 1 <;> rfl

/-- The protection of a channel after a change of it is the one the change left. -/
theorem chanChange_unprotected : (s.chanChange c cap f).unprotected c = (s.updChan c f).unprotected c := by
  unfold State.unprotected State.ovlLatched
  simp only [chan_updChan_same, bne, chanChange_backoff, chanChange_field s c cap f Chan.ovl, chanChange_field s c cap f Chan.hot,
    chanChange_field s c cap f Chan.pulse]

theorem chanChange_mayClose
    (e : ∀ x, (f x).action = x.action ∧ (f x).value = x.value ∧ (f x).holding = x.holding ∧ (f x).holdVal = x.holdVal) :
    (s.chanChange c cap f).mayClose c = (s.wants c && (s.updChan c f).unprotected c) := by
  unfold State.mayClose
  rw [wants_chanChange s c cap f e, chanChange_unprotected]

/-- A latch, a backoff, the temperature or a dark pulse holds a switch open, whatever its command (R87). -/
theorem mayClose_protected (h : s.unprotected c = false) : s.mayClose c = false := by
  unfold State.mayClose
  rw [h, Bool.and_false]

theorem chanChange_opens (h : (s.updChan c f).unprotected c = false) : ((s.chanChange c cap f).chan c).closed = false := by
  rw [chanChange_closed]
  exact mayClose_protected _ c ((chanChange_unprotected s c cap f).trans h)

/-- A switch that was closed and is closed after a change has not moved. -/
theorem chanChange_stays {β : Type} (g : Chan → β) (seen : ∀ z : Chan, g z.unheld = g z) (was : (f (s.chan c)).closed = true)
    (is : ((s.chanChange c cap f).chan c).closed = true) : g ((s.chanChange c cap f).chan c) = g (f (s.chan c)) := by
  obtain ⟨x, same, switched⟩ := chanChange_switched s c cap f
  rw [switched.stays ((seen_through Chan.unheld Chan.closed same).trans was) is]
  exact seen_through Chan.unheld g same seen

theorem chanChange_tries (was : (f (s.chan c)).closed = true) : ((s.chanChange c cap f).chan c).tries = (f (s.chan c)).tries := by
  obtain ⟨x, same, switched⟩ := chanChange_switched s c cap f
  exact (switched.tries ((seen_through Chan.unheld Chan.closed same).trans was)).trans (seen_through Chan.unheld Chan.tries same)

end

/-! ## Faults of a channel -/

/-- A fault that holds no GDRV leaves the Service Record (R126). -/
theorem chFault_plain (s : State) (c : ChIx) (kind partner : Nat) (k : (kind == kChShortVf || kind == kChCross) = false) :
    OnlyChanges (.chans :: faultParts) s (s.chFault c kind partner) := by
  unfold State.chFault
  dsimp only
  rw [k, Bool.false_and, State.whenB_false _ _ rfl]
  exact only_trans (only_mono (State.noteEvent_only ..) (by decide)) (only_mono (State.raise_only ..) (by decide))

theorem chFault_held (s : State) (c : ChIx) (kind partner : Nat) : OnlyChanges switchFaultParts s (s.chFault c kind partner) :=
  only_mono (State.chFault_only ..) (by decide)

theorem chFault_field (s : State) (c d : ChIx) (kind partner : Nat) {β : Type} (g : Chan → β)
    (seen : ∀ z : Chan, g z.unmarked = g z := by exact fun _ => rfl) : g ((s.chFault c kind partner).chan d) = g (s.chan d) :=
  seen_through Chan.unmarked g (chan_chFault s c kind partner d).1 seen

theorem chFault_otherCh (s : State) (c : ChIx) (kind partner : Nat) : OtherChKept c s (s.chFault c kind partner) :=
  fun d n => (chan_chFault s c kind partner d).2 n

theorem counts_apart (c d : ChIx) : faultReg (Reg.CH_COUNTS c.val) = false ∧ Reg.CH_COUNTS c.val ≠ Reg.CH_FLAGS d.val ∧
    fieldKeep (Reg.CH_COUNTS c.val) = BitVec.allOnes 32 := by
  revert c d
  decide

theorem chFault_counts (s : State) (c d : ChIx) (kind partner : Nat) (f : Fld) (e : f.reg = Reg.CH_COUNTS d.val) :
    (s.chFault c kind partner).fld f = s.fld f := by
  obtain ⟨faults, flags, keep⟩ := counts_apart d c
  exact fld_chFault _ _ _ _ _ (e ▸ faults) (e ▸ flags) (e ▸ keep)

theorem ChTold.since {s s' t : State} {c : ChIx} {kind partner : Nat} (h : ChTold s' c kind partner t) (e : s'.swath = s.swath) :
    ChTold s c kind partner t := ⟨e ▸ h.told, h.event⟩

theorem ChTold.kept {s t u : State} {ps : List Part} {c : ChIx} {kind partner : Nat} (h : ChTold s c kind partner t)
    (only : OnlyChanges ps t u) (fc : ps.contains .fc = false) (pwr : ps.contains .pwr = false)
    (events : u.fld (F.CH_FLAGS_EVENTS c.val) = t.fld (F.CH_FLAGS_EVENTS c.val)) : ChTold s c kind partner u :=
  ⟨told_only only fc pwr h.told, by rw [events]; exact h.event⟩

theorem ChTold.updChan {s t : State} {c d : ChIx} {kind partner : Nat} (h : ChTold s c kind partner t) (f : Chan → Chan) :
    ChTold s c kind partner (t.updChan d f) := h.kept (State.updChan_only ..) (by decide) (by decide) rfl

/-- What a command of a channel takes from its half and from its registers is not what a fault changes. -/
theorem mayClose_chFault (s : State) (c d : ChIx) (kind partner : Nat) : (s.chFault c kind partner).mayClose d = s.mayClose d := by
  have apart : faultReg (Reg.CH_CFG d.val) = false ∧ Reg.CH_CFG d.val ≠ Reg.CH_FLAGS c.val ∧
      fieldKeep (Reg.CH_CFG d.val) = BitVec.allOnes 32 ∧ faultReg (Reg.CH_SAFE d.val) = false ∧
      Reg.CH_SAFE d.val ≠ Reg.CH_FLAGS c.val ∧ fieldKeep (Reg.CH_SAFE d.val) = BitVec.allOnes 32 := by
    revert c d
    decide
  obtain ⟨f1, n1, k1, f2, n2, k2⟩ := apart
  have cfg := reg_chFault s c kind partner _ f1 n1 k1
  have safe := reg_chFault s c kind partner _ f2 n2 k2
  have half := half_chFault s c kind partner (halfOf d)
  have kept := congrArg Half.kept half
  have func : (s.chFault c kind partner).func d = s.func d := by
    unfold State.func State.chFld State.cfgReg
    rw [kept, show (s.chFault c kind partner).reg (F.CH_CFG_FUNC d.val).reg = s.reg (F.CH_CFG_FUNC d.val).reg from cfg]
  have code (f : Fld) (e : f.reg = Reg.CH_SAFE d.val) : (s.chFault c kind partner).chFld d f = s.chFld d f := by
    unfold State.chFld State.cfgReg
    rw [kept, e, safe]
  have action := chFault_field s c d kind partner Chan.action
  have safeState : (s.chFault c kind partner).inSafe d = s.inSafe d := by
    unfold State.inSafe
    simp only [action, congrArg Half.uv half, congrArg Half.timedOut half, congrArg Half.forced half]
  have night : (s.chFault c kind partner).inNight d = s.inNight d := by
    unfold State.inNight
    simp only [safeState, action]
  unfold State.mayClose State.wants State.unprotected State.isSwitch State.ovlLatched
  simp only [func, code _ (rfl : (F.CH_SAFE_SAFE d.val).reg = _), code _ (rfl : (F.CH_SAFE_NIGHT d.val).reg = _), safeState, night, action,
    congrArg Half.forced half, congrArg Half.gateHold half, chFault_field s c d kind partner Chan.value,
    chFault_field s c d kind partner Chan.holding, chFault_field s c d kind partner Chan.holdVal,
    chFault_field s c d kind partner Chan.ovl, chFault_field s c d kind partner Chan.backoff,
    chFault_field s c d kind partner Chan.hot, chFault_field s c d kind partner Chan.pulse]

/-! ## Counters of a channel -/

theorem addF_stands (s : State) (c : ChIx) (f : Fld) (n : Nat) (e : f.reg = Reg.CH_COUNTS c.val) :
    KeepsRegs (fun a => a != Reg.CH_COUNTS c.val && decide (a < newsBase)) s (s.addF f n) :=
  kr_addF (by simp [e]) (by simp [Fld.news]) (kr_refl s)

theorem swath_addF (s : State) (c : ChIx) (f : Fld) (n : Nat) (e : f.reg = Reg.CH_COUNTS c.val) : (s.addF f n).swath = s.swath := by
  have apart : ((Reg.TB_SWATH_LO != Reg.CH_COUNTS c.val && decide (Reg.TB_SWATH_LO < newsBase)) &&
      (Reg.TB_SWATH_HI != Reg.CH_COUNTS c.val && decide (Reg.TB_SWATH_HI < newsBase))) = true := by
    clear e
    revert c
    decide
  obtain ⟨lo, hi⟩ := Bool.and_eq_true_iff.mp apart
  exact (addF_stands s c f n e).swath lo hi

theorem otherCh_addF (s : State) (c : ChIx) (f : Fld) (n : Nat) : OtherChKept c s (s.addF f n) := otherCh_chans (chan_addF s f n)

/-! ## Protection of a switch (R91, R92, R94) -/

section
variable (s : State) (c : ChIx)

/-- The limit engages on a switch that is closed and may be (R91). -/
theorem limit_engages {f : Chan → Chan} (same : ∀ x, (f x).action = x.action ∧ (f x).value = x.value ∧ (f x).holding = x.holding ∧
      (f x).holdVal = x.holdVal) (free : (s.updChan c f).unprotected c = s.unprotected c) (shut : (f (s.chan c)).closed = true)
    (may : s.mayClose c = true) (on : (f (s.chan c)).limit = true) :
    ((s.chanChange c false f).chan c).limit = true ∧ ((s.chanChange c false f).chan c).closed = true := by
  have closed : ((s.chanChange c false f).chan c).closed = true := by
    rw [chanChange_closed, chanChange_mayClose s c false f same, free]
    exact may
  exact ⟨(chanChange_stays s c false f Chan.limit (fun _ => rfl) shut closed).trans on, closed⟩

/-- The trip of the overload protection leads to a retry (R92). -/
def State.retries : Bool :=
  s.chFld c (F.CH_DO_OVL_MODE c.val) == 1 && decide ((s.chan c).tries < s.chFld c (F.CH_DO_RETRY_MAX c.val))

/-- A channel that the overload protection has tripped (R92). -/
def Chan.trip (retry : Bool) (x : Chan) : Chan :=
  { x with ovl := x.ovl || !retry, backoff := if retry then 1 else 0, limit := false, releaseReq := false, tripped := true }

/-- The state of a trip before its fault. -/
def State.tripped : State := (s.addF (F.CH_COUNTS_OVL_TRIPS c.val) 1).chanChange c false (Chan.trip (s.retries c))

theorem overloadTrip_eq : s.overloadTrip c = (s.tripped c).chFault c kChOverload 63 := rfl

theorem tripped_spec : ((s.tripped c).chan c).closed = false ∧ ((s.tripped c).chan c).limit = false ∧
    ((s.tripped c).chan c).ovl = ((s.chan c).ovl || !s.retries c) ∧ (s.retries c = true → ((s.tripped c).chan c).backoff = 1) ∧
    Counted s (F.CH_COUNTS_OVL_TRIPS c.val) (s.tripped c) ∧ (s.tripped c).swath = s.swath ∧ OtherHalfKept c s (s.tripped c) := by
  have chan : (s.addF (F.CH_COUNTS_OVL_TRIPS c.val) 1).chan c = s.chan c := chan_addF ..
  have regs := chanChange_regs (s.addF (F.CH_COUNTS_OVL_TRIPS c.val) 1) c false (Chan.trip (s.retries c))
  have guarded : ((s.addF (F.CH_COUNTS_OVL_TRIPS c.val) 1).updChan c (Chan.trip (s.retries c))).unprotected c = false := by
    unfold State.unprotected State.ovlLatched
    rw [chan_updChan_same]
    cases s.retries c <;> simp [Chan.trip]
  refine ⟨chanChange_opens _ _ _ _ guarded, chanChange_unlimited _ _ _ _ rfl, ?_, fun retry => ?_, ?_, ?_, ?_⟩
  · exact (chanChange_field _ c false (Chan.trip (s.retries c)) Chan.ovl).trans (by rw [chan]; rfl)
  · refine eq_of_beq ((chanChange_backoff ..).trans ?_)
    simp [Chan.trip, retry]
  · exact (regs.fld (F.CH_COUNTS_OVL_TRIPS c.val) (stands_counts c)).trans
      (counted_addF s _ (by decide : (24 : Nat) ≤ 31) (by decide : (31 : Nat) < 32))
  · exact (regs.swath (by decide) (by decide)).trans (swath_addF s c _ 1 rfl)
  · exact (chanChange_apart ..).1.step (otherCh_addF s c _ 1).half

/-- The state of a shutdown before its fault: the thermal cycle told and counted (R94). -/
def State.overheated : State :=
  let t := s.chanChange c false fun x => { x with hot := true, limit := false }
  ({ t with sr := { t.sr with thermal := t.sr.thermal.set c.val (t.sr.thermal.getD c.val 0 + 1) } } : State).addF
    (F.CH_COUNTS_HOT_TRIPS c.val) 1

theorem overheated_spec : ((s.overheated c).chan c).hot = true ∧ ((s.overheated c).chan c).closed = false ∧
    ((s.overheated c).chan c).ovl = (s.chan c).ovl ∧ Counted s (F.CH_COUNTS_HOT_TRIPS c.val) (s.overheated c) ∧
    (s.overheated c).swath = s.swath ∧ OtherHalfKept c s (s.overheated c) := by
  let f : Chan → Chan := fun x => { x with hot := true, limit := false }
  have chan (d : ChIx) : (s.overheated c).chan d = (s.chanChange c false f).chan d := chan_addF ..
  have regs := chanChange_regs s c false f
  have guarded : (s.updChan c f).unprotected c = false := by
    unfold State.unprotected
    rw [chan_updChan_same]
    simp [f]
  have counted := counted_addF ({ s.chanChange c false f with sr := { (s.chanChange c false f).sr with
    thermal := (s.chanChange c false f).sr.thermal.set c.val ((s.chanChange c false f).sr.thermal.getD c.val 0 + 1) } } : State)
    (F.CH_COUNTS_HOT_TRIPS c.val) (by decide : (16 : Nat) ≤ 23) (by decide : (23 : Nat) < 32)
  refine ⟨?_, ?_, ?_, ?_, ?_, ?_⟩
  · rw [chan]
    exact chanChange_field s c false f Chan.hot
  · rw [chan]
    exact chanChange_opens _ _ _ _ guarded
  · rw [chan]
    exact chanChange_field s c false f Chan.ovl
  · unfold Counted at counted ⊢
    rw [← regs.fld (F.CH_COUNTS_HOT_TRIPS c.val) (stands_counts c)]
    exact counted
  · exact (swath_addF _ c _ 1 rfl).trans (regs.swath (by decide) (by decide))
  · exact fun d n => (chan d).trans ((chanChange_apart ..).1 d n)

theorem overheated_only : OnlyChanges switchFaultParts s (s.overheated c) :=
  only_trans (only_mono (State.chanChange_only ..) (by decide))
    (only_trans (only_sr (by decide) (only_refl _ _)) (only_mono (State.addF_only ..) (by decide)))

end

/-- Settles O1: each protection acts by a change of its channel, after which the switch follows: the limit leaves it closed, a latch, a
backoff or the temperature opens it; the fault comes last and moves no switch. -/
theorem switchProtectionOpensTheSwitch : Obligations.SwitchProtectionOpensTheSwitch := by
  refine fun c s switch => ⟨fun shut may => ?limit, fun above shut limited unheld => ?overload, fun cool => ?hot⟩
  case limit =>
    refine doesOnly_whenCh rfl (by rw [switch, shut]; rfl) (State.chanChange_only ..) ?_
    obtain ⟨limit, closed⟩ := limit_engages s c (f := fun x => { x with
      limit := true, capture := x.capture.map fun k => { k with limitedAt := k.limitedAt.or (some k.samples.length) } })
      (fun _ => ⟨rfl, rfl, rfl, rfl⟩) (by unfold State.unprotected State.ovlLatched; rw [chan_updChan_same]) shut may rfl
    exact ⟨limit, closed, chanChange_apart ..⟩
  case overload =>
    obtain ⟨open_, unlimited, latch, backoff, counted, swath, other⟩ := tripped_spec s c
    have now : (s.isSwitch c && (s.chan c).closed && ((s.chan c).limit || above) && (s.chan c).heldTill.isNone) = true := by
      rw [switch, shut, unheld]
      simpa using limited
    have ovl : ((s.tripped c).chFault c kChOverload 63).ovlLatched c = ((s.chan c).ovl || !s.retries c) :=
      (chFault_field (s.tripped c) c c kChOverload 63 Chan.ovl).trans latch
    refine doesOnly_whenCh rfl now (only_mono (State.overloadTrip_only ..) (by decide)) ?_
    rw [overloadTrip_eq]
    refine ⟨?_, ?_, ?_, ?_, fun retry => ?_, fun latches => ?_, ?_⟩
    · exact (chFault_field (s.tripped c) c c kChOverload 63 Chan.closed).trans open_
    · exact (chFault_field (s.tripped c) c c kChOverload 63 Chan.limit).trans unlimited
    · exact (chFault_told (s.tripped c) c kChOverload 63 (known_ch c _ (by decide) (by decide))).since swath
    · exact (chFault_counts (s.tripped c) c c kChOverload 63 _ rfl).trans counted
    · have retry' : s.retries c = true := by simp [State.retries, retry.1, retry.2]
      refine ⟨(chFault_field (s.tripped c) c c kChOverload 63 Chan.backoff).trans (backoff retry'), ovl.trans ?_⟩
      rw [retry', Bool.not_true, Bool.or_false]
      rfl
    · have latched : s.retries c = false := by
        rw [State.retries, Bool.eq_false_iff]
        simpa using latches
      rw [ovl, latched, Bool.not_false, Bool.or_true]
    · exact (chFault_otherCh (s.tripped c) c kChOverload 63).half.step other
  case hot =>
    obtain ⟨hot, open_, latch, counted, swath, other⟩ := overheated_spec s c
    refine doesOnly_whenCh rfl (by rw [switch, cool]; rfl) (only_trans (overheated_only s c) (chFault_held (s.overheated c) ..)) ⟨?_, ?_, ?_, ?_, ?_, ?_⟩
    · exact (chFault_field (s.overheated c) c c kChOvertemp 63 Chan.hot).trans hot
    · exact (chFault_field (s.overheated c) c c kChOvertemp 63 Chan.closed).trans open_
    · exact (chFault_told (s.overheated c) c kChOvertemp 63 (known_ch c _ (by decide) (by decide))).since swath
    · exact (chFault_counts (s.overheated c) c c kChOvertemp 63 _ rfl).trans counted
    · exact (chFault_field (s.overheated c) c c kChOvertemp 63 Chan.ovl).trans latch
    · exact (chFault_otherCh (s.overheated c) c kChOvertemp 63).half.step other

end Sys2Proof.Machine
end

section
/-!
PROOFS. The ends of the protections of a switch, and the analogue stages (R82, R92-R100, R128).
-/
namespace Sys2Proof.Machine

/-! ## Ends of a protection (R92-R94, R128) -/

section
variable (s : State) (c : ChIx)

/-- After a change that ends a protection the switch is closed exactly if it may be: if it is commanded closed and nothing else holds it
open, and never against its command. -/
theorem protection_ends (f : Chan → Chan)
    (same : ∀ x, (f x).action = x.action ∧ (f x).value = x.value ∧ (f x).holding = x.holding ∧ (f x).holdVal = x.holdVal) :
    ((s.chanChange c false f).chan c).closed = (s.wants c && (s.updChan c f).unprotected c) :=
  (chanChange_closed ..).trans (chanChange_mayClose s c false f same)

theorem unprotected_updChan (f : Chan → Chan) : (s.updChan c f).unprotected c =
    (!(f (s.chan c)).ovl && (f (s.chan c)).backoff != 1 && !(f (s.chan c)).hot && (f (s.chan c)).pulse.isNone) := by
  unfold State.unprotected State.ovlLatched
  simp only [chan_updChan_same]

theorem releaseLatch_spec (latched : s.ovlLatched c = true) : ((s.releaseLatch c).chan c).releaseReq = true ∧
    ((s.releaseLatch c).chan c).closed = (s.chan c).closed ∧ (s.releaseLatch c).ovlLatched c = true ∧
    (s.releaseLatch c).pipe.next = s.pipe.next ||| cUNSTAMPED ∧ OtherChKept c s (s.releaseLatch c) := by
  have e : s.releaseLatch c = (s.updChan c fun x => { x with releaseReq := true }).unstamped := if_pos latched
  have chan (d : ChIx) : (s.releaseLatch c).chan d = (s.updChan c fun x => { x with releaseReq := true }).chan d := by
    rw [e]
    exact chan_only (State.unstamped_only _) (by decide) d
  have own := (chan c).trans (chan_updChan_same ..)
  refine ⟨by rw [own], by rw [own], ?_, by rw [e]; rfl, fun d n => (chan d).trans (otherCh_updChan s c _ d n)⟩
  unfold State.ovlLatched
  rw [own]
  exact latched

/-- A HOLD of a switch that has run out leaves it OFF (R128). -/
theorem wants_holdOver (safe : s.inSafe c = true) (hold : s.chFld c (F.CH_SAFE_SAFE c.val) = 2) (off : (s.chan c).holding = false) :
    s.wants c = false := by
  unfold State.wants
  simp [safe, hold, off]

theorem inSafe_chanChange (cap : Bool) (f : Chan → Chan) (same : ∀ x, (f x).action = x.action) :
    (s.updChan c f).inSafe c = s.inSafe c ∧ (s.chanChange c cap f).inSafe c = s.inSafe c := by
  have first : (s.updChan c f).inSafe c = s.inSafe c := inSafe_of c (by rw [chan_updChan_same, same]) (hc_eq rfl)
  refine ⟨first, inSafe_of c ?_ (chanChange_spec s c cap f).2.2.2⟩
  rw [chanChange_field s c cap f Chan.action, same]

theorem safeCode_chanChange (cap : Bool) (f : Chan → Chan) :
    (s.chanChange c cap f).chFld c (F.CH_SAFE_SAFE c.val) = s.chFld c (F.CH_SAFE_SAFE c.val) :=
  chFld_keep c _ (chanChange_spec s c cap f).2.2.2 ((chanChange_regs s c cap f).same _ (stands_cfg c).2)

/-- A HOLD that ends leaves the switch to follow; with a safe state of code HOLD it goes to OFF (R128). -/
theorem hold_ends : ((s.chanChange c false fun x => { x with holding := false }).chan c).holding = false ∧
    (s.inSafe c = true → s.chFld c (F.CH_SAFE_SAFE c.val) = 2 →
      ((s.chanChange c false fun x => { x with holding := false }).chan c).closed = false) := by
  obtain ⟨early, late⟩ := inSafe_chanChange s c false (fun x => { x with holding := false }) fun _ => rfl
  have ended : ((s.chanChange c false fun x => { x with holding := false }).chan c).holding = false :=
    fieldChange_ended s (halfOf c) false _ c early (by rw [chan_updChan_same])
  refine ⟨ended, fun safe hold => ?_⟩
  rw [chanChange_closed]
  unfold State.mayClose
  rw [wants_holdOver _ c (late.trans safe) ((safeCode_chanChange s c false _).trans hold) ended, Bool.false_and]

end

/-- Settles O2: a protection ends by a change of its channel, after which the switch is closed exactly if it may be; the release of a
latch waits for the boundary. -/
theorem switchProtectionEndsAndTheSwitchFollows : Obligations.SwitchProtectionEndsAndTheSwitchFollows := by
  refine fun c s => ⟨fun runs => ?retry, fun shut unlimited => ?attempts, fun on latched => ?latch, fun hot => ?cools, fun holding => ?hold⟩
  case retry =>
    have closed := protection_ends s c (fun x => { x with backoff := 2 }) fun _ => ⟨rfl, rfl, rfl, rfl⟩
    rw [unprotected_updChan] at closed
    refine doesOnly_whenCh rfl (beq_iff_eq.mpr runs) (State.chanChange_only ..) ⟨fun one => ?_, chanChange_closed .., ?_, ?_, chanChange_apart ..⟩
    · have still := chanChange_backoff s c false fun x => { x with backoff := 2 }
      rw [one] at still
      exact absurd still Bool.noConfusion
    · exact fun wants free cool idle => closed.trans (by simp [wants, show (s.chan c).ovl = false from free, cool, idle])
    · exact fun wants => closed.trans (by rw [wants, Bool.false_and])
  case attempts =>
    have none : ((s.chanChange c false fun x => { x with tries := 0 }).chan c).tries = 0 :=
      chanChange_tries s c false (fun x => { x with tries := 0 }) shut
    refine doesOnly_whenCh rfl (by rw [shut, unlimited]; rfl) (State.chanChange_only ..) ⟨none, ?_, chanChange_apart ..⟩
    exact (attempt_fieldChange s (halfOf c) false _ c (mem_chOf c)).trans (congrArg (· % 16) none)
  case latch =>
    exact ⟨_, s.hostKey_on _ on, only_mono (State.releaseLatch_only ..) (by decide), releaseLatch_spec s c latched⟩
  case cools =>
    have closed := protection_ends s c (fun x => { x with hot := false }) fun _ => ⟨rfl, rfl, rfl, rfl⟩
    rw [unprotected_updChan] at closed
    refine doesOnly_whenCh rfl hot (State.chanChange_only ..) ⟨?_, chanChange_closed .., ?_, ?_, chanChange_apart ..⟩
    · exact chanChange_field s c false (fun x => { x with hot := false }) Chan.hot
    · exact fun wants free idle still => closed.trans (by simp [wants, show (s.chan c).ovl = false from free, idle, still])
    · exact fun wants => closed.trans (by rw [wants, Bool.false_and])
  case hold =>
    obtain ⟨ended, off⟩ := hold_ends s c
    exact doesOnly_whenCh rfl holding (State.chanChange_only ..)
      ⟨ended, chanChange_closed .., fun _ safe code => off safe code, chanChange_apart ..⟩

/-! ## Analogue stages (R82, R97, R98, R100) -/

section
variable (s : State) (c : ChIx)

/-- The shunt of a channel as a change of it shows (R97, R164). -/
theorem shunt_shows (f : Chan → Chan) : ((s.chanChange c false f).chan c).shuntOpen = (f (s.chan c)).shuntOpen ∧
    (s.isBoot = false → (s.chanChange c false f).flag (F.THR_NOW_SHUNT_OPEN c.val) = (f (s.chan c)).shuntOpen) := by
  have shunt := chanChange_field s c false f Chan.shuntOpen
  exact ⟨shunt, fun run => (shunt_fieldChange s (halfOf c) false _ c (mem_chOf c) run).trans shunt⟩

/-- A diagnostic whose condition was not in force raises its fault and keeps it (R108). -/
theorem diagnose_new (kind partner : Nat) (fresh : (s.chan c).has kind = false) :
    s.diagnose c kind partner = (s.chFault c kind partner).updChan c fun x => x.begin kind := if_neg (by simp [fresh])

/-- A fault of a channel of one of its own kinds is told. -/
theorem told_chFault (kind partner : Nat) (lo : 1 ≤ kind) (hi : kind ≤ 12) : ChTold s c kind partner (s.chFault c kind partner) :=
  chFault_told s c kind partner (known_ch c kind lo hi)

theorem has_begin (x : Chan) (kind : Nat) : (x.begin kind).has kind = true := by
  unfold Chan.begin
  split
  · assumption
  · simp [Chan.has]

theorem has_ended (x : Chan) (kind : Nat) : (x.ended kind).has kind = false := by
  simp [Chan.has, Chan.ended]

/-- A diagnostic whose condition was not in force raises its fault, keeps its condition and touches no other channel (R108). -/
theorem diagnose_spec (kind : Nat) (lo : 1 ≤ kind) (hi : kind ≤ 12) (fresh : (s.chan c).has kind = false) :
    ChTold s c kind 63 (s.diagnose c kind 63) ∧ ((s.diagnose c kind 63).chan c).has kind = true ∧
      OtherChKept c s (s.diagnose c kind 63) := by
  rw [diagnose_new s c kind 63 fresh]
  refine ⟨(told_chFault s c kind 63 lo hi).updChan _, ?_, (otherCh_updChan _ c _).step (chFault_otherCh s c kind 63)⟩
  rw [chan_updChan_same]
  exact has_begin ..

theorem diagnose_new_only {ps : List Part} (kind partner : Nat) (k : Part.sub [.chans] ps = true)
    (h : OnlyChanges ps s (s.chFault c kind partner)) (fresh : (s.chan c).has kind = false) :
    OnlyChanges ps s (s.diagnose c kind partner) := by
  rw [diagnose_new s c kind partner fresh]
  exact only_step (State.updChan_only ..) k h

end

/-- Settles O3: the shunt and the loop supply act by a change of their channel, the other stages by a mark at it; a fault is told and
moves nothing else. -/
theorem analogueStagesOpenAndReconnect : Obligations.AnalogueStagesOpenAndReconnect := by
  refine fun c s => ⟨fun has shut => ?opens, fun uA isOpen => ⟨fun low => ?reconnects, fun high => ?stays⟩, fun isOpen fresh => ?overload,
    fun on fresh => ?loop, fun ret shut => ⟨fun fresh acts => ?return_, fun still => ?standby⟩, fun isOpen => ?returns,
    fun aov => ⟨fun fresh => ?sense, ?disconnects, ?reconnected⟩, fun isLocal => ?restores⟩
  case opens =>
    obtain ⟨shunt, shown⟩ := shunt_shows s c fun x => { x with shuntOpen := true, wShunt := true }
    exact doesOnly_whenCh rfl (by rw [has, shut]; rfl) (State.chanChange_only ..) ⟨shunt, shown, chanChange_apart ..⟩
  case reconnects =>
    obtain ⟨shunt, shown⟩ := shunt_shows s c fun x => { x with shuntOpen := false, shuntOvl := false }
    exact doesOnly_whenCh rfl (by rw [isOpen]; simpa using low) (State.chanChange_only ..) ⟨shunt, shown, chanChange_apart ..⟩
  case stays => exact does_idle rfl (by rw [isOpen]; simpa using high)
  case overload =>
    refine doesOnly_whenCh rfl (by rw [isOpen, fresh]; rfl) ?_ ⟨?_, ?_, ?_⟩
    · exact only_trans (only_mono (State.updChan_only ..) (by decide)) (chFault_plain _ c kChOverload 63 rfl)
    · exact (told_chFault (s.updChan c _) c kChOverload 63 (by decide) (by decide)).since rfl
    · refine (chFault_field _ c c kChOverload 63 Chan.shuntOpen).trans ?_
      rw [chan_updChan_same]
      exact isOpen
    · exact (chFault_otherCh _ c kChOverload 63).step (otherCh_updChan s c _)
  case loop =>
    refine doesOnly_whenCh rfl (by rw [on, fresh]; rfl) ?_ ⟨?_, ?_, ?_⟩
    · exact only_trans (only_mono (State.chanChange_only ..) (by decide)) (chFault_held _ c kChOverload 63)
    · exact (told_chFault (s.chanChange c false _) c kChOverload 63 (by decide) (by decide)).since
        ((chanChange_regs ..).swath (by decide) (by decide))
    · exact (chFault_field _ c c kChOverload 63 Chan.loopLimit).trans (chanChange_field s c false (fun x => { x with loopLimit := true }) Chan.loopLimit)
    · exact (chFault_field _ c c kChOverload 63 Chan.closed).trans ((chanChange_closed ..).trans (mayClose_chFault ..).symm)
  case return_ =>
    obtain ⟨told, -, other⟩ := diagnose_spec s c kChShortVf (by decide) (by decide) fresh
    refine doesOnly_whenCh rfl (by rw [ret, shut]; rfl) ?_ ?_
    · rw [if_neg (by simp [acts])]
      exact only_step (State.updChan_only ..) (by decide) (diagnose_new_only s c kChShortVf 63 (by decide) (chFault_held ..) fresh)
    · rw [if_neg (by simp [acts])]
      exact ⟨by rw [chan_updChan_same], told.updChan _, (otherCh_updChan _ c _).step other⟩
  case standby =>
    refine doesOnly_whenCh rfl (by rw [ret, shut]; rfl) ?_ ?_
    · rw [if_pos still]
      exact State.updChan_only ..
    · rw [if_pos still]
      exact ⟨by rw [chan_updChan_same], otherCh_updChan s c _⟩
  case returns =>
    refine doesOnly_whenCh rfl isOpen (State.updChan_only ..) ⟨?_, ?_, otherCh_updChan s c _⟩
    · rw [chan_updChan_same]
    · rw [chan_updChan_same]
      exact has_ended (s.chan c) kChShortVf
  case sense =>
    obtain ⟨told, -, other⟩ := diagnose_spec s c kChSense (by decide) (by decide) fresh
    refine doesOnly_whenCh rfl (beq_iff_eq.mpr aov) (only_step (State.updChan_only ..) (by decide) ?_)
      ⟨by rw [chan_updChan_same], told.updChan _, (otherCh_updChan _ c _).step other⟩
    exact diagnose_new_only s c kChSense 63 (by decide) (chFault_plain s c kChSense 63 rfl) fresh
  case disconnects =>
    exact doesOnly_whenCh rfl (beq_iff_eq.mpr aov) (State.updChan_only ..) ⟨by rw [chan_updChan_same], otherCh_updChan s c _⟩
  case reconnected =>
    exact doesOnly_whenCh rfl (beq_iff_eq.mpr aov) (State.updChan_only ..) ⟨by rw [chan_updChan_same], otherCh_updChan s c _⟩
  case restores =>
    refine doesOnly_whenCh rfl isLocal (State.updChan_only ..) ⟨?_, ?_, otherCh_updChan s c _⟩
    · rw [chan_updChan_same]
    · rw [chan_updChan_same]
      exact has_ended (s.chan c) kChSense

end Sys2Proof.Machine
end

section
/-!
PROOFS. Diagnostics, the ALM strap and the edges of a PULSE channel (R95, R99-R109, R545, R554).
-/
namespace Sys2Proof.Machine

/-! ## Diagnostics (R95, R99, R101, R108, R109) -/

section
variable (s : State) (c : ChIx)

/-- The sticky events of a channel outlast a change of a field die (R107). -/
theorem events_kept {s t : State} (c : ChIx) (h : t.reg (Reg.CH_FLAGS c.val) &&& fieldKeep (Reg.CH_FLAGS c.val) =
    s.reg (Reg.CH_FLAGS c.val) &&& fieldKeep (Reg.CH_FLAGS c.val)) :
    t.fld (F.CH_FLAGS_EVENTS c.val) = s.fld (F.CH_FLAGS_EVENTS c.val) := by
  have mask : fieldKeep (Reg.CH_FLAGS c.val) = 0xFFFFEFFF#32 := by
    clear h
    revert c
    decide
  have low : ∀ i : Fin 12, (0xFFFFEFFF#32 : Word).getLsbD i = true := by decide
  rw [mask] at h
  refine Nat.eq_of_testBit_eq fun i => ?_
  unfold State.fld
  rw [testBit_wbits, testBit_wbits]
  by_cases k : i < 12
  · have bit := congrArg (fun w : Word => w.getLsbD i) h
    simp only [BitVec.getLsbD_and, low ⟨i, k⟩, Bool.and_true] at bit
    simp [F.CH_FLAGS_EVENTS, bit]
  · simp [F.CH_FLAGS_EVENTS, show ¬i < 11 - 0 + 1 from k]

theorem ChTold.fieldChange {s t : State} {c : ChIx} {kind partner : Nat} (h : ChTold s c kind partner t) (k : HalfIx) (cap : Bool)
    (f : State → State) (only : ∀ u, OnlyChanges fieldParts u (f u)) (regs : ∀ a, (f t).reg a = t.reg a) :
    ChTold s c kind partner (t.fieldChange k cap f) :=
  h.kept (ps := fieldParts) (only_fieldChange t k cap f (by decide) only (only_refl _ _)) (by decide) (by decide)
    (events_kept c (by rw [(fieldChange_spec t k cap f).1.regs, regs]))

/-- A fault that marks its condition: told, the condition in force, no other channel touched. -/
theorem begun_spec (kind : Nat) (lo : 1 ≤ kind) (hi : kind ≤ 12) (plain : (kind == kChShortVf || kind == kChCross) = false) :
    OnlyChanges (.chans :: faultParts) s ((s.chFault c kind 63).updChan c fun x => x.begin kind) ∧
      ChTold s c kind 63 ((s.chFault c kind 63).updChan c fun x => x.begin kind) ∧
      (((s.chFault c kind 63).updChan c fun x => x.begin kind).chan c).has kind = true ∧
      OtherChKept c s ((s.chFault c kind 63).updChan c fun x => x.begin kind) := by
  refine ⟨only_step (State.updChan_only ..) (by decide) (chFault_plain s c kind 63 plain), (told_chFault s c kind 63 lo hi).updChan _, ?_,
    (otherCh_updChan _ c _).step (chFault_otherCh s c kind 63)⟩
  rw [chan_updChan_same]
  exact has_begin ..

/-- A gate held open: the switches of its half follow (R122). -/
theorem gateHold_spec (h : HalfIx) (cap : Bool) :
    ((s.fieldChange h cap fun s => s.updHalf h fun x => { x with gateHold := true }).half h).gateHold = true ∧
      SwitchesFollow h (s.fieldChange h cap fun s => s.updHalf h fun x => { x with gateHold := true }) := by
  refine ⟨?_, (fieldChange_spec ..).2⟩
  rw [fieldChange_ownHalf, half_updHalf, if_pos rfl]

end

/-! ## The ALM strap (R103, R545, R554) -/

/-- The five rules of the strap name one code: the one the model decodes. -/
theorem almCode_of_rules {r : AlmPhases} {code : Nat} (changed : r.changed = true → code = 3)
    (source : r.changed = false → 4000 < r.source → r.sink < 1000 → code = 0)
    (ground : r.changed = false → r.source < 1000 → r.sink < 1000 → code = 1)
    (supply : r.changed = false → 4000 < r.source → 4000 < r.sink → code = 2)
    (none : r.source ≤ 4000 ∧ 1000 ≤ r.source ∨ r.source < 1000 ∧ 1000 ≤ r.sink ∨ 1000 ≤ r.sink ∧ r.sink ≤ 4000 → code = 3) :
    almCode r = code := by
  unfold almCode
  simp only [Bool.and_eq_true, decide_eq_true_eq]
  by_cases k : r.changed = true
  · rw [if_pos k, changed k]
  · have still := Bool.eq_false_iff.mpr k
    rw [if_neg k]
    split
    · next h => exact (source still h.1 h.2).symm
    · split
      · next h => exact (ground still h.1 h.2).symm
      · split
        · next h => exact (supply still h.1 h.2).symm
        · exact (none (by omega)).symm

theorem almRead_spec (s : State) (h : HalfIx) (code : Nat) :
    let t := (s.updHalf h fun x => { x with almIn := code }).halfFault h kAlmChanged
    OnlyChanges faultParts s t ∧ (t.half h).almIn = code ∧ (t.half h).alm = (s.half h).alm ∧ HalfTold s h kAlmChanged t ∧
      FaultRegsOnly s t := by
  have own := half_halfFault (s.updHalf h fun x => { x with almIn := code }) h h kAlmChanged
  rw [half_updHalf, if_pos rfl] at own
  refine ⟨only_trans (only_mono (State.updHalf_only ..) (by decide)) (only_mono (State.halfFault_only ..) (by decide)), ?_, ?_,
    halfFault_told _ h kAlmChanged (by decide) (by decide),
    ⟨fun a faults => State.reg_raise (s.updHalf h fun x => { x with almIn := code }) _ _ _ a faults⟩⟩
  · rw [own]
  · rw [own]

/-! ## The edges of a PULSE channel (R105) -/

/-- A PULSE channel that has seen an edge, the `n`-th of the frame that began at `frame` (R105). -/
def Chan.edge (rising : Bool) (frame n : Nat) (x : Chan) : Chan :=
  { x with comp := rising, frameAt := frame, frameEdges := n, pulses := if rising then x.pulses + 1 else x.pulses }

theorem pulseEdge_spec (s : State) (c : ChIx) (rising : Bool) (pulse : s.func c = fPULSE) (edge : (s.chan c).comp ≠ rising) :
    DoesOnly (.chans :: faultParts) (.pulseEdge c rising) s fun t =>
      (t.chan c).comp = rising ∧ (t.chan c).pulses = (if rising then (s.chan c).pulses + 1 else (s.chan c).pulses) ∧ OtherChKept c s t ∧
      (2 < (t.chan c).frameEdges → ChTold s c kChEdgeLost 63 t ∧ (t.chan c).edgeAt = (s.chan c).edgeAt) ∧
      ((t.chan c).frameEdges ≤ 2 → (t.chan c).edgeAt = (s.tick :: (s.chan c).edgeAt).take 4) := by
  let frame := s.btick + s.inSwath / 192 * 192
  let n := if (s.chan c).frameAt == frame then (s.chan c).frameEdges + 1 else 1
  let u := s.updChan c (Chan.edge rising frame n)
  have own : u.chan c = (s.chan c).edge rising frame n := chan_updChan_same ..
  have run : exec (.pulseEdge c rising) s = s.whenCh (s.func c == fPULSE && (s.chan c).comp != rising) fun _ =>
      if n > 2 then u.chFault c kChEdgeLost 63 else u.updChan c fun x => { x with edgeAt := (s.tick :: x.edgeAt).take 4 } := rfl
  refine doesOnly_whenCh run (by simp [pulse, edge]) ?_ ?_
  · exact only_ite (only_trans (only_mono (State.updChan_only ..) (by decide)) (chFault_plain u c kChEdgeLost 63 rfl))
      (only_trans (only_mono (State.updChan_only ..) (by decide)) (only_mono (State.updChan_only ..) (by decide)))
  · by_cases many : n > 2
    · rw [if_pos many]
      have field {β : Type} (g : Chan → β) (seen : ∀ z : Chan, g z.unmarked = g z) :
          g ((u.chFault c kChEdgeLost 63).chan c) = g ((s.chan c).edge rising frame n) :=
        (chFault_field u c c kChEdgeLost 63 g seen).trans (congrArg g own)
      have edges : ((u.chFault c kChEdgeLost 63).chan c).frameEdges = n := field Chan.frameEdges fun _ => rfl
      refine ⟨field Chan.comp fun _ => rfl, field Chan.pulses fun _ => rfl, (chFault_otherCh u c kChEdgeLost 63).step (otherCh_updChan s c _),
        fun _ => ⟨(told_chFault u c kChEdgeLost 63 (by decide) (by decide)).since rfl, field Chan.edgeAt fun _ => rfl⟩, fun few => ?_⟩
      exact absurd (Nat.lt_of_lt_of_le many (edges ▸ few)) (Nat.lt_irrefl 2)
    · rw [if_neg many]
      have stamped : (u.updChan c fun x => { x with edgeAt := (s.tick :: x.edgeAt).take 4 }).chan c =
          { (s.chan c).edge rising frame n with edgeAt := (s.tick :: (s.chan c).edgeAt).take 4 } :=
        (chan_updChan_same ..).trans (by rw [own]; rfl)
      rw [stamped]
      exact ⟨rfl, rfl, (otherCh_updChan u c _).step (otherCh_updChan s c _), fun more => absurd more many, fun _ => rfl⟩

/-- Settles O4: a diagnostic under its condition is a fault with a mark at its channel, told once; the strap and the edges of a PULSE channel are
decoded by their rules. -/
theorem channelDiagnosticsRaiseTheirFault : Obligations.ChannelDiagnosticsRaiseTheirFault := by
  refine fun c s => ⟨fun switch open_ => ?clamp, fun aoi acts level => ?headroom, fun ao free out => ?deviation, fun test fresh => ?openWire,
    fun switch on open_ unheld acts fresh => ?shortVf, fun switch off fresh => ?stuckOn,
    fun switch may unlimited unheld gate acts fresh => ?stuckOff, fun switch on open_ low awake acts => ⟨?fails, ?passes⟩,
    fun h r code changed source ground supply none => ⟨fun powered new => ?strap, fun same => ?sameStrap⟩, fun pulse low => ?rises,
    fun pulse high => ?falls, fun pulse e same => ?noEdge⟩
  case clamp =>
    exact doesOnly_whenCh rfl (by rw [switch, open_]; rfl) (chFault_plain s c kChClampEnergy 63 rfl)
      ⟨told_chFault s c kChClampEnergy 63 (by decide) (by decide), (chFault_field s c c kChClampEnergy 63 Chan.closed).trans open_,
        chFault_otherCh s c kChClampEnergy 63⟩
  case headroom =>
    obtain ⟨only, spec⟩ := begun_spec s c kChHeadroom (by decide) (by decide) rfl
    exact doesOnly_whenCh rfl (by simp [aoi, acts, level]) only spec
  case deviation =>
    obtain ⟨only, spec⟩ := begun_spec s c kChAoDev (by decide) (by decide) rfl
    exact doesOnly_whenCh rfl (by rw [free, out]; simpa using ao) only spec
  case openWire =>
    exact doesOnly_whenCh rfl test (diagnose_new_only s c kChOpen 63 (by decide) (chFault_plain s c kChOpen 63 rfl) fresh)
      (diagnose_spec s c kChOpen (by decide) (by decide) fresh)
  case shortVf =>
    exact doesOnly_whenCh rfl (by rw [switch, on, open_, unheld, acts]; rfl)
      (diagnose_new_only s c kChShortVf 63 (by decide) (chFault_held s c kChShortVf 63) fresh)
      (diagnose_spec s c kChShortVf (by decide) (by decide) fresh)
  case stuckOn =>
    obtain ⟨told, -, -⟩ := diagnose_spec s c kChStuckOn (by decide) (by decide) fresh
    refine doesOnly_whenCh rfl (by rw [switch, off, fresh]; rfl) ?_ ⟨?_, gateHold_spec (s.diagnose c kChStuckOn 63) (halfOf c) false⟩
    · exact only_fieldChange _ _ _ _ (by decide) (fun u => only_mono (State.updHalf_only ..) (by decide))
        (only_mono (State.diagnose_only ..) (by decide))
    · exact told.fieldChange _ _ _ (fun u => only_mono (State.updHalf_only ..) (by decide)) fun a => rfl
  case stuckOff =>
    obtain ⟨wants, unprotected⟩ := Bool.and_eq_true_iff.mp may
    exact doesOnly_whenCh rfl (by rw [switch, wants, unprotected, unlimited, unheld, gate, acts]; rfl)
      (diagnose_new_only s c kChStuckOff 63 (by decide) (chFault_plain s c kChStuckOff 63 rfl) fresh)
      (diagnose_spec s c kChStuckOff (by decide) (by decide) fresh)
  case fails =>
    exact doesOnly_whenCh rfl (by rw [switch, on, open_, low, awake, acts]; rfl) (State.updChan_only ..)
      ⟨by rw [chan_updChan_same]; rfl, otherCh_updChan s c _⟩
  case passes =>
    exact doesOnly_whenCh rfl (by rw [switch, on, open_, low, awake, acts]; rfl) (State.updChan_only ..)
      ⟨by rw [chan_updChan_same]; rfl, by rw [chan_updChan_same]; exact has_ended (s.chan c) kChOpen, otherCh_updChan s c _⟩
  case strap =>
    have is : almCode r = code := almCode_of_rules changed source ground supply none
    obtain ⟨only, spec⟩ := almRead_spec s h (almCode r)
    rw [is] at spec
    exact doesOnly_whenCh (f := fun s => (s.updHalf h fun x => { x with almIn := almCode r }).halfFault h kAlmChanged) rfl
      (by rw [powered, is]; simpa using new) only (by rw [is]; exact spec)
  case sameStrap =>
    have is : almCode r = code := almCode_of_rules changed source ground supply none
    exact does_idle (f := fun s => (s.updHalf h fun x => { x with almIn := almCode r }).halfFault h kAlmChanged) rfl
      (by rw [is]; rcases same with off | same <;> simp [*])
  case rises => exact pulseEdge_spec s c true pulse (by simp [low])
  case falls => exact pulseEdge_spec s c false pulse (by simp [high])
  case noEdge => exact does_idle rfl (by simp [same])

end Sys2Proof.Machine
end

section
/-!
PROOFS. Status of a half, and what the end of a dark pulse leaves alone (R115, R116, R118, R126, R209).
-/
namespace Sys2Proof.Machine

/-! ## Registers that a capture leaves (R194-R199) -/

/-- Every register but those of the fingerprints. -/
def plainReg (a : Nat) : Bool := !(decide (0x2A100 ≤ a) && decide (a < 0x2A500))

theorem plainReg_fp (c : ChIx) {o : Nat} (lo : 8 ≤ o) (hi : o < 0x40) : plainReg (0x2A100 + o + 64 * c.val) = false := by
  have h1 : 0x2A100 ≤ 0x2A100 + o + 64 * c.val := by omega
  have h2 : 0x2A100 + o + 64 * c.val < 0x2A500 := by omega
  simp only [plainReg, h1, h2, decide_true, Bool.and_self, Bool.not_true]

theorem plainReg_stat (c : ChIx) : plainReg (Reg.FP_STAT c.val) = false := plainReg_fp c (o := 0x28) (by decide) (by decide)

theorem energiseFeatures_plain (s : State) (c : ChIx) (k : Capture) : KeepsRegs plainReg s (s.energiseFeatures c k) := by
  have reg {o : Nat} (lo : 8 ≤ o) (hi : o < 0x40) := plainReg_fp c lo hi
  unfold State.energiseFeatures
  dsimp only
  have tail (u : State) (h : KeepsRegs plainReg s u) : KeepsRegs plainReg s (if k.limitedAt.isSome then u
      else match k.dip (u.dipH c) with
        | none => (u.setReg (Reg.FP_PULL c.val) 0#32).setB (F.FP_STAT_NO_DIP c.val) true
        | some pk =>
          (u.setF (F.FP_PULL_T_PULL c.val) (sat 65535 (k.us pk))).setF (F.FP_PULL_DEPTH c.val)
            (sat 65535 (roundDiv (k.i pk - k.i (valley (u.dipH c) k
              ((List.range k.samples.length).filter fun j => decide (pk + 1 < j)) (pk + 1))) 100).toNat)) := by
    refine kr_ite h ?_
    split
    · exact kr_setB (plainReg_stat c) (kr_setReg (reg (o := 0x18) (by decide) (by decide)) h)
    · exact kr_setF (reg (o := 0x18) (by decide) (by decide)) (kr_setF (reg (o := 0x18) (by decide) (by decide)) h)
  refine tail _ (kr_ite (kr_only (State.updChan_only ..) (by decide) (kr_refl s)) (kr_only (State.updChan_only ..) (by decide) ?_))
  refine kr_setReg (reg (o := 0xC) (by decide) (by decide)) (kr_setReg (reg (o := 8) (by decide) (by decide)) ?_)
  split
  · exact ⟨fun _ _ => rfl⟩
  · exact kr_refl s

theorem dropFeatures_plain (s : State) (c : ChIx) (k : Capture) : KeepsRegs plainReg s (s.dropFeatures c k) := by
  have drop := plainReg_fp c (o := 0x20) (by decide) (by decide)
  have kink := plainReg_fp c (o := 0x24) (by decide) (by decide)
  unfold State.dropFeatures
  dsimp only
  have first (v : Nat) (w : Bool) :
      KeepsRegs plainReg s ((s.setF (F.FP_DROP_T_DROP c.val) v).setB (F.FP_STAT_NO_DROP c.val) w) :=
    kr_setB (plainReg_stat c) (kr_setF drop (kr_refl s))
  split
  · exact kr_setF kink (kr_setF drop (first ..))
  · exact kr_setB (plainReg_stat c) (kr_setF kink (kr_setF drop (first ..)))

theorem captureEnd_plain (s : State) (c : ChIx) (b : Bool) : KeepsRegs plainReg s (s.captureEnd c b) := by
  have stat := plainReg_stat c
  unfold State.captureEnd
  split
  · exact kr_refl s
  · dsimp only
    have flags (u : State) (v w : Nat) (x y z : Bool) (h : KeepsRegs plainReg s u) :
        KeepsRegs plainReg s (((((((u.noteBase c).setReg (Reg.FP_STAT c.val) (wput ((u.noteBase c).reg (Reg.FP_STAT c.val)) 13 8 v)).setF
          (F.FP_STAT_CAPTURES c.val) w).setB (F.FP_STAT_TRUNC c.val) x).setB (F.FP_STAT_LIMITED c.val) y).setB (F.FP_STAT_LOWV c.val) z)) :=
      kr_setB stat (kr_setB stat (kr_setB stat (kr_setF stat (kr_setReg stat (kr_setB stat h)))))
    refine kr_only (State.passCapture_only ..) (by decide) (kr_ite ?_ (kr_ite
      (kr_step (energiseFeatures_plain _ _ _) ?_) (kr_step (dropFeatures_plain _ _ _) ?_))) <;>
      exact flags _ _ _ _ _ _ ⟨fun _ _ => rfl⟩

theorem captureStart_plain (s : State) (c : ChIx) (b : Bool) : KeepsRegs plainReg s (s.captureStart c b) := by
  unfold State.captureStart
  dsimp only
  refine kr_ite (kr_setReg ?_ (kr_only (State.updChan_only ..) (by decide) (captureEnd_plain s c true))) (kr_refl s)
  exact plainReg_fp c (o := 0x14) (by decide) (by decide)

theorem reSwitch_plain (s : State) (c : ChIx) (cap : Bool) : KeepsRegs plainReg s (s.reSwitch c cap) := by
  unfold State.reSwitch State.closeSwitch State.openSwitch State.whenB
  dsimp only
  refine kr_ite (kr_ite (kr_refl s) (kr_ite (kr_step (captureStart_plain ..) ?_) ?_)) (kr_ite (kr_refl s) (kr_ite (kr_step (captureStart_plain ..) ?_) ?_))
  · exact ⟨fun _ _ => rfl⟩
  · exact ⟨fun _ _ => rfl⟩
  · exact kr_only (State.partOperation_only ..) (by decide) ⟨fun _ _ => rfl⟩
  · exact kr_only (State.partOperation_only ..) (by decide) ⟨fun _ _ => rfl⟩

/-! ## FH_STATUS (R118, R126, R209) -/

theorem plainReg_half (h : HalfIx) : plainReg (Reg.FH_STATUS h.val) = true := by
  revert h
  decide

/-- The state of a change of a half before its status follows: halves and FH_STATUS as the change left them. -/
theorem fieldChange_halfStatus (s : State) (h : HalfIx) (cap : Bool) (f : State → State) : ∃ u : State, u.halves = (f s).halves ∧
    u.reg (Reg.FH_STATUS h.val) = (f s).reg (Reg.FH_STATUS h.val) ∧
      (s.fieldChange h cap f).reg (Reg.FH_STATUS h.val) = (u.syncHalf h).reg (Reg.FH_STATUS h.val) := by
  have apart (d : ChIx) : Reg.FH_STATUS h.val ≠ Reg.CH_STATUS d.val ∧ Reg.FH_STATUS h.val ≠ Reg.CH_FLAGS d.val ∧
      Reg.FH_STATUS h.val ≠ Reg.THR_NOW d.val := by
    revert h d
    decide
  refine ⟨(chOf h).foldl (fun (t : State) c => t.reSwitch c cap) ((f s).heldFrom s h), ?_, ?_, ?_⟩
  · exact (foldl_keeps (p := State.halves) (fun v c => (State.reSwitch_only v c cap).same .halves (by decide)) ..).trans
      (hold_fold (chOf h) s (f s)).2.1
  · refine (foldl_keeps (p := fun u => u.reg (Reg.FH_STATUS h.val)) (fun v c => ?_) ..).trans ((hold_fold (chOf h) s (f s)).1 _)
    exact (reSwitch_plain v c cap).same _ (plainReg_half h)
  · exact foldl_keeps (p := fun u => u.reg (Reg.FH_STATUS h.val))
      (fun v d => reg_syncChan_ne v d _ (apart d).1 (apart d).2.1 (apart d).2.2) ..

theorem partOperation_flag (s : State) (n : Nat) (f : Fld) : (s.partOperation n).fld f = s.fld f :=
  fld_of_regs ((State.partOperation_only s n).same .regs (by decide)) f

/-- FH_STATUS as a half follows: the hold, and SUPPLY where the half is without supply. -/
theorem syncHalf_status (s : State) (h : HalfIx) :
    (s.syncHalf h).flag (F.FH_STATUS_GATE_HELD h.val) = ((s.half h).gateHold || (s.half h).gdrvHold) ∧
      (s.syncHalf h).fld (F.FH_STATUS_SUPPLY h.val) = if (s.half h).inReset then 6 else s.fld (F.FH_STATUS_SUPPLY h.val) := by
  let t := s.updHalf h fun x => { x with gdrv := s.gdrvWanted h }
  have own : t.half h = { s.half h with gdrv := s.gdrvWanted h } := (half_updHalf ..).trans (if_pos rfl)
  let u := t.setB (F.FH_STATUS_GATE_HELD h.val) ((t.half h).gateHold || (t.half h).gdrvHold)
  have ownU : u.half h = t.half h := rfl
  let v := u.whenB (u.half h).inReset fun s => s.setF (F.FH_STATUS_SUPPLY h.val) (s.half h).supply
  have last (f : Fld) : (s.syncHalf h).fld f = v.fld f := by
    change (v.whenB ((s.half h).gdrv && !s.gdrvWanted h) fun s => s.partOperation (32 + h.val)).fld f = _
    unfold State.whenB
    split
    · exact partOperation_flag ..
    · rfl
  have held : u.fld (F.FH_STATUS_GATE_HELD h.val) = b2n ((s.half h).gateHold || (s.half h).gdrvHold) := by
    refine (State.fld_setF_same t (F.FH_STATUS_GATE_HELD h.val) _ (Nat.le_refl 9) (by decide : (9 : Nat) < 32)).trans ?_
    rw [own]
    cases (s.half h).gateHold || (s.half h).gdrvHold <;> rfl
  have supply : u.fld (F.FH_STATUS_SUPPLY h.val) = s.fld (F.FH_STATUS_SUPPLY h.val) :=
    State.fld_setF_ne t (F.FH_STATUS_GATE_HELD h.val) (F.FH_STATUS_SUPPLY h.val) _ (Nat.le_refl 9) (by decide : (9 : Nat) < 32)
      (by decide : (13 : Nat) ≤ 15) (.inr (.inr (by decide : (9 : Nat) < 13)))
  unfold State.flag
  rw [last, last]
  by_cases off : (s.half h).inReset = true
  · have is : v = u.setF (F.FH_STATUS_SUPPLY h.val) 6 := by
      refine (u.whenB_true _ (by rw [ownU, own]; exact off)).trans ?_
      rw [ownU, own]
      simp [Half.supply, off]
    rw [is, if_pos off]
    refine ⟨?_, State.fld_setF_same u (F.FH_STATUS_SUPPLY h.val) 6 (by decide : (13 : Nat) ≤ 15) (by decide : (15 : Nat) < 32)⟩
    rw [State.fld_setF_ne u (F.FH_STATUS_SUPPLY h.val) (F.FH_STATUS_GATE_HELD h.val) 6 (by decide : (13 : Nat) ≤ 15)
      (by decide : (15 : Nat) < 32) (Nat.le_refl 9) (.inr (.inl (by decide : (9 : Nat) < 13))), held]
    cases (s.half h).gateHold || (s.half h).gdrvHold <;> rfl
  · have is : v = u := u.whenB_false _ (by rw [ownU, own]; simpa using off)
    rw [is, if_neg off, held, supply]
    refine ⟨?_, rfl⟩
    cases (s.half h).gateHold || (s.half h).gdrvHold <;> rfl

theorem fld_of_reg {s t : State} (f : Fld) (e : t.reg f.reg = s.reg f.reg) : t.fld f = s.fld f := by
  unfold State.fld
  rw [e]

theorem fieldChange_gateHeld (s : State) (h : HalfIx) (cap : Bool) (f : State → State) :
    (s.fieldChange h cap f).flag (F.FH_STATUS_GATE_HELD h.val) = (((f s).half h).gateHold || ((f s).half h).gdrvHold) := by
  obtain ⟨u, halves, -, out⟩ := fieldChange_halfStatus s h cap f
  rw [← half_of_halves halves h, ← (syncHalf_status u h).1]
  unfold State.flag
  rw [fld_of_reg (F.FH_STATUS_GATE_HELD h.val) out]

theorem fieldChange_supply (s : State) (h : HalfIx) (cap : Bool) (f : State → State) :
    (s.fieldChange h cap f).fld (F.FH_STATUS_SUPPLY h.val) =
      if ((f s).half h).inReset then 6 else (f s).fld (F.FH_STATUS_SUPPLY h.val) := by
  obtain ⟨u, halves, reg, out⟩ := fieldChange_halfStatus s h cap f
  rw [fld_of_reg (F.FH_STATUS_SUPPLY h.val) out, (syncHalf_status u h).2, half_of_halves halves h, fld_of_reg (F.FH_STATUS_SUPPLY h.val) reg]

/-! ## A pulse that ends (R115, R116) -/

/-- A channel but for its pulse, its capture and its switch. -/
def Chan.unpulsed (x : Chan) : Chan := { x.uncaptured with pulse := none, heldTill := none, closed := false }

/-- The channel of a pulse that ends, before its switch follows. -/
def State.pulseOver (s : State) (c : ChIx) : State :=
  let t := s.tick
  let on := s.env.vin
  s.updChan c fun x => { x with pulse := none, heldTill := if on then x.heldTill.map fun y => (y.1, t + 4800) else none }

/-- Its switch closed again, where it may be. -/
def State.pulseShut (s : State) (c : ChIx) : State :=
  if (s.pulseOver c).mayClose c then (s.pulseOver c).updChan c fun x => { x with closed := true } else s.pulseOver c

theorem endPulse_eq (s : State) (c : ChIx) : s.endPulse c = (s.pulseShut c).syncChan c := rfl

theorem pulseOver_chan (s : State) (c : ChIx) : ((s.pulseOver c).chan c).unpulsed = (s.chan c).unpulsed ∧
    ((s.pulseOver c).chan c).pulse = none ∧ ((s.pulseOver c).chan c).closed = (s.chan c).closed := by
  unfold State.pulseOver
  dsimp only
  rw [chan_updChan_same]
  exact ⟨rfl, rfl, rfl⟩

theorem pulseShut_follows (s : State) (c : ChIx) : Follows (s.pulseOver c) (s.pulseShut c) :=
  fo_ite (fo_updChan _ _ _ rfl) (fo_refl _)

theorem endPulse_follows (s : State) (c : ChIx) : Follows (s.pulseOver c) (s.endPulse c) :=
  fo_trans (pulseShut_follows s c) (fo_syncChan _ c)

/-- A pulse that ends leaves its channel without one, its switch closed if it may be, and all else of the channel as it was. -/
theorem endPulse_chan (s : State) (c : ChIx) : ((s.endPulse c).chan c).unpulsed = (s.chan c).unpulsed ∧
    ((s.endPulse c).chan c).pulse = none ∧
    ((s.endPulse c).chan c).closed = ((s.chan c).closed || (s.pulseOver c).mayClose c) := by
  obtain ⟨same, pulse, closed⟩ := pulseOver_chan s c
  rw [endPulse_eq, chan_only (State.syncChan_only ..) (by decide)]
  unfold State.pulseShut
  split
  · next may =>
    rw [chan_updChan_same, may, Bool.or_true]
    exact ⟨same, pulse, rfl⟩
  · next may =>
    rw [Bool.eq_false_iff.mpr may, Bool.or_false]
    exact ⟨same, pulse, closed⟩

theorem endPulse_otherCh (s : State) (c : ChIx) : OtherChKept c s (s.endPulse c) := by
  have early : OtherChKept c s (s.pulseOver c) := otherCh_updChan s c _
  refine OtherChKept.step (t := s.pulseShut c) (otherCh_chans fun d => chan_only (State.syncChan_only ..) (by decide) d) ?_
  unfold State.pulseShut
  split
  · exact (otherCh_updChan _ c _).step early
  · exact early

/-- The registers that neither the end of a pulse nor what follows it touches. -/
def calmReg (a : Nat) : Bool := standsReg a && !(allCh.any fun c => a == Reg.CH_COUNTS c.val) && decide (a < newsBase)

theorem calm_of_stands {s t : State} (h : KeepsRegs standsReg s t) : KeepsRegs calmReg s t :=
  ⟨fun a k => h.same a (by simp only [calmReg, Bool.and_eq_true] at k; exact k.1.1)⟩

theorem calm_counts (c : ChIx) : calmReg (Reg.CH_COUNTS c.val) = false := by
  revert c
  decide

theorem calm_addF (s : State) (c : ChIx) (f : Fld) (n : Nat) (e : f.reg = Reg.CH_COUNTS c.val) : KeepsRegs calmReg s (s.addF f n) :=
  kr_addF (e ▸ calm_counts c) (by simp [Fld.news, calmReg]) (kr_refl s)

theorem endPulse_stands (s : State) (c : ChIx) : KeepsRegs standsReg s (s.endPulse c) :=
  kr_step (stands_of_keep (endPulse_follows s c).regs) ⟨fun _ _ => rfl⟩

theorem captureStart_otherCh (s : State) (c : ChIx) (b : Bool) : OtherChKept c s (s.captureStart c b) :=
  fun d n => (chan_captureStart s c b d).other n

/-- A pulse that is aborted is counted as skipped and ends; a capture begins or not. -/
theorem abortPulse_cases (s : State) (c : ChIx) : ((s.chan c).pulse = none ∧ s.abortPulse c = s) ∨
    (s.abortPulse c = (s.addF (F.CH_COUNTS_DP_SKIP c.val) 1).endPulse c ∨
      s.abortPulse c = ((s.addF (F.CH_COUNTS_DP_SKIP c.val) 1).endPulse c).captureStart c false) := by
  unfold State.abortPulse
  split
  · next h => exact .inl ⟨Option.isNone_iff_eq_none.mp h, rfl⟩
  · right
    dsimp only
    split
    · exact .inl rfl
    · exact .inr rfl

theorem unpulsed_uncaptured {x y : Chan} (h : x.uncaptured = y.uncaptured) : x.unpulsed = y.unpulsed :=
  congrArg (fun z : Chan => ({ z with pulse := none, heldTill := none, closed := false } : Chan)) h

theorem abortPulse_chan (s : State) (c : ChIx) : ((s.abortPulse c).chan c).unpulsed = (s.chan c).unpulsed ∧
    ((s.abortPulse c).chan c).pulse = none ∧ OtherChKept c s (s.abortPulse c) ∧ KeepsRegs calmReg s (s.abortPulse c) := by
  let t := s.addF (F.CH_COUNTS_DP_SKIP c.val) 1
  have counted (d : ChIx) : t.chan d = s.chan d := chan_addF ..
  obtain ⟨same, gone, -⟩ := endPulse_chan t c
  rw [counted] at same
  have other : OtherChKept c s (t.endPulse c) := (endPulse_otherCh t c).step (otherCh_addF s c _ 1)
  have regs : KeepsRegs calmReg s (t.endPulse c) := kr_step (calm_of_stands (endPulse_stands t c)) (calm_addF s c _ 1 rfl)
  rcases abortPulse_cases s c with ⟨none, e⟩ | e | e
  · rw [e]
    exact ⟨rfl, none, fun _ _ => rfl, kr_refl s⟩
  · rw [e]
    exact ⟨same, gone, other, regs⟩
  · have cap := captureStart_captures (t.endPulse c) c false c
    rw [e]
    exact ⟨(unpulsed_uncaptured cap).trans same, (seen_through Chan.uncaptured Chan.pulse cap).trans gone,
      (captureStart_otherCh _ c false).step other, kr_step (calm_of_stands (stands_of_keep (fo_captureStart ..).regs)) regs⟩

end Sys2Proof.Machine
end

section
/-!
PROOFS. The group gate of a half and its GDRV (R122-R126).
-/
namespace Sys2Proof.Machine

/-! ## Faults of a half -/

section
variable (s : State) (h : HalfIx)

theorem halfFault_regs (kind : Nat) : FaultRegsOnly s (s.halfFault h kind) := fr_raise ..

theorem halfFault_held (kind : Nat) : OnlyChanges faultParts s (s.halfFault h kind) := only_mono (State.halfFault_only ..) (by decide)

theorem fhStatus_quiet : faultReg (Reg.FH_STATUS h.val) = false ∧ faultReg (Reg.FH_COUNTS h.val) = false ∧
    faultReg (Reg.BD_STATUS h.val) = false := by
  revert h
  decide

theorem HalfTold.since {s s' t : State} {h : HalfIx} {kind : Nat} (k : HalfTold s' h kind t) (e : s'.swath = s.swath) :
    HalfTold s h kind t := by
  unfold HalfTold at k ⊢
  rwa [e] at k

/-- A field of a half that neither a fault nor GDRV changes. -/
def Half.quiet (x : Half) : Half := { x with gdrv := false, disarmTick := none }

theorem halfFault_field {β : Type} (k : HalfIx) (kind : Nat) (g : Half → β)
    (seen : ∀ z : Half, g { z with disarmTick := none } = g z := by exact fun _ => rfl) :
    g ((s.halfFault h kind).half k) = g (s.half k) :=
  seen_through (fun z : Half => { z with disarmTick := none }) g (by rw [half_halfFault]) seen

/-- A change of a half, and its fault: what both leave. -/
theorem changed_faulted (cap : Bool) (f : Half → Half) (kind : Nat) :
    (∀ {β : Type} (g : Half → β), (∀ z : Half, g z.quiet = g z) →
      g (((s.fieldChange h cap fun s => s.updHalf h f).halfFault h kind).half h) = g (f (s.half h))) ∧
    OnlyChanges switchFaultParts s ((s.fieldChange h cap fun s => s.updHalf h f).halfFault h kind) ∧
    ((s.fieldChange h cap fun s => s.updHalf h f).swath = s.swath) := by
  refine ⟨fun g seen => ?_, ?_, swath_fieldChange ..⟩
  · refine seen_through Half.quiet g ?_ seen
    rw [half_halfFault, fieldChange_ownHalf, half_updHalf, if_pos rfl]
    rfl
  · exact only_trans (only_fieldChange _ _ _ _ (by decide) (fun u => only_mono (State.updHalf_only ..) (by decide)) (only_refl _ _))
      (only_mono (State.halfFault_only ..) (by decide))

end

/-! ## Gate and GDRV (R122-R126) -/

section
variable (s : State) (h : HalfIx)

/-- A failure of the gate or an overcurrent holds the gate open, opens GDRV, shows the hold and is told (R122-R125). -/
theorem holdGate_spec (kind : Nat) (lo : 0x10 ≤ kind) (hi : kind ≤ 0x19) : OnlyChanges switchFaultParts s (s.holdGate h kind) ∧
    ((s.holdGate h kind).half h).gateHold = true ∧ (s.holdGate h kind).gateWanted h = false ∧
    ((s.holdGate h kind).half h).gdrv = false ∧ (s.holdGate h kind).flag (F.FH_STATUS_GATE_HELD h.val) = true ∧
    HalfTold s h kind (s.holdGate h kind) := by
  let f : Half → Half := fun x => { x with gateHold := true }
  let t := s.fieldChange h false fun s => s.updHalf h f
  obtain ⟨field, only, swath⟩ := changed_faulted s h false f kind
  have held : ((s.holdGate h kind).half h).gateHold = true := field Half.gateHold fun _ => rfl
  have drive : (t.half h).gdrv = false := by
    obtain ⟨u, kept, halves⟩ := fieldChange_half s h false fun s => s.updHalf h f
    have holds : (u.half h).gateHold = true := by
      rw [(half_inputs kept h).2.2.2.2, half_updHalf, if_pos rfl]
    rw [show t.half h = _ from halves h, if_pos rfl]
    exact (gdrv_held u h holds).2
  have shown : t.flag (F.FH_STATUS_GATE_HELD h.val) = true := by
    rw [show t.flag _ = _ from fieldChange_gateHeld s h false fun s => s.updHalf h f, half_updHalf, if_pos rfl]
    rfl
  refine ⟨only, held, (gdrv_held _ h held).1, ?_, ?_, (halfFault_told t h kind lo hi).since swath⟩
  · exact (halfFault_field t h h kind Half.gdrv).trans drive
  · unfold State.flag at shown ⊢
    rw [show (s.holdGate h kind).fld _ = _ from State.fld_raise t _ _ _ (F.FH_STATUS_GATE_HELD h.val) (fhStatus_quiet h).1]
    exact shown

/-- A short of GDRV in COIL mode opens the drive until a field reset (R125). -/
theorem gdrvShort_coil (coil : s.halfFld h (F.FH_CFG_GDRV_MODE h.val) = 1) :
    DoesOnly (.sr :: faultParts) (.gdrvShort h) s fun t =>
      (t.half h).gdrvCut = true ∧ (t.half h).gdrv = false ∧ HalfTold s h kGdrvShort t := by
  let u := s.updHalf h fun x => { x with gdrvCut := true }
  let t := u.syncHalf h
  have cut : (u.half h).gdrvCut = true := by rw [half_updHalf, if_pos rfl]
  have own : t.half h = { u.half h with gdrv := u.gdrvWanted h } :=
    (half_of_halves (syncHalf_halves u h) h).trans ((half_updHalf ..).trans (if_pos rfl))
  have run : exec (.gdrvShort h) s = .next (t.halfFault h kGdrvShort) := by
    refine (run_whenCh rfl (by rw [coil]; rfl)).trans ?_
    rw [State.whenB_true _ _ (by rw [coil]; rfl)]
  refine ⟨_, run, ?_, ?_, ?_, ?_⟩
  · exact only_trans (only_mono (State.updHalf_only s h fun x => { x with gdrvCut := true }) (by decide))
      (only_trans (only_mono (State.syncHalf_only u h) (by decide)) (only_mono (halfFault_held t h kGdrvShort) (by decide)))
  · exact (halfFault_field t h h kGdrvShort Half.gdrvCut).trans (by rw [own]; exact cut)
  · refine (halfFault_field t h h kGdrvShort Half.gdrv).trans ?_
    rw [own]
    simp [State.gdrvWanted, cut]
  · exact (halfFault_told t h kGdrvShort (by decide) (by decide)).since (syncHalf_swath u h)

/-- A fault of GDRV that changes no more than the Fault Collector's registers. -/
theorem gdrvFault_spec {i : Instr} {b : Bool} {f : State → State} (kind : Nat) (lo : 0x10 ≤ kind) (hi : kind ≤ 0x19)
    (e : exec i s = s.whenCh b f) (on : b = true) (fault : f s = s.halfFault h kind) :
    DoesOnly faultParts i s fun t => HalfTold s h kind t ∧ FaultRegsOnly s t :=
  ⟨_, (run_whenCh e on).trans (by rw [fault]), halfFault_held s h kind, halfFault_told s h kind lo hi, halfFault_regs s h kind⟩

theorem mirrorWrong_of (c : ChIx) (fb : s.halfFld h (F.FH_CFG_FB_CH h.val) = c.val) (di : s.func c = fDI)
    (wrong : (s.chan c).state = s.gdrvWanted h) : s.mirrorWrong h = true := by
  have mem : ∀ d : ChIx, d ∈ allCh := by decide
  exact List.any_eq_true.mpr ⟨c, mem c, by simp [fb, di, wrong]⟩

end

/-- Settles O8: the two failures of the gate are one change of the half, the hold, with their fault; the faults of GDRV move nothing but the
drive that a short in COIL mode cuts. -/
theorem gateFaultsHoldTheGateOpen : Obligations.GateFaultsHoldTheGateOpen := by
  refine fun h s => ⟨⟨_, rfl, holdGate_spec s h kGateFail (by decide) (by decide)⟩,
    ⟨_, rfl, holdGate_spec s h kHalfOvercurrent (by decide) (by decide)⟩, fun coil on => ?open_, fun coil => gdrvShort_coil s h coil,
    fun gate => ?gate, fun c fb di wrong => ?mirror⟩
  case open_ => exact gdrvFault_spec s h kGdrvOpen (by decide) (by decide) rfl (by rw [coil, on]; rfl) rfl
  case gate =>
    exact gdrvFault_spec s h kGdrvShort (by decide) (by decide) rfl (by rw [gate]; rfl) (by rw [State.whenB_false _ _ (by rw [gate]; rfl)])
  case mirror => exact gdrvFault_spec s h kGdrvFb (by decide) (by decide) rfl (mirrorWrong_of s h c fb di wrong) rfl

end Sys2Proof.Machine
end

section
/-!
PROOFS. The supply of a half: its comparators, their faults and the SUPPLY_UV latch (R99, R116, R118, R119).
-/
namespace Sys2Proof.Machine

/-! ## A step on every channel of a half -/

/-- What a step on each channel of a half does to its own channel, the loop over the half does to each. -/
theorem fold_channels {R : Chan → Chan → Prop} {f : State → ChIx → State} (own : ∀ u c, R (u.chan c) ((f u c).chan c))
    (other : ∀ u c, OtherChKept c u (f u c)) (s : State) (h : HalfIx) (c : ChIx) (m : c ∈ chOf h) :
    R (s.chan c) (((chOf h).foldl f s).chan c) := by
  obtain ⟨u, -, same, out⟩ := foldl_touches (fun u => u.chan c) (fun _ => True) (f := f) (fun _ _ => id)
    (fun u d n => other u d c (Ne.symm n)) (chOf h) s (chOf_nodup h) m trivial
  rw [out, ← same]
  exact own u c

/-- What one step of a loop brings about in a sound state, and no later step takes back, the loop brings about. -/
theorem foldl_reaches {α : Type} {Q ok : State → Prop} {f : State → α → State} {d : α} (kept : ∀ u x, ok u → ok (f u x))
    (hit : ∀ u, ok u → Q (f u d)) (stay : ∀ u x, Q u → Q (f u x)) (xs : List α) (s : State) (mem : d ∈ xs) (sound : ok s) :
    Q (xs.foldl f s) := by
  have later (ys : List α) (u : State) (q : Q u) : Q (ys.foldl f u) := by
    induction ys generalizing u with
    | nil => exact q
    | cons y ys ih => exact ih _ (stay u y q)
  induction xs generalizing s with
  | nil => cases mem
  | cons x xs ih =>
    rcases List.mem_cons.mp mem with rfl | mem
    · exact later xs _ (hit s sound)
    · exact ih (f s x) mem (kept s x sound)

/-! ## Faults that follow one another -/

theorem func_chFault (s : State) (c d : ChIx) (kind partner : Nat) : (s.chFault c kind partner).func d = s.func d := by
  have apart : faultReg (Reg.CH_CFG d.val) = false ∧ Reg.CH_CFG d.val ≠ Reg.CH_FLAGS c.val ∧
      fieldKeep (Reg.CH_CFG d.val) = BitVec.allOnes 32 := by
    revert c d
    decide
  obtain ⟨faults, flags, keep⟩ := apart
  exact func_congr (by rw [half_chFault]) (reg_chFault s c kind partner _ faults flags keep)

theorem swath_chFault (s : State) (c : ChIx) (kind partner : Nat) : (s.chFault c kind partner).swath = s.swath := by
  have faults : faultReg Reg.TB_SWATH_LO = false ∧ faultReg Reg.TB_SWATH_HI = false := by decide
  have keep : fieldKeep Reg.TB_SWATH_LO = BitVec.allOnes 32 ∧ fieldKeep Reg.TB_SWATH_HI = BitVec.allOnes 32 := by decide
  unfold State.swath State.pairReg
  rw [reg_chFault s c kind partner _ faults.1 (swath_flags c).1 keep.1, reg_chFault s c kind partner _ faults.2 (swath_flags c).2 keep.2]

/-- No fault takes an event back. -/
theorem events_chFault (s : State) (c d : ChIx) (kind partner i : Nat) (low : i < 12)
    (set : (s.fld (F.CH_FLAGS_EVENTS c.val)).testBit i = true) :
    ((s.chFault d kind partner).fld (F.CH_FLAGS_EVENTS c.val)).testBit i = true := by
  obtain ⟨u, e, k⟩ := chFault_cases s d kind partner
  have follow : u.fld (F.CH_FLAGS_EVENTS c.val) = (s.noteEvent d kind).fld (F.CH_FLAGS_EVENTS c.val) := by
    rcases k with k | k
    · rw [k]
    · refine fld_of_reg (F.CH_FLAGS_EVENTS c.val) ?_
      rw [k, show (F.CH_FLAGS_EVENTS c.val).reg = Reg.CH_FLAGS c.val from rfl, reg_syncHalf _ _ _ (fh_ne (halfOf d) c).1, reg_updHalf]
  rw [e, State.fld_raise _ _ _ _ _ (faultReg_flags c), follow]
  by_cases same : c = d
  · subst same
    rw [events_noteEvent, Nat.testBit_mod_two_pow, Nat.testBit_or, set]
    simp [low]
  · have apart : Reg.CH_FLAGS c.val ≠ Reg.CH_FLAGS d.val ∧ Reg.CH_FLAGS c.val < newsBase := by
      clear e k follow set
      revert c d
      decide
    rw [fld_of_reg (F.CH_FLAGS_EVENTS c.val) (reg_noteEvent s d kind _ apart.1 apart.2)]
    exact set

/-- No fault takes back what a channel fault told. -/
theorem ChTold.chFault {s t : State} {c : ChIx} {kind partner : Nat} (h : ChTold s c kind partner t) (d : ChIx) (kind' partner' : Nat) :
    ChTold s c kind partner (t.chFault d kind' partner') := by
  refine ⟨?_, events_chFault t c d kind' partner' _ (eventBit_lt kind) h.event⟩
  obtain ⟨u, e, k⟩ := chFault_cases t d kind' partner'
  have noted : Told s.swath (srcFH (halfOf c).val) kind (faultAddr partner c.val) (t.noteEvent d kind') :=
    told_only (State.noteEvent_only ..) (by decide) (by decide) h.told
  rw [e]
  refine told_keep ?_
  rcases k with rfl | rfl
  · exact noted
  · exact told_only (State.syncHalf_only ..) (by decide) (by decide) (told_only (State.updHalf_only ..) (by decide) (by decide) noted)

/-! ## Field supply (R99, R118, R119) -/

section
variable (s : State) (h : HalfIx)

/-- SUPPLY as a change of the comparators shows it (R118, R209). -/
theorem supplyChange_shows (f : Half → Half) (same : ∀ x, (f x).inReset = x.inReset) : SupplyShown s h (s.supplyChange h f) := by
  unfold SupplyShown State.supplyChange
  rw [fieldChange_supply, half_updHalf, if_pos rfl, same]
  rfl

theorem supplyFault_shows (f : Half → Half) (kind : Nat) (same : ∀ x, (f x).inReset = x.inReset) :
    SupplyShown s h ((s.supplyChange h f).halfFault h kind) := by
  have quiet := State.fld_raise (s.supplyChange h f) (srcFH h.val) kind (faultAddr 63 63) (F.FH_STATUS_SUPPLY h.val) (fhStatus_quiet h).1
  exact quiet.trans (supplyChange_shows s h f same)

/-- A comparator of a half that trips, with its fault. -/
theorem comparator_trips {i : Instr} {b : Bool} {g : State → State} (f : Half → Half) (kind : Nat) (lo : 0x10 ≤ kind) (hi : kind ≤ 0x19)
    (e : exec i s = s.whenCh b g) (on : b = true) (is : g s = (s.supplyChange h f).halfFault h kind) (q : Half → Bool)
    (seen : ∀ z : Half, q z.quiet = q z) (set : ∀ x, q (f x) = true) (same : ∀ x, (f x).inReset = x.inReset) :
    DoesOnly switchFaultParts i s fun t => q (t.half h) = true ∧ HalfTold s h kind t ∧ SupplyShown s h t := by
  obtain ⟨field, only, swath⟩ := changed_faulted s h true f kind
  refine ⟨_, (run_whenCh e on).trans (congrArg Host.Outcome.next is), only, (field q seen).trans (set _), ?_, supplyFault_shows s h f kind same⟩
  exact (halfFault_told (s.supplyChange h f) h kind lo hi).since swath

/-- Every AO-I channel of a half raises CH_HEADROOM (R99). -/
def State.headroomFaults (s : State) (h : HalfIx) : State :=
  (chOf h).foldl (fun (s : State) c => if s.func c == fAOI then s.chFault c kChHeadroom 63 else s) s

theorem headroomFaults_told (c : ChIx) (m : c ∈ chOf h) (aoi : s.func c = fAOI) : ChTold s c kChHeadroom 63 (s.headroomFaults h) := by
  refine foldl_reaches (ok := fun u => u.func c = fAOI ∧ u.swath = s.swath) (d := c) ?kept ?hit ?stay (chOf h) s m ⟨aoi, rfl⟩
  case kept =>
    rintro u d ⟨func, swath⟩
    split
    · exact ⟨(func_chFault ..).trans func, (swath_chFault ..).trans swath⟩
    · exact ⟨func, swath⟩
  case hit =>
    rintro u ⟨func, swath⟩
    rw [if_pos (by rw [func]; rfl)]
    exact (told_chFault u c kChHeadroom 63 (by decide) (by decide)).since swath
  case stay =>
    intro u d told
    split
    · exact told.chFault ..
    · exact told

theorem headroomFaults_keeps {β : Type} (p : State → β) (same : ∀ u c, p (u.chFault c kChHeadroom 63) = p u) : p (s.headroomFaults h) = p s := by
  refine foldl_keeps (fun u c => ?_) ..
  split
  · exact same u c
  · rfl

theorem headroomFaults_only : OnlyChanges switchFaultParts s (s.headroomFaults h) :=
  only_foldl (fun u _ => only_ite (chFault_held ..) (only_refl _ u)) (only_refl _ s)

/-- Every pulse of a half is aborted. -/
def State.abortPulses (s : State) (h : HalfIx) : State := (chOf h).foldl (fun (s : State) c => s.abortPulse c) s

theorem abortPulses_only : OnlyChanges fieldParts s (s.abortPulses h) :=
  only_foldl (fun u c => only_mono (State.abortPulse_only ..) (by decide)) (only_refl _ s)

theorem abortPulses_halves : (s.abortPulses h).halves = s.halves :=
  foldl_keeps (p := State.halves) (fun u c => (State.abortPulse_only u c).same .halves (by decide)) ..

theorem abortPulses_calm : KeepsRegs calmReg s (s.abortPulses h) := kr_foldl (fun u _ => (abortPulse_chan u _).2.2.2) (kr_refl s)

theorem abortPulses_none (c : ChIx) (m : c ∈ chOf h) : ((s.abortPulses h).chan c).pulse = none :=
  fold_channels (R := fun _ y => y.pulse = none) (fun u c => (abortPulse_chan u c).2.1) (fun u c => (abortPulse_chan u c).2.2.1) s h c m

theorem calm_cfg (c : ChIx) : calmReg (Reg.CH_CFG c.val) = true := by
  revert c
  decide

theorem func_supplyChange (f : Half → Half) (c : ChIx) (same : ∀ x, (f x).kept = x.kept) : (s.supplyChange h f).func c = s.func c := by
  refine func_congr ?_ ((fieldChange_regs s h true fun s => s.updHalf h f).same _ (stands_cfg c).1)
  rw [show ((s.supplyChange h f).half (halfOf c)).kept = _ from (half_inputs (fieldChange_spec s h true fun s => s.updHalf h f).1.halves _).1,
    half_updHalf]
  split
  · exact same _
  · rfl

/-- Below 16 V the pulses of a half are aborted and its AO-I channels told (R99, R116, R118). -/
theorem testsSuspended_spec (running : (s.half h).susp = false) : DoesOnly switchFaultParts (.testsSuspended h) s fun t =>
    (t.half h).susp = true ∧ (∀ c ∈ chOf h, (t.chan c).pulse = none) ∧
      ∀ c ∈ chOf h, s.func c = fAOI → ChTold s c kChHeadroom 63 t := by
  let f : Half → Half := fun x => { x with susp := true }
  let u := s.supplyChange h f
  let v := u.abortPulses h
  have run : exec (.testsSuspended h) s = .next (v.headroomFaults h) := 
    run_whenCh (b := !(s.half h).susp) (f := fun s => ((s.supplyChange h f).abortPulses h).headroomFaults h) rfl (by rw [running]; rfl)
  have regs : KeepsRegs calmReg s v :=
    kr_step (abortPulses_calm u h) (calm_of_stands (kr_step (fieldChange_regs s h true fun s => s.updHalf h f) ⟨fun _ _ => rfl⟩))
  have func (c : ChIx) : v.func c = s.func c :=
    (func_congr (by rw [half_of_halves (abortPulses_halves u h)]) ((abortPulses_calm u h).same _ (calm_cfg c))).trans
      (func_supplyChange s h f c fun _ => rfl)
  refine ⟨_, run, ?_, ?_, fun c m => ?_, fun c m aoi => ?_⟩
  · exact only_trans (only_mono (State.supplyChange_only ..) (by decide))
      (only_trans (only_mono (abortPulses_only u h) (by decide)) (headroomFaults_only v h))
  · rw [headroomFaults_keeps v h (fun t => (t.half h).susp) fun w c => by rw [half_chFault], half_of_halves (abortPulses_halves u h) h,
      show u.half h = _ from fieldChange_ownHalf .., half_updHalf, if_pos rfl]
  · rw [headroomFaults_keeps v h (fun t => (t.chan c).pulse) fun w d => chFault_field w d c kChHeadroom 63 Chan.pulse]
    exact abortPulses_none u h c m
  · exact (headroomFaults_told v h c m ((func c).trans aoi)).since (regs.swath (by decide) (by decide))

/-- A change of one half: what GDRV and the disarming do not hide of it is as the change left it, and the other half stands. -/
theorem halfChange_half (cap : Bool) (f : Half → Half) :
    (∀ {β : Type} (g : Half → β), (∀ z : Half, g z.quiet = g z) → g ((s.fieldChange h cap fun s => s.updHalf h f).half h) = g (f (s.half h))) ∧
      OtherDieKept h s (s.fieldChange h cap fun s => s.updHalf h f) := by
  refine ⟨fun g seen => seen_through Half.quiet g ?_ seen, fun k n => ?_⟩
  · rw [fieldChange_ownHalf, half_updHalf, if_pos rfl]
    rfl
  · rw [fieldChange_otherHalf s h cap _ k n, half_updHalf, if_neg n]

theorem halfChange_only (cap : Bool) (f : Half → Half) : OnlyChanges fieldParts s (s.fieldChange h cap fun s => s.updHalf h f) :=
  only_fieldChange _ _ _ _ (by decide) (fun _ => only_mono (State.updHalf_only ..) (by decide)) (only_refl _ _)

theorem supplyChange_half (f : Half → Half) :
    (∀ {β : Type} (g : Half → β), (∀ z : Half, g z.quiet = g z) → g ((s.supplyChange h f).half h) = g (f (s.half h))) ∧
      OtherDieKept h s (s.supplyChange h f) := halfChange_half s h true f

/-- An undervoltage takes every channel of its half to its safe state: the latch of the logic side, with the pulses aborted (R116, R118). -/
def State.safeAll (s : State) (h : HalfIx) : State :=
  (chOf h).foldl (fun (s : State) c => (s.updChan c fun x => { x with safeL := true }).abortPulse c) s

theorem safeAll_only : OnlyChanges fieldParts s (s.safeAll h) :=
  only_foldl (fun u c => only_trans (only_mono (State.updChan_only ..) (by decide)) (only_mono (State.abortPulse_only ..) (by decide)))
    (only_refl _ s)

theorem safeAll_halves : (s.safeAll h).halves = s.halves :=
  foldl_keeps (p := State.halves) (fun u c => (State.abortPulse_only (u.updChan c _) c).same .halves (by decide)) ..

theorem safeAll_calm : KeepsRegs calmReg s (s.safeAll h) :=
  kr_foldl (fun u c => kr_step (abortPulse_chan (u.updChan c _) c).2.2.2 ⟨fun _ _ => rfl⟩) (kr_refl s)

theorem safeAll_chan (c : ChIx) (m : c ∈ chOf h) :
    ((s.safeAll h).chan c).unpulsed = ({ s.chan c with safeL := true } : Chan).unpulsed ∧ ((s.safeAll h).chan c).pulse = none := by
  refine fold_channels (R := fun x y => y.unpulsed = ({ x with safeL := true } : Chan).unpulsed ∧ y.pulse = none) (fun u c => ?_)
    (fun u c => ?_) s h c m
  · obtain ⟨same, none, -⟩ := abortPulse_chan (u.updChan c fun x => { x with safeL := true }) c
    rw [chan_updChan_same] at same
    exact ⟨same, none⟩
  · exact (abortPulse_chan (u.updChan c fun x => { x with safeL := true }) c).2.2.1.step (otherCh_updChan u c _)

theorem fhCounts_calm : calmReg (Reg.FH_COUNTS h.val) = true := by
  revert h
  decide

theorem swath_fhCount (f : Fld) (e : f.reg = Reg.FH_COUNTS h.val) : (s.addF f 1).swath = s.swath := by
  have apart : (Reg.TB_SWATH_LO ≠ Reg.FH_COUNTS h.val ∧ Reg.TB_SWATH_LO < newsBase) ∧
      (Reg.TB_SWATH_HI ≠ Reg.FH_COUNTS h.val ∧ Reg.TB_SWATH_HI < newsBase) := by
    clear e
    revert h
    decide
  have kept : KeepsRegs (fun a => decide (a ≠ Reg.FH_COUNTS h.val ∧ a < newsBase)) s (s.addF f 1) :=
    kr_addF (by simp [e]) (by simp [Fld.news]) (kr_refl s)
  exact kept.swath (decide_eq_true apart.1) (decide_eq_true apart.2)

/-- An undervoltage: the latch, counted and told, and every channel of the half in its safe state (R118). -/
theorem supplyUv_spec (powered : (s.half h).inReset = false) (fresh : (s.half h).uv = true → (s.half h).uvReady = true) :
    DoesOnly switchFaultParts (.supplyUv h) s fun t => (t.half h).uv = true ∧ (t.half h).uvReady = false ∧ HalfTold s h kSupplyUv t ∧
      Counted s (F.FH_COUNTS_UV_CNT h.val) t ∧ ∀ c ∈ chOf h, (t.chan c).safeL = true ∧ (t.chan c).pulse = none ∧
        ((s.chan c).action.isSome = true → t.inSafe c = true) := by
  let f : Half → Half := fun x => { x with uv := true, uvReady := false, uvKey := false }
  let u := s.supplyChange h f
  let v := u.safeAll h
  let w := v.addF (F.FH_COUNTS_UV_CNT h.val) 1
  have now : (!((s.half h).uv && !(s.half h).uvReady) && !(s.half h).inReset) = true := by
    rw [powered]
    cases uv : (s.half h).uv
    · rfl
    · rw [fresh uv]; rfl
  have run : exec (.supplyUv h) s = .next (w.halfFault h kSupplyUv) := 
    run_whenCh (b := !((s.half h).uv && !(s.half h).uvReady) && !(s.half h).inReset)
      (f := fun s => (((s.supplyChange h f).safeAll h).addF (F.FH_COUNTS_UV_CNT h.val) 1).halfFault h kSupplyUv) rfl now
  have regs : KeepsRegs calmReg s v :=
    kr_step (safeAll_calm u h) (calm_of_stands (kr_step (fieldChange_regs s h true fun s => s.updHalf h f) ⟨fun _ _ => rfl⟩))
  have half {β : Type} (g : Half → β) (seen : ∀ z : Half, g z.quiet = g z) : g ((w.halfFault h kSupplyUv).half h) = g (f (s.half h)) := by
    rw [← seen ((w.halfFault h kSupplyUv).half h), halfFault_field w h h kSupplyUv (fun z => g z.quiet) fun _ => rfl, seen, half_addF,
      half_of_halves (safeAll_halves u h)]
    exact (supplyChange_half s h f).1 g seen
  have latched : ((w.halfFault h kSupplyUv).half h).uv = true := half Half.uv fun _ => rfl
  have count : Counted v (F.FH_COUNTS_UV_CNT h.val) w := counted_addF v _ (by decide : (24 : Nat) ≤ 31) (by decide : (31 : Nat) < 32)
  refine ⟨_, run, ?_, latched, half Half.uvReady fun _ => rfl, ?_, ?_, fun c m => ?_⟩
  · exact only_trans (only_mono (State.supplyChange_only ..) (by decide)) (only_trans (only_mono (safeAll_only u h) (by decide))
      (only_trans (only_mono (State.addF_only ..) (by decide)) (only_mono (State.halfFault_only ..) (by decide))))
  · refine (halfFault_told w h kSupplyUv (by decide) (by decide)).since ?_
    exact (swath_fhCount v h _ rfl).trans (regs.swath (by decide) (by decide))
  · unfold Counted at count ⊢
    rw [← regs.fld (F.FH_COUNTS_UV_CNT h.val) (fhCounts_calm h), ← count]
    exact State.fld_raise w _ _ _ (F.FH_COUNTS_UV_CNT h.val) (fhStatus_quiet h).2.1
  · obtain ⟨same, none⟩ := safeAll_chan u h c m
    have chan : (w.halfFault h kSupplyUv).chan c = v.chan c := (chan_halfFault ..).trans (chan_addF ..)
    have action : (v.chan c).action = (s.chan c).action := by
      have under : (u.chan c).action = (s.chan c).action :=
        seen_through (fun z : Chan => z.core.unheld) Chan.action ((fieldChange_spec s h true fun s => s.updHalf h f).1.chans c)
      exact (seen_through Chan.unpulsed Chan.action same).trans under
    refine ⟨?_, ?_, fun acts => ?_⟩
    · rw [chan]
      exact seen_through Chan.unpulsed Chan.safeL same
    · rw [chan]
      exact none
    · unfold State.inSafe
      dsimp only
      rw [chan, action, acts, halfOf_of_mem c h m, latched]
      simp

/-- The end of a comparator's condition (R118). -/
theorem supplyEnd_spec (which : Fin 3) : DoesOnly fieldParts (.supplyConditionEnd h which) s fun t =>
    (which = 0 → (t.half h).high = false) ∧ (which = 1 → (t.half h).low = false) ∧ (which = 2 → (t.half h).susp = false) ∧
      OtherDieKept h s t ∧ SupplyShown s h t := by
  have change (f : Half → Half) (g : Half → Bool) (seen : ∀ z : Half, g z.quiet = g z) (off : ∀ x, g (f x) = false)
      (same : ∀ x, (f x).inReset = x.inReset) : OnlyChanges fieldParts s (s.supplyChange h f) ∧
        g ((s.supplyChange h f).half h) = false ∧ OtherDieKept h s (s.supplyChange h f) ∧ SupplyShown s h (s.supplyChange h f) :=
    ⟨State.supplyChange_only .., ((supplyChange_half s h f).1 g seen).trans (off _), (supplyChange_half s h f).2, supplyChange_shows s h f same⟩
  match which with
  | 0 =>
    obtain ⟨only, off, other, shown⟩ := change (fun x => { x with high := false }) Half.high (fun _ => rfl) (fun _ => rfl) fun _ => rfl
    exact ⟨_, rfl, only, fun _ => off, nofun, nofun, other, shown⟩
  | 1 =>
    obtain ⟨only, off, other, shown⟩ := change (fun x => { x with low := false }) Half.low (fun _ => rfl) (fun _ => rfl) fun _ => rfl
    exact ⟨_, rfl, only, nofun, fun _ => off, nofun, other, shown⟩
  | 2 =>
    obtain ⟨only, off, other, shown⟩ := change (fun x => { x with susp := false }) Half.susp (fun _ => rfl) (fun _ => rfl) fun _ => rfl
    exact ⟨_, rfl, only, nofun, nofun, fun _ => off, other, shown⟩

end

/-- Settles O6: a comparator is a change of its half, after which SUPPLY shows it or waits for a frame; the undervoltage and the suspension of the
tests end the pulses of the half, channel by channel. -/
theorem fieldSupplyConditionsLatchAndEnd : Obligations.FieldSupplyConditionsLatchAndEnd := by
  refine fun h s => ⟨fun off => ?high, fun off => ?low, testsSuspended_spec s h, fun which => ?ends, supplyUv_spec s h, fun latched powered => ?recovers,
    fun on latched ready => ?rearms, fun early => ?noRearm⟩
  case high =>
    exact comparator_trips s h (fun x => { x with high := true }) kSupplyHigh (by decide) (by decide) rfl (by rw [off]; rfl) rfl Half.high
      (fun _ => rfl) (fun _ => rfl) fun _ => rfl
  case low =>
    exact comparator_trips s h (fun x => { x with low := true }) kSupplyLow (by decide) (by decide) rfl (by rw [off]; rfl) rfl Half.low
      (fun _ => rfl) (fun _ => rfl) fun _ => rfl
  case ends => exact supplyEnd_spec s h which
  case recovers =>
    obtain ⟨half, other⟩ := supplyChange_half s h fun x => { x with uvReady := true }
    exact doesOnly_whenCh rfl (by rw [latched, powered]; rfl) (only_mono (State.supplyChange_only ..) (by decide))
      ⟨(half Half.uv fun _ => rfl).trans latched, half Half.uvReady fun _ => rfl, other⟩
  case rearms =>
    have is : s.uvRearm h = s.updHalf h fun x => { x with uvKey := true } := if_pos (by rw [latched, ready]; rfl)
    refine ⟨_, s.hostKey_on _ on, State.uvRearm_only .., ?_, fun k n => ?_⟩
    · rw [is, half_updHalf, if_pos rfl]
    · rw [is, half_updHalf, if_neg n]
  case noRearm =>
    have is : s.uvRearm h = s := if_neg (by rcases early with e | e <;> simp [e])
    exact ⟨s, s.hostKey_same _ is, rfl⟩

end Sys2Proof.Machine
end

section
/-!
PROOFS. Dark pulses (R111-R117): when one is issued, how it is judged, and its abort.
-/
namespace Sys2Proof.Machine

/-! ## Time inside a swath (R54, R539) -/

/-- The registers that time passing does not write. -/
def idleReg (a : Nat) : Bool := !(List.contains [Reg.TB_TICK_LO, Reg.TB_TICK_HI, Reg.PC_TICKS 0, Reg.PC_TICKS 0 + 4] a)

theorem advance_idle (s : State) (t : Nat) : KeepsRegs idleReg s (s.advance t) := by
  have set : KeepsRegs idleReg s (s.setTick t) := kr_setPairReg (by decide) (by decide) (kr_refl s)
  unfold State.advance
  exact kr_ite (kr_refl s) (kr_ite set (kr_pcAdd (by decide) (by decide) set))

theorem elapse_idle (s : State) (t : Nat) : KeepsRegs idleReg s (s.elapse t) := advance_idle s _

theorem low_counts (c : ChIx) : Reg.CH_COUNTS c.val < newsBase := lt_of_faultReg (counts_apart c c).1

theorem idle_channel (c : ChIx) : idleReg (Reg.CH_COUNTS c.val) = true ∧ idleReg (Reg.CH_CFG c.val) = true ∧
    idleReg (Reg.CH_FLAGS c.val) = true := by
  revert c
  decide

theorem elapse_chan (s : State) (t : Nat) (c : ChIx) : (s.elapse t).chan c = s.chan c := chan_only (State.elapse_only s t) (by decide) c

theorem elapse_halves (s : State) (t : Nat) : (s.elapse t).halves = s.halves := (State.elapse_only s t).same .halves (by decide)

/-! ## A pulse is due (R111, R116) -/

section
variable (s : State) (c : ChIx)

/-- The tick of a due pulse has come. -/
def State.pulseDue : State :=
  let u := s.elapse ((s.half (halfOf c)).dieAt + 2496)
  u.updChan c fun x => { x with dark := false, dpSwath := some u.swath }

/-- The switch of a channel opens for its pulse. -/
def State.pulseOpens : State :=
  let k := s.holdKept c
  let watch := (allCh.filter fun d => d != c && s.isSwitch d && !(s.chan d).closed && (s.chan d).comp).map (·.val)
  let mean (l : List Int) : Int := if l.isEmpty then 0 else roundDiv (l.foldl (· + ·) 0) l.length
  let before := (allCh.filter fun d => d != c && s.isSwitch d).map fun d => (d.val, mean (s.chan d).last3)
  let t := s.tick
  let stop := t + s.chFld c (F.CH_DIAG_DP_WIDTH c.val) * 480 + 4800
  let u := s.updChan c fun x => { x with
    pulse := some { start := t, held := x.smp, watch := watch, before := before }
    heldTill := some (x.smp, stop), closed := false, holdFrom := k }
  (u.partOperation c.val).syncChan c

theorem exec_darkPulse : exec (.darkPulse c) s = s.whenCh ((s.chan c).dark && (s.chan c).pulse.isNone) fun s =>
    if (s.pulseDue c).dpSkip c then (s.pulseDue c).addF (F.CH_COUNTS_DP_SKIP c.val) 1 else (s.pulseDue c).pulseOpens c := rfl

theorem pulseDue_chan : ((s.pulseDue c).chan c) =
    { s.chan c with dark := false, dpSwath := some (s.elapse ((s.half (halfOf c)).dieAt + 2496)).swath } :=
  (chan_updChan_same ..).trans (by rw [elapse_chan])

theorem pulseDue_otherCh : OtherChKept c s (s.pulseDue c) :=
  (otherCh_updChan _ c _).step (otherCh_chans fun d => elapse_chan s _ d)

theorem pulseDue_only : OnlyChanges [.regs, .chans] s (s.pulseDue c) :=
  only_step (State.updChan_only ..) (by decide) (only_mono (State.elapse_only ..) (by decide))

theorem pulseDue_idle : KeepsRegs idleReg s (s.pulseDue c) := (elapse_idle s _).kept rfl

/-- The reasons to skip a pulse stand while its tick comes. -/
theorem dpSkip_pulseDue : (s.pulseDue c).dpSkip c = s.dpSkip c := by
  have half : (s.pulseDue c).half (halfOf c) = s.half (halfOf c) := half_of_halves (elapse_halves s _) _
  unfold State.dpSkip State.inNight State.inSafe
  simp only [pulseDue_chan, half]

/-- A due pulse that is skipped (R116). -/
theorem pulse_skipped (dark : (s.chan c).dark = true) (free : (s.chan c).pulse = none) (skip : s.dpSkip c = true) :
    DoesOnly [.regs, .chans] (.darkPulse c) s fun t => Counted s (F.CH_COUNTS_DP_SKIP c.val) t ∧ (t.chan c).pulse = none ∧
      (t.chan c).closed = (s.chan c).closed ∧ OtherChKept c s t := by
  let u := s.pulseDue c
  have counted : Counted u (F.CH_COUNTS_DP_SKIP c.val) (u.addF (F.CH_COUNTS_DP_SKIP c.val) 1) :=
    counted_addF u _ (by decide : (0 : Nat) ≤ 7) (by decide : (7 : Nat) < 32)
  have chan : (u.addF (F.CH_COUNTS_DP_SKIP c.val) 1).chan c = u.chan c := chan_addF ..
  refine doesOnly_whenCh (exec_darkPulse s c) (by rw [dark, free]; rfl) ?_ ?_ <;>
    rw [if_pos ((dpSkip_pulseDue s c).trans skip)]
  · exact only_trans (pulseDue_only s c) (only_mono (State.addF_only ..) (by decide))
  · refine ⟨?_, ?_, ?_, (otherCh_addF u c _ 1).step (pulseDue_otherCh s c)⟩
    · unfold Counted at counted ⊢
      rw [← (pulseDue_idle s c).fld (F.CH_COUNTS_DP_SKIP c.val) (idle_channel c).1]
      exact counted
    · rw [chan, pulseDue_chan]
      exact free
    · rw [chan, pulseDue_chan]

theorem pulseOpens_chan : ∃ p : Pulse, p.start = s.tick ∧ p.held = (s.chan c).smp ∧ p.passed = false ∧
    ((s.pulseOpens c).chan c).pulse = some p ∧ ((s.pulseOpens c).chan c).closed = false ∧
      ((s.pulseOpens c).chan c).dark = (s.chan c).dark := by
  have chan (u : State) : ((u.partOperation c.val).syncChan c).chan c = u.chan c :=
    (chan_only (State.syncChan_only ..) (by decide) c).trans (chan_partOperation ..)
  unfold State.pulseOpens
  dsimp only
  rw [chan, chan_updChan_same]
  exact ⟨_, rfl, rfl, rfl, rfl, rfl, rfl⟩

theorem pulseOpens_otherCh : OtherChKept c s (s.pulseOpens c) :=
  OtherChKept.step (t := s.updChan c _)
    (otherCh_chans fun d => (chan_only (State.syncChan_only ..) (by decide) d).trans (chan_partOperation ..)) (otherCh_updChan s c _)

theorem pulseOpens_stands : KeepsRegs standsReg s (s.pulseOpens c) :=
  kr_step (stands_of_keep (fo_syncChan _ c).regs) (kr_only (State.partOperation_only ..) (by decide) ⟨fun _ _ => rfl⟩)

theorem pulseOpens_only : OnlyChanges [.regs, .chans, .sr] s (s.pulseOpens c) :=
  only_trans (only_mono (State.updChan_only ..) (by decide)) (only_trans (only_mono (State.partOperation_only ..) (by decide))
    (only_mono (State.syncChan_only ..) (by decide)))

/-- A due pulse that opens its switch (R111, R115). -/
theorem pulse_opened (dark : (s.chan c).dark = true) (free : (s.chan c).pulse = none) (runs : s.dpSkip c = false) :
    DoesOnly [.regs, .chans, .sr] (.darkPulse c) s fun t => (t.chan c).closed = false ∧ (t.chan c).dark = false ∧ OtherChKept c s t ∧
      t.fld (F.CH_COUNTS_DP_SKIP c.val) = s.fld (F.CH_COUNTS_DP_SKIP c.val) ∧
        ∃ p, (t.chan c).pulse = some p ∧ p.start = t.tick ∧ p.held = (s.chan c).smp ∧ p.passed = false := by
  let u := s.pulseDue c
  obtain ⟨p, start, held, passed, pulse, closed, lit⟩ := pulseOpens_chan u c
  have tick : (u.pulseOpens c).tick = u.tick := (pulseOpens_stands u c).pairReg (by decide) (by decide)
  refine doesOnly_whenCh (exec_darkPulse s c) (by rw [dark, free]; rfl) ?_ ?_ <;>
    rw [if_neg (by rw [dpSkip_pulseDue, runs]; exact Bool.false_ne_true)]
  · exact only_trans (only_mono (pulseDue_only s c) (by decide)) (pulseOpens_only u c)
  · refine ⟨closed, lit.trans ?_, (pulseOpens_otherCh u c).step (pulseDue_otherCh s c), ?_, p, pulse, start.trans tick.symm,
      held.trans ?_, passed⟩
    · rw [pulseDue_chan]
    · exact ((pulseOpens_stands u c).fld (F.CH_COUNTS_DP_SKIP c.val) (stands_counts c)).trans
        ((pulseDue_idle s c).fld (F.CH_COUNTS_DP_SKIP c.val) (idle_channel c).1)
    · rw [pulseDue_chan]

/-! ## A pulse is aborted (R116) -/

theorem pulse_aborted (p : Pulse) (running : (s.chan c).pulse = some p) (open_ : (s.chan c).closed = false) :
    DoesOnly fieldParts (.darkPulseAbort c) s fun t => (t.chan c).pulse = none ∧ (t.chan c).closed = t.mayClose c ∧
      Counted s (F.CH_COUNTS_DP_SKIP c.val) t ∧ t.fld (F.CH_COUNTS_DP_FAIL c.val) = s.fld (F.CH_COUNTS_DP_FAIL c.val) ∧
        OtherChKept c s t := by
  let t := s.addF (F.CH_COUNTS_DP_SKIP c.val) 1
  obtain ⟨-, none, other, -⟩ := abortPulse_chan s c
  have ended : ((t.endPulse c).chan c).closed = (t.endPulse c).mayClose c := by
    rw [(endPulse_chan t c).2.2, show t.chan c = s.chan c from chan_addF .., open_, mayClose_follows (endPulse_follows t c) c]
    rfl
  have counted : Counted s (F.CH_COUNTS_DP_SKIP c.val) t := counted_addF s _ (by decide : (0 : Nat) ≤ 7) (by decide : (7 : Nat) < 32)
  have fails : t.fld (F.CH_COUNTS_DP_FAIL c.val) = s.fld (F.CH_COUNTS_DP_FAIL c.val) :=
    fld_addF_ne s (F.CH_COUNTS_DP_SKIP c.val) (F.CH_COUNTS_DP_FAIL c.val) 1 (by decide : (0 : Nat) ≤ 7) (by decide : (7 : Nat) < 32)
      (by decide : (8 : Nat) ≤ 15) (low_counts c) (.inr (.inr (by decide : (7 : Nat) < 8)))
  have follows : Follows (t.endPulse c) (s.abortPulse c) ∧ ((s.abortPulse c).chan c).closed = ((t.endPulse c).chan c).closed := by
    rcases abortPulse_cases s c with ⟨off, -⟩ | e | e
    · rw [running] at off
      cases off
    · rw [e]
      exact ⟨fo_refl _, rfl⟩
    · rw [e]
      exact ⟨fo_captureStart .., seen_through Chan.uncaptured Chan.closed (captureStart_captures (t.endPulse c) c false c)⟩
  have regs : KeepsRegs standsReg t (s.abortPulse c) := kr_step (stands_of_keep follows.1.regs) (endPulse_stands t c)
  refine ⟨_, rfl, only_mono (State.abortPulse_only ..) (by decide), none, ?_, ?_, ?_, other⟩
  · rw [follows.2, ended, mayClose_follows follows.1 c]
  · exact (regs.fld (F.CH_COUNTS_DP_SKIP c.val) (stands_counts c)).trans counted
  · exact (regs.fld (F.CH_COUNTS_DP_FAIL c.val) (stands_counts c)).trans fails

end

end Sys2Proof.Machine
end

section
/-!
PROOFS. The verdict of a dark pulse (R113, R114).
-/
namespace Sys2Proof.Machine

/-! ## Steps that tell -/

/-- Steps that tell channel faults and mark their conditions: no pulse begins or ends, no failed pulse is counted, and nothing told is
taken back. -/
structure Tells (s t : State) : Prop where
  /-- the parts -/
  only : OnlyChanges switchFaultParts s t
  /-- the pulses -/
  pulse : ∀ c, (t.chan c).pulse = (s.chan c).pulse
  /-- the failed pulses counted -/
  fails : ∀ c : ChIx, t.fld (F.CH_COUNTS_DP_FAIL c.val) = s.fld (F.CH_COUNTS_DP_FAIL c.val)
  /-- the swath -/
  swath : t.swath = s.swath
  /-- what has been told -/
  told : ∀ u c kind partner, ChTold u c kind partner s → ChTold u c kind partner t

theorem tells_refl (s : State) : Tells s s := ⟨only_refl _ s, fun _ => rfl, fun _ => rfl, rfl, fun _ _ _ _ h => h⟩

theorem Tells.step {s t u : State} (k : Tells t u) (h : Tells s t) : Tells s u where
  only := only_trans h.only k.only
  pulse c := (k.pulse c).trans (h.pulse c)
  fails c := (k.fails c).trans (h.fails c)
  swath := k.swath.trans h.swath
  told u c kind partner e := k.told u c kind partner (h.told u c kind partner e)

theorem tells_chFault (s : State) (c : ChIx) (kind partner : Nat) : Tells s (s.chFault c kind partner) where
  only := chFault_held ..
  pulse d := chFault_field s c d kind partner Chan.pulse
  fails d := chFault_counts s c d kind partner _ rfl
  swath := swath_chFault ..
  told _ _ _ _ h := h.chFault ..

theorem tells_updChan (s : State) (c : ChIx) (f : Chan → Chan) (same : ∀ x, (f x).pulse = x.pulse) : Tells s (s.updChan c f) where
  only := only_mono (State.updChan_only ..) (by decide)
  pulse d := by
    rw [chan_updChan]
    split
    · subst_vars
      exact same _
    · rfl
  fails _ := rfl
  swath := rfl
  told _ _ _ _ h := h.updChan f

theorem pulse_begin (kind : Nat) (x : Chan) : (x.begin kind).pulse = x.pulse := by
  unfold Chan.begin
  split <;> rfl

/-- The partner of a cross stands beside the events of its channel. -/
theorem named_events (s : State) (c d : ChIx) (n : Nat) :
    (s.setF (F.CH_FLAGS_PARTNER c.val) n).fld (F.CH_FLAGS_EVENTS d.val) = s.fld (F.CH_FLAGS_EVENTS d.val) :=
  State.fld_setF_ne s (F.CH_FLAGS_PARTNER c.val) (F.CH_FLAGS_EVENTS d.val) n (by decide : (16 : Nat) ≤ 20) (by decide : (20 : Nat) < 32)
    (by decide : (0 : Nat) ≤ 11) (.inr (.inl (by decide : (11 : Nat) < 16)))

theorem tells_named (s : State) (c : ChIx) (n : Nat) : Tells s (s.setF (F.CH_FLAGS_PARTNER c.val) n) where
  only := only_mono (State.setF_only ..) (by decide)
  pulse _ := rfl
  fails d := fld_of_reg (F.CH_COUNTS_DP_FAIL d.val) (State.reg_setF_ne _ _ _ _ (counts_apart d c).2.1)
  swath := by
    unfold State.swath State.pairReg
    rw [State.reg_setF_ne _ (F.CH_FLAGS_PARTNER c.val) _ _ (swath_flags c).1, State.reg_setF_ne _ (F.CH_FLAGS_PARTNER c.val) _ _ (swath_flags c).2]
  told _ d _ _ h := h.kept (State.setF_only ..) (by decide) (by decide) (named_events s c d n)

/-- A cross is told with its partner, which the channel shows (R113). -/
def State.crossFault (s : State) (c : ChIx) (partner : Nat) : State :=
  (s.setF (F.CH_FLAGS_PARTNER c.val) partner).chFault c kChCross partner

theorem tells_cross (s : State) (c : ChIx) (partner : Nat) : Tells s (s.crossFault c partner) :=
  (tells_chFault ..).step (tells_named ..)

theorem crossFault_told (s : State) (c : ChIx) (partner : Nat) : ChTold s c kChCross partner (s.crossFault c partner) :=
  (told_chFault (s.setF (F.CH_FLAGS_PARTNER c.val) partner) c kChCross partner (by decide) (by decide)).since (tells_named ..).swath

/-- The condition of a fault begins. -/
def State.marks (s : State) (c : ChIx) (kind : Nat) : State := s.updChan c fun x => x.begin kind

theorem tells_marks (s : State) (c : ChIx) (kind : Nat) : Tells s (s.marks c kind) := tells_updChan s c _ (pulse_begin kind)

/-! ## Crossed channels (R114) -/

/-- Two crossed channels are told of each other. -/
def State.crossed (s : State) (c d : ChIx) : State := (((s.crossFault c d.val).crossFault d c.val).marks c kChCross).marks d kChCross

/-- The channels whose readback fell with a pulse are crossed with its own. -/
def State.crossedWith (s : State) (c : ChIx) (fell : List Nat) : State :=
  fell.foldl (fun s d => if h : d < 16 then s.crossed c ⟨d, h⟩ else s) s

theorem tells_crossed (s : State) (c d : ChIx) : Tells s (s.crossed c d) :=
  (tells_marks ..).step ((tells_marks ..).step ((tells_cross ..).step (tells_cross ..)))

theorem crossed_told (s : State) (c d : ChIx) : ChTold s c kChCross d.val (s.crossed c d) ∧ ChTold s d kChCross c.val (s.crossed c d) := by
  have first : Tells (s.crossFault c d.val) (s.crossed c d) := (tells_marks ..).step ((tells_marks ..).step (tells_cross ..))
  have second : Tells ((s.crossFault c d.val).crossFault d c.val) (s.crossed c d) := (tells_marks ..).step (tells_marks ..)
  exact ⟨first.told _ _ _ _ (crossFault_told s c d.val),
    second.told _ _ _ _ ((crossFault_told (s.crossFault c d.val) d c.val).since (tells_cross ..).swath)⟩

theorem tells_crossedStep (s : State) (c : ChIx) (n : Nat) : Tells s (if h : n < 16 then s.crossed c ⟨n, h⟩ else s) := by
  split
  · exact tells_crossed ..
  · exact tells_refl s

theorem tells_crossedWith (s : State) (c : ChIx) (fell : List Nat) : Tells s (s.crossedWith c fell) := by
  unfold State.crossedWith
  induction fell generalizing s with
  | nil => exact tells_refl s
  | cons n fell ih => exact (ih _).step (tells_crossedStep s c n)

theorem crossedWith_told (s : State) (c d : ChIx) (fell : List Nat) (mem : d.val ∈ fell) :
    ChTold s c kChCross d.val (s.crossedWith c fell) ∧ ChTold s d kChCross c.val (s.crossedWith c fell) := by
  refine foldl_reaches (Q := fun u => ChTold s c kChCross d.val u ∧ ChTold s d kChCross c.val u) (ok := fun u => u.swath = s.swath)
    (f := fun (u : State) n => if h : n < 16 then u.crossed c ⟨n, h⟩ else u) (d := d.val) ?kept ?hit ?stay fell s mem rfl
  case kept => exact fun u n e => (tells_crossedStep u c n).swath.trans e
  case hit =>
    intro u e
    rw [dif_pos d.isLt]
    obtain ⟨own, other⟩ := crossed_told u c d
    exact ⟨own.since e, other.since e⟩
  case stay => exact fun u n told => ⟨(tells_crossedStep u c n).told _ _ _ _ told.1, (tells_crossedStep u c n).told _ _ _ _ told.2⟩

/-! ## The channel whose current rose most (R113) -/

/-- The higher of the highest excess so far and one more, if above 20 mA. -/
def higher (b : Option (Nat × Int)) (e : Nat × Int) : Option (Nat × Int) :=
  if e.2 > 20 then (match b with | some y => if e.2 > y.2 then some e else b | none => some e) else b

/-- The channel of a pulse with the highest excess above 20 mA. -/
def Pulse.peak (p : Pulse) : Option (Nat × Int) := p.excess.foldl higher none

theorem higher_low (b : Option (Nat × Int)) (e : Nat × Int) (low : e.2 ≤ 20) : higher b e = b := if_neg (by omega)

theorem foldl_higher_low (xs : List (Nat × Int)) (b : Option (Nat × Int)) (low : ∀ x ∈ xs, x.2 ≤ 20) : xs.foldl higher b = b := by
  induction xs with
  | nil => rfl
  | cons x xs ih =>
    rw [List.foldl_cons, higher_low b x (low x List.mem_cons_self)]
    exact ih fun y m => low y (List.mem_cons_of_mem _ m)

/-- The highest so far stands against what is not above it. -/
theorem higher_stands (e x : Nat × Int) (below : x ≠ e → x.2 < e.2) : higher (some e) x = some e := by
  have le : ¬ x.2 > e.2 := by
    by_cases same : x = e
    · subst same
      exact Int.lt_irrefl _
    · exact Int.lt_asymm (below same)
  unfold higher
  simp [le]

/-- What lies below an excess above 20 mA gives way to it. -/
theorem higher_takes (b : Option (Nat × Int)) (e : Nat × Int) (above : 20 < e.2) (below : ∀ y, b = some y → y.2 < e.2) :
    higher b e = some e := by
  unfold higher
  rw [if_pos above]
  cases b with
  | none => rfl
  | some y => exact if_pos (below y rfl)

theorem higher_below (b : Option (Nat × Int)) (e x : Nat × Int) (below : ∀ y, b = some y → y.2 < e.2) (lower : x.2 < e.2) :
    ∀ y, higher b x = some y → y.2 < e.2 := by
  intro y is
  unfold higher at is
  split at is
  · cases b with
    | none =>
      cases is
      exact lower
    | some z =>
      dsimp only at is
      split at is
      · cases is
        exact lower
      · exact below y is
  · exact below y is

theorem foldl_higher_stands (xs : List (Nat × Int)) (e : Nat × Int) (below : ∀ x ∈ xs, x ≠ e → x.2 < e.2) :
    xs.foldl higher (some e) = some e := by
  induction xs with
  | nil => rfl
  | cons x xs ih =>
    rw [List.foldl_cons, higher_stands e x (below x List.mem_cons_self)]
    exact ih fun y m => below y (List.mem_cons_of_mem _ m)

theorem foldl_higher_takes (xs : List (Nat × Int)) (b : Option (Nat × Int)) (e : Nat × Int) (mem : e ∈ xs) (above : 20 < e.2)
    (below : ∀ x ∈ xs, x ≠ e → x.2 < e.2) (first : ∀ y, b = some y → y.2 < e.2) : xs.foldl higher b = some e := by
  induction xs generalizing b with
  | nil => cases mem
  | cons x xs ih =>
    have rest : ∀ y ∈ xs, y ≠ e → y.2 < e.2 := fun y m => below y (List.mem_cons_of_mem _ m)
    by_cases same : x = e
    · subst same
      rw [List.foldl_cons, higher_takes b x above first]
      exact foldl_higher_stands xs x rest
    · exact ih _ ((List.mem_cons.mp mem).resolve_left (Ne.symm same)) rest
        (higher_below b e x first (below x List.mem_cons_self same))

theorem peak_of_low (p : Pulse) (low : ∀ x ∈ p.excess, x.2 ≤ 20) : p.peak = none := foldl_higher_low p.excess none low

theorem peak_of_high (p : Pulse) (e : Nat × Int) (mem : e ∈ p.excess) (above : 20 < e.2) (below : ∀ x ∈ p.excess, x ≠ e → x.2 < e.2) :
    p.peak = some e := foldl_higher_takes p.excess none e mem above below nofun

/-! ## The verdict -/

section
variable (s : State) (c : ChIx) (yoke : Option (Fin 16)) (p : Pulse)

/-- A failed pulse is told (R113). -/
def State.failedPulse : State :=
  match p.peak with
  | some e => (s.crossFault c e.1).marks c kChCross
  | none => match s.partnerPeak yoke with
    | some y => (s.crossFault c (16 + y)).marks c kChCross
    | none => (s.chFault c kChShortVf 63).marks c condPulseShort

/-- The state of a pulse that has come to its end. -/
def State.pulseEnded : State := (s.elapse (p.start + s.chFld c (F.CH_DIAG_DP_WIDTH c.val) * 480)).endPulse c

/-- A pulse that has ended is judged by the readback of its own channel. -/
def State.readVerdict : State :=
  if p.passed then s.updChan c fun x => (x.ended kChCross).ended condPulseShort
  else (s.addF (F.CH_COUNTS_DP_FAIL c.val) 1).failedPulse c yoke p

theorem exec_darkPulseVerdict (running : (s.chan c).pulse = some p) :
    exec (.darkPulseVerdict c yoke) s = .next (((s.pulseEnded c p).readVerdict c yoke p).crossedWith c p.fell) := by
  change execDarkPulseVerdict c yoke s = _
  unfold execDarkPulseVerdict State.readVerdict State.pulseEnded
  rw [running]
  dsimp only
  generalize (s.elapse (p.start + s.chFld c (F.CH_DIAG_DP_WIDTH c.val) * 480)).endPulse c = u
  generalize u.addF (F.CH_COUNTS_DP_FAIL c.val) 1 = v
  change Host.Outcome.next (State.crossedWith (if p.passed = true then u.updChan c _ else _) c p.fell) = _
  refine congrArg (fun w : State => Host.Outcome.next (w.crossedWith c p.fell)) (ite_congr rfl (fun _ => rfl) fun _ => ?_)
  unfold State.failedPulse
  generalize is : List.foldl _ none p.excess = best
  rw [show p.peak = best from is]
  cases best with
  | some e => rfl
  | none =>
    cases v.partnerPeak yoke with
    | some y => rfl
    | none => rfl

theorem tells_failedPulse : Tells s (s.failedPulse c yoke p) := by
  unfold State.failedPulse
  split
  · exact (tells_marks ..).step (tells_cross ..)
  · split
    · exact (tells_marks ..).step (tells_cross ..)
    · exact (tells_marks ..).step (tells_chFault ..)

theorem failedPulse_peak (e : Nat × Int) (is : p.peak = some e) : ChTold s c kChCross e.1 (s.failedPulse c yoke p) := by
  unfold State.failedPulse
  rw [is]
  exact (tells_marks ..).told _ _ _ _ (crossFault_told s c e.1)

theorem failedPulse_partner (y : Nat) (none : p.peak = none) (is : s.partnerPeak yoke = some y) :
    ChTold s c kChCross (16 + y) (s.failedPulse c yoke p) := by
  unfold State.failedPulse
  rw [none, is]
  exact (tells_marks ..).told _ _ _ _ (crossFault_told s c (16 + y))

theorem failedPulse_short (none : p.peak = none) (alone : s.partnerPeak yoke = Option.none) :
    ChTold s c kChShortVf 63 (s.failedPulse c yoke p) := by
  unfold State.failedPulse
  rw [none, alone]
  exact (tells_marks ..).told _ _ _ _ (told_chFault s c kChShortVf 63 (by decide) (by decide))

/-! ## What the end of the pulse leaves -/

theorem pulseEnded_only : OnlyChanges [.regs, .chans] s (s.pulseEnded c p) :=
  only_trans (only_mono (State.elapse_only ..) (by decide)) (State.endPulse_only ..)

/-- The registers that the end of a pulse leaves. -/
def endReg (a : Nat) : Bool := idleReg a && standsReg a

theorem pulseEnded_regs : KeepsRegs endReg s (s.pulseEnded c p) := by
  refine ⟨fun a k => ?_⟩
  obtain ⟨idle, stands⟩ := Bool.and_eq_true_iff.mp k
  exact ((endPulse_stands _ c).same a stands).trans ((elapse_idle s _).same a idle)

theorem pulseEnded_swath : (s.pulseEnded c p).swath = s.swath := (pulseEnded_regs s c p).swath (by decide) (by decide)

theorem endReg_counts : endReg (Reg.CH_COUNTS c.val) = true := by
  revert c
  decide

theorem cfg_counts (d : ChIx) : endReg (Reg.CH_CFG d.val) = true ∧
    (Reg.CH_CFG d.val != Reg.CH_COUNTS c.val && decide (Reg.CH_CFG d.val < newsBase)) = true := by
  revert c d
  decide

theorem yoke_counts : (Reg.YK_STATUS != Reg.CH_COUNTS c.val && decide (Reg.YK_STATUS < newsBase)) = true := by
  revert c
  decide

/-- The readback of a partner is that of its entries, its switches those of the image. -/
theorem partnerPeak_of {s t : State} (yoke : Option (Fin 16)) (joined : t.joined = s.joined) (func : ∀ c, t.func c = s.func c) (sig : t.sig = s.sig)
    (swath : t.swath = s.swath) : t.partnerPeak yoke = s.partnerPeak yoke := by
  unfold State.partnerPeak State.partnerCurrent State.readEntry State.entry State.swath32 State.isSwitch
  simp only [joined, func, sig, swath]

/-- The partner's readback at the verdict is the one at its command. -/
theorem partnerPeak_kept : ((s.pulseEnded c p).addF (F.CH_COUNTS_DP_FAIL c.val) 1).partnerPeak yoke = s.partnerPeak yoke := by
  let u := s.pulseEnded c p
  have only : OnlyChanges [.regs, .chans] s (u.addF (F.CH_COUNTS_DP_FAIL c.val) 1) :=
    only_trans (pulseEnded_only s c p) (only_mono (State.addF_only ..) (by decide))
  have counted := addF_stands u c (F.CH_COUNTS_DP_FAIL c.val) 1 rfl
  have reg (a : Nat) (k : endReg a = true) (n : (a != Reg.CH_COUNTS c.val && decide (a < newsBase)) = true) :
      (u.addF (F.CH_COUNTS_DP_FAIL c.val) 1).reg a = s.reg a := (counted.same a n).trans ((pulseEnded_regs s c p).same a k)
  refine partnerPeak_of yoke ?_ (fun d => ?_) (only.same .sig (by decide)) ((swath_addF u c _ 1 rfl).trans (pulseEnded_swath s c p))
  · unfold State.joined
    rw [fld_of_reg F.YK_STATUS_STATE (reg _ (by decide) (yoke_counts c))]
  · exact func_congr (by rw [half_of_halves (only.same .halves (by decide))]) (reg _ (cfg_counts c d).1 (cfg_counts c d).2)

theorem ended_lacks (x : Chan) (k j : Nat) (lacks : x.has k = false) : (x.ended j).has k = false := by
  simp only [Chan.has, Chan.ended, List.contains_eq_mem, List.mem_filter, decide_eq_false_iff_not] at lacks ⊢
  exact fun h => lacks h.1

theorem pulse_judged (running : (s.chan c).pulse = some p) : DoesOnly switchFaultParts (.darkPulseVerdict c yoke) s fun t =>
    (t.chan c).pulse = none ∧
    (p.passed = true → t.fld (F.CH_COUNTS_DP_FAIL c.val) = s.fld (F.CH_COUNTS_DP_FAIL c.val)) ∧
    (p.passed = true → p.fell = [] → (t.chan c).has kChCross = false) ∧
    (p.passed = false → Counted s (F.CH_COUNTS_DP_FAIL c.val) t) ∧
    (∀ e ∈ p.excess, p.passed = false → 20 < e.2 → (∀ x ∈ p.excess, x ≠ e → x.2 < e.2) → ChTold s c kChCross e.1 t) ∧
    (∀ y, p.passed = false → (∀ x ∈ p.excess, x.2 ≤ 20) → s.partnerPeak yoke = some y → ChTold s c kChCross (16 + y) t) ∧
    (p.passed = false → (∀ x ∈ p.excess, x.2 ≤ 20) → s.partnerPeak yoke = none → ChTold s c kChShortVf 63 t) ∧
    (s.joined = false → s.partnerPeak yoke = none) ∧
    (∀ d : ChIx, d.val ∈ p.fell → ChTold s c kChCross d.val t ∧ ChTold s d kChCross c.val t) := by
  let u := s.pulseEnded c p
  let v := u.addF (F.CH_COUNTS_DP_FAIL c.val) 1
  let w := u.readVerdict c yoke p
  have late : Tells w (w.crossedWith c p.fell) := tells_crossedWith w c p.fell
  have gone : (u.chan c).pulse = none := (endPulse_chan _ c).2.1
  have count : u.fld (F.CH_COUNTS_DP_FAIL c.val) = s.fld (F.CH_COUNTS_DP_FAIL c.val) :=
    (pulseEnded_regs s c p).fld (F.CH_COUNTS_DP_FAIL c.val) (endReg_counts c)
  have counted : Counted u (F.CH_COUNTS_DP_FAIL c.val) v := counted_addF u _ (by decide : (8 : Nat) ≤ 15) (by decide : (15 : Nat) < 32)
  have swathV : v.swath = s.swath := (swath_addF u c _ 1 rfl).trans (pulseEnded_swath s c p)
  have passes (good : p.passed = true) : w = u.updChan c fun x => (x.ended kChCross).ended condPulseShort := if_pos good
  have fails (bad : p.passed = false) : w = v.failedPulse c yoke p := if_neg (by rw [bad]; exact Bool.false_ne_true)
  have early : OnlyChanges switchFaultParts u w ∧ (w.chan c).pulse = none ∧ w.swath = s.swath := by
    cases good : p.passed with
    | true =>
      rw [passes good]
      have judged : Tells u (u.updChan c fun x => (x.ended kChCross).ended condPulseShort) := tells_updChan u c _ fun _ => rfl
      exact ⟨judged.only, (judged.pulse c).trans gone, judged.swath.trans (pulseEnded_swath s c p)⟩
    | false =>
      rw [fails good]
      have judged := tells_failedPulse v c yoke p
      exact ⟨only_trans (only_mono (State.addF_only ..) (by decide)) judged.only,
        (judged.pulse c).trans ((congrArg Chan.pulse (chan_addF ..)).trans gone), judged.swath.trans swathV⟩
  have told (bad : p.passed = false) {kind partner : Nat} (h : ChTold v c kind partner (v.failedPulse c yoke p)) :
      ChTold s c kind partner (w.crossedWith c p.fell) :=
    late.told _ _ _ _ (fails bad ▸ h.since swathV)
  obtain ⟨only, pulse, swath⟩ := early
  refine ⟨_, exec_darkPulseVerdict s c yoke p running, ?_, (late.pulse c).trans pulse, fun good => ?_, fun good none => ?_, fun bad => ?_,
    fun e mem bad above below => ?_, fun y bad low is => ?_, fun bad low alone => ?_, fun alone => ?_, fun d mem => ?_⟩
  · exact only_trans (only_mono (pulseEnded_only s c p) (by decide)) (only_trans only late.only)
  · refine (late.fails c).trans ?_
    rw [passes good]
    exact count
  · change ((w.crossedWith c p.fell).chan c).has kChCross = false
    rw [none, show w.crossedWith c [] = w from rfl, passes good, chan_updChan_same]
    exact ended_lacks _ _ _ (has_ended ..)
  · unfold Counted at counted ⊢
    rw [← count, ← counted]
    refine (late.fails c).trans ?_
    rw [fails bad]
    exact (tells_failedPulse v c yoke p).fails c
  · exact told bad (failedPulse_peak v c yoke p e (peak_of_high p e mem above below))
  · exact told bad (failedPulse_partner v c yoke p y (peak_of_low p low) ((partnerPeak_kept s c yoke p).trans is))
  · exact told bad (failedPulse_short v c yoke p (peak_of_low p low) ((partnerPeak_kept s c yoke p).trans alone))
  · unfold State.partnerPeak
    rw [alone]
    rfl
  · obtain ⟨own, other⟩ := crossedWith_told w c d p.fell mem
    exact ⟨own.since swath, other.since swath⟩

end

/-- Settles O5: a pulse is issued in the state of its tick; the verdict is taken after the pulse has ended, and its steps only tell; the
abort is the end of the pulse, with the capture it may begin. -/
theorem darkPulsesAreIssuedJudgedAndAborted : Obligations.DarkPulsesAreIssuedJudgedAndAborted :=
  fun c s => ⟨fun dark free => ⟨pulse_skipped s c dark free, pulse_opened s c dark free⟩, fun yoke p => pulse_judged s c yoke p,
    fun p => pulse_aborted s c p⟩

end Sys2Proof.Machine
end

section
/-!
PROOFS. The returns of a field die (R118, R120, R127, R132, R202, R203): its loss, its restart, its training and its reload.
-/
namespace Sys2Proof.Machine

/-! ## A sequencer's entry that is cut off (R188) -/

/-- The registers that the end of a sequencer's entry leaves. -/
def seqReg (a : Nat) : Bool :=
  !((allHalves.any fun h => a == Reg.SPR_STATUS h.val || a == Reg.SEQ_STATUS h.val) || allCh.any fun c => a == Reg.SPR_CHSTAT c.val)

theorem seqReg_seq (h : HalfIx) : seqReg (Reg.SPR_STATUS h.val) = false ∧ seqReg (Reg.SEQ_STATUS h.val) = false := by
  revert h
  decide

theorem seqReg_park (c : ChIx) : seqReg (Reg.SPR_CHSTAT c.val) = false := by
  revert c
  decide

theorem seqReg_cfg (c : ChIx) : seqReg (Reg.CH_CFG c.val) = true := by
  revert c
  decide

theorem seqReg_link (h : HalfIx) : seqReg (Reg.BD_STATUS h.val) = true := by
  revert h
  decide

/-- A channel but for its coefficients and the marks of windows cut short. -/
def Chan.uncut (x : Chan) : Chan := { x with partPrec := 0, partFast := 0, coefs := x.good }

/-- A half but for its sequencer. -/
def Half.unsequenced (x : Half) : Half := { x with seq := {} }

/-- Steps of the sequencer of half `h`: its own registers, its own state, and of the channels their coefficients and marks. -/
structure SeqSteps (h : HalfIx) (s t : State) : Prop where
  /-- registers -/
  regs : KeepsRegs seqReg s t
  /-- channels -/
  chans : ∀ c, (t.chan c).uncut = (s.chan c).uncut
  /-- the other half -/
  other : OtherDieKept h s t
  /-- the half -/
  own : (t.half h).unsequenced = (s.half h).unsequenced

section
variable {h : HalfIx} {s t u : State}

theorem sq_refl : SeqSteps h s s := ⟨kr_refl s, fun _ => rfl, fun _ _ => rfl, rfl⟩

theorem sq_step (k : SeqSteps h t u) (i : SeqSteps h s t) : SeqSteps h s u :=
  ⟨kr_step k.regs i.regs, fun c => (k.chans c).trans (i.chans c), fun x n => (k.other x n).trans (i.other x n), k.own.trans i.own⟩

theorem sq_setF {f : Fld} {v : Nat} (q : seqReg f.reg = false) (i : SeqSteps h s t) : SeqSteps h s (t.setF f v) :=
  ⟨kr_setF q i.regs, i.chans, i.other, i.own⟩

theorem sq_setB {f : Fld} {v : Bool} (q : seqReg f.reg = false) (i : SeqSteps h s t) : SeqSteps h s (t.setB f v) :=
  ⟨kr_setB q i.regs, i.chans, i.other, i.own⟩

theorem sq_updSeq {f : Seq → Seq} (i : SeqSteps h s t) : SeqSteps h s (t.updSeq h f) := by
  refine ⟨i.regs.kept rfl, i.chans, fun x n => ?_, ?_⟩
  · exact (half_updHalf ..).trans ((if_neg n).trans (i.other x n))
  · unfold State.updSeq
    rw [half_updHalf, if_pos rfl]
    exact i.own

theorem sq_updChan {c : ChIx} {f : Chan → Chan} (same : ∀ x, (f x).uncut = x.uncut) (i : SeqSteps h s t) : SeqSteps h s (t.updChan c f) := by
  refine ⟨i.regs.kept rfl, fun d => ?_, i.other, i.own⟩
  rw [chan_updChan]
  split
  · subst_vars
    exact (same _).trans (i.chans _)
  · exact i.chans d

theorem sq_ite {p : Prop} [Decidable p] (i : SeqSteps h s t) (k : SeqSteps h s u) : SeqSteps h s (if p then t else u) := by
  split <;> assumption

theorem sq_foldl {α : Type} {f : State → α → State} {xs : List α} (k : ∀ u x, SeqSteps h u (f u x)) (i : SeqSteps h s t) :
    SeqSteps h s (xs.foldl f t) := by
  induction xs generalizing t with
  | nil => exact i
  | cons x xs ih => exact ih (sq_step (k t x) i)

theorem sq_cutEntry (c : ChIx) : SeqSteps h s (s.cutEntry h c) := by
  obtain ⟨spare, seq⟩ := seqReg_seq h
  have noted : SeqSteps h s (s.notePart c) := by
    unfold State.notePart
    exact sq_ite sq_refl (sq_updChan (fun _ => rfl) sq_refl)
  unfold State.cutEntry State.setSpare State.stage
  dsimp only
  refine sq_updSeq (sq_setF seq (sq_setF seq (sq_setF seq (sq_updSeq (sq_setF spare (sq_setF spare (sq_setF spare ?_)))))))
  exact sq_foldl (fun u d => sq_setB (seqReg_park d) sq_refl) (sq_ite (sq_updChan (fun _ => rfl) noted) noted)

theorem sq_restartSeq (c : ChIx) : SeqSteps h s (s.restartSeq h c) := by
  have seq := (seqReg_seq h).2
  have early (f : Seq → Seq) : SeqSteps h s ((s.cutEntry h c).updSeq h f) := sq_updSeq (sq_cutEntry c)
  unfold State.restartSeq
  exact sq_setF seq (sq_ite (sq_setB seq (early _)) (early _))

end

/-! ## A die that is lost (R118, R127, R132) -/

/-- A channel without its configuration; `v`: it was an analogue voltage output. -/
def Chan.unloaded (v : Bool) (x : Chan) : Chan := { x with
  action := none, value := 0, holding := false, pulse := none, disconnected := v, localReg := false,
  limit := false, shuntOpen := false, shuntOvl := false, loopLimit := false, retOpen := false, dark := false }

/-- A half without its configuration. -/
def Half.unloaded (stood : List Nat) (x : Half) : Half := { x with
  loaded := false, armedF := false, keeper := 0, timedOut := false, dnMiss := 0, dnRun := 0, dormant := false,
  gateTest := none, kept := [], was := stood, params := [], table := [], tableCrc := none, mbSeq := none, mbReturn := [] }

/-- A channel as a field reset clears it. -/
def Chan.cleared (x : Chan) : Chan := { x with
  ovl := false, tries := 0, backoff := 0, releaseReq := false, filt := 0, state := false, offFails := 0, conds := [] }

section
variable (s : State) (h : HalfIx)

/-- The channels of a half unloaded. -/
def State.unloadChans : State := (chOf h).foldl (fun (s : State) c => s.updChan c (Chan.unloaded (s.func c == fAOV))) s

theorem unload_eq : s.unload h = s.fieldChange h false fun s' =>
    (s'.unloadChans h).updHalf h (Half.unloaded ((chOf h).map fun c => s.stageFunc c)) := rfl

theorem unloadChans_chan (c : ChIx) (m : c ∈ chOf h) : (s.unloadChans h).chan c = Chan.unloaded (s.func c == fAOV) (s.chan c) := by
  obtain ⟨u, func, same, out⟩ := foldl_touches (fun u => u.chan c) (fun u => u.func c = s.func c)
    (f := fun (s : State) c => s.updChan c (Chan.unloaded (s.func c == fAOV))) (fun _ _ k => k)
    (fun u d n => (chan_updChan u d c _).trans (if_neg (Ne.symm n))) (chOf h) s (chOf_nodup h) m rfl
  rw [State.unloadChans, out, chan_updChan_same, func, same]

theorem unload_chan (c : ChIx) (m : c ∈ chOf h) :
    ((s.unload h).chan c).core.unheld = (Chan.unloaded (s.func c == fAOV) (s.chan c)).core.unheld := by
  rw [unload_eq, (fieldChange_spec ..).1.chans, chan_updHalf, unloadChans_chan s h c m]

theorem unload_half : ∃ u : List Nat, ((s.unload h).half h).quiet = (Half.unloaded u (s.half h)).quiet := by
  refine ⟨(chOf h).map fun c => s.stageFunc c, ?_⟩
  have halves : (s.unloadChans h).halves = s.halves :=
    foldl_keeps (p := State.halves) (f := fun (s : State) c => s.updChan c (Chan.unloaded (s.func c == fAOV))) (fun _ _ => rfl) ..
  rw [unload_eq, fieldChange_ownHalf, half_updHalf, if_pos rfl, half_of_halves halves]
  rfl

theorem clearField_chan (c : ChIx) (m : c ∈ chOf h) : (s.clearField h).chan c = (s.chan c).cleared :=
  fold_channels (R := fun x y => y = x.cleared) (fun u c => chan_updChan_same u c _) (fun u c => otherCh_updChan u c _) s h c m

theorem clearField_half : (s.clearField h).half h =
    { s.half h with gateHold := false, gdrvHold := false, gdrvCut := false, forced := false } := by
  have halves : ((chOf h).foldl (fun (s : State) c => s.updChan c Chan.cleared) s).halves = s.halves :=
    foldl_keeps (p := State.halves) (f := fun (s : State) c => s.updChan c Chan.cleared) (fun _ _ => rfl) ..
  refine (half_updHalf ..).trans ?_
  rw [if_pos rfl]
  exact congrArg (fun x : Half => { x with gateHold := false, gdrvHold := false, gdrvCut := false, forced := false }) (half_of_halves halves h)

/-- Pulses, captures and the sequencer's entry of a half end with its die. -/
def State.worksEnd : State :=
  let u := (chOf h).foldl (fun (s : State) c => (s.dropPulse c).captureEnd c true) s
  u.cutEntry h (u.target h)

theorem dropPulse_cfg (c d : ChIx) : (s.dropPulse c).reg (Reg.CH_CFG d.val) = s.reg (Reg.CH_CFG d.val) := by
  unfold State.dropPulse
  split
  · rfl
  · rw [reg_updChan]
    exact (calm_addF s c (F.CH_COUNTS_DP_SKIP c.val) 1 rfl).same (Reg.CH_CFG d.val) (calm_cfg d)

/-- The function of a channel stands while its half's works end. -/
theorem worksEnd_func (c : ChIx) : (s.worksEnd h).func c = s.func c := by
  let u := (chOf h).foldl (fun (s : State) c => (s.dropPulse c).captureEnd c true) s
  have plain : plainReg (Reg.CH_CFG c.val) = true := by
    revert c
    decide
  have cfg : u.reg (Reg.CH_CFG c.val) = s.reg (Reg.CH_CFG c.val) :=
    foldl_keeps (p := fun v => v.reg (Reg.CH_CFG c.val)) (fun v d => ((captureEnd_plain _ d true).same _ plain).trans (dropPulse_cfg v d c)) ..
  have halves : u.halves = s.halves := foldl_keeps (p := State.halves) (fun v d =>
    ((State.captureEnd_only _ d true).same .halves (by decide)).trans ((State.dropPulse_only v d).same .halves (by decide))) ..
  have cut : SeqSteps h u (s.worksEnd h) := sq_cutEntry _
  refine func_congr ?_ ((cut.regs.same _ (seqReg_cfg c)).trans cfg)
  rw [← half_of_halves halves]
  by_cases own : halfOf c = h
  · rw [own]
    exact seen_through Half.unsequenced Half.kept cut.own
  · rw [cut.other _ own]

theorem worksEnd_half {β : Type} (g : Half → β) (seen : ∀ x : Half, g x.unsequenced = g x) : g ((s.worksEnd h).half h) = g (s.half h) := by
  let u := (chOf h).foldl (fun (s : State) c => (s.dropPulse c).captureEnd c true) s
  have halves : u.halves = s.halves := foldl_keeps (p := State.halves) (fun v d =>
    ((State.captureEnd_only _ d true).same .halves (by decide)).trans ((State.dropPulse_only v d).same .halves (by decide))) ..
  have cut : SeqSteps h u (s.worksEnd h) := sq_cutEntry _
  rw [← half_of_halves halves]
  exact seen_through Half.unsequenced g cut.own seen

/-- A half whose die is lost, but for the recovery of its undervoltage latch. -/
def State.lost : State := (((s.worksEnd h).unload h).clearField h).setF (F.BD_STATUS_LINK h.val) 0

theorem dieLost_eq : s.dieLost h = (s.lost h).fieldChange h false fun s => s.updHalf h fun x => { x with uvReady := false, uvKey := false } := rfl

theorem dieLost_change : FieldKept ((s.lost h).updHalf h fun x => { x with uvReady := false, uvKey := false }) (s.dieLost h) ∧
    ∀ c ∈ chOf h, ((s.dieLost h).chan c).closed = (s.dieLost h).mayClose c :=
  fieldChange_spec (s.lost h) h false fun s => s.updHalf h fun x => { x with uvReady := false, uvKey := false }

theorem lost_chan (c : ChIx) (m : c ∈ chOf h) : (s.lost h).chan c = (((s.worksEnd h).unload h).chan c).cleared :=
  clearField_chan ((s.worksEnd h).unload h) h c m

/-- What of a channel neither its switch nor the clearing hides, is that of the unloaded channel. -/
theorem dieLost_field {β : Type} (c : ChIx) (m : c ∈ chOf h) (g : Chan → β) (seen : ∀ x : Chan, g x.core.unheld = g x)
    (uncleared : ∀ x : Chan, g x.cleared = g x) : g ((s.dieLost h).chan c) = g (Chan.unloaded (s.func c == fAOV) ((s.worksEnd h).chan c)) := by
  have late := (dieLost_change s h).1.chans c
  have early := unload_chan (s.worksEnd h) h c m
  rw [worksEnd_func] at early
  calc
    g ((s.dieLost h).chan c) = g ((s.lost h).chan c) := seen_through (fun x : Chan => x.core.unheld) g late seen
    _ = g (((s.worksEnd h).unload h).chan c) := (congrArg g (lost_chan s h c m)).trans (uncleared _)
    _ = _ := seen_through (fun x : Chan => x.core.unheld) g early seen

theorem dieLost_cleared {β : Type} (c : ChIx) (m : c ∈ chOf h) (g : Chan → β) (seen : ∀ x : Chan, g x.core.unheld = g x) :
    g ((s.dieLost h).chan c) = g (((s.worksEnd h).unload h).chan c).cleared := by
  have late := (dieLost_change s h).1.chans c
  exact (seen_through (fun x : Chan => x.core.unheld) g late seen).trans (congrArg g (lost_chan s h c m))

theorem dieLost_unloaded (c : ChIx) (m : c ∈ chOf h) : ((s.dieLost h).chan c).action = none :=
  dieLost_field s h c m Chan.action (fun _ => rfl) fun _ => rfl

/-- A channel without configuration wants no closed switch. -/
theorem mayClose_unloaded (c : ChIx) (none : (s.chan c).action = Option.none) : s.mayClose c = false := by
  unfold State.mayClose State.wants
  simp [none]

theorem dieLost_open (c : ChIx) (m : c ∈ chOf h) : ((s.dieLost h).chan c).closed = false :=
  ((dieLost_change s h).2 c m).trans (mayClose_unloaded _ c (dieLost_unloaded s h c m))

theorem dieLost_backoff (c : ChIx) (m : c ∈ chOf h) : ((s.dieLost h).chan c).backoff = 0 := by
  let f : State → State := fun s => s.updHalf h fun x => { x with uvReady := false, uvKey := false }
  have unheld := heldFrom_unheld (f (s.lost h)) (s.lost h) h c
  have zero : (((f (s.lost h)).heldFrom (s.lost h) h).chan c).backoff = 0 :=
    (seen_through Chan.unheld Chan.backoff unheld).trans (congrArg Chan.backoff (lost_chan s h c m))
  rcases (fieldChange_switched (s.lost h) h false f c m).backoff with same | ended
  · exact same.trans zero
  · exact ended

theorem dieLost_half : ((s.dieLost h).half h).inReset = (s.half h).inReset ∧ ((s.dieLost h).half h).returning = (s.half h).returning ∧
    ((s.dieLost h).half h).loaded = false ∧ ((s.dieLost h).half h).gateHold = false ∧ ((s.dieLost h).half h).gdrvHold = false := by
  let v := (s.worksEnd h).unload h
  have own := fieldChange_ownHalf (s.lost h) h false fun s => s.updHalf h fun x => { x with uvReady := false, uvKey := false }
  rw [← dieLost_eq, half_updHalf, if_pos rfl, show (s.lost h).half h = _ from clearField_half v h] at own
  obtain ⟨stood, bare⟩ := unload_half (s.worksEnd h) h
  have field {β : Type} (g : Half → β) (seen : ∀ x : Half, g x.quiet = g x) (un : ∀ x : Half, g x.unsequenced = g x)
      (keeps : ∀ x : Half, g (Half.unloaded stood x) = g x) : g (v.half h) = g (s.half h) :=
    (seen_through Half.quiet g bare seen).trans ((keeps _).trans (worksEnd_half s h g un))
  rw [own]
  exact ⟨field Half.inReset (fun _ => rfl) (fun _ => rfl) fun _ => rfl, field Half.returning (fun _ => rfl) (fun _ => rfl) fun _ => rfl,
    seen_through Half.quiet Half.loaded bare, rfl, rfl⟩

theorem stands_link : standsReg (Reg.BD_STATUS h.val) = true := by
  revert h
  decide

theorem dieLost_link : (s.dieLost h).fld (F.BD_STATUS_LINK h.val) = 0 := by
  have kept := (fieldChange_regs (s.lost h) h false fun s => s.updHalf h fun x => { x with uvReady := false, uvKey := false }).fld
    (F.BD_STATUS_LINK h.val) (stands_link h)
  have set (u : State) : (u.setF (F.BD_STATUS_LINK h.val) 0).fld (F.BD_STATUS_LINK h.val) = 0 :=
    State.fld_setF_same u (F.BD_STATUS_LINK h.val) 0 (by decide : (28 : Nat) ≤ 31) (by decide : (31 : Nat) < 32)
  rw [dieLost_eq, kept, fld_updHalf]
  unfold State.lost
  exact set _

end

end Sys2Proof.Machine
end

section
/-!
PROOFS. Restart, training and reload of a field die, and the statement on its returns (R118, R120, R127, R132, R202, R203, R213).
-/
namespace Sys2Proof.Machine

section
variable (s : State) (h : HalfIx)

/-! ## The die is lost (R118, R132) -/

theorem fieldDieReset_spec (powered : (s.half h).inReset = false) : DoesOnly fieldParts (.fieldDieReset h) s fun t =>
    (t.half h).inReset = true ∧ (t.half h).returning = true ∧ (t.half h).loaded = false ∧ t.fld (F.BD_STATUS_LINK h.val) = 0 ∧
      ∀ c ∈ chOf h, (t.chan c).action = none ∧ (t.chan c).closed = false := by
  let u := s.updHalf h fun x => { x with inReset := true, returning := true }
  have own : u.half h = { s.half h with inReset := true, returning := true } := (half_updHalf ..).trans (if_pos rfl)
  obtain ⟨reset, returning, loaded, -, -⟩ := dieLost_half u h
  refine doesOnly_whenCh rfl (by rw [powered]; rfl) (only_trans (only_mono (State.updHalf_only ..) (by decide)) (State.dieLost_only u h)) ?_
  exact ⟨reset.trans (by rw [own]), returning.trans (by rw [own]), loaded, dieLost_link u h,
    fun c m => ⟨dieLost_unloaded u h c m, dieLost_open u h c m⟩⟩

theorem fieldReset_taken (on : s.coreOn = true) (disarmed : s.armed h.val = false) (powered : (s.half h).inReset = false) :
    DoesOnly fieldParts (.fieldReset h) s fun t => (t.half h).returning = true ∧ (t.half h).loaded = false ∧
      (t.half h).gateHold = false ∧ (t.half h).gdrvHold = false ∧ t.fld (F.BD_STATUS_LINK h.val) = 0 ∧
        ∀ c ∈ chOf h, (t.chan c).action = none ∧ (t.chan c).closed = false ∧ t.ovlLatched c = false ∧
          (t.chan c).filt = 0 ∧ (t.chan c).backoff = 0 ∧ ((t.chan c).disconnected = true ↔ s.func c = fAOV) := by
  let u := s.updHalf h fun x => { x with returning := true }
  have own : u.half h = { s.half h with returning := true } := (half_updHalf ..).trans (if_pos rfl)
  have is : s.fieldReset h = u.dieLost h := if_neg (by rw [disarmed, powered]; exact Bool.false_ne_true)
  have func (c : ChIx) : u.func c = s.func c := by
    refine func_congr ?_ rfl
    rw [half_updHalf]
    split
    · subst_vars
      rfl
    · rfl
  obtain ⟨-, returning, loaded, gate, gdrv⟩ := dieLost_half u h
  refine ⟨_, s.hostKey_on _ on, State.fieldReset_only .., ?_⟩
  rw [is]
  refine ⟨returning.trans (by rw [own]), loaded, gate, gdrv, dieLost_link u h, fun c m => ⟨dieLost_unloaded u h c m, dieLost_open u h c m,
    dieLost_cleared u h c m Chan.ovl fun _ => rfl, dieLost_cleared u h c m Chan.filt fun _ => rfl, dieLost_backoff u h c m, ?_⟩⟩
  rw [dieLost_field u h c m Chan.disconnected (fun _ => rfl) fun _ => rfl, func]
  exact beq_iff_eq

theorem fieldReset_dropped (armed : s.armed h.val = true) : Does (.fieldReset h) s fun t => t = s :=
  ⟨s, s.hostKey_same _ (if_pos (by rw [armed]; rfl)), rfl⟩

/-! ## The die restarts (R118, R120) -/

theorem link_apart : Reg.BD_STATUS h.val ≠ Reg.FH_COUNTS h.val ∧ Reg.BD_STATUS h.val < newsBase ∧ Reg.FH_COUNTS h.val < newsBase ∧
    Reg.TB_SWATH_LO ≠ Reg.BD_STATUS h.val ∧ Reg.TB_SWATH_HI ≠ Reg.BD_STATUS h.val ∧ standsReg (Reg.FH_COUNTS h.val) = true := by
  revert h
  decide

theorem swath_link (v : Nat) : (s.setF (F.BD_STATUS_LINK h.val) v).swath = s.swath := by
  obtain ⟨-, -, -, lo, hi, -⟩ := link_apart h
  unfold State.swath State.pairReg
  rw [State.reg_setF_ne _ (F.BD_STATUS_LINK h.val) _ _ lo, State.reg_setF_ne _ (F.BD_STATUS_LINK h.val) _ _ hi]

theorem link_setF (v : Nat) : (s.setF (F.BD_STATUS_LINK h.val) v).fld (F.BD_STATUS_LINK h.val) = v % 16 :=
  State.fld_setF_same s (F.BD_STATUS_LINK h.val) v (by decide : (28 : Nat) ≤ 31) (by decide : (31 : Nat) < 32)

theorem fieldRestart_spec (returns : (s.half h).returning = true) : DoesOnly switchFaultParts (.fieldRestart h) s fun t =>
    (t.half h).returning = false ∧ (t.half h).inReset = false ∧ HalfTold s h kFieldRestart t ∧
      Counted s (F.FH_COUNTS_RESTARTS h.val) t ∧ t.fld (F.BD_STATUS_LINK h.val) = 1 := by
  let f : Half → Half := fun x => { x with inReset := false, returning := false, uv := true, uvReady := false, uvKey := false }
  let u := s.fieldChange h false fun s => s.updHalf h f
  let v := u.setF (F.BD_STATUS_LINK h.val) 1
  let w := v.addF (F.FH_COUNTS_RESTARTS h.val) 1
  obtain ⟨apart, linkLow, countLow, -, -, stands⟩ := link_apart h
  have half {β : Type} (g : Half → β) (seen : ∀ z : Half, g z.quiet = g z) : g ((w.halfFault h kFieldRestart).half h) = g (f (s.half h)) := by
    rw [← seen ((w.halfFault h kFieldRestart).half h), halfFault_field w h h kFieldRestart (fun z => g z.quiet) fun _ => rfl, seen, half_addF,
      half_setF]
    exact (halfChange_half s h false f).1 g seen
  have swath : w.swath = s.swath := (swath_fhCount v h _ rfl).trans ((swath_link u h 1).trans (swath_fieldChange ..))
  have counted : Counted v (F.FH_COUNTS_RESTARTS h.val) w := counted_addF v _ (by decide : (16 : Nat) ≤ 23) (by decide : (23 : Nat) < 32)
  have count : v.fld (F.FH_COUNTS_RESTARTS h.val) = s.fld (F.FH_COUNTS_RESTARTS h.val) :=
    (fld_of_reg (F.FH_COUNTS_RESTARTS h.val) (State.reg_setF_ne u (F.BD_STATUS_LINK h.val) 1 (Reg.FH_COUNTS h.val) apart.symm)).trans
      ((fieldChange_regs s h false fun s => s.updHalf h f).fld (F.FH_COUNTS_RESTARTS h.val) stands)
  have link : w.fld (F.BD_STATUS_LINK h.val) = 1 :=
    (fld_addF_ne v (F.FH_COUNTS_RESTARTS h.val) (F.BD_STATUS_LINK h.val) 1 (by decide : (16 : Nat) ≤ 23) (by decide : (23 : Nat) < 32)
      (by decide : (28 : Nat) ≤ 31) linkLow (.inl apart)).trans (link_setF u h 1)
  have only : OnlyChanges switchFaultParts s w := only_trans (only_mono (halfChange_only s h false f) (by decide))
    (only_trans (only_mono (State.setF_only ..) (by decide)) (only_mono (State.addF_only ..) (by decide)))
  refine doesOnly_whenCh rfl returns (only_trans only (only_mono (State.halfFault_only w h kFieldRestart) (by decide)))
    ⟨half Half.returning fun _ => rfl, half Half.inReset fun _ => rfl, (halfFault_told w h kFieldRestart (by decide) (by decide)).since swath, ?_, ?_⟩
  · unfold Counted at counted ⊢
    rw [← count, ← counted]
    exact State.fld_raise w _ _ _ (F.FH_COUNTS_RESTARTS h.val) (fhStatus_quiet h).2.1
  · exact (State.fld_raise w _ _ _ (F.BD_STATUS_LINK h.val) (fhStatus_quiet h).2.2).trans link

/-! ## Training ends (R202, R203) -/

theorem linkTrained_spec (training : s.fld (F.BD_STATUS_LINK h.val) = 1) (powered : (s.half h).inReset = false)
    (back : (s.half h).returning = false) : DoesOnly [.regs, .halves] (.linkTrained h) s fun t =>
      t.fld (F.BD_STATUS_LINK h.val) = (if (s.half h).upTimeout.isSome then 3
        else if (s.half h).loaded && (s.half h).kept.isEmpty then 2 else 4) ∧
      t.half h = { s.half h with counting := true, dieAt := s.btick } ∧ OtherDieKept h s t ∧
      RegsKeep (fun a => a == Reg.BD_STATUS h.val) s t := by
  let link := if (s.half h).upTimeout.isSome then 3 else if (s.half h).loaded && (s.half h).kept.isEmpty then 2 else 4
  have small : link % 16 = link := by
    have le : link < 16 := by
      simp only [link]
      split
      · decide
      · split <;> decide
    exact Nat.mod_eq_of_lt le
  refine doesOnly_whenCh rfl (by rw [training, powered, back]; rfl)
    (only_trans (only_mono (State.setF_only s (F.BD_STATUS_LINK h.val) link) (by decide)) (only_mono (State.updHalf_only ..) (by decide)))
    ⟨?_, ?_, fun k n => ?_, ⟨fun a low n => ?_⟩⟩
  · exact (link_setF s h link).trans small
  · exact (half_updHalf ..).trans (if_pos rfl)
  · exact (half_updHalf ..).trans (if_neg n)
  · exact State.reg_setF_ne s (F.BD_STATUS_LINK h.val) link a (show a ≠ Reg.BD_STATUS h.val by simpa using n)

/-! ## The die is reloaded (R127, R213) -/

theorem safeCrc_apart (c : ChIx) : Reg.CH_SAFE c.val ≠ Reg.BD_SAFE_CRC h.val ∧ Reg.FH_CFG h.val ≠ Reg.BD_SAFE_CRC h.val ∧
    Reg.BD_CFG h.val ≠ Reg.BD_SAFE_CRC h.val := by
  revert c h
  decide

/-- The CRC that the logic die shows of its table is no word of it. -/
theorem tableWords_syncTableCrc : (s.syncTableCrc h).tableWords h = s.tableWords h := by
  have safe (c : ChIx) : (s.syncTableCrc h).reg (Reg.CH_SAFE c.val) = s.reg (Reg.CH_SAFE c.val) :=
    s.reg_setReg_ne _ _ _ (safeCrc_apart h c).1
  have code (c : ChIx) : (s.syncTableCrc h).fld (F.CH_SAFE_SAFE c.val) = s.fld (F.CH_SAFE_SAFE c.val) := fld_of_reg (F.CH_SAFE_SAFE c.val) (safe c)
  have auto : (s.syncTableCrc h).fld (F.FH_CFG_UV_AUTO h.val) = s.fld (F.FH_CFG_UV_AUTO h.val) :=
    fld_of_reg (F.FH_CFG_UV_AUTO h.val) (s.reg_setReg_ne _ _ _ (safeCrc_apart h 0).2.1)
  have timeout : (s.syncTableCrc h).fld (F.BD_CFG_TIMEOUT h.val) = s.fld (F.BD_CFG_TIMEOUT h.val) :=
    fld_of_reg (F.BD_CFG_TIMEOUT h.val) (s.reg_setReg_ne _ _ _ (safeCrc_apart h 0).2.2)
  unfold State.tableWords State.flag
  simp only [safe, code, auto, timeout]

/-- A half that has been loaded with a safe-state table. -/
def Half.reloaded (t : List Word) (x : Half) : Half := { x with
  loaded := true
  kept := []
  was := []
  keeper := if x.loaded && x.keeper == 4 then 4 else 1
  table := t, tableCrc := some (crc32cWords t), tableTold := false
  dnMiss := if x.loaded && x.keeper == 4 then x.dnMiss else 0
  params := (List.range tableSize).foldl (fun m i => Sparse.put (fun _ => 0#32) m i (t.getD i 0#32)) [] }

/-- A channel that has been loaded into its safe state. -/
def Chan.reloaded (x : Chan) : Chan := { x with action := some 2, value := 0, disconnected := false }

/-- LINK as a reload leaves it (R202, R217). -/
def State.reloadLink : Nat := if (s.half h).upTimeout.isSome then 3 else 2

theorem loadDie_eq : s.loadDie h = (s.setF (F.BD_STATUS_LINK h.val) (s.reloadLink h)).fieldChange h true fun u =>
    ((chOf h).foldl (fun (v : State) c => v.updChan c Chan.reloaded) u).updHalf h (Half.reloaded (s.tableWords h)) := rfl

theorem loadDie_half : ((s.loadDie h).half h).quiet = (Half.reloaded (s.tableWords h) (s.half h)).quiet ∧ OtherDieKept h s (s.loadDie h) := by
  have halves (u : State) : ((chOf h).foldl (fun (v : State) c => v.updChan c Chan.reloaded) u).halves = u.halves :=
    foldl_keeps (p := State.halves) (f := fun (v : State) c => v.updChan c Chan.reloaded) (fun _ _ => rfl) ..
  refine ⟨?_, fun k n => ?_⟩
  · rw [loadDie_eq, fieldChange_ownHalf, half_updHalf, if_pos rfl, half_of_halves (halves _), half_setF]
    rfl
  · rw [loadDie_eq, fieldChange_otherHalf _ _ _ _ _ n, half_updHalf, if_neg n, half_of_halves (halves _), half_setF]

theorem loadDie_chan (c : ChIx) (m : c ∈ chOf h) : ((s.loadDie h).chan c).core.unheld = (s.chan c).reloaded.core.unheld := by
  have own (u : State) : ((chOf h).foldl (fun (v : State) c => v.updChan c Chan.reloaded) u).chan c = (u.chan c).reloaded :=
    fold_channels (R := fun x y => y = x.reloaded) (fun u c => chan_updChan_same u c _) (fun u c => otherCh_updChan u c _) u h c m
  rw [loadDie_eq, (fieldChange_spec ..).1.chans, chan_updHalf, own, chan_setF]

theorem loadDie_link : (s.loadDie h).fld (F.BD_STATUS_LINK h.val) = s.reloadLink h := by
  let u := s.setF (F.BD_STATUS_LINK h.val) (s.reloadLink h)
  have regs : KeepsRegs standsReg u (s.loadDie h) := by
    rw [loadDie_eq]
    exact kr_step (fieldChange_regs u h true _) (KeepsRegs.kept
      (kr_foldl (f := fun (v : State) c => v.updChan c Chan.reloaded) (xs := chOf h) (fun _ _ => ⟨fun _ _ => rfl⟩) (kr_refl u)) rfl)
  have small : s.reloadLink h % 16 = s.reloadLink h := by
    unfold State.reloadLink
    split <;> rfl
  exact (regs.fld (F.BD_STATUS_LINK h.val) (stands_link h)).trans ((link_setF s h _).trans small)

/-- A table agrees with the CRC that was stored with it (R213). -/
theorem tableCheck_agrees (words : List Word) (table : (s.half h).table = words) (crc : (s.half h).tableCrc = some (crc32cWords words)) :
    s.tableCheck h none = s := by
  unfold State.tableCheck
  simp [table, crc]

theorem fieldReload_spec (runs : s.framesRun h = true) (stale : (s.half h).loaded = false ∨ (s.half h).kept ≠ [])
    (image : s.boot.image.isSome = true) : DoesOnly fieldParts (.fieldReload h) s fun t =>
      (t.half h).loaded = true ∧ (t.half h).kept = [] ∧ (t.half h).table = s.tableWords h ∧
      (t.half h).tableCrc = some (crc32cWords (s.tableWords h)) ∧ ((s.half h).loaded = false → (t.half h).keeper = 1) ∧
      t.fld (F.BD_STATUS_LINK h.val) = (if (s.half h).upTimeout.isSome then 3 else 2) ∧
      (∀ c ∈ chOf h, (t.chan c).action = some 2 ∧ (t.chan c).disconnected = false) ∧ OtherDieKept h s t := by
  let u := s.syncTableCrc h
  let v := u.loadDie h
  let w := v.restartSeq h (v.target h)
  have now : (s.framesRun h && (!(s.half h).loaded || !(s.half h).kept.isEmpty) && s.boot.image.isSome) = true := by
    rw [runs, image]
    rcases stale with off | old
    · rw [off]
      rfl
    · simp [old]
  have restart : SeqSteps h v w := sq_restartSeq (v.target h)
  obtain ⟨loaded, other⟩ := loadDie_half u h
  rw [show u.tableWords h = _ from tableWords_syncTableCrc s h] at loaded
  have half {β : Type} (g : Half → β) (un : ∀ x : Half, g x.unsequenced = g x) (seen : ∀ x : Half, g x.quiet = g x) :
      g (w.half h) = g (Half.reloaded (s.tableWords h) (s.half h)) :=
    (seen_through Half.unsequenced g restart.own un).trans (seen_through Half.quiet g loaded seen)
  have chan {β : Type} (c : ChIx) (m : c ∈ chOf h) (g : Chan → β) (un : ∀ x : Chan, g x.uncut = g x) (seen : ∀ x : Chan, g x.core.unheld = g x) :
      g (w.chan c) = g (s.chan c).reloaded :=
    (seen_through Chan.uncut g (restart.chans c) un).trans (seen_through (fun x : Chan => x.core.unheld) g (loadDie_chan u h c m) seen)
  have table : (w.half h).table = s.tableWords h := half Half.table (fun _ => rfl) fun _ => rfl
  have crc : (w.half h).tableCrc = some (crc32cWords (s.tableWords h)) := half Half.tableCrc (fun _ => rfl) fun _ => rfl
  have only : OnlyChanges fieldParts s w := only_trans (only_mono (State.syncTableCrc_only ..) (by decide))
    (only_trans (State.loadDie_only u h) (only_mono (State.restartSeq_only v h _) (by decide)))
  refine ⟨w, (run_whenCh (f := fun s => (((s.syncTableCrc h).loadDie h).restartSeq h (((s.syncTableCrc h).loadDie h).target h)).tableCheck h none)
    rfl now).trans (congrArg Host.Outcome.next (tableCheck_agrees w h _ table crc)), only, half Half.loaded (fun _ => rfl) fun _ => rfl,
    half Half.kept (fun _ => rfl) fun _ => rfl, table, crc, fun off => ?_, ?_, fun c m => ⟨?_, ?_⟩, fun k n => ?_⟩
  · refine (half Half.keeper (fun _ => rfl) fun _ => rfl).trans ?_
    unfold Half.reloaded
    simp [off]
  · exact (restart.regs.fld (F.BD_STATUS_LINK h.val) (seqReg_link h)).trans (loadDie_link u h)
  · exact chan c m Chan.action (fun _ => rfl) fun _ => rfl
  · exact chan c m Chan.disconnected (fun _ => rfl) fun _ => rfl
  · exact (restart.other k n).trans (other k n)

end

/-- Settles O7: the die is lost, cleared and unloaded in one course, by a supply fault or by the key; its restart, its training and its reload
are a change of its half each. -/
theorem fieldDieResetsReturnsAndReloads : Obligations.FieldDieResetsReturnsAndReloads :=
  fun h s => ⟨fieldDieReset_spec s h, fieldReset_taken s h, fieldReset_dropped s h, fieldRestart_spec s h, linkTrained_spec s h,
    fieldReload_spec s h⟩

end Sys2Proof.Machine
end

section
/-!
PROOFS. The close of a fast window (R83, R89, R106, R140, R203, R210): what a die latches of its channels, half by half.
-/
namespace Sys2Proof.Machine

/-! ## Loops that meet one element once -/

/-- A loop without repetition: where its steps on other elements stand aside of `d`, its one step on `d` is all that concerns `d`. -/
theorem foldl_once {α : Type} {R : State → State → Prop} (refl : ∀ s, R s s) (trans : ∀ {s t u}, R t u → R s t → R s u)
    {f : State → α → State} {d : α} (other : ∀ u x, x ≠ d → R u (f u x)) (xs : List α) (s : State) :
    (d ∉ xs → R s (xs.foldl f s)) ∧ (xs.Nodup → d ∈ xs → ∃ u, R s u ∧ R (f u d) (xs.foldl f s)) := by
  induction xs generalizing s with
  | nil => exact ⟨fun _ => refl s, fun _ mem => by cases mem⟩
  | cons x xs ih =>
    refine ⟨fun out => ?_, fun nodup mem => ?_⟩
    · obtain ⟨apart, out⟩ := not_or.mp (mt List.mem_cons.mpr out)
      exact trans ((ih (f s x)).1 out) (other s x (Ne.symm apart))
    · obtain ⟨fresh, nodup⟩ := List.nodup_cons.mp nodup
      rcases List.mem_cons.mp mem with rfl | mem
      · exact ⟨s, refl s, (ih (f s d)).1 fresh⟩
      · obtain ⟨u, before, after⟩ := (ih (f s x)).2 nodup mem
        exact ⟨u, trans before (other s x fun e => fresh (e ▸ mem)), after⟩

/-! ## Steps that stand aside of a half -/

/-- The registers that the loss of a window leaves. -/
def lossReg (a : Nat) : Bool := !(allHalves.any fun h => a == Reg.BD_LOSS h.val) && decide (a < newsBase)

/-- The registers that the close of a window leaves. -/
def winReg (a : Nat) : Bool := lossReg a && (idleReg a && standsReg a)

theorem win_loss {s t : State} (k : KeepsRegs lossReg s t) : KeepsRegs winReg s t :=
  ⟨fun a e => k.same a (Bool.and_eq_true_iff.mp e).1⟩

theorem win_stands {s t : State} (k : KeepsRegs standsReg s t) : KeepsRegs winReg s t :=
  ⟨fun a e => k.same a (Bool.and_eq_true_iff.mp (Bool.and_eq_true_iff.mp e).2).2⟩

theorem win_idle {s t : State} (k : KeepsRegs idleReg s t) : KeepsRegs winReg s t :=
  ⟨fun a e => k.same a (Bool.and_eq_true_iff.mp (Bool.and_eq_true_iff.mp e).2).1⟩

theorem lossReg_half (h : HalfIx) : lossReg (Reg.BD_LOSS h.val) = false ∧ lossReg (Reg.FH_STATUS h.val) = true ∧
    winReg (Reg.FH_STATUS h.val) = false := by
  revert h
  decide

theorem winReg_channel (c : ChIx) : winReg (Reg.CH_CFG c.val) = true ∧ winReg (Reg.CH_DI c.val) = true := by
  revert c
  decide

/-- Half `h` and its channels are as before, and the registers that a window reads. -/
structure Aside (h : HalfIx) (s t : State) : Prop where
  /-- the half -/
  half : t.half h = s.half h
  /-- its channels -/
  chans : ∀ c ∈ chOf h, t.chan c = s.chan c
  /-- registers -/
  regs : KeepsRegs winReg s t

theorem as_refl {h : HalfIx} (s : State) : Aside h s s := ⟨rfl, fun _ _ => rfl, kr_refl s⟩

theorem as_step {h : HalfIx} {s t u : State} (k : Aside h t u) (i : Aside h s t) : Aside h s u :=
  ⟨k.half.trans i.half, fun c m => (k.chans c m).trans (i.chans c m), kr_step k.regs i.regs⟩

theorem as_foldl {h : HalfIx} {α : Type} {f : State → α → State} {xs : List α} {s : State} (k : ∀ u, ∀ x ∈ xs, Aside h u (f u x)) :
    Aside h s (xs.foldl f s) := by
  induction xs generalizing s with
  | nil => exact as_refl s
  | cons x xs ih => exact as_step (ih fun u y m => k u y (List.mem_cons_of_mem _ m)) (k s x List.mem_cons_self)

theorem as_only {h : HalfIx} {s t : State} (only : OnlyChanges [.regs] s t) (regs : KeepsRegs winReg s t) : Aside h s t :=
  ⟨half_of_halves (only.same .halves (by decide)) h, fun c _ => chan_only only (by decide) c, regs⟩

theorem as_updChan {h : HalfIx} (s : State) (c : ChIx) (f : Chan → Chan) (n : halfOf c ≠ h) : Aside h s (s.updChan c f) :=
  ⟨rfl, fun d m => (chan_updChan s c d f).trans (if_neg fun e : d = c => n (e ▸ halfOf_of_mem d h m)), ⟨fun _ _ => rfl⟩⟩

theorem as_updHalf {h k : HalfIx} (s : State) (f : Half → Half) (n : k ≠ h) : Aside h s (s.updHalf k f) :=
  ⟨(half_updHalf ..).trans (if_neg (Ne.symm n)), fun _ _ => rfl, ⟨fun _ _ => rfl⟩⟩

theorem apart_of_mem {h k : HalfIx} {c : ChIx} (m : c ∈ chOf k) (n : k ≠ h) : halfOf c ≠ h := fun e => n ((halfOf_of_mem c k m).symm.trans e)

/-! ## A window that is lost (R210) -/

/-- What a sample's filter and readback leave of a channel: state, comparator, count and clamp. -/
def Chan.inputs (x : Chan) : Bool × Bool × Nat × Option Nat := (x.state, x.comp, x.filt, x.clampLast)

section
variable (s : State) (h : HalfIx)

theorem loseCh_other (c : ChIx) (w : Win) : OtherChKept c s (s.loseCh c w) := by
  unfold State.loseCh State.takeSmp
  exact (otherCh_updChan _ c _).step ((otherCh_updChan _ c _).step (otherCh_updChan s c _))

theorem loseCh_inputs (c : ChIx) (w : Win) : ((s.loseCh c w).chan c).inputs = (s.chan c).inputs := by
  unfold State.loseCh State.takeSmp
  dsimp only
  rw [chan_updChan_same, chan_updChan_same, chan_updChan_same]
  rfl

theorem loseChs_half (k : HalfIx) (w : Win) : ((chOf h).foldl (fun (s : State) c => s.loseCh c w) s).half k = s.half k :=
  foldl_keeps (p := fun u => u.half k) (f := fun (s : State) c => s.loseCh c w) (fun _ _ => rfl) ..

theorem addLoss_regs (n : Nat) : KeepsRegs lossReg s (s.addF (F.BD_LOSS_SAMPLE_LOST h.val) n) :=
  kr_addF (lossReg_half h).1 (by simp [lossReg, Fld.news]) (kr_refl s)

theorem loseWin_regs (old : Bool) : KeepsRegs lossReg s (s.loseWin h old) := by
  unfold State.loseWin
  split
  · exact kr_refl s
  · refine kr_ite (kr_refl s) (kr_ite ⟨fun _ _ => rfl⟩ (kr_foldl (fun u c => ⟨fun _ _ => rfl⟩) ?_))
    exact kr_step (addLoss_regs _ h 1) ⟨fun _ _ => rfl⟩

theorem loseWin_aside (k : HalfIx) (n : k ≠ h) (old : Bool) : Aside h s (s.loseWin k old) := by
  refine ⟨?_, fun c m => ?_, win_loss (loseWin_regs s k old)⟩
  · unfold State.loseWin
    split
    · rfl
    · split
      · rfl
      · refine Eq.trans ?_ (as_updHalf s (fun x => x.winDone old) n).half
        dsimp only
        split
        · rfl
        · exact (loseChs_half _ k h _).trans (half_addF ..)
  · unfold State.loseWin
    split
    · rfl
    · split
      · rfl
      · dsimp only
        split
        · rfl
        · exact (foldl_keeps_mem (fun u => u.chan c) _ _ fun u d mem => loseCh_other u d _ c fun e =>
            apart_of_mem mem n (e ▸ halfOf_of_mem c h m)).trans (chan_addF ..)

/-- A window that is lost leaves its half but for the mark that it was dealt with, and of its channels what the die has. -/
theorem loseWin_own (old : Bool) : ((s.loseWin h old).half h = s.half h ∨ (s.loseWin h old).half h = (s.half h).winDone old) ∧
    ∀ c, ((s.loseWin h old).chan c).inputs = (s.chan c).inputs := by
  have lost (u : State) (w : Win) : ((chOf h).foldl (fun (s : State) c => s.loseCh c w) u).half h = u.half h ∧
      ∀ c, (((chOf h).foldl (fun (s : State) c => s.loseCh c w) u).chan c).inputs = (u.chan c).inputs := by
    refine ⟨loseChs_half u h h w, fun c => ?_⟩
    refine foldl_keeps (p := fun u => (u.chan c).inputs) (fun v d => ?_) ..
    by_cases own : c = d
    · subst own
      exact loseCh_inputs v c w
    · exact congrArg Chan.inputs (loseCh_other v d w c own)
  have done : ((s.updHalf h fun x => x.winDone old).half h) = (s.half h).winDone old := (half_updHalf ..).trans (if_pos rfl)
  unfold State.loseWin
  split
  · exact ⟨.inl rfl, fun _ => rfl⟩
  · next w _ =>
    split
    · exact ⟨.inl rfl, fun _ => rfl⟩
    · dsimp only
      split
      · exact ⟨.inr done, fun _ => rfl⟩
      · obtain ⟨half, chans⟩ := lost ((s.updHalf h fun x => x.winDone old).addF (F.BD_LOSS_SAMPLE_LOST h.val) 1) w
        exact ⟨.inr (half.trans ((half_addF ..).trans done)), fun c => (chans c).trans (congrArg Chan.inputs (chan_addF ..))⟩

theorem loseWin_win : ((s.loseWin h true).half h).win = (s.half h).win := by
  rcases (loseWin_own s h true).1 with e | e <;> rw [e]
  rfl

end

end Sys2Proof.Machine
end

section
/-!
PROOFS. A field die closes a fast window: samples, filter and readback, and the window it latches (R89, R106, R140, R165, R210).
-/
namespace Sys2Proof.Machine

/-- What the filter and the readback make of a channel at a sample (R89, R106). -/
def State.sensed (s : State) (c : ChIx) (w : WinSample) (t : Nat) : State :=
  let x := w.chans.getD c.val {}
  if s.func c == fDI then s.filterStep c x.io t
  else if s.isSwitch c then s.updChan c fun y => { y with comp := readback y.comp x.io (w.vfield.getD (halfOf c).val 0) }
  else s

section
variable (s : State) (h : HalfIx) (k : Nat) (w : WinSample) (opened t : Nat)

/-- The clamps of a window are noted with its tick (R167). -/
def State.clampNotes : State := (chOf h).foldl (fun (s : State) c =>
  if (w.chans.getD c.val {}).clamp then s.updChan c fun x => { x with clampLast := some t } else s) s

/-- Every channel of a half is sampled. -/
def State.samples : State := (chOf h).foldl (fun (s : State) c => (s.pulseSample c w).sampleDie c w t) s

/-- What a half latches of its channels. -/
def State.latchAll : List ChWin := (chOf h).map fun c => s.latchWin c (w.chans.getD c.val {}) t

/-- What else follows from the samples of a half. -/
def State.sampleRests (ys : List ChWin) : State :=
  ((chOf h).zip ys).foldl (fun (s : State) p => s.sampleRest p.1 w p.2 (p.2.smp (fastWin (w.spares.getD h.val {}))) opened t) s

/-- The state in which a half latches a window. -/
def State.atClose : State := (s.clampNotes h w t).samples h w t

theorem closeWin_eq : s.closeWin h k w opened t =
    (((s.atClose h w t).sampleRests h w opened t ((s.atClose h w t).latchAll h w t)).loseWin h true).updHalf h fun x => { x with
      winOld := x.win
      win := some { swath := s.swath, k := k, opened := opened, closed := t, chans := (s.atClose h w t).latchAll h w t
                    spare := fastWin (w.spares.getD h.val {}), vfield := w.vfield.getD h.val 0 } } := rfl

/-! ## The steps of one channel -/

theorem pulseSample_other (c : ChIx) : OtherChKept c s (s.pulseSample c w) := by
  unfold State.pulseSample
  split
  · exact fun _ _ => rfl
  · exact otherCh_updChan s c _

theorem pulseSample_inputs (c : ChIx) : ((s.pulseSample c w).chan c).inputs = (s.chan c).inputs := by
  unfold State.pulseSample
  split
  · rfl
  · dsimp only
    rw [chan_updChan_same]
    rfl

theorem pulseSample_frame (c : ChIx) : (s.pulseSample c w).regs = s.regs ∧ (s.pulseSample c w).halves = s.halves := by
  unfold State.pulseSample
  split <;> exact ⟨rfl, rfl⟩

theorem sensed_other (c : ChIx) : OtherChKept c s (s.sensed c w t) := by
  unfold State.sensed State.filterStep
  dsimp only
  split
  · exact otherCh_updChan s c _
  · split
    · exact otherCh_updChan s c _
    · exact fun _ _ => rfl

theorem sensed_frame (c : ChIx) : (s.sensed c w t).regs = s.regs ∧ (s.sensed c w t).halves = s.halves := by
  unfold State.sensed
  dsimp only
  split
  · exact ⟨rfl, rfl⟩
  · split <;> exact ⟨rfl, rfl⟩

theorem sampleDie_eq (c : ChIx) : s.sampleDie c w t = (s.sensed c w t).updChan c fun y =>
    { y with limit := y.limit && (w.chans.getD c.val {}).limit, loopLimit := y.loopLimit && (w.chans.getD c.val {}).limit } := rfl

theorem sampleDie_other (c : ChIx) : OtherChKept c s (s.sampleDie c w t) := (otherCh_updChan _ c _).step (sensed_other s w t c)

theorem sampleDie_inputs (c : ChIx) : ((s.sampleDie c w t).chan c).inputs = ((s.sensed c w t).chan c).inputs := by
  rw [sampleDie_eq, chan_updChan_same]
  rfl

theorem sampleRest_other (c : ChIx) (y : ChWin) (m : Smp) : OtherChKept c s (s.sampleRest c w y m opened t) :=
  (otherCh_updChan _ c _).step (otherCh_updChan s c _)

theorem sampleRest_inputs (c : ChIx) (y : ChWin) (m : Smp) : ((s.sampleRest c w y m opened t).chan c).inputs = (s.chan c).inputs := by
  unfold State.sampleRest State.captureSample
  dsimp only
  rw [chan_updChan_same, chan_updChan_same]
  rfl

/-! ## The loops over a half -/

theorem clampNotes_frame : (s.clampNotes h w t).regs = s.regs ∧ (s.clampNotes h w t).halves = s.halves := by
  have step (u : State) (c : ChIx) : (if (w.chans.getD c.val {}).clamp then u.updChan c fun x => { x with clampLast := some t } else u).regs = u.regs ∧
      (if (w.chans.getD c.val {}).clamp then u.updChan c fun x => { x with clampLast := some t } else u).halves = u.halves := by
    split <;> exact ⟨rfl, rfl⟩
  exact ⟨foldl_keeps (p := State.regs) (fun u c => (step u c).1) .., foldl_keeps (p := State.halves) (fun u c => (step u c).2) ..⟩

theorem clampNote_other (c : ChIx) :
    OtherChKept c s (if (w.chans.getD c.val {}).clamp then s.updChan c fun x => { x with clampLast := some t } else s) := by
  split
  · exact otherCh_updChan s c _
  · exact fun _ _ => rfl

theorem clampNotes_chan (c : ChIx) (m : c ∈ chOf h) : (s.clampNotes h w t).chan c =
    if (w.chans.getD c.val {}).clamp then { s.chan c with clampLast := some t } else s.chan c := by
  obtain ⟨u, -, same, out⟩ := foldl_touches (fun u => u.chan c) (fun _ => True) (fun _ _ => id)
    (fun u d n => clampNote_other u w t d c (Ne.symm n)) (chOf h) s (chOf_nodup h) m trivial
  rw [State.clampNotes, out]
  split
  · rw [chan_updChan_same, same]
  · exact same

theorem sample_frame (c : ChIx) : ((s.pulseSample c w).sampleDie c w t).regs = s.regs ∧ ((s.pulseSample c w).sampleDie c w t).halves = s.halves :=
  ⟨(sensed_frame (s.pulseSample c w) w t c).1.trans (pulseSample_frame s w c).1,
    (sensed_frame (s.pulseSample c w) w t c).2.trans (pulseSample_frame s w c).2⟩

theorem atClose_frame : (s.atClose h w t).regs = s.regs ∧ (s.atClose h w t).halves = s.halves := by
  obtain ⟨regs, halves⟩ := clampNotes_frame s h w t
  exact ⟨(foldl_keeps (p := State.regs) (f := fun (s : State) c => (s.pulseSample c w).sampleDie c w t) (fun u c => (sample_frame u w t c).1) ..).trans regs,
    (foldl_keeps (p := State.halves) (f := fun (s : State) c => (s.pulseSample c w).sampleDie c w t) (fun u c => (sample_frame u w t c).2) ..).trans halves⟩

/-- The samples of a half meet each of its channels once, in a state that has its registers, its half and its inputs of the notes. -/
theorem atClose_chan (c : ChIx) (m : c ∈ chOf h) : ∃ v : State, v.regs = s.regs ∧ v.halves = s.halves ∧
    (v.chan c).inputs = ((s.clampNotes h w t).chan c).inputs ∧ ((s.atClose h w t).chan c).inputs = ((v.sensed c w t).chan c).inputs := by
  obtain ⟨regs, halves⟩ := clampNotes_frame s h w t
  obtain ⟨u, ⟨regs', halves'⟩, same, out⟩ := foldl_touches (fun u => u.chan c)
    (fun u => u.regs = (s.clampNotes h w t).regs ∧ u.halves = (s.clampNotes h w t).halves) (f := fun (s : State) c => (s.pulseSample c w).sampleDie c w t)
    (fun u d e => ⟨(sample_frame u w t d).1.trans e.1, (sample_frame u w t d).2.trans e.2⟩)
    (fun u d n => ((sampleDie_other _ w t d).step (pulseSample_other u w d)) c (Ne.symm n)) (chOf h) (s.clampNotes h w t) (chOf_nodup h) m ⟨rfl, rfl⟩
  obtain ⟨pulseRegs, pulseHalves⟩ := pulseSample_frame u w c
  refine ⟨u.pulseSample c w, pulseRegs.trans (regs'.trans regs), pulseHalves.trans (halves'.trans halves),
    (pulseSample_inputs u w c).trans (congrArg Chan.inputs same), ?_⟩
  exact (congrArg Chan.inputs out).trans (sampleDie_inputs _ w t c)

/-! ## The half that closes, and the other -/

theorem sampleRests_frame (ys : List ChWin) : (s.sampleRests h w opened t ys).regs = s.regs ∧ (s.sampleRests h w opened t ys).halves = s.halves :=
  let f : State → ChIx × ChWin → State := fun s p => s.sampleRest p.1 w p.2 (p.2.smp (fastWin (w.spares.getD h.val {}))) opened t
  ⟨foldl_keeps (p := State.regs) (f := f) (fun _ _ => rfl) .., foldl_keeps (p := State.halves) (f := f) (fun _ _ => rfl) ..⟩

theorem sampleRests_inputs (ys : List ChWin) (c : ChIx) : ((s.sampleRests h w opened t ys).chan c).inputs = (s.chan c).inputs := by
  refine foldl_keeps (p := fun u => (u.chan c).inputs) (fun u p => ?_) ..
  by_cases own : c = p.1
  · subst own
    exact sampleRest_inputs ..
  · exact congrArg Chan.inputs (sampleRest_other u w opened t p.1 p.2 _ c own)

theorem closeWin_aside (i : HalfIx) (n : h ≠ i) : Aside i s (s.closeWin h k w opened t) := by
  have notes : Aside i s (s.clampNotes h w t) := as_foldl fun u c m => by
    split
    · exact as_updChan u c _ (apart_of_mem m n)
    · exact as_refl u
  have other {u v : State} {c : ChIx} (m : c ∈ chOf h) (regs : v.regs = u.regs) (halves : v.halves = u.halves) (o : OtherChKept c u v) : Aside i u v :=
    ⟨half_of_halves halves i, fun d md => o d fun e => apart_of_mem m n (e ▸ halfOf_of_mem d i md), (kr_refl u).kept regs⟩
  have samples : Aside i (s.clampNotes h w t) (s.atClose h w t) := as_foldl fun u c m =>
    other m (sample_frame u w t c).1 (sample_frame u w t c).2 ((sampleDie_other _ w t c).step (pulseSample_other u w c))
  have rests : Aside i (s.atClose h w t) ((s.atClose h w t).sampleRests h w opened t ((s.atClose h w t).latchAll h w t)) :=
    as_foldl fun u p m => other (List.of_mem_zip m).1 rfl rfl (sampleRest_other u w opened t p.1 p.2 _)
  rw [closeWin_eq]
  exact as_step (as_updHalf _ _ n) (as_step (loseWin_aside _ i h n true) (as_step rests (as_step samples notes)))

theorem missWin_aside (i : HalfIx) (n : h ≠ i) : Aside i s (s.missWin h k opened t) :=
  as_step (as_updHalf _ _ n) (loseWin_aside s i h n true)

/-- The window of a half without supply stands empty (R210). -/
theorem missWin_own : ((s.missWin h k opened t).half h).winOld = (s.half h).win ∧ ((s.missWin h k opened t).half h).win =
    some { swath := s.swath, k := k, opened := opened, closed := t, chans := [], vfield := 0 } := by
  unfold State.missWin
  dsimp only
  rw [half_updHalf, if_pos rfl]
  exact ⟨loseWin_win s h, rfl⟩

/-! ## What a closed window holds -/

theorem chFld_of {s u : State} {c : ChIx} {f : Fld} (half : u.half (halfOf c) = s.half (halfOf c)) (reg : u.reg f.reg = s.reg f.reg) :
    u.chFld c f = s.chFld c f := by
  unfold State.chFld State.cfgReg
  rw [half, reg]

theorem func_of {s u : State} {c : ChIx} (half : u.half (halfOf c) = s.half (halfOf c)) (reg : u.reg (Reg.CH_CFG c.val) = s.reg (Reg.CH_CFG c.val)) :
    u.func c = s.func c := func_congr (congrArg Half.kept half) reg

/-- One step of the counter filter of a digital input, and the readback of a switch, from `s` to `u` (R89, R106). -/
structure Sensed (s : State) (c : ChIx) (io : Int) (vfield : Nat) (u : State) : Prop where
  /-- the count -/
  filt : s.func c = fDI → (u.chan c).filt =
    (if io > 100 * s.chFld c (F.CH_DI_ON_TH c.val) then min ((s.chan c).filt + 1) (s.chFld c (F.CH_DI_FILT_L c.val))
      else if io < 100 * s.chFld c (F.CH_DI_OFF_TH c.val) then (s.chan c).filt - 1 else (s.chan c).filt)
  /-- the state -/
  state : s.func c = fDI → (u.chan c).state =
    (if (u.chan c).filt = 0 then false else if (u.chan c).filt = s.chFld c (F.CH_DI_FILT_L c.val) then true else (s.chan c).state)
  /-- the readback -/
  comp : s.isSwitch c = true → (u.chan c).comp = (if io * 10 > 6 * vfield then true else if io * 10 < 3 * vfield then false else (s.chan c).comp)

theorem sensed_spec (c : ChIx) : Sensed s c (w.chans.getD c.val {}).io (w.vfield.getD (halfOf c).val 0) (s.sensed c w t) := by
  refine ⟨fun di => ?_, fun di => ?_, fun switch => ?_⟩
  · unfold State.sensed State.filterStep
    simp only [di, beq_self_eq_true, if_true, chan_updChan_same]
  · unfold State.sensed State.filterStep
    simp only [di, beq_self_eq_true, if_true, chan_updChan_same, beq_iff_eq]
  · have notDi : (s.func c == fDI) = false := by
      unfold State.isSwitch at switch
      rcases Bool.or_eq_true_iff.mp switch with e | e <;> rw [eq_of_beq e] <;> rfl
    unfold State.sensed
    simp only [notDi, switch, if_true, Bool.false_eq_true, if_false, chan_updChan_same, readback]

theorem sensed_clampLast (c : ChIx) : ((s.sensed c w t).chan c).clampLast = (s.chan c).clampLast := by
  unfold State.sensed State.filterStep
  dsimp only
  split
  · rw [chan_updChan_same]
  · split
    · rw [chan_updChan_same]
    · rfl

theorem inputs_fields {x y : Chan} (e : x.inputs = y.inputs) : x.state = y.state ∧ x.comp = y.comp ∧ x.filt = y.filt ∧ x.clampLast = y.clampLast := by
  simpa only [Chan.inputs, Prod.mk.injEq] using e

/-- What the sampling reads of a state, and what it leaves in one. -/
theorem Sensed.transfer {s s' u u' : State} {c : ChIx} {io : Int} {vfield : Nat} (i : Sensed s c io vfield u)
    (func : s.func c = s'.func c) (fld : ∀ f : Fld, f.reg = Reg.CH_DI c.val → s.chFld c f = s'.chFld c f)
    (chan : (s.chan c).state = (s'.chan c).state ∧ (s.chan c).comp = (s'.chan c).comp ∧ (s.chan c).filt = (s'.chan c).filt)
    (out : (u'.chan c).inputs = (u.chan c).inputs) : Sensed s' c io vfield u' := by
  obtain ⟨state, comp, filt⟩ := chan
  obtain ⟨state', comp', filt', -⟩ := inputs_fields out
  have switch : s'.isSwitch c = s.isSwitch c := by
    unfold State.isSwitch
    rw [func]
  refine ⟨fun di => ?_, fun di => ?_, fun sw => ?_⟩
  · rw [filt', i.filt (func.trans di), fld (F.CH_DI_ON_TH c.val) rfl, fld (F.CH_DI_OFF_TH c.val) rfl, fld (F.CH_DI_FILT_L c.val) rfl, filt]
  · rw [state', filt', i.state (func.trans di), fld (F.CH_DI_FILT_L c.val) rfl, state]
  · rw [comp', i.comp (switch ▸ sw), comp]

/-- A half has closed a window between `s` and `u` (R89, R106, R140, R165, R210). -/
structure WindowClosed (s : State) (h : HalfIx) (k : Nat) (w : WinSample) (opened closed : Nat) (u : State) : Prop where
  /-- the window -/
  win : ∃ x, (u.half h).win = some x ∧ x.swath = s.swath ∧ x.k = k ∧ x.opened = opened ∧ x.closed = closed ∧ x.taken = false ∧
    x.chans.length = 8 ∧ x.vfield = w.vfield.getD h.val 0 ∧ ∀ c ∈ chOf h, (x.chans.getD (c.val % 8) {}).clamp = (w.chans.getD c.val {}).clamp ∧
      (x.chans.getD (c.val % 8) {}).prim = wireCode 16 (w.chans.getD c.val {}).raw.fast ∧
      (x.chans.getD (c.val % 8) {}).bit0 = (if s.func c = fDI then (u.chan c).state else (u.chan c).comp)
  /-- the one before -/
  old : (u.half h).winOld = (s.half h).win
  /-- the clamps -/
  clamps : ∀ c ∈ chOf h, (w.chans.getD c.val {}).clamp = true → (u.chan c).clampLast = some closed
  /-- filter and readback -/
  sensed : ∀ c ∈ chOf h, Sensed s c (w.chans.getD c.val {}).io (w.vfield.getD h.val 0) u

theorem chOf_getD (c : ChIx) (m : c ∈ chOf h) : (chOf h)[c.val % 8]? = some c := by
  revert h c
  decide

theorem chOf_length : (chOf h).length = 8 := by
  revert h
  decide

theorem closeWin_inputs (c : ChIx) : ((s.closeWin h k w opened t).chan c).inputs = ((s.atClose h w t).chan c).inputs := by
  rw [closeWin_eq, chan_updHalf]
  exact ((loseWin_own _ h true).2 c).trans (sampleRests_inputs _ h w opened t _ c)

theorem closeWin_closed : WindowClosed s h k w opened t (s.closeWin h k w opened t) := by
  obtain ⟨regs, halves⟩ := atClose_frame s h w t
  obtain ⟨noteRegs, noteHalves⟩ := clampNotes_frame s h w t
  have lates : (((s.atClose h w t).sampleRests h w opened t ((s.atClose h w t).latchAll h w t)).half h) = s.half h :=
    half_of_halves ((sampleRests_frame _ h w opened t _).2.trans halves) h
  refine ⟨⟨_, by rw [closeWin_eq, half_updHalf, if_pos rfl], rfl, rfl, rfl, rfl, rfl, ?_, rfl, fun c m => ?_⟩, ?_, fun c m clamp => ?_, fun c m => ?_⟩
  · exact (List.length_map ..).trans (chOf_length h)
  · have latch : ((s.atClose h w t).latchAll h w t).getD (c.val % 8) {} = (s.atClose h w t).latchWin c (w.chans.getD c.val {}) t := by
      unfold State.latchAll
      rw [List.getD_eq_getElem?_getD, List.getElem?_map, chOf_getD h c m]
      rfl
    have func : (s.atClose h w t).func c = s.func c := func_of (half_of_halves halves _) (reg_of_regs regs _)
    obtain ⟨state, comp, -, -⟩ := inputs_fields (closeWin_inputs s h k w opened t c)
    rw [latch, state, comp, ← func]
    refine ⟨rfl, rfl, ?_⟩
    unfold State.latchWin
    simp only [beq_iff_eq]
  · rw [closeWin_eq, half_updHalf, if_pos rfl]
    exact (loseWin_win _ h).trans (congrArg Half.win lates)
  · obtain ⟨v, -, -, same, out⟩ := atClose_chan s h w t c m
    obtain ⟨-, -, -, last⟩ := inputs_fields ((closeWin_inputs s h k w opened t c).trans out)
    obtain ⟨-, -, -, noted⟩ := inputs_fields same
    rw [last, sensed_clampLast, noted, clampNotes_chan s h w t c m, if_pos clamp]
  · obtain ⟨v, regs', halves', same, out⟩ := atClose_chan s h w t c m
    have half : v.half (halfOf c) = s.half (halfOf c) := half_of_halves halves' _
    have spec := sensed_spec v w t c
    rw [halfOf_of_mem c h m] at spec
    obtain ⟨state, comp, filt, -⟩ := inputs_fields same
    have noted {β : Type} (g : Chan → β) (seen : ∀ x : Chan, g { x with clampLast := some t } = g x) :
        g ((s.clampNotes h w t).chan c) = g (s.chan c) := by
      rw [clampNotes_chan s h w t c m]
      split
      · exact seen _
      · rfl
    exact spec.transfer (func_of half (reg_of_regs regs' _)) (fun f _ => chFld_of half (reg_of_regs regs' _))
      ⟨state.trans (noted Chan.state fun _ => rfl), comp.trans (noted Chan.comp fun _ => rfl), filt.trans (noted Chan.filt fun _ => rfl)⟩
      ((closeWin_inputs s h k w opened t c).trans out)

end

end Sys2Proof.Machine
end

section
/-!
PROOFS. The close of a fast window at both halves (R140, R144, R203, R210, R216).
-/
namespace Sys2Proof.Machine

/-! ## What a half takes from before, and leaves until the end -/

section
variable {s t u : State} {h : HalfIx} {k : Nat} {w : WinSample} {opened closed : Nat}

theorem Aside.chan_half (i : Aside h s t) (c : ChIx) (m : c ∈ chOf h) : t.half (halfOf c) = s.half (halfOf c) := by
  rw [halfOf_of_mem c h m]
  exact i.half

theorem WindowClosed.from (i : Aside h s u) (x : WindowClosed u h k w opened closed t) : WindowClosed s h k w opened closed t := by
  have swath : u.swath = s.swath := i.regs.swath (by decide) (by decide)
  have func (c : ChIx) (m : c ∈ chOf h) : u.func c = s.func c := func_of (i.chan_half c m) (i.regs.same _ (winReg_channel c).1)
  obtain ⟨y, win, inSwath, number, start, stop, fresh, eight, field, chans⟩ := x.win
  refine ⟨⟨y, win, inSwath.trans swath, number, start, stop, fresh, eight, field, fun c m => ?_⟩, x.old.trans (congrArg Half.win i.half), x.clamps,
    fun c m => ?_⟩
  · rw [← func c m]
    exact chans c m
  · refine (x.sensed c m).transfer (func c m) (fun f e => chFld_of (i.chan_half c m) (i.regs.same _ (e ▸ (winReg_channel c).2))) ?_ rfl
    rw [i.chans c m]
    exact ⟨rfl, rfl, rfl⟩

theorem WindowClosed.until (x : WindowClosed s h k w opened closed t) (i : Aside h t u) : WindowClosed s h k w opened closed u := by
  obtain ⟨y, win, inSwath, number, start, stop, fresh, eight, field, chans⟩ := x.win
  refine ⟨⟨y, (congrArg Half.win i.half).trans win, inSwath, number, start, stop, fresh, eight, field, fun c m => ?_⟩,
    (congrArg Half.winOld i.half).trans x.old, fun c m clamp => ?_, fun c m => ?_⟩
  · rw [i.chans c m]
    exact chans c m
  · rw [i.chans c m]
    exact x.clamps c m clamp
  · exact (x.sensed c m).transfer rfl (fun _ _ => rfl) ⟨rfl, rfl, rfl⟩ (congrArg Chan.inputs (i.chans c m))

theorem Aside.swLen (i : Aside h s t) : t.swLen = s.swLen := i.regs.fld F.TB_PHASE_LENGTH (by decide)

theorem Aside.dieLen (i : Aside h s t) : t.dieLen h = s.dieLen h := by
  unfold State.dieLen
  rw [i.half, i.swLen]

theorem Aside.places (i : Aside h s t) (k : Nat) : t.winOpens h k = s.winOpens h k ∧ t.winCloses h k = s.winCloses h k := by
  unfold State.winOpens State.winCloses
  rw [i.half, i.dieLen]
  exact ⟨rfl, rfl⟩

end

theorem closeWin_regs (s : State) (h : HalfIx) (k : Nat) (w : WinSample) (opened t : Nat) : KeepsRegs lossReg s (s.closeWin h k w opened t) := by
  rw [closeWin_eq]
  have before : KeepsRegs lossReg s ((s.atClose h w t).sampleRests h w opened t ((s.atClose h w t).latchAll h w t)) :=
    (kr_refl s).kept ((sampleRests_frame _ h w opened t _).1.trans (atClose_frame s h w t).1)
  exact (kr_step (loseWin_regs _ h true) before).kept rfl

/-! ## The loops over the halves -/

section
variable (s : State) (k : Nat) (w : WinSample)

/-- The windows of the halves without supply. -/
def State.missAll (hs : List HalfIx) : State := hs.foldl (fun (s : State) h => s.missWin h k (s.winOpens h k) (s.winCloses h k)) s

/-- The currents of the halves with supply (R209). -/
def State.aggregates (hs : List HalfIx) : State :=
  hs.foldl (fun (s : State) h => s.setF (F.FH_STATUS_AGG_CURRENT h.val) (sat 255 (w.total.getD h.val 0 / 50))) s

/-- The windows of the halves with supply. -/
def State.closeAll (hs : List HalfIx) : State := hs.foldl (fun (s : State) h => s.closeWin h k w (s.winOpens h k) (s.winCloses h k)) s

/-- Their windows while the logic die has no clock. -/
def State.closeAlone (hs : List HalfIx) : State := hs.foldl (fun (s : State) h => s.closeWin h k w s.tick s.tick) s

/-- The status of their channels. -/
def State.syncAll (hs : List HalfIx) : State := hs.foldl (fun (s : State) h => (chOf h).foldl (fun (s : State) c => s.syncChan c) s) s

/-- The halves with supply. -/
def State.supplied : List HalfIx := allHalves.filter fun h => !(s.half h).inReset

/-- The halves in whose swath the window lies. -/
def State.inTime : List HalfIx := allHalves.filter fun h => decide (1 ≤ k) && decide (k ≤ windowsOf (s.dieLen h))

/-- The tick of the window by the logic die's count. -/
def State.windowTick : State := s.elapse (s.btick + if k < windowsOf s.swLen then 960 * k else s.swLen)

theorem exec_fastWindow_alone (off : s.env.pll = false) : exec (.fastWindowClose k w) s = .next (s.closeAlone k w s.supplied) := by
  change execFastWindowClose k w s = _
  unfold execFastWindowClose
  rw [off]
  rfl

theorem exec_fastWindow_none (on : s.env.pll = true) (none : s.inTime k = []) : exec (.fastWindowClose k w) s = .next s := by
  change execFastWindowClose k w s = _
  unfold execFastWindowClose
  rw [on, show allHalves.filter _ = s.inTime k from rfl, none]
  rfl

theorem exec_fastWindow (on : s.env.pll = true) (some : s.inTime k ≠ []) :
    exec (.fastWindowClose k w) s = .next ((((((s.windowTick k).missAll k ((s.inTime k).filter fun h => ((s.windowTick k).half h).inReset)).aggregates w
      (s.supplied.filter fun h => (s.inTime k).contains h)).closeAll k w (s.supplied.filter fun h => (s.inTime k).contains h)).syncAll
        (s.supplied.filter fun h => (s.inTime k).contains h))) := by
  have busy : (s.inTime k).isEmpty = false := by simpa using some
  change execFastWindowClose k w s = _
  unfold execFastWindowClose
  rw [on]
  dsimp only
  rw [if_neg (by decide), if_neg (by rw [show allHalves.filter _ = s.inTime k from rfl, busy]; decide)]
  rfl

end

end Sys2Proof.Machine
end

section
/-!
PROOFS. O33, the close of a fast window: what each half shows when both have closed it (R140, R144, R203, R209, R210).
-/
namespace Sys2Proof.Machine

section
variable {s : State} {h : HalfIx} {k : Nat} {w : WinSample}

/-! ## The halves of each loop -/

theorem mem_supplied : h ∈ s.supplied ↔ (s.half h).inReset = false := by
  simp [State.supplied, show h ∈ allHalves by revert h; decide]

theorem mem_inTime : h ∈ s.inTime k ↔ 1 ≤ k ∧ k ≤ windowsOf (s.dieLen h) := by
  simp [State.inTime, show h ∈ allHalves by revert h; decide]

theorem allHalves_nodup : allHalves.Nodup := by decide

/-! ## Each loop, seen from one half -/

theorem windowTick_half (k : Nat) (j : HalfIx) : (s.windowTick k).half j = s.half j := half_of_halves (elapse_halves s _) j

theorem windowTick_aside : Aside h s (s.windowTick k) := as_only (State.elapse_only ..) (win_idle (elapse_idle s _))

theorem missAll_aside {hs : List HalfIx} (out : h ∉ hs) : Aside h s (s.missAll k hs) :=
  (foldl_once as_refl as_step (fun u x n => missWin_aside u x k _ _ h n) hs s).1 out

theorem missAll_own {hs : List HalfIx} (nodup : hs.Nodup) (mem : h ∈ hs) : ((s.missAll k hs).half h).winOld = (s.half h).win ∧
    ((s.missAll k hs).half h).win =
      some { swath := s.swath, k := k, opened := s.winOpens h k, closed := s.winCloses h k, chans := [], vfield := 0 } := by
  obtain ⟨u, before, after⟩ := (foldl_once as_refl as_step (fun u x n => missWin_aside u x k _ _ h n) hs s).2 nodup mem
  obtain ⟨old, win⟩ := missWin_own u h k (u.winOpens h k) (u.winCloses h k)
  obtain ⟨opens, closes⟩ := before.places k
  rw [← before.half, ← opens, ← closes, ← before.regs.swath (by decide) (by decide)]
  exact ⟨(congrArg Half.winOld after.half).trans old, (congrArg Half.win after.half).trans win⟩

theorem aggregates_aside {hs : List HalfIx} : Aside h s (s.aggregates w hs) :=
  as_foldl fun u x _ => as_only (State.setF_only ..) (kr_setF (lossReg_half x).2.2 (kr_refl u))

theorem closeAll_aside {hs : List HalfIx} (out : h ∉ hs) : Aside h s (s.closeAll k w hs) :=
  (foldl_once as_refl as_step (f := fun (s : State) h => s.closeWin h k w (s.winOpens h k) (s.winCloses h k)) 
    (fun u x n => closeWin_aside u x k w _ _ h n) hs s).1 out

theorem closeAll_closed {hs : List HalfIx} (nodup : hs.Nodup) (mem : h ∈ hs) :
    WindowClosed s h k w (s.winOpens h k) (s.winCloses h k) (s.closeAll k w hs) := by
  obtain ⟨u, before, after⟩ := (foldl_once as_refl as_step (f := fun (s : State) h => s.closeWin h k w (s.winOpens h k) (s.winCloses h k)) 
    (fun u x n => closeWin_aside u x k w _ _ h n) hs s).2 nodup mem
  obtain ⟨opens, closes⟩ := before.places k
  rw [← opens, ← closes]
  exact ((closeWin_closed u h k w _ _).from before).until after

theorem syncAll_aside {hs : List HalfIx} : Aside h s (s.syncAll hs) :=
  as_foldl fun _ _ _ => as_foldl fun v c _ => as_only (State.syncChan_only v c) (win_stands (stands_of_keep (fo_syncChan v c).regs))

/-! ## The currents (R209) -/

theorem agg_apart (x : HalfIx) (n : x ≠ h) : Reg.FH_STATUS h.val ≠ Reg.FH_STATUS x.val := by
  revert h x
  decide

theorem agg_other (u : State) (x : HalfIx) (v : Nat) (n : x ≠ h) :
    (u.setF (F.FH_STATUS_AGG_CURRENT x.val) v).fld (F.FH_STATUS_AGG_CURRENT h.val) = u.fld (F.FH_STATUS_AGG_CURRENT h.val) :=
  State.fld_setReg_ne u (Reg.FH_STATUS x.val) _ (F.FH_STATUS_AGG_CURRENT h.val) (agg_apart x n)

theorem agg_own (u : State) (v : Nat) : (u.setF (F.FH_STATUS_AGG_CURRENT h.val) (sat 255 v)).fld (F.FH_STATUS_AGG_CURRENT h.val) = min 255 v := by
  have small : sat 255 v < 256 := Nat.lt_of_le_of_lt (Nat.min_le_right ..) (by decide)
  have shown : (u.setF (F.FH_STATUS_AGG_CURRENT h.val) (sat 255 v)).fld (F.FH_STATUS_AGG_CURRENT h.val) = sat 255 v % 256 :=
    State.fld_setF_same u (F.FH_STATUS_AGG_CURRENT h.val) _ (by decide : (0 : Nat) ≤ 7) (by decide : (7 : Nat) < 32)
  rw [shown, Nat.mod_eq_of_lt small, sat, Nat.min_comm]

theorem aggregates_shown {hs : List HalfIx} (nodup : hs.Nodup) (mem : h ∈ hs) :
    (s.aggregates w hs).fld (F.FH_STATUS_AGG_CURRENT h.val) = min 255 (w.total.getD h.val 0 / 50) := by
  obtain ⟨u, -, -, out⟩ := foldl_touches (fun (u : State) => u.fld (F.FH_STATUS_AGG_CURRENT h.val)) (fun _ => True) (fun _ _ => id)
    (f := fun (s : State) (h : HalfIx) => s.setF (F.FH_STATUS_AGG_CURRENT h.val) (sat 255 (w.total.getD h.val 0 / 50)))
    (fun u x n => agg_other u x _ n) hs s nodup mem trivial
  unfold State.aggregates
  rw [out, agg_own]

theorem syncAll_currents {hs : List HalfIx} : (s.syncAll hs).fld (F.FH_STATUS_AGG_CURRENT h.val) = s.fld (F.FH_STATUS_AGG_CURRENT h.val) := by
  have apart (c : ChIx) : Reg.FH_STATUS h.val ≠ Reg.CH_STATUS c.val ∧ Reg.FH_STATUS h.val ≠ Reg.CH_FLAGS c.val ∧ Reg.FH_STATUS h.val ≠ Reg.THR_NOW c.val := by
    revert h c
    decide
  refine fld_of_reg (F.FH_STATUS_AGG_CURRENT h.val) ?_
  refine foldl_keeps (p := fun u => u.reg (Reg.FH_STATUS h.val)) (fun u j => ?_) ..
  exact foldl_keeps (p := fun u => u.reg (Reg.FH_STATUS h.val)) (fun v c => reg_syncChan_ne v c _ (apart c).1 (apart c).2.1 (apart c).2.2) ..

theorem closeAll_currents {hs : List HalfIx} : (s.closeAll k w hs).fld (F.FH_STATUS_AGG_CURRENT h.val) = s.fld (F.FH_STATUS_AGG_CURRENT h.val) :=
  KeepsRegs.fld (kr_foldl (K := lossReg) (f := fun (s : State) h => s.closeWin h k w (s.winOpens h k) (s.winCloses h k))
    (fun u x => closeWin_regs u x k w _ _) (kr_refl s)) (F.FH_STATUS_AGG_CURRENT h.val) (lossReg_half h).2.1

/-! ## While the logic die has no clock (R144, R216) -/

theorem closeAlone_closed {hs : List HalfIx} (nodup : hs.Nodup) (mem : h ∈ hs) : WindowClosed s h k w s.tick s.tick (s.closeAlone k w hs) := by
  obtain ⟨u, ⟨before, regs⟩, after, -⟩ := (foldl_once (R := fun s t => Aside h s t ∧ KeepsRegs lossReg s t) (fun s => ⟨as_refl s, kr_refl s⟩)
    (fun k i => ⟨as_step k.1 i.1, kr_step k.2 i.2⟩) (fun u x n => ⟨closeWin_aside u x k w _ _ h n, closeWin_regs u x k w _ _⟩) hs s).2 nodup mem
  have tick : u.tick = s.tick := regs.pairReg (by decide) (by decide)
  have closed := closeWin_closed u h k w u.tick u.tick
  rw [tick] at closed
  exact (closed.from before).until (tick ▸ after)

end

/-! ## The window closed at both halves -/

section
variable (s : State) (k : Nat) (w : WinSample)

/-- The halves whose dies close window `k`. -/
def State.closing : List HalfIx := s.supplied.filter fun h => (s.inTime k).contains h

/-- The halves whose window `k` stands empty. -/
def State.missing : List HalfIx := (s.inTime k).filter fun h => ((s.windowTick k).half h).inReset

/-- The state when window `k` has closed at both halves. -/
def State.windowShut : State :=
  ((((s.windowTick k).missAll k (s.missing k)).aggregates w (s.closing k)).closeAll k w (s.closing k)).syncAll (s.closing k)

variable {s k w} {h : HalfIx}

theorem mem_closing : h ∈ s.closing k ↔ (s.half h).inReset = false ∧ 1 ≤ k ∧ k ≤ windowsOf (s.dieLen h) := by
  simp only [State.closing, List.mem_filter, mem_supplied, List.contains_iff_mem, mem_inTime]

theorem mem_missing : h ∈ s.missing k ↔ (1 ≤ k ∧ k ≤ windowsOf (s.dieLen h)) ∧ (s.half h).inReset = true := by
  simp only [State.missing, List.mem_filter, mem_inTime, windowTick_half]

theorem closing_nodup : (s.closing k).Nodup ∧ (s.missing k).Nodup :=
  ⟨(allHalves_nodup.filter _).filter _, (allHalves_nodup.filter _).filter _⟩

/-- A half that closes nothing passes the loops that close windows. -/
theorem windowShut_from_missed (out : h ∉ s.closing k) : Aside h ((s.windowTick k).missAll k (s.missing k)) (s.windowShut k w) :=
  as_step syncAll_aside (as_step (closeAll_aside out) aggregates_aside)

theorem windowShut_aside (out : ¬(1 ≤ k ∧ k ≤ windowsOf (s.dieLen h))) : Aside h s (s.windowShut k w) :=
  as_step (windowShut_from_missed fun m => out (mem_closing.mp m).2)
    (as_step (missAll_aside fun m => out (mem_missing.mp m).1) windowTick_aside)

theorem windowShut_missed (inTime : 1 ≤ k ∧ k ≤ windowsOf (s.dieLen h)) (off : (s.half h).inReset = true) :
    ((s.windowShut k w).half h).winOld = (s.half h).win ∧ ((s.windowShut k w).half h).win =
      some { swath := s.swath, k := k, opened := s.winOpens h k, closed := s.winCloses h k, chans := [], vfield := 0 } := by
  have tick : Aside h s (s.windowTick k) := windowTick_aside
  obtain ⟨old, win⟩ := missAll_own (s := s.windowTick k) (k := k) closing_nodup.2 (mem_missing.mpr ⟨inTime, off⟩)
  obtain ⟨opens, closes⟩ := tick.places k
  have after : Aside h _ (s.windowShut k w) := windowShut_from_missed fun m =>
    Bool.false_ne_true ((mem_closing.mp m).1.symm.trans off)
  rw [opens, closes, tick.regs.swath (by decide) (by decide)] at win
  exact ⟨(congrArg Half.winOld after.half).trans (old.trans (congrArg Half.win tick.half)), (congrArg Half.win after.half).trans win⟩

theorem windowShut_closed (inTime : 1 ≤ k ∧ k ≤ windowsOf (s.dieLen h)) (on : (s.half h).inReset = false) :
    WindowClosed s h k w (s.winOpens h k) (s.winCloses h k) (s.windowShut k w) ∧
      (s.windowShut k w).fld (F.FH_STATUS_AGG_CURRENT h.val) = min 255 (w.total.getD h.val 0 / 50) := by
  have closing : h ∈ s.closing k := mem_closing.mpr ⟨on, inTime⟩
  have missed : h ∉ s.missing k := fun m => Bool.false_ne_true (on.symm.trans (mem_missing.mp m).2)
  have before : Aside h s (((s.windowTick k).missAll k (s.missing k)).aggregates w (s.closing k)) :=
    as_step aggregates_aside (as_step (missAll_aside missed) windowTick_aside)
  refine ⟨?_, syncAll_currents.trans (closeAll_currents.trans (aggregates_shown closing_nodup.1 closing))⟩
  obtain ⟨opens, closes⟩ := before.places k
  have closed := closeAll_closed (s := ((s.windowTick k).missAll k (s.missing k)).aggregates w (s.closing k)) (k := k) (w := w) closing_nodup.1 closing
  rw [opens, closes] at closed
  exact (closed.from before).until syncAll_aside

theorem windowShut_only : OnlyChanges [.regs, .chans, .halves] s (s.windowShut k w) := by
  have miss (u : State) : OnlyChanges [.regs, .chans, .halves] u (u.missAll k (s.missing k)) :=
    only_foldl (fun v _ => State.missWin_only v _ _ _ _) (only_refl _ u)
  have currents (u : State) : OnlyChanges [.regs, .chans, .halves] u (u.aggregates w (s.closing k)) :=
    only_foldl (fun v _ => only_mono (State.setF_only v _ _) (by decide)) (only_refl _ u)
  have close (u : State) : OnlyChanges [.regs, .chans, .halves] u (u.closeAll k w (s.closing k)) :=
    only_foldl (fun v _ => State.closeWin_only v _ _ _ _ _) (only_refl _ u)
  have sync (u : State) : OnlyChanges [.regs, .chans, .halves] u (u.syncAll (s.closing k)) :=
    only_foldl (fun v _ => only_foldl (fun x c => only_mono (State.syncChan_only x c) (by decide)) (only_refl _ v)) (only_refl _ u)
  have tick : OnlyChanges [.regs, .chans, .halves] s (s.windowTick k) := only_mono (State.elapse_only s _) (by decide)
  exact only_trans tick (only_trans (miss _) (only_trans (currents _) (only_trans (close _) (sync _))))

/-! ## The statement -/

/-- What a half shows that has closed a window, as the statement says it. -/
theorem WindowClosed.shown {opened closed : Nat} {t : State} (x : WindowClosed s h k w opened closed t) :
    (∃ x, (t.half h).win = some x ∧ x.swath = s.swath ∧ x.k = k ∧ x.opened = opened ∧ x.closed = closed ∧
      x.taken = false ∧ x.chans.length = 8 ∧ x.vfield = w.vfield.getD h.val 0 ∧
      ∀ c ∈ chOf h, (x.chans.getD (c.val % 8) {}).clamp = (w.chans.getD c.val {}).clamp ∧
        (x.chans.getD (c.val % 8) {}).prim = wireCode 16 (w.chans.getD c.val {}).raw.fast ∧
        (x.chans.getD (c.val % 8) {}).bit0 = (if s.func c = fDI then (t.chan c).state else (t.chan c).comp)) ∧
    (t.half h).winOld = (s.half h).win ∧
    ∀ c ∈ chOf h, ((w.chans.getD c.val {}).clamp = true → (t.chan c).clampLast = some closed) ∧
      (∀ v : Int, v = (w.chans.getD c.val {}).io → s.func c = fDI →
        (t.chan c).filt =
          (if v > 100 * s.chFld c (F.CH_DI_ON_TH c.val) then min ((s.chan c).filt + 1) (s.chFld c (F.CH_DI_FILT_L c.val))
            else if v < 100 * s.chFld c (F.CH_DI_OFF_TH c.val) then (s.chan c).filt - 1 else (s.chan c).filt) ∧
        (t.chan c).state =
          (if (t.chan c).filt = 0 then false
            else if (t.chan c).filt = s.chFld c (F.CH_DI_FILT_L c.val) then true else (s.chan c).state)) ∧
      (∀ v : Int, v = (w.chans.getD c.val {}).io → s.isSwitch c = true →
        (t.chan c).comp = (if v * 10 > 6 * (w.vfield.getD h.val 0) then true
          else if v * 10 < 3 * (w.vfield.getD h.val 0) then false else (s.chan c).comp)) := by
  refine ⟨x.win, x.old, fun c m => ⟨x.clamps c m, ?_, ?_⟩⟩
  · rintro v rfl di
    exact ⟨(x.sensed c m).filt di, (x.sensed c m).state di⟩
  · rintro v rfl switch
    exact (x.sensed c m).comp switch

theorem fastWindow_alone (off : s.env.pll = false) : DoesOnly [.regs, .chans, .halves] (.fastWindowClose k w) s fun t =>
    ∀ h, (s.half h).inReset = false → WindowClosed s h k w s.tick s.tick t :=
  ⟨_, exec_fastWindow_alone s k w off, only_foldl (fun u _ => State.closeWin_only u _ _ _ _ _) (only_refl _ _),
    fun _ on => closeAlone_closed (allHalves_nodup.filter _) (mem_supplied.mpr on)⟩

theorem fastWindow_shut (on : s.env.pll = true) : DoesOnly [.regs, .chans, .halves] (.fastWindowClose k w) s fun t =>
    (∀ h, ¬(1 ≤ k ∧ k ≤ windowsOf (s.dieLen h)) → t.half h = s.half h ∧ ∀ c ∈ chOf h, t.chan c = s.chan c) ∧
    ∀ h, 1 ≤ k ∧ k ≤ windowsOf (s.dieLen h) →
      ((s.half h).inReset = true → (t.half h).winOld = (s.half h).win ∧ (t.half h).win =
        some { swath := s.swath, k := k, opened := s.winOpens h k, closed := s.winCloses h k, chans := [], vfield := 0 }) ∧
      ((s.half h).inReset = false → WindowClosed s h k w (s.winOpens h k) (s.winCloses h k) t ∧
        t.fld (F.FH_STATUS_AGG_CURRENT h.val) = min 255 (w.total.getD h.val 0 / 50)) := by
  by_cases none : s.inTime k = []
  · refine ⟨s, exec_fastWindow_none s k w on none, only_refl _ s, fun _ _ => ⟨rfl, fun _ _ => rfl⟩, fun h inTime => ?_⟩
    exact absurd (none ▸ mem_inTime.mpr inTime) List.not_mem_nil
  · exact ⟨_, exec_fastWindow s k w on none, windowShut_only, fun h out => ⟨(windowShut_aside out).half, (windowShut_aside out).chans⟩,
      fun h inTime => ⟨windowShut_missed inTime, windowShut_closed inTime⟩⟩

end

end Sys2Proof.Machine
end

section
/-!
PROOFS. O33, the first part of the statement: a fast window closes (R83, R89, R106, R140, R203, R209, R210).
-/
namespace Sys2Proof.Machine

section
variable {s : State} {k : Nat} {w : WinSample} {len opened closed : HalfIx → Nat}

theorem len_dieLen (length : ∀ h, len h = if (s.half h).dnLen = 0 then s.swLen else (s.half h).dnLen) : len = s.dieLen := by
  funext h
  rw [length h, State.dieLen]
  simp only [beq_iff_eq]

/-- The places of a window by the die's own count (R140, R203). -/
theorem places_of_count (at_ : ∀ h, opened h = (s.half h).dieAt + 960 * (k - 1) ∧
      closed h = (s.half h).dieAt + (if k < windowsOf (s.dieLen h) then 960 * k else s.dieLen h)) (h : HalfIx) :
    opened h = s.winOpens h k ∧ closed h = s.winCloses h k := at_ h

theorem out_of_range {n : Nat} (out : k = 0 ∨ n < k) : ¬(1 ≤ k ∧ k ≤ n) := by omega

/-- A fast window closes at both halves. -/
theorem fastWindow_closes (length : ∀ h, len h = if (s.half h).dnLen = 0 then s.swLen else (s.half h).dnLen)
    (at_ : s.env.pll = false ∧ (∀ h, opened h = s.tick ∧ closed h = s.tick) ∨
      s.env.pll = true ∧ ∀ h, opened h = (s.half h).dieAt + 960 * (k - 1) ∧
        closed h = (s.half h).dieAt + (if k < windowsOf (len h) then 960 * k else len h)) :
    DoesOnly [.regs, .chans, .halves] (.fastWindowClose k w) s fun t =>
      (∀ h : HalfIx, s.env.pll = true → k = 0 ∨ windowsOf (len h) < k → t.half h = s.half h ∧ ∀ c ∈ chOf h, t.chan c = s.chan c) ∧
      (∀ h : HalfIx, (s.half h).inReset = true → s.env.pll = true → 1 ≤ k → k ≤ windowsOf (len h) →
        (t.half h).winOld = (s.half h).win ∧ (t.half h).win =
          some { swath := s.swath, k := k, opened := opened h, closed := closed h, chans := [], vfield := 0 }) ∧
      ∀ h : HalfIx, (s.half h).inReset = false → (s.env.pll = true → 1 ≤ k ∧ k ≤ windowsOf (len h)) →
        (s.env.pll = true → t.fld (F.FH_STATUS_AGG_CURRENT h.val) = min 255 (w.total.getD h.val 0 / 50)) ∧
        WindowClosed s h k w (opened h) (closed h) t := by
  cases len_dieLen length
  rcases at_ with ⟨off, ticks⟩ | ⟨on, places⟩
  · have no {p : Prop} (e : s.env.pll = true) : p := absurd (off.symm.trans e) Bool.false_ne_true
    obtain ⟨t, runs, only, shut⟩ := fastWindow_alone (k := k) (w := w) off
    refine ⟨t, runs, only, fun _ e => no e, fun _ _ e => no e, fun h supplied _ => ⟨no, ?_⟩⟩
    rw [(ticks h).1, (ticks h).2]
    exact shut h supplied
  · obtain ⟨t, runs, only, out, shut⟩ := fastWindow_shut (k := k) (w := w) on
    refine ⟨t, runs, only, fun h _ e => out h (out_of_range e), fun h off _ low high => ?_, fun h supplied inTime => ?_⟩
    · rw [(places_of_count places h).1, (places_of_count places h).2]
      exact (shut h ⟨low, high⟩).1 off
    · rw [(places_of_count places h).1, (places_of_count places h).2]
      obtain ⟨shown, currents⟩ := (shut h (inTime on)).2 supplied
      exact ⟨fun _ => currents, shown⟩

theorem fastWindow_none (on : s.env.pll = true) (out : ∀ h, k = 0 ∨ windowsOf (s.dieLen h) < k) :
    Does (.fastWindowClose k w) s fun t => t = s := by
  refine ⟨s, exec_fastWindow_none s k w on ?_, rfl⟩
  exact List.eq_nil_iff_forall_not_mem.mpr fun h m => out_of_range (out h) (mem_inTime.mp m)

end

end Sys2Proof.Machine
end

section
/-!
PROOFS. O33, the second part of the statement: the first valid frame that carries a window gives the logic die its samples (R157, R166, R210).
-/
namespace Sys2Proof.Machine

/-! ## Steps that leave what a channel's sample shows -/

/-- Of a channel: the samples counted, the last one, and whether a clamp's episode runs. -/
def Chan.gauge (x : Chan) : Nat × Smp × Bool := (x.fCount, x.smp, x.clampEp)

/-- A write of the field bears neither on the clamp shown for channel `c` nor on the count of swaths. -/
def harmless (c : ChIx) (f : Fld) : Bool :=
  decide (f.lo ≤ f.hi) && decide (f.hi < 32) && f.reg != Reg.TB_SWATH_LO && f.reg != Reg.TB_SWATH_HI &&
    (f.reg != Reg.THR_NOW c.val || decide (f.hi < 2) || decide (2 < f.lo))

/-- The samples of channel `c`, its clamp as shown, the swath and what was told stand. -/
structure Sampling (c : ChIx) (s t : State) : Prop where
  /-- the samples -/
  gauge : (t.chan c).gauge = (s.chan c).gauge
  /-- the clamp shown -/
  clamp : t.flag (F.THR_NOW_CLAMP c.val) = s.flag (F.THR_NOW_CLAMP c.val)
  /-- the swath -/
  swath : t.swath = s.swath
  /-- what was told -/
  told : ∀ {n src kind addr}, Told n src kind addr s → Told n src kind addr t

section
variable {c d : ChIx} {s t u : State}

theorem sm_refl (s : State) : Sampling c s s := ⟨rfl, rfl, rfl, id⟩

theorem sm_step (k : Sampling c t u) (h : Sampling c s t) : Sampling c s u :=
  ⟨k.gauge.trans h.gauge, k.clamp.trans h.clamp, k.swath.trans h.swath, fun e => k.told (h.told e)⟩

theorem sm_ite {p : Prop} [Decidable p] (h : Sampling c s t) (k : Sampling c s u) : Sampling c s (if p then t else u) := by
  split <;> assumption

theorem sm_whenB {b : Bool} {f : State → State} (h : Sampling c s (f s)) : Sampling c s (s.whenB b f) := sm_ite h (sm_refl s)

theorem sm_setF (s : State) (f : Fld) (v : Nat) (q : harmless c f = true) : Sampling c s (s.setF f v) := by
  simp only [harmless, Bool.and_eq_true, Bool.or_eq_true, bne_iff_ne, decide_eq_true_eq] at q
  obtain ⟨⟨⟨⟨order, top⟩, lo⟩, hi⟩, apart⟩ := q
  refine ⟨rfl, congrArg (· != 0) (State.fld_setF_ne s f (F.THR_NOW_CLAMP c.val) v order top (by decide : (2 : Nat) ≤ 2) ?_), ?_,
    told_only (State.setF_only s f v) (by decide) (by decide)⟩
  · rcases apart with (apart | apart) | apart
    · exact .inl (Ne.symm apart)
    · exact .inr (.inr apart)
    · exact .inr (.inl apart)
  · unfold State.swath State.pairReg
    rw [State.reg_setF_ne _ _ _ _ (Ne.symm lo), State.reg_setF_ne _ _ _ _ (Ne.symm hi)]

theorem sm_setB (s : State) (f : Fld) (b : Bool) (q : harmless c f = true) : Sampling c s (s.setB f b) := sm_setF s f _ q

theorem sm_updChan (s : State) (d : ChIx) (f : Chan → Chan) (q : d = c → (f (s.chan c)).gauge = (s.chan c).gauge) :
    Sampling c s (s.updChan d f) := by
  refine ⟨?_, rfl, rfl, told_only (State.updChan_only s d f) (by decide) (by decide)⟩
  rw [chan_updChan]
  split
  · next e => subst e; exact q rfl
  · rfl

theorem sm_raise (s : State) (src kind addr : Nat) : Sampling c s (s.raise src kind addr) := by
  have apart : faultReg (Reg.THR_NOW c.val) = false := by
    revert c
    decide
  have regs := (fr_raise s src kind addr).same
  refine ⟨congrArg Chan.gauge (chan_raise s src kind addr c), ?_, ?_, told_keep⟩
  · unfold State.flag
    exact congrArg (· != 0) (fld_of_reg (F.THR_NOW_CLAMP c.val) (regs _ apart))
  · unfold State.swath State.pairReg
    rw [regs _ (by decide), regs _ (by decide)]

theorem sm_thrFlag (s : State) (d : ChIx) (f : Fld) (q : harmless c f = true) : Sampling c s (s.thrFlag d f) :=
  sm_step (sm_updChan _ d _ fun e => by subst e; rfl) (sm_setB s f true q)

/-! ## The fields that a sample writes -/

theorem harmless_sample (c d : ChIx) : harmless c (F.THR_NOW_OVR d.val) = true ∧ harmless c (F.THR_NOW_UNDR d.val) = true ∧
    harmless c (F.THR_NOW_NEIGHBOUR d.val) = true ∧ harmless c (F.THR_FLAGS_OVR_SEEN d.val) = true ∧ harmless c (F.THR_FLAGS_UNDR_SEEN d.val) = true ∧
    harmless c (F.THR_FLAGS_NEIGHBOUR_SEEN d.val) = true ∧ harmless c (F.THR_FLAGS_CLAMP_SEEN d.val) = true := by
  revert c d
  decide

theorem harmless_half (c : ChIx) (h : HalfIx) : harmless c (F.THR_HSTAT_CLAMPS h.val) = true := by
  revert c h
  decide

theorem harmless_status (c d : ChIx) : harmless c (F.CH_STATUS_STATE d.val) = true ∧ harmless c (F.CH_STATUS_ALM_HIGH d.val) = true ∧
    harmless c (F.CH_STATUS_ATTEMPT d.val) = true ∧ harmless c (F.CH_FLAGS_LATCHED d.val) = true ∧ harmless c (F.THR_NOW_SHUNT_OPEN d.val) = true := by
  revert c d
  decide

theorem harmless_clamp (n : d ≠ c) : harmless c (F.THR_NOW_CLAMP d.val) = true := by
  revert c d
  decide

/-! ## The steps of a sample -/

theorem sm_rangeSample (s : State) (d : ChIx) (q : Nat) : Sampling c s (s.rangeSample d q) := by
  obtain ⟨ovr, undr, -, ovrSeen, undrSeen, -⟩ := harmless_sample c d
  have raised (u : State) : Sampling c u (if q.testBit qOVR || q.testBit qUNDR then
      (if !(u.chan d).ovrEp then (u.updChan d fun x => { x with ovrEp := true, ovrSeen := true }).raise (srcTHR (halfOf d).val) kThrOverrange
        (faultAddr 63 d.val) else u.updChan d fun x => { x with ovrEp := true, ovrSeen := true }) else u) := by
    have ep : Sampling c u (u.updChan d fun x => { x with ovrEp := true, ovrSeen := true }) := sm_updChan u d _ fun _ => rfl
    exact sm_ite (sm_ite (sm_step (sm_raise ..) ep) ep) (sm_refl u)
  have bits := sm_step (sm_setB (s.setB (F.THR_NOW_OVR d.val) (q.testBit qOVR)) (F.THR_NOW_UNDR d.val) (q.testBit qUNDR) undr) (sm_setB s _ _ ovr)
  exact sm_step (raised _) (sm_step (sm_whenB (sm_thrFlag _ d _ undrSeen)) (sm_step (sm_whenB (sm_thrFlag _ d _ ovrSeen)) bits))

theorem sm_syncChan (s : State) (d : ChIx) : Sampling c s (s.syncChan d) := by
  obtain ⟨state, alm, attempt, latched, shunt⟩ := harmless_status c d
  have early (w : Nat) (x : Bool) (y : Nat) (z : Bool) : Sampling c s ((((s.setF (F.CH_STATUS_STATE d.val) w).setB (F.CH_STATUS_ALM_HIGH d.val) x).setF
      (F.CH_STATUS_ATTEMPT d.val) y).setB (F.CH_FLAGS_LATCHED d.val) z) :=
    sm_step (sm_setB _ _ _ latched) (sm_step (sm_setF _ _ _ attempt) (sm_step (sm_setB _ _ _ alm) (sm_setF _ _ _ state)))
  unfold State.syncChan State.whenB
  exact sm_ite (sm_step (sm_setB _ _ _ shunt) (early ..)) (early ..)

/-- What a sample notes of its channel but the clamp: its neighbours and its range. -/
def State.noted (s : State) (c : ChIx) (w : Win) : State :=
  let y := w.chans.getD (c.val % 8) {}
  let s := s.setB (F.THR_NOW_NEIGHBOUR c.val) y.nbr
  let s := s.whenB y.nbr fun s => s.thrFlag c (F.THR_FLAGS_NEIGHBOUR_SEEN c.val)
  s.rangeSample c (y.smp w.spare).qual

theorem sm_noted (s : State) (d : ChIx) (w : Win) : Sampling c s (s.noted d w) := by
  obtain ⟨-, -, nbr, -, -, seen, -⟩ := harmless_sample c d
  unfold State.noted State.whenB
  exact sm_step (sm_rangeSample ..) (sm_step (sm_ite (sm_thrFlag _ d _ seen) (sm_refl _)) (sm_setB s _ _ nbr))

theorem takeCh_eq (s : State) (c : ChIx) (w : Win) : s.takeCh c w =
    (((s.clampSample c (w.chans.getD (c.val % 8) {}).clamp).noted c w).takeSmp c ((w.chans.getD (c.val % 8) {}).smp w.spare) w.closed).syncChan c := rfl

/-- The clamps of its half as a channel's is put among them. -/
def State.clampsWith (s : State) (c : ChIx) (clamp : Bool) : Nat :=
  let bits := s.fld (F.THR_HSTAT_CLAMPS (halfOf c).val)
  if clamp then bits ||| 2 ^ (c.val % 8) else bits &&& (255 - 2 ^ (c.val % 8))

/-- A clamp as it is shown in the registers of its half and in its channel. -/
def State.clampShown (s : State) (c : ChIx) (clamp : Bool) : State :=
  let u := s.setB (F.THR_NOW_CLAMP c.val) clamp
  (u.setF (F.THR_HSTAT_CLAMPS (halfOf c).val) (u.clampsWith c clamp)).updChan c fun x => { x with clampEp := clamp }

theorem clampSample_eq (s : State) (c : ChIx) (clamp : Bool) : s.clampSample c clamp =
    ((s.clampShown c clamp).whenB clamp fun s => s.thrFlag c (F.THR_FLAGS_CLAMP_SEEN c.val)).whenB (clamp && !(s.chan c).clampEp) fun s =>
      s.raise (srcTHR (halfOf c).val) kThrClamp (faultAddr 63 c.val) := rfl

/-- A clamp is told at the start of its episode (R166). -/
theorem sm_clampTold (s u : State) (d : ChIx) (clamp : Bool) : Sampling c u
    ((u.whenB clamp fun s => s.thrFlag d (F.THR_FLAGS_CLAMP_SEEN d.val)).whenB (clamp && !(s.chan d).clampEp) fun s =>
      s.raise (srcTHR (halfOf d).val) kThrClamp (faultAddr 63 d.val)) := by
  obtain ⟨-, -, -, -, -, -, seen⟩ := harmless_sample c d
  have flag : Sampling c u (u.whenB clamp fun s => s.thrFlag d (F.THR_FLAGS_CLAMP_SEEN d.val)) := sm_ite (sm_thrFlag u d _ seen) (sm_refl u)
  exact sm_ite (sm_step (sm_raise ..) flag) flag

theorem sm_clampShown (s : State) (d : ChIx) (clamp : Bool) (n : d ≠ c) : Sampling c s (s.clampShown d clamp) := by
  unfold State.clampShown
  exact sm_step (sm_updChan _ d _ fun e => absurd e n) (sm_step (sm_setF _ _ _ (harmless_half c _)) (sm_setB s _ _ (harmless_clamp n)))

theorem sm_takeSmp (s : State) (d : ChIx) (m : Smp) (closed : Nat) (n : d ≠ c) : Sampling c s (s.takeSmp d m closed) := by
  unfold State.takeSmp
  exact sm_updChan s d _ fun e => absurd e n

theorem takeCh_other (s : State) (d : ChIx) (w : Win) (n : d ≠ c) : Sampling c s (s.takeCh d w) := by
  have clamp : Sampling c s (s.clampSample d (w.chans.getD (d.val % 8) {}).clamp) := by
    rw [clampSample_eq]
    exact sm_step (sm_clampTold s _ d _) (sm_clampShown s d _ n)
  rw [takeCh_eq]
  generalize s.clampSample d _ = u at clamp
  exact sm_step (sm_syncChan _ d) (sm_step (sm_takeSmp _ d _ _ n) (sm_step (sm_noted u d w) clamp))

/-- What the sample of a channel brings about in it. -/
structure SampleTaken (s : State) (c : ChIx) (w : Win) (t : State) : Prop where
  /-- one more sample -/
  count : (t.chan c).fCount = (s.chan c).fCount + 1
  /-- the sample -/
  smp : (t.chan c).smp = (w.chans.getD (c.val % 8) {}).smp w.spare
  /-- the clamp shown -/
  clamp : t.flag (F.THR_NOW_CLAMP c.val) = (w.chans.getD (c.val % 8) {}).clamp
  /-- the clamp told -/
  told : (w.chans.getD (c.val % 8) {}).clamp = true → (s.chan c).clampEp = false →
    Told s.swath (srcTHR (halfOf c).val) kThrClamp (faultAddr 63 c.val) t

theorem gauge_eq {x y : Chan} (e : x.gauge = y.gauge) : x.fCount = y.fCount ∧ x.smp = y.smp ∧ x.clampEp = y.clampEp := by
  simpa only [Chan.gauge, Prod.mk.injEq] using e

theorem thr_known (h : HalfIx) : known (srcTHR h.val) kThrClamp = true := by
  revert h
  decide

theorem swath_apart (c : ChIx) : Reg.TB_SWATH_LO ≠ Reg.THR_NOW c.val ∧ Reg.TB_SWATH_HI ≠ Reg.THR_NOW c.val := by
  revert c
  decide

theorem updChan_frame (s : State) (c : ChIx) (f : Chan → Chan) (g : Fld) : (s.updChan c f).flag g = s.flag g ∧ (s.updChan c f).swath = s.swath :=
  ⟨rfl, rfl⟩

theorem clampShown_spec (s : State) (c : ChIx) (clamp : Bool) : ((s.clampShown c clamp).chan c).fCount = (s.chan c).fCount ∧
    (s.clampShown c clamp).flag (F.THR_NOW_CLAMP c.val) = clamp ∧ (s.clampShown c clamp).swath = s.swath := by
  have set : (s.setB (F.THR_NOW_CLAMP c.val) clamp).flag (F.THR_NOW_CLAMP c.val) = clamp :=
    State.flag_setB_same s (F.THR_NOW_CLAMP c.val) clamp rfl (by decide : (2 : Nat) < 32)
  have swath : (s.setB (F.THR_NOW_CLAMP c.val) clamp).swath = s.swath := by
    unfold State.swath State.pairReg
    rw [reg_setB_ne _ _ _ _ (swath_apart c).1, reg_setB_ne _ _ _ _ (swath_apart c).2]
  have chan : (s.setB (F.THR_NOW_CLAMP c.val) clamp).chan c = s.chan c := rfl
  unfold State.clampShown
  generalize s.setB (F.THR_NOW_CLAMP c.val) clamp = u at set swath chan
  have half := sm_setF (c := c) u (F.THR_HSTAT_CLAMPS (halfOf c).val) (u.clampsWith c clamp) (harmless_half c _)
  dsimp only
  generalize u.setF (F.THR_HSTAT_CLAMPS (halfOf c).val) (u.clampsWith c clamp) = v at half
  obtain ⟨flag, swath'⟩ := updChan_frame v c (fun x => { x with clampEp := clamp }) (F.THR_NOW_CLAMP c.val)
  refine ⟨?_, flag.trans (half.clamp.trans set), swath'.trans (half.swath.trans swath)⟩
  have count : (v.chan c).fCount = (u.chan c).fCount := (gauge_eq half.gauge).1
  rw [chan_updChan_same, ← chan]
  exact count

theorem takeCh_taken (s : State) (c : ChIx) (w : Win) : SampleTaken s c w (s.takeCh c w) := by
  obtain ⟨count, shown, swath⟩ := clampShown_spec s c (w.chans.getD (c.val % 8) {}).clamp
  have told : (w.chans.getD (c.val % 8) {}).clamp = true → (s.chan c).clampEp = false →
      Told s.swath (srcTHR (halfOf c).val) kThrClamp (faultAddr 63 c.val) (s.clampSample c (w.chans.getD (c.val % 8) {}).clamp) := by
    intro clamp fresh
    obtain ⟨-, -, -, -, -, -, seen⟩ := harmless_sample c c
    rw [clampSample_eq, State.whenB_true _ _ (by rw [clamp, fresh]; rfl), clamp, State.whenB_true _ _ rfl]
    rw [clamp] at swath
    have flag := sm_thrFlag (c := c) (s.clampShown c true) c (F.THR_FLAGS_CLAMP_SEEN c.val) seen
    rw [← swath, ← flag.swath]
    exact told_raise (thr_known _)
  have rest : Sampling c (s.clampShown c (w.chans.getD (c.val % 8) {}).clamp) (s.clampSample c (w.chans.getD (c.val % 8) {}).clamp) := by
    rw [clampSample_eq]
    exact sm_clampTold ..
  have noted := sm_noted (c := c) (s.clampSample c (w.chans.getD (c.val % 8) {}).clamp) c w
  have before := sm_step noted rest
  rw [takeCh_eq]
  generalize (s.clampSample c (w.chans.getD (c.val % 8) {}).clamp).noted c w = v at noted before
  have sync := sm_syncChan (c := c) (v.takeSmp c ((w.chans.getD (c.val % 8) {}).smp w.spare) w.closed) c
  have chan : ((v.takeSmp c ((w.chans.getD (c.val % 8) {}).smp w.spare) w.closed).chan c).fCount = (v.chan c).fCount + 1 ∧
      ((v.takeSmp c ((w.chans.getD (c.val % 8) {}).smp w.spare) w.closed).chan c).smp = (w.chans.getD (c.val % 8) {}).smp w.spare := by
    unfold State.takeSmp
    rw [chan_updChan_same]
    exact ⟨rfl, rfl⟩
  obtain ⟨count', smp', -⟩ := gauge_eq sync.gauge
  refine ⟨?_, smp'.trans chan.2, ?_, fun clamp fresh => ?_⟩
  · rw [count', chan.1, (gauge_eq before.gauge).1, count]
  · exact sync.clamp.trans (before.clamp.trans shown)
  · exact sync.told (told_only (State.updChan_only ..) (by decide) (by decide) (noted.told (told clamp fresh)))

theorem SampleTaken.around {w : Win} (i : Sampling c s t) (x : SampleTaken t c w u) {v : State} (j : Sampling c u v) : SampleTaken s c w v := by
  obtain ⟨count, -, ep⟩ := gauge_eq i.gauge
  obtain ⟨count', smp', -⟩ := gauge_eq j.gauge
  refine ⟨?_, smp'.trans x.smp, j.clamp.trans x.clamp, fun clamp fresh => ?_⟩
  · rw [count', x.count, count]
  · rw [← i.swath]
    exact j.told (x.told clamp (ep.trans fresh))

/-! ## The window of a half -/

theorem takeChs_taken (s : State) (h : HalfIx) (w : Win) (c : ChIx) (m : c ∈ chOf h) :
    SampleTaken s c w ((chOf h).foldl (fun (s : State) c => s.takeCh c w) s) := by
  obtain ⟨u, before, after⟩ := (foldl_once (R := Sampling c) (f := fun (s : State) (d : ChIx) => s.takeCh d w) sm_refl sm_step
    (fun u d n => takeCh_other u d w n) (chOf h) s).2 (chOf_nodup h) m
  exact SampleTaken.around before (takeCh_taken u c w) after

theorem takeWin_old (s : State) (h : HalfIx) (rx : Nat → ChWin → ChWin) (x : Win) (at_ : (s.half h).winOld = some x) (fresh : x.taken = false)
    (runs : s.thrRuns = true) : s.takeWin h true rx = (chOf h).foldl (fun (s : State) c =>
      s.takeCh c { x with chans := x.chans.mapIdx rx, spare := rx 8 x.spare }) (s.updHalf h fun y => y.winDone true) := by
  unfold State.takeWin
  simp only [if_true, Half.winAt, at_, fresh, Bool.false_eq_true, if_false]
  exact State.whenB_true _ _ runs

theorem takeWin_taken (s : State) (h : HalfIx) (rx : Nat → ChWin → ChWin) (x : Win) (at_ : (s.half h).winOld = some x) (fresh : x.taken = false)
    (eight : x.chans.length = 8) (runs : s.thrRuns = true) (c : ChIx) (m : c ∈ chOf h) :
    ((s.takeWin h true rx).chan c).fCount = (s.chan c).fCount + 1 ∧
      ((s.takeWin h true rx).chan c).smp = (rx (c.val % 8) (x.chans.getD (c.val % 8) {})).smp (rx 8 x.spare) ∧
      (s.takeWin h true rx).flag (F.THR_NOW_CLAMP c.val) = (rx (c.val % 8) (x.chans.getD (c.val % 8) {})).clamp ∧
      ((rx (c.val % 8) (x.chans.getD (c.val % 8) {})).clamp = true → (s.chan c).clampEp = false →
        Told s.swath (srcTHR h.val) kThrClamp (faultAddr 63 c.val) (s.takeWin h true rx)) := by
  have taken := takeChs_taken (s.updHalf h fun y => y.winDone true) h { x with chans := x.chans.mapIdx rx, spare := rx 8 x.spare } c m
  have place : c.val % 8 < x.chans.length := by omega
  have at8 : (x.chans.mapIdx rx).getD (c.val % 8) {} = rx (c.val % 8) (x.chans.getD (c.val % 8) {}) := by
    rw [List.getD_eq_getElem?_getD, List.getD_eq_getElem?_getD, List.getElem?_mapIdx, List.getElem?_eq_getElem place]
    rfl
  rw [← takeWin_old s h rx x at_ fresh runs] at taken
  obtain ⟨count, smp, clamp, told⟩ := taken
  rw [at8] at smp clamp told
  rw [halfOf_of_mem c h m] at told
  exact ⟨count, smp, clamp, told⟩

end

end Sys2Proof.Machine
end

section
/-!
PROOFS. What a boundary has gathered into the pipeline (R48, R212, R249): after it the causes of a suspension grow, and the forced entries are
kept; nothing else of it changes until Thresh ends.
-/
namespace Sys2Proof.Machine

/-- The pipeline but for the causes of a suspension and the forced entries. -/
def Pipe.gathered (x : Pipe) : Pipe := { x with now := 0, next := 0, reacted := false, forced := [] }

/-- What the boundary gathered stands. -/
def Gathered (s t : State) : Prop := t.pipe.gathered = s.pipe.gathered

section
variable {s t u : State}

/-! ## Rules -/

theorem ga_refl (s : State) : Gathered s s := rfl

theorem ga_step (k : Gathered t u) (h : Gathered s t) : Gathered s u := Eq.trans k h

theorem ga_only {ps : List Part} (o : OnlyChanges ps t u) (h : Gathered s t) (n : ps.contains .pipe = false := by rfl) : Gathered s u :=
  ga_step (congrArg Pipe.gathered (o.same .pipe (by simpa using n))) h

/-- The Fault Collector, the host port and BOOT hold none of it. -/
theorem ga_fc {v : Fc} (h : Gathered s t) : Gathered s { t with fc := v } := h

theorem ga_hp {v : Hp} (h : Gathered s t) : Gathered s { t with hp := v } := h

theorem ga_boot {v : Boot} (h : Gathered s t) : Gathered s { t with boot := v } := h

theorem ga_ite {c : Prop} [Decidable c] (h : Gathered s t) (k : Gathered s u) : Gathered s (if c then t else u) := by
  split <;> assumption

theorem ga_whenB {b : Bool} {f : State → State} (k : Gathered s (f s)) : Gathered s (s.whenB b f) := ga_ite k (ga_refl s)

theorem ga_foldl {α : Type} {f : State → α → State} {xs : List α} (k : ∀ u x, Gathered u (f u x)) (h : Gathered s t) : Gathered s (xs.foldl f t) := by
  induction xs generalizing t with
  | nil => exact h
  | cons x xs ih => exact ih (ga_step (k t x) h)

variable (s)

/-! ## Raising a fault -/

theorem State.causeNow_ga (n : Nat) : Gathered s (s.causeNow n) := rfl

theorem State.suspendReact_ga : Gathered s s.suspendReact := rfl

theorem State.react_ga (src kind addr cls : Nat) (auto : Bool) (msg : Word) : Gathered s (s.react src kind addr cls auto msg) := by
  unfold State.react
  dsimp only
  have latched : Gathered s (s.latchChannels (s.targetChannels src kind addr) src kind auto) := ga_only (State.latchChannels_only ..) (ga_refl s)
  generalize s.latchChannels (s.targetChannels src kind addr) src kind auto = t at latched
  refine ga_ite (ga_refl s) (ga_ite (ga_refl s) (ga_step (ga_ite (ga_only (State.syncFc_only _) (ga_fc (ga_refl t))) ?_) latched))
  have suspended : Gathered t (if cls ≥ clsHALF then (t.suspendReact.endDrive.disarm (t.targetHalves src)).markPending (t.targetHalves src) auto else t) :=
    ga_ite (ga_only (State.markPending_only ..) (ga_only (State.disarm_only ..) (ga_only (State.endDrive_only _) t.suspendReact_ga))) (ga_refl t)
  refine ga_only (State.syncFc_only _) (ga_step (ga_ite ?_ (ga_ite ?_ (ga_refl _))) suspended)
  · exact ga_only (State.deviceSafe_only ..) (ga_refl _)
  · exact ga_only (State.resetReact_only ..) (ga_refl _)

theorem State.raiseCore_ga (src kind addr : Nat) (forced rehearsal : Bool) : Gathered s (s.raiseCore src kind addr forced rehearsal) := by
  unfold State.raiseCore
  split
  · exact ga_refl s
  · have counted : Gathered s (s.countSource src kind) := ga_only (State.countSource_only ..) (ga_refl s)
    dsimp only
    generalize s.countSource src kind = t at counted
    exact ga_ite (ga_fc counted) (ga_step (State.react_ga ..) (ga_fc counted))

theorem State.raiseWith_ga (src kind addr : Nat) (forced rehearsal : Bool) : Gathered s (s.raiseWith src kind addr forced rehearsal) := by
  have ends (u : State) : Gathered u (u.recfgCancelFor 0x21) :=
    ga_ite (ga_step (State.raiseCore_ga ..) (ga_only (State.setRecfg_only ..) (ga_refl u))) (ga_refl u)
  exact ga_whenB (ga_ite (ga_step (ends _) (s.raiseCore_ga src kind addr forced rehearsal)) (s.raiseCore_ga src kind addr forced rehearsal))

theorem State.raise_ga (src kind addr : Nat) : Gathered s (s.raise src kind addr) := State.raiseWith_ga ..

theorem State.raiseOnce_ga (src kind addr : Nat) : Gathered s (s.raiseOnce src kind addr) := by
  unfold State.raiseOnce State.raiseByRule
  split
  · exact State.raiseWith_ga ..
  · exact ga_ite (ga_refl s) (ga_step (State.raiseWith_ga ..) (ga_fc (ga_refl s)))

/-! ## The rings -/

theorem ga_placeEntry (c : CribIx) (tag : Nat) (ws : List Word) {drop refuse : State → State} (drops : ∀ u, Gathered u (drop u))
    (refuses : ∀ u, Gathered u (refuse u)) : Gathered s (s.placeEntry c tag ws drop refuse) := by
  have store (u : State) : Gathered u (u.storeEntry c tag ws) := ga_only (State.storeEntry_only ..) (ga_refl u)
  have sync (u : State) : Gathered u (u.syncCrib c) := ga_only (State.syncCrib_only ..) (ga_refl u)
  have next : Gathered s (s.setReg (Reg.CRIB_CONS c.val) (s.reg (Reg.CRIB_CONS c.val) + 1)) := ga_only (State.setReg_only ..) (ga_refl s)
  unfold State.placeEntry
  dsimp only
  refine ga_ite (ga_refl s) (ga_ite (ga_step (sync _) (store s)) ?_)
  split
  · exact ga_ite (drops s) (ga_step (sync _) (ga_step (drops _) (ga_step (store _) next)))
  · exact refuses s
  · exact drops s

theorem State.countDrop_ga (c : CribIx) : Gathered s (s.countDrop c) :=
  ga_step (State.raiseOnce_ga ..) (ga_step (State.causeNow_ga _ cCRIB) (ga_only (State.addF_only s ..) (ga_refl s)))

theorem State.countOver_ga (c : CribIx) : Gathered s (s.countOver c) := ga_step (State.raise_ga ..) (ga_only (State.addF_only s ..) (ga_refl s))

theorem State.putEntry_ga (c : CribIx) (tag : Nat) (ws : List Word) : Gathered s (s.putEntry c tag ws) :=
  ga_placeEntry s c tag ws (fun u => u.countDrop_ga c) (fun u => u.countOver_ga c)

theorem State.produce_ga (c : CribIx) (ws : List Word) : Gathered s (s.produce c ws) := ga_only (State.publish_only ..) (s.putEntry_ga c tagDirect ws)

theorem State.sumPeriod_ga (c : ChIx) (period : Bool) : Gathered s (s.sumPeriod c period) := ga_ite (State.produce_ga ..) (ga_refl s)

theorem State.summarise_ga (c : ChIx) (period : Bool) : Gathered s (s.summarise c period) :=
  ga_ite (ga_step (State.produce_ga ..) (s.sumPeriod_ga c period)) (s.sumPeriod_ga c period)

theorem State.pushWords_ga (c : CribIx) (ws : List Word) : Gathered s (s.pushWords c ws) :=
  ga_only (State.publish_only ..) (ga_foldl (fun u e => u.putEntry_ga c tagDirect e) (ga_refl s))

/-! ## The host port -/

theorem State.hpFault_ga (kind code : Nat) : Gathered s (s.hpFault kind code) := State.raiseOnce_ga ..

theorem State.countStatus_ga (code : Nat) (off : Bool) : Gathered s (s.countStatus code off) := by
  have counted (u : State) (f : Fld) : Gathered u (u.addF f 1) := ga_only (State.addF_only ..) (ga_refl u)
  have told (u : State) (f : Fld) (kind code : Nat) : Gathered u ((u.addF f 1).hpFault kind code) := ga_step (State.hpFault_ga ..) (counted u f)
  unfold State.countStatus
  dsimp only
  refine ga_step (t := match code with
    | 3 => (s.addF F.HP_COUNTS_LATE 1).hpFault kHpLate 3
    | 4 => (s.addF F.HP_COUNTS_BAD_HEADER 1).hpFault kHpFrame 4
    | 6 => (s.addF F.HP_COUNTS_SEAL_FAIL 1).hpFault kHpSeal 6
    | 7 => s.addF F.HP_COUNTS2_BUSY_TIMEOUT 1
    | 9 => (s.addF F.HP_COUNTS2_QUEUE_FULL 1).hpFault kHpLate 9
    | _ => s) (ga_ite (told _ _ _ _) (ga_refl _)) ?_
  split
  · exact told s _ _ _
  · exact told s _ _ _
  · exact told s _ _ _
  · exact counted s _
  · exact told s _ _ _
  · exact ga_refl s

theorem State.endTx_ga (op : BitVec 8) (h : HostHdr) (code words : Nat) (off : Bool) (wait : Nat) : Gathered s (s.endTx op h code words off wait) := by
  have field {s : State} (u : State) (f : Fld) (v : Nat) (h : Gathered s u) : Gathered s (u.setF f v) := ga_only (State.setF_only ..) h
  have host {s : State} (u : State) (k n : Nat) (h : Gathered s u) : Gathered s (u.pcHost k n) := ga_only (State.pcHost_only ..) h
  have last := field _ F.HP_STATUS_LAST_OP op.toNat (field s F.HP_STATUS_LAST_CODE code (ga_refl s))
  unfold State.endTx
  dsimp only
  generalize (s.setF F.HP_STATUS_LAST_CODE code).setF F.HP_STATUS_LAST_OP op.toNat = t at last
  have failed : Gathered s (if code == 0 then t
      else ((t.setF F.HP_LAST_ERR_CODE code).setF F.HP_LAST_ERR_ADDR h.addr.toNat).setReg Reg.HP_LAST_ERR_SWATH t.swath32) :=
    ga_ite last (ga_only (State.setReg_only ..) (field _ _ _ (field _ _ _ last)))
  generalize (if code == 0 then t
      else ((t.setF F.HP_LAST_ERR_CODE code).setF F.HP_LAST_ERR_ADDR h.addr.toNat).setReg Reg.HP_LAST_ERR_SWATH t.swath32) = u at failed
  have waited : Gathered s ((u.pcHost 0 1).countWait wait) := ga_only (State.countWait_only ..) (host u 0 1 failed)
  exact ga_step (State.countStatus_ga ..) (ga_ite (host _ _ _ waited) (ga_ite waited (host _ _ _ waited)))

theorem State.fullTx_ga (op : BitVec 8) (h : HostHdr) (id : Word) (code words : Nat) (off : Bool) (wait : Nat) (body : List Word) :
    Gathered s (s.fullTx op h id code words off wait body) :=
  ga_step (State.endTx_ga ..) (ga_only (State.sealSent_only ..) (ga_only (State.respond_only s ..) (ga_refl s)))

theorem State.nvmTake_ga (h : HostHdr) (id : Word) (ws : List Word) (wait : Nat) : Gathered s (s.nvmTake h id ws wait) := by
  unfold State.nvmTake
  dsimp only
  exact ga_step (State.fullTx_ga ..) (ga_only (State.setF_only ..) (ga_boot (ga_only (State.setSlot_only ..) (ga_refl s))))

theorem State.retryWrite_ga (w : HeldWrite) : Gathered s (s.retryWrite w) := by
  unfold State.retryWrite
  dsimp only
  split
  · next c _ =>
    refine ga_ite (State.fullTx_ga ..) (ga_ite ?_ (ga_ite (State.fullTx_ga ..) (ga_hp (ga_refl s))))
    exact ga_step (State.fullTx_ga ..) (s.pushWords_ga c w.words)
  · exact ga_ite (ga_step (State.endTx_ga ..) (ga_only (State.respond_only s ..) (ga_refl s)))
      (ga_ite (State.nvmTake_ga ..) (ga_ite (State.fullTx_ga ..) (ga_hp (ga_refl s))))

theorem State.retryWrites_ga : Gathered s s.retryWrites :=
  ga_only (State.syncStalled_only ..) (ga_foldl (fun u w => u.retryWrite_ga w) (ga_hp (ga_refl s)))

/-! ## What has been sent or emitted takes effect -/

theorem State.oweDrop_ga (p : PairIx) (c : CribIx) (kind : Nat) : Gathered s (s.oweDrop p c kind) :=
  ga_only (State.updPair_only ..) (ga_step (ga_whenB (State.causeNow_ga ..)) (ga_only (State.addF_only s ..) (ga_refl s)))

theorem State.placeDue_ga (n : Nat) : Gathered s (s.placeDue n) := by
  unfold State.placeDue
  dsimp only
  refine ga_ite (ga_refl s) (ga_foldl (fun u x => ?_) (ga_foldl (fun u p => ga_only (State.updPair_only ..) (ga_refl u)) (ga_refl s)))
  split
  · exact ga_placeEntry u _ _ _ (fun v => v.oweDrop_ga _ _ _) (fun v => v.oweDrop_ga _ _ _)
  · exact ga_refl u

theorem State.drainTo_ga (n : Nat) : Gathered s (s.drainTo n) := by
  unfold State.drainTo
  refine ga_step (State.placeDue_ga ..) (ga_foldl (fun u p => ?_) (ga_refl s))
  split
  · exact ga_ite (ga_only (State.dropEmits_only ..) (u.placeDue_ga _)) (ga_refl u)
  · exact ga_refl u

theorem State.cutTx_ga : Gathered s s.cutTx :=
  ga_step (State.hpFault_ga ..) (ga_only (State.pcHost_only ..) (ga_only (State.addF_only s ..) (ga_refl s)))

theorem State.sendEnd_ga (x : Sending) : Gathered s (s.sendEnd x) := by
  unfold State.sendEnd
  have sent : Gathered s (s.sendSeal x).2 := ga_only (State.sendSeal_only ..) (ga_refl s)
  generalize s.sendSeal x = r at sent
  obtain ⟨x, t⟩ := r
  dsimp only
  split
  · exact ga_step (State.cutTx_ga _) (ga_only (State.countWait_only ..) (ga_only (State.unlatchAll_only ..) sent))
  · refine ga_step (State.endTx_ga ..) (ga_only (State.respond_only ..) ?_)
    split
    · exact ga_only (State.popDone_only ..) sent
    · exact ga_foldl (fun u a => ga_only (State.readDone_only ..) (ga_refl u)) sent

theorem State.sendTo_ga (n : Nat) : Gathered s (s.sendTo n) := by
  have sealed_ : Gathered s (s.sealTo n) := ga_only (State.sealTo_only ..) (ga_refl s)
  unfold State.sendTo
  dsimp only
  refine ga_ite sealed_ (ga_foldl (fun u x => ga_step (State.sendEnd_ga ..) (u.drainTo_ga _)) (ga_hp sealed_))

theorem State.catchUp_ga (n : Nat) : Gathered s (s.catchUp n) := ga_step (State.drainTo_ga ..) (s.sendTo_ga n)

/-! ## Errors of the memory, and the reads that waited -/

theorem State.journalFail_ga (reason : Nat) : Gathered s (s.journalFail reason) :=
  ga_step (State.raise_ga ..) (ga_ite (ga_only (State.addF_only s ..) (ga_refl s)) (ga_refl s))

theorem State.stagingLost_ga : Gathered s s.stagingLost := by
  unfold State.stagingLost
  have drawn : Gathered s s.drawBit.2 := ga_only (State.drawBit_only s) (ga_refl s)
  generalize s.drawBit = r at drawn
  obtain ⟨tree, t⟩ := r
  exact ga_step (State.journalFail_ga ..) (ga_only (State.updSr_only ..) (ga_only (State.dropTrees_only ..) drawn))

theorem State.eccDamage_ga (a : Nat) : Gathered s (s.eccDamage a) := by
  unfold State.eccDamage
  split
  · split
    · exact ga_only (State.updCrib_only ..) (ga_only (State.writeWords_only ..) (ga_refl s))
    · exact ga_refl s
  · split
    · exact ga_only (State.dropData_only ..) (ga_refl s)
    · exact ga_refl s
  · exact s.stagingLost_ga
  · exact ga_only (State.writeWords_only ..) (ga_refl s)
  · exact ga_refl s

theorem State.eccUncorr_ga (a : Nat) : Gathered s (s.eccUncorr a) := by
  have shown : Gathered s ((s.setF F.GRN_ECC_ADDR_AREA (areaOf a)).setF F.GRN_ECC_ADDR_ADDR a) :=
    ga_only (State.setF_only ..) (ga_only (State.setF_only ..) (ga_refl s))
  exact ga_ite (ga_step (State.raise_ga ..) shown) (ga_step (State.raise_ga ..) (ga_only (State.addF_only ..) shown))

theorem State.eccAt_ga (a : Nat) (uncorr : Bool) : Gathered s (s.eccAt a uncorr) :=
  ga_ite (ga_step (State.eccDamage_ga ..) (s.eccUncorr_ga a)) (ga_step (State.raiseOnce_ga ..) (ga_only (State.addF_only s ..) (ga_refl s)))

theorem State.send_ga (x : Sending) : Gathered s (s.send x) := by
  have sent : Gathered s (s.sendSeal x).2 := ga_only (State.sendSeal_only ..) (ga_refl s)
  exact ga_ite (s.sendEnd_ga x) (ga_ite (ga_hp sent) (ga_hp (ga_refl s)))

theorem State.runRead_ga (id : Word) (r : HeldRead) : Gathered s (s.runRead id r) := by
  unfold State.runRead
  dsimp only
  refine ga_step (State.send_ga ..) (ga_step (State.catchUp_ga ..) (ga_only (State.elapse_only ..) (ga_only (State.rcMark_only ..) (ga_step (State.catchUp_ga ..) ?_))))
  exact ga_foldl (fun u e => ga_ite (u.eccAt_ga _ _) (ga_refl u)) (ga_refl s)

theorem State.runReads_ga : Gathered s s.runReads := ga_foldl (fun u r => u.runRead_ga _ r) (ga_hp (ga_refl s))

end

end Sys2Proof.Machine
end

section
/-!
PROOFS. Thresh for one channel (R143, R149, R157): its banks and its entry, and what is left of another channel and of the level of the fabric.
-/
namespace Sys2Proof.Machine

/-! ## The level of the fabric (R240) -/

/-- The register that shows the level. -/
def levelReg (a : Nat) : Bool := a == Reg.PWR_STATUS

section
variable {K : Nat → Bool} {s t : State}

theorem level_of (h : KeepsRegs K s t) (k : K Reg.PWR_STATUS = true) : KeepsRegs levelReg s t :=
  ⟨fun a e => h.same a (beq_iff_eq.mp e ▸ k)⟩

theorem level_faults (h : FaultRegsOnly s t) : KeepsRegs levelReg s t :=
  ⟨fun a e => h.same a (beq_iff_eq.mp e ▸ by decide)⟩

theorem level_news (f : Fld) : levelReg f.news.reg = false := by
  have apart : f.reg + newsBase ≠ Reg.PWR_STATUS := by
    unfold newsBase Reg.PWR_STATUS
    omega
  simpa [levelReg, Fld.news] using apart

theorem level_crib (c : CribIx) : levelReg (Reg.CRIB_CONS c.val) = false ∧ levelReg (Reg.CRIB_PROD c.val) = false ∧
    levelReg (Reg.CRIB_OVF c.val) = false ∧ levelReg (Reg.CRIB_STATUS c.val) = false := by
  revert c
  decide

end

section
variable (s : State)

theorem syncCrib_level (c : CribIx) : KeepsRegs levelReg s (s.syncCrib c) := by
  obtain ⟨-, -, -, stat⟩ := level_crib c
  unfold State.syncCrib
  repeat' first
    | with_reducible exact kr_refl _ | exact stat | with_reducible apply kr_setB | with_reducible apply kr_setF

theorem publish_level (c : CribIx) (tag : Nat) : KeepsRegs levelReg s (s.publish c tag) := by
  obtain ⟨-, prod, -⟩ := level_crib c
  unfold State.publish
  dsimp only
  refine kr_step (syncCrib_level _ c) (kr_setReg prod (kr_only (State.updCrib_only ..) (by decide) ?_))
  exact kr_ite (kr_refl s) (kr_only (State.layEntries_only ..) (by decide) (kr_refl s))

theorem countDrop_level (c : CribIx) : KeepsRegs levelReg s (s.countDrop c) :=
  kr_step (level_faults (fr_raiseOnce ..)) (kr_only (State.causeNow_only ..) (by decide) (kr_addF (level_crib c).2.2.1 (level_news _) (kr_refl s)))

theorem countOver_level (c : CribIx) : KeepsRegs levelReg s (s.countOver c) :=
  kr_step (level_faults (fr_raise ..)) (kr_addF (level_crib c).2.2.1 (level_news _) (kr_refl s))

theorem putEntry_level (c : CribIx) (tag : Nat) (ws : List Word) : KeepsRegs levelReg s (s.putEntry c tag ws) := by
  have store (u : State) : KeepsRegs levelReg u (u.storeEntry c tag ws) := kr_only (State.storeEntry_only ..) (by decide) (kr_refl u)
  have next : KeepsRegs levelReg s (s.setReg (Reg.CRIB_CONS c.val) (s.reg (Reg.CRIB_CONS c.val) + 1)) := kr_setReg (level_crib c).1 (kr_refl s)
  unfold State.putEntry State.placeEntry
  dsimp only
  refine kr_ite (kr_refl s) (kr_ite (kr_step (syncCrib_level _ c) (store s)) ?_)
  split
  · exact kr_ite (countDrop_level s c) (kr_step (syncCrib_level _ c) (kr_step (countDrop_level _ c) (kr_step (store _) next)))
  · exact countOver_level s c
  · exact countDrop_level s c

theorem produce_level (c : CribIx) (ws : List Word) : KeepsRegs levelReg s (s.produce c ws) :=
  kr_step (publish_level ..) (putEntry_level s c tagDirect ws)

theorem sumPeriod_level (c : ChIx) (period : Bool) : KeepsRegs levelReg s (s.sumPeriod c period) := kr_ite (produce_level ..) (kr_refl s)

theorem summarise_level (c : ChIx) (period : Bool) : KeepsRegs levelReg s (s.summarise c period) :=
  kr_ite (kr_step (produce_level ..) (sumPeriod_level s c period)) (sumPeriod_level s c period)

end

/-! ## The banks of a channel (R157-R159) -/

/-- The banks of channel `c` change: the other channels, its last sample and the level of the fabric do not. -/
structure Banks (c : ChIx) (s t : State) : Prop where
  /-- the other channels -/
  others : OtherChKept c s t
  /-- its last sample -/
  smp : (t.chan c).smp = (s.chan c).smp
  /-- the level -/
  level : KeepsRegs levelReg s t

section
variable {c : ChIx} {s t u : State}

theorem bn_refl (s : State) : Banks c s s := ⟨fun _ _ => rfl, rfl, kr_refl s⟩

theorem bn_step (k : Banks c t u) (h : Banks c s t) : Banks c s u := ⟨k.others.step h.others, k.smp.trans h.smp, kr_step k.level h.level⟩

theorem bn_ite {p : Prop} [Decidable p] (h : Banks c s t) (k : Banks c s u) : Banks c s (if p then t else u) := by
  split <;> assumption

theorem bn_setReg {a : Nat} {v : Word} (q : levelReg a = false) (h : Banks c s t) : Banks c s (t.setReg a v) :=
  ⟨h.others, h.smp, kr_setReg q h.level⟩

theorem bn_setF {f : Fld} {v : Nat} (q : levelReg f.reg = false) (h : Banks c s t) : Banks c s (t.setF f v) := bn_setReg q h

theorem bn_setB {f : Fld} {b : Bool} (q : levelReg f.reg = false) (h : Banks c s t) : Banks c s (t.setB f b) := bn_setReg q h

theorem bn_addF {f : Fld} {n : Nat} (q : levelReg f.reg = false) (h : Banks c s t) : Banks c s (t.addF f n) := bn_setF (level_news f) (bn_setF q h)

theorem bn_updChan {f : Chan → Chan} (q : ∀ x, (f x).smp = x.smp) (h : Banks c s t) : Banks c s (t.updChan c f) :=
  ⟨(otherCh_updChan t c f).step h.others, by rw [chan_updChan_same, q, h.smp], h.level.kept rfl⟩

theorem bn_thrFlag {f : Fld} (q : levelReg f.reg = false) (h : Banks c s t) : Banks c s (t.thrFlag c f) := bn_updChan (fun _ => rfl) (bn_setB q h)

theorem bn_flagged {f : Fld} {b : Bool} (q : levelReg f.reg = false) (h : Banks c s t) : Banks c s (t.whenB b fun s => s.thrFlag c f) :=
  bn_ite (bn_thrFlag q h) h

theorem publishPrec_banks (s : State) (c : ChIx) (code : Int) (qual : Nat) : Banks c s (s.publishPrec c code qual) := by
  unfold State.publishPrec
  repeat' first
    | with_reducible exact bn_refl _ | with_reducible apply bn_updChan | exact fun _ => rfl | with_reducible apply bn_setReg | with_reducible apply bn_setF
    | dsimp only | (clear * -; decide +revert)

theorem resultPrec_banks (s : State) (c : ChIx) (w : PrecWin) (word : Word) : Banks c s (s.resultPrec c w word) := by
  have flags : levelReg (Reg.THR_FLAGS c.val) = false := by
    revert c
    decide
  exact bn_step (publishPrec_banks _ c _ _) (bn_flagged flags (bn_flagged flags (bn_flagged flags (bn_flagged flags (bn_refl s)))))

theorem endPeriod_banks (s : State) (c : ChIx) (whole next : Bool) : Banks c s (s.endPeriod c whole next) := by
  unfold State.endPeriod
  repeat' first
    | with_reducible exact bn_refl _ | with_reducible apply bn_updChan | exact fun _ => rfl | with_reducible apply bn_setReg | with_reducible apply bn_setF
    | with_reducible apply bn_setB | dsimp only | (clear * -; decide +revert)

theorem fastSnapshot_banks (s : State) (c : ChIx) : Banks c s (s.fastSnapshot c) := by
  unfold State.fastSnapshot
  repeat' first
    | with_reducible exact bn_refl _ | with_reducible apply bn_setReg | with_reducible apply bn_setF | dsimp only | (clear * -; decide +revert)

/-- The precision result of a channel is published or lost (R212). -/
def State.precResult (s : State) (c : ChIx) : State :=
  match (s.chan c).res with
  | none => s
  | some w => match (s.half (halfOf c)).pGot with
    | some ws => s.resultPrec c w (ws.getD (if w.sub then 8 else c.val % 8) 0#32)
    | none => (s.addF (F.BD_LOSS_PREC_LOST (halfOf c).val) 1).updChan c fun x => { x with precLost := true }

theorem precResult_banks (s : State) (c : ChIx) : Banks c s (s.precResult c) := by
  have loss (h : HalfIx) : levelReg (Reg.BD_LOSS h.val) = false := by
    revert h
    decide
  unfold State.precResult
  split
  · exact bn_refl s
  · split
    · exact resultPrec_banks ..
    · exact bn_updChan (fun _ => rfl) (bn_addF (loss _) (bn_refl s))

theorem precThresh_banks (s : State) (c : ChIx) : Banks c s (s.precThresh c).1 := by
  have live : levelReg (Reg.THR_PB_INFO c.val) = false := by
    revert c
    decide
  unfold State.precThresh
  exact bn_setF live (bn_ite (bn_step (endPeriod_banks ..) (precResult_banks s c)) (precResult_banks s c))

/-! ## The entry of a channel (R149) -/

theorem writeChannel_level (s : State) (c : ChIx) : KeepsRegs levelReg s (s.writeChannel c) := by
  have apart : levelReg (Reg.CH_READBACK c.val) = false ∧ levelReg (Reg.CH_STATUS c.val) = false := by
    revert c
    decide
  unfold State.writeChannel
  exact (kr_setF apart.2 (kr_setReg apart.1 (kr_refl s))).kept rfl

theorem writeChannel_entry (s : State) (c : ChIx) (i : Nat) (n : i ≠ c.val) : (s.writeChannel c).entry i = s.entry i := by
  unfold State.writeChannel
  exact (entry_updEntry ..).trans (if_neg n)

theorem valueWord_input (s : State) (c : ChIx) (di : s.func c = fDI) : s.valueWord c = BitVec.ofNat 32 (b2n (s.chan c).smp.bit0 + 2 * b2n (s.chan c).smp.bit1) := by
  unfold State.valueWord
  rw [di]
  rfl

theorem cfg_apart (c : ChIx) : Reg.CH_CFG c.val ≠ Reg.CH_READBACK c.val ∧ Reg.CH_CFG c.val ≠ Reg.CH_STATUS c.val := by
  revert c
  decide

/-- The entry of a digital input takes the two bits of its last sample. -/
theorem writeChannel_input (s : State) (c : ChIx) (di : s.func c = fDI) : ((s.writeChannel c).entry c.val).value =
    BitVec.ofNat 32 (b2n (s.chan c).smp.bit0 + 2 * b2n (s.chan c).smp.bit1) := by
  obtain ⟨readback, status⟩ := cfg_apart c
  unfold State.writeChannel
  dsimp only
  have read : (s.setReg (Reg.CH_READBACK c.val) (s.readbackWord c)).func c = s.func c := func_congr rfl (State.reg_setReg_ne _ _ _ _ readback)
  generalize hu : s.setReg (Reg.CH_READBACK c.val) (s.readbackWord c) = u at read
  have chan : u.chan c = s.chan c := by rw [← hu]; rfl
  have shown (q : Nat) : (u.setF (F.CH_STATUS_QUALITY c.val) q).func c = u.func c :=
    func_congr rfl (State.reg_setF_ne u (F.CH_STATUS_QUALITY c.val) q (Reg.CH_CFG c.val) status)
  rw [entry_updEntry, if_pos rfl]
  refine Eq.trans (valueWord_input _ c ((shown _).trans (read.trans di))) ?_
  rw [chan_setF, chan]

end

end Sys2Proof.Machine
end

section
/-!
PROOFS. What Thresh does to each channel (R143, R144, R149, R157), and what it leaves of the others.
-/
namespace Sys2Proof.Machine

section
variable {c d : ChIx} {s t u : State}

/-! ## One channel (R143) -/

/-- What Thresh writes of a channel once its period has been looked at. -/
def State.threshOut (s : State) (c : ChIx) (due : Bool) : State :=
  if s.pipe.ranPrev then ((s.fastSnapshot c).writeChannel c).summarise c due else s.sumPeriod c (due && !s.tb.r63)

theorem threshCh_eq (s : State) (c : ChIx) : s.threshCh c = ((s.precThresh c).1.threshOut c (s.precThresh c).2).updChan c fun x =>
    { x.clearFast with
      res := none, clamped := false, nowB := ((s.precThresh c).1.threshOut c (s.precThresh c).2).reg (Reg.THR_NOW c.val)
      flagsB := ((s.precThresh c).1.threshOut c (s.precThresh c).2).reg (Reg.THR_FLAGS c.val)
      ovrEp := x.ovrEp && x.ovrSeen, ovrSeen := false } := rfl

theorem threshOut_chans (s : State) (c : ChIx) (due : Bool) : (s.threshOut c due).chans = s.chans := by
  have bank : (s.fastSnapshot c).chans = s.chans := (State.fastSnapshot_only s c).same .chans (by decide)
  have entry : ((s.fastSnapshot c).writeChannel c).chans = s.chans := ((State.writeChannel_only _ c).same .chans (by decide)).trans bank
  unfold State.threshOut
  split
  · exact ((State.summarise_only _ c due).same .chans (by decide)).trans entry
  · exact (State.sumPeriod_only s c _).same .chans (by decide)

theorem threshOut_ga (s : State) (c : ChIx) (due : Bool) : Gathered s (s.threshOut c due) :=
  ga_ite (ga_step (State.summarise_ga ..) (ga_only (State.writeChannel_only ..) (ga_only (State.fastSnapshot_only s c) (ga_refl s)))) (s.sumPeriod_ga c _)

theorem threshOut_level (s : State) (c : ChIx) (due : Bool) : KeepsRegs levelReg s (s.threshOut c due) :=
  kr_ite (kr_step (summarise_level ..) (kr_step (writeChannel_level ..) (fastSnapshot_banks s c).level)) (sumPeriod_level s c _)

theorem entry_only {ps : List Part} (o : OnlyChanges ps s t) (n : ps.contains .sig = false) (i : Nat) : t.entry i = s.entry i :=
  congrArg (Sparse.get sigDefault · i) (o.same .sig (by simpa using n))

theorem threshOut_entry (s : State) (d : ChIx) (due : Bool) (i : Nat) (n : i ≠ d.val) : (s.threshOut d due).entry i = s.entry i := by
  unfold State.threshOut
  split
  · rw [entry_only (State.summarise_only ..) (by decide), writeChannel_entry _ d i n, entry_only (State.fastSnapshot_only s d) (by decide)]
  · exact entry_only (State.sumPeriod_only ..) (by decide) i

/-- Steps that leave the device alone keep the function of a channel. -/
theorem Steady.func (h : Steady {} s t) (c : ChIx) : t.func c = s.func c :=
  func_congr (by rw [((h.device rfl).halves rfl).same]) ((h.device rfl).regs _ (clockReg_cfg true c))

/-- The entry of a digital input once Thresh has written it. -/
theorem threshOut_input (s : State) (c : ChIx) (due : Bool) (ran : s.pipe.ranPrev = true) (di : s.func c = fDI) :
    ((s.threshOut c due).entry c.val).value = BitVec.ofNat 32 (b2n (s.chan c).smp.bit0 + 2 * b2n (s.chan c).smp.bit1) := by
  have func : (s.fastSnapshot c).func c = fDI := ((s.fastSnapshot_st c).func c).trans di
  have written := writeChannel_input (s.fastSnapshot c) c func
  unfold State.threshOut
  rw [if_pos ran, entry_only (State.summarise_only ..) (by decide), written, (fastSnapshot_banks s c).smp]

/-! ## Beside another channel -/

/-- Of channel `c` everything, its entry and its function stand, and what the boundary gathered. -/
structure Beside (c : ChIx) (s t : State) : Prop where
  /-- the channel -/
  chan : t.chan c = s.chan c
  /-- its entry -/
  entry : t.entry c.val = s.entry c.val
  /-- its function -/
  func : t.func c = s.func c
  /-- the pipeline -/
  gathered : Gathered s t

theorem bs_refl (s : State) : Beside c s s := ⟨rfl, rfl, rfl, ga_refl s⟩

theorem bs_step (k : Beside c t u) (h : Beside c s t) : Beside c s u :=
  ⟨k.chan.trans h.chan, k.entry.trans h.entry, k.func.trans h.func, ga_step k.gathered h.gathered⟩

theorem threshCh_ga (s : State) (c : ChIx) : Gathered s (s.threshCh c) :=
  ga_only (State.updChan_only ..) (ga_step (threshOut_ga _ c _) (ga_only (State.precThresh_only s c) (ga_refl s)))

theorem threshCh_level (s : State) (c : ChIx) : KeepsRegs levelReg s (s.threshCh c) :=
  (kr_step (threshOut_level _ c _) (precThresh_banks s c).level).kept rfl

theorem threshCh_beside (s : State) (d : ChIx) (n : d ≠ c) : Beside c s (s.threshCh d) := by
  have apart : c.val ≠ d.val := fun e => n (Fin.ext e.symm)
  refine ⟨?_, ?_, (s.threshCh_st d).func c, threshCh_ga s d⟩
  · rw [threshCh_eq, chan_updChan, if_neg (Ne.symm n)]
    exact (congrArg (·.get c) (threshOut_chans ..)).trans ((precThresh_banks s d).others c (Ne.symm n))
  · rw [threshCh_eq, entry_only (State.updChan_only ..) (by decide), threshOut_entry _ d _ _ apart]
    exact entry_only (State.precThresh_only s d) (by decide) _

/-- What Thresh leaves of a channel: nothing accumulated, no result that waits, no clamp noted. -/
def Chan.begunAgain (x : Chan) : Prop := x.fCount = 0 ∧ x.res = none ∧ x.clamped = false

theorem threshCh_begunAgain (s : State) (c : ChIx) : ((s.threshCh c).chan c).begunAgain := by
  rw [threshCh_eq, chan_updChan_same]
  exact ⟨rfl, rfl, rfl⟩

theorem threshCh_input (s : State) (c : ChIx) (ran : s.pipe.ranPrev = true) (di : s.func c = fDI) :
    ((s.threshCh c).entry c.val).value = BitVec.ofNat 32 (b2n (s.chan c).smp.bit0 + 2 * b2n (s.chan c).smp.bit1) := by
  have pipe : (s.precThresh c).1.pipe = s.pipe := (State.precThresh_only s c).same .pipe (by decide)
  have written := threshOut_input (s.precThresh c).1 c (s.precThresh c).2 (by rw [pipe, ran]) (((s.precThresh_st c).func c).trans di)
  rw [threshCh_eq, entry_only (State.updChan_only ..) (by decide), written, (precThresh_banks s c).smp]

/-- Every channel through Thresh. -/
def State.threshChs (s : State) : State := allCh.foldl (fun (s : State) c => s.threshCh c) s

theorem threshChs_channel (s : State) (c : ChIx) : (s.threshChs.chan c).begunAgain ∧ (s.pipe.ranPrev = true → s.func c = fDI →
    (s.threshChs.entry c.val).value = BitVec.ofNat 32 (b2n (s.chan c).smp.bit0 + 2 * b2n (s.chan c).smp.bit1)) := by
  have mem : c ∈ allCh := by
    revert c
    decide
  obtain ⟨u, before, after⟩ := (foldl_once (R := Beside c) (f := fun (s : State) (d : ChIx) => s.threshCh d) bs_refl bs_step
    (fun u d n => threshCh_beside u d n) allCh s).2 (by decide) mem
  refine ⟨?_, fun ran di => ?_⟩
  · have own := threshCh_begunAgain u c
    rw [← after.chan] at own
    exact own
  · have ran' : u.pipe.ranPrev = true := (seen_through Pipe.gathered Pipe.ranPrev before.gathered).trans ran
    rw [← before.chan, ← threshCh_input u c ran' (before.func.trans di), ← after.entry]
    rfl

/-! ## The internal entries and the forces (R192, R366) -/

/-- The entry of channel `c` stands, what the boundary gathered, and the level. -/
structure Inner (c : ChIx) (s t : State) : Prop where
  /-- the entry -/
  entry : t.entry c.val = s.entry c.val
  /-- the pipeline -/
  gathered : Gathered s t
  /-- the level -/
  level : KeepsRegs levelReg s t

theorem in_refl (s : State) : Inner c s s := ⟨rfl, ga_refl s, kr_refl s⟩

theorem in_step (k : Inner c t u) (h : Inner c s t) : Inner c s u :=
  ⟨k.entry.trans h.entry, ga_step k.gathered h.gathered, kr_step k.level h.level⟩

theorem in_ite {p : Prop} [Decidable p] (h : Inner c s t) (k : Inner c s u) : Inner c s (if p then t else u) := by
  split <;> assumption

theorem in_foldl {α : Type} {f : State → α → State} {xs : List α} (k : ∀ u x, Inner c u (f u x)) (h : Inner c s t) : Inner c s (xs.foldl f t) := by
  induction xs generalizing t with
  | nil => exact h
  | cons x xs ih => exact ih (in_step (k t x) h)

theorem in_updEntry (s : State) (i : Nat) (f : Entry → Entry) (n : c.val ≠ i) : Inner c s (s.updEntry i f) :=
  ⟨(entry_updEntry ..).trans (if_neg n), ga_only (State.updEntry_only ..) (ga_refl s), kr_only (State.updEntry_only ..) (by decide) (kr_refl s)⟩

theorem in_raise (s : State) (src kind addr : Nat) : Inner c s (s.raise src kind addr) :=
  ⟨entry_only (State.raise_only ..) (by decide) _, s.raise_ga src kind addr, level_faults (fr_raise ..)⟩

theorem internalResult_inner (s : State) (h : HalfIx) : Inner c s (s.internalResult h) := by
  have loss : levelReg (Reg.BD_LOSS h.val) = false := by
    revert h
    decide
  unfold State.internalResult
  split
  · exact in_refl s
  · next code v q _ =>
    have apart : c.val ≠ 32 + 8 * h.val + code := by omega
    have cleared : Inner c s (s.updHalf h fun x => { x with intRes := none }) := ⟨rfl, rfl, (kr_refl s).kept rfl⟩
    dsimp only
    generalize s.updHalf h (fun x => { x with intRes := none }) = u at cleared
    have lost : Inner c u (u.addF (F.BD_LOSS_PREC_LOST h.val) 1) :=
      ⟨entry_only (State.addF_only ..) (by decide) _, ga_only (State.addF_only ..) (ga_refl u), kr_addF loss (level_news _) (kr_refl u)⟩
    have written : Inner c s (u.updEntry (32 + 8 * h.val + code) fun e => e.write (wInt v) q u.pipe.lateB u.swath32) :=
      in_step (in_updEntry _ _ _ apart) cleared
    generalize u.updEntry (32 + 8 * h.val + code) (fun e => e.write (wInt v) q u.pipe.lateB u.swath32) = w at written
    have drifted (x : Sr) : Inner c s { w with sr := x } := ⟨written.entry, written.gathered, written.level.kept rfl⟩
    refine in_ite (in_step (in_updEntry _ _ _ apart) (in_step lost cleared)) (in_ite ?_ (in_ite (in_step (in_raise ..) written) written))
    exact in_ite (in_step (in_raise ..) (drifted _)) (drifted _)

theorem ga_forced {v : List (Nat × Word × Word × Word)} (h : Gathered s t) : Gathered s { t with pipe := { t.pipe with forced := v } } := h

theorem applyForces_ga (s : State) : Gathered s s.applyForces := by
  unfold State.applyForces
  dsimp only
  exact ga_forced (ga_foldl (fun u f => ga_only (State.updEntry_only ..) (ga_refl u)) (ga_refl s))

theorem applyForces_level (s : State) : KeepsRegs levelReg s s.applyForces := kr_only (State.applyForces_only s) (by decide) (kr_refl s)

theorem applyForces_none (s : State) (none : s.forces = []) (i : Nat) : s.applyForces.entry i = s.entry i := by
  unfold State.applyForces
  rw [none]
  rfl

end

end Sys2Proof.Machine
end

section
/-!
PROOFS. O33, the end of Thresh (R143, R224, R306): its measurements, the close of the write window, and what follows it.
-/
namespace Sys2Proof.Machine

section
variable {c : ChIx} {s t u : State}

/-! ## Before Thresh: time, and windows that no frame brought (R210, R212) -/

/-- The two bits of the last sample. -/
def Chan.inputBits (x : Chan) : Bool × Bool := (x.smp.bit0, x.smp.bit1)

/-- The bits of a channel's last sample stand, its function, what the boundary gathered, the level and the device state. -/
structure Carried (c : ChIx) (s t : State) : Prop where
  /-- the bits -/
  bits : (t.chan c).inputBits = (s.chan c).inputBits
  /-- its function -/
  func : t.func c = s.func c
  /-- the pipeline -/
  gathered : Gathered s t
  /-- the level -/
  level : KeepsRegs levelReg s t
  /-- the device state -/
  state : t.reg Reg.SYS_STATE = s.reg Reg.SYS_STATE

theorem ca_refl (s : State) : Carried c s s := ⟨rfl, rfl, ga_refl s, kr_refl s, rfl⟩

theorem ca_step (k : Carried c t u) (h : Carried c s t) : Carried c s u :=
  ⟨k.bits.trans h.bits, k.func.trans h.func, ga_step k.gathered h.gathered, kr_step k.level h.level, k.state.trans h.state⟩

theorem ca_foldl {α : Type} {f : State → α → State} {xs : List α} (k : ∀ u x, Carried c u (f u x)) (h : Carried c s t) : Carried c s (xs.foldl f t) := by
  induction xs generalizing t with
  | nil => exact h
  | cons x xs ih => exact ih (ca_step (k t x) h)

theorem lossReg_cfg (c : ChIx) : lossReg (Reg.CH_CFG c.val) = true := by
  revert c
  decide

theorem loseCh_bits (s : State) (c : ChIx) (w : Win) : ((s.loseCh c w).chan c).inputBits = (s.chan c).inputBits := by
  unfold State.loseCh State.takeSmp
  dsimp only
  rw [chan_updChan_same, chan_updChan_same, chan_updChan_same]
  rfl

theorem loseWin_bits (s : State) (h : HalfIx) (old : Bool) (c : ChIx) : ((s.loseWin h old).chan c).inputBits = (s.chan c).inputBits := by
  have lost (u : State) (w : Win) : (((chOf h).foldl (fun (s : State) c => s.loseCh c w) u).chan c).inputBits = (u.chan c).inputBits := by
    refine foldl_keeps (p := fun u => (u.chan c).inputBits) (fun v d => ?_) ..
    by_cases own : c = d
    · subst own
      exact loseCh_bits v c w
    · exact congrArg Chan.inputBits (loseCh_other v d w c own)
  unfold State.loseWin
  split
  · rfl
  · split
    · rfl
    · dsimp only
      split
      · rfl
      · exact (lost _ _).trans (congrArg Chan.inputBits (chan_addF ..))

theorem winDone_kept (x : Half) (old : Bool) : (x.winDone old).kept = x.kept := by
  cases old <;> rfl

theorem loseWin_kept (s : State) (h k : HalfIx) (old : Bool) : ((s.loseWin h old).half k).kept = (s.half k).kept := by
  by_cases own : h = k
  · subst own
    rcases (loseWin_own s h old).1 with e | e <;> rw [e]
    exact winDone_kept ..
  · rw [(loseWin_aside s k h own old).half]

theorem loseWin_carried (s : State) (h : HalfIx) (old : Bool) : Carried c s (s.loseWin h old) := by
  have regs := loseWin_regs s h old
  exact ⟨loseWin_bits s h old c, func_congr (loseWin_kept s h _ old) (regs.same _ (lossReg_cfg c)), ga_only (State.loseWin_only s h old) (ga_refl s),
    level_of regs (by decide), regs.same _ (by decide)⟩

theorem loseDue_carried (s : State) (h : HalfIx) (old : Bool) : Carried c s (s.loseDue h old) := by
  unfold State.loseDue
  split
  · split
    · exact loseWin_carried s h old
    · exact ca_refl s
  · exact ca_refl s

theorem elapse_carried (s : State) (n : Nat) : Carried c s (s.elapse n) := by
  have idle := elapse_idle s n
  have cfg : idleReg (Reg.CH_CFG c.val) = true := (idle_channel c).2.1
  exact ⟨congrArg Chan.inputBits (elapse_chan s n c), func_of (half_of_halves (elapse_halves s n) _) (idle.same _ cfg),
    ga_only (State.elapse_only s n) (ga_refl s), level_of idle (by decide), idle.same _ (by decide)⟩

/-- The windows that no frame brought are lost at both halves. -/
def State.windowsLost (s : State) : State := allHalves.foldl (fun (s : State) h => (s.loseDue h true).loseDue h false) s

theorem windowsLost_carried (s : State) : Carried c s s.windowsLost :=
  ca_foldl (fun u h => ca_step (loseDue_carried _ h false) (loseDue_carried u h true)) (ca_refl s)

/-! ## What Thresh has measured (R143) -/

/-- The channels and the internal entries. -/
def State.threshResults (s : State) : State := allHalves.foldl (fun (s : State) h => s.internalResult h) s.threshChs

theorem threshMeasured_eq (s : State) : s.threshMeasured = if s.windowsLost.isBoot then s.windowsLost else s.windowsLost.threshResults.applyForces := rfl

theorem threshResults_inner (s : State) (c : ChIx) : Inner c s.threshChs s.threshResults :=
  in_foldl (fun u h => internalResult_inner u h) (in_refl _)

theorem threshResults_chans (s : State) : s.threshResults.chans = s.threshChs.chans :=
  foldl_keeps (p := State.chans) (f := fun (s : State) h => s.internalResult h) (fun u h => (State.internalResult_only u h).same .chans (by decide)) ..

theorem threshResults_forces (s : State) : s.threshResults.forces = s.forces :=
  (foldl_keeps (p := State.forces) (f := fun (s : State) h => s.internalResult h) (fun u h => (State.internalResult_only u h).same .forces (by decide)) ..).trans
    (foldl_keeps (p := State.forces) (f := fun (s : State) c => s.threshCh c) (fun u c => (State.threshCh_only u c).same .forces (by decide)) ..)

theorem windowsLost_forces (s : State) : s.windowsLost.forces = s.forces :=
  foldl_keeps (p := State.forces) (f := fun (s : State) h => (s.loseDue h true).loseDue h false)
    (fun u h => ((State.loseDue_only _ h false).same .forces (by decide)).trans ((State.loseDue_only u h true).same .forces (by decide))) ..

theorem threshMeasured_paced (s : State) : Gathered s s.threshMeasured ∧ KeepsRegs levelReg s s.threshMeasured := by
  have lost := windowsLost_carried (c := 0) s
  have inner := threshResults_inner s.windowsLost 0
  have channels : Gathered s.windowsLost s.windowsLost.threshChs ∧ KeepsRegs levelReg s.windowsLost s.windowsLost.threshChs :=
    ⟨ga_foldl (fun u c => threshCh_ga u c) (ga_refl _), kr_foldl (fun u c => threshCh_level u c) (kr_refl _)⟩
  rw [threshMeasured_eq]
  exact ⟨ga_ite lost.gathered (ga_step (applyForces_ga _) (ga_step inner.gathered (ga_step channels.1 lost.gathered))),
    kr_ite lost.level (kr_step (applyForces_level _) (kr_step inner.level (kr_step channels.2 lost.level)))⟩

theorem threshCloses_frame (s : State) : s.threshCloses.chans = s.chans ∧ s.threshCloses.sig = s.sig ∧ s.threshCloses.pwr = s.pwr ∧
    s.threshCloses.tb.r63 = false := ⟨rfl, rfl, rfl, rfl⟩

theorem threshCloses_pipe (s : State) : s.threshCloses.pipe.window = false ∧ s.threshCloses.pipe.threshEnd = s.threshTicks := ⟨rfl, rfl⟩

/-- Of the halves alone the end of Thresh takes its P-frames. -/
theorem threshWork_keeps {β : Type} (p : State → β) (same : ∀ (u : State) (h : HalfIx), p (u.updHalf h fun x => { x with pGot := none }) = p u)
    (s : State) : p s.threshWork = p s.threshMeasured.threshCloses := by
  rw [threshWork_eq]
  exact foldl_keeps (p := p) (f := fun (s : State) h => s.updHalf h fun x => { x with pGot := none }) same _ _

theorem threshMeasured_pwr (s : State) : s.threshMeasured.pwr = s.pwr := by
  obtain ⟨-, -, pwr, -⟩ := threshCloses_frame s.threshMeasured
  rw [← pwr, ← threshWork_keeps State.pwr fun _ _ => rfl]
  exact (State.threshWork_only s).same .pwr (by decide)

/-- How long Thresh takes is known from the boundary on. -/
theorem threshMeasured_ticks (s : State) : s.threshMeasured.threshTicks = s.threshTicks := by
  obtain ⟨gathered, level⟩ := threshMeasured_paced s
  have late : s.threshMeasured.pipe.late = s.pipe.late := seen_through Pipe.gathered Pipe.late gathered
  have slow : s.threshMeasured.slowFabric = s.slowFabric := by
    unfold State.slowFabric
    rw [threshMeasured_pwr, level.fld F.PWR_STATUS_LEVEL (by decide)]
  unfold State.threshTicks
  rw [late, slow]

theorem threshMeasured_channel (s : State) (run : s.isBoot = false) (c : ChIx) : (s.threshMeasured.chan c).begunAgain ∧
    (s.pipe.ranPrev = true → s.forces = [] → s.func c = fDI → (s.threshMeasured.entry c.val).value =
      BitVec.ofNat 32 (b2n (s.chan c).smp.bit0 + 2 * b2n (s.chan c).smp.bit1)) := by
  have lost := windowsLost_carried (c := c) s
  obtain ⟨again, input⟩ := threshChs_channel s.windowsLost c
  have measured : s.threshMeasured = s.windowsLost.threshResults.applyForces := by
    rw [threshMeasured_eq, if_neg (by rw [isBoot_of_reg lost.state, run]; decide)]
  have chans : s.threshMeasured.chans = s.windowsLost.threshChs.chans := by
    rw [measured]
    exact ((State.applyForces_only _).same .chans (by decide)).trans (threshResults_chans _)
  refine ⟨?_, fun ran none di => ?_⟩
  · have same : s.threshMeasured.chan c = s.windowsLost.threshChs.chan c := congrArg (·.get c) chans
    rw [same]
    exact again
  · have none' : s.windowsLost.threshResults.forces = [] := (threshResults_forces _).trans ((windowsLost_forces s).trans none)
    have bits : (s.windowsLost.chan c).smp.bit0 = (s.chan c).smp.bit0 ∧ (s.windowsLost.chan c).smp.bit1 = (s.chan c).smp.bit1 :=
      Prod.mk.inj lost.bits
    rw [measured, applyForces_none _ none', (threshResults_inner s.windowsLost c).entry,
      input ((seen_through Pipe.gathered Pipe.ranPrev lost.gathered).trans ran) (lost.func.trans di), bits.1, bits.2]

/-! ## The write window closes (R306) -/

theorem threshWork_frame (s : State) : s.threshWork.chans = s.threshMeasured.chans ∧ s.threshWork.sig = s.threshMeasured.sig ∧
    s.threshWork.pipe.window = false ∧ s.threshWork.pipe.threshEnd = s.threshMeasured.threshTicks ∧ s.threshWork.tb.r63 = false := by
  obtain ⟨chans, sig, -, r63⟩ := threshCloses_frame s.threshMeasured
  obtain ⟨window, ends⟩ := threshCloses_pipe s.threshMeasured
  have pipe : s.threshWork.pipe = s.threshMeasured.threshCloses.pipe := threshWork_keeps State.pipe (fun _ _ => rfl) s
  have tb : s.threshWork.tb = s.threshMeasured.threshCloses.tb := threshWork_keeps State.tb (fun _ _ => rfl) s
  refine ⟨(threshWork_keeps State.chans (fun _ _ => rfl) s).trans chans, (threshWork_keeps State.sig (fun _ _ => rfl) s).trans sig, ?_, ?_, ?_⟩
  · rw [pipe, window]
  · rw [pipe, ends]
  · rw [tb, r63]

/-! ## What follows the window -/

/-- The prepared bale of a member, if it has waited for Thresh. -/
def State.baleDue (s : State) : State := if s.hp.prepare.any (fun n => decide (n ≤ s.swath)) then s.prepareBale else s

/-- What Thresh's end sets off. -/
def State.threshAfter (s : State) : State :=
  let s := s.operationsDue.noteAllBands
  let s := if s.isBoot then s else s.stackHost
  s.retryWrites.baleDue.runReads

theorem threshEnd_eq (s : State) (window : s.pipe.window = true) : s.threshEnd = (s.elapse (s.btick + s.threshTicks)).threshWork.threshAfter := by
  unfold State.threshEnd State.threshAfter State.baleDue
  rw [window, if_neg (by decide)]
  dsimp only
  generalize State.retryWrites _ = u
  cases u.hp.prepare with
  | none => rfl
  | some n => simp only [Option.any_some, decide_eq_true_eq]

theorem baleDue_only (s : State) : OnlyChanges [.hp] s s.baleDue :=
  only_ite (State.prepareBale_only s) (only_refl _ s)

/-- The parts that what follows Thresh may change. -/
def threshAfterParts : List Part := [.regs, .mem, .env, .fc, .pipe, .out, .halves, .pairs, .cribs, .boot, .recfg, .sr, .gln, .yk, .hp, .free]

theorem threshAfter_only (s : State) : OnlyChanges threshAfterParts s s.threshAfter := by
  have bands : OnlyChanges threshAfterParts s s.operationsDue.noteAllBands :=
    only_step (State.noteAllBands_only _) (by decide) (only_mono (State.operationsDue_only s) (by decide))
  unfold State.threshAfter
  dsimp only
  generalize s.operationsDue.noteAllBands = t at bands
  have stacked : OnlyChanges threshAfterParts s (if t.isBoot then t else t.stackHost) := only_ite bands (only_step (State.stackHost_only t) (by decide) bands)
  exact only_step (State.runReads_only _) (by decide) (only_step (baleDue_only _) (by decide) (only_step (State.retryWrites_only _) (by decide) stacked))

theorem threshAfter_gathered (s : State) : Gathered s s.threshAfter := by
  have bands : Gathered s s.operationsDue.noteAllBands := ga_only (State.noteAllBands_only _) (ga_only (State.operationsDue_only s) (ga_refl s))
  unfold State.threshAfter
  dsimp only
  generalize s.operationsDue.noteAllBands = t at bands
  have stacked : Gathered s (if t.isBoot then t else t.stackHost) := ga_ite bands (ga_only (State.stackHost_only t) bands)
  exact ga_step (State.runReads_ga _) (ga_only (baleDue_only _) (ga_step (State.retryWrites_ga _) stacked))

/-! ## The end of Thresh -/

/-- Thresh takes as long as the boundary found. -/
theorem elapse_ticks (s : State) (n : Nat) : (s.elapse n).threshTicks = s.threshTicks := by
  have tick := elapse_carried (c := 0) s n
  have pwr : (s.elapse n).pwr = s.pwr := (State.elapse_only s n).same .pwr (by decide)
  have late : (s.elapse n).pipe.late = s.pipe.late := seen_through Pipe.gathered Pipe.late tick.gathered
  have slow : (s.elapse n).slowFabric = s.slowFabric := by
    unfold State.slowFabric
    rw [pwr, tick.level.fld F.PWR_STATUS_LEVEL (by decide)]
  unfold State.threshTicks
  rw [late, slow]

theorem threshEnd_ends (s : State) (window : s.pipe.window = true) : s.threshEnd.pipe.window = false ∧ s.threshEnd.tb.r63 = false ∧
    s.threshEnd.pipe.threshEnd = s.threshTicks := by
  have ticks := elapse_ticks s (s.btick + s.threshTicks)
  rw [threshEnd_eq s window]
  generalize s.elapse (s.btick + s.threshTicks) = e at ticks
  obtain ⟨-, -, closed, ends, r63⟩ := threshWork_frame e
  have after := threshAfter_gathered e.threshWork
  have tb : e.threshWork.threshAfter.tb = e.threshWork.tb := (threshAfter_only e.threshWork).same .tb (by decide)
  refine ⟨(seen_through Pipe.gathered Pipe.window after).trans closed, by rw [tb, r63], ?_⟩
  exact (seen_through Pipe.gathered Pipe.threshEnd after).trans (ends.trans ((threshMeasured_ticks e).trans ticks))

theorem threshEnd_channel (s : State) (window : s.pipe.window = true) (run : s.isBoot = false) (c : ChIx) : (s.threshEnd.chan c).begunAgain ∧
    (s.pipe.ranPrev = true → s.forces = [] → s.func c = fDI → (s.threshEnd.entry c.val).value =
      BitVec.ofNat 32 (b2n (s.chan c).smp.bit0 + 2 * b2n (s.chan c).smp.bit1)) := by
  have tick := elapse_carried (c := c) s (s.btick + s.threshTicks)
  have forces : (s.elapse (s.btick + s.threshTicks)).forces = s.forces := (State.elapse_only ..).same .forces (by decide)
  rw [threshEnd_eq s window]
  generalize s.elapse (s.btick + s.threshTicks) = e at tick forces
  obtain ⟨again, input⟩ := threshMeasured_channel e ((isBoot_of_reg tick.state).trans run) c
  obtain ⟨chans, sig, -⟩ := threshWork_frame e
  have after := threshAfter_only e.threshWork
  refine ⟨?_, fun ran none di => ?_⟩
  · have same : e.threshWork.threshAfter.chan c = e.threshMeasured.chan c :=
      (chan_only after (by decide) c).trans (congrArg (·.get c) chans)
    rw [same]
    exact again
  · have same : e.threshWork.threshAfter.entry c.val = e.threshMeasured.entry c.val :=
      (entry_only after (by decide) _).trans (congrArg (Sparse.get sigDefault · c.val) sig)
    obtain ⟨bit0, bit1⟩ := Prod.mk.inj tick.bits
    rw [same, input ((seen_through Pipe.gathered Pipe.ranPrev tick.gathered).trans ran) (forces.trans none) (tick.func.trans di), bit0, bit1]

end

/-- Settles O33: each half's window by the loop that meets it once, a frame's samples by what each step leaves of a channel, and Thresh's end by
what its channels, its entries and the pipeline come through. -/
theorem fastWindowsSampleAndThreshEndCloses : Obligations.FastWindowsSampleAndThreshEndCloses := by
  unfold Obligations.FastWindowsSampleAndThreshEndCloses
  refine ⟨fun k w s => ⟨fun len opened closed length at_ => ?_, fastWindow_none⟩, ?_, fun s => ⟨fun window => ?_, fun idle => ?_⟩⟩
  · obtain ⟨t, runs, only, out, missed, shut⟩ := fastWindow_closes (w := w) length at_
    refine ⟨t, runs, only, out, missed, fun h supplied inTime => ?_⟩
    obtain ⟨currents, shown⟩ := shut h supplied inTime
    exact ⟨currents, shown.shown⟩
  · rintro h rx x s t rfl at_ fresh eight runs c m
    exact takeWin_taken s h rx x at_ fresh eight runs c m
  · obtain ⟨closed, r63, ends⟩ := threshEnd_ends s window
    refine ⟨s.threshEnd, rfl, State.threshEnd_only s, closed, r63, ends, fun run c => (threshEnd_channel s window run c).1, fun run ran none c di => ?_⟩
    exact (threshEnd_channel s window run c).2 ran none di
  · refine ⟨s.threshEnd, rfl, ?_⟩
    unfold State.threshEnd
    rw [idle]
    rfl

end Sys2Proof.Machine
end
